-- ==== Sys2Proof/Word.lean ====
section
/-!
DEFINITION. Words, bytes and the sparse tables that hold every indexed collection of the machine.

A `Tab α` is a list of (key, value) pairs with strictly rising keys in which no entry equals the
collection's default; two equal collections are therefore equal data. Memory is one of them.
-/

namespace Sys2Proof

/-- A byte. -/
abbrev Byte := BitVec 8

/-- A 64-bit word: a data-stack entry, a register, a virtual address. -/
abbrev Word := BitVec 64

/-- A sparse collection: (key, value) pairs, keys strictly rising, no value equal to the default. -/
abbrev Tab (α : Type) := List (Nat × α)

end Sys2Proof
end

