-- ==== Sys2Proof/Syntax.lean ====
section
/-!
DEFINITION. The commands of the block: one constructor per row of the table of operations and events
(spec/opcode_table.json), with the operands that the row's rules give it. No row gives bits.

Commands of three kinds stand side by side: accesses from outside (a host write, a CAN message), one
instruction of one carrel (whose number every such row carries), and events of the part's own engines
and of the physical world, whose outcome the operands name.
-/

namespace Sys2Proof

/-- Who makes a register access: the physical function, a virtual function, a carrel through a segment
that maps the device registers, the keeper, or a link item from another chip (R419, R370). -/
inductive Src where
  | pf
  | vf (f : BitVec 6)
  | carrel (c : BitVec 12)
  | keeper
  | link (chip : BitVec 12)
  deriving DecidableEq, Repr

/-- Who writes a dictionary entry: the CAN master, the PF or a VF through its window (R419, R506). -/
inductive DictSrc where
  | can
  | pf
  | vf (f : BitVec 6)
  deriving DecidableEq, Repr

/-- Error responses to a request (R35, R393, R449). -/
inductive RespErr where
  | translation | unmapped | uncorrectable | noRoute | host
  deriving DecidableEq, Repr

/-- An engine whose work has outrun its formula through a hardware fault (R69). -/
inductive EngineId where
  | array (c : BitVec 12)
  | element (c : BitVec 12)
  | row (bay : BitVec 8)
  | mover (bay : BitVec 8) (ch : BitVec 3)
  | record (slot : BitVec 8)
  deriving DecidableEq, Repr

/-- A requester whose request is answered with an error: a carrel, a mover channel, a host copy engine,
the plan loader, a link record of a plan, or the intake unit for a command (R35, R433). -/
inductive Requester where
  | carrel (c : BitVec 12)
  | mover (bay : BitVec 8) (ch : BitVec 3)
  | copyEngine (e : BitVec 4)
  | loader (ctx : BitVec 12) (seq : BitVec 32) (access : Nat)
  | record (slot : BitVec 8)
  | intake (ctx : BitVec 12) (seq : BitVec 32)
  /-- the BAR2 window (R423) -/
  | window
  /-- the scrub of a context, and a read of PEEK_DATA (R491, R517) -/
  | scrub (ctx : BitVec 12)
  | peek (src : DictSrc)
  /-- an entry of the table memory, a plan slot or a tick register on which a context depends (R447) -/
  | entry (ctx : BitVec 12)
  /-- an engine of a carrel or bay that finds a lost word in its operands (R449) -/
  | engine (e : EngineId)
  deriving DecidableEq, Repr

/-- A request in the mesh: who made it, and the device physical address it asked for (R30). -/
structure MeshAsk where
  r : Requester
  addr : BitVec 56
  deriving DecidableEq, Repr

/-- What ends a link record of a plan: its place among those of the phase that have not ended, and the bytes that came
back (R568). -/
structure RecordEnd where
  i : Nat
  data : List Byte
  deriving DecidableEq, Repr

/-- A virtual function that is reset, or that VF Enable = 0 removes (R440). -/
structure VfLoss where
  f : BitVec 6
  removed : Bool
  deriving DecidableEq, Repr

/-- The source of an interrupt of a carrel, set or cleared (R143). -/
structure IrqSource where
  c : BitVec 12
  on : Bool
  deriving DecidableEq, Repr

/-- The fields of a vector arithmetic form beside its operation (R172): TYPE, M, DTYPE, SAT. -/
structure VArith where
  type : BitVec 4
  m : Bool
  dtype : BitVec 4
  sat : Bool
  deriving DecidableEq, Repr

/-- The fields of a vector memory form beside its operation (R176): EW, M, IW, SC, AT. -/
structure VMem where
  ew : BitVec 2
  m : Bool
  iw : Bool
  sc : BitVec 2
  at_ : BitVec 3
  deriving DecidableEq, Repr

/-- What a carrel's imprecise UNMAPPED response answers: an entry of the merging buffer, or one element
access of the vector store it waits for (R145, R184). -/
inductive ImpSource where
  | entry (idx : BitVec 3)
  | element (n : Nat)
  deriving DecidableEq, Repr

/-- What the boundary finds outside the part: stacks and thermal zones whose readings have stayed below
their threshold by the margin for 1 ms (R351, R550). -/
structure TickEnv where
  coolStacks : List (BitVec 3)
  coolZones : List (BitVec 4)
  deriving DecidableEq, Repr

/-- A tick mark's timing: whether the boundary estimate lies within the bound of R400. -/
structure Mark where
  close : Bool
  deriving DecidableEq, Repr

/-- How an access through the BAR2 window ends (R424); a read of another chip brings its bytes. -/
inductive WinRes where
  | ok (remote : List Byte)
  | unmapped | uncorrectable | noRoute
  deriving DecidableEq, Repr

/-- An access through the BAR2 window (R423). -/
inductive WinAccess where
  | read (len : Nat) (res : WinRes)
  | write (data : List Byte) (res : WinRes)
  deriving DecidableEq, Repr

/-- An invalidation (R377, R379): of a slot of this module, of another module by tree link and TAG, or of
a context that goes OFF. -/
inductive InvId where
  | slot (k : BitVec 6)
  | remote (l : Fin 12) (src : BitVec 12) (tag : BitVec 16)
  | off (ctx : BitVec 12)
  deriving DecidableEq, Repr

/-- The fields of an error record but SEQ and TICK (R451). -/
structure Report where
  wtn : Word
  code : BitVec 16
  unit : BitVec 8
  disp : BitVec 8
  unitno : BitVec 16
  context : BitVec 16
  addr : Word
  carrel : BitVec 16
  phys : BitVec 16
  opnum : BitVec 32
  d0 : Word
  d1 : Word
  deriving DecidableEq, Repr

/-- What a write through the test access port reaches of a carrel (R493). -/
inductive TestTarget where
  | pc
  | creg (n : BitVec 10)
  | data (i : BitVec 3)
  | ret (i : BitVec 4)
  | vl
  | halt
  deriving DecidableEq, Repr

/-- Why a data-mover descriptor stops (R324): the cause code of R142 and the address. -/
structure StopCause where
  code : BitVec 8
  addr : Word
  deriving DecidableEq, Repr

/-- What the code check of a burst finds (R341, R342). -/
inductive EccResult where
  | clean
  | corrected (words : BitVec 4)
  | uncorrectable
  deriving DecidableEq, Repr

/-- The traffic class of a request (R346). -/
inductive HbmClass where
  | planned | unplanned | free
  deriving DecidableEq, Repr

/-- A request that reaches the stacks: the local address, the partition and class, what the code check
finds, and whose work it is (all ones where a field does not apply). -/
structure HbmAccess where
  addr : BitVec 44
  part : BitVec 6
  cls : HbmClass
  ecc : EccResult
  ctx : BitVec 16
  carrel : BitVec 16
  deriving DecidableEq, Repr

/-- How the training or retraining of a link ends (R384, R386): lanes found shorted, open or failing
equalisation on the receive side, lanes in use each way, the delay and the far end. -/
structure TrainResult where
  noPeer : Bool
  short : BitVec 8
  opened : BitVec 8
  eqfail : BitVec 8
  tlanes : BitVec 8
  rlanes : BitVec 8
  delay : BitVec 24
  serial : BitVec 48
  plink : BitVec 4
  deriving DecidableEq, Repr

/-- A received flit after FEC: header, units in use, codewords corrected, whether the CRC holds (R388 to
R390). -/
structure FlitIn where
  hdr : Word
  payload : List Word
  fecCorr : BitVec 2
  crcOk : Bool
  deriving DecidableEq, Repr

/-- A function of R520; a bay is DIE × 128 + logical bay. -/
inductive FuncId where
  | link (l : Fin 12)
  | stack (s : BitVec 3)
  | part (p : BitVec 6)
  | bay (b : BitVec 8)
  | ctx (c : BitVec 12)
  deriving DecidableEq, Repr

/-- The outcome of one item of start-up (R529, R538, R539): its kind and number, whether it passed, the
reason code and the time in microseconds. With `stuck` the attempt does not end before the step's limit
(R532). An item that is not listed passes; for an image that is not listed, the checks of R482 decide. -/
structure ItemOutcome where
  kind : BitVec 8
  item : BitVec 16
  ok : Bool
  noPeer : Bool
  stuck : Bool
  code : BitVec 8
  time : BitVec 32
  deriving DecidableEq, Repr

/-- What the steps of start-up find (R525): whether step 1 or 2 (true) fails, with its code, whether each
keeper completes step 3, whether the fuse load succeeds, the outcomes of the items of steps 4 and 6 to
8, the training results of the links that train, the straps, and the time in ms to step 10.
DESIGN CHOICE (log entry 11). -/
structure StartOutcome where
  bad12 : Option (Bool × BitVec 8)
  keeperW : Bool
  keeperE : Bool
  fuseOk : Bool
  items : List ItemOutcome
  links : List (Nat × TrainResult)
  nodeId : BitVec 7
  rate0 : Bool
  rate1 : Bool
  ms : BitVec 32
  deriving DecidableEq, Repr

/-- How a host read ends: with data, at the flush read, or with an error status (R435, R436). -/
inductive HostReadRes where
  | data (bytes : List Byte)
  | error
  deriving DecidableEq, Repr

/-- The commands: the instructions of a carrel first, then the others, both in the order of the table. DESIGN CHOICE (log
entry 61). -/
inductive Instr where
  /-- R92. ( a -- a a ). -/
  | dup (c : BitVec 12)
  /-- R92. ( a -- ). -/
  | drop (c : BitVec 12)
  /-- R92. ( a b -- b a ). -/
  | swap (c : BitVec 12)
  /-- R92. ( a b -- a b a ). -/
  | overTop (c : BitVec 12)
  /-- R92. ( a b c -- b c a ). -/
  | rot (c : BitVec 12)
  /-- R92. ( a b -- b ). -/
  | nip (c : BitVec 12)
  /-- R92. Copies data-stack entry n to the top where it lies. -/
  | pick (c : BitVec 12) (n : BitVec 4)
  /-- R92. Moves the top data entry to the return stack. -/
  | pushr (c : BitVec 12)
  /-- R92. Moves the top return entry to the data stack. -/
  | popr (c : BitVec 12)
  /-- R92. Copies the top return entry to the data stack. -/
  | rcopy (c : BitVec 12)
  /-- R93. Integer sum modulo 2^64. -/
  | add (c : BitVec 12)
  /-- R93. Integer difference modulo 2^64. -/
  | sub (c : BitVec 12)
  /-- R93. Low 64 bits of the product. -/
  | mul (c : BitVec 12)
  /-- R93. High 64 bits of the signed product. -/
  | mulh (c : BitVec 12)
  /-- R93. High 64 bits of the unsigned product. -/
  | mulhu (c : BitVec 12)
  /-- R94. Signed quotient toward zero with the edge cases of R94. -/
  | div (c : BitVec 12)
  /-- R94. Unsigned quotient with the edge cases of R94. -/
  | divu (c : BitVec 12)
  /-- R94. Signed remainder with the edge cases of R94. -/
  | rem (c : BitVec 12)
  /-- R94. Unsigned remainder with the edge cases of R94. -/
  | remu (c : BitVec 12)
  /-- R93. Bitwise and. -/
  | and (c : BitVec 12)
  /-- R93. Bitwise or. -/
  | or (c : BitVec 12)
  /-- R93. Bitwise exclusive or. -/
  | xor (c : BitVec 12)
  /-- R93. Bitwise complement. -/
  | not (c : BitVec 12)
  /-- R93. 0 − a. -/
  | neg (c : BitVec 12)
  /-- R93. Left shift by n mod 64. -/
  | shl (c : BitVec 12)
  /-- R93. Logical right shift by n mod 64. -/
  | shr (c : BitVec 12)
  /-- R93. Arithmetic right shift by n mod 64. -/
  | sar (c : BitVec 12)
  /-- R93. 1 if a = b, else 0. -/
  | cmpeq (c : BitVec 12)
  /-- R93. 1 if a ≠ b, else 0. -/
  | cmpne (c : BitVec 12)
  /-- R93. Signed a < b. -/
  | cmplt (c : BitVec 12)
  /-- R93. Signed a ≤ b. -/
  | cmple (c : BitVec 12)
  /-- R93. Unsigned a < b. -/
  | cmpltu (c : BitVec 12)
  /-- R93. Unsigned a ≤ b. -/
  | cmpleu (c : BitVec 12)
  /-- R95. Binary64 sum rounded to nearest even. -/
  | fadd (c : BitVec 12)
  /-- R95. Binary64 difference. -/
  | fsub (c : BitVec 12)
  /-- R95. Binary64 product. -/
  | fmul (c : BitVec 12)
  /-- R95. Fused a × b + c with one rounding. -/
  | ffma (c : BitVec 12)
  /-- R95. Binary64 quotient. -/
  | fdiv (c : BitVec 12)
  /-- R95. Binary64 square root. -/
  | fsqrt (c : BitVec 12)
  /-- R95. Flips the sign. -/
  | fneg (c : BitVec 12)
  /-- R95. Clears the sign. -/
  | fabs (c : BitVec 12)
  /-- R95. Minimum, a NaN operand yielding the other. -/
  | fmin (c : BitVec 12)
  /-- R95. Maximum, a NaN operand yielding the other. -/
  | fmax (c : BitVec 12)
  /-- R95. Floating equality test. -/
  | fcmpeq (c : BitVec 12)
  /-- R95. Floating less-than test. -/
  | fcmplt (c : BitVec 12)
  /-- R95. Floating less-or-equal test. -/
  | fcmple (c : BitVec 12)
  /-- R95. Signed integer to binary64. -/
  | fcvtI2f (c : BitVec 12)
  /-- R95. Unsigned integer to binary64. -/
  | fcvtU2f (c : BitVec 12)
  /-- R95. Binary64 to signed integer, saturating. -/
  | fcvtF2i (c : BitVec 12)
  /-- R95. Binary64 to unsigned integer, saturating. -/
  | fcvtF2u (c : BitVec 12)
  /-- R95. Binary64 to binary32. -/
  | fcvtD2s (c : BitVec 12)
  /-- R95. Binary32 to binary64, exact. -/
  | fcvtS2d (c : BitVec 12)
  /-- R97. Pushes a sign-extended 6-bit literal. -/
  | lit6 (c : BitVec 12) (v : BitVec 6)
  /-- R97. Pushes a sign-extended 25-bit literal. -/
  | lit32 (c : BitVec 12) (v : BitVec 25)
  /-- R97. Shifts the top left by 25 and inserts a 25-bit value. -/
  | litx (c : BitVec 12) (v : BitVec 25)
  /-- R102. Jumps by the offset. -/
  | br (c : BitVec 12) (long : Bool) (off : BitVec 23)
  /-- R102. Pops x and jumps if x = 0. -/
  | bz (c : BitVec 12) (long : Bool) (off : BitVec 23)
  /-- R102. Pops x and jumps if x ≠ 0. -/
  | bnz (c : BitVec 12) (long : Bool) (off : BitVec 23)
  /-- R102. Pushes the return address and jumps by the offset. -/
  | call (c : BitVec 12) (off : BitVec 25)
  /-- R102. Pushes the return address and jumps to the popped address. -/
  | calli (c : BitVec 12)
  /-- R102. Jumps to the popped address. -/
  | jmpi (c : BitVec 12)
  /-- R102. Jumps to the address popped from the return stack. -/
  | ret (c : BitVec 12)
  /-- R102. The NOP instruction does nothing. -/
  | controlNop (c : BitVec 12)
  /-- R111. Pops a count and runs the next instruction that many times, interruptibly. -/
  | repPrefix (c : BitVec 12) (nxt : BitVec 32)
  /-- R112. Runs the next instruction 1–256 times with interrupts held. -/
  | repxPrefix (c : BitVec 12) (count : BitVec 8) (nxt : BitVec 32)
  /-- R98. Loads a byte from the carrel's own shelf by offset. -/
  | ld8L (c : BitVec 12) (off : BitVec 9)
  /-- R98. Loads 2 bytes from the own shelf by offset. -/
  | ld16L (c : BitVec 12) (off : BitVec 9)
  /-- R98. Loads 4 bytes from the own shelf by offset. -/
  | ld32L (c : BitVec 12) (off : BitVec 9)
  /-- R98. Loads 8 bytes from the own shelf by offset. -/
  | ld64L (c : BitVec 12) (off : BitVec 9)
  /-- R98. Stores a byte to the own shelf by offset. -/
  | st8L (c : BitVec 12) (off : BitVec 9)
  /-- R98. Stores 2 bytes to the own shelf by offset. -/
  | st16L (c : BitVec 12) (off : BitVec 9)
  /-- R98. Stores 4 bytes to the own shelf by offset. -/
  | st32L (c : BitVec 12) (off : BitVec 9)
  /-- R98. Stores 8 bytes to the own shelf by offset. -/
  | st64L (c : BitVec 12) (off : BitVec 9)
  /-- R98. Translated load of 1 byte, zero-extended. -/
  | ld8 (c : BitVec 12) (off : BitVec 22)
  /-- R98. Translated load of 2 bytes, zero-extended. -/
  | ld16 (c : BitVec 12) (off : BitVec 22)
  /-- R98. Translated load of 4 bytes, zero-extended. -/
  | ld32 (c : BitVec 12) (off : BitVec 22)
  /-- R98. Translated load of 8 bytes. -/
  | ld64 (c : BitVec 12) (off : BitVec 22)
  /-- R98. Translated load of 1 byte, sign-extended. -/
  | ld8s (c : BitVec 12) (off : BitVec 22)
  /-- R98. Translated load of 2 bytes, sign-extended. -/
  | ld16s (c : BitVec 12) (off : BitVec 22)
  /-- R98. Translated load of 4 bytes, sign-extended. -/
  | ld32s (c : BitVec 12) (off : BitVec 22)
  /-- R98. Translated store of the low 8 bits. -/
  | st8 (c : BitVec 12) (off : BitVec 22)
  /-- R98. Translated store of the low 16 bits. -/
  | st16 (c : BitVec 12) (off : BitVec 22)
  /-- R98. Translated store of the low 32 bits. -/
  | st32 (c : BitVec 12) (off : BitVec 22)
  /-- R98. Translated store of 64 bits. -/
  | st64 (c : BitVec 12) (off : BitVec 22)
  /-- R100. Atomic add returning the old value. -/
  | aadd (c : BitVec 12) (w : Bool) (off : BitVec 20)
  /-- R100. Atomic signed minimum. -/
  | amin (c : BitVec 12) (w : Bool) (off : BitVec 20)
  /-- R100. Atomic signed maximum. -/
  | amax (c : BitVec 12) (w : Bool) (off : BitVec 20)
  /-- R100. Atomic and. -/
  | aand (c : BitVec 12) (w : Bool) (off : BitVec 20)
  /-- R100. Atomic or. -/
  | aor (c : BitVec 12) (w : Bool) (off : BitVec 20)
  /-- R100. Atomic exclusive or. -/
  | axor (c : BitVec 12) (w : Bool) (off : BitVec 20)
  /-- R100. Atomic swap. -/
  | aswap (c : BitVec 12) (w : Bool) (off : BitVec 20)
  /-- R100. Atomic compare-and-swap. -/
  | acas (c : BitVec 12) (w : Bool) (off : BitVec 20)
  /-- R103. Lane-wise pair sum. -/
  | pAdd (c : BitVec 12) (t : BitVec 3)
  /-- R103. Lane-wise pair difference. -/
  | pSub (c : BitVec 12) (t : BitVec 3)
  /-- R103. Lane-wise pair product. -/
  | pMul (c : BitVec 12) (t : BitVec 3)
  /-- R103. Lane-wise fused multiply-add. -/
  | pFma (c : BitVec 12) (t : BitVec 3)
  /-- R103. Lane-wise minimum. -/
  | pMin (c : BitVec 12) (t : BitVec 3)
  /-- R103. Lane-wise maximum. -/
  | pMax (c : BitVec 12) (t : BitVec 3)
  /-- R103. Bitwise and of pairs. -/
  | pAnd (c : BitVec 12) (t : BitVec 3)
  /-- R103. Bitwise or of pairs. -/
  | pOr (c : BitVec 12) (t : BitVec 3)
  /-- R103. Bitwise exclusive or of pairs. -/
  | pXor (c : BitVec 12) (t : BitVec 3)
  /-- R103. Lane-wise equality mask. -/
  | pCmpeq (c : BitVec 12) (t : BitVec 3)
  /-- R103. Lane-wise less-than mask. -/
  | pCmplt (c : BitVec 12) (t : BitVec 3)
  /-- R103. Bitwise select by mask. -/
  | pSel (c : BitVec 12) (t : BitVec 3)
  /-- R103. Lane-wise left shift. -/
  | pShl (c : BitVec 12) (t : BitVec 3)
  /-- R103. Lane-wise logical right shift. -/
  | pShr (c : BitVec 12) (t : BitVec 3)
  /-- R103. Lane-wise arithmetic right shift. -/
  | pSar (c : BitVec 12) (t : BitVec 3)
  /-- R104. Sums the lanes by a fixed pairing tree. -/
  | pHsum (c : BitVec 12) (t : BitVec 3)
  /-- R103. Copies a value into every lane. -/
  | pBcast (c : BitVec 12) (t : BitVec 3)
  /-- R103. Duplicates a pair. -/
  | pDup (c : BitVec 12) (t : BitVec 3)
  /-- R103. Drops a pair. -/
  | pDrop (c : BitVec 12) (t : BitVec 3)
  /-- R103. Swaps two pairs. -/
  | pSwap (c : BitVec 12) (t : BitVec 3)
  /-- R168. Sets VL to min(n, VLMAX) and pushes it. -/
  | vsetl (c : BitVec 12) (a : VArith)
  /-- R168. Pushes VL. -/
  | vgetl (c : BitVec 12) (a : VArith)
  /-- R173. Duplicates the top vector entry. -/
  | vdup (c : BitVec 12) (a : VArith)
  /-- R173. Drops the top vector entry. -/
  | vdrop (c : BitVec 12) (a : VArith)
  /-- R173. Swaps the top two vector entries. -/
  | vswap (c : BitVec 12) (a : VArith)
  /-- R173. Copies the second vector entry to the top. -/
  | vover (c : BitVec 12) (a : VArith)
  /-- R173. Rotates the top three vector entries. -/
  | vrot (c : BitVec 12) (a : VArith)
  /-- R173. Element-wise sum. -/
  | vadd (c : BitVec 12) (a : VArith)
  /-- R173. Element-wise difference. -/
  | vsub (c : BitVec 12) (a : VArith)
  /-- R173. Element-wise product. -/
  | vmul (c : BitVec 12) (a : VArith)
  /-- R173. Element-wise fused multiply-add. -/
  | vfma (c : BitVec 12) (a : VArith)
  /-- R173. Element-wise minimum. -/
  | vmin (c : BitVec 12) (a : VArith)
  /-- R173. Element-wise maximum. -/
  | vmax (c : BitVec 12) (a : VArith)
  /-- R173. Element-wise quotient. -/
  | vdiv (c : BitVec 12) (a : VArith)
  /-- R173. Element-wise square root. -/
  | vsqrt (c : BitVec 12) (a : VArith)
  /-- R173. Element-wise negation. -/
  | vneg (c : BitVec 12) (a : VArith)
  /-- R173. Element-wise absolute value. -/
  | vabs (c : BitVec 12) (a : VArith)
  /-- R173. Element-wise and. -/
  | vand (c : BitVec 12) (a : VArith)
  /-- R173. Element-wise or. -/
  | vor (c : BitVec 12) (a : VArith)
  /-- R173. Element-wise exclusive or. -/
  | vxor (c : BitVec 12) (a : VArith)
  /-- R173. Element-wise left shift. -/
  | vshl (c : BitVec 12) (a : VArith)
  /-- R173. Element-wise logical right shift. -/
  | vshr (c : BitVec 12) (a : VArith)
  /-- R173. Element-wise arithmetic right shift. -/
  | vsar (c : BitVec 12) (a : VArith)
  /-- R173. Equality mask. -/
  | vcmpeq (c : BitVec 12) (a : VArith)
  /-- R173. Less-than mask. -/
  | vcmplt (c : BitVec 12) (a : VArith)
  /-- R173. Less-or-equal mask. -/
  | vcmple (c : BitVec 12) (a : VArith)
  /-- R173. Element select by mask. -/
  | vsel (c : BitVec 12) (a : VArith)
  /-- R173. Broadcasts a scalar into every active element. -/
  | vbcast (c : BitVec 12) (a : VArith)
  /-- R173. Element i = i. -/
  | viota (c : BitVec 12) (a : VArith)
  /-- R173. Extracts one element to the data stack. -/
  | vext (c : BitVec 12) (a : VArith)
  /-- R173. Inserts a value into one element. -/
  | vins (c : BitVec 12) (a : VArith)
  /-- R174. Converts elements from TYPE to DTYPE. -/
  | vcvt (c : BitVec 12) (a : VArith)
  /-- R175. Sum of active elements by a fixed pairing tree. -/
  | vredAdd (c : BitVec 12) (a : VArith)
  /-- R175. Minimum of active elements by a fixed tree. -/
  | vredMin (c : BitVec 12) (a : VArith)
  /-- R175. Maximum of active elements by a fixed tree. -/
  | vredMax (c : BitVec 12) (a : VArith)
  /-- R173. Counts the mask bits below VL. -/
  | vmcnt (c : BitVec 12) (a : VArith)
  /-- R177. Unit-stride vector load after checking every active element. -/
  | vld (c : BitVec 12) (a : VMem)
  /-- R177. Unit-stride vector store. -/
  | vst (c : BitVec 12) (a : VMem)
  /-- R177. Strided vector load. -/
  | vlds (c : BitVec 12) (a : VMem)
  /-- R177. Strided vector store. -/
  | vsts (c : BitVec 12) (a : VMem)
  /-- R177. Gather by index vector. -/
  | vgth (c : BitVec 12) (a : VMem)
  /-- R177. Scatter by index vector. -/
  | vsct (c : BitVec 12) (a : VMem)
  /-- R179. Scatter-add by index vector through the owner's adder. -/
  | vscta (c : BitVec 12) (a : VMem)
  /-- R177. Structure load of 2 fields. -/
  | vld2 (c : BitVec 12) (a : VMem)
  /-- R177. Structure load of 3 fields. -/
  | vld3 (c : BitVec 12) (a : VMem)
  /-- R177. Structure load of 4 fields. -/
  | vld4 (c : BitVec 12) (a : VMem)
  /-- R177. Structure store of 2 fields. -/
  | vst2 (c : BitVec 12) (a : VMem)
  /-- R177. Structure store of 3 fields. -/
  | vst3 (c : BitVec 12) (a : VMem)
  /-- R177. Structure store of 4 fields. -/
  | vst4 (c : BitVec 12) (a : VMem)
  /-- R232. Issues the next MLD descriptors of the phase. -/
  | mld (c : BitVec 12) (n : BitVec 4) (p : Bool)
  /-- R232. Issues the next MSTR descriptors of the phase. -/
  | mstr (c : BitVec 12) (n : BitVec 4) (p : Bool)
  /-- R232. Issues the next MRD descriptors of the phase. -/
  | mrd (c : BitVec 12) (n : BitVec 4) (p : Bool)
  /-- R232. Issues the next MCLR descriptors of the phase. -/
  | mclr (c : BitVec 12) (n : BitVec 4) (p : Bool)
  /-- R232. Stalls until at most k array descriptors remain unfinished. -/
  | mwait (c : BitVec 12)
  /-- R232. Waits for the array to finish and pushes a tile-flags word. -/
  | mrdF (c : BitVec 12)
  /-- R105. Issues the next element-engine descriptors of the phase. -/
  | edq (c : BitVec 12) (n : BitVec 4) (p : Bool)
  /-- R105. Issues the next row-engine descriptors of the phase. -/
  | rwq (c : BitVec 12) (n : BitVec 4) (p : Bool)
  /-- R105. Issues the next data-mover descriptors of a channel. -/
  | dmq (c : BitVec 12) (ch : BitVec 3) (n : BitVec 4) (p : Bool)
  /-- R105. Stalls until at most k element-engine descriptors remain unfinished. -/
  | qwaitE (c : BitVec 12)
  /-- R105. Stalls until at most k row-engine descriptors remain unfinished. -/
  | qwaitR (c : BitVec 12)
  /-- R105. Stalls until at most k descriptors of a mover channel remain unfinished. -/
  | qwaitD (c : BitVec 12) (ch : BitVec 3)
  /-- R107. Ends a phase: waits for descriptors and the merging buffer, then joins the set's barrier. -/
  | bar (c : BitVec 12)
  /-- R107. Ends the plan-tick program after its descriptors and stores finish, and rests until the next work window. -/
  | wtick (c : BitVec 12)
  /-- R107. Every carrel of the set has joined and the barrier completes. -/
  | barrierRelease (slot : BitVec 8)
  /-- R158. Enters level T through its shadow set or a memory frame, keeping the caller's data bank. -/
  | sys (c : BitVec 12) (toM : Bool)
  /-- R162. Checks a gate entry and its arguments, then enters the handler with a memory frame. -/
  | gate (c : BitVec 12) (n : BitVec 10)
  /-- R163. Returns through the sealed frame, checking seal, level, depths and results. -/
  | retx (c : BitVec 12)
  /-- R118. Drains the merging buffer, invalidates the I-cache and discards the prefetch queue. -/
  | flushi (c : BitVec 12)
  /-- R118. Invalidates every I-cache line. -/
  | icinv (c : BitVec 12)
  /-- R132. Issues the merging-buffer writes of a block and waits for them. -/
  | dclean (c : BitVec 12)
  /-- R132. Invalidates the D-cache line of a block. -/
  | dinv (c : BitVec 12)
  /-- R132. Cleans then invalidates the D-cache line of a block. -/
  | dclinv (c : BitVec 12)
  /-- R132. Cleans by set and way. -/
  | dcleansw (c : BitVec 12)
  /-- R132. Invalidates by set and way. -/
  | dinvsw (c : BitVec 12)
  /-- R132. Cleans and invalidates by set and way. -/
  | dclinvsw (c : BitVec 12)
  /-- R133. Waits for earlier loads, atomics and merging-buffer writes. -/
  | fence (c : BitVec 12)
  /-- R109. Reads a carrel control register by number. -/
  | crd (c : BitVec 12) (n : BitVec 10)
  /-- R109. Writes a carrel control register by number. -/
  | cwr (c : BitVec 12) (n : BitVec 10)
  /-- R85. The core decodes a reserved encoding, a non-zero must-be-zero field or an unassigned group or major, and raises the illegal-instruction fault. -/
  | illegalInstruction (c : BitVec 12) (parcels : BitVec 32)
  /-- R39. The tick timer expires: TICK_NO advances, the intake and commit window opens, and the boundary work of every unit runs. -/
  | tickBoundary (env : TickEnv)
  /-- R39. The work window opens 200 ns after the boundary and carrels start the plan tick at its entry point with empty stacks. -/
  | workWindowStart
  /-- R69. At the first cycle of the guard the tick unit stops still-active work of each plan as a LATE event and writes a record. -/
  | guardStart (stuck : List EngineId)
  /-- R64. The 4 µs recovery gap ends and the tick master starts the replay with TICK_WTN of the failed tick. -/
  | gapEnd
  /-- R42. A write to TICK_LEN_AT arms or re-arms a tick length change, or is refused with LEN_REJ. -/
  | armLengthChange (src : Src) (boundary : Word)
  /-- R43. A write of 0 to TICK_LEN_AT cancels an armed change at least 16 ticks ahead, or is refused. -/
  | cancelLengthChange (src : Src)
  /-- R400. A slave receives a tick mark, computes the boundary estimate, steers its tick generator and copies the length fields. -/
  | tickMark (l : Fin 12) (mark : Mark)
  /-- R45. Tick marks stop arriving on the timing upstream link and the slave enters holdover. -/
  | holdover
  /-- R45. Holdover exceeds 10 ms: ALIGN_LOST is set, a record is written and plans are suspended at the next boundary. -/
  | alignLost (us : Nat)
  /-- R406. A node receives a status fragment and combines it with its own and its other children's statuses. -/
  | tickStatus (l : Fin 12)
  /-- R406. A module receives the chain-wide verdict for a tick, confirming it, starting recovery or suspending the mapped contexts. -/
  | verdict (l : Fin 12)
  /-- R406. The latest sending time expires and the tick master sends the verdict with RECOVER set for missing statuses. -/
  | verdictDeadline
  /-- R38. The loader takes a slot, reads the image, runs the checks of R58, writes shelves and descriptors, or refuses the plan. -/
  | planLoad (ctx : BitVec 12) (seq : BitVec 32)
  /-- R569. An error response to a loader access stops the load, writes XFER-STOP, frees the slot and zeroes written plan bytes. -/
  | loadStop (ctx : BitVec 12) (seq : BitVec 32) (access : Nat) (err : RespErr)
  /-- R431. The command moves a plan to UNLOADING, releasing it at the next boundary. -/
  | planUnload (ctx : BitVec 12) (seq : BitVec 32)
  /-- R431. The command moves a running plan to SUSPENDED at the next boundary with reason HOST. -/
  | planSuspend (ctx : BitVec 12) (seq : BitVec 32)
  /-- R431. The command moves a suspended plan back to RUNNING at the next boundary from the unconfirmed plan tick. -/
  | planResume (ctx : BitVec 12) (seq : BitVec 32)
  /-- R431. Context 0 declares the time to its next event, letting stacks enter self-refresh. -/
  | sleepDeclare (ctx : BitVec 12) (seq : BitVec 32)
  /-- R431. The NOP command does nothing and completes in the tick of taking. -/
  | nop (ctx : BitVec 12) (seq : BitVec 32)
  /-- R431. The intake unit writes the inline payload at a virtual address in the intake window of the named tick. -/
  | writeInline (ctx : BitVec 12) (seq : BitVec 32)
  /-- R431. A host copy engine moves bytes from host memory to device memory. -/
  | copyH2d (ctx : BitVec 12) (seq : BitVec 32)
  /-- R431. A host copy engine moves committed device bytes to host memory once the named tick is confirmed. -/
  | copyD2h (ctx : BitVec 12) (seq : BitVec 32)
  /-- R431. The command performs one memory-side operation at a virtual address. -/
  | atomic (ctx : BitVec 12) (seq : BitVec 32)
  /-- R437. The FENCE command completes after every earlier command of the context, ordering later host writes. -/
  | hostFence (ctx : BitVec 12) (seq : BitVec 32)
  /-- R434. A taken command starts once every earlier overlapping command of its context has completed. -/
  | commandStart (ctx : BitVec 12) (seq : BitVec 32)
  /-- R336. A waiting COPY_D2H starts on a copy engine once its tick is confirmed. -/
  | copyD2hStart (ctx : BitVec 12) (seq : BitVec 32)
  /-- R335. A waiting transfer is given to the lowest-numbered idle host copy engine. -/
  | copyEngineGrant
  /-- R433. A translation fault or error response stops a host transfer and ends the command with its status. -/
  | xferStop (e : BitVec 4) (err : RespErr)
  /-- R436. The flush read returns and the engine writes the completion record and sends the MSI-X message. -/
  | flushReadDone (e : BitVec 4)
  /-- R429. The host writes a command slot or its seal word into the intake memory. -/
  | intakeSlotWrite (src : Src) (ctx : BitVec 12) (off : BitVec 12) (data : List Byte)
  /-- R424. A host access through BAR2 reaches device memory as unplanned traffic or is answered with an error status. -/
  | bar2WindowAccess (src : Src) (off : Word) (access : WinAccess)
  /-- R422. A host read of BAR0 from an offset in a block of 64 KB; in the state readback window it returns carrel
  state, waking a sleeping carrel first. -/
  | readbackRead (src : Src) (block : BitVec 12) (off : BitVec 16) (len : Nat)
  /-- R7. A write to a device register without behaviour of its own takes effect if whole and permitted, else is ignored. -/
  | registerWrite (src : Src) (block : BitVec 7) (off : BitVec 16) (data : List Byte)
  /-- R440. A Function Level Reset or removal of a VF orphans the contexts it owns. -/
  | flrVf (f : VfLoss)
  /-- R440. A Function Level Reset of the PF orphans every context. -/
  | flrPf
  /-- R440. A hot reset orphans every context. -/
  | hotReset
  /-- R440. The PCIe Data Link goes down and every context is orphaned. -/
  | dataLinkDown
  /-- R441. The PCIe link comes up and the device writes the HOST-LOST records of the event. -/
  | dataLinkUp (rate : BitVec 3) (width : BitVec 5) (noflit : Bool) (vfs : BitVec 64)
  /-- R440. A function enters D3hot and host transfers of its contexts wait. -/
  | d3hotEntry (f : BitVec 6)
  /-- R440. A function returns to D0 and its waiting host transfers resume. -/
  | d0Entry (f : BitVec 6)
  /-- R443. HOST_ORPH_CMD with ACTION RECLAIM binds an orphaned context to a function and clears ORPHANED. -/
  | reclaim (src : Src) (ctx : BitVec 12) (f : BitVec 6)
  /-- R443. HOST_ORPH_CMD with ACTION RELEASE starts the shutdown of an orphaned context. -/
  | release (src : Src) (ctx : BitVec 12)
  /-- R363. A write to SEG_CTX changes FAST and FUNC, or is ignored with REJ while a plan of the context is resident. -/
  | segCtxWrite (src : Src) (ctx : BitVec 12) (v : Word)
  /-- R366. WRITE on a table port checks the descriptor and writes it to the table memory, or rejects it with a reason. -/
  | segTableWrite (src : Src) (port : Bool)
  /-- R370. READ on a table port copies the selected descriptor into D0 and D1. -/
  | segTableRead (src : Src) (port : Bool)
  /-- R370. A table-port WRITE or READ completes and hardware clears its bit. -/
  | tablePortDone (port : Bool)
  /-- R376. A write to SEG_INV_REQ starts an invalidation, sends the broadcast and acts locally, or sets REJ when busy. -/
  | invalidationRequest (src : Src) (k : BitVec 6) (v : Word)
  /-- R377. A module receives an invalidation broadcast, forwards it and invalidates the named descriptor cache entries. -/
  | invalidationBroadcast (l : Fin 12)
  /-- R377. Every access translated under the old entries has completed, so the module acknowledges when its children have. -/
  | invalidationDrainDone (id : InvId)
  /-- R377. A module receives an invalidation acknowledgement; the originator writes SEQ and clears BUSY when all have arrived. -/
  | invalidationAck (l : Fin 12)
  /-- R374. A descriptor cache miss returns the descriptor from the table memory and the stream resumes. -/
  | descriptorCacheFill (c : BitVec 12) (stream : BitVec 3) (seg : BitVec 4)
  /-- R300. A write to a context's gauge allotment takes effect or is ignored with REJ. -/
  | cenGaugeAllotWrite (src : Src) (ctx : BitVec 12) (v : Word)
  /-- R349. A write of partition rates takes effect at the next boundary or is ignored with REJ. -/
  | hbmPartRateWrite (src : Src) (stack : BitVec 3) (p : BitVec 6) (v : Word)
  /-- R468. Writing NOW requests a census snapshot at TICK_NO + 2. -/
  | censusNow (src : Src)
  /-- R470. The copy of a shadow bank completes and its TAG and CEN_SNAP are set. -/
  | censusCopyDone
  /-- R409. A module receives a census strobe naming a future snapshot boundary and forwards it. -/
  | censusStrobe (l : Fin 12)
  /-- R454. Setting CEN_RING_CTL.EN writes the held reports to the ring in order. -/
  | ringEnable (src : Src) (v : Word)
  /-- R453. The ring writer takes a report, assigns its SEQ, writes it to its slot and advances HEAD, or drops it. -/
  | errorReport (report : Report)
  /-- R216. Writing 1 to CEN_NAN_STAT.VALID empties the package NaN record. -/
  | packageNanClear (src : Src) (v : Word)
  /-- R555. Writing MAX_CLR sets PIN_MAX to the current PIN. -/
  | maxClr (src : Src)
  /-- R492. Writing NEWCHAL issues 32 fresh random challenge bytes and discards any earlier challenge. -/
  | newchal (src : Src)
  /-- R492. Writing VERIFY checks the debug key, fail count and signature, and opens debug or sets REJ. -/
  | verify (src : Src)
  /-- R492. Writing CLOSE closes debug access. -/
  | close (src : Src)
  /-- R493. An authenticated debug request raises the DEBUG interrupt on a carrel within the open scope. -/
  | debugRequest (c : IrqSource)
  /-- R493. A write through the test access port changes carrel state within the open debug scope. -/
  | testPortWrite (c : BitVec 12) (target : TestTarget) (v : Word)
  /-- R143. The active keeper raises the KEEPER interrupt on a carrel. -/
  | keeperInterruptRequest (c : IrqSource)
  /-- R147. A pending interrupt that the level and mask admit is taken at an allowed point with a frame. -/
  | interruptEntry (c : BitVec 12)
  /-- R145. An UNMAPPED response to a retired store arrives and is held as an imprecise fault, or sets IMPMORE. -/
  | impreciseFault (c : BitVec 12) (w : ImpSource)
  /-- R30. A requester receives an unmapped-target response and retries once under the new map or acts on it. -/
  | unmappedTargetResponse (r : MeshAsk)
  /-- R449. A consumer receives an error response or finds a lost word and stops its tick. -/
  | uncorrectableResponse (r : Requester) (addr : BitVec 56)
  /-- R66. The tick watchdog count exceeds the phase budget and the carrel takes the OVERRUN fault. -/
  | overrun (c : BitVec 12)
  /-- R125. The reset invalidation of a cache completes and IC_INIT or DC_INIT clears. -/
  | cacheInitDone (c : BitVec 12) (dcache : Bool)
  /-- R131. Fill data returns, merges pending store bytes and serves the waiting load. -/
  | dCacheFill (c : BitVec 12) (data : List Byte)
  /-- R129. An entry allocated 16 cycles ago issues its write. -/
  | mergeEntryTimeout (c : BitVec 12)
  /-- R130. An entry's write is acknowledged and the entry leaves the buffer. -/
  | mergeEntryAck (c : BitVec 12) (idx : BitVec 3)
  /-- R73. The wake of a sleeping carrel starts its wake time before its next planned use. -/
  | carrelWake (c : BitVec 12)
  /-- R235. The array starts the next descriptor in array order once it is issued and earlier ones completed. -/
  | arrayDescriptorStart (c : BitVec 12)
  /-- R239. An array descriptor completes, ORing its flags into its tile word and reporting its NaN. -/
  | arrayDescriptorDone (c : BitVec 12)
  /-- R274. The element engine starts the next issued descriptor once its wait token is released. -/
  | elementDescriptorStart (c : BitVec 12)
  /-- R278. An element-engine descriptor completes, reports its NaN, sets flags and releases its token. -/
  | elementDescriptorDone (c : BitVec 12)
  /-- R279. The row engine starts the next descriptor in row order once issued and predecessors complete. -/
  | rowDescriptorStart (bay : BitVec 8)
  /-- R283. A row-engine descriptor completes, writing outputs and margin entries and reporting its NaN. -/
  | rowDescriptorDone (bay : BitVec 8)
  /-- R321. A channel starts an issued descriptor after its predecessor completes and its token is released. -/
  | moverDescriptorStart (bay : BitVec 8) (ch : BitVec 3)
  /-- R321. Every write of a mover descriptor is acknowledged and it releases TOKREL. -/
  | moverDescriptorDone (bay : BitVec 8) (ch : BitVec 3) (data : List Byte)
  /-- R324. A translation failure or unmapped response stops a mover descriptor with a record, handled as LATE. -/
  | descStop (bay : BitVec 8) (ch : BitVec 3) (cause : StopCause)
  /-- R568. A planned link record starts once every carrel has begun the phase and its token is released. -/
  | linkRecordStart (slot : BitVec 8)
  /-- R568. The last response of a link record arrives and it releases TOKREL. -/
  | linkRecordDone (slot : BitVec 8) (data : RecordEnd)
  /-- R268. A tree node receives a partial and combines once both children have delivered or are empty. -/
  | reductionFragment (l : Fin 12)
  /-- R341. The controller reads a burst, correcting or detecting errors under the code. -/
  | hbmRead (acc : HbmAccess)
  /-- R343. The controller writes a burst, partial words by read-modify-write. -/
  | hbmWrite (acc : HbmAccess) (data : List Byte) (mask : List Bool)
  /-- R354. The memory-side adder performs one indivisible read, combine and write. -/
  | memorySideOperation (acc : HbmAccess) (op : BitVec 4) (w : Bool) (data : Word) (cmp : Word)
  /-- R347. A request waiting for tokens is served once its bucket holds enough. -/
  | tokenWaitServed (stack : BitVec 3) (part : BitVec 6) (planned : Bool)
  /-- R450. The controller reads an uncorrectable burst again to decide whether the source is intact. -/
  | hbmReread (addr : BitVec 44) (clean : Bool)
  /-- R344. Patrol scrub reads the next word of the stack and corrects or records errors. -/
  | patrolScrubRead (stack : BitVec 3) (addr : BitVec 44) (ecc : EccResult)
  /-- R351. A stack temperature crosses an upper bound and the refresh rate rises or throttle starts. -/
  | hbmTempRise (stack : BitVec 3) (temp : BitVec 16)
  /-- R353. A stack in self-refresh begins its exit 30 µs before the declared event or on a request. -/
  | selfRefreshExit (stack : BitVec 3)
  /-- R353. The 30 µs exit from self-refresh completes and waiting requests proceed. -/
  | selfRefreshExitDone (stack : BitVec 3)
  /-- R384. EN becomes 1 and the link runs detection, equalisation, deskew, delay and identity on each direction. -/
  | linkTrain (l : Fin 12)
  /-- R383. Training ends: the link becomes ACTIVE or FAILED. -/
  | linkTrainDone (l : Fin 12) (result : TrainResult)
  /-- R385. A receiver declares a lane failed and requests a drop to 7 lanes, or the link fails. -/
  | laneDrop (l : Fin 12) (lane : BitVec 3)
  /-- R385. Both ends restripe on 7 lanes, remeasure delay and resend from the first unacknowledged flit. -/
  | laneDropDone (l : Fin 12) (delay : BitVec 24)
  /-- R386. A drop request unanswered within 1 µs sends the link into RETRAIN. -/
  | dropRequestTimeout (l : Fin 12)
  /-- R386. The link retrains both directions from stored equalisation, keeping its replay buffers. -/
  | retrain (l : Fin 12)
  /-- R386. RETRAIN ends with the link ACTIVE or FAILED. -/
  | retrainDone (l : Fin 12) (result : TrainResult)
  /-- R74. A link idle for 50 µs by its schedule puts all but its lowest lane to sleep. -/
  | linkSleep (l : Fin 12)
  /-- R383. A schedule or item needs a sleeping link and its lanes wake within 1.5 µs. -/
  | linkWake (l : Fin 12)
  /-- R391. A flit arrives: FEC and CRC are checked, ACK and NAK processed and in-order payload delivered. -/
  | flit (l : Fin 12) (f : FlitIn)
  /-- R392. A read request item is forwarded by DST or delivered to the target. -/
  | readRequest (l : Fin 12)
  /-- R392. A write item is forwarded or performed at the target. -/
  | write (l : Fin 12)
  /-- R392. An atomic item is forwarded or performed by the target's memory-side adder. -/
  | atomicItem (l : Fin 12)
  /-- R392. A read response item returns data to the requester. -/
  | readResponse (l : Fin 12)
  /-- R392. A write acknowledgement item reaches the requester. -/
  | writeAcknowledgement (l : Fin 12)
  /-- R392. An atomic response item returns the old value. -/
  | atomicResponse (l : Fin 12)
  /-- R393. An error response item with UNMAPPED, UNCORRECTABLE or NO-ROUTE reaches the requester. -/
  | errorResponse (l : Fin 12)
  /-- R392. A barrier arrive or release message passes up to the tick master or back down. -/
  | barrier (l : Fin 12)
  /-- R405. A set-up confirmation with depth and chip map rises to the tick master, which merges them. -/
  | setupConfirmation (l : Fin 12) (depth : BitVec 12) (chips : List Nat)
  /-- R405. Writing SETUP makes the module await or start chain set-up, or refuses with a reason. -/
  | chainSetup (src : Src)
  /-- R405. Confirmations are not complete within 10 ms and set-up is refused with reason 5. -/
  | setupTimeout
  /-- R408. Writing JOIN makes a slave relock and take TICK_NO to rejoin the chain. -/
  | join (src : Src)
  /-- R447. A parity error or repeated lost word makes a carrel fail and the keeper substitute it at the next gap. -/
  | carrelFailure (c : BitVec 12) (why : BitVec 8)
  /-- R31. A row engine, margin, folio, data mover or router fails and the keeper substitutes the bay or halts. -/
  | bayunitFail (bay : BitVec 8) (unit : BitVec 8)
  /-- R462. The active keeper sends its heartbeat to the standby keeper every 1 µs. -/
  | keeperHeartbeat
  /-- R462. Three missed heartbeats or a failed self-check make the standby keeper take over. -/
  | keeperTakeover (cause : BitVec 8)
  /-- R488. A captured report is signed and its mailbox status becomes done. -/
  | attestationSigned (m : BitVec 7)
  /-- R487. Writing 1 to a mailbox's GO requests an attestation report. -/
  | attGo (m : BitVec 7) (src : DictSrc)
  /-- R485. A write to ARB_COMMIT blows anti-rollback fuses or is refused. -/
  | arbCommit (src : DictSrc) (v : BitVec 8)
  /-- R515. Writing 'save' stores user calibration and communication entries to flash. -/
  | storeAll (src : DictSrc) (v : BitVec 32)
  /-- R515. Writing 'load' sets the stored entries to their defaults in flash. -/
  | restoreAll (src : DictSrc) (v : BitVec 32)
  /-- R514. A user trim write changes the effective clamped value at the next boundary. -/
  | calibrationTrimWrite (src : DictSrc) (idx : BitVec 16) (sub : BitVec 8) (v : Word)
  /-- R519. Writing 3 to PROGRAM_CONTROL clears a firmware image, or is refused. -/
  | programClear (src : DictSrc) (sub : BitVec 8)
  /-- R519. Writing 1 to PROGRAM_CONTROL ends the transfer and checks the image. -/
  | programEnd (src : DictSrc) (sub : BitVec 8)
  /-- R536. Writing 1 or 2 clears failure counts of items for the next start. -/
  | clearStanding (src : DictSrc) (v : BitVec 8)
  /-- R517. Reading PEEK_DATA returns the selected bytes of a local address or carrel state. -/
  | peekData (src : DictSrc) (off : Nat) (len : Nat)
  /-- R513. Writing DESC_SELECT selects the entry whose description record the source reads. -/
  | descSelect (src : DictSrc) (v : BitVec 32)
  /-- R522. Writing 1 to a function entry starts the function or sets DEFERRED. -/
  | functionEnable (src : DictSrc) (fn : FuncId)
  /-- R523. Writing 0 to a function entry starts the stop work or is refused. -/
  | functionDisable (src : DictSrc) (fn : FuncId)
  /-- R523. The start work of a function ends with ON or OFF with FAULT. -/
  | functionStartDone (fn : FuncId) (ok : Bool)
  /-- R522. The stop work, including any scrub, ends and the function goes OFF, then STARTING if DEFERRED. -/
  | functionStopDone (fn : FuncId)
  /-- R523. A write to LNK_CTL.EN acts as the same write to the link's function entry. -/
  | lnkCtlEnWrite (src : Src) (l : Fin 12) (en : Bool)
  /-- R507. GO with WRITE 0 reads an entry into the window buffer. -/
  | dictRead (f : BitVec 6)
  /-- R508. GO with WRITE 1 writes part or all of an entry from the buffer. -/
  | dictWrite (f : BitVec 6)
  /-- R508. A multi-part transfer without a part for 1 s is discarded. -/
  | dictTransferTimeout (src : DictSrc)
  /-- R502. A USDO request writes an entry over CAN or ends with an abort code. -/
  | usdoDownload (idx : BitVec 16) (sub : BitVec 8) (size : Nat) (data : List Byte)
  /-- R502. A USDO request reads an entry over CAN. -/
  | usdoUpload (idx : BitVec 16) (sub : BitVec 8)
  /-- R502. A segment of a segmented USDO transfer arrives. -/
  | usdoSegment (last : Bool) (data : List Byte)
  /-- R502. No segment arrives within 1 s and the transfer aborts. -/
  | usdoTimeout
  /-- R500. NMT command enters Operational. -/
  | nmtStart
  /-- R500. NMT command enters Stopped. -/
  | nmtStop
  /-- R500. NMT command enters Pre-operational. -/
  | nmtPreOperational
  /-- R500. Communication entries take their stored values and the keeper sends boot-up. -/
  | resetCommunication
  /-- R500. As reset communication, also discarding unsaved user calibration. -/
  | resetApplication
  /-- R501. The heartbeat timer expires and the keeper sends its CAN heartbeat. -/
  | heartbeat
  /-- R501. The EMCY inhibit time expires and the next held message is sent. -/
  | emcyInhibitExpiry
  /-- R503. A TPDO of type 0xFF is sent on its event timer with live values. -/
  | tpdoEventTimer (n : BitVec 3)
  /-- R525. After a module reset the ten start-up steps run in order, recorded in the day book. -/
  | startUp (o : StartOutcome)
  /-- R532. An item whose attempt has not ended at its step's limit counts as failed. -/
  | startupStepTimeout (step : BitVec 4)
  /-- R526. Step 10 has not ended within 1.5 s of step 2 and the sequencer resets the module. -/
  | startupTimeLimit
  /-- R543. The electronic fuse trips at 48 A and removes input from every rail. -/
  | fuseTrip
  /-- R544. One second after a trip the sequencer restarts from step 1, unless three trips came in 60 s. -/
  | fuseRetry
  /-- R543. VIN falls below 60 V: EMCY 0x3120 and UV set. -/
  | undervoltage (v : BitVec 16)
  /-- R543. VIN rises above 80 V: EMCY 0x3110 and OV set. -/
  | overvoltage (v : BitVec 16)
  /-- R543. VIN stays inside 60–80 V for 10 ms and EMCY 0x0000 clears the condition. -/
  | voltageRecovered (v : BitVec 16)
  /-- R543. VIN below 54 V for 100 µs causes a shutdown with cause 2. -/
  | brownOut
  /-- R543. VIN above 86 V for 10 µs causes a shutdown with cause 3. -/
  | severeOvervoltage
  /-- R546. A running rail loses power-good and the module shuts down with cause 6. -/
  | railPowerGoodLost (k : BitVec 4)
  /-- R561. PWR_EN falls low and the module shuts down with cause 8. -/
  | pwrEnLow
  /-- R552. PWR_EN returns high and a held-off sequencer may start again. -/
  | pwrEnHigh
  /-- R553. Input power is removed; the shutdown is recorded with cause 9. -/
  | inputRemoved
  /-- R525. VIN appears and step 1 input qualification starts. -/
  | inputApplied (v : BitVec 16)
  /-- R545. A sense line reads open or the pair shorted, and VIN_SENSE reads the contact voltage. -/
  | senseFault (k : BitVec 2)
  /-- R550. A zone reading crosses a threshold and the zone rises to that level within 1 ms. -/
  | zoneLevelRise (z : BitVec 4) (reading : BitVec 16)
  /-- R550. A sensor reads open or shorted and is excluded, possibly blinding its zone. -/
  | sensorFault (z : BitVec 4) (i : BitVec 4)
  /-- R552. The module is still at level 3 after 1 ms and the sequencer shuts down with cause 4 or 5. -/
  | criticalHoldExpiry
  /-- R552. With AUTO_RESTART set, 60 s at level 0 restarts the module from step 1. -/
  | autoRestart
  /-- R122. Fill data for an instruction-fetch miss returns, the I-cache chooses its victim and advances its LFSR, and fetch resumes. -/
  | iCacheFill (c : BitVec 12) (pa : BitVec 56)
  /-- R116. The data of an uncached load, the old value of an atomic, or the acknowledgement of a vector store or VSCTA returns over the mesh to the waiting carrel. -/
  | meshResponse (c : BitVec 12) (data : List Byte)
  /-- R436. A host read of a COPY_H2D transfer completes, normally or with an error status that ends the command as HOST-ERROR, and the transfer's device writes and completion follow. -/
  | hostReadCompletion (e : BitVec 4) (res : HostReadRes)
  /-- R464. A keeper fails while no working standby remains, leaving the module without a keeper, reported only through the ring and vector 0. -/
  | keeperFailure (k : Bool)
  /-- R550. A failed thermal or flow sensor reads within range again and rejoins its zone, ending a blind zone's forced level 2. -/
  | sensorRecovered (z : BitVec 4) (i : BitVec 4) (reading : BitVec 16)
  /-- R561. A short on CANH, CANL or CAN_GND drives the keeper's CAN controller bus-off. -/
  | canBusOff
  /-- R561. Once the short clears, the CAN controller recovers from bus-off as ISO 11898-1 prescribes and resumes its services. -/
  | canBusOffRecovery
  /-- R525. One second after input qualification or rail start-up fails, the power sequencer retries from step 1 while input is present. -/
  | startupRetry
  deriving DecidableEq, Repr

end Sys2Proof
end

