-- ==== Sys2Proof/Decode.lean ====
section
/-!
DEFINITION. The word form of the commands. No row of spec/opcode_table.json gives bits, so no word spells a
command: the commands reach the block as the accesses, instructions and events that `Instr` names.
-/

namespace Sys2Proof

/-- The command that a word spells by the table's bits: none, since no row gives bits. DESIGN CHOICE (log entry 10). -/
def decodeTableWord (_nbits _w : Nat) : Option Instr := none

end Sys2Proof
end

