-- ==== Sys2Proof/Config.lean ====
section
/-!
DEFINITION. What the spec leaves open: free values, opaque constants with no body, so that every
statement holds whatever they are. Each is applied to the count of values drawn so far (`State.fresh`)
or to the operands it depends on.
-/

namespace Sys2Proof

/-- A 64-bit free value (log entry 3). DESIGN CHOICE. -/
opaque Config.freeWord : Nat → BitVec 64

/-- The data-stack bank that a frame's reserved PDBANK value 3 names (log entry 6). DESIGN CHOICE. -/
opaque Config.bankOfThree : BitVec 2

/-- The word a fill reads from a stack slot beyond the end of the shelf (log entry 7). DESIGN CHOICE. -/
opaque Config.fillBeyond : Nat → Nat → BitVec 64

/-- The number of cycles a carrel spends between two looks at its watchdog (R66, log entry 8). DESIGN CHOICE. -/
opaque Config.cycles : Nat → Nat

/-- The number that the error record of a RETRAIN gives the first cause of R386 (log entry 9). DESIGN CHOICE. -/
opaque Config.causeBase : Nat

/-- The column, 0 to 5 of the six of R17, at which a local address enters its stack's controller (log entry 15). DESIGN CHOICE. -/
opaque Config.hbmColumn : Nat → Nat

/-- The mesh row at which traffic of a link enters its port die (R17, log entry 15). DESIGN CHOICE. -/
opaque Config.portRow : Nat → Nat

/-- Hops from one chip to another (R395); no register of the module holds the length of a route of more
than one hop (log entry 16). DESIGN CHOICE. -/
opaque Config.pathHops : Nat → Nat → Nat

/-- Intermediate modules of a route at which the path changes port die (R395, log entry 16). DESIGN CHOICE. -/
opaque Config.pathChanges : Nat → Nat → Nat

/-- SOFTWARE_VERSION of the running image, by its body digest: the text of a version is not stated (R512,
log entry 21). DESIGN CHOICE. -/
opaque Config.softwareVersion : List (BitVec 8) → BitVec 128

/-- The UNIT text of a description record whose table names no unit of at most 8 characters, by
index × 256 + subindex (R513, log entry 22). DESIGN CHOICE. -/
opaque Config.unitText : Nat → BitVec 64

/-- The parcel of a REPX that RETX resumed (R142, R163): the frame does not hold it (log entry 24). DESIGN CHOICE. -/
opaque Config.repxParcel : Nat → BitVec 16

/-- Whether a selection between two NaN operands takes the first (R95, log entry 23). DESIGN CHOICE. -/
opaque Config.bothNan : Nat → Nat → Bool

/-- Where the contents of a census record lie whose table names them without offsets: by kind of record, 0 package,
1 bay, 2 link, 3 context, and offset, the byte of the contents in the table's order (R471, log entry 88). DESIGN CHOICE. -/
opaque Config.censusPlace : Nat → Nat → Option Nat

end Sys2Proof
end

