-- ==== Sys2Proof/Machine/Bits.lean ====
section
/-!
DEFINITION. The plain-data helpers of the machine: sparse tables, bit fields, byte strings in
little-endian order (R49, R121) and saturating counters.
-/

namespace Sys2Proof

namespace Tab

/-- The value at a key; the default where the key is not listed. -/
def get {α : Type} (d : α) : Tab α → Nat → α
  | [], _ => d
  | (k, v) :: t, n => if n = k then v else get d t n

/-- The collection without a key. -/
def erase {α : Type} : Tab α → Nat → Tab α
  | [], _ => []
  | (k, v) :: t, n => if n = k then erase t n else (k, v) :: erase t n

/-- The collection with a value placed at a key (kept sorted). -/
def insert {α : Type} : Tab α → Nat → α → Tab α
  | [], n, x => [(n, x)]
  | (k, v) :: t, n, x =>
    if n = k then (n, x) :: t else if n < k then (n, x) :: (k, v) :: t else (k, v) :: insert t n x

/-- Writes a value at a key; writing the default removes the entry. -/
def set {α : Type} [DecidableEq α] (d : α) (t : Tab α) (n : Nat) (x : α) : Tab α :=
  if x = d then erase t n else insert t n x

/-- The canonical form: keys strictly rising from `lo`, no default listed. -/
def wfFrom {α : Type} [DecidableEq α] (d : α) : Nat → Tab α → Bool
  | _, [] => true
  | lo, (k, v) :: t => decide (lo ≤ k) && decide (v ≠ d) && wfFrom d (k + 1) t

/-- The canonical form of a collection with default `d`. -/
def wf {α : Type} [DecidableEq α] (d : α) (t : Tab α) : Bool := wfFrom d 0 t

/-- Sets every entry of a list of (key, value) pairs in turn. -/
def setAll {α : Type} [DecidableEq α] (d : α) (t : Tab α) : List (Nat × α) → Tab α
  | [] => t
  | (k, v) :: l => setAll d (set d t k v) l

end Tab

/-- Bit `i` of a word as a one-bit number. -/
def bitNat {w : Nat} (x : BitVec w) (i : Nat) : Nat := if x.getLsbD i then 1 else 0

/-- The field of `w` bits that starts at bit `lo`. -/
def field {n : Nat} (x : BitVec n) (lo w : Nat) : BitVec w := x.extractLsb' lo w

/-- A field's value as a number. -/
def fieldN {n : Nat} (x : BitVec n) (lo w : Nat) : Nat := (x.extractLsb' lo w).toNat

/-- A value zero-extended and shifted to bit `lo` of a 64-bit word. -/
def place {w : Nat} (x : BitVec w) (lo : Nat) : Word := (x.setWidth 64) <<< lo

/-- A Bool as a bit. -/
def bit (b : Bool) : BitVec 1 := BitVec.ofBool b

/-- A Bool as 0 or 1. -/
def b2n (b : Bool) : Nat := if b then 1 else 0

/-- The little-endian number of a list of bytes. -/
def bytesToNat : List Byte → Nat
  | [] => 0
  | b :: l => b.toNat + 256 * bytesToNat l

/-- The `n` low bytes of a number, lowest first. -/
def natToBytes : Nat → Nat → List Byte
  | 0, _ => []
  | n + 1, x => BitVec.ofNat 8 x :: natToBytes n (x / 256)

/-- The bytes of a list from `off`, `n` of them (fewer where the list ends). -/
def slice {α : Type} (l : List α) (off n : Nat) : List α := (l.drop off).take n

/-- The little-endian number of `n` bytes at `off` of a byte string; bytes past its end count 0. -/
def leAt (l : List Byte) (off n : Nat) : Nat := bytesToNat (slice l off n)

/-- Byte string with the bytes `b` written over it from `off`. -/
def patch (l : List Byte) (off : Nat) (b : List Byte) : List Byte :=
  l.take off ++ b ++ l.drop (off + b.length)

/-- Ceiling of a quotient. -/
def ceilDiv (a b : Nat) : Nat := (a + b - 1) / b

/-- The low 64 bits of a number. -/
def word (n : Nat) : Word := BitVec.ofNat 64 n

/-- Sign extension of the low `w` bits of a word to 64 bits. -/
def sext (w : Nat) (x : Word) : Word := (x.setWidth w).signExtend 64

/-- Saturating increment of an unsigned counter of width `w`. -/
def satInc {w : Nat} (x : BitVec w) : BitVec w := if x = BitVec.allOnes w then x else x + 1

/-- Adds to an unsigned counter of width `w`, stopping at its largest value. -/
def satAdd {w : Nat} (x : BitVec w) (n : Nat) : BitVec w :=
  if x.toNat + n < 2 ^ w then BitVec.ofNat w (x.toNat + n) else BitVec.allOnes w

/-- The list with the element at a position replaced (unchanged past its end). -/
def listSet {α : Type} : List α → Nat → α → List α
  | [], _, _ => []
  | _ :: t, 0, x => x :: t
  | a :: t, n + 1, x => a :: listSet t n x

/-- All numbers 0 … n − 1. -/
def upto (n : Nat) : List Nat := List.range n

/-- The element width of a TYPE in bits (R188 to R200). -/
def tyBits (ty : Nat) : Nat :=
  [64, 32, 16, 16, 8, 8, 6, 6, 4, 8, 8, 32, 64, 32, 64, 128, 96].getD ty 8

end Sys2Proof
end

