-- ==== Sys2Proof/Machine/Operands.lean ====
section
/-!
DEFINITION. Number formats and rounding (spec/07_number_formats.md): the value of every storage
format, exact sums and products, and ONE rounding routine for both rounding modes of R205.

A finite value is held exactly, as a sign, a natural mantissa and a binary exponent. A result that no
such pair can hold (a quotient, a root, an exponential) is a `Mag`: a magnitude known through the
floor of its product with any power of two, which is all that R205 and R206 ask of it.
-/

namespace Sys2Proof

/-- The floating storage and accumulation formats of R188 and R194. -/
inductive Fmt where
  | f64 | f32 | bf16 | f16 | e5m2 | e4m3 | e3m2 | e2m3 | e2m1 | a128
  deriving DecidableEq, Repr

/-- Exponent field width (R188, R194). -/
def Fmt.eb : Fmt → Nat
  | .f64 => 11 | .f32 => 8 | .bf16 => 8 | .f16 => 5 | .e5m2 => 5
  | .e4m3 => 4 | .e3m2 => 3 | .e2m3 => 2 | .e2m1 => 2 | .a128 => 15

/-- Fraction field width (R188, R194). -/
def Fmt.mb : Fmt → Nat
  | .f64 => 52 | .f32 => 23 | .bf16 => 7 | .f16 => 10 | .e5m2 => 2
  | .e4m3 => 3 | .e3m2 => 2 | .e2m3 => 3 | .e2m1 => 1 | .a128 => 112

/-- Exponent bias (R188, R194). -/
def Fmt.bias : Fmt → Nat
  | .f64 => 1023 | .f32 => 127 | .bf16 => 127 | .f16 => 15 | .e5m2 => 15
  | .e4m3 => 7 | .e3m2 => 3 | .e2m3 => 1 | .e2m1 => 1 | .a128 => 16383

/-- Width in bits. -/
def Fmt.width (f : Fmt) : Nat := 1 + f.eb + f.mb

/-- Whether the format has infinities encoded as in binary64 (R189). -/
def Fmt.ieee : Fmt → Bool
  | .e4m3 | .e3m2 | .e2m3 | .e2m1 => false
  | _ => true

/-- The canonical NaN of the format (R195); formats without a NaN have none and answer 0. -/
def Fmt.nan : Fmt → Nat
  | .f64 => 0x7FF8000000000000 | .f32 => 0x7FC00000 | .bf16 => 0x7FC0 | .f16 => 0x7E00
  | .e5m2 => 0x7E | .e4m3 => 0x7F | .a128 => 0x7FFF8000 * 2 ^ 96
  | .e3m2 | .e2m3 | .e2m1 => 0

/-- The code of the largest finite magnitude (R189). -/
def Fmt.maxCode (f : Fmt) : Nat :=
  match f with
  | .e4m3 => 0x7E
  | .e3m2 | .e2m3 | .e2m1 => 2 ^ (f.eb + f.mb) - 1
  | _ => (2 ^ f.eb - 1) * 2 ^ f.mb - 1

/-- The code of +∞ in a format that has one. -/
def Fmt.infCode (f : Fmt) : Nat := (2 ^ f.eb - 1) * 2 ^ f.mb

/-- An exactly held number: NaN, an infinity, or (−1)^neg × man × 2^exp. -/
inductive Num where
  | nan
  | inf (neg : Bool)
  | fin (neg : Bool) (man : Nat) (exp : Int)
  deriving DecidableEq, Repr

/-- The value of a code of a format (R188, R189). -/
def Fmt.decode (f : Fmt) (x : Nat) : Num :=
  let s := decide ((x / 2 ^ (f.eb + f.mb)) % 2 = 1)
  let e := (x / 2 ^ f.mb) % 2 ^ f.eb
  let m := x % 2 ^ f.mb
  if f.ieee && decide (e = 2 ^ f.eb - 1) then
    if m = 0 then .inf s else .nan
  else if decide (f = .e4m3) && decide (x % 128 = 127) then .nan
  else if e = 0 then .fin s m (1 - (f.bias : Int) - f.mb)
  else .fin s (2 ^ f.mb + m) ((e : Int) - f.bias - f.mb)

/-- A magnitude known through floor(|x| × 2^k) and whether that floor is inexact, for every k, with the
floor of its base-2 logarithm. Used while a result is being rounded; it is never part of the state. -/
structure Mag where
  lg : Int
  fl : Int → Nat × Bool

/-- floor(man × 2^s), and whether anything was dropped. -/
def shiftFloor (man : Nat) (s : Int) : Nat × Bool :=
  if 0 ≤ s then (man * 2 ^ s.toNat, false)
  else (man / 2 ^ (-s).toNat, decide (man % 2 ^ (-s).toNat ≠ 0))

/-- The magnitude man × 2^exp, man > 0. -/
def Mag.dyadic (man : Nat) (exp : Int) : Mag :=
  { lg := (man.log2 : Int) + exp, fl := fun k => shiftFloor man (exp + k) }

/-- The magnitude (ma × 2^ea) / (mb × 2^eb), both positive. -/
def Mag.quot (ma : Nat) (ea : Int) (mb : Nat) (eb : Int) : Mag :=
  let fl := fun k : Int =>
    let s := ea - eb + k
    let num := if 0 ≤ s then ma * 2 ^ s.toNat else ma
    let den := if 0 ≤ s then mb else mb * 2 ^ (-s).toNat
    (num / den, decide (num % den ≠ 0))
  let c : Int := ((ma.log2 : Int) + ea) - ((mb.log2 : Int) + eb)
  { lg := if 1 ≤ (fl (-c)).1 then c else c - 1, fl := fl }

/-- Integer square root by bits: the largest r below 2^n with r² ≤ x, built on `acc`. -/
def isqrtGo : Nat → Nat → Nat → Nat
  | 0, acc, _ => acc
  | n + 1, acc, x =>
    let t := acc + 2 ^ n
    isqrtGo n (if t * t ≤ x then t else acc) x

/-- Integer square root. -/
def isqrt (x : Nat) : Nat := isqrtGo (x.log2 / 2 + 1) 0 x

/-- The magnitude √(man × 2^exp), man > 0. -/
def Mag.root (man : Nat) (exp : Int) : Mag :=
  { lg := (((man.log2 : Int) + exp) / 2 : Int)
    fl := fun k =>
      let (y, st) := shiftFloor man (exp + 2 * k)
      let r := isqrt y
      (r, st || decide (r * r ≠ y)) }

/-- The magnitude times 2^e. -/
def Mag.scale (m : Mag) (e : Int) : Mag := { lg := m.lg + e, fl := fun k => m.fl (k + e) }

/-- A value on its way into a destination format. -/
inductive Val where
  | nan
  | inf (neg : Bool)
  | zero (neg : Bool)
  | mag (neg : Bool) (m : Mag)

/-- An exact number as a value to round. -/
def Num.toVal : Num → Val
  | .nan => .nan
  | .inf s => .inf s
  | .fin s m e => if m = 0 then .zero s else .mag s (.dyadic m e)

/-- The value times 2^e. -/
def Val.scale (e : Int) : Val → Val
  | .mag s m => .mag s (m.scale e)
  | v => v

/-- The two rounding modes of R205: to nearest even, or stochastic with r[63:40] (R206). -/
inductive Rnd where
  | rne
  | sr (r24 : Nat)
  deriving DecidableEq, Repr

/-- Rounds |x| / 2^q to an integer: to nearest with ties to even, or by R206. -/
def roundAt (r : Rnd) (m : Mag) (q : Int) : Nat :=
  match r with
  | .rne =>
    let (n2, st) := m.fl (1 - q)
    let n := n2 / 2
    if n2 % 2 = 1 && (st || decide (n % 2 = 1)) then n + 1 else n
  | .sr r24 =>
    let n24 := (m.fl (24 - q)).1
    let n := n24 / 2 ^ 24
    if n24 % 2 ^ 24 + r24 ≥ 2 ^ 24 then n + 1 else n

/-- Rounds a magnitude into a format with an unbounded exponent: (n, q) with result n × 2^q. -/
def Fmt.round (f : Fmt) (r : Rnd) (m : Mag) : Nat × Int :=
  let q : Int := max (m.lg - f.mb) (1 - (f.bias : Int) - f.mb)
  (roundAt r m q, q)

/-- Cause codes of a NaN event (R208). -/
inductive NanCause where
  | invMul | invAdd | invDiv | invSqrt | cvtOvf
  deriving DecidableEq, Repr

/-- The code of a cause (R208). -/
def NanCause.code : NanCause → BitVec 4
  | .invMul => 1 | .invAdd => 2 | .invDiv => 3 | .invSqrt => 4 | .cvtOvf => 5

/-- What a conversion gives: the code, whether it saturated (R199), and a produced NaN's cause. -/
structure Conv where
  bits : Nat
  sat : Bool := false
  event : Option NanCause := none
  deriving DecidableEq, Repr

/-- The value of a code as a magnitude pair, for comparing with the largest finite value. -/
def Fmt.maxPair (f : Fmt) : Nat × Int :=
  match f.decode f.maxCode with
  | .fin _ m e => (m, e)
  | _ => (0, 0)

/-- a × 2^ea ≤ b × 2^eb. -/
def leScaled (a : Nat) (ea : Int) (b : Nat) (eb : Int) : Bool :=
  if ea ≤ eb then decide (a ≤ b * 2 ^ (eb - ea).toNat) else decide (a * 2 ^ (ea - eb).toNat ≤ b)

/-- The code, without sign, of n × 2^q, which the format holds exactly. -/
def Fmt.encodeMag (f : Fmt) (n : Nat) (q : Int) : Nat :=
  if n = 0 then 0 else
  let lg : Int := (n.log2 : Int) + q
  let emin : Int := 1 - (f.bias : Int)
  if lg < emin then (shiftFloor n (q - (emin - f.mb))).1
  else
    let man := (shiftFloor n (q - (lg - f.mb))).1
    (lg + f.bias).toNat * 2 ^ f.mb + (man - 2 ^ f.mb)

/-- The sign bit of a format's code. -/
def Fmt.signBit (f : Fmt) (neg : Bool) : Nat := if neg then 2 ^ (f.eb + f.mb) else 0

/-- Conversion of a value into a floating format (R197). `sat` selects saturation of an E4M3
destination; the formats without infinities other than E4M3 always saturate. -/
def Fmt.convert (f : Fmt) (sat : Bool) (r : Rnd) (v : Val) : Conv :=
  let ovf (neg : Bool) : Conv :=
    match f with
    | .e4m3 => if sat then { bits := f.signBit neg + f.maxCode, sat := true }
               else { bits := f.nan, event := some .cvtOvf }
    | .e3m2 | .e2m3 | .e2m1 => { bits := f.signBit neg + f.maxCode, sat := true }
    | _ => { bits := f.signBit neg + f.infCode }
  match v with
  | .nan => { bits := f.nan }
  | .inf s => ovf s
  | .zero s => { bits := f.signBit s }
  | .mag s m =>
    let (n, q) := f.round r m
    let (mm, me) := f.maxPair
    if leScaled n q mm me then { bits := f.signBit s + f.encodeMag n q } else ovf s

/-- A scaled element of a block-scaled format: a finite overflow saturates whatever SAT holds, and ±∞ takes
its own column (R197). -/
def Fmt.convertMx (f : Fmt) (sat : Bool) (r : Rnd) (v : Val) : Conv :=
  let top (neg : Bool) : Conv := { bits := f.signBit neg + f.maxCode, sat := true }
  match v with
  | .nan => { bits := 0 }
  | .inf s => f.convert sat r (.inf s)
  | .zero s => { bits := f.signBit s }
  | .mag s m =>
    let (n, q) := f.round r m
    let (mm, me) := f.maxPair
    if leScaled n q mm me then { bits := f.signBit s + f.encodeMag n q } else top s

/-- Rounds a value × 2^sh to a two's-complement integer between `lo` and `hi`, saturating; the code
has `w` bits and `nanCode` stands for a NaN (R197). -/
def toIntCode (w : Nat) (lo hi : Int) (nanCode : Nat) (sh : Int) (r : Rnd) (v : Val) : Conv :=
  let enc (i : Int) : Nat := (i % (2 ^ w : Int)).toNat
  match v with
  | .nan => { bits := nanCode }
  | .inf s => { bits := enc (if s then lo else hi), sat := true }
  | .zero _ => { bits := 0 }
  | .mag s m =>
    let n : Int := roundAt r m (-sh)
    let i : Int := if s then -n else n
    if i < lo then { bits := enc lo, sat := true }
    else if hi < i then { bits := enc hi, sat := true }
    else { bits := enc i }

/-- The code of INVALID in FX64 (R192). -/
def fxInvalid : Nat := 2 ^ 63

/-- Conversion to FX64 with exponent E (R198). -/
def toFx (e : Int) (r : Rnd) (v : Val) : Conv :=
  toIntCode 64 (-(2 ^ 63 - 1)) (2 ^ 63 - 1) fxInvalid (-e) r v

/-- The exact value of a two's-complement code of `w` bits times 2^sh. -/
def intNum (w : Nat) (sh : Int) (x : Nat) : Num :=
  let i : Int := (BitVec.ofNat w x).toInt
  .fin (decide (i < 0)) i.natAbs sh

/-- The value of an FX64 code with exponent E (R192, R198). -/
def fxNum (e : Int) (x : Nat) : Num := if x = fxInvalid then .nan else intNum 64 e x

/-- FX64 addition on codes: INVALID is kept, otherwise the sum saturates at ±(2^63 − 1) (R198). The
flag says that it saturated. -/
def fxAdd (x y : Nat) : Nat × Bool :=
  if x = fxInvalid || y = fxInvalid then (fxInvalid, false) else
  let s := (BitVec.ofNat 64 x).toInt + (BitVec.ofNat 64 y).toInt
  if s > 2 ^ 63 - 1 then (2 ^ 63 - 1, true)
  else if s < -(2 ^ 63 - 1) then (2 ^ 63 + 1, true)
  else ((s % 2 ^ 64).toNat, false)

/-! ### Exact arithmetic -/

/-- The sign of a number; a NaN counts as positive. -/
def Num.neg : Num → Bool
  | .nan => false | .inf s => s | .fin s _ _ => s

/-- Sign flipped. -/
def Num.negate : Num → Num
  | .nan => .nan | .inf s => .inf (!s) | .fin s m e => .fin (!s) m e

/-- Sign cleared. -/
def Num.abs : Num → Num
  | .nan => .nan | .inf _ => .inf false | .fin _ m e => .fin false m e

/-- The exact sum; opposite infinities give NaN. Zeros of opposite sign and equal values of opposite
sign sum to +0 (R196). -/
def Num.add : Num → Num → Num
  | .nan, _ => .nan
  | _, .nan => .nan
  | .inf s, .inf t => if s = t then .inf s else .nan
  | .inf s, _ => .inf s
  | _, .inf t => .inf t
  | .fin s m e, .fin t n f =>
    let q := min e f
    let a : Int := (m * 2 ^ (e - q).toNat : Nat)
    let b : Int := (n * 2 ^ (f - q).toNat : Nat)
    let c := (if s then -a else a) + (if t then -b else b)
    if c = 0 then .fin (s && t && decide (m = 0) && decide (n = 0)) 0 q
    else .fin (decide (c < 0)) c.natAbs q

/-- The exact product; 0 × ∞ gives NaN. -/
def Num.mul : Num → Num → Num
  | .nan, _ => .nan
  | _, .nan => .nan
  | .inf s, .inf t => .inf (s != t)
  | .inf s, .fin t n _ => if n = 0 then .nan else .inf (s != t)
  | .fin s m _, .inf t => if m = 0 then .nan else .inf (s != t)
  | .fin s m e, .fin t n f => .fin (s != t) (m * n) (e + f)

/-- Whether a number is a NaN. -/
def Num.isNan : Num → Bool
  | .nan => true | _ => false

/-- Whether a number is finite. -/
def Num.isFin : Num → Bool
  | .fin .. => true | _ => false

/-- Whether a number is zero. -/
def Num.isZero : Num → Bool
  | .fin _ m _ => decide (m = 0) | _ => false

/-- The cause of a NaN that the sum of two numbers produces (R96). -/
def addCause : Num → Num → Option NanCause
  | .inf s, .inf t => if s = t then none else some .invAdd
  | _, _ => none

/-- The cause of a NaN that the product of two numbers produces (R96). -/
def mulCause : Num → Num → Option NanCause
  | .inf _, .fin _ n _ => if n = 0 then some .invMul else none
  | .fin _ m _, .inf _ => if m = 0 then some .invMul else none
  | _, _ => none

/-- a < b for numbers that are no NaN; −0 and +0 are equal. -/
def Num.ltNum (a b : Num) : Bool :=
  match a, b with
  | .nan, _ => false
  | _, .nan => false
  | .inf s, .inf t => s && !t
  | .inf s, _ => s
  | _, .inf t => !t
  | .fin s m e, .fin t n f =>
    let q := min e f
    let x : Int := (m * 2 ^ (e - q).toNat : Nat)
    let y : Int := (n * 2 ^ (f - q).toNat : Nat)
    decide ((if s then -x else x) < (if t then -y else y))

/-- a = b as numbers; false with a NaN (R95). -/
def Num.eqNum (a b : Num) : Bool :=
  !a.isNan && !b.isNan && !a.ltNum b && !b.ltNum a

/-- a ≤ b; false with a NaN (R95). -/
def Num.leNum (a b : Num) : Bool := a.ltNum b || a.eqNum b

/-- a orders below b in the selection of FMIN and FMAX, where −0 lies below +0 (R95). -/
def Num.belowSel (a b : Num) : Bool :=
  a.ltNum b || (a.isZero && b.isZero && a.neg && !b.neg)

/-- The quotient of two numbers as a value to round, with the cause of a produced NaN (R96). -/
def Num.div (a b : Num) : Val × Option NanCause :=
  match a, b with
  | .nan, _ => (.nan, none)
  | _, .nan => (.nan, none)
  | .inf _, .inf _ => (.nan, some .invDiv)
  | .inf s, .fin t _ _ => (.inf (s != t), none)
  | .fin s _ _, .inf t => (.zero (s != t), none)
  | .fin s m e, .fin t n f =>
    if n = 0 then (if m = 0 then (.nan, some .invDiv) else (.inf (s != t), none))
    else if m = 0 then (.zero (s != t), none)
    else (.mag (s != t) (.quot m e n f), none)

/-- The square root, with the cause of a produced NaN; √−0 is −0 (R96). -/
def Num.sqrt : Num → Val × Option NanCause
  | .nan => (.nan, none)
  | .inf s => if s then (.nan, some .invSqrt) else (.inf false, none)
  | .fin s m e =>
    if m = 0 then (.zero s, none)
    else if s then (.nan, some .invSqrt)
    else (.mag false (.root m e), none)

/-! ### Operations in one floating format (R95, R103, R174) -/

/-- A result code of an operation and the cause of a NaN it produced. -/
abbrev FRes := Nat × Option NanCause

/-- Rounds a value to nearest even into the format of the operation. -/
def Fmt.rne (f : Fmt) (v : Val) : Nat := (f.convert false .rne v).bits

/-- Sum (R95). -/
def Fmt.addOp (f : Fmt) (x y : Nat) : FRes :=
  let a := f.decode x; let b := f.decode y
  (f.rne (a.add b).toVal, addCause a b)

/-- Difference (R95). -/
def Fmt.subOp (f : Fmt) (x y : Nat) : FRes :=
  let a := f.decode x; let b := (f.decode y).negate
  (f.rne (a.add b).toVal, addCause a b)

/-- Product (R95). -/
def Fmt.mulOp (f : Fmt) (x y : Nat) : FRes :=
  let a := f.decode x; let b := f.decode y
  (f.rne (a.mul b).toVal, mulCause a b)

/-- Fused x × y + z with one rounding (R95). A product of 0 and an infinity gives the cause INV-MUL even where z is a
NaN. DESIGN CHOICE (log entry 74). -/
def Fmt.fmaOp (f : Fmt) (x y z : Nat) : FRes :=
  let a := f.decode x; let b := f.decode y; let c := f.decode z
  let p := a.mul b
  (f.rne (p.add c).toVal, (mulCause a b).or (addCause p c))

/-- Quotient (R95). -/
def Fmt.divOp (f : Fmt) (x y : Nat) : FRes :=
  let (v, c) := (f.decode x).div (f.decode y)
  (f.rne v, c)

/-- Square root (R95). -/
def Fmt.sqrtOp (f : Fmt) (x : Nat) : FRes :=
  let (v, c) := (f.decode x).sqrt
  (f.rne v, c)

/-- Of two NaN operands each yields the other (R95); which of the two results is not stated (log entry 23). -/
def bothNanPick (x y : Nat) : Nat := if Config.bothNan x y then x else y

/-- Minimum: a NaN operand yields the other, bits unchanged (R95, R195). -/
def Fmt.minOp (f : Fmt) (x y : Nat) : Nat :=
  let a := f.decode x; let b := f.decode y
  if a.isNan && b.isNan then bothNanPick x y
  else if a.isNan then y else if b.isNan then x else if b.belowSel a then y else x

/-- Maximum: a NaN operand yields the other, bits unchanged (R95, R195). -/
def Fmt.maxOp (f : Fmt) (x y : Nat) : Nat :=
  let a := f.decode x; let b := f.decode y
  if a.isNan && b.isNan then bothNanPick x y
  else if a.isNan then y else if b.isNan then x else if a.belowSel b then y else x

/-- Sign flipped, every other bit kept (R95). -/
def Fmt.negOp (f : Fmt) (x : Nat) : Nat := x ^^^ 2 ^ (f.eb + f.mb)

/-- Sign cleared, every other bit kept (R95). -/
def Fmt.absOp (f : Fmt) (x : Nat) : Nat := x % 2 ^ (f.eb + f.mb)

/-! ### The random word of stochastic rounding (R207) -/

/-- The random word r of element i of operation op, issued by carrel c, in work tick w. -/
def srWord (w : Word) (c : BitVec 12) (op : BitVec 32) (i : Nat) : Word :=
  let seed := (w * 0x9E3779B97F4A7C15#64) ^^^ ((c.setWidth 64) <<< 52) ^^^ ((op.setWidth 64) <<< 20)
    ^^^ BitVec.ofNat 64 (i % 2 ^ 20)
  let z := seed + 0x9E3779B97F4A7C15#64
  let z := (z ^^^ (z >>> 30)) * 0xBF58476D1CE9E5B9#64
  let z := (z ^^^ (z >>> 27)) * 0x94D049BB133111EB#64
  z ^^^ (z >>> 31)

/-- r[63:40] of a random word. -/
def srBits (r : Word) : Nat := fieldN r 40 24

/-! ### Block scales (R201 to R204) -/

/-- emax of the floor rule (R202), for a format that may be block-scaled; MXINT8 is `none`. -/
def emaxOf : Option Fmt → Int
  | none => 0
  | some .e5m2 => 15 | some .e4m3 => 8 | some .e3m2 => 4 | some .e2m3 => 2 | some .e2m1 => 2
  | some .bf16 => 127 | some .f16 => 15
  | some _ => 0

/-- amax / 2^e ≤ the largest finite element value, with amax = floor pair of a magnitude. -/
def fitsMax (fmt : Option Fmt) (m : Mag) (e : Int) : Bool :=
  let (mm, me) := match fmt with
    | none => (127, (-6 : Int))
    | some f => f.maxPair
  -- |x| ≤ mm × 2^(me + e) holds when floor(|x| × 2^−(me+e)) < mm, or equals it exactly
  let (n, st) := m.fl (-(me + e))
  decide (n < mm) || (decide (n = mm) && !st)

/-- The scale exponent e of a block with largest finite magnitude `amax` (R202), clamped; `none` for
amax = 0 or a block without a finite element. `fit` selects SRULE 1. -/
def blockScale (fmt : Option Fmt) (fit : Bool) (amax : Option Mag) : BitVec 8 × Int :=
  match amax with
  | none => (0x7F#8, 0)
  | some m =>
    let e0 := m.lg - emaxOf fmt
    let e1 := if fit && !fitsMax fmt m e0 then e0 + 1 else e0
    let e := max (-127) (min 127 e1)
    (BitVec.ofInt 8 (e + 127), e)

end Sys2Proof
end

