-- ==== Sys2Proof/Machine/State.lean ====
section
/-!
DEFINITION. The state of the block: every piece of state the spec gives the machine, as plain data, the
queue of waiting commands, and the state after reset.
-/

namespace Sys2Proof.Machine

/-! ### The scalar core of a carrel (spec/03, spec/05) -/

/-- The three registers of one stack of one bank, as offsets divided by 8 (R81). -/
structure Ptrs where
  ptr : BitVec 15
  lo : BitVec 15
  hi : BitVec 15
  deriving DecidableEq, Repr

/-- One bank: the data stack and the return stack, resident entries top first (R75, R76, R140). -/
structure Bank where
  d : Ptrs
  dres : List Word
  r : Ptrs
  rres : List Word
  deriving DecidableEq, Repr

/-- The banks U, S, M of R80 and the rescue stacks of R165. -/
inductive BankId where
  | u | s | m | rescue
  deriving DecidableEq, Repr

/-- An active repeat prefix (R111, R112): its kind, the address of the prefix, the iterations left, and
the prefix's parcel (none for a REPX that RETX resumed: the frame does not hold it). -/
structure Repeat where
  repx : Bool
  addr : Word
  count : Word
  parcel : Option (BitVec 16)
  deriving DecidableEq, Repr

/-- One line of a cache: its tag and its 64 bytes (R120). -/
structure Line where
  tag : Nat
  data : List Byte
  deriving DecidableEq, Repr

/-- One entry of the merging buffer (R128): the block number PA / 64, the valid bytes by offset, whether
stores may merge into it, whether its write is issued, the partition its segment names, whether the
request was already answered once by an unmapped-target response (R30), and whether its write has been
acknowledged while a fill of its block is outstanding (R130). -/
structure MergeEntry where
  block : Nat
  bytes : Tab (Option Byte)
  mergeable : Bool
  issued : Bool
  part : BitVec 6
  retried : Bool
  acked : Bool
  deriving DecidableEq, Repr

/-- How far one half of a scalar load has come (R131, R137). -/
inductive LoadStage where
  /-- waits until the overlapping merging-buffer entries have drained -/
  | drain
  /-- its D-cache miss is outstanding -/
  | miss
  /-- an uncached read is outstanding on the mesh -/
  | mesh (retried : Bool)
  /-- its bytes have come -/
  | got (bytes : List Byte)
  deriving DecidableEq, Repr

/-- One half of a scalar load. -/
structure LoadHalf where
  va : Word
  pa : Nat
  n : Nat
  part : BitVec 6
  stage : LoadStage
  deriving DecidableEq, Repr

/-- One half of a scalar store that waits in the write stage (R128, R137). -/
structure StoreHalf where
  pa : Nat
  bytes : List Byte
  mergeable : Bool
  part : BitVec 6
  deriving DecidableEq, Repr

/-- One element access of a vector memory instruction after its checks (R181): element index, virtual
and physical address, and the bytes written (none for a load). -/
structure VecAcc where
  elem : Nat
  va : Word
  pa : Nat
  n : Nat
  part : BitVec 6
  bytes : List Byte
  deriving DecidableEq, Repr

/-- What a stalled carrel waits for. While a carrel waits, no instruction begins on it. -/
inductive Wait where
  | none
  /-- a descriptor-cache miss of one of its streams 0–3 (R374) -/
  | desc (stream : BitVec 3) (seg : BitVec 4)
  /-- a scalar load: form length, bytes, sign extension, its halves (R131, R137) -/
  | load (len : Nat) (signed : Bool) (halves : List LoadHalf)
  /-- a store in the write stage without free entries (R128) -/
  | store (len : Nat) (halves : List StoreHalf)
  /-- FENCE: every entry allocated before it acknowledged (R133) -/
  | fence (len : Nat)
  /-- FLUSHI: the buffer drained (R118) -/
  | flushi (len : Nat)
  /-- DCLEAN or a set-and-way clean of a block: operands that leave at the end; `inv`: the D-cache line slot
  invalidated at the end -/
  | clean (len : Nat) (pops : Nat) (block : Nat) (inv : Option Nat)
  /-- an atomic: operation, 64-bit, address, operands and, once its entries have drained, the request -/
  | atomic (len : Nat) (op : BitVec 4) (w : Bool) (va : Word) (pa : Nat) (part : BitVec 6)
      (x e : Word) (issued retried : Bool)
  /-- a vector memory instruction, its checks passed, before it touches the mesh: the buffer drains first
  (R180) -/
  | vecDrain (op : BitVec 5) (a : VMem) (accs : List VecAcc)
  /-- a vector load whose remote elements have not returned -/
  | vecLoad (op : BitVec 5) (a : VMem) (accs : List VecAcc)
  /-- a vector store or VSCTA whose writes have not been acknowledged (R180) -/
  | vecAck (op : BitVec 5) (a : VMem) (accs : List VecAcc)
  /-- BAR: descriptors and buffer to finish (R107, R134) -/
  | bar
  /-- BAR: joined, waiting for the others -/
  | joined
  /-- WTICK: descriptors and buffer to finish -/
  | wtick
  /-- at rest until the next work window (R107) -/
  | rest
  /-- an issue form that found its queue full: queue, count, operands that leave at the end, parameter (R105) -/
  | issue (q : Nat) (n : Nat) (pops : Nat) (param : Option Word)
  /-- QWAIT and MWAIT: at most k unfinished descriptors of an engine (R105, R232) -/
  | qwait (eng : Nat) (k : Word)
  /-- MRD.F: the array to finish, then the tile word (R232) -/
  | mrdf (tile : Word)
  deriving DecidableEq, Repr

/-- A held imprecise UNMAPPED fault (R145, R184): physical address, IMPMORE, vector element. -/
structure Imprecise where
  pa : Nat
  more : Bool
  elem : Option Nat
  deriving DecidableEq, Repr

/-- One entry of the seal stack (R152). -/
structure Seal where
  tag : BitVec 16
  shadow : Bool
  hlvl : BitVec 2
  deriving DecidableEq, Repr

/-- A shadow set (R148, R152). -/
structure Shadow where
  pc : Word
  status : Word
  cause : Word
  depth : Word
  busy : Bool
  deriving DecidableEq, Repr

/-- A NaN event (R208, R209): reporting unit, cause, phase, work tick, OP and position. -/
structure NanEvent where
  src : BitVec 3
  cause : BitVec 4
  phase : BitVec 8
  wtn : Word
  op : Word
  col : BitVec 16
  row : BitVec 16
  group : BitVec 16
  deriving DecidableEq, Repr

/-- The first-NaN record (R210 to R214). The held event keeps its value when VALID clears; the reads
answer 0 then. -/
structure NanRec where
  trapEn : Bool
  valid : Bool
  more : Bool
  settled : Bool
  ev : NanEvent
  deriving DecidableEq, Repr

/-- The tick watchdog (R67, R68). -/
structure Watchdog where
  budget : BitVec 32
  count : BitVec 32
  phase : BitVec 8
  ptick : BitVec 12
  run : Bool
  ovr : Bool
  max : BitVec 32
  deriving DecidableEq, Repr

/-- Power states of a carrel (R73). -/
inductive Power where
  | run | gate | hold | doze
  deriving DecidableEq, Repr

/-- A descriptor issued by a carrel and not yet finished: its list (queue), its position in that list
of the phase, its bytes as issued, its parameter word and whether its engine has started it. -/
structure Issued where
  queue : Nat
  idx : Nat
  desc : List Byte
  param : Option Word
  started : Bool
  /-- a data-mover descriptor whose writes are made and not all acknowledged (R321), and one that was stopped (R324) -/
  moved : Bool := false
  dead : Bool := false
  deriving DecidableEq, Repr

/-- The stationary registers after an MLD (R218, R225): mode, format word and, for DPU d and element k
of its slice, at position d × K_s + k, the element's code and its scale byte. -/
structure Stationary where
  split : Bool
  fmt : BitVec 16
  elems : List (Nat × BitVec 8)
  deriving DecidableEq, Repr

/-- Census counters of one carrel that planned and scalar work advance (R471, R472). -/
structure CarrelCount where
  satElem : BitVec 64
  satArray : BitVec 64
  corrected : BitVec 32
  /-- instructions retired, I-cache, D-cache and descriptor-cache misses (R472) -/
  retired : BitVec 64
  imiss : BitVec 64
  dmiss : BitVec 64
  segmiss : BitVec 64
  deriving DecidableEq, Repr

/-- Everything one carrel holds. -/
structure Carrel where
  level : BitVec 2
  rescue : Bool
  halted : Bool
  pc : Word
  bankU : Bank
  bankS : Bank
  bankM : Bank
  bankR : Bank
  dbank : BitVec 2
  rep : Option Repeat
  wait : Wait
  /-- an OVERRUN entry was taken in this plan tick (R164) -/
  overrun : Bool
  /-- the plan-tick program has ended (R61) -/
  ended : Bool
  ulim : BitVec 12
  vl : BitVec 11
  vstack : List (BitVec 8192)
  maskU : BitVec 3
  maskS : BitVec 3
  maskM : BitVec 3
  sentryS : BitVec 63
  sentryM : BitVec 63
  xvecS : BitVec 63
  xvecM : BitVec 63
  rescueVec : BitVec 63
  xspSTop : BitVec 12
  xspSFloor : BitVec 12
  xspMTop : BitVec 12
  xspMFloor : BitVec 12
  gateBase : BitVec 14
  gateCount : BitVec 11
  seals : List Seal
  sealNext : BitVec 16
  shdS : Shadow
  shdM : Shadow
  rescueSeal : BitVec 16
  fast : Bool
  keeperReq : Bool
  debugReq : Bool
  imprecise : Option Imprecise
  icache : Tab (Option Line)
  dcache : Tab (Option Line)
  icseed : BitVec 16
  dcseed : BitVec 16
  icInit : Bool
  dcInit : Bool
  mb : List MergeEntry
  nan : NanRec
  wd : Watchdog
  /-- descriptor caches: key stream × 16 + segment; `none` is an invalidated or unfilled entry -/
  desc : Tab (Option (BitVec 128))
  power : Power
  waking : Bool
  /-- the plan whose set holds the carrel, and its context -/
  plan : Option (BitVec 8)
  ctx : BitVec 12
  /-- next descriptor of the phase in each list: 0–3 MLD MSTR MRD MCLR, 4 element, 5 row, 6 + ch mover -/
  next : Tab Nat
  /-- issued, unfinished descriptors per engine: 0 array, 4 element, 5 row, 6 + ch mover channel -/
  queue : Tab (List Issued)
  stationary : Option Stationary
  tiles : Tab Word
  /-- array descriptors of the phase that have completed (R235) -/
  arrayDone : Nat
  count : CarrelCount
  deriving DecidableEq, Repr

/-! ### Plans (spec/02) -/

/-- States of a plan (R53); a slot without a plan is free. -/
inductive PlanState where
  | free | loading | ready | running | suspended | unloading
  deriving DecidableEq, Repr

/-- One ledger allocation (R250). -/
structure Alloc where
  first : Nat
  rows : Nat
  acc : Nat
  tile : Nat
  qexp : Int
  deriving DecidableEq, Repr

/-- One record of an RWSET segment (R567). -/
structure RwRange where
  carrel : Nat
  ptick : Nat
  va : Word
  len : Nat
  read : Bool
  write : Bool
  inplace : Bool
  padfill : Bool
  mirror : Bool
  channel : Nat
  snap : Word
  deriving DecidableEq, Repr

/-- One backing record of a SHELF segment (R565): carrel, shelf offset, length, virtual address. -/
structure Backing where
  carrel : Nat
  off : Nat
  len : Nat
  va : Word
  deriving DecidableEq, Repr

/-- One layer entry of a training section (R301). -/
structure Layer where
  tag : Nat
  frozen : Bool
  gselect : Bool
  fxselect : Bool
  gfmt0 : Nat
  gexpW : Int
  gexpG : Int
  gexpU : Int
  fxexp0 : Int
  fxhead : Nat
  deriving DecidableEq, Repr

/-- One follow entry (R302). -/
structure Follow where
  seg : Nat
  kind : Nat
  layer : Nat
  carrel : Nat
  byte : Nat
  index : Nat
  deriving DecidableEq, Repr

/-- A training section (R301). -/
structure Training where
  stepEnd : Nat
  layers : List Layer
  follows : List Follow
  deriving DecidableEq, Repr

/-- The facts of an accepted plan image. -/
structure Image where
  period : Nat
  phases : Nat
  tickLen : Nat
  set : List Nat
  phasesOf : List Nat
  /-- entry points: key carrel × 4096 + plan tick -/
  entries : Tab Word
  /-- budgets: key (carrel × 4096 + plan tick) × 256 + phase -/
  budgets : Tab Nat
  rwset : List RwRange
  backing : List Backing
  allocs : Tab (List Alloc)
  /-- descriptor lists: key ((carrel × 16 + queue) × 4096 + plan tick) × 256 + phase; the LINK records
  stand under carrel 4096 -/
  lists : Tab (List (List Byte))
  rowEng : List Nat
  folio : List Nat
  /-- margin claims: key bay slot, first entry × 65536 + entries -/
  margin : Tab Nat
  /-- mover claims: key bay slot × 8 + channel, issuing carrel + 1 -/
  mover : Tab Nat
  /-- the declared bound on data-dependent HBM units of each partition (R566: DDBOUND) -/
  demand : Tab Nat
  training : Option Training
  /-- the planned uses of a carrel, key carrel × 4096 + plan tick: 1 its own work, 2 an access to its shelf or ledger
  by others (R73) -/
  uses : Tab Nat
  deriving DecidableEq, Repr

/-- One running link record (R568). -/
structure LinkRun where
  desc : List Byte
  started : Bool
  /-- an access of it failed: it never completes (R35) -/
  dead : Bool := false
  deriving DecidableEq, Repr

/-- One plan slot (R48, R53) with what the tick unit keeps for it. -/
structure Plan where
  state : PlanState
  reason : BitVec 8
  ctx : BitVec 12
  img : Image
  /-- start boundary named by the load command -/
  start : Option Word
  /-- a resume waits for the boundary; in UNLOADING, planned work runs until the boundary. `suspend`: a
  suspension waits for it, with its reason -/
  resume : Bool
  suspend : Option (BitVec 8)
  /-- the plan tick that runs in the current device tick -/
  k : Nat
  /-- (work tick, plan tick) of the latest two ticks run, newest first -/
  ran : List (Word × Nat)
  /-- events of the current tick (R61): overrun, LATE, uncorrectable error -/
  overrun : Bool
  late : Bool
  uncorr : Bool
  /-- the plan has not run in the current tick -/
  fresh : Bool
  /-- wait tokens released in the phase, and carrels that have joined the barrier -/
  tokens : List Nat
  joined : List Nat
  /-- link records of the phase not finished, first the next to start -/
  links : List LinkRun
  /-- plan ticks begun since the load, replays apart (R460) -/
  ticks : Nat
  /-- previous values of the followed fields until work tick n + 2 is confirmed (R309) -/
  prevLists : Option (Word × Tab (List (List Byte)))
  /-- what the plan-image entries and attestation show (R489, R518): the image's address, its digest, and
  the boundary at which the plan last entered RUNNING -/
  imageVa : Word
  digest : List Byte
  startTick : Word
  deriving DecidableEq, Repr

/-! ### Stacked memory (spec/13) -/

/-- What a request asks of a stack: a burst read, a masked burst write, a memory-side operation. -/
inductive HbmWork where
  | read
  | write (data : List Byte) (mask : List Bool)
  | oper (op : BitVec 4) (w : Bool) (data cmp : Word)
  deriving DecidableEq, Repr

/-- A request at a stack's controller (R346, R347). -/
structure HbmReq where
  acc : HbmAccess
  work : HbmWork
  deriving DecidableEq, Repr

/-- One HBM stack (R359, R360). Partition tables are keyed by partition; a rate packs PLAN, UNPL, DEPTH
as HBM_PART_RATE[34:0]. -/
structure Stack where
  scrubEn : Bool
  srAllow : Bool
  refrate : BitVec 2
  throttle : Bool
  selfref : Bool
  /-- the exit from self-refresh is under way (R353) -/
  exiting : Bool
  srIgn : Bool
  excluded : Bool
  temp : BitVec 16
  tmax : BitVec 16
  corr : BitVec 32
  uncorr : BitVec 16
  nanProd : BitVec 16
  ovf : BitVec 16
  fxSat : BitVec 16
  rate : Tab (BitVec 35)
  ratePend : Tab (Option (BitVec 35))
  rej : Tab Bool
  planBkt : Tab Nat
  planNow : Tab Nat
  planUsed : Tab Nat
  unplBkt : Tab Nat
  planExh : Tab Bool
  waiting : List HbmReq
  /-- bursts whose uncorrectable read waits for its re-read (R450) -/
  reread : List HbmAccess
  /-- corrected errors of the census period, for CORR-RATE (R448) -/
  corrPeriod : Nat
  deriving DecidableEq, Repr

/-! ### Links and the chain (spec/15) -/

/-- One item of a link: its units, the header first (R392). -/
abbrev Item := List Word

/-- One link (R383, R411) with its transmit and receive sides. -/
structure Link where
  en : Bool
  sleepAllow : Bool
  retrain : Bool
  excl : BitVec 8
  /-- code of R383 -/
  state : BitVec 3
  tlanes : BitVec 8
  rlanes : BitVec 8
  dropped : Bool
  retrained : Bool
  linkev : Bool
  /-- LINKEV of the current tick, for the status of R406 -/
  evTick : Bool
  short : BitVec 8
  opened : BitVec 8
  eqfail : BitVec 8
  runfail : BitVec 8
  delay : BitVec 24
  serial : BitVec 48
  plink : BitVec 4
  pchip : BitVec 12
  fecCorr : BitVec 32
  replays : BitVec 16
  drops : BitVec 8
  retrains : BitVec 8
  /-- SEQ of the next flit to send, and the unacknowledged flits (SEQ, payload), oldest first -/
  txSeq : BitVec 12
  replay : List (BitVec 12 × List Word)
  /-- resends of the oldest flit without success (R386) -/
  tries : Nat
  /-- items that wait for the link, planned and unplanned -/
  txq : List Item
  /-- unplanned flits sent in the tick (R396) -/
  unplSent : Nat
  plannedFlits : Nat
  unplFlits : Nat
  /-- SEQ of the next flit to accept, whether a NAK is due, the drop request to send -/
  rxSeq : BitVec 12
  nak : Bool
  dropReq : BitVec 4
  /-- units received that do not yet make a whole item, and whole items not yet delivered -/
  rxPart : List Word
  rx : List Item
  /-- in DROP, the directions that drop a lane; the other goes on (R385) -/
  dropTx : Bool
  dropRx : Bool
  /-- consecutive boundary estimates within the bound (R400) -/
  good : Nat
  deriving DecidableEq, Repr

/-- What LNK_CHAIN, LNK_RED and LNK_ROUTE hold (R412). -/
structure ChainCfg where
  chip : BitVec 12
  master : Bool
  up : BitVec 4
  down : BitVec 12
  sflits : BitVec 7
  red : BitVec 60
  route : Tab Word
  deriving DecidableEq, Repr

/-- One gauge set's values in a status (R306, R406). -/
structure SetSum where
  sumsq : BitVec 128
  count : BitVec 64
  amax : BitVec 64
  nonfin : BitVec 32
  deriving DecidableEq, Repr

/-- A tick status or verdict (R406). -/
structure Status where
  tick : Word
  fail : Bool
  late : Bool
  linkev : Bool
  recover : Bool
  ctxs : List Nat
  sets : List SetSum
  deriving DecidableEq, Repr

/-- One reduction in progress at this node (R266 to R268): number, TYPE, exponent, and the fragments
that have come, by position in the node's list. -/
structure Reduction where
  num : Nat
  type : Nat
  exp : Int
  parts : Tab (Option (List Nat))
  /-- the root's result -/
  result : Option (List Nat)
  deriving DecidableEq, Repr

/-- The chain unit (R403 to R412). -/
structure Chain where
  cfg : ChainCfg
  live : ChainCfg
  setup : Bool
  join : Bool
  rej : Bool
  reason : BitVec 3
  up : Bool
  depth : BitVec 12
  maxDepth : BitVec 12
  minTick : BitVec 20
  /-- set-up confirmations: link, largest depth, chip numbers -/
  confs : List (Nat × Nat × List Nat)
  /-- statuses received for the tick before, by link -/
  statuses : List (Nat × Status)
  /-- the module's own status of the tick before, and the verdict that came for it -/
  own : Option Status
  verdict : Option Status
  /-- barriers: number and the links (or 12 for this module) that have arrived -/
  barriers : List (Nat × List Nat)
  reds : List Reduction
  /-- requests sent and not answered: TAG and requester -/
  open_ : List (Nat × Requester)
  nextTag : BitVec 16
  deriving DecidableEq, Repr

/-! ### Translation tables (spec/14) -/

/-- A table port (R370). -/
structure TablePort where
  ctx : BitVec 12
  seg : BitVec 4
  d0 : Word
  d1 : Word
  write : Bool
  read : Bool
  rej : Bool
  reason : BitVec 3
  deriving DecidableEq, Repr

/-- An invalidation in progress on this module: who asked, the request's fields, the tree links whose
acknowledgement is awaited, whether the drain of step 3 is done, and what that drain waits for: the virtual addresses
of open accesses and the blocks of unacknowledged writes, by carrel (R377). -/
structure InvRun where
  id : InvId
  ctx : BitVec 12
  segs : BitVec 16
  all : Bool
  seq : BitVec 16
  waitFor : List Nat
  drained : Bool
  vas : List (BitVec 12 × Word)
  blocks : List (BitVec 12 × Nat)
  deriving DecidableEq, Repr

/-- One slot of the invalidation page (R376). -/
structure InvSlot where
  req : Word
  busy : Bool
  rej : Bool
  seq : BitVec 16
  deriving DecidableEq, Repr

/-- The translation unit (R381). -/
structure SegUnit where
  fast : Tab Bool
  func : Tab (BitVec 6)
  ctxRej : Tab Bool
  /-- descriptors, key context × 16 + segment -/
  table : Tab (BitVec 128)
  port0 : TablePort
  port1 : TablePort
  missCnt : BitVec 32
  slots : Tab InvSlot
  runs : List InvRun
  deriving DecidableEq, Repr

/-! ### Host interface (spec/16) -/

/-- How far a taken command has come. -/
inductive CmdStage where
  | waiting
  /-- held by NOTBEFORE, or waiting for a copy engine -/
  | ready
  /-- a copy engine moves it -/
  | moving (e : BitVec 4)
  /-- its host read is outstanding: the data of a COPY_H2D, or the flush read of a COPY_D2H (R436) -/
  | flush (e : BitVec 4)
  /-- its item to another chip is on the way -/
  | remote
  /-- performed; a FENCE before it holds its completion back (R437) -/
  | done (status detail : Nat) (tick value : Word)
  deriving DecidableEq, Repr

/-- A command taken and not complete (R428). -/
structure Cmd where
  seq : BitVec 32
  bytes : List Byte
  /-- tick of taking -/
  tick : Word
  stage : CmdStage
  deriving DecidableEq, Repr

/-- The host side of one context (R445, R471). -/
structure HostCtx where
  nextSeq : BitVec 32
  orphaned : Bool
  badseal : Bool
  event : Bool
  lost : BitVec 16
  cmds : List Cmd
  taken : Nat
  bytesIn : Nat
  bytesOut : Nat
  committed : Nat
  replayed : Nat
  deriving DecidableEq, Repr

/-- One host copy engine (R335, R375, R445). -/
structure CopyEngine where
  busy : Bool
  ctx : BitVec 12
  seq : BitVec 32
  /-- descriptors of the transfer's context by segment -/
  desc : Tab (Option (BitVec 128))
  /-- bytes moved -/
  moved : Nat
  /-- the last tick whose committed data a COPY_D2H has read -/
  tick : Word
  deriving DecidableEq, Repr

/-- What the part has sent to the outside: host writes, MSI-X messages, flush reads, answers to window
and register reads, CAN frames. DESIGN CHOICE (log entry 62). -/
inductive Sent where
  | hostWrite (f : BitVec 6) (addr : Word) (bytes : List Byte) (relaxed : Bool)
  | hostRead (f : BitVec 6) (addr : Word) (len : Nat)
  | msix (f : BitVec 6) (vector : BitVec 16)
  | answer (src : Src) (bytes : List Byte)
  | status (src : Src) (code : Nat)
  | can (id : Nat) (bytes : List Byte)
  | flit (l : Nat) (hdr : Word) (units : List Word)
  | confirmation (l : Nat) (depth : Nat) (chips : List Nat)
  deriving DecidableEq, Repr

/-- The host interface (R444, R445). -/
structure HostUnit where
  roEn : Bool
  p2pEn : Bool
  rate : BitVec 3
  width : BitVec 5
  dlUp : Bool
  noflit : Bool
  dlDowns : BitVec 16
  denied : BitVec 32
  winPart : BitVec 6
  winBase : BitVec 28
  orphCtx : BitVec 12
  orphAction : BitVec 2
  orphFunc : BitVec 6
  orphRej : Bool
  engines : Tab CopyEngine
  ctxs : Tab HostCtx
  /-- intake memory: key context × 4,096 + offset -/
  intake : Tab Byte
  /-- enabled virtual functions, and functions in D3hot -/
  vfs : BitVec 64
  d3 : BitVec 64
  /-- HOST-LOST records that wait for the link (R441) -/
  lostDue : List Report
  deriving DecidableEq, Repr

/-! ### Error ring and census (spec/17) -/

/-- A report the ring writer holds while the ring is off (R454): the report with its TICK, its number in
the order of reports, and the number of the fault's report that a CTX-HALT refers to. -/
structure HeldReport where
  rep : Report
  tick : Word
  num : Nat
  ref : Option Nat
  deriving DecidableEq, Repr

/-- The error ring (R453, R454, R475). -/
structure Ring where
  en : Bool
  log2 : BitVec 5
  base : BitVec 38
  head : Word
  tail : Word
  lost : BitVec 32
  held : List HeldReport
  /-- reports made so far, and the SEQ each written one received -/
  num : Nat
  seqs : Tab (Option Word)
  deriving DecidableEq, Repr

/-- The package NaN record (R216, R217). -/
structure PkgNan where
  valid : Bool
  more : Bool
  carrel : BitVec 12
  ctx : BitVec 12
  ev : NanEvent
  deriving DecidableEq, Repr

/-- Counters of one bay that the census copies (R471). -/
structure BayCount where
  bytes : Tab Nat
  rowSat : Nat
  folioTurns : Nat
  deriving DecidableEq, Repr

/-- Counts the keeper keeps (R476). -/
structure KeeperCount where
  takeovers : BitVec 16
  gaps : BitVec 32
  replayed : BitVec 32
  substitutions : BitVec 16
  halted : BitVec 16
  deriving DecidableEq, Repr

/-! ### Security (spec/18) -/

/-- A keeper firmware image in flash (R481, R519): its bytes, and whether a transfer of it is open. -/
structure Flash where
  bytes : List Byte
  status : BitVec 16
  deriving DecidableEq, Repr

/-- One attestation mailbox (R487). -/
structure Mailbox where
  ctx : BitVec 16
  slot : BitVec 8
  nonce : List Byte
  go : BitVec 8
  status : BitVec 8
  report : List Byte
  /-- requested, to be captured at the next boundary -/
  asked : Bool
  /-- captured and not yet signed: bytes 0x000–0x0FF of the report -/
  cap : List Byte
  deriving DecidableEq, Repr

/-- The security unit (R477, R494, R495). -/
structure SecUnit where
  /-- the fuse block by offset (R477); the repair maps stand apart -/
  fuse : Tab Byte
  runImage : Bool
  /-- the header of the image that the keeper runs, as step 4 read it; empty while none runs (R481, R483) -/
  runHead : List Byte
  aOk : Bool
  bOk : Bool
  recovery : Bool
  arbRej : Bool
  scrubEn : Bool
  chal : List Byte
  /-- a challenge is outstanding -/
  chalOut : Bool
  keys : Tab Word
  sigs : Tab Word
  dbgOpen : Bool
  everOpen : Bool
  dbgRej : Bool
  dbgReason : BitVec 3
  fails : BitVec 4
  scope : BitVec 28
  imageA : Flash
  imageB : Flash
  boxes : Tab Mailbox
  /-- the device certificate in flash -/
  cert : List Byte
  deriving DecidableEq, Repr

/-! ### Dictionary and CAN (spec/19) -/

/-- One function of R520 (R521). -/
structure Func where
  request : Bool
  /-- 0 OFF, 1 STARTING, 2 ON, 3 STOPPING -/
  state : BitVec 3
  deferred : Bool
  fault : Bool
  /-- scrub on release is in force for the running stop of a context (R491) -/
  scrub : Bool
  deriving DecidableEq, Repr

/-- The dictionary window of one function (R506, R507). -/
structure DictWin where
  index : BitVec 16
  sub : BitVec 8
  write : Bool
  length : BitVec 32
  offset : BitVec 32
  go : Bool
  err : Bool
  abort : BitVec 32
  doneLen : BitVec 32
  size : BitVec 32
  buf : Tab Byte
  deriving DecidableEq, Repr

/-- A transfer in parts that holds an entry (R504, R508). -/
structure Transfer where
  src : DictSrc
  index : BitVec 16
  sub : BitVec 8
  write : Bool
  bytes : List Byte
  deriving DecidableEq, Repr

/-- A segmented USDO exchange (R502). -/
structure Usdo where
  index : BitVec 16
  sub : BitVec 8
  size : Nat
  bytes : List Byte
  deriving DecidableEq, Repr

/-- The dictionary and CAN side of the keepers (R497 to R524). -/
structure DictUnit where
  /-- NMT state: 0 not booted, 1 Pre-operational, 2 Operational, 3 Stopped -/
  nmt : BitVec 2
  nodeId : BitVec 7
  rates : BitVec 2
  busOff : Bool
  /-- writable entries in force and stored, key index × 256 + sub; absent entries hold their default -/
  vals : Tab (Option (List Byte))
  stored : Tab (Option (List Byte))
  /-- selectors per source (R509): source number (0 CAN, 1 PF, 1 + f) × 2^24 + index × 256 + sub -/
  sel : Tab (Option (List Byte))
  /-- factory calibration and user trims (R514), key index × 256 + sub; a trim written in the tick -/
  factory : Tab Int
  trims : Tab Int
  trimsNext : Tab (Option Int)
  windows : Tab DictWin
  transfers : List Transfer
  usdo : Option Usdo
  errReg : BitVec 8
  /-- EMCY messages held back, oldest first: code, bit of the error register, number of the report -/
  emcy : List (BitVec 16 × Nat × Option Nat)
  /-- the spacing of R501 runs -/
  inhibit : Bool
  funcs : Tab Func
  deriving DecidableEq, Repr

/-! ### Start-up and the day book (spec/20) -/

/-- One record of the day book (R538); CHECK is computed when it is read. -/
structure DayRec where
  start : BitVec 32
  step : BitVec 8
  kind : BitVec 8
  item : BitVec 16
  outcome : BitVec 8
  choice : BitVec 8
  reason : BitVec 16
  time : BitVec 32
  detail : Word
  deriving DecidableEq, Repr

/-- The start-up unit (R525 to R541). -/
structure StartUnit where
  /-- step being run, 10 once ready; 0 before step 1 has ended -/
  step : BitVec 8
  count : BitVec 32
  book : List DayRec
  /-- consecutive failures by kind × 65,536 + item (R530) -/
  fails : Tab Nat
  /-- a CLEAR_STANDING waits for the next start -/
  clear : BitVec 8
  outcome : BitVec 8
  ms : BitVec 32
  standing : BitVec 16
  /-- the image that last reached step 10 -/
  lastImage : Bool
  /-- ticks run -/
  ticking : Bool
  /-- a start that waits for the limit of its step (R532) -/
  run : Option StartOutcome
  /-- links present in this start, and the logical bays (die × 128 + bay) that it lacks (R541) -/
  linkMask : BitVec 12
  bayMiss : List Nat
  deriving DecidableEq, Repr

/-- Where the logical bays lie: the map of each logical bay, die × 128 + bay, and the redirect entries of
each die (R26 to R32), with what has been ordered and takes effect at the next boundary. -/
structure MapUnit where
  phys : Tab Nat
  redirect : Tab (BitVec 32)
  physNext : Tab (Option Nat)
  redirectNext : Tab (Option (BitVec 32))
  /-- physical bays (die × 132 + bay) and spare carrels (bay × 16 + slot) that have failed -/
  badBays : List Nat
  badSlots : List Nat
  /-- the fuse map (R27): logical bay to physical bay plus 1, 0 the same number; the physical bays fused out,
  die × 132 + bay; the spare rows used of each die (R247) -/
  fusePhys : Tab Nat
  fuseBad : List Nat
  spareRows : Tab Nat
  deriving DecidableEq, Repr

/-! ### Power and cooling (spec/21) -/

/-- One thermal zone (R549, R550): the reading, the level, the failed sensors. -/
structure Zone where
  temp : BitVec 16
  level : BitVec 2
  failed : List Nat
  deriving DecidableEq, Repr

/-- One rail (R555). -/
structure Rail where
  volt : BitVec 16
  curr : BitVec 16
  pgood : Bool
  deriving DecidableEq, Repr

/-- The power sequencer (R542 to R555). -/
structure PowerUnit where
  /-- whether the rails are on -/
  on : Bool
  /-- input present; PWR_EN high -/
  input : Bool
  en : Bool
  autoRestart : Bool
  uv : Bool
  ov : Bool
  senseOpen : Bool
  senseShort : Bool
  vinSense : BitVec 16
  vinPin : BitVec 16
  iin : BitVec 16
  pin : BitVec 16
  pinMax : BitVec 16
  inlet : BitVec 16
  outlet : BitVec 16
  flow : BitVec 16
  shutCause : BitVec 8
  shutZone : BitVec 8
  shutCount : BitVec 32
  /-- zones 0–12 of R554, 13 inlet, 14 flow -/
  zones : Tab Zone
  rails : Tab Rail
  /-- fuse trips within the last 60 s -/
  trips : Nat
  /-- failed attempts of steps 1 and 2 before the next start (R539) -/
  tries : BitVec 7
  /-- stays off until the input falls or PWR_EN goes low and high -/
  latched : Bool
  thermAlert : Bool
  deriving DecidableEq, Repr

/-! ### Norm gauges and training (spec/11) -/

/-- One gauge (R296). -/
structure Gauge where
  sumsq : BitVec 128
  count : BitVec 64
  amax : BitVec 64
  nonfin : BitVec 32
  sat : Bool
  deriving DecidableEq, Repr

/-- The gauges of weights, gradients and updates (GKIND 1, 2, 3). -/
structure Gauges where
  w : Gauge
  g : Gauge
  u : Gauge
  deriving DecidableEq, Repr

/-- One gauge set (R297, R298): the open and closed banks, the pending banks by work tick, the exponents
of the layer table, the history newest first (EMAX, ERMS), and the tag's gradient format and FX64
exponent (R304). -/
structure GaugeSet where
  opened : Gauges
  closed : Gauges
  closedWtn : Word
  pend : List (Word × Gauges)
  gexpW : Int
  gexpG : Int
  gexpU : Int
  hist : List (Option (Int × Int))
  fmt : Nat
  fx : Int
  deriving DecidableEq, Repr

/-- The gauge and training registers of one context (R300), and the combined gradient gauges of a closed
step that waits for its apply, by tag (R306, R307). -/
structure TrainCtx where
  base : BitVec 12
  count : BitVec 13
  rej : Bool
  en : Bool
  raiseN : BitVec 16
  tblk : BitVec 38
  lossExp : BitVec 8
  lastOk : Bool
  clean : BitVec 16
  steps : BitVec 32
  closed : Option (Word × List (Nat × SetSum))
  deriving DecidableEq, Repr

/-! ### The tick unit (spec/02) -/

/-- The parts of a tick (R39); `gap` is the recovery gap (R64). -/
inductive TickPart where
  | intake | work | guard | gap
  deriving DecidableEq, Repr

/-- The tick registers and the tick master's recovery (R46, R47, R59 to R64). -/
structure TickUnit where
  no : Word
  wtn : Word
  len : BitVec 20
  lenNext : BitVec 20
  lenAt : Word
  armed : Option (Word × BitVec 20)
  locked : Bool
  holdover : Bool
  alignLost : Bool
  lenRej : Bool
  replay : Bool
  part : TickPart
  /-- work ticks that are still to be replayed, the next first -/
  toReplay : List Word
  /-- a gap is owed at the next boundary -/
  gapDue : Bool
  /-- the context halts decided and not yet performed: context, cause, number of the fault's report -/
  haltDue : List (Nat × Nat × Option Nat)
  /-- plan slots to be suspended at the next boundary, with the reason -/
  suspendDue : List (Nat × BitVec 8)
  /-- the work tick of the tick before the current one, the contexts that overran or were LATE in it with the
  reason, and the records that their suspension writes (R63, R70, R452) -/
  wtnLast : Word
  badLast : List (Nat × BitVec 8)
  overDue : List Report
  /-- words whose data is lost, with the number of the report that named the loss (R465) -/
  lostBy : List (Nat × Nat)
  /-- holdover has passed its limit: every resident plan is to be suspended at the next boundary (R45) -/
  alignDue : Bool
  /-- the contexts that ran in the latest work ticks, and whether STEP_END ran: work tick, context, STEP_END (R62, R305) -/
  ranCtxs : List (Word × Nat × Bool)
  /-- words of shelves and ledgers found uncorrectable, with the tick, and the carrel failures decided and not yet
  performed, with the cause of R452 (R459) -/
  badWords : List (Nat × Word)
  failDue : List (BitVec 12 × Nat)
  /-- the last tick confirmed, plus 1; 0 while none is (R62) -/
  confirmed : Nat
  deriving DecidableEq, Repr

/-! ### The census (spec/17) -/

/-- A shadow bank (R469 to R471): the tag, whether its copy is complete, and the copied units. -/
structure Bank2 where
  tag : Word
  done : Bool
  chip : BitVec 12
  period : BitVec 20
  carrels : Tab Carrel
  bays : Tab BayCount
  hbm : Tab Stack
  links : Tab Link
  ctxs : Tab HostCtx
  gauges : Tab GaugeSet
  keeper : KeeperCount
  ringHead : Word
  ringLost : BitVec 32
  nan : PkgNan
  power : PowerUnit
  deriving DecidableEq, Repr

/-- The census unit (R468 to R475). -/
structure Census where
  period : BitVec 20
  corrLimit : BitVec 16
  snap : Word
  next : Word
  /-- snapshot boundaries announced and not yet reached -/
  due : List Word
  /-- CEN_CTL.NOW, with the boundary that it asked for last -/
  now : Option Word
  bankA : Option Bank2
  bankB : Option Bank2
  /-- the bank written most recently: false A -/
  newest : Bool
  ring : Ring
  nan : PkgNan
  bays : Tab BayCount
  deriving DecidableEq, Repr

/-- The keepers (R21, R462 to R464, R476). -/
structure Keepers where
  /-- the active keeper: false W, true E -/
  active : Bool
  standbyOk : Bool
  /-- both keepers have failed -/
  none_ : Bool
  count : KeeperCount
  /-- each keeper's own copy of the fuse values, once the fuse-load step has read them (R21) -/
  fuseW : Option (Tab Byte)
  fuseE : Option (Tab Byte)
  deriving DecidableEq, Repr

/-! ### The whole machine -/

/-- Reasons to stop. -/
inductive Fault where
  /-- Raised by the commands that carry a payload (FLIT, HBM_WRITE, D_CACHE_FILL, MESH_RESPONSE,
  HOST_READ_COMPLETION, BAR2_WINDOW_ACCESS) where it is not as long as the port, or the request it answers, makes
  it: no such message exists on the part. Safe. -/
  | illFormed
  deriving DecidableEq, Repr

/-- Reasons to refuse. -/
inductive Refusal where
  /-- Raised by a dispatch arm of a command that has no meaning yet. Safe. -/
  | notModelled (mnemonic : String)
  deriving DecidableEq, Repr

/-- The state of the block. -/
structure State where
  pending : List Instr
  /-- the model's own: free values drawn so far -/
  fresh : Nat
  /-- device memory by local address: HBM, shelves, ledgers, margins -/
  mem : Tab Byte
  /-- words (local address / 8) whose data is lost (R447, R450) -/
  lost : Tab Bool
  carrels : Tab Carrel
  /-- carrels that have halted and that the active keeper has not yet treated (R166) -/
  halts : List (BitVec 12)
  /-- requests of this tick answered once by an unmapped-target response and issued once more (R30), with their
  address; scalar loads, atomics and buffer entries keep that in themselves -/
  retried : List (Requester × Nat)
  ownChip : BitVec 12
  gateOnly : Bool
  tick : TickUnit
  plans : Tab Plan
  hbm : Tab Stack
  /-- HBM tokens by stack × 64 + partition that a requester has drawn for accesses it has not made yet (R347) -/
  paid : List (Requester × Tab Nat)
  links : Tab Link
  chain : Chain
  seg : SegUnit
  host : HostUnit
  census : Census
  keepers : Keepers
  gauges : Tab GaugeSet
  train : Tab TrainCtx
  sec : SecUnit
  dict : DictUnit
  start : StartUnit
  map : MapUnit
  power : PowerUnit
  /-- what the part has sent to the outside, newest first -/
  sent : List Sent
  deriving DecidableEq, Repr

/-- The work tick number that every carrel reads (R59). -/
abbrev State.tickWtn (s : State) : Word := s.tick.wtn

/-- The tick number. -/
abbrev State.tickNo (s : State) : Word := s.tick.no

/-! ### Reset values -/

/-- Stack registers at reset (R81). -/
def Ptrs.reset : Ptrs := { ptr := 0, lo := 0, hi := 0 }

/-- A bank at reset: nothing resident. -/
def Bank.reset : Bank := { d := Ptrs.reset, dres := [], r := Ptrs.reset, rres := [] }

/-- A shadow set at reset (R149, R152): zero, not busy, STATUS.RESUMABLE 1. -/
def Shadow.reset : Shadow := { pc := 0, status := 0x4000#64, cause := 0, depth := 0, busy := false }

/-- No event. -/
def NanEvent.none : NanEvent :=
  { src := 0, cause := 0, phase := 0, wtn := 0, op := 0, col := 0, row := 0, group := 0 }

/-- The first-NaN record at reset (R214). -/
def NanRec.reset : NanRec :=
  { trapEn := false, valid := false, more := false, settled := false, ev := NanEvent.none }

/-- The tick watchdog at reset (R68). -/
def Watchdog.reset : Watchdog :=
  { budget := 0, count := 0, phase := 0, ptick := 0, run := false, ovr := false, max := 0 }

/-- The rescue stacks: internal pointers at offsets 196,160 and 196,352 (R165). -/
def Bank.rescue : Bank :=
  { d := { ptr := 24520, lo := 24520, hi := 24544 }, dres := []
    r := { ptr := 24544, lo := 24544, hi := 24576 }, rres := [] }

/-- A carrel right after module reset (R81, R110, R124, R152, R168, R214; log entries name the rest). -/
def Carrel.reset : Carrel :=
  { level := 2, rescue := false, halted := false, pc := 0
    bankU := Bank.reset, bankS := Bank.reset, bankM := Bank.reset, bankR := Bank.rescue
    dbank := 2, rep := none, wait := .none, overrun := false, ended := false
    ulim := 0xBF8, vl := 0, vstack := []
    maskU := 0, maskS := 0, maskM := 0
    sentryS := 0, sentryM := 0, xvecS := 0, xvecM := 0, rescueVec := 0
    xspSTop := 0, xspSFloor := 0, xspMTop := 0, xspMFloor := 0, gateBase := 0, gateCount := 0
    seals := [], sealNext := 1, shdS := Shadow.reset, shdM := Shadow.reset, rescueSeal := 0
    fast := false, keeperReq := false, debugReq := false, imprecise := none
    icache := [], dcache := [], icseed := 0x5A3C, dcseed := 0x5A3C, icInit := true, dcInit := true
    mb := [], nan := NanRec.reset, wd := Watchdog.reset, desc := [], power := .doze, waking := false
    plan := none, ctx := 0, next := [], queue := [], stationary := none, tiles := [], arrayDone := 0
    count := { satElem := 0, satArray := 0, corrected := 0, retired := 0, imiss := 0, dmiss := 0, segmiss := 0 } }

/-- A stack right after module reset (R360). -/
def Stack.reset : Stack :=
  { scrubEn := true, srAllow := true, refrate := 0, throttle := false, selfref := false, exiting := false
    srIgn := false, excluded := false, temp := 0, tmax := 0, corr := 0, uncorr := 0, nanProd := 0, ovf := 0
    fxSat := 0, rate := [], ratePend := [], rej := [], planBkt := [], planNow := [], planUsed := []
    unplBkt := [], planExh := [], waiting := [], reread := [], corrPeriod := 0 }

/-- The reset value of HBM_PART_RATE[34:0] (R360): DEPTH 4. -/
def rateReset : BitVec 35 := 0x400000000#35

/-- A link right after module reset (R411). -/
def Link.reset : Link :=
  { en := true, sleepAllow := true, retrain := false, excl := 0, state := 0, tlanes := 0, rlanes := 0
    dropped := false, retrained := false, linkev := false, evTick := false, short := 0, opened := 0
    eqfail := 0, runfail := 0, delay := 0, serial := 0, plink := 0, pchip := 0, fecCorr := 0, replays := 0
    drops := 0, retrains := 0, txSeq := 0, replay := [], tries := 0, txq := [], unplSent := 0
    plannedFlits := 0, unplFlits := 0, rxSeq := 0, nak := false, dropReq := 0, rxPart := [], rx := []
    dropTx := false, dropRx := false, good := 0 }

/-- The reset value of LNK_RED (R412): the root, one entry, its own value. -/
def redReset : BitVec 60 := 0xFFFFFFFFFFFFE1F#60

/-- The chain registers at reset (R412); a route entry that is not listed is all ones. -/
def ChainCfg.reset : ChainCfg :=
  { chip := 0, master := true, up := 0xF, down := 0, sflits := 8, red := redReset, route := [] }

/-- What an unlisted LNK_ROUTE register holds (R412): no route. -/
def routeReset : Word := BitVec.allOnes 64

/-- The chain unit at reset (R405, R412). -/
def Chain.reset : Chain :=
  { cfg := ChainCfg.reset, live := ChainCfg.reset, setup := false, join := false, rej := false, reason := 0
    up := false, depth := 0, maxDepth := 0, minTick := 0, confs := [], statuses := [], own := none
    verdict := none, barriers := [], reds := [], open_ := [], nextTag := 0 }

/-- A table port at reset (R370). -/
def TablePort.reset : TablePort :=
  { ctx := 0, seg := 0, d0 := 0, d1 := 0, write := false, read := false, rej := false, reason := 0 }

/-- An invalidation slot at reset (R376). -/
def InvSlot.reset : InvSlot := { req := 0, busy := false, rej := false, seq := 0 }

/-- The translation unit at reset (R363, R369, R370, R376). -/
def SegUnit.reset : SegUnit :=
  { fast := [], func := [], ctxRej := [], table := [], port0 := TablePort.reset, port1 := TablePort.reset
    missCnt := 0, slots := [], runs := [] }

/-- The host side of a context at reset (R445). -/
def HostCtx.reset : HostCtx :=
  { nextSeq := 0, orphaned := false, badseal := false, event := false, lost := 0, cmds := [], taken := 0
    bytesIn := 0, bytesOut := 0, committed := 0, replayed := 0 }

/-- A copy engine at reset (R445). -/
def CopyEngine.reset : CopyEngine := { busy := false, ctx := 0, seq := 0, desc := [], moved := 0, tick := 0 }

/-- The host interface at reset (R445). -/
def HostUnit.reset : HostUnit :=
  { roEn := true, p2pEn := true, rate := 0, width := 0, dlUp := false, noflit := false, dlDowns := 0
    denied := 0, winPart := 0, winBase := 0, orphCtx := 0, orphAction := 0, orphFunc := 0, orphRej := false
    engines := [], ctxs := [], intake := [], vfs := 0, d3 := 0, lostDue := [] }

/-- The error ring at reset (R475). -/
def Ring.reset : Ring :=
  { en := false, log2 := 12, base := 0, head := 0, tail := 0, lost := 0, held := [], num := 0, seqs := [] }

/-- The package NaN record at reset (R217). -/
def PkgNan.reset : PkgNan := { valid := false, more := false, carrel := 0, ctx := 0, ev := NanEvent.none }

/-- Bay counters at reset. -/
def BayCount.reset : BayCount := { bytes := [], rowSat := 0, folioTurns := 0 }

/-- Keeper counts at reset (R476). -/
def KeeperCount.reset : KeeperCount :=
  { takeovers := 0, gaps := 0, replayed := 0, substitutions := 0, halted := 0 }

/-- The census unit at reset (R475). -/
def Census.reset : Census :=
  { period := 1000, corrLimit := 0x400, snap := 0, next := 0, due := [], now := none, bankA := none, bankB := none
    newest := true, ring := Ring.reset, nan := PkgNan.reset, bays := [] }

/-- The keepers at reset (R21, R476). -/
def Keepers.reset : Keepers :=
  { active := false, standbyOk := true, none_ := false, count := KeeperCount.reset, fuseW := none, fuseE := none }

/-- An empty gauge (R297). -/
def Gauge.empty : Gauge := { sumsq := 0, count := 0, amax := 0, nonfin := 0, sat := false }

/-- Three empty gauges. -/
def Gauges.empty : Gauges := { w := Gauge.empty, g := Gauge.empty, u := Gauge.empty }

/-- A gauge set at reset: empty banks and history (log entry 12). DESIGN CHOICE (log entry 12). -/
def GaugeSet.reset : GaugeSet :=
  { opened := Gauges.empty, closed := Gauges.empty, closedWtn := 0, pend := [], gexpW := 0, gexpG := 0
    gexpU := 0, hist := [], fmt := 0, fx := 0 }

/-- The gauge and training registers of a context at reset (R300). -/
def TrainCtx.reset : TrainCtx :=
  { base := 0, count := 0, rej := false, en := false, raiseN := 0x7D0, tblk := 0, lossExp := 0x10
    lastOk := true, clean := 0, steps := 0, closed := none }

/-- The tick registers at reset (R46, R47). -/
def TickUnit.reset : TickUnit :=
  { no := 0, wtn := 0, len := 8000, lenNext := 8000, lenAt := 0, armed := none, locked := false
    holdover := false, alignLost := false, lenRej := false, replay := false, part := .guard
    toReplay := [], gapDue := false, haltDue := [], suspendDue := [], wtnLast := 0, badLast := [], overDue := [], lostBy := []
    alignDue := false, ranCtxs := [], badWords := [], failDue := [], confirmed := 0 }

/-- A flash image region at reset: empty (log entry 13). -/
def Flash.reset : Flash := { bytes := [], status := 1 }

/-- A mailbox at reset (R496). -/
def Mailbox.reset : Mailbox :=
  { ctx := 0, slot := 0, nonce := List.replicate 32 0, go := 0, status := 0
    report := List.replicate 320 0, asked := false, cap := [] }

/-- The security unit at reset, with an unprogrammed fuse block (R477, R495; log entry 13).
DESIGN CHOICE (log entry 13). -/
def SecUnit.reset : SecUnit :=
  { fuse := [], runImage := false, runHead := [], aOk := false, bOk := false, recovery := false, arbRej := false
    scrubEn := false, chal := List.replicate 32 0, chalOut := false, keys := [], sigs := [], dbgOpen := true
    everOpen := true, dbgRej := false, dbgReason := 0, fails := 0, scope := 0, imageA := Flash.reset
    imageB := Flash.reset, boxes := [], cert := [] }

/-- A function that is OFF. -/
def Func.reset : Func := { request := false, state := 0, deferred := false, fault := false, scrub := false }

/-- A dictionary window at reset (R507). -/
def DictWin.reset : DictWin :=
  { index := 0, sub := 0, write := false, length := 0, offset := 0, go := false, err := false, abort := 0
    doneLen := 0, size := 0, buf := [] }

/-- The dictionary at reset (R500, R512, R514). -/
def DictUnit.reset : DictUnit :=
  { nmt := 0, nodeId := 0, rates := 0, busOff := false, vals := [], stored := [], sel := [], factory := []
    trims := [], trimsNext := [], windows := [], transfers := [], usdo := none, errReg := 0, emcy := []
    inhibit := false, funcs := [] }

/-- The start-up unit at reset (R537, R541). -/
def StartUnit.reset : StartUnit :=
  { step := 0, count := 0, book := [], fails := [], clear := 0, outcome := 0, ms := 0, standing := 0
    lastImage := false, ticking := false, run := none, linkMask := 0xFFF, bayMiss := [] }

/-- The bay maps at reset (log entry 13): logical bay b lies in physical bay b. -/
def MapUnit.reset : MapUnit :=
  { phys := [], redirect := [], physNext := [], redirectNext := [], badBays := []
    badSlots := [], fusePhys := [], fuseBad := [], spareRows := [] }

/-- A zone at reset (R555). -/
def Zone.reset : Zone := { temp := 0, level := 0, failed := [] }

/-- A rail at reset (R555). -/
def Rail.reset : Rail := { volt := 0, curr := 0, pgood := false }

/-- The power sequencer at reset (R553, R555): nothing recorded since manufacture. DESIGN CHOICE (log entry 56). -/
def PowerUnit.reset : PowerUnit :=
  { on := true, input := true, en := true, autoRestart := false, uv := false, ov := false
    senseOpen := false, senseShort := false, vinSense := 0, vinPin := 0, iin := 0, pin := 0, pinMax := 0
    inlet := 0, outlet := 0, flow := 0, shutCause := 0, shutZone := 0xFF, shutCount := 0, zones := []
    rails := [], trips := 0, tries := 0, latched := false, thermAlert := false }

/-- The block right after module reset, before start-up has run: memory empty, every register at its
reset value, no command waiting. DESIGN CHOICE (log entry 4). -/
def State.reset : State :=
  { pending := [], fresh := 0, mem := [], lost := [], carrels := [], halts := [], retried := [], ownChip := 0
    gateOnly := false, tick := TickUnit.reset, plans := [], hbm := [], paid := [], links := [], chain := Chain.reset
    seg := SegUnit.reset, host := HostUnit.reset, census := Census.reset, keepers := Keepers.reset
    gauges := [], train := [], sec := SecUnit.reset, dict := DictUnit.reset, start := StartUnit.reset
    map := MapUnit.reset, power := PowerUnit.reset, sent := [] }

end Sys2Proof.Machine
end

