-- ==== Sys2Proof/Machine/Ops.lean ====
section
/-!
DEFINITION. The named operations over memory, registers and stacks; translation; taking an exception;
and the frame every instruction of a carrel runs in.
-/

namespace Sys2Proof.Machine

/-! ### Carrels and memory -/

/-- Carrel `c`. -/
def State.carrel (s : State) (c : BitVec 12) : Carrel := Tab.get Carrel.reset s.carrels c.toNat

/-- The state with carrel `c` replaced. -/
def State.setCarrel (s : State) (c : BitVec 12) (k : Carrel) : State :=
  { s with carrels := Tab.set Carrel.reset s.carrels c.toNat k }

/-- The state with carrel `c` changed. -/
def State.modCarrel (s : State) (c : BitVec 12) (f : Carrel → Carrel) : State :=
  s.setCarrel c (f (s.carrel c))

/-- Carrels of a list changed in turn. -/
def State.modCarrels (s : State) (l : List Nat) (f : Carrel → Carrel) : State :=
  l.foldl (fun s c => s.modCarrel (BitVec.ofNat 12 c) f) s

/-- What an unlisted byte of memory reads as (log entry 1). DESIGN CHOICE (log entry 1). -/
def emptyByte : Byte := 0

/-- One byte of device memory at a local address. -/
def State.byte (s : State) (a : Nat) : Byte := Tab.get emptyByte s.mem a

/-- One byte written. -/
def State.setByte (s : State) (a : Nat) (b : Byte) : State :=
  { s with mem := Tab.set emptyByte s.mem a b }

/-- `n` bytes from a local address. -/
def State.bytes (s : State) (a n : Nat) : List Byte := (upto n).map fun i => s.byte (a + i)

/-- Bytes written in ascending order from a local address. -/
def State.setBytes (s : State) (a : Nat) : List Byte → State
  | [] => s
  | b :: l => (s.setByte a b).setBytes (a + 1) l

/-- The little-endian number of `n` bytes at a local address (R121). -/
def State.le (s : State) (a n : Nat) : Nat := bytesToNat (s.bytes a n)

/-- The low `n` bytes of a number written little-endian. -/
def State.setLe (s : State) (a n x : Nat) : State := s.setBytes a (natToBytes n x)

/-- Draws a free word (log entry 3). -/
def State.draw (s : State) : Word × State :=
  (Config.freeWord s.fresh, { s with fresh := s.fresh + 1 })

/-! ### The local address space (R33, R34) -/

/-- Base of a carrel's shelf slot. -/
def shelfBase (c : Nat) : Nat := 0x80000000000 + c * 0x40000

/-- Base of a carrel's ledger slot. -/
def ledgerBase (c : Nat) : Nat := 0x84000000000 + c * 0x10000

/-- Base of a bay's margin slot; bay slot = DIE × 128 + logical bay. -/
def marginBase (b : Nat) : Nat := 0x88000000000 + b * 0x20000

/-- Bytes of a shelf that exist. -/
def shelfSize : Nat := 196608

/-- First byte of the rescue frame (R99, R165). -/
def rescueOff : Nat := 196096

/-- Where a local address lies (R34); `hole` is every address outside the populated parts (R35). -/
inductive Region where
  | hbm
  | shelf (c off : Nat)
  | ledger (c off : Nat)
  | margin (b off : Nat)
  | regs (block off : Nat)
  | hole
  deriving DecidableEq, Repr

/-- The region of a local address. -/
def regionOf (a : Nat) : Region :=
  if a < 0x0C000000000 then .hbm
  else if 0x80000000000 ≤ a ∧ a < 0x80040000000 then
    let o := a - 0x80000000000
    if o % 0x40000 < 0x30000 then .shelf (o / 0x40000) (o % 0x40000) else .hole
  else if 0x84000000000 ≤ a ∧ a < 0x84010000000 then
    let o := a - 0x84000000000
    if o % 0x10000 < 0x8000 then .ledger (o / 0x10000) (o % 0x10000) else .hole
  else if 0x88000000000 ≤ a ∧ a < 0x88002000000 then
    let o := a - 0x88000000000
    if o % 0x20000 < 0x10000 then .margin (o / 0x20000) (o % 0x20000) else .hole
  else if 0xF0000000000 ≤ a ∧ a < 0xF0000400000 then
    let o := a - 0xF0000000000
    .regs (o / 0x10000) (o % 0x10000)
  else .hole

/-- Chip number of a device physical address (R33). -/
def chipOf (pa : Nat) : Nat := pa / 2 ^ 44

/-- Local part of a device physical address (R33). -/
def localOf (pa : Nat) : Nat := pa % 2 ^ 44

/-- Whether a physical address is on this module. -/
def State.isLocal (s : State) (pa : Nat) : Bool := decide (chipOf pa = s.ownChip.toNat)

/-- Whether the module runs in half mode (R340). -/
def State.halfMode (s : State) : Bool :=
  (upto 8).any fun i => (Tab.get Stack.reset s.hbm i).excluded

/-- The end of the populated HBM range (R34, R340). -/
def State.hbmEnd (s : State) : Nat := if s.halfMode then 0x06000000000 else 0x0C000000000

/-- Whether a local address lies in a populated region (R34, R340). -/
def State.exists_ (s : State) (a : Nat) : Bool :=
  match regionOf a with
  | .hbm => decide (a < s.hbmEnd)
  | .hole => false
  | _ => true

/-- Whether a range of a local address space is populated (R34, R35, R340). -/
def State.present (s : State) (a n : Nat) : Bool := (upto n).all fun i => s.exists_ (a + i)

/-- Whether a physical address lies on this module in a populated region. -/
def State.populated (s : State) (pa : Nat) : Bool := s.isLocal pa && s.exists_ (localOf pa)

/-- Whether a physical address is the carrel's own shelf (populated or not). -/
def State.ownShelfOff (s : State) (c : BitVec 12) (pa : Nat) : Option Nat :=
  let a := localOf pa
  if s.isLocal pa && decide (shelfBase c.toNat ≤ a) && decide (a < shelfBase c.toNat + 0x40000) then
    some (a - shelfBase c.toNat) else none

/-- Whether a physical address lies in the carrel's own shelf or ledger (R20). -/
def State.ownMem (s : State) (c : BitVec 12) (pa : Nat) : Bool :=
  s.isLocal pa && (match regionOf (localOf pa) with
    | .shelf d _ => decide (d = c.toNat)
    | .ledger d _ => decide (d = c.toNat)
    | _ => false)

/-- Whether a physical address is an HBM address of any chip (every chip has the same map, R366). -/
def isHbm (pa : Nat) : Bool := decide (localOf pa < 0x0C000000000)

/-! ### Stack banks (R75 to R83, R140, R141, R165) -/

/-- The bank that a level or bank code names. -/
def bankOfCode (b : BitVec 2) : BankId :=
  let v := if b = 3 then Config.bankOfThree else b
  if v = 0 then .u else if v = 1 then .s else .m

/-- The data-stack bank in use (R141, R165). -/
def Carrel.dataBank (k : Carrel) : BankId := if k.rescue then .rescue else bankOfCode k.dbank

/-- The return-stack bank in use (R141, R165). -/
def Carrel.retBank (k : Carrel) : BankId := if k.rescue then .rescue else bankOfCode k.level

/-- A bank by name. -/
def Carrel.bank (k : Carrel) : BankId → Bank
  | .u => k.bankU | .s => k.bankS | .m => k.bankM | .rescue => k.bankR

/-- A bank replaced. -/
def Carrel.setBank (k : Carrel) (b : BankId) (x : Bank) : Carrel :=
  match b with
  | .u => { k with bankU := x } | .s => { k with bankS := x }
  | .m => { k with bankM := x } | .rescue => { k with bankR := x }

/-- Depth of a stack: resident entries plus spilled entries (R75). -/
def stackDepth (p : Ptrs) (res : List Word) : Int :=
  (res.length : Int) + (p.ptr.toNat : Int) - (p.lo.toNat : Int)

/-- Depth of the data stack of a bank. -/
def Bank.dataDepth (b : Bank) : Int := stackDepth b.d b.dres

/-- Depth of the return stack of a bank. -/
def Bank.retDepth (b : Bank) : Int := stackDepth b.r b.rres

/-- An exception that an instruction raises: cause, DETAIL and faulting address (none where the spec
gives that word no content for the cause). -/
structure Exc where
  code : BitVec 8
  detail : Word
  faddr : Option Word := none
  deriving DecidableEq, Repr

/-- The stack bound fault: stack 0 data, 1 return, 2 vector; underflow or overflow (R77, R142). -/
def stackExc (stack : Nat) (under : Bool) : Exc :=
  { code := 0x03, detail := word (stack + 4 * b2n under) }

/-- The bound check of one banked stack: it must hold `need` entries; `pop` of them leave and `push`
entries come; `cap` entries are resident at most (R76, R77). Some true is an underflow; an instruction that
uses no entry of the stack meets none. DEDUCED (log entry 63). -/
def boundCheck (p : Ptrs) (res : List Word) (cap need pop push : Nat) : Option Bool :=
  if need ≠ 0 ∧ stackDepth p res < need then some true
  else
    let fills := pop - res.length
    let held := max res.length pop - pop + push
    let spills := held - cap
    let top := p.ptr.toNat - fills + spills
    if spills ≠ 0 ∧ (p.hi.toNat < top ∨ shelfSize / 8 < top) then some false else none

/-- What an instruction needs of the three stacks. -/
structure StackUse where
  dNeed : Nat := 0
  dPop : Nat := 0
  dPush : Nat := 0
  rNeed : Nat := 0
  rPop : Nat := 0
  rPush : Nat := 0
  vPop : Nat := 0
  vPush : Nat := 0
  deriving DecidableEq, Repr

/-- The stack bound check of R77, in the order data, return, vector, underflow before overflow. -/
def Carrel.stackCheck (k : Carrel) (u : StackUse) : Option Exc :=
  let d := k.bank k.dataBank
  let r := k.bank k.retBank
  match boundCheck d.d d.dres 8 (max u.dNeed u.dPop) u.dPop u.dPush with
  | some b => some (stackExc 0 b)
  | none =>
    match boundCheck r.r r.rres 16 (max u.rNeed u.rPop) u.rPop u.rPush with
    | some b => some (stackExc 1 b)
    | none =>
      if k.vstack.length < u.vPop then some (stackExc 2 true)
      else if 8 < k.vstack.length - u.vPop + u.vPush then some (stackExc 2 false)
      else none

/-- The word in a spill slot of a carrel's shelf. -/
def State.slot (s : State) (c : BitVec 12) (i : Nat) : Word :=
  if i < shelfSize / 8 then word (s.le (shelfBase c.toNat + 8 * i) 8)
  else Config.fillBeyond s.fresh i

/-- Entry `n` of a banked stack counted from the top, read where it lies (PICK, R76). -/
def State.peek (s : State) (c : BitVec 12) (p : Ptrs) (res : List Word) (n : Nat) : Word :=
  match res[n]? with
  | some x => x
  | none => s.slot c (p.ptr.toNat - 1 - (n - res.length))

/-- Data-stack entry `n` of the bank in use, read where it lies. -/
def State.peekD (s : State) (c : BitVec 12) (n : Nat) : Word :=
  let k := s.carrel c
  let b := k.bank k.dataBank
  s.peek c b.d b.dres n

/-- Fills and removes the top `n` entries: the entries top first, and what stays (R76). -/
def State.takeN (s : State) (c : BitVec 12) (p : Ptrs) (res : List Word) (n : Nat) :
    List Word × Ptrs × List Word :=
  let fills := n - res.length
  let filled := (upto fills).map fun i => s.slot c (p.ptr.toNat - 1 - i)
  ((res ++ filled).take n, { p with ptr := p.ptr - BitVec.ofNat 15 fills }, (res ++ filled).drop n)

/-- Pops `n` data-stack entries, top first. -/
def State.popD (s : State) (c : BitVec 12) (n : Nat) : List Word × State :=
  let k := s.carrel c
  let b := k.bank k.dataBank
  let (l, p, rest) := s.takeN c b.d b.dres n
  (l, s.setCarrel c (k.setBank k.dataBank { b with d := p, dres := rest }))

/-- Pops `n` return-stack entries, top first. -/
def State.popR (s : State) (c : BitVec 12) (n : Nat) : List Word × State :=
  let k := s.carrel c
  let b := k.bank k.retBank
  let (l, p, rest) := s.takeN c b.r b.rres n
  (l, s.setCarrel c (k.setBank k.retBank { b with r := p, rres := rest }))

/-- Pushes one entry on the data stack of a bank, spilling the deepest resident entry first (R76). -/
def State.pushBank (s : State) (c : BitVec 12) (id : BankId) (x : Word) : State :=
  let k := s.carrel c
  let b := k.bank id
  if b.dres.length < 8 then s.setCarrel c (k.setBank id { b with dres := x :: b.dres })
  else
    let s := s.setLe (shelfBase c.toNat + 8 * b.d.ptr.toNat) 8 (b.dres.getLastD 0).toNat
    s.setCarrel c (k.setBank id { b with d := { b.d with ptr := b.d.ptr + 1 }, dres := x :: b.dres.dropLast })

/-- Pushes one entry on the data stack in use. -/
def State.pushD (s : State) (c : BitVec 12) (x : Word) : State :=
  s.pushBank c (s.carrel c).dataBank x

/-- Pushes entries on the data stack in use, the first of the list first. -/
def State.pushDs (s : State) (c : BitVec 12) : List Word → State
  | [] => s
  | x :: l => (s.pushD c x).pushDs c l

/-- Pushes one entry on the return stack in use. -/
def State.pushR (s : State) (c : BitVec 12) (x : Word) : State :=
  let k := s.carrel c
  let id := k.retBank
  let b := k.bank id
  if b.rres.length < 16 then s.setCarrel c (k.setBank id { b with rres := x :: b.rres })
  else
    let s := s.setLe (shelfBase c.toNat + 8 * b.r.ptr.toNat) 8 (b.rres.getLastD 0).toNat
    s.setCarrel c (k.setBank id { b with r := { b.r with ptr := b.r.ptr + 1 }, rres := x :: b.rres.dropLast })

/-- Pushes vector-stack entries, the first of the list first (R78). -/
def State.pushVs (s : State) (c : BitVec 12) (l : List (BitVec 8192)) : State :=
  s.modCarrel c fun k => { k with vstack := l.reverse ++ k.vstack }

/-- Removes the top `n` vector-stack entries. -/
def State.dropV (s : State) (c : BitVec 12) (n : Nat) : State :=
  s.modCarrel c fun k => { k with vstack := k.vstack.drop n }

/-! ### Translation (R364 to R368, R99) -/

/-- Rights in the order of DETAIL[7:3]: R, W, X, atomic, remote. -/
abbrev Rights := BitVec 5

/-- What a translation stream answers. -/
inductive Trans where
  | miss
  | fault (missing : Rights)
  | ok (pa : Nat) (part : BitVec 6)
  deriving DecidableEq, Repr

/-- A descriptor's rights R, W, X, A (R365). -/
def descRights (d : BitVec 128) : Rights := (d.extractLsb' 1 4).setWidth 5

/-- Translation of an access under one descriptor (R367). -/
def translateWith (own : BitVec 12) (d : BitVec 128) (va : Word) (size : Nat) (need : Rights) : Trans :=
  let off := fieldN va 0 60
  if d.getLsbD 0 = false ∨ fieldN d 64 45 < off + size then .fault need
  else if need &&& ~~~ descRights d ≠ 0 then .fault (need &&& ~~~ descRights d)
  else
    let pa := fieldN d 12 44 * 4096 + off
    if chipOf pa ≠ own.toNat ∧ d.getLsbD 5 = false then .fault 0x10
    else .ok pa (d.extractLsb' 6 6)

/-- Translation by a stream of a carrel: an entry that an invalidation removed misses (R374). -/
def State.translate (s : State) (c : BitVec 12) (stream : BitVec 3) (va : Word) (size : Nat)
    (need : Rights) : Trans :=
  match Tab.get none (s.carrel c).desc (stream.toNat * 16 + fieldN va 60 4) with
  | none => .miss
  | some d => translateWith s.ownChip d va size need

/-- The SEG fault of a failed translation (R142). -/
def segExc (stream : BitVec 3) (missing : Rights) (va : Word) : Exc :=
  { code := 0x04, detail := place stream 0 ||| place missing 3, faddr := some va }

/-- The case of R99 that an access of `n` bytes at a shelf offset meets, if any; the lowest where it meets
several. DESIGN CHOICE (log entry 64). -/
def Carrel.shelfCase (k : Carrel) (off n : Nat) : Option Nat :=
  if shelfSize < off + n then some 1
  else if k.level = 0 ∧ k.ulim.toNat * 64 < off + n then some 2
  else if k.level.toNat < 2 ∧ rescueOff < off + n ∧ !k.rescue then some 3
  else none

/-- The SEG fault of a failed shelf check (R99, R142). -/
def shelfExc (stream : BitVec 3) (case_ : Nat) (fa : Word) : Exc :=
  { code := 0x04, detail := place stream 0 ||| word (0x100 + case_ * 0x200), faddr := some fa }

/-- The UNMAPPED fault with a virtual faulting address (R142). -/
def unmappedExc (va : Word) : Exc := { code := 0x06, detail := 0, faddr := some va }

/-- What the checks of one contiguous access come to. -/
inductive Access where
  | miss (seg : BitVec 4)
  | exc (e : Exc)
  | ok (pa : Nat) (part : BitVec 6)
  deriving DecidableEq, Repr

/-- Translates and checks `n` bytes at `va` that lie in one 64 B block: rights, then the shelf check of
R99 for the carrel's own shelf. -/
def State.access (s : State) (c : BitVec 12) (stream : BitVec 3) (va : Word) (n : Nat) (need : Rights) :
    Access :=
  match s.translate c stream va n need with
  | .miss => .miss (field va 60 4)
  | .fault m => .exc (segExc stream m va)
  | .ok pa part =>
    match s.ownShelfOff c pa with
    | some off =>
      match (s.carrel c).shelfCase off n with
      | some k => .exc (shelfExc stream k va)
      | none => .ok pa part
    | none => .ok pa part

/-! ### Taking an exception (R139 to R157, R165, R166) -/

/-- The mask of a level (R146). -/
def Carrel.mask (k : Carrel) (l : BitVec 2) : BitVec 3 :=
  if l = 0 then k.maskU else if l = 1 then k.maskS else k.maskM

/-- The mask of a level replaced. -/
def Carrel.setMask (k : Carrel) (l : BitVec 2) (v : BitVec 3) : Carrel :=
  if l = 0 then { k with maskU := v } else if l = 1 then { k with maskS := v } else { k with maskM := v }

/-- TOP and FLOOR of the exception stack of S or M (R152). -/
def Carrel.xsp (k : Carrel) (h : BitVec 2) : BitVec 12 × BitVec 12 :=
  if h = 1 then (k.xspSTop, k.xspSFloor) else (k.xspMTop, k.xspMFloor)

/-- TOP of an exception stack replaced. -/
def Carrel.setXspTop (k : Carrel) (h : BitVec 2) (t : BitVec 12) : Carrel :=
  if h = 1 then { k with xspSTop := t } else { k with xspMTop := t }

/-- Whether an exception stack is valid for a push (R153). -/
def Carrel.xspValid (k : Carrel) (h : BitVec 2) : Bool :=
  let (t, f) := k.xsp h
  decide (f.toNat + 1 ≤ t.toNat) && decide (t.toNat ≤ 3064) && decide (k.ulim.toNat ≤ f.toNat)

/-- The step of a cause (R142); 8 is never masked. -/
def causeStep (code : BitVec 8) : Nat :=
  if code = 0x01 ∨ code = 0x02 then 5
  else if code = 0x07 then 7
  else if code = 0x09 ∨ code = 0x0A ∨ code = 0x0B then 8
  else 6

/-- The normal handling level of a fault that arises at level L (R142): 1 S, 2 M. -/
def causeLevel (code : BitVec 8) (l : BitVec 2) : Nat :=
  if code = 0x09 ∨ code = 0x0A ∨ code = 0x0B then 2 else if l = 2 then 2 else 1

/-- An entry on its way: handling level (1 S, 2 M, 3 rescue), cause, ORIG, DETAIL, FADDR, ENTRY kind,
PC_RESUME, the imprecise bits, NRES, the interrupt's step, the address to jump to in place of XVEC, and
whether the data stack stays in the caller's bank (R159). -/
structure Entry where
  h : Nat
  code : BitVec 8
  orig : BitVec 8 := 0
  detail : Option Word
  faddr : Option Word := none
  kind : BitVec 2 := 0
  pc : Word
  imprecise : Bool := false
  more : Bool := false
  nres : BitVec 2 := 0
  step : Option (BitVec 3) := none
  target : Option Word := none
  keepBank : Bool := false
  deriving DecidableEq, Repr

/-- The escalation loop of R155: the seal-stack limits and the validity of the exception stacks. An entry
that becomes FRAME-PUSH is a fault: its frame has ENTRY 0, and an interrupt's step is not put into MASK_M.
DESIGN CHOICE (log entry 65). -/
def Carrel.settle (k : Carrel) (e : Entry) : Entry :=
  let atM (e : Entry) : Entry :=
    if k.seals.length = 4 ∨ k.xspValid 2 = false then { e with h := 3 } else e
  if e.h = 1 then
    if 3 ≤ k.seals.length ∨ k.xspValid 1 = false then
      atM { e with h := 2, orig := e.code, code := 0x0B, kind := 0, nres := 0, step := none
                   target := none, keepBank := false
                   detail := some (if 3 ≤ k.seals.length then 2 else 1) }
    else e
  else if e.h = 2 then atM e
  else e

/-- The next seal after one is taken: adds 0x9E37, skipping 0 (R154). -/
def nextSeal (x : BitVec 16) : BitVec 16 := if x + 0x9E37 = 0 then 0x9E37 else x + 0x9E37

/-- The STATUS word of a frame (R149). -/
def statusWord (plvl repk : BitVec 2) (pmask : BitVec 3) (imprecise : Bool) (kind nres pdbank : BitVec 2)
    (resumable more : Bool) (tag : BitVec 16) : Word :=
  place plvl 0 ||| place repk 2 ||| place pmask 4 ||| place (bit imprecise) 7 ||| place kind 8 |||
    place nres 10 ||| place pdbank 12 ||| place (bit resumable) 14 ||| place (bit more) 15 ||| place tag 16

/-- The DEPTH word of the banks in use (R148, R156). -/
def Carrel.depthWord (k : Carrel) : Word :=
  place (BitVec.ofInt 16 (k.bank k.dataBank).dataDepth) 0 |||
    place (BitVec.ofInt 16 (k.bank k.retBank).retDepth) 16

/-- The address of an entry register: ADDR with bit 0 zero (R152). -/
def vecAddr (a : BitVec 63) : Word := (a.setWidth 64) <<< 1

/-- The kind of an active repeat as REPK has it (R149). -/
def repKind : Option Repeat → BitVec 2
  | none => 0
  | some r => if r.repx then 2 else 1

/-- A carrel gives up what it waits for: no fill is outstanding any more, and the entries of its merging buffer
that were kept for one leave (R130). -/
def Carrel.abandon (k : Carrel) : Carrel := { k with wait := .none, mb := k.mb.filter fun e => !e.acked }

/-- Halts a carrel and signals the active keeper (R166). -/
def State.haltCarrel (s : State) (c : BitVec 12) : State :=
  { s.modCarrel c (fun k => { k.abandon with halted := true }) with halts := s.halts ++ [c] }

/-- Performs an entry (R155): escalates as needed, writes the frame, makes the seal, switches the level
and the banks and jumps. -/
def State.enter (s : State) (c : BitVec 12) (e0 : Entry) : State :=
  let k0 := s.carrel c
  let e := k0.settle e0
  let (fw, s) := if e.faddr = none then s.draw else (0, s)
  let (dw, s) := if e.detail = none then s.draw else (0, s)
  let tag := k0.sealNext
  let rescue := e.h = 3
  let lvl : BitVec 2 := if e.h = 1 then 1 else 2
  let k1 : Carrel :=
    { k0.abandon with
      sealNext := nextSeal tag, rep := none, level := lvl
      dbank := if e.keepBank then k0.dbank else lvl
      rescue := k0.rescue || rescue
      bankR := if rescue then Bank.rescue else k0.bankR }
  let status := statusWord k0.level (repKind k0.rep) (k0.mask lvl) e.imprecise e.kind e.nres k0.dbank
    (decide (e.code ≠ 0x09)) e.more tag
  let frame : List Word :=
    [e.pc, status, place e.code 0 ||| place e.orig 8, e.faddr.getD fw,
     (k0.rep.map (·.count)).getD 0, e.detail.getD dw, k1.depthWord, s.tickWtn]
  let bytes := frame.flatMap fun w => natToBytes 8 w.toNat
  if rescue then
    let s := s.setBytes (shelfBase c.toNat + rescueOff) bytes
    s.setCarrel c { k1 with rescueSeal := tag, pc := vecAddr k1.rescueVec }
  else
    let top := (k0.xsp lvl).1 - 1
    let s := s.setBytes (shelfBase c.toNat + top.toNat * 64) bytes
    let k2 := (match e.step with | some st => k1.setMask lvl st | none => k1).setXspTop lvl top
    s.setCarrel c
      { k2 with
        seals := { tag := tag, shadow := false, hlvl := lvl } :: k2.seals
        pc := e.target.getD (if lvl = 1 then vecAddr k2.xvecS else vecAddr k2.xvecM) }

/-- The address an event resumes at: the repeat prefix when one is active (R150). -/
def Carrel.resumePc (k : Carrel) : Word := (k.rep.map (·.addr)).getD k.pc

/-- A synchronous fault of the carrel: normal level, escalation by the mask, entry (R146, R155). In rescue
state it halts the carrel (R166). -/
def State.fault (s : State) (c : BitVec 12) (x : Exc) : State :=
  let k := s.carrel c
  if k.rescue then s.haltCarrel c
  else
    let h := causeLevel x.code k.level
    let e : Entry := { h := h, code := x.code, detail := some x.detail, faddr := x.faddr, pc := k.resumePc }
    if causeStep x.code ≤ (k.mask k.level).toNat then
      s.enter c { e with h := h + 1, orig := x.code, code := 0x0C }
    else s.enter c e

/-- The pending interrupts of a carrel: bit i is the source with code 0x40 + i (R143, R152, R212). -/
def Carrel.pend (k : Carrel) : BitVec 3 :=
  bit k.debugReq ++ bit k.keeperReq ++ bit (k.nan.valid && k.nan.trapEn)

/-- The interrupt that can be taken now, highest step first: code, step, target level (R146, R147). -/
def Carrel.takeable (k : Carrel) : Option (BitVec 8 × BitVec 3 × BitVec 2) :=
  let can (i : Nat) (step : BitVec 3) (t : BitVec 2) : Bool :=
    k.pend.getLsbD i && !k.rescue && decide (k.level ≤ t) && decide (k.mask k.level < step)
  if can 0 7 1 then some (0x40, 7, 1)
  else if can 1 6 2 then some (0x41, 6, 2)
  else if can 2 5 2 then some (0x42, 5, 2)
  else none

/-- Whether the carrel is inside a REPX (R112, R114). -/
def Carrel.inRepx (k : Carrel) : Bool := match k.rep with | some r => r.repx | none => false

/-- Takes the held imprecise fault or a pending interrupt where R114 allows it; `none` where neither can
be taken (R145 to R147). A fault is taken before an interrupt. DEDUCED (log entry 25). -/
def State.takePending (s : State) (c : BitVec 12) : Option State :=
  let k := s.carrel c
  if k.inRepx then none else
  match k.imprecise with
  | some i =>
    let s1 := s.setCarrel c { k with imprecise := none }
    some (if k.rescue then s1.haltCarrel c else
      s1.enter c
        { h := causeLevel 0x06 k.level, code := 0x06, pc := k.resumePc, faddr := some (word i.pa)
          detail := some (1#64 ||| word ((i.elem.getD 0) * 0x10000)), imprecise := true, more := i.more })
  | none =>
    match k.takeable with
    | some (code, step, t) =>
      some (s.enter c { h := t.toNat, code := code, detail := none, kind := 1, pc := k.resumePc
                        step := some step })
    | none => none

/-! ### Running one instruction -/

/-- What an attempt at an instruction comes to. -/
inductive Res where
  /-- completed: the pc moves past the form -/
  | done (s : State)
  /-- completed or stalled by an operation that moved the pc itself where it completed -/
  | jump (s : State)
  /-- completed: a control transfer that set the pc -/
  | went (s : State)
  /-- stalled: the wait is set, the instruction has not completed -/
  | hold (s : State)
  /-- raises an exception; nothing else happened -/
  | exc (e : Exc)

/-- An instruction has retired (R472). -/
def Carrel.retired (k : Carrel) : Carrel := { k with count := { k.count with retired := k.count.retired + 1 } }

/-- Completes an instruction of `len` bytes: the next iteration of a repeat, or the next address
(R84, R111, R112). -/
def State.retire (s : State) (c : BitVec 12) (len : Nat) : State :=
  s.modCarrel c fun k0 =>
    let k := k0.retired
    match k.rep with
    | some r =>
      if r.count ≤ 1 then { k with rep := none, pc := k.pc + word len }
      else { k with rep := some { r with count := r.count - 1 } }
    | none => { k with pc := k.pc + word len }

/-- Whether the carrel can begin an instruction: not halted, fetching (R125) and not stalled.
DESIGN CHOICE (log entry 5). -/
def Carrel.idle (k : Carrel) : Bool := !k.halted && !k.icInit && decide (k.wait = .none)

/-- The translation and shelf check of one fetch word, the naturally aligned 64-bit word that holds the parcel
at `va`: the X right through stream 0 (R84, R99, R367, R368). -/
def State.fetchSeg (s : State) (c : BitVec 12) (va : Word) : Access :=
  match s.access c 0 (va &&& 0xFFFFFFFFFFFFFFF8#64) 8 4 with
  | .exc e => .exc { e with faddr := some va }
  | a => a

/-- The populated-target check of a fetch word whose translation has passed (R35). -/
def State.fetchMapped (s : State) (va : Word) : Access → Access
  | .ok pa part => if s.isLocal pa && !s.populated pa then .exc (unmappedExc va) else .ok pa part
  | a => a

/-- The checks of one fetch word. -/
def State.fetchWord (s : State) (c : BitVec 12) (va : Word) : Access := s.fetchMapped va (s.fetchSeg c va)

/-- The checks of the fetch words that hold the parcels at some addresses: SEG of every word before UNMAPPED
of any (R144). -/
def State.fetchWords (s : State) (c : BitVec 12) (vas : List Word) : Access :=
  let first (l : List Access) : Option Access := l.find? fun x => match x with | .ok _ _ => false | _ => true
  let segs := vas.map fun va => (va, s.fetchSeg c va)
  match first (segs.map (·.2)) with
  | some x => x
  | none =>
    let done := segs.map fun (va, x) => s.fetchMapped va x
    (first done).getD (done.headD (.miss 0))

/-- The checks of an instruction's fetch: its fetch word, and the next one for a 32-bit form that goes on in it
(R84, R117). The faulting address is that of the parcel. DEDUCED (log entry 30). -/
def State.fetch (s : State) (c : BitVec 12) (len : Nat) : Access :=
  let pc := (s.carrel c).pc
  s.fetchWords c (if len = 4 ∧ pc.toNat % 8 = 6 then [pc, pc + 2] else [pc])

/-- Counts a descriptor-cache miss and makes the carrel wait for the fill (R374). DEDUCED (log entry 26). -/
def State.missWait (s : State) (c : BitVec 12) (stream : BitVec 3) (seg : BitVec 4) : State :=
  { s.modCarrel c fun k =>
      { k with wait := .desc stream seg, count := { k.count with segmiss := k.count.segmiss + 1 } } with
    seg := { s.seg with missCnt := satInc s.seg.missCnt } }

/-- Finishes an attempt at an instruction of `len` bytes. -/
def State.finish (s : State) (c : BitVec 12) (len : Nat) : Res → State
  | .done t => t.retire c len
  | .jump t => t
  | .went t => t.modCarrel c Carrel.retired
  | .hold t => t
  | .exc e => s.fault c e

/-- One instruction of carrel `c`, `len` bytes long. A carrel that is halted, invalidating its I-cache or
stalled does not begin it. An imprecise fault or interrupt that can be taken is taken first (R147). A
fetch that fails takes its fault (R157). A repeat resumed with no iteration left skips it. -/
def runInstr (c : BitVec 12) (len : Nat) (body : State → Res) (s : State) :
    Host.Outcome State Fault Refusal :=
  let k := s.carrel c
  .next <|
    if k.idle = false then s
    else match s.takePending c with
      | some t => t
      | none =>
        match s.fetch c len with
        | .miss seg => s.missWait c 0 seg
        | .exc e => s.fault c e
        | .ok _ _ =>
          if (match k.rep with | some r => decide (r.count = 0) | none => false) then s.retire c len
          else s.finish c len (body s)

/-- Runs a body after the stack bound check (R77). -/
def withStacks (c : BitVec 12) (u : StackUse) (body : State → Res) (s : State) : Res :=
  match (s.carrel c).stackCheck u with
  | some e => .exc e
  | none => body s

end Sys2Proof.Machine
end

