-- ==== Sys2Proof/Machine/Flags.lean ====
section
/-!
DEFINITION. The first-NaN record of a carrel: how it takes an event (R208 to R212).
-/

namespace Sys2Proof.Machine

/-- The rank of a reporting unit (R209). -/
def nanRank (src : BitVec 3) : Nat := if src ≤ 1 then 0 else src.toNat - 1

/-- The record after a reported event (R210). -/
def NanRec.take (r : NanRec) (e : NanEvent) : NanRec :=
  if r.valid = false then { r with valid := true, settled := false, ev := e }
  else if e = r.ev then r
  else if e.wtn = r.ev.wtn ∧ e.phase = r.ev.phase ∧ nanRank e.src < nanRank r.ev.src then
    { r with more := true, settled := false, ev := e }
  else { r with more := true }

/-- Reports a NaN event to the record of a carrel. -/
def State.reportNan (s : State) (c : BitVec 12) (e : NanEvent) : State :=
  s.modCarrel c fun k => { k with nan := k.nan.take e }

/-- An event of the scalar core (SRC 0) or of the vector unit (SRC 1) at element `elem`: OP is the
instruction's address (R209). -/
def State.coreNan (s : State) (c : BitVec 12) (src : BitVec 3) (elem : Nat) (cause : Option NanCause) :
    State :=
  match cause with
  | none => s
  | some x =>
    let k := s.carrel c
    s.reportNan c
      { src := src, cause := x.code, phase := k.wd.phase, wtn := s.tickWtn, op := k.pc
        col := BitVec.ofNat 16 elem, row := 0, group := 0 }

/-- An event of an engine: OP is the operation number (R209). -/
def State.engineNan (s : State) (c : BitVec 12) (src : BitVec 3) (opnum row col group : Nat)
    (x : NanCause) : State :=
  s.reportNan c
    { src := src, cause := x.code, phase := (s.carrel c).wd.phase, wtn := s.tickWtn, op := word opnum
      col := BitVec.ofNat 16 col, row := BitVec.ofNat 16 row, group := BitVec.ofNat 16 group }

end Sys2Proof.Machine
end

