-- ==== Sys2Proof/Machine/Scalar.lean ====
section
/-!
DEFINITION. Stack, integer and scalar FP64 instructions and literals (R92 to R97). Each works on 16-bit
forms; the literals LIT32 and LITX are 32-bit forms.
-/

namespace Sys2Proof.Machine

/-- Outcome of a step of this machine. -/
abbrev Out := Host.Outcome State Fault Refusal

/-- An instruction that replaces the top `pop` data entries (given top first) by `push` new ones, listed
deepest first. -/
def stackOp (c : BitVec 12) (pop push : Nat) (f : List Word → List Word) (s : State) : Out :=
  runInstr c 2 (withStacks c { dPop := pop, dPush := push } fun s =>
    let (l, s) := s.popD c pop
    .done (s.pushDs c (f l))) s

/-- Entry `i` from the top of popped entries. -/
def ent (l : List Word) (i : Nat) : Word := l.getD i 0

def execDup (c : BitVec 12) (s : State) : Out := stackOp c 1 2 (fun l => [ent l 0, ent l 0]) s
def execDrop (c : BitVec 12) (s : State) : Out := stackOp c 1 0 (fun _ => []) s
def execSwap (c : BitVec 12) (s : State) : Out := stackOp c 2 2 (fun l => [ent l 0, ent l 1]) s
def execOverTop (c : BitVec 12) (s : State) : Out :=
  stackOp c 2 3 (fun l => [ent l 1, ent l 0, ent l 1]) s
def execRot (c : BitVec 12) (s : State) : Out :=
  stackOp c 3 3 (fun l => [ent l 1, ent l 0, ent l 2]) s
def execNip (c : BitVec 12) (s : State) : Out := stackOp c 2 1 (fun l => [ent l 0]) s

/-- PICK n reads entry n where it lies and pushes it (R76, R92). -/
def execPick (c : BitVec 12) (n : BitVec 4) (s : State) : Out :=
  runInstr c 2 (withStacks c { dNeed := n.toNat + 1, dPush := 1 } fun s =>
    .done (s.pushD c (s.peekD c n.toNat))) s

def execPushr (c : BitVec 12) (s : State) : Out :=
  runInstr c 2 (withStacks c { dPop := 1, rPush := 1 } fun s =>
    let (l, s) := s.popD c 1
    .done (s.pushR c (ent l 0))) s

def execPopr (c : BitVec 12) (s : State) : Out :=
  runInstr c 2 (withStacks c { dPush := 1, rPop := 1 } fun s =>
    let (l, s) := s.popR c 1
    .done (s.pushD c (ent l 0))) s

/-- RCOPY copies the top return entry to the data stack; the return stack keeps it (R92). -/
def execRcopy (c : BitVec 12) (s : State) : Out :=
  runInstr c 2 (withStacks c { dPush := 1, rPop := 1, rPush := 1 } fun s =>
    let (l, s) := s.popR c 1
    .done ((s.pushR c (ent l 0)).pushD c (ent l 0))) s

/-- ( a -- r ). -/
def unOp (c : BitVec 12) (f : Word → Word) (s : State) : Out := stackOp c 1 1 (fun l => [f (ent l 0)]) s

/-- ( a b -- r ). -/
def binOp (c : BitVec 12) (f : Word → Word → Word) (s : State) : Out :=
  stackOp c 2 1 (fun l => [f (ent l 1) (ent l 0)]) s

/-- A test's result as an entry. -/
def flag (b : Bool) : Word := word (b2n b)

/-- DIV with its edge cases (R94). -/
def divS (a b : Word) : Word := if b = 0 then BitVec.allOnes 64 else a.sdiv b
/-- REM with its edge cases (R94). -/
def remS (a b : Word) : Word := if b = 0 then a else a.srem b
/-- DIVU with its edge case (R94). -/
def divU (a b : Word) : Word := if b = 0 then BitVec.allOnes 64 else a / b
/-- REMU with its edge case (R94). -/
def remU (a b : Word) : Word := if b = 0 then a else a % b
/-- MULH: the high half of the signed product. -/
def mulHi (a b : Word) : Word := BitVec.ofInt 64 (a.toInt * b.toInt / 2 ^ 64)
/-- MULHU: the high half of the unsigned product. -/
def mulHiU (a b : Word) : Word := word (a.toNat * b.toNat / 2 ^ 64)

def execAdd (c : BitVec 12) (s : State) : Out := binOp c (· + ·) s
def execSub (c : BitVec 12) (s : State) : Out := binOp c (· - ·) s
def execMul (c : BitVec 12) (s : State) : Out := binOp c (· * ·) s
def execMulh (c : BitVec 12) (s : State) : Out := binOp c mulHi s
def execMulhu (c : BitVec 12) (s : State) : Out := binOp c mulHiU s
def execDiv (c : BitVec 12) (s : State) : Out := binOp c divS s
def execDivu (c : BitVec 12) (s : State) : Out := binOp c divU s
def execRem (c : BitVec 12) (s : State) : Out := binOp c remS s
def execRemu (c : BitVec 12) (s : State) : Out := binOp c remU s
def execAnd (c : BitVec 12) (s : State) : Out := binOp c (· &&& ·) s
def execOr (c : BitVec 12) (s : State) : Out := binOp c (· ||| ·) s
def execXor (c : BitVec 12) (s : State) : Out := binOp c (· ^^^ ·) s
def execNot (c : BitVec 12) (s : State) : Out := unOp c (~~~ ·) s
def execNeg (c : BitVec 12) (s : State) : Out := unOp c (0 - ·) s
def execShl (c : BitVec 12) (s : State) : Out := binOp c (fun a n => a <<< (n.toNat % 64)) s
def execShr (c : BitVec 12) (s : State) : Out := binOp c (fun a n => a >>> (n.toNat % 64)) s
def execSar (c : BitVec 12) (s : State) : Out := binOp c (fun a n => a.sshiftRight (n.toNat % 64)) s
def execCmpeq (c : BitVec 12) (s : State) : Out := binOp c (fun a b => flag (decide (a = b))) s
def execCmpne (c : BitVec 12) (s : State) : Out := binOp c (fun a b => flag (decide (a ≠ b))) s
def execCmplt (c : BitVec 12) (s : State) : Out := binOp c (fun a b => flag (a.slt b)) s
def execCmple (c : BitVec 12) (s : State) : Out := binOp c (fun a b => flag (a.sle b)) s
def execCmpltu (c : BitVec 12) (s : State) : Out := binOp c (fun a b => flag (a.ult b)) s
def execCmpleu (c : BitVec 12) (s : State) : Out := binOp c (fun a b => flag (a.ule b)) s

/-! ### Scalar FP64 (R95, R96) -/

/-- An FP64 instruction whose produced NaN goes to the first-NaN record. -/
def fpOp (c : BitVec 12) (pop : Nat) (f : List Word → FRes) (s : State) : Out :=
  runInstr c 2 (withStacks c { dPop := pop, dPush := 1 } fun s =>
    let (l, s) := s.popD c pop
    let r := f l
    .done ((s.pushD c (word r.1)).coreNan c 0 0 r.2)) s

/-- Entry `i` from the top, as a code. -/
def entN (l : List Word) (i : Nat) : Nat := (ent l i).toNat

def execFadd (c : BitVec 12) (s : State) : Out := fpOp c 2 (fun l => Fmt.f64.addOp (entN l 1) (entN l 0)) s
def execFsub (c : BitVec 12) (s : State) : Out := fpOp c 2 (fun l => Fmt.f64.subOp (entN l 1) (entN l 0)) s
def execFmul (c : BitVec 12) (s : State) : Out := fpOp c 2 (fun l => Fmt.f64.mulOp (entN l 1) (entN l 0)) s
def execFfma (c : BitVec 12) (s : State) : Out :=
  fpOp c 3 (fun l => Fmt.f64.fmaOp (entN l 2) (entN l 1) (entN l 0)) s
def execFdiv (c : BitVec 12) (s : State) : Out := fpOp c 2 (fun l => Fmt.f64.divOp (entN l 1) (entN l 0)) s
def execFsqrt (c : BitVec 12) (s : State) : Out := fpOp c 1 (fun l => Fmt.f64.sqrtOp (entN l 0)) s
def execFneg (c : BitVec 12) (s : State) : Out := unOp c (fun a => a ^^^ 0x8000000000000000#64) s
def execFabs (c : BitVec 12) (s : State) : Out := unOp c (fun a => a &&& 0x7FFFFFFFFFFFFFFF#64) s
def execFmin (c : BitVec 12) (s : State) : Out :=
  binOp c (fun a b => word (Fmt.f64.minOp a.toNat b.toNat)) s
def execFmax (c : BitVec 12) (s : State) : Out :=
  binOp c (fun a b => word (Fmt.f64.maxOp a.toNat b.toNat)) s
def execFcmpeq (c : BitVec 12) (s : State) : Out :=
  binOp c (fun a b => flag ((Fmt.f64.decode a.toNat).eqNum (Fmt.f64.decode b.toNat))) s
def execFcmplt (c : BitVec 12) (s : State) : Out :=
  binOp c (fun a b => flag ((Fmt.f64.decode a.toNat).ltNum (Fmt.f64.decode b.toNat))) s
def execFcmple (c : BitVec 12) (s : State) : Out :=
  binOp c (fun a b => flag ((Fmt.f64.decode a.toNat).leNum (Fmt.f64.decode b.toNat))) s
def execFcvtI2f (c : BitVec 12) (s : State) : Out :=
  unOp c (fun a => word (Fmt.f64.rne (intNum 64 0 a.toNat).toVal)) s
def execFcvtU2f (c : BitVec 12) (s : State) : Out :=
  unOp c (fun a => word (Fmt.f64.rne (Num.fin false a.toNat 0).toVal)) s
def execFcvtF2i (c : BitVec 12) (s : State) : Out :=
  unOp c (fun a => word (toIntCode 64 (-(2 ^ 63)) (2 ^ 63 - 1) 0 0 .rne (Fmt.f64.decode a.toNat).toVal).bits) s
def execFcvtF2u (c : BitVec 12) (s : State) : Out :=
  unOp c (fun a => word (toIntCode 64 0 (2 ^ 64 - 1) 0 0 .rne (Fmt.f64.decode a.toNat).toVal).bits) s
def execFcvtD2s (c : BitVec 12) (s : State) : Out :=
  unOp c (fun a => word (Fmt.f32.rne (Fmt.f64.decode a.toNat).toVal)) s
def execFcvtS2d (c : BitVec 12) (s : State) : Out :=
  unOp c (fun a => word (Fmt.f64.rne (Fmt.f32.decode (a.toNat % 2 ^ 32)).toVal)) s

/-! ### Literals (R97) -/

/-- Pushes a value by a form of `len` bytes. -/
def pushLit (c : BitVec 12) (len : Nat) (x : Word) (s : State) : Out :=
  runInstr c len (withStacks c { dPush := 1 } fun s => .done (s.pushD c x)) s

def execLit6 (c : BitVec 12) (v : BitVec 6) (s : State) : Out := pushLit c 2 (v.signExtend 64) s
def execLit32 (c : BitVec 12) (v : BitVec 25) (s : State) : Out := pushLit c 4 (v.signExtend 64) s
def execLitx (c : BitVec 12) (v : BitVec 25) (s : State) : Out :=
  runInstr c 4 (withStacks c { dPop := 1, dPush := 1 } fun s =>
    let (l, s) := s.popD c 1
    .done (s.pushD c ((ent l 0 <<< 25) ||| v.setWidth 64))) s

end Sys2Proof.Machine
end

