-- ==== Sys2Proof/Machine/ShortVec.lean ====
section
/-!
DEFINITION. Short vectors: lane-wise operations on 128-bit pairs (R103, R104), and the lane arithmetic
that the long vectors share (R174).
-/

namespace Sys2Proof.Machine

/-- An element type: an integer of `w` bits, or a floating format. -/
inductive Elem where
  | int (w : Nat)
  | fp (f : Fmt)
  deriving DecidableEq, Repr

/-- Width of an element type in bits. -/
def Elem.width : Elem → Nat
  | .int w => w
  | .fp f => f.width

/-- The lane types of R103 and the element types 0–7 of R172. -/
def elemOf (t : Nat) : Elem :=
  match t with
  | 0 => .int 8 | 1 => .int 16 | 2 => .int 32 | 3 => .int 64
  | 4 => .fp .f16 | 5 => .fp .bf16 | 6 => .fp .f32 | 7 => .fp .f64
  | 8 => .fp .e4m3 | _ => .fp .e5m2

/-- The signed value of an integer element. -/
def sInt (w x : Nat) : Int := (BitVec.ofNat w x).toInt

/-- A binary operation on elements, for integers modulo 2^w. -/
def Elem.bin (e : Elem) (i : Nat → Nat → Nat) (f : Fmt → Nat → Nat → FRes) (x y : Nat) : FRes :=
  match e with
  | .int w => (i x y % 2 ^ w, none)
  | .fp g => f g x y

/-- Sum. -/
def Elem.add (e : Elem) : Nat → Nat → FRes := e.bin (· + ·) Fmt.addOp
/-- Difference. -/
def Elem.sub (e : Elem) : Nat → Nat → FRes := e.bin (fun x y => x + (2 ^ e.width - y)) Fmt.subOp
/-- Product. -/
def Elem.mul (e : Elem) : Nat → Nat → FRes := e.bin (· * ·) Fmt.mulOp
/-- x × y + z with one rounding; integers wrap. -/
def Elem.fma (e : Elem) (x y z : Nat) : FRes :=
  match e with
  | .int w => ((x * y + z) % 2 ^ w, none)
  | .fp g => g.fmaOp x y z
/-- Signed minimum, or as FMIN. -/
def Elem.min (e : Elem) (x y : Nat) : FRes :=
  match e with
  | .int w => (if sInt w y < sInt w x then y else x, none)
  | .fp g => (g.minOp x y, none)
/-- Signed maximum, or as FMAX. -/
def Elem.max (e : Elem) (x y : Nat) : FRes :=
  match e with
  | .int w => (if sInt w x < sInt w y then y else x, none)
  | .fp g => (g.maxOp x y, none)
/-- Equality. -/
def Elem.eq (e : Elem) (x y : Nat) : Bool :=
  match e with
  | .int _ => decide (x = y)
  | .fp g => (g.decode x).eqNum (g.decode y)
/-- Signed or floating less-than. -/
def Elem.lt (e : Elem) (x y : Nat) : Bool :=
  match e with
  | .int w => decide (sInt w x < sInt w y)
  | .fp g => (g.decode x).ltNum (g.decode y)
/-- Signed or floating less-or-equal. -/
def Elem.le (e : Elem) (x y : Nat) : Bool :=
  match e with
  | .int w => decide (sInt w x ≤ sInt w y)
  | .fp g => (g.decode x).leNum (g.decode y)

/-- The lower of two causes by code, where there is one (R209: the lowest code at one position). -/
def lowCause (a b : Option NanCause) : Option NanCause :=
  match a, b with
  | none, x => x
  | x, none => x
  | some x, some y => if x.code ≤ y.code then some x else some y

/-- The lanes of a value of `n` lanes of `w` bits, lane 0 first. -/
def lanesOf (w n x : Nat) : List Nat := (upto n).map fun i => x / 2 ^ (w * i) % 2 ^ w

/-- Lanes put together again. -/
def fromLanes (w : Nat) : List Nat → Nat
  | [] => 0
  | x :: l => x + 2 ^ w * fromLanes w l

/-- The pair whose top entry is `hi` (R10). -/
def pairNat (hi lo : Word) : Nat := lo.toNat + 2 ^ 64 * hi.toNat

/-- A pair's two entries, deepest first. -/
def pairWords (x : Nat) : List Word := [word (x % 2 ^ 64), word (x / 2 ^ 64)]

/-- All ones or all zeros in `w` bits. -/
def maskLane (w : Nat) (b : Bool) : Nat := if b then 2 ^ w - 1 else 0

/-- A short-vector instruction on `np` pairs (and `nx` single entries above them), giving a pair. -/
def pairOp (c : BitVec 12) (np : Nat) (f : List Nat → Nat × Option NanCause) (s : State) : Out :=
  runInstr c 2 (withStacks c { dPop := 2 * np, dPush := 2 } fun s =>
    let (l, s) := s.popD c (2 * np)
    -- pairs deepest first
    let ps := (upto np).map fun i => pairNat (ent l (2 * (np - 1 - i))) (ent l (2 * (np - 1 - i) + 1))
    let r := f ps
    .done ((s.pushDs c (pairWords r.1)).coreNan c 0 0 r.2)) s

/-- A lane-wise operation over the lanes of several pairs. -/
def laneWise (e : Elem) (f : List Nat → FRes) (ps : List Nat) : Nat × Option NanCause :=
  let n := 128 / e.width
  let rs := (upto n).map fun i => f (ps.map fun p => p / 2 ^ (e.width * i) % 2 ^ e.width)
  (fromLanes e.width (rs.map (·.1)), rs.foldl (fun a r => lowCause a r.2) none)

/-- Operand `i` of a lane. -/
def arg (l : List Nat) (i : Nat) : Nat := l.getD i 0

/-- A lane-wise operation of two pairs. -/
def pair2 (c : BitVec 12) (t : BitVec 3) (f : Elem → Nat → Nat → FRes) (s : State) : Out :=
  pairOp c 2 (laneWise (elemOf t.toNat) fun l => f (elemOf t.toNat) (arg l 0) (arg l 1)) s

def execPAdd (c : BitVec 12) (t : BitVec 3) (s : State) : Out := pair2 c t Elem.add s
def execPSub (c : BitVec 12) (t : BitVec 3) (s : State) : Out := pair2 c t Elem.sub s
def execPMul (c : BitVec 12) (t : BitVec 3) (s : State) : Out := pair2 c t Elem.mul s
def execPFma (c : BitVec 12) (t : BitVec 3) (s : State) : Out :=
  pairOp c 3 (laneWise (elemOf t.toNat) fun l => (elemOf t.toNat).fma (arg l 0) (arg l 1) (arg l 2)) s
def execPMin (c : BitVec 12) (t : BitVec 3) (s : State) : Out := pair2 c t Elem.min s
def execPMax (c : BitVec 12) (t : BitVec 3) (s : State) : Out := pair2 c t Elem.max s

/-- A bitwise operation of two pairs; the lane type is ignored. -/
def pairBits (c : BitVec 12) (f : Nat → Nat → Nat) (s : State) : Out :=
  pairOp c 2 (fun ps => (f (arg ps 0) (arg ps 1), none)) s

def execPAnd (c : BitVec 12) (_t : BitVec 3) (s : State) : Out := pairBits c (· &&& ·) s
def execPOr (c : BitVec 12) (_t : BitVec 3) (s : State) : Out := pairBits c (· ||| ·) s
def execPXor (c : BitVec 12) (_t : BitVec 3) (s : State) : Out := pairBits c (· ^^^ ·) s
def execPCmpeq (c : BitVec 12) (t : BitVec 3) (s : State) : Out :=
  pair2 c t (fun e x y => (maskLane e.width (e.eq x y), none)) s
def execPCmplt (c : BitVec 12) (t : BitVec 3) (s : State) : Out :=
  pair2 c t (fun e x y => (maskLane e.width (e.lt x y), none)) s

/-- P.SEL: (q and m) or (p and not m). -/
def execPSel (c : BitVec 12) (_t : BitVec 3) (s : State) : Out :=
  pairOp c 3 (fun ps =>
    let m := arg ps 2
    ((arg ps 1 &&& m) ||| (arg ps 0 &&& (m ^^^ (2 ^ 128 - 1))), none)) s

/-- The first operation parcel of a short-vector form (R88), for DETAIL of ILLEGAL. -/
def shortParcel (op : Nat) (t : BitVec 3) : Nat := op * 4 + 2 + t.toNat * 256

/-- The ILLEGAL exception with the parcels at PC_RESUME: the prefix's parcel while a repeat is active
(R142, R150); the parcel of a REPX resumed by RETX is not known to the core's frame and is free. -/
def State.illegal (s : State) (c : BitVec 12) (parcels : Nat) : Exc :=
  { code := 0x01
    detail := match (s.carrel c).rep with
      | none => word parcels
      | some r => match r.parcel with
        | some p => place p 0
        | none => place (Config.repxParcel s.fresh) 0 }

/-- A lane-wise shift by n mod lane width: integer types only (R103, R104). -/
def pairShift (c : BitVec 12) (op : Nat) (t : BitVec 3) (f : Nat → Nat → Nat → Nat) (s : State) : Out :=
  runInstr c 2 (fun s =>
    match elemOf t.toNat with
    | .fp _ => .exc (s.illegal c (shortParcel op t))
    | .int w =>
      withStacks c { dPop := 3, dPush := 2 } (fun s =>
        let (l, s) := s.popD c 3
        let n := (ent l 0).toNat % w
        let x := pairNat (ent l 1) (ent l 2)
        .done (s.pushDs c (pairWords (fromLanes w ((lanesOf w (128 / w) x).map fun v => f w v n))))) s) s

/-- Left shift of a `w`-bit element. -/
def shlElem (w x n : Nat) : Nat := x * 2 ^ n % 2 ^ w
/-- Logical right shift of an element. -/
def shrElem (_w x n : Nat) : Nat := x / 2 ^ n
/-- Arithmetic right shift of an element. -/
def sarElem (w x n : Nat) : Nat := ((BitVec.ofNat w x).sshiftRight n).toNat

def execPShl (c : BitVec 12) (t : BitVec 3) (s : State) : Out := pairShift c 0x0C t shlElem s
def execPShr (c : BitVec 12) (t : BitVec 3) (s : State) : Out := pairShift c 0x0D t shrElem s
def execPSar (c : BitVec 12) (t : BitVec 3) (s : State) : Out := pairShift c 0x0E t sarElem s

/-- One level of a pairing tree: (0,1), (2,3) and so on (R104). -/
def pairLevel (f : Nat → Nat → FRes) : List Nat → List Nat × Option NanCause
  | x :: y :: l =>
    let r := f x y
    let (rest, z) := pairLevel f l
    (r.1 :: rest, lowCause r.2 z)
  | l => (l, none)

/-- The pairing tree of a list whose length is a power of two, `n` levels. -/
def pairTree (f : Nat → Nat → FRes) : Nat → List Nat → Nat × Option NanCause
  | 0, l => (arg l 0, none)
  | n + 1, l =>
    let (l', c) := pairLevel f l
    let (x, c') := pairTree f n l'
    (x, lowCause c c')

/-- P.HSUM: the lanes by the fixed tree; integers exactly in 64 bits (R104). -/
def execPHsum (c : BitVec 12) (t : BitVec 3) (s : State) : Out :=
  runInstr c 2 (withStacks c { dPop := 2, dPush := 1 } fun s =>
    let (l, s) := s.popD c 2
    let x := pairNat (ent l 0) (ent l 1)
    match elemOf t.toNat with
    | .int w =>
      let sum : Int := ((lanesOf w (128 / w) x).map (sInt w)).foldl (· + ·) 0
      .done (s.pushD c (BitVec.ofInt 64 sum))
    | .fp f =>
      let r := pairTree f.addOp 3 (lanesOf f.width (128 / f.width) x)
      .done ((s.pushD c (word r.1)).coreNan c 0 0 r.2)) s

/-- P.BCAST: the low lane-width bits in every lane. -/
def execPBcast (c : BitVec 12) (t : BitVec 3) (s : State) : Out :=
  runInstr c 2 (withStacks c { dPop := 1, dPush := 2 } fun s =>
    let (l, s) := s.popD c 1
    let w := (elemOf t.toNat).width
    .done (s.pushDs c (pairWords (fromLanes w (List.replicate (128 / w) (entN l 0 % 2 ^ w)))))) s

def execPDup (c : BitVec 12) (_t : BitVec 3) (s : State) : Out :=
  stackOp c 2 4 (fun l => [ent l 1, ent l 0, ent l 1, ent l 0]) s
def execPDrop (c : BitVec 12) (_t : BitVec 3) (s : State) : Out := stackOp c 2 0 (fun _ => []) s
def execPSwap (c : BitVec 12) (_t : BitVec 3) (s : State) : Out :=
  stackOp c 4 4 (fun l => [ent l 1, ent l 0, ent l 3, ent l 2]) s

end Sys2Proof.Machine
end

