-- ==== Sys2Proof/Machine/Control.lean ====
section
/-!
DEFINITION. Control transfer (R102), repeat prefixes (R111 to R113), the privilege transitions SYS, GATE
and RETX (R158 to R165), and the events that take an exception at a boundary.
-/

namespace Sys2Proof.Machine

/-! ### Branches (R90, R102) -/

/-- Sets the pc of a carrel. -/
def State.goto (s : State) (c : BitVec 12) (pc : Word) : State := s.modCarrel c fun k => { k with pc := pc }

/-- The target of an offset form: the address of its own first parcel plus 2 × offset (R90). -/
def brTarget (pc : Word) (off : Word) : Word := pc + off * 2

/-- The offset of a BR, BZ or BNZ form: 11 bits in the 16-bit form, 23 in the 32-bit form. -/
def brOff (long : Bool) (off : BitVec 23) : Word :=
  if long then off.signExtend 64 else (off.setWidth 11).signExtend 64

/-- Bytes of a BR, BZ or BNZ form. -/
def brLen (long : Bool) : Nat := if long then 4 else 2

def execBr (c : BitVec 12) (long : Bool) (off : BitVec 23) (s : State) : Out :=
  runInstr c (brLen long) (fun s => .went (s.goto c (brTarget (s.carrel c).pc (brOff long off)))) s

/-- A conditional branch pops its condition whether taken or not (R102). -/
def condBr (c : BitVec 12) (long : Bool) (off : BitVec 23) (take : Word → Bool) (s : State) : Out :=
  runInstr c (brLen long) (withStacks c { dPop := 1 } fun s =>
    let pc := (s.carrel c).pc
    let (l, s) := s.popD c 1
    if take (ent l 0) then .went (s.goto c (brTarget pc (brOff long off))) else .done s) s

def execBz (c : BitVec 12) (long : Bool) (off : BitVec 23) (s : State) : Out :=
  condBr c long off (fun x => decide (x = 0)) s
def execBnz (c : BitVec 12) (long : Bool) (off : BitVec 23) (s : State) : Out :=
  condBr c long off (fun x => decide (x ≠ 0)) s

def execCall (c : BitVec 12) (off : BitVec 25) (s : State) : Out :=
  runInstr c 4 (withStacks c { rPush := 1 } fun s =>
    let pc := (s.carrel c).pc
    .went ((s.pushR c (pc + 4)).goto c (brTarget pc (off.signExtend 64)))) s

/-- A jump target taken from a stack: bit 0 is ignored (R90). -/
def evenAddr (x : Word) : Word := x &&& 0xFFFFFFFFFFFFFFFE#64

def execCalli (c : BitVec 12) (s : State) : Out :=
  runInstr c 2 (withStacks c { dPop := 1, rPush := 1 } fun s =>
    let pc := (s.carrel c).pc
    let (l, s) := s.popD c 1
    .went ((s.pushR c (pc + 2)).goto c (evenAddr (ent l 0)))) s

def execJmpi (c : BitVec 12) (s : State) : Out :=
  runInstr c 2 (withStacks c { dPop := 1 } fun s =>
    let (l, s) := s.popD c 1
    .went (s.goto c (evenAddr (ent l 0)))) s

def execRet (c : BitVec 12) (s : State) : Out :=
  runInstr c 2 (withStacks c { rPop := 1 } fun s =>
    let (l, s) := s.popR c 1
    .went (s.goto c (evenAddr (ent l 0)))) s

def execControlNop (c : BitVec 12) (s : State) : Out := runInstr c 2 (fun s => .done s) s

/-! ### Encodings: which parcels are illegal, and which a prefix may not precede (R85 to R89, R113) -/

/-- Whether the parcels begin a 32-bit form (R84). -/
def isLong (p : BitVec 32) : Bool := decide (fieldN p 0 2 = 3)

/-- The functions that the table of R86 lists for a group. -/
def operateLegal (g f : Nat) : Bool :=
  match g with
  | 0 => (1 ≤ f && f ≤ 9) || (0x10 ≤ f && f ≤ 0x1F)
  | 1 => f ≤ 0x16
  | 2 => f ≤ 0x0C || (0x10 ≤ f && f ≤ 0x15)
  | 3 => 1 ≤ f && f ≤ 5
  | 4 => true
  | _ => false

/-- Types that a vector arithmetic operation allows (R173): 0 type 0 only, 1 int, 2 fp, 3 all, 4 all and
8, 9; none for a reserved operation. -/
def vTypes (op : Nat) : Option Nat :=
  if op = 0 ∨ op = 0x20 then some 4
  else if op ≤ 0x06 ∨ op = 0x24 then some 0
  else if op = 0x07 then none
  else if op = 0x0E ∨ op = 0x0F then some 2
  else if (0x15 ≤ op ∧ op ≤ 0x17) ∨ op = 0x1D then some 1
  else if op ≤ 0x23 then some 3
  else none

/-- Whether a TYPE is among those allowed. -/
def vTypeOk (kind type : Nat) : Bool :=
  match kind with
  | 0 => type = 0
  | 1 => type ≤ 3
  | 2 => 4 ≤ type && type ≤ 7
  | 3 => type ≤ 7
  | _ => type ≤ 9

/-- The operations that the table of R173 marks unmasked. -/
def vUnmasked (op : Nat) : Bool := op ≤ 0x06 || op = 0x1B || op = 0x1E || op = 0x1F || op = 0x24

/-- Whether a vector arithmetic form is legal (R172, R173). -/
def vArithLegal (op : Nat) (a : VArith) : Bool :=
  match vTypes op with
  | none => false
  | some k =>
    vTypeOk k a.type.toNat && !(a.m && vUnmasked op) &&
    (if op = 0x20 then decide (a.dtype ≤ 9) && (!a.sat || decide (a.dtype = 8))
     else decide (a.dtype = 0) && !a.sat)

/-- Whether a vector memory form is legal (R176, R177). -/
def vMemLegal (op : Nat) (a : VMem) : Bool :=
  decide (op ≤ 0x0C) &&
  (if op = 4 ∨ op = 5 ∨ op = 6 then true else !a.iw && decide (a.sc = 0)) &&
  (if op = 6 then
     decide (a.at_ ≤ 4) && decide (a.ew = if a.at_ = 0 ∨ a.at_ = 2 then 2 else 3)
   else decide (a.at_ = 0))

/-- Whether a 32-bit form is legal (R89, R100, R105, R108, R172, R176, R231). -/
def longLegal (p : BitVec 32) : Bool :=
  match fieldN p 2 5 with
  | 0 | 1 | 2 => true
  | 3 => fieldN p 7 2 ≠ 3
  | 4 => fieldN p 7 3 ≠ 7
  | 5 => fieldN p 7 3 ≤ 3
  | 6 => fieldN p 7 4 ≤ 7
  | 7 =>
    fieldN p 21 11 = 0 &&
    vMemLegal (fieldN p 7 5)
      { ew := field p 12 2, m := p.getLsbD 14, iw := p.getLsbD 15, sc := field p 16 2, at_ := field p 18 3 }
  | 8 =>
    fieldN p 24 8 = 0 &&
    vArithLegal (fieldN p 7 7)
      { type := field p 14 4, m := p.getLsbD 18, dtype := field p 19 4, sat := p.getLsbD 23 }
  | 9 =>
    fieldN p 16 16 = 0 &&
    (if p.getLsbD 14 then fieldN p 7 7 = 0 && !p.getLsbD 15
     else if p.getLsbD 15 then fieldN p 7 7 = 2 else true)
  | 0x0A =>
    fieldN p 18 14 = 0 && fieldN p 7 2 ≠ 3 && (fieldN p 7 2 = 2 || fieldN p 9 3 = 0) &&
    (!p.getLsbD 17 || fieldN p 12 5 = 0)
  | 0x0B => fieldN p 8 24 = 0
  | 0x0C =>
    match fieldN p 7 5 with
    | 0 => fieldN p 13 19 = 0
    | 1 | 0x0C | 0x0D => fieldN p 22 10 = 0
    | fn => fn ≤ 0x0D && fieldN p 12 20 = 0
  | _ => false

/-- Whether the core decodes the parcels as a legal form (R85). -/
def parcelsLegal (p : BitVec 32) : Bool :=
  match fieldN p 0 2 with
  | 0 => operateLegal (fieldN p 2 6) (fieldN p 8 8)
  | 1 => match fieldN p 2 3 with
    | 0 => fieldN p 11 5 = 0
    | 6 | 7 => false
    | _ => true
  | 2 =>
    fieldN p 2 6 ≤ 0x13 && fieldN p 11 5 = 0 &&
    !(0x0C ≤ fieldN p 2 6 && fieldN p 2 6 ≤ 0x0E && 4 ≤ fieldN p 8 3)
  | _ => longLegal p

/-- Whether the parcels begin an instruction that must not follow a prefix (R113, R232). A reserved encoding is
none of them: it raises ILLEGAL when it is decoded. -/
def prefixBad (p : BitVec 32) : Bool :=
  parcelsLegal p && match fieldN p 0 2 with
  | 0 => (fieldN p 2 6 = 3 && 2 ≤ fieldN p 8 8 && fieldN p 8 8 ≤ 5) || fieldN p 2 6 = 4
  | 1 => 1 ≤ fieldN p 2 3 && fieldN p 2 3 ≤ 3
  | 2 => false
  | _ =>
    match fieldN p 2 5 with
    | 2 | 3 | 0x0B => true
    | 9 => !p.getLsbD 14 && !p.getLsbD 15
    | 0x0A => !p.getLsbD 17
    | 0x0C => fieldN p 7 5 ≤ 2
    | _ => false

/-- The core decodes an illegal encoding (R85): the parcels are those at the pc. Parcels that are a legal
form raise nothing. -/
def execIllegalInstruction (c : BitVec 12) (parcels : BitVec 32) (s : State) : Out :=
  runInstr c (if isLong parcels then 4 else 2) (fun s =>
    if parcelsLegal parcels then .hold s
    else .exc (s.illegal c (if isLong parcels then parcels.toNat else parcels.toNat % 65536))) s

/-! ### Repeat prefixes (R111, R112) -/

/-- Runs a prefix whose next instruction has the parcels `nxt`: a fetch of them that fails is taken at the prefix,
before the count is popped (DESIGN CHOICE, log entry 71), and an instruction of the list of R113 raises ILLEGAL
there, before anything else. -/
def afterPrefix (c : BitVec 12) (nxt : BitVec 32) (parcel : Nat) (body : State → Res) (s : State) : Res :=
  let va := (s.carrel c).pc + 2
  match s.fetchWords c (if isLong nxt then [va, va + 2] else [va]) with
  | .miss seg => .hold (s.missWait c 0 seg)
  | .exc e => .exc e
  | .ok _ _ => if prefixBad nxt then .exc (s.illegal c parcel) else body s

/-- REP: checks the next instruction, pops the count and begins the repeat; with n = 0 it skips. -/
def execRepPrefix (c : BitVec 12) (nxt : BitVec 32) (s : State) : Out :=
  runInstr c 2 (afterPrefix c nxt 0x050C fun s => withStacks c { dPop := 1 } (fun s =>
      let pc := (s.carrel c).pc
      let (l, s) := s.popD c 1
      if ent l 0 = 0 then .went (s.goto c (pc + 2 + (if isLong nxt then 4 else 2)))
      else .went (s.modCarrel c fun k =>
        { k with pc := pc + 2
                 rep := some { repx := false, addr := pc, count := ent l 0, parcel := some 0x050C } })) s) s

/-- REPX m: the count is the form's field plus 1 (R86, R112). -/
def execRepxPrefix (c : BitVec 12) (count : BitVec 8) (nxt : BitVec 32) (s : State) : Out :=
  let parcel := BitVec.ofNat 16 (count.toNat * 256 + 0x10)
  runInstr c 2 (afterPrefix c nxt parcel.toNat fun s =>
      .went (s.modCarrel c fun k =>
        { k with pc := k.pc + 2
                 rep := some { repx := true, addr := k.pc, count := count.setWidth 64 + 1
                               parcel := some parcel } })) s

/-! ### SYS (R158, R159) -/

/-- The shadow set of S or M. -/
def Carrel.shadow (k : Carrel) (h : BitVec 2) : Shadow := if h = 1 then k.shdS else k.shdM

/-- The shadow set of S or M replaced. -/
def Carrel.setShadow (k : Carrel) (h : BitVec 2) (x : Shadow) : Carrel :=
  if h = 1 then { k with shdS := x } else { k with shdM := x }

/-- The entry address of a SYS to a level (R158). -/
def Carrel.sentry (k : Carrel) (h : BitVec 2) : Word := vecAddr (if h = 1 then k.sentryS else k.sentryM)

/-- Enters level `t` through its free shadow set: no memory is touched, the data bank stays (R158). -/
def State.enterShadow (s : State) (c : BitVec 12) (t : BitVec 2) : State :=
  s.modCarrel c fun k =>
    let tag := k.sealNext
    let k1 := { k with sealNext := nextSeal tag, level := t }
    let k2 := k1.setShadow t
      { pc := k.pc + 4
        status := statusWord k.level 0 (k.mask t) false 2 0 k.dbank true false tag
        cause := 0x20, depth := k1.depthWord, busy := true }
    { k2 with seals := { tag := tag, shadow := true, hlvl := t } :: k2.seals, pc := k2.sentry t }

/-- SYS with argument target S or M. DEDUCED (log entry 29). -/
def execSys (c : BitVec 12) (toM : Bool) (s : State) : Out :=
  runInstr c 4 (fun s =>
    let k := s.carrel c
    let t : BitVec 2 := if toM then 2 else 1
    if t < k.level then .exc (s.illegal c (0x33 + b2n toM * 0x1000))
    else if k.fast = false ∨ s.gateOnly then .exc { code := 0x02, detail := 2 }
    else
      let limit := if toM then 3 else 2
      let e : Entry := { h := t.toNat, code := 0x20, detail := some 0, kind := 2, pc := k.pc + 4
                         target := some (k.sentry t), keepBank := true }
      if k.seals.length ≤ limit ∧ (k.shadow t).busy = false then .went (s.enterShadow c t)
      else
        -- escalation of R155; a SYS to M past its limit enters rescue state
        let e : Entry := if limit < k.seals.length ∧ toM then { e with h := 3, keepBank := false } else e
        let x := k.settle e
        if k.rescue ∧ (x.h = 3 ∨ x.code = 0x0B) then .jump (s.haltCarrel c)
        else if x.code = 0x0B then .jump (s.enter c { e with pc := k.pc })
        else if x.h = 3 then .jump (s.enter c { e with keepBank := false })
        else .went (s.enter c e)) s

/-! ### GATE (R160 to R162) -/

/-- What the argument checks of a gate answer. -/
inductive GateCheck where
  | pass
  | fail (arg : Nat)
  | miss (seg : BitVec 4)
  deriving DecidableEq, Repr

/-- One check byte against a value at the caller's level (R161). -/
def State.gateArg (s : State) (c : BitVec 12) (chk : Nat) (v : Word) (i : Nat) : GateCheck :=
  let p := chk % 64
  match chk / 64 with
  | 0 => .pass
  | 1 => if v.toNat < 2 ^ p then .pass else .fail i
  | 2 => if -(2 ^ p : Int) ≤ v.toInt ∧ v.toInt < 2 ^ p then .pass else .fail i
  | _ =>
    if 4 ≤ p then .fail i
    else match s.access c 3 v 1 (BitVec.ofNat 5 p) with
      | .ok _ _ => .pass
      | .miss seg => .miss seg
      | .exc _ => .fail i

/-- The checks of the NARG arguments, argument 0 the deepest (R161). -/
def State.gateArgs (s : State) (c : BitVec 12) (w1 : Nat) (narg : Nat) : Nat → GateCheck
  | 0 => .pass
  | n + 1 =>
    let i := narg - (n + 1)
    match s.gateArg c (w1 / 2 ^ (16 + 8 * i) % 256) (s.peekD c (narg - 1 - i)) i with
    | .pass => s.gateArgs c w1 narg n
    | r => r

/-- The GATE exception (R142, R162). -/
def gateExc (n : BitVec 10) (reason arg : Nat) : Exc :=
  { code := 0x08, detail := word (n.toNat + arg * 0x400 + reason * 0x2000) }

/-- GATE n. DEDUCED (log entry 29). -/
def execGate (c : BitVec 12) (n : BitVec 10) (s : State) : Out :=
  runInstr c 4 (fun s =>
    let k := s.carrel c
    let off := k.gateBase.toNat * 16 + n.toNat * 16
    if k.gateCount.toNat ≤ n.toNat then .exc (gateExc n 1 0)
    else if off < k.ulim.toNat * 64 ∨ rescueOff < off + 16 then .exc (gateExc n 3 0)
    else
      let entry := s.le (shelfBase c.toNat + off) 8
      let w1 := s.le (shelfBase c.toNat + off + 8) 8
      let tlvl := BitVec.ofNat 2 (w1 / 2)
      let narg := w1 / 8 % 8
      let nres := w1 / 64 % 4
      if w1 % 2 = 0 ∨ tlvl = 0 ∨ tlvl = 3 ∨ narg = 7 ∨ nres = 3 ∨ tlvl < k.level then .exc (gateExc n 2 0)
      else if (k.bank k.dataBank).dataDepth < narg then .exc (gateExc n 4 0)
      else match s.gateArgs c w1 narg narg with
        | .miss seg => .hold (s.missWait c 3 seg)
        | .fail i => .exc (gateExc n 5 i)
        | .pass =>
          let target := if k.rescue then BankId.rescue else bankOfCode tlvl
          let b := k.bank target
          let popHere := if target = k.dataBank then narg else 0
          let e : Entry := { h := tlvl.toNat, code := 0x21, detail := some (n.setWidth 64), kind := 3
                             pc := k.pc + 4, nres := BitVec.ofNat 2 nres
                             target := some (evenAddr (word entry)) }
          let x := k.settle e
          if k.rescue ∧ (x.h = 3 ∨ x.code = 0x0B) then .jump (s.haltCarrel c)
          else if x.code = 0x0B then .jump (s.enter c { e with pc := k.pc })
          else if x.h = 3 then .went ((s.popD c narg).2.enter c e)
          else if (boundCheck b.d b.dres 8 popHere popHere narg).isSome then
            if k.rescue then .jump (s.haltCarrel c)
            else .jump (s.enter c { h := 2, code := 0x0B, orig := 0x21, detail := some 3, pc := k.pc })
          else
            let (args, s) := s.popD c narg
            .went ((s.enter c e).pushDs c args.reverse)) s

/-! ### RETX (R163, R165) -/

/-- The words of the frame that RETX returns through: PC_RESUME, STATUS, REPCNT, DEPTH. -/
def State.retFrame (s : State) (c : BitVec 12) : Word × Word × Word × Word :=
  let k := s.carrel c
  let mem (i : Nat) := (s.slot c i, s.slot c (i + 1), s.slot c (i + 4), s.slot c (i + 6))
  if k.rescue then mem (rescueOff / 8)
  else match k.seals with
    | sl :: _ =>
      if sl.shadow then
        let x := k.shadow sl.hlvl
        (x.pc, x.status, 0, x.depth)
      else mem ((k.xsp k.level).1.toNat * 8)
    | [] => (0, 0, 0, 0)

/-- The data depth that RETX requires, if it checks it (table of R163). -/
def retDataDepth (status depth : Word) : Option Nat :=
  match fieldN status 8 2 with
  | 2 => none
  | 3 => some (fieldN depth 0 16 + fieldN status 10 2)
  | _ => some (fieldN depth 0 16)

/-- The first failing reason of R163, if any. -/
def State.retCheck (s : State) (c : BitVec 12) : Option Nat :=
  let k := s.carrel c
  let (_, status, _, depth) := s.retFrame c
  let tag : BitVec 16 := field status 16 16
  let plvl : BitVec 2 := field status 0 2
  let here := k.depthWord
  let nres := fieldN status 10 2
  let target := bankOfCode plvl
  let b := k.bank target
  let pops := if target = k.dataBank then nres else 0
  if !k.rescue && k.seals.isEmpty then some 1
  else if tag ≠ (if k.rescue then k.rescueSeal else (k.seals.head?.map (·.tag)).getD 0) then some 2
  else if (if k.rescue then 2 else k.level) < plvl then some 3
  else if status.getLsbD 14 = false then some 4
  else if (match retDataDepth status depth with
      | some d => decide (d ≠ fieldN here 0 16)
      | none => false) || decide ((field depth 16 16 : BitVec 16) ≠ field here 16 16) then some 5
  else if fieldN status 8 2 = 3 ∧
      ((boundCheck b.d b.dres 8 pops pops nres).isSome ∨ (k.bank k.dataBank).dataDepth < nres) then some 6
  else none

/-- RETX. DEDUCED (log entry 28). A repeat that it resumes is not checked against the list of R113 again. DESIGN
CHOICE (log entry 72). -/
def execRetx (c : BitVec 12) (s : State) : Out :=
  runInstr c 4 (fun s =>
    let k := s.carrel c
    if k.level = 0 then .exc { code := 0x02, detail := 0 }
    else match s.retCheck c with
      | some r => .exc { code := 0x0A, detail := word r }
      | none =>
        let (pc, status, repcnt, _) := s.retFrame c
        let plvl : BitVec 2 := field status 0 2
        let repk := fieldN status 2 2
        let nres := if fieldN status 8 2 = 3 then fieldN status 10 2 else 0
        let (res, s) := s.popD c nres
        let s := s.modCarrel c fun k =>
          let k1 := k.setMask k.level (field status 4 3)
          let k2 : Carrel := if k.rescue then k1 else
            match k.seals with
            | sl :: rest =>
              let k' := { k1 with seals := rest }
              if sl.shadow then k'.setShadow sl.hlvl { k'.shadow sl.hlvl with busy := false }
              else k'.setXspTop k.level ((k.xsp k.level).1 + 1)
            | [] => k1
          { k2 with
            rescue := false, level := plvl, dbank := field status 12 2
            pc := if repk = 1 ∨ repk = 2 then evenAddr pc + 2 else evenAddr pc
            rep := if repk = 1 ∨ repk = 2 then
                some { repx := decide (repk = 2), addr := evenAddr pc, count := repcnt
                       parcel := if repk = 1 then some 0x050C else none }
              else none }
        .went (res.reverse.foldl (fun s x => s.pushBank c (bankOfCode plvl) x) s)) s

/-! ### Interrupts -/

/-- A pending interrupt (or the held imprecise fault) is taken at a point that R114 allows; where none
can be taken nothing happens. -/
def execInterruptEntry (c : BitVec 12) (s : State) : Out :=
  .next (if (s.carrel c).idle then (s.takePending c).getD s else s)

/-- The active keeper raises KEEPER on a carrel, or its source is cleared and the request goes (R143).
DESIGN CHOICE (log entry 73). -/
def execKeeperInterruptRequest (x : IrqSource) (s : State) : Out :=
  .next (s.modCarrel x.c fun k => { k with keeperReq := x.on })

end Sys2Proof.Machine
end

