-- ==== Sys2Proof/Machine/CtrlRegs.lean ====
section
/-!
DEFINITION. The carrel control registers and CRD and CWR (R81, R82, R109, R110, R123, R124, R151, R152,
R213, R214, R67, R68).
-/

namespace Sys2Proof.Machine

/-- Access of a level to a register: refused, read-only, or read and write. -/
inductive Acc where
  | no | ro | rw
  deriving DecidableEq, Repr

/-- Access to control register `n` by level (R109, R123, R151, R67, R213). Reserved numbers read 0 and
ignore writes at every level. -/
def cregAcc (n : Nat) (level : BitVec 2) : Acc :=
  let tri (u s m : Acc) : Acc := if level = 0 then u else if level = 1 then s else m
  match n with
  | 0x002 => tri .ro .rw .rw
  | 0x010 | 0x011 | 0x012 | 0x013 | 0x014 | 0x015 => tri .ro .rw .rw
  | 0x020 | 0x021 | 0x022 | 0x023 | 0x024 | 0x025 => tri .no .rw .rw
  | 0x030 | 0x031 | 0x032 | 0x033 | 0x034 | 0x035 => tri .no .no .rw
  | 0x040 => tri .ro .rw .rw
  | 0x041 => tri .no .rw .rw
  | 0x042 => tri .no .no .rw
  | 0x045 => tri .no .ro .ro
  | 0x048 | 0x04A | 0x050 | 0x058 => tri .no .rw .rw
  | 0x049 | 0x04B | 0x04C | 0x051 => tri .no .no .rw
  | 0x060 | 0x061 | 0x062 | 0x063 | 0x064 => tri .no .ro .ro
  | 0x068 | 0x069 | 0x06A | 0x06B => tri .no .rw .rw
  | 0x06C | 0x06D | 0x06E | 0x06F => tri .no .no .rw
  | 0x080 | 0x081 => tri .ro .rw .rw
  | 0x090 | 0x091 => tri .ro .rw .rw
  | _ => .ro

/-- Stack register `i` of a bank: DSP, DSLO, DSHI, RSP, RSLO, RSHI (R81). -/
def Bank.reg (b : Bank) (i : Nat) : BitVec 15 :=
  match i with
  | 0 => b.d.ptr | 1 => b.d.lo | 2 => b.d.hi | 3 => b.r.ptr | 4 => b.r.lo | _ => b.r.hi

/-- Stack register `i` written; the resident entries stay (R83). -/
def Bank.setReg (b : Bank) (i : Nat) (v : BitVec 15) : Bank :=
  match i with
  | 0 => { b with d := { b.d with ptr := v } }
  | 1 => { b with d := { b.d with lo := v } }
  | 2 => { b with d := { b.d with hi := v } }
  | 3 => { b with r := { b.r with ptr := v } }
  | 4 => { b with r := { b.r with lo := v } }
  | _ => { b with r := { b.r with hi := v } }

/-- STK_STAT of the banks in use (R82, R140). -/
def Carrel.stkStat (k : Carrel) : Word :=
  word ((k.bank k.dataBank).dres.length % 16 + (k.bank k.retBank).rres.length % 32 * 16 +
    k.vstack.length % 16 * 512)

/-- LEVEL_STAT (R152). -/
def Carrel.levelStat (k : Carrel) : Word :=
  place k.level 0 ||| place (bit k.rescue) 2 ||| place (bit k.shdS.busy) 3 ||| place (bit k.shdM.busy) 4 |||
    place (BitVec.ofNat 3 k.seals.length) 5 ||| place k.dbank 8

/-- SEAL0 to SEAL3 (R152). -/
def Carrel.sealWord (k : Carrel) (i : Nat) : Word :=
  match k.seals[i]? with
  | some x => place x.tag 0 ||| place (bit x.shadow) 16 ||| place x.hlvl 17 ||| place (1 : BitVec 1) 19
  | none => 0

/-- CACHE_STAT (R124). -/
def Carrel.cacheStat (k : Carrel) : Word :=
  place (bit k.icInit) 0 ||| place (bit k.dcInit) 1 ||| word (k.mb.length % 16 * 256) |||
    word ((k.mb.filter fun e => e.issued && !e.acked).length % 16 * 4096)

/-- NAN_STAT of carrel `c` (R214); the event's fields read 0 while VALID is 0. -/
def NanRec.stat (r : NanRec) (c : BitVec 12) : Word :=
  place (bit r.valid) 0 ||| place (bit r.more) 1 ||| place (bit (r.valid && r.settled)) 2 |||
    (if r.valid then place r.ev.src 3 ||| place r.ev.cause 6 ||| place r.ev.phase 10 else 0) ||| place c 20

/-- NAN_POS (R214). -/
def NanEvent.pos (e : NanEvent) : Word := place e.col 0 ||| place e.row 16 ||| place e.group 32

/-- WD_STAT (R68). -/
def Watchdog.stat (w : Watchdog) : Word :=
  place w.phase 0 ||| place w.ptick 8 ||| place (bit w.run) 20 ||| place (bit w.ovr) 21

/-- The watchdog's count brought up to date while it runs: the cycles spent since the last look are free
(R66); a count past the budget is an OVERRUN event of its own, so the count shown stays within it. -/
def Watchdog.sample (w : Watchdog) (free : Nat) : Watchdog :=
  if w.run then
    { w with count := BitVec.ofNat 32 (Nat.min (w.count.toNat + free) (Nat.max w.budget.toNat w.count.toNat)) }
  else w

/-- The value of a control register of carrel `c`. -/
def State.creg (s : State) (c : BitVec 12) (n : Nat) : Word :=
  let k := s.carrel c
  let shd (x : Shadow) (i : Nat) : Word :=
    match i with | 0 => x.pc | 1 => x.status | 2 => x.cause | _ => x.depth
  if n = 0x000 then k.stkStat
  else if n = 0x001 then (k.rep.map (·.count)).getD 0
  else if n = 0x002 then place k.ulim 6
  else if 0x010 ≤ n ∧ n ≤ 0x015 then place (k.bankU.reg (n - 0x010)) 3
  else if 0x020 ≤ n ∧ n ≤ 0x025 then place (k.bankS.reg (n - 0x020)) 3
  else if 0x030 ≤ n ∧ n ≤ 0x035 then place (k.bankM.reg (n - 0x030)) 3
  else if n = 0x040 then place k.maskU 0
  else if n = 0x041 then place k.maskS 0
  else if n = 0x042 then place k.maskM 0
  else if n = 0x043 then k.levelStat
  else if n = 0x044 then place (bit (k.fast && !s.gateOnly)) 0 ||| place (bit s.gateOnly) 1
  else if n = 0x045 then place k.pend 0
  else if n = 0x048 then vecAddr k.sentryS
  else if n = 0x049 then vecAddr k.sentryM
  else if n = 0x04A then vecAddr k.xvecS
  else if n = 0x04B then vecAddr k.xvecM
  else if n = 0x04C then vecAddr k.rescueVec
  else if n = 0x050 then place k.xspSTop 6 ||| place k.xspSFloor 22
  else if n = 0x051 then place k.xspMTop 6 ||| place k.xspMFloor 22
  else if n = 0x058 then place k.gateBase 4 ||| place k.gateCount 18
  else if 0x060 ≤ n ∧ n ≤ 0x063 then k.sealWord (n - 0x060)
  else if n = 0x064 then place k.sealNext 0
  else if 0x068 ≤ n ∧ n ≤ 0x06B then shd k.shdS (n - 0x068)
  else if 0x06C ≤ n ∧ n ≤ 0x06F then shd k.shdM (n - 0x06C)
  else if n = 0x080 then place k.icseed 0
  else if n = 0x081 then place k.dcseed 0
  else if n = 0x082 then k.cacheStat
  else if n = 0x090 then place (bit k.nan.trapEn) 0
  else if n = 0x091 then k.nan.stat c
  else if n = 0x092 then (if k.nan.valid then k.nan.ev.wtn else 0)
  else if n = 0x093 then (if k.nan.valid then k.nan.ev.op else 0)
  else if n = 0x094 then (if k.nan.valid then k.nan.ev.pos else 0)
  else if n = 0x0A0 then place k.wd.budget 0
  else if n = 0x0A1 then place k.wd.count 0
  else if n = 0x0A2 then k.wd.stat
  else if n = 0x0A3 then place k.wd.max 0
  else 0

/-- Control register `n` written with `v`: only the bits its layout marks writable change (R8, R9). -/
def Carrel.setCreg (k : Carrel) (n : Nat) (v : Word) : Carrel :=
  let vec : BitVec 63 := field v 1 63
  let shd (x : Shadow) (i : Nat) : Shadow :=
    match i with
    | 0 => { x with pc := v } | 1 => { x with status := v &&& 0xFFFFFFFF } | 2 => { x with cause := v &&& 0xFFFF }
    | _ => { x with depth := v &&& 0xFFFFFFFF }
  if n = 0x002 then { k with ulim := field v 6 12 }
  else if 0x010 ≤ n ∧ n ≤ 0x015 then { k with bankU := k.bankU.setReg (n - 0x010) (field v 3 15) }
  else if 0x020 ≤ n ∧ n ≤ 0x025 then { k with bankS := k.bankS.setReg (n - 0x020) (field v 3 15) }
  else if 0x030 ≤ n ∧ n ≤ 0x035 then { k with bankM := k.bankM.setReg (n - 0x030) (field v 3 15) }
  else if n = 0x040 then { k with maskU := field v 0 3 }
  else if n = 0x041 then { k with maskS := field v 0 3 }
  else if n = 0x042 then { k with maskM := field v 0 3 }
  else if n = 0x048 then { k with sentryS := vec }
  else if n = 0x049 then { k with sentryM := vec }
  else if n = 0x04A then { k with xvecS := vec }
  else if n = 0x04B then { k with xvecM := vec }
  else if n = 0x04C then { k with rescueVec := vec }
  else if n = 0x050 then { k with xspSTop := field v 6 12, xspSFloor := field v 22 12 }
  else if n = 0x051 then { k with xspMTop := field v 6 12, xspMFloor := field v 22 12 }
  else if n = 0x058 then { k with gateBase := field v 4 14, gateCount := field v 18 11 }
  else if 0x068 ≤ n ∧ n ≤ 0x06B then { k with shdS := shd k.shdS (n - 0x068) }
  else if 0x06C ≤ n ∧ n ≤ 0x06F then { k with shdM := shd k.shdM (n - 0x06C) }
  else if n = 0x080 then { k with icseed := field v 0 16 }
  else if n = 0x081 then { k with dcseed := field v 0 16 }
  else if n = 0x090 then { k with nan := { k.nan with trapEn := v.getLsbD 0 } }
  else if n = 0x091 then
    { k with nan :=
        { k.nan with
          valid := k.nan.valid && !v.getLsbD 0, settled := k.nan.settled && !v.getLsbD 0
          more := k.nan.more && !v.getLsbD 1 } }
  else k

/-- PRIV for a register number (R142). -/
def privReg (n : BitVec 10) : Exc := { code := 0x02, detail := 1#64 ||| place n 12 }

/-- CRD n ( -- x ). The value is read before the push spills anything (DESIGN CHOICE, log entry 66). Reading
WD_COUNT while the watchdog runs draws the cycles spent so far. -/
def execCrd (c : BitVec 12) (n : BitVec 10) (s : State) : Out :=
  runInstr c 4 (fun s =>
    if cregAcc n.toNat (s.carrel c).level = .no then .exc (privReg n)
    else withStacks c { dPush := 1 } (fun s =>
      let s := if n = 0x0A1 ∧ (s.carrel c).wd.run then
          { s.modCarrel c (fun k => { k with wd := k.wd.sample (Config.cycles s.fresh) }) with fresh := s.fresh + 1 }
        else s
      .done (s.pushD c (s.creg c n.toNat))) s) s

/-- CWR n ( x -- ). A write to a register that the level may only read is ignored (R8). -/
def execCwr (c : BitVec 12) (n : BitVec 10) (s : State) : Out :=
  runInstr c 4 (fun s =>
    match cregAcc n.toNat (s.carrel c).level with
    | .no => .exc (privReg n)
    | a => withStacks c { dPop := 1 } (fun s =>
        let (l, s) := s.popD c 1
        .done (if a = .rw then s.modCarrel c fun k => k.setCreg n.toNat (ent l 0) else s)) s) s

end Sys2Proof.Machine
end

