-- ==== Sys2Proof/Machine/Report.lean ====
section
/-!
DEFINITION. What the part reports to the outside: the log of what it has sent, vector 0 of a function
(R439), EMCY messages (R501), error records and the ring (R451 to R454, R475), and where a carrel lies
(R26 to R32).
-/

namespace Sys2Proof.Machine

/-- Records something sent. -/
def State.send (s : State) (x : Sent) : State := { s with sent := x :: s.sent }

/-- The function that owns a context (R418). -/
def State.owner (s : State) (c : Nat) : BitVec 6 := Tab.get 0 s.seg.func c

/-- The host side of a context. -/
def State.hctx (s : State) (c : Nat) : HostCtx := Tab.get HostCtx.reset s.host.ctxs c

/-- The host side of a context changed. -/
def State.modHctx (s : State) (c : Nat) (f : HostCtx → HostCtx) : State :=
  { s with host := { s.host with ctxs := Tab.set HostCtx.reset s.host.ctxs c (f (s.hctx c)) } }

/-- Sends an MSI-X message of a function, when the host link is up. -/
def State.sendMsix (s : State) (f : BitVec 6) (v : BitVec 16) : State :=
  if s.host.dlUp then s.send (.msix f v) else s

/-- Vector 0 of the function that owns a context, with HOST_CTX.EVENT (R439). -/
def State.raiseCtx (s : State) (c : Nat) : State :=
  (s.modHctx c fun h => { h with event := true }).sendMsix (s.owner c) 0

/-! ### EMCY (R501) -/

/-- Whether the keeper may send CAN messages other than NMT and heartbeat (R498, R500). -/
def State.canTalk (s : State) : Bool :=
  !s.keepers.none_ && !s.dict.busOff && decide (s.dict.nodeId ≠ 0) &&
    decide (s.dict.nmt = 1 ∨ s.dict.nmt = 2)

/-- A dictionary entry in force, or its default. -/
def State.entryVal (s : State) (index sub : Nat) (dflt : List Byte) : List Byte :=
  (Tab.get none s.dict.vals (index * 256 + sub)).getD dflt

/-- The CAN-ID of EMCY (R499, R512). -/
def State.emcyId (s : State) : Nat :=
  bytesToNat (s.entryVal 0x1014 0 (natToBytes 4 (0x80 + s.dict.nodeId.toNat)))

/-- The 4 B of detail of an EMCY message (R454, R501). -/
def State.emcyDetail (s : State) (num : Option Nat) : Nat :=
  match num with
  | none => 0
  | some k => match Tab.get none s.census.ring.seqs k with
    | some q => q.toNat % 2 ^ 32
    | none => 0xFFFFFFFF

/-- Sends the oldest held-back EMCY message and starts the spacing of R501. -/
def State.emcyNext (s : State) : State :=
  match s.dict.emcy with
  | [] => { s with dict := { s.dict with inhibit := false } }
  | (code, _, num) :: rest =>
    let msg := natToBytes 2 code.toNat ++ [s.dict.errReg] ++ natToBytes 4 (s.emcyDetail num)
    let s := { s with dict := { s.dict with emcy := rest, inhibit := true } }
    s.send (.can s.emcyId msg)

/-- An EMCY event: the bit of the error register is set, and the message waits its turn. A keeper that
may not send makes none. DEDUCED (log entry 42). -/
def State.emcy (s : State) (code : BitVec 16) (regBit : Option Nat) (num : Option Nat) : State :=
  let s := match regBit with
    | some b => { s with dict := { s.dict with errReg := s.dict.errReg ||| BitVec.ofNat 8 (2 ^ b) } }
    | none => s
  if s.canTalk then
    let s := { s with dict := { s.dict with emcy := s.dict.emcy ++ [(code, regBit.getD 8, num)] } }
    if s.dict.inhibit then s else s.emcyNext
  else s

/-- The spacing between two EMCY messages is over (R501). -/
def execEmcyInhibitExpiry (s : State) : Host.Outcome State Fault Refusal := .next s.emcyNext

/-- Clears a bit of the error register. -/
def State.clearErrBit (s : State) (b : Nat) : State :=
  { s with dict := { s.dict with errReg := s.dict.errReg &&& ~~~ BitVec.ofNat 8 (2 ^ b) } }

/-! ### Lost words (R450) -/

/-- Words wholly covered by `n` bytes from `a` hold data again (R450). -/
def State.clearLost (s : State) (a n : Nat) : State :=
  if s.lost.isEmpty then s else
  { s with lost := s.lost.filter fun (w, _) => !(decide (a ≤ 8 * w) && decide (8 * w + 8 ≤ a + n)) }

/-- Bytes written by a unit, whole words becoming readable again. -/
def State.store (s : State) (a : Nat) (b : List Byte) : State := (s.setBytes a b).clearLost a b.length

/-- Whether a write of a range of bytes covers a lost word only in part (R342). -/
def State.lostPart (s : State) (a n : Nat) : Bool :=
  s.lost.any fun (w, _) => decide (a < 8 * w + 8) && decide (8 * w < a + n) &&
    !(decide (a ≤ 8 * w) && decide (8 * w + 8 ≤ a + n))

/-- Whether a range of bytes touches a lost word. -/
def State.lostIn (s : State) (a n : Nat) : Bool :=
  s.lost.any fun (w, _) => decide (a < 8 * w + 8) && decide (8 * w < a + n)

/-! ### The error ring (R451 to R454, R475) -/

/-- A report with every field all ones: the fields that do not apply (R451). -/
def blankReport : Report :=
  { wtn := BitVec.allOnes 64, code := 0, unit := 0, disp := 0, unitno := BitVec.allOnes 16
    context := BitVec.allOnes 16, addr := BitVec.allOnes 64, carrel := BitVec.allOnes 16
    phys := BitVec.allOnes 16, opnum := BitVec.allOnes 32, d0 := BitVec.allOnes 64
    d1 := BitVec.allOnes 64 }

/-- The 64 bytes of a record (R451). -/
def reportBytes (r : Report) (seq tick : Word) : List Byte :=
  natToBytes 8 seq.toNat ++ natToBytes 8 tick.toNat ++ natToBytes 8 r.wtn.toNat ++
    natToBytes 2 r.code.toNat ++ [r.unit, r.disp] ++ natToBytes 2 r.unitno.toNat ++
    natToBytes 2 r.context.toNat ++ natToBytes 8 r.addr.toNat ++ natToBytes 2 r.carrel.toNat ++
    natToBytes 2 r.phys.toNat ++ natToBytes 4 r.opnum.toNat ++ natToBytes 8 r.d0.toNat ++
    natToBytes 8 r.d1.toNat

/-- LOG2 in force: values outside 6–20 act as 6 (R475). -/
def Ring.entries (r : Ring) : Nat :=
  2 ^ (if 6 ≤ r.log2.toNat ∧ r.log2.toNat ≤ 20 then r.log2.toNat else 6)

/-- Whether the ring is full (R454). -/
def Ring.full (r : Ring) : Bool := decide ((r.head - r.tail).toNat = r.entries)

/-- The address of the slot of the next record (R453). -/
def Ring.slotAddr (r : Ring) : Nat := r.base.toNat * 64 + 64 * (r.head.toNat % r.entries)

/-- The ring replaced. -/
def State.setRing (s : State) (r : Ring) : State := { s with census := { s.census with ring := r } }

/-- A report is dropped: LOST rises, and the keeper sends EMCY 0xFF05 (R454, R501). -/
def State.ringLose (s : State) : State :=
  let r := s.census.ring
  (s.setRing { r with lost := satInc r.lost }).emcy 0xFF05 (some 7) none

/-- The EMCY message that a written or held record brings (R501). -/
def State.recordEmcy (s : State) (code : BitVec 16) (num : Nat) : State :=
  if code = 0x51 then s.emcy 0xFF02 (some 7) (some num)
  else if code = 0x22 then s.emcy 0xFF03 (some 4) (some num)
  else if code = 1 ∨ code = 2 ∨ code = 3 then s.emcy 0xFF04 (some 0) (some num)
  else s

/-- Writes one report into the ring, or drops it (R453, R454, R475). -/
def State.ringWrite (s : State) (h : HeldReport) : State :=
  let r := s.census.ring
  let a := r.slotAddr
  if r.full ∨ s.hbmEnd < a + 64 then s.ringLose
  else
    let rep := match h.ref with
      | some k => { h.rep with d1 := (Tab.get none r.seqs k).getD (BitVec.allOnes 64) }
      | none => h.rep
    let s := s.store a (reportBytes rep r.head h.tick)
    let s := s.setRing { r with head := r.head + 1, seqs := Tab.set none r.seqs h.num (some r.head) }
    let s := s.sendMsix 0 0
    if rep.context.toNat < 4096 then s.raiseCtx rep.context.toNat else s

/-- Makes a report (R453, R454); `ref` names the report of the fault that a CTX-HALT refers to. -/
def State.report (s : State) (rep : Report) (ref : Option Nat := none) : State :=
  let r := s.census.ring
  let h : HeldReport := { rep := rep, tick := s.tick.no, num := r.num, ref := ref }
  let s := s.setRing { r with num := r.num + 1 }
  if r.en then
    let t := s.ringWrite h
    if t.census.ring.head = r.head then t else t.recordEmcy rep.code h.num
  else
    let l := r.held ++ [h]
    let s := if 64 < l.length then
        s.ringLose.setRing { s.ringLose.census.ring with held := l.drop 1 }
      else s.setRing { s.census.ring with held := l }
    s.recordEmcy rep.code h.num

/-- The number that the next report will have. -/
def State.reportNum (s : State) : Nat := s.census.ring.num

/-- The ring is enabled: the held reports are written in their order (R454). -/
def State.ringEnable (s : State) : State :=
  let l := s.census.ring.held
  l.foldl State.ringWrite (s.setRing { s.census.ring with en := true, held := [] })

/-- The write of CEN_RING_CTL: LOG2 is ignored while EN is 1 (R475). -/
def State.ringCtl (s : State) (v : Word) : State :=
  let r := s.census.ring
  let s := if r.en then s else s.setRing { r with log2 := field v 1 5 }
  if v.getLsbD 0 then (if r.en then s else s.ringEnable)
  else s.setRing { s.census.ring with en := false }

/-- The ring writer takes a report of a unit (R453). -/
def execErrorReport (report : Report) (s : State) : Host.Outcome State Fault Refusal :=
  .next (s.report report)

/-! ### Where a carrel lies (R26 to R32) -/

/-- The physical bay of a logical bay (DIE × 128 + bay): the fuse map's, else the same number. -/
def State.physBay (s : State) (b : Nat) : Nat :=
  match Tab.get 0 s.map.phys b with
  | 0 => b % 128
  | n + 1 => n

/-- The redirect entry in force for a carrel: VALID, PSLOT, PBAY, LCARREL (R28, R32). -/
def State.redirectOf (s : State) (c : Nat) : Option (BitVec 32) :=
  (s.map.redirect.find? fun (_, e) => e.getLsbD 31 && decide (fieldN e 0 12 = c)).map (·.2)

/-- The PHYS field of a record for a carrel (R451). -/
def State.physOf (s : State) (c : BitVec 12) : BitVec 16 :=
  let die := c.toNat / 2048
  match s.redirectOf c.toNat with
  | some e => BitVec.ofNat 16 (fieldN e 12 8 + fieldN e 20 4 * 256 + die * 4096)
  | none => BitVec.ofNat 16 (s.physBay (c.toNat / 16) + c.toNat % 16 * 256 + die * 4096)

/-- A report about the work of a carrel: work tick, carrel, place and context. -/
def State.carrelReport (s : State) (c : BitVec 12) (code unit : Nat) : Report :=
  { blankReport with
    code := BitVec.ofNat 16 code, unit := BitVec.ofNat 8 unit, wtn := s.tick.wtn
    carrel := c.setWidth 16, phys := s.physOf c
    context := if (s.carrel c).plan = none then BitVec.allOnes 16 else (s.carrel c).ctx.setWidth 16 }

end Sys2Proof.Machine
end

