-- ==== Sys2Proof/Machine/LinkTx.lean ====
section
/-!
DEFINITION. The transmit side of the links: items, routes, flits and the allowances (R388 to R396).
-/

namespace Sys2Proof.Machine

/-! ### Function states (R520, R521) -/

/-- The key of a function's state (R520). -/
def funcKey : FuncId → Nat
  | .link l => l.val
  | .stack i => 0x100 + i.toNat
  | .part p => 0x200 + p.toNat
  | .bay b => 0x300 + b.toNat
  | .ctx c => 0x1000 + c.toNat

/-- The state of a function (R521). -/
def State.func (s : State) (f : FuncId) : Func := Tab.get Func.reset s.dict.funcs (funcKey f)

/-- The state of a function replaced. -/
def State.setFunc (s : State) (f : FuncId) (x : Func) : State :=
  { s with dict := { s.dict with funcs := Tab.set Func.reset s.dict.funcs (funcKey f) x } }

/-- Whether a function is ON. -/
def State.funcOn (s : State) (f : FuncId) : Bool := decide ((s.func f).state = 2)

/-! ### Links -/

/-- Cycles of the work window of a tick of `len` ns (R6, R40). -/
def workCycles (len : Nat) : Nat := ceilDiv ((len - 300) * 12) 10

/-- Link `l`. -/
def State.link (s : State) (l : Nat) : Link := Tab.get Link.reset s.links l

/-- Link `l` changed. -/
def State.modLink (s : State) (l : Nat) (f : Link → Link) : State :=
  { s with links := Tab.set Link.reset s.links l (f (s.link l)) }

/-- Whether a link carries flits: ACTIVE or SLEEP (R383). -/
def Link.open_ (k : Link) : Bool := decide (k.state = 2 ∨ k.state = 3)

/-- Whether a link's function is stopping: it grants no new item (R523). -/
def State.linkStopping (s : State) (l : Nat) : Bool :=
  decide ((Tab.get Func.reset s.dict.funcs l).state = 3)

/-- Whether a link sends flits: also in a DROP of its receive direction (R385). -/
def Link.txOpen (k : Link) : Bool := k.open_ || (decide (k.state = 4) && !k.dropTx)

/-- Whether a link receives flits: also in a DROP of its transmit direction (R385). -/
def Link.rxOpen (k : Link) : Bool := k.open_ || (decide (k.state = 4) && !k.dropRx)

/-- Whether a link holds items back until it is ACTIVE again: TRAIN, DROP of its transmit direction, RETRAIN. -/
def Link.holding (k : Link) : Bool := decide (k.state = 1 ∨ k.state = 4 ∨ k.state = 5) && !k.txOpen

/-- The header unit of an item (R392). -/
def itemHdr (kind : Nat) (src dst : BitVec 12) (tag : BitVec 16) (part : BitVec 6) (planned : Bool)
    (op : BitVec 4) (ret w : Bool) : Word :=
  word kind ||| place src 4 ||| place dst 16 ||| place tag 28 ||| place part 44 |||
    place (bit planned) 50 ||| place op 51 ||| place (bit ret) 55 ||| place (bit w) 56

/-- The header of an item. -/
def Item.hdr (i : Item) : Word := i.headD 0
/-- KIND of an item. -/
def Item.kind (i : Item) : Nat := fieldN i.hdr 0 4
/-- SRC of an item. -/
def Item.src (i : Item) : BitVec 12 := field i.hdr 4 12
/-- DST of an item. -/
def Item.dst (i : Item) : BitVec 12 := field i.hdr 16 12
/-- TAG of an item. -/
def Item.tag (i : Item) : BitVec 16 := field i.hdr 28 16
/-- PART of an item. -/
def Item.part (i : Item) : BitVec 6 := field i.hdr 44 6
/-- CLASS of an item: planned. -/
def Item.planned (i : Item) : Bool := i.hdr.getLsbD 50
/-- OP of an item. -/
def Item.op (i : Item) : BitVec 4 := field i.hdr 51 4
/-- RET of an item. -/
def Item.ret (i : Item) : Bool := i.hdr.getLsbD 55
/-- W of an item. -/
def Item.w (i : Item) : Bool := i.hdr.getLsbD 56
/-- Unit `n` of an item. -/
def Item.unit (i : Item) (n : Nat) : Word := i.getD n 0

/-- The units of an item with this header, a reduction fragment apart: `fragUnits` and `State.unitsOf` give those
(R392). DEDUCED (log entry 40). -/
def itemUnits (hdr : Word) : Nat :=
  match fieldN hdr 0 4 with
  | 0 => 2 | 1 => 11
  | 2 => if fieldN hdr 51 4 = 14 then 4 else 3
  | 3 => 9 | 4 => 1
  | 5 => if hdr.getLsbD 55 then 2 else 1
  | 6 => 2 | 7 => 4 | 8 => 2
  | 9 => 2
  | 10 => 2 | 11 => 2 | _ => 1

/-- The link that LNK_ROUTE gives for a chip; none where it gives 0xF or more (R393, R412). -/
def State.route (s : State) (chip : BitVec 12) : Option Nat :=
  let w := Tab.get routeReset s.chain.live.route (chip.toNat / 16)
  let l := fieldN w (4 * (chip.toNat % 16)) 4
  if l < 12 then some l else none

/-- Whether an item is of requesters 3–5 of R72 or of CLASS unplanned: it shares the unplanned allowance. -/
def Item.unplanned (i : Item) : Bool :=
  if i.kind = 10 ∨ i.kind = 11 ∨ i.kind = 12 then true
  else if i.kind = 7 ∨ i.kind = 8 ∨ i.kind = 9 then false
  else !i.planned

/-- The requester of the transmit arbiter that offers an item (R72): 0 scheduled transactions, 1 fragments, 2 barrier
messages, 3 census strobes, 4 invalidation broadcasts, 5 unscheduled traffic; 6 a tick mark, which is not
arbitrated. -/
def Item.asker (i : Item) : Nat :=
  match i.kind with
  | 7 => 6 | 8 => 2 | 9 => 1 | 10 => 3 | 11 => 4 | 12 => 4
  | _ => if i.planned then 0 else 5

/-- The items of a queue in the priority order of a tick (R71, R72): tick marks, then the requesters from tick mod 6
on, each oldest first. -/
def arbitrate (tick : Nat) (q : List Item) : List Item :=
  (q.filter fun i => decide (i.asker = 6)) ++
    (upto 6).flatMap fun j => q.filter fun i => decide (i.asker = (tick + j) % 6)

/-- The header of the next flit of a link (R389). -/
def Link.flitHdr (k : Link) (units : Nat) : Word :=
  place k.txSeq 0 ||| place (k.rxSeq - 1) 12 ||| place (bit k.nak) 24 ||| word (units * 2 ^ 36) |||
    place k.dropReq 41

/-- Units split into flits of at most 29. -/
def flitsOf : Nat → List Word → List (List Word)
  | 0, _ => []
  | n + 1, l => if l.isEmpty then [] else l.take 29 :: flitsOf n (l.drop 29)

/-- MARK_V and MARK_OFF of a flit that carries a tick mark; the time since the boundary is free (R389, R399). DESIGN
CHOICE (log entry 92). -/
def markHdr (w : Word) : Word := place (1 : BitVec 1) 25 ||| place (field w 0 10) 26

/-- Sends one flit: it is numbered and kept until it is acknowledged (R391). -/
def State.emitFlit (s : State) (l : Nat) (mark : Bool) (units : List Word) : State :=
  let k := s.link l
  let h := k.flitHdr units.length
  let s := if mark then (let (w, s) := s.draw; s.send (.flit l (h ||| markHdr w) units)) else s.send (.flit l h units)
  s.modLink l fun k =>
    { k with replay := k.replay ++ [(k.txSeq, units)], txSeq := k.txSeq + 1, nak := false }

/-- Unplanned flits that a link direction may carry in one tick (R396). -/
def State.unplAllowance (s : State) : Nat := 9 * workCycles s.tick.len.toNat / 64

/-- Sends an item on an open link, or queues it: behind queued items of its requester, when the replay buffer is
full, or when it exceeds the unplanned allowance (R391, R396). -/
def State.emitItem (s : State) (l : Nat) (i : Item) : State :=
  let k := s.link l
  let fs := flitsOf i.length i
  if k.txq.any (fun j => decide (j.asker = i.asker)) ∨ 1024 < k.replay.length + fs.length ∨
      (i.unplanned ∧ s.unplAllowance < k.unplSent + fs.length) then
    s.modLink l fun k => { k with txq := k.txq ++ [i] }
  else
    let s := fs.foldl (fun s f => s.emitFlit l (decide (i.kind = 7)) f) s
    s.modLink l fun k =>
      if i.unplanned then
        { k with unplSent := k.unplSent + fs.length, unplFlits := k.unplFlits + fs.length }
      else { k with plannedFlits := k.plannedFlits + fs.length }

/-- The queued items of a link are offered again, in the priority order of the tick (R71). -/
def State.flushTx (s : State) (l : Nat) : State :=
  let q := (s.link l).txq
  if (s.link l).txOpen && !s.linkStopping l then
    (arbitrate s.tick.no.toNat q).foldl (fun s i => s.emitItem l i) (s.modLink l fun k => { k with txq := [] })
  else s

/-- The error response to an item (R392, R393). -/
def errorItem (i : Item) (code : Nat) : Item :=
  [itemHdr 6 i.dst i.src i.tag i.part i.planned 0 false false,
   word code ||| ((i.unit 1) &&& 0x0FFFFFFFFFFFFFF0#64)]

/-- Whether an item is a request that awaits an answer. -/
def Item.isRequest (i : Item) : Bool := decide (i.kind ≤ 2)

/-- Puts an item on a link; an item that cannot go is answered NO-ROUTE to its source when that is another
chip, and otherwise its own requester learns it (R387, R393). `fuel` bounds the one bounce. -/
def State.sendOn (s : State) (l : Nat) (i : Item) : Nat → State
  | 0 => s
  | n + 1 =>
    let k := s.link l
    if k.txOpen && s.linkStopping l then s.modLink l fun k => { k with txq := k.txq ++ [i] }
    else if k.txOpen then s.emitItem l i
    else if k.holding then s.modLink l fun k => { k with txq := k.txq ++ [i] }
    else if i.isRequest ∧ i.src ≠ s.ownChip then
      let e := errorItem i 3
      match s.route e.dst with
      | some m => s.sendOn m e n
      | none => s
    else s

/-- Sends an item toward its destination (R393). -/
def State.sendItem (s : State) (i : Item) : State :=
  match s.route i.dst with
  | some l => s.sendOn l i 2
  | none =>
    if i.isRequest ∧ i.src ≠ s.ownChip then
      let e := errorItem i 3
      match s.route e.dst with
      | some m => s.sendOn m e 2
      | none => s
    else s

/-- A request of this module to another chip: it takes the next TAG and stays open until answered. -/
def State.sendRequest (s : State) (who : Requester) (kind : Nat) (pa : Nat) (part : BitVec 6) (planned : Bool)
    (op : BitVec 4) (ret w : Bool) (more : List Word) : State :=
  let t := s.chain.nextTag
  let i : Item :=
    itemHdr kind s.ownChip (BitVec.ofNat 12 (chipOf pa)) t part planned op ret w :: word pa :: more
  let s := { s with chain := { s.chain with nextTag := t + 1, open_ := s.chain.open_ ++ [(t.toNat, who)] } }
  s.sendItem i

/-- The units of a masked write beyond the address (R392). -/
def maskWords (data : List Byte) (mask : List Bool) : List Word :=
  word ((upto 64).foldl (fun n i => if mask.getD i false then n + 2 ^ i else n) 0) ::
    (upto 8).map fun w => word (leAt data (8 * w) 8)

/-- Whether a request of a requester to another chip is unanswered. -/
def State.asked (s : State) (who : Requester) : Bool := s.chain.open_.any fun x => decide (x.2 = who)

/-- One unanswered request of a requester is answered by the originating module itself (R393). -/
def State.unask (s : State) (who : Requester) : State :=
  match s.chain.open_.find? fun x => decide (x.2 = who) with
  | some x => { s with chain := { s.chain with open_ := s.chain.open_.erase x } }
  | none => s

/-- Answers to a requester's open requests are no longer awaited, and tokens drawn for it lapse. -/
def State.forget (s : State) (who : Requester) : State :=
  { s with
    chain := { s.chain with open_ := s.chain.open_.filter fun x => decide (x.2 ≠ who) }
    paid := s.paid.filter fun x => decide (x.1 ≠ who) }

end Sys2Proof.Machine
end

