-- ==== Sys2Proof/Machine/Cache.lean ====
section
/-!
DEFINITION. The I- and D-cache, the merging buffer, scalar loads, stores and atomics, and cache
maintenance (spec/04, R98 to R101).
-/

namespace Sys2Proof.Machine

/-! ### Caches (R120 to R122) -/

/-- One step of a replacement LFSR (R122). -/
def lfsrStep (x : BitVec 16) : BitVec 16 :=
  (x <<< 1) ||| (bit (x.getLsbD 15 ^^ x.getLsbD 13 ^^ x.getLsbD 12 ^^ x.getLsbD 10)).setWidth 16

/-- D-cache set of an address. -/
def dSet (pa : Nat) : Nat := pa / 64 % 32
/-- D-cache tag of an address: PA[55:11]. -/
def dTag (pa : Nat) : Nat := pa / 2048
/-- I-cache set of an address. -/
def iSet (pa : Nat) : Nat := pa / 64 % 64
/-- I-cache tag of an address: PA[55:12]. -/
def iTag (pa : Nat) : Nat := pa / 4096

/-- The way of a set that holds a tag. -/
def findWay (t : Tab (Option Line)) (set tag : Nat) : Option Nat :=
  (upto 4).find? fun w => (Tab.get none t (set * 4 + w)).any fun l => decide (l.tag = tag)

/-- The slot (set × 4 + way) that a fill of a set takes: the lowest invalid way, else the LFSR's (R122). -/
def victim (t : Tab (Option Line)) (set : Nat) (lfsr : BitVec 16) : Nat :=
  set * 4 + ((upto 4).find? fun w => (Tab.get none t (set * 4 + w)).isNone).getD (lfsr.toNat % 4)

/-- The D-cache line of an address, with its slot. -/
def Carrel.dLine (k : Carrel) (pa : Nat) : Option (Nat × Line) :=
  (findWay k.dcache (dSet pa) (dTag pa)).bind fun w =>
    (Tab.get none k.dcache (dSet pa * 4 + w)).map fun l => (dSet pa * 4 + w, l)

/-- The D-cache without the line that holds an address. -/
def Carrel.dInvalidate (k : Carrel) (pa : Nat) : Carrel :=
  match k.dLine pa with
  | some (i, _) => { k with dcache := Tab.set none k.dcache i none }
  | none => k

/-- A hitting store updates the line; a miss allocates none (R127). -/
def Carrel.dUpdate (k : Carrel) (pa : Nat) (bytes : List Byte) : Carrel :=
  match k.dLine pa with
  | some (i, l) => { k with dcache := Tab.set none k.dcache i (some { l with data := patch l.data (pa % 64) bytes }) }
  | none => k

/-- Fills a D-cache line and advances the LFSR (R122). -/
def Carrel.dFill (k : Carrel) (pa : Nat) (data : List Byte) : Carrel :=
  { k with
    dcache := Tab.set none k.dcache (victim k.dcache (dSet pa) k.dcseed) (some { tag := dTag pa, data := data })
    dcseed := lfsrStep k.dcseed }

/-- Fills an I-cache line and advances the LFSR (R122). -/
def Carrel.iFill (k : Carrel) (pa : Nat) (data : List Byte) : Carrel :=
  { k with
    icache := Tab.set none k.icache (victim k.icache (iSet pa) k.icseed) (some { tag := iTag pa, data := data })
    icseed := lfsrStep k.icseed }

/-! ### Merging buffer (R128 to R130) -/

/-- Whether an entry holds any of `n` bytes from `pa` (same block). -/
def MergeEntry.overlaps (e : MergeEntry) (pa n : Nat) : Bool :=
  decide (e.block = pa / 64) && (upto n).any fun i => (Tab.get none e.bytes (pa % 64 + i)).isSome

/-- Whether an entry holds all of `n` bytes from `pa`. -/
def MergeEntry.covers (e : MergeEntry) (pa n : Nat) : Bool :=
  decide (e.block = pa / 64) && (upto n).all fun i => (Tab.get none e.bytes (pa % 64 + i)).isSome

/-- The bytes an entry holds at `n` addresses from `pa`, `old` where it holds none. -/
def MergeEntry.over (e : MergeEntry) (old : List Byte) (off : Nat) : List Byte :=
  old.mapIdx fun i b => (Tab.get none e.bytes (off + i)).getD b

/-- Bytes written into an entry. -/
def MergeEntry.write (e : MergeEntry) (off : Nat) (bytes : List Byte) : MergeEntry :=
  { e with bytes := Tab.setAll none e.bytes (bytes.mapIdx fun i b => (off + i, some b)) }

/-- Whether all 64 bytes are valid. -/
def MergeEntry.full (e : MergeEntry) : Bool := decide (e.bytes.length = 64)

/-- Marks the first `n` entries (oldest first) as issued: writes issue in allocation order (R129). -/
def issueFirst (n : Nat) (mb : List MergeEntry) : List MergeEntry :=
  (mb.take n).map (fun e => { e with issued := true }) ++ mb.drop n

/-- Issues every entry up to the youngest that meets a condition (R129). -/
def issueUpTo (p : MergeEntry → Bool) (mb : List MergeEntry) : List MergeEntry :=
  issueFirst (mb.length - (mb.reverse.takeWhile fun e => !p e).length) mb

/-- The standing issue rules of R129: full entries and non-merging entries with all before them; and the oldest
unissued entry for as long as six or more entries are in use, which issues them all. DEDUCED (log entry 67). -/
def issueRules (mb : List MergeEntry) : List MergeEntry :=
  if 6 ≤ mb.length then issueFirst mb.length mb else issueUpTo (fun e => e.full || !e.mergeable) mb

/-- The byte enables and the eight data words of an entry's write (R392). -/
def MergeEntry.linkWords (e : MergeEntry) : List Word :=
  let en := (upto 64).foldl (fun n i => if (Tab.get none e.bytes i).isSome then n + 2 ^ i else n) 0
  word en :: (upto 8).map fun w => word (bytesToNat ((upto 8).map fun i => (Tab.get none e.bytes (8 * w + i)).getD 0))

/-- The entries that an issue step newly issues. -/
def newlyIssued (old new : List MergeEntry) : List MergeEntry :=
  ((upto new.length).filterMap fun i =>
    (new[i]?).bind fun e => if e.issued && !((old[i]?).any (·.issued)) then some e else none)

/-- The buffer after an issue step; the newly issued writes to other chips leave as link items (R129, R392). -/
def State.issue (s : State) (c : BitVec 12) (f : List MergeEntry → List MergeEntry) : State :=
  let old := (s.carrel c).mb
  let new := f old
  let s := s.modCarrel c fun k => { k with mb := new }
  (newlyIssued old new).foldl (fun s e =>
    if s.isLocal (e.block * 64) then s
    else s.sendRequest (.carrel c) 1 (e.block * 64) e.part true 0 false false e.linkWords) s

/-- A read request of the 64 B block of an address on another chip (R392). -/
def State.sendRead (s : State) (c : BitVec 12) (pa : Nat) (part : BitVec 6) : State :=
  if s.isLocal pa then s else s.sendRequest (.carrel c) 0 (pa / 64 * 64) part true 0 false false []

/-- The operation code of an atomic on the links (R392). -/
def linkOp (op : BitVec 4) (w : Bool) : BitVec 4 :=
  match op.toNat with
  | 0 => if w then 3 else 0
  | 1 => if w then 4 else 1
  | 2 => if w then 5 else 2
  | 3 => 10 | 4 => 11 | 5 => 12 | 6 => 13 | _ => 14

/-- An atomic request to another chip (R392). -/
def State.sendAtomic (s : State) (c : BitVec 12) (op : BitVec 4) (w : Bool) (pa : Nat) (part : BitVec 6)
    (x e : Word) : State :=
  if s.isLocal pa then s
  else s.sendRequest (.carrel c) 2 pa part true (linkOp op w) true w (if op = 7 then [x, e] else [x])

/-- The youngest entry of a block, by its index. -/
def youngest (mb : List MergeEntry) (block : Nat) : Option Nat :=
  (upto mb.length).reverse.find? fun i => (mb[i]?).any fun e => decide (e.block = block)

/-- One half of a store into the buffer; `none` where it finds no free entry (R128). -/
def mbStore (mb : List MergeEntry) (h : StoreHalf) : Option (List MergeEntry) :=
  let fresh : MergeEntry := MergeEntry.write
    { block := h.pa / 64, bytes := [], mergeable := h.mergeable, issued := false, part := h.part
      retried := false, acked := false } (h.pa % 64) h.bytes
  let alloc := if mb.length < 8 then some (mb ++ [fresh]) else none
  match youngest mb (h.pa / 64) with
  | none => alloc
  | some i =>
    match mb[i]? with
    | some e =>
      if e.mergeable && h.mergeable && !e.issued then some (listSet mb i (e.write (h.pa % 64) h.bytes))
      else alloc
    | none => alloc

/-- All halves of a store enter together or not at all (R137). -/
def mbStores (mb : List MergeEntry) : List StoreHalf → Option (List MergeEntry)
  | [] => some mb
  | h :: l => (mbStore mb h).bind fun mb' => mbStores mb' l

/-- Whether a fill of the block is outstanding for the carrel. -/
def Carrel.fillOutstanding (k : Carrel) (block : Nat) : Bool :=
  match k.wait with
  | .load _ _ hs => hs.any fun h => decide (h.stage = .miss) && decide (h.pa / 64 = block)
  | _ => false

/-- Entries acknowledged whose block has no fill outstanding leave the buffer (R130). -/
def Carrel.mbSweep (k : Carrel) : Carrel :=
  { k with mb := k.mb.filter fun e => !e.acked || k.fillOutstanding e.block }

/-! ### Splitting an access at a 64 B boundary (R137) -/

/-- The halves of an access of `n` bytes: (offset within the access, bytes). -/
def halvesOf (va : Word) (n : Nat) : List (Nat × Nat) :=
  let first := 64 - va.toNat % 64
  if n ≤ first then [(0, n)] else [(0, first), (first, n - first)]

/-- What the checks of all halves come to. -/
inductive Accesses where
  | miss (seg : BitVec 4)
  | exc (e : Exc)
  | ok (l : List (Nat × Nat × Word × Nat × BitVec 6))
  deriving DecidableEq, Repr

/-- Translates and checks every half for its segment, its rights and the shelf (R137). -/
def State.segAccesses (s : State) (c : BitVec 12) (stream : BitVec 3) (va : Word) (need : Rights) :
    List (Nat × Nat) → Accesses
  | [] => .ok []
  | (o, n) :: l =>
    let a := va + word o
    match s.access c stream a n need with
    | .miss seg => .miss seg
    | .exc e => .exc e
    | .ok pa part =>
      match s.segAccesses c stream va need l with
      | .ok r => .ok ((o, n, a, pa, part) :: r)
      | x => x

/-- Checks every half before either moves anything (R137, R138): SEG of both before UNMAPPED of either (R144).
An access to a local address that does not exist meets UNMAPPED (R35) when `loads` says that it answers at
once. -/
def State.accesses (s : State) (c : BitVec 12) (stream : BitVec 3) (va : Word) (need : Rights)
    (loads : Bool) (halves : List (Nat × Nat)) : Accesses :=
  match s.segAccesses c stream va need halves with
  | .ok r =>
    match r.find? fun (_, _, _, pa, _) => loads && s.isLocal pa && !s.populated pa with
    | some (_, _, a, _, _) => .exc (unmappedExc a)
    | none => .ok r
  | x => x

/-! ### Loads (R98, R131) -/

/-- Where one half of a load is served from, with the drains it demands (R121, R131). -/
def Carrel.loadStage (k : Carrel) (own : Bool) (mem : List Byte) (pa n : Nat) : LoadStage :=
  if own then .got mem
  else if isHbm pa then
    match k.dLine pa with
    | some (_, l) => .got (slice l.data (pa % 64) n)
    | none =>
      match (youngest k.mb (pa / 64)).bind (fun i => k.mb[i]?) with
      | some e =>
        if e.covers pa n then .got (e.over (List.replicate n 0) (pa % 64))
        else if k.mb.any (·.overlaps pa n) then .drain
        else .miss
      | none => .miss
  else if k.mb.any (·.overlaps pa n) then .drain
  else .mesh false

/-- A half that waited for a drain goes on once no entry holds any of its bytes (R131). -/
def Carrel.loadAdvance (k : Carrel) (h : LoadHalf) : LoadHalf :=
  match h.stage with
  | .drain =>
    if k.mb.any (·.overlaps h.pa h.n) then h
    else { h with stage := if isHbm h.pa then .miss else .mesh false }
  | _ => h

/-- The bytes of a half that has come. -/
def LoadHalf.bytes (h : LoadHalf) : List Byte :=
  match h.stage with
  | .got b => b
  | _ => []

/-- Whether a half has come. -/
def LoadHalf.ready (h : LoadHalf) : Bool := match h.stage with | .got _ => true | _ => false

/-- The value of a load from its bytes (R98). -/
def loadValue (signed : Bool) (b : List Byte) : Word :=
  if signed then sext (8 * b.length) (word (bytesToNat b)) else word (bytesToNat b)

/-- Completes a load whose halves have all come; otherwise leaves it waiting. -/
def State.settleLoad (s : State) (c : BitVec 12) (len : Nat) (signed : Bool) (hs : List LoadHalf) : State :=
  if hs.all (·.ready) then
    let s := s.modCarrel c fun k => { k with wait := .none }
    let (_, s) := s.popD c 1
    (s.pushD c (loadValue signed (hs.flatMap (·.bytes)))).retire c len
  else s.modCarrel c fun k => { k with wait := .load len signed hs }

/-- A translated scalar load of `n` bytes. -/
def loadInstr (c : BitVec 12) (n : Nat) (signed : Bool) (off : BitVec 22) (s : State) : Out :=
  runInstr c 4 (withStacks c { dPop := 1, dPush := 1 } fun s =>
    let va := s.peekD c 0 + off.signExtend 64
    match s.accesses c 1 va 1 true (halvesOf va n) with
    | .miss seg => .hold (s.missWait c 1 seg)
    | .exc e => .exc e
    | .ok l =>
      let k := s.carrel c
      if k.dcInit ∧ l.any (fun (_, _, _, pa, _) => isHbm pa) then .hold s
      else
        let hs := l.map fun (_, m, a, pa, part) =>
          { va := a, pa := pa, n := m, part := part
            stage := k.loadStage (s.ownMem c pa) (s.bytes (localOf pa) m) pa m : LoadHalf }
        -- a partial overlap demands the drain of the entries concerned
        let s := s.issue c (issueUpTo fun e => hs.any fun h => decide (h.stage = .drain) && e.overlaps h.pa h.n)
        let misses := (hs.filter fun h => decide (h.stage = .miss)).length
        let s := s.modCarrel c fun k => { k with count := { k.count with dmiss := k.count.dmiss + word misses } }
        let s := hs.foldl (fun s h =>
          if h.stage = .miss ∨ h.stage = .mesh false then s.sendRead c h.pa h.part else s) s
        -- a half served at once takes the pc past the form only when both are in
        .jump (s.settleLoad c 4 signed hs)) s

def execLd8 (c : BitVec 12) (off : BitVec 22) (s : State) : Out := loadInstr c 1 false off s
def execLd16 (c : BitVec 12) (off : BitVec 22) (s : State) : Out := loadInstr c 2 false off s
def execLd32 (c : BitVec 12) (off : BitVec 22) (s : State) : Out := loadInstr c 4 false off s
def execLd64 (c : BitVec 12) (off : BitVec 22) (s : State) : Out := loadInstr c 8 false off s
def execLd8s (c : BitVec 12) (off : BitVec 22) (s : State) : Out := loadInstr c 1 true off s
def execLd16s (c : BitVec 12) (off : BitVec 22) (s : State) : Out := loadInstr c 2 true off s
def execLd32s (c : BitVec 12) (off : BitVec 22) (s : State) : Out := loadInstr c 4 true off s

/-- The shelf offset of a shelf-local form: a + offset × size, modulo 2^64 (R87, R98). DESIGN CHOICE (log
entry 68). -/
def localOff (a : Word) (off : BitVec 9) (n : Nat) : Word := a + off.setWidth 64 * word n

/-- The case of R99 for a shelf-local access. -/
def Carrel.localCase (k : Carrel) (o : Word) (n : Nat) : Option Nat := k.shelfCase o.toNat n

/-- The faulting offset of a shelf-local access: the first byte of the half that fails (R138). -/
def Carrel.localFault (k : Carrel) (o : Word) (n : Nat) : Option Exc :=
  ((halvesOf o n).findSome? fun (i, m) =>
    (k.localCase (o + word i) m).map fun x => shelfExc 1 x (o + word i))

/-- A shelf-local load (R98, R99). -/
def loadLocal (c : BitVec 12) (n : Nat) (off : BitVec 9) (s : State) : Out :=
  runInstr c 2 (withStacks c { dPop := 1, dPush := 1 } fun s =>
    let o := localOff (s.peekD c 0) off n
    match (s.carrel c).localFault o n with
    | some e => .exc e
    | none =>
      let x := word (s.le (shelfBase c.toNat + o.toNat) n)
      let (_, s) := s.popD c 1
      .done (s.pushD c x)) s

def execLd8L (c : BitVec 12) (off : BitVec 9) (s : State) : Out := loadLocal c 1 off s
def execLd16L (c : BitVec 12) (off : BitVec 9) (s : State) : Out := loadLocal c 2 off s
def execLd32L (c : BitVec 12) (off : BitVec 9) (s : State) : Out := loadLocal c 4 off s
def execLd64L (c : BitVec 12) (off : BitVec 9) (s : State) : Out := loadLocal c 8 off s

/-! ### Stores (R98, R127, R128) -/

/-- A shelf-local store (R98, R99). -/
def storeLocal (c : BitVec 12) (n : Nat) (off : BitVec 9) (s : State) : Out :=
  runInstr c 2 (withStacks c { dPop := 2 } fun s =>
    let o := localOff (s.peekD c 0) off n
    match (s.carrel c).localFault o n with
    | some e => .exc e
    | none =>
      let (l, s) := s.popD c 2
      .done (s.setLe (shelfBase c.toNat + o.toNat) n (entN l 1))) s

def execSt8L (c : BitVec 12) (off : BitVec 9) (s : State) : Out := storeLocal c 1 off s
def execSt16L (c : BitVec 12) (off : BitVec 9) (s : State) : Out := storeLocal c 2 off s
def execSt32L (c : BitVec 12) (off : BitVec 9) (s : State) : Out := storeLocal c 4 off s
def execSt64L (c : BitVec 12) (off : BitVec 9) (s : State) : Out := storeLocal c 8 off s

/-- Whether a store's half merges: device registers take a non-merging entry (R127). -/
def mergeableAt (pa : Nat) : Bool :=
  match regionOf (localOf pa) with
  | .regs _ _ => false
  | _ => true

/-- Completes a store: its operands leave, the halves of the carrel's own shelf and ledger are written, lines that
it hits are updated and the other halves enter the buffer; with no free entry it stalls in the write stage and
nothing of it has happened (R91, R127, R128, R137). -/
def State.settleStore (s : State) (c : BitVec 12) (len : Nat) (hs : List StoreHalf) : State :=
  let k := s.carrel c
  let mine := hs.filter fun h => s.ownMem c h.pa
  let rest := hs.filter fun h => !s.ownMem c h.pa
  match mbStores k.mb rest with
  | some mb =>
    let s := ((s.setCarrel c { k with wait := .none }).popD c 2).2
    let s := mine.foldl (fun s h => s.setBytes (localOf h.pa) h.bytes) s
    let s := s.modCarrel c fun k => rest.foldl (fun k h => if isHbm h.pa then k.dUpdate h.pa h.bytes else k) k
    (s.issue c fun _ => issueRules mb).retire c len
  | none => s.setCarrel c { k with wait := .store len hs }

/-- A translated scalar store of `n` bytes (R98, R127). -/
def storeInstr (c : BitVec 12) (n : Nat) (off : BitVec 22) (s : State) : Out :=
  runInstr c 4 (withStacks c { dPop := 2 } fun s =>
    let va := s.peekD c 0 + off.signExtend 64
    match s.accesses c 1 va 2 false (halvesOf va n) with
    | .miss seg => .hold (s.missWait c 1 seg)
    | .exc e => .exc e
    | .ok l =>
      if (s.carrel c).dcInit ∧ l.any (fun (_, _, _, pa, _) => isHbm pa) then .hold s
      else
        let bytes := natToBytes n (s.peekD c 1).toNat
        .jump (s.settleStore c 4 (l.map fun (o, m, _, pa, part) =>
          { pa := pa, bytes := slice bytes o m, mergeable := mergeableAt pa, part := part }))) s

def execSt8 (c : BitVec 12) (off : BitVec 22) (s : State) : Out := storeInstr c 1 off s
def execSt16 (c : BitVec 12) (off : BitVec 22) (s : State) : Out := storeInstr c 2 off s
def execSt32 (c : BitVec 12) (off : BitVec 22) (s : State) : Out := storeInstr c 4 off s
def execSt64 (c : BitVec 12) (off : BitVec 22) (s : State) : Out := storeInstr c 8 off s

/-! ### Atomics (R100, R101) -/

/-- The new value of an atomic on `n`-byte operands (R100). -/
def atomicNew (op : BitVec 4) (n : Nat) (old x e : Nat) : Nat :=
  let w := 8 * n
  match op.toNat with
  | 0 => (old + x) % 2 ^ w
  | 1 => if sInt w x < sInt w old then x else old
  | 2 => if sInt w old < sInt w x then x else old
  | 3 => old &&& x
  | 4 => old ||| x
  | 5 => old ^^^ x
  | 6 => x
  | _ => if old = e then x else old

/-- Whether the target of an atomic on this module answers unmapped: ledger, margin, registers and what is not
populated (R35, R101, R340). -/
def State.atomicUnmapped (s : State) (pa : Nat) : Bool :=
  match regionOf (localOf pa) with
  | .hbm => decide (s.hbmEnd ≤ localOf pa)
  | .shelf _ _ => false
  | _ => true

/-- Performs an atomic on local memory: the old value and the state (R100). -/
def State.atomicAt (s : State) (op : BitVec 4) (n pa : Nat) (x e : Word) : Word × State :=
  let old := s.le (localOf pa) n
  (word old, s.setLe (localOf pa) n (atomicNew op n old (x.toNat % 2 ^ (8 * n)) (e.toNat % 2 ^ (8 * n))))

/-- Completes an atomic that the carrel waits for: operands leave, the old value comes. -/
def State.finishAtomic (s : State) (c : BitVec 12) (len : Nat) (op : BitVec 4) (old : Word) : State :=
  let s := s.modCarrel c fun k => { k with wait := .none }
  let (_, s) := s.popD c (if op = 7 then 3 else 2)
  (s.pushD c old).retire c len

/-- An atomic instruction. It invalidates the D-cache line and drains overlapping entries first. -/
def atomicInstr (c : BitVec 12) (op : BitVec 4) (w : Bool) (off : BitVec 20) (s : State) : Out :=
  let n := if w then 8 else 4
  let pops := if op = 7 then 3 else 2
  runInstr c 4 (withStacks c { dPop := pops, dPush := 1 } fun s =>
    let va := s.peekD c 0 + off.signExtend 64
    if va.toNat % n ≠ 0 then .exc { code := 0x05, detail := word (b2n w), faddr := some va }
    else match s.access c 1 va n 11 with
      | .miss seg => .hold (s.missWait c 1 seg)
      | .exc e => .exc e
      | .ok pa part =>
        if s.isLocal pa && s.atomicUnmapped pa then .exc (unmappedExc va)
        else if (s.carrel c).dcInit ∧ isHbm pa then .hold s
        else
          let x := s.peekD c 1
          let e := if op = 7 then s.peekD c 2 else 0
          let s := (s.modCarrel c fun k => k.dInvalidate pa).issue c (issueUpTo (·.overlaps pa n))
          if s.ownMem c pa then
            let (old, s) := s.atomicAt op n pa x e
            .jump (s.finishAtomic c 4 op old)
          else
            let drained := !(s.carrel c).mb.any (·.overlaps pa n)
            let s := if drained then s.sendAtomic c op w pa part x e else s
            .hold (s.modCarrel c fun k => { k with wait := .atomic 4 op w va pa part x e drained false })) s

def execAadd (c : BitVec 12) (w : Bool) (off : BitVec 20) (s : State) : Out := atomicInstr c 0 w off s
def execAmin (c : BitVec 12) (w : Bool) (off : BitVec 20) (s : State) : Out := atomicInstr c 1 w off s
def execAmax (c : BitVec 12) (w : Bool) (off : BitVec 20) (s : State) : Out := atomicInstr c 2 w off s
def execAand (c : BitVec 12) (w : Bool) (off : BitVec 20) (s : State) : Out := atomicInstr c 3 w off s
def execAor (c : BitVec 12) (w : Bool) (off : BitVec 20) (s : State) : Out := atomicInstr c 4 w off s
def execAxor (c : BitVec 12) (w : Bool) (off : BitVec 20) (s : State) : Out := atomicInstr c 5 w off s
def execAswap (c : BitVec 12) (w : Bool) (off : BitVec 20) (s : State) : Out := atomicInstr c 6 w off s
def execAcas (c : BitVec 12) (w : Bool) (off : BitVec 20) (s : State) : Out := atomicInstr c 7 w off s

/-! ### Maintenance and ordering (R118, R132, R133) -/

/-- Invalidates the I-cache (R118). -/
def Carrel.icInvalidate (k : Carrel) : Carrel := { k with icache := [] }

/-- Issues every write of the buffer. -/
def State.drainAll (s : State) (c : BitVec 12) : State := s.issue c fun mb => issueFirst mb.length mb

/-- FENCE: complete at once with an empty buffer; otherwise every entry drains first (R133). -/
def execFence (c : BitVec 12) (s : State) : Out :=
  runInstr c 4 (fun s =>
    if (s.carrel c).mb.isEmpty then .done s
    else .hold ((s.drainAll c).modCarrel c fun k => { k with wait := .fence 4 })) s

/-- FLUSHI (R118). -/
def execFlushi (c : BitVec 12) (s : State) : Out :=
  runInstr c 4 (fun s =>
    if (s.carrel c).mb.isEmpty then .done (s.modCarrel c Carrel.icInvalidate)
    else .hold ((s.drainAll c).modCarrel c fun k => { k with wait := .flushi 4 })) s

/-- Runs a form that only S and M may issue (R108). -/
def privileged (c : BitVec 12) (body : State → Res) (s : State) : Res :=
  if (s.carrel c).level = 0 then .exc { code := 0x02, detail := 0 } else body s

def execIcinv (c : BitVec 12) (s : State) : Out :=
  runInstr c 4 (privileged c fun s => .done (s.modCarrel c Carrel.icInvalidate)) s

/-- Removes the line in a D-cache slot, if a slot is named. -/
def Carrel.dropSlot (k : Carrel) : Option Nat → Carrel
  | none => k
  | some i => { k with dcache := Tab.set none k.dcache i none }

/-- Drains the entries of a block, then invalidates a slot; completes when the writes are acknowledged, and its
`pops` operands leave then (R91). -/
def State.cleanBlock (s : State) (c : BitVec 12) (pops block : Nat) (inv : Option Nat) : Res :=
  if (s.carrel c).mb.any (fun e => decide (e.block = block)) then
    .hold ((s.issue c (issueUpTo fun e => decide (e.block = block))).modCarrel c fun k =>
      { k with wait := .clean 4 pops block inv })
  else .done ((s.popD c pops).2.modCarrel c fun k => k.dropSlot inv)

/-- A by-address maintenance form: translates a through stream 3 with the R right (R108, R132, R372). Its
operand is still on the stack when `f` runs. -/
def byAddress (c : BitVec 12) (f : State → Nat → Res) (s : State) : Out :=
  runInstr c 4 (withStacks c { dPop := 1 } fun s =>
    let va := s.peekD c 0
    match s.access c 3 va 1 1 with
    | .miss seg => .hold (s.missWait c 3 seg)
    | .exc e => .exc e
    | .ok pa _ => f s pa) s

/-- The slot of the D-cache line that holds an address; none for a region the D-cache never holds. -/
def State.lineSlot (s : State) (c : BitVec 12) (pa : Nat) : Option Nat :=
  if isHbm pa then ((s.carrel c).dLine pa).map (·.1) else none

def execDclean (c : BitVec 12) (s : State) : Out :=
  byAddress c (fun s pa => s.cleanBlock c 1 (pa / 64) none) s
def execDinv (c : BitVec 12) (s : State) : Out :=
  byAddress c (fun s pa => .done ((s.popD c 1).2.modCarrel c fun k => k.dropSlot (s.lineSlot c pa))) s
def execDclinv (c : BitVec 12) (s : State) : Out :=
  byAddress c (fun s pa => s.cleanBlock c 1 (pa / 64) (s.lineSlot c pa)) s

/-- A set-and-way form: way on top, set below; higher bits are ignored (R132). Its operands are still on the stack
when `f` runs. -/
def bySetWay (c : BitVec 12) (f : State → Nat → Res) (s : State) : Out :=
  runInstr c 4 (privileged c (withStacks c { dPop := 2 } fun s =>
    f s ((s.peekD c 1).toNat % 32 * 4 + (s.peekD c 0).toNat % 4))) s

/-- The block that a D-cache slot holds. -/
def State.slotBlock (s : State) (c : BitVec 12) (slot : Nat) : Option Nat :=
  (Tab.get none (s.carrel c).dcache slot).map fun l => l.tag * 32 + slot / 4

/-- Cleans by set and way; an invalid line cleans nothing (R132). -/
def State.cleanSlot (s : State) (c : BitVec 12) (slot : Nat) (inv : Bool) : Res :=
  match s.slotBlock c slot with
  | some b => s.cleanBlock c 2 b (if inv then some slot else none)
  | none => .done (s.popD c 2).2

def execDcleansw (c : BitVec 12) (s : State) : Out := bySetWay c (fun s i => s.cleanSlot c i false) s
def execDinvsw (c : BitVec 12) (s : State) : Out :=
  bySetWay c (fun s i => .done ((s.popD c 2).2.modCarrel c fun k => k.dropSlot (some i))) s
def execDclinvsw (c : BitVec 12) (s : State) : Out := bySetWay c (fun s i => s.cleanSlot c i true) s

/-- The entry allocated 16 cycles ago issues its write: the oldest not yet issued (R129). -/
def execMergeEntryTimeout (c : BitVec 12) (s : State) : Out :=
  .next (s.issue c fun mb => issueFirst ((mb.takeWhile (·.issued)).length + 1) mb)

/-- The reset invalidation of a cache completes (R125). -/
def execCacheInitDone (c : BitVec 12) (dcache : Bool) (s : State) : Out :=
  .next (s.modCarrel c fun k => if dcache then { k with dcInit := false } else { k with icInit := false })

end Sys2Proof.Machine
end

