-- ==== Sys2Proof/Machine/Hbm.lean ====
section
/-!
DEFINITION. Stacked memory (spec/13): address decode, regulators, the code, refresh, and the memory-side
adder.
-/

namespace Sys2Proof.Machine

/-- Stack `i`. -/
def State.stack (s : State) (i : Nat) : Stack := Tab.get Stack.reset s.hbm i

/-- Stack `i` changed. -/
def State.modStack (s : State) (i : Nat) (f : Stack → Stack) : State :=
  { s with hbm := Tab.set Stack.reset s.hbm i (f (s.stack i)) }

/-- The stack of a local HBM address in full mode (R338). -/
def stackFull (a : Nat) : Nat := (a / 256 % 8) ^^^ (a / 65536 % 8) ^^^ (a / 16777216 % 8)

/-- The stacks in use in half mode, in order (R340): the edge without an excluded stack. -/
def State.halfStacks (s : State) : List Nat :=
  if [2, 3, 6, 7].any (fun i => (s.stack i).excluded) then [0, 1, 4, 5] else [2, 3, 6, 7]

/-- The stack of a local HBM address (R338, R340). -/
def State.stackOf (s : State) (a : Nat) : Nat :=
  if s.halfMode then
    s.halfStacks.getD ((a / 256 % 4) ^^^ (a / 65536 % 4) ^^^ (a / 16777216 % 4)) 0
  else stackFull a

/-- The stack offset of a local HBM address (R338, R340). -/
def State.stackOffset (s : State) (a : Nat) : Nat :=
  if s.halfMode then a / 256 / 4 * 256 + a % 256 else a / 256 / 8 * 256 + a % 256

/-- Where an address lies in its stack (R339): channel, pseudo-channel, bank, row, granule of the row, byte of the
granule. -/
structure HbmPlace where
  stack : Nat
  channel : Nat
  pch : Nat
  bank : Nat
  row : Nat
  granule : Nat
  byte : Nat
  deriving DecidableEq, Repr

/-- The fields of a stack offset (R339). -/
def decodeSo (stack so : Nat) : HbmPlace :=
  let row := so / 2 ^ 21
  let pch := (so / 2 ^ 10 % 64) ^^^ (row % 64)
  { stack := stack, channel := pch / 2, pch := pch, bank := (so / 2 ^ 16 % 32) ^^^ (row / 64 % 32), row := row
    granule := so / 2 ^ 8 % 4, byte := so % 2 ^ 8 }

/-- Where a local HBM address lies (R338 to R340). -/
def State.hbmPlaceOf (s : State) (a : Nat) : HbmPlace := decodeSo (s.stackOf a) (s.stackOffset a)

/-- Tokens that a request draws (R347). -/
def HbmReq.tokens (r : HbmReq) : Nat :=
  match r.acc.cls with
  | .free => 0
  | _ => match r.work with
    | .oper .. => 2
    | _ => 1

/-- A refill: floor(rate × W / 1,024) (R347). -/
def refillOf (rate w : Nat) : Nat := rate * w / 1024

/-- The rate register of a partition: PLAN. -/
def ratePlan (r : BitVec 35) : Nat := fieldN r 0 16
/-- The rate register of a partition: UNPL. -/
def rateUnpl (r : BitVec 35) : Nat := fieldN r 16 16
/-- The rate register of a partition: DEPTH, with 0 acting as 1. -/
def rateDepth (r : BitVec 35) : Nat := max 1 (fieldN r 32 3)

/-- The rate in force of a partition. -/
def Stack.rateOf (k : Stack) (p : Nat) : BitVec 35 := Tab.get rateReset k.rate p

/-- The sum of PLAN + UNPL over all partitions (R348, R360). -/
def Stack.sum (k : Stack) : Nat :=
  (upto 64).foldl (fun n p => n + ratePlan (k.rateOf p) + rateUnpl (k.rateOf p)) 0

/-! ### The memory-side adder (R354 to R356) -/

/-- The width in bytes of an operation (R354, R392). -/
def operWidth (op : BitVec 4) (w : Bool) : Nat :=
  match op.toNat with
  | 0 | 1 | 2 | 6 | 9 => 4
  | 3 | 4 | 5 | 7 | 8 => 8
  | _ => if w then 8 else 4

/-- What one add of the adder produced: NaNs, overflows, FX64 saturations (R356). -/
structure AddStat where
  nan : Nat := 0
  ovf : Nat := 0
  sat : Bool := false
  deriving DecidableEq, Repr

/-- One floating add of the adder, to nearest even (R354, R356): the code, and whether a NaN was produced, not
propagated (R207), or a finite sum overflowed. -/
def adderFp (f : Fmt) (x y : Nat) : Nat × AddStat :=
  let a := f.decode x
  let b := f.decode y
  let r := f.rne (a.add b).toVal
  (r, { nan := b2n ((f.decode r).isNan && !a.isNan && !b.isNan)
        ovf := b2n (a.isFin && b.isFin && !(f.decode r).isFin && !(f.decode r).isNan) })

/-- The value an operation writes (R354). -/
def operNew (op : BitVec 4) (w : Bool) (old x cmp : Nat) : Nat × AddStat :=
  let n := operWidth op w
  let m := 2 ^ (8 * n)
  let x := x % m
  let cmp := cmp % m
  match op.toNat with
  | 0 => (atomicNew 0 4 old x 0, {})
  | 1 => (atomicNew 1 4 old x 0, {})
  | 2 => (atomicNew 2 4 old x 0, {})
  | 3 => (atomicNew 0 8 old x 0, {})
  | 4 => (atomicNew 1 8 old x 0, {})
  | 5 => (atomicNew 2 8 old x 0, {})
  | 6 => adderFp .f32 old x
  | 7 => adderFp .f64 old x
  | 8 => let (r, sat) := fxAdd old x; (r, { sat := sat })
  | 9 =>
    let lo := adderFp .bf16 (old % 65536) (x % 65536)
    let hi := adderFp .bf16 (old / 65536) (x / 65536)
    (lo.1 + 65536 * hi.1, { nan := lo.2.nan + hi.2.nan, ovf := lo.2.ovf + hi.2.ovf })
  | 10 => (old &&& x, {})
  | 11 => (old ||| x, {})
  | 12 => (old ^^^ x, {})
  | 13 => (x, {})
  | 14 => (if old = cmp then x else old, {})
  | _ => (old, {})

/-- A record of a stack (R342, R356). -/
def State.stackReport (s : State) (i code a : Nat) : Report :=
  { blankReport with
    code := BitVec.ofNat 16 code, unit := 2, unitno := BitVec.ofNat 16 i, wtn := s.tick.wtn
    addr := word (s.ownChip.toNat * 2 ^ 44 + a) }

/-- An FX64 add at `a` saturated: counted and recorded (R356). -/
def State.fxSatAt (s : State) (a : Nat) : State :=
  let i := s.stackOf a
  let s := s.modStack i fun k => { k with fxSat := satInc k.fxSat }
  s.report { s.stackReport i 0x38 a with d0 := word i }

/-- One memory-side operation at a naturally aligned local HBM address: the old value and the state
(R354 to R357). -/
def State.hbmOper (s : State) (a : Nat) (op : BitVec 4) (w : Bool) (x cmp : Word) : Word × State :=
  let n := operWidth op w
  let old := s.le a n
  let (new, st) := operNew op w old x.toNat cmp.toNat
  let s := s.setLe a n new
  let s := s.modStack (s.stackOf a) fun k =>
    { k with nanProd := satAdd k.nanProd st.nan, ovf := satAdd k.ovf st.ovf }
  (word old, if st.sat then s.fxSatAt a else s)

/-! ### Requests at a stack (R341 to R347) -/

/-- A corrected error of a stack: counted, with one CORR-RATE record in a census period (R341, R448). -/
def State.stackCorr (s : State) (i n : Nat) : State :=
  let k := s.stack i
  let s := s.modStack i fun k => { k with corr := satAdd k.corr n, corrPeriod := k.corrPeriod + n }
  if k.corrPeriod ≤ s.census.corrLimit.toNat ∧ s.census.corrLimit.toNat < k.corrPeriod + n then
    s.report { s.stackReport i 4 0 with addr := BitVec.allOnes 64, d0 := word (k.corrPeriod + n) }
  else s

/-- An uncorrectable burst: counted, and read once more (R342, R450). -/
def State.stackUncorr (s : State) (i : Nat) (acc : HbmAccess) : State :=
  s.modStack i fun k => { k with uncorr := satInc k.uncorr, reread := k.reread ++ [acc] }

/-- Whether byte `i` of a masked write is enabled. -/
def maskAt (mask : List Bool) (i : Nat) : Bool := mask.getD i false

/-- Whether a masked write covers word `w` of the burst in part only. -/
def partWord (mask : List Bool) (w : Nat) : Bool :=
  (upto 8).any (fun i => maskAt mask (8 * w + i)) && !(upto 8).all (fun i => maskAt mask (8 * w + i))

/-- Masked bytes written from `a` (R343). -/
def State.maskedStore (s : State) (a : Nat) : Nat → List Byte → List Bool → State
  | _, [], _ => s
  | o, b :: l, m => (if m.headD false then s.store (a + o) [b] else s).maskedStore a (o + 1) l (m.drop 1)

/-- A masked write of a burst at a 64 B-aligned local address, whole words becoming readable (R343, R450). -/
def State.burstWrite (s : State) (a : Nat) (data : List Byte) (mask : List Bool) : State :=
  let s := s.maskedStore a 0 data mask
  (upto 8).foldl (fun s w =>
    if (upto 8).all (fun i => maskAt mask (8 * w + i)) then s.clearLost (a + 8 * w) 8 else s) s

/-- A masked write of a 64 B block of memory; none where it leaves part of a lost word unwritten and is abandoned
(R342, R343). -/
def State.blockWrite (s : State) (a : Nat) (data : List Byte) (mask : List Bool) : Option State :=
  if (upto 8).any fun w => partWord mask w && s.lostIn (a + 8 * w) 8 then none else some (s.burstWrite a data mask)

/-- A request is performed (R341 to R343, R354, R357). -/
def State.perform (s : State) (r : HbmReq) : State :=
  let a := r.acc.addr.toNat
  let blk := a / 64 * 64
  let i := s.stackOf a
  let s := match r.acc.ecc with
    | .corrected n => s.stackCorr i n.toNat
    | _ => s
  match r.work with
  | .read =>
    if r.acc.ecc = .uncorrectable ∨ s.lostIn blk 64 then s.stackUncorr i r.acc else s
  | .write data mask =>
    let part := (upto 8).any fun w => partWord mask w &&
      (decide (r.acc.ecc = .uncorrectable) || s.lostIn (blk + 8 * w) 8)
    if part then s.stackUncorr i r.acc else s.burstWrite blk data mask
  | .oper op w data cmp =>
    if r.acc.ecc = .uncorrectable ∨ s.lostIn a (operWidth op w) then s.stackUncorr i r.acc
    else (s.hbmOper a op w data cmp).2

/-- Whether two requests share a bucket. -/
def sameBucket (x y : HbmReq) : Bool :=
  decide (x.acc.part = y.acc.part) && decide (x.acc.cls = y.acc.cls)

/-- Tokens in the bucket of a class and partition. -/
def Stack.bucket (k : Stack) (cls : HbmClass) (p : Nat) : Nat :=
  match cls with
  | .planned => Tab.get 0 k.planBkt p
  | .unplanned => Tab.get 0 k.unplBkt p
  | .free => 0

/-- `n` tokens drawn from a bucket. -/
def Stack.drawTokens (k : Stack) (cls : HbmClass) (p n : Nat) : Stack :=
  match cls with
  | .planned =>
    { k with planBkt := Tab.set 0 k.planBkt p (Tab.get 0 k.planBkt p - n)
             planNow := Tab.set 0 k.planNow p (Tab.get 0 k.planNow p + n) }
  | .unplanned => { k with unplBkt := Tab.set 0 k.unplBkt p (Tab.get 0 k.unplBkt p - n) }
  | .free => k

/-- A planned request waits for tokens: PLAN_EXH (R347). -/
def Stack.exhaust (k : Stack) (cls : HbmClass) (p : Nat) : Stack :=
  if cls = .planned then { k with planExh := Tab.set false k.planExh p true } else k

/-- A request waits at the controller (R347). -/
def Stack.hold (k : Stack) (r : HbmReq) : Stack :=
  ({ k with waiting := k.waiting ++ [r] } : Stack).exhaust r.acc.cls r.acc.part.toNat

/-! ### Tokens of units that reach a stack themselves (R346, R347, R353)

A unit whose accesses a row performs whole, a fill, a descriptor, a transfer, an item of a link, draws their tokens
here, and its row changes nothing else until they are drawn. DEDUCED (log entry 80). -/

/-- A stack and a partition as a key. -/
def stackKey (stack : Nat) (part : BitVec 6) : Nat := stack * 64 + part.toNat

/-- The tokens of accesses by (stack, partition): those of local HBM, `w` for each of a list of local addresses. -/
def State.tokensFor (s : State) (w : Nat) (l : List (Nat × BitVec 6)) : Tab Nat :=
  (l.filter fun x => decide (x.1 < s.hbmEnd)).foldl (fun t x =>
    let k := stackKey (s.stackOf x.1) x.2
    Tab.set 0 t k (Tab.get 0 t k + w)) []

/-- What a stack gives of `n` tokens, in requests of `w`, and the state: nothing in self-refresh, whose exit the request
starts, nor behind an earlier request of the bucket. -/
def State.drawSome (s : State) (cls : HbmClass) (w key n : Nat) : Nat × State :=
  let i := key / 64
  let p := key % 64
  let k := s.stack i
  if n = 0 then (0, s)
  else if k.selfref then (0, s.modStack i fun k => { k with exiting := true })
  else if cls = .free then (n, s)
  else
    let first := k.waiting.any fun r => decide (r.acc.cls = cls) && decide (r.acc.part.toNat = p)
    let m := if first then 0 else min n (k.bucket cls p / w * w)
    (m, s.modStack i fun k => let k := k.drawTokens cls p m; if m = n then k else k.exhaust cls p)

/-- The tokens that a requester has drawn already for the accesses it is about to make. -/
def State.paidBy (s : State) (who : Requester) : Tab Nat := ((s.paid.find? fun x => decide (x.1 = who)).map (·.2)).getD []

/-- The tokens drawn so far of a requester replaced. -/
def State.setPaid (s : State) (who : Requester) (t : Tab Nat) : State :=
  let rest := s.paid.filter fun x => decide (x.1 ≠ who)
  { s with paid := if t = [] then rest else (who, t) :: rest }

/-- A requester draws what it needs and can get; true once all is drawn. -/
def State.askHbm (s : State) (who : Requester) (cls : HbmClass) (w : Nat) (need : Tab Nat) : Bool × State :=
  let (t, s) := need.foldl (fun (q : Tab Nat × State) x =>
    let (m, s) := q.2.drawSome cls w x.1 (x.2 - Tab.get 0 q.1 x.1)
    (Tab.set 0 q.1 x.1 (Tab.get 0 q.1 x.1 + m), s)) (s.paidBy who, s)
  if need.all fun x => decide (x.2 ≤ Tab.get 0 t x.1) then (true, s.setPaid who []) else (false, s.setPaid who t)

/-- One request of `w` tokens to a local address: true where it is let through. -/
def State.askOne (s : State) (cls : HbmClass) (w a : Nat) (part : BitVec 6) : Bool × State :=
  if a < s.hbmEnd then
    let (m, s) := s.drawSome cls w (stackKey (s.stackOf a) part) w
    (decide (m = w), s)
  else (true, s)

/-- One request of `w` tokens to a physical address; another chip draws its own. -/
def State.askAt (s : State) (cls : HbmClass) (w pa : Nat) (part : BitVec 6) : Bool × State :=
  if s.isLocal pa then s.askOne cls w (localOf pa) part else (true, s)

/-- A range of device physical addresses cut at 64 B: address, offset in the range, bytes. -/
def piecesOf (pa n : Nat) : List (Nat × Nat × Nat) :=
  if n = 0 then [] else
  (upto ((pa + n - 1) / 64 - pa / 64 + 1)).map fun i =>
    let lo := max pa ((pa / 64 + i) * 64)
    let hi := min (pa + n) ((pa / 64 + i + 1) * 64)
    (lo, lo - pa, hi - lo)

/-- A row that works on local HBM once its requests are let through; until then only what the asking itself changes
remains. -/
def whenLet (q : Bool × State) (f : State → State) : State := if q.1 then f q.2 else q.2

/-- Whether a request reaches a populated, running place of the stacks: HBM in range, aligned where it is
an operation, the stack not excluded or switched off, the partition on (R34, R340, R354, R523). -/
def State.reaches (s : State) (r : HbmReq) : Bool :=
  let a := r.acc.addr.toNat
  decide (a < s.hbmEnd) && s.funcOn (.stack (BitVec.ofNat 3 (s.stackOf a))) &&
    (decide (r.acc.cls = .free) || s.funcOn (.part r.acc.part)) &&
    (match r.work with
     | .oper op w _ _ => decide (a % operWidth op w = 0)
     | _ => true)

/-- A request arrives at its stack: it waits for self-refresh to end, for earlier requests of its bucket
and for tokens, and is otherwise performed (R347, R353). A request outside the populated HBM is answered
unmapped and changes nothing. -/
def State.arrive (s : State) (r : HbmReq) : State :=
  if s.reaches r then
    let i := s.stackOf r.acc.addr.toNat
    let k := s.stack i
    if k.selfref then s.modStack i fun k => { k with waiting := k.waiting ++ [r], exiting := true }
    else if r.tokens ≠ 0 ∧ (k.waiting.any (sameBucket r) ∨ k.bucket r.acc.cls r.acc.part.toNat < r.tokens) then
      s.modStack i fun k => k.hold r
    else (s.modStack i fun k => k.drawTokens r.acc.cls r.acc.part.toNat r.tokens).perform r
  else s

/-- The controller serves a read of one burst. -/
def execHbmRead (acc : HbmAccess) (s : State) : Out := .next (s.arrive { acc := acc, work := .read })

/-- The controller serves a masked write of one burst. -/
def execHbmWrite (acc : HbmAccess) (data : List Byte) (mask : List Bool) (s : State) : Out :=
  if data.length = 64 ∧ mask.length = 64 then .next (s.arrive { acc := acc, work := .write data mask })
  else .fault .illFormed

/-- The memory-side adder performs one operation. OP codes 0–14 only (R392). -/
def execMemorySideOperation (acc : HbmAccess) (op : BitVec 4) (w : Bool) (data cmp : Word) (s : State) : Out :=
  .next (if op = 15 then s else s.arrive { acc := acc, work := .oper op w data cmp })

/-- The oldest waiting request of a bucket is served once the bucket holds its tokens (R347). -/
def execTokenWaitServed (stack : BitVec 3) (part : BitVec 6) (planned : Bool) (s : State) : Out :=
  let i := stack.toNat
  let k := s.stack i
  let mine (r : HbmReq) : Bool :=
    decide (r.acc.part = part) && decide (r.acc.cls = if planned then .planned else .unplanned)
  .next <|
    if k.selfref then s else
    match k.waiting.find? mine with
    | none => s
    | some r =>
      if k.bucket r.acc.cls r.acc.part.toNat < r.tokens then s
      else
        (s.modStack i fun k => ({ k with waiting := k.waiting.erase r } : Stack).drawTokens r.acc.cls r.acc.part.toNat
          r.tokens).perform r

/-- The second read of a burst whose first read was uncorrectable (R450): intact or lost. DISP is 2 for
an intact source; the spec gives none for a lost one, so that byte is free. DEDUCED (log entry 41). -/
def execHbmReread (addr : BitVec 44) (clean : Bool) (s : State) : Out :=
  let a := addr.toNat
  let i := s.stackOf a
  match (s.stack i).reread.find? fun x => decide (x.addr = addr) with
  | none => .next s
  | some x =>
    let s := s.modStack i fun k => { k with reread := k.reread.erase x }
    let blk := a / 64 * 64
    let (d, s) := if clean then ((2#8, s) : BitVec 8 × State) else (let (w, s) := s.draw; (w.setWidth 8, s))
    let s := if clean then s else
      { s with lost := Tab.set false s.lost (a / 8) true
               tick := { s.tick with lostBy := (a / 8, s.reportNum) :: s.tick.lostBy } }
    let r := { s.stackReport i 1 a with
      disp := d, context := x.ctx, carrel := x.carrel, d0 := word (b2n (!clean))
      phys := if x.carrel.toNat < 4096 then s.physOf (x.carrel.setWidth 12) else BitVec.allOnes 16 }
    .next (if blk ≤ a then s.report r else s)

/-- Patrol scrub reads a word (R344): corrections are counted, an uncorrectable word is reported. -/
def execPatrolScrubRead (stack : BitVec 3) (addr : BitVec 44) (ecc : EccResult) (s : State) : Out :=
  .next <|
    if (s.stack stack.toNat).scrubEn ∧ s.stackOf addr.toNat = stack.toNat ∧ addr.toNat < s.hbmEnd then
      match ecc with
      | .clean => s
      | .corrected n => s.stackCorr stack.toNat n.toNat
      | .uncorrectable =>
        s.stackUncorr stack.toNat
          { addr := addr, part := 0, cls := .free, ecc := ecc, ctx := BitVec.allOnes 16
            carrel := BitVec.allOnes 16 }
    else s

/-! ### Refresh and temperature (R351 to R353) -/

/-- The refresh rate that a temperature in 1/16 °C demands (R351). -/
def refrateOf (t : Int) : BitVec 2 := if t ≤ 85 * 16 then 0 else if t ≤ 95 * 16 then 1 else 2

/-- A stack reports a temperature: TEMP and TMAX, the rate rises when a bound is crossed, and THROTTLE holds while the
temperature is above 105 °C (R351). DEDUCED (log entry 81). -/
def execHbmTempRise (stack : BitVec 3) (temp : BitVec 16) (s : State) : Out :=
  .next (s.modStack stack.toNat fun k =>
    let t := temp.toInt
    { k with
      temp := temp
      tmax := if k.tmax.toInt < t then temp else k.tmax
      refrate := if k.refrate < refrateOf t then refrateOf t else k.refrate
      throttle := decide (105 * 16 < t) })

/-- A stack in self-refresh begins its exit (R353). -/
def execSelfRefreshExit (stack : BitVec 3) (s : State) : Out :=
  .next (s.modStack stack.toNat fun k => if k.selfref then { k with exiting := true } else k)

/-- Requests that waited for the exit arrive in their order. -/
def State.rearrive (s : State) : List HbmReq → State
  | [] => s
  | r :: l => (s.arrive r).rearrive l

/-- The exit is complete: the requests that waited are served (R353). -/
def execSelfRefreshExitDone (stack : BitVec 3) (s : State) : Out :=
  let k := s.stack stack.toNat
  .next <|
    if k.selfref && k.exiting then
      (s.modStack stack.toNat fun k => { k with selfref := false, exiting := false, waiting := [] }).rearrive
        k.waiting
    else s

/-! ### Boundary work (R347, R349, R352) -/

/-- The refill of one partition's buckets: planned set, unplanned topped up to its cap, a quarter of the
unplanned refill while throttled (R347, R352, R551). A rate write takes effect first (R349). -/
def Stack.refillPart (k : Stack) (w : Nat) (quarter on : Bool) (p : Nat) : Stack :=
  let k := match Tab.get none k.ratePend p with
    | some r => { k with rate := Tab.set rateReset k.rate p r, ratePend := Tab.set none k.ratePend p none }
    | none => k
  let r := k.rateOf p
  let plan := if on then refillOf (ratePlan r) w else 0
  let u0 := if on then refillOf (rateUnpl r) w else 0
  let cap := rateDepth r * u0
  let u := if quarter || k.throttle then u0 / 4 else u0
  { k with
    planBkt := Tab.set 0 k.planBkt p plan
    unplBkt := Tab.set 0 k.unplBkt p (min cap (Tab.get 0 k.unplBkt p + u)) }

/-- A stack's regulator work at a boundary. -/
def Stack.refill (k : Stack) (w : Nat) (quarter : Bool) (on : Nat → Bool) : Stack :=
  let k := { k with planUsed := k.planNow, planNow := [] }
  (upto 64).foldl (fun k p => k.refillPart w quarter (on p) p) k

end Sys2Proof.Machine
end

