-- ==== Sys2Proof/Machine/Translate.lean ====
section
/-!
DEFINITION. Contexts and the translation tables (spec/14): SEG_CTX, the table ports, invalidation, and
the filling of descriptor caches.
-/

namespace Sys2Proof.Machine

/-- Whether a source is the host's physical function. -/
def isPf (x : Src) : Bool := decide (x = .pf)

/-- Whether a source is a virtual function. -/
def isVf : Src → Bool
  | .vf _ => true
  | _ => false

/-- Whether a source is a device-side agent: a carrel, the keeper, or an item from another chip. -/
def isDevice : Src → Bool
  | .carrel _ => true
  | .keeper => true
  | .link _ => true
  | _ => false

/-- An access that R419 does not allow is counted and has no other effect (R420). -/
def State.deny (s : State) : State := { s with host := { s.host with denied := satInc s.host.denied } }

/-- Whether a plan slot holds a plan. -/
def Plan.present (p : Plan) : Bool := decide (p.state ≠ .free)

/-- The plans of a context that are resident or LOADING. -/
def State.plansOf (s : State) (ctx : Nat) : List (Nat × Plan) :=
  s.plans.filter fun (_, p) => p.present && decide (p.ctx.toNat = ctx)

/-- Whether a plan of a context is resident or LOADING (R363). -/
def State.hasPlan (s : State) (ctx : Nat) : Bool := !(s.plansOf ctx).isEmpty

/-- Whether a plan of a context is resident (R52). -/
def State.hasResident (s : State) (ctx : Nat) : Bool := (s.plansOf ctx).any fun x => decide (x.2.state ≠ .loading)

/-- A write of SEG_CTX[c] (R363). -/
def State.segCtxWrite (s : State) (ctx : BitVec 12) (v : Word) : State :=
  let c := ctx.toNat
  let fast := v.getLsbD 0
  let func : BitVec 6 := field v 8 6
  let g := s.seg
  let clear := v.getLsbD 63
  let rej := Tab.get false g.ctxRej c && !clear
  if s.hasPlan c then
    let changed := decide (fast ≠ Tab.get false g.fast c ∨ func ≠ Tab.get 0 g.func c)
    { s with seg := { g with ctxRej := Tab.set false g.ctxRej c (rej || changed) } }
  else
    { s with seg := { g with
        fast := Tab.set false g.fast c fast, func := Tab.set 0 g.func c func
        ctxRej := Tab.set false g.ctxRej c rej } }

/-- SEG_CTX[c] as it reads. -/
def State.segCtx (s : State) (c : Nat) : Word :=
  place (bit (Tab.get false s.seg.fast c)) 0 ||| place (Tab.get 0 s.seg.func c) 8 |||
    place (bit (Tab.get false s.seg.ctxRej c)) 63

def execSegCtxWrite (src : Src) (ctx : BitVec 12) (v : Word) (s : State) : Out :=
  .next (if isVf src then s.deny else s.segCtxWrite ctx v)

/-! ### The table memory (R366, R369, R370) -/

/-- A descriptor from its two words. -/
def descOf (d0 d1 : Word) : BitVec 128 := d1 ++ d0

/-- The row of R34 in which a whole range of local addresses lies. -/
def rangeRow (a len : Nat) : Option Nat :=
  let rows : List (Nat × Nat) :=
    [(0, 0x0C000000000), (0x80000000000, 0x80040000000), (0x84000000000, 0x84010000000),
     (0x88000000000, 0x88002000000), (0xF0000000000, 0xF0000400000)]
  (upto 5).find? fun i => (rows[i]?).any fun (lo, hi) => decide (lo ≤ a) && decide (a + len ≤ hi)

/-- The checks of a descriptor write: the reason of the first that fails, 0 for none (R366). -/
def descReason (ctx : BitVec 12) (d : BitVec 128) : BitVec 3 :=
  let len := fieldN d 64 45
  let base := fieldN d 12 44 * 4096
  let l := base % 2 ^ 44
  if fieldN d 56 8 ≠ 0 ∨ fieldN d 109 19 ≠ 0 then 1
  else if d.getLsbD 0 = false then 0
  else if len = 0 ∨ len % 4096 ≠ 0 ∨ 2 ^ 44 < len then 2
  else if 2 ^ 30 ≤ len ∧ base % 2097152 ≠ 0 then 3
  else if 2 ^ 44 < l + len then 4
  else match rangeRow l len with
    | none => 5
    | some r => if r = 4 ∧ ctx ≠ 0 then 5 else 0

/-- Entry of the table memory. -/
def State.tableAt (s : State) (ctx seg : Nat) : BitVec 128 := Tab.get 0 s.seg.table (ctx * 16 + seg)

/-- A table port. -/
def State.port (s : State) (p : Bool) : TablePort := if p then s.seg.port1 else s.seg.port0

/-- A table port replaced. -/
def State.setPort (s : State) (p : Bool) (x : TablePort) : State :=
  { s with seg := if p then { s.seg with port1 := x } else { s.seg with port0 := x } }

/-- Whether a source is on a port's side: port 0 the physical function, port 1 device-side agents (R370). -/
def portSide (src : Src) (p : Bool) : Bool := if p then isDevice src else isPf src

/-- A write to SEG_Px_SEL, D0 or D1: ignored while WRITE or READ reads 1, or from the other side (R370). -/
def State.portSet (s : State) (src : Src) (p : Bool) (f : TablePort → TablePort) : State :=
  let x := s.port p
  if portSide src p && !x.write && !x.read then s.setPort p (f x) else s

/-- A write to SEG_Px_CMD (R370). -/
def State.portCmd (s : State) (src : Src) (p : Bool) (v : Word) : State :=
  let x := s.port p
  if portSide src p then
    s.setPort p { x with write := x.write || v.getLsbD 0, read := x.read || v.getLsbD 1
                         rej := x.rej && !v.getLsbD 8 }
  else s

/-- SEG_Px_CMD as it reads. -/
def TablePort.cmd (x : TablePort) : Word :=
  place (bit x.write) 0 ||| place (bit x.read) 1 ||| place (bit x.rej) 8 ||| place x.reason 9

def execSegTableWrite (src : Src) (port : Bool) (s : State) : Out :=
  .next (if isVf src then s.deny else s.portCmd src port 1)

def execSegTableRead (src : Src) (port : Bool) (s : State) : Out :=
  .next (if isVf src then s.deny else s.portCmd src port 2)

/-- A table port completes its WRITE, then its READ (R366, R370). -/
def execTablePortDone (port : Bool) (s : State) : Out :=
  let x := s.port port
  let key := x.ctx.toNat * 16 + x.seg.toNat
  let d := descOf x.d0 x.d1
  let r := descReason x.ctx d
  let s1 :=
    if x.write then
      if r = 0 then
        let s := s.setPort port { x with write := false, rej := false }
        { s with seg := { s.seg with table := Tab.set 0 s.seg.table key d } }
      else s.setPort port { x with write := false, rej := true, reason := r }
    else s
  let s2 :=
    if x.read then
      let d := Tab.get 0 s1.seg.table key
      s1.setPort port { s1.port port with read := false, d0 := field d 0 64, d1 := field d 64 64 }
    else s1
  .next s2

/-! ### Descriptor caches (R372 to R375) -/

/-- The descriptor of the carrel's context fills an entry of one of its streams that an invalidation has removed; an entry
that is still cached keeps its value (R370, R374). -/
def execDescriptorCacheFill (c : BitVec 12) (stream : BitVec 3) (seg : BitVec 4) (s : State) : Out :=
  let k := s.carrel c
  let i := stream.toNat * 16 + seg.toNat
  .next (s.setCarrel c
    { k with
      desc := Tab.set none k.desc i ((Tab.get none k.desc i).or (some (s.tableAt k.ctx.toNat seg.toNat)))
      wait := if k.wait = .desc stream seg then .none else k.wait })

/-- Fills all eight caches of a carrel with the 16 descriptors of a context (R373). -/
def State.fillCaches (s : State) (c : BitVec 12) (ctx : BitVec 12) : State :=
  s.modCarrel c fun k =>
    { k with
      ctx := ctx
      desc := (upto 128).map fun i => (i, some (s.tableAt ctx.toNat (i % 16))) }

/-- A cache without the entries that a request names. -/
def dropDescs (t : Tab (Option (BitVec 128))) (segs : BitVec 16) : Tab (Option (BitVec 128)) :=
  t.filter fun (k, _) => !segs.getLsbD (k % 16)

/-- Step 2 of an invalidation on this module (R377). -/
def State.invalidate (s : State) (ctx : BitVec 12) (segs : BitVec 16) (all : Bool) : State :=
  let m : BitVec 16 := if all then BitVec.allOnes 16 else segs
  let cs := s.carrels.foldl (fun t (i, k) =>
    if all ∨ k.ctx = ctx then Tab.set Carrel.reset t i { k with desc := dropDescs k.desc m } else t) s.carrels
  let es := s.host.engines.foldl (fun t (i, e) =>
    if all ∨ e.ctx = ctx then Tab.set CopyEngine.reset t i { e with desc := dropDescs e.desc m } else t)
    s.host.engines
  { s with carrels := cs, host := { s.host with engines := es } }

/-! ### Invalidation (R376 to R379, R571) -/

/-- The virtual addresses that a carrel has translated for accesses that have not returned. -/
def Wait.vas : Wait → List Word
  | .load _ _ hs => (hs.filter fun h => match h.stage with | .got _ => false | _ => true).map (·.va)
  | .atomic _ _ _ va _ _ _ _ _ _ => [va]
  | .vecDrain _ _ accs => accs.map (·.va)
  | .vecLoad _ _ accs => accs.map (·.va)
  | .vecAck _ _ accs => accs.map (·.va)
  | _ => []

/-- The blocks of a carrel's stores that have been translated and are not acknowledged. -/
def Carrel.openBlocks (k : Carrel) : List Nat :=
  (k.mb.filter fun e => !e.acked).map (·.block) ++ match k.wait with
    | .store _ hs => hs.map fun h => h.pa / 64
    | _ => []

/-- What an invalidation waits for in step 3: open accesses through the named segments, and open stores, of the carrels
of its context (R377). DEDUCED (log entry 93). -/
def State.openUnder (s : State) (ctx : BitVec 12) (segs : BitVec 16) (all : Bool) :
    List (BitVec 12 × Word) × List (BitVec 12 × Nat) :=
  let cs := s.carrels.filter fun x => all || decide (x.2.ctx = ctx)
  (cs.flatMap fun x => (x.2.wait.vas.filter fun v => all || segs.getLsbD (v.toNat / 2 ^ 60)).map fun v =>
      (BitVec.ofNat 12 x.1, v),
    cs.flatMap fun x => x.2.openBlocks.map fun b => (BitVec.ofNat 12 x.1, b))

/-- Whether something that an invalidation waits for is still open. -/
def State.stillOpen (s : State) (r : InvRun) : Bool :=
  (r.vas.any fun x => (s.carrel x.1).wait.vas.contains x.2) ||
    r.blocks.any fun x => (s.carrel x.1).openBlocks.contains x.2

/-- The links of the chain tree, by number (R403); none while the module stands alone. -/
def State.treeLinks (s : State) : List Nat :=
  if s.chain.up then
    (upto 12).filter fun l => s.chain.live.down.getLsbD l || decide (s.chain.live.up.toNat = l)
  else []

/-- Slot `k` of the invalidation page. -/
def State.invSlot (s : State) (k : Nat) : InvSlot := Tab.get InvSlot.reset s.seg.slots k

/-- Slot `k` replaced. -/
def State.setInvSlot (s : State) (k : Nat) (x : InvSlot) : State :=
  { s with seg := { s.seg with slots := Tab.set InvSlot.reset s.seg.slots k x } }

/-- SEG_INV_DONE[k] as it reads. -/
def InvSlot.doneWord (x : InvSlot) : Word :=
  place (bit x.busy) 0 ||| place (bit x.rej) 1 ||| place x.seq 32

/-- The writable fields of SEG_INV_REQ. -/
def invReqMask : Word := 0x0000FFFF1FFFFFFF#64

/-- Begins an invalidation on this module: the broadcast leaves on the tree's other edges, then step 2. -/
def State.beginInv (s : State) (id : InvId) (origin : BitVec 12) (tag : BitVec 16) (req : Word)
    (from_ : Option Nat) (send : Bool) : State :=
  let links := if send then s.treeLinks.filter fun l => from_ ≠ some l else []
  let item : Item := [itemHdr 11 origin 0 tag 0 false 0 false false, req &&& invReqMask]
  let s := links.foldl (fun s l => s.sendOn l item 2) s
  let ctx : BitVec 12 := field req 0 12
  let segs : BitVec 16 := field req 12 16
  let all := req.getLsbD 28
  let s := s.invalidate ctx segs all
  let o := s.openUnder ctx segs all
  { s with seg := { s.seg with
      runs := s.seg.runs ++ [{ id := id, ctx := ctx, segs := segs, all := all, seq := field req 32 16
                               waitFor := links, drained := false, vas := o.1, blocks := o.2 }] } }

/-- An invalidation whose own drain and every acknowledgement are in ends (R377 steps 4 and 5). -/
def State.endInv (s : State) (r : InvRun) : State :=
  if r.drained && r.waitFor.isEmpty then
    let s := { s with seg := { s.seg with runs := s.seg.runs.erase r } }
    match r.id with
    | .slot k => s.setInvSlot k.toNat { s.invSlot k.toNat with busy := false, seq := r.seq }
    | .remote l src tag => s.sendOn l.val [itemHdr 12 s.ownChip src tag 0 false 0 false false] 2
    | .off _ => s
  else s

/-- One run replaced, and ended if it may end. -/
def State.stepInv (s : State) (r r' : InvRun) : State :=
  { s with seg := { s.seg with runs := s.seg.runs.map fun x => if x = r then r' else x } }.endInv r'

/-- A write to SEG_INV_REQ[k] (R376): slots 0–31 from the physical function only, 32–63 from device-side
agents only. -/
def State.invRequest (s : State) (src : Src) (k : Nat) (v : Word) : State :=
  if (if k < 32 then isPf src else isDevice src) then
    let x := s.invSlot k
    if x.busy then s.setInvSlot k { x with rej := true }
    else
      (s.setInvSlot k { x with req := v &&& invReqMask, busy := true }).beginInv
        (.slot (BitVec.ofNat 6 k)) s.ownChip (BitVec.ofNat 16 k) v none true
  else s

def execInvalidationRequest (src : Src) (k : BitVec 6) (v : Word) (s : State) : Out :=
  .next (if isVf src then s.deny else s.invRequest src k.toNat v)

/-- Takes the oldest received item of a kind from a link. -/
def State.takeRx (s : State) (l : Nat) (p : Item → Bool) : Option (Item × State) :=
  ((s.link l).rx.find? p).map fun i => (i, s.modLink l fun k => { k with rx := k.rx.erase i })

/-- A received invalidation broadcast is forwarded and acted on (R377). -/
def execInvalidationBroadcast (l : Fin 12) (s : State) : Out :=
  match s.takeRx l.val fun i => decide (i.kind = 11) with
  | none => .next s
  | some (i, s) =>
    .next (s.beginInv (.remote l i.src i.tag) i.src i.tag (i.unit 1) (some l.val) true)

/-- Every access translated before step 2 has returned or been acknowledged (R377 step 3). -/
def execInvalidationDrainDone (id : InvId) (s : State) : Out :=
  match s.seg.runs.find? fun r => decide (r.id = id) && !r.drained with
  | none => .next s
  | some r => .next (if s.stillOpen r then s else s.stepInv r { r with drained := true })

/-- An acknowledgement comes back over a tree link (R377 step 4). -/
def execInvalidationAck (l : Fin 12) (s : State) : Out :=
  match s.takeRx l.val fun i => decide (i.kind = 12) with
  | none => .next s
  | some (i, s) =>
    let mine (r : InvRun) : Bool :=
      r.waitFor.contains l.val && (match r.id with
        | .slot k => decide (i.dst = s.ownChip) && decide (i.tag.toNat = k.toNat)
        | .remote _ src tag => decide (i.dst = src) && decide (i.tag = tag)
        | .off _ => false)
    match s.seg.runs.find? mine with
    | none => .next s
    | some r => .next (s.stepInv r { r with waitFor := r.waitFor.filter (· ≠ l.val) })

/-- A context is OFF: its descriptors are invalid in the table memory, and steps 2 and 3 of R377 run on
this module (R379). -/
def State.ctxOff (s : State) (c : BitVec 12) : State :=
  let t := (upto 16).foldl (fun t i =>
    let d := Tab.get 0 t (c.toNat * 16 + i)
    Tab.set 0 t (c.toNat * 16 + i) (d &&& ~~~ 1#128)) s.seg.table
  { s with seg := { s.seg with table := t } }.beginInv (.off c) s.ownChip 0
    (place c 0 ||| 0x0FFFF000#64) none false

end Sys2Proof.Machine
end

