-- ==== Sys2Proof/Machine/Gauge.lean ====
section
/-!
DEFINITION. Norm gauges and training steps (R295 to R310).
-/

namespace Sys2Proof.Machine

/-- The gauge and training registers of a context. -/
def State.trainCtx (s : State) (c : Nat) : TrainCtx := Tab.get TrainCtx.reset s.train c

/-- The gauge and training registers of a context changed. -/
def State.modTrain (s : State) (c : Nat) (f : TrainCtx → TrainCtx) : State :=
  { s with train := Tab.set TrainCtx.reset s.train c (f (s.trainCtx c)) }

/-- A gauge set. -/
def State.gaugeSet (s : State) (i : Nat) : GaugeSet := Tab.get GaugeSet.reset s.gauges i

/-- A gauge set changed. -/
def State.modGauge (s : State) (i : Nat) (f : GaugeSet → GaugeSet) : State :=
  { s with gauges := Tab.set GaugeSet.reset s.gauges i (f (s.gaugeSet i)) }

/-- The set of a layer tag of a context; none for tag 0 or a tag past COUNT (R295). -/
def State.setOf (s : State) (ctx tag : Nat) : Option Nat :=
  let t := s.trainCtx ctx
  if 1 ≤ tag ∧ tag ≤ t.count.toNat then some (t.base.toNat + tag - 1) else none

/-- Adds to SUMSQ, clamping at 2^128 − 1 and saying so (R296). -/
def Gauge.addSq (g : Gauge) (q : Nat) : Gauge :=
  if g.sumsq.toNat + q < 2 ^ 128 then { g with sumsq := BitVec.ofNat 128 (g.sumsq.toNat + q) }
  else { g with sumsq := BitVec.allOnes 128, sat := true }

/-- One written element (R296); `e` is GEXP. -/
def Gauge.addElem (g : Gauge) (e : Int) (v : Num) : Gauge :=
  match v with
  | .fin _ m x =>
    let q := if m = 0 then 0 else roundAt .rne (.dyadic (m * m) (2 * x)) e
    let a := Fmt.f64.rne (Num.fin false m x).toVal
    let big := decide (Fmt.f64.infCode ≤ a)
    let a := if big then Fmt.f64.maxCode else a
    let g := g.addSq q
    { g with count := satInc g.count, amax := BitVec.ofNat 64 (max g.amax.toNat a), sat := g.sat || big }
  | _ => { g with nonfin := satInc g.nonfin }

/-- One gauge merged into another (R298, R306). -/
def Gauge.merge (a b : Gauge) : Gauge :=
  let s := a.addSq b.sumsq.toNat
  { s with
    count := satAdd a.count b.count.toNat, nonfin := satAdd a.nonfin b.nonfin.toNat
    amax := BitVec.ofNat 64 (max a.amax.toNat b.amax.toNat), sat := s.sat || b.sat }

/-- Three gauges merged. -/
def Gauges.merge (a b : Gauges) : Gauges := { w := a.w.merge b.w, g := a.g.merge b.g, u := a.u.merge b.u }

/-- The pending bank of a work tick. -/
def GaugeSet.pendOf (x : GaugeSet) (w : Word) : Gauges :=
  ((x.pend.find? fun p => decide (p.1 = w)).map (·.2)).getD Gauges.empty

/-- The pending bank of a work tick replaced. -/
def GaugeSet.setPend (x : GaugeSet) (w : Word) (g : Gauges) : GaugeSet :=
  { x with pend := (w, g) :: (x.pend.filter fun p => decide (p.1 ≠ w)) }

/-- Elements written with a tag and a GKIND add to the pending bank of the current work tick (R295, R298). -/
def State.gaugeAdd (s : State) (ctx tag kind : Nat) (vals : List Num) : State :=
  if kind = 0 ∨ 3 < kind then s else
  match s.setOf ctx tag with
  | none => s
  | some i =>
    s.modGauge i fun x =>
      let p := x.pendOf s.tick.wtn
      let add (g : Gauge) (e : Int) : Gauge := vals.foldl (fun g v => g.addElem e v) g
      x.setPend s.tick.wtn
        (if kind = 1 then { p with w := add p.w x.gexpW }
         else if kind = 2 then { p with g := add p.g x.gexpG }
         else { p with u := add p.u x.gexpU })

/-- The sets of a context's allotment. -/
def State.setsOf (s : State) (ctx : Nat) : List Nat :=
  let t := s.trainCtx ctx
  (upto t.count.toNat).map (t.base.toNat + ·)

/-- Work tick `w` is confirmed for a context: its pending banks merge into the open banks (R298). -/
def State.gaugeMerge (s : State) (ctx : Nat) (w : Word) : State :=
  (s.setsOf ctx).foldl (fun s i => s.modGauge i fun x =>
    { x with opened := x.opened.merge (x.pendOf w), pend := x.pend.filter fun p => decide (p.1 ≠ w) }) s

/-- Work tick `w` is not confirmed: its pending banks are discarded (R298). -/
def State.gaugeDrop (s : State) (w : Word) : State :=
  { s with gauges := s.gauges.foldl (fun t (i, x) => Tab.set GaugeSet.reset t i
      { x with pend := x.pend.filter fun p => decide (p.1 ≠ w) }) s.gauges }

/-- The values that a status carries for a set: the gradient gauge over the open bank and the pending
bank of the tick (R306). -/
def State.setSum (s : State) (i : Nat) (w : Word) : SetSum :=
  let x := s.gaugeSet i
  let g := x.opened.g.merge (x.pendOf w).g
  { sumsq := g.sumsq, count := g.count, amax := g.amax, nonfin := g.nonfin }

/-- The combination of two modules' values (R306). -/
def SetSum.combine (a b : SetSum) : SetSum :=
  { sumsq := satAdd a.sumsq b.sumsq.toNat, count := satAdd a.count b.count.toNat
    amax := BitVec.ofNat 64 (max a.amax.toNat b.amax.toNat), nonfin := satAdd a.nonfin b.nonfin.toNat }

/-- No values. -/
def SetSum.zero : SetSum := { sumsq := 0, count := 0, amax := 0, nonfin := 0 }

/-- The layers of the training sections of a context's plans, each tag once. -/
def State.layersOf (s : State) (ctx : Nat) : List Layer :=
  ((s.plansOf ctx).flatMap fun (_, p) => (p.img.training.map (·.layers)).getD []).foldl
    (fun l x => if l.any fun y => decide (y.tag = x.tag) then l else l ++ [x]) []

/-- The values of a set that a module brings to a step's combination: those of a tag in a training section of its plans
(R306). -/
def State.sectionSum (s : State) (i : Nat) (w : Word) : SetSum :=
  let mine := s.train.any fun (c, t) =>
    decide (t.base.toNat ≤ i) && decide (i < t.base.toNat + t.count.toNat) &&
      (s.layersOf c).any fun y => decide (y.tag = i - t.base.toNat + 1)
  if mine then s.setSum i w else SetSum.zero

/-- A step of a context closes with work tick `w` (R305): open banks move to the closed banks. `vals`
gives the combined gradient gauge of a set, which decides for every tag of the context (R306, R307). -/
def State.stepClose (s : State) (ctx : Nat) (w : Word) (vals : Nat → SetSum) : State :=
  let comb := (upto (s.trainCtx ctx).count.toNat).filterMap fun k => (s.setOf ctx (k + 1)).map fun i => (k + 1, vals i)
  let s := (s.setsOf ctx).foldl (fun s i => s.modGauge i fun x =>
    { x with closed := x.opened, closedWtn := w, opened := Gauges.empty }) s
  s.modTrain ctx fun t => { t with closed := some (w, comb) }

/-- floor(log2) of a positive binary64 code; none for zero. -/
def log2Of (code : Nat) : Option Int :=
  match Fmt.f64.decode code with
  | .fin _ m e => if m = 0 then none else some ((m.log2 : Int) + e)
  | _ => none

/-- The history entry of a combined gradient gauge (R308): EMAX and ERMS, or none where no finite
non-zero element was counted. A mean square that rounded to zero has no logarithm: that value is free. -/
def histEntry (free : Word) (gexp : Int) (v : SetSum) : Option (Int × Int) :=
  match log2Of v.amax.toNat with
  | none => none
  | some emax =>
    if v.sumsq = 0 ∨ v.count = 0 then some (emax, (free.setWidth 16).toInt)
    else some (emax, (Mag.quot v.sumsq.toNat gexp v.count.toNat 0).lg / 2)

/-- The limit of a gradient format (R308): E4M3 6, E5M2 12, BF16 none. -/
def fmtLimit (f : Nat) : Option Int := if f = 0 then some 6 else if f = 1 then some 12 else none

/-- The format of the next step (R308): 0 E4M3, 1 E5M2, 2 BF16. -/
def nextFmt (cur : Nat) (hist : List (Option (Int × Int))) : Nat :=
  match hist.head? with
  | some (some (emax, erms)) =>
    let d := emax - erms
    if (match fmtLimit cur with | some l => decide (l < d) | none => false) then (if d ≤ 12 then 1 else 2)
    else if 16 ≤ hist.length ∧ (hist.take 16).all (·.isSome) then
      let dmax := (hist.take 16).foldl (fun m x => match x with
        | some (a, b) => max m (a - b)
        | none => m) d
      if cur = 2 ∧ dmax ≤ 11 then 1 else if cur = 1 ∧ dmax ≤ 5 then 0 else cur
    else cur
  | _ => cur

/-- An integer clamped to a range. -/
def clampInt (lo hi x : Int) : Int := max lo (min hi x)

/-- The decisions of one layer at a clean step (R307, R308). -/
def State.applyLayer (s : State) (ctx : Nat) (y : Layer) (v : SetSum) : State :=
  match s.setOf ctx y.tag with
  | none => s
  | some i =>
    let (fw, s) := if y.gselect ∨ y.fxselect then s.draw else (0, s)
    s.modGauge i fun x =>
      let x := if y.gselect then
          let h := (histEntry fw y.gexpG v :: x.hist).take 16
          { x with hist := h, fmt := nextFmt x.fmt h }
        else x
      if y.fxselect ∧ v.count ≠ 0 then
        let lg := (log2Of v.amax.toNat).getD (fw.setWidth 16).toInt
        { x with fx := clampInt (-2048) 2047 (lg + y.fxhead - 62) }
      else x

/-- The bytes of the training block (R310). -/
def State.trainBlock (s : State) (ctx : Nat) (w : Word) : List Byte :=
  let t := s.trainCtx ctx
  let e := t.lossExp.toInt
  let scale (x : Int) : Nat := ((x + 127).toNat % 256) * 2 ^ 23
  natToBytes 8 t.steps.toNat ++ natToBytes 8 w.toNat ++ natToBytes 4 (scale e) ++ natToBytes 4 (scale (-e)) ++
    [t.lossExp, BitVec.ofNat 8 (b2n t.lastOk)] ++ natToBytes 2 t.clean.toNat ++ List.replicate 36 0 ++
    (s.setsOf ctx).flatMap fun i =>
      natToBytes 2 ((s.gaugeSet i).fmt % 4) ++ natToBytes 2 (BitVec.ofInt 16 (s.gaugeSet i).fx).toNat

/-! ### Followed fields (R302, R304, R309) -/

/-- The key of a descriptor list of an image. -/
def listKey (carrel queue ptick phase : Nat) : Nat := ((carrel * 16 + queue) * 4096 + ptick) * 256 + phase

/-- Queues of a segment type: ARRAY 0–3, ELEMENT 4, ROW 5, MOVER 6–13. -/
def segQueues (seg : Nat) : List Nat :=
  match seg with
  | 6 => [0, 1, 2, 3] | 7 => [4] | 8 => [5] | 9 => [6, 7, 8, 9, 10, 11, 12, 13] | _ => []

/-- The lists of a carrel's segment in list-index order (plan tick, phase, queue): key and length. -/
def Image.segLists (m : Image) (carrel seg : Nat) : List (Nat × Nat) :=
  (upto m.period).flatMap fun t => (upto m.phases).flatMap fun p => (segQueues seg).filterMap fun q =>
    let k := listKey carrel q t p
    let n := (Tab.get [] m.lists k).length
    if n = 0 then none else some (k, n)

/-- The place of the n-th descriptor of a carrel's segment. -/
def placeOf : List (Nat × Nat) → Nat → Option (Nat × Nat)
  | [], _ => none
  | (k, n) :: l, i => if i < n then some (k, i) else placeOf l (i - n)

/-- One followed field written into its descriptor. -/
def Image.follow (m : Image) (f : Follow) (v : List Byte) : Image :=
  match placeOf (m.segLists f.carrel f.seg) f.index with
  | none => m
  | some (k, i) =>
    let l := Tab.get [] m.lists k
    { m with lists := Tab.set [] m.lists k (listSet l i (patch (l.getD i []) f.byte v)) }

/-- The two bytes that a follow entry demands: the format word with its TYPE replaced, or the exponent. -/
def followBytes (x : GaugeSet) (f : Follow) (old : List Byte) : List Byte :=
  if f.kind = 0 then
    let w := bytesToNat old
    natToBytes 2 (w / 32 * 32 + (if x.fmt = 0 then 5 else if x.fmt = 1 then 4 else 2))
  else natToBytes 2 (BitVec.ofInt 16 x.fx).toNat

/-- Every followed field of an image written from the tags' current values (R304, R309). -/
def State.followAll (s : State) (ctx : Nat) (m : Image) : Image :=
  match m.training with
  | none => m
  | some t => t.follows.foldl (fun m f =>
      match s.setOf ctx f.layer, placeOf (m.segLists f.carrel f.seg) f.index with
      | some i, some (k, n) =>
        let d := (Tab.get [] m.lists k).getD n []
        m.follow f (followBytes (s.gaugeSet i) f (slice d f.byte 2))
      | _, _ => m) m

/-- Plan in a slot. -/
def State.plan (s : State) (i : Nat) : Option Plan :=
  (s.plans.find? fun (k, p) => decide (k = i) && p.present).map (·.2)

/-- Plan in a slot changed. -/
def State.modPlan (s : State) (i : Nat) (f : Plan → Plan) : State :=
  { s with plans := s.plans.map fun (k, p) => if k = i then (k, f p) else (k, p) }

/-- The closed step of a context applies at the boundary that begins work tick `w`, the first from n + 2 on: a replay of
work tick n + 1 takes the place of device tick n + 2 (R64, R307, R309, R310). -/
def State.stepApply (s : State) (ctx : Nat) (w : Word) : State :=
  let t := s.trainCtx ctx
  match t.closed with
  | none => s
  | some (n, comb) =>
    if w < n + 2 ∨ t.en = false then s else
    let layers := s.layersOf ctx
    let valOf (tag : Nat) : SetSum := ((comb.find? fun x => decide (x.1 = tag)).map (·.2)).getD SetSum.zero
    let bad := comb.any fun x => decide (x.2.nonfin ≠ 0)
    let e := clampInt (-8) 32 t.lossExp.toInt
    let clean := t.clean.toNat + 1
    let raise := decide (max 1 t.raiseN.toNat ≤ clean)
    let s := s.modTrain ctx fun t =>
      { t with
        lossExp := BitVec.ofInt 8 (if bad then max (e - 1) (-8) else if raise then min (e + 1) 32 else e)
        clean := if bad ∨ raise then 0 else BitVec.ofNat 16 clean
        steps := t.steps + 1, lastOk := !bad, closed := none }
    let s := if bad then s else layers.foldl (fun s y => s.applyLayer ctx y (valOf y.tag)) s
    let s := s.store ((s.trainCtx ctx).tblk.toNat * 64) (s.trainBlock ctx (n + 2))
    (s.plansOf ctx).foldl (fun s (i, p) =>
      s.modPlan i fun _ => { p with prevLists := some (w, p.img.lists), img := s.followAll ctx p.img }) s

/-- A write to CEN_GAUGE_ALLOT (R300): ignored with REJ when it overlaps another allotment, runs past the
last set, or a plan of the context is resident. -/
def State.allotWrite (s : State) (ctx : Nat) (v : Word) : State :=
  let base := fieldN v 0 12
  let count := fieldN v 16 13
  let rej := (s.trainCtx ctx).rej && !v.getLsbD 63
  let clash := s.train.any fun (c, t) =>
    decide (c ≠ ctx) && decide (base < t.base.toNat + t.count.toNat) && decide (t.base.toNat < base + count) &&
      decide (count ≠ 0) && decide (t.count ≠ 0)
  if clash ∨ 4096 < base + count ∨ s.hasResident ctx then s.modTrain ctx fun t => { t with rej := true }
  else s.modTrain ctx fun t =>
    { t with base := BitVec.ofNat 12 base, count := BitVec.ofNat 13 count, rej := rej }

def execCenGaugeAllotWrite (src : Src) (ctx : BitVec 12) (v : Word) (s : State) : Out :=
  .next (if isVf src then s.deny else s.allotWrite ctx.toNat v)

/-- The bytes of one gauge record (R297). -/
def gaugeBytes (g : Gauge) (gexp : Int) (w : Word) : List Byte :=
  natToBytes 16 g.sumsq.toNat ++ natToBytes 8 g.count.toNat ++ natToBytes 8 g.amax.toNat ++
    natToBytes 4 g.nonfin.toNat ++ natToBytes 2 (b2n g.sat) ++ natToBytes 2 (BitVec.ofInt 16 gexp).toNat ++
    natToBytes 8 w.toNat

/-- One history entry (R308). -/
def histBytes (h : Option (Int × Int)) : List Byte :=
  match h with
  | some (a, b) => natToBytes 2 (BitVec.ofInt 16 a).toNat ++ natToBytes 2 (BitVec.ofInt 16 b).toNat
  | none => natToBytes 2 0x8000 ++ natToBytes 2 0x8000

/-- The 352 bytes of a gauge set (R297). -/
def GaugeSet.bytes (x : GaugeSet) : List Byte :=
  gaugeBytes x.opened.w x.gexpW 0 ++ gaugeBytes x.opened.g x.gexpG 0 ++ gaugeBytes x.opened.u x.gexpU 0 ++
    gaugeBytes x.closed.w x.gexpW x.closedWtn ++ gaugeBytes x.closed.g x.gexpG x.closedWtn ++
    gaugeBytes x.closed.u x.gexpU x.closedWtn ++
    (upto 16).flatMap fun i => histBytes (x.hist.getD i none)

end Sys2Proof.Machine
end

