-- ==== Sys2Proof/Machine/Links.lean ====
section
/-!
DEFINITION. Links (R382 to R398): training, drops, retraining, sleep and the receive side; tick marks,
chain set-up and rejoin (R399 to R409); census strobes and barriers.
-/

namespace Sys2Proof.Machine

/-- The number of lanes of a mask. -/
def laneCount (m : BitVec 8) : Nat := ((upto 8).filter fun i => m.getLsbD i).length

/-- The units of a reduction fragment: 2, then the values packed to whole units (R392). The value count
and TYPE stand in unit 1. -/
def fragUnits (u1 : Word) : Nat :=
  2 + ceilDiv (fieldN u1 33 16 * tyBits (fieldN u1 16 5)) 64

/-- The units of an item from its first two units; a status or verdict (number 0xFFFF) fills STATUS_FLITS
flits (R392, R406). -/
def State.unitsOf (s : State) (h u1 : Word) : Nat :=
  if fieldN h 0 4 = 9 then
    (if fieldN u1 0 16 = 0xFFFF then 29 * max 3 s.chain.live.sflits.toNat else fragUnits u1)
  else itemUnits h

/-- Whole items at the front of the received units, and the rest. -/
def State.takeItems (s : State) : Nat → List Word → List Item × List Word
  | 0, l => ([], l)
  | _ + 1, [] => ([], [])
  | n + 1, h :: t =>
    if fieldN h 0 4 = 9 ∧ t.isEmpty then ([], h :: t)
    else
      let k := s.unitsOf h (t.headD 0)
      if (h :: t).length < k then ([], h :: t)
      else
        let (is, rest) := s.takeItems n ((h :: t).drop k)
        ((h :: t).take k :: is, rest)

/-! ### Failures (R385 to R387) -/

/-- A record about a link. -/
def State.linkReport (s : State) (l code : Nat) (d0 : Word) : Report :=
  { blankReport with code := BitVec.ofNat 16 code, unit := 3, unitno := BitVec.ofNat 16 l, d0 := d0
                     wtn := s.tick.wtn }

/-- Whether a link record of a plan uses link `l`: the link it names, or the route of its far chip. -/
def State.recordUses (s : State) (p : Plan) (l : Nat) (d : List Byte) : Bool :=
  let kind := leAt d 4 1
  if kind = 3 ∨ kind = 4 then decide (leAt d 0x22 2 = l)
  else
    let va := leAt d 0x10 8
    let desc := s.tableAt p.ctx.toNat (va / 2 ^ 60)
    let pa := fieldN desc 12 44 * 4096 + va % 2 ^ 60
    decide (s.route (BitVec.ofNat 12 (chipOf pa)) = some l)

/-- The link records of a plan. -/
def Plan.linkRecords (p : Plan) : List (List Byte) :=
  (p.img.lists.filter fun (k, _) => decide (listKey 4096 0 0 0 ≤ k)).flatMap (·.2)

/-- A link becomes FAILED (R387, R398): its items are answered NO-ROUTE, a record is written, and the
plans whose link schedules use it are to be suspended with reason LATE. -/
def State.linkFailed (s : State) (l : Nat) : State :=
  let k := s.link l
  let held := (s.takeItems 4096 (k.replay.flatMap (·.2))).1 ++ k.txq
  let reqs := held.filter fun i => i.isRequest
  let s := s.modLink l fun k =>
    { k with state := 6, replay := [], txq := [], tlanes := 0, rlanes := 0, dropTx := false, dropRx := false }
  let s := reqs.foldl (fun s i => if i.src = s.ownChip then s else s.sendItem (errorItem i 3)) s
  let f := Tab.get Func.reset s.dict.funcs l
  let s := if f.state = 2 then
      { s with dict := { s.dict with funcs := Tab.set Func.reset s.dict.funcs l { f with state := 0, fault := true } } }
    else s
  let hit := s.plans.filter fun (_, p) => p.present && p.linkRecords.any (s.recordUses p l)
  let s := { s with tick := { s.tick with suspendDue := s.tick.suspendDue ++ hit.map fun ((i, _) : Nat × Plan) => (i, (0x81 : BitVec 8)) } }
  s.report (s.linkReport l 0x22 (word reqs.length))

/-- Resends every unacknowledged flit in order (R391). -/
def State.resend (s : State) (l : Nat) : State :=
  let k := s.link l
  if k.replay.isEmpty then s else
  let s := k.replay.foldl (fun s (q, us) => s.send (.flit l ((s.link l).flitHdr us.length &&& ~~~ 0xFFF#64 ||| place q 0) us)) s
  s.modLink l fun k =>
    { k with replays := satAdd k.replays k.replay.length, linkev := true, evTick := true }

/-- A link enters RETRAIN for the n-th cause of R386. -/
def State.startRetrain (s : State) (l n : Nat) : State :=
  if (s.link l).open_ ∨ (s.link l).state = 4 then
    let s := s.modLink l fun k =>
      { k with state := 5, dropTx := false, dropRx := false, retrained := true, linkev := true, evTick := true
               retrains := satInc k.retrains, tries := 0 }
    s.report (s.linkReport l 0x21 (word (Config.causeBase + n)))
  else s

/-- A direction of a link loses a lane (R385): to DROP, or to FAILED when it already ran on 7 lanes; the other direction
goes on. The record's direction code is open in the spec: free. -/
def State.dropLane (s : State) (l : Nat) (lane : BitVec 3) (receive : Bool) : State :=
  let k := s.link l
  let m : BitVec 8 := BitVec.ofNat 8 (2 ^ lane.toNat)
  let lanes := if receive then k.rlanes else k.tlanes
  if (k.open_ ∨ k.state = 4) ∧ lanes.getLsbD lane.toNat then
    if laneCount lanes ≤ 7 then s.linkFailed l
    else
      let s := s.modLink l fun k =>
        { k with
          state := 4, dropRx := k.dropRx || receive, dropTx := k.dropTx || !receive, dropped := true, linkev := true, evTick := true, drops := satInc k.drops
          rlanes := if receive then k.rlanes &&& ~~~ m else k.rlanes
          tlanes := if receive then k.tlanes else k.tlanes &&& ~~~ m
          runfail := if receive then k.runfail ||| m else k.runfail
          dropReq := if receive then BitVec.ofNat 4 (lane.toNat + 1) else k.dropReq }
      let (w, s) := s.draw
      s.report { s.linkReport l 0x20 (word lane.toNat) with d1 := w }
  else s

/-- A receiver declares a lane failed. -/
def execLaneDrop (l : Fin 12) (lane : BitVec 3) (s : State) : Out := .next (s.dropLane l.val lane true)

/-- The drop ends: the delay is measured again and a transmitter that dropped the lane resends (R385). -/
def execLaneDropDone (l : Fin 12) (delay : BitVec 24) (s : State) : Out :=
  .next <|
    if (s.link l.val).state = 4 then
      let t := s.modLink l.val fun k => { k with state := 2, dropTx := false, dropRx := false, delay := delay, dropReq := 0 }
      (if (s.link l.val).dropTx then t.resend l.val else t).flushTx l.val
    else s

/-- A drop request is not answered within 1 µs (R386). -/
def execDropRequestTimeout (l : Fin 12) (s : State) : Out :=
  .next (if (s.link l.val).dropReq = 0 then s
    else (s.modLink l.val fun k => { k with dropReq := 0 }).startRetrain l.val 2)

/-- Symbol lock is lost on two or more lanes, or software wrote RETRAIN (R386). -/
def execRetrain (l : Fin 12) (s : State) : Out :=
  .next (s.startRetrain l.val (if (s.link l.val).retrain then 3 else 0))

/-- Whether a training result leaves at least 7 lanes each way. -/
def trainOk (r : TrainResult) : Bool :=
  !r.noPeer && decide (7 ≤ laneCount r.tlanes) && decide (7 ≤ laneCount r.rlanes)

/-- Retraining ends (R386): ACTIVE with the replay buffers kept, or FAILED. LNK_CTL.RETRAIN clears (R8). -/
def execRetrainDone (l : Fin 12) (result : TrainResult) (s : State) : Out :=
  .next <|
    if (s.link l.val).state = 5 then
      let s := s.modLink l.val fun k => { k with retrain := false }
      if trainOk result then
        ((s.modLink l.val fun k =>
          { k with state := 2, tlanes := result.tlanes, rlanes := result.rlanes
                   delay := result.delay }).resend l.val).flushTx l.val
      else s.linkFailed l.val
    else s

/-- An enabled link that is OFF starts training (R383). -/
def execLinkTrain (l : Fin 12) (s : State) : Out :=
  .next (if (s.link l.val).en ∧ (s.link l.val).state = 0 then
    s.modLink l.val fun k => { k with state := 1 } else s)

/-- The link side of a finished training (R384). -/
def Link.trained (k : Link) (r : TrainResult) : Link :=
  { k with
    state := if trainOk r then 2 else 6
    tlanes := r.tlanes, rlanes := r.rlanes, short := r.short, opened := r.opened, eqfail := r.eqfail
    delay := r.delay, serial := r.serial, plink := r.plink, txSeq := 0, rxSeq := 0, replay := []
    rxPart := [], tries := 0, nak := false, dropReq := 0, dropTx := false, dropRx := false }

/-- Training ends: ACTIVE or FAILED, and the link's function follows (R383, R523). -/
def execLinkTrainDone (l : Fin 12) (result : TrainResult) (s : State) : Out :=
  .next <|
    if (s.link l.val).state = 1 then
      let s := s.modLink l.val fun k => k.trained result
      let f := s.func (.link l)
      let ok := trainOk result
      let s := if f.state = 1 then
          s.setFunc (.link l) { f with state := if ok then 2 else 0, fault := !ok && !result.noPeer }
        else s
      if ok then s.flushTx l.val else s.linkFailed l.val
    else s

/-- A sleeping link is ACTIVE again (R383). -/
def execLinkWake (l : Fin 12) (s : State) : Out :=
  .next (if (s.link l.val).state = 3 then s.modLink l.val fun k => { k with state := 2 } else s)

/-! ### Receiving (R389 to R393) -/

/-- The flits up to an acknowledged SEQ leave the replay buffer (R391). -/
def Link.ack (k : Link) (a : BitVec 12) : Link :=
  match (upto k.replay.length).find? fun i => (k.replay[i]?).any fun x => decide (x.1 = a) with
  | some i => { k with replay := k.replay.drop (i + 1), tries := 0 }
  | none => k

/-- A flit arrives (R389 to R391): correction is counted, a bad CRC triggers a NAK, ACK and NAK act on the
transmit side, and an in-order flit's items are received. -/
def State.flitIn (s : State) (l : Nat) (f : FlitIn) : State :=
  let s := s.modLink l fun k => { k with fecCorr := satAdd k.fecCorr f.fecCorr.toNat }
  if f.crcOk = false then s.modLink l fun k => { k with nak := true } else
  let h := f.hdr
  let s := s.modLink l fun k => k.ack (field h 12 12)
  let s :=
    if h.getLsbD 24 then
      let s := s.resend l
      let s := s.modLink l fun k => { k with tries := if k.replay.isEmpty then 0 else k.tries + 1 }
      if 16 ≤ (s.link l).tries then s.startRetrain l 1 else s
    else s
  let s :=
    if field h 0 12 = (s.link l).rxSeq then
      let us := (s.link l).rxPart ++ f.payload.take (fieldN h 36 5)
      let (is, rest) := s.takeItems us.length us
      s.modLink l fun k =>
        { k with rxSeq := k.rxSeq + 1, rxPart := rest, rx := k.rx ++ is.filter fun i => i.kind ≤ 12 }
    else s
  let req := fieldN h 41 4
  let s := if 1 ≤ req ∧ req ≤ 8 then s.dropLane l (BitVec.ofNat 3 (req - 1)) false else s
  s.flushTx l

def execFlit (l : Fin 12) (f : FlitIn) (s : State) : Out :=
  if f.payload.length = 29 then
    .next (if (s.link l.val).rxOpen then s.flitIn l.val f else s)
  else .fault .illFormed

/-- Passes an item on that is not for this chip (R393). -/
def State.forward (s : State) (i : Item) : State := s.sendItem i

/-! ### Tick marks and alignment (R399 to R402) -/

/-- Whether this module is a slave of a chain. -/
def State.slave (s : State) : Bool := !s.chain.live.master

/-- The tick-mark item of this module (R401). In a set-up, SETUP = 1 goes on down the tree from a slave that has its
DEPTH (R405). DEDUCED (log entry 90). -/
def State.markItem (s : State) : Item :=
  let t := s.tick
  let next := match t.armed with | some (_, n) => n | none => t.lenNext
  let at_ := match t.armed with | some (a, _) => a | none => t.lenAt
  [itemHdr 7 s.ownChip 0 0 0 true 0 false false, t.no,
   place t.len 0 ||| place next 20 ||| place (bit t.armed.isSome) 40 ||| place s.chain.depth 41 |||
     place (bit (s.chain.setup && (s.chain.live.master || decide (s.chain.depth ≠ 0)))) 53, at_]

/-- The down links of the chain tree, while set-up runs or is done. -/
def State.downLinks (s : State) : List Nat :=
  if s.chain.up || s.chain.setup then (upto 12).filter fun l => s.chain.live.down.getLsbD l else []

/-- The tick mark of a boundary goes out on every down link that is not dropping a lane (R399). -/
def State.sendMarks (s : State) : State :=
  s.downLinks.foldl (fun s l => if (s.link l).txOpen then s.emitItem l s.markItem else s) s

/-- The tick registers take the length fields of a mark (R401). -/
def TickUnit.takeLengths (t : TickUnit) (u2 u3 : Word) : TickUnit :=
  { t with
    len := field u2 0 20, lenNext := field u2 20 20, lenAt := u3
    armed := if u2.getLsbD 40 then some (u3, field u2 20 20) else none }

/-- Chip numbers that appear more than once. -/
def hasDup : List Nat → Bool
  | [] => false
  | x :: l => l.contains x || hasDup l

/-- MINTICK in ns (R407): ceil(2 × (D × 51.143 + F × 8/7) + 1,200). -/
def minTickOf (d f : Nat) : Nat := ceilDiv (2 * (d * 51143 * 7 + f * 8000) + 1200 * 7000) 7000

/-- STATUS_FLITS in force (R412). -/
def State.statusFlits (s : State) : Nat := max 3 s.chain.live.sflits.toNat

/-- The tick master, with every confirmation in, ends the set-up (R405, R407). -/
def State.masterReady (s : State) : State :=
  let c := s.chain
  let downs := (upto 12).filter fun l => c.live.down.getLsbD l
  if c.setup && c.live.master && downs.all (fun l => c.confs.any fun x => decide (x.1 = l)) then
    let d := c.confs.foldl (fun m x => max m x.2.1) 0
    let chips := c.live.chip.toNat :: c.confs.flatMap (·.2.2)
    let mt := minTickOf d s.statusFlits
    if hasDup chips then { s with chain := { c with setup := false, rej := true, reason := 4 } }
    else if s.tick.len.toNat < mt then { s with chain := { c with setup := false, rej := true, reason := 3 } }
    else { s with chain := { c with setup := false, up := true, depth := 0, maxDepth := BitVec.ofNat 12 d
                                    minTick := BitVec.ofNat 20 mt, confs := [] } }
  else s

/-- A slave that has its DEPTH and every confirmation from beneath sends its own up the tree (R405): the largest DEPTH and
the chip numbers, its own first. DEDUCED (log entry 89). -/
def State.slaveConfirm (s : State) : State :=
  let c := s.chain
  let downs := (upto 12).filter fun l => c.live.down.getLsbD l
  if c.setup && !c.live.master && decide (c.depth ≠ 0) && downs.all (fun l => c.confs.any fun x => decide (x.1 = l)) then
    s.send (.confirmation c.live.up.toNat (c.confs.foldl (fun m x => max m x.2.1) c.depth.toNat)
      (c.live.chip.toNat :: c.confs.flatMap (·.2.2)))
  else s

/-- Whether a plan of the module is READY or RUNNING. -/
def State.anyActive (s : State) : Bool :=
  s.plans.any fun (_, p) => decide (p.state = .ready ∨ p.state = .running)

/-- The tree links that a configuration names. -/
def ChainCfg.links (g : ChainCfg) : List Nat :=
  (upto 12).filter fun l => g.down.getLsbD l || decide (g.up.toNat = l)

/-- Chain set-up begins (R405, R412): refused while a plan is READY or RUNNING, or when a named link is
not ACTIVE. The tables written take effect now, and a slave locks anew. -/
def State.chainSetup (s : State) : State :=
  let c := s.chain
  if s.anyActive then { s with chain := { c with rej := true, reason := 1 } }
  else if c.cfg.links.any (fun l => (s.link l).state ≠ 2) ∨ (c.cfg.master = false ∧ c.cfg.up = 0xF) then
    { s with chain := { c with rej := true, reason := 2 } }
  else
    let s := if c.cfg.master then s else
      { s.modLink c.cfg.up.toNat (fun k => { k with good := 0 }) with tick := { s.tick with locked := false } }
    let s := { s with
      ownChip := c.cfg.chip
      chain := { c with live := c.cfg, setup := true, up := false, confs := [], depth := 0, maxDepth := 0
                        minTick := 0 } }
    s.masterReady

def execChainSetup (src : Src) (s : State) : Out := .next (if isVf src then s.deny else s.chainSetup)

/-- The confirmations are not complete within 10 ms (R405). -/
def execSetupTimeout (s : State) : Out :=
  .next (if s.chain.setup then
    { s with chain := { s.chain with setup := false, rej := true, reason := 5 } } else s)

/-- A confirmation comes up a down link: the largest depth and the chip numbers beneath, the far module's first (R405,
R411). -/
def execSetupConfirmation (l : Fin 12) (depth : BitVec 12) (chips : List Nat) (s : State) : Out :=
  .next <|
    if s.chain.setup ∧ s.chain.live.down.getLsbD l.val then
      let rest := s.chain.confs.filter fun x => decide (x.1 ≠ l.val)
      let s := match chips with
        | c :: _ => s.modLink l.val fun k => { k with pchip := BitVec.ofNat 12 c }
        | [] => s
      { s with chain := { s.chain with confs := (l.val, depth.toNat, chips) :: rest } }.masterReady.slaveConfirm
    else s

/-- Rejoin (R408): a slave that lost alignment, its tables unchanged, without plans READY or RUNNING. -/
def State.joinStart (s : State) : State :=
  let c := s.chain
  if s.anyActive then { s with chain := { c with rej := true, reason := 1 } }
  else if c.cfg ≠ c.live ∨ s.slave = false then { s with chain := { c with rej := true, reason := 2 } }
  else { (s.modLink c.live.up.toNat fun k => { k with good := 0 }) with
    chain := { c with join := true, up := false }, tick := { s.tick with locked := false } }

def execJoin (src : Src) (s : State) : Out := .next (if isVf src then s.deny else s.joinStart)

/-- A tick mark arrives on the timing upstream link (R400, R401, R405, R408). A slave that has lost alignment follows
marks again only in a set-up or a rejoin (R45). -/
def execTickMark (l : Fin 12) (mark : Mark) (s : State) : Out :=
  match s.takeRx l.val fun i => decide (i.kind = 7) with
  | none => .next s
  | some (i, s) =>
    if s.slave = false ∨ s.chain.live.up.toNat ≠ l.val ∨ s.tick.alignDue ∨
        (s.chain.up = false ∧ s.chain.setup = false ∧ s.chain.join = false) then .next s else
    let good := if mark.close then (s.link l.val).good + 1 else 0
    let s := s.modLink l.val fun k => { k with good := good }
    let locked := decide (16 ≤ good) || s.tick.locked
    let t := { s.tick.takeLengths (i.unit 2) (i.unit 3) with holdover := false, locked := locked }
    let c := s.chain
    let setupBit := (i.unit 2).getLsbD 53
    if locked = false then .next { s with tick := { s.tick with holdover := false, locked := false } }
    else if c.setup ∧ setupBit ∧ c.depth = 0 then
      let s := s.modLink l.val fun k => { k with pchip := i.src }
      .next { s with tick := { t with no := i.unit 1 }
                     chain := { c with depth := field (i.unit 2) 41 12 + 1 } }.slaveConfirm
    else if c.setup ∧ setupBit = false ∧ c.depth ≠ 0 then
      .next { s with tick := t, chain := { c with setup := false, up := true } }
    else if c.join then
      .next { s with tick := { t with no := i.unit 1, alignLost := false }
                     chain := { c with join := false, up := true, depth := field (i.unit 2) 41 12 + 1 } }
    else .next { s with tick := t }

/-- Marks stop on the upstream link: the slave runs in holdover (R45). -/
def execHoldover (s : State) : Out :=
  .next (if s.slave then { s with tick := { s.tick with holdover := true, locked := false } } else s)

/-- Holdover has lasted longer than 10 ms (R45): at the next boundary every resident plan is suspended. -/
def execAlignLost (us : Nat) (s : State) : Out :=
  .next <|
    if s.tick.holdover then
      let s := { s with tick := { s.tick with alignLost := true, alignDue := true } }
      s.report { blankReport with code := 0x28, unit := 5, d0 := word us, wtn := s.tick.wtn }
    else s

/-! ### Census strobes and barriers (R403, R409) -/

/-- A snapshot boundary is announced. -/
def State.announce (s : State) (b : Word) : State :=
  { s with census := { s.census with due := s.census.due ++ [b], next := b } }

/-- A strobe item. -/
def strobeItem (chip : BitVec 12) (b : Word) : Item := [itemHdr 10 chip 0 0 0 false 0 false false, b]

/-- A census strobe from the tick master goes on down the tree, and its boundary is noted (R409). -/
def execCensusStrobe (l : Fin 12) (s : State) : Out :=
  match s.takeRx l.val fun i => decide (i.kind = 10) with
  | none => .next s
  | some (i, s) =>
    .next (s.downLinks.foldl (fun s d => s.sendOn d i 2) (s.announce (i.unit 1)))

/-- A barrier item (R392). -/
def barrierItem (chip : BitVec 12) (n : Nat) (release : Bool) : Item :=
  [itemHdr 8 chip 0 0 0 true 0 false false, word n ||| place (bit release) 16]

/-- The arrivals of a barrier. -/
def Chain.arrived (c : Chain) (n : Nat) : List Nat :=
  ((c.barriers.find? fun x => decide (x.1 = n)).map (·.2)).getD []

/-- A barrier without its arrivals. -/
def Chain.dropBarrier (c : Chain) (n : Nat) : Chain :=
  { c with barriers := c.barriers.filter fun x => decide (x.1 ≠ n) }

/-- A barrier is released: down every tree link away from the master (R403). -/
def State.releaseBarrier (s : State) (n : Nat) : State :=
  let s := { s with chain := s.chain.dropBarrier n }
  s.downLinks.foldl (fun s d => s.sendOn d (barrierItem s.ownChip n true) 2) s

/-- Someone (a down link, or this module, 12 and the link that its record names) arrives at a barrier; when all
beneath have, it rises on that link to the tick master, which releases it (R403, R568). -/
def State.arriveBarrier (s : State) (n who : Nat) : State :=
  let a := s.chain.arrived n
  let a := if a.contains who then a else a ++ [who]
  let s := { s with chain := { s.chain.dropBarrier n with
    barriers := (s.chain.dropBarrier n).barriers ++ [(n, a)] } }
  match a.find? (fun x => decide (12 ≤ x)), s.downLinks.all a.contains with
  | some own, true => if s.slave then s.sendOn (own - 12) (barrierItem s.ownChip n false) 2 else s.releaseBarrier n
  | _, _ => s

def execBarrier (l : Fin 12) (s : State) : Out :=
  match s.takeRx l.val fun i => decide (i.kind = 8) with
  | none => .next s
  | some (i, s) =>
    let n := fieldN (i.unit 1) 0 16
    .next (if (i.unit 1).getLsbD 16 then s.releaseBarrier n else s.arriveBarrier n l.val)

end Sys2Proof.Machine
end

