-- ==== Sys2Proof/Machine/Vector.lean ====
section
/-!
DEFINITION. Long-vector arithmetic (R167 to R175): every instruction with MAJ 0x08.
-/

namespace Sys2Proof.Machine

/-- VLMAX of an element width (R167). -/
def vlMax (w : Nat) : Nat := 8192 / w

/-- The parcels of a vector arithmetic form (R172), for DETAIL of ILLEGAL. -/
def vArithParcels (op : Nat) (a : VArith) : Nat :=
  0x23 + op * 0x80 + a.type.toNat * 0x4000 + b2n a.m * 0x40000 + a.dtype.toNat * 0x80000 + b2n a.sat * 0x800000

/-- The element type of a vector form (R172). -/
def vaElem (a : VArith) : Elem := elemOf a.type.toNat

/-- A vector arithmetic form: the legality of its fields (R172), the stack check with the mask entry of a
masked form (R170), then its body, which finds the mask (all ones when unmasked) already popped. -/
def vInstr (c : BitVec 12) (op : Nat) (a : VArith) (u : StackUse) (body : State → BitVec 8192 → Res) (s : State) :
    Out :=
  runInstr c 4 (fun s =>
    if !vArithLegal op a then .exc (s.illegal c (vArithParcels op a))
    else withStacks c { u with vPop := u.vPop + b2n a.m } (fun s =>
      if a.m then body (s.dropV c 1) ((s.carrel c).vstack.headD 0)
      else body s (BitVec.allOnes 8192)) s) s

/-- The top `n` vector entries, deepest first, and the state without them. -/
def State.popV (s : State) (c : BitVec 12) (n : Nat) : List (BitVec 8192) × State :=
  (((s.carrel c).vstack.take n).reverse, s.dropV c n)

/-- Element `i` of an entry of width `w` (R167). -/
def velem (w : Nat) (v : BitVec 8192) (i : Nat) : Nat := (v >>> (w * i)).toNat % 2 ^ w

/-- The first `n` elements of an entry. -/
def velems (w : Nat) (v : BitVec 8192) (n : Nat) : List Nat := (upto n).map (velem w v)

/-- An entry from its elements; elements past the list are 0. -/
def ventry (w : Nat) (l : List Nat) : BitVec 8192 := BitVec.ofNat 8192 (fromLanes w l)

/-- The active count of an instruction on elements of width `w` (R169). -/
def Carrel.active (k : Carrel) (w : Nat) : Nat := min k.vl.toNat (vlMax w)

/-- The event of the lowest element that produced a NaN (R174). -/
def firstCause (l : List (Option NanCause)) : Option (Nat × NanCause) :=
  ((l.mapIdx fun i x => x.map fun y => (i, y)).findSome? id)

/-- Reports a vector event (R209). -/
def State.vecNan (s : State) (c : BitVec 12) (e : Option (Nat × NanCause)) : State :=
  match e with
  | some (i, x) => s.coreNan c 1 i (some x)
  | none => s

/-- The elements of a result (R171): active elements by `f`, masked-off elements from `keep`. -/
def vResult (n : Nat) (m : BitVec 8192) (f : Nat → FRes) (keep : Nat → Nat) : List FRes :=
  (upto n).map fun i => if m.getLsbD i then f i else (keep i, none)

/-- An element-wise operation on `k` entries of the form's TYPE. -/
def vMap (c : BitVec 12) (op : Nat) (a : VArith) (k : Nat) (f : List Nat → FRes) (s : State) : Out :=
  vInstr c op a { vPop := k, vPush := 1 } (fun s m =>
    let w := (vaElem a).width
    let n := (s.carrel c).active w
    let (vs, s) := s.popV c k
    let rs := vResult n m (fun i => f (vs.map fun v => velem w v i)) (fun i => velem w (vs.headD 0) i)
    .done ((s.pushVs c [ventry w (rs.map (·.1))]).vecNan c (firstCause (rs.map (·.2))))) s

/-- A stack operation on vector entries: `f` takes the entries deepest first. -/
def vShuffle (c : BitVec 12) (op : Nat) (a : VArith) (k j : Nat)
    (f : List (BitVec 8192) → List (BitVec 8192)) (s : State) : Out :=
  vInstr c op a { vPop := k, vPush := j } (fun s _ =>
    let (vs, s) := s.popV c k
    .done (s.pushVs c (f vs))) s

/-- Entry `i` of a list of entries. -/
def vent (l : List (BitVec 8192)) (i : Nat) : BitVec 8192 := l.getD i 0

/-- VSETL ( n -- vl ) (R168). -/
def execVsetl (c : BitVec 12) (a : VArith) (s : State) : Out :=
  vInstr c 0x00 a { dPop := 1, dPush := 1 } (fun s _ =>
    let (l, s) := s.popD c 1
    let v := min (entN l 0) (vlMax (vaElem a).width)
    .done ((s.modCarrel c fun k => { k with vl := BitVec.ofNat 11 v }).pushD c (word v))) s

/-- VGETL ( -- vl ) (R168). -/
def execVgetl (c : BitVec 12) (a : VArith) (s : State) : Out :=
  vInstr c 0x01 a { dPush := 1 } (fun s _ => .done (s.pushD c ((s.carrel c).vl.setWidth 64))) s

def execVdup (c : BitVec 12) (a : VArith) (s : State) : Out :=
  vShuffle c 0x02 a 1 2 (fun l => [vent l 0, vent l 0]) s
def execVdrop (c : BitVec 12) (a : VArith) (s : State) : Out := vShuffle c 0x03 a 1 0 (fun _ => []) s
def execVswap (c : BitVec 12) (a : VArith) (s : State) : Out :=
  vShuffle c 0x04 a 2 2 (fun l => [vent l 1, vent l 0]) s
def execVover (c : BitVec 12) (a : VArith) (s : State) : Out :=
  vShuffle c 0x05 a 2 3 (fun l => [vent l 0, vent l 1, vent l 0]) s
def execVrot (c : BitVec 12) (a : VArith) (s : State) : Out :=
  vShuffle c 0x06 a 3 3 (fun l => [vent l 1, vent l 2, vent l 0]) s

/-- A two-operand element-wise operation. -/
def vMap2 (c : BitVec 12) (op : Nat) (a : VArith) (f : Elem → Nat → Nat → FRes) (s : State) : Out :=
  vMap c op a 2 (fun l => f (vaElem a) (arg l 0) (arg l 1)) s

def execVadd (c : BitVec 12) (a : VArith) (s : State) : Out := vMap2 c 0x08 a Elem.add s
def execVsub (c : BitVec 12) (a : VArith) (s : State) : Out := vMap2 c 0x09 a Elem.sub s
def execVmul (c : BitVec 12) (a : VArith) (s : State) : Out := vMap2 c 0x0A a Elem.mul s
def execVfma (c : BitVec 12) (a : VArith) (s : State) : Out :=
  vMap c 0x0B a 3 (fun l => (vaElem a).fma (arg l 0) (arg l 1) (arg l 2)) s
def execVmin (c : BitVec 12) (a : VArith) (s : State) : Out := vMap2 c 0x0C a Elem.min s
def execVmax (c : BitVec 12) (a : VArith) (s : State) : Out := vMap2 c 0x0D a Elem.max s

/-- The floating format of a form whose TYPE is one. -/
def vaFmt (a : VArith) : Fmt := match (vaElem a) with | .fp f => f | .int _ => .f64

def execVdiv (c : BitVec 12) (a : VArith) (s : State) : Out :=
  vMap c 0x0E a 2 (fun l => (vaFmt a).divOp (arg l 0) (arg l 1)) s
def execVsqrt (c : BitVec 12) (a : VArith) (s : State) : Out :=
  vMap c 0x0F a 1 (fun l => (vaFmt a).sqrtOp (arg l 0)) s
def execVneg (c : BitVec 12) (a : VArith) (s : State) : Out :=
  vMap c 0x10 a 1 (fun l => match (vaElem a) with
    | .int w => ((2 ^ w - arg l 0) % 2 ^ w, none)
    | .fp f => (f.negOp (arg l 0), none)) s
def execVabs (c : BitVec 12) (a : VArith) (s : State) : Out :=
  vMap c 0x11 a 1 (fun l => match (vaElem a) with
    | .int w => ((sInt w (arg l 0)).natAbs % 2 ^ w, none)
    | .fp f => (f.absOp (arg l 0), none)) s
def execVand (c : BitVec 12) (a : VArith) (s : State) : Out :=
  vMap c 0x12 a 2 (fun l => (arg l 0 &&& arg l 1, none)) s
def execVor (c : BitVec 12) (a : VArith) (s : State) : Out :=
  vMap c 0x13 a 2 (fun l => (arg l 0 ||| arg l 1, none)) s
def execVxor (c : BitVec 12) (a : VArith) (s : State) : Out :=
  vMap c 0x14 a 2 (fun l => (arg l 0 ^^^ arg l 1, none)) s

/-- A shift of every element by the popped n mod w (R173). -/
def vShift (c : BitVec 12) (op : Nat) (a : VArith) (f : Nat → Nat → Nat → Nat) (s : State) : Out :=
  vInstr c op a { dPop := 1, vPop := 1, vPush := 1 } (fun s m =>
    let w := (vaElem a).width
    let n := (s.carrel c).active w
    let (l, s) := s.popD c 1
    let (vs, s) := s.popV c 1
    let rs := vResult n m (fun i => (f w (velem w (vent vs 0) i) (entN l 0 % w), none)) (velem w (vent vs 0))
    .done (s.pushVs c [ventry w (rs.map (·.1))])) s

def execVshl (c : BitVec 12) (a : VArith) (s : State) : Out := vShift c 0x15 a shlElem s
def execVshr (c : BitVec 12) (a : VArith) (s : State) : Out := vShift c 0x16 a shrElem s
def execVsar (c : BitVec 12) (a : VArith) (s : State) : Out := vShift c 0x17 a sarElem s

/-- A compare: bit i of the mask result for active elements, every other bit 0 (R171, R173). -/
def vCompare (c : BitVec 12) (op : Nat) (a : VArith) (f : Elem → Nat → Nat → Bool) (s : State) : Out :=
  vInstr c op a { vPop := 2, vPush := 1 } (fun s m =>
    let w := (vaElem a).width
    let n := (s.carrel c).active w
    let (vs, s) := s.popV c 2
    let bits := (upto n).map fun i =>
      b2n (m.getLsbD i && f (vaElem a) (velem w (vent vs 0) i) (velem w (vent vs 1) i))
    .done (s.pushVs c [ventry 1 bits])) s

def execVcmpeq (c : BitVec 12) (a : VArith) (s : State) : Out := vCompare c 0x18 a Elem.eq s
def execVcmplt (c : BitVec 12) (a : VArith) (s : State) : Out := vCompare c 0x19 a Elem.lt s
def execVcmple (c : BitVec 12) (a : VArith) (s : State) : Out := vCompare c 0x1A a Elem.le s

/-- VSEL: element i = vb where bit i of vm is 1, else va (R173). -/
def execVsel (c : BitVec 12) (a : VArith) (s : State) : Out :=
  vInstr c 0x1B a { vPop := 3, vPush := 1 } (fun s _ =>
    let w := (vaElem a).width
    let n := (s.carrel c).active w
    let (vs, s) := s.popV c 3
    .done (s.pushVs c [ventry w ((upto n).map fun i =>
      if (vent vs 2).getLsbD i then velem w (vent vs 1) i else velem w (vent vs 0) i)])) s

/-- VBCAST ( x -- ): the low w bits of x in every active element, 0 elsewhere (R171). -/
def execVbcast (c : BitVec 12) (a : VArith) (s : State) : Out :=
  vInstr c 0x1C a { dPop := 1, vPush := 1 } (fun s m =>
    let w := (vaElem a).width
    let n := (s.carrel c).active w
    let (l, s) := s.popD c 1
    let rs := vResult n m (fun _ => (entN l 0 % 2 ^ w, none)) (fun _ => 0)
    .done (s.pushVs c [ventry w (rs.map (·.1))])) s

/-- VIOTA: element i = i, modulo 2^w. -/
def execViota (c : BitVec 12) (a : VArith) (s : State) : Out :=
  vInstr c 0x1D a { vPush := 1 } (fun s m =>
    let w := (vaElem a).width
    let n := (s.carrel c).active w
    let rs := vResult n m (fun i => (i % 2 ^ w, none)) (fun _ => 0)
    .done (s.pushVs c [ventry w (rs.map (·.1))])) s

/-- VEXT ( i -- x ): element i mod VLMAX; integers sign-extend (R173). -/
def execVext (c : BitVec 12) (a : VArith) (s : State) : Out :=
  vInstr c 0x1E a { dPop := 1, dPush := 1, vPop := 1, vPush := 1 } (fun s _ =>
    let w := (vaElem a).width
    let (l, s) := s.popD c 1
    let x := velem w ((s.carrel c).vstack.headD 0) (entN l 0 % vlMax w)
    .done (s.pushD c (match (vaElem a) with
      | .int w => sext w (word x)
      | .fp _ => word x))) s

/-- VINS ( x i -- ): element i mod VLMAX replaced, every other element kept (R173). -/
def execVins (c : BitVec 12) (a : VArith) (s : State) : Out :=
  vInstr c 0x1F a { dPop := 2, vPop := 1, vPush := 1 } (fun s _ =>
    let w := (vaElem a).width
    let (l, s) := s.popD c 2
    let (vs, s) := s.popV c 1
    let es := velems w (vent vs 0) (vlMax w)
    .done (s.pushVs c [ventry w (listSet es (entN l 0 % vlMax w) (entN l 1 % 2 ^ w))])) s

/-- The value of an element as a number to convert (R174). -/
def Elem.num (e : Elem) (x : Nat) : Num :=
  match e with
  | .int w => intNum w 0 x
  | .fp f => f.decode x

/-- Conversion of a value to an element type, to nearest even (R174, R197). -/
def Elem.conv (e : Elem) (sat : Bool) (v : Val) : FRes :=
  match e with
  | .int w => ((toIntCode w (-(2 ^ (w - 1))) (2 ^ (w - 1) - 1) 0 0 .rne v).bits, none)
  | .fp f =>
    let r := f.convert sat .rne v
    (r.bits, r.event)

/-- VCVT: masked-off elements hold 0 (R171); N is limited by both widths (R169). -/
def execVcvt (c : BitVec 12) (a : VArith) (s : State) : Out :=
  vInstr c 0x20 a { vPop := 1, vPush := 1 } (fun s m =>
    let dst := elemOf a.dtype.toNat
    let n := min ((s.carrel c).active (vaElem a).width) (vlMax dst.width)
    let (vs, s) := s.popV c 1
    let rs := vResult n m
      (fun i => dst.conv a.sat ((vaElem a).num (velem (vaElem a).width (vent vs 0) i)).toVal) (fun _ => 0)
    .done ((s.pushVs c [ventry dst.width (rs.map (·.1))]).vecNan c (firstCause (rs.map (·.2))))) s

/-! ### Reductions (R175) -/

/-- A position of the tree: its value and the lowest active index beneath it, or empty. -/
abbrev Node := Option (Nat × Nat)

/-- Combines two positions; a NaN produced is recorded under the lowest index beneath (R175). -/
def nodeCombine (f : Nat → Nat → FRes) (x y : Node) : Node × Option (Nat × NanCause) :=
  match x, y with
  | some (a, i), some (b, j) =>
    let r := f a b
    (some (r.1, min i j), r.2.map fun z => (min i j, z))
  | none, y => (y, none)
  | x, none => (x, none)

/-- The event of the lower element index. -/
def lowEvent (a b : Option (Nat × NanCause)) : Option (Nat × NanCause) :=
  match a, b with
  | none, x => x
  | x, none => x
  | some (i, x), some (j, y) => if j < i then some (j, y) else some (i, x)

/-- One level of the tree. -/
def nodeLevel (f : Nat → Nat → FRes) : List Node → List Node × Option (Nat × NanCause)
  | x :: y :: l =>
    let (z, e) := nodeCombine f x y
    let (rest, e') := nodeLevel f l
    (z :: rest, lowEvent e e')
  | l => (l, none)

/-- The tree over 2^k positions. -/
def nodeTree (f : Nat → Nat → FRes) : Nat → List Node → Node × Option (Nat × NanCause)
  | 0, l => (l.headD none, none)
  | k + 1, l =>
    let (l', e) := nodeLevel f l
    let (r, e') := nodeTree f k l'
    (r, lowEvent e e')

/-- The smallest k with 2^k ≥ n. -/
def ceilLog2 (n : Nat) : Nat := if n ≤ 1 then 0 else (n - 1).log2 + 1

/-- A reduction ( -- x ) V:( va -- ): `f` on codes in the tree's own width, `prep` an element's code
there, `empty` the result of no active element, `post` the entry pushed. -/
def vReduce (c : BitVec 12) (op : Nat) (a : VArith) (prep : Nat → Nat) (f : Nat → Nat → FRes) (empty : Nat)
    (s : State) : Out :=
  vInstr c op a { dPush := 1, vPop := 1 } (fun s m =>
    let w := (vaElem a).width
    let n := (s.carrel c).active w
    let (vs, s) := s.popV c 1
    let k := ceilLog2 n
    let l : List Node := (upto (2 ^ k)).map fun i =>
      if i < n ∧ m.getLsbD i then some (prep (velem w (vent vs 0) i), i) else none
    let (r, e) := nodeTree f k l
    .done ((s.pushD c (word (match r with | some (x, _) => x | none => empty))).vecNan c e)) s

/-- An integer element sign-extended to 64 bits. -/
def ext64 (w x : Nat) : Nat := (sext w (word x)).toNat

def execVredAdd (c : BitVec 12) (a : VArith) (s : State) : Out :=
  match (vaElem a) with
  | .int w => vReduce c 0x21 a (ext64 w) (Elem.int 64).add 0 s
  | .fp f => vReduce c 0x21 a id f.addOp 0 s

def execVredMin (c : BitVec 12) (a : VArith) (s : State) : Out :=
  match (vaElem a) with
  | .int w => vReduce c 0x22 a (ext64 w) (Elem.int 64).min (2 ^ (w - 1) - 1) s
  | .fp f => vReduce c 0x22 a id (Elem.fp f).min f.infCode s

def execVredMax (c : BitVec 12) (a : VArith) (s : State) : Out :=
  match (vaElem a) with
  | .int w => vReduce c 0x23 a (ext64 w) (Elem.int 64).max (2 ^ 64 - 2 ^ (w - 1)) s
  | .fp f => vReduce c 0x23 a id (Elem.fp f).max (f.signBit true + f.infCode) s

/-- VMCNT ( -- n ): the 1 bits among bits [VL − 1:0]; the entry stays (R173). -/
def execVmcnt (c : BitVec 12) (a : VArith) (s : State) : Out :=
  vInstr c 0x24 a { dPush := 1, vPop := 1, vPush := 1 } (fun s _ =>
    let v := (s.carrel c).vstack.headD 0
    .done (s.pushD c (word (((upto (s.carrel c).vl.toNat).filter fun i => v.getLsbD i).length)))) s

end Sys2Proof.Machine
end

