-- ==== Sys2Proof/Machine/VecMem.lean ====
section
/-!
DEFINITION. Long-vector memory instructions (R176 to R184): every instruction with MAJ 0x07.
-/

namespace Sys2Proof.Machine

/-- The parcels of a vector memory form (R176), for DETAIL of ILLEGAL. -/
def vMemParcels (op : Nat) (a : VMem) : Nat :=
  0x1F + op * 0x80 + a.ew.toNat * 0x1000 + b2n a.m * 0x4000 + b2n a.iw * 0x8000 + a.sc.toNat * 0x10000 +
    a.at_.toNat * 0x40000

/-- Element width in bytes. -/
def vmBytes (a : VMem) : Nat := 2 ^ a.ew.toNat

/-- Fields per record: 2, 3 or 4 for the structure forms, else 1 (R177). -/
def vmFields (op : Nat) : Nat :=
  match op with
  | 0x07 | 0x0A => 2 | 0x08 | 0x0B => 3 | 0x09 | 0x0C => 4 | _ => 1

/-- Whether a form loads. -/
def vmLoads (op : Nat) : Bool := op = 0 || op = 2 || op = 4 || op = 7 || op = 8 || op = 9

/-- Whether a form indexes. -/
def vmIndexed (op : Nat) : Bool := op = 4 || op = 5 || op = 6

/-- Vector operands popped beside the mask: data entries, then the index entry (R177). -/
def vmPops (op : Nat) : Nat := (if vmLoads op then 0 else vmFields op) + b2n (vmIndexed op)

/-- What a form needs of the stacks (R77, R177). -/
def vmUse (op : Nat) (a : VMem) : StackUse :=
  { dPop := if op = 2 ∨ op = 3 then 2 else 1
    vPop := vmPops op + b2n a.m, vPush := if vmLoads op then vmFields op else 0 }

/-- The vector operands, deepest first, without the mask; and the mask, all ones when unmasked. -/
def Carrel.vmOperands (k : Carrel) (op : Nat) (a : VMem) : List (BitVec 8192) × BitVec 8192 :=
  let l := (k.vstack.take (vmPops op + b2n a.m)).reverse
  if a.m then (l.dropLast, l.getLastD 0) else (l, BitVec.allOnes 8192)

/-- The active count: limited by the widths of the element and of the index (R169, R178). -/
def Carrel.vmActive (k : Carrel) (op : Nat) (a : VMem) : Nat :=
  let n := k.active (8 * vmBytes a)
  if vmIndexed op then min n (vlMax (if a.iw then 64 else 32)) else n

/-- The address of a record (R177); `base` is a, `stride` the entry above it. -/
def vmAddr (op : Nat) (a : VMem) (base stride : Word) (idx : BitVec 8192) (i : Nat) : Word :=
  let w := vmBytes a
  if op = 2 ∨ op = 3 then base + word i * stride
  else if vmIndexed op then
    let iw := if a.iw then 64 else 32
    base + sext iw (word (velem iw idx i)) * word (2 ^ a.sc.toNat)
  else base + word (i * vmFields op * w)

/-- The active records of an instruction with their addresses. -/
def State.vmRecords (s : State) (c : BitVec 12) (op : Nat) (a : VMem) : List (Nat × Word) :=
  let k := s.carrel c
  let strided := decide (op = 2 ∨ op = 3)
  let base := if strided then s.peekD c 1 else s.peekD c 0
  let stride := if strided then s.peekD c 0 else 0
  let (ops, m) := k.vmOperands op a
  let idx := if vmIndexed op then ops.getLastD 0 else 0
  ((upto (k.vmActive op a)).filter fun i => m.getLsbD i).map fun i => (i, vmAddr op a base stride idx i)

/-- Whether every element of a form lies at one address: VLDS and VSTS with stride 0 (R178). -/
def State.vmOne (s : State) (c : BitVec 12) (op : Nat) : Bool := decide (op = 2 ∨ op = 3) && decide (s.peekD c 0 = 0)

/-- The records that move data: a load with stride 0 reads the element once, a store with stride 0 writes only the
highest-index active element (R178). -/
def State.vmMoved (s : State) (c : BitVec 12) (op : Nat) (a : VMem) : List (Nat × Word) :=
  let l := s.vmRecords c op a
  if s.vmOne c op then (if vmLoads op then l.take 1 else l.drop (l.length - 1)) else l

/-- The rights a form needs (R181, R368). -/
def vmRights (op : Nat) : Rights := if vmLoads op then 1 else if op = 6 then 10 else 2

/-- DETAIL with the element index (R182). -/
def withElem (e : Exc) (i : Nat) : Exc := { e with detail := e.detail ||| word (i * 65536) }

/-- Whether a device register block is one that R36 leaves reserved: its registers read 0 and ignore every write,
narrow ones too (R7, R37). -/
def reservedBlock (b : Nat) : Bool := decide (44 ≤ b)

/-- The UNMAPPED checks of one byte after translation: a populated local address, the regions that VSCTA
leaves out, and the whole-register rule of a store to a local device register of an assigned block (R7, R37,
R181). `first` is the field's address and `w` its width. -/
def State.vmUnmapped (s : State) (op : Nat) (pa : Nat) (first w : Nat) : Bool :=
  let r := regionOf (localOf pa)
  (s.isLocal pa && !s.populated pa) ||
    (decide (op = 6) && (match r with | .hbm => false | .shelf _ _ => false | .hole => false | _ => true)) ||
    (!vmLoads op && s.isLocal pa && (match r with
      | .regs b _ => !reservedBlock b && (decide (w ≠ 8) || decide (first % 8 ≠ 0))
      | _ => false))

/-- What the checks of one record come to. -/
inductive RecCheck where
  | ok
  | miss (seg : BitVec 4)
  | exc (e : Exc)
  deriving DecidableEq, Repr

/-- The checks of one record in the order of R144: alignment for VSCTA, then SEG, then UNMAPPED; each
names the first byte that fails (R181, R182). -/
def State.vmCheck (s : State) (c : BitVec 12) (op : Nat) (a : VMem) (i : Nat) (va : Word) : RecCheck :=
  let w := vmBytes a
  let n := w * vmFields op
  if op = 6 ∧ va.toNat % w ≠ 0 then
    .exc (withElem { code := 0x05, detail := word (b2n (decide (w = 8))), faddr := some va } i)
  else
    let accs := (upto n).map fun j => (j, s.access c 2 (va + word j) 1 (vmRights op))
    match accs.findSome? fun (_, x) => match x with | .miss seg => some seg | _ => none with
    | some seg => .miss seg
    | none =>
      match accs.findSome? fun (_, x) => match x with | .exc e => some e | _ => none with
      | some e => .exc (withElem e i)
      | none =>
        let bad := accs.find? fun (j, x) => match x with
          | .ok pa _ => s.vmUnmapped op pa (va.toNat + j / w * w) w
          | _ => false
        match bad with
        | some (j, _) => .exc (withElem (unmappedExc (va + word j)) i)
        | none => .ok

/-- The checks of all records in element order: the first that does not pass decides (R182). -/
def State.vmChecks (s : State) (c : BitVec 12) (op : Nat) (a : VMem) : List (Nat × Word) → RecCheck
  | [] => .ok
  | (i, va) :: l =>
    match s.vmCheck c op a i va with
    | .ok => s.vmChecks c op a l
    | x => x

/-- The accesses of one record, cut at 64 B boundaries, with the bytes a store writes. Its checks have passed. -/
def State.vmSplit (s : State) (c : BitVec 12) (op : Nat) (i : Nat) (va : Word) (n : Nat) (bytes : List Byte) :
    List VecAcc :=
  (halvesOf va n).filterMap fun (o, m) =>
    match s.access c 2 (va + word o) m (vmRights op) with
    | .ok pa part => some { elem := i, va := va + word o, pa := pa, n := m, part := part, bytes := slice bytes o m }
    | _ => none

/-- All accesses of an instruction whose checks have passed. -/
def State.vmAccs (s : State) (c : BitVec 12) (op : Nat) (a : VMem) : List VecAcc :=
  let w := vmBytes a
  let nf := vmFields op
  let (ops, _) := (s.carrel c).vmOperands op a
  (s.vmMoved c op a).flatMap fun (i, va) =>
    let field (f : Nat) := if vmLoads op then [] else natToBytes w (velem (8 * w) (ops.getD f 0) i)
    (upto nf).flatMap fun f => s.vmSplit c op i (va + word (f * w)) w (field f)

/-- The adds of VSCTA by the carrel itself, in its own shelf (R179): the code, the cause of a NaN, and
whether an FX64 add saturated. -/
def atAdd (at_ : BitVec 3) (x y : Nat) : FRes × Bool :=
  match at_.toNat with
  | 0 => (((x + y) % 2 ^ 32, none), false)
  | 1 => (((x + y) % 2 ^ 64, none), false)
  | 2 => (Fmt.f32.addOp x y, false)
  | 3 => (Fmt.f64.addOp x y, false)
  | _ => let (r, b) := fxAdd x y; ((r, none), b)

/-- The adder's operation code for VSCTA's AT (R392). -/
def atOp (at_ : BitVec 3) : BitVec 4 :=
  match at_.toNat with | 0 => 0 | 1 => 3 | 2 => 6 | 3 => 7 | _ => 8

/-- The carrel that makes an add of VSCTA in a shelf: its owner (R179). -/
def shelfOwner (c : BitVec 12) (pa : Nat) : BitVec 12 :=
  match regionOf (localOf pa) with
  | .shelf d _ => BitVec.ofNat 12 d
  | _ => c

/-- One add of VSCTA at a local address: by the memory-side adder in HBM, else by the shelf's owner, which reports
an FX64 add that saturates (R179). An add to a lost word is not made (R342). The cause of a NaN that the
carrel itself produces in its own shelf comes with the state. -/
def State.vmAdd (s : State) (c : BitVec 12) (a : VMem) (x : VecAcc) : Option NanCause × State :=
  let y := bytesToNat x.bytes
  let la := localOf x.pa
  if s.lostIn la x.n then (none, s)
  else if isHbm x.pa then (none, (s.hbmOper la (atOp a.at_) (decide (x.n = 8)) (word y) 0).2)
  else
    let ((r, cause), sat) := atAdd a.at_ (s.le la x.n) y
    let s := s.setLe la x.n r
    (if s.ownMem c x.pa then cause else none,
     if sat then s.report { s.carrelReport (shelfOwner c x.pa) 0x38 0 with addr := word x.pa } else s)

/-- The adds of VSCTA in element order; one event for the first NaN that the carrel produces (R174, R179, R209). -/
def State.vmAdds (s : State) (c : BitVec 12) (a : VMem) (accs : List VecAcc) : State :=
  let r := accs.foldl (fun (r : Option (Nat × NanCause) × State) x =>
    let (cause, t) := r.2.vmAdd c a x
    (r.1.orElse fun _ => cause.map fun y => (x.elem, y), t)) (none, s)
  match r.1 with
  | some (i, y) => r.2.coreNan c 1 i (some y)
  | none => r.2

/-- Completes a vector memory instruction: operands leave, the entries of a load come (R171, R177). -/
def State.vmFinish (s : State) (c : BitVec 12) (op : Nat) (a : VMem) (accs : List VecAcc) : State :=
  let w := vmBytes a
  let nf := vmFields op
  let one := s.vmOne c op
  let act := (s.vmRecords c op a).map (·.1)
  let s := s.modCarrel c fun k => { k with wait := .none }
  let (_, s) := s.popD c (vmUse op a).dPop
  let n := (s.carrel c).vmActive op a
  let s := s.dropV c (vmUse op a).vPop
  let s :=
    if vmLoads op then
      s.pushVs c ((upto nf).map fun f => ventry (8 * w) ((upto n).map fun i =>
        if one && !act.contains i then 0
        else leAt ((accs.filter fun x => one || decide (x.elem = i)).flatMap (·.bytes)) (f * w) w))
    else s
  s.retire c 4

/-- The D-cache lines of the blocks that a store writes outside the carrel's own memory go (R180). -/
def State.vmInvalidate (s : State) (c : BitVec 12) (accs : List VecAcc) : State :=
  accs.foldl (fun s x =>
    if isHbm x.pa then s.modCarrel c fun k => k.dInvalidate x.pa else s) s

/-- The writes and adds of a vector store in the carrel's own shelf and ledger, in element order (R178, R179). A
part of a lost word is not written. -/
def State.vmWrites (s : State) (c : BitVec 12) (op : Nat) (a : VMem) (accs : List VecAcc) : State :=
  if op = 6 then s.vmAdds c a accs
  else accs.foldl (fun s x => if s.lostPart (localOf x.pa) x.n then s else s.store (localOf x.pa) x.bytes) s

/-- Whether an element crosses a 64 B boundary: it has more than one access in a row (R186). -/
def crosses (accs : List VecAcc) (x : VecAcc) : Bool :=
  accs.any fun y => decide (y.elem = x.elem) && (decide (y.va + word y.n = x.va) || decide (x.va + word x.n = y.va)) &&
    decide (y.pa / 64 ≠ x.pa / 64)

/-- The mesh requests of an instruction's accesses (R186): one per 64 B block for the unit-stride and structure
forms, one per add of VSCTA, else one per run of consecutive elements in one block, each half of an element
that crosses a boundary on its own. -/
def vmRequests (op : Nat) (accs : List VecAcc) : List (List VecAcc) :=
  if op = 6 then accs.map ([·])
  else if op = 0 ∨ op = 1 ∨ 7 ≤ op then
    (accs.map fun x => x.pa / 64).eraseDups.map fun b => accs.filter fun x => decide (x.pa / 64 = b)
  else accs.foldr (fun x l => match l with
    | (y :: g) :: r =>
      if x.pa / 64 = y.pa / 64 ∧ !crosses accs x ∧ !crosses accs y then (x :: y :: g) :: r else [x] :: (y :: g) :: r
    | l => [x] :: l) []

/-- The bytes of a request of a vector store, as the entry of a block: a later element wins (R178). -/
def vmEntry (g : List VecAcc) : MergeEntry :=
  g.foldl (fun (e : MergeEntry) y => e.write (y.pa % 64) y.bytes)
    { block := (g.headD { elem := 0, va := 0, pa := 0, n := 0, part := 0, bytes := [] }).pa / 64, bytes := []
      mergeable := true, issued := true, part := 0, retried := false, acked := false }

/-- One request of a vector instruction to another chip (R186, R392). -/
def State.vmSend (s : State) (c : BitVec 12) (op : Nat) (a : VMem) (g : List VecAcc) : State :=
  match g with
  | [] => s
  | x :: _ =>
    if vmLoads op then s.sendRead c x.pa x.part
    else if op = 6 then
      s.sendRequest (.carrel c) 2 x.pa x.part true (atOp a.at_) false (decide (x.n = 8)) [word (bytesToNat x.bytes)]
    else
      let e := vmEntry g
      s.sendRequest (.carrel c) 1 (e.block * 64) x.part true 0 false false e.linkWords

/-- Moves the data of an instruction whose checks have passed and for which the buffer is drained: at once
where everything lies in the carrel's own shelf and ledger, otherwise when the mesh has answered. -/
def State.vmMove (s : State) (c : BitVec 12) (op : Nat) (a : VMem) (accs : List VecAcc) : State :=
  if accs.all (fun x => s.ownMem c x.pa) then
    if vmLoads op then
      s.vmFinish c op a (accs.map fun x => { x with bytes := s.bytes (localOf x.pa) x.n })
    else (s.vmWrites c op a accs).vmFinish c op a []
  else
    let s := (vmRequests op (accs.filter fun x => !s.isLocal x.pa)).foldl (fun s g => s.vmSend c op a g) s
    let w : Wait := if vmLoads op then .vecLoad (BitVec.ofNat 5 op) a accs else .vecAck (BitVec.ofNat 5 op) a accs
    s.modCarrel c fun k => { k with wait := w }

/-- A vector memory instruction (R176 to R183): field legality, the stack check, the checks of every
active element, the wait for the merging buffer (R180), then the data. -/
def vmInstr (c : BitVec 12) (op : Nat) (a : VMem) (s : State) : Out :=
  runInstr c 4 (fun s =>
    if !vMemLegal op a then .exc (s.illegal c (vMemParcels op a))
    else withStacks c (vmUse op a) (fun s =>
      match s.vmChecks c op a (s.vmRecords c op a) with
      | .miss seg => .hold (s.missWait c 2 seg)
      | .exc e => .exc e
      | .ok =>
        let accs := s.vmAccs c op a
        if (s.carrel c).dcInit && accs.any (fun x => isHbm x.pa) then .hold s
        else if accs.any (fun x => !s.ownMem c x.pa) && !(s.carrel c).mb.isEmpty then
          .hold ((s.drainAll c).modCarrel c fun k => { k with wait := .vecDrain (BitVec.ofNat 5 op) a accs })
        else .jump (s.vmMove c op a accs)) s) s

def execVld (c : BitVec 12) (a : VMem) (s : State) : Out := vmInstr c 0x00 a s
def execVst (c : BitVec 12) (a : VMem) (s : State) : Out := vmInstr c 0x01 a s
def execVlds (c : BitVec 12) (a : VMem) (s : State) : Out := vmInstr c 0x02 a s
def execVsts (c : BitVec 12) (a : VMem) (s : State) : Out := vmInstr c 0x03 a s
def execVgth (c : BitVec 12) (a : VMem) (s : State) : Out := vmInstr c 0x04 a s
def execVsct (c : BitVec 12) (a : VMem) (s : State) : Out := vmInstr c 0x05 a s
def execVscta (c : BitVec 12) (a : VMem) (s : State) : Out := vmInstr c 0x06 a s
def execVld2 (c : BitVec 12) (a : VMem) (s : State) : Out := vmInstr c 0x07 a s
def execVld3 (c : BitVec 12) (a : VMem) (s : State) : Out := vmInstr c 0x08 a s
def execVld4 (c : BitVec 12) (a : VMem) (s : State) : Out := vmInstr c 0x09 a s
def execVst2 (c : BitVec 12) (a : VMem) (s : State) : Out := vmInstr c 0x0A a s
def execVst3 (c : BitVec 12) (a : VMem) (s : State) : Out := vmInstr c 0x0B a s
def execVst4 (c : BitVec 12) (a : VMem) (s : State) : Out := vmInstr c 0x0C a s

end Sys2Proof.Machine
end

