-- ==== Sys2Proof/Machine/Sync.lean ====
section
/-!
DEFINITION. Issuing engine descriptors and waiting for them; phases, barriers and the end of a plan tick
(R105 to R107, R134, R164, R211, R216, R231, R232).
-/

namespace Sys2Proof.Machine

/-- The plan of a carrel. -/
def State.planOf (s : State) (c : BitVec 12) : Option (Nat × Plan) :=
  (s.carrel c).plan.bind fun i => (s.plan i.toNat).map fun p => (i.toNat, p)

/-- The descriptors of a carrel's list in the current plan tick and phase: lists 0–3 MLD MSTR MRD MCLR, 4
element engine, 5 row engine, 6 + ch mover. -/
def State.phaseList (s : State) (c : BitVec 12) (q : Nat) : List (List Byte) :=
  match s.planOf c with
  | some (_, p) => Tab.get [] p.img.lists (listKey c.toNat q p.k (s.carrel c).wd.phase.toNat)
  | none => []

/-- The engine that runs a list: 0 array, 4 element, 5 row, 6 + ch mover. -/
def engineOf (q : Nat) : Nat := if q < 4 then 0 else q

/-- Unfinished descriptors that a carrel has issued to an engine. -/
def Carrel.unfinished (k : Carrel) (eng : Nat) : List Issued := Tab.get [] k.queue eng

/-- Whether a descriptor takes a parameter word, and the largest it allows (R233, R234, R274, R280, R281,
R316). -/
def paramOf (q : Nat) (d : List Byte) : Option Nat :=
  if q < 4 then (if (leAt d 0x06 1).testBit 6 then some (leAt d 0x20 2) else none)
  else if q = 4 then (if (leAt d 0x05 1).testBit 0 then some (leAt d 0x0C 2) else none)
  else if q = 5 then (if (leAt d 0x05 1).testBit 6 then some (leAt d 0x24 2) else none)
  else (if (leAt d 0x05 1).testBit 0 then some (leAt d 0x80 2) else none)

/-- The plan-order fault (R106, R142). -/
def planOrder (n : Nat) : Exc := { code := 0x07, detail := word n }

/-- Issues `n` descriptors of a list (R105). -/
def Carrel.issueList (k : Carrel) (q : Nat) (l : List (List Byte)) (n : Nat) (param : Option Word) : Carrel :=
  let i := Tab.get 0 k.next q
  let new := (upto n).map fun j =>
    { queue := q, idx := i + j, desc := l.getD (i + j) [], param := if j = 0 then param else none
      started := false : Issued }
  { k with next := Tab.set 0 k.next q (i + n)
           queue := Tab.set [] k.queue (engineOf q) (k.unfinished (engineOf q) ++ new) }

/-- The checks of R106 for an issue, in their order. -/
def State.issueCheck (s : State) (c : BitVec 12) (q n : Nat) (param : Option Word) : Option Nat :=
  let l := s.phaseList c q
  let i := Tab.get 0 (s.carrel c).next q
  if l.length < i + n then some 1
  else match param with
    | none => none
    | some x => match paramOf q (l.getD i []) with
      | none => some 2
      | some m => if m < x.toNat ∨ (q = 5 ∧ x = 0) then some 3 else none

/-- Issues as many of `n` descriptors as the queue of 16 has room for; the rest wait for entries to free
(R105, R232; DESIGN CHOICE, log entry 70). The `pops` operands leave when the last has been issued. -/
def State.issueSome (s : State) (c : BitVec 12) (q n pops : Nat) (param : Option Word) : State :=
  let k := s.carrel c
  let m := min n (16 - (k.unfinished (engineOf q)).length)
  let k := if m = 0 then k else k.issueList q (s.phaseList c q) m param
  if m = n then ((s.setCarrel c { k with wait := .none }).popD c pops).2.retire c 4
  else s.setCarrel c { k with wait := .issue q (n - m) pops (if m = 0 then param else none) }

/-- An issue form (R105, R232): the checks of R106, then the descriptors enter the queue. -/
def issueForm (c : BitVec 12) (q : Nat) (n : BitVec 4) (p : Bool) (s : State) : Out :=
  let cnt := n.toNat + 1
  runInstr c 4 (withStacks c { dPop := b2n p } fun s =>
    let param := if p then some (s.peekD c 0) else none
    match s.issueCheck c q cnt param with
    | some x => .exc (planOrder x)
    | none => .jump (s.issueSome c q cnt (b2n p) param)) s

def execMld (c : BitVec 12) (n : BitVec 4) (p : Bool) (s : State) : Out := issueForm c 0 n p s
def execMstr (c : BitVec 12) (n : BitVec 4) (p : Bool) (s : State) : Out := issueForm c 1 n p s
def execMrd (c : BitVec 12) (n : BitVec 4) (p : Bool) (s : State) : Out := issueForm c 2 n p s
def execMclr (c : BitVec 12) (n : BitVec 4) (p : Bool) (s : State) : Out := issueForm c 3 n p s
def execEdq (c : BitVec 12) (n : BitVec 4) (p : Bool) (s : State) : Out := issueForm c 4 n p s
def execRwq (c : BitVec 12) (n : BitVec 4) (p : Bool) (s : State) : Out := issueForm c 5 n p s
def execDmq (c : BitVec 12) (ch : BitVec 3) (n : BitVec 4) (p : Bool) (s : State) : Out :=
  issueForm c (6 + ch.toNat) n p s

/-- A wait form ( k -- ): stalls until at most k descriptors of an engine remain unfinished. -/
def waitForm (c : BitVec 12) (eng : Nat) (s : State) : Out :=
  runInstr c 4 (withStacks c { dPop := 1 } fun s =>
    let k := s.peekD c 0
    if ((s.carrel c).unfinished eng).length ≤ k.toNat then .done (s.popD c 1).2
    else .hold (s.modCarrel c fun x => { x with wait := .qwait eng k })) s

def execMwait (c : BitVec 12) (s : State) : Out := waitForm c 0 s
def execQwaitE (c : BitVec 12) (s : State) : Out := waitForm c 4 s
def execQwaitR (c : BitVec 12) (s : State) : Out := waitForm c 5 s
def execQwaitD (c : BitVec 12) (ch : BitVec 3) (s : State) : Out := waitForm c (6 + ch.toNat) s

/-- MRD.F ( t -- f ): stalls until no array descriptor remains unfinished, then pushes tile-flags word t
mod 64 (R232). -/
def execMrdF (c : BitVec 12) (s : State) : Out :=
  runInstr c 4 (withStacks c { dPop := 1, dPush := 1 } fun s =>
    let t := s.peekD c 0
    if ((s.carrel c).unfinished 0).isEmpty then
      .done ((s.popD c 1).2.pushD c (Tab.get 0 (s.carrel c).tiles (t.toNat % 64)))
    else .hold (s.modCarrel c fun x => { x with wait := .mrdf t })) s

/-- Whether a carrel has no unfinished descriptor. -/
def Carrel.noWork (k : Carrel) : Bool := k.queue.all fun (_, l) => l.isEmpty

/-- Phases of the plan tick that a plan runs. -/
def Plan.phasesNow (p : Plan) : Nat := p.img.phasesOf.getD p.k 1

/-- The package record takes an offered event (R216). -/
def PkgNan.take (r : PkgNan) (c ctx : BitVec 12) (e : NanEvent) : PkgNan :=
  if r.valid = false then { r with valid := true, carrel := c, ctx := ctx, ev := e }
  else
    let r' := if e = r.ev ∧ c = r.carrel then r else { r with more := true }
    if e.wtn < r.ev.wtn ∨ (e.wtn = r.ev.wtn ∧ c < r.carrel) then
      { r' with carrel := c, ctx := ctx, ev := e } else r'

/-- The end of a phase settles the held event of that phase and tick and offers it to the package (R211,
R216). -/
def State.nanSettle (s : State) (c : BitVec 12) : State :=
  let k := s.carrel c
  if k.nan.valid && !k.nan.settled && decide (k.nan.ev.phase = k.wd.phase) && decide (k.nan.ev.wtn = s.tickWtn) then
    let s := s.setCarrel c { k with nan := { k.nan with settled := true } }
    { s with census := { s.census with nan := s.census.nan.take c k.ctx k.nan.ev } }
  else s

/-- A watchdog phase ends: its count freezes and enters MAX (R68). -/
def Watchdog.endPhase (w : Watchdog) (free : Nat) : Watchdog :=
  let w := w.sample free
  { w with run := false, max := if w.max < w.count then w.count else w.max }

/-- The carrel joins the barrier of its set, its descriptors finished and its buffer empty (R107, R134). -/
def State.joinBarrier (s : State) (c : BitVec 12) : State :=
  match s.planOf c with
  | none => s.modCarrel c fun k => { k with wait := .joined }
  | some (i, _) =>
    let s := s.modPlan i fun p => { p with joined := p.joined ++ [c.toNat] }
    let s := s.modCarrel c fun k => { k with wait := .joined, wd := k.wd.endPhase (Config.cycles s.fresh) }
    { s with fresh := s.fresh + 1 }

/-- Whether a running plan uses a carrel `d` ticks from now: for `d` = 0 an access of others in the current tick (R73). -/
def State.usedIn (s : State) (c d : Nat) : Bool :=
  s.plans.any fun x => decide (x.2.state = .running) &&
    (let u := Tab.get 0 x.2.img.uses (c * 4096 + (x.2.k + d) % max 1 x.2.img.period)
     if d = 0 then decide (2 ≤ u) else decide (u ≠ 0))

/-- The ns from now to a carrel's next planned use, 20,000 standing for any longer time (R73). The model holds no clock:
what is left of the work window, and whether an access of others in this tick is still to come, are free. DEDUCED
(log entry 78). -/
def State.idleNs (s : State) (c : Nat) : Nat × State :=
  let (w, s) := s.draw
  let left := w.toNat / 2 % max 1 s.tick.len.toNat
  if s.usedIn c 0 && w.getLsbD 0 then (left, s)
  else match (upto 11).find? fun d => s.usedIn c (d + 1) with
    | some d => (left + 300 + d * s.tick.len.toNat, s)
    | none => (20000, s)

/-- The deepest power state whose threshold an idle time reaches (R73): 16 cycles, 2 µs, 20 µs. -/
def restPower (ns : Nat) : Power :=
  if 20000 ≤ ns then .doze else if 2000 ≤ ns then .hold else if 160 ≤ 12 * ns then .gate else .run

/-- The carrel ends its plan-tick program and rests, in the power state that its idle time gives (R73, R107, R134,
R164). -/
def State.endProgram (s : State) (c : BitVec 12) : State :=
  let s := s.modCarrel c fun k =>
    { k with wait := .rest, ended := true, wd := k.wd.endPhase (Config.cycles s.fresh) }
  let s := { s with fresh := s.fresh + 1 }
  let (ns, s) := s.idleNs c.toNat
  (s.modCarrel c fun k => { k with power := restPower ns }).nanSettle c

/-- A carrel that waits at BAR or WTICK goes on when its work is done. -/
def State.settleBar (s : State) (c : BitVec 12) : State :=
  let k := s.carrel c
  if k.noWork && k.mb.isEmpty then
    match k.wait with
    | .bar => s.joinBarrier c
    | .wtick => s.endProgram c
    | _ => s
  else s

/-- BAR ends a phase (R106 case 4, R107, R134). -/
def execBar (c : BitVec 12) (s : State) : Out :=
  runInstr c 4 (fun s =>
    let ph := (s.carrel c).wd.phase.toNat
    match s.planOf c with
    | some (_, p) =>
      if p.phasesNow ≤ ph + 1 then .exc (planOrder 4)
      else .hold (((s.drainAll c).modCarrel c fun k => { k with wait := .bar }).settleBar c)
    | none => .exc (planOrder 4)) s

/-- WTICK ends the plan-tick program (R106 case 5, R107, R134, R164). -/
def execWtick (c : BitVec 12) (s : State) : Out :=
  runInstr c 4 (fun s =>
    let k := s.carrel c
    let early := match s.planOf c with
      | some (_, p) => decide (k.wd.phase.toNat + 1 < p.phasesNow)
      | none => false
    if early && !k.overrun then .exc (planOrder 5)
    else .hold (((s.drainAll c).modCarrel c fun k => { k with wait := .wtick }).settleBar c)) s

/-- The start of a phase on one carrel: its lists begin anew and its watchdog counts from 0 (R66, R105). -/
def Carrel.startPhase (k : Carrel) (p : Plan) (c ph : Nat) : Carrel :=
  { k with
    next := [], arrayDone := 0
    wd := { k.wd with
      budget := BitVec.ofNat 32 (Tab.get 0 p.img.budgets ((c * 4096 + p.k) * 256 + ph))
      count := 0, phase := BitVec.ofNat 8 ph, ptick := BitVec.ofNat 12 p.k, run := !k.overrun } }

/-- The link records of a phase of a plan's current plan tick (R568). -/
def Plan.linksOf (p : Plan) (ph : Nat) : List LinkRun :=
  (Tab.get [] p.img.lists (listKey 4096 0 p.k ph)).map fun d => { desc := d, started := false }

/-- The barrier of a plan's set completes when every carrel has joined: BAR completes on each, and the next
phase begins (R107). -/
def execBarrierRelease (slot : BitVec 8) (s : State) : Out :=
  match s.plan slot.toNat with
  | none => .next s
  | some p =>
    if p.state = .running ∧ p.img.set.all (fun c => p.joined.contains c) then
      let s := s.modPlan slot.toNat fun p => { p with joined := [], tokens := [] }
      .next (p.img.set.foldl (fun s c =>
        let cc := BitVec.ofNat 12 c
        let ph := (s.carrel cc).wd.phase.toNat + 1
        let s := s.nanSettle cc
        let s := s.modCarrel cc fun k => { (k.startPhase p c ph) with wait := .none }
        let s := s.modPlan slot.toNat fun p =>
          if p.img.set.head? = some c then { p with links := p.links ++ p.linksOf ph } else p
        s.retire cc 4) s)
    else .next s

/-- A descriptor of an engine has finished: the waits that depend on it are looked at again. -/
def State.engineWake (s : State) (c : BitVec 12) : State :=
  let k := s.carrel c
  match k.wait with
  | .issue q n pops param => s.issueSome c q n pops param
  | .qwait eng n =>
    if (k.unfinished eng).length ≤ n.toNat then ((s.setCarrel c { k with wait := .none }).popD c 1).2.retire c 4 else s
  | .mrdf t =>
    if (k.unfinished 0).isEmpty then
      (((s.setCarrel c { k with wait := .none }).popD c 1).2.pushD c (Tab.get 0 k.tiles (t.toNat % 64))).retire c 4
    else s
  | _ => s.settleBar c

/-- The oldest unfinished descriptor of a carrel on an engine that has started leaves its queue. -/
def Carrel.finishIssued (k : Carrel) (eng : Nat) (x : Issued) : Carrel :=
  { k with queue := Tab.set [] k.queue eng ((k.unfinished eng).erase x) }

/-- A carrel wakes, and is ready at its planned use or to serve an access (R73). -/
def execCarrelWake (c : BitVec 12) (s : State) : Out :=
  .next (s.modCarrel c fun k =>
    { k with waking := false, power := if k.plan.isSome ∧ k.wait ≠ .rest then .run else k.power })

end Sys2Proof.Machine
end

