-- ==== Sys2Proof/Machine/Formats.lean ====
section
/-!
DEFINITION. Operand format words (R200), packed elements (R193), block scales (R201, R202, R204) and
conversions into a destination word, for the engines.
-/

namespace Sys2Proof.Machine

/-- An operand format word (R200). -/
structure FmtWord where
  ty : Nat
  mx : Bool
  blk : Nat
  dir : Bool
  sat : Bool
  sr : Bool
  fit : Bool
  deriving DecidableEq, Repr

/-- The fields of a format word. -/
def fmtWord (w : Nat) : FmtWord :=
  { ty := w % 32, mx := w.testBit 5, blk := 8 * 2 ^ (w / 64 % 8), dir := w.testBit 9, sat := w.testBit 10
    sr := w.testBit 11, fit := w.testBit 12 }

/-- The floating format of a TYPE. -/
def tyFmt (ty : Nat) : Option Fmt :=
  match ty with
  | 0 => some .f64 | 1 => some .f32 | 2 => some .bf16 | 3 => some .f16 | 4 => some .e5m2 | 5 => some .e4m3
  | 6 => some .e3m2 | 7 => some .e2m3 | 8 => some .e2m1 | 13 => some .f32 | 14 => some .f64
  | 15 => some .a128 | _ => none

/-- The exact value of a code of a TYPE; `e` is the FX64 exponent E or the AX exponent Q (R188 to R194). -/
def tyNum (ty : Nat) (e : Int) (x : Nat) : Num :=
  match tyFmt ty with
  | some f => f.decode x
  | none =>
    if ty = 9 then intNum 8 (-6) x else if ty = 10 then intNum 8 0 x else if ty = 11 then intNum 32 0 x
    else if ty = 12 then fxNum e x else intNum 96 e x

/-- The value of an element under its scale byte (R201, R204). -/
def scaleNum (sc : Byte) (v : Num) : Num :=
  if sc = 0xFF then .nan else
  match v with
  | .fin s m e => .fin s m (e + (sc.toNat : Int) - 127)
  | v => v

/-- A value converted into a destination without block scales (R197, R198, R260). -/
def convPlain (w : FmtWord) (e : Int) (r : Rnd) (v : Val) : Conv :=
  match tyFmt w.ty with
  | some f => f.convert w.sat r v
  | none =>
    if w.ty = 10 then toIntCode 8 (-128) 127 0 0 r v
    else if w.ty = 11 then toIntCode 32 (-2147483648) 2147483647 0 0 r v
    else if w.ty = 12 then toFx e r v
    else toIntCode 96 (-(2 ^ 95)) (2 ^ 95 - 1) 0 (-e) r v

/-- An element of a block after the division by its scale (R197, R202). -/
def convScaled (w : FmtWord) (e : Int) (r : Rnd) (v : Val) : Conv :=
  match tyFmt w.ty with
  | some f => f.convertMx w.sat r (v.scale (-e))
  | none => toIntCode 8 (-128) 127 0 6 r (v.scale (-e))

/-- The magnitudes of the finite non-zero values of a list. -/
def magsOf (l : List Val) : List Mag := l.filterMap fun v => match v with | .mag _ m => some m | _ => none

/-- Whether a list holds a NaN. -/
def anyNan (l : List Val) : Bool := l.any fun v => match v with | .nan => true | _ => false

/-- The scale of a block: its byte and exponent (R202, R203). The largest magnitude has the largest
logarithm, and it fits exactly when all fit. -/
def scaleOf (w : FmtWord) (l : List Val) : Byte × Int :=
  match magsOf l with
  | [] => (0x7F, 0)
  | m :: ms =>
    let f := if w.ty = 9 then none else tyFmt w.ty
    let e0 := ms.foldl (fun x y => max x y.lg) m.lg - emaxOf f
    let e1 := if w.fit && !(m :: ms).all (fun x => fitsMax f x e0) then e0 + 1 else e0
    let e := max (-127) (min 127 e1)
    (BitVec.ofInt 8 (e + 127), e)

/-- One block converted: its scale byte and its elements (R202, R204). -/
def convBlock (w : FmtWord) (l : List (Val × Rnd)) : Byte × List Conv :=
  if anyNan (l.map (·.1)) then (0xFF, l.map fun _ => { bits := 0 })
  else
    let (b, e) := scaleOf w (l.map (·.1))
    (b, l.map fun (v, r) => convScaled w e r v)

/-- The rounding of element `i` of a descriptor (R205 to R207). -/
def State.rndOf (s : State) (w : FmtWord) (c : BitVec 12) (op i : Nat) : Rnd :=
  if w.sr then .sr (srBits (srWord s.tick.wtn c (BitVec.ofNat 32 op) i)) else .rne

/-! ### Packed elements (R193, R226) -/

/-- Element `j` of a stream of `b`-bit elements that begins at a local address. -/
def State.code (s : State) (base j b : Nat) : Nat :=
  let p := j * b
  s.le (base + p / 8) ((p % 8 + b + 7) / 8) / 2 ^ (p % 8) % 2 ^ b

/-- Codes packed into a number, the first lowest. -/
def packCodes (b : Nat) : List Nat → Nat
  | [] => 0
  | x :: l => x + 2 ^ b * packCodes b l

/-- Codes written as a stream from a local address; the bits of a last byte in part stay. -/
def State.storeCodes (s : State) (base b : Nat) (l : List Nat) : State :=
  let bits := l.length * b
  let x := packCodes b l
  let last := s.le (base + bits / 8) 1
  if bits % 8 = 0 then s.store base (natToBytes (bits / 8) x)
  else s.store base (natToBytes (bits / 8 + 1) (x + last / 2 ^ (bits % 8) * 2 ^ bits))

/-! ### Events of one descriptor (R209) -/

/-- An event: row, column, group, cause. -/
abbrev Event := Nat × Nat × Nat × NanCause

/-- Whether an event comes before another: ROW, COL, GROUP, then the cause code. -/
def Event.before (a b : Event) : Bool :=
  let k (x : Event) : List Nat := [x.1, x.2.1, x.2.2.1, x.2.2.2.code.toNat]
  decide (k a < k b)

/-- The event that a descriptor reports. -/
def firstEvent : List Event → Option Event
  | [] => none
  | x :: l => some (l.foldl (fun a b => if b.before a then b else a) x)

/-- Reports the first event of a descriptor to its carrel's record. -/
def State.reportEvents (s : State) (c : BitVec 12) (src : BitVec 3) (op : Nat) (l : List Event) : State :=
  match firstEvent l with
  | some (r, k, g, x) => s.engineNan c src op r k g x
  | none => s

/-! ### Pairing trees (R175) -/

/-- One level of a pairing tree; an empty position passes the other through. -/
def optLevel {α : Type} (f : α → α → α) : List (Option α) → List (Option α)
  | some a :: some b :: l => some (f a b) :: optLevel f l
  | none :: y :: l => y :: optLevel f l
  | x :: none :: l => x :: optLevel f l
  | l => l

/-- A pairing tree over 2^k positions. -/
def optTree {α : Type} (f : α → α → α) : Nat → List (Option α) → Option α
  | 0, l => l.headD none
  | k + 1, l => optTree f k (optLevel f l)

end Sys2Proof.Machine
end

