-- ==== Sys2Proof/Machine/Array.lean ====
section
/-!
DEFINITION. The matrix array (spec/08) and the order and rounding of accumulation (spec/09).
-/

namespace Sys2Proof.Machine

/-! ### Classes and accumulators (R220, R248) -/

/-- Operand classes (R220). -/
inductive ArrClass where
  | q | s | i | h | f | d
  deriving DecidableEq, Repr

/-- The class of a stationary and a streamed TYPE. -/
def arrClass (st sm : Nat) : ArrClass :=
  if st = 8 ∧ sm = 8 then .q else if st = 10 then .i else if st = 3 then .h else if st = 1 then .f
  else if st = 0 then .d else .s

/-- K_s of a class. -/
def ArrClass.ks (c : ArrClass) : Nat := if c = .q then 128 else 64

/-- P of a class. -/
def ArrClass.p : ArrClass → Nat
  | .q => 128 | .s => 64 | .i => 64 | .h => 16 | .f => 7 | .d => 1

/-- Fraction width of an operand TYPE (R255). -/
def fracWidth (ty : Nat) : Nat :=
  match ty with
  | 4 => 2 | 5 => 3 | 6 => 2 | 7 => 3 | 8 => 1 | 9 => 6 | 2 => 7 | 3 => 10 | 1 => 23 | _ => 0

/-- Output size of an accumulator TYPE in bytes (R248). -/
def accSize (ty : Nat) : Nat := tyBits ty / 8

/-- Local address of output `n` of tile row `t` (R249). -/
def outAddr (c : BitVec 12) (ty t n : Nat) : Nat :=
  ledgerBase c.toNat + t * (16 * accSize ty) + n * accSize ty

/-! ### Terms, groups and additions (R255 to R262, R570) -/

/-- A value inside the accumulation: a number of a floating accumulator, or an integer with a mark of an
infinity's sign (true for −). -/
inductive AccVal where
  | fl (x : Num)
  | int (v : Int) (mark : Option Bool)
  deriving DecidableEq, Repr

/-- A value with the lowest group beneath it, the flags raised (SAT 1, INVP 2, NAN 4, OVF 8) and the NaN
causes by group. -/
structure AccSum where
  val : AccVal
  low : Nat
  flags : Nat := 0
  evs : List (Nat × NanCause) := []
  deriving DecidableEq, Repr

/-- A term: the exact product and whether it is 0 × ∞. -/
abbrev Term := Num × Bool

/-- The term of two elements (R221). -/
def termOf (a w : Num) : Term := (a.mul w, (mulCause a w).isSome)

/-- Bounds of the integer accumulators (R259, R260). -/
def accBounds (ty : Nat) : Int × Int :=
  if ty = 11 then (-(2 ^ 31), 2 ^ 31 - 1) else (-(2 ^ 95), 2 ^ 95 - 1)

/-- An integer clamped to the accumulator, with SAT. -/
def accClamp (ty : Nat) (x : Int) : Int × Nat :=
  let (lo, hi) := accBounds ty
  if x < lo then (lo, 1) else if hi < x then (hi, 1) else (x, 0)

/-- A number rounded to nearest even into a floating accumulator: the value and OVF. -/
def accRound (f : Fmt) (v : Val) : Num × Nat :=
  let r := f.decode (f.rne v)
  (r, if (match v with | .mag _ _ => true | _ => false) && !r.isFin then 8 else 0)

/-- The clamping addition of an integer accumulator with its marks (R260, R570). -/
def intAdd (ty : Nat) (a b : Int) (ma mb : Option Bool) (g : Nat) : AccVal × Nat × List (Nat × NanCause) :=
  match ma, mb with
  | none, none => let (v, f) := accClamp ty (a + b); (.int v none, f, [])
  | some x, some y =>
    if x = y then (.int (if x then (accBounds ty).1 else (accBounds ty).2) (some x), 1, [])
    else (.int 0 none, 4, [(g, .invAdd)])
  | some x, none => (.int (if x then (accBounds ty).1 else (accBounds ty).2) (some x), 1, [])
  | none, some x => (.int (if x then (accBounds ty).1 else (accBounds ty).2) (some x), 1, [])

/-- One addition of the accumulator TYPE, its event reported under group `g`. -/
def accAdd (ty g : Nat) (a b : AccSum) : AccSum :=
  let base : AccSum := { a with low := min a.low b.low, flags := a.flags ||| b.flags, evs := a.evs ++ b.evs }
  match a.val, b.val with
  | .int x m, .int y n =>
    let (v, f, e) := intAdd ty x y m n g
    { base with val := v, flags := base.flags ||| f, evs := base.evs ++ e }
  | .fl x, .fl y =>
    let (r, o) := accRound ((tyFmt ty).getD .f32) (x.add y).toVal
    let n := if r.isNan then 4 else 0
    { base with
      val := .fl r, flags := base.flags ||| o ||| n
      evs := base.evs ++ (match addCause x y with | some z => [(g, z)] | none => []) }
  | v, _ => { base with val := v }

/-- floor(log2) of the magnitude of a finite non-zero number. -/
def numLog (x : Num) : Int := match x with | .fin _ m e => (m.log2 : Int) + e | _ => 0

/-- The sum of a group of finite terms in a floating accumulator (R257). -/
def groupSum (f : Fmt) (pw : Nat) (l : List Num) : Num × Nat :=
  let nz := l.filter fun x => !x.isZero
  match nz with
  | [] => (.fin false 0 0, 0)
  | x :: xs =>
    let emax := xs.foldl (fun m y => max m (numLog y)) (numLog x)
    let lsb : Int := emax - pw - 32
    let tr (y : Num) : Int × Bool := match y with
      | .fin s m e => let (n, st) := shiftFloor m (e - lsb); (if s then -(n : Int) else n, st)
      | _ => (0, false)
    let ts := nz.map tr
    let sum : Int := ts.foldl (fun a t => a + t.1) 0
    let sticky := ts.any (·.2)
    if sum = 0 then (.fin false 0 0, 0)
    else
      let m := Mag.dyadic sum.natAbs lsb
      accRound f (.mag (decide (sum < 0)) { m with fl := fun k => let (n, st) := m.fl k; (n, st || sticky) })

/-- Whether infinite terms of a sign occur. -/
def anyInf (l : List Num) (s : Bool) : Bool := l.any fun x => decide (x = .inf s)

/-- The result of group `g` (R256, R257, R259, R260). -/
def groupOf (ty pw : Nat) (q : Int) (g : Nat) (ts : List Term) : AccSum :=
  let ns := ts.map (·.1)
  let isFl := (tyFmt ty).isSome
  let none_ : AccVal := if isFl then .fl .nan else .int 0 none
  if ts.any (·.2) then { val := none_, low := g, flags := 6, evs := [(g, .invMul)] }
  else if ns.any (·.isNan) then { val := none_, low := g, flags := 4 }
  else if anyInf ns false && anyInf ns true then { val := none_, low := g, flags := 4, evs := [(g, .invAdd)] }
  else if anyInf ns false || anyInf ns true then
    let s := anyInf ns true
    if isFl then { val := .fl (.inf s), low := g }
    else { val := .int (if s then (accBounds ty).1 else (accBounds ty).2) (some s), low := g, flags := 1 }
  else match tyFmt ty with
    | some f => let (r, o) := groupSum f pw ns; { val := .fl r, low := g, flags := o }
    | none =>
      let q := if ty = 11 then 0 else q
      let term (x : Num) : Int := match x with
        | .fin s m e => let n : Int := if m = 0 then 0 else roundAt .rne (.dyadic m e) q; if s then -n else n
        | _ => 0
      let x := ns.foldl (fun a y => a + term y) 0
      let (v, o) := if ty = 11 then (x, 0) else accClamp ty x
      { val := .int v none, low := g, flags := o }

/-- One class-D term as a value to add (R258). -/
def termD (g : Nat) (t : Term) : AccSum :=
  if t.2 then { val := .fl .nan, low := g, flags := 6, evs := [(g, .invMul)] }
  else { val := .fl t.1, low := g, flags := if t.1.isNan then 4 else 0 }

/-- Class D: the terms enter one by one, left to right (R258, R261, R262). -/
def addTerms (ty g : Nat) (t : AccSum) (ts : List Term) : AccSum :=
  ts.foldl (fun a x => accAdd ty g a (termD g x)) t

/-- +0 of an accumulator. -/
def accZero (ty : Nat) : AccVal := if (tyFmt ty).isSome then .fl (.fin false 0 0) else .int 0 none

/-- The groups of a list of terms, from group number `g`. -/
def groupsFrom (ty pw : Nat) (q : Int) : Nat → Nat → List Term → List AccSum
  | 0, _, _ => []
  | n + 1, g, ts => groupOf ty pw q g (ts.take 64) :: groupsFrom ty pw q n (g + 1) (ts.drop 64)

/-- The update of one output by a streamed row in broadcast mode (R261). A floating add reports the group
it adds; the step of R570 reports the lowest group beneath it. -/
def updateBroadcast (cls : ArrClass) (ty pw : Nat) (q : Int) (t : AccSum) (ts : List Term) : AccSum :=
  if cls = .d then addTerms ty 0 t ts
  else (groupsFrom ty pw q (ts.length / 64) 0 ts).foldl (fun a r =>
    accAdd ty (if (tyFmt ty).isSome then r.low else 0) a r) t

/-- The partial of DPU `d` (R262). -/
def partialOf (cls : ArrClass) (ty pw : Nat) (q : Int) (d : Nat) (ts : List Term) : AccSum :=
  if cls = .d then addTerms ty d { val := accZero ty, low := d } ts
  else
    match groupsFrom ty pw q (ts.length / 64) (d * (ts.length / 64)) ts with
    | [a, b] => accAdd ty a.low a b
    | l => l.headD { val := accZero ty, low := 0 }

/-- The update of column 0 in split mode: partials, the split tree, the ledger add (R262). -/
def updateSplit (cls : ArrClass) (ty pw : Nat) (q : Int) (t : AccSum) (ts : List Term) : AccSum :=
  let n := ts.length / 16
  let us := (upto 16).map fun d => some (partialOf cls ty pw q d (slice ts (d * n) n))
  match optTree (fun a b => accAdd ty (min a.low b.low) a b) 4 us with
  | some y => accAdd ty 0 t y
  | none => t

/-- The code of an accumulated value; a stored bound carries no mark (R570). -/
def accCode (ty : Nat) (v : AccVal) : Nat :=
  match v with
  | .fl x => ((tyFmt ty).getD .f32).rne x.toVal
  | .int v _ => (v % (2 ^ tyBits ty : Int)).toNat

/-- A stored output as a value. -/
def accOf (ty : Nat) (x : Nat) : AccVal :=
  match tyFmt ty with
  | some f => .fl (f.decode x)
  | none => .int (BitVec.ofNat (tyBits ty) x).toInt none

/-! ### Descriptors (R233, R234) -/

/-- Fields of an array descriptor. -/
structure ArrDesc where
  op : Nat
  kind : Nat
  seq : Nat
  split : Bool
  orient : Bool
  turn : Bool
  init : Bool
  col0 : Bool
  clr : Bool
  tile : Nat
  fmt : FmtWord
  acc : Nat
  rowbase : Nat
  rows : Nat
  src : Nat
  scl : Nat
  pitch : Nat
  spitch : Nat
  pmax : Nat
  pstep : Nat
  deriving DecidableEq, Repr

/-- An array descriptor from its bytes. -/
def arrDesc (d : List Byte) : ArrDesc :=
  let ctl := leAt d 0x06 1
  { op := leAt d 0 4, kind := leAt d 4 1, seq := leAt d 5 1, split := ctl.testBit 0, orient := ctl.testBit 1
    turn := ctl.testBit 2, init := ctl.testBit 3, col0 := ctl.testBit 4, clr := ctl.testBit 5
    tile := leAt d 7 1 % 64, fmt := fmtWord (leAt d 8 2), acc := leAt d 0x0A 2 % 32
    rowbase := leAt d 0x0C 2, rows := leAt d 0x0E 2, src := leAt d 0x10 4, scl := leAt d 0x14 4
    pitch := leAt d 0x18 4, spitch := leAt d 0x1C 4, pmax := leAt d 0x20 2, pstep := leAt d 0x22 2 }

/-- QEXP of a tile-flags word (R252). -/
def qexpOf (w : Word) : Int := (field w 16 10).toInt

/-- A tile-flags word with flags ORed in (R239). -/
def State.orFlags (s : State) (c : BitVec 12) (t f : Nat) : State :=
  s.modCarrel c fun k => { k with tiles := Tab.set 0 k.tiles t (Tab.get 0 k.tiles t ||| word (f % 16)) }

/-- Clears bits [3:0] of a tile-flags word (R254). -/
def State.clearFlags (s : State) (c : BitVec 12) (t : Nat) : State :=
  s.modCarrel c fun k => { k with tiles := Tab.set 0 k.tiles t (Tab.get 0 k.tiles t &&& ~~~ 15#64) }

/-- The streamed TYPE of the first array descriptor after a stationary load in array order, when it is an
MSTR: it fixes the depth of the slice (R220, R225). -/
def State.useOf (s : State) (c : BitVec 12) (seq : Nat) : Option Nat :=
  match s.planOf c with
  | none => none
  | some (_, p) =>
    let ph0 := (s.carrel c).wd.phase.toNat
    let at_ (ph q : Nat) : List ArrDesc :=
      (Tab.get [] p.img.lists (listKey c.toNat q p.k ph)).map arrDesc
    let order := (upto p.img.phases).flatMap fun ph =>
      if ph < ph0 then [] else
      let l := at_ ph 0 ++ at_ ph 1
      (upto 256).filterMap fun q =>
        if ph = ph0 ∧ q ≤ seq then none else l.find? fun d => decide (d.seq = q)
    match order.head? with
    | some d => if d.kind = 1 then some d.fmt.ty else none
    | none => none

/-- The stationary element of DPU `n`, position `k` under the layout of R226: its index, its row and its
column in the stored matrix of C columns. -/
def stationaryIndex (split orient : Bool) (ks n k : Nat) : Nat × Nat × Nat × Nat :=
  if split then (n * ks + k, 0, n * ks + k, 16 * ks)
  else if orient then (n * ks + k, n, k, ks)
  else (16 * k + n, k, n, 16)

/-- The place of a scale byte in a scale array (R201, one matrix). -/
def scalePos (w : FmtWord) (cols r c : Nat) : Nat :=
  if w.dir then r / w.blk * cols + c else r * (cols / w.blk) + c / w.blk

/-- MLD: fills the 16 stationary registers (R225, R226). -/
def State.runMld (s : State) (c : BitVec 12) (d : ArrDesc) : State :=
  let ks := (arrClass d.fmt.ty ((s.useOf c d.seq).getD 0x1F)).ks
  let b := tyBits d.fmt.ty
  let base := shelfBase c.toNat
  let elems := (upto 16).flatMap fun n => (upto ks).map fun k =>
    let (j, r, cc, cols) := stationaryIndex d.split d.orient ks n k
    (s.code (base + d.src) j b,
     if d.fmt.mx then s.byte (base + d.scl + scalePos d.fmt cols r cc) else (0x7F : Byte))
  s.modCarrel c fun k => { k with
    stationary := some { split := d.split, fmt := BitVec.ofNat 16 d.fmt.ty, elems := elems } }

/-- Element `k` of streamed row `i`, with its block scale applied (R227 to R230). -/
def State.streamed (s : State) (c : BitVec 12) (d : ArrDesc) (i k : Nat) : Num :=
  let b := tyBits d.fmt.ty
  let base := shelfBase c.toNat
  if d.turn then
    let t := i / 64
    let (r, cc) := if d.orient then (k, i % 64) else (i % 64, k)
    let q := 128 / b
    let j := cc / q
    let x := s.code (base + d.src + t * d.pitch + 1024 * j + 16 * ((r + q * j) % 64)) (cc % q) b
    let v := tyNum d.fmt.ty 0 x
    if d.fmt.mx then scaleNum (s.byte (base + d.scl + t * d.spitch + scalePos d.fmt 64 r cc)) v else v
  else
    let v := tyNum d.fmt.ty 0 (s.code (base + d.src + i * d.pitch) k b)
    if d.fmt.mx then
      scaleNum (s.byte (base + d.scl +
        if d.fmt.dir then i / d.fmt.blk * d.spitch + k else i * d.spitch + k / d.fmt.blk)) v
    else v

/-- The stationary value at position `j` of the DPU registers. -/
def Stationary.at_ (x : Stationary) (j : Nat) : Num :=
  let (code, sc) := x.elems.getD j (0, 0x7F)
  let v := tyNum x.fmt.toNat 0 code
  if sc = 0x7F then v else scaleNum sc v

/-- One output of one streamed row: the value added into, the terms, the result (R261, R262). -/
def State.outputOf (s : State) (c : BitVec 12) (d : ArrDesc) (st : Stationary) (row : List Num) (t n : Nat) : AccSum :=
  let cls := arrClass st.fmt.toNat d.fmt.ty
  let pw := fracWidth st.fmt.toNat + fracWidth d.fmt.ty
  let q := qexpOf (Tab.get 0 (s.carrel c).tiles d.tile)
  let old := if d.init then accZero d.acc else accOf d.acc (s.le (outAddr c d.acc t n) (accSize d.acc))
  let start : AccSum := { val := old, low := 0 }
  let ts := row.mapIdx fun k a => termOf a (st.at_ (if d.split then k else n * cls.ks + k))
  if d.split then updateSplit cls d.acc pw q start ts else updateBroadcast cls d.acc pw q start ts

/-- MSTR: streams rows past the stationary operand into the ledger (R223, R224, R239). -/
def State.runMstr (s : State) (c : BitVec 12) (d : ArrDesc) : State :=
  match (s.carrel c).stationary with
  | none => s
  | some st =>
    let cls := arrClass st.fmt.toNat d.fmt.ty
    let kr := if d.split then 16 * cls.ks else cls.ks
    let (s, flags, evs) := (upto d.rows).foldl (fun (acc : State × Nat × List Event) i =>
      let (s, flags, evs) := acc
      let t := d.rowbase + i
      let row := (upto kr).map fun k => s.streamed c d i k
      let outs := (upto (if d.split then 1 else 16)).map fun n => s.outputOf c d st row t n
      let s := s.storeCodes (outAddr c d.acc t 0) (tyBits d.acc) (outs.map fun x => accCode d.acc x.val)
      (s, outs.foldl (fun f x => f ||| x.flags) flags,
       evs ++ (outs.mapIdx fun n x => x.evs.map fun (g, z) => ((t, n, g, z) : Event)).flatten)) (s, 0, [])
    (s.orFlags c d.tile flags).reportEvents c 2 d.op evs

/-- Tile rows set to +0 in a format (R241). -/
def State.clearRows (s : State) (c : BitVec 12) (d : ArrDesc) : State :=
  s.store (outAddr c d.acc d.rowbase 0) (List.replicate (d.rows * 16 * accSize d.acc) 0)

/-- One converted output of a readout: its position and its conversion. -/
structure ReadOut where
  row : Nat
  col : Nat
  conv : Conv
  deriving DecidableEq, Repr

/-- The blocks of a readout: the scale's address and the outputs of the block (R240). -/
def readBlocks (d : ArrDesc) : List (Nat × List (Nat × Nat)) :=
  let b := d.fmt.blk
  if d.col0 then
    (upto (d.rows / b)).map fun j => (d.scl + j, (upto b).map fun i => (j * b + i, 0))
  else if d.fmt.dir then
    (upto (d.rows / b)).flatMap fun j => (upto 16).map fun n =>
      (d.scl + j * d.spitch + n, (upto b).map fun i => (j * b + i, n))
  else
    (upto d.rows).flatMap fun i => (upto (16 / b)).map fun j =>
      (d.scl + i * d.spitch + j, (upto b).map fun n => (i, j * b + n))

/-- MRD: reads tile rows out to the shelf (R240). -/
def State.runMrd (s : State) (c : BitVec 12) (d : ArrDesc) : State :=
  let q := qexpOf (Tab.get 0 (s.carrel c).tiles d.tile)
  let val (i n : Nat) : Val :=
    (tyNum d.acc q (s.le (outAddr c d.acc (d.rowbase + i) n) (accSize d.acc))).toVal
  let rnd (i n : Nat) : Rnd := s.rndOf d.fmt c d.op (if d.col0 then i else i * 16 + n)
  let cols := if d.col0 then 1 else 16
  let blocks : List (Option Nat × List ReadOut × Byte) :=
    if d.fmt.mx then (readBlocks d).map fun (a, l) =>
      let (sc, cs) := convBlock d.fmt (l.map fun (i, n) => (val i n, rnd i n))
      (some a, (l.zip cs).map fun ((i, n), x) => { row := i, col := n, conv := x }, sc)
    else
      [(none, (upto d.rows).flatMap fun i => (upto cols).map fun n =>
        { row := i, col := n, conv := convPlain d.fmt q (rnd i n) (val i n) }, 0)]
  let outs := blocks.flatMap fun (_, l, _) => l
  let base := shelfBase c.toNat
  let codeAt (i n : Nat) : Nat :=
    ((outs.find? fun o => decide (o.row = i) && decide (o.col = n)).map (·.conv.bits)).getD 0
  let b := tyBits d.fmt.ty
  let s :=
    if d.col0 then s.storeCodes (base + d.src) b ((upto d.rows).map fun i => codeAt i 0)
    else (upto d.rows).foldl (fun s i =>
      s.storeCodes (base + d.src + i * d.pitch) b ((upto 16).map fun n => codeAt i n)) s
  let s := blocks.foldl (fun s (a, _, sc) => match a with
    | some a => s.store (base + a) [sc]
    | none => s) s
  let sats := (outs.filter fun o => o.conv.sat).length
  let s := s.modCarrel c fun k => { k with count := { k.count with satArray := satAdd k.count.satArray sats } }
  let s := s.reportEvents c 2 d.op (outs.filterMap fun o =>
    o.conv.event.map fun z => ((d.rowbase + o.row, o.col, 0, z) : Event))
  if d.clr then (s.clearRows c d).clearFlags c d.tile else s

/-- A descriptor's whole effect (R239 to R241), the parameter word added to SRC (R232). -/
def State.runArray (s : State) (c : BitVec 12) (x : Issued) : State :=
  let d := arrDesc x.desc
  let d := { d with src := d.src + (x.param.map BitVec.toNat).getD 0 * d.pstep }
  match d.kind with
  | 0 => s.runMld c d
  | 1 => s.runMstr c d
  | 2 => s.runMrd c d
  | _ => (s.clearRows c d).clearFlags c d.tile

/-- The array starts the next descriptor in array order once it is issued (R235). -/
def execArrayDescriptorStart (c : BitVec 12) (s : State) : Out :=
  let k := s.carrel c
  let l := k.unfinished 0
  .next <|
    if l.any (·.started) then s
    else match l.find? fun x => decide ((arrDesc x.desc).seq = k.arrayDone) with
      | some x =>
        s.setCarrel c { k with queue := Tab.set [] k.queue 0 (l.map fun y =>
          if y = x then { y with started := true } else y) }
      | none => s

/-- The running array descriptor completes: its effect, its flags and its event come about (R235, R239).
DESIGN CHOICE (log entry 19). -/
def execArrayDescriptorDone (c : BitVec 12) (s : State) : Out :=
  .next <|
    match ((s.carrel c).unfinished 0).find? (·.started) with
    | some x =>
      let s := (s.runArray c x).modCarrel c fun k =>
        { k.finishIssued 0 x with arrayDone := k.arrayDone + 1 }
      s.engineWake c
    | none => s

end Sys2Proof.Machine
end

