-- ==== Sys2Proof/Machine/RealFn.lean ====
section
/-!
DEFINITION. The functions of the element and row engines on exact values (R270, R276): the exponential,
hyperbolic tangent, logistic function and normal distribution, each as a `Mag` whose floors come from
rational intervals, refined until the floor is certain. None of these functions takes a dyadic value at a
non-zero dyadic argument but the limits, so the refinement ends (log entry 20 names its bound).
-/

namespace Sys2Proof.Machine

/-- An interval of fixed-point numbers: lo / 2^p ≤ x ≤ hi / 2^p. -/
structure Iv where
  p : Nat
  lo : Int
  hi : Int
  deriving DecidableEq, Repr

/-- Ceiling of a quotient of integers. -/
def cdivInt (a : Int) (b : Int) : Int := -((-a) / b)

/-- floor(x × 2^s). -/
def shlFloor (x s : Int) : Int := if 0 ≤ s then x * 2 ^ s.toNat else x / 2 ^ (-s).toNat

/-- ceil(x × 2^s). -/
def shlCeil (x s : Int) : Int := -(shlFloor (-x) s)

/-- The exact number ± m × 2^e. -/
def Iv.dyadic (p : Nat) (neg : Bool) (m : Nat) (e : Int) : Iv :=
  let x : Int := if neg then -(m : Int) else m
  { p := p, lo := shlFloor x (e + p), hi := shlCeil x (e + p) }

/-- An integer. -/
def Iv.int (p : Nat) (x : Int) : Iv := { p := p, lo := x * 2 ^ p, hi := x * 2 ^ p }

/-- Sum. -/
def Iv.add (a b : Iv) : Iv := { a with lo := a.lo + b.lo, hi := a.hi + b.hi }

/-- Difference. -/
def Iv.sub (a b : Iv) : Iv := { a with lo := a.lo - b.hi, hi := a.hi - b.lo }

/-- Product. -/
def Iv.mul (a b : Iv) : Iv :=
  let ps := [a.lo * b.hi, a.hi * b.lo, a.hi * b.hi]
  let lo := ps.foldl min (a.lo * b.lo)
  let hi := ps.foldl max (a.lo * b.lo)
  { a with lo := lo / 2 ^ a.p, hi := cdivInt hi (2 ^ a.p) }

/-- Quotient by a positive natural number. -/
def Iv.divNat (a : Iv) (n : Nat) : Iv := { a with lo := a.lo / n, hi := cdivInt a.hi n }

/-- Quotient by an interval of positive numbers. -/
def Iv.div (a b : Iv) : Iv :=
  let m : Int := 2 ^ a.p
  { a with
    lo := if 0 ≤ a.lo then a.lo * m / b.hi else a.lo * m / b.lo
    hi := if 0 ≤ a.hi then cdivInt (a.hi * m) b.lo else cdivInt (a.hi * m) b.hi }

/-- Both ends moved out by `n` units. -/
def Iv.widen (a : Iv) (n : Int) : Iv := { a with lo := a.lo - n, hi := a.hi + n }

/-- Sign flipped. -/
def Iv.neg (a : Iv) : Iv := { a with lo := -a.hi, hi := -a.lo }

/-- Magnitude of an interval that does not straddle zero. -/
def Iv.abs (a : Iv) : Iv := if a.hi ≤ 0 then a.neg else a

/-- The Horner sum 1 + y/1 (1 + y/2 (… )). -/
def expSum (y : Iv) : Nat → Iv → Iv
  | 0, t => t
  | n + 1, t => expSum y n ((Iv.int y.p 1).add ((y.mul t).divNat (n + 1)))

/-- Repeated squaring. -/
def sqTimes : Nat → Iv → Iv
  | 0, t => t
  | n + 1, t => sqTimes n (t.mul t)

/-- e^(± m × 2^e) at precision p. -/
def expIv (p : Nat) (neg : Bool) (m : Nat) (e : Int) : Iv :=
  let lg : Int := (m.log2 : Int) + e
  let r := (lg + 1).toNat + 16
  let y := Iv.dyadic p neg m (e - r)
  sqTimes r ((expSum y (p / 16 + 4) (Iv.int p 1)).widen 1)

/-- Terms of Σ (−1)^k / ((2k+1) q^(2k+1)), floored, with `x` = 2^p / q^(2k+1). -/
def atanSum (q : Nat) : Nat → Nat → Nat → Int → Int
  | 0, _, _, acc => acc
  | n + 1, k, x, acc =>
    atanSum q n (k + 1) (x / (q * q)) (if k % 2 = 0 then acc + (x / (2 * k + 1) : Nat) else acc - (x / (2 * k + 1) : Nat))

/-- π by Machin's formula. -/
def piIv (p : Nat) : Iv :=
  let n := p / 4 + 8
  let a := atanSum 5 n 0 (2 ^ p / 5) 0
  let b := atanSum 239 n 0 (2 ^ p / 239) 0
  let c := 16 * a - 4 * b
  ({ p := p, lo := c, hi := c } : Iv).widen (40 * (n + 2))

/-- √ of an interval of positive numbers. -/
def Iv.sqrt (a : Iv) : Iv :=
  { a with lo := isqrt (a.lo.toNat * 2 ^ a.p), hi := isqrt (a.hi.toNat * 2 ^ a.p) + 1 }

/-- The standard normal density at ± m × 2^e. -/
def densIv (p m : Nat) (e : Int) : Iv :=
  let ex := if m = 0 then Iv.int p 1 else expIv p true (m * m) (2 * e - 1)
  ex.div ((Iv.int p 2).mul (piIv p)).sqrt

/-- Σ x^(2n+1) / (2n+1)!!, from the term `t` of index n, ended once terms at least halve and fall below a
unit. -/
def distSum (x2 : Iv) (stop : Nat) : Nat → Nat → Iv → Iv → Iv
  | 0, _, _, acc => acc
  | k + 1, n, t, acc =>
    let t' := (t.mul x2).divNat (2 * n + 3)
    if stop ≤ n ∧ t'.hi ≤ 1 then acc.widen 3 else distSum x2 stop k (n + 1) t' (acc.add t')

/-- The standard normal distribution function at ± m × 2^e. -/
def distIv (p : Nat) (neg : Bool) (m : Nat) (e : Int) : Iv :=
  let x := Iv.dyadic p false m e
  let x2 := x.mul x
  let bound := (x2.hi / 2 ^ p).toNat + 1
  let s := distSum x2 bound (2 * bound + p + 8) 0 x x
  let half : Iv := { p := p, lo := 2 ^ (p - 1), hi := 2 ^ (p - 1) }
  let t := (densIv p m e).mul s
  if neg then half.sub t else half.add t

/-! ### Results -/

/-- The first refinement that decides a question. DESIGN CHOICE (log entry 20). -/
def refine {α : Type} (f : Nat → Iv) (g : Iv → Option α) : Nat → Nat → Option α
  | 0, _ => none
  | n + 1, i => match g (f i) with
    | some x => some x
    | none => refine f g n (i + 1)

/-- The magnitude of an irrational number that a sequence of intervals encloses. -/
def Mag.ofIv (f : Nat → Iv) : Mag :=
  { lg := (refine f (fun v => if 0 < v.lo ∧ v.lo.toNat.log2 = v.hi.toNat.log2 then
        some ((v.lo.toNat.log2 : Int) - v.p) else none) 5 0).getD (-40000)
    fl := fun k => (refine f (fun v =>
        let a := shlFloor v.lo (k - v.p)
        if a = shlFloor v.hi (k - v.p) then some (a.toNat, true) else none) 5 0).getD (0, true) }

/-- Whether the enclosed number is negative. -/
def ivNeg (f : Nat → Iv) : Bool :=
  (refine f (fun v => if v.hi < 0 then some true else if 0 < v.lo then some false else none) 5 0).getD false

/-- The precision of refinement `i` for an argument of magnitude 2^lg. -/
def precOf (i : Nat) (lg : Int) : Nat := 512 * 4 ^ i + 2 * (-lg).toNat

/-- A magnitude below every spacing of every destination. -/
def Mag.tiny : Mag := { lg := -40000, fl := fun _ => (0, true) }

/-- Just below m × 2^e. -/
def Mag.below (m : Nat) (e : Int) : Mag :=
  { lg := (m.log2 : Int) + e - (if m = 2 ^ m.log2 then 1 else 0)
    fl := fun k => let (n, st) := shiftFloor m (e + k); if st then (n, true) else (n - 1, true) }

/-- Just above m × 2^e. -/
def Mag.above (m : Nat) (e : Int) : Mag :=
  { lg := (m.log2 : Int) + e, fl := fun k => ((shiftFloor m (e + k)).1, true) }

/-- floor(log2) of m × 2^e. -/
def lgOf (m : Nat) (e : Int) : Int := (m.log2 : Int) + e

/-- e^a (R276); the row engine's exponential too. -/
def fnExp (a : Num) : Val :=
  match a with
  | .nan => .nan
  | .inf s => if s then .zero false else .inf false
  | .fin s m e =>
    if m = 0 then .mag false (Mag.dyadic 1 0)
    else if 15 ≤ lgOf m e then (if s then .mag false Mag.tiny else .mag false (Mag.dyadic 1 40000))
    else .mag false (Mag.ofIv fun i => expIv (precOf i (lgOf m e)) s m e)

/-- tanh a. -/
def fnTanh (a : Num) : Val :=
  match a with
  | .nan => .nan
  | .inf s => .mag s (Mag.dyadic 1 0)
  | .fin s m e =>
    if m = 0 then .zero s
    else if 15 ≤ lgOf m e then .mag s (Mag.below 1 0)
    else .mag s (Mag.ofIv fun i =>
      let p := precOf i (lgOf m e)
      let x := expIv p false m (e + 1)
      (x.sub (Iv.int p 1)).div (x.add (Iv.int p 1)))

/-- σ at a finite number as intervals. -/
def sigIv (p : Nat) (s : Bool) (m : Nat) (e : Int) : Iv :=
  let x := if m = 0 then Iv.int p 1 else expIv p s m e
  x.div (x.add (Iv.int p 1))

/-- σ(a). -/
def fnSigmoid (a : Num) : Val :=
  match a with
  | .nan => .nan
  | .inf s => if s then .zero false else .mag false (Mag.dyadic 1 0)
  | .fin s m e =>
    if m = 0 then .mag false (Mag.dyadic 1 (-1))
    else if 15 ≤ lgOf m e then .mag false (if s then Mag.tiny else Mag.below 1 0)
    else .mag false (Mag.ofIv fun i => sigIv (precOf i (lgOf m e)) s m e)

/-- a × f(a) for a factor between 0 and 1, beyond a magnitude of 2^big taken at its limit (GELU, SILU). -/
def fnTimes (big : Int) (f : Nat → Bool → Nat → Int → Iv) (a : Num) : Val :=
  match a with
  | .nan => .nan
  | .inf s => if s then .zero true else .inf false
  | .fin s m e =>
    if m = 0 then .zero s
    else if big ≤ lgOf m e then .mag s (if s then Mag.tiny else Mag.below m e)
    else .mag s ((Mag.ofIv fun i =>
      let v := f (precOf i (lgOf m e)) s m e
      { v with lo := v.lo * m, hi := v.hi * m }).scale e)

/-- a × Φ(a). -/
def fnGelu (a : Num) : Val := fnTimes 8 distIv a

/-- a × σ(a). -/
def fnSilu (a : Num) : Val := fnTimes 15 sigIv a

/-- A number times a magnitude or a limit of a factor, with the cause of a produced NaN. -/
def timesVal (b : Num) (v : Val) : Val × Option NanCause :=
  match b, v with
  | .nan, _ => (.nan, none)
  | _, .nan => (.nan, none)
  | .inf _, .zero _ => (.nan, some .invMul)
  | .inf s, .inf t => (.inf (s != t), none)
  | .inf s, .mag t _ => (.inf (s != t), none)
  | .fin s m _, .inf t => if m = 0 then (.nan, some .invMul) else (.inf (s != t), none)
  | .fin s _ _, .zero t => (.zero (s != t), none)
  | .fin s m e, .mag t x =>
    if m = 0 then (.zero (s != t), none)
    else
      let x := x.scale e
      (.mag (s != t) { lg := prodLg x m, fl := fun k => prodFl x m k }, none)
where
  /-- floor(m × x × 2^k), from floors of x at rising precision -/
  prodFl (x : Mag) (m : Nat) (k : Int) : Nat × Bool :=
    let try_ (g : Nat) : Option (Nat × Bool) :=
      let (n, st) := x.fl (k + g)
      let lo := n * m
      if st then
        let hi := (n + 1) * m
        if lo / 2 ^ g = (hi - 1) / 2 ^ g then some (lo / 2 ^ g, true) else none
      else some (lo / 2 ^ g, decide (lo % 2 ^ g ≠ 0))
    ((try_ 256).or ((try_ 2048).or (try_ 16384))).getD ((x.fl (k + 256)).1 * m / 2 ^ 256, true)
  /-- floor(log2 (m × x)) -/
  prodLg (x : Mag) (m : Nat) : Int :=
    let c : Int := x.lg + m.log2
    if 2 ≤ (prodFl x m (-c)).1 then c + 1 else c

/-- A factor given by intervals, with its sign. -/
def ivVal (f : Nat → Iv) : Val := .mag (ivNeg f) (Mag.ofIv fun i => (f i).abs)

/-- Φ(a) + a × φ(a). -/
def fnDgelu (a : Num) : Val :=
  match a with
  | .nan => .nan
  | .inf s => if s then .zero true else .mag false (Mag.dyadic 1 0)
  | .fin s m e =>
    if m = 0 then .mag false (Mag.dyadic 1 (-1))
    else if 8 ≤ lgOf m e then (if s then .mag true Mag.tiny else .mag false (Mag.above 1 0))
    else ivVal fun i =>
      let p := precOf i (lgOf m e)
      (distIv p s m e).add ((Iv.dyadic p s m e).mul (densIv p m e))

/-- σ(a) × (1 + a × (1 − σ(a))). -/
def fnDsilu (a : Num) : Val :=
  match a with
  | .nan => .nan
  | .inf s => if s then .zero true else .mag false (Mag.dyadic 1 0)
  | .fin s m e =>
    if m = 0 then .mag false (Mag.dyadic 1 (-1))
    else if 15 ≤ lgOf m e then (if s then .mag true Mag.tiny else .mag false (Mag.above 1 0))
    else ivVal fun i =>
      let p := precOf i (lgOf m e)
      let sg := sigIv p s m e
      let one := Iv.int p 1
      sg.mul (one.add ((Iv.dyadic p s m e).mul (one.sub sg)))

/-- The magnitude 1 / √(m × 2^e), m > 0. -/
def Mag.invRoot (m : Nat) (e : Int) : Mag :=
  let fl (k : Int) : Nat × Bool :=
    let sh := 2 * k - e
    let num := if 0 ≤ sh then 2 ^ sh.toNat else 1
    let den := if 0 ≤ sh then m else m * 2 ^ (-sh).toNat
    let y := num / den
    let r := isqrt y
    (r, decide (num % den ≠ 0) || decide (r * r ≠ y))
  let c : Int := -(((m.log2 : Int) + e) / 2)
  { lg := if 1 ≤ (fl (-c)).1 then c else c - 1, fl := fl }

/-- 1 / √a, with the cause of a produced NaN (R270, R276). -/
def fnRsqrt (a : Num) : Val × Option NanCause :=
  match a with
  | .nan => (.nan, none)
  | .inf s => if s then (.nan, some .invSqrt) else (.zero false, none)
  | .fin s m e =>
    if m = 0 then (.inf s, none)
    else if s then (.nan, some .invSqrt)
    else (.mag false (Mag.invRoot m e), none)

end Sys2Proof.Machine
end

