-- ==== Sys2Proof/Machine/Element.lean ====
section
/-!
DEFINITION. The tile element engine (R274 to R278).
-/

namespace Sys2Proof.Machine

/-- One slot of an element descriptor (R275). -/
structure ElemSlot where
  off : Nat
  pitch : Nat
  scl : Nat
  spitch : Nat
  fmt : FmtWord
  exp : Int
  deriving DecidableEq, Repr

/-- Fields of an element-engine descriptor (R274). -/
structure ElemDesc where
  opnum : Nat
  op : Nat
  bcast : Nat
  rows : Nat
  cols : Nat
  pstep : Nat
  k0 : Num
  k1 : Num
  layer : Nat
  gkind : Nat
  tokWait : Nat
  tokRel : Nat
  a : ElemSlot
  b : ElemSlot
  c : ElemSlot
  d : ElemSlot
  deriving DecidableEq, Repr

/-- Slot `i` of a descriptor. -/
def elemSlot (d : List Byte) (i : Nat) : ElemSlot :=
  let o := 0x40 + 16 * i
  { off := leAt d o 4, pitch := leAt d (o + 4) 4, scl := leAt d (o + 8) 4, spitch := leAt d (o + 12) 4
    fmt := fmtWord (leAt d (0x10 + 2 * i) 2), exp := (BitVec.ofNat 16 (leAt d (0x18 + 2 * i) 2)).toInt }

/-- An element-engine descriptor from its bytes, the parameter word added to slots A and D. -/
def elemDesc (d : List Byte) (param : Option Word) : ElemDesc :=
  let x := (param.map BitVec.toNat).getD 0 * leAt d 0x0E 2
  let a := elemSlot d 0
  let dd := elemSlot d 3
  { opnum := leAt d 0 4, op := leAt d 4 1, bcast := leAt d 6 1, rows := leAt d 8 2, cols := leAt d 0x0A 2
    pstep := leAt d 0x0E 2, k0 := Fmt.f32.decode (leAt d 0x20 4), k1 := Fmt.f32.decode (leAt d 0x24 4)
    layer := leAt d 0x28 2, gkind := leAt d 0x2A 1, tokWait := leAt d 0x2C 2, tokRel := leAt d 0x2E 2
    a := { a with off := a.off + x }, b := elemSlot d 1, c := elemSlot d 2, d := { dd with off := dd.off + x } }

/-- Whether a slot lies in the ledger (R275). -/
def ElemSlot.ledger (x : ElemSlot) : Bool := x.off.testBit 31

/-- The byte offset of a slot. -/
def ElemSlot.base (x : ElemSlot) : Nat := x.off % 2 ^ 31

/-- The ledger allocation of a carrel that covers a tile row of a format (R250, R251). -/
def State.allocAt (s : State) (c : BitVec 12) (ty row : Nat) : Option Alloc :=
  match s.planOf c with
  | none => none
  | some (_, p) => (Tab.get [] p.img.allocs c.toNat).find? fun a =>
      decide (a.acc = ty) && decide (a.first ≤ row) && decide (row < a.first + a.rows)

/-- The tile row of row `r` of a ledger slot. -/
def ElemSlot.tileRow (x : ElemSlot) (r : Nat) : Nat :=
  (x.base + r * x.pitch) / (16 * accSize x.fmt.ty)

/-- The exponent of a slot at a tile row: E of an FX64 slot, or Q of the AX allocation that covers the row (R270). -/
def State.slotExp (s : State) (c : BitVec 12) (x : ElemSlot) (r : Nat) : Int :=
  if x.ledger then ((s.allocAt c x.fmt.ty r).map (·.qexp)).getD 0 else x.exp

/-- The exact value of element (r, k) of a slot (R270, R275). -/
def State.slotNum (s : State) (c : BitVec 12) (x : ElemSlot) (r k : Nat) : Num :=
  if x.ledger then
    let n := accSize x.fmt.ty
    tyNum x.fmt.ty (s.slotExp c x (x.tileRow r + k / 16)) (s.le (ledgerBase c.toNat + x.base + r * x.pitch + k * n) n)
  else
    let base := shelfBase c.toNat
    let v := tyNum x.fmt.ty x.exp (s.code (base + x.base + r * x.pitch) k (tyBits x.fmt.ty))
    if x.fmt.mx then
      scaleNum (s.byte (base + x.scl +
        if x.fmt.dir then r / x.fmt.blk * x.spitch + k else r * x.spitch + k / x.fmt.blk)) v
    else v

/-- Element (r, k) of a slot under its BCAST form (R275). -/
def State.bcastNum (s : State) (c : BitVec 12) (x : ElemSlot) (form r k : Nat) : Num :=
  match form % 4 with
  | 0 => s.slotNum c x r k
  | 1 => s.slotNum c x 0 k
  | 2 => s.slotNum c x 0 r
  | _ => s.slotNum c x 0 0

/-- A value and the cause of a NaN the operation produced. -/
abbrev OpRes := Val × Option NanCause

/-- The sum of two numbers. -/
def opAdd (a b : Num) : OpRes := ((a.add b).toVal, addCause a b)

/-- The product of two numbers. -/
def opMul (a b : Num) : OpRes := ((a.mul b).toVal, mulCause a b)

/-- x × y + z. -/
def opFma (x y z : Num) : OpRes :=
  let p := x.mul y
  ((p.add z).toVal, (mulCause x y).or (addCause p z))

/-- One as a number. -/
def numOne : Num := .fin false 1 0

/-- Zero as a number. -/
def numZero : Num := .fin false 0 0

/-- b against a factor: ±∞ against 0 is INV-MUL (R277). -/
def opFactor (b f : Num) (z : Option NanCause) : OpRes := ((b.mul f).toVal, z.or (mulCause b f))

/-- A truth value as a number. -/
def numBool (b : Bool) : Val := if b then numOne.toVal else numZero.toVal

/-- The result of an operation before rounding (R276). A NaN operand of DRELU propagates, as R270 says of
every operation. -/
def elemOp (op : Nat) (k0 k1 a b c : Num) : OpRes :=
  match op with
  | 0x00 => (a.toVal, none)
  | 0x01 => opFma k0 a k1
  | 0x02 => opAdd a b
  | 0x03 => opAdd a b.negate
  | 0x04 => opMul a b
  | 0x05 => opFma a b c
  | 0x06 => ((if a.isNan then b else if b.isNan then a else if b.belowSel a then b else a).toVal, none)
  | 0x07 => ((if a.isNan then b else if b.isNan then a else if a.belowSel b then b else a).toVal, none)
  | 0x08 => (a.abs.toVal, none)
  | 0x09 => (if a.isNan then .nan else if a.leNum numZero then .zero false else a.toVal, none)
  | 0x0A => numOne.div a
  | 0x0B => a.sqrt
  | 0x0C => fnRsqrt a
  | 0x0D => (fnExp a, none)
  | 0x0E => (fnTanh a, none)
  | 0x0F => (fnSigmoid a, none)
  | 0x10 => (fnGelu a, none)
  | 0x11 => (fnSilu a, none)
  | 0x12 => (if a.isNan || b.isNan then .nan else if numZero.ltNum a then b.toVal else .zero false, none)
  | 0x13 => timesVal b (fnDgelu a)
  | 0x14 => timesVal b (fnDsilu a)
  | 0x15 => let f := numOne.add (a.mul a).negate; opFactor b f none
  | 0x16 =>
    let g := numOne.add a.negate
    opFactor b (a.mul g) (if b.isNan then none else mulCause a g)
  | 0x17 => (numBool (a.eqNum b), none)
  | 0x18 => (numBool (a.ltNum b), none)
  | 0x19 => (numBool (a.leNum b), none)
  | _ => ((if c.isZero then a else b).toVal, none)

/-- One output element: its conversion and the cause of the operation's NaN. -/
structure ElemOut where
  row : Nat
  col : Nat
  conv : Conv
  cause : Option NanCause
  deriving DecidableEq, Repr

/-- The result of element (r, k) with its rounding. -/
def State.elemRes (s : State) (c : BitVec 12) (d : ElemDesc) (r k : Nat) : OpRes × Rnd :=
  let a := s.slotNum c d.a r k
  let b := s.bcastNum c d.b d.bcast r k
  let x := s.bcastNum c d.c (d.bcast / 4) r k
  (elemOp d.op d.k0 d.k1 a b x, s.rndOf d.d.fmt c d.opnum (r * d.cols + k))

/-- The blocks of the destination: the positions that share a scale (R275). -/
def blocksOf (w : FmtWord) (rows cols : Nat) : List (List (Nat × Nat)) :=
  if w.dir then
    (upto (rows / w.blk)).flatMap fun j => (upto cols).map fun k => (upto w.blk).map fun i => (j * w.blk + i, k)
  else
    (upto rows).flatMap fun r => (upto (cols / w.blk)).map fun j => (upto w.blk).map fun i => (r, j * w.blk + i)

/-- The outputs of a descriptor, and the scale bytes with their block's first position (R202). -/
def State.elemOuts (s : State) (c : BitVec 12) (d : ElemDesc) : List ElemOut × List (Nat × Nat × Byte) :=
  if d.d.fmt.mx then
    let bs : List (List ElemOut × Nat × Nat × Byte) := (blocksOf d.d.fmt d.rows d.cols).map fun l =>
      let rs : List ((OpRes × Rnd) × Nat × Nat) := l.map fun ((r, k) : Nat × Nat) => (s.elemRes c d r k, r, k)
      let (sc, cs) := convBlock d.d.fmt (rs.map fun x => (x.1.1.1, x.1.2))
      let outs := (rs.zip cs).map fun ((x, cv) : ((OpRes × Rnd) × Nat × Nat) × Conv) =>
        { row := x.2.1, col := x.2.2, conv := cv, cause := x.1.1.2 : ElemOut }
      (outs, match l.head? with | some (r, k) => (r, k, sc) | none => (0, 0, sc))
    (bs.flatMap (·.1), bs.map (·.2))
  else
    ((upto d.rows).flatMap fun r => (upto d.cols).map fun k =>
      let ((v, z), rnd) := s.elemRes c d r k
      { row := r, col := k, conv := convPlain d.d.fmt (s.slotExp c d.d (d.d.tileRow r)) rnd v, cause := z }, [])

/-- The code at a position. -/
def codeIn (l : List ElemOut) (r k : Nat) : Nat :=
  ((l.find? fun o => decide (o.row = r) && decide (o.col = k)).map (·.conv.bits)).getD 0

/-- Writes the outputs into slot D, scales first (R275). -/
def State.elemStore (s : State) (c : BitVec 12) (d : ElemDesc) (outs : List ElemOut)
    (scales : List (Nat × Nat × Byte)) : State :=
  let x := d.d
  let row (base : Nat) (s : State) : State := (upto d.rows).foldl (fun s r =>
    s.storeCodes (base + x.base + r * x.pitch) (tyBits x.fmt.ty) ((upto d.cols).map fun k => codeIn outs r k)) s
  if x.ledger then row (ledgerBase c.toNat) s
  else
    let base := shelfBase c.toNat
    let s := scales.foldl (fun s (r, k, sc) =>
      s.store (base + x.scl +
        if x.fmt.dir then r / x.fmt.blk * x.spitch + k else r * x.spitch + k / x.fmt.blk) [sc]) s
    row base s

/-- The flags that one output raises in the ledger (R253): SAT, NAN, OVF. -/
def elemFlags (s : State) (c : BitVec 12) (d : ElemDesc) (o : ElemOut) : Nat :=
  let ((v, _), _) := s.elemRes c d o.row o.col
  let fin := match v with | .mag _ _ => true | _ => false
  let nan := match v with | .nan => true | _ => false
  let isOvf := match tyFmt d.d.fmt.ty with
    | some f => fin && !(f.decode o.conv.bits).isFin
    | none => false
  b2n o.conv.sat + 4 * b2n nan + 8 * b2n isOvf

/-- The flags of an element-engine write, ORed into the word of each allocation that it writes. -/
def State.elemFlagsOr (s s0 : State) (c : BitVec 12) (d : ElemDesc) (outs : List ElemOut) : State :=
  outs.foldl (fun s o => match s0.allocAt c d.d.fmt.ty (d.d.tileRow o.row) with
    | some a => s.orFlags c (a.tile % 64) (elemFlags s0 c d o)
    | none => s) s

/-- The values written, as the gauges take them (R296). -/
def elemVals (s0 : State) (c : BitVec 12) (d : ElemDesc) (outs : List ElemOut)
    (scales : List (Nat × Nat × Byte)) : List Num :=
  let w := d.d.fmt
  outs.map fun o =>
    let v := tyNum w.ty (s0.slotExp c d.d (d.d.tileRow o.row)) o.conv.bits
    if w.mx then
      let (r, k) := if w.dir then (o.row / w.blk * w.blk, o.col) else (o.row, o.col / w.blk * w.blk)
      match scales.find? fun x => decide (x.1 = r) && decide (x.2.1 = k) with
      | some x => scaleNum x.2.2 v
      | none => v
    else v

/-- A wait token is released (R274, R321). -/
def State.release (s : State) (c : BitVec 12) (tok : Nat) : State :=
  match s.planOf c with
  | some (i, _) => if tok = 0 then s else s.modPlan i fun p =>
      { p with tokens := if p.tokens.contains tok then p.tokens else p.tokens ++ [tok] }
  | none => s

/-- Whether an awaited token is released. -/
def State.tokenIn (s : State) (c : BitVec 12) (tok : Nat) : Bool :=
  decide (tok = 0) || (match s.planOf c with | some (_, p) => p.tokens.contains tok | none => false)

/-- A descriptor's whole effect: results, flags, counts, event, gauges (R269 to R277). -/
def State.runElement (s : State) (c : BitVec 12) (x : Issued) : State :=
  let d := elemDesc x.desc x.param
  let (outs, scales) := s.elemOuts c d
  let s1 := s.elemStore c d outs scales
  let s1 :=
    if d.d.ledger then s1.elemFlagsOr s c d outs
    else
      let n := (outs.filter fun o => o.conv.sat).length
      s1.modCarrel c fun k => { k with count := { k.count with satElem := satAdd k.count.satElem n } }
  let s1 := s1.gaugeAdd (s.carrel c).ctx.toNat d.layer d.gkind (elemVals s c d outs scales)
  let s1 := s1.reportEvents c 3 d.opnum (outs.filterMap fun o =>
    (o.cause.or o.conv.event).map fun z => ((o.row, o.col, 0, z) : Event))
  s1.release c d.tokRel

/-- The element engine starts its next descriptor in the order of issue, once its token is released. -/
def execElementDescriptorStart (c : BitVec 12) (s : State) : Out :=
  let k := s.carrel c
  .next <|
    match k.unfinished 4 with
    | x :: l =>
      if !x.started && s.tokenIn c (elemDesc x.desc x.param).tokWait then
        s.setCarrel c { k with queue := Tab.set [] k.queue 4 ({ x with started := true } :: l) }
      else s
    | [] => s

/-- The running element descriptor completes. -/
def execElementDescriptorDone (c : BitVec 12) (s : State) : Out :=
  .next <|
    match (s.carrel c).unfinished 4 with
    | x :: _ =>
      if x.started then
        ((s.runElement c x).modCarrel c fun k => k.finishIssued 4 x).engineWake c
      else s
    | [] => s

end Sys2Proof.Machine
end

