-- ==== Sys2Proof/Machine/Row.lean ====
section
/-!
DEFINITION. The row engine of a bay (R279 to R287).
-/

namespace Sys2Proof.Machine

/-- One slot of a row-engine descriptor (R280): the carrel's shelf it lies in and its offsets. -/
structure RowSlot where
  carrel : Nat
  off : Nat
  pitch : Nat
  scl : Nat
  spitch : Nat
  fmt : FmtWord
  deriving DecidableEq, Repr

/-- Fields of a row-engine descriptor (R280, R281). -/
structure RowDesc where
  opnum : Nat
  op : Nat
  affine : Bool
  nostat : Bool
  recomp : Bool
  wgrad : Bool
  ginit : Bool
  causal : Bool
  param : Bool
  seq : Nat
  rows : Nat
  cols : Nat
  mbase : Nat
  diag : Int
  k0 : Num
  k1 : Num
  layer : Nat
  gkind : Nat
  x : RowSlot
  dy : RowSlot
  w : RowSlot
  d : RowSlot
  g : RowSlot
  deriving DecidableEq, Repr

/-- Slot `i` of a row-engine descriptor of a bay; slot G has no format word. -/
def rowSlot (bay : Nat) (d : List Byte) (i fmt : Nat) : RowSlot :=
  let o := 0x30 + 16 * i
  let off := leAt d o 4
  { carrel := bay * 16 + off / 2 ^ 20 % 16, off := off % 2 ^ 18, pitch := leAt d (o + 4) 4
    scl := leAt d (o + 8) 4, spitch := leAt d (o + 12) 4, fmt := fmtWord fmt }

/-- A row-engine descriptor from its bytes. -/
def rowDesc (bay : Nat) (d : List Byte) : RowDesc :=
  let ctl := leAt d 5 1
  { opnum := leAt d 0 4, op := leAt d 4 1, affine := ctl.testBit 0, nostat := ctl.testBit 1
    recomp := ctl.testBit 2, wgrad := ctl.testBit 3, ginit := ctl.testBit 4, causal := ctl.testBit 5
    param := ctl.testBit 6, seq := leAt d 6 1, rows := leAt d 8 2, cols := leAt d 0x0A 2
    mbase := leAt d 0x0C 2, diag := (BitVec.ofNat 16 (leAt d 0x0E 2)).toInt
    k0 := Fmt.f32.decode (leAt d 0x18 4), k1 := Fmt.f32.decode (leAt d 0x1C 4), layer := leAt d 0x20 2
    gkind := leAt d 0x22 1, x := rowSlot bay d 0 (leAt d 0x10 2), dy := rowSlot bay d 1 (leAt d 0x12 2)
    w := rowSlot bay d 2 (leAt d 0x14 2), d := rowSlot bay d 3 (leAt d 0x16 2), g := rowSlot bay d 4 0 }

/-- Element `j` of row `r` of a slot (R280: scales of DIR 0). -/
def State.rowNum (s : State) (x : RowSlot) (r j : Nat) : Num :=
  let base := shelfBase x.carrel
  let v := tyNum x.fmt.ty 0 (s.code (base + x.off + r * x.pitch) j (tyBits x.fmt.ty))
  if x.fmt.mx then scaleNum (s.byte (base + x.scl + r * x.spitch + j / x.fmt.blk)) v else v

/-! ### binary64 steps (R283) -/

/-- A binary64 value on its way, with the causes met (column, cause). -/
structure Q where
  code : Nat
  evs : List (Nat × NanCause) := []
  deriving DecidableEq, Repr

/-- One rounding to nearest even in binary64. -/
def rnd64 (v : Val) : Nat := Fmt.f64.rne v

/-- The number of a code. -/
def f64Num (x : Nat) : Num := Fmt.f64.decode x

/-- An event list of a column. -/
def evAt (j : Nat) (z : Option NanCause) : List (Nat × NanCause) := match z with | some x => [(j, x)] | none => []

/-- The tree of R175 over the active positions, every addition rounded in binary64; +0 when none is. -/
def rowTree (l : List (Option Nat)) : Q :=
  let f (a b : Q) : Q :=
    let r := Fmt.f64.addOp a.code b.code
    { code := r.1, evs := a.evs ++ b.evs ++ evAt 0 r.2 }
  ((optTree f (ceilLog2 l.length) (l.map fun x => x.map fun c => { code := c })).getD { code := 0 })

/-- A sum divided by n, rounded once. -/
def meanOf (q : Q) (n : Nat) : Q :=
  let (v, z) := (f64Num q.code).div (.fin false n 0)
  { code := rnd64 v, evs := q.evs ++ evAt 0 z }

/-- The larger of two numbers; a NaN propagates. -/
def maxNum (a b : Num) : Num := if a.isNan || b.isNan then .nan else if a.belowSel b then b else a

/-- The results of one row: values on their way to FMTD with the causes met, the margin entry, and what the
row adds to G. -/
structure RowRes where
  out : List Val
  evs : List (Nat × NanCause)
  entry : Nat × Nat
  gg : List Nat
  gb : List Nat

/-- Whether element j of row r is active (R282). -/
def RowDesc.active (d : RowDesc) (valid r j : Nat) : Bool :=
  decide (j < valid) && (!d.causal || decide ((j : Int) ≤ (r : Int) + d.diag))

/-- The softmax numerators of a row under a maximum `m` (R283). -/
def softE (zs : List (Option Num)) (m : Num) : List (Option Nat) × List (Nat × NanCause) :=
  (zs.map fun z => z.map fun z => rnd64 (fnExp (z.add m.negate)),
   (zs.mapIdx fun j z => match z with | some z => evAt j (addCause z m.negate) | none => []).flatten)

/-- A row of SOFTMAX_F, and of SOFTMAX_B up to y (R283): z, the entry, the numerators and the causes. -/
def softRow (d : RowDesc) (xs : List Num) (act : List Bool) (stat : Option (Nat × Nat)) :
    List (Option Nat) × (Nat × Nat) × List (Nat × NanCause) :=
  let zs : List (Option Num) := (xs.zip act).map fun (x, a) => if a then some (d.k0.mul x) else none
  let ez := ((xs.zip act).mapIdx fun j (x, a) => if a then evAt j (mulCause d.k0 x) else []).flatten
  match stat with
  | some (m, q) =>
    let (es, ee) := softE zs (f64Num m)
    (es, (m, q), ez ++ ee)
  | none =>
    let m := zs.foldl (fun m z => match z with | some z => maxNum m z | none => m) (.inf true)
    let (es, ee) := softE zs m
    let q := rowTree es
    (es, (rnd64 m.toVal, q.code), ez ++ ee ++ q.evs)

/-- SOFTMAX_F and SOFTMAX_B of one row (R283, R284). -/
def softmaxRow (d : RowDesc) (xs dys : List Num) (act : List Bool) (stat : Option (Nat × Nat)) : RowRes :=
  let (es, entry, ev) := softRow d xs act stat
  let q := f64Num entry.2
  let ys : List (Option OpRes) := es.map fun e => e.map fun e => (f64Num e).div q
  let ye := (ys.mapIdx fun j y => match y with | some y => evAt j y.2 | none => []).flatten
  if d.op = 0 then
    { out := ys.map fun y => match y with | some y => y.1 | none => .zero false
      evs := ev ++ ye, entry := entry, gg := [], gb := [] }
  else
    let yn := ys.map fun y => y.map fun y => f64Num (rnd64 y.1)
    let ps := (yn.zip dys).map fun (y, g) => y.map fun y => rnd64 (g.mul y).toVal
    let pe := ((yn.zip dys).mapIdx fun j (y, g) => match y with | some y => evAt j (mulCause g y) | none => []).flatten
    let t := rowTree ps
    let dx := (yn.zip dys).mapIdx fun j (y, g) => match y with
      | some y =>
        let df := g.add (f64Num t.code).negate
        let ky := d.k0.mul y
        ((ky.mul df).toVal, evAt j (addCause g (f64Num t.code).negate) ++ evAt j (mulCause d.k0 y) ++
          evAt j (mulCause ky df))
      | none => (Val.zero false, [])
    { out := dx.map (·.1), evs := ev ++ ye ++ pe ++ t.evs ++ dx.flatMap (·.2), entry := entry, gg := [], gb := [] }

/-- mu and rho of a row (R283), and the causes; `rms` takes mu = +0. -/
def normStats (rms : Bool) (k1 : Num) (xs : List Num) : (Nat × Nat) × List (Nat × NanCause) :=
  let n := xs.length
  let mu : Q := if rms then { code := 0 } else meanOf (rowTree (xs.map fun x => some (rnd64 x.toVal))) n
  let mn := (f64Num mu.code).negate
  let ds := xs.map fun x => rnd64 (x.add mn).toVal
  let de := (xs.mapIdx fun j x => evAt j (addCause x mn)).flatten
  let sq := ds.map fun x => rnd64 ((f64Num x).mul (f64Num x)).toVal
  let v := meanOf (rowTree (sq.map some)) n
  let vk := (f64Num v.code).add k1
  let (rv, rz) := fnRsqrt vk
  ((mu.code, rnd64 rv), mu.evs ++ de ++ v.evs ++ evAt 0 (addCause (f64Num v.code) k1) ++ evAt 0 rz)

/-- LNORM and RMSNORM of one row, forward and backward (R283, R284). -/
def normRow (d : RowDesc) (xs dys gam bet : List Num) (stat : Option (Nat × Nat)) : RowRes :=
  let rms := decide (d.op = 2 ∨ d.op = 5)
  let n := xs.length
  let (entry, se) := match stat with | some e => (e, []) | none => normStats rms d.k1 xs
  let mn := (f64Num entry.1).negate
  let rho := f64Num entry.2
  let ds := xs.map fun x => f64Num (rnd64 (x.add mn).toVal)
  let de := (xs.mapIdx fun j x => evAt j (addCause x mn)).flatten
  let hs := ds.map fun x => f64Num (rnd64 (x.mul rho).toVal)
  let he := (ds.mapIdx fun j x => evAt j (mulCause x rho)).flatten
  if d.op ≤ 2 then
    let ys := (hs.zip (gam.zip bet)).mapIdx fun j (h, g, b) => let (v, z) := opFma g h b; (v, evAt j z)
    { out := ys.map (·.1), evs := se ++ de ++ he ++ ys.flatMap (·.2), entry := entry, gg := [], gb := [] }
  else
    let gs := (dys.zip gam).map fun (y, g) => rnd64 (y.mul g).toVal
    let ge := ((dys.zip gam).mapIdx fun j (y, g) => evAt j (mulCause y g)).flatten
    let a : Q := if rms then { code := 0 } else meanOf (rowTree (gs.map some)) n
    let gh := (gs.zip hs).map fun (g, h) => rnd64 ((f64Num g).mul h).toVal
    let ghe := ((gs.zip hs).mapIdx fun j (g, h) => evAt j (mulCause (f64Num g) h)).flatten
    let c := meanOf (rowTree (gh.map some)) n
    let cn := f64Num c.code
    let an := (f64Num a.code).negate
    let dx := (gs.zip hs).mapIdx fun j (g, h) =>
      let g := f64Num g
      let t := g.add an
      let hc := h.mul cn
      let u := t.add hc.negate
      ((rho.mul u).toVal, evAt j (addCause g an) ++ evAt j (mulCause h cn) ++ evAt j (addCause t hc.negate) ++
        evAt j (mulCause rho u))
    let wg := (dys.zip hs).map fun (y, h) => rnd64 (y.mul h).toVal
    let we := if d.wgrad then ((dys.zip hs).mapIdx fun j (y, h) => evAt j (mulCause y h)).flatten else []
    { out := dx.map (·.1), evs := se ++ de ++ he ++ ge ++ a.evs ++ ghe ++ c.evs ++ dx.flatMap (·.2) ++ we
      entry := entry, gg := wg, gb := dys.map fun y => rnd64 y.toVal }

/-- Adds a row into G, each add rounded in binary64, with the causes. -/
def addG (g add : List Nat) : List Nat × List (Nat × NanCause) :=
  let rs := (g.zip add).mapIdx fun j (x, y) => let r := Fmt.f64.addOp x y; (r.1, evAt j r.2)
  (rs.map (·.1), rs.flatMap (·.2))

/-- Writes row `r` of slot D: elements and scales, the conversions and their values (R202, R280). -/
def State.rowStore (s : State) (c : BitVec 12) (d : RowDesc) (r : Nat) (vs : List Val) : State × List Conv × List Num :=
  let x := d.d
  let base := shelfBase x.carrel
  let rnd (j : Nat) : Rnd := s.rndOf x.fmt c d.opnum (r * d.cols + j)
  let vr := vs.mapIdx fun j v => (v, rnd j)
  let (cs, scs) : List Conv × List Byte :=
    if x.fmt.mx then
      let bs := (upto (d.cols / x.fmt.blk)).map fun j => convBlock x.fmt (slice vr (j * x.fmt.blk) x.fmt.blk)
      (bs.flatMap (·.2), bs.map (·.1))
    else (vr.map fun (v, q) => convPlain x.fmt 0 q v, [])
  let s := if x.fmt.mx then s.store (base + x.scl + r * x.spitch) scs else s
  let s := s.storeCodes (base + x.off + r * x.pitch) (tyBits x.fmt.ty) (cs.map (·.bits))
  (s, cs, cs.mapIdx fun j o =>
    let v := tyNum x.fmt.ty 0 o.bits
    if x.fmt.mx then scaleNum (scs.getD (j / x.fmt.blk) 0x7F) v else v)

/-- The values of a row of binary64. -/
def State.f64Row (s : State) (a n : Nat) : List Nat := (upto n).map fun j => s.le (a + 8 * j) 8

/-- What the rows of a descriptor have come to. -/
structure RowRun where
  s : State
  evs : List Event
  sats : Nat
  vals : List Num
  gg : List Nat
  gb : List Nat

/-- One row of a descriptor. -/
def rowStep (c : BitVec 12) (bay : Nat) (d : RowDesc) (valid : Nat) (gam bet : List Num) (q : RowRun) (r : Nat) :
    RowRun :=
  let s := q.s
  let xs := (upto d.cols).map fun j => s.rowNum d.x r j
  let dys := if 3 ≤ d.op then (upto d.cols).map fun j => s.rowNum d.dy r j else []
  let ma := marginBase bay + 16 * (d.mbase + r)
  let stat : Option (Nat × Nat) := if 3 ≤ d.op ∧ !d.recomp then some (s.le ma 8, s.le (ma + 8) 8) else none
  let res := if d.op = 0 ∨ d.op = 3 then softmaxRow d xs dys ((upto d.cols).map (d.active valid r)) stat
    else normRow d xs dys gam bet stat
  let (s, cs, vals) := s.rowStore c d r res.out
  let s := if d.op < 3 ∧ !d.nostat then s.store ma (natToBytes 8 res.entry.1 ++ natToBytes 8 res.entry.2) else s
  let (gg, ge) := if d.wgrad then addG q.gg res.gg else (q.gg, [])
  let (gb, be) := if d.wgrad ∧ d.op = 4 then addG q.gb res.gb else (q.gb, [])
  let ce := (cs.mapIdx fun j o => evAt j o.event).flatten
  { s := s, evs := q.evs ++ (res.evs ++ ce ++ ge ++ be).map fun (j, z) => ((r, j, 0, z) : Event)
    sats := q.sats + (cs.filter (·.sat)).length, vals := q.vals ++ vals, gg := gg, gb := gb }

/-- The counters of a bay (R471). -/
def State.bayCount (s : State) (b : Nat) : BayCount := Tab.get BayCount.reset s.census.bays b

/-- The counters of a bay changed. -/
def State.modBay (s : State) (b : Nat) (f : BayCount → BayCount) : State :=
  { s with census := { s.census with bays := Tab.set BayCount.reset s.census.bays b (f (s.bayCount b)) } }

/-- A row-engine descriptor's whole effect (R282 to R287). A softmax descriptor that takes a parameter word
and is issued without one has no stated VALID: a free value. -/
def State.runRow (s : State) (c : BitVec 12) (bay : Nat) (x : Issued) : State :=
  let d := rowDesc bay x.desc
  let (fw, s) := if d.param ∧ x.param = none then s.draw else (0, s)
  let valid := if d.param then (x.param.getD fw).toNat else d.cols
  let one := List.replicate d.cols numOne
  let gam := if d.affine then (upto d.cols).map fun j => s.rowNum d.w 0 j else one
  let bet := if d.affine ∧ (d.op = 1 ∨ d.op = 4) then (upto d.cols).map fun j => s.rowNum d.w 1 j
    else List.replicate d.cols numZero
  let ga := shelfBase d.g.carrel + d.g.off
  let g0 (a : Nat) : List Nat := if d.ginit then List.replicate d.cols 0 else s.f64Row a d.cols
  let q := (upto d.rows).foldl (rowStep c bay d valid gam bet)
    { s := s, evs := [], sats := 0, vals := [], gg := g0 ga, gb := g0 (ga + d.g.pitch) }
  let s := if d.wgrad then q.s.store ga (q.gg.flatMap (natToBytes 8)) else q.s
  let s := if d.wgrad ∧ d.op = 4 then s.store (ga + d.g.pitch) (q.gb.flatMap (natToBytes 8)) else s
  let s := s.modBay bay fun b => { b with rowSat := b.rowSat + q.sats }
  let s := s.gaugeAdd (s.carrel c).ctx.toNat d.layer d.gkind q.vals
  s.reportEvents c 4 d.opnum q.evs

/-- The issued row-engine descriptors of a bay with the carrel that issued each. -/
def State.rowIssued (s : State) (bay : Nat) : List (BitVec 12 × Issued) :=
  (upto 16).flatMap fun i =>
    let c := BitVec.ofNat 12 (bay * 16 + i)
    ((s.carrel c).unfinished 5).map fun x => (c, x)

/-- Whether every row-engine descriptor of the phase before `seq` in row order has completed (R279). -/
def State.rowReady (s : State) (bay seq : Nat) : Bool :=
  (upto 16).all fun i =>
    let c := BitVec.ofNat 12 (bay * 16 + i)
    let k := s.carrel c
    let n := Tab.get 0 k.next 5
    ((s.phaseList c 5).mapIdx fun j d =>
      !decide (leAt d 6 1 < seq) || (decide (j < n) && !(k.unfinished 5).any fun x => decide (x.idx = j))).all id

/-- A row engine starts the next descriptor in row order, once it is issued (R279). -/
def execRowDescriptorStart (bay : BitVec 8) (s : State) : Out :=
  let l := s.rowIssued bay.toNat
  .next <|
    if l.any (fun x => x.2.started) then s
    else match l.find? fun x => s.rowReady bay.toNat (leAt x.2.desc 6 1) with
      | some (c, x) => s.modCarrel c fun k =>
          { k with queue := Tab.set [] k.queue 5 ((k.unfinished 5).map fun y =>
              if y = x then { y with started := true } else y) }
      | none => s

/-- The running row-engine descriptor of a bay completes. -/
def execRowDescriptorDone (bay : BitVec 8) (s : State) : Out :=
  .next <|
    match (s.rowIssued bay.toNat).find? fun x => x.2.started with
    | some (c, x) => ((s.runRow c bay.toNat x).modCarrel c fun k => k.finishIssued 5 x).engineWake c
    | none => s

end Sys2Proof.Machine
end

