-- ==== Sys2Proof/Machine/Mover.lean ====
section
/-!
DEFINITION. The data movers (R315 to R334): the walk of a descriptor, its addresses, and the movement.
-/

namespace Sys2Proof.Machine

/-- One spatial dimension of a window (R326): input extent, stride, dilation, leading padding. -/
structure Window where
  ext : Nat
  stride : Nat
  dil : Nat
  pad : Nat
  deriving DecidableEq, Repr

/-- Fields of a data-mover descriptor (R316). -/
structure MovDesc where
  opnum : Nat
  op : Nat
  padfill : Bool
  turn : Bool
  width : Nat
  n : List Nat
  drow : Nat
  src : Word
  dst : Word
  sstr : List Int
  dstr : List Int
  padv : Nat
  layer : Nat
  gkind : Nat
  spat : Nat
  tokWait : Nat
  tokRel : Nat
  gfmt : FmtWord
  w1 : Window
  w2 : Window
  deriving DecidableEq, Repr

/-- A data-mover descriptor from its bytes, the parameter word applied to SRC (R316, R320). -/
def movDesc (d : List Byte) (param : Option Word) : MovDesc :=
  let ctl := leAt d 5 1
  let x : Int := ((param.map BitVec.toNat).getD 0 : Nat)
  let step : Int := (BitVec.ofNat 32 (leAt d 0x84 4)).toInt
  { opnum := leAt d 0 4, op := leAt d 4 1, padfill := ctl.testBit 1, turn := ctl.testBit 2
    width := 4 * 2 ^ leAt d 6 1, n := (upto 5).map fun i => leAt d (8 + 4 * i) 4, drow := leAt d 0x1C 4
    src := word (leAt d 0x20 8) + BitVec.ofInt 64 (x * step), dst := word (leAt d 0x28 8)
    sstr := (upto 4).map fun i => (word (leAt d (0x30 + 8 * i) 8)).toInt
    dstr := (upto 4).map fun i => (word (leAt d (0x50 + 8 * i) 8)).toInt
    padv := leAt d 0x70 8, layer := leAt d 0x78 2, gkind := leAt d 0x7A 1, spat := leAt d 0x7B 1
    tokWait := leAt d 0x7C 2, tokRel := leAt d 0x7E 2, gfmt := fmtWord (leAt d 0x82 2)
    w1 := { ext := leAt d 0x88 4, stride := leAt d 0x90 2, dil := leAt d 0x92 2, pad := leAt d 0x94 2 }
    w2 := { ext := leAt d 0x8C 4, stride := leAt d 0x96 2, dil := leAt d 0x98 2, pad := leAt d 0x9A 2 } }

/-- The points of a walk, i0 running fastest. -/
def walkPoints : List Nat → List (List Nat)
  | [] => [[]]
  | n :: l => (walkPoints l).flatMap fun t => (upto n).map fun i => i :: t

/-- A nibble address: 2 × the byte address, plus 1 for the upper half of the byte (R193). -/
abbrev NibAddr := Nat

/-- The virtual nibble address of an element that lies `i` elements into the row at `row`. -/
def MovDesc.elemAt (d : MovDesc) (row : Word) (i : Nat) : NibAddr :=
  let o := i * d.width / 4
  (row + word (o / 2)).toNat * 2 + o % 2

/-- The sum of i_d × stride over the walk dimensions `ds` (1 to 4). -/
def stepSum (p : List Nat) (strides : List Int) (ds : List Nat) : Int :=
  ds.foldl (fun a k => a + (p.getD k 0 : Nat) * strides.getD (k - 1) 0) 0

/-- The input coordinate of a window (R326). -/
def Window.coord (w : Window) (o k : Nat) : Int := (o * w.stride : Nat) + (k * w.dil : Nat) - (w.pad : Nat)

/-- Whether a coordinate lies inside the input. -/
def Window.inside (w : Window) (x : Int) : Bool := decide (0 ≤ x) && decide (x < w.ext)

/-- The source row of a walk point; none for a border element (R317, R326). -/
def MovDesc.srcRow (d : MovDesc) (p : List Nat) : Option Word :=
  let at_ (o : Int) : Word := d.src + BitVec.ofInt 64 o
  if d.op = 3 then
    if d.spat = 1 then
      let x := d.w1.coord (p.getD 2 0) (p.getD 1 0)
      if d.w1.inside x then some (at_ (x * d.sstr.getD 0 0 + stepSum p d.sstr [3, 4])) else none
    else
      let x := d.w1.coord (p.getD 3 0) (p.getD 1 0)
      let y := d.w2.coord (p.getD 4 0) (p.getD 2 0)
      if d.w1.inside x && d.w2.inside y then
        some (at_ (x * d.sstr.getD 0 0 + y * d.sstr.getD 1 0)) else none
  else some (at_ (stepSum p d.sstr [1, 2, 3, 4]))

/-- The walk dimension that is contiguous in the destination (R317). -/
def MovDesc.rowDim (d : MovDesc) : Nat := if d.op = 1 ∨ d.op = 2 then 1 else 0

/-- The address of the destination row of a walk point (R317). -/
def MovDesc.dstRow (d : MovDesc) (p : List Nat) : Word :=
  d.dst + BitVec.ofInt 64 (if d.rowDim = 1 then
      (p.getD 0 0 : Nat) * d.dstr.getD 0 0 + stepSum p d.dstr [2, 3, 4]
    else stepSum p d.dstr [1, 2, 3, 4])

/-- The offset of element c of row r in a turnable tile of b-bit elements, in nibbles (R228). -/
def tileNib (b r c : Nat) : Nat :=
  let q := 128 / b
  2 * (1024 * (c / q) + 16 * ((r + q * (c / q)) % 64)) + c % q * b / 4

/-- The virtual nibble address of element `i` of a destination row, placed in a turnable tile with TURN
(R317, R329). -/
def MovDesc.dstAt (d : MovDesc) (row : Word) (i : Nat) : NibAddr :=
  if d.turn then
    let r := row.toNat % 1024 / 16
    (row - word (16 * r)).toNat * 2 + tileNib d.width r i
  else d.elemAt row i

/-- One element that a descriptor writes: the virtual nibble addresses of its source (none for a border element and for
padding) and of its destination, its place in walk order, and whether it is padding. -/
structure MovPoint where
  src : Option NibAddr
  dst : NibAddr
  idx : Nat
  pad : Bool
  deriving DecidableEq, Repr

/-- The place of a point in walk order, i0 running fastest. -/
def walkIdx : List Nat → List Nat → Nat
  | n :: ns, i :: is => i + n * walkIdx ns is
  | _, _ => 0

/-- The element that a walk point moves (R317, R326, R329). -/
def MovDesc.pointAt (d : MovDesc) (p : List Nat) : MovPoint :=
  { src := (d.srcRow p).map fun r => d.elemAt r (p.getD 0 0), dst := d.dstAt (d.dstRow p) (p.getD d.rowDim 0)
    idx := walkIdx d.n p, pad := false }

/-- The points of a descriptor in walk order. -/
def MovDesc.points (d : MovDesc) : List MovPoint := (walkPoints d.n).map d.pointAt

/-- The padding elements of the destination row of a point, written with PADFILL (R325). -/
def MovDesc.rowPads (d : MovDesc) (p : List Nat) : List MovPoint :=
  let len := d.n.getD d.rowDim 0
  if d.padfill then
    (upto (d.drow * 8 / d.width - len)).map fun i =>
      { src := none, dst := d.dstAt (d.dstRow p) (len + i), idx := walkIdx d.n p, pad := true }
  else []

/-- A list cut into pieces of `k`. -/
def cut {α : Type} (k : Nat) (l : List α) : List (List α) :=
  (upto (ceilDiv l.length k)).map fun i => (l.drop (i * k)).take k

/-- Elements of a folio turn's rows: L (R328). -/
def MovDesc.folioLen (d : MovDesc) : Nat := min (d.n.getD 0 1) (1024 / d.width)

/-- The folio turns of a descriptor in walk order (R328, R330). -/
def MovDesc.turnPoints (d : MovDesc) : List (List Nat) :=
  let n (i : Nat) : Nat := d.n.getD i 1
  walkPoints [n 0 / d.folioLen, n 1 / 32, n 2, n 3, n 4]

/-- The write accesses of a folio turn: one piece of 32 elements for each of its columns, and behind the last piece of a
row that row's padding in pieces of 32 (R325, R328). -/
def MovDesc.turnAccesses (d : MovDesc) (t : List Nat) : List (List MovPoint) :=
  let at_ (x y : Nat) : List Nat := (t.getD 0 0 * d.folioLen + x) :: (t.getD 1 0 * 32 + y) :: t.drop 2
  ((upto d.folioLen).map fun x => (upto 32).map fun y => d.pointAt (at_ x y)) ++
    if (t.getD 1 0 + 1) * 32 = d.n.getD 1 1 then
      (upto d.folioLen).flatMap fun x => cut 32 (d.rowPads (at_ x 31))
    else []

/-- What a descriptor writes, in the order in which its channel issues it: rounds, each of which reads all that it
writes before it writes, and in each its write accesses (R321, R327 to R330). XPOSE writes every element with an access
of its own, FOLIO a turn's pieces, COPY and WINDOW the 64 B pieces of a row from its first byte, or a whole row into a
turnable tile. -/
def MovDesc.rounds (d : MovDesc) : List (List (List MovPoint)) :=
  if d.op = 2 then d.turnPoints.map d.turnAccesses
  else if d.op = 1 then
    (walkPoints d.n).flatMap fun p =>
      [[d.pointAt p]] :: if p.getD 1 0 + 1 = d.n.getD 1 1 then (d.rowPads p).map fun x => [[x]] else []
  else
    (walkPoints (1 :: d.n.drop 1)).flatMap fun p =>
      let row := (upto (d.n.getD 0 1)).map (fun i => d.pointAt (i :: p.drop 1)) ++ d.rowPads p
      if d.turn then [[row]] else (cut (512 / d.width) row).map fun a => [a]

/-- Stream of a channel (R372). -/
def movStream (ch : BitVec 3) : BitVec 3 := 4#3 + (field ch 0 2).setWidth 3

/-- Translation of one byte for a channel: through the issuing carrel's cache, from the table on a miss
(R372, R374); the address must lie in HBM or a shelf that exists (R319, R324). -/
def State.movTrans (s : State) (c : BitVec 12) (ch : BitVec 3) (va : Word) (need : Rights) :
    Option (Nat × BitVec 6) :=
  let t := match s.translate c (movStream ch) va 1 need with
    | .miss => translateWith s.ownChip (s.tableAt (s.carrel c).ctx.toNat (fieldN va 60 4)) va 1 need
    | t => t
  match t with
  | .ok pa part =>
    if s.isLocal pa then
      match regionOf (localOf pa) with
      | .hbm => if localOf pa < s.hbmEnd then some (pa, part) else none
      | .shelf _ _ => some (pa, part)
      | _ => none
    else some (pa, part)
  | _ => none

/-- The physical nibble address of a virtual one. -/
def State.movNib (s : State) (c : BitVec 12) (ch : BitVec 3) (a : NibAddr) (need : Rights) :
    Option (NibAddr × BitVec 6) :=
  (s.movTrans c ch (word (a / 2)) need).map fun ((pa, part) : Nat × BitVec 6) => (pa * 2 + a % 2, part)

/-- A point with its addresses translated, each with its partition. -/
structure MovElem where
  src : Option (NibAddr × BitVec 6)
  dst : NibAddr
  part : BitVec 6
  idx : Nat
  pad : Bool
  deriving DecidableEq, Repr

/-- Translates a point; none where an address fails. -/
def State.movElem (s : State) (c : BitVec 12) (ch : BitVec 3) (p : MovPoint) : Option MovElem :=
  match s.movNib c ch p.dst 2 with
  | none => none
  | some (dst, part) =>
    let e : MovElem := { src := none, dst := dst, part := part, idx := p.idx, pad := p.pad }
    match p.src with
    | none => some e
    | some a => (s.movNib c ch a 1).map fun x => { e with src := some x }

/-- All of a list, or none where one fails. -/
def allSome {α : Type} : List (Option α) → Option (List α)
  | [] => some []
  | none :: _ => none
  | some x :: l => (allSome l).map (x :: ·)

/-- The rounds of a descriptor translated; none where an address fails. -/
def State.movRounds (s : State) (c : BitVec 12) (ch : BitVec 3) (d : MovDesc) : Option (List (List (List MovElem))) :=
  allSome (d.rounds.map fun r => allSome (r.map fun a => allSome (a.map (s.movElem c ch))))

/-- A nibble of local memory. -/
def State.nib (s : State) (a : NibAddr) : Nat := (s.byte (localOf (a / 2))).toNat / 16 ^ (a % 2) % 16

/-- The nibbles of a value of `width` bits, lowest first. -/
def nibsOf (width v : Nat) : List Nat := (upto (width / 4)).map fun i => v / 16 ^ i % 16

/-- The value of nibbles, lowest first. -/
def ofNibs : List Nat → Nat
  | [] => 0
  | x :: l => x + 16 * ofNibs l

/-- What a movement accumulates: the state, the place in walk order (plus 1) of the element whose value each nibble
written so far holds, the bytes of remote sources still to come, and the codes of the valid elements. -/
structure MovAcc where
  s : State
  done : Tab Nat
  data : List Byte
  codes : List Nat

/-- Reads the nibbles of one source element. A byte that an earlier round of the descriptor wrote has no stated value:
free. -/
def MovAcc.get (q : MovAcc) (a : NibAddr) (k : Nat) : List Nat × MovAcc :=
  if (upto k).any fun i => decide (Tab.get 0 q.done (a + i) ≠ 0) then
    let (w, s) := q.s.draw
    (nibsOf (4 * k) w.toNat, { q with s := s })
  else if q.s.isLocal (a / 2) then ((upto k).map fun i => q.s.nib (a + i), q)
  else
    let b := (k + 1) / 2
    let v := bytesToNat (q.data.take b) / 16 ^ (a % 2)
    (nibsOf (4 * k) v, { q with data := q.data.drop b })

/-- Reads the elements of a round; a border element and padding hold PADV (R325, R326). -/
def MovAcc.read (d : MovDesc) (q : MovAcc) : List MovElem → List (MovElem × List Nat) × MovAcc
  | [] => ([], q)
  | e :: l =>
    let (v, q) := match e.src with
      | some (a, _) => q.get a (d.width / 4)
      | none => (nibsOf d.width d.padv, q)
    let (r, q) := MovAcc.read d q l
    ((e, v) :: r, q)

/-- The nibbles of an access that take its values: of two points that write one nibble the later in walk order prevails
(R317). -/
def MovAcc.claim (q : MovAcc) (es : List (MovElem × List Nat)) : Tab Nat × Tab (Option Nat) :=
  let one (t : Tab Nat × Tab (Option Nat)) (e : MovElem) (x : Nat × Nat) : Tab Nat × Tab (Option Nat) :=
    let a := e.dst + x.1
    if Tab.get 0 t.1 a ≤ e.idx + 1 then (Tab.set 0 t.1 a (e.idx + 1), Tab.set none t.2 a (some x.2)) else t
  es.foldl (fun t x => (x.2.mapIdx fun i v => (i, v)).foldl (fun t y => one t x.1 y) t) (q.done, [])

/-- The bytes and byte enables of a 64 B block, from the nibbles that an access writes; `old` is the other nibble of a
byte written in half. -/
def nibBlock (old : NibAddr → Nat) (t : Tab (Option Nat)) (b : Nat) : List Byte × List Bool :=
  let nib (i : Nat) : Nat := (Tab.get none t (128 * b + i)).getD (old (128 * b + i))
  ((upto 64).map fun j => BitVec.ofNat 8 (nib (2 * j) % 16 + 16 * (nib (2 * j + 1) % 16)),
   (upto 64).map fun j => (Tab.get none t (128 * b + 2 * j)).isSome || (Tab.get none t (128 * b + 2 * j + 1)).isSome)

/-- The masked writes of one access: in local memory at once, where a write that leaves part of a lost word is abandoned
(R342); to another chip over its link (R333, R392). -/
def MovAcc.write (who : Requester) (q : MovAcc) (es : List (MovElem × List Nat)) : MovAcc :=
  let (done, t) := q.claim es
  let part := ((es.head?.map fun x => x.1.part).getD 0)
  let s := ((t.map fun x => x.1 / 128).eraseDups).foldl (fun s b =>
    if s.isLocal (64 * b) then
      let (data, mask) := nibBlock s.nib t b
      (s.blockWrite (localOf (64 * b)) data mask).getD s
    else
      let (data, mask) := nibBlock (fun _ => 0) t b
      s.sendRequest who 1 (64 * b) part true 0 false false (maskWords data mask)) q.s
  { q with s := s, done := done, codes := q.codes ++ (es.filter fun x => !x.1.pad).map fun x => ofNibs x.2 }

/-- One round: all it reads, then its accesses. -/
def MovAcc.round (who : Requester) (d : MovDesc) (q : MovAcc) (r : List (List MovElem)) : MovAcc :=
  r.foldl (fun (x : List (MovElem × List Nat) × MovAcc) a =>
      (x.1.drop a.length, x.2.write who (x.1.take a.length))) (MovAcc.read d q r.flatten) |>.2

/-- The movement of a list of translated rounds: the state and the codes of the elements written. -/
def State.movRun (s : State) (bay : BitVec 8) (ch : BitVec 3) (d : MovDesc) (rs : List (List (List MovElem)))
    (data : List Byte) : State × List Nat :=
  let q := rs.foldl (MovAcc.round (.mover bay ch) d) { s := s, done := [], data := data, codes := [] }
  let b := q.s.bayCount bay.toNat
  let b := { b with
    bytes := Tab.set 0 b.bytes ch.toNat (Tab.get 0 b.bytes ch.toNat + q.codes.length * d.width / 8)
    folioTurns := b.folioTurns + if d.op = 2 then rs.length else 0 }
  (q.s.modBay bay.toNat fun _ => b, q.codes)

/-- The bytes that come for the remote sources of a list of elements. -/
def State.remoteBytes (s : State) (d : MovDesc) (es : List MovElem) : Nat :=
  (es.filter fun e => match e.src with | some (a, _) => !s.isLocal (a / 2) | none => false).length *
    ((d.width / 4 + 1) / 2)

/-- The 64 B accesses of rounds: a block read for each source row it serves, and each write access (R330, R331). -/
def movAccesses (d : MovDesc) (rs : List (List (List MovElem))) : List (Nat × BitVec 6) :=
  let es := rs.flatten.flatten
  ((es.filterMap fun e => e.src.map fun x => (e.idx / d.n.getD 0 1, x.1 / 128, x.2)).eraseDups.map fun x => (64 * x.2.1, x.2.2)) ++
    rs.flatten.filterMap fun a => a.head?.map fun e => (e.dst / 2, e.part)

/-- The tokens of a descriptor's accesses to this module's HBM (R346, R347). -/
def State.movAsk (s : State) (bay : BitVec 8) (ch : BitVec 3) (d : MovDesc) (rs : List (List (List MovElem))) : Bool × State :=
  s.askHbm (.mover bay ch) .planned 1
    (s.tokensFor 1 (((movAccesses d rs).filter fun x => s.isLocal x.1).map fun x => (localOf x.1, x.2)))

/-- The value that a gauge reads from an element (R332). The spec states no exponent for an FX64 or AX
element of a mover: free. DESIGN CHOICE (log entry 44). -/
def State.movGauge (s : State) (c : BitVec 12) (d : MovDesc) (codes : List Nat) : State :=
  if d.layer = 0 then s else
  let (w, s) := s.draw
  s.gaugeAdd (s.carrel c).ctx.toNat d.layer d.gkind (codes.map (tyNum d.gfmt.ty (w.setWidth 16).toInt))

/-! ### Channels (R315, R321, R324) -/

/-- The queue of a channel's snapshot copies in its issuing carrel (R334). -/
def copyQueue (ch : BitVec 3) : Nat := 16 + ch.toNat

/-- The descriptor at the head of a channel, with the carrel that has issued it and its queue: snapshot copies come before
every other descriptor (R315, R334). -/
def State.movHead (s : State) (bay : BitVec 8) (ch : BitVec 3) : Option (BitVec 12 × Nat × Issued) :=
  let find (q : Nat) : Option (BitVec 12 × Nat × Issued) := (upto 16).findSome? fun i =>
    let c := BitVec.ofNat 12 (bay.toNat * 16 + i)
    ((s.carrel c).unfinished q).head?.map fun x => (c, q, x)
  (find (copyQueue ch)).or (find (6 + ch.toNat))

/-- A descriptor at the head of its queue replaced. -/
def Carrel.setHead (k : Carrel) (q : Nat) (x : Issued) : Carrel :=
  { k with queue := Tab.set [] k.queue q (x :: (k.unfinished q).drop 1) }

/-- The descriptor-cache segments that a descriptor would miss. -/
def State.movMisses (s : State) (c : BitVec 12) (ch : BitVec 3) (d : MovDesc) : List Nat :=
  let as := d.points.flatMap fun p => p.dst :: (match p.src with | some a => [a] | none => [])
  (upto 16).filter fun g =>
    as.any (fun a => decide (fieldN (word (a / 2)) 60 4 = g)) &&
      (Tab.get none (s.carrel c).desc ((movStream ch).toNat * 16 + g)).isNone

/-- Read requests of the 64 B blocks that remote sources touch, in walk order (R333). -/
def State.movReads (s : State) (bay : BitVec 8) (ch : BitVec 3) : List MovElem → Option Nat → State
  | [], _ => s
  | e :: l, last =>
    match e.src with
    | some (a, part) =>
      if s.isLocal (a / 2) ∨ last = some (a / 128) then s.movReads bay ch l last
      else (s.sendRequest (.mover bay ch) 0 (a / 128 * 64) part true 0 false false []).movReads bay ch l (some (a / 128))
    | none => s.movReads bay ch l last

/-- A channel starts its next descriptor: the one before has completed, and its token is released (R321). A stopped
descriptor never completes (R324).
A descriptor-cache miss of the channel's stream is counted, and the channel waits for the fill (R374). -/
def execMoverDescriptorStart (bay : BitVec 8) (ch : BitVec 3) (s : State) : Out :=
  .next <|
    match s.movHead bay ch with
    | none => s
    | some (c, q, x) =>
      let d := movDesc x.desc x.param
      if x.started ∨ x.dead ∨ s.tokenIn c d.tokWait = false then s
      else
        let miss := s.movMisses c ch d
        if miss ≠ [] then
          let s := s.modCarrel c fun k =>
            { k with count := { k.count with segmiss := k.count.segmiss + word miss.length } }
          { s with seg := { s.seg with missCnt := satAdd s.seg.missCnt miss.length } }
        else
          let s := s.modCarrel c fun k => k.setHead q { x with started := true }
          match s.movRounds c ch d with
          | some rs => s.movReads bay ch rs.flatten.flatten none
          | none => s

/-- A descriptor whose writes are all acknowledged completes: TOKREL is released, and the channel is free (R321). -/
def State.movComplete (s : State) (c : BitVec 12) (q : Nat) (x : Issued) : State :=
  ((s.release c (movDesc x.desc x.param).tokRel).modCarrel c fun k => k.finishIssued q x).engineWake c

/-- The running descriptor moves its data once every remote read is answered and its tokens are drawn, and completes once
every write is acknowledged, at once where none goes to another chip (R321, R333, R347). `data` is what the remote reads
brought; data of another length, or an address that fails, is no completion. DESIGN CHOICE (log entry 19). -/
def execMoverDescriptorDone (bay : BitVec 8) (ch : BitVec 3) (data : List Byte) (s : State) : Out :=
  .next <|
    match s.movHead bay ch with
    | none => s
    | some (c, q, x) =>
      let who : Requester := .mover bay ch
      if x.started = false ∨ x.dead ∨ s.asked who then s
      else if x.moved then s.movComplete c q x
      else
        let d := movDesc x.desc x.param
        match s.movRounds c ch d with
        | none => s
        | some rs =>
          if data.length ≠ s.remoteBytes d rs.flatten.flatten then s
          else whenLet (s.movAsk bay ch d rs) fun s =>
            let (s, codes) := s.movRun bay ch d rs data
            let s := s.movGauge c d codes
            if s.asked who then s.modCarrel c fun k => k.setHead q { x with moved := true }
            else s.movComplete c q x

/-- Whether a nibble address lies in the block of a stop's address. -/
def inBlock (a : Word) (n : NibAddr) : Bool := decide (n / 128 = a.toNat / 64)

/-- The accesses of a round that a channel has issued when a failure at `a` stops it: none where a source fails, and the
accesses before the first whose destination fails (R324). The second part says whether the round was cut short. -/
def State.issuedOf (s : State) (c : BitVec 12) (ch : BitVec 3) (a : Word) (r : List (List MovPoint)) :
    List (List MovElem) × Bool :=
  let badSrc (p : MovPoint) : Bool := match p.src with
    | some x => inBlock a x || (s.movNib c ch x 1).isNone
    | none => false
  let badDst (p : MovPoint) : Bool := inBlock a p.dst || (s.movNib c ch p.dst 2).isNone
  if r.any fun l => l.any badSrc then ([], true)
  else
    let l := r.takeWhile fun l => !l.any badDst
    (l.map fun l => l.filterMap (s.movElem c ch), decide (l.length < r.length))

/-- The rounds that a channel has issued when a failure at `a` stops it. -/
def State.issuedRounds (s : State) (c : BitVec 12) (ch : BitVec 3) (a : Word) :
    List (List (List MovPoint)) → List (List (List MovElem))
  | [] => []
  | r :: l =>
    let (x, stop) := s.issuedOf c ch a r
    if stop then (if x = [] then [] else [x]) else x :: s.issuedRounds c ch a l

/-- A stopped descriptor has moved what its channel issued before the failure; what a remote source held is free. -/
def State.movStopped (s : State) (c : BitVec 12) (bay : BitVec 8) (ch : BitVec 3) (d : MovDesc) (a : Word) : State :=
  let rs := s.issuedRounds c ch a d.rounds
  let n := s.remoteBytes d rs.flatten.flatten
  let (w, s) := s.draw
  let (s, codes) := s.movRun bay ch d rs ((upto n).map fun i => (Config.freeWord (w.toNat + i)).setWidth 8)
  s.movGauge c d codes

/-- A translation failure or an unmapped-target response stops a descriptor (R324): it issues no further access and never
completes, so that nothing follows it in its channel; a record; a LATE event of the plan. -/
def execDescStop (bay : BitVec 8) (ch : BitVec 3) (cause : StopCause) (s : State) : Out :=
  .next <|
    match s.movHead bay ch with
    | none => s
    | some (c, q, x) =>
      if x.started ∧ x.dead = false then
        let d := movDesc x.desc x.param
        let s := if x.moved then s else s.movStopped c bay ch d cause.addr
        let s := match s.planOf c with
          | some (i, _) => s.modPlan i fun p => { p with late := true }
          | none => s
        let s := s.report { s.carrelReport c 0x33 1 with
          disp := 4
          unitno := bay.setWidth 16, opnum := BitVec.ofNat 32 d.opnum, addr := cause.addr
          d0 := cause.code.setWidth 64, d1 := ch.setWidth 64 }
        (s.forget (.mover bay ch)).modCarrel c fun k => k.setHead q { x with dead := true }
      else s

/-! ### Snapshot copies (R60, R334) -/

/-- The COPY descriptor of an in-place range: rows of 64 B where its length needs more than 4 bytes (R316, R334). -/
def copyBytes (src dst : Word) (len : Nat) : List Byte :=
  let (n0, n1) := if len < 2 ^ 32 then (len, 1) else (64, ceilDiv len 64)
  let ones := natToBytes 4 1
  let b := patch (List.replicate 192 0) 6 [1, if n1 = 1 then 1 else 2]
  let b := patch b 8 (natToBytes 4 n0 ++ natToBytes 4 n1 ++ ones ++ ones ++ ones ++ natToBytes 4 n0)
  let b := patch b 0x20 (natToBytes 8 src.toNat ++ natToBytes 8 dst.toNat)
  if n1 = 1 then b else patch (patch b 0x30 (natToBytes 8 64)) 0x50 (natToBytes 8 64)

/-- The snapshot region of an in-place range that a value of TICK_WTN's bit 0 selects (R60, R567). -/
def RwRange.snapAt (r : RwRange) (second : Bool) : Word :=
  r.snap + if second then word (ceilDiv r.len 64 * 64) else 0

/-- The copy of an in-place range into one of its snapshot regions. -/
def RwRange.copyDesc (r : RwRange) (second : Bool) : List Byte := copyBytes r.va (r.snapAt second) r.len

/-- The copy that a plan tick makes of an in-place range joins its channel's copies (R60, R334). -/
def State.queueCopy (s : State) (r : RwRange) : State :=
  let q := copyQueue (BitVec.ofNat 3 r.channel)
  s.modCarrel (BitVec.ofNat 12 r.carrel) fun k => { k with
    queue := Tab.set [] k.queue q (k.unfinished q ++ [
      { queue := q, idx := 0, desc := r.copyDesc (s.tick.wtn.getLsbD 0), param := none, started := false }]) }

/-- One byte copied from virtual address to virtual address of a carrel; unmoved where either fails. -/
def State.copyByte (s : State) (c : BitVec 12) (ch : BitVec 3) (src dst : Word) : State :=
  match s.movTrans c ch src 1, s.movTrans c ch dst 2 with
  | some (a, _), some (b, _) =>
    if s.isLocal a && s.isLocal b then s.setByte (localOf b) (s.byte (localOf a)) else s
  | _, _ => s

/-- A replay restores an in-place range from its snapshot (R60). -/
def State.snapRestore (s : State) (r : RwRange) : State :=
  let src := r.snapAt (s.tick.wtn.getLsbD 0)
  (upto r.len).foldl (fun s i =>
    s.copyByte (BitVec.ofNat 12 r.carrel) (BitVec.ofNat 3 r.channel) (src + word i) (r.va + word i)) s

end Sys2Proof.Machine
end

