-- ==== Sys2Proof/Machine/LinkRec.lean ====
section
/-!
DEFINITION. Link records of a plan (R568) and the reductions between chips (R265 to R268, R392, R403).
-/

namespace Sys2Proof.Machine

/-- Fields of a link record (R568). -/
structure LinkRec where
  kind : Nat
  op : BitVec 4
  w : Bool
  ret : Bool
  loc : Word
  remote : Word
  length : Nat
  number : Nat
  type : Nat
  exp : Nat
  link : Nat
  tokWait : Nat
  tokRel : Nat
  deriving DecidableEq, Repr

/-- A link record from its bytes. -/
def linkRec (d : List Byte) : LinkRec :=
  { kind := leAt d 4 1, op := BitVec.ofNat 4 (leAt d 5 1), w := (leAt d 6 1).testBit 0
    ret := (leAt d 6 1).testBit 1, loc := word (leAt d 8 8), remote := word (leAt d 0x10 8)
    length := leAt d 0x18 4, number := leAt d 0x1C 2, type := leAt d 0x1E 1, exp := leAt d 0x20 2
    link := leAt d 0x22 2, tokWait := leAt d 0x24 2, tokRel := leAt d 0x26 2 }

/-- Translation of an address of a record, under the plan's context. -/
def State.recTrans (s : State) (ctx : BitVec 12) (va : Word) (n : Nat) (need : Rights) :
    Option (Nat × BitVec 6) :=
  match translateWith s.ownChip (s.tableAt ctx.toNat (fieldN va 60 4)) va n need with
  | .ok pa part => some (pa, part)
  | _ => none

/-- Bytes of this chip at a virtual address; none where it does not translate or is not populated (R35), or a word
is lost (R449). -/
def State.recBytes (s : State) (ctx : BitVec 12) (va : Word) (n : Nat) : Option (List Byte) :=
  match s.recTrans ctx va n 1 with
  | some (pa, _) =>
    if s.isLocal pa && s.present (localOf pa) n && !s.lostIn (localOf pa) n then some (s.bytes (localOf pa) n) else none
  | none => none

/-- The units of a block write: all bytes enabled (R392). -/
def blockWords (b : List Byte) : List Word :=
  BitVec.allOnes 64 :: (upto 8).map fun i => word (leAt b (8 * i) 8)

/-! ### Reductions (R265 to R268) -/

/-- One combining step on two codes of a value format (R267). -/
def redAdd (ty x y : Nat) : Nat :=
  match tyFmt ty with
  | some f => (f.addOp x y).1
  | none =>
    if ty = 12 then (fxAdd x y).1
    else
      let w := tyBits ty
      (BitVec.ofInt w (clampInt (-(2 ^ (w - 1))) (2 ^ (w - 1) - 1) (sInt w x + sInt w y))).toNat

/-- Two partials combined by position; one without values is empty and passes the other through (R266). A fragment
without values so declares its position empty. DEDUCED (log entry 83). -/
def redAddAll (ty : Nat) (x y : List Nat) : List Nat :=
  if x = [] then y else if y = [] then x else (x.zip y).map fun ((a, b) : Nat × Nat) => redAdd ty a b

/-- One level of the pairing tree: position 2j with position 2j + 1 (R175, R266). -/
def redLevel (f : List Nat → List Nat → List Nat) : List (List Nat) → List (List Nat)
  | x :: y :: l => f x y :: redLevel f l
  | l => l

/-- `k` levels of the pairing tree, over 2^k positions. -/
def redTree (f : List Nat → List Nat → List Nat) : Nat → List (List Nat) → List Nat
  | 0, l => l.headD []
  | k + 1, l => redTree f k (redLevel f l)

/-- The value of a reduction over a module's carrels: SLOT in 4 levels, logical BAY in 7, DIE in 1; a carrel without
values takes no part (R266, R268). No command makes these steps: a plan makes them with data-mover and element-engine
descriptors, whose events and flags they are, and sends what they give as the own value of the chip level (R267). -/
def reduceModule (ty : Nat) (part : Nat → List Nat) : List Nat :=
  let f := redAddAll ty
  redTree f 1 ((upto 2).map fun die => redTree f 7 ((upto 128).map fun bay =>
    redTree f 4 ((upto 16).map fun slot => part (die * 2048 + bay * 16 + slot))))

/-- The entries of LNK_RED.ORDER in force (R412): 0–11 a child link, 14 the own value. -/
def State.redOrder (s : State) : List Nat :=
  (upto (fieldN s.chain.live.red 4 4)).map fun i => fieldN s.chain.live.red (8 + 4 * i) 4

/-- LNK_RED.PARENT in force; 15 at the root. -/
def State.redParent (s : State) : Nat := fieldN s.chain.live.red 0 4

/-- The values of a fragment packed densely into whole units (R392). -/
def packValues (ty : Nat) (l : List Nat) : List Word :=
  let n := packCodes (tyBits ty) l
  (upto (ceilDiv (l.length * tyBits ty) 64)).map fun i => word (n / 2 ^ (64 * i))

/-- The values packed in a byte string. -/
def unpackBytes (ty n : Nat) (l : List Byte) : List Nat :=
  let x := bytesToNat l
  (upto n).map fun i => x / 2 ^ (tyBits ty * i) % 2 ^ tyBits ty

/-- The values of a fragment's units. -/
def unpackValues (ty n : Nat) (l : List Word) : List Nat :=
  unpackBytes ty n (l.flatMap fun w => natToBytes 8 w.toNat)

/-- A reduction fragment (R392). -/
def fragItem (chip : BitVec 12) (num ty exp : Nat) (vals : List Nat) : Item :=
  [itemHdr 9 chip 0 0 0 true 0 false false,
   word num ||| place (BitVec.ofNat 5 ty) 16 ||| place (BitVec.ofNat 12 exp) 21 |||
     place (BitVec.ofNat 16 vals.length) 33] ++ packValues ty vals

/-- The reduction of a number at this node. -/
def Chain.redOf (c : Chain) (n : Nat) : Option Reduction := c.reds.find? fun r => decide (r.num = n)

/-- Puts a value into the node of a reduction; once every entry of the list has delivered, the node combines
them from left to right, and sends the result to its parent or, at the root, holds it (R266, R268, R403). -/
def State.redPut (s : State) (num ty exp pos : Nat) (vals : List Nat) : State :=
  let e := (BitVec.ofNat 12 exp).toInt
  let r := match s.chain.redOf num with
    | some r => if r.result.isSome then { r with type := ty, exp := e, parts := [], result := none } else r
    | none => { num := num, type := ty, exp := e, parts := [], result := none }
  let r := { r with parts := Tab.set none r.parts pos (some vals) }
  let rest := s.chain.reds.filter fun r => decide (r.num ≠ num)
  let put (l : List Reduction) : State := { s with chain := { s.chain with reds := l } }
  match allSome (s.redOrder.map (Tab.get none r.parts)) with
  | some (x :: l) =>
    let v := l.foldl (redAddAll r.type) x
    if s.redParent = 15 then put ({ r with result := some v } :: rest)
    else (put rest).sendOn s.redParent (fragItem s.ownChip num r.type (BitVec.ofInt 12 r.exp).toNat v) 2
  | _ => put (r :: rest)

/-- A reduction fragment comes from a child of this node's list (R266 to R268). -/
def execReductionFragment (l : Fin 12) (s : State) : Out :=
  match s.takeRx l.val fun i => decide (i.kind = 9) && decide (fieldN (i.unit 1) 0 16 ≠ 0xFFFF) with
  | none => .next s
  | some (i, s) =>
    let u := i.unit 1
    let ty := fieldN u 16 5
    .next (if s.redOrder.contains l.val then
      s.redPut (fieldN u 0 16) ty (fieldN u 21 12) l.val (unpackValues ty (fieldN u 33 16) (i.drop 2))
    else s)

/-! ### Records (R568) -/

/-- The tokens of a record's accesses to this module's HBM at a virtual range: planned (R346, R347). -/
def State.recAsk (s : State) (slot : BitVec 8) (ctx : BitVec 12) (va : Word) (n : Nat) : Bool × State :=
  s.askHbm (.record slot) .planned 1 (s.tokensFor 1 (match s.recTrans ctx va n 0 with
    | some (pa, part) => if s.isLocal pa then (piecesOf (localOf pa) n).map fun x => (x.1, part) else []
    | none => []))

/-- The bytes at LOCAL that a record reads when it starts (R568). -/
def LinkRec.ahead (r : LinkRec) : Nat :=
  match r.kind with
  | 0 => r.length
  | 2 => if r.op = 14 then 16 else operWidth r.op r.w
  | 4 => ceilDiv (r.length * tyBits r.type) 8
  | _ => 0

/-- Sends the request of one block of a write or a read; none where an address fails. -/
def State.recBlock (s : State) (slot : BitVec 8) (ctx : BitVec 12) (r : LinkRec) (i : Nat) : Option State :=
  let at_ := r.remote + word (64 * i)
  if r.kind = 0 then
    match s.recTrans ctx at_ 64 2, s.recBytes ctx (r.loc + word (64 * i)) 64 with
    | some (pa, part), some b => some (s.sendRequest (.record slot) 1 pa part true 0 false false (blockWords b))
    | _, _ => none
  else
    (s.recTrans ctx at_ 64 1).map fun ((pa, part) : Nat × BitVec 6) =>
      s.sendRequest (.record slot) 0 pa part true 0 false false []

/-- Sends the requests of blocks in order; with false the first whose address fails, which sends nothing. -/
def State.recBlocks (s : State) (slot : BitVec 8) (ctx : BitVec 12) (r : LinkRec) : List Nat → State × Bool
  | [] => (s, true)
  | i :: l => match s.recBlock slot ctx r i with
    | some s => s.recBlocks slot ctx r l
    | none => (s, false)

/-- What a record sends when it starts; with false where an access of it fails. A fragment that leaves on this node's
parent link, or starts at the root, is the node's own value where its list names one. -/
def State.recSend (s : State) (slot : BitVec 8) (ctx : BitVec 12) (r : LinkRec) : State × Bool :=
  match r.kind with
  | 2 =>
    let n := operWidth r.op r.w
    match s.recTrans ctx r.remote n 8, s.recBytes ctx r.loc (if r.op = 14 then 16 else n) with
    | some (pa, part), some x => (s.sendRequest (.record slot) 2 pa part true r.op r.ret r.w
        (word (leAt x 0 n) :: if r.op = 14 then [word (leAt x 8 n)] else []), true)
    | _, _ => (s, false)
  | 3 => (s.arriveBarrier r.number (12 + r.link), true)
  | 4 =>
    match s.recBytes ctx r.loc (ceilDiv (r.length * tyBits r.type) 8) with
    | none => (s, false)
    | some b =>
      let vals := unpackBytes r.type r.length b
      if s.redOrder.contains 14 ∧ (s.redParent = r.link ∨ s.redParent = 15) then
        (s.redPut r.number r.type r.exp 14 vals, true)
      else (s.sendOn r.link (fragItem s.ownChip r.number r.type r.exp vals) 2, true)
  | _ => s.recBlocks slot ctx r (upto (r.length / 64))

/-- Whether an awaited token of a plan is released. -/
def Plan.tokenIn (p : Plan) (t : Nat) : Bool := decide (t = 0) || p.tokens.contains t

/-- A record of a plan's list replaced. -/
def State.putRecord (s : State) (slot i : Nat) (x : LinkRun) : State :=
  s.modPlan slot fun p => { p with links := listSet p.links i x }

/-- The first record that has not started starts, once its token is released (R568). -/
def execLinkRecordStart (slot : BitVec 8) (s : State) : Out :=
  .next <|
    match s.plan slot.toNat with
    | none => s
    | some p =>
      let i := (p.links.takeWhile (·.started)).length
      match p.links[i]? with
      | none => s
      | some x =>
        let r := linkRec x.desc
        if p.tokenIn r.tokWait then
          whenLet (s.recAsk slot p.ctx r.loc r.ahead) fun s =>
            let (s, ok) := s.recSend slot p.ctx r
            s.putRecord slot.toNat i { x with started := true, dead := !ok }
        else s

/-- Stores the bytes of a read or of an old value at LOCAL; none where the address fails or is not populated. -/
def State.recStore (s : State) (ctx : BitVec 12) (va : Word) (b : List Byte) : Option State :=
  if b = [] then some s else
  match s.recTrans ctx va b.length 2 with
  | some (pa, _) =>
    if s.isLocal pa && s.present (localOf pa) b.length then some (s.store (localOf pa) b) else none
  | none => none

/-- The bytes that come back for a record. -/
def LinkRec.back (r : LinkRec) : Nat :=
  if r.kind = 1 then r.length else if r.kind = 2 ∧ r.ret then operWidth r.op r.w else 0

/-- The last response or acknowledgement of a running record has come: its data is stored and TOKREL is released
(R568). A record whose data cannot be stored never completes. -/
def execLinkRecordDone (slot : BitVec 8) (e : RecordEnd) (s : State) : Out :=
  let i := e.i
  let data := e.data
  .next <|
    match s.plan slot.toNat with
    | none => s
    | some p =>
      match p.links[i]? with
      | none => s
      | some x =>
        let r := linkRec x.desc
        if x.started ∧ x.dead = false ∧ data.length = r.back then
          whenLet (s.recAsk slot p.ctx r.loc r.back) fun s =>
            match s.recStore p.ctx r.loc data with
            | none => s.putRecord slot.toNat i { x with dead := true }
            | some s => s.modPlan slot.toNat fun p =>
              { p with
                links := p.links.take i ++ p.links.drop (i + 1)
                tokens := if r.tokRel = 0 ∨ p.tokens.contains r.tokRel then p.tokens else p.tokens ++ [r.tokRel] }
        else s

end Sys2Proof.Machine
end

