-- ==== Sys2Proof/Machine/Func.lean ====
section
/-!
DEFINITION. Function states (R520 to R523), the answers of the dictionary (R502, R507), and scrub on
release (R491).
-/

namespace Sys2Proof.Machine

/-! ### Answers of the dictionary -/

/-- The window of a dictionary source: 0 the PF, f a VF. -/
def winOf : DictSrc → Nat
  | .vf f => f.toNat
  | _ => 0

/-- A dictionary window. -/
def State.win (s : State) (f : Nat) : DictWin := Tab.get DictWin.reset s.dict.windows f

/-- A dictionary window changed. -/
def State.modWin (s : State) (f : Nat) (g : DictWin → DictWin) : State :=
  { s with dict := { s.dict with windows := Tab.set DictWin.reset s.dict.windows f (g (s.win f)) } }

/-- Bytes placed in a window's buffer from its start. -/
def bufSet (b : Tab Byte) : Nat → List Byte → Tab Byte
  | _, [] => b
  | i, x :: l => bufSet (Tab.set 0 b i x) (i + 1) l

/-- The end of a dictionary request of a source: abort code (0 for success), bytes moved, size of the value
and the bytes read. Over CAN the keeper sends the USDO response; a window shows the result (R502, R507). -/
def State.dictEnd (s : State) (src : DictSrc) (code done size : Nat) (data : List Byte) : State :=
  match src with
  | .can =>
    if s.canTalk then s.send (.can (0x580 + s.dict.nodeId.toNat) (natToBytes 4 code ++ natToBytes 4 size ++ data))
    else s
  | _ => s.modWin (winOf src) fun w =>
    { w with
      go := false, err := w.err || decide (code ≠ 0), abort := BitVec.ofNat 32 code
      doneLen := if code = 0 then BitVec.ofNat 32 done else w.doneLen
      size := if code = 0 then BitVec.ofNat 32 size else w.size, buf := bufSet w.buf 0 data }

/-- A request is refused with an abort code (R502). -/
def State.dictAbort (s : State) (src : DictSrc) (code : Nat) : State := s.dictEnd src code 0 0 []

/-- A write of `n` bytes is accepted. -/
def State.dictOk (s : State) (src : DictSrc) (n : Nat) : State := s.dictEnd src 0 n n []

/-- Whether a source may reach the dictionary now: the CAN master only while USDO runs (R498, R500), a
window while a keeper that has booted lives (R464, R527). DEDUCED (log entry 45). -/
def State.dictServed (s : State) (src : DictSrc) : Bool :=
  match src with
  | .can => s.canTalk
  | _ => !s.keepers.none_ && decide (s.dict.nmt ≠ 0)

/-- Whether start-up is still running: step 10 has not ended (R528). -/
def State.starting (s : State) : Bool := decide (s.start.step < 10)

/-! ### Function entries (R520 to R523) -/

/-- Resident or LOADING plans of the module. -/
def State.livePlans (s : State) : List (Nat × Plan) := s.plans.filter fun (_, p) => p.present

/-- Whether a segment of a context names a partition. -/
def State.ctxNames (s : State) (ctx p : Nat) : Bool :=
  (upto 16).any fun i =>
    let d := s.tableAt ctx i
    d.getLsbD 0 && decide (fieldN d 6 6 = p)

/-- Whether a plan uses a carrel or unit of a bay. -/
def Plan.usesBay (p : Plan) (b : Nat) : Bool :=
  p.img.set.any (fun c => decide (c / 16 = b)) || p.img.rowEng.contains b || p.img.folio.contains b ||
    (Tab.get 0 p.img.margin b != 0) || (upto 8).any fun ch => Tab.get 0 p.img.mover (b * 8 + ch) != 0

/-- Whether a disable is refused (R523). -/
def State.disableRefused (s : State) : FuncId → Bool
  | .link _ => false
  | .stack _ => !s.livePlans.isEmpty
  | .part p => s.livePlans.any fun (_, q) => s.ctxNames q.ctx.toNat p.toNat
  | .bay b => s.livePlans.any fun (_, q) => q.usesBay b.toNat
  | .ctx c => decide (c = 0)

/-- Whether an enable is refused (R523). -/
def State.enableRefused (s : State) : FuncId → Bool
  | .stack i => (s.stack i.toNat).excluded
  | _ => false

/-- The fuse values that the active keeper uses: its own copy once the fuse-load step has read it, the fuse block
before (R21). -/
def State.fuses (s : State) : Tab Byte :=
  (if s.keepers.active then s.keepers.fuseE else s.keepers.fuseW).getD s.sec.fuse

/-- The protection bits of the fuses (R477): 0 DEBUG_LOCK, 1 GATE_ONLY, 2 SCRUB, 3 TEST_LOCK, 4 CFG_SEAL. -/
def State.prot (s : State) : BitVec 8 := Tab.get 0 s.fuses 0x70

/-- Whether scrub on release is in force now (R491). -/
def State.scrubNow (s : State) : Bool := s.prot.getLsbD 2 || s.sec.scrubEn

/-- The work that begins when a function enters STARTING (R523). -/
def State.beginStart (s : State) : FuncId → State
  | .link l => s.modLink l.val fun k => { k with en := true, state := if k.state = 6 then 0 else k.state }
  | .stack i => s.modStack i.toNat fun k => if k.selfref then { k with exiting := true } else k
  | _ => s

/-- A write of REQUEST to a function (R522). -/
def State.funcWrite (s : State) (fn : FuncId) (v : Bool) : State :=
  let f := { s.func fn with request := v }
  if v then
    if f.state = 0 then (s.setFunc fn { f with state := 1, fault := false }).beginStart fn
    else if f.state = 3 then s.setFunc fn { f with deferred := true }
    else s.setFunc fn f
  else
    if f.state = 1 ∨ f.state = 2 then
      s.setFunc fn { f with state := 3, deferred := false
                            scrub := (match fn with | .ctx _ => s.scrubNow | _ => false) }
    else if f.state = 3 then s.setFunc fn { f with deferred := false }
    else s.setFunc fn f

/-- A dictionary write to a function entry (R502, R520 to R523, R528). -/
def State.funcEntry (s : State) (src : DictSrc) (fn : FuncId) (v : Bool) : State :=
  if s.dictServed src = false then s
  else if (match src with | .vf _ => true | _ => false) then s.dictAbort src 0x06010000
  else if s.starting ∨ (if v then s.enableRefused fn else s.disableRefused fn) then s.dictAbort src 0x08000022
  else (s.funcWrite fn v).dictOk src 2

def execFunctionEnable (src : DictSrc) (fn : FuncId) (s : State) : Out := .next (s.funcEntry src fn true)
def execFunctionDisable (src : DictSrc) (fn : FuncId) (s : State) : Out := .next (s.funcEntry src fn false)

/-- A carrel of a bay enters DOZE (R73, R523). -/
def State.dozeBay (s : State) (b : Nat) : State :=
  s.modCarrels ((upto 16).map (b * 16 + ·)) fun k => { k with power := .doze, waking := false }

/-- The start work of a function ends (R522, R523). A failed start gives OFF with FAULT. -/
def State.startDone (s : State) (fn : FuncId) (ok : Bool) : State :=
  let f := s.func fn
  if f.state = 1 then
    if ok then
      let s := s.setFunc fn { f with state := 2 }
      match fn with
      | .ctx c => s.modHctx c.toNat fun h => { h with nextSeq := 1 }
      | .stack i => s.modStack i.toNat fun k => { k with selfref := false, exiting := false }
      | _ => s
    else s.setFunc fn { f with state := 0, fault := true }
  else s

def execFunctionStartDone (fn : FuncId) (ok : Bool) (s : State) : Out := .next (s.startDone fn ok)

/-! ### Scrub on release (R491) -/

/-- Zeros written over a range of local memory. -/
def State.zeroRange (s : State) (a n : Nat) : State :=
  { s with
    mem := s.mem.filter fun (k, _) => decide (k < a) || decide (a + n ≤ k)
    lost := s.lost.filter fun (w, _) => !(decide (a ≤ 8 * w) && decide (8 * w + 8 ≤ a + n)) }

/-- The local ranges that the VALID segments of a context with the W right map, without the device
registers: address, bytes, partition. -/
def State.scrubRanges (s : State) (ctx : Nat) : List (Nat × Nat × BitVec 6) :=
  (upto 16).filterMap fun i =>
    let d := s.tableAt ctx i
    let base := fieldN d 12 44 * 4096
    let a := localOf base
    if d.getLsbD 0 ∧ d.getLsbD 2 ∧ s.isLocal base ∧ a < 0xF0000000000 then some (a, fieldN d 64 45, field d 6 6) else none

/-- The tokens of a context's scrub: unplanned ones of each segment's partition (R346, R491). -/
def State.scrubAsk (s : State) (ctx : BitVec 12) : Bool × State :=
  s.askHbm (.scrub ctx) .unplanned 1 (s.tokensFor 1 ((s.scrubRanges ctx.toNat).flatMap fun x =>
    (piecesOf x.1 x.2.1).map fun y => (y.1, x.2.2)))

/-- The bytes of a context's scrub still to be written: those whose tokens have not been drawn. -/
def State.scrubLeft (s : State) (ctx : Nat) : Nat :=
  ((s.scrubRanges ctx).map (·.2.1)).sum - 64 * ((s.paidBy (.scrub (BitVec.ofNat 12 ctx))).map (·.2)).sum

/-- SCRUB_PENDING: the bytes still to be written (R491). DEDUCED (log entry 80). -/
def State.scrubPending (s : State) : Nat :=
  s.dict.funcs.foldl (fun n ((k, f) : Nat × Func) =>
    if 0x1000 ≤ k ∧ f.state = 3 ∧ f.scrub then
      n + s.scrubLeft (k - 0x1000)
    else n) 0

/-- Steps 2 and 3 of the scrub of a context. -/
def State.scrubCtx (s : State) (ctx : Nat) : State :=
  let s := (s.scrubRanges ctx).foldl (fun s (x : Nat × Nat × BitVec 6) => s.zeroRange x.1 x.2.1) s
  let s := { s with host := { s.host with
    intake := s.host.intake.filter fun ((k, _) : Nat × Byte) => !decide (k / 4096 = ctx) } }
  (s.setsOf ctx).foldl (fun s i => s.modGauge i fun x =>
    { x with opened := Gauges.empty, closed := Gauges.empty, closedWtn := 0, pend := [] }) s

/-- The link side of a finished stop: EN falls, and what the link still holds is answered NO-ROUTE (R523). -/
def State.linkOff (s : State) (l : Nat) : State :=
  let k := s.link l
  let held := (s.takeItems 4096 (k.replay.flatMap (·.2))).1 ++ k.txq
  let s := s.modLink l fun k =>
    { k with en := false, state := 0, replay := [], txq := [], tlanes := 0, rlanes := 0, dropTx := false, dropRx := false }
  held.foldl (fun s i =>
    if i.isRequest ∧ i.src ≠ s.ownChip then s.sendItem (errorItem i 3) else s) s

/-- The stop work of a function ends: OFF, then STARTING at once when an enable was deferred (R522, R523).
A context waits for its plans to be unloaded; its scrub and R379 run first. -/
def State.stopDone (s : State) (fn : FuncId) : State :=
  let f := s.func fn
  if f.state = 3 then
    let go (s : State) : State :=
      let s := s.setFunc fn { f with state := if f.deferred then 1 else 0, deferred := false, scrub := false }
      if f.deferred then s.beginStart fn else s
    match fn with
    | .link l => go (s.linkOff l.val)
    | .stack i => go (s.modStack i.toNat fun k => { k with selfref := true, exiting := false })
    | .part p => go ((upto 8).foldl (fun s i => s.modStack i fun k =>
        { k with planBkt := Tab.set 0 k.planBkt p.toNat 0, unplBkt := Tab.set 0 k.unplBkt p.toNat 0 }) s)
    | .bay b => go (s.dozeBay b.toNat)
    | .ctx c =>
      if s.hasPlan c.toNat then s
      else if f.scrub then whenLet (s.scrubAsk c) fun s => go ((s.scrubCtx c.toNat).ctxOff c)
      else go (s.ctxOff c)
  else s

def execFunctionStopDone (fn : FuncId) (s : State) : Out := .next (s.stopDone fn)

/-- A software write of LNK_CTL.EN acts as a write of the same value to the link's function entry (R523);
it is ignored until start-up has ended (R528). -/
def execLnkCtlEnWrite (src : Src) (l : Fin 12) (en : Bool) (s : State) : Out :=
  .next (if isVf src then s.deny else if s.starting then s else s.funcWrite (.link l) en)

end Sys2Proof.Machine
end

