-- ==== Sys2Proof/Machine/HostOrph.lean ====
section
/-!
DEFINITION. Host commands in flight: their completion records (R435 to R437), contexts that lose their host
(R440 to R443), and the state of the PCIe link.
-/

namespace Sys2Proof.Machine

/-! ### Fields of a command (R430) -/

/-- OP of a command. -/
def Cmd.op (c : Cmd) : Nat := leAt c.bytes 0 1
/-- CPL: a completion record is wanted. -/
def Cmd.cpl (c : Cmd) : Bool := (leAt c.bytes 1 1).testBit 0
/-- IRQ: an MSI-X message is wanted. -/
def Cmd.irq (c : Cmd) : Bool := (leAt c.bytes 1 1).testBit 1
/-- TENSOR. -/
def Cmd.tensor (c : Cmd) : Bool := (leAt c.bytes 1 1).testBit 2
/-- INLINE_LEN. -/
def Cmd.inlineLen (c : Cmd) : Nat := leAt c.bytes 2 2
/-- VECTOR. -/
def Cmd.vector (c : Cmd) : Nat := leAt c.bytes 4 2
/-- CPL_ADDR. -/
def Cmd.cplAddr (c : Cmd) : Word := word (leAt c.bytes 8 8)
/-- TAG. -/
def Cmd.tag (c : Cmd) : Word := word (leAt c.bytes 0x10 8)
/-- ARG0 to ARG2. -/
def Cmd.arg (c : Cmd) (i : Nat) : Word := word (leAt c.bytes (0x18 + 8 * i) 8)
/-- NOTBEFORE. -/
def Cmd.notBefore (c : Cmd) : Nat := leAt c.bytes 0x30 8
/-- The inline payload. -/
def Cmd.inlineBytes (c : Cmd) : List Byte := slice c.bytes 0x38 192

/-- Whether a command is a copy. -/
def Cmd.isCopy (c : Cmd) : Bool := decide (c.op = 2 ∨ c.op = 3)

/-- Whether a command is a FENCE. -/
def Cmd.isFence (c : Cmd) : Bool := decide (c.op = 0x10)

/-- The command of a context with a sequence number. -/
def State.cmd (s : State) (ctx : Nat) (seq : BitVec 32) : Option Cmd :=
  (s.hctx ctx).cmds.find? fun c => decide (c.seq = seq)

/-- A command of a context changed. -/
def State.modCmd (s : State) (ctx : Nat) (seq : BitVec 32) (f : Cmd → Cmd) : State :=
  s.modHctx ctx fun h => { h with cmds := h.cmds.map fun c => if c.seq = seq then f c else c }

/-- The commands of a context taken before a sequence number and not complete. -/
def State.earlier (s : State) (ctx : Nat) (seq : BitVec 32) : List Cmd :=
  (s.hctx ctx).cmds.takeWhile fun c => decide (c.seq ≠ seq)

/-- Whether a FENCE before a command has not completed (R437). -/
def State.fenced (s : State) (ctx : Nat) (seq : BitVec 32) : Bool := (s.earlier ctx seq).any (·.isFence)

/-- A copy engine. -/
def State.engine (s : State) (e : Nat) : CopyEngine := Tab.get CopyEngine.reset s.host.engines e

/-- A copy engine replaced. -/
def State.setEngine (s : State) (e : Nat) (x : CopyEngine) : State :=
  { s with host := { s.host with engines := Tab.set CopyEngine.reset s.host.engines e x } }

/-- The engine of a command, if one moves it. -/
def Cmd.engine (c : Cmd) : Option Nat :=
  match c.stage with
  | .moving e => some e.toNat
  | .flush e => some e.toNat
  | _ => none

/-- A command leaves the list of its context, and its engine is idle again. -/
def State.dropCmd (s : State) (ctx : Nat) (c : Cmd) : State :=
  let s := s.modHctx ctx fun h => { h with cmds := h.cmds.filter fun x => decide (x.seq ≠ c.seq) }
  match c.engine with
  | some e => s.setEngine e { s.engine e with busy := false, moved := 0 }
  | none => s

/-! ### HOST-LOST (R441) -/

/-- The HOST-LOST record of a command. -/
def State.lostReport (s : State) (ctx : Nat) (c : Cmd) : Report :=
  { blankReport with
    code := 0x40, unit := 4, wtn := s.tick.wtn, context := BitVec.ofNat 16 ctx
    unitno := match c.engine with | some e => BitVec.ofNat 16 e | none => BitVec.allOnes 16
    d0 := c.seq.setWidth 64, d1 := c.tag }

/-- A HOST-LOST record is written and counted. -/
def State.writeLost (s : State) (r : Report) : State :=
  (s.report r).modHctx r.context.toNat fun h => { h with lost := satInc h.lost }

/-- A command is lost to the host: recorded now, or once the link is up again. -/
def State.hostLost (s : State) (ctx : Nat) (c : Cmd) : State :=
  let r := s.lostReport ctx c
  let s := s.dropCmd ctx c
  if s.host.dlUp then s.writeLost r
  else { s with host := { s.host with lostDue := s.host.lostDue ++ [r] } }

/-! ### Completion (R435 to R437) -/

/-- The 32 bytes of a completion record (R435). -/
def cplBytes (c : Cmd) (status detail : Nat) (tick value : Word) : List Byte :=
  natToBytes 8 c.tag.toNat ++ natToBytes 4 c.seq.toNat ++ natToBytes 1 status ++ natToBytes 1 detail ++
    natToBytes 2 0 ++ natToBytes 8 tick.toNat ++ natToBytes 8 value.toNat

/-- Writes the completion record and sends the message that a command asks for (R436); the command is gone.
Those of an ORPHANED context are dropped with a HOST-LOST record (R441). -/
def State.complete1 (s : State) (ctx : Nat) (c : Cmd) (status detail : Nat) (tick value : Word) : State :=
  if (s.hctx ctx).orphaned then s.hostLost ctx c
  else
    let s := s.dropCmd ctx c
    let f := s.owner ctx
    let s := if c.cpl then s.send (.hostWrite f c.cplAddr (cplBytes c status detail tick value) false) else s
    if c.irq then s.sendMsix f (BitVec.ofNat 16 c.vector) else s

/-- Commands whose completion a FENCE held back complete, up to the next FENCE. -/
def State.releaseDone (s : State) (ctx : Nat) : List Cmd → State
  | [] => s
  | c :: l =>
    if c.isFence then s
    else match c.stage with
      | .done st d t v => (s.complete1 ctx c st d t v).releaseDone ctx l
      | _ => s.releaseDone ctx l

/-- A command completes; behind an unfinished FENCE only its completion is held back. DEDUCED (log entry 32). -/
def State.complete (s : State) (ctx : Nat) (c : Cmd) (status detail : Nat) (tick value : Word) : State :=
  if s.fenced ctx c.seq ∧ (s.hctx ctx).orphaned = false then
    let s := match c.engine with
      | some e => s.setEngine e { s.engine e with busy := false, moved := 0 }
      | none => s
    s.modCmd ctx c.seq fun x => { x with stage := .done status detail tick value }
  else
    let s := s.complete1 ctx c status detail tick value
    if c.isFence then s.releaseDone ctx (s.hctx ctx).cmds else s

/-- STATUS and DETAIL of an error (R435). -/
def errStatus : RespErr → Nat × Nat
  | .translation => (2, 0) | .unmapped => (3, 0) | .uncorrectable => (4, 0) | .noRoute => (8, 3) | .host => (6, 0)

/-- A command ends with an error of R435. -/
def State.failCmd (s : State) (ctx : BitVec 12) (c : Cmd) (err : RespErr) : State :=
  let (st, d) := errStatus err
  (s.forget (.intake ctx c.seq)).complete ctx.toNat c st d s.tick.no 0

/-! ### Orphans (R440 to R443) -/

/-- A context goes to ORPHANED (R441, R442): copies are cut, completions held back are dropped, vector 0. -/
def State.orphan (s : State) (ctx : Nat) : State :=
  if (s.hctx ctx).orphaned then s else
  let cut := (s.hctx ctx).cmds.filter fun c => c.isCopy || (match c.stage with | .done .. => true | _ => false)
  let s := s.modHctx ctx fun h => { h with orphaned := true }
  (cut.foldl (fun s c => s.hostLost ctx c) s).raiseCtx ctx

/-- Every context goes to ORPHANED. -/
def State.orphanAll (s : State) : State := (upto 4096).foldl State.orphan s

/-- Function Level Reset of a VF, or its removal by VF Enable = 0 (R440). The enabled VFs change with this row and with
DATA_LINK_UP only. DESIGN CHOICE (log entry 87). -/
def execFlrVf (x : VfLoss) (s : State) : Out :=
  let f := x.f
  .next <|
    let s := (upto 4096).foldl (fun s c => if f ≠ 0 ∧ s.owner c = f then s.orphan c else s) s
    if x.removed then { s with host := { s.host with vfs := s.host.vfs &&& ~~~ (1#64 <<< f.toNat) } } else s

/-- Function Level Reset of the PF: VF Enable clears. -/
def execFlrPf (s : State) : Out := .next { s.orphanAll with host := { s.orphanAll.host with vfs := 0 } }

/-- Hot reset. -/
def execHotReset (s : State) : Out :=
  .next { s.orphanAll with host := { s.orphanAll.host with vfs := 0, d3 := 0 } }

/-- The Data Link goes down. -/
def execDataLinkDown (s : State) : Out :=
  .next <|
    let s := { s with host := { s.host with dlUp := false, vfs := 0, dlDowns := satInc s.host.dlDowns } }
    s.orphanAll

/-- The PCIe link comes up; the records of the event are written (R441). -/
def execDataLinkUp (rate : BitVec 3) (width : BitVec 5) (noflit : Bool) (vfs : BitVec 64) (s : State) : Out :=
  .next <|
    let due := s.host.lostDue
    let s := { s with host := { s.host with
      rate := rate, width := width, noflit := noflit, dlUp := true, vfs := vfs &&& ~~~ 1#64, lostDue := [] } }
    due.foldl State.writeLost s

/-- A function enters D3hot: its contexts' host transfers wait (R440). -/
def execD3hotEntry (f : BitVec 6) (s : State) : Out :=
  .next { s with host := { s.host with d3 := s.host.d3 ||| (1#64 <<< f.toNat) } }

/-- A function returns to D0. -/
def execD0Entry (f : BitVec 6) (s : State) : Out :=
  .next { s with host := { s.host with d3 := s.host.d3 &&& ~~~ (1#64 <<< f.toNat) } }

/-- Performs the ACTION of HOST_ORPH_CMD (R443). -/
def State.orphCmd (s : State) : State :=
  let h := s.host
  let ctx := h.orphCtx.toNat
  let rej : State := { s with host := { h with orphRej := true } }
  if (s.hctx ctx).orphaned = false then rej
  else if h.orphAction = 1 then
    if h.orphFunc ≠ 0 ∧ h.vfs.getLsbD h.orphFunc.toNat = false then rej
    else
      let s := { s with seg := { s.seg with func := Tab.set 0 s.seg.func ctx h.orphFunc } }
      let s := s.modHctx ctx fun x => { x with orphaned := false }
      { s with host := { s.host with
          intake := s.host.intake.filter fun ((k, _) : Nat × Byte) => !decide (k / 4096 = ctx) } }
  else if h.orphAction = 2 then
    if s.disableRefused (.ctx h.orphCtx) then rej
    else
      (s.modHctx ctx fun x => { x with orphaned := false }).funcWrite (.ctx h.orphCtx) false
  else rej

/-- A write of HOST_ORPH_CMD (R445). -/
def State.orphWrite (s : State) (v : Word) : State :=
  let h := s.host
  let s := { s with host := { h with
    orphCtx := field v 0 12, orphAction := field v 12 2, orphFunc := field v 14 6
    orphRej := h.orphRej && !v.getLsbD 21 } }
  if v.getLsbD 20 then s.orphCmd else s

/-- HOST_ORPH_CMD as it reads. -/
def State.orphWord (s : State) : Word :=
  place s.host.orphCtx 0 ||| place s.host.orphAction 12 ||| place s.host.orphFunc 14 |||
    place (bit s.host.orphRej) 21

def execReclaim (src : Src) (ctx : BitVec 12) (f : BitVec 6) (s : State) : Out :=
  .next (if isVf src then s.deny
    else s.orphWrite (place ctx 0 ||| place (1 : BitVec 2) 12 ||| place f 14 ||| place (1 : BitVec 1) 20))

def execRelease (src : Src) (ctx : BitVec 12) (s : State) : Out :=
  .next (if isVf src then s.deny
    else s.orphWrite (place ctx 0 ||| place (2 : BitVec 2) 12 ||| place (1 : BitVec 1) 20))

end Sys2Proof.Machine
end

