-- ==== Sys2Proof/Machine/Crypto.lean ====
section
/-!
DEFINITION. SM3 digests, HMAC-SM3, the SM3 key derivation and SM2 signatures. The spec names these
algorithms (R477 to R492, R537) and leaves their text to their standard: PRESUMED (log entry 14).
-/

namespace Sys2Proof.Machine

/-! ### SM3 -/

/-- A 32-bit word of SM3. -/
abbrev W32 := BitVec 32

/-- The eight chaining words. -/
structure Sm3 where
  a : W32
  b : W32
  c : W32
  d : W32
  e : W32
  f : W32
  g : W32
  h : W32
  deriving DecidableEq, Repr

/-- The initial value. -/
def Sm3.init : Sm3 :=
  { a := 0x7380166f, b := 0x4914b2b9, c := 0x172442d7, d := 0xda8a0600
    e := 0xa96f30bc, f := 0x163138aa, g := 0xe38dee4d, h := 0xb0fb0e4e }

/-- Rotation left. -/
def rotl (x : W32) (n : Nat) : W32 := x.rotateLeft (n % 32)

/-- The permutation P0. -/
def sm3P0 (x : W32) : W32 := x ^^^ rotl x 9 ^^^ rotl x 17

/-- The permutation P1. -/
def sm3P1 (x : W32) : W32 := x ^^^ rotl x 15 ^^^ rotl x 23

/-- The big-endian word of four bytes. -/
def beWord (l : List Byte) : W32 := BitVec.ofNat 32 (bytesToNat l.reverse)

/-- The sixteen words of a block. -/
def blockWords16 (l : List Byte) : List W32 := (upto 16).map fun i => beWord (slice l (4 * i) 4)

/-- Extends the message words, newest first, by `n` words. -/
def sm3Expand : Nat → List W32 → List W32
  | 0, w => w
  | n + 1, w =>
    let x (k : Nat) : W32 := w.getD (k - 1) 0
    sm3Expand n ((sm3P1 (x 16 ^^^ x 9 ^^^ rotl (x 3) 15) ^^^ rotl (x 13) 7 ^^^ x 6) :: w)

/-- One round of the compression. -/
def Sm3.round (v : Sm3) (j : Nat) (w w4 : W32) : Sm3 :=
  let t : W32 := if j < 16 then 0x79cc4519 else 0x7a879d8a
  let ss1 := rotl (rotl v.a 12 + v.e + rotl t j) 7
  let ss2 := ss1 ^^^ rotl v.a 12
  let ff := if j < 16 then v.a ^^^ v.b ^^^ v.c else (v.a &&& v.b) ||| (v.a &&& v.c) ||| (v.b &&& v.c)
  let gg := if j < 16 then v.e ^^^ v.f ^^^ v.g else (v.e &&& v.f) ||| (~~~ v.e &&& v.g)
  let tt1 := ff + v.d + ss2 + (w ^^^ w4)
  let tt2 := gg + v.h + ss1 + w
  { a := tt1, b := v.a, c := rotl v.b 9, d := v.c, e := sm3P0 tt2, f := v.e, g := rotl v.f 19, h := v.g }

/-- The rounds from `j` on over the message words. -/
def Sm3.rounds (v : Sm3) : Nat → List W32 → Sm3
  | j, w :: ws => if j < 64 then (v.round j w (ws.getD 3 0)).rounds (j + 1) ws else v
  | _, [] => v

/-- The compression of one block. -/
def Sm3.block (v : Sm3) (b : List Byte) : Sm3 :=
  let w := (sm3Expand 52 (blockWords16 b).reverse).reverse
  let r := v.rounds 0 w
  { a := v.a ^^^ r.a, b := v.b ^^^ r.b, c := v.c ^^^ r.c, d := v.d ^^^ r.d
    e := v.e ^^^ r.e, f := v.f ^^^ r.f, g := v.g ^^^ r.g, h := v.h ^^^ r.h }

/-- The blocks of a padded message. -/
def Sm3.blocks (v : Sm3) : Nat → List Byte → Sm3
  | 0, _ => v
  | n + 1, l => (v.block (l.take 64)).blocks n (l.drop 64)

/-- Big-endian bytes. -/
def beBytes (n x : Nat) : List Byte := (natToBytes n x).reverse

/-- The SM3 digest of a byte string, 32 bytes. -/
def sm3 (m : List Byte) : List Byte :=
  let z := (119 - m.length % 64) % 64
  let p := m ++ (0x80 : Byte) :: List.replicate z 0 ++ beBytes 8 (8 * m.length)
  let v := Sm3.init.blocks (p.length / 64) p
  [v.a, v.b, v.c, v.d, v.e, v.f, v.g, v.h].flatMap fun w => beBytes 4 w.toNat

/-- HMAC-SM3. -/
def hmacSm3 (key m : List Byte) : List Byte :=
  let k := if 64 < key.length then sm3 key else key
  let k := k ++ List.replicate (64 - k.length) 0
  sm3 (k.map (· ^^^ 0x5C) ++ sm3 (k.map (· ^^^ 0x36) ++ m))

/-- The first 256 bits of the SM3 key derivation function. -/
def kdf256 (z : List Byte) : List Byte := sm3 (z ++ beBytes 4 1)

/-! ### SM2 -/

/-- The prime of the field. -/
def sm2P : Nat := 0xFFFFFFFEFFFFFFFFFFFFFFFFFFFFFFFFFFFFFFFF00000000FFFFFFFFFFFFFFFF
/-- The coefficient a. -/
def sm2A : Nat := sm2P - 3
/-- The coefficient b. -/
def sm2B : Nat := 0x28E9FA9E9D9F5E344D5A9E4BCF6509A7F39789F515AB8F92DDBCBD414D940E93
/-- The order of the base point. -/
def sm2N : Nat := 0xFFFFFFFEFFFFFFFFFFFFFFFFFFFFFFFF7203DF6B21C6052B53BBF40939D54123
/-- The base point. -/
def sm2G : Nat × Nat :=
  (0x32C4AE2C1F1981195F9904466A39C9948FE30BBFF2660BE1715A4589334C74C7,
   0xBC3736A2F4F6779C59BDCEE36B692153D0A9877CC62A474002DF32E52139F0A0)

/-- x to the power e modulo m, by the `n` low bits of e. -/
def powMod (m : Nat) : Nat → Nat → Nat → Nat
  | 0, _, _ => 1 % m
  | n + 1, x, e =>
    let r := powMod m n (x * x % m) (e / 2)
    if e % 2 = 1 then x * r % m else r

/-- The inverse modulo a prime. -/
def invMod (m x : Nat) : Nat := powMod m 256 (x % m) (m - 2)

/-- A difference modulo m of numbers below m. -/
def subMod (m x y : Nat) : Nat := (x + m - y % m) % m

/-- A point in Jacobian coordinates; z = 0 is the point at infinity. -/
structure Jac where
  x : Nat
  y : Nat
  z : Nat
  deriving DecidableEq, Repr

/-- Doubling on the curve (a = −3). -/
def Jac.dbl (q : Jac) : Jac :=
  if q.z = 0 then q else
  let p := sm2P
  let zz := q.z * q.z % p
  let m := 3 * (subMod p q.x zz) * ((q.x + zz) % p) % p
  let yy := q.y * q.y % p
  let s := 4 * q.x * yy % p
  let x := subMod p (m * m % p) (2 * s)
  { x := x, y := subMod p (m * subMod p s x % p) (8 * yy * yy % p), z := 2 * q.y * q.z % p }

/-- Addition on the curve. -/
def Jac.add (a b : Jac) : Jac :=
  if a.z = 0 then b else if b.z = 0 then a else
  let p := sm2P
  let az := a.z * a.z % p
  let bz := b.z * b.z % p
  let u1 := a.x * bz % p
  let u2 := b.x * az % p
  let s1 := a.y * bz * b.z % p
  let s2 := b.y * az * a.z % p
  if u1 = u2 then (if s1 = s2 then a.dbl else { x := 1, y := 1, z := 0 })
  else
    let h := subMod p u2 u1
    let r := subMod p s2 s1
    let hh := h * h % p
    let hhh := h * hh % p
    let v := u1 * hh % p
    let x := subMod p (subMod p (r * r % p) hhh) (2 * v)
    { x := x, y := subMod p (r * subMod p v x % p) (s1 * hhh % p), z := h * a.z * b.z % p }

/-- k × P by the `n` low bits of k. -/
def Jac.mul (q : Jac) : Nat → Nat → Jac
  | 0, _ => { x := 1, y := 1, z := 0 }
  | n + 1, k =>
    let r := (q.mul n (k / 2)).dbl
    if k % 2 = 1 then r.add q else r

/-- The affine coordinates of a point; none for infinity. -/
def Jac.affine (q : Jac) : Option (Nat × Nat) :=
  if q.z = 0 then none
  else
    let i := invMod sm2P q.z
    let i2 := i * i % sm2P
    some (q.x * i2 % sm2P, q.y * i2 * i % sm2P)

/-- A point from its coordinates. -/
def jacOf (q : Nat × Nat) : Jac := { x := q.1, y := q.2, z := 1 }

/-- The big-endian number of a byte string. -/
def beNat (l : List Byte) : Nat := bytesToNat l.reverse

/-- The distinguishing identifier of every signature: "TROERYS-LODAL9". -/
def sm2Id : List Byte :=
  [0x54, 0x52, 0x4F, 0x45, 0x52, 0x59, 0x53, 0x2D, 0x4C, 0x4F, 0x44, 0x41, 0x4C, 0x39]

/-- The signer's Z value for a public key x ‖ y. -/
def sm2Z (key : List Byte) : List Byte :=
  sm3 (beBytes 2 112 ++ sm2Id ++ beBytes 32 sm2A ++ beBytes 32 sm2B ++ beBytes 32 sm2G.1 ++
    beBytes 32 sm2G.2 ++ key)

/-- The digest number that a signature covers. -/
def sm2E (key m : List Byte) : Nat := beNat (sm3 (sm2Z key ++ m))

/-- Whether r ‖ s is a signature of a message under a public key x ‖ y. -/
def sm2Verify (key m sig : List Byte) : Bool :=
  let r := beNat (slice sig 0 32)
  let s := beNat (slice sig 32 32)
  let t := (r + s) % sm2N
  let q := ((jacOf sm2G).mul 256 s).add ((jacOf (beNat (slice key 0 32), beNat (slice key 32 32))).mul 256 t)
  decide (1 ≤ r) && decide (r < sm2N) && decide (1 ≤ s) && decide (s < sm2N) && decide (t ≠ 0) &&
    (match q.affine with
     | some (x, _) => decide ((sm2E key m + x) % sm2N = r)
     | none => false)

/-- The public key x ‖ y of a private key. -/
def sm2Pub (d : Nat) : List Byte :=
  match ((jacOf sm2G).mul 256 d).affine with
  | some (x, y) => beBytes 32 x ++ beBytes 32 y
  | none => List.replicate 64 0

/-- The signature r ‖ s of a message under private key d with nonce k. -/
def sm2Sign (d k : Nat) (m : List Byte) : List Byte :=
  let e := sm2E (sm2Pub d) m
  let x := match ((jacOf sm2G).mul 256 k).affine with | some (x, _) => x | none => 0
  let r := (e + x) % sm2N
  let s := invMod sm2N (1 + d) * subMod sm2N k (r * d) % sm2N
  beBytes 32 r ++ beBytes 32 s

end Sys2Proof.Machine
end

