-- ==== Sys2Proof/Machine/Security.lean ====
section
/-!
DEFINITION. Fuses, firmware images, anti-rollback, attestation and authenticated debug (spec/18).
-/

namespace Sys2Proof.Machine

/-- `n` fuse bytes from an offset (R477). -/
def State.fuseBytes (s : State) (off n : Nat) : List Byte := (upto n).map fun i => Tab.get 0 s.fuses (off + i)

/-- The security unit replaced. -/
def State.setSec (s : State) (x : SecUnit) : State := { s with sec := x }

/-- A firmware image in flash: false A, true B. -/
def State.image (s : State) (b : Bool) : Flash := if b then s.sec.imageB else s.sec.imageA

/-- A firmware image replaced. -/
def State.setImage (s : State) (b : Bool) (x : Flash) : State :=
  s.setSec (if b then { s.sec with imageB := x } else { s.sec with imageA := x })

/-- SVN of an image. -/
def Flash.svn (f : Flash) : Nat := leAt f.bytes 6 1

/-- BODY_DIGEST of an image. -/
def Flash.bodyDigest (f : Flash) : List Byte := slice f.bytes 0x10 32

/-- COUNT: the index of the highest blown ARB bit plus 1 (R484). -/
def State.arbCount (s : State) : Nat :=
  let n := bytesToNat (s.fuseBytes 0x60 16)
  if n = 0 then 0 else n.log2 + 1

/-- The number of the first check of R482 that an image fails; 0 when it is valid. -/
def State.imageCheck (s : State) (f : Flash) : Nat :=
  let h := f.bytes
  let len := leAt h 8 4
  if leAt h 0 4 ≠ 0x4C394657 ∨ leAt h 4 2 ≠ 1 ∨ len = 0 ∨ 16777216 - 512 < len ∨ h.length < 512 + len ∨
      (slice h 0xB0 0x150).any (· ≠ 0) then 1
  else if sm3 (slice h 0x30 64) ≠ s.fuseBytes 0 32 then 2
  else if sm2Verify (slice h 0x30 64) (slice h 0 0x70) (slice h 0x70 64) = false then 3
  else if sm3 (slice h 512 len) ≠ f.bodyDigest then 4
  else if f.svn < s.arbCount then 5
  else 0

/-- Whether an image counts as valid: its last check passed. -/
def Flash.valid (f : Flash) : Bool := decide (f.status = 0)

/-- Whether the status of an image says that a transfer is open. -/
def Flash.open_ (f : Flash) : Bool := decide (f.status = 2)

/-- SVN of the running image (SEC_ARB.RUN_SVN); 0 while none runs. -/
def State.runSvn (s : State) : Nat := leAt s.sec.runHead 6 1

/-! ### Anti-rollback (R485) -/

/-- Whether a commit of v is refused. -/
def State.arbRefused (s : State) (v : Nat) : Bool :=
  decide (128 < v) || s.sec.imageA.open_ || s.sec.imageB.open_ || !s.sec.imageA.valid || !s.sec.imageB.valid ||
    decide (s.sec.imageA.svn < v) || decide (s.sec.imageB.svn < v)

/-- Blows the ARB bits from COUNT to v − 1, in the fuses and in each keeper's copy; a blown bit stays. -/
def State.arbBlow (s : State) (v : Nat) : State :=
  let n := bytesToNat (s.fuseBytes 0x60 16) ||| (2 ^ v - 2 ^ s.arbCount)
  let burn (t : Tab Byte) : Tab Byte := Tab.setAll 0 t ((natToBytes 16 n).mapIdx fun i b => (0x60 + i, Tab.get 0 t (0x60 + i) ||| b))
  { s.setSec { s.sec with fuse := burn s.sec.fuse } with
    keepers := { s.keepers with fuseW := s.keepers.fuseW.map burn, fuseE := s.keepers.fuseE.map burn } }

/-- A dictionary write to a command entry is remembered (R509). -/
def State.noteWrite (s : State) (index sub : Nat) (v : List Byte) : State :=
  { s with dict := { s.dict with vals := Tab.set none s.dict.vals (index * 256 + sub) (some v) } }

/-- What a write of v to ARB_COMMIT does: the abort code, 0 for success, and the state (R485). -/
def State.arbPut (s : State) (v : BitVec 8) : Nat × State :=
  let s' := s.noteWrite 0x4800 4 [v]
  if v.toNat ≤ s.arbCount then (0, s')
  else if s.arbRefused v.toNat then (0x08000020, s.setSec { s.sec with arbRej := true })
  else (0, s'.arbBlow v.toNat)

/-- The end of a dictionary write of `n` bytes, by its abort code. -/
def State.endPut (x : Nat × State) (src : DictSrc) (n : Nat) : State :=
  if x.1 = 0 then x.2.dictOk src n else x.2.dictAbort src x.1

/-- A write of v to ARB_COMMIT. -/
def execArbCommit (src : DictSrc) (v : BitVec 8) (s : State) : Out :=
  .next <|
    if s.dictServed src = false then s
    else if (match src with | .vf _ => true | _ => false) then s.dictAbort src 0x06010000
    else State.endPut (s.arbPut v) src 1

/-! ### Attestation (R486 to R489) -/

/-- The identity private key (R486). -/
def State.idKey (s : State) : Nat :=
  beNat (kdf256 (s.fuseBytes 0x40 32 ++ [0x49, 0x44, 0x4B])) % (sm2N - 1) + 1

/-- A mailbox: 0 CAN, 1 PF, 1 + f VF f. -/
def State.mbox (s : State) (m : Nat) : Mailbox := Tab.get Mailbox.reset s.sec.boxes m

/-- A mailbox replaced. -/
def State.setBox (s : State) (m : Nat) (x : Mailbox) : State :=
  s.setSec { s.sec with boxes := Tab.set Mailbox.reset s.sec.boxes m x }

/-- The mailbox of a source. -/
def boxOf : DictSrc → Nat
  | .can => 0
  | .pf => 1
  | .vf f => 1 + f.toNat

/-- A request for a report in a mailbox; a mailbox that is busy ignores it (R487). -/
def State.attRequest (s : State) (m : Nat) : State :=
  let b := s.mbox m
  if b.status = 1 then s else s.setBox m { b with go := 1, status := 1, asked := true, cap := [] }

/-- A write of 1 to GO: ignored while STATUS reads 1; only the mailbox's own source reaches it (R487). -/
def execAttGo (m : BitVec 7) (src : DictSrc) (s : State) : Out :=
  .next <|
    if s.dictServed src = false then s
    else if 64 < m.toNat then s.dictAbort src 0x06020000
    else if boxOf src ≠ m.toNat then s.dictAbort src 0x06010000
    else (s.attRequest m.toNat).dictOk src 1

/-- The STATE code of a plan (R48). -/
def PlanState.code : PlanState → Nat
  | .free => 0 | .loading => 1 | .ready => 2 | .running => 3 | .suspended => 4 | .unloading => 5

/-- The 16 descriptors of a context, in segment order. -/
def State.segBytes (s : State) (ctx : Nat) : List Byte :=
  (upto 16).flatMap fun i => natToBytes 16 (s.tableAt ctx i).toNat

/-- Bytes 0x000–0x0FF of a report (R489). -/
def State.attReport (s : State) (b : Mailbox) : List Byte :=
  let dig (f : Flash) : List Byte := if f.valid then f.bodyDigest else List.replicate 32 0
  let p := s.plan b.slot.toNat
  let ctx := b.ctx.toNat % 4096
  natToBytes 4 0x4C394154 ++ natToBytes 2 1 ++ natToBytes 2 320 ++ s.fuseBytes 0x78 8 ++ b.nonce ++
    natToBytes 8 s.tick.no.toNat ++ dig s.sec.imageA ++ dig s.sec.imageB ++
    natToBytes 1 (b2n s.sec.runImage) ++ natToBytes 1 s.runSvn ++ natToBytes 1 s.arbCount ++ [s.prot] ++
    natToBytes 1 (b2n s.sec.dbgOpen + 2 * b2n s.sec.everOpen) ++ natToBytes 3 0 ++
    natToBytes 2 b.ctx.toNat ++ [b.slot] ++ natToBytes 1 ((p.map (·.state.code)).getD 0) ++ natToBytes 4 0 ++
    natToBytes 8 ((p.map (·.startTick.toNat)).getD 0) ++ (p.map (·.digest)).getD (List.replicate 32 0) ++
    natToBytes 8 (s.segCtx ctx).toNat ++ sm3 (s.segBytes ctx) ++ natToBytes 40 0

/-- The capture of one requested report at a boundary (R487, R488). -/
def State.attCapture (s : State) (m : Nat) : State :=
  let b := s.mbox m
  if b.asked then
    let ctx := b.ctx.toNat
    if 2 ≤ m ∧ (4096 ≤ ctx ∨ (s.owner ctx).toNat ≠ m - 1) then
      s.setBox m { b with asked := false, status := 3 }
    else if (match s.plan b.slot.toNat with | some p => decide (p.ctx.toNat ≠ ctx) | none => false) then
      s.setBox m { b with asked := false, status := 4 }
    else s.setBox m { b with asked := false, cap := s.attReport b }
  else s

/-- The captures of a boundary, in mailbox order. -/
def State.attCaptures (s : State) : State := (s.sec.boxes.map (·.1)).foldl State.attCapture s

/-- A free 256-bit number: four draws. DESIGN CHOICE (log entry 43). -/
def State.draw256 (s : State) : Nat × State :=
  let (a, s) := s.draw
  let (b, s) := s.draw
  let (c, s) := s.draw
  let (d, s) := s.draw
  (a.toNat + 2 ^ 64 * b.toNat + 2 ^ 128 * c.toNat + 2 ^ 192 * d.toNat, s)

/-- A captured report is signed, in mailbox order; the nonce is free (R488). -/
def execAttestationSigned (m : BitVec 7) (s : State) : Out :=
  .next <|
    let b := s.mbox m.toNat
    if b.cap = [] ∨ s.sec.boxes.any (fun ((i, x) : Nat × Mailbox) => decide (i < m.toNat) && decide (x.cap ≠ [])) then s
    else
      let (k, s) := s.draw256
      let sig := sm2Sign s.idKey (k % (sm2N - 1) + 1) b.cap
      s.setBox m.toNat { b with status := 2, report := b.cap ++ sig, cap := [] }

/-! ### Authenticated debug (R492, R493) -/

/-- NEWCHAL: 32 fresh random bytes. -/
def State.newChal (s : State) : State :=
  let (x, s) := s.draw256
  s.setSec { s.sec with chal := natToBytes 32 x, chalOut := true }

/-- The bytes of eight registers. -/
def regs64 (t : Tab Word) : List Byte := (upto 8).flatMap fun i => natToBytes 8 (Tab.get 0 t i).toNat

/-- SEC_DBG_SCOPE as it reads. -/
def State.scopeWord (s : State) : Word := s.sec.scope.setWidth 64 &&& 0x0FFF0007#64

/-- The reason for which a VERIFY fails; 0 when it succeeds. -/
def State.verifyReason (s : State) : Nat :=
  let key := regs64 s.sec.keys
  let msg := s.sec.chal ++ s.fuseBytes 0x78 8 ++ natToBytes 8 s.scopeWord.toNat
  if s.sec.chalOut = false then 1
  else if sm3 key ≠ s.fuseBytes 0x20 32 then 2
  else if 8 ≤ s.sec.fails.toNat then 3
  else if sm2Verify key msg (regs64 s.sec.sigs) then 0 else 4

/-- VERIFY: it consumes the challenge either way. -/
def State.verify (s : State) : State :=
  let r := s.verifyReason
  let x := { s.sec with chalOut := false }
  s.setSec (if r = 0 then { x with dbgOpen := true, everOpen := true, dbgRej := false }
    else { x with dbgRej := true, dbgReason := BitVec.ofNat 3 r
                  fails := if 8 ≤ x.fails.toNat then 8 else x.fails + 1 })

/-- CLOSE. -/
def State.dbgClose (s : State) : State := s.setSec { s.sec with dbgOpen := false }

def execNewchal (src : Src) (s : State) : Out := .next (if isVf src then s.deny else s.newChal)
def execVerify (src : Src) (s : State) : Out := .next (if isVf src then s.deny else s.verify)
def execClose (src : Src) (s : State) : Out := .next (if isVf src then s.deny else s.dbgClose)

/-- Whether the open scope admits access to a carrel (R493). -/
def State.debugAdmits (s : State) (c : BitVec 12) : Bool :=
  s.sec.dbgOpen && s.sec.scope.getLsbD 0 &&
    (s.sec.scope.getLsbD 2 || (match s.planOf c with
      | some (_, p) => decide (p.ctx = field s.sec.scope 16 12)
      | none => false))

/-- A debug request raises the DEBUG interrupt, or its source is cleared and the request goes (R143, R493).
DESIGN CHOICE (log entry 73). -/
def execDebugRequest (x : IrqSource) (s : State) : Out :=
  .next (if !x.on || s.debugAdmits x.c then s.modCarrel x.c fun k => { k with debugReq := x.on } else s)

/-- A write through the test access port changes carrel state; a halt ends the tick LATE (R493). -/
def execTestPortWrite (c : BitVec 12) (target : TestTarget) (v : Word) (s : State) : Out :=
  .next <|
    if s.debugAdmits c then
      match target with
      | .pc => s.modCarrel c fun k => { k with pc := v &&& ~~~ 1#64 }
      | .creg n => s.modCarrel c fun k => k.setCreg n.toNat v
      | .data i => s.modCarrel c fun k =>
          let b := k.bank k.dataBank
          k.setBank k.dataBank { b with dres := listSet b.dres i.toNat v }
      | .ret i => s.modCarrel c fun k =>
          let b := k.bank k.retBank
          k.setBank k.retBank { b with rres := listSet b.rres i.toNat v }
      | .vl => s.modCarrel c fun k => { k with vl := field v 0 11 }
      | .halt =>
        let s := s.modCarrel c fun k => { k with halted := true, wd := { k.wd with run := false } }
        match s.planOf c with
        | some (i, _) => s.modPlan i fun p => { p with late := true }
        | none => s
    else s

end Sys2Proof.Machine
end

