-- ==== Sys2Proof/Machine/PowerSeq.lean ====
section
/-!
DEFINITION. The power sequencer: input, rails, thermal zones and shutdowns (spec/21).
-/

namespace Sys2Proof.Machine

/-- The power sequencer changed. -/
def State.modPower (s : State) (f : PowerUnit → PowerUnit) : State := { s with power := f s.power }

/-! ### Calibrated thresholds (R514, R549, R557) -/

/-- The index of the threshold entries of a zone: 0–12 of R554, 13 inlet, 14 flow. -/
def thrIndex (z : Nat) : Nat :=
  if z < 2 then 0x2020 else if z < 4 then 0x2021 else if z < 12 then 0x2022 else if z = 12 then 0x2023
  else if z = 13 then 0x2024 else 0x2025

/-- The factory value of a threshold, level 1 to 3, as R549 gives it: 1/16 °C, or 0.01 L/min for flow. -/
def thrFactory (index level : Nat) : Int :=
  match index with
  | 0x2020 | 0x2021 => [95, 105, 115].getD (level - 1) 0 * 16
  | 0x2022 => [95, 105, 112].getD (level - 1) 0 * 16
  | 0x2023 => [110, 120, 130].getD (level - 1) 0 * 16
  | 0x2024 => [40, 45, 50].getD (level - 1) 0 * 16
  | _ => [200, 150, 100].getD (level - 1) 0

/-- The user trim in force of a factory entry. -/
def State.trim (s : State) (index sub : Nat) : Int := Tab.get 0 s.dict.trims ((index + 0x100) * 256 + sub)

/-- The limits LO and HI of a factory entry (R557). -/
def calLimits (index : Nat) : Int × Int :=
  if index = 0x2025 then (100, 400) else (60 * 16, thrFactory index 3)

/-- The effective value of a threshold (R514, R557): bounded by its factory value from above, flow from
below. -/
def State.effective (s : State) (index sub : Nat) : Int :=
  let f := thrFactory index sub
  let (lo, hi) := calLimits index
  let e := clampInt lo hi (f + s.trim index sub)
  if index = 0x2025 then max e f else min e f

/-- The level that a reading gives a zone. -/
def State.levelOf (s : State) (z : Nat) (reading : Int) : BitVec 2 :=
  let above (l : Nat) : Bool :=
    let t := s.effective (thrIndex z) l
    if z = 14 then decide (reading < t) else decide (t < reading)
  if above 3 then 3 else if above 2 then 2 else if above 1 then 1 else 0

/-- A zone. -/
def State.zone (s : State) (z : Nat) : Zone := Tab.get Zone.reset s.power.zones z

/-- The module's level: the highest of any zone (R549). -/
def State.moduleLevel (s : State) : BitVec 2 :=
  s.power.zones.foldl (fun m ((_, x) : Nat × Zone) => if m < x.level then x.level else m) 0

/-- A zone replaced. Each change of the module's level sends EMCY, and THERM_ALERT# is driven while the
level is 2 (R550, R551). -/
def State.setZone (s : State) (z : Nat) (x : Zone) : State :=
  let old := s.moduleLevel
  let s := s.modPower fun p => { p with zones := Tab.set Zone.reset p.zones z x }
  let new := s.moduleLevel
  let s := s.modPower fun p => { p with thermAlert := decide (new = 2) }
  if new = old then s
  else if new = 0 then (s.clearErrBit 3).emcy 0 none none
  else s.emcy 0x4210 (some 3) none

/-- Sensors of a zone (R549). -/
def zoneSensors (z : Nat) : Nat :=
  if z < 2 then 16 else if z < 4 then 4 else if z < 12 then 1 else if z = 12 then 6 else if z = 13 then 2 else 1

/-- Whether every sensor of a zone has failed. -/
def Zone.blind (x : Zone) (z : Nat) : Bool := (upto (zoneSensors z)).all fun i => x.failed.contains i

/-- The reading of the coolant zones also stands in PWR_COOL. -/
def State.coolReading (s : State) (z : Nat) (r : BitVec 16) : State :=
  if z = 13 then s.modPower fun p => { p with inlet := r }
  else if z = 14 then s.modPower fun p => { p with flow := r } else s

/-- A reading crosses a threshold: the zone rises to its level (R550). -/
def execZoneLevelRise (z : BitVec 4) (reading : BitVec 16) (s : State) : Out :=
  .next <|
    if s.power.on = false ∨ z = 15 then s else
    let s := s.coolReading z.toNat reading
    let x := s.zone z.toNat
    let l := s.levelOf z.toNat reading.toInt
    s.setZone z.toNat { x with temp := reading, level := if x.level < l then l else x.level }

/-- A sensor is open or shorted: it is excluded; a blind zone stands at level 2 (R550). The hottest sensor
that still works is not known: the reading is free. -/
def execSensorFault (z i : BitVec 4) (s : State) : Out :=
  .next <|
    if s.power.on = false ∨ z = 15 ∨ zoneSensors z.toNat ≤ i.toNat then s else
    let (w, s) := s.draw
    let x := s.zone z.toNat
    let x := { x with temp := w.setWidth 16
                      failed := if x.failed.contains i.toNat then x.failed else x.failed ++ [i.toNat] }
    s.setZone z.toNat (if x.blind z.toNat then { x with level := 2 } else x)

/-- A failed sensor works again. -/
def execSensorRecovered (z i : BitVec 4) (reading : BitVec 16) (s : State) : Out :=
  .next <|
    if s.power.on = false ∨ z = 15 ∨ !(s.zone z.toNat).failed.contains i.toNat then s else
    let x := s.zone z.toNat
    let l := s.levelOf z.toNat reading.toInt
    let y := { x with failed := x.failed.erase i.toNat }
    s.setZone z.toNat (if x.blind z.toNat then { y with temp := reading, level := l }
      else { y with temp := if x.temp.toInt < reading.toInt then reading else x.temp
                    level := if x.level < l then l else x.level })

/-- A zone whose readings have stayed below the threshold by the margin for 1 ms falls by one level at the
boundary (R550); a blind zone stays. -/
def State.coolZone (s : State) (z : Nat) : State :=
  let x := s.zone z
  if x.blind z then s else s.setZone z { x with level := if x.level = 0 then 0 else x.level - 1 }

/-! ### Shutdown (R546, R552, R553) -/

/-- Whether an item belongs to a step: images to 4, stacks to 6, receive lanes and links to 7, bays to 8. -/
def itemStep (i : ItemOutcome) : Nat :=
  if i.kind = 1 then 4 else if i.kind = 2 then 6 else if i.kind = 5 then 8 else 7

/-- The failure counts that a start cut short leaves: every item that its step had begun without an outcome
counts as failed (R534). -/
def StartUnit.hung (x : StartUnit) : Tab Nat :=
  match x.run with
  | none => x.fails
  | some o => (o.items.filter fun i => i.stuck && decide (itemStep i = x.step.toNat)).foldl (fun t i =>
      let key := i.kind.toNat * 65536 + i.item.toNat
      Tab.set 0 t key (Tab.get 0 t key + 1)) x.fails

/-- What a module reset leaves: the fuses, the module flash and the sequencer's own store, and the model's
own fields; everything else has its reset value. -/
def State.moduleReset (s : State) : State :=
  { State.reset with
    pending := s.pending, fresh := s.fresh, sent := s.sent, gateOnly := s.prot.getLsbD 1
    sec := { SecUnit.reset with
      fuse := s.sec.fuse, imageA := s.sec.imageA, imageB := s.sec.imageB, cert := s.sec.cert
      dbgOpen := !s.prot.getLsbD 0, everOpen := !s.prot.getLsbD 0 }
    dict := { DictUnit.reset with stored := s.dict.stored, factory := s.dict.factory }
    start := { StartUnit.reset with
      count := s.start.count, book := s.start.book, fails := s.start.hung, clear := s.start.clear
      lastImage := s.start.lastImage }
    map := { MapUnit.reset with fusePhys := s.map.fusePhys, fuseBad := s.map.fuseBad, spareRows := s.map.spareRows }
    power := { PowerUnit.reset with
      input := s.power.input, en := s.power.en, autoRestart := s.power.autoRestart
      vinPin := s.power.vinPin, shutCause := s.power.shutCause, shutZone := s.power.shutZone
      shutCount := s.power.shutCount, trips := s.power.trips, tries := s.power.tries, latched := s.power.latched } }

/-- Shuts the module down: the cause is recorded, and every rail is removed (R552, R553). -/
def State.shutdown (s : State) (cause zone : Nat) : State :=
  let s := s.moduleReset
  s.modPower fun p =>
    { p with on := false, shutCause := BitVec.ofNat 8 cause, shutZone := BitVec.ofNat 8 zone
             shutCount := satInc p.shutCount
             latched := p.latched || (decide (cause = 4 ∨ cause = 5) && !p.autoRestart) }

/-- Shuts down when the rails are on. -/
def State.shutIfOn (s : State) (cause zone : Nat) : State := if s.power.on then s.shutdown cause zone else s

/-- The rails may start again: input present, PWR_EN high, and not held off. -/
def State.powerOn (s : State) : State :=
  s.modPower fun p => { p with on := p.on || (p.input && p.en && !p.latched) }

/-- The level still critical 1 ms later shuts the module down (R552). -/
def execCriticalHoldExpiry (s : State) : Out :=
  .next <|
    if s.moduleLevel = 3 then
      match (upto 14).find? fun z => decide ((s.zone z).level = 3) with
      | some z => s.shutIfOn 4 z
      | none => s.shutIfOn 5 14
    else s

/-- With AUTO_RESTART, the module restarts once every zone has been at level 0 for 60 s (R552). -/
def execAutoRestart (s : State) : Out :=
  .next (if s.power.autoRestart ∧ (s.power.shutCause = 4 ∨ s.power.shutCause = 5) then s.powerOn else s)

/-- The electronic fuse trips (R543, R544). How many earlier trips lie within the last 60 s is free.
DESIGN CHOICE (log entry 57). -/
def execFuseTrip (s : State) : Out :=
  .next <|
    if s.power.on then
      let (w, s) := s.draw
      let n := min s.power.trips (w.toNat % 3) + 1
      (s.shutdown 1 0xFF).modPower fun p => { p with trips := n, latched := decide (3 ≤ n) }
    else s

/-- One second after a trip the sequencer restarts (R544). -/
def execFuseRetry (s : State) : Out := .next (if s.power.shutCause = 1 then s.powerOn else s)

/-- The contact voltage is read; without sense lines VIN_SENSE shows it too (R545). -/
def PowerUnit.vin (p : PowerUnit) (v : BitVec 16) : PowerUnit :=
  { p with vinPin := v, vinSense := if p.senseOpen || p.senseShort then v else p.vinSense }

/-- VIN falls below 60 V (R543). -/
def execUndervoltage (v : BitVec 16) (s : State) : Out :=
  .next (if s.power.on then (s.modPower fun p => { p.vin v with uv := true }).emcy 0x3120 (some 2) none else s)

/-- VIN rises above 80 V (R543). -/
def execOvervoltage (v : BitVec 16) (s : State) : Out :=
  .next (if s.power.on then (s.modPower fun p => { p.vin v with ov := true }).emcy 0x3110 (some 2) none else s)

/-- VIN has stayed inside 60–80 V for 10 ms (R543). -/
def execVoltageRecovered (v : BitVec 16) (s : State) : Out :=
  .next <|
    if s.power.on then
      let was := s.power.uv || s.power.ov
      let s := s.modPower fun p => { p.vin v with uv := false, ov := false }
      if was then (s.clearErrBit 2).emcy 0 none none else s
    else s

def execBrownOut (s : State) : Out := .next (s.shutIfOn 2 0xFF)
def execSevereOvervoltage (s : State) : Out := .next (s.shutIfOn 3 0xFF)

/-- A rail loses power-good while the module runs (R546). -/
def execRailPowerGoodLost (k : BitVec 4) (s : State) : Out :=
  .next (if k.toNat < 9 then s.shutIfOn 6 0xFF else s)

/-- PWR_EN falls (R561). -/
def execPwrEnLow (s : State) : Out := .next ((s.shutIfOn 8 0xFF).modPower fun p => { p with en := false })

/-- PWR_EN rises: a module that stayed off starts (R544, R552). -/
def execPwrEnHigh (s : State) : Out :=
  .next ((s.modPower fun p => { p with en := true, latched := p.latched && p.en }).powerOn)

/-- The input falls below 10 V (R544, R552, R553). -/
def execInputRemoved (s : State) : Out :=
  .next ((s.shutIfOn 9 0xFF).modPower fun p => { p with input := false, latched := false, vinPin := 0 })

/-- The input is applied. -/
def execInputApplied (v : BitVec 16) (s : State) : Out :=
  .next ((s.modPower fun p => { p.vin v with input := true }).powerOn)

/-- A sense line is open (0 SENSE_P, 1 SENSE_N), or the pair is shorted (R545). -/
def execSenseFault (k : BitVec 2) (s : State) : Out :=
  .next (if s.power.on then s.modPower fun p =>
      ({ p with senseOpen := p.senseOpen || decide (k.toNat < 2)
                senseShort := p.senseShort || decide (2 ≤ k.toNat) } : PowerUnit).vin p.vinPin
    else s)

/-- MAX_CLR: PIN_MAX becomes PIN (R555). -/
def State.maxClr (s : State) : State := s.modPower fun p => { p with pinMax := p.pin }

def execMaxClr (src : Src) (s : State) : Out := .next (if isVf src then s.deny else s.maxClr)

end Sys2Proof.Machine
end

