-- ==== Sys2Proof/Machine/Fit.lean ====
section
/-!
DEFINITION. What a plan's descriptors reach and cost: byte ranges, cycle charges, HBM units, mesh load and
link flits of each descriptor, and the longest path of a phase (R54 to R57, R242 to R245, R272, R278,
R288, R330, R331, R350, R395, R396).
-/

namespace Sys2Proof.Machine

/-- A range of physical bytes: first address and length. An address of this module is its local address, one of another
chip its physical address from `farBase` on. -/
abbrev Rng := Nat × Nat

/-- Where the addresses of other chips begin in a range. -/
def farBase : Nat := 2 ^ 60

/-- The range of `n` bytes at a device physical address. -/
def State.rngAt (s : State) (pa n : Nat) : Rng := (if s.isLocal pa then localOf pa else farBase + pa, n)

/-- Whether two ranges share a byte. -/
def rngMeets (a b : Rng) : Bool := decide (a.1 < b.1 + b.2) && decide (b.1 < a.1 + a.2)

/-- Whether two lists of ranges share a byte. -/
def meets (l m : List Rng) : Bool := l.any fun a => m.any (rngMeets a)

/-- What a descriptor reaches and costs, over every parameter it allows (R320, R350): whether every address
translates with the right it needs, cycles without the wait charge, bytes read, bytes written, pad-fill
bytes, HBM units by stack × 64 + partition, bytes by mesh link, flits by link × 2 + direction (1 for the
reverse direction). -/
structure Touch where
  ok : Bool := true
  cost : Nat := 0
  reads : List Rng := []
  writes : List Rng := []
  pads : List Rng := []
  units : Tab Nat := []
  mesh : Tab Nat := []
  flits : Tab Nat := []
  deriving DecidableEq, Repr

/-- Counts added key by key. -/
def tabAdd (a b : Tab Nat) : Tab Nat := b.foldl (fun t x => Tab.set 0 t x.1 (Tab.get 0 t x.1 + x.2)) a

/-- The larger count key by key. -/
def tabMax (a b : Tab Nat) : Tab Nat := b.foldl (fun t x => Tab.set 0 t x.1 (max (Tab.get 0 t x.1) x.2)) a

/-- Counts of the keys of a list, each weighing `w`. -/
def tally (w : Nat) (l : List Nat) : Tab Nat := l.foldl (fun t k => Tab.set 0 t k (Tab.get 0 t k + w)) []

/-- Two touches of one descriptor under two parameters. -/
def Touch.join (a b : Touch) : Touch :=
  { ok := a.ok && b.ok, cost := max a.cost b.cost, reads := a.reads ++ b.reads, writes := a.writes ++ b.writes
    pads := a.pads ++ b.pads, units := tabMax a.units b.units, mesh := tabMax a.mesh b.mesh
    flits := tabMax a.flits b.flits }

/-- The touches of all parameters of a descriptor. -/
def joinAll : List Touch → Touch
  | [] => {}
  | [t] => t
  | t :: l => t.join (joinAll l)

/-! ### The array (R242 to R245) -/

/-- A place of this module's address space where nothing lies (R34). -/
def nowhere : Nat := 0x0D000000000

/-- A shelf range of a carrel; one that does not lie below the rescue frame of that carrel's own shelf lies nowhere
(R236). -/
def shelfRng (c off len : Nat) : Rng := (if off + len ≤ rescueOff then shelfBase c + off else nowhere, len)

/-- Bytes of `n` elements of `b` bits. -/
def rowBytes (n b : Nat) : Nat := ceilDiv (n * b) 8

/-- The depth Kr of a streamed row under a stationary load (R223, R224). -/
def ArrDesc.kr (d : ArrDesc) (st : Nat) : Nat :=
  let ks := (arrClass st d.fmt.ty).ks
  if d.split then 16 * ks else ks

/-- The tile rows of a descriptor in the ledger. -/
def ArrDesc.rowRngs (c : Nat) (d : ArrDesc) (cols : Nat) : List Rng :=
  (upto d.rows).map fun i =>
    (ledgerBase c + (d.rowbase + i) * (16 * accSize d.acc), cols * accSize d.acc)

/-- The scale bytes that an MSTR reads, as shelf offsets (R230). -/
def ArrDesc.scaleOffs (d : ArrDesc) (kr : Nat) : List Nat :=
  if !d.fmt.mx then [] else
  let at_ (i k : Nat) : Nat :=
    if d.turn then
      d.scl + i / 64 * d.spitch +
        (if d.orient then scalePos d.fmt 64 k (i % 64) else scalePos d.fmt 64 (i % 64) k)
    else if d.fmt.dir then d.scl + i / d.fmt.blk * d.spitch + k
    else d.scl + i * d.spitch + k / d.fmt.blk
  ((upto d.rows).flatMap fun i => (upto kr).map (at_ i)).eraseDups

/-- The data bytes that an MSTR reads (R227 to R229). -/
def ArrDesc.rowReads (c : Nat) (d : ArrDesc) (kr : Nat) : List Rng :=
  let b := tyBits d.fmt.ty
  if d.turn then
    (upto d.rows).flatMap fun i => (upto 64).map fun k =>
      let (r, cc) := if d.orient then (k, i % 64) else (i % 64, k)
      shelfRng c (d.src + i / 64 * d.pitch + tileNib b r cc / 2) (ceilDiv b 8)
  else (upto d.rows).map fun i => shelfRng c (d.src + i * d.pitch) (rowBytes kr b)

/-- Latency of an MSTR by class (R243). -/
def arrLat (k : ArrClass) (split : Bool) : Nat :=
  (match k with | .q => 10 | .s => 10 | .i => 10 | .h => 12 | .f => 14 | .d => 18) + if split then 4 else 0

/-- C2 of an MSTR: the streamer's claim on the shelf port (R243, R272). -/
def ArrDesc.c2 (d : ArrDesc) (kr : Nat) : Nat :=
  d.rows * ceilDiv (if d.orient then 1024 else rowBytes kr (tyBits d.fmt.ty)) 1024

/-- What an array descriptor reaches and costs; `st` is the TYPE of the stationary operand it uses or, for
an MLD, the streamed TYPE that fixes its depth (R242 to R244). -/
def ArrDesc.touch (c : Nat) (d : ArrDesc) (st : Nat) : Touch :=
  let b := tyBits d.fmt.ty
  if d.kind = 0 then
    let ks := (arrClass d.fmt.ty st).ks
    let dl := rowBytes (16 * ks) b
    let sl := if d.fmt.mx then 16 * ks / d.fmt.blk else 0
    { cost := ceilDiv dl 16 + ceilDiv sl 16
      reads := shelfRng c d.src dl :: (if d.fmt.mx then [shelfRng c d.scl sl] else []) }
  else if d.kind = 1 then
    let k := arrClass st d.fmt.ty
    let kr := d.kr st
    let p := if d.split then 16 * k.p else k.p
    let sc := d.scaleOffs kr
    let cols := d.rowRngs c (if d.split then 1 else 16)
    { cost := max (ceilDiv (d.rows * kr) p) (max (d.c2 kr) (ceilDiv sc.length 64)) + arrLat k d.split
      reads := d.rowReads c kr ++ sc.map (fun o => shelfRng c o 1) ++ (if d.init then [] else cols)
      writes := cols }
  else if d.kind = 2 then
    let out := if d.col0 then [shelfRng c d.src (rowBytes d.rows b)]
      else (upto d.rows).map fun i => shelfRng c (d.src + i * d.pitch) (rowBytes 16 b)
    let sc := if !d.fmt.mx then []
      else if d.col0 then (upto (d.rows / d.fmt.blk)).map fun i => shelfRng c (d.scl + i) 1
      else if d.fmt.dir then (upto (d.rows / d.fmt.blk)).map fun i => shelfRng c (d.scl + i * d.spitch) 16
      else (upto d.rows).map fun i => shelfRng c (d.scl + i * d.spitch) (16 / d.fmt.blk)
    let rows := d.rowRngs c (if d.col0 then 1 else 16)
    let x := if d.fmt.mx && (d.fmt.dir || d.col0) then d.fmt.blk else 0
    { cost := d.rows + 8 + x, reads := rows
      writes := out ++ sc ++ (if d.clr then d.rowRngs c 16 else []) }
  else { cost := ceilDiv d.rows 4 + 2, writes := d.rowRngs c 16 }

/-! ### The element engine (R275, R278) -/

/-- The slots that an operation reads: A alone, A and B, or A, B and C (R276). -/
def elemReads (op : Nat) : Nat :=
  if op = 0x05 ∨ op = 0x1A then 3
  else if (2 ≤ op ∧ op ≤ 7) ∨ (0x12 ≤ op ∧ op ≤ 0x19) then 2 else 1

/-- The rate factor m (R276). -/
def elemRate (op : Nat) : Nat :=
  if op = 0x0A ∨ op = 0x0B ∨ op = 0x0C then 4
  else if (0x0D ≤ op ∧ op ≤ 0x11) ∨ op = 0x13 ∨ op = 0x14 then 2 else 1

/-- Rows and columns of the elements that a slot's form reads (R275). -/
def bcastShape (form rows cols : Nat) : Nat × Nat :=
  match form with | 0 => (rows, cols) | 1 => (1, cols) | 2 => (1, rows) | _ => (1, 1)

/-- The bytes of a slot. -/
def ElemSlot.rngs (c : Nat) (x : ElemSlot) (rows cols : Nat) : List Rng :=
  if x.ledger then (upto rows).map fun r => (ledgerBase c + x.base + r * x.pitch, cols * accSize x.fmt.ty)
  else
    ((upto rows).map fun r => shelfRng c (x.base + r * x.pitch) (rowBytes cols (tyBits x.fmt.ty))) ++
      if !x.fmt.mx then []
      else if x.fmt.dir then (upto (ceilDiv rows x.fmt.blk)).map fun r => shelfRng c (x.scl + r * x.spitch) cols
      else (upto rows).map fun r => shelfRng c (x.scl + r * x.spitch) (ceilDiv cols x.fmt.blk)

/-- Lanes for a format (R278). -/
def elemLanes (ty : Nat) : Nat := if ty = 16 ∨ ty = 15 then 8 else if tyBits ty = 64 then 16 else 32

/-- What an element-engine descriptor reaches and costs. -/
def ElemDesc.touch (c : Nat) (d : ElemDesc) : Touch :=
  let n := elemReads d.op
  let fb := d.bcast % 4
  let fc := d.bcast / 4 % 4
  let sh (x : ElemSlot) (f : Nat) : List Rng :=
    let (r, k) := bcastShape f d.rows d.cols
    x.rngs c r k
  let fs := d.a.fmt.ty :: d.d.fmt.ty :: (if 2 ≤ n then [d.b.fmt.ty] else []) ++ (if n = 3 then [d.c.fmt.ty] else [])
  let l := fs.foldl (fun m t => min m (elemLanes t)) 32
  let x := if !d.d.fmt.mx then 0 else if d.d.fmt.dir then ceilDiv (d.d.fmt.blk * d.cols) l else 4
  { cost := ceilDiv (d.rows * d.cols * elemRate d.op) l + 12 + x
    reads := sh d.a 0 ++ (if 2 ≤ n then sh d.b fb else []) ++ (if n = 3 then sh d.c fc else [])
    writes := sh d.d 0 }

/-! ### The row engine (R280, R288) -/

/-- The bytes of `rows` rows of a slot. -/
def RowSlot.rngs (x : RowSlot) (rows cols : Nat) : List Rng :=
  ((upto rows).map fun r => shelfRng x.carrel (x.off + r * x.pitch) (rowBytes cols (tyBits x.fmt.ty))) ++
    if x.fmt.mx then (upto rows).map fun r => shelfRng x.carrel (x.scl + r * x.spitch) (ceilDiv cols x.fmt.blk)
    else []

/-- Port cycles of one row of a slot (R288). -/
def RowSlot.cyc (x : RowSlot) (n : Nat) : Nat :=
  ceilDiv (n * tyBits x.fmt.ty) 512 + if x.fmt.mx then ceilDiv n (64 * x.fmt.blk) else 0

/-- Ceiling of log2. -/
def log2Up (n : Nat) : Nat := if n ≤ 1 then 0 else (n - 1).log2 + 1

/-- The constants k and s of an operation with RECOMP and WGRAD (R288). -/
def RowDesc.ks (d : RowDesc) : Nat × Nat :=
  let (k, s) := match d.op with
    | 0 => (3, 1) | 1 => (4, 2) | 2 => (3, 1) | 3 => (3, 1) | 4 => (5, 2) | _ => (4, 1)
  let (rk, rs) := if !d.recomp then (0, 0) else match d.op with | 3 => (3, 1) | 4 => (3, 2) | _ => (2, 1)
  (k + rk + b2n d.wgrad, s + rs)

/-- Whether the operation reads slot DY: the backward ones. -/
def RowDesc.back (d : RowDesc) : Bool := decide (3 ≤ d.op)

/-- Rows of slot W read and of slot G touched: γ, and β for LNORM. -/
def RowDesc.wRows (d : RowDesc) : Nat := if d.op = 1 ∨ d.op = 4 then 2 else 1

/-- The margin entries of a descriptor: those written forward, read backward (R283, R284). -/
def RowDesc.margin (bay : Nat) (d : RowDesc) : List Rng := [(marginBase bay + 16 * d.mbase, 16 * d.rows)]

/-- What a row-engine descriptor reaches and costs. -/
def RowDesc.touch (bay : Nat) (d : RowDesc) : Touch :=
  let n := d.cols
  let (k, s) := d.ks
  let wr := if d.affine then d.wRows else 0
  let g : List Rng := (upto d.wRows).map fun i => shelfRng d.g.carrel (d.g.off + i * d.g.pitch) (8 * n)
  let wv := wr * d.w.cyc n +
    if d.wgrad then d.wRows * ceilDiv n 8 * (if d.ginit then 1 else 2) else 0
  let rd := d.x.cyc n + if d.back then d.dy.cyc n else 0
  { cost := 20 + 220 + wv + d.rows * (rd + k * ceilDiv n 16 + s * log2Up n + d.d.cyc n + 6)
    reads := d.x.rngs d.rows n ++ (if d.back then d.dy.rngs d.rows n else []) ++ d.w.rngs wr n ++
      (if d.wgrad && !d.ginit then g else []) ++ (if d.back && !d.recomp then d.margin bay else [])
    writes := d.d.rngs d.rows n ++ (if d.wgrad then g else []) ++
      (if !d.back && !d.nostat then d.margin bay else []) }

/-! ### The mesh (R14 to R18, R54, R55) -/

/-- A router of a compute die: die, column, row. -/
structure Router where
  die : Nat
  col : Nat
  row : Nat
  deriving DecidableEq, Repr

/-- The router of a physical bay (R14). -/
def bayRouter (die bay : Nat) : Router := { die := die, col := bay % 12, row := bay / 12 }

/-- The router at which a carrel's requests and its shelf lie (R28). -/
def State.carrelRouter (s : State) (c : Nat) : Router :=
  let p := (s.physOf (BitVec.ofNat 12 c)).toNat
  bayRouter (p / 4096) (p % 256)

/-- The router at which a link's traffic leaves the mesh (R17). -/
def linkRouter (l : Nat) : Router :=
  if l < 6 then { die := 0, col := 0, row := Config.portRow l % 11 }
  else { die := 1, col := 11, row := Config.portRow l % 11 }

/-- The router of the target of a physical address: a stack's edge, a carrel, or the port die of the link
that leads to another chip. -/
def State.targetRouter (s : State) (pa : Nat) : Router :=
  if s.isLocal pa then
    match regionOf (localOf pa) with
    | .shelf c _ => s.carrelRouter c
    | _ =>
      let i := s.stackOf (localOf pa)
      { die := i / 4, col := i % 2 * 6 + Config.hbmColumn (localOf pa) % 6, row := if i / 2 % 2 = 0 then 0 else 10 }
  else linkRouter ((s.route (BitVec.ofNat 12 (chipOf pa))).getD 0)

/-- The link directions of a mesh from one router to another of its die: along the row, then along the
column (R16). A link direction's number: router × 4 + (0 east, 1 west, 2 north, 3 south). -/
def meshLegs (a b : Router) : List Nat :=
  let key (c r d : Nat) : Nat := ((a.die * 12 + c) * 11 + r) * 4 + d
  let row := if a.col ≤ b.col then (upto (b.col - a.col)).map fun i => key (a.col + i) a.row 0
    else (upto (a.col - b.col)).map fun i => key (a.col - i) a.row 1
  let col := if a.row ≤ b.row then (upto (b.row - a.row)).map fun i => key b.col (a.row + i) 3
    else (upto (a.row - b.row)).map fun i => key b.col (a.row - i) 2
  row ++ col

/-- The link directions of a packet's path, across the bridge in the row where it starts (R16, R17). -/
def meshPath (a b : Router) : List Nat :=
  if a.die = b.die then meshLegs a b
  else if a.die = 0 then meshLegs a { a with col := 11 } ++ meshLegs { die := 1, col := 0, row := a.row } b
  else meshLegs a { a with col := 0 } ++ meshLegs { die := 0, col := 11, row := a.row } b

/-- Link transfer time of one direction (R395). -/
def linkTime (h f c : Nat) : Nat := ceilDiv (2148 * h + 48 * f) 35 + 234 * c

/-- Hops and port-die changes of the route to a chip: one hop where the route's link has that neighbour. -/
def State.pathOf (s : State) (chip : Nat) : Nat × Nat :=
  match s.route (BitVec.ofNat 12 chip) with
  | some l =>
    if (s.link l).pchip.toNat = chip then (1, 0)
    else (Config.pathHops s.ownChip.toNat chip, Config.pathChanges s.ownChip.toNat chip)
  | none => (0, 0)

/-- One access of 64 B or less: physical address, partition, bytes. -/
structure PlanAcc where
  pa : Nat
  part : BitVec 6
  n : Nat
  deriving DecidableEq, Repr

/-- Die of the target of an access on this module. -/
def State.dieOf (s : State) (pa : Nat) : Nat := (s.targetRouter pa).die

/-- Whether an access reaches an HBM stack, here or on another chip. -/
def PlanAcc.hbm (a : PlanAcc) : Bool := decide (localOf a.pa < 0x0C000000000)

/-- The one-way charge of the mesh between a die and the target of an access on this module, or the link that leads to it:
HBM is interleaved over both dies, so that its longest path goes to the other die (R54, R330, R338). -/
def State.meshWay (s : State) (die : Nat) (a : PlanAcc) : Nat :=
  if (s.isLocal a.pa && a.hbm) || decide (s.dieOf a.pa ≠ die) then 226 else 110

/-- The one-way charge of an access from a die (R54, R330): on another chip, the charge of each chip. -/
def State.oneWay (s : State) (die : Nat) (a : PlanAcc) : Nat :=
  s.meshWay die a + if s.isLocal a.pa then 0 else 4 + 226 + 4

/-- The link transfer time of the accesses of one side: units of 2 and 9 for reads, of 11 and 1 for writes,
over the route of each chip reached (R392, R395). -/
def State.linkCharge (s : State) (l : List PlanAcc) (write : Bool) : Nat :=
  let far := l.filter fun a => !s.isLocal a.pa
  (far.map fun a => chipOf a.pa).eraseDups.foldl (fun m chip =>
    let n := (far.filter fun a => decide (chipOf a.pa = chip)).length
    let (h, c) := s.pathOf chip
    let (q, r) := if write then (11, 1) else (2, 9)
    max m (linkTime h (ceilDiv (n * q) 29) c + linkTime h (ceilDiv (n * r) 29) c)) 0

/-- The flits of one side on this module's links: requests leave, responses come back (R396). -/
def State.linkFlits (s : State) (l : List PlanAcc) (q r : Nat) : Tab Nat :=
  let far := l.filter fun a => !s.isLocal a.pa
  (upto 12).foldl (fun t k =>
    let n := (far.filter fun a => decide (s.route (BitVec.ofNat 12 (chipOf a.pa)) = some k)).length
    tabAdd t [(2 * k, ceilDiv (n * q) 29), (2 * k + 1, ceilDiv (n * r) 29)]) []

/-- The HBM units of a list of accesses on this module (R331, R350). -/
def State.hbmUnits (s : State) (w : Nat) (l : List PlanAcc) : Tab Nat :=
  tally w ((l.filter fun a => s.isLocal a.pa && a.hbm).map fun a => s.stackOf (localOf a.pa) * 64 + a.part.toNat)

/-- The mesh bytes of accesses between a router and their targets: data of reads flows in, of writes out
(R55, R331). -/
def State.meshLoad (s : State) (at_ : Router) (l : List PlanAcc) (write : Bool) : Tab Nat :=
  tally 64 (l.flatMap fun a =>
    if write then meshPath at_ (s.targetRouter a.pa) else meshPath (s.targetRouter a.pa) at_)

/-! ### The data mover (R317 to R330) -/

/-- The virtual addresses of the source rows read; border rows are not read (R317, R326). -/
def MovDesc.srcRows (d : MovDesc) : List Word :=
  ((walkPoints d.n).filter fun p => decide (p.getD 0 0 = 0)).filterMap d.srcRow

/-- The virtual addresses of the destination rows. -/
def MovDesc.dstRows (d : MovDesc) : List Word :=
  ((walkPoints d.n).filter fun p => decide (p.getD d.rowDim 0 = 0)).map d.dstRow

/-- Elements of a source row and of a destination row. -/
def MovDesc.srcLen (d : MovDesc) : Nat := d.n.getD 0 1
def MovDesc.dstLen (d : MovDesc) : Nat := d.n.getD d.rowDim 1

/-- A virtual range cut into 64 B accesses. -/
def chop (a : Word) (n : Nat) : List (Word × Nat) :=
  (upto (ceilDiv n 64)).map fun i => (a + word (64 * i), min 64 (n - 64 * i))

/-- The source accesses (R330: As). -/
def MovDesc.srcAccs (d : MovDesc) : List (Word × Nat) := d.srcRows.flatMap fun r => chop r (rowBytes d.srcLen d.width)

/-- The destination accesses that the regulators and the mesh count: every 64 B of a row's DROW for COPY and WINDOW, a
narrow write for each element of XPOSE, a piece of 32 elements for FOLIO, padding included where it is written (R330,
R331). The spec cuts the padding of XPOSE and FOLIO into no accesses: DESIGN CHOICE (log entry 82). -/
def MovDesc.dstAccs (d : MovDesc) : List (Word × Nat) :=
  if d.op = 1 ∨ d.op = 2 then
    d.rounds.flatten.filterMap fun a => a.head?.map fun p => (word (p.dst / 2), rowBytes a.length d.width)
  else if d.turn then d.dstRows.map fun r => (r, 64)
  else d.dstRows.flatMap fun r => chop r d.drow

/-- The number of destination accesses that the cost and the regulators count (R330, R331). -/
def MovDesc.dstCount (d : MovDesc) : Nat :=
  if d.op = 1 then d.points.length
  else if d.turn then d.dstRows.length
  else d.dstRows.length * ceilDiv d.drow 64

/-- The elements that a list of destination elements covers, as virtual ranges. -/
def MovDesc.validRngs (d : MovDesc) : List (Word × Nat) :=
  if d.turn ∨ d.op = 1 then d.points.map fun p => (word (p.dst / 2), ceilDiv d.width 8)
  else d.dstRows.map fun r => (r, rowBytes d.dstLen d.width)

/-- The pad-fill bytes, as virtual ranges (R325). -/
def MovDesc.padRngs (d : MovDesc) : List (Word × Nat) :=
  if d.padfill then d.dstRows.map fun r =>
    (r + word (rowBytes d.dstLen d.width), d.drow - rowBytes d.dstLen d.width) else []

/-- A list of virtual ranges translated; none where one fails. -/
def State.rngsOf (s : State) (ctx : BitVec 12) (need : Rights) (l : List (Word × Nat)) : Option (List PlanAcc) :=
  allSome (l.map fun ((va, n) : Word × Nat) =>
    (s.recTrans ctx va n need).map fun ((pa, part) : Nat × BitVec 6) => { pa := pa, part := part, n := n })

/-- The accesses of a list that translate, without their rights. -/
def State.reached (s : State) (ctx : BitVec 12) (l : List (Word × Nat)) : List PlanAcc :=
  l.filterMap fun ((va, n) : Word × Nat) =>
    (s.recTrans ctx va 1 0).map fun ((pa, part) : Nat × BitVec 6) => { pa := pa, part := part, n := n }

/-- Whether every byte of a side lies in a shelf of a bay (R318). -/
def State.inBay (s : State) (bay : Nat) (l : List PlanAcc) : Bool :=
  l.all fun a => s.isLocal a.pa && match regionOf (localOf a.pa) with
    | .shelf c o => decide (c / 16 = bay) && decide (o + a.n ≤ shelfSize)
    | _ => false

/-- One-way charge of a side: the longest path of its accesses, or the same-die charge in the bay (R330). -/
def State.sideWay (s : State) (bay : Nat) (l : List PlanAcc) : Nat :=
  if s.inBay bay l then 110 else l.foldl (fun m a => max m (s.oneWay (bay / 128) a)) 110

/-- Service charge of a side (R345). -/
def sideService (l : List PlanAcc) : Nat := if l.any PlanAcc.hbm then 150 else 0

/-- The bytes of an access. -/
def State.accRng (s : State) (a : PlanAcc) : Rng := s.rngAt a.pa a.n

/-- What a data-mover descriptor of a bay reaches and costs, its parameter already applied. -/
def State.movTouch (s : State) (ctx : BitVec 12) (bay : Nat) (d : MovDesc) : Touch :=
  match s.rngsOf ctx 1 d.srcAccs, s.rngsOf ctx 2 d.validRngs, s.rngsOf ctx 2 d.padRngs with
  | some src, some valid, some pads =>
    let at_ := bayRouter (bay / 128) (s.physBay bay)
    let out := valid ++ pads
    let dst := s.reached ctx d.dstAccs
    let lr := 2 * s.sideWay bay src + sideService src + s.linkCharge src false
    let lw := s.sideWay bay out + sideService out + s.linkCharge dst true
    let l := d.folioLen
    let u := d.n.getD 0 1 / max 1 l * (d.n.getD 1 1 / 32) * d.n.getD 2 1 * d.n.getD 3 1 * d.n.getD 4 1
    let tt := 32 * ceilDiv (l * d.width) 512 + l * ceilDiv (32 * d.width) 512 + 2
    let body := if d.op = 2 then u * tt else max src.length d.dstCount
    let far (side x : List PlanAcc) : List PlanAcc := if s.inBay bay side then [] else x
    { cost := 16 + body + lr + lw
      reads := src.map s.accRng, writes := valid.map s.accRng, pads := pads.map s.accRng
      units := tabAdd (s.hbmUnits 1 src) (s.hbmUnits 1 dst)
      mesh := tabAdd (s.meshLoad at_ (far src src) false) (s.meshLoad at_ (far out dst) true)
      flits := tabAdd (s.linkFlits src 2 9) (s.linkFlits dst 11 1) }
  | _, _, _ => { ok := false }

/-! ### Link records (R395, R396, R568) -/

/-- The accesses of a record on this chip and on the other: 64 B units for a transfer; one operand. -/
def State.recAccs (s : State) (ctx : BitVec 12) (r : LinkRec) : Option (List PlanAcc × List PlanAcc) :=
  let near (n : Nat) (need : Rights) := s.rngsOf ctx need (chop r.loc n)
  let both (a b : Option (List PlanAcc)) := match a, b with | some x, some y => some (x, y) | _, _ => none
  match r.kind with
  | 0 => both (near r.length 1) (s.rngsOf ctx 2 (chop r.remote r.length))
  | 1 => both (near r.length 2) (s.rngsOf ctx 1 (chop r.remote r.length))
  | 2 =>
    let n := operWidth r.op r.w
    both (near (if r.op = 14 then 16 else n) (if r.ret then 3 else 1)) (s.rngsOf ctx 8 [(r.remote, n)])
  | 3 => some ([], [])
  | _ => (near (rowBytes r.length (tyBits r.type)) 1).map fun x => (x, [])

/-- What a link record reaches and costs: the link transfer time of its items and the access on each
chip. A read is charged both ways and a write one way (R54); an atomic that returns its old value reads LOCAL for the
operand and writes it for the result (R350, R568). -/
def State.recTouch (s : State) (ctx : BitVec 12) (r : LinkRec) : Touch :=
  match s.recAccs ctx r with
  | none => { ok := false }
  | some (near, far) =>
    let l := if 3 ≤ r.kind then r.link else ((s.route (BitVec.ofNat 12 (chipOf ((far.head?.map PlanAcc.pa).getD 0)))).getD 0)
    let at_ := linkRouter l
    let nearWay := near.foldl (fun m a => max m (s.meshWay at_.die a + 4)) 0
    let writesNear := r.kind = 1 ∨ (r.kind = 2 ∧ r.ret)
    let nearCost := nearWay + sideService near
    let (q, b) : Nat × Nat := match r.kind with
      | 0 => (11, 1) | 1 => (2, 9) | 2 => (if r.op = 14 then 4 else 3, if r.ret then 2 else 1)
      | 3 => (2, 0) | _ => (2 + ceilDiv (r.length * tyBits r.type) 64, 0)
    let n := if r.kind ≤ 1 then far.length else 1
    let (h, c) := if 3 ≤ r.kind then (1, 0) else s.pathOf (chipOf ((far.head?.map PlanAcc.pa).getD 0))
    let time := linkTime h (ceilDiv (n * q) 29) c + if b = 0 then 0 else linkTime h (ceilDiv (n * b) 29) c
    let service := if r.kind = 2 then 190 else sideService far
    { cost := time + (if r.kind = 1 then nearCost else nearWay + nearCost + if writesNear then nearCost else 0) +
        (if far = [] then 0 else if r.kind = 0 then 226 + 4 else 2 * (226 + 4)) + service
      reads := if r.kind = 1 then far.map s.accRng else near.map s.accRng
      writes := if r.kind = 1 then near.map s.accRng
        else far.map s.accRng ++ if writesNear then near.map s.accRng else []
      units := s.hbmUnits (if r.kind = 2 ∧ r.ret then 2 else 1) near
      mesh := tabAdd (if r.kind = 1 then [] else s.meshLoad at_ near false) (if writesNear then s.meshLoad at_ near true else [])
      flits := [(2 * l, ceilDiv (n * q) 29), (2 * l + 1, ceilDiv (n * b) 29)] }

/-! ### The descriptors of one phase (R56) -/

/-- A descriptor in the check: issuing carrel (4,096 for a link record), engine queue, position in the
queue's order, tokens, kind (0 array, 1 element, 2 row, 3 mover, 4 link), C2 of an MSTR, and touch. -/
structure Job where
  carrel : Nat
  eng : Nat
  pos : Nat
  tokWait : Nat
  tokRel : Nat
  kind : Nat
  c2 : Nat
  opnum : Nat
  t : Touch
  deriving DecidableEq, Repr

/-- The MLD and MSTR descriptors of a carrel in array order over a plan tick: phase and descriptor. -/
def Image.arrOrder (m : Image) (c t : Nat) : List (Nat × ArrDesc) :=
  (upto m.phases).flatMap fun ph =>
    let l := ((Tab.get [] m.lists (listKey c 0 t ph)) ++ (Tab.get [] m.lists (listKey c 1 t ph))).map arrDesc
    (upto 256).filterMap fun q => (l.find? fun d => decide (d.seq = q)).map fun d => (ph, d)

/-- The MLD that an MSTR uses: the latest before it in array order (R225). -/
def Image.mldOf (m : Image) (c t ph : Nat) (d : ArrDesc) : Option ArrDesc :=
  let before := (m.arrOrder c t).filter fun x => decide (x.1 < ph) || (decide (x.1 = ph) && decide (x.2.seq < d.seq))
  ((before.filter fun x => decide (x.2.kind = 0)).getLast?).map (·.2)

/-- The streamed TYPE of the MSTR that follows an MLD in array order, or the reserved 31. -/
def Image.mstrTy (m : Image) (c t ph : Nat) (d : ArrDesc) : Nat :=
  let after := (m.arrOrder c t).filter fun x => decide (ph < x.1) || (decide (x.1 = ph) && decide (d.seq < x.2.seq))
  match after.head? with
  | some x => if x.2.kind = 1 then x.2.fmt.ty else 31
  | none => 31

/-- All parameter words of a descriptor: 0 to PMAX, or none. -/
def paramsOf (q : Nat) (d : List Byte) : List (Option Word) :=
  match paramOf q d with
  | none => [none]
  | some m => (upto (m + 1)).map fun x => some (word x)

/-- One descriptor of a carrel as a job. -/
def State.jobOf (s : State) (ctx : BitVec 12) (m : Image) (c q t ph i : Nat) (b : List Byte) : Job :=
  if q < 4 then
    let d := arrDesc b
    let st := if d.kind = 0 then m.mstrTy c t ph d else ((m.mldOf c t ph d).map (·.fmt.ty)).getD 31
    let one (x : Option Word) : Touch :=
      ({ d with src := d.src + ((x.map BitVec.toNat).getD 0) * d.pstep } : ArrDesc).touch c st
    { carrel := c, eng := c * 16, pos := d.seq, tokWait := 0, tokRel := 0, kind := 0
      c2 := if d.kind = 1 then d.c2 (d.kr st) else 0, opnum := d.op, t := joinAll ((paramsOf q b).map one) }
  else if q = 4 then
    let d := elemDesc b none
    { carrel := c, eng := c * 16 + 4, pos := i, tokWait := d.tokWait, tokRel := d.tokRel, kind := 1, c2 := 0
      opnum := d.opnum, t := joinAll ((paramsOf q b).map fun x => (elemDesc b x).touch c) }
  else if q = 5 then
    let d := rowDesc (c / 16) b
    { carrel := c, eng := 0x10000 + c / 16, pos := d.seq, tokWait := 0, tokRel := 0, kind := 2, c2 := 0
      opnum := d.opnum, t := d.touch (c / 16) }
  else
    let d := movDesc b none
    { carrel := c, eng := 0x20000 + c / 16 * 8 + (q - 6), pos := 0x100000 + i, tokWait := d.tokWait
      tokRel := d.tokRel, kind := 3, c2 := 0, opnum := d.opnum
      t := joinAll ((paramsOf q b).map fun x => s.movTouch ctx (c / 16) (movDesc b x)) }

/-- A list paired with positions. -/
def numbered {α : Type} (l : List α) : List (Nat × α) := (upto l.length).zip l

/-- The snapshot copies of a carrel in a plan tick, at the head of their channels' queues (R334). -/
def State.copyJobs (s : State) (ctx : BitVec 12) (m : Image) (c t : Nat) : List Job :=
  (numbered (m.rwset.filter fun r => decide (r.carrel = c ∧ r.ptick = t) && r.inplace)).map fun ((i, r) : Nat × RwRange) =>
    { carrel := c, eng := 0x20000 + c / 16 * 8 + r.channel, pos := i, tokWait := 0, tokRel := 0, kind := 3
      c2 := 0, opnum := 0
      t := joinAll ([false, true].map fun x => s.movTouch ctx (c / 16) (movDesc (r.copyDesc x) none)) }

/-- Every descriptor of a phase of a plan tick, snapshot copies and link records included. -/
def State.jobs (s : State) (ctx : BitVec 12) (m : Image) (t ph : Nat) : List Job :=
  (m.set.flatMap fun c =>
    (if ph = 0 then s.copyJobs ctx m c t else []) ++
    (upto 14).flatMap fun q => (numbered (Tab.get [] m.lists (listKey c q t ph))).map fun ((i, b) : Nat × List Byte) =>
      s.jobOf ctx m c q t ph i b) ++
  (numbered (Tab.get [] m.lists (listKey 4096 0 t ph))).map fun ((i, b) : Nat × List Byte) =>
    let r := linkRec b
    { carrel := 4096, eng := 0x30000, pos := i, tokWait := r.tokWait, tokRel := r.tokRel, kind := 4, c2 := 0
      opnum := leAt b 0 4, t := s.recTouch ctx r }

/-- Whether one job directly precedes another: queue order, or a token it releases that the other awaits. -/
def Job.before (a b : Job) : Bool :=
  (decide (a.eng = b.eng) && decide (a.pos < b.pos)) || (decide (a.tokRel ≠ 0) && decide (a.tokRel = b.tokWait))

/-- The jobs reached from a set, one step further. -/
def reachStep (js : List Job) (l : List Nat) : List Nat :=
  (upto js.length).filter fun j => l.contains j ||
    l.any fun i => match js[i]?, js[j]? with | some a, some b => a.before b | _, _ => false

/-- The jobs that come after job `i`. -/
def reachFrom (js : List Job) (i : Nat) : List Nat :=
  let first := (upto js.length).filter fun j => match js[i]?, js[j]? with | some a, some b => a.before b | _, _ => false
  (upto js.length).foldl (fun l _ => reachStep js l) first

/-- Whether queue order or a chain of tokens orders two jobs of a phase. -/
def ordered (js : List Job) (i j : Nat) : Bool := (reachFrom js i).contains j || (reachFrom js j).contains i

/-- The carrels whose shelves a job reaches. -/
def Job.shelves (j : Job) : List Nat :=
  ((j.t.reads ++ j.t.writes ++ j.t.pads).filterMap fun r =>
    match regionOf r.1 with | .shelf c _ => some c | _ => none).eraseDups

/-- The carrels whose shelf or ledger a job of another issuer reaches (R73). -/
def Job.visits (j : Job) : List Nat :=
  (((j.t.reads ++ j.t.writes ++ j.t.pads).filterMap fun r => match regionOf r.1 with
    | .shelf c _ => some c | .ledger c _ => some c | _ => none).eraseDups).filter fun c => decide (c ≠ j.carrel)

/-- The wait charge Sw: C2 of every unordered MSTR on a shelf that the job reaches (R272, R330). -/
def swOf (js : List Job) (i : Nat) (j : Job) : Nat :=
  if j.kind = 0 ∨ j.kind = 4 then 0 else
  (numbered js).foldl (fun n ((k, a) : Nat × Job) =>
    if a.c2 ≠ 0 ∧ j.shelves.contains a.carrel ∧ !ordered js i k then n + a.c2 else n) 0

/-- One round of finish times: each job after the latest finish of what precedes it. -/
def finishRound (js : List (Job × Nat)) (f : List Nat) : List Nat :=
  js.map fun ((b, c) : Job × Nat) =>
    c + (js.zip f).foldl (fun m (((a, _), x) : (Job × Nat) × Nat) => if a.before b then max m x else m) 0

/-- Finish times of the jobs of a phase; none when their order has a cycle. -/
def finishTimes (js : List Job) : Option (List Nat) :=
  let js := (numbered js).map fun ((i, j) : Nat × Job) => (j, j.t.cost + swOf js i j)
  let f := (upto js.length).foldl (fun f _ => finishRound js f) (js.map (·.2))
  if finishRound js f = f then some f else none

/-- engine_path(c, t, p) (R56). -/
def enginePath (js : List Job) (f : List Nat) (c : Nat) : Nat :=
  (js.zip f).foldl (fun m ((j, x) : Job × Nat) => if j.carrel = c ∨ j.carrel = 4096 then max m x else m) 0

/-- phases(t). -/
def Image.phasesAt (m : Image) (t : Nat) : Nat := m.phasesOf.getD t 1

/-- budget(c, t, p). -/
def Image.budget (m : Image) (c t p : Nat) : Nat := Tab.get 0 m.budgets ((c * 4096 + t) * 256 + p)

/-- The longest carrel of a phase; none when the phase's order has a cycle. -/
def State.phaseCost (s : State) (ctx : BitVec 12) (m : Image) (t p : Nat) : Option Nat :=
  let js := s.jobs ctx m t p
  (finishTimes js).map fun f => m.set.foldl (fun n c => max n (m.budget c t p + enginePath js f c)) 0

/-- T(t) of R56: the phases and a barrier of 5 cycles between them. -/
def State.tickCost (s : State) (ctx : BitVec 12) (m : Image) (t : Nat) : Option Nat :=
  (allSome ((upto (m.phasesAt t)).map (s.phaseCost ctx m t))).map fun l =>
    l.foldl (· + ·) 0 + 5 * (m.phasesAt t - 1)

/-- All jobs of a plan tick. -/
def State.tickJobs (s : State) (ctx : BitVec 12) (m : Image) (t : Nat) : List Job :=
  (upto (m.phasesAt t)).flatMap (s.jobs ctx m t)

/-- The planned uses of carrels by plan tick: 1 a carrel's own work, a budget or a descriptor, and 2 an access of
another issuer to its shelf or ledger (R73). -/
def State.planUses (s : State) (ctx : BitVec 12) (m : Image) : Tab Nat :=
  (upto m.period).foldl (fun t k =>
    let js := s.tickJobs ctx m k
    let own := m.set.filter fun c => (upto (m.phasesAt k)).any (fun p => decide (m.budget c k p ≠ 0)) ||
      js.any fun j => decide (j.carrel = c)
    let t := own.foldl (fun t c => Tab.set 0 t (c * 4096 + k) 1) t
    (js.flatMap Job.visits).eraseDups.foldl (fun t c =>
      Tab.set 0 t (c * 4096 + k) (Tab.get 0 t (c * 4096 + k) + 2)) t) []

/-- The load of a plan in its busiest tick, key by key. The busiest ticks of all resident plans are taken to coincide.
DESIGN CHOICE (log entry 76). -/
def State.peak (s : State) (ctx : BitVec 12) (m : Image) (f : Touch → Tab Nat) : Tab Nat :=
  (upto m.period).foldl (fun w t =>
    tabMax w ((s.tickJobs ctx m t).foldl (fun a j => tabAdd a (f j.t)) [])) []

/-- Demand of one plan on (stack, partition): its busiest tick and its declared bound (R350). -/
def State.planDemand (s : State) (ctx : BitVec 12) (m : Image) (stack part : Nat) : Nat :=
  Tab.get 0 (s.peak ctx m Touch.units) (stack * 64 + part) + Tab.get 0 m.demand part

/-- Whether any running plan has demand on a stack (R353). -/
def State.stackWanted (s : State) (stack : Nat) : Bool :=
  s.plans.any fun (_, p) => decide (p.state = .running) &&
    (upto 64).any fun q => decide (s.planDemand p.ctx p.img stack q ≠ 0)

/-- Planned slots of a link direction: at 7 lanes, less the status on a chain-tree link (R396). -/
def State.slotsOf (s : State) (l : Nat) : Nat :=
  let n := 35 * workCycles s.tick.len.toNat / 64
  if s.treeLinks.contains l then n - s.statusFlits else n

end Sys2Proof.Machine
end

