-- ==== Sys2Proof/Machine/PlanForm.lean ====
section
/-!
DEFINITION. A plan image from its bytes (R49, R50, R301, R302, R564 to R568), and what makes a segment, a
record or a descriptor malformed (R200, R201, R220, R226 to R236, R240, R250, R251, R265, R271, R275 to R281,
R287, R303, R318 to R332, R334).
-/

namespace Sys2Proof.Machine

/-- An image as read: its facts and what the loader writes. -/
structure PlanImage where
  img : Image
  ctx : Nat
  tickLen : Nat
  phases : Nat
  /-- the digest of the header -/
  digest : List Byte
  /-- load records: carrel, virtual address, bytes -/
  code : List (Nat × Word × List Byte)
  /-- shelf images by carrel -/
  shelf : List (Nat × List Byte)
  /-- declared spill regions and exception stacks: shelf offset and length -/
  regions : List (Nat × Nat)
  deriving DecidableEq, Repr

/-- One directory entry (R564). -/
structure PlanSeg where
  type : Nat
  carrel : Nat
  off : Nat
  len : Nat
  deriving DecidableEq, Repr

/-- Whether `n` bytes at `off` are zero. -/
def zeroAt (b : List Byte) (off n : Nat) : Bool := decide (leAt b off n = 0)

/-- Whether all numbers of a list differ. -/
def distinct (l : List Nat) : Bool := decide (l.eraseDups.length = l.length)

/-! ### Header and directory (R49, R564) -/

/-- The header's length field. -/
def imgLength (h : List Byte) : Nat := leAt h 0x28 8

/-- Whether the header fields of R49 are as they must be; `digest` is the digest of the image with the
field set to zero. -/
def headerOk (b : List Byte) (digest : List Byte) : Bool :=
  decide (leAt b 0 4 = 0x4C443950) && decide (leAt b 4 2 = 1) && decide (imgLength b = b.length) &&
  decide (256 ≤ b.length) && decide (slice b 0x40 32 = digest) &&
  decide (1 ≤ leAt b 6 1) && decide (leAt b 6 1 ≤ 2) && zeroAt b 7 1 && zeroAt b 0x0E 2 && zeroAt b 0x30 16 &&
  zeroAt b 0x60 160 && decide (1 ≤ leAt b 0x0A 2) && decide (leAt b 0x0A 2 ≤ 4096) &&
  decide (1 ≤ leAt b 0x0C 2) && decide (leAt b 0x0C 2 ≤ 1024) && decide (1 ≤ leAt b 0x14 4) &&
  decide (leAt b 0x14 4 ≤ 256) && decide (leAt b 0x18 8 + 512 ≤ b.length) &&
  decide (leAt b 0x20 8 + 32 * leAt b 0x0C 2 ≤ b.length)

/-- The image with its digest field set to zero. -/
def undigested (b : List Byte) : List Byte := patch b 0x40 (List.replicate 32 0)

/-- The carrels of the set bitmap. -/
def setOfImage (b : List Byte) : List Nat :=
  let w := leAt b (leAt b 0x18 8) 512
  (upto 4096).filter fun c => w.testBit c

/-- The directory entries. -/
def dirOf (b : List Byte) : List PlanSeg :=
  (upto (leAt b 0x0C 2)).map fun i =>
    let o := leAt b 0x20 8 + 32 * i
    { type := leAt b o 1, carrel := leAt b (o + 2) 2, off := leAt b (o + 8) 8, len := leAt b (o + 0x10) 8 }

/-- Whether a segment type stands once, not per carrel. -/
def onceType (t : Nat) : Bool := decide (t = 5 ∨ t = 10)

/-- Whether the directory breaks nothing of R564 and no type stands more often than R50 allows. -/
def dirOk (b : List Byte) : Bool :=
  let l := dirOf b
  let set := setOfImage b
  let fixed : List Rng := [(0, 256), (leAt b 0x18 8, 512), (leAt b 0x20 8, 32 * l.length)]
  let rngs : List Rng := l.map fun x => (x.off, x.len)
  !set.isEmpty &&
  (upto l.length).all (fun i => let o := leAt b 0x20 8 + 32 * i; zeroAt b (o + 1) 1 && zeroAt b (o + 4) 4 && zeroAt b (o + 0x18) 8) &&
  l.all (fun x => decide (1 ≤ x.type ∧ x.type ≤ 10) && decide (8 ≤ x.len) && decide (x.off % 64 = 0) &&
    decide (x.off + x.len ≤ b.length) &&
    (if onceType x.type then decide (x.carrel = 0xFFFF) else set.contains x.carrel)) &&
  distinct (l.map fun x => x.type * 65536 + x.carrel) &&
  !(meets rngs fixed) && (upto rngs.length).all fun i => (upto i).all fun j =>
    !(rngMeets (rngs.getD i (0, 0)) (rngs.getD j (0, 0)))

/-- The bytes of a segment; none where the image has no such segment. -/
def segOf (b : List Byte) (t c : Nat) : Option (List Byte) :=
  ((dirOf b).find? fun x => decide (x.type = t ∧ x.carrel = c)).map fun x => slice b x.off x.len

/-! ### CLAIMS (R566) and the training section (R301, R302) -/

/-- The bits set of a bitmap of 256. -/
def bits256 (b : List Byte) (off : Nat) : List Nat :=
  let w := leAt b off 32
  (upto 256).filter fun i => w.testBit i

/-- A table built from keys and a function, zeros left out. -/
def tabOf (l : List Nat) (f : Nat → Nat) : Tab Nat := l.foldl (fun t k => Tab.set 0 t k (f k)) []

/-- A signed field. -/
def leInt (b : List Byte) (off n : Nat) : Int := (BitVec.ofNat (8 * n) (leAt b off n)).toInt

/-- Offset of the training section: the next multiple of 8 after PHASES_OF. -/
def trainOff (period : Nat) : Nat := ceilDiv (0x1948 + period) 8 * 8

/-- The training section of a CLAIMS segment. -/
def trainingOf (b : List Byte) (period : Nat) : Training :=
  let o := trainOff period
  let n := leAt b o 2
  let f := leAt b (o + 2) 2
  { stepEnd := leAt b (o + 4) 2
    layers := (upto n).map fun i =>
      let p := o + 8 + 16 * i
      let fl := leAt b (p + 2) 1
      { tag := leAt b p 2, frozen := fl.testBit 0, gselect := fl.testBit 1, fxselect := fl.testBit 2
        gfmt0 := leAt b (p + 3) 1, gexpW := leInt b (p + 4) 2, gexpG := leInt b (p + 6) 2
        gexpU := leInt b (p + 8) 2, fxexp0 := leInt b (p + 10) 2, fxhead := leAt b (p + 12) 1 }
    follows := (upto f).map fun i =>
      let p := o + 8 + 16 * n + 16 * i
      { seg := leAt b p 1, kind := leAt b (p + 1) 1, layer := leAt b (p + 2) 2, carrel := leAt b (p + 4) 2
        byte := leAt b (p + 6) 2, index := leAt b (p + 8) 4 } }

/-- Whether the bytes of a CLAIMS segment are as R566, R301 and R302 require. -/
def claimsOk (b : List Byte) (set : List Nat) (period phases : Nat) : Bool :=
  let bays := (set.map fun c => c / 16).eraseDups
  let o := trainOff period
  let train := decide (leAt b 0x1940 4 = 1)
  let n := leAt b o 2
  let f := leAt b (o + 2) 2
  decide (0x1948 + period ≤ b.length) && decide (leAt b 0x1940 4 ≤ 1) && zeroAt b 0x1944 4 &&
  (bits256 b 0).all bays.contains && (bits256 b 0x20).all bays.contains &&
  (upto 256).all (fun k => zeroAt b (0x40 + 8 * k + 4) 4 &&
    (decide (leAt b (0x40 + 8 * k + 2) 2 = 0) || bays.contains k)) &&
  (upto 2048).all (fun k => let c := leAt b (0x840 + 2 * k) 2
    decide (c = 0xFFFF) || (set.contains c && decide (c / 16 = k / 8))) &&
  decide ((upto period).foldl (fun m t => max m (leAt b (0x1948 + t) 1 + 1)) 0 = phases) &&
  (!train || (decide (o + 8 ≤ b.length) && decide (o + 8 + 16 * n + 16 * f = b.length) && zeroAt b (o + 6) 2 &&
    decide (n ≤ 4096) &&
    (upto n).all (fun i => let p := o + 8 + 16 * i
      decide (leAt b (p + 2) 1 < 8) && decide (leAt b (p + 3) 1 ≤ 2) && zeroAt b (p + 13) 3) &&
    (upto f).all (fun i => let p := o + 8 + 16 * n + 16 * i
      decide (leAt b (p + 1) 1 ≤ 1) && zeroAt b (p + 12) 4)))

/-! ### List indexes and records (R565) -/

/-- One entry of a list index: offset, count and whether its upper bits are 0. -/
def indexEntry (b : List Byte) (at_ : Nat) : Nat × Nat × Bool := (leAt b at_ 4, leAt b (at_ + 4) 2, zeroAt b (at_ + 6) 2)

/-- The records of an index entry. -/
def recordsAt (b : List Byte) (at_ size : Nat) : List (List Byte) :=
  let (off, n, _) := indexEntry b at_
  (upto n).map fun i => slice b (off + size * i) size

/-- Whether an index entry is well formed: no upper bits, its records inside the segment. -/
def entryOk (b : List Byte) (at_ size : Nat) : Bool :=
  let (off, n, z) := indexEntry b at_
  z && (decide (n = 0) || decide (off + size * n ≤ b.length))

/-- Size of the records of a segment type and its queues. -/
def segShape (t : Nat) : Nat × Nat :=
  match t with | 6 => (40, 4) | 7 => (128, 1) | 8 => (128, 1) | 9 => (192, 8) | _ => (64, 1)

/-- First queue number of a segment type in the lists of an image. -/
def segBase (t : Nat) : Nat := match t with | 6 => 0 | 7 => 4 | 8 => 5 | 9 => 6 | _ => 0

/-- Offset of a segment's list index: after the allocation table of an ARRAY segment (R250, R565). -/
def indexOff (t : Nat) (b : List Byte) : Nat := if t = 6 then ceilDiv (8 + 8 * leAt b 0 2) 8 * 8 else 0

/-- Whether the list index of a segment is well formed; phases past phases(t) show no records. -/
def listsOk (t : Nat) (b : List Byte) (period phases : Nat) (phasesOf : List Nat) : Bool :=
  let (size, nq) := segShape t
  let o := indexOff t b
  decide (o + 8 * (period * phases * nq) ≤ b.length) &&
  (upto period).all fun k => (upto phases).all fun p => (upto nq).all fun q =>
    let at_ := o + 8 * ((k * phases + p) * nq + q)
    entryOk b at_ size && (decide (p < phasesOf.getD k 1) || decide (leAt b (at_ + 4) 2 = 0))

/-- The lists of a segment under a carrel's number. -/
def listsOf (t c : Nat) (b : List Byte) (period phases : Nat) : Tab (List (List Byte)) :=
  let (size, nq) := segShape t
  let o := indexOff t b
  (upto period).foldl (fun m k => (upto phases).foldl (fun m p => (upto nq).foldl (fun m q =>
    Tab.set [] m (listKey c (segBase t + q) k p) (recordsAt b (o + 8 * ((k * phases + p) * nq + q)) size)) m) m) []

/-- All entries of two tables with different keys. -/
def tabUnion (a b : Tab (List (List Byte))) : Tab (List (List Byte)) := b.foldl (fun t x => Tab.set [] t x.1 x.2) a

/-! ### Single segments -/

/-- One RWSET record (R567). -/
def rwRange (c t : Nat) (b : List Byte) : RwRange :=
  let f := leAt b 0x10 2
  { carrel := c, ptick := t, va := word (leAt b 0 8), len := leAt b 8 8, read := f.testBit 0, write := f.testBit 1
    inplace := f.testBit 2, padfill := f.testBit 3, mirror := f.testBit 4, channel := leAt b 0x12 1
    snap := word (leAt b 0x18 8) }

/-- Whether an RWSET record's fields are as R567 requires. -/
def rwOk (b : List Byte) : Bool :=
  let r := rwRange 0 0 b
  decide (1 ≤ r.len) && decide (leAt b 0x10 2 < 32) && zeroAt b 0x13 5 &&
  (if r.inplace then r.read && r.write && decide (r.channel < 8) else zeroAt b 0x12 1 && zeroAt b 0x18 8) &&
  (!r.mirror || r.write)

/-- The load records of a CODE segment after its entry points, `fuel` bounding their number. -/
def loadRecords : Nat → List Byte → Option (List (Word × List Byte))
  | 0, _ => none
  | n + 1, b =>
    if b = [] then some []
    else
      let len := leAt b 8 8
      let k := 16 + ceilDiv len 16 * 16
      if b.length < k then none
      else (loadRecords n (b.drop k)).map fun l => (word (leAt b 0 8), slice b 16 len) :: l

/-- The load records of a CODE segment. -/
def codeOf (b : List Byte) (period : Nat) : Option (List (Word × List Byte)) :=
  if b.length < 8 * period then none else loadRecords (b.length + 1) (b.drop (8 * period))

/-- Whether a SHELF segment is well formed (R565). -/
def shelfOk (b : List Byte) : Bool :=
  let n := leAt b 4 4
  decide (0x30 ≤ b.length) && zeroAt b 8 8 && decide (0x30 + 16 * n + ceilDiv (leAt b 0 4) 16 * 16 ≤ b.length)

/-- The allocation table of an ARRAY segment (R250). -/
def allocsOf (b : List Byte) : List Alloc :=
  (upto (leAt b 0 2)).map fun i =>
    let o := 8 + 8 * i
    { first := leAt b o 2, rows := leAt b (o + 2) 2, acc := leAt b (o + 4) 1, tile := leAt b (o + 5) 1
      qexp := leInt b (o + 6) 2 }

/-- Whether a TYPE is an accumulator's. -/
def isAcc (ty : Nat) : Bool := decide (ty = 11 ∨ (13 ≤ ty ∧ ty ≤ 16))

/-- Whether the allocation table is well formed (R250, R251). -/
def allocsOk (b : List Byte) : Bool :=
  let l := allocsOf b
  decide (leAt b 0 2 ≤ 64) && zeroAt b 2 6 && decide (8 + 8 * leAt b 0 2 ≤ b.length) &&
  l.all (fun a => decide (1 ≤ a.rows) && isAcc a.acc && decide (a.tile < 64) &&
    (if a.acc = 16 then decide (-512 ≤ a.qexp ∧ a.qexp ≤ 511) else decide (a.qexp = 0))) &&
  distinct (l.map (·.tile))

/-! ### The image -/

/-- The image of a plan from its bytes. -/
def planImage (b : List Byte) : PlanImage :=
  let set := setOfImage b
  let period := leAt b 0x0A 2
  let phases := leAt b 0x14 4
  let cl := (segOf b 5 0xFFFF).getD []
  let per (t : Nat) : List (Nat × List Byte) := set.filterMap fun c => (segOf b t c).map fun x => (c, x)
  let lists := ([6, 7, 8, 9].flatMap fun t => (per t).map fun ((c, x) : Nat × List Byte) => listsOf t c x period phases) ++
    (match segOf b 10 0xFFFF with | some x => [listsOf 10 4096 x period phases] | none => [])
  let img : Image :=
    { period := period, phases := phases, tickLen := leAt b 0x10 4, set := set
      phasesOf := (upto period).map fun t => if cl = [] then phases else leAt cl (0x1948 + t) 1 + 1
      entries := (per 1).foldl (fun m ((c, x) : Nat × List Byte) => (upto period).foldl (fun m t =>
        Tab.set 0 m (c * 4096 + t) (word (leAt x (8 * t) 8))) m) []
      budgets := (per 2).foldl (fun m ((c, x) : Nat × List Byte) => (upto period).foldl (fun m t =>
        (upto phases).foldl (fun m p =>
          Tab.set 0 m ((c * 4096 + t) * 256 + p) (leAt x (4 * (t * phases + p)) 4)) m) m) []
      rwset := (per 3).flatMap fun ((c, x) : Nat × List Byte) => (upto period).flatMap fun t =>
        (recordsAt x (8 * t) 32).map (rwRange c t)
      backing := (per 4).flatMap fun ((c, x) : Nat × List Byte) => (upto (leAt x 4 4)).map fun i =>
        let o := 0x30 + 16 * i
        { carrel := c, off := leAt x o 4, len := leAt x (o + 4) 4, va := word (leAt x (o + 8) 8) }
      allocs := (per 6).foldl (fun m ((c, x) : Nat × List Byte) => Tab.set [] m c (allocsOf x)) []
      lists := lists.foldl tabUnion []
      rowEng := bits256 cl 0, folio := bits256 cl 0x20
      margin := tabOf (upto 256) fun k =>
        let n := leAt cl (0x40 + 8 * k + 2) 2
        if n = 0 then 0 else leAt cl (0x40 + 8 * k) 2 * 65536 + n
      mover := tabOf (upto 2048) fun k =>
        let c := leAt cl (0x840 + 2 * k) 2
        if cl = [] ∨ c = 0xFFFF then 0 else c + 1
      demand := tabOf (upto 64) fun p => leAt cl (0x1840 + 4 * p) 4
      training := if leAt cl 0x1940 4 = 1 then some (trainingOf cl period) else none
      uses := [] }
  { img := img, ctx := leAt b 8 2, tickLen := leAt b 0x10 4, phases := phases, digest := slice b 0x40 32
    code := (per 1).flatMap fun ((c, x) : Nat × List Byte) => ((codeOf x period).getD []).map fun y => (c, y.1, y.2)
    shelf := (per 4).map fun ((c, x) : Nat × List Byte) => (c, slice x (0x30 + 16 * leAt x 4 4) (leAt x 0 4))
    regions := (per 4).flatMap fun ((_, x) : Nat × List Byte) => (0, leAt x 0 4) ::
      (upto 4).map fun i => (leAt x (0x10 + 8 * i) 4, leAt x (0x14 + 8 * i) 4) }

/-- Whether the segments that are present are well formed (R565 to R567). -/
def segsOk (b : List Byte) : Bool :=
  let set := setOfImage b
  let period := leAt b 0x0A 2
  let phases := leAt b 0x14 4
  let claims := segOf b 5 0xFFFF
  let phasesOf := match claims with
    | some cl => (upto period).map fun t => leAt cl (0x1948 + t) 1 + 1
    | none => List.replicate period phases
  let each (t : Nat) (f : List Byte → Bool) : Bool := set.all fun c => match segOf b t c with | some x => f x | none => true
  (match claims with | some cl => claimsOk cl set period phases | none => true) &&
  each 1 (fun x => (codeOf x period).isSome) &&
  each 2 (fun x => decide (4 * (period * phases) ≤ x.length) &&
    (upto period).all fun t => (upto phases).all fun p =>
      decide (p < phasesOf.getD t 1) || zeroAt x (4 * (t * phases + p)) 4) &&
  each 3 (fun x => decide (8 * period ≤ x.length) &&
    (upto period).all fun t => entryOk x (8 * t) 32 && (recordsAt x (8 * t) 32).all rwOk) &&
  each 4 shelfOk &&
  each 6 (fun x => allocsOk x && listsOk 6 x period phases phasesOf) &&
  [7, 8, 9].all (fun t => each t fun x => listsOk t x period phases phasesOf) &&
  (match segOf b 10 0xFFFF with | some x => listsOk 10 x period phases phasesOf | none => true)

/-! ### Format words (R200, R201) -/

/-- Whether a format word is legal, as a source or a destination. -/
def fmtOk (w : Nat) (dest : Bool) : Bool :=
  let f := fmtWord w
  decide (w < 0x2000) && decide (f.ty ≤ 16) &&
  (if 6 ≤ f.ty ∧ f.ty ≤ 9 then f.mx else if 2 ≤ f.ty ∧ f.ty ≤ 5 then true else !f.mx) &&
  decide (w / 64 % 8 ≤ 5) && (f.mx || (decide (w / 64 % 8 = 0) && !f.dir && !f.fit)) &&
  (!f.sat || (decide (f.ty = 5) && dest)) && (!f.sr || (decide (2 ≤ f.ty ∧ f.ty ≤ 10) && dest)) &&
  (dest || !f.fit)

/-- Whether a matrix's extent is a multiple of its blocks (R201). -/
def extentOk (f : FmtWord) (rows cols : Nat) : Bool :=
  !f.mx || decide ((if f.dir then rows else cols) % f.blk = 0)

/-! ### Array descriptors (R220, R226 to R236, R240) -/

/-- Whether a pair of types is a class of R220, and the accumulator is one it allows. -/
def classOk (st sm acc : Nat) : Bool :=
  let small (t : Nat) : Bool := decide (t = 2 ∨ (4 ≤ t ∧ t ≤ 9))
  if st = 8 ∧ sm = 8 then decide (acc = 13 ∨ acc = 14 ∨ acc = 16)
  else if small st && small sm then
    decide (acc = 13 ∨ acc = 14 ∨ (acc = 16 ∧ st ≠ 2 ∧ sm ≠ 2))
  else if st = 10 ∧ sm = 10 then decide (acc = 11 ∨ acc = 16)
  else if st = sm ∧ (st = 3 ∨ st = 1) then decide (acc = 13 ∨ acc = 14)
  else decide (st = 0 ∧ sm = 0 ∧ acc = 15)

/-- Ledger depth of an accumulator in tile rows (R248). -/
def accDepth (ty : Nat) : Nat := 32768 / (16 * accSize ty)

/-- Whether a TYPE may be a stationary operand at all. -/
def opType (t : Nat) : Bool := decide (t ≤ 10)

/-- Fields and CTL bits of an array descriptor (R226, R229, R233, R234, R240). DESIGN CHOICE (log entry 60). -/
def arrFieldsOk (q : Nat) (b : List Byte) : Bool :=
  let d := arrDesc b
  let ctl := leAt b 6 1
  let only (bit : Nat) (ks : List Nat) : Bool := !ctl.testBit bit || ks.contains d.kind
  let outside (ks : List Nat) (off n : Nat) : Bool := ks.contains d.kind || zeroAt b off n
  decide (d.kind = q) && decide (ctl < 128) && zeroAt b 0x24 4 &&
  only 0 [0, 1] && only 1 [0, 1] && only 2 [1] && only 3 [1] && only 4 [2] && only 5 [2] &&
  outside [1, 2, 3] 7 1 && decide (leAt b 7 1 < 64) && outside [0, 1, 2] 8 2 && outside [1, 2, 3] 0x0A 2 &&
  outside [1, 2, 3] 0x0C 2 && outside [1, 2, 3] 0x0E 2 && outside [0, 1, 2] 0x10 4 && outside [0, 1, 2] 0x14 4 &&
  outside [1, 2] 0x18 4 && outside [1, 2] 0x1C 4 &&
  (decide (d.kind = 0) || (isAcc (leAt b 0x0A 2) && decide (1 ≤ d.rows))) &&
  (decide (d.kind = 3) || fmtOk (leAt b 8 2) (decide (d.kind = 2))) &&
  decide (d.pstep % (if d.turn then 1024 else 16) = 0) &&
  (match d.kind with
  | 0 => decide (d.src % 16 = 0) && !(d.split && d.orient) && opType d.fmt.ty
  | 1 => decide (d.src % (if d.turn then 1024 else 16) = 0) && decide (d.pitch % (if d.turn then 1024 else 16) = 0) &&
      (!d.turn || !d.split) && (!d.orient || d.turn) && opType d.fmt.ty
  | 2 => !(13 ≤ d.fmt.ty) &&
      (!d.fmt.mx ||
        (if d.col0 then !d.fmt.dir && decide (d.rows % d.fmt.blk = 0)
         else if d.fmt.dir then decide (d.rows % d.fmt.blk = 0) else decide (d.fmt.blk = 8 ∨ d.fmt.blk = 16)))
  | _ => true)

/-- Operands, stationary use and extents of an array descriptor (R201, R220, R225, R236). -/
def arrUseOk (m : Image) (c t ph : Nat) (d : ArrDesc) : Bool :=
  match d.kind with
  | 0 =>
    let ks := (arrClass d.fmt.ty (m.mstrTy c t ph d)).ks
    if d.split then extentOk d.fmt 1 (16 * ks) else if d.orient then extentOk d.fmt 16 ks else extentOk d.fmt ks 16
  | 1 =>
    match m.mldOf c t ph d with
    | none => false
    | some l =>
      decide (l.split = d.split) && classOk l.fmt.ty d.fmt.ty d.acc &&
      !(d.turn && decide (arrClass l.fmt.ty d.fmt.ty = .q)) &&
      (if d.turn then extentOk d.fmt 64 64 else extentOk d.fmt d.rows (d.kr l.fmt.ty))
  | _ => true

/-- The allocation that covers a descriptor's tile rows, with its ACC and TILE (R236, R251). -/
def arrAllocOk (m : Image) (c : Nat) (d : ArrDesc) : Bool :=
  decide (d.kind = 0) || (decide (d.rowbase + d.rows ≤ accDepth d.acc) &&
    (Tab.get [] m.allocs c).any fun a => decide (a.acc = d.acc) && decide (a.tile = d.tile) &&
      decide (a.first ≤ d.rowbase) && decide (d.rowbase + d.rows ≤ a.first + a.rows))

/-- Whether every shelf byte of a touch lies below 196,096 in the shelf that its descriptor names (R236; for the element
and row engines log entry 17). DEDUCED (log entry 17). -/
def belowRescue (l : List Rng) : Bool := l.all fun r => decide (r.1 ≠ nowhere)

/-- SEQ of a phase's array descriptors: 0 to n − 1 once each, rising along each list (R236). -/
def seqOk (lists : List (List Nat)) (rising : Bool) : Bool :=
  let all := lists.flatten
  distinct all && all.all (fun x => decide (x < all.length)) &&
  (!rising || lists.all fun l => (l.zip (l.drop 1)).all fun ((a, b) : Nat × Nat) => decide (a < b))

/-- The ledger rows that a descriptor writes as R236 counts: first byte of each. -/
def rowStarts (l : List Rng) : List Nat :=
  (l.filter fun r => match regionOf r.1 with | .ledger _ _ => true | _ => false).map (·.1)

/-! ### Element-engine descriptors (R274 to R277) -/

/-- Whether a slot of an element descriptor is legal. -/
def elemSlotOk (m : Image) (c : Nat) (x : ElemSlot) (w : Nat) (dest : Bool) (rows cols : Nat) : Bool :=
  fmtOk w dest && (if x.fmt.ty = 12 then decide (-2048 ≤ x.exp ∧ x.exp ≤ 2047) else decide (x.exp = 0)) &&
  (x.fmt.mx || decide (x.scl = 0 ∧ x.spitch = 0)) &&
  if x.ledger then
    let wdt := 16 * accSize x.fmt.ty
    isAcc x.fmt.ty && !x.fmt.mx && decide (x.base % wdt = 0) && decide (x.pitch % wdt = 0) &&
    (upto rows).all fun r => (upto (ceilDiv cols 16)).all fun j =>
      let t := x.tileRow r + j
      (Tab.get [] m.allocs c).any fun a => decide (a.acc = x.fmt.ty) && decide (a.first ≤ t) && decide (t < a.first + a.rows)
  else decide (x.fmt.ty ≤ 12) && extentOk x.fmt rows cols

/-- Layer tag and gauge kind of a descriptor against the context's allotment (R274, R295). -/
def State.tagOk (s : State) (ctx layer kind : Nat) : Bool :=
  if layer = 0 then decide (kind = 0)
  else decide (1 ≤ kind ∧ kind ≤ 3) && decide (layer ≤ (s.trainCtx ctx).count.toNat)

/-- Whether an element-engine descriptor is well formed. -/
def State.elemOk (s : State) (ctx : Nat) (m : Image) (c : Nat) (b : List Byte) : Bool :=
  let d := elemDesc b none
  let n := elemReads d.op
  let fb := d.bcast % 4
  let fc := d.bcast / 4 % 4
  let slot (x : ElemSlot) (i f : Nat) (dest : Bool) : Bool :=
    let (r, k) := bcastShape f d.rows d.cols
    elemSlotOk m c x (leAt b (0x10 + 2 * i) 2) dest r k
  let unused (i : Nat) : Bool := zeroAt b (0x10 + 2 * i) 2 && zeroAt b (0x18 + 2 * i) 2 && zeroAt b (0x40 + 16 * i) 16
  let inRange (i : Nat) : Bool := decide ((elemSlot b i).off / 2 ^ 18 % 2 ^ 13 = 0)
  (upto 4).all inRange && ((leAt b 5 1).testBit 0 || zeroAt b 0x0C 4) &&
  decide (d.op ≤ 0x1A) && decide (leAt b 5 1 < 2) && decide (d.bcast < 16) && zeroAt b 7 1 && zeroAt b 0x2B 1 &&
  zeroAt b 0x30 16 && decide (1 ≤ d.rows ∧ d.rows ≤ 4096) && decide (1 ≤ d.cols ∧ d.cols ≤ 4096) &&
  decide (d.pstep % 16 = 0) && (decide (d.op = 1) || zeroAt b 0x20 8) &&
  (paramsOf 4 b).all (fun x => let d := elemDesc b x
    slot d.a 0 0 false && slot d.d 3 0 true) &&
  (if 2 ≤ n then slot d.b 1 fb false else unused 1 && decide (fb = 0)) &&
  (if n = 3 then slot d.c 2 fc false else unused 2 && decide (fc = 0)) &&
  (decide (d.cols ≤ 16) || !(d.a.ledger || d.d.ledger || (decide (2 ≤ n) && d.b.ledger) || (decide (n = 3) && d.c.ledger))) &&
  (!((0x0A ≤ d.op ∧ d.op ≤ 0x11) ∨ d.op = 0x13 ∨ d.op = 0x14) || decide (1 ≤ d.d.fmt.ty ∧ d.d.fmt.ty ≤ 10)) &&
  (!(0x17 ≤ d.op ∧ d.op ≤ 0x19) || decide (d.d.fmt.ty = 10 ∨ d.d.fmt.ty = 11)) &&
  (decide (d.op ≠ 0x1A) || decide (d.c.fmt.ty = 10 ∨ d.c.fmt.ty = 11)) &&
  (!(d.d.fmt.mx && d.d.fmt.dir) || decide (d.d.fmt.blk * d.cols ≤ 8192)) && s.tagOk ctx d.layer d.gkind

/-! ### Row-engine descriptors (R280, R281, R287) -/

/-- Whether a slot word of a row descriptor has only the bits R280 gives it. -/
def rowOffOk (b : List Byte) (i : Nat) : Bool :=
  let o := leAt b (0x30 + 16 * i) 4
  decide (o < 2 ^ 24) && decide (o / 2 ^ 18 % 4 = 0)

/-- Whether a source format of the row engine is legal. -/
def rowFmtOk (w n : Nat) : Bool :=
  let f := fmtWord w
  fmtOk w false && decide (f.ty = 1 ∨ f.ty = 2 ∨ f.ty = 3 ∨ f.ty = 4 ∨ f.ty = 5 ∨ f.ty = 9) && !f.dir && extentOk f 1 n

/-- Whether a row-engine descriptor is well formed and uses what its plan claims. -/
def State.rowOk (s : State) (ctx : Nat) (m : Image) (c : Nat) (b : List Byte) : Bool :=
  let bay := c / 16
  let d := rowDesc bay b
  let norm := decide (d.op = 1 ∨ d.op = 2 ∨ d.op = 4 ∨ d.op = 5)
  let stats := if d.back then !d.recomp else !d.nostat
  let mc := Tab.get 0 m.margin bay
  let unused (i : Nat) : Bool := zeroAt b (0x30 + 16 * i) 16
  let unscaled (x : RowSlot) : Bool := x.fmt.mx || decide (x.scl = 0 ∧ x.spitch = 0)
  unscaled d.x && unscaled d.dy && unscaled d.w && unscaled d.d && decide (d.g.scl = 0 ∧ d.g.spitch = 0) &&
  (stats || zeroAt b 0x0C 2) && (d.causal || zeroAt b 0x0E 2) &&
  decide (d.op ≤ 5) && decide (leAt b 5 1 < 128) && (!d.affine || norm) && (!d.nostat || !d.back) &&
  (!d.recomp || d.back) && (!d.wgrad || decide (d.op = 4 ∨ d.op = 5)) && (!d.ginit || d.wgrad) &&
  (!d.causal || !norm) && (!d.param || !norm) && zeroAt b 7 1 && zeroAt b 0x23 1 && zeroAt b 0x26 10 &&
  decide (1 ≤ d.rows ∧ d.rows ≤ 4096) && decide (1 ≤ d.cols ∧ d.cols ≤ 8192) && decide (d.mbase ≤ 4095) &&
  (!norm || (zeroAt b 0x0E 2 && zeroAt b 0x18 4)) && (norm || zeroAt b 0x1C 4) &&
  (if norm then (match d.k1 with | .fin neg _ _ => !neg | .inf neg => !neg | .nan => false) else true) &&
  (if d.param then decide (1 ≤ leAt b 0x24 2 ∧ leAt b 0x24 2 ≤ d.cols) else zeroAt b 0x24 2) &&
  rowFmtOk (leAt b 0x10 2) d.cols && rowOffOk b 0 && rowOffOk b 3 && fmtOk (leAt b 0x16 2) true &&
  decide (d.d.fmt.ty ≤ 10) && !d.d.fmt.dir && extentOk d.d.fmt 1 d.cols &&
  (if d.back then rowFmtOk (leAt b 0x12 2) d.cols && rowOffOk b 1 else zeroAt b 0x12 2 && unused 1) &&
  (if d.affine then rowFmtOk (leAt b 0x14 2) d.cols && rowOffOk b 2 else zeroAt b 0x14 2 && unused 2) &&
  (if d.wgrad then rowOffOk b 4 else unused 4) &&
  m.rowEng.contains bay &&
  (!stats || (decide (d.mbase + d.rows ≤ 4096) && decide (mc / 65536 ≤ d.mbase) &&
    decide (d.mbase + d.rows ≤ mc / 65536 + mc % 65536))) && s.tagOk ctx d.layer d.gkind

/-! ### Data-mover descriptors (R316 to R332) -/

/-- Whether WINDOW uses source stride `k` + 1 whatever the number of dimensions: the strides of its spatial coordinates
(R326). -/
def movUsesSstr (d : MovDesc) (k : Nat) : Bool := decide (d.op = 3) && decide (k < d.spat)

/-- Fields of a data-mover descriptor that do not depend on its addresses. -/
def movFieldsOk (b : List Byte) : Bool :=
  let d := movDesc b none
  let nd := leAt b 7 1
  decide (d.op ≤ 3) && decide (leAt b 5 1 < 8) && decide (leAt b 6 1 ≤ 4) && decide (1 ≤ nd ∧ nd ≤ 5) &&
  d.n.all (fun x => decide (1 ≤ x)) && (d.n.drop nd).all (fun x => decide (x = 1)) && zeroAt b 0x9C 36 &&
  ((leAt b 5 1).testBit 0 || (zeroAt b 0x80 2 && zeroAt b 0x84 4)) &&
  (upto 4).all (fun k =>
    (decide (k + 1 < nd) || movUsesSstr d k || decide (d.sstr.getD k 0 = 0)) &&
    (decide (k + 1 < nd) || (decide (d.rowDim = 1) && decide (k = 0)) || decide (d.dstr.getD k 0 = 0))) &&
  (decide (d.op ≠ 3) || decide (d.spat ≠ 1) || decide (d.sstr.getD 1 0 = 0)) &&
  (d.padfill || decide (d.op = 3) || zeroAt b 0x70 8) &&
  (if d.op = 3 then
    decide (d.spat = 1 ∨ d.spat = 2) && decide (1 ≤ d.w1.stride ∧ 1 ≤ d.w1.dil) &&
    (if d.spat = 1 then zeroAt b 0x8C 4 && zeroAt b 0x96 6
     else decide (1 ≤ d.w2.stride ∧ 1 ≤ d.w2.dil) && decide (d.sstr.getD 2 0 = 0) && decide (d.sstr.getD 3 0 = 0))
   else decide (d.spat = 0) && zeroAt b 0x88 20) &&
  (decide (d.op ≠ 1) || decide (2 ≤ leAt b 6 1)) &&
  (decide (d.op ≠ 2) || (decide (leAt b 6 1 ≤ 3) &&
    decide (d.n.getD 0 1 % d.folioLen = 0) && decide (d.n.getD 1 1 % 32 = 0))) &&
  (!d.turn || (decide (d.op = 0 ∨ d.op = 2) && decide (d.dstLen = 64) && decide (d.drow = 0) && !d.padfill)) &&
  (if d.layer = 0 then zeroAt b 0x82 2
   else fmtOk (leAt b 0x82 2) false && !d.gfmt.mx && decide (tyBits d.gfmt.ty = d.width))

/-- Whether a range of a side has a byte that a mover may not reach: in a ledger, a margin, a register (R319). -/
def State.movForbidden (s : State) (a : PlanAcc) : Bool :=
  s.isLocal a.pa && [localOf a.pa, localOf a.pa + (a.n - 1)].any fun x => match regionOf x with
    | .ledger _ _ => true | .margin _ _ => true | .regs _ _ => true | _ => false

/-- Alignment of both sides, and what depends on where they lie (R318 to R320, R325, R328, R329). A side that does not
translate is left to SEG-RIGHTS and held only to what either kind of side asks. -/
def State.movSidesOk (s : State) (ctx : BitVec 12) (bay : Nat) (d : MovDesc) (pstep : Option Int) : Bool :=
  let side (l : List (Word × Nat)) : Option (List PlanAcc) := s.rngsOf ctx 0 l
  let src := side d.srcAccs
  let dst := side (d.validRngs ++ d.padRngs)
  let inBay (x : Option (List PlanAcc)) : Bool := match x with | some l => s.inBay bay l | none => true
  let clear (x : Option (List PlanAcc)) : Bool := match x with | some l => !(l.any s.movForbidden) | none => true
  let gs := if inBay src then 16 else 64
  let gd := if inBay dst then 16 else 64
  let sb := d.srcLen * d.width
  let db := d.dstLen * d.width
  clear src && clear dst &&
  d.srcRows.all (fun r => decide (r.toNat % gs = 0)) && d.dstRows.all (fun r => decide (r.toNat % gd = 0)) &&
  (decide (d.op = 2) || decide (sb % (8 * gs) = 0)) &&
  decide (db % 8 = 0) && (d.turn || (decide (db ≤ 8 * d.drow) && decide (d.drow % gd = 0))) &&
  (decide (d.op ≠ 2) || ((decide (d.width ≤ 8) || (inBay src && inBay dst)) &&
    (inBay src || decide (d.folioLen * d.width % 512 = 0)))) &&
  (!d.turn || (inBay dst && d.dstRows.all fun r => decide (r.toNat % 16 = 0))) &&
  (match pstep with | some x => decide (x % gs = 0) | none => true)

/-- Whether a data-mover descriptor of a carrel's list is well formed, for every parameter. -/
def State.movOk (s : State) (ctx : BitVec 12) (m : Image) (c ch : Nat) (b : List Byte) : Bool :=
  let bay := c / 16
  let d := movDesc b none
  let step : Option Int := if (leAt b 5 1).testBit 0 then some (leInt b 0x84 4) else none
  movFieldsOk b && decide (Tab.get 0 m.mover (bay * 8 + ch) = c + 1) &&
  (decide (d.op ≠ 2) || m.folio.contains bay) &&
  (paramsOf 6 b).all (fun x => s.movSidesOk ctx bay (movDesc b x) step) &&
  !(meets ((d.padRngs.map fun x => (x.1.toNat, x.2))) (d.validRngs.map fun x => (x.1.toNat, x.2))) &&
  s.tagOk ctx.toNat d.layer d.gkind

/-- Whether an in-place declaration names a channel that its carrel issues on, and its copy is well formed
(R334). -/
def State.snapOk (s : State) (ctx : BitVec 12) (m : Image) (r : RwRange) : Bool :=
  !r.inplace || (decide (Tab.get 0 m.mover (r.carrel / 16 * 8 + r.channel) = r.carrel + 1) &&
    [false, true].all fun x => s.movSidesOk ctx (r.carrel / 16) (movDesc (r.copyDesc x) none) none)

/-- Whether a MIRROR range lies in the carrel's own shelf (R567); an address that does not translate does
not. -/
def State.mirrorOk (s : State) (ctx : BitVec 12) (r : RwRange) : Bool :=
  !r.mirror || match s.recTrans ctx r.va r.len 0 with
    | some (pa, _) => s.isLocal pa && (match regionOf (localOf pa) with
      | .shelf c o => decide (c = r.carrel ∧ o + r.len ≤ shelfSize) | _ => false)
    | none => false

/-! ### Link records (R265, R568) -/

/-- Whether a link record is well formed. -/
def State.linkRecOk (s : State) (ctx : BitVec 12) (b : List Byte) : Bool :=
  let r := linkRec b
  let k := r.kind
  decide (k ≤ 4) && zeroAt b 7 1 && zeroAt b 0x1F 1 && zeroAt b 0x28 24 && decide (leAt b 6 1 < 4) &&
  (if k = 2 then decide (leAt b 5 1 ≤ 14) else zeroAt b 5 2) &&
  (decide (k ≠ 3) || zeroAt b 8 8) && (decide (k ≤ 2) || zeroAt b 0x10 8) &&
  (match k with
  | 0 => decide (r.length % 64 = 0) | 1 => decide (r.length % 64 = 0)
  | 4 => true | _ => decide (r.length = 0)) &&
  (if 3 ≤ k then decide (r.link < 12) && decide (r.number ≠ 0xFFFF) else zeroAt b 0x1C 2 && zeroAt b 0x22 2) &&
  (if k = 4 then [0, 1, 11, 12, 13, 14, 15, 16].contains r.type &&
      (let e := (BitVec.ofNat 16 r.exp).toInt
       if r.type = 12 then decide (-2048 ≤ e ∧ e ≤ 2047)
       else if r.type = 16 then decide (-512 ≤ e ∧ e ≤ 511) else decide (e = 0))
   else zeroAt b 0x1E 1 && zeroAt b 0x20 2) &&
  (decide (3 ≤ k) || match s.recTrans ctx r.remote 1 0 with
    | some (pa, _) => !s.isLocal pa
    | none => true)

/-! ### All descriptors -/

/-- Whether two jobs of a phase use the same bytes and one writes them (R236, R271, R322). -/
def clash (a b : Job) : Bool :=
  let pads (x y : Job) : List Rng := if y.kind = 3 ∧ x.kind = 3 then [] else x.t.pads
  let wa := a.t.writes ++ pads a b
  let wb := b.t.writes ++ pads b a
  meets wa (b.t.reads ++ wb) || meets wb a.t.reads

/-- Whether no unordered pair of engine descriptors of a phase races, and two FOLIO descriptors of one bay
are ordered (R236, R271, R322, R328). -/
def racesOk (js : List Job) (folio : List Bool) : Bool :=
  (upto js.length).all fun i => (upto i).all fun j =>
    match js[i]?, js[j]? with
    | some a, some b =>
      decide (a.kind = 4 ∨ b.kind = 4) || ordered js i j ||
      (!(clash a b) && !(folio.getD i false && folio.getD j false && decide (a.carrel / 16 = b.carrel / 16)))
    | _, _ => true

/-- Which jobs of a phase are FOLIO descriptors, by position. -/
def State.folioFlags (m : Image) (t ph : Nat) : List Bool :=
  m.set.flatMap fun c =>
    (if ph = 0 then (m.rwset.filter fun r => decide (r.carrel = c ∧ r.ptick = t) && r.inplace).map fun _ => false else []) ++
    (upto 14).flatMap fun q => (Tab.get [] m.lists (listKey c q t ph)).map fun b =>
      decide (6 ≤ q ∧ (movDesc b none).op = 2)

/-- Whether every ledger row that an array descriptor reads or adds into is written before it in the same
plan tick (R236). -/
def State.historyOk (s : State) (ctx : BitVec 12) (m : Image) (t : Nat) : Bool :=
  (upto (m.phasesAt t)).all fun ph =>
    let js := s.jobs ctx m t ph
    let old := ((upto ph).flatMap (s.jobs ctx m t)).flatMap fun j => rowStarts j.t.writes
    (upto js.length).all fun i => match js[i]? with
      | none => true
      | some j =>
        decide (j.kind ≠ 0) ||
        (let known := old ++ (numbered js).flatMap fun ((k, a) : Nat × Job) =>
            if (reachFrom js k).contains i then rowStarts a.t.writes else []
         (rowStarts j.t.reads).all known.contains)

/-- Whether every descriptor of a phase of a carrel is well formed. -/
def State.carrelPhaseOk (s : State) (ctx : BitVec 12) (m : Image) (c t ph : Nat) : Bool :=
  let list (q : Nat) : List (List Byte) := Tab.get [] m.lists (listKey c q t ph)
  (upto 4).all (fun q => (list q).all fun b =>
    arrFieldsOk q b && arrUseOk m c t ph (arrDesc b) && arrAllocOk m c (arrDesc b)) &&
  seqOk ((upto 4).map fun q => (list q).map fun b => (arrDesc b).seq) true &&
  (list 4).all (s.elemOk ctx.toNat m c) && (list 5).all (s.rowOk ctx.toNat m c) &&
  (upto 8).all fun ch => (list (6 + ch)).all (s.movOk ctx m c ch)

/-- Whether the row order of a bay's phase is 0 to n − 1 (R279). -/
def rowOrderOk (m : Image) (bay t ph : Nat) : Bool :=
  seqOk [(m.set.filter fun c => decide (c / 16 = bay)).flatMap fun c =>
    (Tab.get [] m.lists (listKey c 5 t ph)).map fun b => (rowDesc bay b).seq] false

/-- Whether every descriptor and schedule of an image is well formed and uses only what the plan claims. -/
def State.descsOk (s : State) (ctx : BitVec 12) (m : Image) : Bool :=
  let bays := (m.set.map fun c => c / 16).eraseDups
  m.rwset.all (s.snapOk ctx m) && m.rwset.all (s.mirrorOk ctx) &&
  (upto m.period).all fun t =>
    (upto (m.phasesAt t)).all (fun ph =>
      let js := s.jobs ctx m t ph
      let links := Tab.get [] m.lists (listKey 4096 0 t ph)
      m.set.all (fun c => s.carrelPhaseOk ctx m c t ph) && bays.all (fun b => rowOrderOk m b t ph) &&
      js.all (fun j => decide (3 ≤ j.kind) || belowRescue (j.t.reads ++ j.t.writes)) &&
      racesOk js (State.folioFlags m t ph) && links.all (s.linkRecOk ctx) &&
      (upto links.length).all fun i => (upto i).all fun j =>
        let a := linkRec (links.getD i [])
        let b := linkRec (links.getD j [])
        !(decide (a.kind = 4 ∧ b.kind = 4 ∧ a.number = b.number)) || decide (a.type = b.type ∧ a.exp = b.exp)) &&
    s.historyOk ctx m t &&
    distinct (((s.tickJobs ctx m t).filter fun j => !(decide (j.kind = 3) && decide (j.pos < 0x100000))).map Job.opnum)

/-! ### The training section (R303) -/

/-- The width of a descriptor of a segment type, and whether an offset is one of its format words (R303). -/
def followWord (seg byte : Nat) : Bool :=
  match seg with
  | 6 => decide (byte = 8)
  | 7 => [0x10, 0x12, 0x14, 0x16].contains byte
  | 8 => [0x10, 0x12, 0x14, 0x16].contains byte
  | 9 => decide (byte = 0x82)
  | _ => false

/-- Whether a follow entry names a field that may follow (R303). -/
def followOk (m : Image) (f : Follow) : Bool :=
  match placeOf (m.segLists f.carrel f.seg) f.index with
  | none => false
  | some (k, n) =>
    let d := (Tab.get [] m.lists k).getD n []
    if f.kind = 0 then
      let w := fmtWord (leAt d f.byte 2)
      followWord f.seg f.byte && w.mx && decide (w.ty = 2 ∨ w.ty = 4 ∨ w.ty = 5)
    else
      decide (f.seg = 7) && [0x18, 0x1A, 0x1C, 0x1E].contains f.byte &&
        decide ((fmtWord (leAt d (f.byte - 8) 2)).ty = 12)

/-- Whether a training section is legal beside the resident plans of its context (R303); the range of a gauge exponent is
that of R297. -/
def State.trainOk (s : State) (ctx : Nat) (m : Image) : Bool :=
  match m.training with
  | none => true
  | some t =>
    let count := (s.trainCtx ctx).count.toNat
    let others := (s.plansOf ctx).filterMap fun (_, p) =>
      if p.state = .loading then none else p.img.training.map fun x => (p.img.period, x)
    distinct (t.layers.map (·.tag)) && t.layers.all (fun y => decide (1 ≤ y.tag ∧ y.tag ≤ count)) &&
    t.layers.all (fun y => decide (-2048 ≤ y.fxexp0 ∧ y.fxexp0 ≤ 2047) && decide (y.fxhead ≤ 30) &&
      [y.gexpW, y.gexpG, y.gexpU].all fun e => decide (-512 ≤ e ∧ e ≤ 511)) &&
    decide (t.stepEnd < m.period) && t.follows.all (followOk m) &&
    (upto t.follows.length).all (fun i => (upto i).all fun j =>
      match t.follows[i]?, t.follows[j]? with
      | some a, some b => !(decide (a.seg = b.seg ∧ a.carrel = b.carrel ∧ a.index = b.index ∧ a.byte = b.byte))
      | _, _ => true) &&
    others.all (fun ((p, x) : Nat × Training) => decide (p = m.period ∧ x.stepEnd = t.stepEnd)) &&
    others.all fun ((_, x) : Nat × Training) => x.layers.all fun y => t.layers.all fun z =>
      decide (y.tag ≠ z.tag) || decide (y.gexpW = z.gexpW ∧ y.gexpG = z.gexpG ∧ y.gexpU = z.gexpU ∧ y.fxhead = z.fxhead)

/-- An image with each followed format word set to the dearest value, BF16 (R303). -/
def Image.dearest (m : Image) : Image :=
  match m.training with
  | none => m
  | some t => t.follows.foldl (fun m f =>
      if f.kind ≠ 0 then m else
      match placeOf (m.segLists f.carrel f.seg) f.index with
      | some (k, n) =>
        let w := leAt ((Tab.get [] m.lists k).getD n []) f.byte 2
        m.follow f (natToBytes 2 (w / 32 * 32 + 2))
      | none => m) m

/-! ### Demand (R349, R350) -/

/-- The image that a LOADING plan is read from, as it stands at its address. -/
def State.loadingImage (s : State) (p : Plan) : Image :=
  match s.recBytes p.ctx p.imageVa 256 with
  | some h =>
    if leAt h 0 4 = 0x4C443950 ∧ 256 ≤ imgLength h then
      match s.recBytes p.ctx p.imageVa (imgLength h) with
      | some b => (planImage b).img.dearest
      | none => p.img
    else p.img
  | none => p.img

/-- D(p, s) of R350 over a list of plans. -/
def State.demandOf (s : State) (l : List Plan) (stack part : Nat) : Nat :=
  l.foldl (fun n p => n + s.planDemand p.ctx (if p.state = .loading then s.loadingImage p else p.img) stack part) 0

/-- The demand of the plans that are resident or LOADING (R349). -/
def State.demand (s : State) (stack part : Nat) : Nat :=
  s.demandOf ((s.plans.filter fun x => x.2.present).map (·.2)) stack part

end Sys2Proof.Machine
end

