-- ==== Sys2Proof/Machine/RegFile.lean ====
section
/-!
DEFINITION. The device registers (R7 to R9, R36, R37): what each reads and what a whole write of each does,
who may reach which (R419, R420), and physical memory as a requester outside the carrels sees it.
-/

namespace Sys2Proof.Machine

/-! ### Reads -/

/-- TICK_STATUS (R47). -/
def State.tickStatus (s : State) : Word :=
  let t := s.tick
  place (bit s.chain.live.master) 0 ||| place (bit t.locked) 1 ||| place (bit t.holdover) 2 |||
    place (bit t.alignLost) 3 ||| place (bit t.lenRej) 4 ||| place (bit t.armed.isSome) 5 |||
    place (bit t.replay) 6 ||| place (bit (decide (t.part = .gap))) 7 ||| place (BitVec.ofNat 9 (s.livePlans.filter fun x => decide (x.2.state ≠ .loading)).length) 16

/-- Block 0 (R46). -/
def State.tickReg (s : State) (o : Nat) : Word :=
  match o with
  | 0x00 => s.tick.no | 0x08 => s.tick.wtn | 0x10 => place s.tick.len 0 | 0x18 => place s.tick.lenNext 0
  | 0x20 => s.tick.lenAt | 0x28 => s.tickStatus | _ => 0

/-- A table port's registers (R370). -/
def TablePort.reg (x : TablePort) (i : Nat) : Word :=
  match i with | 0 => place x.ctx 0 ||| place x.seg 12 | 1 => x.d0 | 2 => x.d1 | _ => x.cmd

/-- Blocks 4 and 5 (R376, R381). -/
def State.segReg (s : State) (b o : Nat) : Word :=
  if b = 4 then
    if o < 0x8000 then s.segCtx (o / 8)
    else if o < 0x8020 then s.seg.port0.reg ((o - 0x8000) / 8)
    else if 0x8040 ≤ o ∧ o < 0x8060 then s.seg.port1.reg ((o - 0x8040) / 8)
    else if o = 0x8100 then place s.ownChip 0
    else if o = 0x8108 then place s.seg.missCnt 0
    else 0
  else if o < 0x200 then (s.invSlot (o / 8)).req
  else if o < 0x400 then (s.invSlot ((o - 0x200) / 8)).doneWord
  else 0

/-- The rate that HBM_PART_RATE shows: the last one written (R8, R349). -/
def Stack.rateShown (k : Stack) (p : Nat) : BitVec 35 := (Tab.get none k.ratePend p).getD (k.rateOf p)

/-- HBM_STATUS (R360). -/
def State.hbmStatus (s : State) (i : Nat) : Word :=
  let k := s.stack i
  place k.refrate 0 ||| place (bit k.throttle) 2 ||| place (bit k.selfref) 3 ||| place (bit k.srIgn) 4 |||
    place (bit k.excluded) 5 ||| place (bit s.halfMode) 6

/-- HBM_PART_USE (R360). -/
def Stack.partUse (k : Stack) (p : Nat) : Word :=
  place (BitVec.ofNat 32 (Tab.get 0 k.planUsed p)) 0 ||| place (BitVec.ofNat 30 (Tab.get 0 k.unplBkt p)) 32 |||
    place (bit (k.waiting.any fun r => decide (r.acc.cls = .unplanned ∧ r.acc.part.toNat = p))) 62 |||
    place (bit (Tab.get false k.planExh p)) 63

/-- Block 8 + i (R359, R360). -/
def State.hbmReg (s : State) (i o : Nat) : Word :=
  let k := s.stack i
  if o = 0 then place (bit k.scrubEn) 0 ||| place (bit k.srAllow) 1
  else if o = 0x08 then s.hbmStatus i
  else if o = 0x10 then place k.temp 0 ||| place k.tmax 16
  else if o = 0x18 then place k.corr 0 ||| place k.uncorr 32
  else if o = 0x20 then place k.nanProd 0 ||| place k.ovf 16 ||| place k.fxSat 32
  else if o = 0x28 then word (0x5000 + k.sum % 65536 * 65536)
  else if 0x1000 ≤ o ∧ o < 0x1200 then
    let p := (o - 0x1000) / 8
    place (k.rateShown p) 0 ||| place (bit (Tab.get false k.rej p)) 63
  else if 0x1200 ≤ o ∧ o < 0x1400 then k.partUse ((o - 0x1200) / 8)
  else 0

/-- A link's registers (R410, R411). -/
def Link.reg (k : Link) (i : Nat) : Word :=
  match i with
  | 0 => place (bit k.en) 0 ||| place (bit k.sleepAllow) 1 ||| place (bit k.retrain) 2 ||| place k.excl 3
  | 1 => place k.state 0 ||| place k.tlanes 3 ||| place k.rlanes 11 ||| place (bit k.dropped) 19 |||
      place (bit k.retrained) 20 ||| place (bit k.linkev) 21
  | 2 => place k.short 0 ||| place k.opened 8 ||| place k.eqfail 16 ||| place k.runfail 24
  | 3 => place k.delay 0
  | 4 => place k.serial 0 ||| place k.plink 48 ||| place k.pchip 52
  | _ => place k.fecCorr 0 ||| place k.replays 32 ||| place k.drops 48 ||| place k.retrains 56

/-- STATUS_SETS (R406). -/
def State.statusSets (s : State) : Nat := (29 * s.statusFlits - 66) / 5

/-- LNK_CHAIN_STAT (R412). -/
def State.chainStat (s : State) : Word :=
  place (bit s.chain.up) 0 ||| place s.chain.depth 1 ||| place s.chain.maxDepth 13 ||| place s.chain.minTick 25 |||
    place (BitVec.ofNat 9 s.statusSets) 45

/-- LNK_CHAIN (R412). -/
def ChainCfg.word (g : ChainCfg) : Word :=
  place g.chip 0 ||| place (bit g.master) 12 ||| place g.up 13 ||| place g.down 17 ||| place g.sflits 29

/-- Block 16 + i, with the chain registers in block 16 (R410). -/
def State.lnkReg (s : State) (i o : Nat) : Word :=
  if o < 0x30 then (s.link i).reg (o / 8)
  else if i ≠ 0 then 0
  else if o = 0x8000 then s.chain.cfg.word
  else if o = 0x8008 then
    place (bit s.chain.setup) 0 ||| place (bit s.chain.join) 1 ||| place (bit s.chain.rej) 8 ||| place s.chain.reason 9
  else if o = 0x8010 then s.chainStat
  else if o = 0x8018 then place s.chain.cfg.red 0
  else if 0x8800 ≤ o ∧ o < 0x9000 then Tab.get routeReset s.chain.cfg.route ((o - 0x8800) / 8)
  else 0

/-- HOST_CTX[c] (R445). -/
def State.hostCtxWord (s : State) (c : Nat) : Word :=
  let h := s.hctx c
  (if s.funcOn (.ctx (BitVec.ofNat 12 c)) then place h.nextSeq 0 else 0) ||| place (bit h.orphaned) 32 |||
    place (bit h.badseal) 33 ||| place (bit h.event) 34 |||
    place (BitVec.ofNat 8 (min 255 h.cmds.length)) 40 ||| place h.lost 48

/-- HOST_STATUS (R445). -/
def HostUnit.status (h : HostUnit) : Word :=
  place h.rate 0 ||| place h.width 3 ||| place (bit h.dlUp) 8 ||| place (bit h.noflit) 9 ||| place h.dlDowns 16 |||
    place h.denied 32

/-- Blocks 28 and 29 (R444, R445). -/
def State.hostReg (s : State) (b o : Nat) : Word :=
  if b = 29 then if o < 0x8000 then s.hostCtxWord (o / 8) else 0
  else if o = 0 then place (bit s.host.roEn) 0 ||| place (bit s.host.p2pEn) 1
  else if o = 0x08 then s.host.status
  else if o = 0x10 then place s.host.winPart 0 ||| place s.host.winBase 28
  else if o = 0x18 then s.orphWord
  else if 0x100 ≤ o ∧ o < 0x180 then
    let e := s.engine ((o - 0x100) / 8)
    place (bit e.busy) 0 ||| place e.ctx 1 ||| place e.seq 32
  else 0

/-- Block 32 (R494, R495). -/
def State.secReg (s : State) (o : Nat) : Word :=
  let x := s.sec
  let svn (f : Flash) : Nat := if f.valid then f.svn else 0
  if o = 0 then word (s.prot.toNat % 32)
  else if o = 0x08 then
    word (s.arbCount + s.runSvn * 2 ^ 8 + svn x.imageA * 2 ^ 16 + svn x.imageB * 2 ^ 24) ||| place (bit x.arbRej) 32
  else if o = 0x10 then
    place (bit x.runImage) 0 ||| place (bit x.aOk) 1 ||| place (bit x.bOk) 2 ||| place (bit x.recovery) 3
  else if o = 0x18 then place (bit s.scrubNow) 0
  else if o = 0x20 then
    place (bit x.dbgOpen) 3 ||| place (bit x.dbgRej) 4 ||| place x.dbgReason 5 ||| place x.fails 8
  else if 0x40 ≤ o ∧ o < 0x60 then word (leAt x.chal (o - 0x40) 8)
  else if 0x80 ≤ o ∧ o < 0xC0 then Tab.get 0 x.keys ((o - 0x80) / 8)
  else if 0xC0 ≤ o ∧ o < 0x100 then Tab.get 0 x.sigs ((o - 0xC0) / 8)
  else if o = 0x100 then s.scopeWord
  else 0

/-- CEN_RING_STAT (R475). -/
def Ring.stat (r : Ring) : Word := place r.lost 0 ||| place (bit r.full) 32

/-- The package NaN registers (R217). -/
def PkgNan.reg (r : PkgNan) (i : Nat) : Word :=
  let v (x : Word) : Word := if r.valid then x else 0
  match i with
  | 0 => place (bit r.valid) 0 ||| place (bit r.more) 1 |||
      v (place r.ev.src 3 ||| place r.ev.cause 6 ||| place r.ev.phase 10 ||| place r.carrel 20 ||| place r.ctx 32)
  | 1 => v r.ev.wtn
  | 2 => v r.ev.op
  | _ => v r.ev.pos

/-- Block 36 (R217, R474, R475). -/
def State.cenReg (s : State) (o : Nat) : Word :=
  let c := s.census
  if o = 0 then place c.period 0 ||| place (bit c.now.isSome) 20 ||| place c.corrLimit 32
  else if o = 0x08 then c.snap
  else if o = 0x10 then c.next
  else if o = 0x40 then place (bit c.ring.en) 0 ||| place c.ring.log2 1
  else if o = 0x48 then place c.ring.base 6
  else if o = 0x50 then c.ring.head
  else if o = 0x58 then c.ring.tail
  else if o = 0x60 then c.ring.stat
  else if 0x100 ≤ o ∧ o < 0x120 then c.nan.reg ((o - 0x100) / 8)
  else 0

/-- CEN_GAUGE_ALLOT[c] (R300). -/
def TrainCtx.allotWord (t : TrainCtx) : Word := place t.base 0 ||| place t.count 16 ||| place (bit t.rej) 63

/-- CEN_TRN_STATE[c] (R300). -/
def TrainCtx.stateWord (t : TrainCtx) : Word :=
  place t.lossExp 0 ||| place (bit t.lastOk) 8 ||| place t.clean 16 ||| place t.steps 32

/-- Blocks 37 and 38 (R299, R300). -/
def State.trnReg (s : State) (b o : Nat) : Word :=
  let t := s.trainCtx (o % 0x8000 / 8)
  if b = 37 then
    if o < 0x8000 then t.allotWord else place (bit t.en) 0 ||| place t.raiseN 16
  else if o < 0x8000 then place t.tblk 6 else t.stateWord

/-- PWR_ZONE[z] (R555). -/
def State.zoneWord (s : State) (z : Nat) : Word :=
  let x := s.zone z
  place x.temp 0 ||| place x.level 16 ||| place (bit (!x.failed.isEmpty)) 18 ||| place (bit (x.blind z)) 19

/-- Block 40 (R554, R555). -/
def State.pwrReg (s : State) (o : Nat) : Word :=
  let p := s.power
  if o = 0 then place (bit p.autoRestart) 0
  else if o = 0x08 then
    place s.moduleLevel 0 ||| place (bit p.uv) 2 ||| place (bit p.ov) 3 ||| place (bit p.senseOpen) 4 |||
      place (bit p.senseShort) 5 ||| place (bit (p.zones.any fun (_, x) => !x.failed.isEmpty)) 6
  else if o = 0x10 then place p.vinSense 0 ||| place p.vinPin 16 ||| place p.iin 32
  else if o = 0x18 then place p.pin 0 ||| place p.pinMax 16
  else if o = 0x20 then
    place p.inlet 0 ||| place p.outlet 16 ||| place p.flow 32 ||| place (s.zone 13).level 48 ||| place (s.zone 14).level 50
  else if o = 0x28 then place p.shutCause 0 ||| place p.shutZone 8 ||| place p.shutCount 16
  else if 0x100 ≤ o ∧ o < 0x168 then s.zoneWord ((o - 0x100) / 8)
  else if 0x200 ≤ o ∧ o < 0x248 then
    let r := Tab.get Rail.reset p.rails ((o - 0x200) / 8)
    place r.volt 0 ||| place r.curr 16 ||| place (bit r.pgood) 32
  else 0

/-- The register at an aligned offset of a block: its current value; no read has a side effect (R7, R37). -/
def State.regRead (s : State) (b o : Nat) : Word :=
  let o := o / 8 * 8
  if b = 0 then s.tickReg o
  else if b = 4 ∨ b = 5 then s.segReg b o
  else if 8 ≤ b ∧ b < 16 then s.hbmReg (b - 8) o
  else if 16 ≤ b ∧ b < 28 then s.lnkReg (b - 16) o
  else if b = 28 ∨ b = 29 then s.hostReg b o
  else if b = 32 then s.secReg o
  else if b = 36 then s.cenReg o
  else if b = 37 ∨ b = 38 then s.trnReg b o
  else if b = 40 then s.pwrReg o
  else 0

/-! ### Writes -/

/-- A write of TICK_LEN_AT: arms, re-arms, cancels, or is refused with LEN_REJ (R42, R43, R407). -/
def State.lenAtWrite (s : State) (v : Word) : State :=
  let t := { s.tick with lenAt := v }
  let rej : State := { s with tick := { t with lenRej := true } }
  if v = 0 then
    match t.armed with
    | none => { s with tick := t }
    | some (b, _) =>
      if t.no.toNat + 16 ≤ b.toNat then { s with tick := { t with armed := none } } else rej
  else
    let n := t.lenNext.toNat
    if v.toNat < t.no.toNat + 16 ∨ n < 2000 ∨ 1000000 < n ∨ s.slave ∨
        (s.chain.up ∧ n < s.chain.minTick.toNat) then rej
    else { s with tick := { t with armed := some (v, t.lenNext) } }

def execArmLengthChange (src : Src) (boundary : Word) (s : State) : Out :=
  .next (if isVf src then s.deny else s.lenAtWrite boundary)

def execCancelLengthChange (src : Src) (s : State) : Out :=
  .next (if isVf src then s.deny else s.lenAtWrite 0)

/-- A write of HBM_PART_RATE[p] of a stack: accepted for the next boundary, or ignored with REJ (R349). -/
def State.rateWrite (s : State) (i p : Nat) (v : Word) : State :=
  if s.starting then s else
  let k := s.stack i
  let r : BitVec 35 := field v 0 35
  let rest := (upto 64).foldl (fun n q => if q = p then n else n + ratePlan (k.rateShown q) + rateUnpl (k.rateShown q)) 0
  let rej := Tab.get false k.rej p && !v.getLsbD 63
  let bad := decide (20480 < rest + ratePlan r + rateUnpl r) ||
    decide (refillOf (ratePlan r) (workCycles s.tick.len.toNat) < s.demand i p)
  s.modStack i fun k => { k with
    ratePend := if bad then k.ratePend else Tab.set none k.ratePend p (some r)
    rej := Tab.set false k.rej p (rej || bad) }

def execHbmPartRateWrite (src : Src) (stack : BitVec 3) (p : BitVec 6) (v : Word) (s : State) : Out :=
  .next (if isVf src then s.deny else s.rateWrite stack.toNat p.toNat v)

/-- A request for a snapshot at TICK_NO + 2 (R468); a slave ignores it. The tick master sends the strobe down
the tree (R409). CEN_CTL.NOW reads 1 until that snapshot (R8). -/
def State.censusNow (s : State) : State :=
  if s.slave then s else
  let b := s.tick.no + 2
  let s := { s with census := { s.census with now := some b } }
  if s.census.due.contains b then s
  else s.downLinks.foldl (fun s l => s.sendOn l (strobeItem s.ownChip b) 2) (s.announce b)

def execCensusNow (src : Src) (s : State) : Out := .next (if isVf src then s.deny else s.censusNow)

def execRingEnable (src : Src) (v : Word) (s : State) : Out := .next (if isVf src then s.deny else s.ringCtl v)

/-- A write of CEN_NAN_STAT: VALID and MORE each clear where 1 is written (R214, R217). -/
def State.pkgNanWrite (s : State) (v : Word) : State :=
  let n := s.census.nan
  { s with census := { s.census with nan := { n with
      valid := n.valid && !v.getLsbD 0, more := n.more && !v.getLsbD 1 } } }

def execPackageNanClear (src : Src) (v : Word) (s : State) : Out :=
  .next (if isVf src then s.deny else s.pkgNanWrite v)

/-- Block 0 written. -/
def State.tickRegWrite (s : State) (o : Nat) (v : Word) : State :=
  if o = 0x18 then { s with tick := { s.tick with lenNext := field v 0 20 } }
  else if o = 0x20 then s.lenAtWrite v
  else if o = 0x28 then { s with tick := { s.tick with
      alignLost := s.tick.alignLost && !v.getLsbD 3, lenRej := s.tick.lenRej && !v.getLsbD 4 } }
  else s

/-- One register of a table port written (R370). -/
def State.portWrite (s : State) (src : Src) (p : Bool) (i : Nat) (v : Word) : State :=
  match i with
  | 0 => s.portSet src p fun x => { x with ctx := field v 0 12, seg := field v 12 4 }
  | 1 => s.portSet src p fun x => { x with d0 := v }
  | 2 => s.portSet src p fun x => { x with d1 := v }
  | _ => s.portCmd src p v

/-- Blocks 4 and 5 written. -/
def State.segRegWrite (s : State) (src : Src) (b o : Nat) (v : Word) : State :=
  if b = 4 then
    if o < 0x8000 then s.segCtxWrite (BitVec.ofNat 12 (o / 8)) v
    else if o < 0x8020 then s.portWrite src false ((o - 0x8000) / 8) v
    else if 0x8040 ≤ o ∧ o < 0x8060 then s.portWrite src true ((o - 0x8040) / 8) v
    else s
  else if o < 0x200 then s.invRequest src (o / 8) v
  else if o < 0x400 then
    let k := (o - 0x200) / 8
    if (if k < 32 then isPf src else isDevice src) then
      s.setInvSlot k { s.invSlot k with rej := (s.invSlot k).rej && !v.getLsbD 1 }
    else s
  else s

/-- Block 8 + i written. -/
def State.hbmRegWrite (s : State) (i o : Nat) (v : Word) : State :=
  if o = 0 then s.modStack i fun k => { k with scrubEn := v.getLsbD 0, srAllow := v.getLsbD 1 }
  else if o = 0x08 then s.modStack i fun k => { k with srIgn := k.srIgn && !v.getLsbD 4 }
  else if 0x1000 ≤ o ∧ o < 0x1200 then s.rateWrite i ((o - 0x1000) / 8) v
  else if 0x1200 ≤ o ∧ o < 0x1400 then
    let p := (o - 0x1200) / 8
    s.modStack i fun k => { k with planExh := Tab.set false k.planExh p (Tab.get false k.planExh p && !v.getLsbD 63) }
  else s

/-- LNK_CTL written: EN goes to the function entry, RETRAIN asks for a retrain (R386, R411, R523, R528). -/
def State.lnkCtlWrite (s : State) (i : Nat) (v : Word) : State :=
  if s.starting then s else
  let s := s.modLink i fun k => { k with
    sleepAllow := v.getLsbD 1, retrain := k.retrain || v.getLsbD 2, excl := field v 3 8 }
  if h : i < 12 then s.funcWrite (.link ⟨i, h⟩) (v.getLsbD 0) else s

/-- The chain registers written (R412). -/
def State.chainRegWrite (s : State) (o : Nat) (v : Word) : State :=
  let cfg (f : ChainCfg → ChainCfg) : State := { s with chain := { s.chain with cfg := f s.chain.cfg } }
  if o = 0x8000 then cfg fun g => { g with
    chip := field v 0 12, master := v.getLsbD 12, up := field v 13 4, down := field v 17 12, sflits := field v 29 7 }
  else if o = 0x8008 then
    let s := { s with chain := { s.chain with rej := s.chain.rej && !v.getLsbD 8 } }
    let s := if v.getLsbD 0 then s.chainSetup else s
    if v.getLsbD 1 then s.joinStart else s
  else if o = 0x8018 then cfg fun g => { g with red := field v 0 60 }
  else if 0x8800 ≤ o ∧ o < 0x9000 then cfg fun g => { g with route := Tab.set routeReset g.route ((o - 0x8800) / 8) v }
  else s

/-- Block 16 + i written. -/
def State.lnkRegWrite (s : State) (i o : Nat) (v : Word) : State :=
  if o = 0 then s.lnkCtlWrite i v
  else if o = 0x08 then s.modLink i fun k => { k with
    dropped := k.dropped && !v.getLsbD 19, retrained := k.retrained && !v.getLsbD 20, linkev := k.linkev && !v.getLsbD 21 }
  else if i = 0 then s.chainRegWrite o v
  else s

/-- Blocks 28 and 29 written. -/
def State.hostRegWrite (s : State) (b o : Nat) (v : Word) : State :=
  if b = 29 then
    if o < 0x8000 then s.modHctx (o / 8) fun h => { h with
      badseal := h.badseal && !v.getLsbD 33, event := h.event && !v.getLsbD 34 }
    else s
  else if o = 0 then { s with host := { s.host with roEn := v.getLsbD 0, p2pEn := v.getLsbD 1 } }
  else if o = 0x10 then { s with host := { s.host with winPart := field v 0 6, winBase := field v 28 28 } }
  else if o = 0x18 then s.orphWrite v
  else s

/-- Block 32 written. -/
def State.secRegWrite (s : State) (o : Nat) (v : Word) : State :=
  let x := s.sec
  if o = 0x08 then s.setSec { x with arbRej := x.arbRej && !v.getLsbD 32 }
  else if o = 0x18 then (if s.prot.getLsbD 2 then s else s.setSec { x with scrubEn := v.getLsbD 0 })
  else if o = 0x20 then
    let s := s.setSec { x with dbgRej := x.dbgRej && !v.getLsbD 4 }
    let s := if v.getLsbD 0 then s.newChal else s
    let s := if v.getLsbD 1 then s.verify else s
    if v.getLsbD 2 then s.dbgClose else s
  else if 0x80 ≤ o ∧ o < 0xC0 then s.setSec { x with keys := Tab.set 0 x.keys ((o - 0x80) / 8) v }
  else if 0xC0 ≤ o ∧ o < 0x100 then s.setSec { x with sigs := Tab.set 0 x.sigs ((o - 0xC0) / 8) v }
  else if o = 0x100 then s.setSec { x with scope := field v 0 28 }
  else s

/-- Block 36 written. -/
def State.cenRegWrite (s : State) (o : Nat) (v : Word) : State :=
  let c := s.census
  if o = 0 then
    let s := { s with census := { c with period := field v 0 20, corrLimit := field v 32 16 } }
    if v.getLsbD 20 then s.censusNow else s
  else if o = 0x40 then s.ringCtl v
  else if o = 0x48 then (if c.ring.en then s else s.setRing { c.ring with base := field v 6 38 })
  else if o = 0x58 then s.setRing { c.ring with tail := v }
  else if o = 0x100 then s.pkgNanWrite v
  else s

/-- Blocks 37 and 38 written. -/
def State.trnRegWrite (s : State) (b o : Nat) (v : Word) : State :=
  let c := o % 0x8000 / 8
  if b = 37 then
    if o < 0x8000 then s.allotWrite c v
    else s.modTrain c fun t => { t with en := v.getLsbD 0, raiseN := field v 16 16 }
  else if o < 0x8000 then s.modTrain c fun t => { t with tblk := field v 6 38 }
  else s.modTrain c fun t => { t with lossExp := field v 0 8, clean := field v 16 16, steps := field v 32 32 }

/-- Block 40 written. -/
def State.pwrRegWrite (s : State) (o : Nat) (v : Word) : State :=
  if o = 0 then s.modPower fun p => { p with autoRestart := v.getLsbD 0 }
  else if o = 0x18 then (if v.getLsbD 32 then s.maxClr else s)
  else s

/-- A whole aligned write of one register (R7 to R9, R37). -/
def State.regWrite (s : State) (src : Src) (b o : Nat) (v : Word) : State :=
  if b = 0 then s.tickRegWrite o v
  else if b = 4 ∨ b = 5 then s.segRegWrite src b o v
  else if 8 ≤ b ∧ b < 16 then s.hbmRegWrite (b - 8) o v
  else if 16 ≤ b ∧ b < 28 then s.lnkRegWrite (b - 16) o v
  else if b = 28 ∨ b = 29 then s.hostRegWrite b o v
  else if b = 32 then s.secRegWrite o v
  else if b = 36 then s.cenRegWrite o v
  else if b = 37 ∨ b = 38 then s.trnRegWrite b o v
  else if b = 40 then s.pwrRegWrite o v
  else s

/-! ### Who may (R419, R420) -/

/-- Whether a virtual function owns a context. -/
def State.owns (s : State) (f : BitVec 6) (c : Nat) : Bool := decide (s.owner c = f)

/-- Whether a virtual function may write a register. -/
def State.vfWrites (s : State) (f : BitVec 6) (b o : Nat) : Bool :=
  (decide (b = 37 ∨ b = 38) && decide (0x8000 ≤ o) && s.owns f (o % 0x8000 / 8)) || decide (b = 30 ∨ b = 31)

/-- Whether a virtual function may read a register. -/
def State.vfReads (s : State) (f : BitVec 6) (b o : Nat) : Bool :=
  decide (b = 0) || (decide (8 ≤ b ∧ b < 16) && decide (o = 0x08 ∨ o = 0x10)) ||
    (decide (16 ≤ b ∧ b < 28) && decide (o = 0x08)) || (decide (b = 28) && decide (o = 0x08)) ||
    (decide (b = 29) && decide (o < 0x8000) && s.owns f (o / 8)) || decide (b = 30 ∨ b = 31) ||
    (decide (b = 37 ∨ b = 38) && s.owns f (o % 0x8000 / 8))

/-- A register write from a source: what R419 does not allow is ignored and counted; narrower or unaligned
writes change nothing (R7). -/
def State.regAccess (s : State) (src : Src) (b o : Nat) (data : List Byte) : State :=
  match src with
  | .vf f =>
    if s.vfWrites f b o then
      (if data.length = 8 ∧ o % 8 = 0 then s.regWrite src b o (word (leAt data 0 8)) else s)
    else s.deny
  | _ => if data.length = 8 ∧ o % 8 = 0 then s.regWrite src b o (word (leAt data 0 8)) else s

/-! ### Physical memory from outside the carrels -/

/-- A byte of local memory or of a register. -/
def State.anyByte (s : State) (a : Nat) : Byte :=
  match regionOf a with
  | .regs b o => BitVec.ofNat 8 ((s.regRead b o).toNat / 256 ^ (o % 8))
  | _ => s.byte a

/-- Bytes of local memory or registers. -/
def State.memRead (s : State) (a n : Nat) : List Byte := (upto n).map fun i => s.anyByte (a + i)

end Sys2Proof.Machine
end

