-- ==== Sys2Proof/Machine/Events.lean ====
section
/-!
DEFINITION. What comes back to a requester: fills, answers of the mesh, acknowledgements of the merging
buffer, unmapped and uncorrectable responses (R30, R116, R122, R130, R131, R145, R184, R447 to R450).
-/

namespace Sys2Proof.Machine

/-! ### The waits that a change of the merging buffer ends -/

/-- A carrel's wait looked at again after its merging buffer has changed (R118, R128, R131 to R134, R180). -/
def State.mbWake (s : State) (c : BitVec 12) : State :=
  let k := s.carrel c
  let free (len : Nat) (f : Carrel → Carrel) : State :=
    (s.modCarrel c fun k => { f k with wait := .none }).retire c len
  match k.wait with
  | .load len signed hs =>
    let hs' := hs.map k.loadAdvance
    let new := (hs.zip hs').filterMap fun ((a, b) : LoadHalf × LoadHalf) => if a.stage = b.stage then none else some b
    let misses := (new.filter fun h => decide (h.stage = .miss)).length
    let s := s.modCarrel c fun k => { k with count := { k.count with dmiss := k.count.dmiss + word misses } }
    (new.foldl (fun s h => s.sendRead c h.pa h.part) s).settleLoad c len signed hs'
  | .store len hs => s.settleStore c len hs
  | .fence len => if k.mb.isEmpty then free len id else s
  | .flushi len => if k.mb.isEmpty then free len Carrel.icInvalidate else s
  | .clean len pops block inv =>
    if k.mb.any (fun e => decide (e.block = block)) then s
    else (((s.popD c pops).2.modCarrel c fun k => { k.dropSlot inv with wait := .none })).retire c len
  | .atomic len op w va pa part x e false r =>
    if k.mb.any (·.overlaps pa (if w then 8 else 4)) then s
    else (s.modCarrel c fun k => { k with wait := .atomic len op w va pa part x e true r }).sendAtomic c op w pa part x e
  | .vecDrain op a accs =>
    if k.mb.isEmpty then (s.modCarrel c fun k => { k with wait := .none }).vmMove c op.toNat a accs else s
  | .bar => s.settleBar c
  | .wtick => s.settleBar c
  | _ => s

/-! ### Writes and operations that reach this chip's memory -/

/-- How a request to local memory ends (R392). -/
inductive OperRes where
  | done (old : Word) (s : State)
  | unmapped
  | uncorr

/-- Writes of whole registers of a block, ascending. -/
def State.regBlock (s : State) (src : Src) (b o : Nat) (data : List Byte) (mask : List Bool) : State :=
  (upto 8).foldl (fun s w =>
    if maskAt mask (8 * w) then s.regWrite src b (o + 8 * w) (word (leAt data (8 * w) 8)) else s) s

/-- A masked write of a 64 B block at a local address (R7, R35, R343): a device register of an assigned block takes
whole registers only, a reserved block ignores every write (R37); a write that covers part of a lost word is
abandoned (R342). -/
def State.maskWrite (s : State) (src : Src) (a : Nat) (data : List Byte) (mask : List Bool) : OperRes :=
  if !s.present a 64 then .unmapped
  else match regionOf a with
    | .regs b o =>
      if reservedBlock b then .done 0 s
      else if (upto 8).any (partWord mask) then .unmapped else .done 0 (s.regBlock src b o data mask)
    | _ =>
      match s.blockWrite a data mask with
      | some s => .done 0 s
      | none => .uncorr

/-- An operation at a shelf address, by the owning carrel (R101, R179): the old value and the state. -/
def State.shelfOper (s : State) (c a : Nat) (op : BitVec 4) (w : Bool) (x cmp : Word) : Word × State :=
  let n := operWidth op w
  let old := s.le a n
  let (new, st) := operNew op w old x.toNat cmp.toNat
  let s := s.setLe a n new
  (word old, if st.sat then
      s.report { s.carrelReport (BitVec.ofNat 12 c) 0x38 0 with addr := word (s.ownChip.toNat * 2 ^ 44 + a) }
    else s)

/-- An operation on local memory for a requester outside the carrel: in HBM by the memory-side adder, in a
shelf by its owner; elsewhere, or misaligned, it is unmapped (R101, R354). -/
def State.operAt (s : State) (a : Nat) (op : BitVec 4) (w : Bool) (x cmp : Word) : OperRes :=
  let n := operWidth op w
  if !s.present a n || decide (a % n ≠ 0) then .unmapped
  else if s.lostIn a n then .uncorr
  else match regionOf a with
    | .hbm => (fun (r : Word × State) => .done r.1 r.2) (s.hbmOper a op w x cmp)
    | .shelf c _ => (fun (r : Word × State) => .done r.1 r.2) (s.shelfOper c a op w x cmp)
    | _ => .unmapped

/-! ### The write of a merging-buffer entry (R127, R130) -/

/-- The bytes of an entry's block, 0 where it holds none. -/
def MergeEntry.data (e : MergeEntry) : List Byte := e.over (List.replicate 64 0) 0

/-- The byte enables of an entry. -/
def MergeEntry.mask (e : MergeEntry) : List Bool := (upto 64).map fun i => (Tab.get none e.bytes i).isSome

/-- Performs the write of an entry; `none` where its target answers unmapped, or where the write covers only
part of a lost word and is abandoned (R342). The far chip performs the write of a remote block. -/
def State.entryWrite (s : State) (c : BitVec 12) (e : MergeEntry) : Option State :=
  let pa := e.block * 64
  if !s.isLocal pa then some s
  else match s.maskWrite (.carrel c) (localOf pa) e.data e.mask with
    | .done _ t => some t
    | _ => none

/-- A merging-buffer entry is acknowledged: its write is visible, and it leaves the buffer unless a fill of
its block is outstanding (R130). -/
def execMergeEntryAck (c : BitVec 12) (idx : BitVec 3) (s : State) : Out :=
  .next <|
    match (s.carrel c).mb[idx.toNat]? with
    | none => s
    | some e =>
      if e.issued ∧ e.acked = false then
        whenLet (s.askAt .planned 1 (e.block * 64) e.part) fun s =>
          match s.entryWrite c e with
          | none => s
          | some s =>
            (s.modCarrel c fun k =>
              { k with mb := listSet k.mb idx.toNat { e with acked := true } : Carrel }.mbSweep).mbWake c
      else s

/-! ### Fills (R122, R131) -/

/-- The data of a line: this chip's memory, or what another chip sent. -/
def State.lineData (s : State) (pa : Nat) (data : List Byte) : List Byte :=
  if s.isLocal pa then s.memRead (localOf (pa / 64 * 64)) 64 else data

/-- A half that a filled line serves. -/
def LoadHalf.serve (h : LoadHalf) (line : List Byte) : LoadHalf :=
  { h with stage := .got (slice line (h.pa % 64) h.n) }

/-- The first half in a list that meets a condition, served from its line. -/
def serveFirst (p : LoadHalf → Bool) (f : LoadHalf → LoadHalf) : List LoadHalf → List LoadHalf
  | [] => []
  | h :: l => if p h then f h :: l else h :: serveFirst p f l

/-- Fill data returns for the first outstanding miss: pending store bytes of the block go over it, the
youngest entry winning; the line is written and the load served (R131). A lost word of the block keeps
the data from coming. -/
def execDCacheFill (c : BitVec 12) (data : List Byte) (s : State) : Out :=
  match (s.carrel c).wait with
  | .load len signed hs =>
    match hs.find? fun h => decide (h.stage = .miss) with
    | none => .next s
    | some h =>
      if !s.isLocal h.pa && data.length != 64 then .fault .illFormed
      else if s.isLocal h.pa && s.lostIn (localOf (h.pa / 64 * 64)) 64 then .next s
      else .next <| whenLet (s.askAt .planned 1 h.pa h.part) fun s =>
        let line := (s.carrel c).mb.foldl (fun d e => if e.block = h.pa / 64 then e.over d 0 else d) (s.lineData h.pa data)
        let s := s.modCarrel c fun k => k.dFill h.pa line
        let hs := serveFirst (fun x => decide (x.stage = .miss)) (·.serve line) hs
        let s := s.modCarrel c fun k => { k with wait := .load len signed hs : Carrel }.mbSweep
        s.settleLoad c len signed hs
  | _ => .next s

/-- The partition of a carrel's instruction fetches, that of the segment at its pc (R346). -/
def State.fetchPart (s : State) (c : BitVec 12) : BitVec 6 :=
  match s.fetchSeg c (s.carrel c).pc with
  | .ok _ part => part
  | _ => 0

/-- Fill data for an instruction-fetch miss returns (R122): the line of this chip's memory; the bytes of
another chip's line are free. -/
def execICacheFill (c : BitVec 12) (pa : BitVec 56) (s : State) : Out :=
  .next <|
    let a := pa.toNat
    let k := s.carrel c
    if k.icInit ∨ (findWay k.icache (iSet a) (iTag a)).isSome then s
    else whenLet (s.askAt .planned 1 a (s.fetchPart c)) fun s =>
      let (w, s) := if s.isLocal a then (0, s) else s.draw
      let line := s.lineData a ((upto 64).map fun i => (Config.freeWord (w.toNat + i)).setWidth 8)
      s.modCarrel c fun k => { k.iFill a line with count := { k.count with imiss := k.count.imiss + 1 } }

/-! ### Answers over the mesh (R116, R180) -/

/-- The writes or adds of a vector store on this module (R7, R178, R179): those of the carrel's own memory, and the
masked writes of its mesh requests; a write that covers a lost word in part is abandoned whole (R342). -/
def State.vecPut (s : State) (c : BitVec 12) (op : Nat) (a : VMem) (accs : List VecAcc) : State :=
  let here := accs.filter fun x => s.isLocal x.pa
  if op = 6 then s.vmAdds c a here
  else
    let t := s.vmWrites c op a (here.filter fun x => s.ownMem c x.pa)
    (vmRequests op (here.filter fun x => !s.ownMem c x.pa)).foldl (fun t g =>
      let e := vmEntry g
      match t.maskWrite (.carrel c) (localOf (e.block * 64)) e.data e.mask with
      | .done _ u => u
      | _ => t) t

/-- Writes of a vector store that are already issued complete, though the instruction is cut short (R184). -/
def State.vecIssued (s : State) (c : BitVec 12) : State :=
  match (s.carrel c).wait with
  | .vecAck op a accs => (s.vecPut c op.toNat a accs).vmInvalidate c accs
  | _ => s

/-- Cuts a list of bytes into the shares of accesses on other chips; an access on this chip reads here. -/
def State.vecBytes (s : State) : List VecAcc → List Byte → List VecAcc
  | [], _ => []
  | x :: l, d =>
    if s.isLocal x.pa then { x with bytes := s.memRead (localOf x.pa) x.n } :: s.vecBytes l d
    else { x with bytes := d.take x.n } :: s.vecBytes l (d.drop x.n)

/-- The tokens of a vector instruction's mesh requests to this module's HBM (R346, R347). -/
def State.vecAsk (s : State) (c : BitVec 12) (op : Nat) (accs : List VecAcc) : Bool × State :=
  let w := if op = 6 then 2 else 1
  let here := accs.filter fun x => s.isLocal x.pa && !s.ownMem c x.pa
  s.askHbm (.carrel c) .planned w
    (s.tokensFor w ((vmRequests op here).filterMap fun g => g.head?.map fun x => (localOf x.pa, x.part)))

/-- Bytes that must come from other chips. -/
def State.remoteLen (s : State) (l : List VecAcc) : Nat :=
  ((l.filter fun x => !s.isLocal x.pa).map (·.n)).sum

/-- The data of an uncached load, the old value of an atomic or the end of a vector access comes to the
waiting carrel. `data` carries the bytes that another chip sent, in order. -/
def execMeshResponse (c : BitVec 12) (data : List Byte) (s : State) : Out :=
  match (s.carrel c).wait with
  | .load len signed hs =>
    let open' (h : LoadHalf) : Bool := match h.stage with | .mesh _ => true | _ => false
    match hs.find? open' with
    | none => .next s
    | some h =>
      if !s.isLocal h.pa && data.length != h.n then .fault .illFormed
      else
        .next <| whenLet (s.askAt .planned 1 h.pa h.part) fun s =>
          let b := if s.isLocal h.pa then s.memRead (localOf h.pa) h.n else data
          s.settleLoad c len signed (serveFirst open' (fun h => { h with stage := .got b }) hs)
  | .atomic len op w _ pa part x e true _ =>
    let n := if w then 8 else 4
    if s.isLocal pa then
      if s.lostIn (localOf pa) n then .next s
      else .next <| whenLet (s.askAt .planned 2 pa part) fun s =>
        let (old, s) := s.atomicAt op n pa x e
        s.finishAtomic c len op old
    else if data.length != n then .fault .illFormed
    else .next (s.finishAtomic c len op (word (leAt data 0 n)))
  | .vecLoad op a accs =>
    if data.length != s.remoteLen accs then .fault .illFormed
    else if accs.any (fun x => s.isLocal x.pa && s.lostIn (localOf x.pa) x.n) then .next s
    else .next <| whenLet (s.vecAsk c op.toNat accs) fun s => s.vmFinish c op.toNat a (s.vecBytes accs data)
  | .vecAck op a accs =>
    -- every write must have been acknowledged, those on other chips over their links (R180)
    if s.asked (.carrel c) then .next s
    else .next <| whenLet (s.vecAsk c op.toNat accs) fun s =>
      ((s.vecPut c op.toNat a accs).vmInvalidate c accs).vmFinish c op.toNat a []
  | _ => .next s

/-! ### Unmapped responses (R30, R35, R145, R184) -/

/-- The held imprecise fault after another response (R145): the first keeps its address. DEDUCED (log entry 27). -/
def Carrel.holdImprecise (k : Carrel) (pa : Nat) (elem : Option Nat) : Carrel :=
  { k with imprecise := some (match k.imprecise with
      | some i => { i with more := true }
      | none => { pa := pa, more := false, elem := elem }) }

/-- The store of an entry is lost, and the fault is held (R145). -/
def State.entryLost (s : State) (c : BitVec 12) (i : Nat) (e : MergeEntry) : State :=
  (s.modCarrel c fun k =>
    ({ k with mb := k.mb.take i ++ k.mb.drop (i + 1) } : Carrel).holdImprecise (e.block * 64) none).mbWake c

/-- The accesses of an element leave a waiting vector store, and the fault is held (R184). -/
def State.elemLost (s : State) (c : BitVec 12) (n : Nat) : State :=
  match (s.carrel c).wait with
  | .vecAck op a accs =>
    match accs.find? fun x => decide (x.elem = n) with
    | some x => s.modCarrel c fun k =>
        ({ k with wait := .vecAck op a (accs.filter fun x => decide (x.elem ≠ n)) } : Carrel).holdImprecise x.pa (some n)
    | none => s
  | _ => s

/-- An UNMAPPED response to a retired store, or to an element of a vector store, arrives (R145, R184). -/
def execImpreciseFault (c : BitVec 12) (w : ImpSource) (s : State) : Out :=
  .next <|
    match w with
    | .entry idx =>
      match (s.carrel c).mb[idx.toNat]? with
      | some e => if e.issued ∧ e.acked = false then s.entryLost c idx.toNat e else s
      | none => s
    | .element n => s.elemLost c n

/-- The first issued, unacknowledged entry that meets a condition, with its index. -/
def firstIssued (l : List MergeEntry) (p : MergeEntry → Bool) : Option (Nat × MergeEntry) :=
  (upto l.length).findSome? fun i => (l[i]?).bind fun e => if e.issued && !e.acked && p e then some (i, e) else none

/-- The record of a second unmapped-target response to one request of a carrel (R30, R452). -/
def State.retryReport (s : State) (c : BitVec 12) (pa : Nat) : State :=
  s.report { s.carrelReport c 0x32 0 with addr := word pa }

/-- The carrel's outstanding access ends with UNMAPPED (R145, R182). -/
def State.unmappedLoad (s : State) (c : BitVec 12) (va : Word) (elem : Option Nat) : State :=
  let e := unmappedExc va
  (s.modCarrel c fun k => { k with wait := .none }).fault c (match elem with | some i => withElem e i | none => e)

/-- Whether a request was answered once already (R30). -/
def State.wasRetried (s : State) (r : Requester) (pa : Nat) : Bool := s.retried.contains (r, pa)

/-- The first unmapped-target response to a request: it is issued once more (R30). -/
def State.retry (s : State) (r : Requester) (pa : Nat) : State := { s with retried := (r, pa) :: s.retried }

/-- The entry of the merging buffer that an unmapped-target response answers (R30, R145). -/
def State.entryUnmapped (s : State) (c : BitVec 12) (pa : Nat) : State :=
  match firstIssued (s.carrel c).mb fun e => decide (e.block = pa / 64) with
  | none => s
  | some (i, e) =>
    if s.isLocal pa && !e.retried then
      s.modCarrel c fun k => { k with mb := listSet k.mb i { e with retried := true } }
    else
      (if s.isLocal pa then s.retryReport c (e.block * 64) else s.unask (.carrel c)).entryLost c i e

/-- An unmapped-target response to an access of carrel `c` in the block of `pa`. A request to this chip is issued
once more, under the map now in force; its second response is recorded and faults. A response from another chip,
or NO-ROUTE from this one, faults at once (R30, R35, R184, R393). DEDUCED (log entry 31). -/
def State.carrelUnmapped (s : State) (c : BitVec 12) (pa : Nat) : State :=
  let blk := pa / 64
  match (s.carrel c).wait with
  | .load len signed hs =>
    match hs.find? fun h => decide (h.pa / 64 = blk) && (match h.stage with | .mesh _ => true | .miss => true | _ => false) with
    | none => s.entryUnmapped c pa
    | some h =>
      if s.isLocal h.pa then
        if h.stage = .mesh true ∨ (h.stage = .miss ∧ s.wasRetried (.carrel c) h.pa) then
          (s.retryReport c h.pa).unmappedLoad c h.va none
        else if h.stage = .miss then s.retry (.carrel c) h.pa
        else s.modCarrel c fun k => { k with wait := .load len signed (serveFirst
              (fun x => decide (x = h)) (fun x => { x with stage := .mesh true }) hs) }
      else (s.unask (.carrel c)).unmappedLoad c h.va none
  | .atomic len op w va a part x e true r =>
    if a / 64 ≠ blk then s.entryUnmapped c pa
    else if s.isLocal a then
      if r then (s.retryReport c a).unmappedLoad c va none
      else s.modCarrel c fun k => { k with wait := .atomic len op w va a part x e true true }
    else (s.unask (.carrel c)).unmappedLoad c va none
  | .vecLoad _ _ accs =>
    match accs.find? fun x => decide (x.pa / 64 = blk) && !s.ownMem c x.pa with
    | some x =>
      if s.isLocal x.pa then
        if s.wasRetried (.carrel c) x.pa then (s.retryReport c x.pa).unmappedLoad c x.va (some x.elem)
        else s.retry (.carrel c) x.pa
      else (s.unask (.carrel c)).unmappedLoad c x.va (some x.elem)
    | none => s
  | .vecAck _ _ accs =>
    match accs.find? fun x => decide (x.pa / 64 = blk) && !s.ownMem c x.pa with
    | some x =>
      if s.isLocal x.pa then
        if s.wasRetried (.carrel c) x.pa then (s.retryReport c x.pa).elemLost c x.elem
        else s.retry (.carrel c) x.pa
      else (s.unask (.carrel c)).elemLost c x.elem
    | none => s
  | _ => s.entryUnmapped c pa

/-- The running descriptor of an engine with the carrel that issued it. -/
def State.running (s : State) : EngineId → Option (BitVec 12 × Nat × Issued)
  | .array c => (((s.carrel c).unfinished 0).find? (·.started)).map fun x => (c, 0, x)
  | .element c => (((s.carrel c).unfinished 4).find? (·.started)).map fun x => (c, 4, x)
  | .row b => ((s.rowIssued b.toNat).find? fun x => x.2.started).map fun ((c, x) : BitVec 12 × Issued) => (c, 5, x)
  | .mover b ch => (s.movHead b ch).bind fun ((c, q, x) : BitVec 12 × Nat × Issued) =>
      if x.started ∧ x.dead = false then some (c, q, x) else none
  | .record _ => none

/-- Whether a requester other than a carrel has work under way. -/
def State.requesting (s : State) : Requester → Bool
  | .carrel _ => false
  | .mover b ch => (s.running (.mover b ch)).isSome
  | .copyEngine e => (Tab.get CopyEngine.reset s.host.engines e.toNat).busy
  | .loader ctx seq _ => (s.hctx ctx.toNat).cmds.any fun c => decide (c.seq = seq)
  | .record slot => ((s.plan slot.toNat).map fun p => p.links.any (·.started)).getD false
  | .intake ctx seq => (s.hctx ctx.toNat).cmds.any fun c => decide (c.seq = seq)
  | .window => true
  | .scrub _ => true
  | .peek _ => true
  | .entry _ => false
  | .engine e => (s.running e).isSome

/-- The record of a second unmapped-target response to one request of a requester (R30, R451, R452). -/
def State.retryRecord (s : State) (r : Requester) (pa : Nat) : Report :=
  let host : Report := { blankReport with code := 0x32, unit := 4, wtn := s.tick.wtn }
  let eng (e : EngineId) (b : Report) : Report := match s.running e with
    | some (c, _, _) => { s.carrelReport c 0x32 0 with unit := b.unit, unitno := b.unitno }
    | none => b
  { (match r with
      | .carrel c => s.carrelReport c 0x32 0
      | .mover b ch => eng (.mover b ch) { host with unit := 1, unitno := b.setWidth 16 }
      | .copyEngine e => { host with
          unitno := e.setWidth 16, context := (Tab.get CopyEngine.reset s.host.engines e.toNat).ctx.setWidth 16 }
      | .loader ctx _ _ => { host with unit := 7, context := ctx.setWidth 16 }
      | .intake ctx _ => { host with context := ctx.setWidth 16 }
      | .record slot => { host with
          unit := 3, context := ((s.plan slot.toNat).map fun (p : Plan) => p.ctx.setWidth 16).getD (BitVec.allOnes 16) }
      | .window | .scrub _ | .peek _ | .entry _ => host
      | .engine (.row b) => eng (.row b) { host with unit := 1, unitno := b.setWidth 16 }
      | .engine e => eng e { host with unit := 0 }) with addr := word pa }

/-- A requester receives an unmapped-target response to its request (R30, R35). One whose target is on
this module is issued once more, under the map now in force, and a second one is recorded; what a data mover, a
copy engine, the loader, the intake unit and a link record do after that, DESC_STOP, XFER_STOP and LOAD_STOP say. -/
def execUnmappedTargetResponse (x : MeshAsk) (s : State) : Out :=
  let r := x.r
  let pa := x.addr.toNat
  .next <|
    match r with
    | .carrel c => s.carrelUnmapped c pa
    | _ =>
      if s.requesting r = false then s
      else if !s.isLocal pa then s.unask r
      else if s.wasRetried r pa then
        { s with retried := s.retried.erase (r, pa) }.report (s.retryRecord r pa)
      else s.retry r pa

/-! ### The backing copy of a shelf (R450, R460) -/

/-- Whether a plan has begun plan tick `t` since it was loaded. -/
def Plan.hasRun (p : Plan) (t : Nat) : Bool := decide (t < min p.ticks p.img.period)

/-- Whether a range of an RWSET holds the byte at a device physical address. -/
def State.rangeHolds (s : State) (ctx : BitVec 12) (r : RwRange) (pa : Nat) : Bool :=
  match s.recTrans ctx r.va 1 0 with
  | some (a, _) => decide (a ≤ pa) && decide (pa < a + r.len)
  | none => false

/-- The device physical address of the valid backing of a shelf byte (R460). -/
def State.backingOf (s : State) (c off : Nat) : Option Nat :=
  (s.planOf (BitVec.ofNat 12 c)).bind fun ((_, p) : Nat × Plan) =>
    let pa := s.ownChip.toNat * 2 ^ 44 + shelfBase c + off
    if p.img.rwset.any fun r => r.write && !r.mirror && p.hasRun r.ptick && s.rangeHolds p.ctx r pa then none
    else (p.img.backing.find? fun b => decide (b.carrel = c) && decide (b.off ≤ off) && decide (off < b.off + b.len)).bind
      fun b => (s.recTrans p.ctx (b.va + word (off - b.off)) 1 1).map (·.1)

/-- Restores one shelf byte from its backing; a byte of a backing on another chip is free. A byte without a
valid backing becomes `d` where it is given and stays as it is otherwise. -/
def State.restoreByte (s : State) (c off : Nat) (d : Option Byte) : State :=
  let put (s : State) (b : Byte) := s.setByte (shelfBase c + off) b
  match s.backingOf c off with
  | some pa =>
    if s.isLocal pa then put s (s.byte (localOf pa))
    else (let (w, s) := s.draw; put s (w.setWidth 8))
  | none => match d with | some b => put s b | none => s

/-- The plan slots that claim a margin entry of a bay. -/
def State.marginPlans (s : State) (bay entry : Nat) : List (Nat × Plan) :=
  s.plans.filter fun ((_, p) : Nat × Plan) => p.present &&
    (let w := Tab.get 0 p.img.margin bay
     decide (w / 65536 ≤ entry) && decide (entry < w / 65536 + w % 65536))

/-- A lost word of a shelf, ledger or margin (R450, R452, R459, R465): overwritten at once, its record written by
the unit, the context that claims a margin word due to be halted; a shelf or ledger word lost twice within 2^20 ticks
is to fail its carrel. The record's DISP is free where neither
the rules of replay nor those of the halt settle it here. -/
def State.sramLost (s : State) (c : Option (BitVec 12)) (a : Nat) : State :=
  let w := a / 8 * 8
  let mark (s : State) : State := { s with lost := Tab.set false s.lost (a / 8) true }
  let num := s.reportNum
  let by_ (s : State) : State := { s with tick := { s.tick with lostBy := (a / 8, num) :: s.tick.lostBy } }
  let again (own : BitVec 12) (s : State) : State :=
    let twice := s.tick.badWords.any fun x => decide (x.1 = a / 8 ∧ s.tick.no.toNat ≤ x.2.toNat + 2 ^ 20)
    { s with tick := { s.tick with
        badWords := (a / 8, s.tick.no) :: s.tick.badWords.filter fun x => decide (x.1 ≠ a / 8)
        failDue := if twice then s.tick.failDue ++ [(own, 4)] else s.tick.failDue } }
  let base (k : BitVec 12) : Report := { s.carrelReport k 2 0 with addr := word (s.ownChip.toNat * 2 ^ 44 + a) }
  let inPlan := (c.map fun k => (s.planOf k).isSome).getD false
  let rep (s : State) (own : BitVec 12) (r : Report) (disp : Option Nat) (struct : Nat) : State :=
    let (d, s) := match disp with
      | some d => (BitVec.ofNat 8 d, s)
      | none => (let (f, s) := s.draw; (f.setWidth 8, s) : BitVec 8 × State)
    s.report { r with disp := if inPlan then d else 0, d0 := word struct
                      carrel := (c.getD own).setWidth 16 }
  match regionOf a with
  | .shelf k o =>
    let valid := (upto 8).all fun i => (s.backingOf k (o / 8 * 8 + i)).isSome
    let own := BitVec.ofNat 12 k
    again own <| by_ <| mark (rep ((upto 8).foldl (fun s i => s.restoreByte k (o / 8 * 8 + i) (some 0)) s) own
      (base (c.getD own)) (if valid then some 2 else none) 0)
  | .ledger k _ =>
    let own := BitVec.ofNat 12 k
    again own <| by_ <| mark (rep (s.setLe w 8 0) own (base (c.getD own)) (some 2) 1)
  | .margin b o =>
    let ps := s.marginPlans b (o / 16)
    let s := by_ <| mark (rep (s.setLe w 8 0) 0
      { base (c.getD 0) with unit := 1, unitno := BitVec.ofNat 16 b }
      (if ps.isEmpty then none else some 5) 2)
    { s with tick := { s.tick with
        haltDue := s.tick.haltDue ++ ps.map fun ((_, p) : Nat × Plan) => (p.ctx.toNat, 2, some num) } }
  | _ => s

/-! ### Uncorrectable responses (R447, R449) -/

/-- Whether the watchdog counts: it leaves out a carrel that waits for planned descriptors to finish, at a wait
form, at BAR or WTICK, or at an issue form whose queue is full (R66, R232). -/
def Carrel.counting (k : Carrel) : Bool :=
  k.wd.run && !k.halted && match k.wait with
    | .issue .. => false
    | .qwait .. => false
    | .mrdf _ => false
    | .bar => k.noWork
    | .wtick => k.noWork
    | _ => true

/-- An overrun (R66, R164, R184): the watchdog stops the carrel and the OVERRUN entry is taken at M. Writes that a
vector store has issued complete. The plan's tick will not commit. -/
def execOverrun (c : BitVec 12) (s : State) : Out :=
  .next <|
    if (s.carrel c).counting then
      let s := s.vecIssued c
      let k := (s.carrel c).abandon
      let budget := k.wd.budget
      let s := s.setCarrel c
        { k with overrun := true, wait := .none
                 wd := { k.wd with run := false, ovr := true, count := budget + 1
                                   max := if k.wd.max < budget + 1 then budget + 1 else k.wd.max } }
      let s := match s.planOf c with
        | some (i, _) => s.modPlan i fun p => { p with overrun := true }
        | none => s
      s.fault c { code := 0x09, detail := place k.wd.phase 0 ||| place budget 32 }
    else s

/-- A plan's current tick will not commit, by an uncorrectable error (R61). -/
def State.markUncorr (s : State) (c : BitVec 12) : State :=
  match s.planOf c with
  | some (i, _) => s.modPlan i fun p => { p with uncorr := true }
  | none => s

/-- A carrel stops (R66, R136, R184, R449): its descriptors issue nothing further, writes that a vector store has
issued complete and every entry of its merging buffer drains; a write that cannot complete is lost with the
tick. -/
def State.stopCarrel (s : State) (c : BitVec 12) : State :=
  let s := s.vecIssued c
  ((s.modCarrel c fun k =>
    { k.abandon with
      wait := .rest, ended := false, wd := { k.wd with run := false }
      mb := k.mb.filter fun e => (s.entryWrite c e).isSome }).drainAll c).markUncorr c

/-- An engine stops its running descriptor, which writes nothing further; a data mover's never completes (R324, R449). -/
def State.stopIssued (s : State) (c : BitVec 12) (eng : Nat) (x : Issued) : State :=
  let s := s.modCarrel c fun k => if 6 ≤ eng then k.setHead eng { x with dead := true } else k.finishIssued eng x
  (s.markUncorr c).engineWake c

/-- The carrel on whose account a requester works, if one is known. -/
def State.consumer (s : State) : Requester → Option (BitVec 12)
  | .carrel c => some c
  | .mover b ch => (s.running (.mover b ch)).map (·.1)
  | .engine e => (s.running e).map (·.1)
  | _ => none

/-- A consumer stops (R449). A copy engine and the loader are unplanned: XFER_STOP and LOAD_STOP end their commands. A
command whose entry or data is lost ends with UNCORRECTABLE, and the context of any other lost entry is due to be halted
(R447, R465). -/
def State.stopConsumer (s : State) (r : Requester) : State :=
  let eng (e : EngineId) : State :=
    match s.running e with
    | some (c, n, x) => s.stopIssued c n x
    | none => s
  match r with
  | .carrel c => s.stopCarrel c
  | .mover b ch => eng (.mover b ch)
  | .engine (.record slot) => s.modPlan slot.toNat fun p => { p with uncorr := true }
  | .engine e => eng e
  | .record slot => s.modPlan slot.toNat fun p => { p with uncorr := true }
  | .intake ctx seq => match s.cmd ctx.toNat seq with
    | some c => s.failCmd ctx c .uncorrectable
    | none => s
  | .entry ctx => { s with tick := { s.tick with haltDue := s.tick.haltDue ++ [(ctx.toNat, 5, none)] } }
  | _ => s

/-- A consumer receives an error response or finds a lost word (R449, R450). The stack that found an HBM
word lost writes its own record (R342). -/
def execUncorrectableResponse (r : Requester) (addr : BitVec 56) (s : State) : Out :=
  .next <|
    let c := s.consumer r
    let s := s.stopConsumer r
    if s.isLocal addr.toNat && s.populated addr.toNat then s.sramLost c (localOf addr.toNat) else s

end Sys2Proof.Machine
end

