-- ==== Sys2Proof/Machine/HostCmd.lean ====
section
/-!
DEFINITION. Host commands (R426 to R438), the host copy engines (R335, R336), the intake pages, the BAR2
window (R423 to R425) and the state readback window (R421, R422). Plan commands stand in Loader.
-/

namespace Sys2Proof.Machine

/-! ### Form of a command (R430 to R432) -/

/-- Whether a command uses argument `i` (R431). -/
def usesArg (op i : Nat) : Bool :=
  match op with
  | 0x01 => i = 0 | 0x02 => true | 0x03 => true | 0x04 => true
  | 0x08 => i ≤ 1 | 0x09 => i = 0 | 0x0A => i = 0 | 0x0B => i = 0 | 0x0C => i = 0
  | _ => false

/-- The OP values of R431. -/
def hostOp (op : Nat) : Bool := op ≤ 4 || (8 ≤ op && op ≤ 0x0C) || op = 0x10

/-- The data-mover descriptor of a TENSOR command: its device side at `va`, on the source for COPY_D2H and on
the destination for COPY_H2D (R432). -/
def Cmd.tensorDesc (c : Cmd) : MovDesc :=
  let x := slice c.inlineBytes 0 0x6A
  let b := List.replicate 6 0 ++ x ++ List.replicate (192 - 0x70) 0
  let b := patch b 0x20 (natToBytes 8 (if c.op = 3 then c.arg 0 else 0).toNat)
  movDesc (patch b 0x28 (natToBytes 8 (if c.op = 2 then c.arg 1 else 0).toNat)) none

/-- The device side of a copy: virtual ranges in the order of the contiguous host side. -/
def Cmd.deviceRows (c : Cmd) : List (Word × Nat) :=
  if c.tensor then
    let d := c.tensorDesc
    if c.op = 2 then d.dstRows.map fun r => (r, rowBytes d.dstLen d.width)
    else d.srcRows.map fun r => (r, rowBytes d.srcLen d.width)
  else [(if c.op = 2 then c.arg 1 else c.arg 0, (c.arg 2).toNat)]

/-- Whether the tensor of a command keeps R316 to R318 and R325, and names the bytes that ARG2 counts. -/
def Cmd.tensorOk (c : Cmd) : Bool :=
  let x := c.inlineBytes
  let d := c.tensorDesc
  let nd := leAt x 1 1
  zeroAt x 0x1A 16 && zeroAt x 0x6A 86 && decide (leAt x 0 1 ≤ 4) && decide (1 ≤ nd ∧ nd ≤ 5) &&
  d.n.all (fun x => decide (1 ≤ x)) && (d.n.drop nd).all (fun x => decide (x = 1)) &&
  decide (d.srcLen * d.width % 8 = 0) && (c.deviceRows.all fun r => decide (r.1.toNat % 64 = 0)) &&
  (if c.op = 2 then decide (d.dstLen * d.width ≤ 8 * d.drow) && decide (d.drow % 64 = 0)
   else decide (d.srcLen * d.width % 512 = 0)) &&
  decide ((c.deviceRows.map (·.2)).sum = (c.arg 2).toNat)

/-- Bytes of an ATOMIC's operand (R392). -/
def Cmd.atomicWidth (c : Cmd) : Nat := operWidth (field (c.arg 1) 0 4) ((c.arg 1).getLsbD 4)

/-- Whether a command is a BAD-COMMAND: a reserved OP, an unused field that is not 0, a VECTOR beyond the
function's table, or a breach of R431 or R432 (R435); a plain COPY_H2D's ARG1 is a mesh side, of 64 B (R318). DEDUCED
(log entry 84). -/
def State.badCmd (s : State) (ctx : Nat) (c : Cmd) : Bool :=
  let op := c.op
  !hostOp op || decide (8 ≤ leAt c.bytes 1 1) || !zeroAt c.bytes 6 2 || !zeroAt c.bytes 0xFC 4 ||
  (c.tensor && !(op = 2 || op = 3)) ||
  (!c.cpl && decide (c.cplAddr ≠ 0)) || decide (c.cplAddr.toNat % 32 ≠ 0) ||
  (!c.irq && decide (c.vector ≠ 0)) || decide ((if s.owner ctx = 0 then 2048 else 32) ≤ c.vector) ||
  (upto 3).any (fun i => !usesArg op i && decide (c.arg i ≠ 0)) ||
  (!(op = 1 || op = 3) && decide (c.notBefore ≠ 0)) ||
  (if op = 1 then decide (192 < c.inlineLen) || (c.inlineBytes.drop c.inlineLen).any (· ≠ 0)
   else decide (c.inlineLen ≠ 0) ||
     (!c.tensor && (c.inlineBytes.drop (if op = 4 ∧ fieldN (c.arg 1) 0 4 = 14 then 8 else 0)).any (· ≠ 0))) ||
  ((op = 2 || op = 3) && (decide (c.arg 2 = 0) || decide (2 ^ 36 < (c.arg 2).toNat))) ||
  (decide (op = 3) && !c.tensor && (decide ((c.arg 0).toNat % 64 ≠ 0) || decide ((c.arg 2).toNat % 64 ≠ 0))) ||
  (decide (op = 2) && !c.tensor && decide ((c.arg 1).toNat % 64 ≠ 0)) ||
  (c.tensor && !c.tensorOk) ||
  (decide (op = 4) && (decide (64 ≤ (c.arg 1).toNat) || decide (fieldN (c.arg 1) 0 4 = 15))) ||
  (decide (op = 0x0C) && decide (ctx ≠ 0))

/-! ### The order of starting (R434) -/

/-- The virtual ranges of device memory that a command touches; a plan load reads its image. -/
def State.cmdRows (s : State) (ctx : BitVec 12) (c : Cmd) : List (Word × Nat) :=
  match c.op with
  | 1 => [(c.arg 0, c.inlineLen)]
  | 2 => c.deviceRows
  | 3 => c.deviceRows
  | 4 => [(c.arg 0, c.atomicWidth)]
  | 8 => [(c.arg 0, max 256 (imgLength ((s.recBytes ctx (c.arg 0) 256).getD [])))]
  | _ => []

/-- The device bytes that a command touches, those that translate. -/
def State.cmdRngs (s : State) (ctx : BitVec 12) (c : Cmd) : List Rng :=
  (s.cmdRows ctx c).filterMap fun ((va, n) : Word × Nat) =>
    if n = 0 then none else (s.recTrans ctx va n 0).map fun x => (x.1, n)

/-- Whether every earlier command of the context that touches the same bytes has completed (R434). -/
def State.startable (s : State) (ctx : BitVec 12) (c : Cmd) : Bool :=
  let mine := s.cmdRngs ctx c
  (s.earlier ctx.toNat c.seq).all fun x =>
    (match x.stage with | .done .. => true | _ => false) || !meets mine (s.cmdRngs ctx x)

/-- Runs a taken, unstarted command of one OP that is well formed and may start. -/
def State.act (s : State) (ctx : BitVec 12) (seq : BitVec 32) (op : Nat) (f : Cmd → State) : State :=
  match s.cmd ctx.toNat seq with
  | some c =>
    if c.op = op ∧ (c.stage = .waiting ∨ c.stage = .ready) ∧ s.badCmd ctx.toNat c = false ∧ s.startable ctx c then f c
    else s
  | none => s

/-- Completion with STATUS OK. -/
def State.ok (s : State) (ctx : BitVec 12) (c : Cmd) (tick value : Word) : State :=
  s.complete ctx.toNat c 0 0 tick value

/-- The requester's name on a register write by a command: the owning function. -/
def State.ownerSrc (s : State) (ctx : BitVec 12) : Src :=
  if s.owner ctx.toNat = 0 then .pf else .vf (s.owner ctx.toNat)

def execNop (ctx : BitVec 12) (seq : BitVec 32) (s : State) : Out :=
  .next (s.act ctx seq 0 fun c => s.ok ctx c c.tick 0)

/-- FENCE completes once every earlier command of the context has (R437). -/
def execHostFence (ctx : BitVec 12) (seq : BitVec 32) (s : State) : Out :=
  .next (s.act ctx seq 0x10 fun c =>
    if (s.earlier ctx.toNat seq).isEmpty then s.ok ctx c s.tick.no 0 else s)

/-- The declaration of R74 and R353: at least 5 ms lets each allowed stack without demand enter
self-refresh; other stacks set SR_IGN. DEDUCED (log entry 33). -/
def State.declareSleep (s : State) (us : Nat) : State :=
  if us < 5000 then s
  else (upto 8).foldl (fun s i =>
    if (s.stack i).srAllow && !s.stackWanted i then s.modStack i fun k => { k with selfref := true }
    else s.modStack i fun k => { k with srIgn := true }) s

def execSleepDeclare (ctx : BitVec 12) (seq : BitVec 32) (s : State) : Out :=
  .next (s.act ctx seq 0x0C fun c => (s.declareSleep (c.arg 0).toNat).ok ctx c c.tick 0)

/-! ### Bytes moved -/

/-- A block with some bytes enabled: its data and its mask. -/
def blockOf (pa : Nat) (b : List Byte) : List Byte × List Bool :=
  let o := pa % 64
  ((upto 64).map (fun i => if o ≤ i ∧ i < o + b.length then b.getD (i - o) 0 else 0),
   (upto 64).map fun i => decide (o ≤ i ∧ i < o + b.length))

/-- How a transfer ends. -/
inductive Moved where
  | ok (s : State)
  | err (e : RespErr) (s : State)

/-- Writes one range; blocks of another chip leave as unplanned items. -/
def State.putRange (s : State) (who : Requester) (src : Src) (part : BitVec 6) (b : List Byte) :
    List (Nat × Nat × Nat) → Moved
  | [] => .ok s
  | (pa, o, n) :: l =>
    let (data, mask) := blockOf pa (slice b o n)
    let blk := pa / 64 * 64
    if s.isLocal pa then
      match s.maskWrite src (localOf blk) data mask with
      | .done _ s => s.putRange who src part b l
      | .unmapped => .err .unmapped s
      | .uncorr => .err .uncorrectable s
    else if (s.route (BitVec.ofNat 12 (chipOf pa))).isNone then .err .noRoute s
    else (s.sendRequest who 1 blk part false 0 false false (maskWords data mask)).putRange who src part b l

/-- Translation for a host command: through the cache of the copy engine that moves it, from the table where the cache has
no entry or the intake unit works itself (R375, R433). -/
def State.hostTrans (s : State) (who : Requester) (ctx : BitVec 12) (va : Word) (n : Nat) (need : Rights) :
    Option (Nat × BitVec 6) :=
  match who with
  | .copyEngine e =>
    let seg := fieldN va 60 4
    match translateWith s.ownChip ((Tab.get none (s.engine e.toNat).desc seg).getD (s.tableAt ctx.toNat seg)) va n need with
    | .ok pa part => some (pa, part)
    | _ => none
  | _ => s.recTrans ctx va n need

/-- The tokens of a host command's accesses to this module's HBM: unplanned, under the partition of the segment (R335,
R346). -/
def State.rowsAsk (s : State) (who : Requester) (ctx : BitVec 12) (rows : List (Word × Nat)) : Bool × State :=
  s.askHbm who .unplanned 1 (s.tokensFor 1 (rows.flatMap fun ((va, n) : Word × Nat) =>
    match s.hostTrans who ctx va n 0 with
    | some (pa, part) => if s.isLocal pa then (piecesOf (localOf pa) n).map fun x => (x.1, part) else []
    | none => []))

/-- Writes a list of virtual ranges of a context from one run of bytes, stopping at the first failure (R433). -/
def State.putRows (s : State) (who : Requester) (ctx : BitVec 12) : List (Word × Nat) → List Byte → Moved
  | [], _ => .ok s
  | (va, n) :: l, b =>
    match s.hostTrans who ctx va n 2 with
    | none => .err .translation s
    | some (pa, part) =>
      match s.putRange who (s.ownerSrc ctx) part (b.take n) (piecesOf pa n) with
      | .ok s => s.putRows who ctx l (b.drop n)
      | e => e

/-- The first error of a read of a range on this chip. -/
def State.readErr (s : State) (pa n : Nat) : Option RespErr :=
  if s.isLocal pa then
    if !s.present (localOf pa) n then some .unmapped
    else if s.lostIn (localOf (pa / 64 * 64)) (n + pa % 64) then some .uncorrectable
    else none
  else if (s.route (BitVec.ofNat 12 (chipOf pa))).isNone then some .noRoute
  else none

/-- Reads a list of virtual ranges of a context; bytes of another chip are asked for over the links, and are
free here. -/
def State.getRows (s : State) (who : Requester) (ctx : BitVec 12) (need : Rights) :
    List (Word × Nat) → List Byte → Moved × List Byte
  | [], b => (.ok s, b)
  | (va, n) :: l, b =>
    match s.hostTrans who ctx va n need with
    | none => (.err .translation s, [])
    | some (pa, part) =>
      match s.readErr pa n with
      | some e => (.err e s, [])
      | none =>
        if s.isLocal pa then s.getRows who ctx need l (b ++ s.memRead (localOf pa) n)
        else
          let s := (piecesOf pa n).foldl (fun s ((a, _, _) : Nat × Nat × Nat) =>
            s.sendRequest who 0 (a / 64 * 64) part false 0 false false []) s
          let (w, s) := s.draw
          s.getRows who ctx need l (b ++ (upto n).map fun i => (Config.freeWord (w.toNat + i)).setWidth 8)

/-- D0 of the XFER-STOP record of an error: the code of R392, all ones for a translation fault, which has none (R368, R451;
DEDUCED, log entry 85); a host read that fails makes no record (R438). -/
def errCode : RespErr → Option Word
  | .unmapped => some 1 | .uncorrectable => some 2 | .noRoute => some 3 | .translation => some (BitVec.allOnes 64) | .host => none

/-- A host transfer stops: XFER-STOP where a response or a translation fault stopped it, and the command ends (R35, R368,
R433, R452). -/
def State.xferStop (s : State) (e : Nat) (err : RespErr) : State :=
  let g := s.engine e
  match s.cmd g.ctx.toNat g.seq with
  | none => s
  | some c =>
    if g.busy ∧ c.engine = some e then
      let s := match errCode err with
        | some code => s.report { blankReport with
            code := 0x34, unit := 4, unitno := BitVec.ofNat 16 e, wtn := s.tick.wtn
            context := g.ctx.setWidth 16, d0 := code, d1 := c.seq.setWidth 64 }
        | none => s
      let (st, d) := errStatus err
      (s.forget (.copyEngine (BitVec.ofNat 4 e))).complete g.ctx.toNat c st d s.tick.no 0
    else s

def execXferStop (e : BitVec 4) (err : RespErr) (s : State) : Out := .next (s.xferStop e.toNat err)

/-! ### WRITE_INLINE and ATOMIC (R431, R433) -/

/-- A command ends at once, or when the answers from another chip have come. -/
def State.endOrWait (s : State) (who : Requester) (ctx : BitVec 12) (c : Cmd) (value : Word) : State :=
  if s.asked who then s.modCmd ctx.toNat c.seq fun x => { x with stage := .remote }
  else s.ok ctx c s.tick.no value

/-- The inline payload lands in the intake window of tick max(taking tick, NOTBEFORE) (R431). -/
def execWriteInline (ctx : BitVec 12) (seq : BitVec 32) (s : State) : Out :=
  .next (s.act ctx seq 1 fun c =>
    if s.tick.part = .intake ∧ max c.tick.toNat c.notBefore ≤ s.tick.no.toNat then
      let who := Requester.intake ctx seq
      let rows := if c.inlineLen = 0 then [] else [(c.arg 0, c.inlineLen)]
      whenLet (s.rowsAsk who ctx rows) fun s =>
        match s.putRows who ctx rows c.inlineBytes with
        | .ok s => s.endOrWait who ctx c (word c.inlineLen)
        | .err e s => s.failCmd ctx c e
    else s)

/-- One memory-side operation at ARG0 (R354, R431, R433). -/
def execAtomic (ctx : BitVec 12) (seq : BitVec 32) (s : State) : Out :=
  .next (s.act ctx seq 4 fun c =>
    let op : BitVec 4 := field (c.arg 1) 0 4
    let w := (c.arg 1).getLsbD 4
    let ret := (c.arg 1).getLsbD 5
    let cmp := word (leAt c.inlineBytes 0 8)
    match s.recTrans ctx (c.arg 0) c.atomicWidth 11 with
    | none => s.failCmd ctx c .translation
    | some (pa, part) =>
      if s.isLocal pa then
        whenLet (s.askOne .unplanned 2 (localOf pa) part) fun s =>
          match s.operAt (localOf pa) op w (c.arg 2) cmp with
          | .done old s => s.ok ctx c s.tick.no (if ret then old else 0)
          | .unmapped => s.failCmd ctx c .unmapped
          | .uncorr => s.failCmd ctx c .uncorrectable
      else if (s.route (BitVec.ofNat 12 (chipOf pa))).isNone then s.failCmd ctx c .noRoute
      else
        let who := Requester.intake ctx seq
        (s.sendRequest who 2 pa part false op ret w (c.arg 2 :: (if op = 14 then [cmp] else []))).endOrWait who ctx c 0)

/-! ### Copies (R335, R336, R431, R436) -/

/-- Whether the tick that a COPY_D2H awaits is confirmed (R336, R431). -/
def State.d2hDue (s : State) (c : Cmd) : Bool := decide (max (c.tick.toNat - 1) c.notBefore < s.tick.confirmed)

/-- A waiting COPY_D2H may take an engine once its tick is confirmed (R434). -/
def execCopyD2hStart (ctx : BitVec 12) (seq : BitVec 32) (s : State) : Out :=
  .next (s.act ctx seq 3 fun c =>
    if s.d2hDue c then s.modCmd ctx.toNat seq fun x => { x with stage := .ready } else s)

/-- Engines that may take a transfer: all sixteen, four at thermal level 2 (R551). -/
def State.enginesOpen (s : State) : Nat := if s.moduleLevel = 2 then 4 else 16

/-- The transfers that wait for an engine, in intake order: taking tick, the context's place in the rotated
order of that tick, then sequence order (R72, R335). A function in D3hot keeps its transfers waiting (R440). -/
def State.waitingCopies (s : State) : List (Nat × Nat × Cmd) :=
  s.host.ctxs.flatMap fun ((ctx, h) : Nat × HostCtx) =>
    if s.host.d3.getLsbD (s.owner ctx).toNat then [] else
    (h.cmds.filter fun c => c.isCopy && decide (c.stage = .ready)).map fun c =>
      (c.tick.toNat * 4096 + (ctx + 4096 - c.tick.toNat % 4096) % 4096, ctx, c)

/-- The oldest waiting transfer. -/
def State.nextCopy (s : State) : Option (Nat × Cmd) :=
  (s.waitingCopies.foldl (fun (m : Option (Nat × Nat × Cmd)) x =>
    match m with | none => some x | some y => if x.1 < y.1 then some x else m) none).map (·.2)

/-- The oldest waiting transfer takes the lowest idle engine, whose descriptor cache is filled (R335, R375). -/
def execCopyEngineGrant (s : State) : Out :=
  .next <|
    match s.nextCopy, (upto s.enginesOpen).find? fun e => !(s.engine e).busy with
    | some (ctx, c), some e =>
      (s.setEngine e
        { busy := true, ctx := BitVec.ofNat 12 ctx, seq := c.seq, moved := 0, tick := 0
          desc := (upto 16).map fun i => (i, some (s.tableAt ctx i)) }).modCmd ctx c.seq fun x =>
        { x with stage := .moving (BitVec.ofNat 4 e) }
    | _, _ => s

/-- A transfer that an engine moves and that has moved nothing yet. -/
def State.moving (s : State) (ctx : BitVec 12) (seq : BitVec 32) (op : Nat) : Option (Nat × Cmd) :=
  (s.cmd ctx.toNat seq).bind fun c =>
    match c.stage with
    | .moving e =>
      if c.op = op ∧ (s.engine e.toNat).moved = 0 ∧ s.host.d3.getLsbD (s.owner ctx.toNat).toNat = false
      then some (e.toNat, c) else none
    | _ => none

/-- The engine of a COPY_H2D reads its host range. -/
def execCopyH2d (ctx : BitVec 12) (seq : BitVec 32) (s : State) : Out :=
  .next <|
    match s.moving ctx seq 2 with
    | some (e, c) =>
      (s.send (.hostRead (s.owner ctx.toNat) (c.arg 0) (c.arg 2).toNat)).modCmd ctx.toNat seq fun x =>
        { x with stage := .flush (BitVec.ofNat 4 e) }
    | none => s

/-- A COPY_H2D ends once its writes are performed: TICK is the next tick, VALUE the bytes (R336, R431).
DEDUCED (log entry 32). -/
def State.h2dEnd (s : State) (e : Nat) (ctx : BitVec 12) (c : Cmd) : State :=
  if s.asked (.copyEngine (BitVec.ofNat 4 e)) then s
  else (s.modHctx ctx.toNat fun h => { h with bytesIn := h.bytesIn + (c.arg 2).toNat }).ok ctx c (s.tick.no + 1) (c.arg 2)

/-- The host data of a COPY_H2D comes and is written, or a host read ends with an error (R433, R436, R438). -/
def execHostReadCompletion (e : BitVec 4) (res : HostReadRes) (s : State) : Out :=
  let g := s.engine e.toNat
  match s.cmd g.ctx.toNat g.seq with
  | none => .next s
  | some c =>
    if g.busy ∧ c.stage = .flush e then
      match res with
      | .error => .next (s.xferStop e.toNat .host)
      | .data b =>
        if c.op ≠ 2 then .next s
        else if b.length ≠ (c.arg 2).toNat then .fault .illFormed
        else .next <| whenLet (s.rowsAsk (.copyEngine e) g.ctx c.deviceRows) fun s =>
          match s.putRows (.copyEngine e) g.ctx c.deviceRows b with
          | .err err s => s.xferStop e.toNat err
          | .ok s =>
            let s := s.setEngine e.toNat { s.engine e.toNat with moved := b.length }
            let s := s.modCmd g.ctx.toNat g.seq fun x => { x with stage := .moving e }
            s.h2dEnd e.toNat g.ctx { c with stage := .moving e }
    else .next s

/-- The engine of a COPY_D2H reads the committed bytes, writes them to the host and issues the flush read,
unless an earlier FENCE holds host writes back (R336, R436, R437). Whether the function's Device Control allows Relaxed
Ordering is free. DESIGN CHOICE (log entry 91). -/
def execCopyD2h (ctx : BitVec 12) (seq : BitVec 32) (s : State) : Out :=
  .next <|
    match s.moving ctx seq 3 with
    | none => s
    | some (e, c) =>
      if s.fenced ctx.toNat seq then s
      else whenLet (s.rowsAsk (.copyEngine (BitVec.ofNat 4 e)) ctx c.deviceRows) fun s =>
        match s.getRows (.copyEngine (BitVec.ofNat 4 e)) ctx 1 c.deviceRows [] with
        | (.err err s, _) => s.xferStop e err
        | (.ok s, b) =>
          let f := s.owner ctx.toNat
          let n := (c.arg 2).toNat
          let (w, s) := s.draw
          let s := s.send (.hostWrite f (c.arg 1) b (s.host.roEn && w.getLsbD 0))
          let s := s.send (.hostRead f (c.arg 1 + word (n - 4)) 4)
          let s := s.setEngine e { s.engine e with moved := n, tick := word (s.tick.confirmed - 1) }
          s.modCmd ctx.toNat seq fun x => { x with stage := .flush (BitVec.ofNat 4 e) }

/-- The flush read returns: the completion record and the message follow (R436). -/
def execFlushReadDone (e : BitVec 4) (s : State) : Out :=
  .next <|
    let g := s.engine e.toNat
    match s.cmd g.ctx.toNat g.seq with
    | some c =>
      if g.busy ∧ c.op = 3 ∧ c.stage = .flush e then
        (s.modHctx g.ctx.toNat fun h => { h with bytesOut := h.bytesOut + g.moved }).ok g.ctx c g.tick (word g.moved)
      else s
    | none => s

/-! ### Intake pages (R426 to R429) -/

/-- A write into an intake page lands in the intake memory; a VF reaches the pages of its own contexts
(R419, R420). Seals are sampled at the boundary. -/
def execIntakeSlotWrite (src : Src) (ctx : BitVec 12) (off : BitVec 12) (data : List Byte) (s : State) : Out :=
  .next <|
    let may := match src with
      | .pf => true
      | .vf f => decide (s.owner ctx.toNat = f)
      | _ => false
    if may then
      { s with host := { s.host with
          intake := Tab.setAll 0 s.host.intake (((data.mapIdx fun i b => (off.toNat + i, b)).filter fun x =>
            decide (x.1 < 4096)).map fun x => (ctx.toNat * 4096 + x.1, x.2)) } }
    else s.deny

/-! ### The BAR2 window (R423 to R425) -/

/-- The WINDOW record of an access that cannot complete (R424); a dropped write has no status. -/
def State.windowReport (s : State) (pa : Nat) (status : Option Nat) : State :=
  s.report { blankReport with
    code := 0x41, unit := 4, wtn := s.tick.wtn, addr := word pa
    d0 := match status with | some x => word x | none => BitVec.allOnes 64 }

/-- How a window access to a range ends: what this chip knows of it, else what has come back. -/
def State.windowRes (s : State) (pa n : Nat) (res : WinRes) : WinRes :=
  let la := localOf pa
  let bad := (upto n).any fun i => match regionOf (la + i) with | .regs _ _ => true | .hole => true | _ => false
  if bad then .unmapped
  else if s.isLocal pa then
    if !s.present la n then .unmapped
    else if s.lostIn (la / 64 * 64) (n + la % 64) then .uncorrectable
    else match res with | .uncorrectable => .uncorrectable | _ => .ok []
  else if (s.route (BitVec.ofNat 12 (chipOf pa))).isNone then .noRoute
  else res

/-- The tokens of a window access to this module's HBM: unplanned, under the window's partition (R346, R423). -/
def State.windowAsk (s : State) (pa n : Nat) : Bool × State :=
  s.askHbm .window .unplanned 1 (s.tokensFor 1
    (if s.isLocal pa then (piecesOf (localOf pa) n).map fun x => (x.1, s.host.winPart) else []))

/-- PCIe completion status of a failed read: Unsupported Request 1, Completer Abort 4. PRESUMED (log entry 34). -/
def winStatus : WinRes → Nat
  | .unmapped => 1
  | _ => 4

/-- An access through BAR2 of the PF (R423, R424). VFs have no BAR2. -/
def execBar2WindowAccess (src : Src) (off : Word) (access : WinAccess) (s : State) : Out :=
  let pa := (s.host.winBase.toNat * 2 ^ 28 + off.toNat) % 2 ^ 56
  let part := s.host.winPart
  if src ≠ .pf ∨ 2 ^ 28 ≤ off.toNat then .next s
  else match access with
    | .read n res =>
      if 2 ^ 28 < off.toNat + n then .next s
      else match s.windowRes pa n res with
        | .ok b =>
          if s.isLocal pa then
            .next <| whenLet (s.windowAsk pa n) fun s => s.send (.answer src (s.memRead (localOf pa) n))
          else if b.length ≠ n then .fault .illFormed
          else .next (((piecesOf pa n).foldl (fun s ((a, _, _) : Nat × Nat × Nat) =>
              s.sendRequest .window 0 (a / 64 * 64) part false 0 false false []) s).send (.answer src b))
        | r => .next ((s.windowReport pa (some (winStatus r))).send (.status src (winStatus r)))
    | .write b res =>
      if 2 ^ 28 < off.toNat + b.length then .next s
      else match s.windowRes pa b.length res with
        | .ok _ =>
          .next <| whenLet (s.windowAsk pa b.length) fun s =>
            match s.putRange .window src part b (piecesOf pa b.length) with
            | .ok s => s
            | .err _ s => s.windowReport pa none
        | _ => .next (s.windowReport pa none)

/-! ### State readback (R421, R422) -/

/-- The tag word of a cache slot; an invalid slot shows its tag's place free. -/
def tagWord (l : Option Line) (lo : Nat) (free : Word) : Word :=
  match l with
  | some x => 1#64 ||| word (x.tag * 2 ^ lo)
  | none => word (free.toNat % 2 ^ (56 - lo) * 2 ^ lo)

/-- The word at offset 8 × i of a carrel's area. Places that hold nothing resident show free values. -/
def State.readbackWord (s : State) (c : BitVec 12) (i : Nat) (free : Word) : Word :=
  let k := s.carrel c
  let o := 8 * i
  let bank (b : Nat) : Bank := if b = 0 then k.bankU else if b = 1 then k.bankS else k.bankM
  if o < 0x800 then s.creg c i
  else if o < 0x8C0 then
    ((bank ((o - 0x800) / 64)).dres)[(o - 0x800) / 8 % 8]?.getD free
  else if 0x900 ≤ o ∧ o < 0xA80 then
    ((bank ((o - 0x900) / 128)).rres)[(o - 0x900) / 8 % 16]?.getD free
  else if o = 0xC00 then k.pc
  else if o = 0xC08 then k.vl.setWidth 64
  else if o = 0xC10 then
    place (bit (k.plan.isSome && !k.halted && decide (k.wait ≠ .rest) && decide (k.power = .run))) 0 |||
      place (bit k.halted) 1 |||
      word ((match k.power with | .run => 0 | .gate => 1 | .hold => 2 | .doze => 3) * 4)
  else if 0x1000 ≤ o ∧ o < 0x3000 then
    match k.vstack[(o - 0x1000) / 1024]? with
    | some v => v.extractLsb' (o % 1024 * 8) 64
    | none => free
  else if 0x3000 ≤ o ∧ o < 0x3400 then tagWord (Tab.get none k.dcache ((o - 0x3000) / 8)) 11 free
  else if 0x4000 ≤ o ∧ o < 0x6000 then
    match Tab.get none k.dcache ((o - 0x4000) / 64) with
    | some l => word (leAt l.data (o % 64) 8)
    | none => free
  else if 0x6000 ≤ o ∧ o < 0x6800 then tagWord (Tab.get none k.icache ((o - 0x6000) / 8)) 12 free
  else if 0x8000 ≤ o ∧ o < 0x8400 then
    let e := k.mb[(o - 0x8000) / 128]?
    if o % 128 < 64 then
      let old := natToBytes 8 free.toNat
      match e with
      | some e => word (bytesToNat (e.over old (o % 128)))
      | none => free
    else if o % 128 = 64 then
      match e with
      | some e => word ((upto 64).foldl (fun n i => if maskAt e.mask i then n + 2 ^ i else n) 0)
      | none => 0
    else 0
  else 0

/-- A byte of a carrel's area of the readback window; `w` draws the free places. -/
def State.readbackByte (s : State) (c : BitVec 12) (a : Nat) (w : Word) : Byte :=
  if a < 0xC000 then
    ((s.readbackWord c (a / 8) (Config.freeWord (w.toNat + a / 8))) >>> (8 * (a % 8))).setWidth 8
  else 0

/-- Whether a virtual function reads the state of a carrel: it belongs to a resident plan of a context of the function
(R419, R473). -/
def State.vfCarrel (s : State) (f : BitVec 6) (c : BitVec 12) : Bool :=
  match s.planOf c with
  | some (_, p) => decide (s.owner p.ctx.toNat = f)
  | none => false

end Sys2Proof.Machine
end

