-- ==== Sys2Proof/Machine/Items.lean ====
section
/-!
DEFINITION. Transaction items that a link delivers (R392 to R394): requests served here or passed on, and
the answers to this chip's own requests.
-/

namespace Sys2Proof.Machine

/-! ### Answers (R392) -/

/-- The answer to an item: TAG copied, SRC and DST swapped, CLASS kept. -/
def answerItem (i : Item) (kind : Nat) (more : List Word) : Item :=
  itemHdr kind i.dst i.src i.tag i.part i.planned 0 i.ret i.w :: more

/-- Local address that an item names. -/
def Item.la (i : Item) : Nat := localOf (i.unit 1).toNat

/-- A received item of a kind, oldest first: passed on when it is for another chip, else handled. -/
def State.handleItem (s : State) (l : Fin 12) (kind : Nat) (f : Item → State → State) : State :=
  match s.takeRx l.val fun i => decide (i.kind = kind) with
  | none => s
  | some (i, s) => if i.dst = s.ownChip then f i s else s.forward i

/-- A received request of a kind that draws `w` tokens, under the class and partition that it received at its origin,
before it is handled here (R346, R347). -/
def State.handleAsk (s : State) (l : Fin 12) (kind w : Nat) (f : Item → State → State) : State :=
  match (s.link l.val).rx.find? fun i => decide (i.kind = kind) with
  | none => s
  | some i =>
    whenLet (if i.dst = s.ownChip then s.askOne (if i.planned then .planned else .unplanned) w i.la i.part else (true, s))
      fun s => s.handleItem l kind f

/-- Eight units of 64 bytes. -/
def unitsOfBytes (b : List Byte) : List Word := (upto 8).map fun w => word (leAt b (8 * w) 8)

/-- A read request is served (R35, R342, R394). -/
def State.serveRead (s : State) (i : Item) : State :=
  let a := i.la / 64 * 64
  s.sendItem <|
    if !s.present a 64 then errorItem i 1
    else if s.lostIn a 64 then errorItem i 2
    else answerItem i 3 (unitsOfBytes (s.memRead a 64))

def execReadRequest (l : Fin 12) (s : State) : Out := .next (s.handleAsk l 0 1 fun i s => s.serveRead i)

/-- The data and the byte enables of a write item. -/
def Item.writeData (i : Item) : List Byte × List Bool :=
  ((upto 8).flatMap fun w => natToBytes 8 (i.unit (3 + w)).toNat, (upto 64).map fun j => (i.unit 2).getLsbD j)

/-- A write is performed and acknowledged (R7, R35, R343, R394). -/
def State.serveWrite (s : State) (i : Item) : State :=
  let (data, mask) := i.writeData
  match s.maskWrite (.link i.src) (i.la / 64 * 64) data mask with
  | .done _ s => s.sendItem (answerItem i 4 [])
  | .unmapped => s.sendItem (errorItem i 1)
  | .uncorr => s.sendItem (errorItem i 2)

def execWrite (l : Fin 12) (s : State) : Out := .next (s.handleAsk l 1 1 fun i s => s.serveWrite i)

/-- An atomic is performed and answered (R392, R394). -/
def State.serveAtomic (s : State) (i : Item) : State :=
  match s.operAt i.la i.op i.w (i.unit 2) (i.unit 3) with
  | .done old s => s.sendItem (answerItem i 5 (if i.ret then [old] else []))
  | .unmapped => s.sendItem (errorItem i 1)
  | .uncorr => s.sendItem (errorItem i 2)

def execAtomicItem (l : Fin 12) (s : State) : Out := .next (s.handleAsk l 2 2 fun i s => s.serveAtomic i)

/-! ### Answers to this chip's requests -/

/-- The requester whose request an answer names; its TAG is free again. -/
def State.closeTag (s : State) (i : Item) : Option Requester × State :=
  match s.chain.open_.find? fun x => decide (x.1 = i.tag.toNat) with
  | some x => (some x.2, { s with chain := { s.chain with open_ := s.chain.open_.erase x } })
  | none => (none, s)

/-- A command that works on another chip ends, once every answer has come (R431, R435). The tick of its
landing or execution is the one in which it is answered. -/
def State.intakeDone (s : State) (ctx : BitVec 12) (seq : BitVec 32) (value : Word) : State :=
  if s.asked (.intake ctx seq) then s
  else match s.cmd ctx.toNat seq with
    | some c =>
      if c.stage = .remote then
        s.complete ctx.toNat c 0 0 s.tick.no (if c.op = 1 then word c.inlineLen else value)
      else s
    | none => s

/-- A command that works on another chip fails (R435). -/
def State.intakeFail (s : State) (ctx : BitVec 12) (seq : BitVec 32) (code : Nat) : State :=
  match s.cmd ctx.toNat seq with
  | some c =>
    if c.stage = .remote then
      s.failCmd ctx c (match code with | 1 => .unmapped | 2 => .uncorrectable | _ => .noRoute)
    else s
  | none => s

/-- An answer without error closes its request; a command of the intake unit, or a COPY_H2D whose last
write it answers, ends with it. The data of
other requesters comes with the command that ends their access. -/
def State.answered (s : State) (i : Item) (value : Word) : State :=
  match s.closeTag i with
  | (some (.intake ctx seq), s) => s.intakeDone ctx seq value
  | (some (.copyEngine e), s) =>
    let g := s.engine e.toNat
    match s.cmd g.ctx.toNat g.seq with
    | some c => if c.op = 2 ∧ c.stage = .moving e ∧ g.moved ≠ 0 then s.h2dEnd e.toNat g.ctx c else s
    | none => s
  | (_, s) => s

def execReadResponse (l : Fin 12) (s : State) : Out := .next (s.handleItem l 3 fun i s => s.answered i 0)

def execWriteAcknowledgement (l : Fin 12) (s : State) : Out := .next (s.handleItem l 4 fun i s => s.answered i 0)

/-- VALUE of an ATOMIC is the old value when RET is 1 (R431). -/
def execAtomicResponse (l : Fin 12) (s : State) : Out :=
  .next (s.handleItem l 5 fun i s => s.answered i (if i.ret then i.unit 1 else 0))

/-- An error response reaches a carrel: the load, atomic or element that touches the address, else the
merging-buffer entry of its block (R35, R145, R184, R393, R449). -/
def State.carrelError (s : State) (c : BitVec 12) (code blk : Nat) : State :=
  if code = 2 then s.stopCarrel c
  else
    let entry : State :=
      match firstIssued (s.carrel c).mb fun e => decide (e.block = blk) with
      | some (i, e) => s.entryLost c i e
      | none => s
    match (s.carrel c).wait with
    | .load _ _ hs =>
      match hs.find? fun h => decide (h.pa / 64 = blk) && !h.ready with
      | some h => s.unmappedLoad c h.va none
      | none => entry
    | .atomic _ _ _ va pa _ _ _ true _ => if pa / 64 = blk then s.unmappedLoad c va none else entry
    | .vecLoad _ _ accs =>
      match accs.find? fun x => decide (x.pa / 64 = blk) with
      | some x => s.unmappedLoad c x.va (some x.elem)
      | none => entry
    | .vecAck _ _ accs =>
      match accs.find? fun x => decide (x.pa / 64 = blk) with
      | some x => s.elemLost c x.elem
      | none => entry
    | _ => entry

/-- The block that an error response names: chip SRC of the response, address bits [59:4] (R392). -/
def Item.errBlock (i : Item) : Nat := ((i.unit 1).toNat / 16 * 16) % 2 ^ 56 / 64

/-- An error response ends the request it answers. A data mover, a copy engine, the loader and a link record
stop with DESC_STOP, XFER_STOP and LOAD_STOP. -/
def execErrorResponse (l : Fin 12) (s : State) : Out :=
  .next (s.handleItem l 6 fun i s =>
    let code := fieldN (i.unit 1) 0 4
    match s.closeTag i with
    | (some (.carrel c), s) => s.carrelError c code i.errBlock
    | (some (.intake ctx seq), s) => s.intakeFail ctx seq code
    | (some (.record slot), s) => if code = 2 then s.stopConsumer (.record slot) else s
    | (_, s) => s)

end Sys2Proof.Machine
end

