-- ==== Sys2Proof/Machine/Loader.lean ====
section
/-!
DEFINITION. The plan loader (R38, R52, R53, R57, R58, R215, R287, R304, R373, R569), the start of host
commands (R434) and the plan commands (R53, R431).
-/

namespace Sys2Proof.Machine

/-! ### Plan slots (R48, R53) -/

/-- An image with nothing in it. -/
def Image.blank : Image :=
  { period := 1, phases := 1, tickLen := 0, set := [], phasesOf := [], entries := [], budgets := [], rwset := []
    backing := [], allocs := [], lists := [], rowEng := [], folio := [], margin := [], mover := [], demand := []
    training := none, uses := [] }

/-- A free slot that shows zeros. -/
def Plan.blank : Plan :=
  { state := .free, reason := 0, ctx := 0, img := Image.blank, start := none, resume := false, suspend := none
    k := 0, ran := [], overrun := false, late := false, uncorr := false, fresh := false, tokens := [], joined := []
    links := [], ticks := 0, prevLists := none, imageVa := 0, digest := [], startTick := 0 }

/-- A plan slot replaced. -/
def State.putPlan (s : State) (i : Nat) (p : Plan) : State := { s with plans := Tab.set Plan.blank s.plans i p }

/-- The lowest free slot. -/
def State.freeSlot (s : State) : Option Nat := (upto 256).find? fun i => (s.plan i).isNone

/-- The plan that the loader is loading. -/
def State.loadingSlot (s : State) : Option (Nat × Plan) := s.plans.find? fun x => decide (x.2.state = .loading)

/-- The resident plans (R52). -/
def State.residents (s : State) : List Plan :=
  (s.plans.filter fun x => x.2.present && decide (x.2.state ≠ .loading)).map (·.2)

/-- The slot of a refused or stopped load, freed (R48). -/
def State.freeLoading (s : State) (reason : Nat) : State :=
  match s.loadingSlot with
  | some (i, p) => s.putPlan i { Plan.blank with reason := BitVec.ofNat 8 reason, ctx := p.ctx }
  | none => s

/-- A load command begins: the plan is LOADING in the lowest free slot, if there is one (R53, R569). -/
def State.loadBegin (s : State) (ctx : BitVec 12) (c : Cmd) : State :=
  let s := match s.freeSlot with
    | some i => s.putPlan i { Plan.blank with
        state := .loading, ctx := ctx, imageVa := c.arg 0, start := if c.arg 1 = 0 then none else some (c.arg 1) }
    | none => s
  s.modCmd ctx.toNat c.seq fun x => { x with stage := .ready }

/-! ### The checks (R57, R58) -/

/-- Bytes of a range outside a list of ranges. -/
def rngMinus (l : List Rng) (cut : List Rng) : List Rng :=
  cut.foldl (fun l (c : Rng) => l.flatMap fun ((a, n) : Rng) =>
    [(a, min n (c.1 - a)), (max a (c.1 + c.2), a + n - max a (c.1 + c.2))].filter fun x => decide (0 < x.2)) l

/-- The ranges of an RWSET that meet a condition, by physical address. -/
def State.rwRngs (s : State) (ctx : BitVec 12) (m : Image) (p : RwRange → Bool) : List Rng :=
  (m.rwset.filter p).filterMap fun r => (s.recTrans ctx r.va 1 0).map fun x => s.rngAt x.1 r.len

/-- The margin entries among a list of ranges. -/
def marginOf (l : List Rng) : List Rng := l.filter fun r => match regionOf r.1 with | .margin _ _ => true | _ => false

/-- The read set of a plan tick: its declared ranges, and the margin entries that its descriptors read (R287, R567). -/
def State.readSet (s : State) (ctx : BitVec 12) (m : Image) (t : Nat) : List Rng :=
  s.rwRngs ctx m (fun r => r.read && decide (r.ptick = t)) ++ (s.tickJobs ctx m t).flatMap fun j => marginOf j.t.reads

/-- The write set of a plan tick: its declared ranges, the margin entries that its descriptors write, and its pad-fill
bytes (R287, R325, R567). DEDUCED (log entry 86). -/
def State.writeSet (s : State) (ctx : BitVec 12) (m : Image) (t : Nat) : List Rng :=
  s.rwRngs ctx m (fun r => r.write && decide (r.ptick = t)) ++
    (s.tickJobs ctx m t).flatMap fun j => marginOf j.t.writes ++ j.t.pads

/-- The training block of a context that has an allotment (R310). -/
def State.trainRng (s : State) (ctx : Nat) : List Rng :=
  let t := s.trainCtx ctx
  if t.count = 0 then [] else [(t.tblk.toNat * 64, 64 + 4 * t.count.toNat)]

/-- The read and write set check of R57, against the context's training block too (R311). -/
def State.rwConflict (s : State) (ctx : BitVec 12) (m : Image) : Bool :=
  let inp (t : Nat) := s.rwRngs ctx m fun r => r.inplace && decide (r.ptick = t)
  let writes := (upto m.period).map (s.writeSet ctx m)
  let reads := (upto m.period).map (s.readSet ctx m)
  let w (t : Nat) := writes.getD t []
  let rd (t : Nat) := reads.getD t []
  ((upto m.period).any fun t =>
    let u := (t + m.period - 1) % m.period
    meets (rngMinus (w t) (inp t)) (rd t) || meets (rngMinus (w t) (inp u)) (rd u)) ||
  meets writes.flatten (s.trainRng ctx.toNat) ||
  (s.residents.any fun p => decide (p.ctx = ctx) && (upto p.img.period).any fun t =>
    meets writes.flatten (s.readSet ctx p.img t ++ s.writeSet ctx p.img t))

/-- Pad-fill bytes that meet another descriptor's region in a plan tick (R57, R332). -/
def padOverlap (js : List Job) : Bool :=
  (upto js.length).any fun i => (upto js.length).any fun j =>
    match js[i]?, js[j]? with
    | some a, some b => decide (i ≠ j) && meets a.t.pads (b.t.reads ++ b.t.writes ++ b.t.pads)
    | _, _ => false

/-- The planned refill of a partition on a stack: the smaller of the rate in force and a pending one (R349). -/
def State.plannedRefill (s : State) (stack part : Nat) : Nat :=
  let k := s.stack stack
  let r := ratePlan (k.rateOf part)
  refillOf (match Tab.get none k.ratePend part with | some x => min r (ratePlan x) | none => r)
    (workCycles s.tick.len.toNat)

/-- Whether an address names a chip that the routes do not reach, or reach outside the chain tree (R57). -/
def State.unreached (s : State) (pa : Nat) : Bool :=
  !s.isLocal pa && (match s.route (BitVec.ofNat 12 (chipOf pa)) with
    | some l => !s.treeLinks.contains l
    | none => true)

/-- Whether every address of a plan's descriptors, records, backing copies and load records lies in the
context's segments with its rights (SEG-RIGHTS). -/
def State.segRightsOk (s : State) (ctx : BitVec 12) (x : PlanImage) : Bool :=
  ((upto x.img.period).all fun t => (s.tickJobs ctx x.img t).all fun j => j.t.ok) &&
  (x.img.backing.all fun b => decide (b.len = 0) || (s.recTrans ctx b.va b.len 2).isSome) &&
  (x.img.set.all fun c => (upto x.img.period).all fun t =>
    (s.recTrans ctx (Tab.get 0 x.img.entries (c * 4096 + t)) 2 4).isSome) &&
  (x.code.all fun ((_, va, b) : Nat × Word × List Byte) => b.isEmpty || (s.recTrans ctx va b.length 2).isSome)

/-- The device physical addresses of other chips that a plan's descriptors and records name, and those of its backing
copies and load records. -/
def State.planAddrs (s : State) (ctx : BitVec 12) (x : PlanImage) : List Nat :=
  ((upto x.img.period).flatMap fun t => (s.tickJobs ctx x.img t).flatMap fun j =>
    (j.t.reads ++ j.t.writes ++ j.t.pads).filterMap fun r => if farBase ≤ r.1 then some (r.1 - farBase) else none) ++
  (x.img.backing.filterMap fun b => (s.recTrans ctx b.va 1 0).map (·.1)) ++
  (x.code.filterMap fun ((_, va, _) : Nat × Word × List Byte) => (s.recTrans ctx va 1 0).map (·.1))

/-- The link-slot check of R57 and R396, for both directions of every link. A barrier message or a fragment leaves on
a link of the chain tree. -/
def State.linkSlotsBad (s : State) (ctx : BitVec 12) (x : PlanImage) (m : Image) : Bool :=
  let mine := s.peak ctx m Touch.flits
  let all := s.residents.foldl (fun t p => tabAdd t (s.peak p.ctx p.img Touch.flits)) mine
  ((upto 24).any fun k => decide (s.slotsOf (k / 2) < Tab.get 0 all k)) || (s.planAddrs ctx x).any s.unreached ||
  ((upto m.period).any fun t => (upto (m.phasesAt t)).any fun ph => (Tab.get [] m.lists (listKey 4096 0 t ph)).any fun b =>
    decide (3 ≤ (linkRec b).kind) && !s.treeLinks.contains (linkRec b).link) ||
  (!s.treeLinks.isEmpty && (match m.training with
    | some t => t.layers.any fun y => match s.setOf ctx.toNat y.tag with
        | some i => decide (s.statusSets ≤ i)
        | none => false
    | none => false))

/-- Whether a plan's schedule has flits on link `l` in a plan tick. -/
def State.tickUsesLink (s : State) (p : Plan) (l t : Nat) : Bool :=
  (s.tickJobs p.ctx p.img (t % max 1 p.img.period)).any fun j =>
    decide (0 < Tab.get 0 j.t.flits (2 * l) + Tab.get 0 j.t.flits (2 * l + 1))

/-- Whether the schedules leave link `l` idle for at least 50 µs, with no item waiting for it (R74). The model holds no
clock: every tick that a span of 50 µs from now can touch is without flits of the link. DEDUCED (log entry 79). -/
def State.linkIdle (s : State) (l : Nat) : Bool :=
  let n := ceilDiv 50000 (max 1 s.tick.len.toNat)
  (s.link l).txq.isEmpty && s.plans.all fun x =>
    !(decide (x.2.state = .running) || decide (x.2.state = .ready)) || (upto (n + 1)).all fun d => !s.tickUsesLink x.2 l (x.2.k + d)

/-- An idle link sleeps when it is allowed to (R74, R383). -/
def execLinkSleep (l : Fin 12) (s : State) : Out :=
  .next (if (s.link l.val).state = 2 ∧ (s.link l.val).sleepAllow ∧ s.linkIdle l.val then
    s.modLink l.val fun k => { k with state := 3 } else s)

/-- The ledger bytes of an allocation. -/
def Alloc.rng (a : Alloc) : Rng := (a.first * (16 * accSize a.acc), a.rows * (16 * accSize a.acc))

/-- Whether the allocations of a carrel overlap or leave the depth of their format (R57, R252). -/
def ledgerBad (l : List Alloc) : Bool :=
  (l.any fun a => decide (accDepth a.acc < a.first + a.rows)) ||
  (upto l.length).any fun i => (upto i).any fun j =>
    match l[i]?, l[j]? with
    | some a, some b => meets [a.rng] [b.rng]
    | _, _ => false

/-- Whether an image keeps the form of R564 to R568 and its descriptors the rules of their chapters. An image
without its CLAIMS segment claims no unit, and every plan tick has the phases of the header. -/
def State.formOk (s : State) (ctx : BitVec 12) (b : List Byte) (x : PlanImage) : Bool :=
  headerOk b (sm3 (undigested b)) && dirOk b && segsOk b &&
  decide (x.phases = x.img.phasesOf.foldl max 0) && s.descsOk ctx x.img && s.trainOk ctx.toNat x.img

/-- The first code of R58 whose condition holds. DEDUCED (log entry 35). -/
def State.refusal (s : State) (ctx : BitVec 12) (b : List Byte) : Option Nat :=
  let x := planImage b
  let m := x.img.dearest
  let rs := s.residents
  let w := workCycles s.tick.len.toNat
  if s.formOk ctx b x = false then some 0x01
  else if (segOf b 5 0xFFFF).isNone ∨ m.set.any (fun c => [1, 2, 3, 4].any fun t => (segOf b t c).isNone) then some 0x02
  else if x.tickLen ≠ s.tick.len.toNat then some 0x03
  else if x.ctx ≠ ctx.toNat ∨ s.funcOn (.ctx ctx) = false then some 0x04
  else if s.loadingSlot = none then some 0x05
  else if m.set.any fun c => !s.funcOn (.bay (BitVec.ofNat 8 (c / 16))) then some 0x06
  else if rs.any fun p => p.img.set.any m.set.contains then some 0x07
  else if rs.any fun p => p.img.rowEng.any m.rowEng.contains || p.img.folio.any m.folio.contains ||
      p.img.margin.any (fun e => Tab.get 0 m.margin e.1 != 0) || p.img.mover.any (fun e => Tab.get 0 m.mover e.1 != 0)
    then some 0x08
  else if s.segRightsOk ctx x = false then some 0x09
  else if x.regions.any fun r => decide (r.2 ≠ 0) && decide (196096 < r.1 + r.2) then some 0x0A
  else if m.allocs.any fun e => ledgerBad e.2 then some 0x0B
  else if m.margin.any fun e => decide (4096 < e.2 / 65536 + e.2 % 65536) then some 0x0C
  else if s.rwConflict ctx m then some 0x0D
  else if (upto m.period).any fun t => padOverlap (s.tickJobs ctx m t) then some 0x0E
  else if (upto 8).any fun k => (upto 64).any fun p =>
      decide (s.plannedRefill k p < s.demandOf rs k p + s.planDemand ctx m k p) then some 0x0F
  else if s.linkSlotsBad ctx x m then some 0x10
  else if (rs.foldl (fun t p => tabAdd t (s.peak p.ctx p.img Touch.mesh)) (s.peak ctx m Touch.mesh)).any
      fun e => decide (512 * w < e.2) then some 0x11
  else if (upto m.period).any fun t => match s.tickCost ctx m t with | some c => decide (w < c) | none => true
    then some 0x12
  else none

/-! ### What an accepted plan writes (R38, R569) -/

/-- The writes to the context's own memory, in order: backing copies, then load records (R565, R569). -/
def PlanImage.ownWrites (x : PlanImage) : List (Word × List Byte) :=
  (x.img.backing.map fun b =>
    let img := ((x.shelf.find? fun y => decide (y.1 = b.carrel)).map (·.2)).getD []
    (b.va, slice img b.off b.len)) ++
  x.code.map fun ((_, va, d) : Nat × Word × List Byte) => (va, d)

/-- Each write cut at 64 B. -/
def PlanImage.ownPieces (x : PlanImage) : List (Word × List Byte) :=
  x.ownWrites.flatMap fun ((va, d) : Word × List Byte) =>
    (upto (ceilDiv d.length 64)).map fun i => (va + word (64 * i), slice d (64 * i) 64)

/-- Performs a list of writes of the loader, stopping at the first failure. -/
def State.loadWrites (s : State) (ctx : BitVec 12) (seq : BitVec 32) : List (Word × List Byte) → Moved
  | [] => .ok s
  | (va, d) :: l =>
    match s.putRows (.loader ctx seq 0) ctx [(va, d.length)] d with
    | .ok s => s.loadWrites ctx seq l
    | e => e

/-- The margin bytes that a load writes with zeros (R287). -/
def PlanImage.marginRngs (x : PlanImage) : List Rng :=
  x.img.margin.map fun ((b, w) : Nat × Nat) => (marginBase b + 16 * (w / 65536), 16 * (w % 65536))

/-- The local ranges of the shelf stage, in order, each cut at 64 B: shelf images, then margins (R569). -/
def PlanImage.stagePieces (x : PlanImage) : List Rng :=
  ((x.shelf.map fun ((c, d) : Nat × List Byte) => (shelfBase c, d.length)) ++ x.marginRngs).flatMap fun ((a, n) : Rng) =>
    (upto (ceilDiv n 64)).map fun i => (a + 64 * i, min 64 (n - 64 * i))

/-- Zeroes local ranges. -/
def State.zeroRngs (s : State) (l : List Rng) : State := l.foldl (fun s ((a, n) : Rng) => s.setBytes a (List.replicate n 0)) s

/-- The layer tag of a descriptor of an image's list. -/
def layerOf (key : Nat) (b : List Byte) : Nat :=
  let q := key / (4096 * 256) % 16
  if key / (16 * 4096 * 256) = 4096 ∨ q < 4 then 0
  else if q = 4 then (elemDesc b none).layer
  else if q = 5 then (rowDesc 0 b).layer
  else (movDesc b none).layer

/-- Whether a plan uses the gauge set of a tag, in its training section or by a descriptor that carries the tag. -/
def Image.usesTag (m : Image) (tag : Nat) : Bool :=
  (match m.training with | some u => u.layers.any fun y => decide (y.tag = tag) | none => false) ||
    m.lists.any fun x => x.2.any fun b => decide (layerOf x.1 b = tag)

/-- The tags that become new to the context with a plan (R304). -/
def State.newTags (s : State) (ctx : BitVec 12) (t : Training) : State :=
  let used (tag : Nat) : Bool := s.residents.any fun p => decide (p.ctx = ctx) && p.img.usesTag tag
  t.layers.foldl (fun s y =>
    match s.setOf ctx.toNat y.tag with
    | some i =>
      if used y.tag then s
      else s.modGauge i fun _ => { GaugeSet.reset with
        fmt := y.gfmt0, fx := y.fxexp0, gexpW := y.gexpW, gexpG := y.gexpG, gexpU := y.gexpU }
    | none => s) s

/-- Step 4 of R38 on one carrel: both caches invalidated (R119), NaN record empty, MORE with it, and TRAP_EN 0 (R215;
DESIGN CHOICE, log entry 69), CALL_MODE.FAST from the context (R152), descriptor caches filled (R373). The carrel
rests until its first work window (R39). -/
def State.takeCarrel (s : State) (slot : Nat) (ctx : BitVec 12) (c : Nat) : State :=
  let cc := BitVec.ofNat 12 c
  (s.modCarrel cc fun k =>
    { k.icInvalidate with
      dcache := [], nan := NanRec.reset, plan := some (BitVec.ofNat 8 slot), wait := .rest
      fast := Tab.get false s.seg.fast ctx.toNat }).fillCaches cc ctx

/-- The boundary at which a plan loaded now enters RUNNING (R53). -/
def State.runBoundary (s : State) (c : Cmd) : Word :=
  if s.tick.no < c.arg 1 then c.arg 1 else s.tick.no + 1

/-- The shelf stage and the acceptance of a plan. -/
def State.accept (s : State) (ctx : BitVec 12) (c : Cmd) (slot : Nat) (p : Plan) (x : PlanImage) : State :=
  let s := x.shelf.foldl (fun s ((k, d) : Nat × List Byte) => s.setBytes (shelfBase k) d) s
  let s := s.zeroRngs x.marginRngs
  let s := x.img.set.foldl (fun s k => s.takeCarrel slot ctx k) s
  let s := match x.img.training with | some t => s.newTags ctx t | none => s
  let s := s.putPlan slot { p with
    state := .ready, img := { s.followAll ctx.toNat x.img with uses := s.planUses ctx x.img }, fresh := true, digest := x.digest }
  s.ok ctx c (s.runBoundary c) (word slot)

/-- A load stops: XFER-STOP, the slot freed, the command ended with the status of the error (R569). -/
def State.loadStop (s : State) (ctx : BitVec 12) (c : Cmd) (err : RespErr) : State :=
  let slot := s.loadingSlot.map (·.1)
  let s := match errCode err with
    | some code => s.report { blankReport with
        code := 0x34, unit := 7, wtn := s.tick.wtn, context := ctx.setWidth 16, d0 := code
        d1 := match slot with | some i => word i | none => BitVec.allOnes 64 }
    | none => s
  let s := if slot.isSome then s.freeLoading 0 else s
  (s.forget (.loader ctx c.seq 0)).failCmd ctx c err

/-- The image at ARG0: its 256 B header, then all of it. A header that is no plan's is not read further. -/
def State.readImage (s : State) (ctx : BitVec 12) (c : Cmd) : Moved × List Byte :=
  let who := Requester.loader ctx c.seq 0
  match s.getRows who ctx 1 [(c.arg 0, 256)] [] with
  | (.err e s, _) => (.err e s, [])
  | (.ok s, h) =>
    if leAt h 0 4 = 0x4C443950 ∧ 256 ≤ imgLength h then s.getRows who ctx 1 [(c.arg 0, imgLength h)] []
    else (.ok s, h)

/-- The accesses of a load to its context's memory: the image, and the writes of a plan that the loader accepts. -/
def State.loadRows (s : State) (ctx : BitVec 12) (c : Cmd) : List (Word × Nat) :=
  match s.readImage ctx c with
  | (.err _ _, _) => []
  | (.ok s, b) => (c.arg 0, max 256 b.length) ::
    if (s.refusal ctx b).isNone then (planImage b).ownWrites.map fun x => (x.1, x.2.length) else []

/-- The loader's work on a begun load command, once its accesses have drawn their tokens (R38, R58, R346, R569). -/
def State.load (s : State) (ctx : BitVec 12) (c : Cmd) : State :=
  whenLet (s.rowsAsk (.loader ctx c.seq 0) ctx (s.loadRows ctx c)) fun s =>
  match s.readImage ctx c with
  | (.err e s, _) => s.loadStop ctx c e
  | (.ok s, b) =>
    match s.refusal ctx b with
    | some code => (if s.loadingSlot.isSome then s.freeLoading code else s).complete ctx.toNat c 1 code s.tick.no 0
    | none =>
      match s.loadingSlot with
      | none => s
      | some (slot, p) =>
        let x := planImage b
        match s.loadWrites ctx c.seq x.ownPieces with
        | .err e s => s.loadStop ctx c e
        | .ok s => s.accept ctx c slot p x

/-- The place of a command in the order of intake: its tick of taking, then the rotated number of its context (R72,
R428). -/
def Cmd.place (c : Cmd) (ctx : Nat) : Nat := c.tick.toNat * 4096 + (ctx + 4096 - c.tick.toNat % 4096) % 4096

/-- Whether a load command is the first that has not ended (R52): none of another context was taken before it, and none
of its own context stands before it. -/
def State.loadFirst (s : State) (ctx : BitVec 12) (c : Cmd) : Bool :=
  (s.host.ctxs.all fun x => decide (x.1 = ctx.toNat) || x.2.cmds.all fun y =>
    decide (y.op ≠ 8) || decide (c.place ctx.toNat < y.place x.1)) &&
  (s.earlier ctx.toNat c.seq).all fun y => decide (y.op ≠ 8)

/-- The loader takes one load at a time, in the order in which the intake unit took them (R52). -/
def execPlanLoad (ctx : BitVec 12) (seq : BitVec 32) (s : State) : Out :=
  .next (s.act ctx seq 8 fun c =>
    if c.stage = .waiting then
      if s.loadingSlot.isSome ∨ s.loadFirst ctx c = false then s
      else
        let s := s.loadBegin ctx c
        s.load ctx { c with stage := .ready }
    else match s.loadingSlot with
      | some (_, p) => if p.ctx = ctx ∧ p.imageVa = c.arg 0 then s.load ctx c else s
      | none => s.load ctx c)

/-- An error response to the loader's access `n`, counting the 64 B accesses of a load in order: reads of the
image, then writes of backing copies and load records, then of the shelf stage, whose bytes written so far are
zeroed (R569). -/
def execLoadStop (ctx : BitVec 12) (seq : BitVec 32) (n : Nat) (err : RespErr) (s : State) : Out :=
  .next (s.act ctx seq 8 fun c =>
    if c.stage = .waiting then s else
    match s.readImage ctx c with
    | (.err e s, _) => s.loadStop ctx c e
    | (.ok s, b) =>
      let reads := ceilDiv b.length 64
      if n < reads then s.loadStop ctx c err
      else if (s.refusal ctx b).isSome then s
      else
        let x := planImage b
        let own := x.ownPieces
        match s.loadWrites ctx seq (own.take (n - reads)) with
        | .err e s => s.loadStop ctx c e
        | .ok s => (s.zeroRngs (x.stagePieces.take (n - reads - own.length))).loadStop ctx c err)

/-! ### Plan commands (R53, R431) -/

/-- A plan command on the slot of ARG0: PLAN-STATE unless the slot holds a plan of the context in a state
that the command leaves; completed with the next boundary. -/
def State.planCmd (s : State) (ctx : BitVec 12) (seq : BitVec 32) (op : Nat) (may : Plan → Bool)
    (f : Plan → Plan) : State :=
  s.act ctx seq op fun c =>
    let i := (c.arg 0).toNat
    match s.plan i with
    | some p =>
      if p.ctx = ctx ∧ may p then (s.modPlan i f).ok ctx c (s.tick.no + 1) 0
      else s.complete ctx.toNat c 7 0 s.tick.no 0
    | none => s.complete ctx.toNat c 7 0 s.tick.no 0

def execPlanUnload (ctx : BitVec 12) (seq : BitVec 32) (s : State) : Out :=
  .next (s.planCmd ctx seq 9 (fun p => decide (p.state = .ready ∨ p.state = .running ∨ p.state = .suspended))
    fun p => { p with state := .unloading, resume := decide (p.state = .running) })

def execPlanSuspend (ctx : BitVec 12) (seq : BitVec 32) (s : State) : Out :=
  .next (s.planCmd ctx seq 0x0A (fun p => decide (p.state = .running)) fun p => { p with suspend := some 0x84 })

/-- A plan suspended with reason HALTED is never resumed (R466). -/
def execPlanResume (ctx : BitVec 12) (seq : BitVec 32) (s : State) : Out :=
  .next (s.planCmd ctx seq 0x0B (fun p => decide (p.state = .suspended ∧ p.reason ≠ 0x85)) fun p => { p with resume := true })

/-! ### Starting (R434) -/

/-- A taken command starts once every earlier command that touches its bytes has completed; a malformed one
ends with BAD-COMMAND. A load begins when no other load is under way; a COPY_D2H starts with its tick. -/
def execCommandStart (ctx : BitVec 12) (seq : BitVec 32) (s : State) : Out :=
  .next <|
    match s.cmd ctx.toNat seq with
    | none => s
    | some c =>
      if c.stage ≠ .waiting then s
      else if s.badCmd ctx.toNat c then s.complete ctx.toNat c 5 0 s.tick.no 0
      else if s.startable ctx c = false ∨ c.op = 3 then s
      else if c.op = 8 then (if s.loadingSlot.isSome ∨ s.loadFirst ctx c = false then s else s.loadBegin ctx c)
      else s.modCmd ctx.toNat seq fun x => { x with stage := .ready }

end Sys2Proof.Machine
end

