-- ==== Sys2Proof/Machine/Reliab.lean ====
section
/-!
DEFINITION. Substitution (R26 to R32, R459), failures of carrels and bay units (R31, R447, R461), the halt of
a context (R465, R466), the work of a recovery gap (R65, R458, R460), census snapshots (R468 to R470).
-/

namespace Sys2Proof.Machine

/-! ### Maps and spares (R24, R28, R32) -/

/-- A redirect entry of a die, with an ordered rewrite already counted: key die × 64 + i. -/
def State.redirectAt (s : State) (key : Nat) : BitVec 32 :=
  (Tab.get none s.map.redirectNext key).getD (Tab.get 0 s.map.redirect key)

/-- The redirect entries of a die that are in force or ordered: index and entry. -/
def State.redirects (s : State) (die : Nat) : List (Nat × BitVec 32) :=
  ((upto 64).map fun i => (i, s.redirectAt (die * 64 + i))).filter fun x => x.2.getLsbD 31

/-- The physical bay of a logical bay (die × 128 + bay), with an ordered substitution already counted. -/
def State.physSoon (s : State) (b : Nat) : Nat := (Tab.get none s.map.physNext b).getD (s.physBay b)

/-- The spare bays of a die: good physical bays that no logical bay maps to, ascending. -/
def State.spareBays (s : State) (die : Nat) : List Nat :=
  let mapped := (upto 128).map fun b => s.physSoon (die * 128 + b)
  (upto 132).filter fun p => !mapped.contains p && !s.map.badBays.contains (die * 132 + p)

/-- Whether a spare bay serves a redirect entry or holds a retired carrel (R32). -/
def State.serves (s : State) (die p : Nat) : Bool :=
  (s.redirects die).any (fun x => decide (fieldN x.2 12 8 = p)) ||
    s.map.badSlots.any fun x => decide (x / 16 = die * 132 + p)

/-- The free carrels of a spare bay, ascending. -/
def State.freeSlots (s : State) (die p : Nat) : List Nat :=
  (upto 16).filter fun k =>
    !(s.redirects die).any (fun x => decide (fieldN x.2 12 8 = p ∧ fieldN x.2 20 4 = k)) &&
      !s.map.badSlots.contains ((die * 132 + p) * 16 + k)

/-- The spare carrel that a redirect takes: physical bay and slot (R32). -/
def State.pickSpare (s : State) (die : Nat) : Option (Nat × Nat) :=
  let l := s.spareBays die
  match l.find? fun p => s.serves die p && !(s.freeSlots die p).isEmpty with
  | some p => some (p, (s.freeSlots die p).headD 0)
  | none => (l.find? fun p => !s.serves die p).map fun p => (p, 0)

/-- SPARE_BAYS of a die (R32). -/
def State.spareBayCount (s : State) (die : Nat) : Nat := ((s.spareBays die).filter fun p => !s.serves die p).length

/-- FREE_SPARE_CARRELS of a die (R32). -/
def State.spareCarrelCount (s : State) (die : Nat) : Nat := ((s.spareBays die).map fun p => (s.freeSlots die p).length).sum

/-- The value of a redirect entry (R28). -/
def redirectEntry (p slot c : Nat) : BitVec 32 := BitVec.ofNat 32 (2 ^ 31 + slot * 2 ^ 20 + p * 4096 + c)

/-- Orders the redirect of a failed carrel; `none` where no spare or no entry remains (R31, R32). A spare
carrel that served an entry is retired, and its entry rewritten. -/
def State.orderRedirect (s : State) (c : Nat) : Option State :=
  let die := c / 2048
  let old := (s.redirects die).find? fun x => decide (fieldN x.2 0 12 = c)
  let idx := match old with
    | some x => some x.1
    | none => (upto 64).find? fun i => !(s.redirectAt (die * 64 + i)).getLsbD 31
  let s := match old with
    | some x => { s with map := { s.map with
        badSlots := ((die * 132 + fieldN x.2 12 8) * 16 + fieldN x.2 20 4) :: s.map.badSlots } }
    | none => s
  match idx, s.pickSpare die with
  | some i, some (p, slot) =>
    some { s with
      map := { s.map with
        redirectNext := Tab.set none s.map.redirectNext (die * 64 + i) (some (redirectEntry p slot c)) }
      keepers := { s.keepers with count := { s.keepers.count with substitutions := s.keepers.count.substitutions + 1 } } }
  | _, _ => none

/-! ### Failures (R31, R447, R461, R464) -/

/-- The record of a missing spare (R31). -/
def State.noSpare (s : State) (die : Nat) : State :=
  s.report { blankReport with code := 0x12, unit := 6, unitno := (bit s.keepers.active).setWidth 16, wtn := s.tick.wtn, d0 := word die }

/-- Contexts due to be halted at the next boundary (R465). -/
def State.haltSoon (s : State) (ctxs : List Nat) (cause num : Nat) : State :=
  { s with tick := { s.tick with haltDue := s.tick.haltDue ++ ctxs.eraseDups.map fun c => (c, cause, some num) } }

/-- A carrel fails: it stops, its tick does not commit, and the keeper orders a spare or halts the context
of its plan (R31, R449, R459, R465). Without a keeper nothing is substituted (R464). -/
def State.carrelFails (s : State) (c : BitVec 12) (why : Nat) : State :=
  let s := { s with halts := s.halts.filter fun x => decide (x ≠ c) }
  let s := (s.stopCarrel c).modCarrel c fun k => { k with queue := [] }
  let ctxs := match s.planOf c with | some (_, p) => [p.ctx.toNat] | none => []
  let num := s.reportNum
  let rep (disp : Nat) (s : State) : State :=
    s.report { s.carrelReport c 0x10 0 with d0 := word why, disp := BitVec.ofNat 8 disp }
  if s.keepers.none_ then rep 4 s
  else match s.orderRedirect c.toNat with
    | some t =>
      let t := rep (if ctxs.isEmpty then 1 else 3) t
      { t with tick := { t.tick with lostBy := (shelfBase c.toNat / 8, num) :: t.tick.lostBy } }
    | none => ((rep (if ctxs.isEmpty then 0 else 5) s).noSpare (c.toNat / 2048)).haltSoon ctxs 4 num

def execCarrelFailure (c : BitVec 12) (why : BitVec 8) (s : State) : Out := .next (s.carrelFails c why.toNat)

/-- The keeper treats the carrels that have halted in rescue state, and those with a repeated word, as carrel failures
(R166, R459). -/
def State.treatHalts (s : State) : State :=
  let s := s.halts.foldl (fun s c => s.carrelFails c 2) s
  s.tick.failDue.foldl (fun s x => s.carrelFails x.1 x.2) { s with tick := { s.tick with failDue := [] } }

/-- The contexts whose resident plans use a bay (R31). -/
def State.bayCtxs (s : State) (b : Nat) : List Nat :=
  (s.residents.filter fun p => p.img.set.any (fun c => decide (c / 16 = b)) || p.img.rowEng.contains b ||
    p.img.folio.contains b || Tab.get 0 p.img.margin b != 0 ||
    (upto 8).any fun ch => Tab.get 0 p.img.mover (b * 8 + ch) != 0).map fun p => p.ctx.toNat

/-- A bay unit fails: the logical bay is mapped to a whole spare bay where one is left, and the contexts that
use the bay are halted (R31, R32, R465). -/
def State.bayFails (s : State) (b unit : Nat) : State :=
  let die := b / 128
  let ctxs := s.bayCtxs b
  let num := s.reportNum
  let s := s.report { blankReport with
    code := 0x11, unit := 1, unitno := BitVec.ofNat 16 b, wtn := s.tick.wtn, d0 := word unit
    disp := if ctxs.isEmpty then 1 else 5 }
  if s.keepers.none_ then { s with tick := { s.tick with suspendDue := s.tick.suspendDue ++
      ((s.plans.filter fun x => x.2.present && ctxs.contains x.2.ctx.toNat).map fun x => (x.1, (0x81 : BitVec 8))) } }
  else
    let s := s.haltSoon ctxs 3 num
    match (s.spareBays die).find? fun p => !s.serves die p with
    | some p => { s with map := { s.map with
        badBays := (die * 132 + s.physSoon b) :: s.map.badBays
        physNext := Tab.set none s.map.physNext b (some p) } }
    | none => { s with map := { s.map with badBays := (die * 132 + s.physSoon b) :: s.map.badBays } }.noSpare die

/-- DESIGN CHOICE (log entry 38). -/
def execBayunitFail (bay : BitVec 8) (unit : BitVec 8) (s : State) : Out := .next (s.bayFails bay.toNat unit.toNat)

/-! ### Substitutions take effect (R29, R215, R373, R459, R460) -/

/-- A spare carrel stands in for a carrel: its own memory as it was left at reset, the shelf bytes with a
valid backing reloaded, its caches filled and its NaN record empty. DEDUCED (log entry 59). -/
def State.freshCarrel (s : State) (c : Nat) : State :=
  let cc := BitVec.ofNat 12 c
  let k := s.carrel cc
  let s := (s.zeroRange (shelfBase c) shelfSize).zeroRange (ledgerBase c) 0x8000
  let s := s.setCarrel cc { Carrel.reset with icInit := false, dcInit := false, plan := k.plan, ctx := k.ctx, fast := k.fast, wait := .rest }
  match k.plan with
  | some _ => (upto shelfSize).foldl (fun s o => s.restoreByte c o none) (s.fillCaches cc k.ctx)
  | none => s

/-- Ordered redirects and bay maps take effect in the first cycle of an intake window (R29). A bay that moves
to a spare bay has the spare's memory. DEDUCED (log entry 39). -/
def State.mapEffect (s : State) : State :=
  let s := s.map.redirectNext.foldl (fun s ((k, e) : Nat × Option (BitVec 32)) => match e with
    | some e =>
      let s := { s with map := { s.map with redirect := Tab.set 0 s.map.redirect k e } }
      s.freshCarrel (fieldN e 0 12)
    | none => s) s
  let s := s.map.physNext.foldl (fun s ((b, p) : Nat × Option Nat) => match p with
    | some p =>
      let s := { s with map := { s.map with phys := Tab.set 0 s.map.phys b (p + 1) } }
      let s := s.zeroRange (marginBase b) 0x10000
      ((upto 16).filter fun i => (s.redirectOf (b * 16 + i)).isNone).foldl (fun s i => s.freshCarrel (b * 16 + i)) s
    | none => s) s
  { s with map := { s.map with redirectNext := [], physNext := [] } }

/-! ### Halting contexts (R465, R466) -/

/-- A plan is suspended (R53, R439) at plan tick `k`: its carrels stop and keep all state. -/
def State.suspendPlan (s : State) (i : Nat) (reason : BitVec 8) (k : Nat) : State :=
  match s.plan i with
  | none => s
  | some p =>
    let s := s.modPlan i fun p => { p with
      state := .suspended, reason := reason, k := k, ran := [], suspend := none, resume := false, links := [], joined := [] }
    let s := s.modCarrels p.img.set fun k => { k with wait := .rest, queue := [], wd := { k.wd with run := false } }
    s.raiseCtx p.ctx.toNat

/-- A context is halted: every plan of it goes to SUSPENDED with reason HALTED, and the CTX-HALT record is
written (R466). -/
def State.haltCtx (s : State) (ctx cause : Nat) (num : Option Nat) : State :=
  let s := s.plans.foldl (fun s ((i, p) : Nat × Plan) =>
    if p.ctx.toNat = ctx ∧ (p.state = .ready ∨ p.state = .running ∨ p.state = .suspended) then s.suspendPlan i 0x85 p.k
    else s) s
  let s := { s with keepers := { s.keepers with count := { s.keepers.count with halted := s.keepers.count.halted + 1 } } }
  let d1 : Word := match num with | some _ => 0 | none => BitVec.allOnes 64
  s.report { blankReport with
    code := 0x51, unit := 5, disp := 5, wtn := s.tick.wtn, context := BitVec.ofNat 16 ctx, d0 := word cause, d1 := d1 } num

/-- The halts decided since the last boundary, each context once, the first cause standing. -/
def State.haltAll (s : State) : State :=
  let l := s.tick.haltDue.foldl (fun (l : List (Nat × Nat × Option Nat)) x =>
    if l.any fun y => decide (y.1 = x.1) then l else l ++ [x]) []
  l.foldl (fun s ((c, cause, num) : Nat × Nat × Option Nat) => s.haltCtx c cause num)
    { s with tick := { s.tick with haltDue := [] } }

/-! ### The work of a gap (R65, R458, R460) -/

/-- The plan tick that a plan ran in work tick `w`, if it ran it lately. -/
def Plan.ranAt (p : Plan) (w : Word) : Option Nat := (p.ran.find? fun x => decide (x.1 = w)).map (·.2)

/-- The plan tick that a plan runs next: after the one it ran last, or the one it stands at. -/
def Plan.nextK (p : Plan) : Nat := match p.ran with | [] => p.k | (_, k) :: _ => (k + 1) % max 1 p.img.period

/-- Whether a lost byte that a plan tick reads cannot be restored: no valid backing, no snapshot (R65). -/
def State.unreplayable (s : State) (p : Plan) (k : Nat) (a : Nat) : Bool :=
  let pa := s.ownChip.toNat * 2 ^ 44 + a
  let mine (f : RwRange → Bool) : Bool := p.img.rwset.any fun r => decide (r.ptick = k) && f r && s.rangeHolds p.ctx r pa
  mine (·.read) && !mine (·.inplace) &&
    (match regionOf a with | .shelf c o => (s.backingOf c o).isNone | .ledger _ _ => false | _ => true)

/-- The carrels that a spare replaces at the next intake window (R29): their shelves hold only what a valid backing
gives (R460). -/
def State.freshCarrels (s : State) : List Nat :=
  s.map.redirectNext.filterMap (fun ((_, e) : Nat × Option (BitVec 32)) => e.map fun e => fieldN e 0 12) ++
  s.map.physNext.flatMap fun ((b, p) : Nat × Option Nat) => match p with
    | some _ => ((upto 16).map fun i => b * 16 + i).filter fun c => (s.redirectOf c).isNone
    | none => []

/-- Whether plan tick `k` reads a byte of a replaced carrel's shelf that nothing restores (R65, R460). -/
def State.freshLoss (s : State) (p : Plan) (k c : Nat) : Bool :=
  p.img.rwset.any fun r => r.read && decide (r.ptick = k) &&
    match s.recTrans p.ctx r.va 1 0 with
    | some (pa, _) => s.isLocal pa && (match regionOf (localOf pa) with
      | .shelf d _ => decide (d = c) && (upto r.len).any fun i => s.unreplayable p k (localOf pa + i)
      | _ => false)
    | none => false

/-- The contexts that step 1 of a gap halts for a lost byte, with the report of the loss (R65, R465). -/
def State.lostHalts (s : State) : List (Nat × Nat × Option Nat) :=
  (s.lost.flatMap fun ((w, _) : Nat × Bool) =>
    (s.plans.filter fun x => decide (x.2.state = .running) && s.tick.toReplay.any fun t =>
      match x.2.ranAt t with
      | some k => (upto 8).any fun i => s.unreplayable x.2 k (8 * w + i)
      | none => false).map fun x =>
      (x.2.ctx.toNat, 1, (s.tick.lostBy.find? fun y => decide (y.1 = w)).map (·.2))) ++
  (s.freshCarrels.flatMap fun c =>
    (s.plans.filter fun x => decide (x.2.state = .running) && s.tick.toReplay.any fun t =>
      match x.2.ranAt t with
      | some k => s.freshLoss x.2 k c
      | none => false).map fun x =>
      (x.2.ctx.toNat, 1, (s.tick.lostBy.find? fun y => decide (y.1 = shelfBase c / 8)).map (·.2)))

/-- Step 3: shelf words that were lost are reloaded byte by byte from their backing; shelf, ledger and margin
words hold a value again. -/
def State.reloadLost (s : State) : State :=
  let s := s.lost.foldl (fun s ((w, _) : Nat × Bool) => match regionOf (8 * w) with
    | .shelf c o => (upto 8).foldl (fun s i => s.restoreByte c (o + i) none) s
    | _ => s) s
  { s with lost := s.lost.filter fun x => decide (8 * x.1 < 0x0C000000000) }

/-- The gap's work in order (R458). -/
def State.gapWork (s : State) : State :=
  let s := { s with tick := { s.tick with haltDue := s.tick.haltDue ++ s.lostHalts } }
  let s := s.haltAll.reloadLost
  let n := s.tick.toReplay.length
  let s := s.report { blankReport with
    code := 0x52, unit := 6, unitno := (bit s.keepers.active).setWidth 16, disp := 2
    wtn := s.tick.toReplay.headD s.tick.wtn, d0 := s.tick.toReplay.headD s.tick.wtn, d1 := word n }
  let c := s.keepers.count
  { s with keepers := { s.keepers with count := { c with
      gaps := c.gaps + 1, replayed := c.replayed + BitVec.ofNat 32 n } } }

/-! ### Census snapshots (R468 to R470) -/

/-- The snapshot of boundary `b`: the counters of every unit in the bank not completed most recently. The
census then clears WD_MAX (R68) and begins a period of corrected errors (R448). -/
def State.snapshot (s : State) (b : Word) : State :=
  let e := !s.census.newest
  let bank : Bank2 :=
    { tag := b, done := false, chip := s.ownChip, period := s.census.period, carrels := s.carrels
      bays := s.census.bays, hbm := s.hbm, links := s.links, ctxs := s.host.ctxs, gauges := s.gauges
      keeper := s.keepers.count, ringHead := s.census.ring.head, ringLost := s.census.ring.lost, nan := s.census.nan
      power := s.power }
  let s := { s with census := { s.census with
    newest := e, due := s.census.due.filter fun x => decide (x ≠ b)
    now := if s.census.now = some b then none else s.census.now
    bankA := if e then s.census.bankA else some bank, bankB := if e then some bank else s.census.bankB } }
  let s := s.modCarrels (s.carrels.map (·.1)) fun k => { k with wd := { k.wd with max := 0 } }
  (upto 8).foldl (fun s i => s.modStack i fun k => { k with corrPeriod := 0 }) s

/-- The announcements of a boundary: the tick master announces a period's boundary two ticks ahead (R468). -/
def State.census2 (s : State) : State :=
  let p := s.census.period.toNat
  let b := s.tick.no + 2
  if s.slave ∨ p = 0 ∨ b.toNat % p ≠ 0 ∨ s.census.due.contains b then s
  else s.downLinks.foldl (fun s l => s.sendOn l (strobeItem s.ownChip b) 2) (s.announce b)

end Sys2Proof.Machine
end

