-- ==== Sys2Proof/Machine/Tick.lean ====
section
/-!
DEFINITION. The tick: boundary, commit and confirmation, recovery and replay, suspension, the intake window,
the start of the work window, the late check (R39 to R45, R53, R59 to R73, R136, R428), and the status and
verdict of a chain (R62, R63, R406).
-/

namespace Sys2Proof.Machine

/-! ### What the ended tick came to (R61, R66, R69, R70) -/

/-- Whether planned work of a plan ran in the tick that ends. -/
def Plan.ranNow (p : Plan) : Bool := !p.fresh && (decide (p.state = .running) || (decide (p.state = .unloading) && p.resume))

/-- Running plans that ran in the tick, with their slots. -/
def State.ranPlans (s : State) : List (Nat × Plan) := s.plans.filter fun x => x.2.ranNow

/-- Whether a link replayed, dropped a lane or began RETRAIN in the tick (R398). -/
def State.linkEv (s : State) : Bool := s.links.any fun x => x.2.evTick

/-- Whether a plan has an absorbed fault in the tick; without a keeper none is absorbed (R61, R464). -/
def State.planFault (s : State) (p : Plan) : Bool := p.uncorr && !s.keepers.none_

/-- The suspension reason that the tick gives a plan, if any; `ev`: LINKEV makes a LATE event absorbed. A plan whose
tick an absorbed fault stopped is recovered and not suspended for what that stop left undone (R64; DEDUCED, log
entry 58). -/
def State.planBad (s : State) (ev : Bool) (p : Plan) : Option (BitVec 8) :=
  if p.overrun then some 0x80
  else if (p.late && !ev && !s.planFault p) || (p.uncorr && s.keepers.none_) then some 0x81
  else none

/-- The contexts that the tick leaves unconfirmed, each with its reason (R70). -/
def State.badCtxs (s : State) (ev : Bool) : List (Nat × BitVec 8) :=
  s.ranPlans.foldl (fun (l : List (Nat × BitVec 8)) ((_, p) : Nat × Plan) =>
    match s.planBad ev p with
    | none => l
    | some r =>
      let c := p.ctx.toNat
      match l.find? fun x => decide (x.1 = c) with
      | some y => if r < y.2 then l.map fun x => if x.1 = c then (c, r) else x else l
      | none => l ++ [(c, r)]) []

/-- The OVERRUN records of the tick, written when its contexts are suspended (R70, R452). -/
def State.overReports (s : State) : List Report :=
  s.ranPlans.flatMap fun ((_, p) : Nat × Plan) =>
    (p.img.set.filter fun c => (s.carrel (BitVec.ofNat 12 c)).wd.ovr).map fun c =>
      let k := s.carrel (BitVec.ofNat 12 c)
      { s.carrelReport (BitVec.ofNat 12 c) 0x30 0 with
        disp := 4, d0 := k.wd.phase.setWidth 64, d1 := k.wd.budget.setWidth 64 }

/-- Whether a plan's tick commits (R61). A context whose plans do not all commit counts the tick once they all have.
DEDUCED (log entry 36). -/
def State.commits (s : State) (bad : List (Nat × BitVec 8)) (p : Plan) : Bool :=
  !p.overrun && !p.late && !p.uncorr && (p.img.set.all fun c => (s.carrel (BitVec.ofNat 12 c)).ended) &&
    !bad.any fun x => decide (x.1 = p.ctx.toNat)

/-! ### Confirmation (R62, R298, R305, R309) -/

/-- A context's pending banks of a work tick are discarded (R298). -/
def State.gaugeDropCtx (s : State) (ctx : Nat) (w : Word) : State :=
  (s.setsOf ctx).foldl (fun s i => s.modGauge i fun x => { x with pend := x.pend.filter fun p => decide (p.1 ≠ w) }) s

/-- The contexts that ran in a work tick, each with whether its STEP_END ran, are noted as the tick ends: a plan may be
unloaded before the tick is confirmed (R62, R305). -/
def State.noteRan (s : State) : State :=
  let l := s.ranPlans.map fun x => (x.2.ctx.toNat, match x.2.img.training with
    | some t => decide (x.2.k = t.stepEnd) | none => false)
  let new := (l.map (·.1)).eraseDups.map fun c => (s.tick.wtn, c, l.any fun x => decide (x.1 = c) && x.2)
  { s with tick := { s.tick with ranCtxs := new ++ s.tick.ranCtxs.filter fun x => decide (x.1 ≠ s.tick.wtn) } }

/-- The contexts of a work tick are no longer to be confirmed, all of them or those of a list. -/
def State.unnote (s : State) (w : Word) (ctxs : Option (List Nat)) : State :=
  let keep (x : Word × Nat × Bool) : Bool :=
    decide (x.1 ≠ w) || (match ctxs with | some l => !(l.contains x.2.1) | none => false)
  { s with tick := { s.tick with ranCtxs := s.tick.ranCtxs.filter keep } }

/-- Work tick `w` is confirmed for one context (R298, R305, R309): its banks merge, a step that ended in it closes,
the old values of followed fields go, and a plan suspended since goes on with its next plan tick (R53). -/
def State.confirmCtx (s : State) (w : Word) (vals : Nat → SetSum) (c : Nat) (closes : Bool) : State :=
  let s := s.gaugeMerge c w
  let s := if closes && (s.trainCtx c).en then s.stepClose c w vals else s
  let go (p : Plan) : Plan :=
    let p := { p with prevLists := match p.prevLists with
      | some (a, l) => if a ≤ w then none else some (a, l)
      | none => none }
    if p.state = .suspended ∧ p.ranAt w = some p.k then { p with k := p.nextK, ran := [] } else p
  { s with plans := s.plans.map fun (x : Nat × Plan) => (x.1, if x.2.ctx.toNat = c then go x.2 else x.2) }

/-- Work tick `w` is confirmed for every context that ran in it but those in `bad`, whose pending banks go; `vals`
are the combined values of each set (R298, R305, R306). -/
def State.confirm (s : State) (w : Word) (bad : List (Nat × BitVec 8)) (vals : Nat → SetSum) : State :=
  let ran := s.tick.ranCtxs.filter fun x => decide (x.1 = w)
  let s := ran.foldl (fun s ((_, c, e) : Word × Nat × Bool) =>
    if bad.any fun x => decide (x.1 = c) then s.gaugeDropCtx c w else s.confirmCtx w vals c e) s
  s.unnote w none

/-- Every plan of the contexts of a tick that stays unconfirmed is suspended, at the plan tick that did not confirm
(R70). -/
def State.suspendCtxs (s : State) (bad : List (Nat × BitVec 8)) (at_ : Plan → Nat) : State :=
  s.plans.foldl (fun s ((i, p) : Nat × Plan) =>
    match bad.find? fun x => decide (x.1 = p.ctx.toNat) with
    | some x => if p.state = .running ∨ p.state = .ready then s.suspendPlan i x.2 (at_ p) else s
    | none => s) s

/-- The ended tick's commits (R61): every committing plan moves on, and its context counts it. -/
def State.commitAll (s : State) (bad : List (Nat × BitVec 8)) : State :=
  s.ranPlans.foldl (fun s ((_, p) : Nat × Plan) =>
    if s.commits bad p then s.modHctx p.ctx.toNat fun h => { h with committed := h.committed + 1 } else s) s

/-! ### Status and verdict of a chain (R406) -/

/-- The status of the tick that ends. -/
def State.ownStatus (s : State) : Status :=
  let ran := s.ranPlans
  { tick := word (s.tick.no.toNat % 2 ^ 32)
    fail := ran.any fun x => s.planFault x.2
    late := ran.any fun x => x.2.late || (x.2.uncorr && s.keepers.none_)
    linkev := s.linkEv, recover := false
    ctxs := ((ran.filter fun x => x.2.overrun || x.2.late || (x.2.uncorr && s.keepers.none_)).map fun x => x.2.ctx.toNat).eraseDups
    sets := (upto s.statusSets).map fun i => s.sectionSum i s.tick.wtn }

/-- Two statuses combined: flags and maps ORed, sets as R306 states. -/
def Status.combine (a b : Status) : Status :=
  { tick := a.tick, fail := a.fail || b.fail, late := a.late || b.late, linkev := a.linkev || b.linkev
    recover := a.recover || b.recover, ctxs := (a.ctxs ++ b.ctxs).eraseDups
    sets := (upto (max a.sets.length b.sets.length)).map fun i =>
      (a.sets.getD i SetSum.zero).combine (b.sets.getD i SetSum.zero) }

/-- The five units of a set. -/
def SetSum.units (x : SetSum) : List Word :=
  [x.sumsq.extractLsb' 0 64, x.sumsq.extractLsb' 64 64, x.count, x.amax, x.nonfin.setWidth 64]

/-- The fragment of a status or verdict, which fills STATUS_FLITS flits. -/
def State.statusItem (s : State) (verdict : Bool) (x : Status) : Item :=
  let u1 : Word := 0xFFFF#64 ||| place (bit x.fail) 16 ||| place (bit x.late) 17 ||| place (bit x.linkev) 18 |||
    place (bit verdict) 19 ||| place (bit x.recover) 20 ||| word (x.tick.toNat % 2 ^ 32 * 2 ^ 32)
  let map := (upto 64).map fun w => word ((upto 64).foldl (fun n i => if x.ctxs.contains (64 * w + i) then n + 2 ^ i else n) 0)
  let l := itemHdr 9 s.ownChip 0 0 0 true 0 false false :: u1 :: map ++ x.sets.flatMap SetSum.units
  l ++ List.replicate (29 * s.statusFlits - l.length) 0

/-- A status or verdict from its fragment. -/
def statusOf (i : Item) : Status :=
  let u := i.unit 1
  { tick := word (fieldN u 32 32), fail := u.getLsbD 16, late := u.getLsbD 17, linkev := u.getLsbD 18
    recover := u.getLsbD 20
    ctxs := (upto 4096).filter fun c => (i.unit (2 + c / 64)).getLsbD (c % 64)
    sets := (upto ((i.length - 66) / 5)).map fun k =>
      let b := 66 + 5 * k
      { sumsq := i.unit (b + 1) ++ i.unit b, count := i.unit (b + 2), amax := i.unit (b + 3)
        nonfin := (i.unit (b + 4)).setWidth 32 } }

/-- The verdict of a combined status: RECOVER for an absorbed fault, or where a status is missing. -/
def verdictOf (x : Status) (missing : Bool) : Status := { x with recover := x.fail || (x.late && x.linkev) || missing }

/-- The tick master's verdict goes down the tree and holds here (R406). -/
def State.sendVerdict (s : State) (x : Status) : State :=
  let s := { s with chain := { s.chain with verdict := some x } }
  s.downLinks.foldl (fun s l => s.sendOn l (s.statusItem true x) 2) s

/-- Once the statuses of all children are here, the combined status goes up, or the verdict down. -/
def State.statusReady (s : State) : State :=
  match s.chain.own with
  | none => s
  | some own =>
    if s.chain.verdict.isNone && s.downLinks.all fun l => s.chain.statuses.any fun x => decide (x.1 = l) then
      let all := s.chain.statuses.foldl (fun a x => a.combine x.2) own
      if s.chain.live.master then s.sendVerdict (verdictOf all false)
      else s.sendOn s.chain.live.up.toNat (s.statusItem false all) 2
    else s

/-- A received fragment of a status (`v` false) or verdict, oldest first. -/
def State.takeStatus (s : State) (l : Nat) (v : Bool) : Option (Status × State) :=
  (s.takeRx l fun i => decide (i.kind = 9) && decide (fieldN (i.unit 1) 0 16 = 0xFFFF) && ((i.unit 1).getLsbD 19 == v)).map
    fun ((i, s) : Item × State) => (statusOf i, s)

/-- A status for the tick before arrives from a child (R406). -/
def execTickStatus (l : Fin 12) (s : State) : Out :=
  .next <|
    match s.takeStatus l.val false with
    | none => s
    | some (x, s) =>
      if s.downLinks.contains l.val && (match s.chain.own with | some o => decide (o.tick = x.tick) | none => false) then
        { s with chain := { s.chain with statuses := s.chain.statuses ++ [(l.val, x)] } }.statusReady
      else s

/-- The verdict of the tick before arrives from above and is passed on (R406). -/
def execVerdict (l : Fin 12) (s : State) : Out :=
  .next <|
    match s.takeStatus l.val true with
    | none => s
    | some (x, s) =>
      if s.slave && decide (s.chain.live.up.toNat = l.val) &&
          (match s.chain.own with | some o => decide (o.tick = x.tick) | none => false) then s.sendVerdict x
      else s

/-- The latest sending time: statuses that are missing make the verdict RECOVER (R406). -/
def execVerdictDeadline (s : State) : Out :=
  .next <|
    match s.chain.own with
    | none => s
    | some own =>
      if s.chain.live.master && s.chain.verdict.isNone then
        s.sendVerdict (verdictOf (s.chain.statuses.foldl (fun a x => a.combine x.2) own) true)
      else s

/-! ### The end of a tick -/

/-- A replay that ran under the previous values of followed fields puts the new ones back (R309). -/
def State.swapBack (s : State) : State :=
  if s.tick.replay then
    { s with plans := s.plans.map fun x => (x.1, match x.2.prevLists with
        | some (a, l) => if x.2.ranNow && decide (s.tick.wtn < a) then
            { x.2 with prevLists := some (a, x.2.img.lists), img := { x.2.img with lists := l } } else x.2
        | none => x.2) }
  else s

/-- Recovery begins: the named work ticks are replayed after a gap, and their pending gauges go (R64, R298).
DEDUCED (log entry 58). -/
def State.recover (s : State) (ws : List Word) : State :=
  let s := ws.foldl (fun s w => (s.gaugeDrop w).unnote w none) s
  { s with tick := { s.tick with toReplay := ws, replay := false } }

/-- The end of a tick on a module that stands alone: the state, and whether a gap follows (R61, R62, R64, R70). The
contexts of the plans that an absorbed fault touched are replayed; the others commit and confirm the tick, and their
plans stand at the next plan tick, which does not run until the replay is done. The tick counts as confirmed for the
host once every context has confirmed it. DEDUCED (log entry 36). -/
def State.endAlone (s : State) : State × Bool :=
  let ev := s.linkEv
  let bad := s.badCtxs ev
  let w := s.tick.wtn
  let owe := ((s.ranPlans.filter fun x => s.planFault x.2 || (x.2.late && ev)).map fun x => x.2.ctx.toNat).eraseDups.filter
    fun c => !bad.any fun x => decide (x.1 = c)
  let wait := bad ++ owe.map fun c => (c, (0 : BitVec 8))
  let recs := s.overReports
  let s := s.noteRan
  let s := (s.commitAll wait).confirm w wait fun i => s.sectionSum i w
  let s := if owe.isEmpty then { s with tick := { s.tick with confirmed := w.toNat + 1 } }
    else { s.recover [w] with plans := s.plans.map fun (x : Nat × Plan) =>
      (x.1, if x.2.ranNow && !owe.contains x.2.ctx.toNat then { x.2 with k := x.2.nextK, ran := [] } else x.2) }
  let s := s.suspendCtxs bad fun p => p.k
  (recs.foldl (fun s r => s.report r) s, !owe.isEmpty)

/-- The end of a tick in a chain: the verdict of the tick before decides, then this tick's status is made
(R63, R406). A context that another module names is LATE unless no module was. -/
def State.endChain (s : State) : State × Bool :=
  let w := s.tick.wtn
  let last := s.tick.wtnLast
  let close (s : State) (bad : List (Nat × BitVec 8)) : State :=
    let own := s.ownStatus
    let recs := s.overReports
    let mine := s.badCtxs false
    let s := (s.commitAll (bad ++ mine)).noteRan
    { s with
      chain := { s.chain with own := some own, verdict := none, statuses := [] }
      tick := { s.tick with badLast := mine, overDue := recs } }
  match s.chain.own with
  | none => (close s [], false)
  | some _ =>
    match s.chain.verdict with
    | none =>
      let s := s.plans.foldl (fun s ((i, p) : Nat × Plan) =>
        if p.state = .running then s.suspendPlan i 0x83 ((p.ranAt last).getD p.k) else s) s
      let s := [last, w].foldl (fun s w => (s.gaugeDrop w).unnote w none) s
      ({ s with chain := { s.chain with own := none, statuses := [] } }, false)
    | some v =>
      if v.recover then
        let s := s.recover (if last = w then [w] else [last, w])
        ({ s with chain := { s.chain with own := none, verdict := none, statuses := [] } }, true)
      else
        let bad := v.ctxs.map fun c =>
          (c, ((s.tick.badLast.find? fun x => decide (x.1 = c)).map (·.2)).getD (if v.late then 0x81 else 0x80))
        let recs := s.tick.overDue
        let s := s.confirm last bad fun i => (v.sets[i]?).getD (s.sectionSum i last)
        let s := { s with tick := { s.tick with confirmed := last.toNat + 1 } }
        let s := bad.foldl (fun s x => s.gaugeDropCtx x.1 w) s
        let s := (close s bad).unnote w (some (bad.map (·.1)))
        let s := s.suspendCtxs bad fun p => (p.ranAt last).getD p.k
        (recs.foldl (fun s r => s.report r) s, false)

/-! ### Boundary work of the plans (R42, R53) -/

/-- A plan's carrels and bay units are released; with scrub in force their memory is zeroed (R53, R491). -/
def State.releasePlan (s : State) (i : Nat) (p : Plan) : State :=
  let f := s.func (.ctx p.ctx)
  let s := if f.state = 3 ∧ f.scrub then
      let s := p.img.set.foldl (fun s c => (s.zeroRange (shelfBase c) shelfSize).zeroRange (ledgerBase c) 0x8000) s
      p.img.margin.foldl (fun s ((b, w) : Nat × Nat) => s.zeroRange (marginBase b + 16 * (w / 65536)) (16 * (w % 65536))) s
    else s
  let s := s.modCarrels p.img.set fun k =>
    { k with plan := none, wait := .rest, queue := [], power := .doze, waking := false, wd := { k.wd with run := false } }
  s.putPlan i Plan.blank

/-- Releases of a boundary, then the plans of STOPPING contexts go to UNLOADING (R53, R523). -/
def State.unloads (s : State) : State :=
  let s := s.plans.foldl (fun s ((i, p) : Nat × Plan) => if p.state = .unloading then s.releasePlan i p else s) s
  { s with plans := s.plans.map fun x =>
      (x.1, if (x.2.state = .ready ∨ x.2.state = .running ∨ x.2.state = .suspended) ∧ (s.func (.ctx x.2.ctx)).state = 3 then
        { x.2 with state := .unloading, resume := decide (x.2.state = .running) } else x.2) }

/-- The plan tick with which a plan suspended at this boundary goes on: the first that is not confirmed (R53). In a
chain the tick that has just ended awaits its verdict: the plan keeps it in `ran` until then. -/
def State.resumeAt (s : State) (p : Plan) : Nat × List (Word × Nat) :=
  match s.tick.toReplay.findSome? p.ranAt with
  | some k => (k, [])
  | none =>
    match s.chain.up, p.ranAt s.tick.wtnLast with
    | true, some k => (k, [(s.tick.wtnLast, k)])
    | _, _ => (p.nextK, [])

/-- Suspensions that wait for the boundary: by command, by ALIGN-LOST, and by a change of tick length, which takes in
a plan that is suspended already unless it is HALTED (R42, R45, R53). With ALIGN_LOST the module leaves the chain until a
set-up or join. DEDUCED (log entry 94). -/
def State.suspends (s : State) (changed : Bool) : State :=
  let due := s.tick.suspendDue
  let lost := s.tick.alignDue
  let s := s.plans.foldl (fun s ((i, p) : Nat × Plan) =>
    let odd := changed && decide (p.img.tickLen ≠ s.tick.len.toNat)
    let r : Option (BitVec 8) :=
      if lost then some 0x83 else match due.find? fun x => decide (x.1 = i) with
      | some x => some x.2
      | none => if odd then some 0x82 else p.suspend
    match r with
    | some r =>
      if p.state = .running ∨ (p.state = .ready ∧ r ≠ 0x84) then
        (s.suspendPlan i r (s.resumeAt p).1).modPlan i fun q => { q with ran := (s.resumeAt p).2 }
      else if p.state = .suspended ∧ odd ∧ p.reason ≠ 0x85 then
        s.modPlan i fun q => { q with reason := 0x82, resume := false }
      else s
    | none => s) s
  let s := if lost then { s with chain := { s.chain with up := false, own := none, verdict := none, statuses := [] } } else s
  { s with tick := { s.tick with suspendDue := [], alignDue := false } }

/-- Starts and resumes of a boundary (R53). A plan built for another tick length stays suspended (R42; DEDUCED, log
entry 77). -/
def State.starts (s : State) : State :=
  { s with plans := s.plans.map fun x =>
      let p := x.2
      (x.1,
        if decide (p.state = .ready) && (match p.start with | some b => decide (b ≤ s.tick.no) | none => true) then
          { p with state := .running, startTick := s.tick.no, ran := [], fresh := true }
        else if p.state = .suspended ∧ p.resume ∧ p.img.tickLen ≠ s.tick.len.toNat then
          { p with reason := 0x82, resume := false }
        else if p.state = .suspended ∧ p.resume then
          { p with state := .running, reason := 0, startTick := s.tick.no, ran := [], resume := false, fresh := true }
        else p) }

/-! ### The intake unit (R426 to R430, R442) -/

/-- The next sequence number, skipping 0. -/
def seqNext (q : BitVec 32) : BitVec 32 := if q + 1 = 0 then 1 else q + 1

/-- The `n` sequence numbers from one on. -/
def seqRun (q : BitVec 32) : Nat → List (BitVec 32)
  | 0 => []
  | n + 1 => q :: seqRun (seqNext q) n

/-- The 256 bytes of a slot of a page. -/
def State.slotBytes (s : State) (ctx slot : Nat) : List Byte :=
  (upto 256).map fun i => Tab.get 0 s.host.intake (ctx * 4096 + slot * 256 + i)

/-- The seal of a slot. -/
def State.sealAt (s : State) (ctx slot : Nat) : BitVec 32 := BitVec.ofNat 32 (leAt (s.slotBytes ctx slot) 0xF8 4)

/-- Takes up to `n` sealed commands of a context (R428). -/
def State.takeCmds (s : State) (ctx : Nat) : Nat → State × Nat
  | 0 => (s, 0)
  | n + 1 =>
    let q := (s.hctx ctx).nextSeq
    let slot := q.toNat % 16
    if s.sealAt ctx slot = q ∧ q ≠ 0 then
      let c : Cmd := { seq := q, bytes := s.slotBytes ctx slot, tick := s.tick.no, stage := .waiting }
      let s := s.modHctx ctx fun h => { h with nextSeq := seqNext q, cmds := h.cmds ++ [c], taken := h.taken + 1 }
      let page := Tab.setAll 0 s.host.intake ((upto 8).map fun i => (ctx * 4096 + slot * 256 + 0xF8 + i, (0 : Byte)))
      let s := { s with host := { s.host with intake := page } }
      let (s, m) := s.takeCmds ctx n
      (s, m + 1)
    else (s, 0)

/-- A seal that breaks R427 sets BADSEAL. -/
def State.badSeals (s : State) (ctx : Nat) : State :=
  let ok := seqRun (s.hctx ctx).nextSeq 16
  let bad := (upto 16).any fun k =>
    let q := s.sealAt ctx k
    decide (q ≠ 0) && (decide (q.toNat % 16 ≠ k) || !ok.contains q)
  if bad then s.modHctx ctx fun h => { h with badseal := true } else s

/-- The intake of a window: contexts that are ON and not ORPHANED in the rotated order, 16 commands each,
256 in all (R72, R428). -/
def State.intake (s : State) : State :=
  ((upto 4096).foldl (fun ((s, left) : State × Nat) i =>
    let c := (s.tick.no.toNat + i) % 4096
    if s.funcOn (.ctx (BitVec.ofNat 12 c)) && !(s.hctx c).orphaned then
      let s := s.badSeals c
      let (s, n) := s.takeCmds c (min 16 left)
      (s, left - n)
    else (s, left)) (s, 256)).1

/-! ### The intake and commit window (R29, R39, R347, R523) -/

/-- Partitions and contexts that are STARTING are ON, and partitions that are STOPPING are OFF (R523). -/
def State.funcBoundary (s : State) : State :=
  s.dict.funcs.foldl (fun s ((k, f) : Nat × Func) =>
    let fn : Option FuncId :=
      if 0x200 ≤ k ∧ k < 0x240 then some (.part (BitVec.ofNat 6 (k - 0x200)))
      else if 0x1000 ≤ k then some (.ctx (BitVec.ofNat 12 (k - 0x1000))) else none
    match fn with
    | some fn =>
      if f.state = 1 then s.startDone fn true
      else if f.state = 3 ∧ k < 0x1000 then s.stopDone fn else s
    | none => s) s

/-- A stack whose temperature has stayed 3 °C below a bound for 1 ms refreshes more slowly (R351). -/
def State.coolStack (s : State) (i : Nat) : State :=
  s.modStack i fun k =>
    let r := refrateOf (k.temp.toInt + 48)
    { k with refrate := if r < k.refrate then r else k.refrate, throttle := decide (105 * 16 < k.temp.toInt) }

/-- What the first cycle of an intake window does. -/
def State.openIntake (s : State) : State :=
  let s := { s with tick := { s.tick with part := .intake } }
  let s := s.mapEffect.funcBoundary
  let w := workCycles s.tick.len.toNat
  let quarter := decide (s.moduleLevel = 2)
  let s := (upto 8).foldl (fun s i => s.modStack i fun k =>
    k.refill w quarter fun p => s.funcOn (.part (BitVec.ofNat 6 p))) s
  let s := s.starts.attCaptures
  s.intake

/-- The next tick's work: a tick to replay, or the tick's own (R59, R64). -/
def TickUnit.chooseWork (t : TickUnit) : TickUnit :=
  match t.toReplay with
  | w :: l => { t with wtn := w, toReplay := l, replay := true }
  | [] => { t with wtn := t.no, replay := false }

/-- Trims written in the tick take effect (R514). -/
def State.applyTrims (s : State) : State :=
  { s with dict := { s.dict with
      trims := s.dict.trimsNext.foldl (fun t ((k, v) : Nat × Option Int) => match v with
        | some v => Tab.set 0 t k v
        | none => t) s.dict.trims
      trimsNext := [] } }

/-- Whether a requester works for a plan: what it was drawing tokens for ends with the tick. -/
def ofPlan : Requester → Bool
  | .carrel _ | .engine _ | .mover _ _ | .record _ => true
  | _ => false

/-- The boundary (R39): the ended tick is settled, TICK_NO advances, and the intake window or a recovery gap
opens. -/
def State.boundary (s : State) (env : TickEnv) : State :=
  let s := { s.treatHalts.swapBack with retried := [], paid := s.paid.filter fun x => !ofPlan x.1 }
  let owed := s.tick.gapDue
  let w := s.tick.wtn
  let (s, gap) :=
    if owed then ({ s with tick := { s.tick with gapDue := false, toReplay := if s.tick.replay then w :: s.tick.toReplay else s.tick.toReplay } }, true)
    else if s.chain.up then s.endChain else s.endAlone
  let s := { s with tick := { s.tick with no := s.tick.no + 1, wtnLast := w } }
  let changed := match s.tick.armed with | some (b, _) => decide (b = s.tick.no) | none => false
  let s := match s.tick.armed with
    | some (b, n) => if b = s.tick.no then { s with tick := { s.tick with len := n, armed := none } } else s
    | none => s
  let s := s.unloads.suspends changed
  let s := { s with
    plans := s.plans.map fun (x : Nat × Plan) => (x.1, { x.2 with fresh := true })
    links := s.links.map fun (x : Nat × Link) => (x.1, { x.2 with evTick := false, unplSent := 0 }) }
  let s := if s.census.due.contains s.tick.no then s.snapshot s.tick.no else s
  let s := s.applyTrims.haltAll.census2.sendMarks
  let s := if s.chain.up then s.statusReady else s
  let s := (upto 12).foldl State.flushTx s
  let s := env.coolStacks.foldl (fun s i => s.coolStack i.toNat) s
  let s := env.coolZones.foldl (fun s z => s.coolZone z.toNat) s
  if gap then
    let s := { s with tick := { s.tick with part := .gap } }
    if s.keepers.none_ then s else s.gapWork
  else
    let s := { s with tick := s.tick.chooseWork }
    let s := if s.tick.replay then s else (upto 4096).foldl (fun s c => s.stepApply c s.tick.wtn) s
    s.openIntake

def execTickBoundary (env : TickEnv) (s : State) : Out :=
  .next (if s.start.ticking ∧ s.tick.part = .guard then s.boundary env else s)

/-- The gap ends and the replay's tick goes on; a gap that a takeover interrupted is followed by another, and
no work runs between them (R64, R463). DEDUCED (log entry 37). -/
def execGapEnd (s : State) : Out :=
  .next <|
    if s.start.ticking ∧ s.tick.part = .gap then
      let s := if s.tick.gapDue then s else { s with tick := s.tick.chooseWork }
      s.openIntake
    else s

/-! ### The work window (R39, R60, R68, R79, R136, R139, R154, R168, R254) -/

/-- A bank emptied. -/
def Bank.emptied (b : Bank) : Bank :=
  { b with d := { b.d with ptr := b.d.lo }, dres := [], r := { b.r with ptr := b.r.lo }, rres := [] }

/-- QEXP of an allocation in its tile-flags word (R252, R254). -/
def Alloc.tileWord (a : Alloc) : Word := place (BitVec.ofInt 10 a.qexp) 16

/-- A carrel at the entry point of a plan tick. -/
def Carrel.enterTick (k : Carrel) (p : Plan) (c : Nat) (wtn : Word) (replay : Bool) : Carrel :=
  let lvl : BitVec 2 := if p.ctx = 0 then 1 else 0
  let sl := BitVec.ofNat 16 (wtn.toNat % 65536) ^^^ BitVec.ofNat 16 c
  let k := if replay then { k with dcache := [], mb := k.mb.filter (·.issued) } else k
  let k := { k with
    pc := Tab.get 0 p.img.entries (c * 4096 + p.k), level := lvl, dbank := lvl, rescue := false, rep := none
    bankU := k.bankU.emptied, bankS := k.bankS.emptied, bankM := k.bankM.emptied
    wait := .none, overrun := false, ended := false, vl := 0, vstack := []
    seals := [], shdS := Shadow.reset, shdM := Shadow.reset, sealNext := if sl = 0 then 1 else sl
    queue := [], stationary := none, power := .run, waking := false
    tiles := (Tab.get [] p.img.allocs c).foldl (fun t (a : Alloc) => Tab.set 0 t a.tile a.tileWord) []
    wd := { k.wd with ovr := false } }
  k.startPhase p c 0

/-- A plan begins its plan tick: snapshots restored for a replay (R60), then every carrel enters, with the copies of its
in-place ranges at the head of their channels (R334). In a replay
a plan that did not run in the replayed tick runs nothing (R64). -/
def State.beginPlan (s : State) (i : Nat) : State :=
  match s.plan i with
  | none => s
  | some p =>
    let t := s.tick
    if t.replay ∧ p.ranAt t.wtn = none then s else
    let k := if t.replay then (p.ranAt t.wtn).getD p.nextK else p.nextK
    let lists := match p.prevLists with
      | some (a, l) => if t.replay ∧ t.wtn < a then some (a, l) else none
      | none => none
    let p := { p with
      k := k, ran := ((t.wtn, k) :: p.ran).take 2, overrun := false, late := false, uncorr := false, fresh := false
      tokens := [], joined := [], ticks := if t.replay then p.ticks else p.ticks + 1
      prevLists := match lists with | some (a, _) => some (a, p.img.lists) | none => p.prevLists
      img := match lists with | some (_, l) => { p.img with lists := l } | none => p.img }
    let p := { p with links := p.linksOf 0 }
    let inp := p.img.rwset.filter fun r => r.inplace && decide (r.ptick = k)
    let s := s.modPlan i fun _ => p
    let s := if t.replay then
        inp.foldl (fun s r =>
          let s := s.snapRestore r
          match s.recTrans p.ctx r.va 1 0 with
          | some (pa, _) => if s.isLocal pa then s.clearLost (localOf pa) r.len else s
          | none => s) (s.modHctx p.ctx.toNat fun h => { h with replayed := h.replayed + 1 })
      else s
    let s := p.img.set.foldl (fun s c => s.modCarrel (BitVec.ofNat 12 c) fun x =>
      if x.halted then x else x.enterTick p c t.wtn t.replay) s
    inp.foldl State.queueCopy s

/-- The work window opens (R39); none of the work runs in the tick of an interrupted gap (R463). -/
def execWorkWindowStart (s : State) : Out :=
  .next <|
    if s.start.ticking ∧ s.tick.part = .intake then
      let s := { s with tick := { s.tick with part := .work } }
      if s.tick.gapDue then s
      else
        (s.plans.filter fun x => decide (x.2.state = .running) || (decide (x.2.state = .unloading) && x.2.resume)).foldl
          (fun s x => s.beginPlan x.1) s
    else s

/-! ### The guard (R69, R136, R461) -/

/-- The engines of a plan that a hardware fault keeps running are engine faults: a carrel's fails the
carrel, a bay's fails the unit (R461). -/
def State.engineFault (s : State) (e : EngineId) : State :=
  match s.running e, e with
  | some (c, _, _), .array _ => s.carrelFails c 3
  | some (c, _, _), .element _ => s.carrelFails c 3
  | some _, .row b => s.bayFails b.toNat 0
  | some _, .mover b _ => s.bayFails b.toNat 3
  | _, _ => s

/-- The late check of one plan: what is still active is stopped, with a record (R69, R70). A plan that an absorbed
fault has stopped has no LATE event beside it (R64; DEDUCED, log entry 58). -/
def State.lateCheck (s : State) (i : Nat) (p : Plan) : State :=
  let busy (c : Nat) : Bool :=
    let k := s.carrel (BitVec.ofNat 12 c)
    (decide (k.wait ≠ .rest) && !k.halted) || k.queue.any fun x => x.2.any fun d => !d.dead
  let active := p.img.set.filter busy
  if active.isEmpty ∧ p.links.isEmpty then s
  else
    let never := (active.any fun c => (s.carrel (BitVec.ofNat 12 c)).queue.any fun x => x.2.any fun d => !d.started) ||
      p.links.any fun r => !r.started
    let c := BitVec.ofNat 12 ((active ++ p.img.set).headD 0)
    let s := if s.planFault p then s.modPlan i fun p => { p with links := [] }
      else (s.report { s.carrelReport c 0x31 5 with
        disp := 4, context := p.ctx.setWidth 16, d0 := (s.carrel c).wd.phase.setWidth 64, d1 := word (b2n never) }).modPlan
          i fun p => { p with late := true, links := [] }
    active.foldl (fun s c =>
      let cc := BitVec.ofNat 12 c
      let s := (s.vecIssued cc).modCarrel cc fun k => { k with queue := [], wd := { k.wd with run := false } }
      let s := if (s.carrel cc).overrun then s.settleBar cc else s
      (s.modCarrel cc fun k => { k.abandon with wait := .rest }).drainAll cc) s

/-- The first cycle of the guard: halted carrels and engine faults first, then the late check of every plan that runs.
`stuck` names the engines that have run longer than their formula. -/
def execGuardStart (stuck : List EngineId) (s : State) : Out :=
  .next <|
    if s.start.ticking ∧ s.tick.part = .work then
      let s := { s with tick := { s.tick with part := .guard } }
      let s := stuck.foldl State.engineFault s.treatHalts
      s.ranPlans.foldl (fun s ((i, p) : Nat × Plan) => s.lateCheck i p) s
    else s

end Sys2Proof.Machine
end

