-- ==== Sys2Proof/Machine/Dict.lean ====
section
/-!
DEFINITION. The object dictionary: its entries, their types, rights, values and writes, the dictionary
window, calibration, readback and firmware update (spec/19, R497 to R524).
-/

namespace Sys2Proof.Machine

/-! ### The entries (R510, R511, R513) -/

/-- Some entries of one type: the ranges of index and subindex, the type code and size of R510 (0 for a
DOMAIN), the rights as three digits for CAN, PF and VF (0 none, 1 RO, 2 RW, 3 RO own, 4 RW own), the FLAGS of
the description record, the unit (`none`: the table names none of at most 8 characters) and the constant
default. -/
structure DictRow where
  i0 : Nat
  i1 : Nat
  s0 : Nat
  s1 : Nat
  typ : Nat
  size : Nat
  rights : Nat
  flags : Nat
  unit : Option (List Char)
  dflt : Nat

/-- A row of the table of entries. -/
def dictRow (i0 i1 s0 s1 typ size rights flags : Nat) (unit : Option (List Char)) (dflt : Nat) : DictRow :=
  { i0 := i0, i1 := i1, s0 := s0, s1 := s1, typ := typ, size := size, rights := rights, flags := flags
    unit := unit, dflt := dflt }

/-- The communication profile and firmware update (R503, R512, R519). -/
def dictCommA : List DictRow :=
  [ dictRow 0x1000 0x1000 0x00 0x00 0x07 4 111 0 (some []) 0,
    dictRow 0x1001 0x1001 0x00 0x00 0x05 1 111 0 (some ['B', 'i', 't', ' ', 'm', 'a', 's', 'k']) 0,
    dictRow 0x1008 0x1008 0x00 0x00 0x09 16 111 0 (some []) 0x39204c41444f4c,
    dictRow 0x100A 0x100A 0x00 0x00 0x09 16 111 48 (some []) 0,
    dictRow 0x1010 0x1010 0x01 0x01 0x07 4 220 1 (some ['C', 'o', 'm', 'm', 'a', 'n', 'd']) 1,
    dictRow 0x1011 0x1011 0x01 0x01 0x07 4 220 1 (some ['C', 'o', 'm', 'm', 'a', 'n', 'd']) 1,
    dictRow 0x1014 0x1014 0x00 0x00 0x07 4 221 52 (some []) 0,
    dictRow 0x1015 0x1015 0x00 0x00 0x06 2 221 4 (some ['1', '0', '0', ' ', 'u', 's']) 100,
    dictRow 0x1017 0x1017 0x00 0x00 0x06 2 221 4 (some ['m', 's']) 100,
    dictRow 0x1018 0x1018 0x01 0x01 0x07 4 111 0 (some []) 0xA7C,
    dictRow 0x1018 0x1018 0x02 0x02 0x07 4 111 0 (some []) 0x90768,
    dictRow 0x1018 0x1018 0x03 0x03 0x07 4 111 48 (some []) 0,
    dictRow 0x1018 0x1018 0x04 0x04 0x07 4 111 16 (some []) 0,
    dictRow 0x1800 0x1803 0x00 0x00 0x05 1 111 0 (some []) 5,
    dictRow 0x1800 0x1803 0x01 0x01 0x07 4 221 52 (some []) 0,
    dictRow 0x1800 0x1803 0x02 0x02 0x05 1 221 4 (some []) 0xFE ]

/-- The communication profile and firmware update (R503, R512, R519). -/
def dictCommB : List DictRow :=
  [ dictRow 0x1800 0x1803 0x03 0x03 0x06 2 221 4 (some ['1', '0', '0', ' ', 'u', 's']) 0,
    dictRow 0x1800 0x1803 0x05 0x05 0x06 2 221 4 (some ['m', 's']) 0,
    dictRow 0x1A00 0x1A03 0x00 0x00 0x05 1 221 4 (some []) 0,
    dictRow 0x1A00 0x1A03 0x01 0x40 0x07 4 221 4 (some []) 0,
    dictRow 0x1F50 0x1F50 0x01 0x02 0x0F 0 220 0 (some ['B']) 0,
    dictRow 0x1F51 0x1F51 0x01 0x02 0x05 1 220 1 (some ['C', 'o', 'm', 'm', 'a', 'n', 'd']) 0,
    dictRow 0x1F57 0x1F57 0x01 0x02 0x07 4 111 48 (some []) 0 ]

/-- The communication profile and firmware update (R503, R512, R519). -/
def dictComm : List DictRow := dictCommA ++ dictCommB

/-- Calibration (R514, R557). -/
def dictCalA : List DictRow :=
  [ dictRow 0x2020 0x2020 0x01 0x03 0x03 2 111 32 (some ['1', '/', '1', '6', ' ', 'C']) 0,
    dictRow 0x2020 0x2020 0xFE 0xFF 0x03 2 111 32 (some ['1', '/', '1', '6', ' ', 'C']) 0,
    dictRow 0x2021 0x2021 0x01 0x03 0x03 2 111 32 (some ['1', '/', '1', '6', ' ', 'C']) 0,
    dictRow 0x2021 0x2021 0xFE 0xFF 0x03 2 111 32 (some ['1', '/', '1', '6', ' ', 'C']) 0,
    dictRow 0x2022 0x2022 0x01 0x03 0x03 2 111 32 (some ['1', '/', '1', '6', ' ', 'C']) 0,
    dictRow 0x2022 0x2022 0xFE 0xFF 0x03 2 111 32 (some ['1', '/', '1', '6', ' ', 'C']) 0,
    dictRow 0x2023 0x2023 0x01 0x03 0x03 2 111 32 (some ['1', '/', '1', '6', ' ', 'C']) 0,
    dictRow 0x2023 0x2023 0xFE 0xFF 0x03 2 111 32 (some ['1', '/', '1', '6', ' ', 'C']) 0,
    dictRow 0x2024 0x2024 0x01 0x03 0x03 2 111 32 (some ['1', '/', '1', '6', ' ', 'C']) 0,
    dictRow 0x2024 0x2024 0xFE 0xFF 0x03 2 111 32 (some ['1', '/', '1', '6', ' ', 'C']) 0,
    dictRow 0x2025 0x2025 0x01 0x03 0x06 2 111 32 none 0,
    dictRow 0x2025 0x2025 0xFE 0xFF 0x06 2 111 32 none 0,
    dictRow 0x2120 0x2120 0x01 0x03 0x03 2 221 4 (some ['1', '/', '1', '6', ' ', 'C']) 0,
    dictRow 0x2120 0x2120 0x81 0x83 0x03 2 111 48 (some ['1', '/', '1', '6', ' ', 'C']) 0,
    dictRow 0x2121 0x2121 0x01 0x03 0x03 2 221 4 (some ['1', '/', '1', '6', ' ', 'C']) 0,
    dictRow 0x2121 0x2121 0x81 0x83 0x03 2 111 48 (some ['1', '/', '1', '6', ' ', 'C']) 0 ]

/-- Calibration (R514, R557). -/
def dictCalB : List DictRow :=
  [ dictRow 0x2122 0x2122 0x01 0x03 0x03 2 221 4 (some ['1', '/', '1', '6', ' ', 'C']) 0,
    dictRow 0x2122 0x2122 0x81 0x83 0x03 2 111 48 (some ['1', '/', '1', '6', ' ', 'C']) 0,
    dictRow 0x2123 0x2123 0x01 0x03 0x03 2 221 4 (some ['1', '/', '1', '6', ' ', 'C']) 0,
    dictRow 0x2123 0x2123 0x81 0x83 0x03 2 111 48 (some ['1', '/', '1', '6', ' ', 'C']) 0,
    dictRow 0x2124 0x2124 0x01 0x03 0x03 2 221 4 (some ['1', '/', '1', '6', ' ', 'C']) 0,
    dictRow 0x2124 0x2124 0x81 0x83 0x03 2 111 48 (some ['1', '/', '1', '6', ' ', 'C']) 0,
    dictRow 0x2125 0x2125 0x01 0x03 0x06 2 221 4 none 0,
    dictRow 0x2125 0x2125 0x81 0x83 0x06 2 111 48 none 0 ]

/-- Calibration (R514, R557). -/
def dictCal : List DictRow := dictCalA ++ dictCalB

/-- Identity, inventory, fuses, readback and day book (R2, R27, R247, R496, R513, R517, R541). -/
def dictIdentA : List DictRow :=
  [ dictRow 0x2201 0x2201 0x01 0x01 0x05 1 111 0 (some []) 2,
    dictRow 0x2201 0x2201 0x02 0x02 0x05 1 111 0 (some ['d', 'i', 'e']) 2,
    dictRow 0x2201 0x2201 0x03 0x03 0x06 2 111 0 (some ['c', 'a', 'r', 'r', 'e', 'l']) 2048,
    dictRow 0x2201 0x2201 0x04 0x04 0x05 1 111 0 (some ['D', 'P', 'U']) 16,
    dictRow 0x2201 0x2201 0x05 0x05 0x05 1 111 0 (some ['c', 'e', 'l', 'l']) 64,
    dictRow 0x2201 0x2201 0x06 0x06 0x06 2 111 0 (some ['b', 'i', 't']) 8192,
    dictRow 0x2201 0x2201 0x07 0x07 0x05 1 111 0 (some ['s', 't', 'a', 'c', 'k']) 8,
    dictRow 0x2201 0x2201 0x08 0x08 0x05 1 111 0 (some ['l', 'i', 'n', 'k']) 12,
    dictRow 0x2202 0x2202 0x01 0x01 0x05 1 111 0 (some ['M', 'a', 's', 'k']) 0xFF,
    dictRow 0x2202 0x2202 0x02 0x02 0x06 2 111 0 (some ['M', 'a', 's', 'k']) 0xFFF,
    dictRow 0x2202 0x2202 0x03 0x03 0x05 1 111 0 (some ['B', 'a', 'y']) 128,
    dictRow 0x2202 0x2202 0x04 0x04 0x05 1 111 0 (some ['B', 'a', 'y']) 128,
    dictRow 0x2202 0x2202 0x05 0x05 0x06 2 111 0 (some ['C', 'a', 'r', 'r', 'e', 'l']) 4096,
    dictRow 0x2203 0x2203 0x01 0x01 0x07 4 222 2 (some []) 0,
    dictRow 0x2203 0x2203 0x02 0x02 0x0A 32 111 48 (some []) 0,
    dictRow 0x2210 0x2210 0x00 0x00 0x05 1 111 0 (some []) 128 ]

/-- Identity, inventory, fuses, readback and day book (R2, R27, R247, R496, R513, R517, R541). -/
def dictIdentB : List DictRow :=
  [ dictRow 0x2210 0x2210 0x01 0x80 0x05 1 111 16 none 0,
    dictRow 0x2211 0x2211 0x00 0x00 0x05 1 111 0 (some []) 128,
    dictRow 0x2211 0x2211 0x01 0x80 0x05 1 111 16 none 0,
    dictRow 0x2214 0x2214 0x00 0x00 0x05 1 111 0 (some []) 128,
    dictRow 0x2214 0x2214 0x01 0x80 0x05 1 111 16 none 0,
    dictRow 0x2215 0x2215 0x00 0x00 0x05 1 111 0 (some []) 128,
    dictRow 0x2215 0x2215 0x01 0x80 0x05 1 111 16 none 0,
    dictRow 0x2212 0x2212 0x00 0x00 0x05 1 111 0 (some []) 64,
    dictRow 0x2212 0x2212 0x01 0x40 0x07 4 111 0 (some []) 0,
    dictRow 0x2213 0x2213 0x00 0x00 0x05 1 111 0 (some []) 64,
    dictRow 0x2213 0x2213 0x01 0x40 0x07 4 111 0 (some []) 0,
    dictRow 0x2216 0x2216 0x01 0x02 0x05 1 111 16 (some ['B', 'a', 'y']) 0,
    dictRow 0x2216 0x2216 0x03 0x04 0x06 2 111 48 (some ['C', 'a', 'r', 'r', 'e', 'l']) 0,
    dictRow 0x2217 0x2217 0x01 0x02 0x06 2 111 16 (some ['C', 'a', 'r', 'r', 'e', 'l']) 0,
    dictRow 0x2220 0x2220 0x01 0x02 0x0A 32 111 16 (some []) 0,
    dictRow 0x2220 0x2220 0x03 0x03 0x0A 32 111 48 (some []) 0 ]

/-- Identity, inventory, fuses, readback and day book (R2, R27, R247, R496, R513, R517, R541). -/
def dictIdentC : List DictRow :=
  [ dictRow 0x2220 0x2220 0x04 0x05 0x05 1 111 16 (some []) 0,
    dictRow 0x2230 0x2230 0x00 0x00 0x0F 0 111 32 (some []) 0,
    dictRow 0x2231 0x2231 0x00 0x00 0x0A 64 111 48 (some []) 0,
    dictRow 0x2240 0x2240 0x01 0x01 0x1B 8 220 2 (some []) 0,
    dictRow 0x2240 0x2240 0x02 0x02 0x06 2 220 2 (some ['B']) 1,
    dictRow 0x2240 0x2240 0x03 0x03 0x0F 0 110 48 (some []) 0,
    dictRow 0x2250 0x2250 0x01 0x01 0x07 4 111 48 (some ['S', 't', 'a', 'r', 't']) 0,
    dictRow 0x2250 0x2250 0x02 0x02 0x05 1 111 0 none 3,
    dictRow 0x2250 0x2250 0x03 0x03 0x05 1 111 0 none 0,
    dictRow 0x2250 0x2250 0x04 0x04 0x07 4 111 0 (some ['m', 's']) 0,
    dictRow 0x2250 0x2250 0x05 0x05 0x06 2 111 0 (some ['I', 't', 'e', 'm']) 0,
    dictRow 0x2251 0x2251 0x00 0x00 0x0F 0 110 48 none 0,
    dictRow 0x2252 0x2252 0x00 0x00 0x05 1 220 1 (some ['C', 'o', 'm', 'm', 'a', 'n', 'd']) 0 ]

/-- Identity, inventory, fuses, readback and day book (R2, R27, R247, R496, R513, R517, R541). -/
def dictIdent : List DictRow := dictIdentA ++ dictIdentB ++ dictIdentC

/-- Power, thermal and input monitoring (R556). -/
def dictPowerA : List DictRow :=
  [ dictRow 0x2400 0x2400 0x01 0x01 0x06 2 111 8 (some ['1', '0', ' ', 'm', 'V']) 0,
    dictRow 0x2400 0x2400 0x02 0x02 0x06 2 111 8 (some ['1', '0', ' ', 'm', 'V']) 0,
    dictRow 0x2400 0x2400 0x03 0x03 0x06 2 111 8 (some ['1', '0', ' ', 'm', 'A']) 0,
    dictRow 0x2400 0x2400 0x04 0x04 0x06 2 111 8 (some ['W']) 0,
    dictRow 0x2400 0x2400 0x05 0x05 0x06 2 111 8 (some ['W']) 0,
    dictRow 0x2401 0x2401 0x01 0x09 0x06 2 111 8 (some ['m', 'V']) 0,
    dictRow 0x2402 0x2402 0x01 0x09 0x06 2 111 8 (some ['0', '.', '1', ' ', 'A']) 0,
    dictRow 0x2410 0x2410 0x01 0x0D 0x03 2 111 8 (some ['1', '/', '1', '6', ' ', 'C']) 0,
    dictRow 0x2411 0x2411 0x01 0x0D 0x05 1 111 8 (some ['L', 'e', 'v', 'e', 'l']) 0,
    dictRow 0x2412 0x2412 0x01 0x02 0x03 2 111 8 (some ['1', '/', '1', '6', ' ', 'C']) 0,
    dictRow 0x2412 0x2412 0x03 0x03 0x06 2 111 8 none 0,
    dictRow 0x2413 0x2413 0x00 0x00 0x05 1 111 8 (some ['L', 'e', 'v', 'e', 'l']) 0,
    dictRow 0x2414 0x2414 0x00 0x00 0x05 1 111 0 none 0,
    dictRow 0x2420 0x2420 0x01 0x01 0x05 1 111 48 none 0,
    dictRow 0x2420 0x2420 0x02 0x02 0x05 1 111 48 none 0,
    dictRow 0x2420 0x2420 0x03 0x03 0x07 4 111 48 (some ['S', 'h', 'u', 't', 'd', 'o', 'w', 'n']) 0 ]

/-- Power, thermal and input monitoring (R556). -/
def dictPowerB : List DictRow :=
  [ dictRow 0x2421 0x2421 0x00 0x00 0x01 1 220 0 (some []) 0 ]

/-- Power, thermal and input monitoring (R556). -/
def dictPower : List DictRow := dictPowerA ++ dictPowerB

/-- Function states (R520). -/
def dictFuncsA : List DictRow :=
  [ dictRow 0x2800 0x2800 0x01 0x0C 0x06 2 221 0 (some []) 1,
    dictRow 0x2801 0x2801 0x01 0x08 0x06 2 221 0 (some []) 1,
    dictRow 0x2802 0x2802 0x01 0x40 0x06 2 221 0 (some []) 1,
    dictRow 0x2803 0x2804 0x01 0x80 0x06 2 221 0 (some []) 1,
    dictRow 0x2810 0x282F 0x01 0x80 0x06 2 223 0 (some []) 0 ]

/-- Function states (R520). -/
def dictFuncs : List DictRow := dictFuncsA

/-- Ticks, plans, memory, links and chain (R48, R361, R413, R518). -/
def dictTickA : List DictRow :=
  [ dictRow 0x3000 0x3000 0x01 0x01 0x07 4 111 0 (some ['n', 's']) 8000,
    dictRow 0x3000 0x3000 0x02 0x02 0x1B 8 111 0 (some ['t', 'i', 'c', 'k']) 0,
    dictRow 0x3000 0x3000 0x03 0x03 0x05 1 111 0 none 0,
    dictRow 0x3000 0x3000 0x04 0x04 0x07 4 111 0 (some ['u', 's']) 10000,
    dictRow 0x3010 0x3011 0x01 0x80 0x07 4 113 0 (some []) 0,
    dictRow 0x3012 0x3013 0x01 0x80 0x1B 8 113 0 (some []) 0,
    dictRow 0x3014 0x3015 0x01 0x80 0x0A 32 113 0 (some []) 0,
    dictRow 0x3400 0x3400 0x01 0x08 0x03 2 111 0 (some ['1', '/', '1', '6', ' ', 'C']) 0,
    dictRow 0x3401 0x3401 0x01 0x08 0x05 1 111 0 none 0,
    dictRow 0x3402 0x3402 0x01 0x08 0x07 4 111 0 (some ['w', 'o', 'r', 'd']) 0,
    dictRow 0x3403 0x3403 0x01 0x08 0x06 2 111 0 (some ['b', 'u', 'r', 's', 't']) 0,
    dictRow 0x3404 0x3404 0x01 0x08 0x01 1 111 0 (some []) 0,
    dictRow 0x3405 0x3405 0x00 0x00 0x05 1 111 0 none 0,
    dictRow 0x3406 0x3406 0x00 0x00 0x1B 8 111 0 (some ['B']) 824633720832,
    dictRow 0x3800 0x3800 0x01 0x0C 0x05 1 111 0 none 0,
    dictRow 0x3801 0x3801 0x01 0x0C 0x05 1 111 0 none 0 ]

/-- Ticks, plans, memory, links and chain (R48, R361, R413, R518). -/
def dictTickB : List DictRow :=
  [ dictRow 0x3802 0x3802 0x01 0x0C 0x07 4 111 0 (some ['1', '/', '6', '4', ' ', 'n', 's']) 0,
    dictRow 0x3803 0x3803 0x01 0x0C 0x07 4 111 0 (some ['C', 'o', 'd', 'e', 'w', 'o', 'r', 'd']) 0,
    dictRow 0x3804 0x3804 0x01 0x0C 0x05 1 111 0 (some ['D', 'r', 'o', 'p']) 0,
    dictRow 0x3810 0x3810 0x01 0x01 0x06 2 111 0 (some []) 0,
    dictRow 0x3810 0x3810 0x02 0x02 0x01 1 111 0 (some []) 0,
    dictRow 0x3810 0x3810 0x03 0x03 0x06 2 111 0 (some ['H', 'o', 'p']) 0,
    dictRow 0x3810 0x3810 0x04 0x04 0x07 4 111 0 (some ['n', 's']) 0 ]

/-- Ticks, plans, memory, links and chain (R48, R361, R413, R518). -/
def dictTick : List DictRow := dictTickA ++ dictTickB

/-- Host, reliability, census, security and contexts (R446, R476, R496, R524). -/
def dictHostA : List DictRow :=
  [ dictRow 0x3C00 0x3C00 0x01 0x01 0x05 1 111 0 none 0,
    dictRow 0x3C00 0x3C00 0x02 0x02 0x05 1 111 0 (some ['L', 'a', 'n', 'e']) 0,
    dictRow 0x3C00 0x3C00 0x03 0x03 0x06 2 111 0 (some ['E', 'v', 'e', 'n', 't']) 0,
    dictRow 0x3C00 0x3C00 0x04 0x04 0x05 1 111 0 (some ['F', 'u', 'n', 'c', 't', 'i', 'o', 'n']) 0,
    dictRow 0x3C01 0x3C01 0x00 0x00 0x06 2 111 0 (some ['C', 'o', 'n', 't', 'e', 'x', 't']) 0,
    dictRow 0x3C02 0x3C02 0x00 0x00 0x07 4 111 0 (some ['R', 'e', 'c', 'o', 'r', 'd']) 0,
    dictRow 0x4000 0x4000 0x01 0x01 0x05 1 111 0 none 0,
    dictRow 0x4000 0x4000 0x02 0x02 0x01 1 111 0 (some []) 1,
    dictRow 0x4000 0x4000 0x03 0x03 0x06 2 111 0 (some ['T', 'a', 'k', 'e', 'o', 'v', 'e', 'r']) 0,
    dictRow 0x4001 0x4001 0x01 0x01 0x07 4 111 0 (some ['G', 'a', 'p']) 0,
    dictRow 0x4001 0x4001 0x02 0x02 0x07 4 111 0 (some ['T', 'i', 'c', 'k']) 0,
    dictRow 0x4001 0x4001 0x03 0x03 0x06 2 111 0 (some ['C', 'a', 'r', 'r', 'e', 'l']) 0,
    dictRow 0x4001 0x4001 0x04 0x04 0x06 2 111 0 (some ['C', 'o', 'n', 't', 'e', 'x', 't']) 0,
    dictRow 0x4002 0x4002 0x00 0x00 0x07 4 111 0 (some ['R', 'e', 'c', 'o', 'r', 'd']) 0,
    dictRow 0x4400 0x4400 0x01 0x01 0x07 4 221 0 (some ['T', 'i', 'c', 'k']) 1000,
    dictRow 0x4400 0x4400 0x02 0x02 0x1B 8 111 0 (some ['T', 'i', 'c', 'k']) 0 ]

/-- Host, reliability, census, security and contexts (R446, R476, R496, R524). -/
def dictHostB : List DictRow :=
  [ dictRow 0x4800 0x4800 0x01 0x01 0x05 1 111 0 none 0,
    dictRow 0x4800 0x4800 0x02 0x03 0x0A 32 111 0 (some []) 0,
    dictRow 0x4800 0x4800 0x04 0x04 0x05 1 220 1 (some []) 0,
    dictRow 0x4800 0x4800 0x05 0x05 0x1B 8 110 0 (some ['B']) 0,
    dictRow 0x4820 0x4820 0x01 0x01 0x06 2 200 2 (some []) 0,
    dictRow 0x4820 0x4820 0x02 0x02 0x05 1 200 2 (some []) 0,
    dictRow 0x4820 0x4820 0x03 0x03 0x0A 32 200 2 (some []) 0,
    dictRow 0x4820 0x4820 0x04 0x04 0x05 1 200 1 (some []) 0,
    dictRow 0x4820 0x4820 0x05 0x05 0x05 1 100 0 none 0,
    dictRow 0x4820 0x4820 0x06 0x06 0x0A 320 100 0 (some []) 0,
    dictRow 0x4821 0x4821 0x01 0x01 0x06 2 20 2 (some []) 0,
    dictRow 0x4821 0x4821 0x02 0x02 0x05 1 20 2 (some []) 0,
    dictRow 0x4821 0x4821 0x03 0x03 0x0A 32 20 2 (some []) 0,
    dictRow 0x4821 0x4821 0x04 0x04 0x05 1 20 1 (some []) 0,
    dictRow 0x4821 0x4821 0x05 0x05 0x05 1 10 0 none 0,
    dictRow 0x4821 0x4821 0x06 0x06 0x0A 320 10 0 (some []) 0 ]

/-- Host, reliability, census, security and contexts (R446, R476, R496, R524). -/
def dictHostC : List DictRow :=
  [ dictRow 0x4822 0x4860 0x01 0x01 0x06 2 2 2 (some []) 0,
    dictRow 0x4822 0x4860 0x02 0x02 0x05 1 2 2 (some []) 0,
    dictRow 0x4822 0x4860 0x03 0x03 0x0A 32 2 2 (some []) 0,
    dictRow 0x4822 0x4860 0x04 0x04 0x05 1 2 1 (some []) 0,
    dictRow 0x4822 0x4860 0x05 0x05 0x05 1 1 0 none 0,
    dictRow 0x4822 0x4860 0x06 0x06 0x0A 320 1 0 (some []) 0,
    dictRow 0x5000 0x5FFF 0x01 0x01 0x06 2 113 48 (some []) 0,
    dictRow 0x5000 0x5FFF 0x02 0x02 0x05 1 113 48 (some ['F', 'u', 'n', 'c', 't', 'i', 'o', 'n']) 0,
    dictRow 0x5000 0x5FFF 0x03 0x03 0x07 4 113 48 (some []) 0,
    dictRow 0x5000 0x5FFF 0x04 0x04 0x01 1 113 48 (some []) 0,
    dictRow 0x5000 0x5FFF 0x05 0x05 0x06 2 113 48 (some ['P', 'l', 'a', 'n']) 0,
    dictRow 0x5000 0x5FFF 0x06 0x06 0x1B 8 113 48 (some ['T', 'i', 'c', 'k']) 0,
    dictRow 0x5000 0x5FFF 0x07 0x07 0x07 4 113 48 (some ['T', 'i', 'c', 'k']) 0,
    dictRow 0x5000 0x5FFF 0x08 0x08 0x06 2 113 48 (some ['R', 'e', 'c', 'o', 'r', 'd']) 0,
    dictRow 0x5000 0x5FFF 0x09 0x09 0x07 4 113 48 (some []) 0,
    dictRow 0x5000 0x5FFF 0x0A 0x0A 0x0A 256 113 48 (some []) 0 ]

/-- Host, reliability, census, security and contexts (R446, R476, R496, R524). -/
def dictHost : List DictRow := dictHostA ++ dictHostB ++ dictHostC

/-- The whole dictionary (R511). -/
def dictRows : List DictRow :=
  dictComm ++ dictCal ++ dictIdent ++ dictPower ++ dictFuncs ++ dictTick ++ dictHost

/-! ### Finding an entry -/

/-- What a request for an entry finds (R502, R511). -/
inductive DictFound where
  | noIndex
  | noSub
  | row (r : DictRow)

/-- The entry of an index and a subindex (R511). -/
def dictFind (idx sub : Nat) : DictFound :=
  let at_ := dictRows.filter fun r => decide (r.i0 ≤ idx ∧ idx ≤ r.i1)
  if at_.isEmpty then .noIndex
  else match at_.find? fun r => decide (r.s0 ≤ sub ∧ sub ≤ r.s1) with
    | some r => .row r
    | none => .noSub

/-- The entries that a keeper in recovery serves (R483). -/
def recoveryServes (idx : Nat) : Bool :=
  decide (idx < 0x2000) || decide (idx = 0x2220 ∨ idx = 0x2230 ∨ idx = 0x2231 ∨ idx = 0x4800) ||
    decide (0x4820 ≤ idx ∧ idx ≤ 0x4860)

/-- The entry that a request finds now. -/
def State.dictLook (s : State) (idx sub : Nat) : DictFound :=
  if s.sec.recovery && !recoveryServes idx then .noIndex else dictFind idx sub

/-- A plan slot, free or not. -/
def State.slotAt (s : State) (i : Nat) : Option Plan := (s.plans.find? fun x => decide (x.1 = i)).map (·.2)

/-- The plan-slot entry (R48). -/
def State.slotWord (s : State) (i : Nat) : Nat :=
  match s.slotAt i with
  | some p => p.state.code * 2 ^ 28 + p.reason.toNat * 2 ^ 20 + p.ctx.toNat
  | none => 0

/-- The context whose owner has the right "own" at an entry (R505, R520, R524). -/
def State.entryCtx (s : State) (idx sub : Nat) : Nat :=
  if 0x5000 ≤ idx then idx - 0x5000
  else if 0x3010 ≤ idx then s.slotWord ((idx % 2) * 128 + sub - 1) % 4096
  else (idx - 0x2810) * 128 + sub - 1

/-- The digit of a row's rights that concerns a source. -/
def DictRow.right (r : DictRow) : DictSrc → Nat
  | .can => r.rights / 100
  | .pf => r.rights / 10 % 10
  | .vf _ => r.rights % 10

/-- The right that a source has at an entry: 0 none, 1 RO, 2 RW (R418, R505). The mailbox of a virtual
function is reached by that function alone (R487). -/
def State.rightOf (s : State) (src : DictSrc) (r : DictRow) (idx sub : Nat) : Nat :=
  let d := r.right src
  match src with
  | .vf f =>
    if 0x4822 ≤ idx ∧ idx ≤ 0x4860 then (if idx - 0x4821 = f.toNat then d else 0)
    else if 3 ≤ d then (if s.owner (s.entryCtx idx sub) = f then d - 2 else 0)
    else d
  | _ => d

/-- Whether some source may write an entry. -/
def DictRow.writable (r : DictRow) : Bool :=
  decide (r.rights / 100 = 2 ∨ r.rights / 10 % 10 = 2 ∨ r.rights % 10 = 2 ∨ r.rights % 10 = 4)

/-- The abort code of a request for access, 0 where it is allowed (R502, R505). DEDUCED (log entry 47). -/
def State.accessCode (s : State) (src : DictSrc) (r : DictRow) (idx sub : Nat) (write : Bool) : Nat :=
  let a := s.rightOf src r idx sub
  if a = 0 then 0x06010000
  else if write ∧ a ≠ 2 then (if r.writable then 0x06010000 else 0x06010002)
  else 0

/-- Whether another source holds an entry: a transfer in parts, or a segmented exchange over CAN (R504). -/
def State.heldBy (s : State) (src : DictSrc) (idx sub : Nat) : Bool :=
  (s.dict.transfers.any fun t => decide (t.src ≠ src ∧ t.index.toNat = idx ∧ t.sub.toNat = sub)) ||
    (match s.dict.usdo with
     | some u => decide (src ≠ .can ∧ u.index.toNat = idx ∧ u.sub.toNat = sub)
     | none => false)

/-! ### Selectors (R509) -/

/-- The key of a selector of a source. -/
def selKey (src : DictSrc) (idx sub : Nat) : Nat :=
  (match src with | .can => 0 | .pf => 1 | .vf f => 1 + f.toNat) * 2 ^ 24 + idx * 256 + sub

/-- A source's own value of a selector, or the default. DESIGN CHOICE (log entry 49). -/
def State.selVal (s : State) (src : DictSrc) (idx sub : Nat) (dflt : List Byte) : List Byte :=
  (Tab.get none s.dict.sel (selKey src idx sub)).getD dflt

/-- A selector written. -/
def State.setSel (s : State) (src : DictSrc) (idx sub : Nat) (v : List Byte) : State :=
  { s with dict := { s.dict with sel := Tab.set none s.dict.sel (selKey src idx sub) (some v) } }

/-! ### Values of entries -/

/-- A number as an entry of `n` bytes. -/
def entryNum (n v : Nat) : Option (List Byte) := some (natToBytes n v)

/-- An INTEGER16 as an entry. -/
def entryInt (v : Int) : Option (List Byte) := some (natToBytes 2 (BitVec.ofInt 16 v).toNat)

/-- The communication profile (R499, R503, R512, R519). A register of a TPDO that CiA 1301 lays out. -/
def State.commValue (s : State) (idx sub : Nat) (dflt : List Byte) : Option (List Byte) :=
  let n := s.dict.nodeId.toNat
  if idx = 0x1001 then some [s.dict.errReg]
  else if idx = 0x100A then
    entryNum 16 (Config.softwareVersion (slice s.sec.runHead 0x10 32)).toNat
  else if idx = 0x1014 then some (s.entryVal idx 0 (natToBytes 4 (0x80 + n)))
  else if idx = 0x1018 ∧ sub = 3 then entryNum 4 (leAt (s.fuseBytes 0x80 1) 0 1 * 2 ^ 16 + s.runSvn)
  else if idx = 0x1018 ∧ sub = 4 then entryNum 4 (leAt (s.fuseBytes 0x78 8) 0 4)
  else if 0x1800 ≤ idx ∧ idx ≤ 0x1803 ∧ sub = 1 then
    some (s.entryVal idx 1 (natToBytes 4 (2 ^ 31 + 0x180 + (idx - 0x1800) * 0x100 + n)))
  else if idx = 0x1F50 then some (s.image (decide (sub = 2))).bytes
  else if idx = 0x1F57 then entryNum 4 (s.image (decide (sub = 2))).status.toNat
  else some (s.entryVal idx sub dflt)

/-- The user trim that an entry reads: the one written last (R514). -/
def State.trimShown (s : State) (key : Nat) : Int :=
  (Tab.get none s.dict.trimsNext key).getD (Tab.get 0 s.dict.trims key)

/-- Calibration (R514, R557). -/
def State.calValue (s : State) (idx sub : Nat) : Option (List Byte) :=
  if idx < 0x2100 then
    if sub = 0xFE then entryInt (calLimits idx).1
    else if sub = 0xFF then entryInt (calLimits idx).2
    else entryInt (thrFactory idx sub)
  else if 0x80 < sub then entryInt (s.effective (idx - 0x100) (sub - 0x80))
  else entryInt (s.trimShown (idx * 256 + sub))

/-- The physical bay of the fuse map (R27). -/
def State.fuseBay (s : State) (b : Nat) : Nat :=
  match Tab.get 0 s.map.fusePhys b with
  | 0 => b % 128
  | n + 1 => n

/-- Stacks of the south edge (R340). -/
def southStack (i : Nat) : Bool := decide (i % 4 ≥ 2)

/-- Whether a stack is in use: not excluded, and in half mode on the edge without an excluded stack (R340). -/
def State.stackPresent (s : State) (i : Nat) : Bool :=
  !(s.stack i).excluded &&
    (upto 8).all fun j => !(decide (southStack i = southStack j) && (s.stack j).excluded)

/-- A mask of the positions that meet a condition. -/
def maskOf (n : Nat) (f : Nat → Bool) : Nat := (upto n).foldl (fun m i => if f i then m + 2 ^ i else m) 0

/-- The bays of a die that are present (R541). -/
def State.baysPresent (s : State) (die : Nat) : Nat :=
  128 - (s.start.bayMiss.filter fun b => decide (b / 128 = die)).length

/-- The text of a unit in a description record. -/
def DictRow.unitBytes (r : DictRow) (key : Nat) : List Byte :=
  match r.unit with
  | some l => ((l.map fun (c : Char) => BitVec.ofNat 8 c.toNat) ++ List.replicate 8 0).take 8
  | none => natToBytes 8 (Config.unitText key).toNat

/-- The description record of an entry (R513). -/
def DictRow.describe (r : DictRow) (idx sub : Nat) : List Byte :=
  natToBytes 2 r.typ ++ natToBytes 1 (r.rights / 100) ++ natToBytes 1 (r.rights / 10 % 10) ++
    natToBytes 1 (r.rights % 10) ++ natToBytes 1 r.flags ++ [0, 0] ++ r.unitBytes (idx * 256 + sub) ++
    natToBytes 16 r.dflt

/-- The key of the day book's CHECK (R537). -/
def State.dayKey (s : State) : List Byte := kdf256 (s.fuseBytes 0x40 32 ++ [0x44, 0x42, 0x4B])

/-- A record of the day book as flash holds it (R538). -/
def DayRec.bytes (key : List Byte) (r : DayRec) : List Byte :=
  let b := natToBytes 4 r.start.toNat ++ [r.step, r.kind] ++ natToBytes 2 r.item.toNat ++ [r.outcome, r.choice] ++
    natToBytes 2 r.reason.toNat ++ natToBytes 4 r.time.toNat ++ natToBytes 8 r.detail.toNat
  b ++ (hmacSm3 key b).take 8

/-- The bytes that PEEK_SELECT and PEEK_LENGTH of a source name; `none` outside the populated address space
(R517). Words whose data is lost read as free bytes. -/
def State.peekBytes (s : State) (src : DictSrc) (w : Word) : Option (List Byte) :=
  let sel := word (bytesToNat (s.selVal src 0x2240 1 (natToBytes 8 0)))
  let n := bytesToNat (s.selVal src 0x2240 2 (natToBytes 2 1))
  let free (i : Nat) : Byte := (Config.freeWord (w.toNat + i)).setWidth 8
  if sel.getLsbD 63 then
    some ((upto n).map fun j => s.readbackByte (field sel 16 12) (fieldN sel 0 16 + j) w)
  else
    let a := fieldN sel 0 44
    if s.present a n then
      some ((upto n).map fun j => if s.lostIn (a + j) 1 then free j else s.anyByte (a + j))
    else none

/-- The tokens of a read of PEEK_DATA: unplanned ones of partition 0 (R346, R517). -/
def State.peekAsk (s : State) (src : DictSrc) : Bool × State :=
  let sel := word (bytesToNat (s.selVal src 0x2240 1 (natToBytes 8 0)))
  let n := bytesToNat (s.selVal src 0x2240 2 (natToBytes 2 1))
  let a := fieldN sel 0 44
  if sel.getLsbD 63 || !s.present a n then (true, s)
  else s.askHbm (.peek src) .unplanned 1 (s.tokensFor 1 ((piecesOf a n).map fun x => (x.1, 0)))

/-- Identity, inventory, fuses, readback and the day book (R2, R27, R247, R496, R513, R517, R541). -/
def State.identValue (s : State) (src : DictSrc) (idx sub : Nat) (w : Word) (dflt : List Byte) : Option (List Byte) :=
  let die := idx % 2
  if idx = 0x2202 then
    match sub with
    | 1 => entryNum 1 (maskOf 8 s.stackPresent)
    | 2 => entryNum 2 s.start.linkMask.toNat
    | 3 => entryNum 1 (s.baysPresent 0)
    | 4 => entryNum 1 (s.baysPresent 1)
    | _ => entryNum 2 (16 * (s.baysPresent 0 + s.baysPresent 1))
  else if idx = 0x2203 then
    let sel := s.selVal src 0x2203 1 (natToBytes 4 0)
    if sub = 1 then some sel
    else
      let v := bytesToNat sel
      match s.dictLook (v / 256) (v % 256) with
      | .row r => some (r.describe (v / 256) (v % 256))
      | _ => entryNum 32 0
  else if 0x2210 ≤ idx ∧ idx ≤ 0x2215 ∧ sub = 0 then some dflt
  else if idx = 0x2210 ∨ idx = 0x2211 then entryNum 1 (s.physBay (die * 128 + sub - 1))
  else if idx = 0x2212 ∨ idx = 0x2213 then entryNum 4 (Tab.get 0 s.map.redirect (die * 64 + sub - 1)).toNat
  else if idx = 0x2214 ∨ idx = 0x2215 then entryNum 1 (s.fuseBay (die * 128 + sub - 1))
  else if idx = 0x2216 then
    match sub with
    | 1 => entryNum 1 (s.spareBayCount 0)
    | 2 => entryNum 1 (s.spareBayCount 1)
    | 3 => entryNum 2 (s.spareCarrelCount 0)
    | _ => entryNum 2 (s.spareCarrelCount 1)
  else if idx = 0x2217 then entryNum 2 (Tab.get 0 s.map.spareRows (sub - 1))
  else if idx = 0x2220 then
    match sub with
    | 1 => some (s.fuseBytes 0 32)
    | 2 => some (s.fuseBytes 0x20 32)
    | 3 => some (sm3 (s.fuseBytes 0x40 32))
    | 4 => entryNum 1 s.arbCount
    | _ => some [s.prot]
  else if idx = 0x2230 then some s.sec.cert
  else if idx = 0x2231 then some (sm2Pub s.idKey)
  else if idx = 0x2240 then
    match sub with
    | 1 => some (s.selVal src idx 1 (natToBytes 8 0))
    | 2 => some (s.selVal src idx 2 (natToBytes 2 1))
    | _ => s.peekBytes src w
  else if idx = 0x2250 then
    match sub with
    | 1 => entryNum 4 s.start.count.toNat
    | 2 => entryNum 1 (max 3 s.start.step.toNat)
    | 3 => some [s.start.outcome]
    | 4 => entryNum 4 s.start.ms.toNat
    | _ => entryNum 2 s.start.standing.toNat
  else if idx = 0x2251 then some (s.start.book.flatMap fun r => r.bytes s.dayKey)
  else some (s.entryVal idx sub dflt)

/-- Power, thermal and input monitoring (R556). -/
def State.powerValue (s : State) (idx sub : Nat) : Option (List Byte) :=
  let p := s.power
  let rail := Tab.get Rail.reset p.rails (sub - 1)
  if idx = 0x2400 then
    entryNum 2 ([p.vinSense, p.vinPin, p.iin, p.pin, p.pinMax].getD (sub - 1) 0).toNat
  else if idx = 0x2401 then entryNum 2 rail.volt.toNat
  else if idx = 0x2402 then entryNum 2 rail.curr.toNat
  else if idx = 0x2410 then entryNum 2 (s.zone (sub - 1)).temp.toNat
  else if idx = 0x2411 then entryNum 1 (s.zone (sub - 1)).level.toNat
  else if idx = 0x2412 then entryNum 2 ([p.inlet, p.outlet, p.flow].getD (sub - 1) 0).toNat
  else if idx = 0x2413 then entryNum 1 s.moduleLevel.toNat
  else if idx = 0x2414 then entryNum 1 ((s.pwrReg 0x08).toNat % 256)
  else if idx = 0x2420 then
    match sub with
    | 1 => some [p.shutCause]
    | 2 => some [p.shutZone]
    | _ => entryNum 4 p.shutCount.toNat
  else entryNum 1 (b2n p.autoRestart)

/-- The function of a function entry (R520). -/
def funcOf (idx sub : Nat) : Option FuncId :=
  let n := sub - 1
  if idx = 0x2800 then (if h : n < 12 then some (.link ⟨n, h⟩) else none)
  else if idx = 0x2801 then some (.stack (BitVec.ofNat 3 n))
  else if idx = 0x2802 then some (.part (BitVec.ofNat 6 n))
  else if idx = 0x2803 ∨ idx = 0x2804 then some (.bay (BitVec.ofNat 8 ((idx - 0x2803) * 128 + n)))
  else if 0x2810 ≤ idx ∧ idx ≤ 0x282F then some (.ctx (BitVec.ofNat 12 ((idx - 0x2810) * 128 + n)))
  else none

/-- What a function entry reads (R521). -/
def Func.entry (f : Func) : Nat := b2n f.request + f.state.toNat * 2 ^ 8 + b2n f.deferred * 2 ^ 11 + b2n f.fault * 2 ^ 12

/-- Ticks, plans, memory, links and chain (R48, R361, R413, R518). TICK_ROLE reads 0 while the chain is not set up, on a
module in SETUP or JOIN too. DESIGN CHOICE (log entry 75). -/
def State.tickValue (s : State) (idx sub : Nat) : Option (List Byte) :=
  let slot := (idx % 2) * 128 + sub - 1
  let k := s.stack (sub - 1)
  let l := s.link (sub - 1)
  if idx = 0x3000 then
    match sub with
    | 1 => entryNum 4 s.tick.len.toNat
    | 2 => entryNum 8 s.tick.no.toNat
    | 3 => entryNum 1 (if s.chain.up then (if s.chain.live.master then 1 else 2) else 0)
    | _ => entryNum 4 10000
  else if idx = 0x3010 ∨ idx = 0x3011 then entryNum 4 (s.slotWord slot)
  else if idx = 0x3012 ∨ idx = 0x3013 then entryNum 8 (((s.plan slot).map (·.imageVa.toNat)).getD 0)
  else if idx = 0x3014 ∨ idx = 0x3015 then some (((s.plan slot).map (·.digest)).getD (List.replicate 32 0))
  else if idx = 0x3400 then entryNum 2 k.temp.toNat
  else if idx = 0x3401 then entryNum 1 k.refrate.toNat
  else if idx = 0x3402 then entryNum 4 k.corr.toNat
  else if idx = 0x3403 then entryNum 2 k.uncorr.toNat
  else if idx = 0x3404 then entryNum 1 (b2n k.throttle)
  else if idx = 0x3405 then entryNum 1 (b2n s.halfMode)
  else if idx = 0x3406 then entryNum 8 s.hbmEnd
  else if idx = 0x3800 then entryNum 1 l.state.toNat
  else if idx = 0x3801 then entryNum 1 (l.tlanes &&& l.rlanes).toNat
  else if idx = 0x3802 then entryNum 4 l.delay.toNat
  else if idx = 0x3803 then entryNum 4 l.fecCorr.toNat
  else if idx = 0x3804 then entryNum 1 l.drops.toNat
  else match sub with
    | 1 => entryNum 2 s.ownChip.toNat
    | 2 => entryNum 1 (b2n s.chain.up)
    | 3 => entryNum 2 s.chain.depth.toNat
    | _ => entryNum 4 s.chain.minTick.toNat

/-- Host, reliability, census and security (R446, R476, R496). -/
def State.hostValue (s : State) (idx sub : Nat) (dflt : List Byte) : Option (List Byte) :=
  let k := s.keepers
  let c := k.count
  let pick (l : List (Option (List Byte))) : Option (List Byte) := (l[sub - 1]?).getD none
  let dig (f : Flash) : Option (List Byte) := if f.valid then some f.bodyDigest else entryNum 32 0
  let b := s.mbox (idx - 0x4820)
  if idx = 0x3C00 then
    pick [entryNum 1 s.host.rate.toNat, entryNum 1 s.host.width.toNat, entryNum 2 s.host.dlDowns.toNat,
      entryNum 1 ((upto 64).filter fun i => s.host.vfs.getLsbD i).length]
  else if idx = 0x3C01 then entryNum 2 (s.host.ctxs.filter fun x => x.2.orphaned).length
  else if idx = 0x3C02 then entryNum 4 (s.host.ctxs.map fun x => x.2.lost.toNat).sum
  else if idx = 0x4000 then pick [entryNum 1 (b2n k.active), entryNum 1 (b2n k.standbyOk), entryNum 2 c.takeovers.toNat]
  else if idx = 0x4001 then
    pick [entryNum 4 c.gaps.toNat, entryNum 4 c.replayed.toNat, entryNum 2 c.substitutions.toNat, entryNum 2 c.halted.toNat]
  else if idx = 0x4002 then entryNum 4 s.census.ring.lost.toNat
  else if idx = 0x4400 then pick [entryNum 4 s.census.period.toNat, entryNum 8 s.census.snap.toNat]
  else if idx = 0x4800 then
    match sub with
    | 1 => entryNum 1 (b2n s.sec.runImage)
    | 2 => dig s.sec.imageA
    | 3 => dig s.sec.imageB
    | 4 => some (s.entryVal idx 4 dflt)
    | _ => entryNum 8 s.scrubPending
  else pick [entryNum 2 b.ctx.toNat, some [b.slot], some b.nonce, some [b.go], some [b.status], some b.report]

/-- The summary of a context (R524). -/
def State.ctxValue (s : State) (c sub : Nat) : Option (List Byte) :=
  let h := s.hctx c
  let l : List (Option (List Byte)) :=
    [entryNum 2 (s.func (.ctx (BitVec.ofNat 12 c))).entry, entryNum 1 (s.owner c).toNat,
      entryNum 4 (fieldN (s.hostCtxWord c) 0 32), entryNum 1 (b2n h.orphaned),
      entryNum 2 (s.residents.filter fun p => decide (p.ctx.toNat = c)).length,
      entryNum 8 h.committed, entryNum 4 h.replayed, entryNum 2 h.lost.toNat,
      entryNum 4 ((s.trainCtx c).allotWord.toNat % 2 ^ 32), some (s.segBytes c)]
  (l[sub - 1]?).getD none

/-- What an entry that exists reads for a source; `none` where the read ends with 0x0609_0030 (R517). `w`:
free values. -/
def State.dictValue (s : State) (src : DictSrc) (r : DictRow) (idx sub : Nat) (w : Word) : Option (List Byte) :=
  let dflt := natToBytes r.size r.dflt
  if idx < 0x2000 then s.commValue idx sub dflt
  else if idx < 0x2200 then s.calValue idx sub
  else if idx < 0x2400 then s.identValue src idx sub w dflt
  else if idx < 0x2800 then s.powerValue idx sub
  else if idx < 0x3000 then (funcOf idx sub).bind fun f => entryNum 2 (s.func f).entry
  else if idx < 0x3C00 then s.tickValue idx sub
  else if idx < 0x5000 then s.hostValue idx sub dflt
  else s.ctxValue (idx - 0x5000) sub

/-! ### Reads (R502, R505, R507, R508) -/

/-- Ends a transfer in parts of a source for an entry. -/
def State.endTransfer (s : State) (src : DictSrc) (idx sub : Nat) : State :=
  { s with dict := { s.dict with
    transfers := s.dict.transfers.filter fun t => !decide (t.src = src ∧ t.index.toNat = idx ∧ t.sub.toNat = sub) } }

/-- Opens or goes on with a transfer in parts. -/
def State.setTransfer (s : State) (src : DictSrc) (idx sub : Nat) (write : Bool) (b : List Byte) : State :=
  let s := s.endTransfer src idx sub
  { s with dict := { s.dict with
    transfers := { src := src, index := BitVec.ofNat 16 idx, sub := BitVec.ofNat 8 sub, write := write, bytes := b }
      :: s.dict.transfers } }

/-- A read of up to `len` bytes of an entry from an offset, and its end. A value of more than 4,096 B is read
in parts, which hold the entry. PEEK_DATA draws its tokens first. -/
def State.dictGet (s : State) (src : DictSrc) (idx sub off len : Nat) : State :=
  if s.dictServed src = false then s
  else match s.dictLook idx sub with
  | .noIndex => s.dictAbort src 0x06020000
  | .noSub => s.dictAbort src 0x06090011
  | .row r =>
    let c := s.accessCode src r idx sub false
    if c ≠ 0 then s.dictAbort src c
    else if len = 0 ∨ (4096 < len ∧ src ≠ .can) then s.dictAbort src 0x06090030
    else whenLet (if idx = 0x2240 ∧ sub = 3 then s.peekAsk src else (true, s)) fun s =>
      let (w, s) := s.draw
      match s.dictValue src r idx sub w with
      | none => s.dictAbort src 0x06090030
      | some v =>
        let n := v.length
        if (n ≤ 4096 ∧ off ≠ 0) ∨ (4096 < n ∧ n ≤ off) then s.dictAbort src 0x06090030
        else if r.size = 0 ∧ s.heldBy src idx sub then s.dictAbort src 0x08000022
        else
          let d := slice v off len
          let s := if 4096 < n ∧ src ≠ .can then
              (if off + d.length = n then s.endTransfer src idx sub else s.setTransfer src idx sub false [])
            else s
          s.dictEnd src 0 d.length n d

/-! ### Writes (R502, R505, R508, R514, R515, R517, R519, R521, R536) -/

/-- An image replaced in flash: emptied, with the bytes of an unfinished transfer, or checked; A_OK or B_OK follows
(R495, R519). -/
def State.flashSet (s : State) (b : Bool) (l : List Byte) (status : BitVec 16) : State :=
  let s := s.setImage b { bytes := l, status := status }
  s.setSec (if b then { s.sec with bOk := decide (status = 0) } else { s.sec with aOk := decide (status = 0) })

/-- A part of PROGRAM_DATA at an offset: the abort code and the state (R508, R519). DEDUCED (log entry 50). -/
def State.programPart (s : State) (src : DictSrc) (sub off : Nat) (v : List Byte) : Nat × State :=
  let b := decide (sub = 2)
  let f := s.image b
  let own := s.dict.transfers.any fun t =>
    decide (t.src = src ∧ t.index = 0x1F50 ∧ t.sub.toNat = sub) && t.write
  let have_ := if own then f.bytes else []
  if 16777216 < off + v.length then (0x06070010, s)
  else if off ≠ 0 ∧ off ≠ have_.length then (0x06090030, s)
  else if s.heldBy src 0x1F50 sub then (0x08000022, s)
  else if f.status = 1 ∨ (f.open_ ∧ own) then
    let all := if off = 0 then v else have_ ++ v
    (0, (s.flashSet b all 2).setTransfer src 0x1F50 sub true all)
  else (0x08000022, s)

/-- A write of PROGRAM_CONTROL (R519). -/
def State.programControl (s : State) (sub v : Nat) : Nat × State :=
  let b := decide (sub = 2)
  let f := s.image b
  let s' := s.noteWrite 0x1F51 sub [BitVec.ofNat 8 v]
  let done (s : State) : State :=
    { s with dict := { s.dict with
      transfers := s.dict.transfers.filter fun t => !(decide (t.index = 0x1F50 ∧ t.sub.toNat = sub) && t.write) } }
  if v = 3 then
    if (b = s.sec.runImage ∧ !(s.image (!b)).valid) ∨ f.open_ then (0x08000022, s)
    else (0, s'.flashSet b [] 1)
  else if v = 1 then
    let n := s.imageCheck f
    (0, (done s').flashSet b f.bytes (if n = 0 then 0 else BitVec.ofNat 16 (3 + n * 256)))
  else (0x06090030, s)

/-- Whether an entry is part of what STORE_ALL saves: user calibration and the writable communication
entries (R515). -/
def storedKey (key : Nat) : Bool :=
  let i := key / 256
  decide (0x2100 ≤ i ∧ i < 0x2200) || decide (i = 0x1014 ∨ i = 0x1015 ∨ i = 0x1017) ||
    decide (0x1800 ≤ i ∧ i ≤ 0x1803) || decide (0x1A00 ≤ i ∧ i ≤ 0x1A03)

/-- STORE_ALL: the values as they stand are captured (R515). DEDUCED (log entry 52). -/
def State.storeAll (s : State) : State :=
  let comm := s.dict.vals.filter fun ((k, _) : Nat × Option (List Byte)) => storedKey k
  let trims := s.dict.trimsNext.foldl (fun t ((k, v) : Nat × Option Int) => match v with
    | some v => Tab.set 0 t k v
    | none => t) s.dict.trims
  let saved := trims.foldl (fun t ((k, v) : Nat × Int) =>
    Tab.set none t k (some (natToBytes 2 (BitVec.ofInt 16 v).toNat))) comm
  { s with dict := { s.dict with stored := saved } }

/-- A stored trim as a number: signed, but for the coolant flow (R514, R557). -/
def storedTrim (key : Nat) (b : List Byte) : Int :=
  if key / 256 = 0x2125 then (bytesToNat b : Int) else (BitVec.ofNat 16 (bytesToNat b)).toInt

/-- The trims that flash holds. -/
def DictUnit.storedTrims (d : DictUnit) : Tab Int :=
  d.stored.foldl (fun t ((k, v) : Nat × Option (List Byte)) => match v with
    | some b => if 0x210000 ≤ k ∧ k < 0x220000 then Tab.set 0 t k (storedTrim k b) else t
    | none => t) []

/-- The communication entries that flash holds, with the values of other entries as they are. -/
def DictUnit.storedComm (d : DictUnit) : Tab (Option (List Byte)) :=
  let keep := d.vals.filter fun ((k, _) : Nat × Option (List Byte)) => !storedKey k
  d.stored.foldl (fun t ((k, v) : Nat × Option (List Byte)) =>
    if k < 0x200000 then Tab.set none t k v else t) keep

/-- The length in bits that a mapping entry must give: that of a mappable entry (R503). -/
def mapOk (v : Nat) : Bool :=
  match dictFind (v / 65536) (v / 256 % 256) with
  | .row r => decide (r.flags / 8 % 2 = 1) && decide (v % 256 = 8 * r.size)
  | _ => false

/-- A write of a TPDO record (R503): the transmission types, and mappings of mappable entries, 64 B in all,
only while bit 31 of the COB-ID is set. -/
def State.tpdoWrite (s : State) (idx sub : Nat) (v : List Byte) : Nat × State :=
  let n := bytesToNat v
  let ok := (0, s.noteWrite idx sub v)
  if idx < 0x1A00 then
    if sub = 2 ∧ n ≠ 0xFE ∧ n ≠ 0xFF then (0x06090030, s) else ok
  else
    let cob := ((s.commValue (idx - 0x200) 1 []).map bytesToNat).getD 0
    let mapped (k : Nat) : Nat := bytesToNat (s.entryVal idx k (natToBytes 4 0))
    let total := ((upto n).map fun k => mapped (k + 1) % 256).sum
    if (if sub = 0 then decide (64 < n ∨ 512 < total) else decide (n ≠ 0) && !mapOk n) then (0x06090030, s)
    else if cob / 2 ^ 31 = 0 then (0x08000022, s)
    else ok

/-- What a write of a whole value does: the abort code, 0 for success, and the state. The source's right and
the length have been checked. -/
def State.dictPut (s : State) (src : DictSrc) (idx sub : Nat) (v : List Byte) : Nat × State :=
  let n := bytesToNat v
  let range : Nat × State := (0x06090030, s)
  let note := s.noteWrite idx sub v
  let box (f : Mailbox → Mailbox) : Nat × State := (0, s.setBox (idx - 0x4820) (f (s.mbox (idx - 0x4820))))
  if idx = 0x1010 then (if n = 0x65766173 then (0, note.storeAll) else range)
  else if idx = 0x1011 then
    if n = 0x64616F6C then (0, { note with dict := { note.dict with stored := [] } }) else range
  else if idx = 0x1014 ∨ idx = 0x1015 ∨ idx = 0x1017 then (0, note)
  else if idx < 0x1F00 then s.tpdoWrite idx sub v
  else if idx = 0x1F50 then s.programPart src sub 0 v
  else if idx = 0x1F51 then s.programControl sub n
  else if idx < 0x2200 then
    let key := idx * 256 + sub
    (0, { s with dict := { s.dict with trimsNext := Tab.set none s.dict.trimsNext key (some (storedTrim key v)) } })
  else if idx = 0x2203 then
    match s.dictLook (n / 256) (n % 256) with
    | .noIndex => (0x06020000, s)
    | .noSub => (0x06090011, s)
    | .row _ => (0, s.setSel src idx sub v)
  else if idx = 0x2240 then
    if sub = 2 ∧ (n = 0 ∨ 256 < n) then range else (0, s.setSel src idx sub v)
  else if idx = 0x2252 then
    if n = 1 ∨ n = 2 then (0, { note with start := { note.start with clear := BitVec.ofNat 8 n } }) else range
  else if idx = 0x2421 then
    if n ≤ 1 then (0, s.modPower fun p => { p with autoRestart := decide (n = 1) }) else range
  else if idx < 0x3000 then
    match funcOf idx sub with
    | none => range
    | some f =>
      if 1 < n then range
      else if s.starting ∨ (if n = 1 then s.enableRefused f else s.disableRefused f) then (0x08000022, s)
      else (0, s.funcWrite f (decide (n = 1)))
  else if idx = 0x4400 then
    if n < 2 ^ 20 then (0, { s with census := { s.census with period := BitVec.ofNat 20 n } }) else range
  else if idx = 0x4800 then s.arbPut (BitVec.ofNat 8 n)
  else match sub with
    | 1 => box fun b => { b with ctx := BitVec.ofNat 16 n }
    | 2 => box fun b => { b with slot := BitVec.ofNat 8 n }
    | 3 => box fun b => { b with nonce := v }
    | _ => if n = 1 then (0, s.attRequest (idx - 0x4820)) else box fun b => { b with go := BitVec.ofNat 8 n }

/-- A write of `v` at an offset of an entry, and its end: existence, right, length, then what the entry does
(R502, R508). -/
def State.dictSet (s : State) (src : DictSrc) (idx sub off : Nat) (v : List Byte) : State :=
  if s.dictServed src = false then s
  else match s.dictLook idx sub with
  | .noIndex => s.dictAbort src 0x06020000
  | .noSub => s.dictAbort src 0x06090011
  | .row r =>
    let c := s.accessCode src r idx sub true
    if c ≠ 0 then s.dictAbort src c
    else if r.size = 0 then State.endPut (s.programPart src sub off v) src v.length
    else if v.length ≠ r.size then s.dictAbort src 0x06070010
    else if off ≠ 0 then s.dictAbort src 0x06090030
    else if s.heldBy src idx sub then s.dictAbort src 0x08000022
    else State.endPut (s.dictPut src idx sub v) src v.length

/-! ### The dictionary window (R506 to R508) -/

/-- The source behind a window. -/
def windowSrc (f : BitVec 6) : DictSrc := if f = 0 then .pf else .vf f

/-- GO with WRITE 0: the entry is read into the window's buffer. -/
def execDictRead (f : BitVec 6) (s : State) : Out :=
  .next <|
    let w := s.win f.toNat
    if w.write then s
    else
      let src := windowSrc f
      let s := s.modWin f.toNat fun w => { w with go := true }
      s.dictGet src w.index.toNat w.sub.toNat w.offset.toNat w.length.toNat

/-- GO with WRITE 1: the buffer is written to the entry. -/
def execDictWrite (f : BitVec 6) (s : State) : Out :=
  .next <|
    let w := s.win f.toNat
    if w.write then
      let src := windowSrc f
      let s := s.modWin f.toNat fun w => { w with go := true }
      let n := w.length.toNat
      if n = 0 ∨ 4096 < n then
        if s.dictServed src = false then s
        else match s.dictLook w.index.toNat w.sub.toNat with
          | .noIndex => s.dictAbort src 0x06020000
          | .noSub => s.dictAbort src 0x06090011
          | .row r =>
            let c := s.accessCode src r w.index.toNat w.sub.toNat true
            s.dictAbort src (if c ≠ 0 then c else if r.size = 0 then 0x06090030 else 0x06070010)
      else
        s.dictSet src w.index.toNat w.sub.toNat w.offset.toNat ((upto n).map fun i => Tab.get 0 w.buf i)
    else s

/-- A transfer of several parts that saw none for 1 s is discarded (R508). -/
def execDictTransferTimeout (src : DictSrc) (s : State) : Out :=
  .next <|
    let mine := s.dict.transfers.filter fun t => decide (t.src = src)
    let s := mine.foldl (fun s t =>
      if t.write ∧ t.index = 0x1F50 then s.flashSet (decide (t.sub = 2)) [] 1 else s) s
    { s with dict := { s.dict with transfers := s.dict.transfers.filter fun t => !decide (t.src = src) } }

/-- One write of the window's registers or buffer (R506, R507). Registers take one whole aligned write of
8 bytes; GO leaves the request waiting for the keeper. DEDUCED (log entry 46). -/
def State.windowWrite (s : State) (f : Nat) (o : Nat) (data : List Byte) : State :=
  let v := word (leAt data 0 8)
  let whole := decide (data.length = 8 ∧ o % 8 = 0)
  s.modWin f fun w =>
    if 0x1000 ≤ o ∧ o < 0x2000 then
      if w.go then w else { w with buf := bufSet w.buf (o - 0x1000) (data.take (0x2000 - o)) }
    else if whole = false then w
    else if o = 0 then
      if w.go then w else { w with
        index := field v 0 16, sub := field v 16 8, write := v.getLsbD 24, length := field v 32 32 }
    else if o = 8 then (if w.go then w else { w with offset := field v 0 32 })
    else if o = 0x10 then { w with go := w.go || v.getLsbD 0, err := w.err && !v.getLsbD 1 }
    else w

/-- A host write of BAR0: a device register, or the function's own dictionary window (R7, R37, R419, R506). -/
def execRegisterWrite (src : Src) (block : BitVec 7) (off : BitVec 16) (data : List Byte) (s : State) : Out :=
  .next <|
    if block.toNat < 64 then s.regAccess src block.toNat off.toNat data
    else if block = 64 then
      match src with
      | .pf => s.windowWrite 0 off.toNat data
      | .vf f => s.windowWrite f.toNat off.toNat data
      | _ => s
    else s

/-! ### Commands that are writes of one entry -/

def execStoreAll (src : DictSrc) (v : BitVec 32) (s : State) : Out :=
  .next (s.dictSet src 0x1010 1 0 (natToBytes 4 v.toNat))

def execRestoreAll (src : DictSrc) (v : BitVec 32) (s : State) : Out :=
  .next (s.dictSet src 0x1011 1 0 (natToBytes 4 v.toNat))

/-- A user trim is written: the two bytes of the entry (R514). -/
def execCalibrationTrimWrite (src : DictSrc) (idx : BitVec 16) (sub : BitVec 8) (v : Word) (s : State) : Out :=
  .next (if 0x2100 ≤ idx.toNat ∧ idx.toNat < 0x2200 then
      s.dictSet src idx.toNat sub.toNat 0 (natToBytes 2 v.toNat)
    else if s.dictServed src then s.dictAbort src 0x06020000 else s)

def execProgramClear (src : DictSrc) (sub : BitVec 8) (s : State) : Out :=
  .next (s.dictSet src 0x1F51 sub.toNat 0 [3])

def execProgramEnd (src : DictSrc) (sub : BitVec 8) (s : State) : Out :=
  .next (s.dictSet src 0x1F51 sub.toNat 0 [1])

def execClearStanding (src : DictSrc) (v : BitVec 8) (s : State) : Out :=
  .next (s.dictSet src 0x2252 0 0 [v])

def execPeekData (src : DictSrc) (off len : Nat) (s : State) : Out :=
  .next (s.dictGet src 0x2240 3 off len)

def execDescSelect (src : DictSrc) (v : BitVec 32) (s : State) : Out :=
  .next (s.dictSet src 0x2203 1 0 (natToBytes 4 v.toNat))

end Sys2Proof.Machine
end

