-- ==== Sys2Proof/Machine/Bar0.lean ====
section
/-!
DEFINITION. Host reads of BAR0 (R418 to R422): the register blocks, the dictionary window, the intake pages, the
census window (R471 to R473) and the state readback window.
-/

namespace Sys2Proof.Machine

/-- Byte `i` of a word. -/
def wordByte (w : Word) (i : Nat) : Byte := (w >>> (8 * i)).setWidth 8

/-! ### The dictionary window (R506, R507) -/

/-- The register at an aligned offset of a dictionary window. -/
def DictWin.reg (x : DictWin) (o : Nat) : Word :=
  if o = 0 then place x.index 0 ||| place x.sub 16 ||| place (bit x.write) 24 ||| place x.length 32
  else if o = 8 then place x.offset 0
  else if o = 0x10 then place (bit x.go) 0 ||| place (bit x.err) 1 ||| place x.abort 32
  else if o = 0x18 then place x.doneLen 0 ||| place x.size 32
  else 0

/-- A byte of a dictionary window. -/
def DictWin.byteAt (x : DictWin) (o : Nat) : Byte :=
  if 0x1000 ≤ o ∧ o < 0x2000 then Tab.get 0 x.buf (o - 0x1000)
  else wordByte (x.reg (o / 8 * 8)) (o % 8)

/-! ### The census window (R471 to R473) -/

/-- A byte of a record whose table names its contents without their places: the places are a function of the
implementation, and a byte that no content has is free. DESIGN CHOICE (log entry 88). -/
def placedByte (kind o : Nat) (l : List Byte) (free : Byte) : Byte :=
  match Config.censusPlace kind o with
  | some i => l.getD i free
  | none => free

/-- Word `i` of a carrel record (R472). The counters of cycles, of which the model has none, are free. DESIGN CHOICE
(log entry 88). -/
def Carrel.censusWord (k : Carrel) (c : BitVec 12) (i : Nat) (free : Word) : Word :=
  match i with
  | 4 => k.count.retired
  | 5 => k.count.imiss
  | 6 => k.count.dmiss
  | 11 => k.count.satElem
  | 12 => k.count.satArray
  | 13 => k.wd.max.setWidth 64
  | 14 => k.count.corrected.setWidth 64
  | 15 => k.count.segmiss
  | 16 => k.nan.stat c
  | 17 => if k.nan.valid then k.nan.ev.wtn else 0
  | 18 => if k.nan.valid then k.nan.ev.op else 0
  | 19 => if k.nan.valid then k.nan.ev.pos else 0
  | _ => if i < 20 then free else 0

/-- Numbers as words of 8 B. -/
def wordsBytes (l : List Nat) : List Byte := l.flatMap (natToBytes 8)

/-- The contents of the package page: the counts of R476, HEAD and LOST of the ring, and the package NaN record. -/
def Bank2.package (b : Bank2) : List Byte :=
  wordsBytes ([b.keeper.takeovers.toNat, b.keeper.gaps.toNat, b.keeper.replayed.toNat, b.keeper.substitutions.toNat,
    b.keeper.halted.toNat, b.ringHead.toNat, b.ringLost.toNat] ++ (upto 4).map fun i => (b.nan.reg i).toNat)

/-- The contents of a bay record; the busy cycles of the row engine are free. -/
def BayCount.record (x : BayCount) (free : Word) : List Byte :=
  wordsBytes ((upto 8).map (fun ch => Tab.get 0 x.bytes ch) ++ [free.toNat, x.folioTurns, x.rowSat])

/-- The contents of a link record. -/
def Link.record (k : Link) : List Byte :=
  wordsBytes [(k.reg 1).toNat, (k.reg 2).toNat, (k.reg 5).toNat, k.plannedFlits, k.unplFlits]

/-- The contents of a context record. -/
def State.ctxRecord (s : State) (c : Nat) : List Byte :=
  let h := s.hctx c
  wordsBytes [(s.hostCtxWord c).toNat, h.taken, h.bytesIn, h.bytesOut, h.committed, h.replayed]

/-- The header of a bank (R470, R471). -/
def State.bankHeader (s : State) (b : Bank2) : List Byte :=
  natToBytes 8 (if b.done then b.tag.toNat else 0) ++ natToBytes 2 b.chip.toNat ++ List.replicate 6 0 ++
    s.fuseBytes 0x78 8 ++ natToBytes 4 b.period.toNat

/-- A byte of a bank (R471). While its copy is not complete, every byte but those of the TAG is free. -/
def State.bankByte (s : State) (b : Bank2) (o : Nat) (w : Word) : Byte :=
  let free := Config.freeWord (w.toNat + o / 8)
  let fb := wordByte free (o % 8)
  let t := { s with hbm := b.hbm, links := b.links, host := { s.host with ctxs := b.ctxs } }
  if o < 8 then (s.bankHeader b).getD o 0
  else if !b.done then fb
  else if o < 0x40 then (s.bankHeader b).getD o 0
  else if 0x1000 ≤ o ∧ o < 0x2000 then placedByte 0 (o - 0x1000) b.package fb
  else if 0x010000 ≤ o ∧ o < 0x110000 then
    let c := BitVec.ofNat 12 ((o - 0x010000) / 256)
    wordByte ((Tab.get Carrel.reset b.carrels c.toNat).censusWord c (o % 256 / 8) free) (o % 8)
  else if 0x110000 ≤ o ∧ o < 0x120000 then
    placedByte 1 (o % 256) ((Tab.get BayCount.reset b.bays ((o - 0x110000) / 256)).record free) fb
  else if 0x120000 ≤ o ∧ o < 0x128000 then
    let i := (o - 0x120000) / 4096
    let p := o % 4096 / 8 * 8
    wordByte (if p < 0x30 then t.hbmReg i p else if 0x400 ≤ p ∧ p < 0x800 then t.hbmReg i (p + 0xC00) else 0) (o % 8)
  else if 0x130000 ≤ o ∧ o < 0x130C00 then placedByte 2 (o % 256) (t.link ((o - 0x130000) / 256)).record fb
  else if 0x140000 ≤ o ∧ o < 0x180000 then placedByte 3 (o % 64) (t.ctxRecord ((o - 0x140000) / 64)) fb
  else if 0x180000 ≤ o ∧ o < 0x2E0000 then
    ((Tab.get GaugeSet.reset b.gauges ((o - 0x180000) / 352)).bytes).getD ((o - 0x180000) % 352) 0
  else 0

/-- Whether a virtual function reads a byte of a bank (R473). -/
def State.vfCensus (s : State) (f : BitVec 6) (o : Nat) : Bool :=
  if 0x010000 ≤ o ∧ o < 0x110000 then s.vfCarrel f (BitVec.ofNat 12 ((o - 0x010000) / 256))
  else if 0x140000 ≤ o ∧ o < 0x180000 then s.owns f ((o - 0x140000) / 64)
  else if 0x180000 ≤ o ∧ o < 0x2E0000 then
    let i := (o - 0x180000) / 352
    s.train.any fun (c, t) =>
      decide (t.base.toNat ≤ i) && decide (i < t.base.toNat + t.count.toNat) && s.owns f c
  else false

/-- A byte of the census window. A bank that no snapshot has written reads 0. DESIGN CHOICE (log entry 88). -/
def State.censusByte (s : State) (o : Nat) (w : Word) : Byte :=
  match if o < 0x800000 then s.census.bankA else s.census.bankB with
  | some b => s.bankByte b (o % 0x800000) w
  | none => 0

/-! ### A read -/

/-- The function that makes a host access: 0 is the PF. -/
def hostFunc : Src → Option (BitVec 6)
  | .pf => some 0
  | .vf f => some f
  | _ => none

/-- A byte of BAR0 as a function reads it; none where R419 does not allow the read (R418, R419). `w` draws the
free places. -/
def State.bar0Byte (s : State) (src : Src) (f : BitVec 6) (a : Nat) (w : Word) : Option Byte :=
  let pf := decide (src = .pf)
  let lets (b : Bool) (v : Byte) : Option Byte := if pf || b then some v else none
  if a < 0x400000 then
    lets (s.vfReads f (a / 65536) (a % 65536 / 8 * 8)) (wordByte (s.regRead (a / 65536) (a % 65536)) (a % 8))
  else if a < 0x500000 then some ((s.win f.toNat).byteAt (a - 0x400000))
  else if 0x1000000 ≤ a ∧ a < 0x2000000 then
    lets (s.owns f ((a - 0x1000000) / 4096)) (Tab.get 0 s.host.intake (a - 0x1000000))
  else if 0x2000000 ≤ a ∧ a < 0x3000000 then
    let o := a - 0x2000000
    lets (s.vfCensus f (o % 0x800000)) (s.censusByte o w)
  else if 0x4000000 ≤ a ∧ a < 0x10000000 then
    let c := BitVec.ofNat 12 ((a - 0x4000000) / 0xC000)
    lets (s.vfCarrel f c) (s.readbackByte c ((a - 0x4000000) % 0xC000) (w + word (c.toNat * 0x1800)))
  else some 0

/-- A read of BAR0 from an offset in a block of 64 KB (R418 to R422). A byte that R419 does not allow reads 0, and an access that reaches
one is counted (R420). A sleeping carrel is woken for the read of its area and sleeps again (R422). -/
def execReadbackRead (src : Src) (block : BitVec 12) (off : BitVec 16) (len : Nat) (s : State) : Out :=
  match hostFunc src with
  | none => .next s
  | some f =>
    let (w, s) := s.draw
    let l := (upto len).map fun j => s.bar0Byte src f (block.toNat * 65536 + off.toNat + j) w
    let s := s.send (.answer src (l.map fun b => b.getD 0))
    .next (if l.all (·.isSome) then s else s.deny)

end Sys2Proof.Machine
end

