-- ==== Sys2Proof/Machine/Manage.lean ====
section
/-!
DEFINITION. The keepers' services on CAN FD (R497 to R503): NMT, heartbeat, TPDOs and USDO transfers; and
keeper takeover and failure (R462 to R464).
-/

namespace Sys2Proof.Machine

/-! ### NMT and heartbeat (R500, R501) -/

/-- Whether the keeper takes NMT commands and sends its heartbeat (R498, R500, R561). -/
def State.nmtServed (s : State) : Bool :=
  !s.keepers.none_ && !s.dict.busOff && decide (s.dict.nodeId ≠ 0 ∧ s.dict.nmt ≠ 0)

/-- An NMT state entered. -/
def State.setNmt (s : State) (n : BitVec 2) : State := { s with dict := { s.dict with nmt := n } }

/-- The message of heartbeat and boot-up (R499), with the state codes of CiA 1301. PRESUMED (log entry 48). -/
def State.sendBeat (s : State) (code : Byte) : State :=
  if s.nmtServed then s.send (.can (0x700 + s.dict.nodeId.toNat) [code]) else s

/-- The keeper sends boot-up and enters Pre-operational (R500). -/
def State.bootUp (s : State) : State := (s.setNmt 1).sendBeat 0

def execNmtStart (s : State) : Out := .next (if s.nmtServed then s.setNmt 2 else s)
def execNmtStop (s : State) : Out := .next (if s.nmtServed then s.setNmt 3 else s)
def execNmtPreOperational (s : State) : Out := .next (if s.nmtServed then s.setNmt 1 else s)

/-- Entries 0x1000 to 0x1FFF take their stored values (R500, R515). -/
def State.loadComm (s : State) : State := { s with dict := { s.dict with vals := s.dict.storedComm } }

def execResetCommunication (s : State) : Out := .next (if s.nmtServed then s.loadComm.bootUp else s)

/-- Unsaved user calibration is discarded, and the stored calibration takes effect at the next boundary
(R500, R514). -/
def State.loadTrims (s : State) : State :=
  let stored := s.dict.storedTrims
  let keys := (s.dict.trims.map (·.1) ++ stored.map (·.1)).eraseDups
  { s with dict := { s.dict with
    trimsNext := keys.foldl (fun t k => Tab.set none t k (some (Tab.get 0 stored k))) [] } }

def execResetApplication (s : State) : Out := .next (if s.nmtServed then s.loadComm.loadTrims.bootUp else s)

/-- The heartbeat timer expires; a time of 0 sends none (R501). -/
def execHeartbeat (s : State) : Out :=
  .next <|
    if bytesToNat (s.entryVal 0x1017 0 (natToBytes 2 100)) = 0 then s
    else s.sendBeat (if s.dict.nmt = 1 then 127 else if s.dict.nmt = 2 then 5 else 4)

/-! ### TPDOs (R503) -/

/-- TPDO `k` + 1 is sent when it has the transmission type and is enabled, in Operational, with the values of `v`.
PRESUMED (log entry 48). -/
def State.tpdoSend (s : State) (v : State) (k type : Nat) : State :=
  let cob := ((s.commValue (0x1800 + k) 1 []).map bytesToNat).getD 0
  let has := bytesToNat (s.entryVal (0x1800 + k) 2 [0xFE])
  if s.canTalk ∧ s.dict.nmt = 2 ∧ cob / 2 ^ 31 = 0 ∧ has = type then
    let count := bytesToNat (s.entryVal (0x1A00 + k) 0 [0])
    let data := (upto count).flatMap fun i =>
      let m := bytesToNat (s.entryVal (0x1A00 + k) (i + 1) (natToBytes 4 0))
      match dictFind (m / 65536) (m / 256 % 256) with
      | .row r => (v.dictValue .can r (m / 65536) (m / 256 % 256) 0).getD []
      | _ => []
    s.send (.can (cob % 2 ^ 11) data)
  else s

/-- The event timer of TPDO `n` expires (R503). DEDUCED (log entry 53). -/
def execTpdoEventTimer (n : BitVec 3) (s : State) : Out :=
  .next (if 1 ≤ n.toNat ∧ n.toNat ≤ 4 then s.tpdoSend s (n.toNat - 1) 0xFF else s)

/-- The copy of the bank written last is complete: its TAG and CEN_SNAP show its boundary (R470), and the
TPDOs of type 0xFE are sent with its values (R503). -/
def execCensusCopyDone (s : State) : Out :=
  .next <|
    let go (b : Option Bank2) : Option Bank2 := b.map fun x => { x with done := true }
    let tpdos (b : Bank2) (s : State) : State :=
      let v := { s with power := b.power }
      (upto 4).foldl (fun s k => s.tpdoSend v k 0xFE) s
    match (if s.census.newest then s.census.bankB else s.census.bankA) with
    | some b =>
      if b.done then s
      else if s.census.newest then
        tpdos b { s with census := { s.census with bankB := go s.census.bankB, snap := b.tag } }
      else tpdos b { s with census := { s.census with bankA := go s.census.bankA, snap := b.tag } }
    | none => s

/-! ### USDO (R502, R504) -/

/-- A segmented exchange set. -/
def State.setUsdo (s : State) (u : Option Usdo) : State := { s with dict := { s.dict with usdo := u } }

/-- The checks of the first part of a segmented download: 0 where it may go on. -/
def State.usdoCode (s : State) (idx sub size : Nat) : Nat :=
  match s.dictLook idx sub with
  | .noIndex => 0x06020000
  | .noSub => 0x06090011
  | .row r =>
    let c := s.accessCode .can r idx sub true
    if c ≠ 0 then c
    else if (if r.size = 0 then decide (16777216 < size) else decide (size ≠ r.size)) then 0x06070010
    else if s.heldBy .can idx sub then 0x08000022
    else 0

/-- A USDO request writes an entry: up to 56 B at once, a longer value in segments. A new request ends an
exchange that is not finished. -/
def execUsdoDownload (idx : BitVec 16) (sub : BitVec 8) (size : Nat) (data : List Byte) (s : State) : Out :=
  .next <|
    if s.dictServed .can = false then s
    else
      let s := s.setUsdo none
      if size ≤ 56 ∨ size ≤ data.length then
        if data.length = size then s.dictSet .can idx.toNat sub.toNat 0 data
        else
          let c := s.usdoCode idx.toNat sub.toNat size
          s.dictAbort .can (if c = 0 then 0x06070010 else c)
      else
        let c := s.usdoCode idx.toNat sub.toNat size
        if c ≠ 0 then s.dictAbort .can c
        else (s.setUsdo (some { index := idx, sub := sub, size := size, bytes := data })).dictEnd .can 0 data.length size []

/-- A USDO request reads an entry. -/
def execUsdoUpload (idx : BitVec 16) (sub : BitVec 8) (s : State) : Out :=
  .next (s.dictGet .can idx.toNat sub.toNat 0 16777216)

/-- A segment arrives; the last one completes the write. -/
def execUsdoSegment (last : Bool) (data : List Byte) (s : State) : Out :=
  .next <|
    if s.dictServed .can = false then s
    else match s.dict.usdo with
      | none => s
      | some u =>
        let b := u.bytes ++ data
        if u.size < b.length ∨ (last ∧ b.length ≠ u.size) then (s.setUsdo none).dictAbort .can 0x06070010
        else if last then (s.setUsdo none).dictSet .can u.index.toNat u.sub.toNat 0 b
        else (s.setUsdo (some { u with bytes := b })).dictEnd .can 0 data.length u.size []

/-- No segment within 1 s: the exchange ends. -/
def execUsdoTimeout (s : State) : Out :=
  .next <|
    match s.dict.usdo with
    | none => s
    | some _ =>
      let s := s.setUsdo none
      if s.dictServed .can then s.dictAbort .can 0x05040000 else s

/-! ### The bus (R561) -/

def execCanBusOff (s : State) : Out := .next { s with dict := { s.dict with busOff := true } }
def execCanBusOffRecovery (s : State) : Out := .next { s with dict := { s.dict with busOff := false } }

/-! ### The keepers (R462 to R464) -/

/-- The heartbeat over the dedicated wires changes no state that the spec names. -/
def execKeeperHeartbeat (s : State) : Out := .next s

/-- A working standby keeper takes over (R462, R463): it aborts the USDO transfer in progress and the window
writes that are not acknowledged, and a gap that the failure interrupts is followed by a further one.
DEDUCED (log entry 51). -/
def State.takeover (s : State) (cause : Nat) : State :=
  let k := s.keepers
  let owed := s.tick.gapDue || decide (s.tick.part = .gap)
  let s := { s with
    keepers := { k with active := !k.active, standbyOk := false, count := { k.count with takeovers := k.count.takeovers + 1 } }
    tick := { s.tick with gapDue := owed } }
  let num := s.reportNum
  let s := s.report { blankReport with
    code := 0x50, unit := 6, unitno := (bit s.keepers.active).setWidth 16, d0 := word cause }
  let s := s.emcy 0xFF01 (some 7) (some num)
  let s := match s.dict.usdo with
    | some _ => (s.setUsdo none).dictAbort .can 0x08000000
    | none => s
  s.dict.windows.foldl (fun s ((f, w) : Nat × DictWin) =>
    if w.go ∧ w.write then s.dictAbort (if f = 0 then .pf else .vf (BitVec.ofNat 6 f)) 0x08000000 else s) s

def execKeeperTakeover (cause : BitVec 8) (s : State) : Out :=
  .next (if s.keepers.standbyOk ∧ s.keepers.none_ = false then s.takeover cause.toNat else s)

/-- Keeper `k` (false W, true E) fails. The active keeper without a working standby leaves the module without
a keeper, and only the ring and vector 0 report it (R464); a standby that fails no longer stands by. -/
def execKeeperFailure (k : Bool) (s : State) : Out :=
  .next <|
    if s.keepers.none_ then s
    else if k ≠ s.keepers.active then { s with keepers := { s.keepers with standbyOk := false } }
    else if s.keepers.standbyOk then s
    else
      let (w, s) := s.draw
      let s := { s with keepers := { s.keepers with none_ := true } }
      s.report { blankReport with
        code := 0x50, unit := 6, unitno := (bit s.keepers.active).setWidth 16, d0 := w }

end Sys2Proof.Machine
end

