-- ==== Sys2Proof/Machine/Startup.lean ====
section
/-!
DEFINITION. Start-up and the day book (spec/20, R525 to R541).
-/

namespace Sys2Proof.Machine

/-! ### The day book (R537 to R540) -/

/-- A record is written; the ring keeps the newest 4,096. -/
def State.day (s : State) (step kind item outcome choice reason : Nat) (time : BitVec 32) (detail : Nat) : State :=
  let r : DayRec :=
    { start := s.start.count, step := BitVec.ofNat 8 step, kind := BitVec.ofNat 8 kind, item := BitVec.ofNat 16 item
      outcome := BitVec.ofNat 8 outcome, choice := BitVec.ofNat 8 choice, reason := BitVec.ofNat 16 reason
      time := time, detail := word detail }
  let l := s.start.book ++ [r]
  { s with start := { s.start with book := l.drop (l.length - 4096) } }

/-- A free time: how long something takes is not stated. -/
def freeTime (w : Word) (i : Nat) : BitVec 32 := (Config.freeWord (w.toNat + i)).setWidth 32

/-- The failure count F of an item (R530). -/
def State.failsOf (s : State) (kind item : Nat) : Nat := Tab.get 0 s.start.fails (kind * 65536 + item)

/-- A failure count set. -/
def State.setFails (s : State) (kind item n : Nat) : State :=
  { s with start := { s.start with fails := Tab.set 0 s.start.fails (kind * 65536 + item) n } }

/-- What a start finds about an item; an item that is not listed passes. -/
def StartOutcomeItem (o : StartOutcome) (kind item : Nat) : Option ItemOutcome :=
  o.items.find? fun i => decide (i.kind.toNat = kind ∧ i.item.toNat = item)

/-- Whether an attempt of an item passes. -/
def itemPasses (o : StartOutcome) (kind item : Nat) : Bool :=
  match StartOutcomeItem o kind item with
  | some i => i.ok
  | none => true

/-- F at which an item is skipped (R531): 3 for stacks and receive lanes, 2 for bays. -/
def standingAt (kind : Nat) : Nat := if kind = 5 then 2 else 3

/-- Whether an item works in this start: neither skipped nor failed. -/
def State.itemWorks (s : State) (o : StartOutcome) (kind item : Nat) : Bool :=
  decide (s.failsOf kind item < standingAt kind) && itemPasses o kind item

/-- The record of an item and its new F (R530, R531, R538 to R540). -/
def State.itemRecord (s : State) (o : StartOutcome) (step kind item failChoice detail : Nat) (w : Word) : State :=
  let f := s.failsOf kind item
  if standingAt kind ≤ f then
    { (s.day step kind item 2 4 0 0 detail) with
      start := { (s.day step kind item 2 4 0 0 detail).start with standing := s.start.standing + 1 } }
  else
    match StartOutcomeItem o kind item with
    | some i =>
      if i.ok then (s.day step kind item 0 (if kind = 5 then 0 else f) 0 i.time 0).setFails kind item 0
      else (s.day step kind item 1 failChoice (step * 256 + i.code.toNat) i.time detail).setFails kind item (f + 1)
    | none => (s.day step kind item 0 (if kind = 5 then 0 else f) 0 (freeTime w (kind * 65536 + item)) 0).setFails kind item 0

/-- The record of a step that has ended (R540). -/
def State.stepRecord (s : State) (step : Nat) (ok : Bool) (reason : Nat) (w : Word) : State :=
  s.day step 0 0 (if ok then 0 else 1) 0 reason (freeTime w step) 0

/-! ### The steps (R525) -/

/-- The step that a start has reached. -/
def State.atStep (s : State) (n : Nat) : State := { s with start := { s.start with step := BitVec.ofNat 8 n } }

/-- A start stops (R533): STOP record, dictionary served, no tick. -/
def State.startStop (s : State) (step : Nat) : State :=
  let s := s.day 0 0 0 5 0 0 0 step
  let t := s.atStep step
  let s : State := { t with start := { t.start with outcome := 2, run := none } }
  if s.dict.nmt = 0 then s.bootUp else s

/-- Whether an item of a step has not ended its attempt. -/
def stepStuck (o : StartOutcome) (n : Nat) : Bool := o.items.any fun i => i.stuck && decide (itemStep i = n)

/-- A start waits for the limit of its step. -/
def State.startWait (s : State) (o : StartOutcome) (n : Nat) : State :=
  { s.atStep n with start := { (s.atStep n).start with run := some o } }

/-- A function's state after start-up (R520). -/
def State.funcStarts (s : State) (f : FuncId) (on fault : Bool) : State :=
  s.setFunc f { Func.reset with request := true, state := if on then 2 else 0, fault := fault }

/-- Whether the start is ready degraded (R541): a stack, receive lane or bay is excluded or remapped, a link
failed, or the other keeper runs. -/
def State.degraded (s : State) : Bool :=
  (s.start.book.any fun r => decide (r.start = s.start.count) &&
    (decide (r.choice = 7) || decide ((r.kind = 2 ∨ r.kind = 3 ∨ r.kind = 5) ∧ (r.outcome = 1 ∨ r.outcome = 2)))) ||
    s.dict.funcs.any fun x => decide (x.1 < 0x100) && x.2.fault

/-- Steps 9 and 10: tick 0 begins, the functions stand as R520 gives them, READY (R525, R541). -/
def State.startReady (s : State) (o : StartOutcome) (w : Word) : State :=
  let s := (upto 64).foldl (fun s i => s.funcStarts (.part (BitVec.ofNat 6 i)) true false) s
  let s := (s.funcStarts (.ctx 0) true false).modHctx 0 fun h => { h with nextSeq := 1 }
  let s := { s with start := { s.start with ticking := true } }
  let s := (s.stepRecord 9 true 0 w).stepRecord 10 true 0 w
  let top := s.start.fails.foldl (fun m ((_, n) : Nat × Nat) => max m n) 0
  let s := s.day 0 0 0 6 0 0 0 top
  let s := { s.atStep 10 with start := { (s.atStep 10).start with
    outcome := if s.degraded then 1 else 0, ms := o.ms, lastImage := s.sec.runImage, run := none } }
  s.openIntake

/-- The good physical bays of a die in the order of their test: 4 groups by bay mod 4. -/
def State.testBays (s : State) (die : Nat) : List Nat :=
  ((upto 4).flatMap fun g => (upto 33).map fun i => 4 * i + g).filter fun p => !s.map.fuseBad.contains (die * 132 + p)

/-- Step 8: the bays are tested; a failed bay's logical bay goes to the lowest-numbered free spare bay, or is
excluded (R529). -/
def State.start8 (s : State) (o : StartOutcome) (w : Word) : State :=
  if stepStuck o 8 then s.startWait o 8
  else
    let before := s
    let bad := (upto 2).flatMap fun die =>
      ((s.testBays die).filter fun p => !before.itemWorks o 5 (die * 256 + p)).map fun p => die * 132 + p
    let s := { s with map := { s.map with badBays := s.map.badBays ++ bad } }
    let failed := (upto 256).filter fun b => bad.contains (b / 128 * 132 + s.physBay b)
    let (s, took) := failed.foldl (fun ((s, took) : State × List (Nat × Nat)) b =>
      let old := b / 128 * 132 + s.physBay b
      match s.spareBays (b / 128) with
      | p :: _ =>
        ({ s with map := { s.map with phys := Tab.set 0 s.map.phys b (p + 1) } },
          took ++ [(old, b % 128 + p * 256)])
      | [] =>
        ({ s with start := { s.start with bayMiss := s.start.bayMiss ++ [b] } }, took)) (s, [])
    let s := (upto 2).foldl (fun s die => (s.testBays die).foldl (fun s p =>
      let moved := took.find? fun x => decide (x.1 = die * 132 + p)
      s.itemRecord o 8 5 (die * 256 + p) (if moved.isSome then 5 else 3) ((moved.map (·.2)).getD 0) w) s) s
    let s := (upto 256).foldl (fun s b =>
      let miss := s.start.bayMiss.contains b
      s.funcStarts (.bay (BitVec.ofNat 8 b)) (!miss) miss) s
    (s.stepRecord 8 true 0 w).startReady o w

/-- One link of step 7 (R384, R529, R531): lanes of standing exclusions are set in LNK_CTL.EXCL; a link that no
far end answers is OFF without FAULT. -/
def State.startLink (s : State) (o : StartOutcome) (w : Word) (l : Nat) : State :=
  let standing := (upto 8).filter fun j => decide (3 ≤ s.failsOf 3 (l * 8 + j))
  let lost := (upto 8).filter fun j => !s.itemWorks o 3 (l * 8 + j)
  let s := s.modLink l fun k => { k with excl := BitVec.ofNat 8 (maskOf 8 standing.contains) }
  match (o.links.find? fun x => decide (x.1 = l) && !x.2.noPeer).map (·.2) with
  | none =>
    let s := (s.day 7 4 l 3 0 0 (freeTime w (0x40000 + l)) 0).modLink l fun k => { k with state := 6 }
    let s := { s with start := { s.start with linkMask := s.start.linkMask &&& ~~~ (BitVec.ofNat 12 (2 ^ l)) } }
    if h : l < 12 then s.funcStarts (.link ⟨l, h⟩) false false else s
  | some r =>
    let r := { r with rlanes := r.rlanes &&& ~~~ (BitVec.ofNat 8 (maskOf 8 lost.contains)) }
    let s := s.modLink l fun k => k.trained r
    let ok := Sys2Proof.Machine.trainOk r
    let s := if ok then s else
      { s with start := { s.start with linkMask := s.start.linkMask &&& ~~~ (BitVec.ofNat 12 (2 ^ l)) } }
    let s := if h : l < 12 then s.funcStarts (.link ⟨l, h⟩) ok (!ok) else s
    (upto 8).foldl (fun s j => s.itemRecord o 7 3 (l * 8 + j) 3 0 w) s

/-- Step 7: the links train. -/
def State.start7 (s : State) (o : StartOutcome) (w : Word) : State :=
  if stepStuck o 7 then s.startWait o 7
  else
    let s := (upto 12).foldl (fun s l => s.startLink o w l) s
    (s.stepRecord 7 true 0 w).start8 o w

/-- Step 6: the stacks train; excluded stacks on both edges stop the start (R529, R533). -/
def State.start6 (s : State) (o : StartOutcome) (w : Word) : State :=
  if stepStuck o 6 then s.startWait o 6
  else
    let bad := (upto 8).filter fun i => !s.itemWorks o 2 i
    let s := (upto 8).foldl (fun s i => s.itemRecord o 6 2 i 3 0 w) s
    let s := bad.foldl (fun s i => s.modStack i fun k => { k with excluded := true }) s
    let s := (upto 8).foldl (fun s i =>
      s.funcStarts (.stack (BitVec.ofNat 3 i)) (s.stackPresent i) (bad.contains i)) s
    if bad.any southStack && bad.any fun i => !southStack i then (s.stepRecord 6 false 0x0600 w).startStop 6
    else (s.stepRecord 6 true 0 w).start7 o w

/-- Step 5: the fuse load (R525); from its end the keeper serves the dictionary and sends boot-up (R527), with
the stored entries and calibration in force (R515). Each keeper keeps its own copy of the fuse values (R21). -/
def State.start5 (s : State) (o : StartOutcome) (w : Word) : State :=
  if o.fuseOk then
    let d := s.dict
    let s := { s with
      gateOnly := s.prot.getLsbD 1
      map := { s.map with phys := s.map.fusePhys, badBays := s.map.fuseBad }
      dict := { d with vals := d.storedComm, trims := d.storedTrims }
      keepers := { s.keepers with fuseW := some s.sec.fuse, fuseE := some s.sec.fuse } }
    ((s.stepRecord 5 true 0 w).bootUp).start6 o w
  else (s.stepRecord 5 false 0x0501 w).startStop 5

/-- The verdict on an image: 0 where it is valid, else the code of R539. -/
def State.imageVerdict (s : State) (o : StartOutcome) (b : Bool) : Nat :=
  match StartOutcomeItem o 1 (b2n b) with
  | some i => if i.ok then 0 else max 1 i.code.toNat
  | none => let n := s.imageCheck (s.image b); if n = 0 then 0 else 0x10 + n

/-- The attempt of one image: its record, and what PROGRAM_STATUS and SEC_BOOT_STAT show of it. -/
def State.tryImage (s : State) (o : StartOutcome) (b : Bool) (w : Word) : State :=
  let v := s.imageVerdict o b
  let time := match StartOutcomeItem o 1 (b2n b) with | some i => i.time | none => freeTime w (0x10000 + b2n b)
  let s := s.day 4 1 (b2n b) (if v = 0 then 0 else 1) (if b = s.start.lastImage then 0 else 6)
    (if v = 0 then 0 else 0x400 + v) time 0
  let s := s.setFails 1 (b2n b) (if v = 0 then 0 else s.failsOf 1 (b2n b) + 1)
  let f := s.image b
  let s := s.setImage b { f with status := if v = 0 then 0 else if f.status = 1 then 1 else BitVec.ofNat 16 (3 + (v - 0x10) * 256) }
  s.setSec (if b then { s.sec with bOk := decide (v = 0) } else { s.sec with aOk := decide (v = 0) })

/-- The image to try first (R535): the one that last reached step 10, unless the previous start ran it and did
not get there. -/
def State.firstImage (s : State) : Bool :=
  let prev := s.start.book.filter fun r => decide (r.start + 1 = s.start.count)
  let ran := prev.any fun r => decide (r.kind = 1 ∧ r.outcome = 0 ∧ r.item = (if s.start.lastImage then 1 else 0))
  let ready := prev.any fun r => decide (r.outcome = 6)
  if ran && !ready then !s.start.lastImage else s.start.lastImage

/-- Step 4: the images are checked, and the first valid one runs; with none, recovery (R482, R483). -/
def State.start4 (s : State) (o : StartOutcome) (w : Word) : State :=
  if stepStuck o 4 then s.startWait o 4
  else
    let a := s.firstImage
    let run (s : State) (b : Bool) : State :=
      ((s.setSec { s.sec with runImage := b, runHead := (s.image b).bytes.take 512 }).stepRecord 4 true 0 w).start5 o w
    let s := s.tryImage o a w
    if s.imageVerdict o a = 0 then
      run (s.setSec (if a then { s.sec with aOk := s.sec.imageA.valid } else { s.sec with bOk := s.sec.imageB.valid })) a
    else
      let s := s.tryImage o (!a) w
      if s.imageVerdict o (!a) = 0 then run s (!a)
      else ((s.setSec { s.sec with recovery := true }).stepRecord 4 false 0x0400 w).startStop 4

/-- A CLEAR_STANDING that waits takes effect (R536): every F, or that of the items that the previous start
skipped. -/
def State.clearFails (s : State) : State :=
  if s.start.clear = 1 then { s with start := { s.start with fails := [], clear := 0 } }
  else if s.start.clear = 2 then
    let skipped := (s.start.book.filter fun r => decide (r.start = s.start.count ∧ r.outcome = 2)).map fun r =>
      r.kind.toNat * 65536 + r.item.toNat
    { s with start := { s.start with
      fails := s.start.fails.filter fun ((k, _) : Nat × Nat) => !skipped.contains k, clear := 0 } }
  else s

/-- Steps 1 to 3: pins latched, rails on, the keepers' self-check, the START record (R498, R525, R533, R540).
DESIGN CHOICE (log entry 54). -/
def State.start1 (s : State) (o : StartOutcome) : State :=
  match o.bad12 with
  | some _ => s.modPower fun p => { p with on := false, tries := satInc p.tries }
  | none =>
    let (w, s) := s.draw
    let n := s.power.tries
    let s := s.modPower fun p => { p with
      tries := 0, rails := (upto 9).foldl (fun t i => Tab.set Rail.reset t i { Tab.get Rail.reset t i with pgood := true }) p.rails }
    let s := { s with dict := { s.dict with
      nodeId := o.nodeId, rates := BitVec.ofNat 2 (b2n o.rate0 + 2 * b2n o.rate1) } }
    if !o.keeperW && !o.keeperE then { s.atStep 3 with keepers := { s.keepers with none_ := true } }
    else
      let s := { s with keepers := { s.keepers with active := !o.keeperW, standbyOk := o.keeperW && o.keeperE } }
      let s := s.clearFails
      let s := { s with start := { s.start with count := s.start.count + 1, standing := 0 } }
      let s := s.day 0 0 0 4 0 0 0 0
      let s := (s.stepRecord 1 true (if n = 0 then 0 else 0x180 + n.toNat) w).stepRecord 2 true 0 w
      let self (i : Nat) : Nat := 0x301 + (Config.freeWord (w.toNat + 0x50000 + i)).toNat % 2
      let s := if o.keeperW then s else s.day 3 6 0 1 7 (self 0) (freeTime w 0x60000) 0
      let s := if o.keeperE then s else s.day 3 6 1 1 0 (self 1) (freeTime w 0x60001) 0
      (s.stepRecord 3 true 0 w).start4 o w

/-- After a module reset the steps run (R525). DESIGN CHOICE (log entry 18). -/
def execStartUp (o : StartOutcome) (s : State) : Out :=
  .next (if s.power.on ∧ s.start.step = 0 then s.start1 o else s)

/-- The limit of the step that a start waits in: what has not ended failed (R532). Steps 6 and 7 have a code for
it; for steps 4 and 8 the code is free. -/
def execStartupStepTimeout (step : BitVec 4) (s : State) : Out :=
  .next <|
    match s.start.run with
    | none => s
    | some o =>
      let n := s.start.step.toNat
      if step.toNat ≠ n then s
      else
        let (w, s) := s.draw
        let code : BitVec 8 := if n = 6 ∨ n = 7 then 5 else (Config.freeWord (w.toNat + 1)).setWidth 8
        let items := o.items.map fun i =>
          if i.stuck && decide (itemStep i = n) then { i with stuck := false, ok := false, code := code } else i
        let o := { o with items := items }
        let s := { s with start := { s.start with run := none } }
        if n = 4 then s.start4 o w
        else if n = 6 then s.start6 o w
        else if n = 7 then s.start7 o w
        else s.start8 o w

/-- Step 10 has not ended in time: the power sequencer resets the module (R526); the shutdown's cause is 7
(R553), and the sequencer starts it again. A start that has stopped (R533) has ended. DEDUCED (log entry 55). -/
def execStartupTimeLimit (s : State) : Out :=
  .next (if s.power.on ∧ (s.start.run.isSome ∨ (s.start.step = 3 ∧ s.start.outcome ≠ 2)) then
    (s.shutdown 7 0xFF).powerOn else s)

/-- One second after step 1 or 2 failed, the sequencer tries again while input is present (R525). -/
def execStartupRetry (s : State) : Out := .next (if s.power.tries ≠ 0 then s.powerOn else s)

end Sys2Proof.Machine
end

