-- ==== Sys2Proof/Machine/Dispatch.lean ====
section
/-!
DEFINITION. One arm per command: the direct call of its meaning.
-/

namespace Sys2Proof.Machine

def exec (i : Instr) (s : State) : Host.Outcome State Fault Refusal :=
  match i with
  | .tickBoundary env => Sys2Proof.Machine.execTickBoundary env s
  | .workWindowStart => Sys2Proof.Machine.execWorkWindowStart s
  | .guardStart stuck => Sys2Proof.Machine.execGuardStart stuck s
  | .gapEnd => Sys2Proof.Machine.execGapEnd s
  | .armLengthChange src boundary => Sys2Proof.Machine.execArmLengthChange src boundary s
  | .cancelLengthChange src => Sys2Proof.Machine.execCancelLengthChange src s
  | .tickMark l mark => Sys2Proof.Machine.execTickMark l mark s
  | .holdover => Sys2Proof.Machine.execHoldover s
  | .alignLost us => Sys2Proof.Machine.execAlignLost us s
  | .tickStatus l => Sys2Proof.Machine.execTickStatus l s
  | .verdict l => Sys2Proof.Machine.execVerdict l s
  | .verdictDeadline => Sys2Proof.Machine.execVerdictDeadline s
  | .planLoad ctx seq => Sys2Proof.Machine.execPlanLoad ctx seq s
  | .loadStop ctx seq access err => Sys2Proof.Machine.execLoadStop ctx seq access err s
  | .planUnload ctx seq => Sys2Proof.Machine.execPlanUnload ctx seq s
  | .planSuspend ctx seq => Sys2Proof.Machine.execPlanSuspend ctx seq s
  | .planResume ctx seq => Sys2Proof.Machine.execPlanResume ctx seq s
  | .sleepDeclare ctx seq => Sys2Proof.Machine.execSleepDeclare ctx seq s
  | .nop ctx seq => Sys2Proof.Machine.execNop ctx seq s
  | .writeInline ctx seq => Sys2Proof.Machine.execWriteInline ctx seq s
  | .copyH2d ctx seq => Sys2Proof.Machine.execCopyH2d ctx seq s
  | .copyD2h ctx seq => Sys2Proof.Machine.execCopyD2h ctx seq s
  | .atomic ctx seq => Sys2Proof.Machine.execAtomic ctx seq s
  | .hostFence ctx seq => Sys2Proof.Machine.execHostFence ctx seq s
  | .commandStart ctx seq => Sys2Proof.Machine.execCommandStart ctx seq s
  | .copyD2hStart ctx seq => Sys2Proof.Machine.execCopyD2hStart ctx seq s
  | .copyEngineGrant => Sys2Proof.Machine.execCopyEngineGrant s
  | .xferStop e err => Sys2Proof.Machine.execXferStop e err s
  | .flushReadDone e => Sys2Proof.Machine.execFlushReadDone e s
  | .intakeSlotWrite src ctx off data => Sys2Proof.Machine.execIntakeSlotWrite src ctx off data s
  | .bar2WindowAccess src off access => Sys2Proof.Machine.execBar2WindowAccess src off access s
  | .readbackRead src c off len => Sys2Proof.Machine.execReadbackRead src c off len s
  | .registerWrite src block off data => Sys2Proof.Machine.execRegisterWrite src block off data s
  | .flrVf f => Sys2Proof.Machine.execFlrVf f s
  | .flrPf => Sys2Proof.Machine.execFlrPf s
  | .hotReset => Sys2Proof.Machine.execHotReset s
  | .dataLinkDown => Sys2Proof.Machine.execDataLinkDown s
  | .dataLinkUp rate width noflit vfs => Sys2Proof.Machine.execDataLinkUp rate width noflit vfs s
  | .d3hotEntry f => Sys2Proof.Machine.execD3hotEntry f s
  | .d0Entry f => Sys2Proof.Machine.execD0Entry f s
  | .reclaim src ctx f => Sys2Proof.Machine.execReclaim src ctx f s
  | .release src ctx => Sys2Proof.Machine.execRelease src ctx s
  | .segCtxWrite src ctx v => Sys2Proof.Machine.execSegCtxWrite src ctx v s
  | .segTableWrite src port => Sys2Proof.Machine.execSegTableWrite src port s
  | .segTableRead src port => Sys2Proof.Machine.execSegTableRead src port s
  | .tablePortDone port => Sys2Proof.Machine.execTablePortDone port s
  | .invalidationRequest src k v => Sys2Proof.Machine.execInvalidationRequest src k v s
  | .invalidationBroadcast l => Sys2Proof.Machine.execInvalidationBroadcast l s
  | .invalidationDrainDone id => Sys2Proof.Machine.execInvalidationDrainDone id s
  | .invalidationAck l => Sys2Proof.Machine.execInvalidationAck l s
  | .descriptorCacheFill c stream seg => Sys2Proof.Machine.execDescriptorCacheFill c stream seg s
  | .cenGaugeAllotWrite src ctx v => Sys2Proof.Machine.execCenGaugeAllotWrite src ctx v s
  | .hbmPartRateWrite src stack p v => Sys2Proof.Machine.execHbmPartRateWrite src stack p v s
  | .censusNow src => Sys2Proof.Machine.execCensusNow src s
  | .censusCopyDone => Sys2Proof.Machine.execCensusCopyDone s
  | .censusStrobe l => Sys2Proof.Machine.execCensusStrobe l s
  | .ringEnable src v => Sys2Proof.Machine.execRingEnable src v s
  | .errorReport report => Sys2Proof.Machine.execErrorReport report s
  | .packageNanClear src v => Sys2Proof.Machine.execPackageNanClear src v s
  | .maxClr src => Sys2Proof.Machine.execMaxClr src s
  | .newchal src => Sys2Proof.Machine.execNewchal src s
  | .verify src => Sys2Proof.Machine.execVerify src s
  | .close src => Sys2Proof.Machine.execClose src s
  | .debugRequest c => Sys2Proof.Machine.execDebugRequest c s
  | .testPortWrite c target v => Sys2Proof.Machine.execTestPortWrite c target v s
  | .keeperInterruptRequest c => Sys2Proof.Machine.execKeeperInterruptRequest c s
  | .dup c => Sys2Proof.Machine.execDup c s
  | .drop c => Sys2Proof.Machine.execDrop c s
  | .swap c => Sys2Proof.Machine.execSwap c s
  | .overTop c => Sys2Proof.Machine.execOverTop c s
  | .rot c => Sys2Proof.Machine.execRot c s
  | .nip c => Sys2Proof.Machine.execNip c s
  | .pick c n => Sys2Proof.Machine.execPick c n s
  | .pushr c => Sys2Proof.Machine.execPushr c s
  | .popr c => Sys2Proof.Machine.execPopr c s
  | .rcopy c => Sys2Proof.Machine.execRcopy c s
  | .add c => Sys2Proof.Machine.execAdd c s
  | .sub c => Sys2Proof.Machine.execSub c s
  | .mul c => Sys2Proof.Machine.execMul c s
  | .mulh c => Sys2Proof.Machine.execMulh c s
  | .mulhu c => Sys2Proof.Machine.execMulhu c s
  | .div c => Sys2Proof.Machine.execDiv c s
  | .divu c => Sys2Proof.Machine.execDivu c s
  | .rem c => Sys2Proof.Machine.execRem c s
  | .remu c => Sys2Proof.Machine.execRemu c s
  | .and c => Sys2Proof.Machine.execAnd c s
  | .or c => Sys2Proof.Machine.execOr c s
  | .xor c => Sys2Proof.Machine.execXor c s
  | .not c => Sys2Proof.Machine.execNot c s
  | .neg c => Sys2Proof.Machine.execNeg c s
  | .shl c => Sys2Proof.Machine.execShl c s
  | .shr c => Sys2Proof.Machine.execShr c s
  | .sar c => Sys2Proof.Machine.execSar c s
  | .cmpeq c => Sys2Proof.Machine.execCmpeq c s
  | .cmpne c => Sys2Proof.Machine.execCmpne c s
  | .cmplt c => Sys2Proof.Machine.execCmplt c s
  | .cmple c => Sys2Proof.Machine.execCmple c s
  | .cmpltu c => Sys2Proof.Machine.execCmpltu c s
  | .cmpleu c => Sys2Proof.Machine.execCmpleu c s
  | .fadd c => Sys2Proof.Machine.execFadd c s
  | .fsub c => Sys2Proof.Machine.execFsub c s
  | .fmul c => Sys2Proof.Machine.execFmul c s
  | .ffma c => Sys2Proof.Machine.execFfma c s
  | .fdiv c => Sys2Proof.Machine.execFdiv c s
  | .fsqrt c => Sys2Proof.Machine.execFsqrt c s
  | .fneg c => Sys2Proof.Machine.execFneg c s
  | .fabs c => Sys2Proof.Machine.execFabs c s
  | .fmin c => Sys2Proof.Machine.execFmin c s
  | .fmax c => Sys2Proof.Machine.execFmax c s
  | .fcmpeq c => Sys2Proof.Machine.execFcmpeq c s
  | .fcmplt c => Sys2Proof.Machine.execFcmplt c s
  | .fcmple c => Sys2Proof.Machine.execFcmple c s
  | .fcvtI2f c => Sys2Proof.Machine.execFcvtI2f c s
  | .fcvtU2f c => Sys2Proof.Machine.execFcvtU2f c s
  | .fcvtF2i c => Sys2Proof.Machine.execFcvtF2i c s
  | .fcvtF2u c => Sys2Proof.Machine.execFcvtF2u c s
  | .fcvtD2s c => Sys2Proof.Machine.execFcvtD2s c s
  | .fcvtS2d c => Sys2Proof.Machine.execFcvtS2d c s
  | .lit6 c v => Sys2Proof.Machine.execLit6 c v s
  | .lit32 c v => Sys2Proof.Machine.execLit32 c v s
  | .litx c v => Sys2Proof.Machine.execLitx c v s
  | .br c long off => Sys2Proof.Machine.execBr c long off s
  | .bz c long off => Sys2Proof.Machine.execBz c long off s
  | .bnz c long off => Sys2Proof.Machine.execBnz c long off s
  | .call c off => Sys2Proof.Machine.execCall c off s
  | .calli c => Sys2Proof.Machine.execCalli c s
  | .jmpi c => Sys2Proof.Machine.execJmpi c s
  | .ret c => Sys2Proof.Machine.execRet c s
  | .controlNop c => Sys2Proof.Machine.execControlNop c s
  | .repPrefix c nxt => Sys2Proof.Machine.execRepPrefix c nxt s
  | .repxPrefix c count nxt => Sys2Proof.Machine.execRepxPrefix c count nxt s
  | .ld8L c off => Sys2Proof.Machine.execLd8L c off s
  | .ld16L c off => Sys2Proof.Machine.execLd16L c off s
  | .ld32L c off => Sys2Proof.Machine.execLd32L c off s
  | .ld64L c off => Sys2Proof.Machine.execLd64L c off s
  | .st8L c off => Sys2Proof.Machine.execSt8L c off s
  | .st16L c off => Sys2Proof.Machine.execSt16L c off s
  | .st32L c off => Sys2Proof.Machine.execSt32L c off s
  | .st64L c off => Sys2Proof.Machine.execSt64L c off s
  | .ld8 c off => Sys2Proof.Machine.execLd8 c off s
  | .ld16 c off => Sys2Proof.Machine.execLd16 c off s
  | .ld32 c off => Sys2Proof.Machine.execLd32 c off s
  | .ld64 c off => Sys2Proof.Machine.execLd64 c off s
  | .ld8s c off => Sys2Proof.Machine.execLd8s c off s
  | .ld16s c off => Sys2Proof.Machine.execLd16s c off s
  | .ld32s c off => Sys2Proof.Machine.execLd32s c off s
  | .st8 c off => Sys2Proof.Machine.execSt8 c off s
  | .st16 c off => Sys2Proof.Machine.execSt16 c off s
  | .st32 c off => Sys2Proof.Machine.execSt32 c off s
  | .st64 c off => Sys2Proof.Machine.execSt64 c off s
  | .aadd c w off => Sys2Proof.Machine.execAadd c w off s
  | .amin c w off => Sys2Proof.Machine.execAmin c w off s
  | .amax c w off => Sys2Proof.Machine.execAmax c w off s
  | .aand c w off => Sys2Proof.Machine.execAand c w off s
  | .aor c w off => Sys2Proof.Machine.execAor c w off s
  | .axor c w off => Sys2Proof.Machine.execAxor c w off s
  | .aswap c w off => Sys2Proof.Machine.execAswap c w off s
  | .acas c w off => Sys2Proof.Machine.execAcas c w off s
  | .pAdd c t => Sys2Proof.Machine.execPAdd c t s
  | .pSub c t => Sys2Proof.Machine.execPSub c t s
  | .pMul c t => Sys2Proof.Machine.execPMul c t s
  | .pFma c t => Sys2Proof.Machine.execPFma c t s
  | .pMin c t => Sys2Proof.Machine.execPMin c t s
  | .pMax c t => Sys2Proof.Machine.execPMax c t s
  | .pAnd c t => Sys2Proof.Machine.execPAnd c t s
  | .pOr c t => Sys2Proof.Machine.execPOr c t s
  | .pXor c t => Sys2Proof.Machine.execPXor c t s
  | .pCmpeq c t => Sys2Proof.Machine.execPCmpeq c t s
  | .pCmplt c t => Sys2Proof.Machine.execPCmplt c t s
  | .pSel c t => Sys2Proof.Machine.execPSel c t s
  | .pShl c t => Sys2Proof.Machine.execPShl c t s
  | .pShr c t => Sys2Proof.Machine.execPShr c t s
  | .pSar c t => Sys2Proof.Machine.execPSar c t s
  | .pHsum c t => Sys2Proof.Machine.execPHsum c t s
  | .pBcast c t => Sys2Proof.Machine.execPBcast c t s
  | .pDup c t => Sys2Proof.Machine.execPDup c t s
  | .pDrop c t => Sys2Proof.Machine.execPDrop c t s
  | .pSwap c t => Sys2Proof.Machine.execPSwap c t s
  | .vsetl c a => Sys2Proof.Machine.execVsetl c a s
  | .vgetl c a => Sys2Proof.Machine.execVgetl c a s
  | .vdup c a => Sys2Proof.Machine.execVdup c a s
  | .vdrop c a => Sys2Proof.Machine.execVdrop c a s
  | .vswap c a => Sys2Proof.Machine.execVswap c a s
  | .vover c a => Sys2Proof.Machine.execVover c a s
  | .vrot c a => Sys2Proof.Machine.execVrot c a s
  | .vadd c a => Sys2Proof.Machine.execVadd c a s
  | .vsub c a => Sys2Proof.Machine.execVsub c a s
  | .vmul c a => Sys2Proof.Machine.execVmul c a s
  | .vfma c a => Sys2Proof.Machine.execVfma c a s
  | .vmin c a => Sys2Proof.Machine.execVmin c a s
  | .vmax c a => Sys2Proof.Machine.execVmax c a s
  | .vdiv c a => Sys2Proof.Machine.execVdiv c a s
  | .vsqrt c a => Sys2Proof.Machine.execVsqrt c a s
  | .vneg c a => Sys2Proof.Machine.execVneg c a s
  | .vabs c a => Sys2Proof.Machine.execVabs c a s
  | .vand c a => Sys2Proof.Machine.execVand c a s
  | .vor c a => Sys2Proof.Machine.execVor c a s
  | .vxor c a => Sys2Proof.Machine.execVxor c a s
  | .vshl c a => Sys2Proof.Machine.execVshl c a s
  | .vshr c a => Sys2Proof.Machine.execVshr c a s
  | .vsar c a => Sys2Proof.Machine.execVsar c a s
  | .vcmpeq c a => Sys2Proof.Machine.execVcmpeq c a s
  | .vcmplt c a => Sys2Proof.Machine.execVcmplt c a s
  | .vcmple c a => Sys2Proof.Machine.execVcmple c a s
  | .vsel c a => Sys2Proof.Machine.execVsel c a s
  | .vbcast c a => Sys2Proof.Machine.execVbcast c a s
  | .viota c a => Sys2Proof.Machine.execViota c a s
  | .vext c a => Sys2Proof.Machine.execVext c a s
  | .vins c a => Sys2Proof.Machine.execVins c a s
  | .vcvt c a => Sys2Proof.Machine.execVcvt c a s
  | .vredAdd c a => Sys2Proof.Machine.execVredAdd c a s
  | .vredMin c a => Sys2Proof.Machine.execVredMin c a s
  | .vredMax c a => Sys2Proof.Machine.execVredMax c a s
  | .vmcnt c a => Sys2Proof.Machine.execVmcnt c a s
  | .vld c a => Sys2Proof.Machine.execVld c a s
  | .vst c a => Sys2Proof.Machine.execVst c a s
  | .vlds c a => Sys2Proof.Machine.execVlds c a s
  | .vsts c a => Sys2Proof.Machine.execVsts c a s
  | .vgth c a => Sys2Proof.Machine.execVgth c a s
  | .vsct c a => Sys2Proof.Machine.execVsct c a s
  | .vscta c a => Sys2Proof.Machine.execVscta c a s
  | .vld2 c a => Sys2Proof.Machine.execVld2 c a s
  | .vld3 c a => Sys2Proof.Machine.execVld3 c a s
  | .vld4 c a => Sys2Proof.Machine.execVld4 c a s
  | .vst2 c a => Sys2Proof.Machine.execVst2 c a s
  | .vst3 c a => Sys2Proof.Machine.execVst3 c a s
  | .vst4 c a => Sys2Proof.Machine.execVst4 c a s
  | .mld c n p => Sys2Proof.Machine.execMld c n p s
  | .mstr c n p => Sys2Proof.Machine.execMstr c n p s
  | .mrd c n p => Sys2Proof.Machine.execMrd c n p s
  | .mclr c n p => Sys2Proof.Machine.execMclr c n p s
  | .mwait c => Sys2Proof.Machine.execMwait c s
  | .mrdF c => Sys2Proof.Machine.execMrdF c s
  | .edq c n p => Sys2Proof.Machine.execEdq c n p s
  | .rwq c n p => Sys2Proof.Machine.execRwq c n p s
  | .dmq c ch n p => Sys2Proof.Machine.execDmq c ch n p s
  | .qwaitE c => Sys2Proof.Machine.execQwaitE c s
  | .qwaitR c => Sys2Proof.Machine.execQwaitR c s
  | .qwaitD c ch => Sys2Proof.Machine.execQwaitD c ch s
  | .bar c => Sys2Proof.Machine.execBar c s
  | .wtick c => Sys2Proof.Machine.execWtick c s
  | .barrierRelease slot => Sys2Proof.Machine.execBarrierRelease slot s
  | .sys c toM => Sys2Proof.Machine.execSys c toM s
  | .gate c n => Sys2Proof.Machine.execGate c n s
  | .retx c => Sys2Proof.Machine.execRetx c s
  | .flushi c => Sys2Proof.Machine.execFlushi c s
  | .icinv c => Sys2Proof.Machine.execIcinv c s
  | .dclean c => Sys2Proof.Machine.execDclean c s
  | .dinv c => Sys2Proof.Machine.execDinv c s
  | .dclinv c => Sys2Proof.Machine.execDclinv c s
  | .dcleansw c => Sys2Proof.Machine.execDcleansw c s
  | .dinvsw c => Sys2Proof.Machine.execDinvsw c s
  | .dclinvsw c => Sys2Proof.Machine.execDclinvsw c s
  | .fence c => Sys2Proof.Machine.execFence c s
  | .crd c n => Sys2Proof.Machine.execCrd c n s
  | .cwr c n => Sys2Proof.Machine.execCwr c n s
  | .interruptEntry c => Sys2Proof.Machine.execInterruptEntry c s
  | .impreciseFault c w => Sys2Proof.Machine.execImpreciseFault c w s
  | .unmappedTargetResponse r => Sys2Proof.Machine.execUnmappedTargetResponse r s
  | .uncorrectableResponse r addr => Sys2Proof.Machine.execUncorrectableResponse r addr s
  | .overrun c => Sys2Proof.Machine.execOverrun c s
  | .cacheInitDone c dcache => Sys2Proof.Machine.execCacheInitDone c dcache s
  | .dCacheFill c data => Sys2Proof.Machine.execDCacheFill c data s
  | .mergeEntryTimeout c => Sys2Proof.Machine.execMergeEntryTimeout c s
  | .mergeEntryAck c idx => Sys2Proof.Machine.execMergeEntryAck c idx s
  | .carrelWake c => Sys2Proof.Machine.execCarrelWake c s
  | .arrayDescriptorStart c => Sys2Proof.Machine.execArrayDescriptorStart c s
  | .arrayDescriptorDone c => Sys2Proof.Machine.execArrayDescriptorDone c s
  | .elementDescriptorStart c => Sys2Proof.Machine.execElementDescriptorStart c s
  | .elementDescriptorDone c => Sys2Proof.Machine.execElementDescriptorDone c s
  | .rowDescriptorStart bay => Sys2Proof.Machine.execRowDescriptorStart bay s
  | .rowDescriptorDone bay => Sys2Proof.Machine.execRowDescriptorDone bay s
  | .moverDescriptorStart bay ch => Sys2Proof.Machine.execMoverDescriptorStart bay ch s
  | .moverDescriptorDone bay ch data => Sys2Proof.Machine.execMoverDescriptorDone bay ch data s
  | .descStop bay ch cause => Sys2Proof.Machine.execDescStop bay ch cause s
  | .linkRecordStart slot => Sys2Proof.Machine.execLinkRecordStart slot s
  | .linkRecordDone slot data => Sys2Proof.Machine.execLinkRecordDone slot data s
  | .reductionFragment l => Sys2Proof.Machine.execReductionFragment l s
  | .hbmRead acc => Sys2Proof.Machine.execHbmRead acc s
  | .hbmWrite acc data mask => Sys2Proof.Machine.execHbmWrite acc data mask s
  | .memorySideOperation acc op w data cmp => Sys2Proof.Machine.execMemorySideOperation acc op w data cmp s
  | .tokenWaitServed stack part planned => Sys2Proof.Machine.execTokenWaitServed stack part planned s
  | .hbmReread addr clean => Sys2Proof.Machine.execHbmReread addr clean s
  | .patrolScrubRead stack addr ecc => Sys2Proof.Machine.execPatrolScrubRead stack addr ecc s
  | .hbmTempRise stack temp => Sys2Proof.Machine.execHbmTempRise stack temp s
  | .selfRefreshExit stack => Sys2Proof.Machine.execSelfRefreshExit stack s
  | .selfRefreshExitDone stack => Sys2Proof.Machine.execSelfRefreshExitDone stack s
  | .linkTrain l => Sys2Proof.Machine.execLinkTrain l s
  | .linkTrainDone l result => Sys2Proof.Machine.execLinkTrainDone l result s
  | .laneDrop l lane => Sys2Proof.Machine.execLaneDrop l lane s
  | .laneDropDone l delay => Sys2Proof.Machine.execLaneDropDone l delay s
  | .dropRequestTimeout l => Sys2Proof.Machine.execDropRequestTimeout l s
  | .retrain l => Sys2Proof.Machine.execRetrain l s
  | .retrainDone l result => Sys2Proof.Machine.execRetrainDone l result s
  | .linkSleep l => Sys2Proof.Machine.execLinkSleep l s
  | .linkWake l => Sys2Proof.Machine.execLinkWake l s
  | .flit l f => Sys2Proof.Machine.execFlit l f s
  | .readRequest l => Sys2Proof.Machine.execReadRequest l s
  | .write l => Sys2Proof.Machine.execWrite l s
  | .atomicItem l => Sys2Proof.Machine.execAtomicItem l s
  | .readResponse l => Sys2Proof.Machine.execReadResponse l s
  | .writeAcknowledgement l => Sys2Proof.Machine.execWriteAcknowledgement l s
  | .atomicResponse l => Sys2Proof.Machine.execAtomicResponse l s
  | .errorResponse l => Sys2Proof.Machine.execErrorResponse l s
  | .barrier l => Sys2Proof.Machine.execBarrier l s
  | .setupConfirmation l depth chips => Sys2Proof.Machine.execSetupConfirmation l depth chips s
  | .chainSetup src => Sys2Proof.Machine.execChainSetup src s
  | .setupTimeout => Sys2Proof.Machine.execSetupTimeout s
  | .join src => Sys2Proof.Machine.execJoin src s
  | .carrelFailure c why => Sys2Proof.Machine.execCarrelFailure c why s
  | .bayunitFail bay unit => Sys2Proof.Machine.execBayunitFail bay unit s
  | .keeperHeartbeat => Sys2Proof.Machine.execKeeperHeartbeat s
  | .keeperTakeover cause => Sys2Proof.Machine.execKeeperTakeover cause s
  | .attestationSigned m => Sys2Proof.Machine.execAttestationSigned m s
  | .attGo m src => Sys2Proof.Machine.execAttGo m src s
  | .arbCommit src v => Sys2Proof.Machine.execArbCommit src v s
  | .storeAll src v => Sys2Proof.Machine.execStoreAll src v s
  | .restoreAll src v => Sys2Proof.Machine.execRestoreAll src v s
  | .calibrationTrimWrite src idx sub v => Sys2Proof.Machine.execCalibrationTrimWrite src idx sub v s
  | .programClear src sub => Sys2Proof.Machine.execProgramClear src sub s
  | .programEnd src sub => Sys2Proof.Machine.execProgramEnd src sub s
  | .clearStanding src v => Sys2Proof.Machine.execClearStanding src v s
  | .peekData src off len => Sys2Proof.Machine.execPeekData src off len s
  | .descSelect src v => Sys2Proof.Machine.execDescSelect src v s
  | .functionEnable src fn => Sys2Proof.Machine.execFunctionEnable src fn s
  | .functionDisable src fn => Sys2Proof.Machine.execFunctionDisable src fn s
  | .functionStartDone fn ok => Sys2Proof.Machine.execFunctionStartDone fn ok s
  | .functionStopDone fn => Sys2Proof.Machine.execFunctionStopDone fn s
  | .lnkCtlEnWrite src l en => Sys2Proof.Machine.execLnkCtlEnWrite src l en s
  | .dictRead f => Sys2Proof.Machine.execDictRead f s
  | .dictWrite f => Sys2Proof.Machine.execDictWrite f s
  | .dictTransferTimeout src => Sys2Proof.Machine.execDictTransferTimeout src s
  | .usdoDownload idx sub size data => Sys2Proof.Machine.execUsdoDownload idx sub size data s
  | .usdoUpload idx sub => Sys2Proof.Machine.execUsdoUpload idx sub s
  | .usdoSegment last data => Sys2Proof.Machine.execUsdoSegment last data s
  | .usdoTimeout => Sys2Proof.Machine.execUsdoTimeout s
  | .nmtStart => Sys2Proof.Machine.execNmtStart s
  | .nmtStop => Sys2Proof.Machine.execNmtStop s
  | .nmtPreOperational => Sys2Proof.Machine.execNmtPreOperational s
  | .resetCommunication => Sys2Proof.Machine.execResetCommunication s
  | .resetApplication => Sys2Proof.Machine.execResetApplication s
  | .heartbeat => Sys2Proof.Machine.execHeartbeat s
  | .emcyInhibitExpiry => Sys2Proof.Machine.execEmcyInhibitExpiry s
  | .tpdoEventTimer n => Sys2Proof.Machine.execTpdoEventTimer n s
  | .startUp o => Sys2Proof.Machine.execStartUp o s
  | .startupStepTimeout step => Sys2Proof.Machine.execStartupStepTimeout step s
  | .startupTimeLimit => Sys2Proof.Machine.execStartupTimeLimit s
  | .fuseTrip => Sys2Proof.Machine.execFuseTrip s
  | .fuseRetry => Sys2Proof.Machine.execFuseRetry s
  | .undervoltage v => Sys2Proof.Machine.execUndervoltage v s
  | .overvoltage v => Sys2Proof.Machine.execOvervoltage v s
  | .voltageRecovered v => Sys2Proof.Machine.execVoltageRecovered v s
  | .brownOut => Sys2Proof.Machine.execBrownOut s
  | .severeOvervoltage => Sys2Proof.Machine.execSevereOvervoltage s
  | .railPowerGoodLost k => Sys2Proof.Machine.execRailPowerGoodLost k s
  | .pwrEnLow => Sys2Proof.Machine.execPwrEnLow s
  | .pwrEnHigh => Sys2Proof.Machine.execPwrEnHigh s
  | .inputRemoved => Sys2Proof.Machine.execInputRemoved s
  | .inputApplied v => Sys2Proof.Machine.execInputApplied v s
  | .senseFault k => Sys2Proof.Machine.execSenseFault k s
  | .zoneLevelRise z reading => Sys2Proof.Machine.execZoneLevelRise z reading s
  | .sensorFault z k => Sys2Proof.Machine.execSensorFault z k s
  | .criticalHoldExpiry => Sys2Proof.Machine.execCriticalHoldExpiry s
  | .autoRestart => Sys2Proof.Machine.execAutoRestart s
  | .illegalInstruction c parcels => Sys2Proof.Machine.execIllegalInstruction c parcels s
  | .iCacheFill c pa => Sys2Proof.Machine.execICacheFill c pa s
  | .meshResponse c data => Sys2Proof.Machine.execMeshResponse c data s
  | .hostReadCompletion e res => Sys2Proof.Machine.execHostReadCompletion e res s
  | .keeperFailure k => Sys2Proof.Machine.execKeeperFailure k s
  | .sensorRecovered z k reading => Sys2Proof.Machine.execSensorRecovered z k reading s
  | .canBusOff => Sys2Proof.Machine.execCanBusOff s
  | .canBusOffRecovery => Sys2Proof.Machine.execCanBusOffRecovery s
  | .startupRetry => Sys2Proof.Machine.execStartupRetry s

end Sys2Proof.Machine
end

