-- ==== Sys2Proof/Machine/Parcels.lean ====
section
/-!
DEFINITION. The parcels of a carrel's code: the command that an encoding picks (R84 to R89, R98, R100, R103, R105,
R108, R172, R173, R176, R177, R231), and the command that stands at a carrel's pc.
-/

namespace Sys2Proof.Machine

/-- The operate forms of the stack group (R86). -/
def decodeStack (c : BitVec 12) (f : Nat) : Option Instr :=
  if 0x10 ≤ f ∧ f ≤ 0x1F then some (.pick c (BitVec.ofNat 4 (f - 0x10)))
  else match f with
  | 0x01 => some (.dup c)
  | 0x02 => some (.drop c)
  | 0x03 => some (.swap c)
  | 0x04 => some (.overTop c)
  | 0x05 => some (.rot c)
  | 0x06 => some (.nip c)
  | 0x07 => some (.pushr c)
  | 0x08 => some (.popr c)
  | 0x09 => some (.rcopy c)
  | _ => none

/-- The operate forms of the integer group (R86). -/
def decodeInteger (c : BitVec 12) (f : Nat) : Option Instr :=
  match f with
  | 0x00 => some (.add c)
  | 0x01 => some (.sub c)
  | 0x02 => some (.mul c)
  | 0x03 => some (.mulh c)
  | 0x04 => some (.mulhu c)
  | 0x05 => some (.div c)
  | 0x06 => some (.divu c)
  | 0x07 => some (.rem c)
  | 0x08 => some (.remu c)
  | 0x09 => some (.and c)
  | 0x0A => some (.or c)
  | 0x0B => some (.xor c)
  | 0x0C => some (.not c)
  | 0x0D => some (.neg c)
  | 0x0E => some (.shl c)
  | 0x0F => some (.shr c)
  | 0x10 => some (.sar c)
  | 0x11 => some (.cmpeq c)
  | 0x12 => some (.cmpne c)
  | 0x13 => some (.cmplt c)
  | 0x14 => some (.cmple c)
  | 0x15 => some (.cmpltu c)
  | 0x16 => some (.cmpleu c)
  | _ => none

/-- The operate forms of the scalar FP64 group (R86). -/
def decodeScalarFp (c : BitVec 12) (f : Nat) : Option Instr :=
  match f with
  | 0x00 => some (.fadd c)
  | 0x01 => some (.fsub c)
  | 0x02 => some (.fmul c)
  | 0x03 => some (.ffma c)
  | 0x04 => some (.fdiv c)
  | 0x05 => some (.fsqrt c)
  | 0x06 => some (.fneg c)
  | 0x07 => some (.fabs c)
  | 0x08 => some (.fmin c)
  | 0x09 => some (.fmax c)
  | 0x0A => some (.fcmpeq c)
  | 0x0B => some (.fcmplt c)
  | 0x0C => some (.fcmple c)
  | 0x10 => some (.fcvtI2f c)
  | 0x11 => some (.fcvtU2f c)
  | 0x12 => some (.fcvtF2i c)
  | 0x13 => some (.fcvtF2u c)
  | 0x14 => some (.fcvtD2s c)
  | 0x15 => some (.fcvtS2d c)
  | _ => none

/-- The operate forms: group G and function F; a prefix carries the parcels that follow it (R86). -/
def decodeOperate (c : BitVec 12) (g f : Nat) (nxt : BitVec 32) : Option Instr :=
  match g with
  | 0 => decodeStack c f
  | 1 => decodeInteger c f
  | 2 => decodeScalarFp c f
  | 3 =>
    match f with
    | 1 => some (.controlNop c)
    | 2 => some (.ret c)
    | 3 => some (.jmpi c)
    | 4 => some (.calli c)
    | 5 => some (.repPrefix c nxt)
    | _ => none
  | 4 => some (.repxPrefix c (BitVec.ofNat 8 f) nxt)
  | _ => none

/-- The literal, short branch and shelf-local forms, by kind K (R87). -/
def decodeKind (c : BitVec 12) (p : BitVec 32) : Option Instr :=
  let off := field p 7 9
  let branch : BitVec 23 := (field p 5 11).setWidth 23
  match fieldN p 2 3, fieldN p 5 2 with
  | 0, _ => some (.lit6 c (field p 5 6))
  | 1, _ => some (.br c false branch)
  | 2, _ => some (.bz c false branch)
  | 3, _ => some (.bnz c false branch)
  | 4, 0 => some (.ld8L c off)
  | 4, 1 => some (.ld16L c off)
  | 4, 2 => some (.ld32L c off)
  | 4, 3 => some (.ld64L c off)
  | 5, 0 => some (.st8L c off)
  | 5, 1 => some (.st16L c off)
  | 5, 2 => some (.st32L c off)
  | 5, 3 => some (.st64L c off)
  | _, _ => none

/-- The short-vector forms (R88, R103). -/
def decodeShort (c : BitVec 12) (op : Nat) (t : BitVec 3) : Option Instr :=
  match op with
  | 0x00 => some (.pAdd c t)
  | 0x01 => some (.pSub c t)
  | 0x02 => some (.pMul c t)
  | 0x03 => some (.pFma c t)
  | 0x04 => some (.pMin c t)
  | 0x05 => some (.pMax c t)
  | 0x06 => some (.pAnd c t)
  | 0x07 => some (.pOr c t)
  | 0x08 => some (.pXor c t)
  | 0x09 => some (.pCmpeq c t)
  | 0x0A => some (.pCmplt c t)
  | 0x0B => some (.pSel c t)
  | 0x0C => some (.pShl c t)
  | 0x0D => some (.pShr c t)
  | 0x0E => some (.pSar c t)
  | 0x0F => some (.pHsum c t)
  | 0x10 => some (.pBcast c t)
  | 0x11 => some (.pDup c t)
  | 0x12 => some (.pDrop c t)
  | 0x13 => some (.pSwap c t)
  | _ => none

/-- The long branches, by COND (R89). -/
def decodeBranch (c : BitVec 12) (cond : Nat) (off : BitVec 23) : Option Instr :=
  match cond with
  | 0 => some (.br c true off)
  | 1 => some (.bz c true off)
  | 2 => some (.bnz c true off)
  | _ => none

/-- The translated loads, by SZ (R98). -/
def decodeLoad (c : BitVec 12) (sz : Nat) (off : BitVec 22) : Option Instr :=
  match sz with
  | 0x00 => some (.ld8 c off)
  | 0x01 => some (.ld16 c off)
  | 0x02 => some (.ld32 c off)
  | 0x03 => some (.ld64 c off)
  | 0x04 => some (.ld8s c off)
  | 0x05 => some (.ld16s c off)
  | 0x06 => some (.ld32s c off)
  | _ => none

/-- The translated stores, by SZ (R98). -/
def decodeStore (c : BitVec 12) (sz : Nat) (off : BitVec 22) : Option Instr :=
  match sz with
  | 0x00 => some (.st8 c off)
  | 0x01 => some (.st16 c off)
  | 0x02 => some (.st32 c off)
  | 0x03 => some (.st64 c off)
  | _ => none

/-- The atomics, by OP (R100). -/
def decodeAtomic (c : BitVec 12) (op : Nat) (w : Bool) (off : BitVec 20) : Option Instr :=
  match op with
  | 0x00 => some (.aadd c w off)
  | 0x01 => some (.amin c w off)
  | 0x02 => some (.amax c w off)
  | 0x03 => some (.aand c w off)
  | 0x04 => some (.aor c w off)
  | 0x05 => some (.axor c w off)
  | 0x06 => some (.aswap c w off)
  | 0x07 => some (.acas c w off)
  | _ => none

/-- The vector memory forms, by OP (R177). -/
def decodeVMem (c : BitVec 12) (op : Nat) (a : VMem) : Option Instr :=
  match op with
  | 0x00 => some (.vld c a)
  | 0x01 => some (.vst c a)
  | 0x02 => some (.vlds c a)
  | 0x03 => some (.vsts c a)
  | 0x04 => some (.vgth c a)
  | 0x05 => some (.vsct c a)
  | 0x06 => some (.vscta c a)
  | 0x07 => some (.vld2 c a)
  | 0x08 => some (.vld3 c a)
  | 0x09 => some (.vld4 c a)
  | 0x0A => some (.vst2 c a)
  | 0x0B => some (.vst3 c a)
  | 0x0C => some (.vst4 c a)
  | _ => none

/-- The vector arithmetic forms, by OP (R173). -/
def decodeVArith (c : BitVec 12) (op : Nat) (a : VArith) : Option Instr :=
  match op with
  | 0x00 => some (.vsetl c a)
  | 0x01 => some (.vgetl c a)
  | 0x02 => some (.vdup c a)
  | 0x03 => some (.vdrop c a)
  | 0x04 => some (.vswap c a)
  | 0x05 => some (.vover c a)
  | 0x06 => some (.vrot c a)
  | 0x08 => some (.vadd c a)
  | 0x09 => some (.vsub c a)
  | 0x0A => some (.vmul c a)
  | 0x0B => some (.vfma c a)
  | 0x0C => some (.vmin c a)
  | 0x0D => some (.vmax c a)
  | 0x0E => some (.vdiv c a)
  | 0x0F => some (.vsqrt c a)
  | 0x10 => some (.vneg c a)
  | 0x11 => some (.vabs c a)
  | 0x12 => some (.vand c a)
  | 0x13 => some (.vor c a)
  | 0x14 => some (.vxor c a)
  | 0x15 => some (.vshl c a)
  | 0x16 => some (.vshr c a)
  | 0x17 => some (.vsar c a)
  | 0x18 => some (.vcmpeq c a)
  | 0x19 => some (.vcmplt c a)
  | 0x1A => some (.vcmple c a)
  | 0x1B => some (.vsel c a)
  | 0x1C => some (.vbcast c a)
  | 0x1D => some (.viota c a)
  | 0x1E => some (.vext c a)
  | 0x1F => some (.vins c a)
  | 0x20 => some (.vcvt c a)
  | 0x21 => some (.vredAdd c a)
  | 0x22 => some (.vredMin c a)
  | 0x23 => some (.vredMax c a)
  | 0x24 => some (.vmcnt c a)
  | _ => none

/-- The matrix forms (R231). -/
def decodeMatrix (c : BitVec 12) (p : BitVec 32) : Option Instr :=
  let n : BitVec 4 := field p 10 4
  let par := p.getLsbD 9
  if p.getLsbD 14 then some (.mwait c)
  else if p.getLsbD 15 then some (.mrdF c)
  else match fieldN p 7 2 with
    | 0 => some (.mld c n par)
    | 1 => some (.mstr c n par)
    | 2 => some (.mrd c n par)
    | _ => some (.mclr c n par)

/-- The engine queues (R105). -/
def decodeQueue (c : BitVec 12) (p : BitVec 32) : Option Instr :=
  let ch : BitVec 3 := field p 9 3
  let n : BitVec 4 := field p 13 4
  let par := p.getLsbD 12
  match fieldN p 7 2, p.getLsbD 17 with
  | 0, false => some (.edq c n par)
  | 1, false => some (.rwq c n par)
  | 2, false => some (.dmq c ch n par)
  | 0, true => some (.qwaitE c)
  | 1, true => some (.qwaitR c)
  | 2, true => some (.qwaitD c ch)
  | _, _ => none

/-- The system forms, by FN (R108). -/
def decodeSystem (c : BitVec 12) (p : BitVec 32) : Option Instr :=
  match fieldN p 7 5 with
  | 0x00 => some (.sys c (p.getLsbD 12))
  | 0x01 => some (.gate c (field p 12 10))
  | 0x02 => some (.retx c)
  | 0x03 => some (.flushi c)
  | 0x04 => some (.icinv c)
  | 0x05 => some (.dclean c)
  | 0x06 => some (.dinv c)
  | 0x07 => some (.dclinv c)
  | 0x08 => some (.dcleansw c)
  | 0x09 => some (.dinvsw c)
  | 0x0A => some (.dclinvsw c)
  | 0x0B => some (.fence c)
  | 0x0C => some (.crd c (field p 12 10))
  | 0x0D => some (.cwr c (field p 12 10))
  | _ => none

/-- The 32-bit forms, by major opcode (R89). -/
def decodeLong (c : BitVec 12) (p : BitVec 32) : Option Instr :=
  match fieldN p 2 5 with
  | 0x00 => some (.lit32 c (field p 7 25))
  | 0x01 => some (.litx c (field p 7 25))
  | 0x02 => some (.call c (field p 7 25))
  | 0x03 => decodeBranch c (fieldN p 7 2) (field p 9 23)
  | 0x04 => decodeLoad c (fieldN p 7 3) (field p 10 22)
  | 0x05 => decodeStore c (fieldN p 7 3) (field p 10 22)
  | 0x06 => decodeAtomic c (fieldN p 7 4) (p.getLsbD 11) (field p 12 20)
  | 0x07 => decodeVMem c (fieldN p 7 5)
      { ew := field p 12 2, m := p.getLsbD 14, iw := p.getLsbD 15, sc := field p 16 2, at_ := field p 18 3 }
  | 0x08 => decodeVArith c (fieldN p 7 7)
      { type := field p 14 4, m := p.getLsbD 18, dtype := field p 19 4, sat := p.getLsbD 23 }
  | 0x09 => decodeMatrix c p
  | 0x0A => decodeQueue c p
  | 0x0B => if p.getLsbD 7 then some (.wtick c) else some (.bar c)
  | 0x0C => decodeSystem c p
  | _ => none

/-- The command of carrel `c` that parcels pick, the first in the low bits, with those that follow a prefix; none for
an encoding that raises ILLEGAL (R85). -/
def decodeParcels (c : BitVec 12) (p : BitVec 48) : Option Instr :=
  let q : BitVec 32 := p.setWidth 32
  if parcelsLegal q = false then none
  else match fieldN q 0 2 with
    | 0 => decodeOperate c (fieldN q 2 6) (fieldN q 8 8) (field p 16 32)
    | 1 => decodeKind c q
    | 2 => decodeShort c (fieldN q 2 6) (field q 8 3)
    | _ => decodeLong c q

/-- The command that parcels pick, an illegal encoding included (R85). -/
def parcelCommand (c : BitVec 12) (p : BitVec 48) : Instr :=
  (decodeParcels c p).getD (.illegalInstruction c (p.setWidth 32))

/-- The parcel at a virtual address, as carrel `c` fetches it: from its I-cache, else from this chip's memory
(R84, R117); none where the fetch does not pass. -/
def State.parcelAt (s : State) (c : BitVec 12) (va : Word) : Option (BitVec 16) :=
  match s.fetchWord c va with
  | .ok pa _ =>
    let a := pa + va.toNat % 8 / 2 * 2
    match findWay (s.carrel c).icache (iSet a) (iTag a) with
    | some i => (Tab.get none (s.carrel c).icache i).map fun l => BitVec.ofNat 16 (leAt l.data (a % 64) 2)
    | none => if s.isLocal a then some (BitVec.ofNat 16 (s.le (localOf a) 2)) else none
  | _ => none

/-- The command that the code at a carrel's pc spells. -/
def State.codeAt (s : State) (c : BitVec 12) : Option Instr :=
  let pc := (s.carrel c).pc
  let follow (i : Nat) : Nat := match s.parcelAt c (pc + word (2 * i)) with | some x => x.toNat | none => 0
  (s.parcelAt c pc).map fun x => parcelCommand c (BitVec.ofNat 48 (x.toNat + follow 1 * 2 ^ 16 + follow 2 * 2 ^ 32))

end Sys2Proof.Machine
end

