-- ==== Sys2Proof/Safety.lean ====
section
/-!
DEFINITION. What counts as a safe run, and the words that statements about an instruction are made of: what it
finds, what it does to the stacks, and what it leaves alone.
-/

namespace Sys2Proof.Machine

/-- The canonical form of device memory: addresses strictly rising, no entry equal to what an unlisted
address reads as. -/
def State.memWf (s : State) : Bool := Tab.wf emptyByte s.mem

/-- A step that answers a next state. -/
def Steps (s t : State) : Prop := step s = .next t

/-- A state whose next step does not stop. -/
def Safe (s : State) : Prop := ∃ t, Steps s t

/-- A run of steps from one state to another. -/
inductive Reaches : State → State → Prop where
  | refl (s : State) : Reaches s s
  | tail {s t u : State} : Reaches s t → Steps t u → Reaches s u

/-! ### What an instruction finds -/

/-- Carrel `c` begins an instruction of `len` bytes and executes it: it is not halted and not stalled, no interrupt
and no held imprecise fault can be taken at this boundary, the fetch raises nothing, and an active repeat has
iterations left. -/
def Ready (s : State) (c : BitVec 12) (len : Nat) : Prop :=
  (s.carrel c).idle = true ∧ s.takePending c = none ∧ (∃ pa part, s.fetch c len = .ok pa part) ∧
    ∀ r, (s.carrel c).rep = some r → r.count ≠ 0

/-- The stacks hold what an instruction pops and have room for what it pushes: the bound check of R77 raises
nothing. -/
def Fits (s : State) (c : BitVec 12) (u : StackUse) : Prop := (s.carrel c).stackCheck u = none

/-! ### What an instruction does to the stacks -/

/-- The bank whose data stack is in use. -/
def State.dataOf (s : State) (c : BitVec 12) : Bank := (s.carrel c).bank (s.carrel c).dataBank

/-- The bank whose return stack is in use. -/
def State.retOf (s : State) (c : BitVec 12) : Bank := (s.carrel c).bank (s.carrel c).retBank

/-- Return-stack entry `n` from the top of the bank in use, read where it lies. -/
def State.peekR (s : State) (c : BitVec 12) (n : Nat) : Word := s.peek c (s.retOf c).r (s.retOf c).rres n

/-- Whether slot `i` of the shelf is one that a stack with registers `p` and resident entries `res` spills to when
`pop` entries leave and `push` come (R76): first the stack fills what it must pop, then the deepest resident
entries above `cap` go to the slots from its pointer on. -/
def spills (p : Ptrs) (res : List Word) (cap pop push i : Nat) : Prop :=
  p.ptr.toNat - (pop - res.length) ≤ i ∧
    i < p.ptr.toNat - (pop - res.length) + (max res.length pop - pop + push - cap)

/-- The slots that the data stack in use spills to. -/
def State.spillsD (s : State) (c : BitVec 12) (pop push i : Nat) : Prop :=
  spills (s.dataOf c).d (s.dataOf c).dres 8 pop push i

/-- The slots that the return stack in use spills to. -/
def State.spillsR (s : State) (c : BitVec 12) (pop push i : Nat) : Prop :=
  spills (s.retOf c).r (s.retOf c).rres 16 pop push i

/-- The data stack that was in use has lost its top `pop` entries and gained `outs`, listed top first; every deeper
entry is what it was, unless it lies in a slot that the return stack has spilled to. -/
def DataStack (c : BitVec 12) (pop : Nat) (outs : List Word) (hit : Nat → Prop) (s t : State) : Prop :=
  let b := (t.carrel c).bank (s.carrel c).dataBank
  b.dataDepth = (s.dataOf c).dataDepth - pop + outs.length ∧
  (∀ n x, outs[n]? = some x → t.peek c b.d b.dres n = x) ∧
  ∀ n : Nat, (n : Int) + pop < (s.dataOf c).dataDepth →
    (b.dres.length ≤ outs.length + n → ¬ hit (b.d.ptr.toNat - 1 - (outs.length + n - b.dres.length))) →
    t.peek c b.d b.dres (outs.length + n) = s.peekD c (pop + n)

/-- The same of the return stack that was in use. -/
def RetStack (c : BitVec 12) (pop : Nat) (outs : List Word) (hit : Nat → Prop) (s t : State) : Prop :=
  let b := (t.carrel c).bank (s.carrel c).retBank
  b.retDepth = (s.retOf c).retDepth - pop + outs.length ∧
  (∀ n x, outs[n]? = some x → t.peek c b.r b.rres n = x) ∧
  ∀ n : Nat, (n : Int) + pop < (s.retOf c).retDepth →
    (b.rres.length ≤ outs.length + n → ¬ hit (b.r.ptr.toNat - 1 - (outs.length + n - b.rres.length))) →
    t.peek c b.r b.rres (outs.length + n) = s.peekR c (pop + n)

/-! ### What an instruction leaves alone -/

/-- Only carrel `c` and memory differ. -/
def OnlyCarrel (c : BitVec 12) (s t : State) : Prop :=
  t = { s with mem := t.mem, carrels := t.carrels } ∧ ∀ d, d ≠ c → t.carrel d = s.carrel d

/-- The carrel's registers are those of `base`, its stack banks apart. -/
def CarrelIs (c : BitVec 12) (base : Carrel) (t : State) : Prop :=
  t.carrel c =
    { base with
      bankU := (t.carrel c).bankU, bankS := (t.carrel c).bankS
      bankM := (t.carrel c).bankM, bankR := (t.carrel c).bankR }

/-- In every bank the bounds of the stacks are what they were; a data stack not in use and a return stack not in
use are wholly what they were; with nothing popped and nothing pushed so is the one in use. -/
def BanksKept (c : BitVec 12) (data ret : Bool) (s t : State) : Prop :=
  ∀ id, let a := (s.carrel c).bank id; let b := (t.carrel c).bank id
    b.d.lo = a.d.lo ∧ b.d.hi = a.d.hi ∧ b.r.lo = a.r.lo ∧ b.r.hi = a.r.hi ∧
    ((id ≠ (s.carrel c).dataBank ∨ data = false) → b.d = a.d ∧ b.dres = a.dres) ∧
    ((id ≠ (s.carrel c).retBank ∨ ret = false) → b.r = a.r ∧ b.rres = a.rres)

/-- Every byte of memory is what it was, but for the shelf slots of carrel `c` that the stacks spill to. -/
def MemKept (c : BitVec 12) (hit : Nat → Prop) (s t : State) : Prop :=
  ∀ a, (∀ i, hit i → a < shelfBase c.toNat + 8 * i ∨ shelfBase c.toNat + 8 * i + 8 ≤ a) → t.byte a = s.byte a

/-- The carrel after an instruction of `len` bytes that is no control transfer: it has retired, and the pc passes it
unless a repeat has iterations left (R84, R111, R112). -/
def Carrel.after (k : Carrel) (len : Nat) : Carrel :=
  { k with
    count := { k.count with retired := k.count.retired + 1 }
    pc := match k.rep with
      | some r => if 1 < r.count then k.pc else k.pc + word len
      | none => k.pc + word len
    rep := match k.rep with
      | some r => if 1 < r.count then some { r with count := r.count - 1 } else none
      | none => none }

/-- The carrel after a control transfer to `pc`. -/
def Carrel.jumped (k : Carrel) (pc : Word) : Carrel :=
  { k with count := { k.count with retired := k.count.retired + 1 }, pc := pc }

/-- The whole effect of an instruction on the stacks: `dPop` data entries leave and `dOut` come, `rPop` return
entries leave and `rOut` come (each listed top first); the carrel's other registers are those of `base`; nothing
else of the machine changes. -/
def Moves (c : BitVec 12) (base : Carrel) (dPop : Nat) (dOut : List Word) (rPop : Nat) (rOut : List Word)
    (s t : State) : Prop :=
  DataStack c dPop dOut (s.spillsR c rPop rOut.length) s t ∧
  RetStack c rPop rOut (s.spillsD c dPop dOut.length) s t ∧
  OnlyCarrel c s t ∧ CarrelIs c base t ∧
  BanksKept c (decide (dPop ≠ 0 ∨ dOut ≠ [])) (decide (rPop ≠ 0 ∨ rOut ≠ [])) s t ∧
  MemKept c (fun i => s.spillsD c dPop dOut.length i ∨ s.spillsR c rPop rOut.length i) s t

/-! ### Whole instructions -/

/-- In every state in which carrel `c` is ready for the instruction and its stacks have the entries and the room that
`u` says, `exec` answers a next state: `dOut` in place of the top `u.dPop` data entries, `rOut` in place of the top
`u.rPop` return entries, the carrel's other registers as in `base`, and nothing else changed. `also` is a further
condition on the state. -/
def RunsIf (also : BitVec 12 → State → Prop) (mk : BitVec 12 → Instr) (len : Nat) (u : StackUse)
    (base : BitVec 12 → State → Carrel) (dOut rOut : BitVec 12 → State → List Word) : Prop :=
  ∀ (c : BitVec 12) (s : State), Ready s c len → Fits s c u → also c s →
    ∃ t, Sys2Proof.Machine.exec (mk c) s = .next t ∧ Moves c (base c s) u.dPop (dOut c s) u.rPop (rOut c s) s t

/-- `RunsIf` without a further condition. -/
def Runs (mk : BitVec 12 → Instr) (len : Nat) (u : StackUse) (base : BitVec 12 → State → Carrel)
    (dOut rOut : BitVec 12 → State → List Word) : Prop :=
  RunsIf (fun _ _ => True) mk len u base dOut rOut

/-- A form that touches no stack: in every state in which carrel `c` is ready for it and that meets `also`, `exec`
answers a next state with the carrel's registers as in `base` and nothing else changed. -/
def RunsFree (also : BitVec 12 → State → Prop) (mk : BitVec 12 → Instr) (len : Nat)
    (base : BitVec 12 → State → Carrel) : Prop :=
  ∀ (c : BitVec 12) (s : State), Ready s c len → also c s →
    ∃ t, Sys2Proof.Machine.exec (mk c) s = .next t ∧ Moves c (base c s) 0 [] 0 [] s t

/-- A form of `len` bytes that replaces the top `pop` data entries by the entries that `f` gives, listed top first, of
the entries it finds (entry 0 is the top). -/
def DataForm (mk : BitVec 12 → Instr) (len need pop push : Nat) (f : (Nat → Word) → List Word) : Prop :=
  Runs mk len { dNeed := need, dPop := pop, dPush := push } (fun c s => (s.carrel c).after len)
    (fun c s => f (s.peekD c)) (fun _ _ => [])

/-- ( a b -- f a b ). -/
def Binary (mk : BitVec 12 → Instr) (f : Word → Word → Word) : Prop :=
  DataForm mk 2 0 2 1 fun e => [f (e 1) (e 0)]

/-- ( a -- f a ). -/
def Unary (mk : BitVec 12 → Instr) (f : Word → Word) : Prop :=
  DataForm mk 2 0 1 1 fun e => [f (e 0)]

/-- The carrel after it has reported a NaN event of its scalar core (SRC 0) or vector unit (SRC 1) to its first-NaN
record, if there is a cause (R209, R210). -/
def Carrel.reported (k : Carrel) (wtn : Word) (src : BitVec 3) (elem : Nat) (cause : Option NanCause) : Carrel :=
  match cause with
  | none => k
  | some x =>
    { k with
      nan := k.nan.take
        { src := src, cause := x.code, phase := k.wd.phase, wtn := wtn, op := k.pc, col := BitVec.ofNat 16 elem
          row := 0, group := 0 } }

/-- A 16-bit form that replaces data entries by those `f` gives, and reports the NaN that `f` says it has produced. -/
def FloatForm (mk : BitVec 12 → Instr) (pop push : Nat) (f : (Nat → Word) → List Word × Option NanCause) : Prop :=
  Runs mk 2 { dPop := pop, dPush := push }
    (fun c s => ((s.carrel c).reported s.tickWtn 0 0 (f (s.peekD c)).2).after 2)
    (fun c s => (f (s.peekD c)).1) (fun _ _ => [])

/-! ### Exceptions -/

/-- A synchronous cause `code` of this carrel enters at level `h` without escalation: the carrel is not in rescue
state, `h` is the normal level of the cause, the mask is below the cause's step, and a frame can be pushed at `h`
(R142, R146, R153, R155). -/
def Carrel.entersAt (k : Carrel) (code : BitVec 8) (h : BitVec 2) : Prop :=
  k.rescue = false ∧ h.toNat = causeLevel code k.level ∧ (k.mask k.level).toNat < causeStep code ∧
    k.seals.length < (if h = 1 then 3 else 4) ∧ k.xspValid h = true

/-! ### Stores -/

/-- Shelf slot `i` of carrel `c` overlaps the `n` bytes from local address `a`. -/
def slotHit (c : BitVec 12) (a n i : Nat) : Prop :=
  shelfBase c.toNat + 8 * i < a + n ∧ a < shelfBase c.toNat + 8 * i + 8

/-- An instruction that takes `pop` data entries, leaves `outs`, and stores `n` bytes, the little-endian number `x`,
at local address `a`: the carrel's other registers are those of `base`, and every other byte of memory is what it
was. Where the stacks themselves spill, they spill after the store. -/
def StoresTo (c : BitVec 12) (base : Carrel) (pop : Nat) (outs : List Word) (a n x : Nat) (s t : State) : Prop :=
  DataStack c pop outs (slotHit c a n) s t ∧
  RetStack c 0 [] (fun i => slotHit c a n i ∨ s.spillsD c pop outs.length i) s t ∧
  OnlyCarrel c s t ∧ CarrelIs c base t ∧ BanksKept c true false s t ∧
  ((∀ i, ¬ s.spillsD c pop outs.length i) → t.le a n = x % 256 ^ n) ∧
  ∀ b, (b < a ∨ a + n ≤ b) →
    (∀ i, s.spillsD c pop outs.length i → b < shelfBase c.toNat + 8 * i ∨ shelfBase c.toNat + 8 * i + 8 ≤ b) →
    t.byte b = s.byte b

/-- The first shelf offset that the carrel may not touch at its level (R99). -/
def Carrel.shelfEnd (k : Carrel) : Nat :=
  if k.level = 0 then min (k.ulim.toNat * 64) (if k.rescue then 196608 else 196096)
  else if k.level = 1 ∧ k.rescue = false then 196096 else 196608

/-- The halves of an access that passed its checks: offset in the access, bytes, virtual and physical address and
partition of each; none where a check fails. -/
def Accesses.parts : Accesses → List (Nat × Nat × Word × Nat × BitVec 6)
  | .ok l => l
  | _ => []

/-- The bytes that one half of a load finds at once: the carrel's own memory, else the line of its D-cache. -/
def State.foundBytes (s : State) (c : BitVec 12) (pa n : Nat) : List Byte :=
  if s.ownMem c pa then s.bytes (localOf pa) n
  else match (s.carrel c).dLine pa with
    | some (_, l) => slice l.data (pa % 64) n
    | none => []

/-! ### Long vectors -/

/-- What a vector instruction leaves: data entries and vector entries, top first, the active length if it writes it,
and the element and cause of the NaN event it reports, if any. -/
structure VecOut where
  d : List Word := []
  v : List (BitVec 8192) := []
  vl : Option (BitVec 11) := none
  nan : Option (Nat × NanCause) := none

/-- A vector arithmetic instruction: for every legal form and in every state in which the carrel is ready for it and
the stacks have what `u` says beside the mask entry of a masked form, `exec` answers a next state in which the
operands have been replaced by what `f` gives, and nothing else has changed. `f` is told the form, the carrel, the
mask (all ones where unmasked), the vector entries below the mask and the data entries (entry 0 the top). -/
def VecForm (mk : BitVec 12 → VArith → Instr) (op : Nat) (u : StackUse)
    (f : VArith → Carrel → BitVec 8192 → (Nat → BitVec 8192) → (Nat → Word) → VecOut) : Prop :=
  ∀ (a : VArith) (c : BitVec 12) (s : State), vArithLegal op a = true → Ready s c 4 →
    Fits s c { u with vPop := u.vPop + b2n a.m } →
    let k := s.carrel c
    let mask := if a.m then k.vstack.headD 0 else BitVec.allOnes 8192
    let o := f a k mask (fun i => (k.vstack.drop (b2n a.m)).getD i 0) (s.peekD c)
    let j := { k with vl := o.vl.getD k.vl, vstack := o.v ++ k.vstack.drop (u.vPop + b2n a.m) }
    ∃ t, Sys2Proof.Machine.exec (mk c a) s = .next t ∧
      Moves c ((match o.nan with
        | none => j
        | some (i, x) => j.reported s.tickWtn 1 i (some x)).after 4) u.dPop o.d 0 [] s t

/-- The result entry of an element-wise operation on elements of width `w`: `g i` in the active elements that the mask
selects, `keep i` in the others, 0 from the active count on; and the event of the lowest element that produced a NaN. -/
def lanewise (w n : Nat) (mask : BitVec 8192) (g : Nat → FRes) (keep : Nat → Nat) : VecOut :=
  { v := [ventry w ((upto n).map fun i => if mask.getLsbD i then (g i).1 else keep i)]
    nan := (upto n).findSome? fun i => if mask.getLsbD i then (g i).2.map fun x => (i, x) else none }

/-- A vector memory instruction whose accesses all lie in the carrel's own shelf and ledger: for every legal form and
in every state in which the carrel is ready for it and every active element passes its checks, `exec` answers a next
state `t`; `post` says what holds of it. -/
def VecMemForm (mk : BitVec 12 → VMem → Instr) (op : Nat)
    (post : VMem → BitVec 12 → State → State → Prop) : Prop :=
  ∀ (a : VMem) (c : BitVec 12) (s : State), vMemLegal op a = true → Ready s c 4 → Fits s c (vmUse op a) →
    s.vmChecks c op a (s.vmRecords c op a) = .ok →
    (∀ x ∈ s.vmAccs c op a, s.ownMem c x.pa = true) →
    ∃ t, Sys2Proof.Machine.exec (mk c a) s = .next t ∧ post a c s t

/-! ### Host commands -/

/-- A host command of a context that may be performed: taken, not begun, of this OP, well formed, with no earlier
command left that touches its bytes; no FENCE before it holds it back, and the context has its host (R430 to R434,
R437, R441). -/
def Taken (s : State) (ctx : BitVec 12) (c : Cmd) (op : Nat) : Prop :=
  s.cmd ctx.toNat c.seq = some c ∧ c.op = op ∧ (c.stage = .waiting ∨ c.stage = .ready) ∧
    s.badCmd ctx.toNat c = false ∧ s.startable ctx c = true ∧
    s.fenced ctx.toNat c.seq = false ∧ (s.hctx ctx.toNat).orphaned = false

/-- What a command's end sends, newest first: the MSI-X message behind the completion record (R435, R436). -/
def State.cplSent (s : State) (ctx : Nat) (c : Cmd) (status detail : Nat) (tick value : Word) : List Sent :=
  (if c.irq = true ∧ s.host.dlUp = true then [.msix (s.owner ctx) (BitVec.ofNat 16 c.vector)] else []) ++
  if c.cpl = true then [.hostWrite (s.owner ctx) c.cplAddr (cplBytes c status detail tick value) false] else []

/-- A command ends: it leaves the list of its context, an engine that moved it is idle, the record and the message
that it asks for are sent, and nothing else changes. -/
def Completed (ctx : BitVec 12) (c : Cmd) (status detail : Nat) (tick value : Word) (s t : State) : Prop :=
  t = { s with
    sent := s.cplSent ctx.toNat c status detail tick value ++ s.sent
    host := { s.host with ctxs := t.host.ctxs, engines := t.host.engines } } ∧
  (t.hctx ctx.toNat = { s.hctx ctx.toNat with cmds := (s.hctx ctx.toNat).cmds.filter fun x => decide (x.seq ≠ c.seq) }) ∧
  (∀ d, d ≠ ctx.toNat → t.hctx d = s.hctx d) ∧
  ∀ e, t.engine e = if c.engine = some e then { s.engine e with busy := false, moved := 0 } else s.engine e

/-! ### The dictionary -/

/-- A dictionary request of a source is answered (R502, R507): over CAN with the USDO response; in a window with GO 0,
ERR set where the abort code is not 0, the code, and the value's bytes in the buffer. Nothing else changes. -/
def Answered (src : DictSrc) (code done size : Nat) (data : List Byte) (s t : State) : Prop :=
  match src with
  | .can =>
    t = { s with
      sent := Sent.can (0x580 + s.dict.nodeId.toNat) (natToBytes 4 code ++ natToBytes 4 size ++ data) :: s.sent }
  | src =>
    let f := winOf src
    t = { s with dict := { s.dict with windows := t.dict.windows } } ∧ (∀ g, g ≠ f → t.win g = s.win g) ∧
      t.win f = { s.win f with
        go := false, err := (s.win f).err || decide (code ≠ 0), abort := BitVec.ofNat 32 code
        doneLen := if code = 0 then BitVec.ofNat 32 done else (s.win f).doneLen
        size := if code = 0 then BitVec.ofNat 32 size else (s.win f).size, buf := (t.win f).buf } ∧
      ∀ j, Tab.get 0 (t.win f).buf j = if j < data.length then data.getD j 0 else Tab.get 0 (s.win f).buf j

end Sys2Proof.Machine
end

