-- ==== Sys2Proof/Certificates/Slice0/Obligations.lean ====
section
/-!
DEFINITION. The statements for the provers.
-/

open Sys2Proof Sys2Proof.Machine

/-! ## Commands and the queue -/

/-- A step with a command at the front of the queue is that command's meaning on the state with the queue's rest. -/
def Obligations.StepRunsTheFrontCommand : Prop :=
  ∀ (i : Instr) (rest : List Instr) (s : State), s.pending = i :: rest →
    Sys2Proof.Machine.step s = Sys2Proof.Machine.exec i { s with pending := rest }

/-- On an empty queue the block idles (log entry 2: the model's choice). No word spells a command, since the table
gives no row any bits; so placing a word changes nothing. -/
def Obligations.EmptyQueueIdles : Prop :=
  (∀ s : State, s.pending = [] → Sys2Proof.Machine.step s = .next s) ∧
  (∀ (nbits w : Nat) (s : State), decodeTableWord nbits w = none ∧ s.withFetchWord nbits w = s)

/-! ## The scalar core -/

/-- DUP, DROP, SWAP, OVER, ROT, NIP, PICK n and the pair forms P.DUP, P.DROP and P.SWAP rearrange the data stack as
their stack effects say and change nothing else. PUSHR, POPR and RCOPY move or copy the top entry between the data
stack and the return stack. LIT6 and LIT32 push their values sign-extended; LITX shifts the top entry left by 25 and
fills the low bits. -/
def Obligations.StackInstructions : Prop :=
  (DataForm .dup 2 0 1 2 (fun e => [e 0, e 0]) ∧
   DataForm .drop 2 0 1 0 (fun _ => []) ∧
   DataForm .swap 2 0 2 2 (fun e => [e 1, e 0]) ∧
   DataForm .overTop 2 0 2 3 (fun e => [e 1, e 0, e 1]) ∧
   DataForm .rot 2 0 3 3 (fun e => [e 2, e 0, e 1]) ∧
   DataForm .nip 2 0 2 1 (fun e => [e 0]) ∧
   (∀ n : BitVec 4, DataForm (.pick · n) 2 (n.toNat + 1) 0 1 (fun e => [e n.toNat])) ∧
   ∀ t : BitVec 3,
     DataForm (.pDup · t) 2 0 2 4 (fun e => [e 0, e 1, e 0, e 1]) ∧
     DataForm (.pDrop · t) 2 0 2 0 (fun _ => []) ∧
     DataForm (.pSwap · t) 2 0 4 4 (fun e => [e 2, e 3, e 0, e 1])) ∧
  (Runs .pushr 2 { dPop := 1, rPush := 1 } (fun c s => (s.carrel c).after 2) (fun _ _ => [])
     (fun c s => [s.peekD c 0]) ∧
   Runs .popr 2 { dPush := 1, rPop := 1 } (fun c s => (s.carrel c).after 2) (fun c s => [s.peekR c 0])
     (fun _ _ => []) ∧
   Runs .rcopy 2 { dPush := 1, rPop := 1, rPush := 1 } (fun c s => (s.carrel c).after 2) (fun c s => [s.peekR c 0])
     (fun c s => [s.peekR c 0])) ∧
  ((∀ v : BitVec 6, DataForm (.lit6 · v) 2 0 0 1 (fun _ => [BitVec.ofInt 64 v.toInt])) ∧
   (∀ v : BitVec 25, DataForm (.lit32 · v) 4 0 0 1 (fun _ => [BitVec.ofInt 64 v.toInt])) ∧
   ∀ v : BitVec 25, DataForm (.litx · v) 4 0 1 1
     (fun e => [BitVec.ofNat 64 ((e 0).toNat % 2 ^ 39 * 2 ^ 25 + v.toNat)]))

/-- The integer instructions but the divisions: sums and products modulo 2^64, the high halves of the products,
bitwise operations, shifts by the count modulo 64, and comparisons that leave 1 or 0. DIV, DIVU, REM and REMU:
quotients truncated toward zero and their remainders, with the edge cases of R94; none of them raises an exception.
-/
def Obligations.IntegerArithmetic : Prop :=
  (Binary .add (fun a b => BitVec.ofNat 64 (a.toNat + b.toNat)) ∧
   Binary .sub (fun a b => BitVec.ofInt 64 (a.toInt - b.toInt)) ∧
   Binary .mul (fun a b => BitVec.ofNat 64 (a.toNat * b.toNat)) ∧
   Binary .mulh (fun a b => BitVec.ofInt 64 (a.toInt * b.toInt / 2 ^ 64)) ∧
   Binary .mulhu (fun a b => BitVec.ofNat 64 (a.toNat * b.toNat / 2 ^ 64)) ∧
   Binary .and (fun a b => a &&& b) ∧ Binary .or (fun a b => a ||| b) ∧ Binary .xor (fun a b => a ^^^ b) ∧
   Unary .not (fun a => ~~~ a) ∧ Unary .neg (fun a => BitVec.ofInt 64 (- a.toInt)) ∧
   Binary .shl (fun a n => a <<< (n.toNat % 64)) ∧ Binary .shr (fun a n => a >>> (n.toNat % 64)) ∧
   Binary .sar (fun a n => BitVec.ofInt 64 (a.toInt / 2 ^ (n.toNat % 64))) ∧
   Binary .cmpeq (fun a b => if a = b then 1 else 0) ∧ Binary .cmpne (fun a b => if a = b then 0 else 1) ∧
   Binary .cmplt (fun a b => if a.toInt < b.toInt then 1 else 0) ∧
   Binary .cmple (fun a b => if a.toInt ≤ b.toInt then 1 else 0) ∧
   Binary .cmpltu (fun a b => if a.toNat < b.toNat then 1 else 0) ∧
   Binary .cmpleu (fun a b => if a.toNat ≤ b.toNat then 1 else 0)) ∧
  (Binary .div (fun a b => if b = 0 then BitVec.allOnes 64 else BitVec.ofInt 64 (a.toInt.tdiv b.toInt)) ∧
   Binary .divu (fun a b => if b = 0 then BitVec.allOnes 64 else BitVec.ofNat 64 (a.toNat / b.toNat)) ∧
   Binary .rem (fun a b => if b = 0 then a else BitVec.ofInt 64 (a.toInt.tmod b.toInt)) ∧
   Binary .remu (fun a b => if b = 0 then a else BitVec.ofNat 64 (a.toNat % b.toNat)) ∧
   BitVec.ofInt 64 ((-(2 ^ 63 : Int)).tdiv (-1)) = BitVec.ofInt 64 (-(2 ^ 63)) ∧
   BitVec.ofInt 64 ((-(2 ^ 63 : Int)).tmod (-1)) = 0)

/-- FADD, FSUB, FMUL, FFMA, FDIV and FSQRT: the exact result rounded once to nearest even, and a NaN that the
instruction produces from operands that are none reported to the first-NaN record with its cause. A NaN operand of
FADD, FSUB, FMUL, FFMA, FDIV or FSQRT gives the canonical NaN and produces none of its own. FNEG, FABS, FMIN, FMAX,
the FP64 comparisons and the conversions. The model's choices: FMIN and FMAX of two NaNs, and the cause of 0 ×
infinity plus a NaN (log entries 23, 74). -/
def Obligations.FloatInstructions : Prop :=
  (let num (x : Word) : Sys2Proof.Num := Fmt.f64.decode x.toNat
   let rnd (v : Val) : Word := word (Fmt.f64.rne v)
   FloatForm .fadd 2 1 (fun e => ([rnd ((num (e 1)).add (num (e 0))).toVal], addCause (num (e 1)) (num (e 0)))) ∧
   FloatForm .fsub 2 1 (fun e =>
     ([rnd ((num (e 1)).add (num (e 0)).negate).toVal], addCause (num (e 1)) (num (e 0)).negate)) ∧
   FloatForm .fmul 2 1 (fun e => ([rnd ((num (e 1)).mul (num (e 0))).toVal], mulCause (num (e 1)) (num (e 0)))) ∧
   FloatForm .ffma 3 1 (fun e =>
     ([rnd (((num (e 2)).mul (num (e 1))).add (num (e 0))).toVal],
       (mulCause (num (e 2)) (num (e 1))).or (addCause ((num (e 2)).mul (num (e 1))) (num (e 0))))) ∧
   FloatForm .fdiv 2 1 (fun e => ([rnd ((num (e 1)).div (num (e 0))).1], ((num (e 1)).div (num (e 0))).2)) ∧
   FloatForm .fsqrt 1 1 (fun e => ([rnd (num (e 0)).sqrt.1], (num (e 0)).sqrt.2))) ∧
  (∀ x y z : Word, (Fmt.f64.decode x.toNat).isNan = true →
     Fmt.f64.addOp x.toNat y.toNat = (Fmt.f64.nan, none) ∧ Fmt.f64.addOp y.toNat x.toNat = (Fmt.f64.nan, none) ∧
     Fmt.f64.subOp x.toNat y.toNat = (Fmt.f64.nan, none) ∧ Fmt.f64.subOp y.toNat x.toNat = (Fmt.f64.nan, none) ∧
     Fmt.f64.mulOp x.toNat y.toNat = (Fmt.f64.nan, none) ∧ Fmt.f64.mulOp y.toNat x.toNat = (Fmt.f64.nan, none) ∧
     Fmt.f64.divOp x.toNat y.toNat = (Fmt.f64.nan, none) ∧ Fmt.f64.divOp y.toNat x.toNat = (Fmt.f64.nan, none) ∧
     Fmt.f64.sqrtOp x.toNat = (Fmt.f64.nan, none) ∧
     Fmt.f64.fmaOp x.toNat y.toNat z.toNat = (Fmt.f64.nan, none) ∧ (Fmt.f64.fmaOp y.toNat z.toNat x.toNat).1 = Fmt.f64.nan) ∧
  (let num (x : Word) : Sys2Proof.Num := Fmt.f64.decode x.toNat
   Unary .fneg (fun a => a ^^^ 0x8000000000000000#64) ∧ Unary .fabs (fun a => a &&& 0x7FFFFFFFFFFFFFFF#64) ∧
   Binary .fmin (fun a b =>
     if (num a).isNan && (num b).isNan then word (bothNanPick a.toNat b.toNat)
     else if (num a).isNan then b else if (num b).isNan then a else if (num b).belowSel (num a) then b else a) ∧
   Binary .fmax (fun a b =>
     if (num a).isNan && (num b).isNan then word (bothNanPick a.toNat b.toNat)
     else if (num a).isNan then b else if (num b).isNan then a else if (num a).belowSel (num b) then b else a) ∧
   (∀ x y : Nat, bothNanPick x y = x ∨ bothNanPick x y = y) ∧
   Binary .fcmpeq (fun a b => if (num a).eqNum (num b) then 1 else 0) ∧
   Binary .fcmplt (fun a b => if (num a).ltNum (num b) then 1 else 0) ∧
   Binary .fcmple (fun a b => if (num a).leNum (num b) then 1 else 0) ∧
   Unary .fcvtI2f (fun a => word (Fmt.f64.rne (Sys2Proof.Num.fin (decide (a.toInt < 0)) a.toInt.natAbs 0).toVal)) ∧
   Unary .fcvtU2f (fun a => word (Fmt.f64.rne (Sys2Proof.Num.fin false a.toNat 0).toVal)) ∧
   Unary .fcvtF2i (fun a => word (toIntCode 64 (-(2 ^ 63)) (2 ^ 63 - 1) 0 0 .rne (num a).toVal).bits) ∧
   Unary .fcvtF2u (fun a => word (toIntCode 64 0 (2 ^ 64 - 1) 0 0 .rne (num a).toVal).bits) ∧
   Unary .fcvtD2s (fun a => word (Fmt.f32.rne (num a).toVal)) ∧
   Unary .fcvtS2d (fun a => word (Fmt.f64.rne (Fmt.f32.decode (a.toNat % 2 ^ 32)).toVal)))

/-- BR, BZ, BNZ and NOP: a branch goes to the address of its own first parcel plus twice its offset; a conditional
branch pops its condition whether it is taken or not. CALL, CALLI, JMPI and RET: the calls push the address of the
next instruction on the return stack; targets taken from a stack lose their bit 0. REP n runs the next instruction n
times, n popped, and skips it for n = 0; REPX m runs it m times, m being the form's field plus 1. Neither runs where
the next instruction may not be fetched or may not follow a prefix. The model's choice: a prefix whose next
instruction cannot be fetched faults there, its count not popped (log entry 71). -/
def Obligations.ControlTransfers : Prop :=
  (let off (long : Bool) (o : BitVec 23) : Int := if long then o.toInt else (o.setWidth 11).toInt
   let dest (c : BitVec 12) (s : State) (d : Int) : Carrel :=
     (s.carrel c).jumped ((s.carrel c).pc + BitVec.ofInt 64 (2 * d))
   let len (long : Bool) : Nat := if long then 4 else 2
   (∀ (long : Bool) (o : BitVec 23),
     RunsFree (fun _ _ => True) (.br · long o) (len long) (fun c s => dest c s (off long o)) ∧
     Runs (.bz · long o) (len long) { dPop := 1 }
       (fun c s => if s.peekD c 0 = 0 then dest c s (off long o) else (s.carrel c).after (len long))
       (fun _ _ => []) (fun _ _ => []) ∧
     Runs (.bnz · long o) (len long) { dPop := 1 }
       (fun c s => if s.peekD c 0 ≠ 0 then dest c s (off long o) else (s.carrel c).after (len long))
       (fun _ _ => []) (fun _ _ => [])) ∧
   RunsFree (fun _ _ => True) .controlNop 2 (fun c s => (s.carrel c).after 2)) ∧
  (let even (x : Word) : Word := BitVec.ofNat 64 (x.toNat / 2 * 2)
   (∀ o : BitVec 25, Runs (.call · o) 4 { rPush := 1 }
     (fun c s => (s.carrel c).jumped ((s.carrel c).pc + BitVec.ofInt 64 (2 * o.toInt)))
     (fun _ _ => []) (fun c s => [(s.carrel c).pc + 4])) ∧
   Runs .calli 2 { dPop := 1, rPush := 1 } (fun c s => (s.carrel c).jumped (even (s.peekD c 0)))
     (fun _ _ => []) (fun c s => [(s.carrel c).pc + 2]) ∧
   Runs .jmpi 2 { dPop := 1 } (fun c s => (s.carrel c).jumped (even (s.peekD c 0))) (fun _ _ => []) (fun _ _ => []) ∧
   Runs .ret 2 { rPop := 1 } (fun c s => (s.carrel c).jumped (even (s.peekR c 0))) (fun _ _ => []) (fun _ _ => [])) ∧
  (∀ nxt : BitVec 32, prefixBad nxt = false →
     let fetched (c : BitVec 12) (s : State) : Prop :=
       (∃ pa part, s.fetchWord c ((s.carrel c).pc + 2) = .ok pa part) ∧
       (isLong nxt = true → ∃ pa part, s.fetchWord c ((s.carrel c).pc + 4) = .ok pa part)
     RunsIf fetched (.repPrefix · nxt) 2 { dPop := 1 }
       (fun c s =>
         if s.peekD c 0 = 0 then (s.carrel c).jumped ((s.carrel c).pc + if isLong nxt then 6 else 4)
         else { (s.carrel c).jumped ((s.carrel c).pc + 2) with
           rep := some { repx := false, addr := (s.carrel c).pc, count := s.peekD c 0, parcel := some 0x050C } })
       (fun _ _ => []) (fun _ _ => []) ∧
     ∀ m : BitVec 8, RunsFree fetched (.repxPrefix · m nxt) 2 fun c s =>
       { (s.carrel c).jumped ((s.carrel c).pc + 2) with
         rep := some { repx := true, addr := (s.carrel c).pc, count := BitVec.ofNat 64 (m.toNat + 1)
                       parcel := some (BitVec.ofNat 16 (m.toNat * 256 + 0x10)) } })

/-- An instruction that may not follow a prefix raises ILLEGAL at the prefix, before the count is popped. The core
raises ILLEGAL for parcels that are no form, with the parcels in DETAIL. An encoding whose fields are not legal for
its operation raises ILLEGAL before the stack check. -/
def Obligations.IllegalForms : Prop :=
  (∀ (nxt : BitVec 32) (c : BitVec 12) (s : State) (m : BitVec 8), prefixBad nxt = true → Ready s c 2 →
     (s.carrel c).rep = none →
     (∃ pa part, s.fetchWord c ((s.carrel c).pc + 2) = .ok pa part) →
     (isLong nxt = true → ∃ pa part, s.fetchWord c ((s.carrel c).pc + 4) = .ok pa part) →
     Sys2Proof.Machine.exec (.repPrefix c nxt) s = .next (s.fault c { code := 0x01, detail := 0x050C }) ∧
     Sys2Proof.Machine.exec (.repxPrefix c m nxt) s =
       .next (s.fault c { code := 0x01, detail := BitVec.ofNat 64 (m.toNat * 256 + 0x10) })) ∧
  (∀ (p : BitVec 32) (c : BitVec 12) (s : State), parcelsLegal p = false →
     Ready s c (if isLong p then 4 else 2) → (s.carrel c).rep = none →
     Sys2Proof.Machine.exec (.illegalInstruction c p) s =
       .next (s.fault c { code := 0x01, detail := BitVec.ofNat 64 (if isLong p then p.toNat else p.toNat % 65536) })) ∧
  ((∀ (a : VArith) (c : BitVec 12) (s : State), Ready s c 4 → (s.carrel c).rep = none →
     (vArithLegal 0x08 a = false →
       Sys2Proof.Machine.exec (.vadd c a) s = .next (s.fault c { code := 0x01, detail := word (vArithParcels 0x08 a) })) ∧
     (vArithLegal 0x20 a = false →
       Sys2Proof.Machine.exec (.vcvt c a) s = .next (s.fault c { code := 0x01, detail := word (vArithParcels 0x20 a) })) ∧
     (vArithLegal 0x15 a = false →
       Sys2Proof.Machine.exec (.vshl c a) s = .next (s.fault c { code := 0x01, detail := word (vArithParcels 0x15 a) }))) ∧
   ∀ (a : VMem) (c : BitVec 12) (s : State), Ready s c 4 → (s.carrel c).rep = none →
     (vMemLegal 0x00 a = false →
       Sys2Proof.Machine.exec (.vld c a) s = .next (s.fault c { code := 0x01, detail := word (vMemParcels 0x00 a) })) ∧
     (vMemLegal 0x06 a = false →
       Sys2Proof.Machine.exec (.vscta c a) s = .next (s.fault c { code := 0x01, detail := word (vMemParcels 0x06 a) })))

/-- The command that parcels pick: a legal encoding picks a form and any other picks none, and so raises ILLEGAL.
The fields of the literal, branch, shelf-local, load, store, atomic, queue and system forms stand where the tables
put them. The parcels of the mixed-width example pick its seven instructions. -/
def Obligations.ParcelsPickTheirForms : Prop :=
  (∀ (c : BitVec 12) (p : BitVec 48),
     (decodeParcels c p).isSome = parcelsLegal (p.setWidth 32) ∧
     (parcelsLegal (p.setWidth 32) = false → parcelCommand c p = .illegalInstruction c (p.setWidth 32))) ∧
  (∀ (c : BitVec 12) (next : BitVec 32),
     let short (x : BitVec 16) : Option Instr := decodeParcels c (next ++ x)
     (∀ v : BitVec 6, short (0#5 ++ v ++ 0b00001#5) = some (.lit6 c v)) ∧
     (∀ o : BitVec 11, short (o ++ 0b00101#5) = some (.br c false (o.setWidth 23)) ∧
       short (o ++ 0b01001#5) = some (.bz c false (o.setWidth 23)) ∧
       short (o ++ 0b01101#5) = some (.bnz c false (o.setWidth 23))) ∧
     (∀ o : BitVec 9, short (o ++ 0b0010001#7) = some (.ld16L c o) ∧ short (o ++ 0b1110101#7) = some (.st64L c o)) ∧
     (∀ n : BitVec 4, short (0b0001#4 ++ n ++ 0#8) = some (.pick c n)) ∧
     short 0x0518#16 = none ∧ short 0x050C#16 = some (.repPrefix c next) ∧
     (∀ m : BitVec 8, short (m ++ 0x10#8) = some (.repxPrefix c m next))) ∧
  (∀ (c : BitVec 12) (next : BitVec 16),
     let long (x : BitVec 32) : Option Instr := decodeParcels c (next ++ x)
     (∀ v : BitVec 25, long (v ++ 0b0000011#7) = some (.lit32 c v) ∧ long (v ++ 0b0000111#7) = some (.litx c v) ∧
       long (v ++ 0b0001011#7) = some (.call c v)) ∧
     (∀ o : BitVec 23, long (o ++ 0b01#2 ++ 0b0001111#7) = some (.bz c true o) ∧
       long (o ++ 0b11#2 ++ 0b0001111#7) = none) ∧
     (∀ o : BitVec 22, long (o ++ 0b011#3 ++ 0b0010011#7) = some (.ld64 c o) ∧
       long (o ++ 0b100#3 ++ 0b0010011#7) = some (.ld8s c o) ∧ long (o ++ 0b010#3 ++ 0b0010111#7) = some (.st32 c o) ∧
       long (o ++ 0b100#3 ++ 0b0010111#7) = none) ∧
     (∀ (o : BitVec 20) (w : BitVec 1), long (o ++ w ++ 0b0000#4 ++ 0b0011011#7) = some (.aadd c (w = 1) o)) ∧
     (∀ (n : BitVec 4) (p : BitVec 1) (ch : BitVec 3),
       long (0#14 ++ 0#1 ++ n ++ p ++ ch ++ 0b10#2 ++ 0b0101011#7) = some (.dmq c ch n (p = 1)) ∧
       long (0#18 ++ n ++ p ++ 0b01#2 ++ 0b0100111#7) = some (.mstr c n (p = 1))) ∧
     (∀ n : BitVec 10, long (0#10 ++ n ++ 0b00001#5 ++ 0b0110011#7) = some (.gate c n) ∧
       long (0#10 ++ n ++ 0b01100#5 ++ 0b0110011#7) = some (.crd c n))) ∧
  (∀ c : BitVec 12,
     [0x07A1, 0x0100, 0x0204, 0x00C35003, 0x0004, 0x0201, 0x00F5].map (fun x => decodeParcels c (BitVec.ofNat 48 x)) =
       [.lit6 c (-3), .dup c, .mul c, .lit32 c 100000, .add c, .lit6 c 16, .st64L c 1].map some)

/-- The stack bound check comes before any effect: where an instruction meets a bound condition, the carrel takes
the STACK fault that names the stack and the direction, and nothing else happens. What the bound check names: the
first stack in the order data, return, vector, and underflow before overflow. Readings of the model: a stack that
the instruction does not use meets no bound (log entry 63). -/
def Obligations.StackBounds : Prop :=
  (let faults (mk : BitVec 12 → Instr) (len : Nat) (u : StackUse) : Prop :=
     ∀ (c : BitVec 12) (s : State) (e : Exc), Ready s c len → (s.carrel c).stackCheck u = some e →
       Sys2Proof.Machine.exec (mk c) s = .next (s.fault c e) ∧ e.code = 0x03 ∧ e.faddr = none
   faults .dup 2 { dPop := 1, dPush := 2 } ∧ faults .drop 2 { dPop := 1 } ∧ faults .add 2 { dPop := 2, dPush := 1 } ∧
   faults .fmul 2 { dPop := 2, dPush := 1 } ∧ faults .pushr 2 { dPop := 1, rPush := 1 } ∧
   faults .popr 2 { dPush := 1, rPop := 1 } ∧ faults .ret 2 { rPop := 1 } ∧
   (∀ v, faults (.lit6 · v) 2 { dPush := 1 }) ∧ (∀ o, faults (.call · o) 4 { rPush := 1 }) ∧
   (∀ o, faults (.st64L · o) 2 { dPop := 2 }) ∧ (∀ o, faults (.ld64 · o) 4 { dPop := 1, dPush := 1 }) ∧
   (∀ t, faults (.pFma · t) 2 { dPop := 6, dPush := 2 })) ∧
  (∀ (k : Carrel) (u : StackUse),
     ((k.bank k.dataBank).dataDepth < max u.dNeed u.dPop → k.stackCheck u = some (stackExc 0 true)) ∧
     ((max u.dNeed u.dPop : Nat) ≤ (k.bank k.dataBank).dataDepth → (k.bank k.dataBank).dres.length ≤ 8 →
       8 < max (k.bank k.dataBank).dres.length u.dPop - u.dPop + u.dPush →
       (k.bank k.dataBank).d.hi.toNat < (k.bank k.dataBank).d.ptr.toNat - (u.dPop - (k.bank k.dataBank).dres.length) +
         (max (k.bank k.dataBank).dres.length u.dPop - u.dPop + u.dPush - 8) →
       k.stackCheck u = some (stackExc 0 false)) ∧
     (boundCheck (k.bank k.dataBank).d (k.bank k.dataBank).dres 8 (max u.dNeed u.dPop) u.dPop u.dPush = none →
       (k.bank k.retBank).retDepth < max u.rNeed u.rPop → k.stackCheck u = some (stackExc 1 true)) ∧
     (boundCheck (k.bank k.dataBank).d (k.bank k.dataBank).dres 8 (max u.dNeed u.dPop) u.dPop u.dPush = none →
       boundCheck (k.bank k.retBank).r (k.bank k.retBank).rres 16 (max u.rNeed u.rPop) u.rPop u.rPush = none →
       (k.vstack.length < u.vPop → k.stackCheck u = some (stackExc 2 true)) ∧
       (u.vPop ≤ k.vstack.length → 8 < k.vstack.length - u.vPop + u.vPush → k.stackCheck u = some (stackExc 2 false))))

/-- Taking a synchronous fault that does not escalate: the frame of eight words below the top of the handling
level's exception stack, the seal, the level and the banks switched, and the pc at the level's vector. A fault in
rescue state halts the carrel and signals the halt to the keeper. A synchronous fault at or below the mask escalates
to the level above as MASKED with its cause in ORIG; above M the carrel enters rescue state with the frame in the
top 512 bytes of its shelf. What FADDR and DETAIL hold where no rule names them is free (log entry 3). -/
def Obligations.FaultEntry : Prop :=
  (∀ (c : BitVec 12) (s : State) (x : Exc) (h : BitVec 2), (s.carrel c).entersAt x.code h →
     let k := s.carrel c
     let t := s.fault c x
     let a := shelfBase c.toNat + 64 * ((k.xsp h).1.toNat - 1)
     let j := { k with level := h, dbank := h }
     t.le a 8 = k.resumePc.toNat ∧
     t.le (a + 8) 8 =
       (statusWord k.level (repKind k.rep) (k.mask h) false 0 0 k.dbank (decide (x.code ≠ 0x09)) false k.sealNext).toNat ∧
     t.le (a + 16) 8 = x.code.toNat ∧
     t.le (a + 24) 8 = (x.faddr.getD (Config.freeWord s.fresh)).toNat ∧
     t.le (a + 32) 8 = ((k.rep.map fun (r : Repeat) => r.count).getD 0).toNat ∧
     t.le (a + 40) 8 = x.detail.toNat ∧
     t.le (a + 48) 8 = j.depthWord.toNat ∧
     t.le (a + 56) 8 = s.tickWtn.toNat ∧
     (∀ b, b < a ∨ a + 64 ≤ b → t.byte b = s.byte b) ∧
     t.carrel c =
       { k.abandon with
         level := h, dbank := h, rep := none
         sealNext := nextSeal k.sealNext, seals := { tag := k.sealNext, shadow := false, hlvl := h } :: k.seals
         xspSTop := if h = 1 then k.xspSTop - 1 else k.xspSTop
         xspMTop := if h = 1 then k.xspMTop else k.xspMTop - 1
         pc := if h = 1 then vecAddr k.xvecS else vecAddr k.xvecM } ∧
     t = { s with mem := t.mem, carrels := t.carrels, fresh := if x.faddr = none then s.fresh + 1 else s.fresh } ∧
     ∀ d, d ≠ c → t.carrel d = s.carrel d) ∧
  (∀ (c : BitVec 12) (s : State) (x : Exc), (s.carrel c).rescue = true →
     (s.fault c x).carrel c = { (s.carrel c).abandon with halted := true } ∧
     s.fault c x = { s with carrels := (s.fault c x).carrels, halts := s.halts ++ [c] } ∧
     ∀ d, d ≠ c → (s.fault c x).carrel d = s.carrel d) ∧
  (∀ (c : BitVec 12) (s : State) (x : Exc), (s.carrel c).rescue = false →
     causeStep x.code ≤ ((s.carrel c).mask (s.carrel c).level).toNat →
     let k := s.carrel c
     let t := s.fault c x
     (causeLevel x.code k.level = 1 → k.seals.length < 4 → k.xspValid 2 = true →
       let a := shelfBase c.toNat + 64 * (k.xspMTop.toNat - 1)
       t.le (a + 16) 8 = 0x0C + 256 * x.code.toNat ∧ t.le (a + 40) 8 = x.detail.toNat ∧
       (t.carrel c).level = 2 ∧ (t.carrel c).pc = vecAddr k.xvecM ∧ (t.carrel c).rescue = false) ∧
     (causeLevel x.code k.level = 2 →
       let a := shelfBase c.toNat + 196096
       t.le (a + 16) 8 = 0x0C + 256 * x.code.toNat ∧ t.le (a + 40) 8 = x.detail.toNat ∧
       (t.carrel c).level = 2 ∧ (t.carrel c).pc = vecAddr k.rescueVec ∧ (t.carrel c).rescue = true ∧
       (t.carrel c).bankR = Bank.rescue ∧ (t.carrel c).rescueSeal = k.sealNext ∧ (t.carrel c).seals = k.seals))

/-- The shelf-local loads LD8.L to LD64.L: the zero-extended little-endian value at offset a + offset × size of the
carrel's own shelf. The shelf-local stores ST8.L to ST64.L store the low bytes of the entry below the address,
little-endian, and no other byte. A shelf access that touches a byte the level may not touch takes a SEG fault
instead, with no missing right and the shelf-check bit set. The model's choices: the sum of an offset wraps, and the
lowest case that an access meets is the one named (log entries 64, 68). -/
def Obligations.ShelfAccess : Prop :=
  (let load (mk : BitVec 12 → BitVec 9 → Instr) (n : Nat) : Prop :=
     ∀ off : BitVec 9,
       let o (c : BitVec 12) (s : State) : Nat := (s.peekD c 0 + BitVec.ofNat 64 (off.toNat * n)).toNat
       RunsIf (fun c s => o c s + n ≤ (s.carrel c).shelfEnd) (mk · off) 2 { dPop := 1, dPush := 1 }
         (fun c s => (s.carrel c).after 2) (fun c s => [word (s.le (shelfBase c.toNat + o c s) n)]) (fun _ _ => [])
   load .ld8L 1 ∧ load .ld16L 2 ∧ load .ld32L 4 ∧ load .ld64L 8) ∧
  (let store (mk : BitVec 12 → BitVec 9 → Instr) (n : Nat) : Prop :=
     ∀ (off : BitVec 9) (c : BitVec 12) (s : State), Ready s c 2 → Fits s c { dPop := 2 } →
       let o := (s.peekD c 0 + BitVec.ofNat 64 (off.toNat * n)).toNat
       o + n ≤ (s.carrel c).shelfEnd →
       ∃ t, Sys2Proof.Machine.exec (mk c off) s = .next t ∧
         StoresTo c ((s.carrel c).after 2) 2 [] (shelfBase c.toNat + o) n (s.peekD c 1).toNat s t
   store .st8L 1 ∧ store .st16L 2 ∧ store .st32L 4 ∧ store .st64L 8) ∧
  (let faults (mk : BitVec 12 → BitVec 9 → Instr) (n pop push : Nat) : Prop :=
     ∀ (off : BitVec 9) (c : BitVec 12) (s : State), Ready s c 2 → Fits s c { dPop := pop, dPush := push } →
       (s.carrel c).shelfEnd < (s.peekD c 0 + BitVec.ofNat 64 (off.toNat * n)).toNat + n →
       ∃ (case_ : Nat) (fa : Word), 1 ≤ case_ ∧ case_ ≤ 3 ∧
         Sys2Proof.Machine.exec (mk c off) s =
           .next (s.fault c { code := 0x04, detail := BitVec.ofNat 64 (1 + 0x100 + case_ * 0x200), faddr := some fa })
   faults .ld8L 1 1 1 ∧ faults .ld16L 2 1 1 ∧ faults .ld32L 4 1 1 ∧ faults .ld64L 8 1 1 ∧
   faults .st8L 1 2 0 ∧ faults .st16L 2 2 0 ∧ faults .st32L 4 2 0 ∧ faults .st64L 8 2 0)

/-- The translated loads LD8 to LD64 and LD8S to LD32S, where every half of the access finds its bytes at once (in
the carrel's own memory, or in its D-cache): the value, zero- or sign-extended. The translated stores ST8 to ST64 to
the carrel's own shelf or ledger, in one half: the bytes are written at once. A store to HBM of this module with an
empty merging buffer enters the buffer as one merging entry and updates the D-cache line it hits; memory changes
only when the entry's write is acknowledged. -/
def Obligations.TranslatedAccess : Prop :=
  (let load (mk : BitVec 12 → BitVec 22 → Instr) (n : Nat) (signed : Bool) : Prop :=
     ∀ off : BitVec 22,
       let acc (c : BitVec 12) (s : State) : Accesses :=
         let va := s.peekD c 0 + BitVec.ofInt 64 off.toInt
         s.accesses c 1 va 1 true (halvesOf va n)
       RunsIf
         (fun c s => acc c s = .ok (acc c s).parts ∧ ∀ h ∈ (acc c s).parts,
           s.ownMem c h.2.2.2.1 = true ∨
           (isHbm h.2.2.2.1 = true ∧ ((s.carrel c).dLine h.2.2.2.1).isSome = true ∧ (s.carrel c).dcInit = false))
         (mk · off) 4 { dPop := 1, dPush := 1 } (fun c s => (s.carrel c).after 4)
         (fun c s => [loadValue signed
           ((acc c s).parts.flatMap fun (_, m, _, pa, _) => s.foundBytes c pa m)]) (fun _ _ => [])
   load .ld8 1 false ∧ load .ld16 2 false ∧ load .ld32 4 false ∧ load .ld64 8 false ∧
   load .ld8s 1 true ∧ load .ld16s 2 true ∧ load .ld32s 4 true) ∧
  (let store (mk : BitVec 12 → BitVec 22 → Instr) (n : Nat) : Prop :=
     ∀ (off : BitVec 22) (c : BitVec 12) (s : State) (pa : Nat) (part : BitVec 6), Ready s c 4 →
       Fits s c { dPop := 2 } →
       let va := s.peekD c 0 + BitVec.ofInt 64 off.toInt
       va.toNat % 64 + n ≤ 64 → s.access c 1 va n 2 = .ok pa part → s.ownMem c pa = true → (s.carrel c).mb = [] →
       ∃ t, Sys2Proof.Machine.exec (mk c off) s = .next t ∧
         StoresTo c ((s.carrel c).after 4) 2 [] (localOf pa) n (s.peekD c 1).toNat s t
   store .st8 1 ∧ store .st16 2 ∧ store .st32 4 ∧ store .st64 8) ∧
  (let store (mk : BitVec 12 → BitVec 22 → Instr) (n : Nat) : Prop :=
     ∀ off : BitVec 22,
       let va (c : BitVec 12) (s : State) : Word := s.peekD c 0 + BitVec.ofInt 64 off.toInt
       let at_ (c : BitVec 12) (s : State) : Nat × BitVec 6 :=
         match s.access c 1 (va c s) n 2 with
         | .ok pa part => (pa, part)
         | _ => (0, 0)
       let data (c : BitVec 12) (s : State) : List Byte := natToBytes n (s.peekD c 1).toNat
       RunsIf
         (fun c s => (va c s).toNat % 64 + n ≤ 64 ∧ (∃ pa part, s.access c 1 (va c s) n 2 = .ok pa part) ∧
           isHbm (at_ c s).1 = true ∧ s.isLocal (at_ c s).1 = true ∧ (s.carrel c).mb = [] ∧
           (s.carrel c).dcInit = false)
         (mk · off) 4 { dPop := 2 }
         (fun c s =>
           { ((s.carrel c).dUpdate (at_ c s).1 (data c s)).after 4 with
             mb := [{ block := (at_ c s).1 / 64
                      bytes := Tab.setAll none [] ((data c s).mapIdx fun i b => ((at_ c s).1 % 64 + i, some b))
                      mergeable := true, issued := false, part := (at_ c s).2, retried := false, acked := false }] })
         (fun _ _ => []) (fun _ _ => [])
   store .st8 1 ∧ store .st16 2 ∧ store .st32 4 ∧ store .st64 8)

/-- The atomics on the carrel's own shelf, with an empty merging buffer: the old value is left, zero-extended, and
the new value stored, on 32 or 64 bits. An atomic whose address is not a multiple of its width takes an ALIGN fault
and does nothing else. -/
def Obligations.AtomicsOnTheShelf : Prop :=
  (let signed (n x : Nat) : Int := if x < 2 ^ (8 * n - 1) then (x : Int) else (x : Int) - 2 ^ (8 * n)
   let atomic (mk : BitVec 12 → Bool → BitVec 20 → Instr) (pop : Nat) (f : Nat → Nat → Nat → Nat → Nat) : Prop :=
     ∀ (w : Bool) (off : BitVec 20) (c : BitVec 12) (s : State) (pa : Nat) (part : BitVec 6), Ready s c 4 →
       Fits s c { dPop := pop, dPush := 1 } →
       let n := if w then 8 else 4
       let va := s.peekD c 0 + BitVec.ofInt 64 off.toInt
       let old := s.le (localOf pa) n
       let x := (s.peekD c 1).toNat % 256 ^ n
       let e := (s.peekD c 2).toNat % 256 ^ n
       va.toNat % n = 0 → s.access c 1 va n 11 = .ok pa part → s.ownMem c pa = true →
       (∃ d o, regionOf (localOf pa) = .shelf d o) → (s.carrel c).mb = [] →
       ∃ t, Sys2Proof.Machine.exec (mk c w off) s = .next t ∧
         StoresTo c (((s.carrel c).dInvalidate pa).after 4) pop [word old] (localOf pa) n (f n old x e) s t
   atomic .aadd 2 (fun n o x _ => (o + x) % 256 ^ n) ∧
   atomic .amin 2 (fun n o x _ => if signed n x < signed n o then x else o) ∧
   atomic .amax 2 (fun n o x _ => if signed n o < signed n x then x else o) ∧
   atomic .aand 2 (fun _ o x _ => o &&& x) ∧ atomic .aor 2 (fun _ o x _ => o ||| x) ∧
   atomic .axor 2 (fun _ o x _ => o ^^^ x) ∧ atomic .aswap 2 (fun _ _ x _ => x) ∧
   atomic .acas 3 (fun _ o x e => if o = e then x else o)) ∧
  (let faults (mk : BitVec 12 → Bool → BitVec 20 → Instr) (pop : Nat) : Prop :=
     ∀ (w : Bool) (off : BitVec 20) (c : BitVec 12) (s : State), Ready s c 4 →
       Fits s c { dPop := pop, dPush := 1 } →
       let va := s.peekD c 0 + BitVec.ofInt 64 off.toInt
       va.toNat % (if w then 8 else 4) ≠ 0 →
       Sys2Proof.Machine.exec (mk c w off) s =
         .next (s.fault c { code := 0x05, detail := if w then 1 else 0, faddr := some va })
   faults .aadd 2 ∧ faults .amin 2 ∧ faults .amax 2 ∧ faults .aand 2 ∧ faults .aor 2 ∧ faults .axor 2 ∧
   faults .aswap 2 ∧ faults .acas 3)

/-! ## Short and long vectors -/

/-- The lane-wise and bitwise short-vector instructions on pairs. The short-vector shifts (by n modulo the lane
width, integer types only), the horizontal sum and the broadcast; a shift with a floating type raises ILLEGAL. -/
def Obligations.ShortVectors : Prop :=
  (let q (e : Nat → Word) (i : Nat) : Nat := (e (2 * i + 1)).toNat + 2 ^ 64 * (e (2 * i)).toNat
   let out (r : Nat × Option NanCause) : List Word × Option NanCause :=
     ([word (r.1 / 2 ^ 64), word (r.1 % 2 ^ 64)], r.2)
   ∀ t : BitVec 3,
     let el := elemOf t.toNat
     let two (f : Nat → Nat → FRes) (e : Nat → Word) : List Word × Option NanCause :=
       out (laneWise el (fun l => f (arg l 0) (arg l 1)) [q e 1, q e 0])
     FloatForm (.pAdd · t) 4 2 (two el.add) ∧ FloatForm (.pSub · t) 4 2 (two el.sub) ∧
     FloatForm (.pMul · t) 4 2 (two el.mul) ∧ FloatForm (.pMin · t) 4 2 (two el.min) ∧
     FloatForm (.pMax · t) 4 2 (two el.max) ∧
     FloatForm (.pFma · t) 6 2
       (fun e => out (laneWise el (fun l => el.fma (arg l 0) (arg l 1) (arg l 2)) [q e 2, q e 1, q e 0])) ∧
     FloatForm (.pCmpeq · t) 4 2 (two fun x y => (if el.eq x y then 2 ^ el.width - 1 else 0, none)) ∧
     FloatForm (.pCmplt · t) 4 2 (two fun x y => (if el.lt x y then 2 ^ el.width - 1 else 0, none)) ∧
     DataForm (.pAnd · t) 2 0 4 2 (fun e => [e 2 &&& e 0, e 3 &&& e 1]) ∧
     DataForm (.pOr · t) 2 0 4 2 (fun e => [e 2 ||| e 0, e 3 ||| e 1]) ∧
     DataForm (.pXor · t) 2 0 4 2 (fun e => [e 2 ^^^ e 0, e 3 ^^^ e 1]) ∧
     DataForm (.pSel · t) 2 0 6 2 (fun e => [(e 2 &&& e 0) ||| (e 4 &&& ~~~ (e 0)), (e 3 &&& e 1) ||| (e 5 &&& ~~~ (e 1))])) ∧
  (let pair (hi lo : Word) : Nat := lo.toNat + 2 ^ 64 * hi.toNat
   let lane (w x i : Nat) : Nat := x / 2 ^ (w * i) % 2 ^ w
   let whole (x : Nat) : List Word := [word (x / 2 ^ 64), word (x % 2 ^ 64)]
   (∀ (t : BitVec 3) (w : Nat), elemOf t.toNat = .int w →
     DataForm (.pShl · t) 2 0 3 2 (fun e =>
       whole (fromLanes w ((upto (128 / w)).map fun i => lane w (pair (e 1) (e 2)) i * 2 ^ ((e 0).toNat % w) % 2 ^ w))) ∧
     DataForm (.pShr · t) 2 0 3 2 (fun e =>
       whole (fromLanes w ((upto (128 / w)).map fun i => lane w (pair (e 1) (e 2)) i / 2 ^ ((e 0).toNat % w)))) ∧
     DataForm (.pSar · t) 2 0 3 2 (fun e =>
       whole (fromLanes w ((upto (128 / w)).map fun i =>
         ((BitVec.ofNat w (lane w (pair (e 1) (e 2)) i)).sshiftRight ((e 0).toNat % w)).toNat))) ∧
     DataForm (.pHsum · t) 2 0 2 1 (fun e =>
       [BitVec.ofInt 64 (((upto (128 / w)).map fun i => (BitVec.ofNat w (lane w (pair (e 0) (e 1)) i)).toInt).sum)])) ∧
   (∀ (t : BitVec 3) (f : Fmt), elemOf t.toNat = .fp f →
     FloatForm (.pHsum · t) 2 1 (fun e =>
       let r := pairTree f.addOp 3 ((upto (128 / f.width)).map fun i => lane f.width (pair (e 0) (e 1)) i)
       ([word r.1], r.2)) ∧
     ∀ (c : BitVec 12) (s : State), Ready s c 2 → (s.carrel c).rep = none →
       Sys2Proof.Machine.exec (.pShl c t) s = .next (s.fault c { code := 0x01, detail := BitVec.ofNat 64 (0x32 + 256 * t.toNat) }) ∧
       Sys2Proof.Machine.exec (.pShr c t) s = .next (s.fault c { code := 0x01, detail := BitVec.ofNat 64 (0x36 + 256 * t.toNat) }) ∧
       Sys2Proof.Machine.exec (.pSar c t) s = .next (s.fault c { code := 0x01, detail := BitVec.ofNat 64 (0x3A + 256 * t.toNat) })) ∧
   ∀ t : BitVec 3, DataForm (.pBcast · t) 2 0 1 2 (fun e =>
     whole (fromLanes (elemOf t.toNat).width
       (List.replicate (128 / (elemOf t.toNat).width) ((e 0).toNat % 2 ^ (elemOf t.toNat).width)))))

/-- What a load makes of its bytes: the little-endian number, or its two's-complement reading. Lane i of a lane-wise
result is the operation on lane i of the operands; the integer operations wrap. Reading an element of an entry built
from a list of elements. -/
def Obligations.LanesAndElements : Prop :=
  (∀ b : List Byte, b.length ≤ 8 →
     (loadValue false b).toNat = bytesToNat b ∧
     (0 < b.length → (loadValue true b).toInt =
       if bytesToNat b < 2 ^ (8 * b.length - 1) then (bytesToNat b : Int)
       else (bytesToNat b : Int) - 2 ^ (8 * b.length))) ∧
  ((∀ (el : Elem) (f : List Nat → FRes) (ps : List Nat) (i : Nat), 0 < el.width → (∀ l, (f l).1 < 2 ^ el.width) →
     i < 128 / el.width →
     (laneWise el f ps).1 / 2 ^ (el.width * i) % 2 ^ el.width =
       (f (ps.map fun p => p / 2 ^ (el.width * i) % 2 ^ el.width)).1) ∧
   ∀ w x y z : Nat, x < 2 ^ w → y < 2 ^ w →
     (Elem.int w).add x y = ((x + y) % 2 ^ w, none) ∧ (Elem.int w).sub x y = ((2 ^ w + x - y) % 2 ^ w, none) ∧
     (Elem.int w).mul x y = (x * y % 2 ^ w, none) ∧ (Elem.int w).fma x y z = ((x * y + z) % 2 ^ w, none) ∧
     (Elem.int w).eq x y = decide (x = y) ∧
     (Elem.int w).lt x y = decide ((BitVec.ofNat w x).toInt < (BitVec.ofNat w y).toInt) ∧
     ((Elem.int w).min x y).1 = (if (BitVec.ofNat w y).toInt < (BitVec.ofNat w x).toInt then y else x) ∧
     ((Elem.int w).max x y).1 = (if (BitVec.ofNat w x).toInt < (BitVec.ofNat w y).toInt then y else x)) ∧
  (∀ (w : Nat) (l : List Nat) (i : Nat), 0 < w → w * l.length ≤ 8192 → w * (i + 1) ≤ 8192 → (∀ x ∈ l, x < 2 ^ w) →
     velem w (ventry w l) i = l.getD i 0)

/-- VSETL, VGETL and the stack operations of the vector stack. The element-wise arithmetic: each active element that
the mask selects holds the operation on the operands' elements in the form's type, the others keep the first
operand's, and elements past the active count are 0. The vector shifts, compares, selection, broadcast, index
vector, element access, conversion and mask count. -/
def Obligations.VectorArithmetic : Prop :=
  (VecForm .vsetl 0x00 { dPop := 1, dPush := 1 } (fun a _ _ _ e =>
     let n := min (e 0).toNat (8192 / (elemOf a.type.toNat).width)
     { d := [BitVec.ofNat 64 n], vl := some (BitVec.ofNat 11 n) }) ∧
   VecForm .vgetl 0x01 { dPush := 1 } (fun _ k _ _ _ => { d := [BitVec.ofNat 64 k.vl.toNat] }) ∧
   VecForm .vdup 0x02 { vPop := 1, vPush := 2 } (fun _ _ _ v _ => { v := [v 0, v 0] }) ∧
   VecForm .vdrop 0x03 { vPop := 1 } (fun _ _ _ _ _ => {}) ∧
   VecForm .vswap 0x04 { vPop := 2, vPush := 2 } (fun _ _ _ v _ => { v := [v 1, v 0] }) ∧
   VecForm .vover 0x05 { vPop := 2, vPush := 3 } (fun _ _ _ v _ => { v := [v 1, v 0, v 1] }) ∧
   VecForm .vrot 0x06 { vPop := 3, vPush := 3 } (fun _ _ _ v _ => { v := [v 2, v 0, v 1] })) ∧
  (let n (a : VArith) (k : Carrel) : Nat := min k.vl.toNat (8192 / (elemOf a.type.toNat).width)
   let x (a : VArith) (v : BitVec 8192) (i : Nat) : Nat := velem (elemOf a.type.toNat).width v i
   let two (g : Elem → Nat → Nat → FRes) (a : VArith) (k : Carrel) (m : BitVec 8192) (v : Nat → BitVec 8192)
       (_ : Nat → Word) : VecOut :=
     lanewise (elemOf a.type.toNat).width (n a k) m (fun i => g (elemOf a.type.toNat) (x a (v 1) i) (x a (v 0) i))
       (x a (v 1))
   let one (g : Elem → Nat → FRes) (a : VArith) (k : Carrel) (m : BitVec 8192) (v : Nat → BitVec 8192)
       (_ : Nat → Word) : VecOut :=
     lanewise (elemOf a.type.toNat).width (n a k) m (fun i => g (elemOf a.type.toNat) (x a (v 0) i)) (x a (v 0))
   let bits (g : Nat → Nat → Nat) := two fun _ p q => (g p q, none)
   let u2 : StackUse := { vPop := 2, vPush := 1 }
   let u1 : StackUse := { vPop := 1, vPush := 1 }
   VecForm .vadd 0x08 u2 (two Elem.add) ∧ VecForm .vsub 0x09 u2 (two Elem.sub) ∧ VecForm .vmul 0x0A u2 (two Elem.mul) ∧
   VecForm .vfma 0x0B { vPop := 3, vPush := 1 } (fun a k m v _ =>
     lanewise (elemOf a.type.toNat).width (n a k) m
       (fun i => (elemOf a.type.toNat).fma (x a (v 2) i) (x a (v 1) i) (x a (v 0) i)) (x a (v 2))) ∧
   VecForm .vmin 0x0C u2 (two Elem.min) ∧ VecForm .vmax 0x0D u2 (two Elem.max) ∧
   VecForm .vdiv 0x0E u2 (two fun el p q => match el with | .fp f => f.divOp p q | .int _ => (0, none)) ∧
   VecForm .vsqrt 0x0F u1 (one fun el p => match el with | .fp f => f.sqrtOp p | .int _ => (0, none)) ∧
   VecForm .vneg 0x10 u1 (one fun el p => match el with
     | .int w => ((2 ^ w - p) % 2 ^ w, none) | .fp f => (p ^^^ 2 ^ (f.width - 1), none)) ∧
   VecForm .vabs 0x11 u1 (one fun el p => match el with
     | .int w => ((BitVec.ofNat w p).toInt.natAbs % 2 ^ w, none) | .fp f => (p % 2 ^ (f.width - 1), none)) ∧
   VecForm .vand 0x12 u2 (bits (· &&& ·)) ∧ VecForm .vor 0x13 u2 (bits (· ||| ·)) ∧
   VecForm .vxor 0x14 u2 (bits (· ^^^ ·))) ∧
  (let wd (a : VArith) : Nat := (elemOf a.type.toNat).width
   let n (a : VArith) (k : Carrel) : Nat := min k.vl.toNat (8192 / wd a)
   let x (a : VArith) (v : BitVec 8192) (i : Nat) : Nat := velem (wd a) v i
   let shift (g : Nat → Nat → Nat → Nat) (a : VArith) (k : Carrel) (m : BitVec 8192) (v : Nat → BitVec 8192)
       (e : Nat → Word) : VecOut :=
     lanewise (wd a) (n a k) m (fun i => (g (wd a) (x a (v 0) i) ((e 0).toNat % wd a), none)) (x a (v 0))
   let test (g : Elem → Nat → Nat → Bool) (a : VArith) (k : Carrel) (m : BitVec 8192) (v : Nat → BitVec 8192)
       (_ : Nat → Word) : VecOut :=
     { v := [ventry 1 ((upto (n a k)).map fun i =>
         if m.getLsbD i && g (elemOf a.type.toNat) (x a (v 1) i) (x a (v 0) i) then 1 else 0)] }
   let us : StackUse := { dPop := 1, vPop := 1, vPush := 1 }
   let u2 : StackUse := { vPop := 2, vPush := 1 }
   VecForm .vshl 0x15 us (shift fun w p c => p * 2 ^ c % 2 ^ w) ∧
   VecForm .vshr 0x16 us (shift fun _ p c => p / 2 ^ c) ∧
   VecForm .vsar 0x17 us (shift fun w p c => ((BitVec.ofNat w p).sshiftRight c).toNat) ∧
   VecForm .vcmpeq 0x18 u2 (test Elem.eq) ∧ VecForm .vcmplt 0x19 u2 (test Elem.lt) ∧
   VecForm .vcmple 0x1A u2 (test Elem.le) ∧
   VecForm .vsel 0x1B { vPop := 3, vPush := 1 } (fun a k _ v _ =>
     { v := [ventry (wd a) ((upto (n a k)).map fun i =>
         if (v 0).getLsbD i then x a (v 1) i else x a (v 2) i)] }) ∧
   VecForm .vbcast 0x1C { dPop := 1, vPush := 1 } (fun a k m _ e =>
     { v := [ventry (wd a) ((upto (n a k)).map fun i => if m.getLsbD i then (e 0).toNat % 2 ^ wd a else 0)] }) ∧
   VecForm .viota 0x1D { vPush := 1 } (fun a k m _ _ =>
     { v := [ventry (wd a) ((upto (n a k)).map fun i => if m.getLsbD i then i % 2 ^ wd a else 0)] }) ∧
   VecForm .vext 0x1E { dPop := 1, dPush := 1, vPop := 1, vPush := 1 } (fun a _ _ v e =>
     let y := x a (v 0) ((e 0).toNat % (8192 / wd a))
     { d := [match elemOf a.type.toNat with
         | .int w => BitVec.ofInt 64 (BitVec.ofNat w y).toInt | .fp _ => BitVec.ofNat 64 y]
       v := [v 0] }) ∧
   VecForm .vins 0x1F { dPop := 2, vPop := 1, vPush := 1 } (fun a _ _ v e =>
     { v := [ventry (wd a) ((upto (8192 / wd a)).map fun i =>
         if i = (e 0).toNat % (8192 / wd a) then (e 1).toNat % 2 ^ wd a else x a (v 0) i)] }) ∧
   VecForm .vcvt 0x20 { vPop := 1, vPush := 1 } (fun a k m v _ =>
     let dst := elemOf a.dtype.toNat
     lanewise dst.width (min (n a k) (8192 / dst.width)) m
       (fun i => dst.conv a.sat ((elemOf a.type.toNat).num (x a (v 0) i)).toVal) (fun _ => 0)) ∧
   VecForm .vmcnt 0x24 { dPush := 1, vPop := 1, vPush := 1 } (fun _ k _ v _ =>
     { d := [BitVec.ofNat 64 ((List.range k.vl.toNat).countP fun i => (v 0).getLsbD i)], v := [v 0] }))

/-- The reductions VREDADD, VREDMIN and VREDMAX by the fixed tree over the active elements that the mask selects. An
integer VREDADD is the exact sum of the active elements modulo 2^64, whatever the tree's order. -/
def Obligations.VectorReductions : Prop :=
  (let wd (a : VArith) : Nat := (elemOf a.type.toNat).width
   let n (a : VArith) (k : Carrel) : Nat := min k.vl.toNat (8192 / wd a)
   let red (prep : Elem → Nat → Nat) (g : Elem → Nat → Nat → FRes) (empty : Elem → Nat) (a : VArith) (k : Carrel)
       (m : BitVec 8192) (v : Nat → BitVec 8192) (_ : Nat → Word) : VecOut :=
     let el := elemOf a.type.toNat
     let r := nodeTree (g el) (ceilLog2 (n a k)) ((upto (2 ^ ceilLog2 (n a k))).map fun i =>
       if i < n a k ∧ m.getLsbD i then some (prep el (velem (wd a) (v 0) i), i) else none)
     { d := [BitVec.ofNat 64 ((r.1.map (·.1)).getD (empty el))], nan := r.2 }
   let prep (el : Elem) (y : Nat) : Nat := match el with
     | .int w => (BitVec.ofInt 64 (BitVec.ofNat w y).toInt).toNat | .fp _ => y
   let wide (el : Elem) : Elem := match el with | .int _ => .int 64 | .fp f => .fp f
   let u : StackUse := { dPush := 1, vPop := 1 }
   VecForm .vredAdd 0x21 u (red prep (fun el => (wide el).add) (fun _ => 0)) ∧
   VecForm .vredMin 0x22 u (red prep (fun el => (wide el).min)
     (fun el => match el with | .int w => 2 ^ (w - 1) - 1 | .fp f => f.infCode)) ∧
   VecForm .vredMax 0x23 u (red prep (fun el => (wide el).max)
     (fun el => match el with | .int w => 2 ^ 64 - 2 ^ (w - 1) | .fp f => f.signBit true + f.infCode))) ∧
  (∀ (w k : Nat) (l : List (Option Nat)), l.length = 2 ^ k →
     let prep (y : Nat) : Nat := (BitVec.ofInt 64 (BitVec.ofNat w y).toInt).toNat
     let r := nodeTree (Elem.int 64).add k (l.mapIdx fun i y => y.map fun z => (prep z, i))
     r.2 = none ∧
     BitVec.ofNat 64 ((r.1.map (·.1)).getD 0) =
       BitVec.ofInt 64 ((l.filterMap id).map fun z => (BitVec.ofNat w z).toInt).sum)

/-- The vector loads VLD, VLDS, VGTH and VLD2 to VLD4 from the carrel's own shelf and ledger: field f of record i
goes to element i of result entry f, records that are not active read 0, memory and the other registers stay; VLDS
with stride 0 reads one element and gives it to every active one. The vector stores VST, VSTS, VSCT and VST2 to VST4
to the carrel's own shelf and ledger: the bytes of the active records are written in element order, where no word is
lost in part, and no other byte; the operands leave the stacks. VSCTA with an integer add type on the carrel's own
shelf: each active element is added to its location in element order, modulo the width. -/
def Obligations.VectorMemory : Prop :=
  (let post (op : Nat) (a : VMem) (c : BitVec 12) (s t : State) : Prop :=
     let w := 2 ^ a.ew.toNat
     let nf := vmFields op
     let n := (s.carrel c).vmActive op a
     let bytesOf (i : Nat) : List Byte :=
       if s.vmOne c op = true ∧ i ∉ (s.vmRecords c op a).map (·.1) then []
       else ((s.vmAccs c op a).filter fun x => s.vmOne c op || decide (x.elem = i)).flatMap fun x =>
         s.bytes (localOf x.pa) x.n
     Moves c
       ({ s.carrel c with
         vstack := ((upto nf).map fun f => ventry (8 * w) ((upto n).map fun i => leAt (bytesOf i) (f * w) w)).reverse ++
           (s.carrel c).vstack.drop (vmUse op a).vPop }.after 4) (vmUse op a).dPop [] 0 [] s t
   VecMemForm .vld 0x00 (post 0x00) ∧ VecMemForm .vlds 0x02 (post 0x02) ∧ VecMemForm .vgth 0x04 (post 0x04) ∧
   VecMemForm .vld2 0x07 (post 0x07) ∧ VecMemForm .vld3 0x08 (post 0x08) ∧ VecMemForm .vld4 0x09 (post 0x09)) ∧
  (let post (op : Nat) (a : VMem) (c : BitVec 12) (s t : State) : Prop :=
     let written (b : Nat) : Prop := ∃ x ∈ s.vmAccs c op a, localOf x.pa ≤ b ∧ b < localOf x.pa + x.bytes.length
     let hit (i : Nat) : Prop := ∃ b, written b ∧ shelfBase c.toNat + 8 * i ≤ b ∧ b < shelfBase c.toNat + 8 * i + 8
     DataStack c (vmUse op a).dPop [] hit s t ∧ RetStack c 0 [] hit s t ∧
     t = { s with mem := t.mem, carrels := t.carrels, lost := t.lost } ∧ (∀ x ∈ t.lost, x ∈ s.lost) ∧
     (∀ d, d ≠ c → t.carrel d = s.carrel d) ∧
     CarrelIs c ({ s.carrel c with vstack := (s.carrel c).vstack.drop (vmUse op a).vPop }.after 4) t ∧
     BanksKept c true false s t ∧
     ((∀ x ∈ s.vmAccs c op a, s.lostPart (localOf x.pa) x.n = false) →
       ∀ b, t.byte b = ((s.vmAccs c op a).foldl (fun u x => u.setBytes (localOf x.pa) x.bytes) s).byte b) ∧
     ∀ b, ¬ written b → t.byte b = s.byte b
   VecMemForm .vst 0x01 (post 0x01) ∧ VecMemForm .vsts 0x03 (post 0x03) ∧ VecMemForm .vsct 0x05 (post 0x05) ∧
   VecMemForm .vst2 0x0A (post 0x0A) ∧ VecMemForm .vst3 0x0B (post 0x0B) ∧ VecMemForm .vst4 0x0C (post 0x0C)) ∧
  (∀ (a : VMem) (c : BitVec 12) (s : State), vMemLegal 0x06 a = true → a.at_.toNat ≤ 1 → Ready s c 4 →
     Fits s c (vmUse 0x06 a) → s.vmChecks c 0x06 a (s.vmRecords c 0x06 a) = .ok →
     (∀ x ∈ s.vmAccs c 0x06 a, s.ownMem c x.pa = true) →
     let n := if a.at_ = 0 then 4 else 8
     ∃ t, Sys2Proof.Machine.exec (.vscta c a) s = .next t ∧ OnlyCarrel c s t ∧
       CarrelIs c ({ s.carrel c with vstack := (s.carrel c).vstack.drop (vmUse 0x06 a).vPop }.after 4) t ∧
       ((∀ x ∈ s.vmAccs c 0x06 a, s.lostIn (localOf x.pa) x.n = false) → ∀ b, t.byte b =
         ((s.vmAccs c 0x06 a).foldl (fun u x =>
           u.setLe (localOf x.pa) x.n ((u.le (localOf x.pa) x.n + bytesToNat x.bytes) % 256 ^ n)) s).byte b))

/-! ## Descriptors, levels and exceptions -/

/-- The issue forms MLD, MSTR, MRD, MCLR, EDQ, RWQ and DMQ: the next n + 1 descriptors of the phase's list enter the
engine's queue, the parameter word with the first; where the queue of 16 has no room for all, the carrel waits with
the rest, its operand still on the stack; a form that goes past the end of the list takes PLAN-ORDER with nothing
issued. MWAIT and the QWAIT forms take k and go on when at most k descriptors of their engine are unfinished, and
wait with k in place otherwise; MRD.F goes on when no array descriptor is unfinished, leaving tile-flags word t mod
64. The model's choice: what fits in the queue issues at once (log entry 70). -/
def Obligations.DescriptorIssue : Prop :=
  (let issue (mk : BitVec 12 → BitVec 4 → Bool → Instr) (q : Nat) : Prop :=
     ∀ (n : BitVec 4) (p : Bool),
       let eng : Nat := if q < 4 then 0 else q
       let word? (c : BitVec 12) (s : State) : Option Word := if p then some (s.peekD c 0) else none
       let room (c : BitVec 12) (s : State) : Nat := 16 - (Tab.get [] (s.carrel c).queue eng).length
       let pops : StackUse := { dPop := if p then 1 else 0 }
       let issued (c : BitVec 12) (s : State) (m : Nat) : Carrel :=
         let k := s.carrel c
         let i := Tab.get 0 k.next q
         { k with
           next := Tab.set 0 k.next q (i + m)
           queue := Tab.set [] k.queue eng (Tab.get [] k.queue eng ++ (upto m).map fun j =>
             { queue := q, idx := i + j, desc := (s.phaseList c q).getD (i + j) []
               param := if j = 0 then word? c s else none, started := false }) }
       RunsIf (fun c s => s.issueCheck c q (n.toNat + 1) (word? c s) = none ∧ n.toNat + 1 ≤ room c s)
         (mk · n p) 4 pops (fun c s => (issued c s (n.toNat + 1)).after 4)
         (fun _ _ => []) (fun _ _ => []) ∧
       RunsFree (fun c s =>
           Fits s c pops ∧ s.issueCheck c q (n.toNat + 1) (word? c s) = none ∧ room c s < n.toNat + 1)
         (mk · n p) 4
         (fun c s => { (if room c s = 0 then s.carrel c else issued c s (room c s)) with
           wait := .issue q (n.toNat + 1 - room c s) (b2n p) (if room c s = 0 then word? c s else none) }) ∧
       ∀ (c : BitVec 12) (s : State), Ready s c 4 → Fits s c pops →
         (s.phaseList c q).length < Tab.get 0 (s.carrel c).next q + n.toNat + 1 →
         Sys2Proof.Machine.exec (mk c n p) s = .next (s.fault c { code := 0x07, detail := 1 })
   issue .mld 0 ∧ issue .mstr 1 ∧ issue .mrd 2 ∧ issue .mclr 3 ∧ issue .edq 4 ∧ issue .rwq 5 ∧
   ∀ ch : BitVec 3, issue (.dmq · ch) (6 + ch.toNat)) ∧
  (let waits (mk : BitVec 12 → Instr) (eng : Nat) : Prop :=
     let open_ (c : BitVec 12) (s : State) : Nat := (Tab.get [] (s.carrel c).queue eng).length
     RunsIf (fun c s => open_ c s ≤ (s.peekD c 0).toNat) mk 4 { dPop := 1 } (fun c s => (s.carrel c).after 4)
       (fun _ _ => []) (fun _ _ => []) ∧
     RunsFree (fun c s => Fits s c { dPop := 1 } ∧ (s.peekD c 0).toNat < open_ c s) mk 4
       (fun c s => { s.carrel c with wait := .qwait eng (s.peekD c 0) })
   waits .mwait 0 ∧ waits .qwaitE 4 ∧ waits .qwaitR 5 ∧ (∀ ch : BitVec 3, waits (.qwaitD · ch) (6 + ch.toNat)) ∧
   RunsIf (fun c s => Tab.get [] (s.carrel c).queue 0 = []) .mrdF 4 { dPop := 1, dPush := 1 }
     (fun c s => (s.carrel c).after 4)
     (fun c s => [Tab.get 0 (s.carrel c).tiles ((s.peekD c 0).toNat % 64)]) (fun _ _ => []) ∧
   RunsFree (fun c s => Fits s c { dPop := 1, dPush := 1 } ∧ Tab.get [] (s.carrel c).queue 0 ≠ []) .mrdF 4
     (fun c s => { s.carrel c with wait := .mrdf (s.peekD c 0) }))

/-- BAR of a carrel with no descriptor unfinished and an empty buffer joins the barrier of its plan; WTICK likewise
ends the plan-tick program; the release of a barrier that all have joined starts the next phase on every carrel of
the set. A BAR in the last phase and a WTICK before it take PLAN-ORDER. A reading of the model: the idle time that
picks the power state (log entry 78). -/
def Obligations.PhasesAndBarriers : Prop :=
  let stopped (w x : Watchdog) : Prop :=
    x = { w with run := false, count := x.count, max := x.max } ∧
    x.max.toNat = max w.max.toNat x.count.toNat ∧ w.count.toNat ≤ x.count.toNat ∧
    (w.run = false → x.count = w.count) ∧ x.count.toNat ≤ max w.budget.toNat w.count.toNat
  let due (k : Carrel) (s : State) : Bool :=
    k.nan.valid && decide (k.nan.ev.phase = k.wd.phase ∧ k.nan.ev.wtn = s.tickWtn)
  let settled (k : Carrel) (s : State) : NanRec := if due k s then { k.nan with settled := true } else k.nan
  (∀ (c : BitVec 12) (s : State) (i : Nat) (p : Plan), Ready s c 4 → s.planOf c = some (i, p) →
    (s.carrel c).wd.phase.toNat + 1 < p.phasesNow → (∀ q l, (q, l) ∈ (s.carrel c).queue → l = []) →
    (s.carrel c).mb = [] →
    ∃ t, Sys2Proof.Machine.exec (.bar c) s = .next t ∧
      t = { s with plans := t.plans, carrels := t.carrels, fresh := s.fresh + 1 } ∧
      t.plan i = some { p with joined := p.joined ++ [c.toNat] } ∧ (∀ j, j ≠ i → t.plan j = s.plan j) ∧
      t.carrel c = { s.carrel c with wait := .joined, wd := (t.carrel c).wd } ∧
      stopped (s.carrel c).wd (t.carrel c).wd ∧ ∀ d, d ≠ c → t.carrel d = s.carrel d) ∧
  (∀ (c : BitVec 12) (s : State), Ready s c 4 →
    (∀ i p, s.planOf c = some (i, p) → p.phasesNow ≤ (s.carrel c).wd.phase.toNat + 1) →
    Sys2Proof.Machine.exec (.bar c) s = .next (s.fault c { code := 0x07, detail := 4 })) ∧
  (∀ (c : BitVec 12) (s : State), Ready s c 4 →
    ((s.carrel c).overrun = true ∨
      ∀ i p, s.planOf c = some (i, p) → p.phasesNow ≤ (s.carrel c).wd.phase.toNat + 1) →
    (∀ q l, (q, l) ∈ (s.carrel c).queue → l = []) → (s.carrel c).mb = [] →
    ∃ t, Sys2Proof.Machine.exec (.wtick c) s = .next t ∧
      t = { s with carrels := t.carrels, fresh := s.fresh + 2
                   census := { s.census with
                     nan := if due (s.carrel c) s && !(s.carrel c).nan.settled then
                         s.census.nan.take c (s.carrel c).ctx (s.carrel c).nan.ev
                       else s.census.nan } } ∧
      t.carrel c = { s.carrel c with
        wait := .rest, ended := true, wd := (t.carrel c).wd, nan := settled (s.carrel c) s
        power := restPower ({ s with fresh := s.fresh + 1 }.idleNs c.toNat).1 } ∧
      stopped (s.carrel c).wd (t.carrel c).wd ∧ ∀ d, d ≠ c → t.carrel d = s.carrel d) ∧
  (∀ (c : BitVec 12) (s : State) (i : Nat) (p : Plan), Ready s c 4 → s.planOf c = some (i, p) →
    (s.carrel c).wd.phase.toNat + 1 < p.phasesNow → (s.carrel c).overrun = false →
    Sys2Proof.Machine.exec (.wtick c) s = .next (s.fault c { code := 0x07, detail := 5 })) ∧
  (∀ (slot : BitVec 8) (s : State) (p : Plan), s.plan slot.toNat = some p → p.state = .running →
    p.img.set.Nodup → (∀ c ∈ p.img.set, c < 4096 ∧ c ∈ p.joined) →
    ∃ t, Sys2Proof.Machine.exec (.barrierRelease slot) s = .next t ∧
      t = { s with plans := t.plans, carrels := t.carrels, census := { s.census with nan := t.census.nan } } ∧
      (∀ j, j ≠ slot.toNat → t.plan j = s.plan j) ∧
      (∃ q, t.plan slot.toNat = some q ∧ q = { p with joined := [], tokens := [], links := q.links }) ∧
      (∀ d : BitVec 12, d.toNat ∉ p.img.set → t.carrel d = s.carrel d) ∧
      ∀ d : BitVec 12, d.toNat ∈ p.img.set →
        let k := s.carrel d
        let ph := k.wd.phase.toNat + 1
        t.carrel d = { k with
          next := [], arrayDone := 0, wait := .none, nan := settled k s
          wd := { k.wd with
            budget := BitVec.ofNat 32 (Tab.get 0 p.img.budgets ((d.toNat * 4096 + p.k) * 256 + ph))
            count := 0, phase := BitVec.ofNat 8 ph, ptick := BitVec.ofNat 12 p.k, run := !k.overrun } }.after 4) ∧
  ∀ (slot : BitVec 8) (s : State) (p : Plan), s.plan slot.toNat = some p → (∃ c ∈ p.img.set, c ∉ p.joined) →
    Sys2Proof.Machine.exec (.barrierRelease slot) s = .next s

/-- SYS to a level not below its own, with the fast bit and outside gate-only mode: with the level's shadow set free
it saves there and touches no memory; with the set busy it pushes a frame. The data bank stays. Without the fast bit
it takes PRIV; to a lower level ILLEGAL. The status word's fields stand where the layout puts them. GATE n that
passes every check: the frame is pushed at the target level with NRES, the seal is made, the pc goes to the gate's
entry, and the NARG arguments stand on the data stack of the target level. A number past the last gate, an entry
outside the shelf and an invalid entry take GATE with their reasons. Readings of the model: entries that escalate
(log entry 29). -/
def Obligations.SystemCallsAndGates : Prop :=
  ((∀ (toM : Bool) (c : BitVec 12) (s : State), Ready s c 4 →
     let k := s.carrel c
     let h : BitVec 2 := if toM then 2 else 1
     let st (shadowed : Bool) : Carrel :=
       { (if shadowed then k else k.abandon) with
         level := h, sealNext := nextSeal k.sealNext, seals := { tag := k.sealNext, shadow := shadowed, hlvl := h } :: k.seals
         pc := vecAddr (if toM then k.sentryM else k.sentryS)
         count := { k.count with retired := k.count.retired + 1 } }
     let status := statusWord k.level 0 (k.mask h) false 2 0 k.dbank true false k.sealNext
     let saved : Shadow :=
       { pc := k.pc + 4, status := status, cause := 0x20, depth := { k with level := h }.depthWord, busy := true }
     (k.level ≤ h → k.fast = true → s.gateOnly = false → k.seals.length ≤ (if toM then 3 else 2) →
       (if toM then k.shdM.busy else k.shdS.busy) = false →
       Sys2Proof.Machine.exec (.sys c toM) s = .next (s.setCarrel c
         { st true with
           shdS := if toM then k.shdS else saved
           shdM := if toM then saved else k.shdM })) ∧
     (k.level ≤ h → k.fast = true → s.gateOnly = false → k.seals.length ≤ (if toM then 3 else 2) →
       (if toM then k.shdM.busy else k.shdS.busy) = true → k.xspValid h = true → k.rep = none →
       let a := shelfBase c.toNat + 64 * ((k.xsp h).1.toNat - 1)
       ∃ t, Sys2Proof.Machine.exec (.sys c toM) s = .next t ∧
         t = { s with mem := t.mem, carrels := t.carrels, fresh := t.fresh } ∧
         t.carrel c = { st false with
           xspSTop := if toM then k.xspSTop else k.xspSTop - 1
           xspMTop := if toM then k.xspMTop - 1 else k.xspMTop } ∧
         t.le a 8 = (k.pc + 4).toNat ∧ t.le (a + 8) 8 = status.toNat ∧ t.le (a + 16) 8 = 0x20 ∧
         t.le (a + 48) 8 = saved.depth.toNat ∧ (∀ b, b < a ∨ a + 64 ≤ b → t.byte b = s.byte b) ∧
         ∀ d, d ≠ c → t.carrel d = s.carrel d) ∧
     (k.level ≤ h → k.fast = false ∨ s.gateOnly = true →
       Sys2Proof.Machine.exec (.sys c toM) s = .next (s.fault c { code := 0x02, detail := 2 })) ∧
     (h < k.level → k.rep = none → Sys2Proof.Machine.exec (.sys c toM) s =
       .next (s.fault c { code := 0x01, detail := if toM then 0x1033 else 0x33 }))) ∧
   ∀ (plvl repk : BitVec 2) (pmask : BitVec 3) (imprecise resumable more : Bool) (kind nres pdbank : BitVec 2)
     (tag : BitVec 16),
     let w := statusWord plvl repk pmask imprecise kind nres pdbank resumable more tag
     w.extractLsb' 0 2 = plvl ∧ w.extractLsb' 2 2 = repk ∧ w.extractLsb' 4 3 = pmask ∧ w.getLsbD 7 = imprecise ∧
     w.extractLsb' 8 2 = kind ∧ w.extractLsb' 10 2 = nres ∧ w.extractLsb' 12 2 = pdbank ∧ w.getLsbD 14 = resumable ∧
     w.getLsbD 15 = more ∧ w.extractLsb' 16 16 = tag ∧ w.extractLsb' 32 32 = 0) ∧
  (∀ (c : BitVec 12) (n : BitVec 10) (s : State), Ready s c 4 →
     let k := s.carrel c
     let off := 16 * (k.gateBase.toNat + n.toNat)
     let at_ := shelfBase c.toNat + off
     let w1 := s.le (at_ + 8) 8
     let h := BitVec.ofNat 2 (w1 / 2)
     let narg := w1 / 8 % 8
     let nres := w1 / 64 % 4
     (k.gateCount.toNat ≤ n.toNat →
       Sys2Proof.Machine.exec (.gate c n) s = .next (s.fault c { code := 0x08, detail := BitVec.ofNat 64 (n.toNat + 0x2000) })) ∧
     (n.toNat < k.gateCount.toNat → off < k.ulim.toNat * 64 ∨ 196096 < off + 16 →
       Sys2Proof.Machine.exec (.gate c n) s = .next (s.fault c { code := 0x08, detail := BitVec.ofNat 64 (n.toNat + 0x6000) })) ∧
     (n.toNat < k.gateCount.toNat → k.ulim.toNat * 64 ≤ off → off + 16 ≤ 196096 →
       (w1 % 2 = 0 ∨ h = 0 ∨ h = 3 ∨ narg = 7 ∨ nres = 3 ∨ h < k.level →
         Sys2Proof.Machine.exec (.gate c n) s =
           .next (s.fault c { code := 0x08, detail := BitVec.ofNat 64 (n.toNat + 0x4000) })) ∧
       (w1 % 2 = 1 → (h = 1 ∨ h = 2) → narg < 7 → nres < 3 → k.level ≤ h → k.rescue = false → k.rep = none →
         (narg : Int) ≤ (s.dataOf c).dataDepth → s.gateArgs c w1 narg narg = .pass →
         k.seals.length < (if h = 1 then 3 else 4) → k.xspValid h = true →
         (let b := k.bank (bankOfCode h)
          let pop := if bankOfCode h = k.dataBank then narg else 0
          boundCheck b.d b.dres 8 pop pop narg = none) →
         let a := shelfBase c.toNat + 64 * ((k.xsp h).1.toNat - 1)
         ∃ t, Sys2Proof.Machine.exec (.gate c n) s = .next t ∧
           t = { s with mem := t.mem, carrels := t.carrels, fresh := t.fresh } ∧
           (∀ d, d ≠ c → t.carrel d = s.carrel d) ∧
           CarrelIs c { k.abandon with
             level := h, dbank := h, rep := none, sealNext := nextSeal k.sealNext
             seals := { tag := k.sealNext, shadow := false, hlvl := h } :: k.seals
             xspSTop := if h = 1 then k.xspSTop - 1 else k.xspSTop
             xspMTop := if h = 1 then k.xspMTop else k.xspMTop - 1
             pc := BitVec.ofNat 64 (s.le at_ 8 / 2 * 2)
             count := { k.count with retired := k.count.retired + 1 } } t ∧
           (∀ i, i < narg → t.peekD c i = s.peekD c i) ∧
           (t.dataOf c).dataDepth =
             (k.bank (bankOfCode h)).dataDepth + (if bankOfCode h = k.dataBank then 0 else narg) ∧
           (bankOfCode h ≠ k.dataBank →
             ((t.carrel c).bank k.dataBank).dataDepth = (s.dataOf c).dataDepth - narg) ∧
           ((k.bank (bankOfCode h)).dres.length + narg ≤ 8 →
             t.le a 8 = (k.pc + 4).toNat ∧ t.le (a + 16) 8 = 0x21 ∧
             t.le (a + 40) 8 = n.toNat ∧ t.le (a + 8) 8 / 1024 % 4 = nres ∧
             ∀ b, b < a ∨ a + 64 ≤ b → t.byte b = s.byte b))))

/-- RETX whose frame passes the checks restores the mask of its level, the level, the data bank, the pc and the
repeat from the frame, pops the seal and frees the frame; with no results to move nothing else changes. A frame that
fails a check takes RETCHK with the reason, and at U the instruction takes PRIV. Readings of the model: bit 0 of
PC_RESUME, REPK 3 and a count of 0 (log entries 28, 72). -/
def Obligations.ReturnFromException : Prop :=
  ∀ (c : BitVec 12) (s : State), Ready s c 4 →
    let k := s.carrel c
    let pc := (s.retFrame c).1
    let status := (s.retFrame c).2.1
    let repk := status.extractLsb' 2 2
    let even := BitVec.ofNat 64 (pc.toNat / 2 * 2)
    (k.level = 0 → Sys2Proof.Machine.exec (.retx c) s = .next (s.fault c { code := 0x02, detail := 0 })) ∧
    (∀ r, k.level ≠ 0 → s.retCheck c = some r →
      Sys2Proof.Machine.exec (.retx c) s = .next (s.fault c { code := 0x0A, detail := BitVec.ofNat 64 r })) ∧
    (k.level ≠ 0 → s.retCheck c = none → (status.extractLsb' 8 2 = 3 → status.extractLsb' 10 2 = 0) →
      let shadowed := !k.rescue && (k.seals.head?.map fun (x : Seal) => x.shadow).getD false
      let low := k.level = 1
      let back : Carrel :=
        { k with
          level := status.extractLsb' 0 2, dbank := status.extractLsb' 12 2, rescue := false
          maskS := if low then status.extractLsb' 4 3 else k.maskS
          maskM := if low then k.maskM else status.extractLsb' 4 3
          seals := if k.rescue then k.seals else k.seals.tail
          xspSTop := if k.rescue = false ∧ shadowed = false ∧ low then k.xspSTop + 1 else k.xspSTop
          xspMTop := if k.rescue = false ∧ shadowed = false ∧ ¬ low then k.xspMTop + 1 else k.xspMTop
          pc := if repk = 1 ∨ repk = 2 then even + 2 else even
          rep := if repk = 1 ∨ repk = 2 then
              some { repx := decide (repk = 2), addr := even, count := (s.retFrame c).2.2.1
                     parcel := if repk = 1 then some 0x050C else none }
            else none
          count := { k.count with retired := k.count.retired + 1 } }
      ∃ j : Carrel, Sys2Proof.Machine.exec (.retx c) s = .next (s.setCarrel c j) ∧
        j = { back with shdS := j.shdS, shdM := j.shdM } ∧
        (shadowed = false → j.shdS = k.shdS ∧ j.shdM = k.shdM) ∧
        (shadowed = true → ∀ x ∈ k.seals.head?,
          j.shdS = (if x.hlvl = 1 then { k.shdS with busy := false } else k.shdS) ∧
          j.shdM = (if x.hlvl = 1 then k.shdM else { k.shdM with busy := false })))

/-- A synchronous fault that enters without escalation, followed at once by RETX, gives back every register of the
carrel but the seal sequence, the retired count and buffer entries already acknowledged, and every byte of memory
outside the frame: entry and return agree on every field of the frame. -/
def Obligations.ReturnUndoesFaultEntry : Prop :=
  ∀ (c : BitVec 12) (s : State) (x : Exc) (h : BitVec 2), (s.carrel c).entersAt x.code h →
    (s.carrel c).level ≤ h → x.code ≠ 0x09 → (s.carrel c).pc.toNat % 2 = 0 → (s.carrel c).wait = .none →
    (∀ r, (s.carrel c).rep = some r → r.addr.toNat % 2 = 0 ∧ (s.carrel c).pc = r.addr + 2 ∧
      r.parcel = if r.repx then none else some 0x050C) →
    Ready (s.fault c x) c 4 →
    ∃ u, Sys2Proof.Machine.exec (.retx c) (s.fault c x) = .next u ∧
      u.carrel c = { (s.carrel c).abandon with
        sealNext := nextSeal (s.carrel c).sealNext
        count := { (s.carrel c).count with retired := (s.carrel c).count.retired + 1 } } ∧
      (∀ d, d ≠ c → u.carrel d = s.carrel d) ∧
      (let a := shelfBase c.toNat + 64 * (((s.carrel c).xsp h).1.toNat - 1)
       ∀ b, b < a ∨ a + 64 ≤ b → u.byte b = s.byte b) ∧
      u = { s with mem := u.mem, carrels := u.carrels, fresh := u.fresh }

/-- CRD leaves the value of the register; CWR of a register that is no stack register takes the value and writes it;
a write that the level may not do, or to a read-only or reserved register, is ignored; a register that the level may
not reach takes PRIV. A control register that a level may write reads back the bits its layout makes writable: the
others read 0. The model's choice: CRD reads before its push spills (log entry 66). -/
def Obligations.ControlRegisters : Prop :=
  (let stackReg (n : Nat) : Prop := (0x010 ≤ n ∧ n ≤ 0x015) ∨ (0x020 ≤ n ∧ n ≤ 0x025) ∨ (0x030 ≤ n ∧ n ≤ 0x035)
   ∀ n : BitVec 10,
     RunsIf (fun c s => cregAcc n.toNat (s.carrel c).level ≠ .no ∧ ¬ (n = 0x0A1 ∧ (s.carrel c).wd.run = true)) (.crd · n) 4
       { dPush := 1 } (fun c s => (s.carrel c).after 4) (fun c s => [s.creg c n.toNat]) (fun _ _ => []) ∧
     RunsIf (fun c s => cregAcc n.toNat (s.carrel c).level = .rw ∧ ¬ stackReg n.toNat) (.cwr · n) 4 { dPop := 1 }
       (fun c s => ((s.carrel c).setCreg n.toNat (s.peekD c 0)).after 4) (fun _ _ => []) (fun _ _ => []) ∧
     RunsIf (fun c s => cregAcc n.toNat (s.carrel c).level = .ro) (.cwr · n) 4 { dPop := 1 }
       (fun c s => (s.carrel c).after 4) (fun _ _ => []) (fun _ _ => []) ∧
     (∀ (c : BitVec 12) (s : State), Ready s c 4 → cregAcc n.toNat (s.carrel c).level = .no →
       Sys2Proof.Machine.exec (.crd c n) s =
         .next (s.fault c { code := 0x02, detail := BitVec.ofNat 64 (1 + 4096 * n.toNat) }) ∧
       Sys2Proof.Machine.exec (.cwr c n) s =
         .next (s.fault c { code := 0x02, detail := BitVec.ofNat 64 (1 + 4096 * n.toNat) })) ∧
     ∀ (c : BitVec 12) (s : State), Ready s c 4 → Fits s c { dPop := 1 } → stackReg n.toNat →
       cregAcc n.toNat (s.carrel c).level = .rw →
       ∃ t, Sys2Proof.Machine.exec (.cwr c n) s = .next t ∧ OnlyCarrel c s t ∧ t.mem = s.mem ∧
         CarrelIs c ((s.carrel c).after 4) t ∧
         t.creg c n.toNat = BitVec.ofNat 64 ((s.peekD c 0).toNat % 2 ^ 18 / 8 * 8) ∧
         ∀ m : Nat, m ≠ n.toNat → stackReg m →
           m ≠ (match (s.carrel c).dataBank with | .u => 0x010 | .s => 0x020 | .m => 0x030 | .rescue => 0) →
           t.creg c m = s.creg c m) ∧
  (∀ (c : BitVec 12) (s : State) (v : Word),
     let back (n : Nat) : Word := (s.setCarrel c ((s.carrel c).setCreg n v)).creg c n
     back 0x002 = v &&& 0x3FFC0#64 ∧
     (∀ n, (0x010 ≤ n ∧ n ≤ 0x015) ∨ (0x020 ≤ n ∧ n ≤ 0x025) ∨ (0x030 ≤ n ∧ n ≤ 0x035) → back n = v &&& 0x3FFF8#64) ∧
     back 0x040 = v &&& 7#64 ∧ back 0x041 = v &&& 7#64 ∧ back 0x042 = v &&& 7#64 ∧
     (∀ n, 0x048 ≤ n ∧ n ≤ 0x04C → back n = v &&& 0xFFFFFFFFFFFFFFFE#64) ∧
     back 0x050 = v &&& 0x3FFC3FFC0#64 ∧ back 0x051 = v &&& 0x3FFC3FFC0#64 ∧ back 0x058 = v &&& 0x1FFFFFF0#64 ∧
     back 0x068 = v ∧ back 0x069 = v &&& 0xFFFFFFFF#64 ∧ back 0x06A = v &&& 0xFFFF#64 ∧
     back 0x06B = v &&& 0xFFFFFFFF#64 ∧ back 0x06C = v ∧ back 0x06D = v &&& 0xFFFFFFFF#64 ∧
     back 0x06E = v &&& 0xFFFF#64 ∧ back 0x06F = v &&& 0xFFFFFFFF#64 ∧
     back 0x080 = v &&& 0xFFFF#64 ∧ back 0x081 = v &&& 0xFFFF#64 ∧ back 0x090 = v &&& 1#64)

/-- An interrupt that can be taken enters at its level: NaN trap at S with step 7, keeper at M with step 6, debug at
M with step 5, in this order, none in rescue state, above the level, or at or above the mask; inside a REPX nothing
is taken. The mask of the level becomes the step. Nothing pending: nothing happens. OVERRUN: the watchdog of a
running carrel stops with a count past the budget, the plan's tick is marked, and the carrel enters at M with a
frame that is not resumable, whatever the mask. A wake makes the carrel ready. The model's choices: a request goes
when its row clears it, and an entry that becomes FRAME-PUSH is a fault (log entries 65, 73). -/
def Obligations.Interrupts : Prop :=
  ((∀ (c : BitVec 12) (s : State) (code : BitVec 8) (step : BitVec 3) (h : BitVec 2),
     let k := s.carrel c
     k.idle = true → k.inRepx = false → k.imprecise = none → k.takeable = some (code, step, h) →
     k.seals.length < (if h = 1 then 3 else 4) → k.xspValid h = true →
     let a := shelfBase c.toNat + 64 * ((k.xsp h).1.toNat - 1)
     ∃ t, Sys2Proof.Machine.exec (.interruptEntry c) s = .next t ∧
       t = { s with mem := t.mem, carrels := t.carrels, fresh := s.fresh + 2 } ∧
       t.le a 8 = k.resumePc.toNat ∧ t.le (a + 16) 8 = code.toNat ∧
       t.le (a + 8) 8 =
         (statusWord k.level (repKind k.rep) (if h = 1 then k.maskS else k.maskM) false 1 0 k.dbank true false k.sealNext).toNat ∧
       (∀ b, b < a ∨ a + 64 ≤ b → t.byte b = s.byte b) ∧ (∀ d, d ≠ c → t.carrel d = s.carrel d) ∧
       t.carrel c = { k.abandon with
         level := h, dbank := h, rep := none
         maskS := if h = 1 then step else k.maskS, maskM := if h = 1 then k.maskM else step
         sealNext := nextSeal k.sealNext, seals := { tag := k.sealNext, shadow := false, hlvl := h } :: k.seals
         xspSTop := if h = 1 then k.xspSTop - 1 else k.xspSTop
         xspMTop := if h = 1 then k.xspMTop else k.xspMTop - 1
         pc := if h = 1 then vecAddr k.xvecS else vecAddr k.xvecM }) ∧
   (∀ k : Carrel, k.level ≤ 2 →
     let mask := (if k.level = 0 then k.maskU else if k.level = 1 then k.maskS else k.maskM).toNat
     let nan := k.nan.valid = true ∧ k.nan.trapEn = true ∧ k.level ≤ 1 ∧ mask < 7
     let keeper := k.keeperReq = true ∧ mask < 6
     let debug := k.debugReq = true ∧ mask < 5
     (k.rescue = true → k.takeable = none) ∧
     (k.rescue = false →
       (nan → k.takeable = some (0x40, 7, 1)) ∧ (¬ nan → keeper → k.takeable = some (0x41, 6, 2)) ∧
       (¬ nan → ¬ keeper → debug → k.takeable = some (0x42, 5, 2)) ∧
       (¬ nan → ¬ keeper → ¬ debug → k.takeable = none))) ∧
   ∀ (c : BitVec 12) (s : State),
     ((s.carrel c).inRepx = true ∨ ((s.carrel c).imprecise = none ∧ (s.carrel c).takeable = none) →
       Sys2Proof.Machine.exec (.interruptEntry c) s = .next s) ∧
     ∀ on : Bool, Sys2Proof.Machine.exec (.keeperInterruptRequest ⟨c, on⟩) s =
       .next (s.setCarrel c { s.carrel c with keeperReq := on })) ∧
  ((∀ (c : BitVec 12) (s : State),
     let k := s.carrel c
     let n := k.wd.budget + 1
     k.counting = true → (∀ op a l, k.wait ≠ .vecAck op a l) → k.rescue = false → k.seals.length < 4 →
     k.xspValid 2 = true →
     let a := shelfBase c.toNat + 64 * (k.xspMTop.toNat - 1)
     ∃ t, Sys2Proof.Machine.exec (.overrun c) s = .next t ∧
       t = { s with mem := t.mem, carrels := t.carrels, plans := t.plans, fresh := s.fresh + 1 } ∧
       t.le a 8 = k.resumePc.toNat ∧ t.le (a + 16) 8 = 0x09 ∧
       t.le (a + 8) 8 =
         (statusWord k.level (repKind k.rep) k.maskM false 0 0 k.dbank false false k.sealNext).toNat ∧
       t.le (a + 40) 8 = k.wd.phase.toNat + 2 ^ 32 * k.wd.budget.toNat ∧
       (∀ b, b < a ∨ a + 64 ≤ b → t.byte b = s.byte b) ∧ (∀ d, d ≠ c → t.carrel d = s.carrel d) ∧
       (∀ i p, s.plan i = some p → t.plan i =
         some (if ∃ x ∈ k.plan, x.toNat = i then { p with overrun := true } else p)) ∧
       t.carrel c = { k.abandon with
         level := 2, dbank := 2, rep := none, overrun := true
         wd := { k.wd with run := false, ovr := true, count := n, max := if k.wd.max < n then n else k.wd.max }
         sealNext := nextSeal k.sealNext, seals := { tag := k.sealNext, shadow := false, hlvl := 2 } :: k.seals
         xspMTop := k.xspMTop - 1, pc := vecAddr k.xvecM }) ∧
   ∀ (c : BitVec 12) (s : State),
     ((s.carrel c).wd.run = false ∨ (∃ q n m p, (s.carrel c).wait = .issue q n m p) ∨
       (∃ e n, (s.carrel c).wait = .qwait e n) → Sys2Proof.Machine.exec (.overrun c) s = .next s) ∧
     Sys2Proof.Machine.exec (.carrelWake c) s = .next (s.setCarrel c { s.carrel c with
       waking := false
       power := if (s.carrel c).plan ≠ none ∧ (s.carrel c).wait ≠ .rest then .run else (s.carrel c).power }))

/-- FENCE and FLUSHI complete at once with an empty merging buffer (FLUSHI invalidating the I-cache) and otherwise
issue every entry and wait. ICINV and the D-cache forms: by address through stream 3 with the R right, by set and
way for S and M; a clean with no pending write of the block completes at once, and an invalidation removes the line.
What the caches and the merging buffer do when an answer comes: the invalidation of reset ends; a D-cache fill
writes the line, with the buffer's bytes over it, and completes the load; an I-cache fill writes the line; a
timed-out entry issues; an acknowledged entry's bytes are in memory and the entry is gone. A request for which the
stack has no token changes nothing but what asking changes. Readings of the model: an access draws its tokens before
anything else, and six entries in use issue all (log entries 67, 80). -/
def Obligations.CachesAndBuffers : Prop :=
  (let idle_ (c : BitVec 12) (s : State) (pa : Nat) : Prop := ∀ e ∈ (s.carrel c).mb, e.block ≠ pa / 64
   let pa (c : BitVec 12) (s : State) : Nat := match s.access c 3 (s.peekD c 0) 1 1 with | .ok pa _ => pa | _ => 0
   let may (c : BitVec 12) (s : State) : Prop := ∃ q part, s.access c 3 (s.peekD c 0) 1 1 = .ok q part
   let drop (k : Carrel) (slot : Option Nat) : Carrel :=
     match slot with | some i => { k with dcache := Tab.set none k.dcache i none } | none => k
   let line (k : Carrel) (pa : Nat) : Option Nat := if isHbm pa then (k.dLine pa).map (·.1) else none
   let slot (c : BitVec 12) (s : State) : Nat := (s.peekD c 1).toNat % 32 * 4 + (s.peekD c 0).toNat % 4
   let block (c : BitVec 12) (s : State) : Option Nat :=
     (Tab.get none (s.carrel c).dcache (slot c s)).map fun l => l.tag * 32 + (s.peekD c 1).toNat % 32
   let at_ (f : Carrel → BitVec 12 → State → Carrel) (c : BitVec 12) (s : State) : Carrel := (f (s.carrel c) c s).after 4
   let none_ : BitVec 12 → State → List Word := fun _ _ => []
   RunsFree (fun c s => (s.carrel c).mb = []) .fence 4 (at_ fun k _ _ => k) ∧
   RunsFree (fun c s => (s.carrel c).mb = []) .flushi 4 (at_ fun k _ _ => { k with icache := [] }) ∧
   RunsFree (fun c s => (s.carrel c).mb ≠ [] ∧ ∀ e ∈ (s.carrel c).mb, s.isLocal (e.block * 64) = true) .fence 4
     (fun c s => { s.carrel c with mb := (s.carrel c).mb.map ({ · with issued := true }), wait := .fence 4 }) ∧
   RunsFree (fun c s => (s.carrel c).mb ≠ [] ∧ ∀ e ∈ (s.carrel c).mb, s.isLocal (e.block * 64) = true) .flushi 4
     (fun c s => { s.carrel c with mb := (s.carrel c).mb.map ({ · with issued := true }), wait := .flushi 4 }) ∧
   RunsFree (fun c s => (s.carrel c).level ≠ 0) .icinv 4 (at_ fun k _ _ => { k with icache := [] }) ∧
   RunsIf (fun c s => may c s ∧ idle_ c s (pa c s)) .dclean 4 { dPop := 1 } (at_ fun k _ _ => k) none_ none_ ∧
   RunsIf may .dinv 4 { dPop := 1 } (at_ fun k c s => drop k (line k (pa c s))) none_ none_ ∧
   RunsIf (fun c s => may c s ∧ idle_ c s (pa c s)) .dclinv 4 { dPop := 1 }
     (at_ fun k c s => drop k (line k (pa c s))) none_ none_ ∧
   RunsIf (fun c s => (s.carrel c).level ≠ 0 ∧ ∀ b ∈ block c s, ∀ e ∈ (s.carrel c).mb, e.block ≠ b) .dcleansw 4
     { dPop := 2 } (at_ fun k _ _ => k) none_ none_ ∧
   RunsIf (fun c s => (s.carrel c).level ≠ 0) .dinvsw 4 { dPop := 2 }
     (at_ fun k c s => { k with dcache := Tab.set none k.dcache (slot c s) none }) none_ none_ ∧
   RunsIf (fun c s => (s.carrel c).level ≠ 0 ∧ ∀ b ∈ block c s, ∀ e ∈ (s.carrel c).mb, e.block ≠ b) .dclinvsw 4
     { dPop := 2 } (at_ fun k c s => if (block c s).isSome then drop k (some (slot c s)) else k) none_ none_ ∧
   ∀ (c : BitVec 12) (s : State), Ready s c 4 → (s.carrel c).level = 0 → ∀ i ∈ [Instr.icinv c, .dcleansw c, .dinvsw c, .dclinvsw c],
     Sys2Proof.Machine.exec i s = .next (s.fault c { code := 0x02, detail := 0 })) ∧
  ((∀ (c : BitVec 12) (s : State) (d : Bool), Sys2Proof.Machine.exec (.cacheInitDone c d) s =
     .next (s.setCarrel c { s.carrel c with
       icInit := (s.carrel c).icInit && d, dcInit := (s.carrel c).dcInit && !d })) ∧
   (∀ (c : BitVec 12) (s : State) (data : List Byte) (len : Nat) (signed : Bool) (h : LoadHalf),
     (s.carrel c).wait = .load len signed [h] → h.stage = .miss → isHbm h.pa = true → s.isLocal h.pa = true →
     s.lostIn (localOf h.pa / 64 * 64) 64 = false → Fits s c { dPop := 1, dPush := 1 } →
     let k := s.carrel c
     let ask := s.askAt .planned 1 h.pa h.part
     let line := k.mb.foldl (fun (l : List Byte) (e : MergeEntry) => if e.block = h.pa / 64 then e.over l 0 else l)
       (s.bytes (localOf h.pa / 64 * 64) 64)
     (ask.1 = false → Sys2Proof.Machine.exec (.dCacheFill c data) s = .next ask.2) ∧
     (ask.1 = true → ∃ t, Sys2Proof.Machine.exec (.dCacheFill c data) s = .next t ∧
       Moves c ({ k.dFill h.pa line with
           wait := .none, mb := k.mb.filter fun (e : MergeEntry) => !e.acked }.after len) 1
         [loadValue signed (slice line (h.pa % 64) h.n)] 0 [] ask.2 t ∧
       (Tab.get none (t.carrel c).dcache (victim k.dcache (h.pa / 64 % 32) k.dcseed) =
         some { tag := h.pa / 2048, data := line }))) ∧
   (∀ (c : BitVec 12) (s : State) (pa : BitVec 56),
     let k := s.carrel c
     let set := pa.toNat / 64 % 64
     k.icInit = false → (∀ w, w < 4 → ∀ l ∈ Tab.get none k.icache (set * 4 + w), l.tag ≠ pa.toNat / 4096) →
     s.isLocal pa.toNat = true →
     let ask := s.askAt .planned 1 pa.toNat (s.fetchPart c)
     (ask.1 = false → Sys2Proof.Machine.exec (.iCacheFill c pa) s = .next ask.2) ∧
     (ask.1 = true → Sys2Proof.Machine.exec (.iCacheFill c pa) s = .next (ask.2.setCarrel c { k with
       icache := Tab.set none k.icache (victim k.icache set k.icseed)
         (some { tag := pa.toNat / 4096, data := s.memRead (localOf (pa.toNat / 64 * 64)) 64 })
       icseed := lfsrStep k.icseed
       count := { k.count with imiss := k.count.imiss + 1 } }))) ∧
   (∀ (c : BitVec 12) (s : State) (old new : List MergeEntry) (e : MergeEntry),
     (s.carrel c).mb = old ++ e :: new → (∀ x ∈ old, x.issued = true) → e.issued = false →
     s.isLocal (e.block * 64) = true →
     Sys2Proof.Machine.exec (.mergeEntryTimeout c) s =
       .next (s.setCarrel c { s.carrel c with mb := old ++ { e with issued := true } :: new })) ∧
   ∀ (c : BitVec 12) (s : State) (i : BitVec 3) (e : MergeEntry), (s.carrel c).mb[i.toNat]? = some e →
     e.issued = true → e.acked = false → (s.carrel c).wait = .none → s.isLocal (e.block * 64) = true →
     isHbm (e.block * 64) = true → s.present (localOf (e.block * 64)) 64 = true → s.lost = [] →
     let ask := s.askAt .planned 1 (e.block * 64) e.part
     (ask.1 = false → Sys2Proof.Machine.exec (.mergeEntryAck c i) s = .next ask.2) ∧
     (ask.1 = true → ∃ t, Sys2Proof.Machine.exec (.mergeEntryAck c i) s = .next t ∧
       t = { ask.2 with mem := t.mem, carrels := t.carrels } ∧ (∀ d, d ≠ c → t.carrel d = s.carrel d) ∧
       t.carrel c = { s.carrel c with mb := ((s.carrel c).mb.eraseIdx i.toNat).filter fun (x : MergeEntry) => !x.acked } ∧
       (∀ j, j < 64 → t.byte (localOf (e.block * 64) + j) =
         (Tab.get none e.bytes j).getD (s.byte (localOf (e.block * 64) + j))) ∧
       ∀ b, b < localOf (e.block * 64) ∨ localOf (e.block * 64) + 64 ≤ b → t.byte b = s.byte b))

/-- Answers that end a wait: an uncached load takes its bytes, an atomic its old value while memory takes the new
one; an UNMAPPED answer to a request of this chip is tried once more and then faults, one to a retired store loses
the store and is held; an uncorrectable answer stops the carrel. Readings of the model: the retry is for targets of
this module, and tokens are drawn first (log entries 31, 80). -/
def Obligations.AnswersAndErrors : Prop :=
  (∀ (c : BitVec 12) (s : State) (data : List Byte) (len : Nat) (signed : Bool) (h : LoadHalf) (r : Bool),
    (s.carrel c).wait = .load len signed [h] → h.stage = .mesh r → Fits s c { dPop := 1, dPush := 1 } →
    (s.isLocal h.pa = true ∨ data.length = h.n) → (s.askAt .planned 1 h.pa h.part).1 = true →
    ∃ t, Sys2Proof.Machine.exec (.meshResponse c data) s = .next t ∧
      Moves c ({ s.carrel c with wait := .none }.after len) 1
        [loadValue signed (if s.isLocal h.pa then s.memRead (localOf h.pa) h.n else data)] 0 []
        (s.askAt .planned 1 h.pa h.part).2 t) ∧
  (∀ (c : BitVec 12) (s : State) (data : List Byte) (len : Nat) (op : BitVec 4) (w : Bool) (va : Word) (pa : Nat)
    (part : BitVec 6) (x e : Word) (r : Bool),
    let n := if w then 8 else 4
    (s.carrel c).wait = .atomic len op w va pa part x e true r → s.isLocal pa = true → s.lostIn (localOf pa) n = false →
    Fits s c { dPop := if op = 7 then 3 else 2, dPush := 1 } → isHbm pa = true →
    (s.askAt .planned 2 pa part).1 = true →
    ∃ t, Sys2Proof.Machine.exec (.meshResponse c data) s = .next t ∧
      StoresTo c ({ s.carrel c with wait := .none }.after len) (if op = 7 then 3 else 2) [word (s.le (localOf pa) n)]
        (localOf pa) n (atomicNew op n (s.le (localOf pa) n) (x.toNat % 256 ^ n) (e.toNat % 256 ^ n))
        (s.askAt .planned 2 pa part).2 t) ∧
  (∀ (c : BitVec 12) (s : State) (len : Nat) (signed : Bool) (h : LoadHalf) (addr : BitVec 56),
    (s.carrel c).wait = .load len signed [h] → h.stage = .mesh false → s.isLocal h.pa = true →
    addr.toNat / 64 = h.pa / 64 →
    Sys2Proof.Machine.exec (.unmappedTargetResponse ⟨.carrel c, addr⟩) s =
      .next (s.setCarrel c { s.carrel c with wait := .load len signed [{ h with stage := .mesh true }] })) ∧
  (∀ (c : BitVec 12) (s : State) (len : Nat) (signed : Bool) (h : LoadHalf) (r : Bool) (addr : BitVec 56),
    (s.carrel c).wait = .load len signed [h] → h.stage = .mesh r → s.isLocal h.pa = false →
    addr.toNat / 64 = h.pa / 64 →
    Sys2Proof.Machine.exec (.unmappedTargetResponse ⟨.carrel c, addr⟩) s =
      .next (((s.unask (.carrel c)).setCarrel c { s.carrel c with wait := .none }).fault c
        { code := 0x06, detail := 0, faddr := some h.va })) ∧
  (∀ (c : BitVec 12) (s : State) (i : BitVec 3) (e : MergeEntry), (s.carrel c).mb[i.toNat]? = some e →
    e.issued = true → e.acked = false → (s.carrel c).wait = .none →
    Sys2Proof.Machine.exec (.impreciseFault c (.entry i)) s =
      .next (s.setCarrel c { s.carrel c with
        mb := (s.carrel c).mb.eraseIdx i.toNat
        imprecise := some (match (s.carrel c).imprecise with
          | some f => { f with more := true }
          | none => { pa := e.block * 64, more := false, elem := none }) })) ∧
  ∀ (c : BitVec 12) (s : State) (addr : BitVec 56), (s.carrel c).mb = [] → s.isLocal addr.toNat = false →
    (∀ op a l, (s.carrel c).wait ≠ .vecAck op a l) →
    ∃ t, Sys2Proof.Machine.exec (.uncorrectableResponse (.carrel c) addr) s = .next t ∧
      t = { s with carrels := t.carrels, plans := t.plans } ∧ (∀ d, d ≠ c → t.carrel d = s.carrel d) ∧
      t.carrel c = { s.carrel c with
        wait := .rest, ended := false, wd := { (s.carrel c).wd with run := false } } ∧
      ∀ i p, s.plan i = some p → t.plan i =
        some (if ∃ x ∈ (s.carrel c).plan, x.toNat = i then { p with uncorr := true } else p)

/-! ## Engines and stacked memory -/

/-- The matrix array and the element engine of a carrel: a start marks the next descriptor in order as running, and
a completion takes it from its queue with its effect: the effect stays within memory, the tile flags, the stationary
operand, the counters and the first-NaN record of that carrel, the gauges and the plan's tokens. MCLR zeroes its
rows and flags, MLD writes no memory, and MSTR writes its tile rows only. The model's choice: a descriptor has its
effect when it ends (log entry 19). -/
def Obligations.ArrayAndElementEngines : Prop :=
  let list (k : Carrel) (eng : Nat) : List Issued := Tab.get [] k.queue eng
  (∀ (c : BitVec 12) (s : State) (x : Issued), (∀ y ∈ list (s.carrel c) 0, y.started = false) →
    (list (s.carrel c) 0).find? (fun y => decide (leAt y.desc 5 1 = (s.carrel c).arrayDone)) = some x →
    Sys2Proof.Machine.exec (.arrayDescriptorStart c) s = .next (s.setCarrel c { s.carrel c with
      queue := Tab.set [] (s.carrel c).queue 0 ((list (s.carrel c) 0).map fun y =>
        if y = x then { y with started := true } else y) })) ∧
  (∀ (c : BitVec 12) (s : State) (x : Issued), (list (s.carrel c) 0).find? (fun y => y.started) = some x →
    (s.carrel c).wait = .none →
    let d := arrDesc x.desc
    let at_ := outAddr c d.acc d.rowbase 0
    let len := d.rows * 16 * accSize d.acc
    ∃ t, Sys2Proof.Machine.exec (.arrayDescriptorDone c) s = .next t ∧
      t = { s with mem := t.mem, lost := t.lost, carrels := t.carrels } ∧ (∀ e, e ≠ c → t.carrel e = s.carrel e) ∧
      t.carrel c = { s.carrel c with
        queue := Tab.set [] (s.carrel c).queue 0 ((list (s.carrel c) 0).erase x)
        arrayDone := (s.carrel c).arrayDone + 1
        stationary := (t.carrel c).stationary, tiles := (t.carrel c).tiles, nan := (t.carrel c).nan
        count := { (s.carrel c).count with satArray := (t.carrel c).count.satArray } } ∧
      (leAt x.desc 4 1 = 0 → t.mem = s.mem ∧ (t.carrel c).tiles = (s.carrel c).tiles ∧
        ∃ st ∈ (t.carrel c).stationary, st.fmt.toNat = d.fmt.ty ∧ st.split = d.split) ∧
      (leAt x.desc 4 1 = 1 → tyBits d.acc = 8 * accSize d.acc → (t.carrel c).stationary = (s.carrel c).stationary ∧
        ∀ b, (b < at_ ∨ at_ + len ≤ b) → t.byte b = s.byte b) ∧
      (leAt x.desc 4 1 = 3 →
        (∀ b, t.byte b = if at_ ≤ b ∧ b < at_ + len then 0 else s.byte b) ∧
        (t.carrel c).stationary = (s.carrel c).stationary ∧
        ∀ i, Tab.get 0 (t.carrel c).tiles i = if i = d.tile then
            BitVec.ofNat 64 ((Tab.get 0 (s.carrel c).tiles i).toNat / 16 * 16) else Tab.get 0 (s.carrel c).tiles i)) ∧
  (∀ (c : BitVec 12) (s : State) (x : Issued) (l : List Issued), list (s.carrel c) 4 = x :: l → x.started = false →
    let tok := leAt x.desc 0x2C 2
    let free := tok = 0 ∨ ∃ i p, s.planOf c = some (i, p) ∧ tok ∈ p.tokens
    (free → Sys2Proof.Machine.exec (.elementDescriptorStart c) s = .next (s.setCarrel c { s.carrel c with
      queue := Tab.set [] (s.carrel c).queue 4 ({ x with started := true } :: l) })) ∧
    (¬ free → Sys2Proof.Machine.exec (.elementDescriptorStart c) s = .next s)) ∧
  ∀ (c : BitVec 12) (s : State) (x : Issued) (l : List Issued), list (s.carrel c) 4 = x :: l → x.started = true →
    (s.carrel c).wait = .none →
    let tok := leAt x.desc 0x2E 2
    ∃ t, Sys2Proof.Machine.exec (.elementDescriptorDone c) s = .next t ∧
      t = { s with mem := t.mem, lost := t.lost, carrels := t.carrels, plans := t.plans, gauges := t.gauges } ∧
      (∀ e, e ≠ c → t.carrel e = s.carrel e) ∧
      t.carrel c = { s.carrel c with
        queue := Tab.set [] (s.carrel c).queue 4 l, tiles := (t.carrel c).tiles, nan := (t.carrel c).nan
        count := { (s.carrel c).count with satElem := (t.carrel c).count.satElem } } ∧
      (∀ i p, s.plan i = some p → t.plan i = some (if tok ≠ 0 ∧ (s.planOf c).map (·.1) = some i then
        { p with tokens := if p.tokens.contains tok then p.tokens else p.tokens ++ [tok] } else p)) ∧
      ∀ i p, s.planOf c = some (i, p) → tok ≠ 0 → ∃ q, t.plan i = some q ∧ tok ∈ q.tokens

/-- The row engines and the data movers of a bay: a start marks the next descriptor as running, a completion takes
it from its queue with its effect. A mover's descriptor moves once its remote reads are answered and its tokens are
drawn, and completes once its writes are acknowledged; it writes no byte but those of its destination. A stopped one
stays at the head of its channel, marks the plan and makes a record. The model's own: a descriptor has its effect
when it ends, and its tokens are drawn first (log entries 19, 80). -/
def Obligations.RowEnginesAndMovers : Prop :=
  let list (k : Carrel) (eng : Nat) : List Issued := Tab.get [] k.queue eng
  (∀ (bay : BitVec 8) (s : State) (c : BitVec 12) (x : Issued), (∀ y ∈ s.rowIssued bay.toNat, y.2.started = false) →
    (s.rowIssued bay.toNat).find? (fun y => s.rowReady bay.toNat (leAt y.2.desc 6 1)) = some (c, x) →
    Sys2Proof.Machine.exec (.rowDescriptorStart bay) s = .next (s.setCarrel c { s.carrel c with
      queue := Tab.set [] (s.carrel c).queue 5 ((list (s.carrel c) 5).map fun y =>
        if y = x then { y with started := true } else y) })) ∧
  (∀ (bay : BitVec 8) (s : State) (c : BitVec 12) (x : Issued),
    (s.rowIssued bay.toNat).find? (fun y => y.2.started) = some (c, x) → (s.carrel c).wait = .none →
    ∃ t, Sys2Proof.Machine.exec (.rowDescriptorDone bay) s = .next t ∧
      t = { s with
        mem := t.mem, lost := t.lost, carrels := t.carrels, gauges := t.gauges, fresh := t.fresh
        census := { s.census with bays := t.census.bays } } ∧
      (∀ e, e ≠ c → t.carrel e = s.carrel e) ∧
      t.carrel c = { s.carrel c with
        queue := Tab.set [] (s.carrel c).queue 5 ((list (s.carrel c) 5).erase x), nan := (t.carrel c).nan }) ∧
  (let at_ (bay : BitVec 8) (ch : BitVec 3) (s : State) (c : BitVec 12) (q : Nat) (x : Issued) (l : List Issued) : Prop :=
     s.movHead bay ch = some (c, q, x) ∧ list (s.carrel c) q = x :: l ∧ x.dead = false
   let here (s : State) (d : MovDesc) (e : MovElem) : Prop := ∀ i, i < d.width / 4 → s.isLocal ((e.dst + i) / 2) = true
   (∀ (bay : BitVec 8) (ch : BitVec 3) (s : State) (c : BitVec 12) (q : Nat) (x : Issued) (l : List Issued),
     at_ bay ch s c q x l → x.started = false →
     let d := movDesc x.desc x.param
     (d.tokWait ≠ 0 → (∀ i p, s.planOf c = some (i, p) → d.tokWait ∉ p.tokens) →
       Sys2Proof.Machine.exec (.moverDescriptorStart bay ch) s = .next s) ∧
     ((d.tokWait = 0 ∨ ∃ i p, s.planOf c = some (i, p) ∧ d.tokWait ∈ p.tokens) → s.movMisses c ch d = [] →
       (∀ r ∈ d.rounds, ∀ a ∈ r, ∀ p ∈ a, ∀ e, s.movElem c ch p = some e → ∀ y ∈ e.src, s.isLocal (y.1 / 2) = true) →
       Sys2Proof.Machine.exec (.moverDescriptorStart bay ch) s = .next (s.setCarrel c { s.carrel c with
         queue := Tab.set [] (s.carrel c).queue q ({ x with started := true } :: l) }))) ∧
   (∀ (bay : BitVec 8) (ch : BitVec 3) (data : List Byte) (s : State) (c : BitVec 12) (q : Nat) (x : Issued)
     (l : List Issued) (rs : List (List (List MovElem))),
     at_ bay ch s c q x l → x.started = true → (s.carrel c).wait = .none →
     let d := movDesc x.desc x.param
     let ask := s.movAsk bay ch d rs
     (s.asked (.mover bay ch) = true → Sys2Proof.Machine.exec (.moverDescriptorDone bay ch data) s = .next s) ∧
     (s.asked (.mover bay ch) = false → x.moved = false → s.movRounds c ch d = some rs →
       data.length = s.remoteBytes d rs.flatten.flatten →
       (ask.1 = false → Sys2Proof.Machine.exec (.moverDescriptorDone bay ch data) s = .next ask.2) ∧
       (ask.1 = true → (∀ e ∈ rs.flatten.flatten, here s d e) →
         ∃ t, Sys2Proof.Machine.exec (.moverDescriptorDone bay ch data) s = .next t ∧
           (t.carrel c).queue = Tab.set [] (s.carrel c).queue q l ∧ (t.carrel c).pc = (s.carrel c).pc ∧
           (∀ e, e ≠ c → t.carrel e = s.carrel e) ∧
           (∀ i p, s.planOf c = some (i, p) → d.tokRel ≠ 0 → ∃ y, t.plan i = some y ∧ d.tokRel ∈ y.tokens) ∧
           ∀ b, (∀ e ∈ rs.flatten.flatten, ∀ i, i < d.width / 4 → localOf ((e.dst + i) / 2) ≠ b) →
             t.byte b = s.byte b)) ∧
     (s.asked (.mover bay ch) = false → x.moved = true →
       ∃ t, Sys2Proof.Machine.exec (.moverDescriptorDone bay ch data) s = .next t ∧
         t = { s with carrels := t.carrels, plans := t.plans } ∧ (∀ e, e ≠ c → t.carrel e = s.carrel e) ∧
         (t.carrel c).queue = Tab.set [] (s.carrel c).queue q l ∧
         ∀ i p, s.planOf c = some (i, p) → d.tokRel ≠ 0 → ∃ y, t.plan i = some y ∧ d.tokRel ∈ y.tokens)) ∧
   ∀ (bay : BitVec 8) (ch : BitVec 3) (cause : StopCause) (s : State) (c : BitVec 12) (q : Nat) (x : Issued)
     (l : List Issued),
     at_ bay ch s c q x l → x.started = true →
     (x.moved = true ∨ ∀ r ∈ (movDesc x.desc x.param).rounds, ∀ a ∈ r, ∀ p ∈ a, ∀ e, s.movElem c ch p = some e →
       here s (movDesc x.desc x.param) e) →
     ∃ t, Sys2Proof.Machine.exec (.descStop bay ch cause) s = .next t ∧
       (t.carrel c).queue = Tab.set [] (s.carrel c).queue q ({ x with dead := true } :: l) ∧
       (∀ e, e ≠ c → t.carrel e = s.carrel e) ∧ t.census.ring.num = s.census.ring.num + 1 ∧
       ∀ i p, s.planOf c = some (i, p) → t.plan i = some { p with late := true })

/-- Link records of a plan: a record whose token is released starts, and its completion stores what came back and
releases its token, whichever record of the plan it is. A reduction fragment from a child of the node's list is
kept; at the root the last one completes the reduction, the values of the list combined from left to right, an empty
one passing the other through. Over a module's carrels position 2j pairs with 2j + 1, an empty one passing the other
through: the four of an aligned group of slots, and one carrel of each die. The model's own: a record has its effect
when it ends, its tokens are drawn first, and a fragment without values is an empty position (log entries 19, 80,
83). -/
def Obligations.LinkRecordsAndReductions : Prop :=
  (∀ (slot : BitVec 8) (s : State) (p : Plan) (now : List LinkRun) (x : LinkRun) (l : List LinkRun),
    s.plan slot.toNat = some p → p.links = now ++ x :: l → (∀ y ∈ now, y.started = true) → x.started = false →
    let tok := leAt x.desc 0x24 2
    let ask := s.recAsk slot p.ctx (linkRec x.desc).loc (linkRec x.desc).ahead
    (tok = 0 ∨ tok ∈ p.tokens → ask.1 = false → Sys2Proof.Machine.exec (.linkRecordStart slot) s = .next ask.2) ∧
    (tok = 0 ∨ tok ∈ p.tokens → ask.1 = true →
      ∃ t, Sys2Proof.Machine.exec (.linkRecordStart slot) s = .next t ∧
        (∃ dead, t.plan slot.toNat = some { p with links := now ++ { x with started := true, dead := dead } :: l } ∧
          ((linkRec x.desc).kind = 3 → dead = false)) ∧
        t.carrels = s.carrels ∧ t.mem = s.mem ∧ t.tick = s.tick ∧ t.host = s.host) ∧
    (tok ≠ 0 → tok ∉ p.tokens → Sys2Proof.Machine.exec (.linkRecordStart slot) s = .next s)) ∧
  (∀ (slot : BitVec 8) (data : List Byte) (s : State) (p : Plan) (x : LinkRun) (now l : List LinkRun),
    s.plan slot.toNat = some p → p.links = now ++ x :: l → x.started = true → x.dead = false →
    let r := linkRec x.desc
    let ask := s.recAsk slot p.ctx r.loc r.back
    data.length = (if r.kind = 1 then r.length else if r.kind = 2 ∧ r.ret = true then operWidth r.op r.w else 0) →
    ask.1 = true →
    (data = [] ∨ ∃ pa part, s.recTrans p.ctx r.loc data.length 2 = some (pa, part) ∧ s.isLocal pa = true ∧
      s.present (localOf pa) data.length = true) →
    ∃ t, Sys2Proof.Machine.exec (.linkRecordDone slot ⟨now.length, data⟩) s = .next t ∧
      t = { ask.2 with mem := t.mem, lost := t.lost, plans := t.plans } ∧
      t.plan slot.toNat = some { p with
        links := now ++ l
        tokens := if r.tokRel = 0 ∨ r.tokRel ∈ p.tokens then p.tokens else p.tokens ++ [r.tokRel] } ∧
      (data = [] → t.mem = s.mem) ∧
      (∀ pa part, s.recTrans p.ctx r.loc data.length 2 = some (pa, part) →
        t.bytes (localOf pa) data.length = data ∧
        ∀ b, (b < localOf pa ∨ localOf pa + data.length ≤ b) → t.byte b = s.byte b)) ∧
  (∀ (l : Fin 12) (s u : State) (i : Item),
    s.takeRx l.val (fun i => decide (i.kind = 9) && decide (fieldN (i.unit 1) 0 16 ≠ 0xFFFF)) = some (i, u) →
    let num := fieldN (i.unit 1) 0 16
    let ty := fieldN (i.unit 1) 16 5
    let vals := unpackValues ty (fieldN (i.unit 1) 33 16) (i.drop 2)
    (l.val ∉ s.redOrder → Sys2Proof.Machine.exec (.reductionFragment l) s = .next u) ∧
    ∀ r : Reduction, u.chain.redOf num = some r → r.result = none → l.val ∈ s.redOrder → s.redParent = 15 →
      ∃ t, Sys2Proof.Machine.exec (.reductionFragment l) s = .next t ∧
        t = { u with chain := { u.chain with reds := t.chain.reds } } ∧
        ∃ q, t.chain.redOf num = some q ∧ Tab.get none q.parts l.val = some vals ∧
          (∀ n, n ≠ l.val → Tab.get none q.parts n = Tab.get none r.parts n) ∧
          ∀ x xs, s.redOrder.map (fun n => if n = l.val then some vals else Tab.get none r.parts n) = (x :: xs).map some →
            q.result = some (xs.foldl (fun a b => if a = [] then b else if b = [] then a else
              (a.zip b).map fun (y : Nat × Nat) => redAdd r.type y.1 y.2) x)) ∧
  ∀ (ty : Nat) (part : Nat → List Nat),
    let pair (a b : List Nat) : List Nat :=
      if a = [] then b else if b = [] then a else (a.zip b).map fun (y : Nat × Nat) => redAdd ty y.1 y.2
    (∀ i : Nat, i < 1024 → (∀ c, part c = [] ∨ c / 4 = i) →
      reduceModule ty part = pair (pair (part (4 * i)) (part (4 * i + 1))) (pair (part (4 * i + 2)) (part (4 * i + 3)))) ∧
    ∀ a b : Nat, a < 2048 → b < 2048 → (∀ c, part c = [] ∨ c = a ∨ c = 2048 + b) →
      reduceModule ty part = pair (part a) (part (2048 + b))

/-- Requests at a stack's controller: one that reaches a populated, running place with tokens in its bucket and none
of its bucket waiting draws its tokens and is performed at once: a read changes nothing else, a masked write stores
the enabled bytes, a memory-side operation replaces the operand. Without the tokens it waits, a planned one setting
PLAN_EXH; outside the populated memory nothing changes; a waiting request is served once its bucket holds its
tokens. The re-read, the patrol scrub, the temperature and the self-refresh of a stack. Where a stack offset lies:
row, hashed pseudo-channel and bank, granule and byte; and the decoded address of the example. A reading of the
model: THROTTLE follows the temperature at once (log entry 81). -/
def Obligations.HbmRequests : Prop :=
  (let drawn (k : Stack) (acc : HbmAccess) (n : Nat) : Stack :=
     let p := acc.part.toNat
     match acc.cls with
     | .planned => { k with
         planBkt := Tab.set 0 k.planBkt p (Tab.get 0 k.planBkt p - n)
         planNow := Tab.set 0 k.planNow p (Tab.get 0 k.planNow p + n) }
     | .unplanned => { k with unplBkt := Tab.set 0 k.unplBkt p (Tab.get 0 k.unplBkt p - n) }
     | .free => k
   let bucket (k : Stack) (acc : HbmAccess) : Nat :=
     match acc.cls with
     | .planned => Tab.get 0 k.planBkt acc.part.toNat
     | .unplanned => Tab.get 0 k.unplBkt acc.part.toNat
     | .free => 2
   let cmd (acc : HbmAccess) (w : HbmWork) : Instr := match w with
     | .read => .hbmRead acc
     | .write data mask => .hbmWrite acc data mask
     | .oper op w data cmp => .memorySideOperation acc op w data cmp
   let legal (w : HbmWork) : Prop := match w with
     | .read => True
     | .write data mask => data.length = 64 ∧ mask.length = 64
     | .oper op _ _ _ => op ≠ 15
   let cost (w : HbmWork) : Nat := match w with | .oper .. => 2 | _ => 1
   (∀ (acc : HbmAccess) (w : HbmWork) (s : State), legal w → s.reaches { acc := acc, work := w } = true →
     let i := s.stackOf acc.addr.toNat
     let k := s.stack i
     let blk := acc.addr.toNat / 64 * 64
     k.selfref = false →
     ((∀ r ∈ k.waiting, r.acc.part ≠ acc.part ∨ r.acc.cls ≠ acc.cls) → cost w ≤ bucket k acc → acc.ecc = .clean →
       s.lost = [] →
       ∃ t, Sys2Proof.Machine.exec (cmd acc w) s = .next t ∧
         match w with
         | .read => t = s.modStack i (drawn · acc 1)
         | .write data mask =>
           t = { s.modStack i (drawn · acc 1) with mem := t.mem } ∧
           (∀ j, j < 64 → t.byte (blk + j) = if mask.getD j false then data.getD j 0 else s.byte (blk + j)) ∧
           ∀ b, (b < blk ∨ blk + 64 ≤ b) → t.byte b = s.byte b
         | .oper op w data cmp =>
           let n := operWidth op w
           let r := operNew op w (s.le acc.addr.toNat n) data.toNat cmp.toNat
           (r.2.sat = false ∨ s.census.ring.en = false →
             t.le acc.addr.toNat n = r.1 % 256 ^ n ∧
             ∀ b, (b < acc.addr.toNat ∨ acc.addr.toNat + n ≤ b) → t.byte b = s.byte b) ∧
           t.carrels = s.carrels ∧
           (r.2.sat = false → t = { s with hbm := t.hbm, mem := t.mem } ∧ (∀ j, j ≠ i → t.stack j = s.stack j) ∧
             t.stack i = { drawn k acc 2 with nanProd := satAdd k.nanProd r.2.nan, ovf := satAdd k.ovf r.2.ovf })) ∧
     (acc.cls ≠ .free →
       ((∃ r ∈ k.waiting, r.acc.part = acc.part ∧ r.acc.cls = acc.cls) ∨ bucket k acc < cost w) →
       Sys2Proof.Machine.exec (cmd acc w) s = .next (s.modStack i fun k =>
         { k with
           waiting := k.waiting ++ [{ acc := acc, work := w }]
           planExh := if acc.cls = .planned then Tab.set false k.planExh acc.part.toNat true else k.planExh }))) ∧
   (∀ (acc : HbmAccess) (w : HbmWork) (s : State), legal w → s.hbmEnd ≤ acc.addr.toNat →
     Sys2Proof.Machine.exec (cmd acc w) s = .next s) ∧
   ∀ (i : BitVec 3) (part : BitVec 6) (planned : Bool) (s : State) (r : HbmReq),
     (s.stack i.toNat).selfref = false →
     (s.stack i.toNat).waiting.find? (fun r => decide (r.acc.part = part) &&
       decide (r.acc.cls = if planned then .planned else .unplanned)) = some r →
     (bucket (s.stack i.toNat) r.acc < cost r.work →
       Sys2Proof.Machine.exec (.tokenWaitServed i part planned) s = .next s) ∧
     (1 ≤ bucket (s.stack i.toNat) r.acc → r.work = .read → r.acc.ecc = .clean → s.lost = [] →
       Sys2Proof.Machine.exec (.tokenWaitServed i part planned) s = .next (s.modStack i.toNat fun k =>
         drawn { k with waiting := k.waiting.erase r } r.acc 1))) ∧
  ((∀ (addr : BitVec 44) (clean : Bool) (s : State) (x : HbmAccess),
     let i := s.stackOf addr.toNat
     (s.stack i).reread.find? (fun x => decide (x.addr = addr)) = some x →
     ∃ t, Sys2Proof.Machine.exec (.hbmReread addr clean) s = .next t ∧
       (t.stack i).reread = (s.stack i).reread.erase x ∧ t.census.ring.num = s.census.ring.num + 1 ∧
       t.carrels = s.carrels ∧
       (s.census.ring.en = false → t.mem = s.mem ∧ (clean = true → t.lost = s.lost) ∧
         (clean = false → Tab.get false t.lost (addr.toNat / 8) = true))) ∧
   (∀ (i : BitVec 3) (addr : BitVec 44) (n : BitVec 4) (s : State), (s.stack i.toNat).scrubEn = true →
     s.stackOf addr.toNat = i.toNat → addr.toNat < s.hbmEnd →
     Sys2Proof.Machine.exec (.patrolScrubRead i addr .clean) s = .next s ∧
     ((s.stack i.toNat).corrPeriod + n.toNat ≤ s.census.corrLimit.toNat →
       Sys2Proof.Machine.exec (.patrolScrubRead i addr (.corrected n)) s = .next (s.modStack i.toNat fun k =>
         { k with corr := satAdd k.corr n.toNat, corrPeriod := k.corrPeriod + n.toNat })) ∧
     ∃ t, Sys2Proof.Machine.exec (.patrolScrubRead i addr .uncorrectable) s = .next t ∧
       (t.stack i.toNat).uncorr = satInc (s.stack i.toNat).uncorr ∧
       ∃ x, (t.stack i.toNat).reread = (s.stack i.toNat).reread ++ [x] ∧ x.addr = addr) ∧
   (∀ (i : BitVec 3) (temp : BitVec 16) (s : State),
     Sys2Proof.Machine.exec (.hbmTempRise i temp) s = .next (s.modStack i.toNat fun k => { k with
       temp := temp
       tmax := if k.tmax.toInt < temp.toInt then temp else k.tmax
       refrate :=
         let r : BitVec 2 := if temp.toInt ≤ 1360 then 0 else if temp.toInt ≤ 1520 then 1 else 2
         if k.refrate < r then r else k.refrate
       throttle := decide (1680 < temp.toInt) })) ∧
   ∀ (i : BitVec 3) (s : State),
     ((s.stack i.toNat).selfref = true → Sys2Proof.Machine.exec (.selfRefreshExit i) s =
       .next (s.modStack i.toNat fun k => { k with exiting := true })) ∧
     ((s.stack i.toNat).selfref = true → (s.stack i.toNat).exiting = true → (s.stack i.toNat).waiting = [] →
       Sys2Proof.Machine.exec (.selfRefreshExitDone i) s =
         .next (s.modStack i.toNat fun k => { k with selfref := false, exiting := false, waiting := [] })) ∧
     ((s.stack i.toNat).selfref = false → Sys2Proof.Machine.exec (.selfRefreshExitDone i) s = .next s)) ∧
  (∀ s : State, s.halfMode = false → s.hbmPlaceOf 0x0012345B40 =
     { stack := 5, channel := 24, pch := 48, bank := 6, row := 18, granule := 3, byte := 0x40 }) ∧
  ∀ stack so : Nat,
    let x := decodeSo stack so
    x.channel = x.pch / 2 ∧ x.pch < 64 ∧ x.bank < 32 ∧ x.granule < 4 ∧ x.byte < 256 ∧
    so = x.row * 2 ^ 21 + (x.bank ^^^ (x.row / 64 % 32)) * 2 ^ 16 + (x.pch ^^^ (x.row % 64)) * 2 ^ 10 +
      x.granule * 2 ^ 8 + x.byte

/-- The memory-side operations: integer adds, signed minima and maxima on 32 and 64 bits, FP32, FP64 and paired BF16
adds rounded to nearest even, the FX64 add, the bitwise operations, swap and compare-and-swap. -/
def Obligations.MemorySideOperations : Prop :=
  let signed (n x : Nat) : Int := if x < 2 ^ (8 * n - 1) then (x : Int) else (x : Int) - 2 ^ (8 * n)
  let fp (f : Fmt) (x y : Nat) : Nat := f.rne ((f.decode x).add (f.decode y)).toVal
  ∀ (w : Bool) (o x c : Nat),
    let m := if w then 2 ^ 64 else 2 ^ 32
    let new (op : BitVec 4) : Nat := (operNew op w o x c).1
    (o < 2 ^ 32 →
      new 0 = (o + x) % 2 ^ 32 ∧
      new 1 = (if signed 4 (x % 2 ^ 32) < signed 4 o then x % 2 ^ 32 else o) ∧
      new 2 = (if signed 4 o < signed 4 (x % 2 ^ 32) then x % 2 ^ 32 else o) ∧
      new 6 = fp .f32 o (x % 2 ^ 32) ∧
      new 9 = fp .bf16 (o % 65536) (x % 65536) + 65536 * fp .bf16 (o / 65536) (x % 2 ^ 32 / 65536)) ∧
    (o < 2 ^ 64 →
      new 3 = (o + x) % 2 ^ 64 ∧
      new 4 = (if signed 8 (x % 2 ^ 64) < signed 8 o then x % 2 ^ 64 else o) ∧
      new 5 = (if signed 8 o < signed 8 (x % 2 ^ 64) then x % 2 ^ 64 else o) ∧
      new 7 = fp .f64 o (x % 2 ^ 64) ∧
      new 8 = (fxAdd o (x % 2 ^ 64)).1) ∧
    (o < m →
      new 10 = o &&& (x % m) ∧ new 11 = o ||| (x % m) ∧ new 12 = o ^^^ (x % m) ∧ new 13 = x % m ∧
      new 14 = (if o = c % m then x % m else o))

/-! ## Links, chain and translation -/

/-- The states of a link: training, sleep and waking, lane drops (to FAILED below seven lanes), retraining, and
their ends, with nothing waiting on the transmit side. A reading of the model: when the schedules leave a link idle
(log entry 79). -/
def Obligations.LinkStates : Prop :=
  let lanes (m : BitVec 8) : Nat := ((List.range 8).filter fun i => m.getLsbD i).length
  let enough (r : TrainResult) : Prop := r.noPeer = false ∧ 7 ≤ lanes r.tlanes ∧ 7 ≤ lanes r.rlanes
  ∀ (l : Fin 12) (s : State),
    let k := s.link l.val
    (k.en = true → k.state = 0 → Sys2Proof.Machine.exec (.linkTrain l) s =
      .next (s.modLink l.val fun k => { k with state := 1 })) ∧
    (k.state = 2 → k.sleepAllow = true → s.linkIdle l.val = true → Sys2Proof.Machine.exec (.linkSleep l) s =
      .next (s.modLink l.val fun k => { k with state := 3 })) ∧
    (k.sleepAllow = false ∨ s.linkIdle l.val = false → Sys2Proof.Machine.exec (.linkSleep l) s = .next s) ∧
    (k.state = 3 → Sys2Proof.Machine.exec (.linkWake l) s = .next (s.modLink l.val fun k => { k with state := 2 })) ∧
    (∀ r : TrainResult, k.state = 1 → k.txq = [] → enough r → (s.func (.link l)).state = 1 →
      ∃ t, Sys2Proof.Machine.exec (.linkTrainDone l r) s = .next t ∧
        t = { s with links := t.links, dict := { s.dict with funcs := t.dict.funcs } } ∧
        (∀ m, m ≠ l.val → t.link m = s.link m) ∧
        (t.func (.link l)).state = 2 ∧ (t.func (.link l)).fault = false ∧
        t.link l.val = { k with
          state := 2, tlanes := r.tlanes, rlanes := r.rlanes, short := r.short, opened := r.opened, eqfail := r.eqfail
          delay := r.delay, serial := r.serial, plink := r.plink, txSeq := 0, rxSeq := 0, replay := [], rxPart := []
          tries := 0, nak := false, dropReq := 0, dropTx := false, dropRx := false }) ∧
    (∀ r : TrainResult, k.state = 1 → ¬ enough r →
      ∃ t, Sys2Proof.Machine.exec (.linkTrainDone l r) s = .next t ∧ (t.link l.val).state = 6 ∧
        t.census.ring.num = s.census.ring.num + 1 ∧ t.carrels = s.carrels) ∧
    (∀ lane : BitVec 3, (k.state = 2 ∨ k.state = 3 ∨ k.state = 4) → k.rlanes.getLsbD lane.toNat = true →
      7 < lanes k.rlanes →
      ∃ t, Sys2Proof.Machine.exec (.laneDrop l lane) s = .next t ∧ t.census.ring.num = s.census.ring.num + 1 ∧
        t.link l.val = { k with
          state := 4, dropRx := true, dropped := true, linkev := true, evTick := true, drops := satInc k.drops
          rlanes := k.rlanes &&& ~~~ (1#8 <<< lane.toNat), runfail := k.runfail ||| (1#8 <<< lane.toNat)
          dropReq := BitVec.ofNat 4 (lane.toNat + 1) }) ∧
    (∀ lane : BitVec 3, (k.state = 2 ∨ k.state = 3 ∨ k.state = 4) → k.rlanes.getLsbD lane.toNat = true →
      lanes k.rlanes ≤ 7 →
      ∃ t, Sys2Proof.Machine.exec (.laneDrop l lane) s = .next t ∧ (t.link l.val).state = 6) ∧
    (∀ delay : BitVec 24, k.state = 4 → k.replay = [] → k.txq = [] →
      ∃ t, Sys2Proof.Machine.exec (.laneDropDone l delay) s = .next t ∧ t = { s with links := t.links } ∧
        (∀ m, m ≠ l.val → t.link m = s.link m) ∧
        t.link l.val = { k with state := 2, dropTx := false, dropRx := false, delay := delay, dropReq := 0 }) ∧
    (k.dropReq ≠ 0 → (k.state = 2 ∨ k.state = 3 ∨ k.state = 4) →
      ∃ t, Sys2Proof.Machine.exec (.dropRequestTimeout l) s = .next t ∧ t.census.ring.num = s.census.ring.num + 1 ∧
        t.link l.val = { k with
          dropReq := 0, state := 5, dropTx := false, dropRx := false, retrained := true, linkev := true
          evTick := true, retrains := satInc k.retrains, tries := 0 }) ∧
    ((k.state = 2 ∨ k.state = 3 ∨ k.state = 4) →
      ∃ t, Sys2Proof.Machine.exec (.retrain l) s = .next t ∧ t.census.ring.num = s.census.ring.num + 1 ∧
        t.link l.val = { k with
          state := 5, dropTx := false, dropRx := false, retrained := true, linkev := true, evTick := true
          retrains := satInc k.retrains, tries := 0 }) ∧
    (∀ r : TrainResult, k.state = 5 → k.txq = [] → enough r →
      ∃ t, Sys2Proof.Machine.exec (.retrainDone l r) s = .next t ∧
        (t.link l.val).state = 2 ∧ (t.link l.val).tlanes = r.tlanes ∧ (t.link l.val).rlanes = r.rlanes ∧
        (t.link l.val).delay = r.delay ∧ (t.link l.val).replay = k.replay ∧ (t.link l.val).retrain = false ∧
        t.sent.length = s.sent.length + k.replay.length) ∧
    (∀ r : TrainResult, k.state = 5 → ¬ enough r →
      ∃ t, Sys2Proof.Machine.exec (.retrainDone l r) s = .next t ∧ (t.link l.val).state = 6)

/-- A flit that arrives on a link that is open, or drops a lane of the other direction only: corrections are
counted; a bad CRC only asks for a resend; an acknowledged flit and those before it leave the replay buffer; one in
sequence adds its items to those received, one out of sequence none. -/
def Obligations.FlitsAreReceivedInOrder : Prop :=
  ∀ (l : Fin 12) (s : State) (f : FlitIn), f.payload.length = 29 →
    let k := s.link l.val
    let h := f.hdr
    let seq : BitVec 12 := h.extractLsb' 0 12
    let ack : BitVec 12 := h.extractLsb' 12 12
    let counted : Link := { k with fecCorr := satAdd k.fecCorr f.fecCorr.toNat }
    let receives := k.state = 2 ∨ k.state = 3 ∨ (k.state = 4 ∧ k.dropRx = false)
    (¬ receives → Sys2Proof.Machine.exec (.flit l f) s = .next s) ∧
    (receives →
      (f.crcOk = false → ∃ t, Sys2Proof.Machine.exec (.flit l f) s = .next t ∧ t = { s with links := t.links } ∧
        (∀ m, m ≠ l.val → t.link m = s.link m) ∧ t.link l.val = { counted with nak := true }) ∧
      (f.crcOk = true → h.getLsbD 24 = false → h.extractLsb' 41 4 = 0#4 → k.txq = [] →
        ∃ t, Sys2Proof.Machine.exec (.flit l f) s = .next t ∧ t = { s with links := t.links } ∧
          (∀ m, m ≠ l.val → t.link m = s.link m) ∧
          (let j := t.link l.val
           ((∀ x ∈ k.replay, x.1 ≠ ack) → j.replay = k.replay ∧ j.tries = k.tries) ∧
           (∀ old u rest, k.replay = old ++ (ack, u) :: rest → (∀ x ∈ old, x.1 ≠ ack) → j.replay = rest ∧ j.tries = 0) ∧
           (seq ≠ k.rxSeq → j = { counted with replay := j.replay, tries := j.tries }) ∧
           (seq = k.rxSeq →
             j = { counted with
               replay := j.replay, tries := j.tries, rxSeq := k.rxSeq + 1, rxPart := j.rxPart, rx := j.rx } ∧
             ∀ i : Item, k.rxPart = [] → i = f.payload.take (h.extractLsb' 36 5).toNat → i ≠ [] →
               i.kind ≠ 9 → i.kind ≤ 12 → i.length = itemUnits i.hdr →
               j.rx = k.rx ++ [i] ∧ j.rxPart = []))))

/-- The items that a link delivers. One for another chip is passed on. A read of present memory is answered with its
64 bytes once its tokens are drawn; a write is performed and acknowledged; an atomic is performed and answered;
absent memory gives an error response. Answers close the request they name; an error response faults the carrel that
asked. Barriers and census strobes of the chain tree: an arrival is noted, a release drops the arrivals, a strobe
names the boundary of the next snapshot and goes on down the tree. A reading of the model: an item draws its tokens
first (log entry 80). -/
def Obligations.LinkItems : Prop :=
  (∀ (l : Fin 12) (s : State) (i : Item) (n : Nat), n ≤ 6 →
     (s.link l.val).rx.find? (fun (x : Item) => decide (fieldN (x.headD 0) 0 4 = n)) = some i →
     let ask : Bool × State := if n ≤ 2 ∧ i.dst = s.ownChip then
         s.askOne (if i.planned then .planned else .unplanned) (if n = 2 then 2 else 1) (localOf (i.unit 1).toNat) i.part
       else (true, s)
     let u := ask.2.modLink l.val fun k => { k with rx := k.rx.erase i }
     let cmd : Instr := match n with
       | 0 => .readRequest l | 1 => .write l | 2 => .atomicItem l | 3 => .readResponse l
       | 4 => .writeAcknowledgement l | 5 => .atomicResponse l | _ => .errorResponse l
     let la := localOf (i.unit 1).toNat
     let blk := la / 64 * 64
     let answer (kind : Nat) (more : List Word) : Item :=
       itemHdr kind s.ownChip i.src i.tag i.part i.planned 0 i.ret i.w :: more
     let error (code : Nat) : Item :=
       [itemHdr 6 s.ownChip i.src i.tag i.part i.planned 0 false false,
        BitVec.ofNat 64 (code + (i.unit 1).toNat % 2 ^ 60 / 16 * 16)]
     (i.dst ≠ s.ownChip → Sys2Proof.Machine.exec cmd s = .next (u.sendItem i)) ∧
     (ask.1 = false → Sys2Proof.Machine.exec cmd s = .next ask.2) ∧
     (i.dst = s.ownChip → ask.1 = true →
       (n = 0 → s.present blk 64 = true → s.lostIn blk 64 = false →
         Sys2Proof.Machine.exec cmd s = .next (u.sendItem (answer 3
           ((upto 8).map fun w => BitVec.ofNat 64 (bytesToNat (u.memRead (blk + 8 * w) 8)))))) ∧
       (n = 0 → s.present blk 64 = false → Sys2Proof.Machine.exec cmd s = .next (u.sendItem (error 1))) ∧
       (n = 0 → s.present blk 64 = true → s.lostIn blk 64 = true →
         Sys2Proof.Machine.exec cmd s = .next (u.sendItem (error 2))) ∧
       (n = 1 → s.present blk 64 = true → (∀ b o, regionOf blk ≠ .regs b o) → s.lost = [] →
         ∃ v : State, Sys2Proof.Machine.exec cmd s = .next (v.sendItem (answer 4 [])) ∧ v = { u with mem := v.mem } ∧
           (∀ j, j < 64 → v.byte (blk + j) = if (i.unit 2).getLsbD j then
               BitVec.ofNat 8 ((i.unit (3 + j / 8)).toNat / 256 ^ (j % 8)) else s.byte (blk + j)) ∧
           ∀ b, (b < blk ∨ blk + 64 ≤ b) → v.byte b = s.byte b) ∧
       (n = 1 → s.present blk 64 = false → Sys2Proof.Machine.exec cmd s = .next (u.sendItem (error 1))) ∧
       (n = 2 → regionOf la = .hbm → s.present la (operWidth i.op i.w) = true → la % operWidth i.op i.w = 0 →
         s.lost = [] → i.op ≠ 8 → i.op ≠ 15 →
         let old := s.le la (operWidth i.op i.w)
         ∃ v : State, Sys2Proof.Machine.exec cmd s = .next (v.sendItem (answer 5 (if i.ret then [BitVec.ofNat 64 old] else []))) ∧
           v.le la (operWidth i.op i.w) =
             (operNew i.op i.w old (i.unit 2).toNat (i.unit 3).toNat).1 % 256 ^ operWidth i.op i.w ∧
           v.carrels = s.carrels ∧ v.chain = s.chain ∧
           ∀ b, (b < la ∨ la + operWidth i.op i.w ≤ b) → v.byte b = s.byte b) ∧
       (∀ (who : Requester) (x : Nat × Requester), 3 ≤ n → n ≤ 5 →
         s.chain.open_.find? (fun x => decide (x.1 = i.tag.toNat)) = some x →
         x.2 = who → (∀ ctx q, who ≠ .intake ctx q) → (∀ e, who ≠ .copyEngine e) →
         Sys2Proof.Machine.exec cmd s =
           .next { u with chain := { u.chain with open_ := u.chain.open_.erase x } }) ∧
       (∀ (c : BitVec 12) (x : Nat × Requester) (len : Nat) (signed : Bool) (h : LoadHalf), n = 6 →
         s.chain.open_.find? (fun x => decide (x.1 = i.tag.toNat)) = some x → x.2 = .carrel c →
         (s.carrel c).wait = .load len signed [h] → h.ready = false → h.pa / 64 = (i.unit 1).toNat % 2 ^ 56 / 64 →
         (i.unit 1).toNat % 16 ≠ 2 →
         Sys2Proof.Machine.exec cmd s =
           .next ((({ u with chain := { u.chain with open_ := u.chain.open_.erase x } } : State).setCarrel c
             { s.carrel c with wait := .none }).fault c { code := 0x06, detail := 0, faddr := some h.va })))) ∧
  (∀ (l : Fin 12) (s : State) (i : Item),
     let u := s.modLink l.val fun k => { k with rx := k.rx.erase i }
     let n := (i.unit 1).toNat % 65536
     let downs : List Nat :=
       if s.chain.up || s.chain.setup then (upto 12).filter fun l => s.chain.live.down.getLsbD l else []
     ((s.link l.val).rx.find? (fun (x : Item) => decide (fieldN (x.headD 0) 0 4 = 8)) = some i →
       let old := ((s.chain.barriers.find? fun x => decide (x.1 = n)).map (·.2)).getD []
       let now := if old.contains l.val then old else old ++ [l.val]
       ((i.unit 1).getLsbD 16 = false → ((∀ x ∈ now, x < 12) ∨ ∃ x ∈ downs, x ∉ now) →
         Sys2Proof.Machine.exec (.barrier l) s = .next { u with chain := { u.chain with
           barriers := (s.chain.barriers.filter fun x => decide (x.1 ≠ n)) ++ [(n, now)] } }) ∧
       ((i.unit 1).getLsbD 16 = true → downs = [] →
         Sys2Proof.Machine.exec (.barrier l) s = .next { u with chain := { u.chain with
           barriers := s.chain.barriers.filter fun x => decide (x.1 ≠ n) } })) ∧
     ((s.link l.val).rx.find? (fun (x : Item) => decide (fieldN (x.headD 0) 0 4 = 10)) = some i →
       ∃ t, Sys2Proof.Machine.exec (.censusStrobe l) s = .next t ∧
         t.census = { s.census with due := s.census.due ++ [i.unit 1], next := i.unit 1 } ∧
         t.carrels = s.carrels ∧ t.mem = s.mem ∧
         (downs = [] → t = { u with census := t.census })))

/-- Chain set-up and rejoin: the refusals with their reasons, the start of a set-up on a master and on a slave, the
confirmations that end it on the master and go on up from a slave, its timeout, and the start of a rejoin. Readings
of the model: when a slave confirms and what it sends on (log entries 89, 90). -/
def Obligations.ChainSetupAndRejoin : Prop :=
  (∀ (src : Src) (s : State), (∀ f, src ≠ .vf f) →
    let active := ∃ x ∈ s.plans, x.2.state = .ready ∨ x.2.state = .running
    let cfg := s.chain.cfg
    let start : Chain := { s.chain with
      live := cfg, setup := true, up := false, confs := [], depth := 0, maxDepth := 0, minTick := 0 }
    let ready := ∀ l, l < 12 → cfg.down.getLsbD l = true ∨ cfg.up.toNat = l → (s.link l).state = 2
    (active → Sys2Proof.Machine.exec (.chainSetup src) s =
        .next { s with chain := { s.chain with rej := true, reason := 1 } } ∧
      Sys2Proof.Machine.exec (.join src) s = .next { s with chain := { s.chain with rej := true, reason := 1 } }) ∧
    (¬ active → (cfg ≠ s.chain.live ∨ s.chain.live.master = true) →
      Sys2Proof.Machine.exec (.join src) s = .next { s with chain := { s.chain with rej := true, reason := 2 } }) ∧
    (¬ active → cfg = s.chain.live → s.chain.live.master = false →
      ∃ t, Sys2Proof.Machine.exec (.join src) s = .next t ∧
        t = { s with
          links := t.links, chain := { s.chain with join := true, up := false }, tick := { s.tick with locked := false } } ∧
        (∀ m, m ≠ s.chain.live.up.toNat → t.link m = s.link m) ∧
        t.link s.chain.live.up.toNat = { s.link s.chain.live.up.toNat with good := 0 }) ∧
    (¬ active → ¬ ready ∨ (cfg.master = false ∧ cfg.up = 0xF) →
      Sys2Proof.Machine.exec (.chainSetup src) s = .next { s with chain := { s.chain with rej := true, reason := 2 } }) ∧
    (¬ active → ready → cfg.master = true → (∃ l, l < 12 ∧ cfg.down.getLsbD l = true) →
      Sys2Proof.Machine.exec (.chainSetup src) s = .next { s with ownChip := cfg.chip, chain := start }) ∧
    (¬ active → ready → cfg.master = false → cfg.up ≠ 0xF →
      ∃ t, Sys2Proof.Machine.exec (.chainSetup src) s = .next t ∧
        t = { s with ownChip := cfg.chip, chain := start, links := t.links, tick := { s.tick with locked := false } } ∧
        (∀ m, m ≠ cfg.up.toNat → t.link m = s.link m) ∧
        t.link cfg.up.toNat = { s.link cfg.up.toNat with good := 0 })) ∧
  (∀ s : State,
    (s.chain.setup = true → Sys2Proof.Machine.exec .setupTimeout s =
      .next { s with chain := { s.chain with setup := false, rej := true, reason := 5 } }) ∧
    (s.chain.setup = false → Sys2Proof.Machine.exec .setupTimeout s = .next s)) ∧
  ∀ (l : Fin 12) (depth : BitVec 12) (chip : Nat) (below : List Nat) (s : State), s.chain.setup = true →
    s.chain.live.down.getLsbD l.val = true → s.chain.confs = [] →
    let c := s.chain
    let chips := chip :: below
    let confs := [(l.val, depth.toNat, chips)]
    let only := ∀ m, m < 12 → c.live.down.getLsbD m = true → m = l.val
    let mt := ceilDiv (2 * (depth.toNat * 51143 * 7 + max 3 c.live.sflits.toNat * 8000) + 1200 * 7000) 7000
    ∃ t, Sys2Proof.Machine.exec (.setupConfirmation l depth chips) s = .next t ∧
      t = { s with links := t.links, chain := t.chain, sent := t.sent } ∧ (∀ m, m ≠ l.val → t.link m = s.link m) ∧
      t.link l.val = { s.link l.val with pchip := BitVec.ofNat 12 chip } ∧
      (¬ only → t.chain = { c with confs := confs } ∧ t.sent = s.sent) ∧
      (only → c.live.master = true → t.sent = s.sent ∧
        (¬ (c.live.chip.toNat :: chips).Nodup →
          t.chain = { c with confs := confs, setup := false, rej := true, reason := 4 }) ∧
        ((c.live.chip.toNat :: chips).Nodup → s.tick.len.toNat < mt →
          t.chain = { c with confs := confs, setup := false, rej := true, reason := 3 }) ∧
        ((c.live.chip.toNat :: chips).Nodup → mt ≤ s.tick.len.toNat →
          t.chain = { c with
            confs := [], setup := false, up := true, depth := 0, maxDepth := depth, minTick := BitVec.ofNat 20 mt })) ∧
      (only → c.live.master = false → t.chain = { c with confs := confs } ∧
        t.sent = if c.depth = 0 then s.sent else
          .confirmation c.live.up.toNat (max c.depth.toNat depth.toNat) (c.live.chip.toNat :: chips) :: s.sent)

/-- Tick marks on a slave's timing upstream link: the mark that locks it gives it the tick's lengths; in a set-up
the first with SETUP = 1 gives it its DEPTH and the tick number and the first with SETUP = 0 ends the set-up; in a
rejoin a mark brings it back. A slave that has lost alignment follows marks again only in a set-up or a rejoin.
Holdover begins when marks stop; past its limit alignment is lost, with a record. Readings of the model: when a
slave confirms, what it sends on, and that alignment lost ends UP (log entries 89, 90, 94). -/
def Obligations.TickMarksAndHoldover : Prop :=
  (∀ (l : Fin 12) (mark : Mark) (s : State) (i : Item),
    (s.link l.val).rx.find? (fun (x : Item) => decide (fieldN (x.headD 0) 0 4 = 7)) = some i →
    let c := s.chain
    let k := s.link l.val
    let w := i.unit 2
    let locks := s.tick.locked = true ∨ (mark.close = true ∧ 15 ≤ k.good)
    let follows := c.live.master = false ∧ c.live.up.toNat = l.val ∧ s.tick.alignDue = false ∧
      (c.up = true ∨ c.setup = true ∨ c.join = true)
    let read : Link := { k with rx := k.rx.erase i, good := if mark.close then k.good + 1 else 0 }
    let tick : TickUnit := { s.tick with
      len := w.extractLsb' 0 20, lenNext := w.extractLsb' 20 20, lenAt := i.unit 3
      armed := if w.getLsbD 40 then some (i.unit 3, w.extractLsb' 20 20) else none, holdover := false, locked := true }
    ∃ t, Sys2Proof.Machine.exec (.tickMark l mark) s = .next t ∧
      t = { s with links := t.links, tick := t.tick, chain := t.chain, sent := t.sent } ∧
      (∀ m, m ≠ l.val → t.link m = s.link m) ∧
      (¬ follows → t = { s with links := t.links } ∧ t.link l.val = { k with rx := k.rx.erase i }) ∧
      (follows → ¬ locks → t.chain = c ∧ t.sent = s.sent ∧ t.link l.val = read ∧
        t.tick = { s.tick with holdover := false, locked := false }) ∧
      (follows → locks → c.setup = true → w.getLsbD 53 = true → c.depth = 0 →
        t.tick = { tick with no := i.unit 1 } ∧ t.chain = { c with depth := w.extractLsb' 41 12 + 1 } ∧
        t.link l.val = { read with pchip := i.src } ∧
        ((∃ m, m < 12 ∧ c.live.down.getLsbD m = true ∧ ∀ x ∈ c.confs, x.1 ≠ m) → t.sent = s.sent) ∧
        (c.live.down = 0 → c.confs = [] → w.extractLsb' 41 12 + 1 ≠ (0 : BitVec 12) →
          t.sent = .confirmation l.val (w.extractLsb' 41 12 + 1).toNat [c.live.chip.toNat] :: s.sent)) ∧
      (follows → locks → c.setup = true → w.getLsbD 53 = false → c.depth ≠ 0 →
        t.tick = tick ∧ t.chain = { c with setup := false, up := true } ∧ t.sent = s.sent ∧ t.link l.val = read) ∧
      (follows → locks → c.setup = false → c.join = true →
        t.tick = { tick with no := i.unit 1, alignLost := false } ∧ t.sent = s.sent ∧ t.link l.val = read ∧
        t.chain = { c with join := false, up := true, depth := w.extractLsb' 41 12 + 1 }) ∧
      (follows → locks → c.setup = false → c.join = false →
        t.tick = tick ∧ t.chain = c ∧ t.sent = s.sent ∧ t.link l.val = read)) ∧
  (∀ (l : Fin 12) (mark : Mark) (s : State),
    (s.link l.val).rx.find? (fun (x : Item) => decide (fieldN (x.headD 0) 0 4 = 7)) = none →
    Sys2Proof.Machine.exec (.tickMark l mark) s = .next s) ∧
  ∀ (us : Nat) (s : State),
    (s.chain.live.master = false → Sys2Proof.Machine.exec .holdover s =
      .next { s with tick := { s.tick with holdover := true, locked := false } }) ∧
    (s.chain.live.master = true → Sys2Proof.Machine.exec .holdover s = .next s) ∧
    (s.tick.holdover = false → Sys2Proof.Machine.exec (.alignLost us) s = .next s) ∧
    (s.tick.holdover = true →
      ∃ t, Sys2Proof.Machine.exec (.alignLost us) s = .next t ∧ t.census.ring.num = s.census.ring.num + 1 ∧
        t.carrels = s.carrels ∧ t.plans = s.plans ∧ t.tick = { s.tick with alignLost := true, alignDue := true })

/-- SEG_CTX is written unless its context has a plan, in which case a change is refused with REJ; the table ports
take their commands and complete them, a descriptor that fails a check leaving REJ with its reason; a fill writes
one entry of a descriptor cache, if it is not cached still, and ends the wait for it. An invalidation: a free slot
of the requester's half takes the request, the caches of every carrel and copy engine of the context lose the named
segments at once, and DONE with the sequence number comes when the drain, which waits for the accesses that were
open, and every acknowledgement are in; a busy slot sets REJ. Translation through an invalidated entry misses. A
reading of the model: what the drain waits for (log entry 93). -/
def Obligations.ContextsAndTables : Prop :=
  ((∀ (src : Src) (ctx : BitVec 12) (v : Word) (s : State), (∀ f, src ≠ .vf f) →
     let g := s.seg
     let c := ctx.toNat
     let rej := Tab.get false g.ctxRej c && !v.getLsbD 63
     (s.plansOf c = [] → Sys2Proof.Machine.exec (.segCtxWrite src ctx v) s = .next { s with seg := { g with
       fast := Tab.set false g.fast c (v.getLsbD 0), func := Tab.set 0 g.func c (v.extractLsb' 8 6)
       ctxRej := Tab.set false g.ctxRej c rej } }) ∧
     (s.plansOf c ≠ [] → Sys2Proof.Machine.exec (.segCtxWrite src ctx v) s = .next { s with seg := { g with
       ctxRej := Tab.set false g.ctxRej c (rej || decide (v.getLsbD 0 ≠ Tab.get false g.fast c ∨
         v.extractLsb' 8 6 ≠ Tab.get 0 g.func c)) } })) ∧
   (∀ s : State,
     Sys2Proof.Machine.exec (.segTableWrite .pf false) s =
       .next { s with seg := { s.seg with port0 := { s.seg.port0 with write := true } } } ∧
     Sys2Proof.Machine.exec (.segTableRead .pf false) s =
       .next { s with seg := { s.seg with port0 := { s.seg.port0 with read := true } } } ∧
     Sys2Proof.Machine.exec (.segTableWrite .pf true) s = .next s ∧
     Sys2Proof.Machine.exec (.segTableRead .pf true) s = .next s ∧
     ∀ c, Sys2Proof.Machine.exec (.segTableWrite (.carrel c) true) s =
         .next { s with seg := { s.seg with port1 := { s.seg.port1 with write := true } } } ∧
       Sys2Proof.Machine.exec (.segTableRead (.carrel c) true) s =
         .next { s with seg := { s.seg with port1 := { s.seg.port1 with read := true } } } ∧
       Sys2Proof.Machine.exec (.segTableWrite (.carrel c) false) s = .next s ∧
       Sys2Proof.Machine.exec (.segTableRead (.carrel c) false) s = .next s) ∧
   (∀ (p : Bool) (s : State),
     let x := if p then s.seg.port1 else s.seg.port0
     let key := x.ctx.toNat * 16 + x.seg.toNat
     let d := x.d1 ++ x.d0
     (x.write = true → x.read = false → descReason x.ctx d = 0 →
       ∃ t, Sys2Proof.Machine.exec (.tablePortDone p) s = .next t ∧ t = { s with seg := t.seg } ∧
         Tab.get 0 t.seg.table key = d ∧ (∀ k, k ≠ key → Tab.get 0 t.seg.table k = Tab.get 0 s.seg.table k) ∧
         (if p then t.seg.port1 else t.seg.port0) = { x with write := false, rej := false }) ∧
     (x.write = true → x.read = false → descReason x.ctx d ≠ 0 →
       ∃ t, Sys2Proof.Machine.exec (.tablePortDone p) s = .next t ∧ t = { s with seg := t.seg } ∧
         t.seg.table = s.seg.table ∧
         (if p then t.seg.port1 else t.seg.port0) = { x with write := false, rej := true, reason := descReason x.ctx d }) ∧
     (x.write = false → x.read = true →
       ∃ t, Sys2Proof.Machine.exec (.tablePortDone p) s = .next t ∧ t = { s with seg := t.seg } ∧
         t.seg.table = s.seg.table ∧
         (if p then t.seg.port1 else t.seg.port0) = { x with
           read := false, d0 := (Tab.get 0 s.seg.table key).extractLsb' 0 64
           d1 := (Tab.get 0 s.seg.table key).extractLsb' 64 64 })) ∧
   (∀ (c : BitVec 12) (stream : BitVec 3) (seg : BitVec 4) (s : State),
     let k := s.carrel c
     ∃ t, Sys2Proof.Machine.exec (.descriptorCacheFill c stream seg) s = .next t ∧
       t = { s with carrels := t.carrels } ∧ (∀ d, d ≠ c → t.carrel d = s.carrel d) ∧
       t.carrel c = { k with desc := (t.carrel c).desc, wait := if k.wait = .desc stream seg then .none else k.wait } ∧
       ∀ j, Tab.get none (t.carrel c).desc j = if j = stream.toNat * 16 + seg.toNat then
           some ((Tab.get none k.desc j).getD (Tab.get 0 s.seg.table (k.ctx.toNat * 16 + seg.toNat)))
         else Tab.get none k.desc j) ∧
   ∀ (ctx : BitVec 12) (d : BitVec 128),
     let len := (d.extractLsb' 64 45).toNat
     let base := (d.extractLsb' 12 44).toNat * 4096
     (d.extractLsb' 56 8 ≠ 0#8 ∨ d.extractLsb' 109 19 ≠ 0#19 → descReason ctx d = 1) ∧
     (d.extractLsb' 56 8 = 0#8 → d.extractLsb' 109 19 = 0#19 →
       (d.getLsbD 0 = false → descReason ctx d = 0) ∧
       (d.getLsbD 0 = true →
         (len = 0 ∨ len % 4096 ≠ 0 ∨ 2 ^ 44 < len → descReason ctx d = 2) ∧
         (2 ^ 30 ≤ len → len % 4096 = 0 → len ≤ 2 ^ 44 → base % 2097152 ≠ 0 → descReason ctx d = 3)))) ∧
  (let gone (v : Word) (ctx : BitVec 12) (seg : Nat) : Prop :=
     v.getLsbD 28 = true ∨ (v.extractLsb' 0 12 = ctx ∧ v.getLsbD (12 + seg) = true)
   (∀ (src : Src) (k : BitVec 6) (v : Word) (s : State), (if k.toNat < 32 then src = .pf else isDevice src = true) →
     ((s.invSlot k.toNat).busy = true → Sys2Proof.Machine.exec (.invalidationRequest src k v) s =
       .next (s.setInvSlot k.toNat { s.invSlot k.toNat with rej := true })) ∧
     ((s.invSlot k.toNat).busy = false → s.chain.up = false →
       ∃ t, Sys2Proof.Machine.exec (.invalidationRequest src k v) s = .next t ∧
         t = { s with carrels := t.carrels, host := { s.host with engines := t.host.engines }, seg := t.seg } ∧
         t.invSlot k.toNat = { s.invSlot k.toNat with req := v &&& 0x0000FFFF1FFFFFFF#64, busy := true } ∧
         t.seg.table = s.seg.table ∧
         (∃ r, t.seg.runs = s.seg.runs ++ [r] ∧ r.id = .slot k ∧ r.seq = v.extractLsb' 32 16 ∧ r.waitFor = [] ∧
           r.drained = false) ∧
         ∀ (c : BitVec 12) (stream : BitVec 3) (seg : Nat), seg < 16 → gone v (s.carrel c).ctx seg →
           Tab.get none (t.carrel c).desc (stream.toNat * 16 + seg) = none)) ∧
   (∀ (l : Fin 12) (s : State) (i : Item),
     (s.link l.val).rx.find? (fun (x : Item) => decide (fieldN (x.headD 0) 0 4 = 11)) = some i →
     ∃ t, Sys2Proof.Machine.exec (.invalidationBroadcast l) s = .next t ∧ t.mem = s.mem ∧ t.seg.table = s.seg.table ∧
       (∃ r, t.seg.runs = s.seg.runs ++ [r] ∧ r.id = .remote l i.src i.tag ∧ r.drained = false ∧ l.val ∉ r.waitFor) ∧
       ∀ (c : BitVec 12) (stream : BitVec 3) (seg : Nat), seg < 16 → gone (i.unit 1) (s.carrel c).ctx seg →
         Tab.get none (t.carrel c).desc (stream.toNat * 16 + seg) = none) ∧
   (∀ (k : BitVec 6) (s : State) (r : InvRun),
     s.seg.runs.find? (fun r => decide (r.id = .slot k) && !r.drained) = some r → s.seg.runs.Nodup →
     (s.stillOpen r = true → Sys2Proof.Machine.exec (.invalidationDrainDone (.slot k)) s = .next s) ∧
     (s.stillOpen r = false → r.waitFor ≠ [] → ∃ t, Sys2Proof.Machine.exec (.invalidationDrainDone (.slot k)) s = .next t ∧
       t = { s with seg := t.seg } ∧ t.seg.slots = s.seg.slots ∧
       t.seg.runs = s.seg.runs.map fun x => if x = r then { r with drained := true } else x) ∧
     (s.stillOpen r = false → r.waitFor = [] → ∃ t, Sys2Proof.Machine.exec (.invalidationDrainDone (.slot k)) s = .next t ∧
       t = { s with seg := t.seg } ∧
       t.invSlot k.toNat = { s.invSlot k.toNat with busy := false, seq := r.seq })) ∧
   (∀ (l : Fin 12) (s : State) (i : Item) (r : InvRun) (k : BitVec 6),
     (s.link l.val).rx.find? (fun (x : Item) => decide (fieldN (x.headD 0) 0 4 = 12)) = some i →
     s.seg.runs = [r] → r.id = .slot k → i.dst = s.ownChip → i.tag.toNat = k.toNat → l.val ∈ r.waitFor →
     r.drained = true →
     ∃ t, Sys2Proof.Machine.exec (.invalidationAck l) s = .next t ∧
       ((∃ m ∈ r.waitFor, m ≠ l.val) → t.seg.slots = s.seg.slots ∧
         t.seg.runs = [{ r with waitFor := r.waitFor.filter fun m => decide (m ≠ l.val) }]) ∧
       ((∀ m ∈ r.waitFor, m = l.val) → t.seg.runs = [] ∧
         t.invSlot k.toNat = { s.invSlot k.toNat with busy := false, seq := r.seq })) ∧
   ∀ (s : State) (c : BitVec 12) (stream : BitVec 3) (va : Word) (n : Nat) (need : Rights),
     Tab.get none (s.carrel c).desc (stream.toNat * 16 + va.toNat / 2 ^ 60) = none →
     s.access c stream va n need = .miss (va.extractLsb' 60 4))

/-! ## Ticks -/

/-- The boundary: TICK_NO advances and an armed change of length takes effect. The ended tick is confirmed and the
next tick's work begins, the ticks to replay first; an absorbed fault, of a context that is not suspended for the
tick, begins a recovery gap instead (halted carrels are treated before). In a chain the verdict of the tick before
decides, and RECOVER replays both ticks that are not confirmed. The end of a gap opens the intake window of the tick
to replay; a gap that a takeover interrupted runs no work. Readings of the model: which contexts a fault has
replayed, what a replay puts back, and a gap cut short (log entries 36, 37, 58). -/
def Obligations.TickBoundary : Prop :=
  (∀ (env : TickEnv) (s : State),
     let h := s.treatHalts
     let fault (p : Plan) : Bool := h.planFault p || (p.late && h.linkEv)
     let bad (p : Plan) : Bool :=
       p.overrun || (p.late && !h.linkEv && !h.planFault p) || (p.uncorr && h.keepers.none_)
     let absorbed := h.plans.any fun x => x.2.ranNow && fault x.2 &&
       !h.plans.any fun y => y.2.ranNow && decide (y.2.ctx = x.2.ctx) && bad y.2
     let next (t : State) : Prop := match s.tick.toReplay with
       | w :: l => t.tick.wtn = w ∧ t.tick.toReplay = l ∧ t.tick.replay = true
       | [] => t.tick.wtn = s.tick.no + 1 ∧ t.tick.toReplay = [] ∧ t.tick.replay = false
     ((s.start.ticking = false ∨ s.tick.part ≠ .guard) → Sys2Proof.Machine.exec (.tickBoundary env) s = .next s) ∧
     (s.start.ticking = true → s.tick.part = .guard →
       ∃ t, Sys2Proof.Machine.exec (.tickBoundary env) s = .next t ∧
         t.tick.no = s.tick.no + 1 ∧ t.tick.wtnLast = s.tick.wtn ∧
         (∀ b n, s.tick.armed = some (b, n) → b = s.tick.no + 1 → t.tick.len = n ∧ t.tick.armed = none) ∧
         ((∀ b n, s.tick.armed = some (b, n) → b ≠ s.tick.no + 1) → t.tick.len = s.tick.len ∧ t.tick.armed = s.tick.armed) ∧
         (s.tick.gapDue = true → t.tick.part = .gap ∧ t.tick.gapDue = false ∧ t.tick.confirmed = s.tick.confirmed) ∧
         (s.tick.gapDue = false → s.chain.up = false →
           (absorbed = true → t.tick.part = .gap ∧ t.tick.toReplay = [s.tick.wtn] ∧ t.tick.confirmed = s.tick.confirmed) ∧
           (absorbed = false → t.tick.part = .intake ∧ t.tick.confirmed = s.tick.wtn.toNat + 1 ∧ next t)) ∧
         (∀ own v, s.tick.gapDue = false → s.chain.up = true → s.chain.own = some own → s.chain.verdict = some v →
           (v.recover = true → t.tick.part = .gap ∧ t.tick.confirmed = s.tick.confirmed ∧
             t.tick.toReplay = if s.tick.wtnLast = s.tick.wtn then [s.tick.wtn] else [s.tick.wtnLast, s.tick.wtn]) ∧
           (v.recover = false → t.tick.part = .intake ∧ t.tick.confirmed = s.tick.wtnLast.toNat + 1 ∧ next t)))) ∧
  (∀ s : State,
     ((s.start.ticking = false ∨ s.tick.part ≠ .gap) → Sys2Proof.Machine.exec .gapEnd s = .next s) ∧
     (s.start.ticking = true → s.tick.part = .gap →
       ∃ t, Sys2Proof.Machine.exec .gapEnd s = .next t ∧ t.tick.part = .intake ∧ t.tick.no = s.tick.no ∧
         t.tick.confirmed = s.tick.confirmed ∧
         (s.tick.gapDue = true → t.tick.wtn = s.tick.wtn ∧ t.tick.toReplay = s.tick.toReplay) ∧
         (s.tick.gapDue = false → match s.tick.toReplay with
           | w :: l => t.tick.wtn = w ∧ t.tick.toReplay = l ∧ t.tick.replay = true
           | [] => t.tick.wtn = s.tick.no ∧ t.tick.toReplay = [] ∧ t.tick.replay = false)))

/-- The work window: every running plan begins its next plan tick with its flags, tokens and joins cleared; each of
its carrels that is not halted stands at the plan tick's entry point, at level U (S for context 0), with empty
stacks, seals and vector stack, its queues holding the copies of the plan tick's in-place ranges alone, and its
watchdog on the budget of phase 0; nothing else of it changes. The guard, with no halted carrel to treat: a plan
whose carrels rest with empty queues and whose link records are done is left alone; one with work left is LATE,
unless an absorbed fault has stopped it: a record is written, its carrels stop, and what is left of it does not run.
A reading of the model: a plan that an absorbed fault stopped is not LATE (log entry 58). -/
def Obligations.WorkWindowAndGuard : Prop :=
  (∀ s : State,
     let copies (p : Plan) (c : BitVec 12) : List RwRange := p.img.rwset.filter fun r =>
       r.inplace && decide (r.ptick = p.nextK ∧ BitVec.ofNat 12 r.carrel = c)
     let queued (l : List RwRange) (q : Tab (List Issued)) : Tab (List Issued) := l.foldl (fun q r =>
       let n := 16 + r.channel % 8
       Tab.set [] q n (Tab.get [] q n ++ [{ queue := n, idx := 0, desc := r.copyDesc (s.tick.wtn.getLsbD 0)
                                            param := none, started := false }])) q
     ((s.start.ticking = false ∨ s.tick.part ≠ .intake) → Sys2Proof.Machine.exec .workWindowStart s = .next s) ∧
     (s.start.ticking = true → s.tick.part = .intake → s.tick.gapDue = true →
       Sys2Proof.Machine.exec .workWindowStart s = .next { s with tick := { s.tick with part := .work } }) ∧
     (s.start.ticking = true → s.tick.part = .intake → s.tick.gapDue = false → s.tick.replay = false →
       (s.plans.map (·.1)).Nodup → (∀ x ∈ s.plans, x.2.img.set.Nodup ∧ ∀ c ∈ x.2.img.set, c < 4096) →
       ∃ t, Sys2Proof.Machine.exec .workWindowStart s = .next t ∧ t.tick = { s.tick with part := .work } ∧
         (∀ x ∈ s.plans, x.2.state ≠ .running → ¬ (x.2.state = .unloading ∧ x.2.resume = true) → x ∈ t.plans) ∧
         (∀ c : BitVec 12, (∀ x ∈ s.plans, c.toNat ∉ x.2.img.set ∧ copies x.2 c = []) → t.carrel c = s.carrel c) ∧
         ∀ (i : Nat) (p : Plan), (i, p) ∈ s.plans → p.state = .running →
           (i, { p with
             k := p.nextK, ran := ((s.tick.wtn, p.nextK) :: p.ran).take 2, overrun := false, late := false
             uncorr := false, fresh := false, tokens := [], joined := [], ticks := p.ticks + 1
             links := (Tab.get [] p.img.lists (listKey 4096 0 p.nextK 0)).map fun d =>
               ({ desc := d, started := false } : LinkRun) }) ∈ t.plans ∧
           ∀ c : BitVec 12, c.toNat ∈ p.img.set →
             (∀ x ∈ s.plans, x.1 ≠ i → c.toNat ∉ x.2.img.set ∧ copies x.2 c = []) →
             let k := s.carrel c
             let j := t.carrel c
             (k.halted = true → j = { k with queue := queued (copies p c) k.queue }) ∧
             (k.halted = false →
               j = { k with
                 pc := Tab.get 0 p.img.entries (c.toNat * 4096 + p.nextK), level := if p.ctx = 0 then 1 else 0
                 dbank := if p.ctx = 0 then 1 else 0, rescue := false, rep := none
                 bankU := j.bankU, bankS := j.bankS, bankM := j.bankM
                 wait := .none, overrun := false, ended := false, vl := 0, vstack := [], seals := []
                 shdS := Shadow.reset, shdM := Shadow.reset, sealNext := j.sealNext, queue := queued (copies p c) []
                 stationary := none
                 power := .run, waking := false, tiles := j.tiles, next := [], arrayDone := 0
                 wd := { k.wd with
                   budget := BitVec.ofNat 32 (Tab.get 0 p.img.budgets ((c.toNat * 4096 + p.nextK) * 256))
                   count := 0, phase := 0, ptick := BitVec.ofNat 12 p.nextK, run := true, ovr := false } } ∧
               (∀ id, id ≠ .rescue →
                 let a := k.bank id
                 j.bank id = { d := { a.d with ptr := a.d.lo }, dres := [], r := { a.r with ptr := a.r.lo }, rres := [] }) ∧
               (let x := s.tick.wtn.setWidth 16 ^^^ c.setWidth 16
                j.sealNext = if x = 0 then 1 else x)))) ∧
  (∀ s : State,
     let busy (c : Nat) : Prop :=
       ((s.carrel (BitVec.ofNat 12 c)).wait ≠ .rest ∧ (s.carrel (BitVec.ofNat 12 c)).halted = false) ∨
         ∃ x ∈ (s.carrel (BitVec.ofNat 12 c)).queue, ∃ y ∈ x.2, y.dead = false
     ((s.start.ticking = false ∨ s.tick.part ≠ .work) → Sys2Proof.Machine.exec (.guardStart []) s = .next s) ∧
     (s.start.ticking = true → s.tick.part = .work → s.halts = [] → s.tick.failDue = [] →
       ((∀ x ∈ s.plans, x.2.ranNow = true → x.2.links = [] ∧ ∀ c ∈ x.2.img.set, ¬ busy c) →
         Sys2Proof.Machine.exec (.guardStart []) s = .next { s with tick := { s.tick with part := .guard } }) ∧
       (∀ i p, s.plans = [(i, p)] → p.ranNow = true → (p.links ≠ [] ∨ ∃ c ∈ p.img.set, busy c) →
         (∀ c ∈ p.img.set, c < 4096) →
         ∃ t q, Sys2Proof.Machine.exec (.guardStart []) s = .next t ∧ t.tick.part = .guard ∧
           t.plans = [(i, q)] ∧ q.links = [] ∧
           (s.planFault p = true → q.late = p.late) ∧
           (s.planFault p = false → q.late = true ∧ s.census.ring.num < t.census.ring.num) ∧
           ∀ c ∈ p.img.set, busy c →
             (t.carrel (BitVec.ofNat 12 c)).wait = .rest ∧ (t.carrel (BitVec.ofNat 12 c)).queue = [] ∧
             (t.carrel (BitVec.ofNat 12 c)).wd.run = false)))

/-- The write of TICK_LEN_AT: a change of length is armed when the boundary is at least 16 ticks ahead, the length
is 2,000 to 1,000,000 ns and allowed by the chain, and the module is no slave; an armed change is cancelled by 0
while its boundary is 16 ticks ahead; what is refused sets LEN_REJ. A virtual function is denied. -/
def Obligations.LengthChange : Prop :=
  ∀ (src : Src) (b : Word) (s : State),
    let t := { s.tick with lenAt := b }
    let may := s.tick.no.toNat + 16 ≤ b.toNat ∧ 2000 ≤ s.tick.lenNext.toNat ∧ s.tick.lenNext.toNat ≤ 1000000 ∧
      s.chain.live.master = true ∧ (s.chain.up = true → s.chain.minTick.toNat ≤ s.tick.lenNext.toNat)
    (∀ f, Sys2Proof.Machine.exec (.armLengthChange (.vf f) b) s =
      .next { s with host := { s.host with denied := satInc s.host.denied } }) ∧
    ((∀ f, src ≠ .vf f) → b ≠ 0 →
      (may → Sys2Proof.Machine.exec (.armLengthChange src b) s =
        .next { s with tick := { t with armed := some (b, s.tick.lenNext) } }) ∧
      (¬ may → Sys2Proof.Machine.exec (.armLengthChange src b) s = .next { s with tick := { t with lenRej := true } })) ∧
    ((∀ f, src ≠ .vf f) → ∀ a n, s.tick.armed = some (a, n) →
      (s.tick.no.toNat + 16 ≤ a.toNat → Sys2Proof.Machine.exec (.cancelLengthChange src) s =
        .next { s with tick := { s.tick with lenAt := 0, armed := none } }) ∧
      (a.toNat < s.tick.no.toNat + 16 → Sys2Proof.Machine.exec (.cancelLengthChange src) s =
        .next { s with tick := { s.tick with lenAt := 0, lenRej := true } }))

/-- Statuses and verdicts of a chain: a child's status for the same tick is kept until all children's are here; then
the tick master's verdict is the combination, RECOVER for an absorbed fault; at the deadline a missing status makes
it RECOVER; a slave takes the verdict that comes from above. -/
def Obligations.StatusesAndVerdicts : Prop :=
  ∀ (l : Fin 12) (s u : State) (x own : Status),
    let all := s.chain.statuses ++ [(l.val, x)]
    let joins (l : List (Nat × Status)) (v : Status) : Prop :=
      v.tick = own.tick ∧ v.fail = (own.fail || l.any (·.2.fail)) ∧ v.late = (own.late || l.any (·.2.late)) ∧
      v.linkev = (own.linkev || l.any (·.2.linkev)) ∧ ∀ c, c ∈ v.ctxs ↔ c ∈ own.ctxs ∨ ∃ y ∈ l, c ∈ y.2.ctxs
    (s.takeStatus l.val false = some (x, u) → s.chain.own = some own → own.tick = x.tick → l.val ∈ s.downLinks →
      s.chain.verdict = none →
      ((∃ m ∈ s.downLinks, ∀ y ∈ all, y.1 ≠ m) →
        Sys2Proof.Machine.exec (.tickStatus l) s = .next { u with chain := { u.chain with statuses := all } }) ∧
      ((∀ m ∈ s.downLinks, ∃ y ∈ all, y.1 = m) →
        ∃ t v, Sys2Proof.Machine.exec (.tickStatus l) s = .next t ∧ joins all v ∧
          v.recover = (v.fail || (v.late && v.linkev)) ∧
          t = { u with
            links := t.links, sent := t.sent
            chain := { u.chain with statuses := all, verdict := if s.chain.live.master then some v else none } })) ∧
    (s.takeStatus l.val true = some (x, u) → s.chain.live.master = false → s.chain.live.up.toNat = l.val →
      s.chain.own = some own → own.tick = x.tick →
      ∃ t, Sys2Proof.Machine.exec (.verdict l) s = .next t ∧
        t = { u with links := t.links, sent := t.sent, chain := { u.chain with verdict := some x } }) ∧
    (s.chain.own = some own → s.chain.live.master = true → s.chain.verdict = none →
      ∃ t v, Sys2Proof.Machine.exec .verdictDeadline s = .next t ∧ joins s.chain.statuses v ∧ v.recover = true ∧
        t = { s with links := t.links, sent := t.sent, chain := { s.chain with verdict := some v } }) ∧
    ((s.chain.live.master = false ∨ s.chain.verdict ≠ none) → Sys2Proof.Machine.exec .verdictDeadline s = .next s)

/-! ## The host -/

/-- The commands that end by themselves: NOP, FENCE when every command before it has ended, SLEEP_DECLARE, and the
plan commands, which a plan of the context in a fitting state accepts for the next boundary and any other slot
refuses with PLAN-STATE. Behind a FENCE a command's end is held back. The start of a taken command: a malformed one
ends with BAD-COMMAND; one whose bytes an earlier command touches waits; a load takes the lowest free slot, one at a
time, in the order in which the intake unit took the loads; others are ready. A COPY_D2H starts once its tick is
confirmed. Readings of the model: the fields of completions, and the address of a plain COPY_H2D (log entries 32,
84). -/
def Obligations.HostCommands : Prop :=
  (∀ (ctx : BitVec 12) (c : Cmd) (s : State),
     let slot := (c.arg 0).toNat
     let plan (cmd : Instr) (op : Nat) (may : Plan → Prop) (f : Plan → Plan) : Prop := Taken s ctx c op →
       (∀ p, s.plan slot = some p → p.ctx = ctx → may p →
         ∃ t, Sys2Proof.Machine.exec cmd s = .next t ∧ Completed ctx c 0 0 (s.tick.no + 1) 0 (s.modPlan slot f) t) ∧
       ((∀ p, s.plan slot = some p → p.ctx ≠ ctx ∨ ¬ may p) →
         ∃ t, Sys2Proof.Machine.exec cmd s = .next t ∧ Completed ctx c 7 0 s.tick.no 0 s t)
     (Taken s ctx c 0 → ∃ t, Sys2Proof.Machine.exec (.nop ctx c.seq) s = .next t ∧ Completed ctx c 0 0 c.tick 0 s t) ∧
     (s.cmd ctx.toNat c.seq = some c → c.op = 0 → c.stage = .waiting → s.badCmd ctx.toNat c = false →
       s.startable ctx c = true → s.fenced ctx.toNat c.seq = true → (s.hctx ctx.toNat).orphaned = false →
       Sys2Proof.Machine.exec (.nop ctx c.seq) s =
         .next (s.modCmd ctx.toNat c.seq fun x => { x with stage := .done 0 0 c.tick 0 })) ∧
     (Taken s ctx c 0x10 →
       (s.earlier ctx.toNat c.seq = [] → (∀ x ∈ (s.hctx ctx.toNat).cmds, ∀ st d t v, x.stage ≠ .done st d t v) →
         ∃ t, Sys2Proof.Machine.exec (.hostFence ctx c.seq) s = .next t ∧ Completed ctx c 0 0 s.tick.no 0 s t) ∧
       (s.earlier ctx.toNat c.seq ≠ [] → Sys2Proof.Machine.exec (.hostFence ctx c.seq) s = .next s)) ∧
     (Taken s ctx c 0x0C → (∀ x ∈ s.plans, x.2.state ≠ .running) →
       ∃ u t, Sys2Proof.Machine.exec (.sleepDeclare ctx c.seq) s = .next t ∧ Completed ctx c 0 0 c.tick 0 u t ∧
         u = { s with hbm := u.hbm } ∧
         ∀ i, i < 8 → u.stack i =
           if (c.arg 0).toNat < 5000 then s.stack i
           else if (s.stack i).srAllow then { s.stack i with selfref := true }
           else { s.stack i with srIgn := true }) ∧
     plan (.planUnload ctx c.seq) 9 (fun p => p.state = .ready ∨ p.state = .running ∨ p.state = .suspended)
       (fun p => { p with state := .unloading, resume := decide (p.state = .running) }) ∧
     plan (.planSuspend ctx c.seq) 0x0A (fun p => p.state = .running) (fun p => { p with suspend := some 0x84 }) ∧
     plan (.planResume ctx c.seq) 0x0B (fun p => p.state = .suspended ∧ p.reason ≠ 0x85) (fun p => { p with resume := true })) ∧
  (∀ (ctx : BitVec 12) (c : Cmd) (s : State), s.cmd ctx.toNat c.seq = some c → c.stage = .waiting →
     (s.badCmd ctx.toNat c = true → s.fenced ctx.toNat c.seq = false → (s.hctx ctx.toNat).orphaned = false →
       c.op ≠ 0x10 →
       ∃ t, Sys2Proof.Machine.exec (.commandStart ctx c.seq) s = .next t ∧ Completed ctx c 5 0 s.tick.no 0 s t) ∧
     (s.badCmd ctx.toNat c = false → s.startable ctx c = false →
       Sys2Proof.Machine.exec (.commandStart ctx c.seq) s = .next s) ∧
     (s.badCmd ctx.toNat c = false → s.startable ctx c = true →
       (c.op ≠ 3 → c.op ≠ 8 → Sys2Proof.Machine.exec (.commandStart ctx c.seq) s =
         .next (s.modCmd ctx.toNat c.seq fun x => { x with stage := .ready })) ∧
       (c.op = 8 → (s.loadingSlot ≠ none ∨ s.loadFirst ctx c = false) →
         Sys2Proof.Machine.exec (.commandStart ctx c.seq) s = .next s) ∧
       (∀ i, c.op = 8 → s.loadingSlot = none → s.loadFirst ctx c = true → s.freeSlot = some i →
         ∃ t p, Sys2Proof.Machine.exec (.commandStart ctx c.seq) s = .next t ∧ t.plan i = some p ∧
           p.state = .loading ∧ p.ctx = ctx ∧ p.imageVa = c.arg 0 ∧ (∀ j, j ≠ i → t.plan j = s.plan j) ∧
           t = { s.modCmd ctx.toNat c.seq fun x => { x with stage := .ready } with plans := t.plans }) ∧
       (c.op = 3 → max (c.tick.toNat - 1) c.notBefore < s.tick.confirmed →
         Sys2Proof.Machine.exec (.copyD2hStart ctx c.seq) s =
           .next (s.modCmd ctx.toNat c.seq fun x => { x with stage := .ready })) ∧
       (c.op = 3 → s.tick.confirmed ≤ max (c.tick.toNat - 1) c.notBefore →
         Sys2Proof.Machine.exec (.copyD2hStart ctx c.seq) s = .next s)))

/-- WRITE_INLINE lands in an intake window, its bytes at the translated address; ATOMIC performs one operation on
memory and answers the old value where asked. Both draw the tokens of their requests first, and wait while they lack
some. Readings of the model: the tokens drawn first, and how an ATOMIC ends (log entries 32, 80). -/
def Obligations.InlineWritesAndAtomics : Prop :=
  ∀ (ctx : BitVec 12) (c : Cmd) (s : State) (pa : Nat) (part : BitVec 6),
    let la := localOf pa
    let n := c.inlineLen
    let op : BitVec 4 := (c.arg 1).extractLsb' 0 4
    let w := (c.arg 1).getLsbD 4
    let m := operWidth op w
    let ask := s.rowsAsk (.intake ctx c.seq) ctx [(c.arg 0, n)]
    let ask1 := s.askOne .unplanned 2 la part
    s.isLocal pa = true → s.asked (.intake ctx c.seq) = false → s.lost = [] → c.bytes.length = 256 →
    (Taken s ctx c 1 → s.recTrans ctx (c.arg 0) n 2 = some (pa, part) →
      (n ≠ 0 → s.tick.part = .intake → max c.tick.toNat c.notBefore ≤ s.tick.no.toNat →
        (ask.1 = false → Sys2Proof.Machine.exec (.writeInline ctx c.seq) s = .next ask.2) ∧
        (ask.1 = true →
          (∀ a, la / 64 * 64 ≤ a → a < (la + n + 63) / 64 * 64 → s.present a 1 = true ∧ ∀ b o, regionOf a ≠ .regs b o) →
          ∃ u t, Sys2Proof.Machine.exec (.writeInline ctx c.seq) s = .next t ∧
            Completed ctx c 0 0 s.tick.no (BitVec.ofNat 64 n) u t ∧ u = { ask.2 with mem := u.mem } ∧
            (∀ j, j < n → u.byte (la + j) = c.inlineBytes.getD j 0) ∧
            ∀ a, (a < la ∨ la + n ≤ a) → u.byte a = s.byte a)) ∧
      ((s.tick.part ≠ .intake ∨ s.tick.no.toNat < max c.tick.toNat c.notBefore) →
        Sys2Proof.Machine.exec (.writeInline ctx c.seq) s = .next s)) ∧
    (Taken s ctx c 4 → s.recTrans ctx (c.arg 0) m 11 = some (pa, part) → ask1.1 = false →
      Sys2Proof.Machine.exec (.atomic ctx c.seq) s = .next ask1.2) ∧
    (Taken s ctx c 4 → s.recTrans ctx (c.arg 0) m 11 = some (pa, part) → regionOf la = .hbm → s.present la m = true →
      la % m = 0 → op ≠ 8 → op ≠ 15 → ask1.1 = true →
      let old := s.le la m
      let cmp := BitVec.ofNat 64 (bytesToNat (c.inlineBytes.take 8))
      ∃ u t, Sys2Proof.Machine.exec (.atomic ctx c.seq) s = .next t ∧
        Completed ctx c 0 0 s.tick.no (if (c.arg 1).getLsbD 5 then BitVec.ofNat 64 old else 0) u t ∧
        u.le la m = (operNew op w old (c.arg 2).toNat cmp.toNat).1 % 256 ^ m ∧ u.carrels = s.carrels ∧
        ∀ a, (a < la ∨ la + m ≤ a) → u.byte a = s.byte a)

/-- Host copies: the oldest ready copy takes the lowest idle engine; a COPY_H2D reads the host and its data is
written before it ends; a COPY_D2H writes the host and flushes before it ends; an error stops a copy with its
status. A copy draws the tokens of its requests first, and waits while it lacks some. The model's own: a copy has
its effect at its end, its tokens are drawn first, the record of a translation fault, and the bit of Relaxed
Ordering (log entries 19, 80, 85, 91). -/
def Obligations.HostCopies : Prop :=
  ∀ (ctx : BitVec 12) (c : Cmd) (e : BitVec 4) (s : State),
    let g := s.engine e.toNat
    let f := s.owner ctx.toNat
    let n := (c.arg 2).toNat
    let ask := s.rowsAsk (.copyEngine e) ctx c.deviceRows
    s.cmd ctx.toNat c.seq = some c → s.fenced ctx.toNat c.seq = false → (s.hctx ctx.toNat).orphaned = false →
    (s.nextCopy = some (ctx.toNat, c) → (∀ i, i < e.toNat → (s.engine i).busy = true) → g.busy = false →
      e.toNat < s.enginesOpen →
      ∃ t, Sys2Proof.Machine.exec .copyEngineGrant s = .next t ∧
        (t.engine e.toNat).busy = true ∧ (t.engine e.toNat).ctx = ctx ∧ (t.engine e.toNat).seq = c.seq ∧
        (t.engine e.toNat).moved = 0 ∧ (∀ i, i ≠ e.toNat → t.engine i = s.engine i) ∧
        t = { s.modCmd ctx.toNat c.seq fun x => { x with stage := .moving e } with
          host := { (s.modCmd ctx.toNat c.seq fun x => { x with stage := .moving e }).host with engines := t.host.engines } }) ∧
    (c.op = 2 → c.stage = .moving e → g.moved = 0 → s.host.d3.getLsbD f.toNat = false →
      Sys2Proof.Machine.exec (.copyH2d ctx c.seq) s =
        .next (({ s with sent := .hostRead f (c.arg 0) n :: s.sent } : State).modCmd ctx.toNat c.seq fun x =>
          { x with stage := .flush e })) ∧
    (∀ b : List Byte, c.op = 2 → c.stage = .flush e → g.busy = true → g.ctx = ctx → g.seq = c.seq →
      b.length = n → ask.1 = false → Sys2Proof.Machine.exec (.hostReadCompletion e (.data b)) s = .next ask.2) ∧
    (∀ (b : List Byte) (u : State), c.op = 2 → c.stage = .flush e → g.busy = true → g.ctx = ctx → g.seq = c.seq →
      b.length = n → ask.1 = true → ask.2.putRows (.copyEngine e) ctx c.deviceRows b = .ok u →
      u = { ask.2 with mem := u.mem } → u.asked (.copyEngine e) = false →
      ∃ v t, Sys2Proof.Machine.exec (.hostReadCompletion e (.data b)) s = .next t ∧
        Completed ctx { c with stage := .moving e } 0 0 (s.tick.no + 1) (c.arg 2) v t ∧
        v = { u with host := { s.host with ctxs := v.host.ctxs, engines := v.host.engines } } ∧
        (v.hctx ctx.toNat).bytesIn = (s.hctx ctx.toNat).bytesIn + n) ∧
    (c.op = 3 → c.stage = .moving e → g.moved = 0 → s.host.d3.getLsbD f.toNat = false → ask.1 = false →
      Sys2Proof.Machine.exec (.copyD2h ctx c.seq) s = .next ask.2) ∧
    (∀ (b : List Byte) (u : State), c.op = 3 → c.stage = .moving e → g.moved = 0 → s.host.d3.getLsbD f.toNat = false →
      ask.1 = true → ask.2.getRows (.copyEngine e) ctx 1 c.deviceRows [] = (.ok u, b) →
      ∃ t, Sys2Proof.Machine.exec (.copyD2h ctx c.seq) s = .next t ∧
        t.sent = .hostRead f (c.arg 1 + BitVec.ofNat 64 (n - 4)) 4 ::
          .hostWrite f (c.arg 1) b (s.host.roEn && u.draw.1.getLsbD 0) :: u.sent ∧
        (t.engine e.toNat).moved = n ∧ (t.engine e.toNat).tick = BitVec.ofNat 64 (s.tick.confirmed - 1) ∧
        t.cmd ctx.toNat c.seq = some { c with stage := .flush e } ∧ t.mem = u.mem) ∧
    (c.op = 3 → c.stage = .flush e → g.busy = true → g.ctx = ctx → g.seq = c.seq →
      ∃ v t, Sys2Proof.Machine.exec (.flushReadDone e) s = .next t ∧
        Completed ctx c 0 0 g.tick (BitVec.ofNat 64 g.moved) v t ∧
        v = { s with host := { s.host with ctxs := v.host.ctxs } } ∧
        (v.hctx ctx.toNat).bytesOut = (s.hctx ctx.toNat).bytesOut + g.moved) ∧
    (∀ err : RespErr, c.op ≠ 0x10 → (c.stage = .moving e ∨ c.stage = .flush e) → g.busy = true → g.ctx = ctx →
      g.seq = c.seq → s.census.ring.en = false →
      ∃ u t, Sys2Proof.Machine.exec (.xferStop e err) s = .next t ∧
        Completed ctx c (match err with
          | .translation => 2 | .unmapped => 3 | .uncorrectable => 4 | .noRoute => 8 | .host => 6)
          (if err = .noRoute then 3 else 0) s.tick.no 0 u t ∧
        u.census.ring.num = s.census.ring.num + (if err = .host then 0 else 1) ∧
        (∀ x ∈ u.chain.open_, x.2 ≠ .copyEngine e) ∧ u.carrels = s.carrels ∧ u.mem = s.mem)

/-- The loader: an image that breaks a rule of R58 is refused with its code and its slot freed; an accepted one is
READY, its carrels bound to it at rest, with invalid caches, empty NaN records and filled descriptor caches, and its
shelf bytes in place. The accesses of a load draw their tokens first, and wait while they lack some. An error
response stops a load. The model's own: the order of checks, MORE cleared, and the tokens drawn first (log entries
35, 69, 80, 86). -/
def Obligations.PlanLoads : Prop :=
  ∀ (ctx : BitVec 12) (c : Cmd) (s v : State) (i : Nat) (b : List Byte),
    let d := { c with stage := CmdStage.ready }
    let x := planImage b
    let s1 := s.loadBegin ctx c
    let ask := s1.rowsAsk (.loader ctx c.seq 0) ctx (s1.loadRows ctx d)
    (Taken s ctx c 8 → c.stage = .waiting → (s.loadingSlot ≠ none ∨ s.loadFirst ctx c = false) →
      Sys2Proof.Machine.exec (.planLoad ctx c.seq) s = .next s) ∧
    (Taken s ctx c 8 → c.stage = .waiting → s.loadingSlot = none → s.loadFirst ctx c = true → ask.1 = false →
      Sys2Proof.Machine.exec (.planLoad ctx c.seq) s = .next ask.2) ∧
    (Taken s ctx c 8 → c.stage = .waiting → s.loadingSlot = none → s.loadFirst ctx c = true → s.freeSlot = some i →
      ask.1 = true → ask.2.readImage ctx d = (.ok v, b) → v = { ask.2 with fresh := v.fresh } →
      (∀ code, v.refusal ctx b = some code →
        ∃ u t, Sys2Proof.Machine.exec (.planLoad ctx c.seq) s = .next t ∧ Completed ctx d 1 code s.tick.no 0 u t ∧
          u = { v with plans := u.plans } ∧ ∀ j, u.plan j = s.plan j) ∧
      (∀ w, v.refusal ctx b = none → v.loadWrites ctx c.seq x.ownPieces = .ok w → w = { v with mem := w.mem } →
        ∃ u t p, Sys2Proof.Machine.exec (.planLoad ctx c.seq) s = .next t ∧
          Completed ctx d 0 0 (if s.tick.no < c.arg 1 then c.arg 1 else s.tick.no + 1) (BitVec.ofNat 64 i) u t ∧
          u.plan i = some p ∧ p.state = .ready ∧ p.ctx = ctx ∧ p.img.set = x.img.set ∧ p.digest = x.digest ∧
          (∀ j, j ≠ i → u.plan j = s.plan j) ∧
          (∀ k ∈ x.img.set, k < 4096 →
            let j := u.carrel (BitVec.ofNat 12 k)
            j.plan = some (BitVec.ofNat 8 i) ∧ j.ctx = ctx ∧ j.icache = [] ∧ j.dcache = [] ∧ j.nan = NanRec.reset ∧
            j.wait = .rest ∧ j.fast = Tab.get false s.seg.fast ctx.toNat ∧
            ∀ q, q < 128 → Tab.get none j.desc q = some (s.tableAt ctx.toNat (q % 16))) ∧
          ((x.shelf.map (·.1)).Nodup → (∀ y ∈ x.shelf, y.1 < 4096 ∧ y.2.length ≤ 0x40000) →
            ∀ y ∈ x.shelf, u.bytes (shelfBase y.1) y.2.length = y.2))) ∧
    (∀ (n : Nat) (err : RespErr) (p : Plan), Taken s ctx c 8 → c.stage = .ready → s.loadingSlot = some (i, p) →
      (s.plans.map (·.1)).Pairwise (· < ·) → s.census.ring.en = false → s.readImage ctx c = (.ok v, b) →
      v = { s with fresh := v.fresh } → n < (b.length + 63) / 64 →
      ∃ u t, Sys2Proof.Machine.exec (.loadStop ctx c.seq n err) s = .next t ∧
        Completed ctx c (match err with
          | .translation => 2 | .unmapped => 3 | .uncorrectable => 4 | .noRoute => 8 | .host => 6)
          (if err = .noRoute then 3 else 0) s.tick.no 0 u t ∧
        u.plan i = none ∧ (∀ j, j ≠ i → u.plan j = s.plan j) ∧ u.mem = s.mem ∧ u.carrels = s.carrels)

/-- Writes from the host: an intake page takes the bytes of the PF and of the owning VF; a register takes one whole
aligned write and what its chapter says of it; a VF writes only the training registers of its own contexts; anything
else of a VF is denied and counted. The windows: BAR2 of the PF reads and writes present memory behind HOST_WIN and
answers an unmapped read with its status and a WINDOW record, once its requests have their tokens. Reads of BAR0:
the PF reads every register; the readback window shows a carrel's control registers, pc and vector length, and the
census window the carrel's record of a complete bank, to the PF and to the VF whose plan holds the carrel; where a
VF may not read it gets zeros, and the access is counted as denied. The TAG of a bank is the PF's. The model's own:
the codes of a read that fails, edges of a dictionary window, the tokens drawn first, and the places of census
contents (log entries 34, 46, 80, 88). -/
def Obligations.HostAccesses : Prop :=
  (∀ (s : State) (data : List Byte) (v : Word),
     let denied : State := { s with host := { s.host with denied := satInc s.host.denied } }
     let bytes := natToBytes 8 v.toNat
     let wr (src : Src) (block : BitVec 7) (off : BitVec 16) := Sys2Proof.Machine.exec (.registerWrite src block off bytes) s
     (∀ (src : Src) (ctx off : BitVec 12), (src = .pf ∨ ∃ f, src = .vf f ∧ s.owner ctx.toNat = f) →
       ∃ t, Sys2Proof.Machine.exec (.intakeSlotWrite src ctx off data) s = .next t ∧
         t = { s with host := { s.host with intake := t.host.intake } } ∧
         ∀ k, Tab.get 0 t.host.intake k =
           let at_ := ctx.toNat * 4096 + off.toNat
           if at_ ≤ k ∧ k < at_ + data.length ∧ k / 4096 = ctx.toNat then data.getD (k - at_) 0
           else Tab.get 0 s.host.intake k) ∧
     (∀ (f : BitVec 6) (ctx off : BitVec 12), s.owner ctx.toNat ≠ f →
       Sys2Proof.Machine.exec (.intakeSlotWrite (.vf f) ctx off data) s = .next denied) ∧
     (∀ (block : BitVec 7) (off : BitVec 16), block.toNat < 64 → (data.length ≠ 8 ∨ off.toNat % 8 ≠ 0) →
       Sys2Proof.Machine.exec (.registerWrite .pf block off data) s = .next s) ∧
     wr .pf 0 0x18 = .next { s with tick := { s.tick with lenNext := v.extractLsb' 0 20 } } ∧
     wr .pf 0 0x28 = .next { s with tick := { s.tick with
       alignLost := s.tick.alignLost && !v.getLsbD 3, lenRej := s.tick.lenRej && !v.getLsbD 4 } } ∧
     wr .pf 36 0x48 = .next (if s.census.ring.en then s
       else { s with census := { s.census with ring := { s.census.ring with base := v.extractLsb' 6 38 } } }) ∧
     wr .pf 36 0x58 = .next { s with census := { s.census with ring := { s.census.ring with tail := v } } } ∧
     wr .pf 40 0 = .next { s with power := { s.power with autoRestart := v.getLsbD 0 } } ∧
     (∀ (c : Fin 4096) (src : Src), (src = .pf ∨ ∃ f, src = .vf f ∧ s.owner c.val = f) →
       ∃ t, wr src 38 (BitVec.ofNat 16 (0x8000 + 8 * c.val)) = .next t ∧ t = { s with train := t.train } ∧
         (∀ d, d ≠ c.val → t.trainCtx d = s.trainCtx d) ∧
         t.trainCtx c.val = { s.trainCtx c.val with
           lossExp := v.extractLsb' 0 8, clean := v.extractLsb' 16 16, steps := v.extractLsb' 32 32 }) ∧
     (∀ (f : BitVec 6) (block : BitVec 7) (off : BitVec 16), block.toNat < 64 → s.vfWrites f block.toNat off.toNat = false →
       wr (.vf f) block off = .next denied)) ∧
  (∀ (s : State) (off : Word) (n : Nat) (b : List Byte),
     let pa := (s.host.winBase.toNat * 2 ^ 28 + off.toNat) % 2 ^ 56
     let la := localOf pa
     let ask (m : Nat) := s.windowAsk pa m
     let denied (t : State) : State := { t with host := { t.host with denied := satInc t.host.denied } }
     let told (src : Src) (d : List Byte) : State := { s with fresh := s.fresh + 1, sent := .answer src d :: s.sent }
     let read (src : Src) (a m : Nat) := Sys2Proof.Machine.exec (.readbackRead src (BitVec.ofNat 12 (a / 65536)) (BitVec.ofNat 16 a) m) s
     (off.toNat + n ≤ 2 ^ 28 → off.toNat < 2 ^ 28 → s.isLocal pa = true →
       (s.present la n = true → (∀ i, i < n → ∀ k o, regionOf (la + i) ≠ .regs k o) → s.lost = [] →
         ((ask n).1 = true → Sys2Proof.Machine.exec (.bar2WindowAccess .pf off (.read n (.ok []))) s =
           .next { (ask n).2 with sent := .answer .pf (s.bytes la n) :: s.sent }) ∧
         ((ask n).1 = false → Sys2Proof.Machine.exec (.bar2WindowAccess .pf off (.read n (.ok []))) s = .next (ask n).2)) ∧
       (s.present la n = false → s.census.ring.en = false →
         ∃ t, Sys2Proof.Machine.exec (.bar2WindowAccess .pf off (.read n (.ok []))) s = .next t ∧
           t.census.ring.num = s.census.ring.num + 1 ∧ t.sent.head? = some (.status .pf 1) ∧ t.mem = s.mem)) ∧
     (b ≠ [] → off.toNat + b.length ≤ 2 ^ 28 → s.isLocal pa = true → s.lost = [] →
       (∀ a, la / 64 * 64 ≤ a → a < (la + b.length + 63) / 64 * 64 → s.present a 1 = true ∧ ∀ k o, regionOf a ≠ .regs k o) →
       ((ask b.length).1 = false →
         Sys2Proof.Machine.exec (.bar2WindowAccess .pf off (.write b (.ok []))) s = .next (ask b.length).2) ∧
       ((ask b.length).1 = true →
         ∃ t, Sys2Proof.Machine.exec (.bar2WindowAccess .pf off (.write b (.ok []))) s = .next t ∧
           t = { (ask b.length).2 with mem := t.mem } ∧ (∀ j, j < b.length → t.byte (la + j) = b.getD j 0) ∧
           ∀ a, (a < la ∨ la + b.length ≤ a) → t.byte a = s.byte a)) ∧
     (∀ f x, Sys2Proof.Machine.exec (.bar2WindowAccess (.vf f) off x) s = .next s) ∧
     (∀ (block : Nat) (o : Nat), block < 64 → o < 0x10000 → o % 8 = 0 →
       read .pf (block * 0x10000 + o) 8 = .next (told .pf (natToBytes 8 (s.regRead block o).toNat)) ∧
       ∀ f, read (.vf f) (block * 0x10000 + o) 8 =
         if s.vfReads f block o then .next (told (.vf f) (natToBytes 8 (s.regRead block o).toNat))
         else .next (denied (told (.vf f) (List.replicate 8 0)))) ∧
     (∀ (src : Src) (c : BitVec 12) (o : Nat), o + n ≤ 0xC000 → 0 < n →
       let may := src = .pf ∨ ∃ f i p, src = .vf f ∧ s.planOf c = some (i, p) ∧ s.owner p.ctx.toNat = f
       let k := s.carrel c
       let at_ := 0x4000000 + c.toNat * 0xC000 + o
       (may → ∃ d : List Byte, d.length = n ∧ read src at_ n = .next (told src d) ∧
         ∀ j, j < n →
           let a := o + j
           let part (w : Word) : Byte := BitVec.ofNat 8 (w.toNat / 256 ^ (a % 8))
           (a < 0x800 → d.getD j 0 = part (s.creg c (a / 8))) ∧
           (0xC00 ≤ a → a < 0xC08 → d.getD j 0 = part k.pc) ∧
           (0xC08 ≤ a → a < 0xC10 → d.getD j 0 = part (k.vl.setWidth 64))) ∧
       (∀ f, src = .vf f → ¬ may → read src at_ n = .next (denied (told src (List.replicate n 0))))) ∧
     (∀ (second : Bool) (x : Bank2), (if second then s.census.bankB else s.census.bankA) = some x → x.done = true →
       let base := 0x2000000 + if second then 0x800000 else 0
       read .pf base 8 = .next (told .pf (natToBytes 8 x.tag.toNat)) ∧
       (∀ f, read (.vf f) base 8 = .next (denied (told (.vf f) (List.replicate 8 0)))) ∧
       ∀ (src : Src) (c : BitVec 12),
         let may := src = .pf ∨ ∃ f i p, src = .vf f ∧ s.planOf c = some (i, p) ∧ s.owner p.ctx.toNat = f
         let k := Tab.get Carrel.reset x.carrels c.toNat
         let at_ := base + 0x010000 + c.toNat * 256
         (may → read src (at_ + 32) 8 = .next (told src (natToBytes 8 k.count.retired.toNat)) ∧
           read src (at_ + 128) 8 = .next (told src (natToBytes 8 (k.nan.stat c).toNat))) ∧
         (∀ f, src = .vf f → ¬ may → read src (at_ + 32) 8 = .next (denied (told src (List.replicate 8 0))))))

/-- Losing the host: a Function Level Reset, the removal of a VF, a hot reset and the Data Link going down orphan
contexts, whose copies and held completions are dropped; D3hot and D0 move the function's bit; the link that comes
up takes its parameters. The model's choice: which rows change the enabled virtual functions (log entry 87). -/
def Obligations.HostLossesAndPower : Prop :=
  ∀ s : State,
    let orphaned (d : Nat) (t : State) : Prop :=
      (s.hctx d).orphaned = false → (t.hctx d).orphaned = true ∧ (t.hctx d).event = true ∧
        ∀ x ∈ (t.hctx d).cmds, x ∈ (s.hctx d).cmds ∧ x.isCopy = false
    (∀ (f : BitVec 6) (removed : Bool), f ≠ 0 → ∃ t, Sys2Proof.Machine.exec (.flrVf ⟨f, removed⟩) s = .next t ∧
      (∀ d, d < 4096 → s.owner d = f → orphaned d t) ∧
      (∀ d, d < 4096 → s.owner d ≠ f → t.hctx d = s.hctx d) ∧ t.carrels = s.carrels ∧
      t.host.vfs = if removed then s.host.vfs &&& ~~~ (1#64 <<< f.toNat) else s.host.vfs) ∧
    (∃ t, Sys2Proof.Machine.exec .flrPf s = .next t ∧ (∀ d, d < 4096 → orphaned d t) ∧ t.host.vfs = 0 ∧
      t.host.d3 = s.host.d3 ∧ t.carrels = s.carrels) ∧
    (∃ t, Sys2Proof.Machine.exec .hotReset s = .next t ∧ (∀ d, d < 4096 → orphaned d t) ∧ t.host.vfs = 0 ∧
      t.host.d3 = 0 ∧ t.carrels = s.carrels) ∧
    (∃ t, Sys2Proof.Machine.exec .dataLinkDown s = .next t ∧ (∀ d, d < 4096 → orphaned d t) ∧ t.host.vfs = 0 ∧
      t.host.dlUp = false ∧ t.host.dlDowns = satInc s.host.dlDowns ∧ t.sent = s.sent ∧ t.census = s.census ∧
      t.carrels = s.carrels) ∧
    (∀ rate width noflit vfs, ∃ t, Sys2Proof.Machine.exec (.dataLinkUp rate width noflit vfs) s = .next t ∧
      t.host.rate = rate ∧ t.host.width = width ∧ t.host.noflit = noflit ∧ t.host.dlUp = true ∧
      t.host.vfs = (vfs &&& ~~~ 1#64) ∧ t.host.lostDue = [] ∧
      t.census.ring.num = s.census.ring.num + s.host.lostDue.length) ∧
    (∀ f : BitVec 6,
      Sys2Proof.Machine.exec (.d3hotEntry f) s = .next { s with host := { s.host with d3 := s.host.d3 ||| (1#64 <<< f.toNat) } } ∧
      Sys2Proof.Machine.exec (.d0Entry f) s =
        .next { s with host := { s.host with d3 := s.host.d3 &&& ~~~ (1#64 <<< f.toNat) } }) ∧
    (∀ (src : Src) (ctx : BitVec 12) (f : BitVec 6), (∀ g, src ≠ .vf g) →
      let h : HostUnit := { s.host with orphCtx := ctx, orphAction := 1, orphFunc := f }
      ((s.hctx ctx.toNat).orphaned = false → Sys2Proof.Machine.exec (.reclaim src ctx f) s =
        .next { s with host := { h with orphRej := true } }) ∧
      ((s.hctx ctx.toNat).orphaned = true → (f = 0 ∨ s.host.vfs.getLsbD f.toNat = true) →
        ∃ t, Sys2Proof.Machine.exec (.reclaim src ctx f) s = .next t ∧
          t = { s with
            seg := { s.seg with func := t.seg.func }
            host := { h with ctxs := t.host.ctxs, intake := t.host.intake } } ∧
          (∀ d, t.owner d = if d = ctx.toNat then f else s.owner d) ∧
          (∀ d, t.hctx d = if d = ctx.toNat then { s.hctx d with orphaned := false } else s.hctx d) ∧
          ∀ k, Tab.get 0 t.host.intake k = if k / 4096 = ctx.toNat then 0 else Tab.get 0 s.host.intake k) ∧
      ((s.hctx ctx.toNat).orphaned = true → ctx ≠ 0 → (s.func (.ctx ctx)).state = 2 →
        ∃ t, Sys2Proof.Machine.exec (.release src ctx) s = .next t ∧ (t.func (.ctx ctx)).state = 3 ∧
          (t.func (.ctx ctx)).request = false ∧ (t.hctx ctx.toNat).orphaned = false ∧
          ∀ d, d ≠ ctx.toNat → t.hctx d = s.hctx d))

/-! ## Errors, census, security and keepers -/

/-- The error ring: a report is written at the head as 64 bytes, with vector 0 to the PF; a full ring counts it as
lost; while the ring is off up to 64 are held. CEN_RING_CTL enables and disables it. Census and gauge controls: a
request for a snapshot two ticks ahead, which CEN_CTL.NOW shows, the end of a copy, allotments, partition rates, the
package NaN record and the power maximum. -/
def Obligations.ErrorRingAndCensus : Prop :=
  (∀ (r : Report) (s : State),
     let g := s.census.ring
     let slot := g.base.toNat * 64 + 64 * (g.head.toNat % g.entries)
     (g.en = true → (g.head - g.tail).toNat ≠ g.entries → slot + 64 ≤ s.hbmEnd →
       ∃ t, Sys2Proof.Machine.exec (.errorReport r) s = .next t ∧
         (∀ j, j < 64 → t.byte (slot + j) = (reportBytes r g.head s.tick.no).getD j 0) ∧
         (∀ a, (a < slot ∨ slot + 64 ≤ a) → t.byte a = s.byte a) ∧
         t.census.ring = { g with head := g.head + 1, num := g.num + 1, seqs := t.census.ring.seqs } ∧
         Tab.get none t.census.ring.seqs g.num = some g.head ∧
         (s.host.dlUp = true → .msix 0 0 ∈ t.sent) ∧ t.carrels = s.carrels ∧ t.tick = s.tick) ∧
     (g.en = true → (g.head - g.tail).toNat = g.entries →
       ∃ t, Sys2Proof.Machine.exec (.errorReport r) s = .next t ∧ t.mem = s.mem ∧
         t.census.ring = { g with lost := satInc g.lost, num := g.num + 1 }) ∧
     (g.en = false → g.held.length < 64 →
       ∃ t, Sys2Proof.Machine.exec (.errorReport r) s = .next t ∧ t.mem = s.mem ∧
         t.census.ring = { g with
           num := g.num + 1, held := g.held ++ [{ rep := r, tick := s.tick.no, num := g.num, ref := none }] }) ∧
     (∀ (src : Src) (v : Word), (∀ f, src ≠ .vf f) →
       (v.getLsbD 0 = true → g.en = false → g.held = [] → Sys2Proof.Machine.exec (.ringEnable src v) s =
         .next { s with census := { s.census with ring := { g with log2 := v.extractLsb' 1 5, en := true } } }) ∧
       (v.getLsbD 0 = false → g.en = true → Sys2Proof.Machine.exec (.ringEnable src v) s =
         .next { s with census := { s.census with ring := { g with en := false } } }) ∧
       (v.getLsbD 0 = true → g.en = true → Sys2Proof.Machine.exec (.ringEnable src v) s = .next s)) ∧
     (∀ (f : BitVec 6) (v : Word), Sys2Proof.Machine.exec (.ringEnable (.vf f) v) s =
       .next { s with host := { s.host with denied := satInc s.host.denied } })) ∧
  (∀ (src : Src) (v : Word) (s : State), (∀ f, src ≠ .vf f) →
     let c := s.census
     let downs : List Nat :=
       if s.chain.up || s.chain.setup then (upto 12).filter fun l => s.chain.live.down.getLsbD l else []
     let b := s.tick.no + 2
     (s.chain.live.master = true → b ∈ c.due → Sys2Proof.Machine.exec (.censusNow src) s =
       .next { s with census := { c with now := some b } }) ∧
     (s.chain.live.master = true → downs = [] → b ∉ c.due → Sys2Proof.Machine.exec (.censusNow src) s =
       .next { s with census := { c with now := some b, due := c.due ++ [b], next := b } }) ∧
     (s.chain.live.master = false → Sys2Proof.Machine.exec (.censusNow src) s = .next s) ∧
     (∀ b, (if c.newest then c.bankB else c.bankA) = some b → b.done = false →
       ∃ t, Sys2Proof.Machine.exec .censusCopyDone s = .next t ∧
         t = { s with sent := t.sent, census := { c with
           snap := b.tag
           bankA := if c.newest then c.bankA else some { b with done := true }
           bankB := if c.newest then some { b with done := true } else c.bankB } }) ∧
     (∀ ctx : BitVec 12,
       let base := (v.extractLsb' 0 12).toNat
       let count := (v.extractLsb' 16 13).toNat
       let free := base + count ≤ 4096 ∧ s.hasResident ctx.toNat = false ∧ ∀ x ∈ s.train, x.1 ≠ ctx.toNat → count ≠ 0 →
         x.2.count ≠ 0 → x.2.base.toNat + x.2.count.toNat ≤ base ∨ base + count ≤ x.2.base.toNat
       ∃ t, Sys2Proof.Machine.exec (.cenGaugeAllotWrite src ctx v) s = .next t ∧ t = { s with train := t.train } ∧
         (∀ d, d ≠ ctx.toNat → t.trainCtx d = s.trainCtx d) ∧
         (free → t.trainCtx ctx.toNat = { s.trainCtx ctx.toNat with
           base := v.extractLsb' 0 12, count := v.extractLsb' 16 13
           rej := (s.trainCtx ctx.toNat).rej && !v.getLsbD 63 }) ∧
         (¬ free → t.trainCtx ctx.toNat = { s.trainCtx ctx.toNat with rej := true })) ∧
     (∀ (i : BitVec 3) (p : BitVec 6), 10 ≤ s.start.step.toNat → s.plans = [] →
       let k := s.stack i.toNat
       let r := v.extractLsb' 0 35
       let all := ((upto 64).map fun q => if q = p.toNat then ratePlan r + rateUnpl r
         else ratePlan (k.rateShown q) + rateUnpl (k.rateShown q)).sum
       ∃ t, Sys2Proof.Machine.exec (.hbmPartRateWrite src i p v) s = .next t ∧
         (∀ j, j ≠ i.toNat → t.stack j = s.stack j) ∧
         (all ≤ 20480 → Tab.get none (t.stack i.toNat).ratePend p.toNat = some r ∧
           t.stack i.toNat = { k with ratePend := (t.stack i.toNat).ratePend, rej := (t.stack i.toNat).rej }) ∧
         (20480 < all → Tab.get false (t.stack i.toNat).rej p.toNat = true ∧
           t.stack i.toNat = { k with rej := (t.stack i.toNat).rej })) ∧
     Sys2Proof.Machine.exec (.packageNanClear src v) s = .next { s with census := { c with nan := { c.nan with
       valid := c.nan.valid && !v.getLsbD 0, more := c.nan.more && !v.getLsbD 1 } } } ∧
     Sys2Proof.Machine.exec (.maxClr src) s = .next { s with power := { s.power with pinMax := s.power.pin } })

/-- Anti-rollback: a commit at or below COUNT changes nothing, one that the images do not carry is refused, and one
that both carry raises COUNT to it; a blown bit stays. A mailbox takes a request unless it is busy. Authenticated
debug: NEWCHAL puts a fresh challenge of 32 bytes out, VERIFY uses it up and opens debug or says why not, CLOSE ends
it; inside the open scope a debug request and test-port writes reach a carrel, outside they do nothing; a request is
withdrawn when its source is cleared (log entry 73: the model's choice). -/
def Obligations.Security : Prop :=
  (∀ (src : DictSrc) (v : BitVec 8) (s : State), s.dictServed src = true → (∀ f, src ≠ .vf f) →
     let noted : State := { s with dict := { s.dict with vals := Tab.set none s.dict.vals (0x4800 * 256 + 4) (some [v]) } }
     let old := bytesToNat (s.fuseBytes 0x60 16)
     (v.toNat ≤ s.arbCount → ∃ t, Sys2Proof.Machine.exec (.arbCommit src v) s = .next t ∧ Answered src 0 1 1 [] noted t) ∧
     (s.arbCount < v.toNat →
       (v.toNat ≤ 128 ∧ s.sec.imageA.status = 0 ∧ s.sec.imageB.status = 0 ∧ v.toNat ≤ s.sec.imageA.svn ∧
           v.toNat ≤ s.sec.imageB.svn →
         ∃ u t, Sys2Proof.Machine.exec (.arbCommit src v) s = .next t ∧ Answered src 0 1 1 [] u t ∧
           u = { noted with
             sec := { s.sec with fuse := u.sec.fuse }
             keepers := { s.keepers with fuseW := u.keepers.fuseW, fuseE := u.keepers.fuseE } } ∧ u.arbCount = v.toNat ∧
           (∀ i, old.testBit i = true → (bytesToNat (u.fuseBytes 0x60 16)).testBit i = true) ∧
           ∀ k, (k < 0x60 ∨ 0x70 ≤ k) → Tab.get 0 u.sec.fuse k = Tab.get 0 s.sec.fuse k) ∧
       ((128 < v.toNat ∨ s.sec.imageA.status ≠ 0 ∨ s.sec.imageB.status ≠ 0 ∨ s.sec.imageA.svn < v.toNat ∨
           s.sec.imageB.svn < v.toNat) →
         ∃ t, Sys2Proof.Machine.exec (.arbCommit src v) s = .next t ∧
           Answered src 0x08000020 0 0 [] { s with sec := { s.sec with arbRej := true } } t)) ∧
     (let m := boxOf src
      let b := s.mbox m
      ∃ u t, Sys2Proof.Machine.exec (.attGo (BitVec.ofNat 7 m) src) s = .next t ∧ Answered src 0 1 1 [] u t ∧
        (b.status = 1 → u = s) ∧
        (b.status ≠ 1 → u = { s with sec := { s.sec with boxes := u.sec.boxes } } ∧
          (∀ j, j ≠ m → u.mbox j = s.mbox j) ∧ u.mbox m = { b with go := 1, status := 1, asked := true, cap := [] })) ∧
     (∀ m : BitVec 7, (s.mbox m.toNat).cap ≠ [] → (∀ x ∈ s.sec.boxes, x.1 < m.toNat → x.2.cap = []) →
       ∃ t r, Sys2Proof.Machine.exec (.attestationSigned m) s = .next t ∧
         t = { s with fresh := t.fresh, sec := { s.sec with boxes := t.sec.boxes } } ∧
         (∀ j, j ≠ m.toNat → t.mbox j = s.mbox j) ∧
         t.mbox m.toNat = { s.mbox m.toNat with status := 2, report := (s.mbox m.toNat).cap ++ r, cap := [] })) ∧
  (∀ (src : Src) (s : State), (∀ f, src ≠ .vf f) →
     let reason := s.verifyReason
     let may (c : BitVec 12) := s.sec.dbgOpen = true ∧ s.sec.scope.getLsbD 0 = true ∧
       (s.sec.scope.getLsbD 2 = true ∨ ∃ i p, s.planOf c = some (i, p) ∧ p.ctx = s.sec.scope.extractLsb' 16 12)
     (∃ x : List Byte, x.length = 32 ∧ Sys2Proof.Machine.exec (.newchal src) s =
       .next { s with fresh := s.fresh + 4, sec := { s.sec with chal := x, chalOut := true } }) ∧
     Sys2Proof.Machine.exec (.verify src) s = .next { s with sec :=
       if reason = 0 then { s.sec with chalOut := false, dbgOpen := true, everOpen := true, dbgRej := false }
       else { s.sec with
         chalOut := false, dbgRej := true, dbgReason := BitVec.ofNat 3 reason
         fails := if 8 ≤ s.sec.fails.toNat then 8 else s.sec.fails + 1 } } ∧
     (s.sec.chalOut = false → reason = 1) ∧
     (8 ≤ s.sec.fails.toNat → reason ≠ 0 ∧ reason ≠ 4) ∧
     Sys2Proof.Machine.exec (.close src) s = .next { s with sec := { s.sec with dbgOpen := false } } ∧
     ∀ c : BitVec 12,
       Sys2Proof.Machine.exec (.debugRequest ⟨c, false⟩) s = .next (s.modCarrel c fun k => { k with debugReq := false }) ∧
       (may c →
         Sys2Proof.Machine.exec (.debugRequest ⟨c, true⟩) s = .next (s.modCarrel c fun k => { k with debugReq := true }) ∧
         ∀ v : Word,
           Sys2Proof.Machine.exec (.testPortWrite c .pc v) s =
             .next (s.modCarrel c fun k => { k with pc := v &&& ~~~ 1#64 }) ∧
           Sys2Proof.Machine.exec (.testPortWrite c .vl v) s =
             .next (s.modCarrel c fun k => { k with vl := v.extractLsb' 0 11 }) ∧
           (∀ n, Sys2Proof.Machine.exec (.testPortWrite c (.creg n) v) s = .next (s.modCarrel c fun k => k.setCreg n.toNat v)) ∧
           (∀ i : BitVec 3, i.toNat < (s.dataOf c).dres.length →
             ∃ t, Sys2Proof.Machine.exec (.testPortWrite c (.data i) v) s = .next t ∧
               t = { s with carrels := t.carrels } ∧ (t.dataOf c).dres[i.toNat]? = some v ∧
               ∀ j, j ≠ i.toNat → (t.dataOf c).dres[j]? = (s.dataOf c).dres[j]?) ∧
           (∀ i : BitVec 4, i.toNat < (s.retOf c).rres.length →
             ∃ t, Sys2Proof.Machine.exec (.testPortWrite c (.ret i) v) s = .next t ∧
               t = { s with carrels := t.carrels } ∧ (t.retOf c).rres[i.toNat]? = some v ∧
               ∀ j, j ≠ i.toNat → (t.retOf c).rres[j]? = (s.retOf c).rres[j]?) ∧
           ∃ t, Sys2Proof.Machine.exec (.testPortWrite c .halt v) s = .next t ∧ (t.carrel c).halted = true ∧
             (t.carrel c).wd.run = false ∧ ∀ d, d ≠ c → t.carrel d = s.carrel d) ∧
       (¬ may c → Sys2Proof.Machine.exec (.debugRequest ⟨c, true⟩) s = .next s ∧
         ∀ x v, Sys2Proof.Machine.exec (.testPortWrite c x v) s = .next s))

/-- Failures: a failed carrel stops, its tick does not commit, and the spare that the redirect rule picks is ordered
for it, or the context of its plan is halted where none is left; a failed bay unit moves its bay to a whole spare
bay and halts the contexts that use it; a standby keeper takes over, and the last keeper's failure leaves none. The
model's own: the numbers of a bay's units, and what a spare begins with (log entries 38, 39, 59). -/
def Obligations.FailuresAndKeepers : Prop :=
  ∀ s : State,
    (∀ (c : BitVec 12) (why : BitVec 8) (i p slot : Nat), s.keepers.none_ = false →
      (∀ j, j < 64 → (s.redirectAt (c.toNat / 2048 * 64 + j)).getLsbD 31 = true →
        ((s.redirectAt (c.toNat / 2048 * 64 + j)).extractLsb' 0 12).toNat ≠ c.toNat) →
      i < 64 → (∀ j, j < i → (s.redirectAt (c.toNat / 2048 * 64 + j)).getLsbD 31 = true) →
      (s.redirectAt (c.toNat / 2048 * 64 + i)).getLsbD 31 = false →
      s.pickSpare (c.toNat / 2048) = some (p, slot) →
      ∃ t, Sys2Proof.Machine.exec (.carrelFailure c why) s = .next t ∧
        (t.carrel c).wait = .rest ∧ (t.carrel c).queue = [] ∧ (t.carrel c).ended = false ∧
        t.redirectAt (c.toNat / 2048 * 64 + i) = BitVec.ofNat 32 (2 ^ 31 + slot * 2 ^ 20 + p * 2 ^ 12 + c.toNat) ∧
        t.keepers.count.substitutions = s.keepers.count.substitutions + 1 ∧
        s.census.ring.num < t.census.ring.num ∧ t.tick.haltDue = s.tick.haltDue) ∧
    (∀ (c : BitVec 12) (why : BitVec 8) (i : Nat) (p : Plan), s.keepers.none_ = false →
      s.pickSpare (c.toNat / 2048) = none → s.planOf c = some (i, p) → s.map.badSlots = [] →
      (∀ j, (s.redirectAt j).getLsbD 31 = false) →
      ∃ t, Sys2Proof.Machine.exec (.carrelFailure c why) s = .next t ∧
        (t.carrel c).wait = .rest ∧ s.census.ring.num + 1 < t.census.ring.num ∧
        t.tick.haltDue = s.tick.haltDue ++ [(p.ctx.toNat, 4, some s.census.ring.num)]) ∧
    (∀ (b unit : BitVec 8) (p : Nat), s.keepers.none_ = false →
      (s.spareBays (b.toNat / 128)).find? (fun p => !s.serves (b.toNat / 128) p) = some p →
      ∃ t, Sys2Proof.Machine.exec (.bayunitFail b unit) s = .next t ∧ t.physSoon b.toNat = p ∧
        t.map.badBays = (b.toNat / 128 * 132 + s.physSoon b.toNat) :: s.map.badBays ∧
        s.census.ring.num < t.census.ring.num ∧
        t.tick.haltDue = s.tick.haltDue ++ ((s.bayCtxs b.toNat).eraseDups.map fun x => (x, 3, some s.census.ring.num))) ∧
    Sys2Proof.Machine.exec .keeperHeartbeat s = .next s ∧
    (∀ cause : BitVec 8,
      (s.keepers.standbyOk = true → s.keepers.none_ = false →
        ∃ t, Sys2Proof.Machine.exec (.keeperTakeover cause) s = .next t ∧
          t.keepers = { s.keepers with
            active := !s.keepers.active, standbyOk := false
            count := { s.keepers.count with takeovers := s.keepers.count.takeovers + 1 } } ∧
          t.tick.gapDue = (s.tick.gapDue || decide (s.tick.part = .gap)) ∧
          s.census.ring.num < t.census.ring.num ∧ t.dict.usdo = none ∧
          ∀ f, f < 64 → (t.win f).go = true → (s.win f).write = false) ∧
      (s.keepers.standbyOk = false → Sys2Proof.Machine.exec (.keeperTakeover cause) s = .next s)) ∧
    (s.keepers.none_ = false →
      (∀ k, k ≠ s.keepers.active → Sys2Proof.Machine.exec (.keeperFailure k) s =
        .next { s with keepers := { s.keepers with standbyOk := false } }) ∧
      (s.keepers.standbyOk = false →
        ∃ t, Sys2Proof.Machine.exec (.keeperFailure s.keepers.active) s = .next t ∧ t.keepers.none_ = true ∧
          t.keepers.count = s.keepers.count ∧ t.census.ring.num = s.census.ring.num + 1))

/-! ## Dictionary, CAN and functions -/

/-- The command entries, written by the CAN master or the PF: what each accepts and does, and the abort code for
what it refuses. A virtual function may not write them. The dictionary window of a function: a read leaves the value
of the entry in the buffer, a write takes it from there, and an entry or subentry that is not there, a read-only one
and a value of the wrong length are refused with their codes. A transfer in parts that stops ends after 1 s. The
model's own: edges of the windows and selectors, TICK_ROLE before UP, and the tokens of a peek drawn first (log
entries 45, 46, 49, 75, 80). -/
def Obligations.Dictionary : Prop :=
  (∀ (src : DictSrc) (s : State), s.dictServed src = true → s.sec.recovery = false → s.dict.transfers = [] →
     s.dict.usdo = none →
     let noted (key : Nat) (v : List Byte) : State :=
       { s with dict := { s.dict with vals := Tab.set none s.dict.vals key (some v) } }
     let put (u : State) (b : Bool) (f : Flash) : State :=
       { u.setImage b f with sec := if b then { (u.setImage b f).sec with bOk := decide (f.status = 0) }
           else { (u.setImage b f).sec with aOk := decide (f.status = 0) } }
     let answers (cmd : Instr) (code n : Nat) (u : State) : Prop :=
       ∃ t, Sys2Proof.Machine.exec cmd s = .next t ∧ Answered src code n n [] u t
     (∀ f, src = .vf f → ∀ v, answers (.storeAll src v) 0x06010000 0 s) ∧
     ((∀ f, src ≠ .vf f) →
       (∃ u, answers (.storeAll src 0x65766173) 0 4 u ∧
         u = { noted (0x1010 * 256 + 1) (natToBytes 4 0x65766173) with
           dict := { (noted (0x1010 * 256 + 1) (natToBytes 4 0x65766173)).dict with stored := u.dict.stored } } ∧
         (∀ v, Tab.get none s.dict.vals (0x1017 * 256) = some v → s.dict.trims = [] → s.dict.trimsNext = [] →
           Tab.wf none s.dict.vals = true → Tab.get none u.dict.stored (0x1017 * 256) = some v) ∧
         (∀ k x, 0x210000 ≤ k → k < 0x220000 → Tab.get 0 s.dict.trims k = x → x ≠ 0 → Tab.wf 0 s.dict.trims = true →
           s.dict.trimsNext = [] → Tab.get none u.dict.stored k = some (natToBytes 2 (BitVec.ofInt 16 x).toNat))) ∧
       (∀ v : BitVec 32, v ≠ 0x65766173 → answers (.storeAll src v) 0x06090030 0 s) ∧
       (let n := noted (0x1011 * 256 + 1) (natToBytes 4 0x64616F6C)
        answers (.restoreAll src 0x64616F6C) 0 4 { n with dict := { n.dict with stored := [] } }) ∧
       (∀ v : BitVec 32, v ≠ 0x64616F6C → answers (.restoreAll src v) 0x06090030 0 s) ∧
       (∀ v : BitVec 8, ((v = 1 ∨ v = 2) → answers (.clearStanding src v) 0 1
           { noted (0x2252 * 256) [v] with start := { s.start with clear := v } }) ∧
         (v ≠ 1 → v ≠ 2 → answers (.clearStanding src v) 0x06090030 0 s)) ∧
       (∀ (idx : BitVec 16) (sub : BitVec 8) (v : Word), 0x2120 ≤ idx.toNat → idx.toNat ≤ 0x2124 → 1 ≤ sub.toNat →
         sub.toNat ≤ 3 → answers (.calibrationTrimWrite src idx sub v) 0 2
           { s with dict := { s.dict with
             trimsNext := Tab.set none s.dict.trimsNext (idx.toNat * 256 + sub.toNat) (some (v.setWidth 16).toInt) } }) ∧
       (∀ (idx : BitVec 16) (sub : BitVec 8) (v : Word), (idx.toNat < 0x2100 ∨ 0x2200 ≤ idx.toNat) →
         answers (.calibrationTrimWrite src idx sub v) 0x06020000 0 s) ∧
       (∀ b : Bool,
         let sub : BitVec 8 := if b then 2 else 1
         let f := s.image b
         let key := 0x1F51 * 256 + sub.toNat
         (f.status ≠ 2 → (b ≠ s.sec.runImage ∨ (s.image (!b)).status = 0) →
           answers (.programClear src sub) 0 1 (put (noted key [3]) b { bytes := [], status := 1 })) ∧
         ((f.status = 2 ∨ (b = s.sec.runImage ∧ (s.image (!b)).status ≠ 0)) →
           answers (.programClear src sub) 0x08000022 0 s) ∧
         answers (.programEnd src sub) 0 1 (put (noted key [1]) b { f with
           status := if s.imageCheck f = 0 then 0 else BitVec.ofNat 16 (3 + s.imageCheck f * 256) })) ∧
       (∀ n a, 1 ≤ n → n ≤ 256 → s.selVal src 0x2240 1 (natToBytes 8 0) = natToBytes 8 a →
         s.selVal src 0x2240 2 (natToBytes 2 1) = natToBytes 2 n → a < 0x0C000000000 → s.present a n = true → s.lost = [] →
         ((s.peekAsk src).1 = false → Sys2Proof.Machine.exec (.peekData src 0 n) s = .next (s.peekAsk src).2) ∧
         ((s.peekAsk src).1 = true → ∃ t, Sys2Proof.Machine.exec (.peekData src 0 n) s = .next t ∧
           Answered src 0 n n (s.bytes a n) { (s.peekAsk src).2 with fresh := s.fresh + 1 } t))) ∧
     (∀ v : BitVec 32,
       ((∃ r, dictFind (v.toNat / 256) (v.toNat % 256) = .row r) →
         answers (.descSelect src v) 0 4 (s.setSel src 0x2203 1 (natToBytes 4 v.toNat))) ∧
       (dictFind (v.toNat / 256) (v.toNat % 256) = .noIndex → answers (.descSelect src v) 0x06020000 0 s) ∧
       (dictFind (v.toNat / 256) (v.toNat % 256) = .noSub → answers (.descSelect src v) 0x06090011 0 s))) ∧
  (∀ (f : BitVec 6) (s : State),
     let src := windowSrc f
     let w := s.win f.toNat
     let u := s.modWin f.toNat fun w => { w with go := true }
     (s.dictServed src = true → s.sec.recovery = false → s.dict.transfers = [] → s.dict.usdo = none →
       (w.write = true → Sys2Proof.Machine.exec (.dictRead f) s = .next s) ∧
       (w.write = false →
         (w.index = 0x3000 → w.sub = 2 → w.offset = 0 → 8 ≤ w.length.toNat → w.length.toNat ≤ 4096 →
           ∃ t, Sys2Proof.Machine.exec (.dictRead f) s = .next t ∧
             Answered src 0 8 8 (natToBytes 8 s.tick.no.toNat) { u with fresh := s.fresh + 1 } t) ∧
         (dictFind w.index.toNat w.sub.toNat = .noIndex →
           ∃ t, Sys2Proof.Machine.exec (.dictRead f) s = .next t ∧ Answered src 0x06020000 0 0 [] u t) ∧
         (dictFind w.index.toNat w.sub.toNat = .noSub →
           ∃ t, Sys2Proof.Machine.exec (.dictRead f) s = .next t ∧ Answered src 0x06090011 0 0 [] u t)) ∧
       (w.write = false → Sys2Proof.Machine.exec (.dictWrite f) s = .next s) ∧
       (w.write = true → ∀ n : BitVec 32, (∀ j, j < 4 → Tab.get 0 w.buf j = BitVec.ofNat 8 (n.toNat / 256 ^ j)) →
         w.offset = 0 →
         (f = 0 → w.index = 0x4400 → w.sub = 1 → w.length = 4 →
           (n.toNat < 2 ^ 20 → ∃ t, Sys2Proof.Machine.exec (.dictWrite f) s = .next t ∧
             Answered src 0 4 4 [] { u with census := { s.census with period := n.setWidth 20 } } t) ∧
           (2 ^ 20 ≤ n.toNat → ∃ t, Sys2Proof.Machine.exec (.dictWrite f) s = .next t ∧
             Answered src 0x06090030 0 0 [] u t)) ∧
         (f = 0 → w.index = 0x4400 → w.sub = 1 → w.length = 2 →
           ∃ t, Sys2Proof.Machine.exec (.dictWrite f) s = .next t ∧ Answered src 0x06070010 0 0 [] u t) ∧
         (f ≠ 0 → w.index = 0x4400 → w.sub = 1 → w.length = 4 →
           ∃ t, Sys2Proof.Machine.exec (.dictWrite f) s = .next t ∧ Answered src 0x06010000 0 0 [] u t) ∧
         (w.index = 0x3000 → w.sub = 2 → w.length = 4 →
           ∃ t, Sys2Proof.Machine.exec (.dictWrite f) s = .next t ∧ Answered src 0x06010002 0 0 [] u t))) ∧
     (∀ src : DictSrc, ∃ t, Sys2Proof.Machine.exec (.dictTransferTimeout src) s = .next t ∧
       t.dict.transfers = s.dict.transfers.filter (fun x => !decide (x.src = src)) ∧
       (∀ b : Bool, t.image b = s.image b ∨ (t.image b = { bytes := [], status := 1 } ∧
         ∃ x ∈ s.dict.transfers, x.src = src ∧ x.write = true ∧ x.index = 0x1F50)) ∧
       t.carrels = s.carrels ∧ t.mem = s.mem))

/-- The keeper on CAN FD: the NMT states, boot-up and heartbeat, EMCY spacing, TPDOs, USDO in one message and in
segments, and the bus going off. Readings of the model: TPDOs, heartbeats and timers (log entries 48, 53). -/
def Obligations.CanServices : Prop :=
  ∀ s : State,
    let served := s.keepers.none_ = false ∧ s.dict.busOff = false ∧ s.dict.nodeId ≠ 0 ∧ s.dict.nmt ≠ 0
    let talks := s.keepers.none_ = false ∧ s.dict.busOff = false ∧ s.dict.nodeId ≠ 0 ∧ (s.dict.nmt = 1 ∨ s.dict.nmt = 2)
    let nmt (n : BitVec 2) : State := { s with dict := { s.dict with nmt := n } }
    let beat (b : Byte) : List Sent := .can (0x700 + s.dict.nodeId.toNat) [b] :: s.sent
    (served →
      Sys2Proof.Machine.exec .nmtStart s = .next (nmt 2) ∧ Sys2Proof.Machine.exec .nmtStop s = .next (nmt 3) ∧
      Sys2Proof.Machine.exec .nmtPreOperational s = .next (nmt 1) ∧
      Sys2Proof.Machine.exec .resetCommunication s =
        .next { s with sent := beat 0, dict := { s.dict with vals := s.dict.storedComm, nmt := 1 } } ∧
      (∃ t, Sys2Proof.Machine.exec .resetApplication s = .next t ∧
        t = { s with sent := beat 0, dict := { s.dict with
          vals := s.dict.storedComm, nmt := 1, trimsNext := t.dict.trimsNext } } ∧
        ∀ k, (Tab.get 0 s.dict.trims k ≠ 0 ∨ Tab.get 0 s.dict.storedTrims k ≠ 0) →
          Tab.get none t.dict.trimsNext k = some (Tab.get 0 s.dict.storedTrims k)) ∧
      (bytesToNat (s.entryVal 0x1017 0 (natToBytes 2 100)) ≠ 0 → Sys2Proof.Machine.exec .heartbeat s =
        .next { s with sent := beat (if s.dict.nmt = 1 then 127 else if s.dict.nmt = 2 then 5 else 4) }) ∧
      (bytesToNat (s.entryVal 0x1017 0 (natToBytes 2 100)) = 0 → Sys2Proof.Machine.exec .heartbeat s = .next s)) ∧
    (¬ served → Sys2Proof.Machine.exec .nmtStart s = .next s) ∧
    (s.dict.emcy = [] → Sys2Proof.Machine.exec .emcyInhibitExpiry s =
      .next { s with dict := { s.dict with inhibit := false } }) ∧
    (∀ code b num rest, s.dict.emcy = (code, b, num) :: rest → ∃ d : List Byte, d.length = 4 ∧
      Sys2Proof.Machine.exec .emcyInhibitExpiry s = .next { s with
        sent := .can s.emcyId (natToBytes 2 code.toNat ++ [s.dict.errReg] ++ d) :: s.sent
        dict := { s.dict with emcy := rest, inhibit := true } }) ∧
    (∀ (n : BitVec 3) (cob : List Byte), 1 ≤ n.toNat → n.toNat ≤ 4 →
      Tab.get none s.dict.vals ((0x17FF + n.toNat) * 256 + 1) = some cob →
      (talks → s.dict.nmt = 2 → bytesToNat cob < 2 ^ 31 → s.entryVal (0x17FF + n.toNat) 2 [0xFE] = [0xFF] →
        s.entryVal (0x19FF + n.toNat) 0 [0] = [1] →
        s.entryVal (0x19FF + n.toNat) 1 (natToBytes 4 0) = natToBytes 4 (0x3000 * 65536 + 2 * 256 + 64) →
        Sys2Proof.Machine.exec (.tpdoEventTimer n) s =
          .next { s with sent := .can (bytesToNat cob % 2 ^ 11) (natToBytes 8 s.tick.no.toNat) :: s.sent }) ∧
      (2 ^ 31 ≤ bytesToNat cob → bytesToNat cob < 2 ^ 32 → Sys2Proof.Machine.exec (.tpdoEventTimer n) s = .next s)) ∧
    (talks → s.sec.recovery = false → s.dict.transfers = [] →
      (∀ n : BitVec 32,
        (n.toNat < 2 ^ 20 → ∃ t, Sys2Proof.Machine.exec (.usdoDownload 0x4400 1 4 (natToBytes 4 n.toNat)) s = .next t ∧
          Answered .can 0 4 4 []
            { s with dict := { s.dict with usdo := none }, census := { s.census with period := n.setWidth 20 } } t) ∧
        (2 ^ 20 ≤ n.toNat → ∃ t, Sys2Proof.Machine.exec (.usdoDownload 0x4400 1 4 (natToBytes 4 n.toNat)) s = .next t ∧
          Answered .can 0x06090030 0 0 [] { s with dict := { s.dict with usdo := none } } t)) ∧
      (∀ (size : Nat) (data : List Byte), 56 < size → size ≤ 16777216 → data.length < size →
        ∃ t, Sys2Proof.Machine.exec (.usdoDownload 0x1F50 1 size data) s = .next t ∧
          Answered .can 0 data.length size []
            { s with dict := { s.dict with usdo := some { index := 0x1F50, sub := 1, size := size, bytes := data } } } t) ∧
      (s.dict.usdo = none → ∃ t, Sys2Proof.Machine.exec (.usdoUpload 0x3000 2) s = .next t ∧
        Answered .can 0 8 8 (natToBytes 8 s.tick.no.toNat) { s with fresh := s.fresh + 1 } t) ∧
      (∀ (u : Usdo) (data : List Byte), s.dict.usdo = some u →
        (u.bytes.length + data.length ≤ u.size → ∃ t, Sys2Proof.Machine.exec (.usdoSegment false data) s = .next t ∧
          Answered .can 0 data.length u.size []
            { s with dict := { s.dict with usdo := some { u with bytes := u.bytes ++ data } } } t) ∧
        (u.bytes.length + data.length ≠ u.size → ∃ t, Sys2Proof.Machine.exec (.usdoSegment true data) s = .next t ∧
          Answered .can 0x06070010 0 0 [] { s with dict := { s.dict with usdo := none } } t) ∧
        (u.index = 0x1F50 → (u.sub = 1 ∨ u.sub = 2) → u.bytes.length + data.length = u.size → u.size ≤ 16777216 →
          (s.image (decide (u.sub = 2))).status = 1 →
          ∃ v t, Sys2Proof.Machine.exec (.usdoSegment true data) s = .next t ∧
            Answered .can 0 u.size u.size [] v t ∧ v.dict.usdo = none ∧
            v.image (decide (u.sub = 2)) = { bytes := u.bytes ++ data, status := 2 }) ∧
        ∃ t, Sys2Proof.Machine.exec .usdoTimeout s = .next t ∧
          Answered .can 0x05040000 0 0 [] { s with dict := { s.dict with usdo := none } } t)) ∧
    Sys2Proof.Machine.exec .canBusOff s = .next { s with dict := { s.dict with busOff := true } } ∧
    Sys2Proof.Machine.exec .canBusOffRecovery s = .next { s with dict := { s.dict with busOff := false } }

/-- Functions: enabling one that is OFF starts it, disabling one that is ON stops it, an enable during a stop is
deferred; requests that the rules refuse change nothing; the ends of the start and stop work complete them. Readings
of the model: the tokens of a scrub drawn first (log entry 80). -/
def Obligations.FunctionStates : Prop :=
  ∀ (src : DictSrc) (fn : FuncId) (s : State),
    let f := s.func fn
    let others (t : State) : Prop := (∀ g, g ≠ fn → t.func g = s.func g) ∧ t.carrels = s.carrels ∧ t.plans = s.plans
    (s.dictServed src = true → (∀ g, src ≠ .vf g) →
      (10 ≤ s.start.step.toNat → s.enableRefused fn = false →
        ∃ u t, Sys2Proof.Machine.exec (.functionEnable src fn) s = .next t ∧ Answered src 0 2 2 [] u t ∧ others u ∧
          (f.state = 0 → u.func fn = { f with request := true, state := 1, fault := false }) ∧
          (f.state = 3 → u.func fn = { f with request := true, deferred := true }) ∧
          ((f.state = 1 ∨ f.state = 2) → u.func fn = { f with request := true })) ∧
      (10 ≤ s.start.step.toNat → s.disableRefused fn = false →
        ∃ u t, Sys2Proof.Machine.exec (.functionDisable src fn) s = .next t ∧ Answered src 0 2 2 [] u t ∧ others u ∧
          ((f.state = 1 ∨ f.state = 2) → u.func fn = { f with
            request := false, state := 3, deferred := false, scrub := (u.func fn).scrub }) ∧
          (f.state = 3 → u.func fn = { f with request := false, deferred := false }) ∧
          (f.state = 0 → u.func fn = { f with request := false })) ∧
      ((s.start.step.toNat < 10 ∨ s.enableRefused fn = true) →
        ∃ t, Sys2Proof.Machine.exec (.functionEnable src fn) s = .next t ∧ Answered src 0x08000022 0 0 [] s t) ∧
      ((s.start.step.toNat < 10 ∨ s.disableRefused fn = true) →
        ∃ t, Sys2Proof.Machine.exec (.functionDisable src fn) s = .next t ∧ Answered src 0x08000022 0 0 [] s t)) ∧
    (∀ g : BitVec 6, s.dictServed (.vf g) = true →
      ∃ t, Sys2Proof.Machine.exec (.functionDisable (.vf g) fn) s = .next t ∧ Answered (.vf g) 0x06010000 0 0 [] s t) ∧
    (f.state = 1 →
      (∃ t, Sys2Proof.Machine.exec (.functionStartDone fn true) s = .next t ∧ t.func fn = { f with state := 2 } ∧ others t) ∧
      ∃ t, Sys2Proof.Machine.exec (.functionStartDone fn false) s = .next t ∧
        t.func fn = { f with state := 0, fault := true } ∧ others t) ∧
    (f.state ≠ 1 → ∀ ok, Sys2Proof.Machine.exec (.functionStartDone fn ok) s = .next s) ∧
    (f.state ≠ 3 → Sys2Proof.Machine.exec (.functionStopDone fn) s = .next s) ∧
    (∀ c, fn = .ctx c → f.state = 3 → s.hasPlan c.toNat = false → f.scrub = true → (s.scrubAsk c).1 = false →
      Sys2Proof.Machine.exec (.functionStopDone fn) s = .next (s.scrubAsk c).2) ∧
    (f.state = 3 → (∀ c, fn = .ctx c → s.hasPlan c.toNat = false ∧ (f.scrub = true → (s.scrubAsk c).1 = true)) →
      ∃ t, Sys2Proof.Machine.exec (.functionStopDone fn) s = .next t ∧
        t.func fn = { f with state := if f.deferred then 1 else 0, deferred := false, scrub := false } ∧
        (∀ g, g ≠ fn → t.func g = s.func g) ∧ t.plans = s.plans) ∧
    (∀ c, fn = .ctx c → f.state = 3 → s.hasPlan c.toNat = true →
      Sys2Proof.Machine.exec (.functionStopDone fn) s = .next s) ∧
    (∀ (l : Fin 12) (r : Src), fn = .link l → (∀ g, r ≠ .vf g) →
      (10 ≤ s.start.step.toNat → f.state = 0 →
        ∃ t, Sys2Proof.Machine.exec (.lnkCtlEnWrite r l true) s = .next t ∧ others t ∧
          t.func fn = { f with request := true, state := 1, fault := false } ∧ (t.link l.val).en = true) ∧
      (10 ≤ s.start.step.toNat → f.state = 2 →
        ∃ t, Sys2Proof.Machine.exec (.lnkCtlEnWrite r l false) s = .next t ∧ others t ∧
          t.func fn = { f with request := false, state := 3, deferred := false, scrub := false }) ∧
      (s.start.step.toNat < 10 → ∀ en, Sys2Proof.Machine.exec (.lnkCtlEnWrite r l en) s = .next s))

/-! ## Start-up, power and cooling -/

/-- Start-up: from a module reset with nothing failing the steps run to READY: the keeper has booted, the functions
stand as start-up gives them, tick 0 begins with its intake window, and the start is counted. Failures of the first
steps, of both keepers and of both images end it where the rules say; an item that does not end waits for its step's
limit; a start that is not ready in time resets the module. The model's choices: one row runs all the steps, and how
items end (log entries 54, 55). -/
def Obligations.StartsOfTheModule : Prop :=
  ∀ (o : StartOutcome) (s : State),
    let bothOk := ∀ b : BitVec 16, b.toNat < 2 → ∃ x, o.items.find? (fun i => decide (i.kind.toNat = 1 ∧ i.item.toNat = b.toNat)) =
      some x ∧ x.ok = true
    ((s.power.on = false ∨ s.start.step ≠ 0) → Sys2Proof.Machine.exec (.startUp o) s = .next s) ∧
    (s.power.on = true → s.start.step = 0 →
      (∀ x, o.bad12 = some x → Sys2Proof.Machine.exec (.startUp o) s =
        .next { s with power := { s.power with on := false, tries := satInc s.power.tries } }) ∧
      (o.bad12 = none → o.keeperW = false → o.keeperE = false →
        ∃ t, Sys2Proof.Machine.exec (.startUp o) s = .next t ∧ t.keepers.none_ = true ∧ t.start.step = 3 ∧
          t.dict.nodeId = o.nodeId ∧ t.start.ticking = s.start.ticking ∧ t.start.count = s.start.count) ∧
      (o.bad12 = none → (o.keeperW = true ∨ o.keeperE = true) → o.fuseOk = true → bothOk →
        (∀ x ∈ o.items, x.ok = true ∧ x.stuck = false) → s.start.fails = [] → s.start.bayMiss = [] → s.hbm = [] →
        ∃ t, Sys2Proof.Machine.exec (.startUp o) s = .next t ∧
          t.start.step = 10 ∧ t.start.ticking = true ∧ t.tick.part = .intake ∧ t.tick.no = s.tick.no ∧
          t.start.count = s.start.count + 1 ∧ t.dict.nmt = 1 ∧ t.dict.nodeId = o.nodeId ∧
          t.keepers.active = !o.keeperW ∧ t.keepers.standbyOk = (o.keeperW && o.keeperE) ∧ t.start.fails = [] ∧
          (∀ p, (t.func (.part p)).state = 2) ∧ (∀ b, (t.func (.bay b)).state = 2) ∧ (∀ i, (t.func (.stack i)).state = 2) ∧
          (t.func (.ctx 0)).state = 2 ∧ (∀ r, t.start.book.getLast? = some r → r.outcome = 6)) ∧
      (o.bad12 = none → o.keeperW = true → (∀ x ∈ o.items, x.stuck = false) → s.start.clear = 0 →
        (∀ b : Bool, ∃ x, o.items.find? (fun i => decide (i.kind.toNat = 1 ∧ i.item.toNat = b2n b)) = some x ∧ x.ok = false) →
        ∃ t, Sys2Proof.Machine.exec (.startUp o) s = .next t ∧ t.start.step = 4 ∧ t.start.outcome = 2 ∧
          t.sec.recovery = true ∧ t.start.ticking = s.start.ticking ∧ t.sec.aOk = false ∧ t.sec.bOk = false ∧
          t.start.run = none) ∧
      (o.bad12 = none → o.keeperW = true → (∃ x ∈ o.items, x.stuck = true ∧ x.kind = 1) →
        ∃ t, Sys2Proof.Machine.exec (.startUp o) s = .next t ∧ t.start.step = 4 ∧ t.start.run = some o ∧
          t.start.ticking = s.start.ticking)) ∧
    (∀ step : BitVec 4, (s.start.run = none ∨ step.toNat ≠ s.start.step.toNat) →
      Sys2Proof.Machine.exec (.startupStepTimeout step) s = .next s) ∧
    (∀ step : BitVec 4, s.start.run = some o → s.start.step = 8 → step = 8 →
      ∃ t, Sys2Proof.Machine.exec (.startupStepTimeout step) s = .next t ∧ t.start.step = 10 ∧ t.start.run = none ∧
        t.start.ticking = true ∧ t.tick.part = .intake ∧
        ∀ x ∈ o.items, x.stuck = true → x.kind = 5 → x.item.toNat / 256 < 2 → x.item.toNat % 256 < 132 →
          s.map.fuseBad = [] →
          o.items.find? (fun i => decide (i.kind.toNat = 5 ∧ i.item.toNat = x.item.toNat)) = some x →
          x.item.toNat / 256 * 132 + x.item.toNat % 256 ∈ t.map.badBays) ∧
    (s.power.on = true → s.start.run = some o →
      ∃ t, Sys2Proof.Machine.exec .startupTimeLimit s = .next t ∧ t.power.shutCause = 7 ∧
        t.power.shutCount = satInc s.power.shutCount ∧ t.start.step = 0 ∧ t.start.book = s.start.book ∧
        t.start.count = s.start.count ∧ t.carrels = [] ∧ t.sec.fuse = s.sec.fuse ∧
        t.power.on = (s.power.input && s.power.en && !s.power.latched)) ∧
    (s.power.on = false → Sys2Proof.Machine.exec .startupTimeLimit s = .next s) ∧
    (s.power.tries ≠ 0 → Sys2Proof.Machine.exec .startupRetry s = .next { s with power := { s.power with
      on := s.power.on || (s.power.input && s.power.en && !s.power.latched) } }) ∧
    (s.power.tries = 0 → Sys2Proof.Machine.exec .startupRetry s = .next s)

/-- Shutdowns: each event that takes the rails away records its cause and zone and counts; all state but the fuses,
the module flash and the sequencer's store is at its reset value, and the module starts again under the rule of the
event. Voltages, sense lines and thermal zones of a running module: the flags and readings they set, the level that
a reading gives a zone, which only rises here, and a zone without a working sensor at level 2. The model's choices:
the reset of the sequencer's store and what a fuse trip counts (log entries 56, 57). -/
def Obligations.PowerSequencer : Prop :=
  (∀ s : State,
     let p := s.power
     let shut (cause zone : BitVec 8) (t : State) : Prop :=
       t.power.on = false ∧ t.power.shutCause = cause ∧ t.power.shutZone = zone ∧ t.power.shutCount = satInc p.shutCount ∧
       t.mem = State.reset.mem ∧ t.carrels = State.reset.carrels ∧ t.plans = State.reset.plans ∧ t.tick = State.reset.tick ∧
       t.sec.fuse = s.sec.fuse ∧ t.sec.imageA = s.sec.imageA ∧ t.sec.imageB = s.sec.imageB ∧ t.dict.stored = s.dict.stored ∧
       t.start.book = s.start.book ∧ t.start.step = 0 ∧ t.pending = s.pending ∧ t.sent = s.sent
     let again := p.input && p.en && !p.latched
     let started : State := { s with power := { p with on := p.on || again } }
     let simple (cmd : Instr) (cause : BitVec 8) : Prop :=
       (p.on = true → ∃ t, Sys2Proof.Machine.exec cmd s = .next t ∧ shut cause 0xFF t ∧ t.power.latched = p.latched) ∧
       (p.on = false → Sys2Proof.Machine.exec cmd s = .next s)
     simple .brownOut 2 ∧ simple .severeOvervoltage 3 ∧
     (∀ k : BitVec 4, k.toNat < 9 → simple (.railPowerGoodLost k) 6) ∧
     (p.on = true → ∃ t, Sys2Proof.Machine.exec .fuseTrip s = .next t ∧ shut 1 0xFF t ∧
       1 ≤ t.power.trips ∧ t.power.trips ≤ p.trips + 1 ∧ t.power.trips ≤ 3 ∧ t.power.latched = decide (3 ≤ t.power.trips)) ∧
     (p.on = false → Sys2Proof.Machine.exec .fuseTrip s = .next s) ∧
     (p.shutCause = 1 → Sys2Proof.Machine.exec .fuseRetry s = .next started) ∧
     (p.shutCause ≠ 1 → Sys2Proof.Machine.exec .fuseRetry s = .next s) ∧
     (∃ t, Sys2Proof.Machine.exec .pwrEnLow s = .next t ∧ t.power.en = false ∧ t.power.on = false ∧
       (p.on = true → t.power.shutCause = 8 ∧ t.carrels = [])) ∧
     Sys2Proof.Machine.exec .pwrEnHigh s = .next { s with power := { p with
       en := true, latched := p.latched && p.en, on := p.on || (p.input && !(p.latched && p.en)) } } ∧
     (∃ t, Sys2Proof.Machine.exec .inputRemoved s = .next t ∧ t.power.input = false ∧ t.power.on = false ∧
       t.power.latched = false ∧ t.power.vinPin = 0 ∧ (p.on = true → t.power.shutCause = 9 ∧ t.carrels = [])) ∧
     (∀ v, ∃ t, Sys2Proof.Machine.exec (.inputApplied v) s = .next t ∧
       t = { s with power := { p with
         vinPin := v, vinSense := t.power.vinSense, input := true, on := p.on || (p.en && !p.latched) } }) ∧
     (∀ z, s.moduleLevel = 3 → p.on = true → z < 14 → (s.zone z).level = 3 → (∀ y, y < z → (s.zone y).level ≠ 3) →
       ∃ t, Sys2Proof.Machine.exec .criticalHoldExpiry s = .next t ∧ shut 4 (BitVec.ofNat 8 z) t ∧
         t.power.latched = (p.latched || !p.autoRestart)) ∧
     (s.moduleLevel = 3 → p.on = true → (∀ y, y < 14 → (s.zone y).level ≠ 3) →
       ∃ t, Sys2Proof.Machine.exec .criticalHoldExpiry s = .next t ∧ shut 5 14 t) ∧
     (s.moduleLevel ≠ 3 → Sys2Proof.Machine.exec .criticalHoldExpiry s = .next s) ∧
     (p.autoRestart = true → (p.shutCause = 4 ∨ p.shutCause = 5) → Sys2Proof.Machine.exec .autoRestart s = .next started) ∧
     (p.autoRestart = false → Sys2Proof.Machine.exec .autoRestart s = .next s)) ∧
  (∀ s : State, s.power.on = true →
     let p := s.power
     let keeps (t : State) : Prop := t = { s with power := t.power, dict := t.dict, sent := t.sent }
     let vin (v : BitVec 16) : PowerUnit :=
       { p with vinPin := v, vinSense := if p.senseOpen || p.senseShort then v else p.vinSense }
     let other (z : Nat) (t : State) : Prop :=
       keeps t ∧ (∀ y, y ≠ z → t.zone y = s.zone y) ∧ t.power.thermAlert = decide (t.moduleLevel = 2)
     (∀ v, (∃ t, Sys2Proof.Machine.exec (.undervoltage v) s = .next t ∧ keeps t ∧ t.power = { vin v with uv := true } ∧
         t.dict.errReg = s.dict.errReg ||| 4) ∧
       (∃ t, Sys2Proof.Machine.exec (.overvoltage v) s = .next t ∧ keeps t ∧ t.power = { vin v with ov := true } ∧
         t.dict.errReg = s.dict.errReg ||| 4) ∧
       ∃ t, Sys2Proof.Machine.exec (.voltageRecovered v) s = .next t ∧ keeps t ∧
         t.power = { vin v with uv := false, ov := false } ∧
         t.dict.errReg = if p.uv || p.ov then s.dict.errReg &&& ~~~ 4#8 else s.dict.errReg) ∧
     (∀ k : BitVec 2, ∃ t, Sys2Proof.Machine.exec (.senseFault k) s = .next t ∧
       t = { s with power := { p with
         senseOpen := p.senseOpen || decide (k.toNat < 2), senseShort := p.senseShort || decide (2 ≤ k.toNat)
         vinSense := t.power.vinSense } } ∧ t.power.vinSense = p.vinPin) ∧
     (∀ (z : BitVec 4) (r : BitVec 16), z.toNat < 15 →
       let x := s.zone z.toNat
       let l := s.levelOf z.toNat r.toInt
       (∃ t, Sys2Proof.Machine.exec (.zoneLevelRise z r) s = .next t ∧ other z.toNat t ∧
         t.zone z.toNat = { x with temp := r, level := if x.level < l then l else x.level } ∧
         (z = 13 → t.power.inlet = r) ∧ (z = 14 → t.power.flow = r)) ∧
       (∀ i : BitVec 4, i.toNat < zoneSensors z.toNat → i.toNat ∉ x.failed →
         ∃ t v, Sys2Proof.Machine.exec (.sensorFault z i) s = .next t ∧ other z.toNat { t with fresh := s.fresh } ∧
           t.zone z.toNat = { x with
             temp := v, failed := x.failed ++ [i.toNat]
             level := if ∀ j, j < zoneSensors z.toNat → j ∈ x.failed ∨ j = i.toNat then 2 else x.level }) ∧
       (∀ i : BitVec 4, i.toNat ∈ x.failed →
         ∃ t, Sys2Proof.Machine.exec (.sensorRecovered z i r) s = .next t ∧ other z.toNat t ∧
           (t.zone z.toNat).failed = x.failed.erase i.toNat ∧
           ((∀ j, j < zoneSensors z.toNat → j ∈ x.failed) → (t.zone z.toNat).temp = r ∧ (t.zone z.toNat).level = l) ∧
           ((∃ j, j < zoneSensors z.toNat ∧ j ∉ x.failed) →
             (t.zone z.toNat).level = if x.level < l then l else x.level)) ∧
       (∀ i : BitVec 4, i.toNat ∉ x.failed → Sys2Proof.Machine.exec (.sensorRecovered z i r) s = .next s)))

/-! ## The whole machine -/

/-- What module reset leaves. Where the spec gives the value: a carrel at level M and not in rescue state, the data
stack registers of bank U and the return stack registers of bank M 0, no NaN held; TICK_NO 0 and a tick of 8,000 ns;
a census period of 1,000 ticks and the error ring off with LOG2 12; relaxed ordering and peer-to-peer on; no chain
up and no route; every function OFF and the keepers not booted; RAISE_N and LOSS_EXP of the training registers. The
model's own (log entries 1, 2 and 4): no byte of memory listed, no plan and no command waiting. -/
def Obligations.ResetValues : Prop :=
  let s := State.reset
  s.pending = [] ∧ s.mem = [] ∧ s.memWf = true ∧ s.plans = [] ∧ s.tick.no = 0 ∧ s.tick.len = 8000 ∧ s.tick.lenNext = 8000 ∧
  s.census.period = 1000 ∧ s.census.ring.en = false ∧ s.census.ring.log2 = 12 ∧ s.chain.up = false ∧
  s.host.roEn = true ∧ s.host.p2pEn = true ∧ s.dict.nmt = 0 ∧ s.power.autoRestart = false ∧
  (∀ fn, (s.func fn).state = 0) ∧ (∀ c : BitVec 12, (s.carrel c).level = 2 ∧ (s.carrel c).rescue = false ∧
    (s.carrel c).bankU.d = { ptr := 0, lo := 0, hi := 0 } ∧ (s.carrel c).bankM.r = { ptr := 0, lo := 0, hi := 0 } ∧
    (s.carrel c).nan.valid = false) ∧
  (∀ c, (s.trainCtx c).raiseN = 0x7D0 ∧ (s.trainCtx c).lossExp = 0x10) ∧
  ∀ n, (s.route n) = none

/-- Every command answers a next state, but for a payload that is not as long as its port or its request makes it:
no command stops the block otherwise, and none is refused. The queue is first in, first out: no command touches the
commands that wait behind it. -/
def Obligations.EveryCommandAnswers : Prop :=
  (∀ (i : Instr) (s : State),
     (∃ t, Sys2Proof.Machine.exec i s = .next t) ∨
     Sys2Proof.Machine.exec i s = .fault .illFormed ∧ match i with
       | .flit _ f => f.payload.length ≠ 29
       | .hbmWrite _ data mask => ¬ (data.length = 64 ∧ mask.length = 64)
       | .dCacheFill _ _ => True
       | .meshResponse _ _ => True
       | .hostReadCompletion _ _ => True
       | .bar2WindowAccess _ _ _ => True
       | _ => False) ∧
  (∀ (i : Instr) (s t : State), Sys2Proof.Machine.exec i s = .next t → t.pending = s.pending)

/-- Device memory keeps its canonical form in every step, from every state that has it. -/
def Obligations.StepsKeepTheMemoryForm : Prop :=
  ∀ s t : State, s.memWf = true → Sys2Proof.Machine.step s = .next t → t.memWf = true

/-- A blown fuse bit stays blown in every step, through every command and every module reset. -/
def Obligations.BlownFusesStay : Prop :=
  ∀ (s t : State) (k j : Nat), Sys2Proof.Machine.step s = .next t →
    (Tab.get 0 s.sec.fuse k).getLsbD j = true → (Tab.get 0 t.sec.fuse k).getLsbD j = true
end

