-- ==== Sys2Proof/Laws/Tab.lean ====
section
/-!
SUPPORT. Sparse tables: a read after a write, and the canonical form that every write keeps.
-/

namespace Sys2Proof

@[simp] theorem Tab.get_nil {α : Type} (d : α) (n : Nat) : Tab.get d [] n = d := rfl

theorem Tab.get_cons {α : Type} (d : α) (k : Nat) (v : α) (t : Tab α) (n : Nat) :
    Tab.get d ((k, v) :: t) n = if n = k then v else Tab.get d t n := rfl

theorem Tab.get_erase {α : Type} (d : α) (t : Tab α) (n m : Nat) :
    Tab.get d (Tab.erase t n) m = if m = n then d else Tab.get d t m := by
  induction t with
  | nil => simp [Tab.erase]
  | cons p t ih =>
    obtain ⟨k, v⟩ := p
    unfold Tab.erase
    by_cases h : n = k
    · subst h; rw [if_pos rfl, ih, Tab.get_cons]; split <;> simp_all
    · have h' : ¬ k = n := fun e => h e.symm
      rw [if_neg h, Tab.get_cons, ih, Tab.get_cons]; split <;> simp_all

theorem Tab.get_insert {α : Type} (d : α) (t : Tab α) (n m : Nat) (x : α) :
    Tab.get d (Tab.insert t n x) m = if m = n then x else Tab.get d t m := by
  induction t with
  | nil => simp [Tab.insert, Tab.get_cons]
  | cons p t ih =>
    obtain ⟨k, v⟩ := p
    unfold Tab.insert
    by_cases h : n = k
    · subst h; rw [if_pos rfl, Tab.get_cons, Tab.get_cons]; split <;> simp_all
    · rw [if_neg h]
      by_cases h2 : n < k
      · rw [if_pos h2, Tab.get_cons]
      · have h' : ¬ k = n := fun e => h e.symm
        rw [if_neg h2, Tab.get_cons, ih, Tab.get_cons]; split <;> simp_all

/-- A read after a write, at the place written and at every other place. -/
theorem Tab.get_set {α : Type} [DecidableEq α] (d : α) (t : Tab α) (n m : Nat) (x : α) :
    Tab.get d (Tab.set d t n x) m = if m = n then x else Tab.get d t m := by
  unfold Tab.set
  split
  · next h => subst h; exact Tab.get_erase _ _ _ _
  · exact Tab.get_insert _ _ _ _ _

@[simp] theorem Tab.get_set_same {α : Type} [DecidableEq α] (d : α) (t : Tab α) (n : Nat) (x : α) :
    Tab.get d (Tab.set d t n x) n = x := by simp [Tab.get_set]

theorem Tab.get_set_other {α : Type} [DecidableEq α] (d : α) (t : Tab α) (n m : Nat) (x : α) (h : m ≠ n) :
    Tab.get d (Tab.set d t n x) m = Tab.get d t m := by simp [Tab.get_set, h]

theorem Tab.wfFrom_mono {α : Type} [DecidableEq α] {d : α} {t : Tab α} {lo lo' : Nat} (hl : lo' ≤ lo)
    (h : Tab.wfFrom d lo t = true) : Tab.wfFrom d lo' t = true := by
  cases t with
  | nil => rfl
  | cons p t =>
    obtain ⟨k, v⟩ := p
    simp only [Tab.wfFrom, Bool.and_eq_true, decide_eq_true_eq] at h ⊢
    exact ⟨⟨by omega, h.1.2⟩, h.2⟩

theorem Tab.wfFrom_erase {α : Type} [DecidableEq α] {d : α} {t : Tab α} {lo : Nat} (n : Nat)
    (h : Tab.wfFrom d lo t = true) : Tab.wfFrom d lo (Tab.erase t n) = true := by
  induction t generalizing lo with
  | nil => rfl
  | cons p t ih =>
    obtain ⟨k, v⟩ := p
    simp only [Tab.wfFrom, Bool.and_eq_true, decide_eq_true_eq] at h
    unfold Tab.erase
    split
    · exact Tab.wfFrom_mono (by omega) (ih h.2)
    · simp only [Tab.wfFrom, Bool.and_eq_true, decide_eq_true_eq]
      exact ⟨h.1, ih h.2⟩

theorem Tab.wfFrom_insert {α : Type} [DecidableEq α] {d : α} {t : Tab α} {lo n : Nat} {x : α} (hn : lo ≤ n)
    (hx : x ≠ d) (h : Tab.wfFrom d lo t = true) : Tab.wfFrom d lo (Tab.insert t n x) = true := by
  induction t generalizing lo with
  | nil => simp [Tab.insert, Tab.wfFrom, hn, hx]
  | cons p t ih =>
    obtain ⟨k, v⟩ := p
    simp only [Tab.wfFrom, Bool.and_eq_true, decide_eq_true_eq] at h
    unfold Tab.insert
    split
    · next e =>
      subst e
      simp only [Tab.wfFrom, Bool.and_eq_true, decide_eq_true_eq]
      exact ⟨⟨hn, hx⟩, h.2⟩
    · split
      · simp only [Tab.wfFrom, Bool.and_eq_true, decide_eq_true_eq]
        exact ⟨⟨hn, hx⟩, ⟨by omega, h.1.2⟩, h.2⟩
      · simp only [Tab.wfFrom, Bool.and_eq_true, decide_eq_true_eq]
        exact ⟨h.1, ih (by omega) h.2⟩

/-- A write keeps the canonical form. -/
theorem Tab.wf_set {α : Type} [DecidableEq α] {d : α} {t : Tab α} (n : Nat) (x : α)
    (h : Tab.wf d t = true) : Tab.wf d (Tab.set d t n x) = true := by
  unfold Tab.wf Tab.set at *
  split
  · exact Tab.wfFrom_erase n h
  · next hx => exact Tab.wfFrom_insert (Nat.zero_le n) hx h

theorem Tab.wf_setAll {α : Type} [DecidableEq α] {d : α} (l : List (Nat × α)) {t : Tab α}
    (h : Tab.wf d t = true) : Tab.wf d (Tab.setAll d t l) = true := by
  induction l generalizing t with
  | nil => exact h
  | cons p l ih => exact ih (Tab.wf_set _ _ h)

/-- Dropping entries keeps the canonical form. -/
theorem Tab.wf_filter {α : Type} [DecidableEq α] {d : α} (p : Nat × α → Bool) {t : Tab α}
    (h : Tab.wf d t = true) : Tab.wf d (t.filter p) = true := by
  unfold Tab.wf at *
  suffices ∀ lo, Tab.wfFrom d lo t = true → Tab.wfFrom d lo (t.filter p) = true from this 0 h
  clear h
  induction t with
  | nil => intro lo _; rfl
  | cons q t ih =>
    obtain ⟨k, v⟩ := q
    intro lo h
    simp only [Tab.wfFrom, Bool.and_eq_true, decide_eq_true_eq] at h
    by_cases hp : p (k, v) = true
    · rw [List.filter_cons_of_pos hp]
      simp only [Tab.wfFrom, Bool.and_eq_true, decide_eq_true_eq]
      exact ⟨h.1, ih _ h.2⟩
    · rw [List.filter_cons_of_neg hp]
      exact Tab.wfFrom_mono (by omega) (ih _ h.2)

/-- Two canonical tables with the same reads are the same table's data from any key on. -/
theorem Tab.get_of_lt {α : Type} [DecidableEq α] {d : α} {t : Tab α} {lo n : Nat}
    (h : Tab.wfFrom d lo t = true) (hn : n < lo) : Tab.get d t n = d := by
  induction t generalizing lo with
  | nil => rfl
  | cons p t ih =>
    obtain ⟨k, v⟩ := p
    simp only [Tab.wfFrom, Bool.and_eq_true, decide_eq_true_eq] at h
    rw [Tab.get_cons, if_neg (by omega)]
    exact ih h.2 (by omega)

end Sys2Proof
end

