-- ==== Sys2Proof/Laws/State.lean ====
section
/-!
SUPPORT. The fields of a state after each of its updates: one lemma per field per update.
-/

namespace Sys2Proof.Machine

/-! ### setCarrel -/

@[simp] theorem State.setCarrel_pending (s : State) (c : BitVec 12) (k : Carrel) :
    (s.setCarrel c k).pending = s.pending := rfl
@[simp] theorem State.setCarrel_fresh (s : State) (c : BitVec 12) (k : Carrel) :
    (s.setCarrel c k).fresh = s.fresh := rfl
@[simp] theorem State.setCarrel_mem (s : State) (c : BitVec 12) (k : Carrel) :
    (s.setCarrel c k).mem = s.mem := rfl
@[simp] theorem State.setCarrel_lost (s : State) (c : BitVec 12) (k : Carrel) :
    (s.setCarrel c k).lost = s.lost := rfl
@[simp] theorem State.setCarrel_halts (s : State) (c : BitVec 12) (k : Carrel) :
    (s.setCarrel c k).halts = s.halts := rfl
@[simp] theorem State.setCarrel_ownChip (s : State) (c : BitVec 12) (k : Carrel) :
    (s.setCarrel c k).ownChip = s.ownChip := rfl
@[simp] theorem State.setCarrel_gateOnly (s : State) (c : BitVec 12) (k : Carrel) :
    (s.setCarrel c k).gateOnly = s.gateOnly := rfl
@[simp] theorem State.setCarrel_tick (s : State) (c : BitVec 12) (k : Carrel) :
    (s.setCarrel c k).tick = s.tick := rfl
@[simp] theorem State.setCarrel_plans (s : State) (c : BitVec 12) (k : Carrel) :
    (s.setCarrel c k).plans = s.plans := rfl
@[simp] theorem State.setCarrel_hbm (s : State) (c : BitVec 12) (k : Carrel) :
    (s.setCarrel c k).hbm = s.hbm := rfl
@[simp] theorem State.setCarrel_retried (s : State) (c : BitVec 12) (k : Carrel) :
    (s.setCarrel c k).retried = s.retried := rfl
@[simp] theorem State.setCarrel_paid (s : State) (c : BitVec 12) (k : Carrel) :
    (s.setCarrel c k).paid = s.paid := rfl
@[simp] theorem State.setCarrel_links (s : State) (c : BitVec 12) (k : Carrel) :
    (s.setCarrel c k).links = s.links := rfl
@[simp] theorem State.setCarrel_chain (s : State) (c : BitVec 12) (k : Carrel) :
    (s.setCarrel c k).chain = s.chain := rfl
@[simp] theorem State.setCarrel_seg (s : State) (c : BitVec 12) (k : Carrel) :
    (s.setCarrel c k).seg = s.seg := rfl
@[simp] theorem State.setCarrel_host (s : State) (c : BitVec 12) (k : Carrel) :
    (s.setCarrel c k).host = s.host := rfl
@[simp] theorem State.setCarrel_census (s : State) (c : BitVec 12) (k : Carrel) :
    (s.setCarrel c k).census = s.census := rfl
@[simp] theorem State.setCarrel_keepers (s : State) (c : BitVec 12) (k : Carrel) :
    (s.setCarrel c k).keepers = s.keepers := rfl
@[simp] theorem State.setCarrel_gauges (s : State) (c : BitVec 12) (k : Carrel) :
    (s.setCarrel c k).gauges = s.gauges := rfl
@[simp] theorem State.setCarrel_train (s : State) (c : BitVec 12) (k : Carrel) :
    (s.setCarrel c k).train = s.train := rfl
@[simp] theorem State.setCarrel_sec (s : State) (c : BitVec 12) (k : Carrel) :
    (s.setCarrel c k).sec = s.sec := rfl
@[simp] theorem State.setCarrel_dict (s : State) (c : BitVec 12) (k : Carrel) :
    (s.setCarrel c k).dict = s.dict := rfl
@[simp] theorem State.setCarrel_start (s : State) (c : BitVec 12) (k : Carrel) :
    (s.setCarrel c k).start = s.start := rfl
@[simp] theorem State.setCarrel_map (s : State) (c : BitVec 12) (k : Carrel) :
    (s.setCarrel c k).map = s.map := rfl
@[simp] theorem State.setCarrel_power (s : State) (c : BitVec 12) (k : Carrel) :
    (s.setCarrel c k).power = s.power := rfl
@[simp] theorem State.setCarrel_sent (s : State) (c : BitVec 12) (k : Carrel) :
    (s.setCarrel c k).sent = s.sent := rfl

/-! ### modCarrel -/

@[simp] theorem State.modCarrel_pending (s : State) (c : BitVec 12) (f : Carrel → Carrel) :
    (s.modCarrel c f).pending = s.pending := rfl
@[simp] theorem State.modCarrel_fresh (s : State) (c : BitVec 12) (f : Carrel → Carrel) :
    (s.modCarrel c f).fresh = s.fresh := rfl
@[simp] theorem State.modCarrel_mem (s : State) (c : BitVec 12) (f : Carrel → Carrel) :
    (s.modCarrel c f).mem = s.mem := rfl
@[simp] theorem State.modCarrel_lost (s : State) (c : BitVec 12) (f : Carrel → Carrel) :
    (s.modCarrel c f).lost = s.lost := rfl
@[simp] theorem State.modCarrel_halts (s : State) (c : BitVec 12) (f : Carrel → Carrel) :
    (s.modCarrel c f).halts = s.halts := rfl
@[simp] theorem State.modCarrel_ownChip (s : State) (c : BitVec 12) (f : Carrel → Carrel) :
    (s.modCarrel c f).ownChip = s.ownChip := rfl
@[simp] theorem State.modCarrel_gateOnly (s : State) (c : BitVec 12) (f : Carrel → Carrel) :
    (s.modCarrel c f).gateOnly = s.gateOnly := rfl
@[simp] theorem State.modCarrel_tick (s : State) (c : BitVec 12) (f : Carrel → Carrel) :
    (s.modCarrel c f).tick = s.tick := rfl
@[simp] theorem State.modCarrel_plans (s : State) (c : BitVec 12) (f : Carrel → Carrel) :
    (s.modCarrel c f).plans = s.plans := rfl
@[simp] theorem State.modCarrel_hbm (s : State) (c : BitVec 12) (f : Carrel → Carrel) :
    (s.modCarrel c f).hbm = s.hbm := rfl
@[simp] theorem State.modCarrel_retried (s : State) (c : BitVec 12) (f : Carrel → Carrel) :
    (s.modCarrel c f).retried = s.retried := rfl
@[simp] theorem State.modCarrel_paid (s : State) (c : BitVec 12) (f : Carrel → Carrel) :
    (s.modCarrel c f).paid = s.paid := rfl
@[simp] theorem State.modCarrel_links (s : State) (c : BitVec 12) (f : Carrel → Carrel) :
    (s.modCarrel c f).links = s.links := rfl
@[simp] theorem State.modCarrel_chain (s : State) (c : BitVec 12) (f : Carrel → Carrel) :
    (s.modCarrel c f).chain = s.chain := rfl
@[simp] theorem State.modCarrel_seg (s : State) (c : BitVec 12) (f : Carrel → Carrel) :
    (s.modCarrel c f).seg = s.seg := rfl
@[simp] theorem State.modCarrel_host (s : State) (c : BitVec 12) (f : Carrel → Carrel) :
    (s.modCarrel c f).host = s.host := rfl
@[simp] theorem State.modCarrel_census (s : State) (c : BitVec 12) (f : Carrel → Carrel) :
    (s.modCarrel c f).census = s.census := rfl
@[simp] theorem State.modCarrel_keepers (s : State) (c : BitVec 12) (f : Carrel → Carrel) :
    (s.modCarrel c f).keepers = s.keepers := rfl
@[simp] theorem State.modCarrel_gauges (s : State) (c : BitVec 12) (f : Carrel → Carrel) :
    (s.modCarrel c f).gauges = s.gauges := rfl
@[simp] theorem State.modCarrel_train (s : State) (c : BitVec 12) (f : Carrel → Carrel) :
    (s.modCarrel c f).train = s.train := rfl
@[simp] theorem State.modCarrel_sec (s : State) (c : BitVec 12) (f : Carrel → Carrel) :
    (s.modCarrel c f).sec = s.sec := rfl
@[simp] theorem State.modCarrel_dict (s : State) (c : BitVec 12) (f : Carrel → Carrel) :
    (s.modCarrel c f).dict = s.dict := rfl
@[simp] theorem State.modCarrel_start (s : State) (c : BitVec 12) (f : Carrel → Carrel) :
    (s.modCarrel c f).start = s.start := rfl
@[simp] theorem State.modCarrel_map (s : State) (c : BitVec 12) (f : Carrel → Carrel) :
    (s.modCarrel c f).map = s.map := rfl
@[simp] theorem State.modCarrel_power (s : State) (c : BitVec 12) (f : Carrel → Carrel) :
    (s.modCarrel c f).power = s.power := rfl
@[simp] theorem State.modCarrel_sent (s : State) (c : BitVec 12) (f : Carrel → Carrel) :
    (s.modCarrel c f).sent = s.sent := rfl

/-! ### setByte -/

@[simp] theorem State.setByte_pending (s : State) (a : Nat) (b : Byte) :
    (s.setByte a b).pending = s.pending := rfl
@[simp] theorem State.setByte_fresh (s : State) (a : Nat) (b : Byte) :
    (s.setByte a b).fresh = s.fresh := rfl
@[simp] theorem State.setByte_lost (s : State) (a : Nat) (b : Byte) :
    (s.setByte a b).lost = s.lost := rfl
@[simp] theorem State.setByte_carrels (s : State) (a : Nat) (b : Byte) :
    (s.setByte a b).carrels = s.carrels := rfl
@[simp] theorem State.setByte_halts (s : State) (a : Nat) (b : Byte) :
    (s.setByte a b).halts = s.halts := rfl
@[simp] theorem State.setByte_ownChip (s : State) (a : Nat) (b : Byte) :
    (s.setByte a b).ownChip = s.ownChip := rfl
@[simp] theorem State.setByte_gateOnly (s : State) (a : Nat) (b : Byte) :
    (s.setByte a b).gateOnly = s.gateOnly := rfl
@[simp] theorem State.setByte_tick (s : State) (a : Nat) (b : Byte) :
    (s.setByte a b).tick = s.tick := rfl
@[simp] theorem State.setByte_plans (s : State) (a : Nat) (b : Byte) :
    (s.setByte a b).plans = s.plans := rfl
@[simp] theorem State.setByte_hbm (s : State) (a : Nat) (b : Byte) :
    (s.setByte a b).hbm = s.hbm := rfl
@[simp] theorem State.setByte_retried (s : State) (a : Nat) (b : Byte) :
    (s.setByte a b).retried = s.retried := rfl
@[simp] theorem State.setByte_paid (s : State) (a : Nat) (b : Byte) :
    (s.setByte a b).paid = s.paid := rfl
@[simp] theorem State.setByte_links (s : State) (a : Nat) (b : Byte) :
    (s.setByte a b).links = s.links := rfl
@[simp] theorem State.setByte_chain (s : State) (a : Nat) (b : Byte) :
    (s.setByte a b).chain = s.chain := rfl
@[simp] theorem State.setByte_seg (s : State) (a : Nat) (b : Byte) :
    (s.setByte a b).seg = s.seg := rfl
@[simp] theorem State.setByte_host (s : State) (a : Nat) (b : Byte) :
    (s.setByte a b).host = s.host := rfl
@[simp] theorem State.setByte_census (s : State) (a : Nat) (b : Byte) :
    (s.setByte a b).census = s.census := rfl
@[simp] theorem State.setByte_keepers (s : State) (a : Nat) (b : Byte) :
    (s.setByte a b).keepers = s.keepers := rfl
@[simp] theorem State.setByte_gauges (s : State) (a : Nat) (b : Byte) :
    (s.setByte a b).gauges = s.gauges := rfl
@[simp] theorem State.setByte_train (s : State) (a : Nat) (b : Byte) :
    (s.setByte a b).train = s.train := rfl
@[simp] theorem State.setByte_sec (s : State) (a : Nat) (b : Byte) :
    (s.setByte a b).sec = s.sec := rfl
@[simp] theorem State.setByte_dict (s : State) (a : Nat) (b : Byte) :
    (s.setByte a b).dict = s.dict := rfl
@[simp] theorem State.setByte_start (s : State) (a : Nat) (b : Byte) :
    (s.setByte a b).start = s.start := rfl
@[simp] theorem State.setByte_map (s : State) (a : Nat) (b : Byte) :
    (s.setByte a b).map = s.map := rfl
@[simp] theorem State.setByte_power (s : State) (a : Nat) (b : Byte) :
    (s.setByte a b).power = s.power := rfl
@[simp] theorem State.setByte_sent (s : State) (a : Nat) (b : Byte) :
    (s.setByte a b).sent = s.sent := rfl

/-! ### draw -/

@[simp] theorem State.draw_pending (s : State) :
    (s.draw.2).pending = s.pending := rfl
@[simp] theorem State.draw_mem (s : State) :
    (s.draw.2).mem = s.mem := rfl
@[simp] theorem State.draw_lost (s : State) :
    (s.draw.2).lost = s.lost := rfl
@[simp] theorem State.draw_carrels (s : State) :
    (s.draw.2).carrels = s.carrels := rfl
@[simp] theorem State.draw_halts (s : State) :
    (s.draw.2).halts = s.halts := rfl
@[simp] theorem State.draw_ownChip (s : State) :
    (s.draw.2).ownChip = s.ownChip := rfl
@[simp] theorem State.draw_gateOnly (s : State) :
    (s.draw.2).gateOnly = s.gateOnly := rfl
@[simp] theorem State.draw_tick (s : State) :
    (s.draw.2).tick = s.tick := rfl
@[simp] theorem State.draw_plans (s : State) :
    (s.draw.2).plans = s.plans := rfl
@[simp] theorem State.draw_hbm (s : State) :
    (s.draw.2).hbm = s.hbm := rfl
@[simp] theorem State.draw_retried (s : State) :
    (s.draw.2).retried = s.retried := rfl
@[simp] theorem State.draw_paid (s : State) :
    (s.draw.2).paid = s.paid := rfl
@[simp] theorem State.draw_links (s : State) :
    (s.draw.2).links = s.links := rfl
@[simp] theorem State.draw_chain (s : State) :
    (s.draw.2).chain = s.chain := rfl
@[simp] theorem State.draw_seg (s : State) :
    (s.draw.2).seg = s.seg := rfl
@[simp] theorem State.draw_host (s : State) :
    (s.draw.2).host = s.host := rfl
@[simp] theorem State.draw_census (s : State) :
    (s.draw.2).census = s.census := rfl
@[simp] theorem State.draw_keepers (s : State) :
    (s.draw.2).keepers = s.keepers := rfl
@[simp] theorem State.draw_gauges (s : State) :
    (s.draw.2).gauges = s.gauges := rfl
@[simp] theorem State.draw_train (s : State) :
    (s.draw.2).train = s.train := rfl
@[simp] theorem State.draw_sec (s : State) :
    (s.draw.2).sec = s.sec := rfl
@[simp] theorem State.draw_dict (s : State) :
    (s.draw.2).dict = s.dict := rfl
@[simp] theorem State.draw_start (s : State) :
    (s.draw.2).start = s.start := rfl
@[simp] theorem State.draw_map (s : State) :
    (s.draw.2).map = s.map := rfl
@[simp] theorem State.draw_power (s : State) :
    (s.draw.2).power = s.power := rfl
@[simp] theorem State.draw_sent (s : State) :
    (s.draw.2).sent = s.sent := rfl

/-! ### haltCarrel -/

@[simp] theorem State.haltCarrel_pending (s : State) (c : BitVec 12) :
    (s.haltCarrel c).pending = s.pending := rfl
@[simp] theorem State.haltCarrel_fresh (s : State) (c : BitVec 12) :
    (s.haltCarrel c).fresh = s.fresh := rfl
@[simp] theorem State.haltCarrel_mem (s : State) (c : BitVec 12) :
    (s.haltCarrel c).mem = s.mem := rfl
@[simp] theorem State.haltCarrel_lost (s : State) (c : BitVec 12) :
    (s.haltCarrel c).lost = s.lost := rfl
@[simp] theorem State.haltCarrel_ownChip (s : State) (c : BitVec 12) :
    (s.haltCarrel c).ownChip = s.ownChip := rfl
@[simp] theorem State.haltCarrel_gateOnly (s : State) (c : BitVec 12) :
    (s.haltCarrel c).gateOnly = s.gateOnly := rfl
@[simp] theorem State.haltCarrel_tick (s : State) (c : BitVec 12) :
    (s.haltCarrel c).tick = s.tick := rfl
@[simp] theorem State.haltCarrel_plans (s : State) (c : BitVec 12) :
    (s.haltCarrel c).plans = s.plans := rfl
@[simp] theorem State.haltCarrel_hbm (s : State) (c : BitVec 12) :
    (s.haltCarrel c).hbm = s.hbm := rfl
@[simp] theorem State.haltCarrel_retried (s : State) (c : BitVec 12) :
    (s.haltCarrel c).retried = s.retried := rfl
@[simp] theorem State.haltCarrel_paid (s : State) (c : BitVec 12) :
    (s.haltCarrel c).paid = s.paid := rfl
@[simp] theorem State.haltCarrel_links (s : State) (c : BitVec 12) :
    (s.haltCarrel c).links = s.links := rfl
@[simp] theorem State.haltCarrel_chain (s : State) (c : BitVec 12) :
    (s.haltCarrel c).chain = s.chain := rfl
@[simp] theorem State.haltCarrel_seg (s : State) (c : BitVec 12) :
    (s.haltCarrel c).seg = s.seg := rfl
@[simp] theorem State.haltCarrel_host (s : State) (c : BitVec 12) :
    (s.haltCarrel c).host = s.host := rfl
@[simp] theorem State.haltCarrel_census (s : State) (c : BitVec 12) :
    (s.haltCarrel c).census = s.census := rfl
@[simp] theorem State.haltCarrel_keepers (s : State) (c : BitVec 12) :
    (s.haltCarrel c).keepers = s.keepers := rfl
@[simp] theorem State.haltCarrel_gauges (s : State) (c : BitVec 12) :
    (s.haltCarrel c).gauges = s.gauges := rfl
@[simp] theorem State.haltCarrel_train (s : State) (c : BitVec 12) :
    (s.haltCarrel c).train = s.train := rfl
@[simp] theorem State.haltCarrel_sec (s : State) (c : BitVec 12) :
    (s.haltCarrel c).sec = s.sec := rfl
@[simp] theorem State.haltCarrel_dict (s : State) (c : BitVec 12) :
    (s.haltCarrel c).dict = s.dict := rfl
@[simp] theorem State.haltCarrel_start (s : State) (c : BitVec 12) :
    (s.haltCarrel c).start = s.start := rfl
@[simp] theorem State.haltCarrel_map (s : State) (c : BitVec 12) :
    (s.haltCarrel c).map = s.map := rfl
@[simp] theorem State.haltCarrel_power (s : State) (c : BitVec 12) :
    (s.haltCarrel c).power = s.power := rfl
@[simp] theorem State.haltCarrel_sent (s : State) (c : BitVec 12) :
    (s.haltCarrel c).sent = s.sent := rfl

/-! ### missWait -/

@[simp] theorem State.missWait_pending (s : State) (c : BitVec 12) (st : BitVec 3) (g : BitVec 4) :
    (s.missWait c st g).pending = s.pending := rfl
@[simp] theorem State.missWait_fresh (s : State) (c : BitVec 12) (st : BitVec 3) (g : BitVec 4) :
    (s.missWait c st g).fresh = s.fresh := rfl
@[simp] theorem State.missWait_mem (s : State) (c : BitVec 12) (st : BitVec 3) (g : BitVec 4) :
    (s.missWait c st g).mem = s.mem := rfl
@[simp] theorem State.missWait_lost (s : State) (c : BitVec 12) (st : BitVec 3) (g : BitVec 4) :
    (s.missWait c st g).lost = s.lost := rfl
@[simp] theorem State.missWait_halts (s : State) (c : BitVec 12) (st : BitVec 3) (g : BitVec 4) :
    (s.missWait c st g).halts = s.halts := rfl
@[simp] theorem State.missWait_ownChip (s : State) (c : BitVec 12) (st : BitVec 3) (g : BitVec 4) :
    (s.missWait c st g).ownChip = s.ownChip := rfl
@[simp] theorem State.missWait_gateOnly (s : State) (c : BitVec 12) (st : BitVec 3) (g : BitVec 4) :
    (s.missWait c st g).gateOnly = s.gateOnly := rfl
@[simp] theorem State.missWait_tick (s : State) (c : BitVec 12) (st : BitVec 3) (g : BitVec 4) :
    (s.missWait c st g).tick = s.tick := rfl
@[simp] theorem State.missWait_plans (s : State) (c : BitVec 12) (st : BitVec 3) (g : BitVec 4) :
    (s.missWait c st g).plans = s.plans := rfl
@[simp] theorem State.missWait_hbm (s : State) (c : BitVec 12) (st : BitVec 3) (g : BitVec 4) :
    (s.missWait c st g).hbm = s.hbm := rfl
@[simp] theorem State.missWait_retried (s : State) (c : BitVec 12) (st : BitVec 3) (g : BitVec 4) :
    (s.missWait c st g).retried = s.retried := rfl
@[simp] theorem State.missWait_paid (s : State) (c : BitVec 12) (st : BitVec 3) (g : BitVec 4) :
    (s.missWait c st g).paid = s.paid := rfl
@[simp] theorem State.missWait_links (s : State) (c : BitVec 12) (st : BitVec 3) (g : BitVec 4) :
    (s.missWait c st g).links = s.links := rfl
@[simp] theorem State.missWait_chain (s : State) (c : BitVec 12) (st : BitVec 3) (g : BitVec 4) :
    (s.missWait c st g).chain = s.chain := rfl
@[simp] theorem State.missWait_host (s : State) (c : BitVec 12) (st : BitVec 3) (g : BitVec 4) :
    (s.missWait c st g).host = s.host := rfl
@[simp] theorem State.missWait_census (s : State) (c : BitVec 12) (st : BitVec 3) (g : BitVec 4) :
    (s.missWait c st g).census = s.census := rfl
@[simp] theorem State.missWait_keepers (s : State) (c : BitVec 12) (st : BitVec 3) (g : BitVec 4) :
    (s.missWait c st g).keepers = s.keepers := rfl
@[simp] theorem State.missWait_gauges (s : State) (c : BitVec 12) (st : BitVec 3) (g : BitVec 4) :
    (s.missWait c st g).gauges = s.gauges := rfl
@[simp] theorem State.missWait_train (s : State) (c : BitVec 12) (st : BitVec 3) (g : BitVec 4) :
    (s.missWait c st g).train = s.train := rfl
@[simp] theorem State.missWait_sec (s : State) (c : BitVec 12) (st : BitVec 3) (g : BitVec 4) :
    (s.missWait c st g).sec = s.sec := rfl
@[simp] theorem State.missWait_dict (s : State) (c : BitVec 12) (st : BitVec 3) (g : BitVec 4) :
    (s.missWait c st g).dict = s.dict := rfl
@[simp] theorem State.missWait_start (s : State) (c : BitVec 12) (st : BitVec 3) (g : BitVec 4) :
    (s.missWait c st g).start = s.start := rfl
@[simp] theorem State.missWait_map (s : State) (c : BitVec 12) (st : BitVec 3) (g : BitVec 4) :
    (s.missWait c st g).map = s.map := rfl
@[simp] theorem State.missWait_power (s : State) (c : BitVec 12) (st : BitVec 3) (g : BitVec 4) :
    (s.missWait c st g).power = s.power := rfl
@[simp] theorem State.missWait_sent (s : State) (c : BitVec 12) (st : BitVec 3) (g : BitVec 4) :
    (s.missWait c st g).sent = s.sent := rfl

/-! ### retire -/

@[simp] theorem State.retire_pending (s : State) (c : BitVec 12) (len : Nat) :
    (s.retire c len).pending = s.pending := rfl
@[simp] theorem State.retire_fresh (s : State) (c : BitVec 12) (len : Nat) :
    (s.retire c len).fresh = s.fresh := rfl
@[simp] theorem State.retire_mem (s : State) (c : BitVec 12) (len : Nat) :
    (s.retire c len).mem = s.mem := rfl
@[simp] theorem State.retire_lost (s : State) (c : BitVec 12) (len : Nat) :
    (s.retire c len).lost = s.lost := rfl
@[simp] theorem State.retire_halts (s : State) (c : BitVec 12) (len : Nat) :
    (s.retire c len).halts = s.halts := rfl
@[simp] theorem State.retire_ownChip (s : State) (c : BitVec 12) (len : Nat) :
    (s.retire c len).ownChip = s.ownChip := rfl
@[simp] theorem State.retire_gateOnly (s : State) (c : BitVec 12) (len : Nat) :
    (s.retire c len).gateOnly = s.gateOnly := rfl
@[simp] theorem State.retire_tick (s : State) (c : BitVec 12) (len : Nat) :
    (s.retire c len).tick = s.tick := rfl
@[simp] theorem State.retire_plans (s : State) (c : BitVec 12) (len : Nat) :
    (s.retire c len).plans = s.plans := rfl
@[simp] theorem State.retire_hbm (s : State) (c : BitVec 12) (len : Nat) :
    (s.retire c len).hbm = s.hbm := rfl
@[simp] theorem State.retire_retried (s : State) (c : BitVec 12) (len : Nat) :
    (s.retire c len).retried = s.retried := rfl
@[simp] theorem State.retire_paid (s : State) (c : BitVec 12) (len : Nat) :
    (s.retire c len).paid = s.paid := rfl
@[simp] theorem State.retire_links (s : State) (c : BitVec 12) (len : Nat) :
    (s.retire c len).links = s.links := rfl
@[simp] theorem State.retire_chain (s : State) (c : BitVec 12) (len : Nat) :
    (s.retire c len).chain = s.chain := rfl
@[simp] theorem State.retire_seg (s : State) (c : BitVec 12) (len : Nat) :
    (s.retire c len).seg = s.seg := rfl
@[simp] theorem State.retire_host (s : State) (c : BitVec 12) (len : Nat) :
    (s.retire c len).host = s.host := rfl
@[simp] theorem State.retire_census (s : State) (c : BitVec 12) (len : Nat) :
    (s.retire c len).census = s.census := rfl
@[simp] theorem State.retire_keepers (s : State) (c : BitVec 12) (len : Nat) :
    (s.retire c len).keepers = s.keepers := rfl
@[simp] theorem State.retire_gauges (s : State) (c : BitVec 12) (len : Nat) :
    (s.retire c len).gauges = s.gauges := rfl
@[simp] theorem State.retire_train (s : State) (c : BitVec 12) (len : Nat) :
    (s.retire c len).train = s.train := rfl
@[simp] theorem State.retire_sec (s : State) (c : BitVec 12) (len : Nat) :
    (s.retire c len).sec = s.sec := rfl
@[simp] theorem State.retire_dict (s : State) (c : BitVec 12) (len : Nat) :
    (s.retire c len).dict = s.dict := rfl
@[simp] theorem State.retire_start (s : State) (c : BitVec 12) (len : Nat) :
    (s.retire c len).start = s.start := rfl
@[simp] theorem State.retire_map (s : State) (c : BitVec 12) (len : Nat) :
    (s.retire c len).map = s.map := rfl
@[simp] theorem State.retire_power (s : State) (c : BitVec 12) (len : Nat) :
    (s.retire c len).power = s.power := rfl
@[simp] theorem State.retire_sent (s : State) (c : BitVec 12) (len : Nat) :
    (s.retire c len).sent = s.sent := rfl

/-! ### Carrels -/

/-- A carrel read after a carrel is written. -/
theorem State.carrel_setCarrel (s : State) (c d : BitVec 12) (k : Carrel) :
    (s.setCarrel c k).carrel d = if d = c then k else s.carrel d := by
  unfold State.carrel State.setCarrel
  simp only [Tab.get_set]
  by_cases h : d = c
  · subst h; simp
  · have : ¬ d.toNat = c.toNat := fun e => h (BitVec.eq_of_toNat_eq e)
    simp [h, this]

@[simp] theorem State.carrel_setCarrel_same (s : State) (c : BitVec 12) (k : Carrel) :
    (s.setCarrel c k).carrel c = k := by simp [State.carrel_setCarrel]

theorem State.carrel_setCarrel_other (s : State) {c d : BitVec 12} (k : Carrel) (h : d ≠ c) :
    (s.setCarrel c k).carrel d = s.carrel d := by simp [State.carrel_setCarrel, h]

@[simp] theorem State.carrel_modCarrel_same (s : State) (c : BitVec 12) (f : Carrel → Carrel) :
    (s.modCarrel c f).carrel c = f (s.carrel c) := by simp [State.modCarrel]

theorem State.carrel_modCarrel_other (s : State) {c d : BitVec 12} (f : Carrel → Carrel) (h : d ≠ c) :
    (s.modCarrel c f).carrel d = s.carrel d := by simp [State.modCarrel, State.carrel_setCarrel, h]

@[simp] theorem State.setByte_carrel (s : State) (a : Nat) (b : Byte) (c : BitVec 12) :
    (s.setByte a b).carrel c = s.carrel c := rfl

@[simp] theorem State.draw_carrel (s : State) (c : BitVec 12) : s.draw.2.carrel c = s.carrel c := rfl

/-- A bank read after a bank is written. -/
theorem Carrel.bank_setBank (k : Carrel) (a b : BankId) (x : Bank) :
    (k.setBank a x).bank b = if b = a then x else k.bank b := by
  cases a <;> cases b <;> rfl

@[simp] theorem Carrel.bank_setBank_same (k : Carrel) (a : BankId) (x : Bank) : (k.setBank a x).bank a = x := by
  cases a <;> rfl

@[simp] theorem Carrel.setBank_dataBank (k : Carrel) (a : BankId) (x : Bank) :
    (k.setBank a x).dataBank = k.dataBank := by cases a <;> rfl

@[simp] theorem Carrel.setBank_retBank (k : Carrel) (a : BankId) (x : Bank) :
    (k.setBank a x).retBank = k.retBank := by cases a <;> rfl

end Sys2Proof.Machine
end

