-- ==== Sys2Proof/Laws/Memory.lean ====
section
/-!
SUPPORT. Device memory: what a read gives after a write, and the canonical form that every write keeps.
-/

namespace Sys2Proof.Machine

@[simp] theorem length_natToBytes (n x : Nat) : (natToBytes n x).length = n := by
  induction n generalizing x with
  | zero => rfl
  | succ n ih => simp [natToBytes, ih]

/-- Little-endian bytes read back. -/
theorem bytesToNat_natToBytes (n x : Nat) : bytesToNat (natToBytes n x) = x % 256 ^ n := by
  induction n generalizing x with
  | zero => simp [natToBytes, bytesToNat, Nat.mod_one]
  | succ n ih =>
    simp only [natToBytes, bytesToNat, ih, BitVec.toNat_ofNat]
    rw [show (256 : Nat) ^ (n + 1) = 256 * 256 ^ n from by rw [Nat.pow_succ, Nat.mul_comm], Nat.mod_mul]

theorem bytesToNat_lt (l : List Byte) : bytesToNat l < 256 ^ l.length := by
  induction l with
  | nil => simp [bytesToNat]
  | cons b l ih =>
    simp only [bytesToNat, List.length_cons, Nat.pow_succ]
    have := b.isLt
    omega

/-- A byte read after one byte is written. -/
theorem State.byte_setByte (s : State) (a a' : Nat) (b : Byte) :
    (s.setByte a b).byte a' = if a' = a then b else s.byte a' := by
  simp [State.byte, State.setByte, Tab.get_set]

/-- A byte read after a string of bytes is written. -/
theorem State.byte_setBytes (s : State) (a a' : Nat) (l : List Byte) :
    (s.setBytes a l).byte a' = if a ≤ a' ∧ a' < a + l.length then l.getD (a' - a) 0 else s.byte a' := by
  induction l generalizing s a with
  | nil => simp [State.setBytes]
  | cons b l ih =>
    simp only [State.setBytes, ih, State.byte_setByte, List.length_cons]
    by_cases h1 : a' = a
    · subst h1; simp
    · by_cases h2 : a + 1 ≤ a' ∧ a' < a + 1 + l.length
      · have h3 : a ≤ a' ∧ a' < a + (l.length + 1) := by omega
        rw [if_pos h2, if_pos h3]
        have : a' - a = (a' - (a + 1)) + 1 := by omega
        rw [this, List.getD_cons_succ]
      · have h3 : ¬ (a ≤ a' ∧ a' < a + (l.length + 1)) := by omega
        rw [if_neg h2, if_neg h3, if_neg h1]

/-- A write of bytes changes nothing but memory. -/
theorem State.setBytes_eq (s : State) (a : Nat) (l : List Byte) :
    s.setBytes a l = { s with mem := (s.setBytes a l).mem } := by
  induction l generalizing s a with
  | nil => rfl
  | cons b l ih =>
    have h : (s.setByte a b).setBytes (a + 1) l =
      { s.setByte a b with mem := ((s.setByte a b).setBytes (a + 1) l).mem } := ih _ _
    simpa [State.setBytes, State.setByte] using h

@[simp] theorem State.setBytes_pending (s : State) (a : Nat) (l : List Byte) :
    (s.setBytes a l).pending = s.pending := by rw [State.setBytes_eq]
@[simp] theorem State.setBytes_fresh (s : State) (a : Nat) (l : List Byte) :
    (s.setBytes a l).fresh = s.fresh := by rw [State.setBytes_eq]
@[simp] theorem State.setBytes_lost (s : State) (a : Nat) (l : List Byte) :
    (s.setBytes a l).lost = s.lost := by rw [State.setBytes_eq]
@[simp] theorem State.setBytes_carrels (s : State) (a : Nat) (l : List Byte) :
    (s.setBytes a l).carrels = s.carrels := by rw [State.setBytes_eq]
@[simp] theorem State.setBytes_halts (s : State) (a : Nat) (l : List Byte) :
    (s.setBytes a l).halts = s.halts := by rw [State.setBytes_eq]
@[simp] theorem State.setBytes_ownChip (s : State) (a : Nat) (l : List Byte) :
    (s.setBytes a l).ownChip = s.ownChip := by rw [State.setBytes_eq]
@[simp] theorem State.setBytes_gateOnly (s : State) (a : Nat) (l : List Byte) :
    (s.setBytes a l).gateOnly = s.gateOnly := by rw [State.setBytes_eq]
@[simp] theorem State.setBytes_tick (s : State) (a : Nat) (l : List Byte) :
    (s.setBytes a l).tick = s.tick := by rw [State.setBytes_eq]
@[simp] theorem State.setBytes_plans (s : State) (a : Nat) (l : List Byte) :
    (s.setBytes a l).plans = s.plans := by rw [State.setBytes_eq]
@[simp] theorem State.setBytes_hbm (s : State) (a : Nat) (l : List Byte) :
    (s.setBytes a l).hbm = s.hbm := by rw [State.setBytes_eq]
@[simp] theorem State.setBytes_links (s : State) (a : Nat) (l : List Byte) :
    (s.setBytes a l).links = s.links := by rw [State.setBytes_eq]
@[simp] theorem State.setBytes_chain (s : State) (a : Nat) (l : List Byte) :
    (s.setBytes a l).chain = s.chain := by rw [State.setBytes_eq]
@[simp] theorem State.setBytes_seg (s : State) (a : Nat) (l : List Byte) :
    (s.setBytes a l).seg = s.seg := by rw [State.setBytes_eq]
@[simp] theorem State.setBytes_host (s : State) (a : Nat) (l : List Byte) :
    (s.setBytes a l).host = s.host := by rw [State.setBytes_eq]
@[simp] theorem State.setBytes_census (s : State) (a : Nat) (l : List Byte) :
    (s.setBytes a l).census = s.census := by rw [State.setBytes_eq]
@[simp] theorem State.setBytes_keepers (s : State) (a : Nat) (l : List Byte) :
    (s.setBytes a l).keepers = s.keepers := by rw [State.setBytes_eq]
@[simp] theorem State.setBytes_gauges (s : State) (a : Nat) (l : List Byte) :
    (s.setBytes a l).gauges = s.gauges := by rw [State.setBytes_eq]
@[simp] theorem State.setBytes_train (s : State) (a : Nat) (l : List Byte) :
    (s.setBytes a l).train = s.train := by rw [State.setBytes_eq]
@[simp] theorem State.setBytes_sec (s : State) (a : Nat) (l : List Byte) :
    (s.setBytes a l).sec = s.sec := by rw [State.setBytes_eq]
@[simp] theorem State.setBytes_dict (s : State) (a : Nat) (l : List Byte) :
    (s.setBytes a l).dict = s.dict := by rw [State.setBytes_eq]
@[simp] theorem State.setBytes_start (s : State) (a : Nat) (l : List Byte) :
    (s.setBytes a l).start = s.start := by rw [State.setBytes_eq]
@[simp] theorem State.setBytes_map (s : State) (a : Nat) (l : List Byte) :
    (s.setBytes a l).map = s.map := by rw [State.setBytes_eq]
@[simp] theorem State.setBytes_power (s : State) (a : Nat) (l : List Byte) :
    (s.setBytes a l).power = s.power := by rw [State.setBytes_eq]
@[simp] theorem State.setBytes_sent (s : State) (a : Nat) (l : List Byte) :
    (s.setBytes a l).sent = s.sent := by rw [State.setBytes_eq]
@[simp] theorem State.setLe_pending (s : State) (a n x : Nat) :
    (s.setLe a n x).pending = s.pending := by simp [State.setLe]
@[simp] theorem State.setLe_fresh (s : State) (a n x : Nat) :
    (s.setLe a n x).fresh = s.fresh := by simp [State.setLe]
@[simp] theorem State.setLe_lost (s : State) (a n x : Nat) :
    (s.setLe a n x).lost = s.lost := by simp [State.setLe]
@[simp] theorem State.setLe_carrels (s : State) (a n x : Nat) :
    (s.setLe a n x).carrels = s.carrels := by simp [State.setLe]
@[simp] theorem State.setLe_halts (s : State) (a n x : Nat) :
    (s.setLe a n x).halts = s.halts := by simp [State.setLe]
@[simp] theorem State.setLe_ownChip (s : State) (a n x : Nat) :
    (s.setLe a n x).ownChip = s.ownChip := by simp [State.setLe]
@[simp] theorem State.setLe_gateOnly (s : State) (a n x : Nat) :
    (s.setLe a n x).gateOnly = s.gateOnly := by simp [State.setLe]
@[simp] theorem State.setLe_tick (s : State) (a n x : Nat) :
    (s.setLe a n x).tick = s.tick := by simp [State.setLe]
@[simp] theorem State.setLe_plans (s : State) (a n x : Nat) :
    (s.setLe a n x).plans = s.plans := by simp [State.setLe]
@[simp] theorem State.setLe_hbm (s : State) (a n x : Nat) :
    (s.setLe a n x).hbm = s.hbm := by simp [State.setLe]
@[simp] theorem State.setLe_links (s : State) (a n x : Nat) :
    (s.setLe a n x).links = s.links := by simp [State.setLe]
@[simp] theorem State.setLe_chain (s : State) (a n x : Nat) :
    (s.setLe a n x).chain = s.chain := by simp [State.setLe]
@[simp] theorem State.setLe_seg (s : State) (a n x : Nat) :
    (s.setLe a n x).seg = s.seg := by simp [State.setLe]
@[simp] theorem State.setLe_host (s : State) (a n x : Nat) :
    (s.setLe a n x).host = s.host := by simp [State.setLe]
@[simp] theorem State.setLe_census (s : State) (a n x : Nat) :
    (s.setLe a n x).census = s.census := by simp [State.setLe]
@[simp] theorem State.setLe_keepers (s : State) (a n x : Nat) :
    (s.setLe a n x).keepers = s.keepers := by simp [State.setLe]
@[simp] theorem State.setLe_gauges (s : State) (a n x : Nat) :
    (s.setLe a n x).gauges = s.gauges := by simp [State.setLe]
@[simp] theorem State.setLe_train (s : State) (a n x : Nat) :
    (s.setLe a n x).train = s.train := by simp [State.setLe]
@[simp] theorem State.setLe_sec (s : State) (a n x : Nat) :
    (s.setLe a n x).sec = s.sec := by simp [State.setLe]
@[simp] theorem State.setLe_dict (s : State) (a n x : Nat) :
    (s.setLe a n x).dict = s.dict := by simp [State.setLe]
@[simp] theorem State.setLe_start (s : State) (a n x : Nat) :
    (s.setLe a n x).start = s.start := by simp [State.setLe]
@[simp] theorem State.setLe_map (s : State) (a n x : Nat) :
    (s.setLe a n x).map = s.map := by simp [State.setLe]
@[simp] theorem State.setLe_power (s : State) (a n x : Nat) :
    (s.setLe a n x).power = s.power := by simp [State.setLe]
@[simp] theorem State.setLe_sent (s : State) (a n x : Nat) :
    (s.setLe a n x).sent = s.sent := by simp [State.setLe]

@[simp] theorem State.setBytes_carrel (s : State) (a : Nat) (l : List Byte) (c : BitVec 12) :
    (s.setBytes a l).carrel c = s.carrel c := by simp [State.carrel]

@[simp] theorem State.setLe_carrel (s : State) (a n x : Nat) (c : BitVec 12) :
    (s.setLe a n x).carrel c = s.carrel c := by simp [State.carrel]

theorem State.bytes_congr {s t : State} {a n : Nat} (h : ∀ i, i < n → t.byte (a + i) = s.byte (a + i)) :
    t.bytes a n = s.bytes a n := by
  unfold State.bytes upto
  exact List.map_congr_left fun i hi => h i (List.mem_range.mp hi)

/-- A read of the bytes written. -/
theorem State.bytes_setBytes_same (s : State) (a : Nat) (l : List Byte) :
    (s.setBytes a l).bytes a l.length = l := by
  unfold State.bytes upto
  apply List.ext_getElem
  · simp
  · intro i h1 h2
    simp only [List.getElem_map, List.getElem_range, State.byte_setBytes]
    rw [if_pos (by omega)]
    simp [List.getD_eq_getElem?_getD, h2]

/-- A read that misses the bytes written. -/
theorem State.bytes_setBytes_apart (s : State) {a b n : Nat} (l : List Byte) (h : b + n ≤ a ∨ a + l.length ≤ b) :
    (s.setBytes a l).bytes b n = s.bytes b n := by
  apply State.bytes_congr
  intro i hi
  rw [State.byte_setBytes, if_neg (by omega)]

/-- A number written and read back. -/
theorem State.le_setLe_same (s : State) (a n x : Nat) : (s.setLe a n x).le a n = x % 256 ^ n := by
  unfold State.le State.setLe
  have h := s.bytes_setBytes_same a (natToBytes n x)
  rw [length_natToBytes] at h
  rw [h, bytesToNat_natToBytes]

theorem State.le_setLe_apart (s : State) {a b n m : Nat} (x : Nat) (h : b + m ≤ a ∨ a + n ≤ b) :
    (s.setLe a n x).le b m = s.le b m := by
  unfold State.le State.setLe
  rw [State.bytes_setBytes_apart s _ (by simpa using h)]

theorem State.byte_setLe_apart (s : State) {a b n : Nat} (x : Nat) (h : b < a ∨ a + n ≤ b) :
    (s.setLe a n x).byte b = s.byte b := by
  unfold State.setLe
  rw [State.byte_setBytes, if_neg (by simp; omega)]

@[simp] theorem State.setCarrel_byte (s : State) (c : BitVec 12) (k : Carrel) (a : Nat) :
    (s.setCarrel c k).byte a = s.byte a := rfl

@[simp] theorem State.modCarrel_byte (s : State) (c : BitVec 12) (f : Carrel → Carrel) (a : Nat) :
    (s.modCarrel c f).byte a = s.byte a := rfl

@[simp] theorem State.setCarrel_le (s : State) (c : BitVec 12) (k : Carrel) (a n : Nat) :
    (s.setCarrel c k).le a n = s.le a n := rfl

/-! ### The canonical form -/

theorem State.setByte_memWf (s : State) (a : Nat) (b : Byte) (h : Tab.wf emptyByte s.mem = true) :
    Tab.wf emptyByte (s.setByte a b).mem = true := Tab.wf_set _ _ h

theorem State.setBytes_memWf (s : State) (a : Nat) (l : List Byte) (h : Tab.wf emptyByte s.mem = true) :
    Tab.wf emptyByte (s.setBytes a l).mem = true := by
  induction l generalizing s a with
  | nil => exact h
  | cons b l ih => exact ih _ _ (State.setByte_memWf s a b h)

theorem State.setLe_memWf (s : State) (a n x : Nat) (h : Tab.wf emptyByte s.mem = true) :
    Tab.wf emptyByte (s.setLe a n x).mem = true := State.setBytes_memWf _ _ _ h

end Sys2Proof.Machine
end

