-- ==== Sys2Proof/Laws/Stacks.lean ====
section
/-!
SUPPORT. The banked stacks: what popping, pushing and spilling do to the entries, to the carrel and to memory.
-/

namespace Sys2Proof.Machine

/-! ### Slots -/

theorem State.setCarrel_slot (s : State) (c d : BitVec 12) (k : Carrel) (i : Nat) :
    (s.setCarrel c k).slot d i = s.slot d i := rfl

theorem State.modCarrel_slot (s : State) (c d : BitVec 12) (f : Carrel → Carrel) (i : Nat) :
    (s.modCarrel c f).slot d i = s.slot d i := rfl

@[simp] theorem State.setCarrel_peek (s : State) (c d : BitVec 12) (k : Carrel) (p : Ptrs) (res : List Word) (n : Nat) :
    (s.setCarrel c k).peek d p res n = s.peek d p res n := rfl

@[simp] theorem State.modCarrel_peek (s : State) (c d : BitVec 12) (f : Carrel → Carrel) (p : Ptrs) (res : List Word)
    (n : Nat) : (s.modCarrel c f).peek d p res n = s.peek d p res n := rfl

theorem word_toNat (x : Word) : word x.toNat = x := by simp [word]

/-- A slot after a spill: the slot written holds the word, every other slot is what it was. -/
theorem State.slot_spill (s : State) (c : BitVec 12) (p i : Nat) (x : Word) (hp : p < 24576) :
    (s.setLe (shelfBase c.toNat + 8 * p) 8 x.toNat).slot c i = if i = p then x else s.slot c i := by
  unfold State.slot
  by_cases hi : i < shelfSize / 8
  · rw [if_pos hi, if_pos hi]
    by_cases h : i = p
    · subst h
      rw [if_pos rfl, State.le_setLe_same]
      have : x.toNat % 256 ^ 8 = x.toNat := Nat.mod_eq_of_lt (by have := x.isLt; omega)
      rw [this, word_toNat]
    · rw [if_neg h, State.le_setLe_apart _ _ (by omega)]
  · have h : i ≠ p := by simp [shelfSize] at hi; omega
    rw [if_neg hi, if_neg hi, if_neg h]
    simp

/-! ### One entry -/

/-- Entry `n` of a stack over given slots. -/
def entryAt (slot : Nat → Word) (ptr : Nat) (res : List Word) (n : Nat) : Word :=
  (res[n]?).getD (slot (ptr - 1 - (n - res.length)))

theorem State.peek_eq (s : State) (c : BitVec 12) (p : Ptrs) (res : List Word) (n : Nat) :
    s.peek c p res n = entryAt (s.slot c) p.ptr.toNat res n := by
  unfold State.peek entryAt
  cases res[n]? <;> rfl

theorem entryAt_congr {f g : Nat → Word} {ptr : Nat} {res : List Word} {n : Nat}
    (h : res.length ≤ n → f (ptr - 1 - (n - res.length)) = g (ptr - 1 - (n - res.length))) :
    entryAt f ptr res n = entryAt g ptr res n := by
  unfold entryAt
  by_cases hn : n < res.length
  · simp [hn]
  · simp [hn, h (by omega)]

/-- Entries after the top `n` have left. -/
theorem entryAt_take (slot : Nat → Word) (ptr : Nat) (res : List Word) (n m : Nat) :
    entryAt slot (ptr - (n - res.length))
      ((res ++ (upto (n - res.length)).map fun i => slot (ptr - 1 - i)).drop n) m =
      entryAt slot ptr res (n + m) := by
  unfold entryAt
  by_cases h : n + m < res.length
  · have h1 : n ≤ res.length := by omega
    have h2 : n - res.length = 0 := by omega
    simp [h2, upto, List.getElem?_drop, h]
  · have : ((res ++ (upto (n - res.length)).map fun i => slot (ptr - 1 - i)).drop n).length = res.length - n := by
      simp [upto]; omega
    have e1 : ((res ++ (upto (n - res.length)).map fun i => slot (ptr - 1 - i)).drop n)[m]? = none := by
      rw [List.getElem?_eq_none_iff, this]; omega
    have e2 : res[n + m]? = none := by rw [List.getElem?_eq_none_iff]; omega
    rw [e1, e2, this]
    simp only [Option.getD_none]
    congr 1
    omega

/-- The entries taken are those that were read in place. -/
theorem takeN_getElem (slot : Nat → Word) (ptr : Nat) (res : List Word) (n i : Nat) (hi : i < n) :
    ((res ++ (upto (n - res.length)).map fun i => slot (ptr - 1 - i)).take n)[i]? =
      some (entryAt slot ptr res i) := by
  rw [List.getElem?_take_of_lt hi]
  unfold entryAt upto
  by_cases h : i < res.length
  · simp [List.getElem?_append_left h, h]
  · have e2 : res[i]? = none := by rw [List.getElem?_eq_none_iff]; omega
    rw [List.getElem?_append_right (by omega), e2]
    simp only [Option.getD_none, List.getElem?_map]
    rw [List.getElem?_range (by omega)]
    simp

/-- Entries after one entry has come, the stack's resident part not full. -/
theorem entryAt_push (slot : Nat → Word) (ptr : Nat) (res : List Word) (x : Word) (n : Nat) :
    entryAt slot ptr (x :: res) (n + 1) = entryAt slot ptr res n := by
  unfold entryAt
  simp

@[simp] theorem entryAt_zero (slot : Nat → Word) (ptr : Nat) (res : List Word) (x : Word) :
    entryAt slot ptr (x :: res) 0 = x := rfl

/-- Entries after one entry has come and the deepest resident one has been spilled. -/
theorem entryAt_spill (slot : Nat → Word) (ptr : Nat) (res : List Word) (x : Word) (n : Nat) (hr : res ≠ [])
    (hn : n < res.length + ptr) :
    entryAt (fun i => if i = ptr then res.getLastD 0 else slot i) (ptr + 1) (x :: res.dropLast) (n + 1) =
      entryAt slot ptr res n := by
  have hl : 0 < res.length := List.length_pos_iff.mpr hr
  unfold entryAt
  by_cases h : n + 1 < res.length
  · have h1 : n < res.dropLast.length := by simp; omega
    have h2 : n < res.length := by omega
    simp only [List.getElem?_cons_succ, List.getElem?_eq_getElem h1, List.getElem?_eq_getElem h2,
      Option.getD_some, List.getElem_dropLast]
  · have e1 : (x :: res.dropLast)[n + 1]? = none := by
      rw [List.getElem?_eq_none_iff]; simp; omega
    rw [e1]
    simp only [Option.getD_none, List.length_cons, List.length_dropLast]
    by_cases h3 : n + 1 = res.length
    · rw [if_pos (by omega), List.getElem?_eq_getElem (by omega)]
      simp only [Option.getD_some]
      rw [List.getLastD_eq_getLast?, List.getLast?_eq_getElem?]
      have : res.length - 1 = n := by omega
      rw [this, List.getElem?_eq_getElem (by omega)]
      rfl
    · rw [if_neg (by omega)]
      have e2 : res[n]? = none := by rw [List.getElem?_eq_none_iff]; omega
      rw [e2]
      simp only [Option.getD_none]
      congr 1
      omega

/-! ### Pushing on a data stack -/

/-- A bank after one entry has come on its data stack (R76). -/
def Bank.pushed (b : Bank) (x : Word) : Bank :=
  if b.dres.length < 8 then { b with dres := x :: b.dres }
  else { b with d := { b.d with ptr := b.d.ptr + 1 }, dres := x :: b.dres.dropLast }

theorem State.pushBank_carrel (s : State) (c d : BitVec 12) (id : BankId) (x : Word) :
    (s.pushBank c id x).carrel d =
      if d = c then (s.carrel c).setBank id (((s.carrel c).bank id).pushed x) else s.carrel d := by
  unfold State.pushBank Bank.pushed
  simp only
  split
  · rw [State.carrel_setCarrel]
  · rw [State.carrel_setCarrel]; simp

theorem State.pushBank_eq (s : State) (c : BitVec 12) (id : BankId) (x : Word) :
    s.pushBank c id x = { s with mem := (s.pushBank c id x).mem, carrels := (s.pushBank c id x).carrels } := by
  unfold State.pushBank
  simp only
  split
  · rfl
  · unfold State.setLe
    rw [State.setBytes_eq]
    rfl

theorem State.pushBank_byte (s : State) (c : BitVec 12) (id : BankId) (x : Word) (a : Nat)
    (h : 8 ≤ ((s.carrel c).bank id).dres.length →
      a < shelfBase c.toNat + 8 * ((s.carrel c).bank id).d.ptr.toNat ∨
        shelfBase c.toNat + 8 * ((s.carrel c).bank id).d.ptr.toNat + 8 ≤ a) :
    (s.pushBank c id x).byte a = s.byte a := by
  unfold State.pushBank
  simp only
  split
  · rfl
  · rw [State.setCarrel_byte, State.byte_setLe_apart _ _ (h (by omega))]

theorem State.pushBank_slot (s : State) (c : BitVec 12) (id : BankId) (x : Word) (i : Nat)
    (h : 8 ≤ ((s.carrel c).bank id).dres.length → ((s.carrel c).bank id).d.ptr.toNat < 24576) :
    (s.pushBank c id x).slot c i =
      if 8 ≤ ((s.carrel c).bank id).dres.length ∧ i = ((s.carrel c).bank id).d.ptr.toNat
      then ((s.carrel c).bank id).dres.getLastD 0 else s.slot c i := by
  unfold State.pushBank
  simp only
  split
  · rw [State.setCarrel_slot, if_neg (by omega)]
  · rw [State.setCarrel_slot, State.slot_spill _ _ _ _ _ (h (by omega))]
    simp only [show 8 ≤ ((s.carrel c).bank id).dres.length by omega, true_and]

/-- What pushes on the data stack of bank `id` have done, from `s` to `t`: `n` entries, the last pushed first. -/
structure PushedD (c : BitVec 12) (id : BankId) (outs : List Word) (s t : State) : Prop where
  rest : t = { s with mem := t.mem, carrels := t.carrels }
  others : ∀ d, d ≠ c → t.carrel d = s.carrel d
  bank : ∃ ptr res, t.carrel c =
    (s.carrel c).setBank id { (s.carrel c).bank id with d := { ((s.carrel c).bank id).d with ptr := ptr }, dres := res } ∧
    ptr.toNat + res.length = ((s.carrel c).bank id).d.ptr.toNat + ((s.carrel c).bank id).dres.length + outs.length ∧
    res.length ≤ ((s.carrel c).bank id).dres.length + outs.length ∧
    (∀ n x, outs[n]? = some x → entryAt (t.slot c) ptr.toNat res n = x) ∧
    ∀ n, n < ((s.carrel c).bank id).dres.length + ((s.carrel c).bank id).d.ptr.toNat →
      entryAt (t.slot c) ptr.toNat res (outs.length + n) =
        entryAt (s.slot c) ((s.carrel c).bank id).d.ptr.toNat ((s.carrel c).bank id).dres n
  slots : ∀ i, ¬ (((s.carrel c).bank id).d.ptr.toNat ≤ i ∧
      i < ((s.carrel c).bank id).d.ptr.toNat + (((s.carrel c).bank id).dres.length + outs.length - 8)) →
    t.slot c i = s.slot c i
  bytes : ∀ a, (∀ i, ((s.carrel c).bank id).d.ptr.toNat ≤ i ∧
      i < ((s.carrel c).bank id).d.ptr.toNat + (((s.carrel c).bank id).dres.length + outs.length - 8) →
      a < shelfBase c.toNat + 8 * i ∨ shelfBase c.toNat + 8 * i + 8 ≤ a) → t.byte a = s.byte a

/-- One push. -/
theorem State.pushBank_pushed (s : State) (c : BitVec 12) (id : BankId) (x : Word)
    (h : ((s.carrel c).bank id).dres.length + 1 ≤ 8 ∨
      ((s.carrel c).bank id).d.ptr.toNat + (((s.carrel c).bank id).dres.length + 1 - 8) ≤ 24576) :
    PushedD c id [x] s (s.pushBank c id x) := by
  have hp : 8 ≤ ((s.carrel c).bank id).dres.length → ((s.carrel c).bank id).d.ptr.toNat < 24576 := by omega
  refine ⟨s.pushBank_eq c id x, fun d hd => ?_, ?_, fun i hi => ?_, fun a ha => ?_⟩
  · rw [State.pushBank_carrel, if_neg hd]
  · rw [State.pushBank_carrel, if_pos rfl]
    unfold Bank.pushed
    by_cases hl : ((s.carrel c).bank id).dres.length < 8
    · rw [if_pos hl]
      have hs : (s.pushBank c id x).slot c = s.slot c := by
        funext i; rw [State.pushBank_slot _ _ _ _ _ hp, if_neg (by omega)]
      refine ⟨((s.carrel c).bank id).d.ptr, _, rfl, ?_, ?_, ?_, ?_⟩
      · simp only [List.length_cons, List.length_nil]; omega
      · simp only [List.length_cons, List.length_nil]; omega
      · intro n y hy
        match n, hy with
        | 0, hy => simp at hy; rw [hs]; simpa using hy
        | n + 1, hy => simp at hy
      · intro n _
        rw [hs]
        simp only [List.length_cons, List.length_nil, Nat.zero_add, Nat.add_comm 1 n]
        exact entryAt_push _ _ _ _ _
    · rw [if_neg hl]
      have hlt := hp (by omega)
      have hne : ((s.carrel c).bank id).dres ≠ [] := by
        intro e; rw [e] at hl; simp at hl
      have hs : (s.pushBank c id x).slot c = fun i => if i = ((s.carrel c).bank id).d.ptr.toNat then
          ((s.carrel c).bank id).dres.getLastD 0 else s.slot c i := by
        funext i; rw [State.pushBank_slot _ _ _ _ _ hp]
        simp [show 8 ≤ ((s.carrel c).bank id).dres.length by omega]
      have ht : (((s.carrel c).bank id).d.ptr + 1).toNat = ((s.carrel c).bank id).d.ptr.toNat + 1 := by
        rw [BitVec.toNat_add]; simp; omega
      refine ⟨_, _, rfl, ?_, ?_, ?_, ?_⟩
      · rw [ht]; simp only [List.length_cons, List.length_nil, List.length_dropLast]; omega
      · simp only [List.length_cons, List.length_nil, List.length_dropLast]; omega
      · intro n y hy
        match n, hy with
        | 0, hy => simp at hy; simpa using hy
        | n + 1, hy => simp at hy
      · intro n hn
        rw [hs, ht]
        simp only [List.length_cons, List.length_nil, Nat.zero_add, Nat.add_comm 1 n]
        exact entryAt_spill _ _ _ _ _ hne hn
  · rw [State.pushBank_slot _ _ _ _ _ hp, if_neg]
    intro ⟨h1, h2⟩
    exact hi ⟨by omega, by simp; omega⟩
  · exact State.pushBank_byte _ _ _ _ _ fun h8 => ha _ ⟨Nat.le_refl _, by simp; omega⟩

theorem PushedD.refl (c : BitVec 12) (id : BankId) (s : State) : PushedD c id [] s s := by
  refine ⟨rfl, fun _ _ => rfl, ⟨((s.carrel c).bank id).d.ptr, ((s.carrel c).bank id).dres, ?_, ?_, ?_, ?_, ?_⟩,
    fun _ _ => rfl, fun _ _ => rfl⟩
  · cases id <;> rfl
  · simp
  · simp
  · intro n x h; simp at h
  · intro n _; simp

theorem PushedD.trans {c : BitVec 12} {id : BankId} {a b : List Word} {s t u : State}
    (h1 : PushedD c id a s t) (h2 : PushedD c id b t u)
    (hl : ((s.carrel c).bank id).dres.length + a.length ≤ 8 ∨ 8 ≤ ((s.carrel c).bank id).dres.length)
    (h8 : ∀ ptr res, t.carrel c =
      (s.carrel c).setBank id { (s.carrel c).bank id with d := { ((s.carrel c).bank id).d with ptr := ptr }, dres := res } →
      (((s.carrel c).bank id).dres.length + a.length ≤ 8 ∧ ptr = ((s.carrel c).bank id).d.ptr ∧
        res.length = ((s.carrel c).bank id).dres.length + a.length) ∨
      (8 ≤ ((s.carrel c).bank id).dres.length ∧ res.length = ((s.carrel c).bank id).dres.length)) :
    PushedD c id (b ++ a) s u := by
  obtain ⟨p1, r1, hc1, hn1, hm1, ho1, hk1⟩ := h1.bank
  obtain ⟨p2, r2, hc2, hn2, hm2, ho2, hk2⟩ := h2.bank
  have hb : (t.carrel c).bank id =
      { (s.carrel c).bank id with d := { ((s.carrel c).bank id).d with ptr := p1 }, dres := r1 } := by
    rw [hc1]; simp
  have h8' := h8 p1 r1 hc1
  have hd : ((t.carrel c).bank id).dres = r1 := by rw [hb]
  have hp : ((t.carrel c).bank id).d.ptr = p1 := by rw [hb]
  have s2 := h2.slots
  have b2 := h2.bytes
  rw [hd, hp] at s2 b2 hn2 hk2
  rw [hd] at hm2
  refine ⟨?_, fun d hd => (h2.others d hd).trans (h1.others d hd), ⟨p2, r2, ?_, ?_, ?_, ?_, ?_⟩, ?_, ?_⟩
  · have e1 := h1.rest
    have e2 := h2.rest
    rw [e2, e1]
  · rw [hc2, hb, hc1]; cases id <;> rfl
  · simp only [List.length_append]; omega
  · simp only [List.length_append]; omega
  · intro n x hx
    by_cases hn : n < b.length
    · rw [List.getElem?_append_left hn] at hx; exact ho2 n x hx
    · rw [List.getElem?_append_right (by omega)] at hx
      have := hk2 (n - b.length) (by
        have := (List.getElem?_eq_some_iff.mp hx).1
        omega)
      rw [show b.length + (n - b.length) = n by omega] at this
      rw [this]
      exact ho1 _ _ hx
  · intro n hn
    simp only [List.length_append]
    rw [Nat.add_assoc, hk2 (a.length + n) (by omega)]
    exact hk1 n hn
  · intro i hi
    rw [s2 i (by simp only [List.length_append] at hi; omega), h1.slots i (by simp only [List.length_append] at hi; omega)]
  · intro x hx
    rw [b2 x (fun i hi => hx i (by simp only [List.length_append]; omega)),
      h1.bytes x (fun i hi => hx i (by simp only [List.length_append]; omega))]

/-- Pushes on the data stack in use. -/
theorem State.pushDs_pushed (c : BitVec 12) (l : List Word) (s : State)
    (h : (s.dataOf c).dres.length + l.length ≤ 8 ∨
      (s.dataOf c).d.ptr.toNat + ((s.dataOf c).dres.length + l.length - 8) ≤ 24576) :
    PushedD c (s.carrel c).dataBank l.reverse s (s.pushDs c l) := by
  induction l generalizing s with
  | nil => exact PushedD.refl c _ s
  | cons x l ih =>
    unfold State.dataOf at *
    simp only [List.length_cons] at h
    have h1 := State.pushBank_pushed s c (s.carrel c).dataBank x (by omega)
    obtain ⟨p1, r1, hc1, hn1, _, _, _⟩ := h1.bank
    have hshape : ∀ ptr res, (s.pushBank c (s.carrel c).dataBank x).carrel c =
        (s.carrel c).setBank (s.carrel c).dataBank { (s.carrel c).bank (s.carrel c).dataBank with
          d := { ((s.carrel c).bank (s.carrel c).dataBank).d with ptr := ptr }, dres := res } →
        (((s.carrel c).bank (s.carrel c).dataBank).dres.length + [x].length ≤ 8 ∧
          ptr = ((s.carrel c).bank (s.carrel c).dataBank).d.ptr ∧
          res.length = ((s.carrel c).bank (s.carrel c).dataBank).dres.length + [x].length) ∨
        (8 ≤ ((s.carrel c).bank (s.carrel c).dataBank).dres.length ∧
          res.length = ((s.carrel c).bank (s.carrel c).dataBank).dres.length) := by
      intro ptr res he
      have hb := congrArg (fun k => Carrel.bank k (s.carrel c).dataBank) he
      rw [State.pushBank_carrel, if_pos rfl] at hb
      simp only [Carrel.bank_setBank_same] at hb
      unfold Bank.pushed at hb
      split at hb
      · next hl =>
        have e1 : ((s.carrel c).bank (s.carrel c).dataBank).d.ptr = ptr := congrArg (fun b : Bank => b.d.ptr) hb
        have e2 : x :: ((s.carrel c).bank (s.carrel c).dataBank).dres = res := congrArg (fun b : Bank => b.dres) hb
        refine Or.inl ⟨?_, e1.symm, ?_⟩
        · simp only [List.length_cons, List.length_nil]; omega
        · rw [← e2]; simp
      · next hl =>
        have e2 : x :: ((s.carrel c).bank (s.carrel c).dataBank).dres.dropLast = res :=
          congrArg (fun b : Bank => b.dres) hb
        refine Or.inr ⟨by omega, ?_⟩
        rw [← e2]; simp only [List.length_cons, List.length_dropLast]; omega
    have hd : ((s.pushD c x).carrel c).dataBank = (s.carrel c).dataBank := by
      unfold State.pushD; rw [hc1]; simp
    have hb : ((s.pushD c x).carrel c).bank (s.carrel c).dataBank =
        { (s.carrel c).bank (s.carrel c).dataBank with
          d := { ((s.carrel c).bank (s.carrel c).dataBank).d with ptr := p1 }, dres := r1 } := by
      unfold State.pushD; rw [hc1]; simp
    have h2 := ih (s.pushD c x) (by
      rw [hd, hb]
      rcases hshape p1 r1 hc1 with ⟨_, e, e2⟩ | ⟨_, e2⟩
      · simp only [List.length_cons, List.length_nil] at e2 hn1
        dsimp only; rw [e]; omega
      · simp only [List.length_cons, List.length_nil] at hn1
        dsimp only; omega)
    rw [hd] at h2
    rw [List.reverse_cons]
    have hlen : ((s.carrel c).bank (s.carrel c).dataBank).dres.length + [x].length ≤ 8 ∨
        8 ≤ ((s.carrel c).bank (s.carrel c).dataBank).dres.length := by
      simp only [List.length_cons, List.length_nil]; omega
    exact PushedD.trans h1 h2 hlen hshape

/-! ### Popping from a data stack -/

theorem ptr_sub_toNat (p : BitVec 15) (n : Nat) (h : n ≤ p.toNat) : (p - BitVec.ofNat 15 n).toNat = p.toNat - n := by
  have := p.isLt
  have h15 : (2 : Nat) ^ 15 = 32768 := rfl
  rw [BitVec.toNat_sub, BitVec.toNat_ofNat, h15] at *
  rw [Nat.mod_eq_of_lt (show n < 32768 by omega)]
  omega

/-- The entries that a pop answers are those read where they lie. -/
theorem State.ent_popD (s : State) (c : BitVec 12) (n i : Nat) (h : i < n) :
    (s.popD c n).1.getD i 0 = s.peekD c i := by
  unfold State.popD State.takeN State.peekD
  simp only
  rw [State.peek_eq, List.getD_eq_getElem?_getD, takeN_getElem _ _ _ _ _ h]
  rfl

/-- A bank after its top `n` data entries have left. -/
def State.poppedBank (s : State) (c : BitVec 12) (n : Nat) : Bank :=
  let b := s.dataOf c
  { b with
    d := { b.d with ptr := b.d.ptr - BitVec.ofNat 15 (n - b.dres.length) }
    dres := (b.dres ++ (upto (n - b.dres.length)).map fun i => s.slot c (b.d.ptr.toNat - 1 - i)).drop n }

theorem State.popD_state (s : State) (c : BitVec 12) (n : Nat) :
    (s.popD c n).2 = s.setCarrel c ((s.carrel c).setBank (s.carrel c).dataBank (s.poppedBank c n)) := rfl

theorem poppedBank_length (s : State) (c : BitVec 12) (n : Nat) :
    (s.poppedBank c n).dres.length = max (s.dataOf c).dres.length n - n := by
  unfold State.poppedBank upto
  simp; omega

/-- What the bound check guarantees of the data stack. -/
theorem fits_data {s : State} {c : BitVec 12} {u : StackUse} (h : Fits s c u) :
    (max u.dNeed u.dPop ≠ 0 → ((max u.dNeed u.dPop : Nat) : Int) ≤ (s.dataOf c).dataDepth) ∧
    (max (s.dataOf c).dres.length u.dPop - u.dPop + u.dPush ≤ 8 ∨
      (s.dataOf c).d.ptr.toNat - (u.dPop - (s.dataOf c).dres.length) +
        (max (s.dataOf c).dres.length u.dPop - u.dPop + u.dPush - 8) ≤ 24576) := by
  unfold Fits Carrel.stackCheck at h
  simp only at h
  have hd : boundCheck (s.dataOf c).d (s.dataOf c).dres 8 (max u.dNeed u.dPop) u.dPop u.dPush = none := by
    unfold State.dataOf
    cases hb : boundCheck ((s.carrel c).bank (s.carrel c).dataBank).d ((s.carrel c).bank (s.carrel c).dataBank).dres 8
        (max u.dNeed u.dPop) u.dPop u.dPush with
    | none => rfl
    | some b => rw [hb] at h; simp at h
  unfold boundCheck at hd
  split at hd
  · simp at hd
  · next hlt =>
    simp only at hd
    split at hd
    · simp at hd
    · next hsp =>
      refine ⟨?_, ?_⟩
      · intro h0; unfold Bank.dataDepth; omega
      · simp only [shelfSize] at hsp
        omega

/-- What the bound check guarantees of the return stack. -/
theorem fits_ret {s : State} {c : BitVec 12} {u : StackUse} (h : Fits s c u) :
    (max u.rNeed u.rPop ≠ 0 → ((max u.rNeed u.rPop : Nat) : Int) ≤ (s.retOf c).retDepth) ∧
    (max (s.retOf c).rres.length u.rPop - u.rPop + u.rPush ≤ 16 ∨
      (s.retOf c).r.ptr.toNat - (u.rPop - (s.retOf c).rres.length) +
        (max (s.retOf c).rres.length u.rPop - u.rPop + u.rPush - 16) ≤ 24576) := by
  unfold Fits Carrel.stackCheck at h
  simp only at h
  have hd : boundCheck (s.retOf c).r (s.retOf c).rres 16 (max u.rNeed u.rPop) u.rPop u.rPush = none := by
    unfold State.retOf
    cases hb : boundCheck ((s.carrel c).bank (s.carrel c).dataBank).d ((s.carrel c).bank (s.carrel c).dataBank).dres 8
        (max u.dNeed u.dPop) u.dPop u.dPush with
    | some b => rw [hb] at h; simp at h
    | none =>
      rw [hb] at h
      cases hr : boundCheck ((s.carrel c).bank (s.carrel c).retBank).r ((s.carrel c).bank (s.carrel c).retBank).rres 16
        (max u.rNeed u.rPop) u.rPop u.rPush with
      | none => rfl
      | some b => rw [hr] at h; simp at h
  unfold boundCheck at hd
  split at hd
  · simp at hd
  · next hlt =>
    simp only at hd
    split at hd
    · simp at hd
    · next hsp =>
      refine ⟨?_, ?_⟩
      · intro h0; unfold Bank.retDepth; omega
      · simp only [shelfSize] at hsp
        omega

theorem data_fills {b : Bank} {n : Nat} (h : n ≠ 0 → (n : Int) ≤ b.dataDepth) : n - b.dres.length ≤ b.d.ptr.toNat := by
  unfold Bank.dataDepth stackDepth at h; omega

theorem ret_fills {b : Bank} {n : Nat} (h : n ≠ 0 → (n : Int) ≤ b.retDepth) : n - b.rres.length ≤ b.r.ptr.toNat := by
  unfold Bank.retDepth stackDepth at h; omega

end Sys2Proof.Machine
end

