-- ==== Sys2Proof/Laws/Returns.lean ====
section
/-!
SUPPORT. The return stack, and instructions that move entries between the two stacks.
-/

namespace Sys2Proof.Machine

/-- The carrel with a data stack replaced. -/
def Carrel.withD (k : Carrel) (id : BankId) (ptr : BitVec 15) (res : List Word) : Carrel :=
  k.setBank id { k.bank id with d := { (k.bank id).d with ptr := ptr }, dres := res }

/-- The carrel with a return stack replaced. -/
def Carrel.withR (k : Carrel) (id : BankId) (ptr : BitVec 15) (res : List Word) : Carrel :=
  k.setBank id { k.bank id with r := { (k.bank id).r with ptr := ptr }, rres := res }

/-- The carrel with the stack banks of another. -/
def Carrel.banksOf (k j : Carrel) : Carrel :=
  { k with bankU := j.bankU, bankS := j.bankS, bankM := j.bankM, bankR := j.bankR }

theorem Carrel.bank_withD (k : Carrel) (a b : BankId) (p : BitVec 15) (l : List Word) :
    (k.withD a p l).bank b = if b = a then { k.bank a with d := { (k.bank a).d with ptr := p }, dres := l } else k.bank b := by
  unfold Carrel.withD; exact Carrel.bank_setBank _ _ _ _

theorem Carrel.bank_withR (k : Carrel) (a b : BankId) (p : BitVec 15) (l : List Word) :
    (k.withR a p l).bank b = if b = a then { k.bank a with r := { (k.bank a).r with ptr := p }, rres := l } else k.bank b := by
  unfold Carrel.withR; exact Carrel.bank_setBank _ _ _ _

@[simp] theorem Carrel.withD_dataBank (k : Carrel) (a : BankId) (p : BitVec 15) (l : List Word) :
    (k.withD a p l).dataBank = k.dataBank := by simp [Carrel.withD]
@[simp] theorem Carrel.withD_retBank (k : Carrel) (a : BankId) (p : BitVec 15) (l : List Word) :
    (k.withD a p l).retBank = k.retBank := by simp [Carrel.withD]
@[simp] theorem Carrel.withR_dataBank (k : Carrel) (a : BankId) (p : BitVec 15) (l : List Word) :
    (k.withR a p l).dataBank = k.dataBank := by simp [Carrel.withR]
@[simp] theorem Carrel.withR_retBank (k : Carrel) (a : BankId) (p : BitVec 15) (l : List Word) :
    (k.withR a p l).retBank = k.retBank := by simp [Carrel.withR]

theorem Carrel.banksOf_self (k : Carrel) : k = k.banksOf k := rfl

theorem Carrel.withD_banksOf {k j : Carrel} (h : j = k.banksOf j) (a : BankId) (p : BitVec 15) (l : List Word) :
    j.withD a p l = k.banksOf (j.withD a p l) := by
  cases a <;> (rw [h]; rfl)

theorem Carrel.withR_banksOf {k j : Carrel} (h : j = k.banksOf j) (a : BankId) (p : BitVec 15) (l : List Word) :
    j.withR a p l = k.banksOf (j.withR a p l) := by
  cases a <;> (rw [h]; rfl)

/-! ### The steps of a chain -/

/-- The top `n` data entries have left. -/
structure PopsD (c : BitVec 12) (n : Nat) (s t : State) : Prop where
  rest : t = { s with mem := t.mem, carrels := t.carrels }
  mem : t.mem = s.mem
  others : ∀ d, d ≠ c → t.carrel d = s.carrel d
  carrel : t.carrel c = (s.carrel c).withD (s.carrel c).dataBank
    ((s.dataOf c).d.ptr - BitVec.ofNat 15 (n - (s.dataOf c).dres.length))
    (((s.dataOf c).dres ++ (upto (n - (s.dataOf c).dres.length)).map fun i =>
      s.slot c ((s.dataOf c).d.ptr.toNat - 1 - i)).drop n)

/-- The top `n` return entries have left. -/
structure PopsR (c : BitVec 12) (n : Nat) (s t : State) : Prop where
  rest : t = { s with mem := t.mem, carrels := t.carrels }
  mem : t.mem = s.mem
  others : ∀ d, d ≠ c → t.carrel d = s.carrel d
  carrel : t.carrel c = (s.carrel c).withR (s.carrel c).retBank
    ((s.retOf c).r.ptr - BitVec.ofNat 15 (n - (s.retOf c).rres.length))
    (((s.retOf c).rres ++ (upto (n - (s.retOf c).rres.length)).map fun i =>
      s.slot c ((s.retOf c).r.ptr.toNat - 1 - i)).drop n)

theorem State.popD_pops (s : State) (c : BitVec 12) (n : Nat) : PopsD c n s (s.popD c n).2 :=
  ⟨rfl, rfl, fun _ h => State.carrel_setCarrel_other _ _ h, by
    rw [State.popD_state, State.carrel_setCarrel_same]; rfl⟩

theorem State.popR_pops (s : State) (c : BitVec 12) (n : Nat) : PopsR c n s (s.popR c n).2 :=
  ⟨rfl, rfl, fun _ h => State.carrel_setCarrel_other _ _ h, State.carrel_setCarrel_same _ _ _⟩

theorem PopsD.refl (c : BitVec 12) (s : State) : PopsD c 0 s s := by
  refine ⟨rfl, rfl, fun _ _ => rfl, ?_⟩
  unfold upto State.dataOf Carrel.withD
  simp
  cases (s.carrel c).dataBank <;> rfl

theorem PopsR.refl (c : BitVec 12) (s : State) : PopsR c 0 s s := by
  refine ⟨rfl, rfl, fun _ _ => rfl, ?_⟩
  unfold upto State.retOf Carrel.withR
  simp
  cases (s.carrel c).retBank <;> rfl

/-- At most one return entry has come, as `outs` says; it is resident. -/
structure PushedR (c : BitVec 12) (id : BankId) (outs : List Word) (s t : State) : Prop where
  rest : t = { s with mem := t.mem, carrels := t.carrels }
  others : ∀ d, d ≠ c → t.carrel d = s.carrel d
  bank : ∃ (ptr : BitVec 15) (res : List Word), t.carrel c = (s.carrel c).withR id ptr res ∧
    ptr.toNat + res.length = ((s.carrel c).bank id).r.ptr.toNat + ((s.carrel c).bank id).rres.length + outs.length ∧
    res.length ≤ ((s.carrel c).bank id).rres.length + outs.length ∧
    (∀ (n : Nat) (x : Word), outs[n]? = some x → res[n]? = some x) ∧
    (∀ n, n < ((s.carrel c).bank id).rres.length + ((s.carrel c).bank id).r.ptr.toNat →
      entryAt (t.slot c) ptr.toNat res (outs.length + n) =
        entryAt (s.slot c) ((s.carrel c).bank id).r.ptr.toNat ((s.carrel c).bank id).rres n) ∧
    (outs = [] → ptr = ((s.carrel c).bank id).r.ptr ∧ res = ((s.carrel c).bank id).rres)
  slots : ∀ i, ¬ (((s.carrel c).bank id).r.ptr.toNat ≤ i ∧
      i < ((s.carrel c).bank id).r.ptr.toNat + (((s.carrel c).bank id).rres.length + outs.length - 16)) →
    t.slot c i = s.slot c i
  bytes : ∀ a, (∀ i, ((s.carrel c).bank id).r.ptr.toNat ≤ i ∧
      i < ((s.carrel c).bank id).r.ptr.toNat + (((s.carrel c).bank id).rres.length + outs.length - 16) →
      a < shelfBase c.toNat + 8 * i ∨ shelfBase c.toNat + 8 * i + 8 ≤ a) → t.byte a = s.byte a

theorem PushedR.refl (c : BitVec 12) (id : BankId) (s : State) : PushedR c id [] s s := by
  refine ⟨rfl, fun _ _ => rfl, ⟨((s.carrel c).bank id).r.ptr, ((s.carrel c).bank id).rres, ?_, ?_, ?_, ?_, ?_, ?_⟩,
    fun _ _ => rfl, fun _ _ => rfl⟩
  · cases id <;> rfl
  · simp
  · simp
  · intro n x h; simp at h
  · intro n _; simp
  · intro _; exact ⟨rfl, rfl⟩

theorem State.pushR_carrel (s : State) (c d : BitVec 12) (x : Word) :
    (s.pushR c x).carrel d =
      if d = c then
        (if (s.retOf c).rres.length < 16 then
          (s.carrel c).withR (s.carrel c).retBank (s.retOf c).r.ptr (x :: (s.retOf c).rres)
        else (s.carrel c).withR (s.carrel c).retBank ((s.retOf c).r.ptr + 1) (x :: (s.retOf c).rres.dropLast))
      else s.carrel d := by
  unfold State.pushR State.retOf Carrel.withR
  simp only
  split
  · rw [State.carrel_setCarrel]
  · rw [State.carrel_setCarrel]; simp

theorem State.pushR_eq (s : State) (c : BitVec 12) (x : Word) :
    s.pushR c x = { s with mem := (s.pushR c x).mem, carrels := (s.pushR c x).carrels } := by
  unfold State.pushR
  simp only
  split
  · rfl
  · unfold State.setLe
    rw [State.setBytes_eq]
    rfl

theorem State.pushR_byte (s : State) (c : BitVec 12) (x : Word) (a : Nat)
    (h : 16 ≤ (s.retOf c).rres.length →
      a < shelfBase c.toNat + 8 * (s.retOf c).r.ptr.toNat ∨
        shelfBase c.toNat + 8 * (s.retOf c).r.ptr.toNat + 8 ≤ a) :
    (s.pushR c x).byte a = s.byte a := by
  unfold State.retOf at h
  unfold State.pushR
  simp only
  split
  · rfl
  · rw [State.setCarrel_byte, State.byte_setLe_apart _ _ (h (by omega))]

theorem State.pushR_slot (s : State) (c : BitVec 12) (x : Word) (i : Nat)
    (h : 16 ≤ (s.retOf c).rres.length → (s.retOf c).r.ptr.toNat < 24576) :
    (s.pushR c x).slot c i =
      if 16 ≤ (s.retOf c).rres.length ∧ i = (s.retOf c).r.ptr.toNat
      then (s.retOf c).rres.getLastD 0 else s.slot c i := by
  unfold State.retOf at *
  unfold State.pushR
  simp only
  split
  · rw [State.setCarrel_slot, if_neg (by omega)]
  · rw [State.setCarrel_slot, State.slot_spill _ _ _ _ _ (h (by omega))]
    simp only [show 16 ≤ ((s.carrel c).bank (s.carrel c).retBank).rres.length by omega, true_and]

/-- One push on the return stack in use. -/
theorem State.pushR_pushed (s : State) (c : BitVec 12) (x : Word)
    (h : (s.retOf c).rres.length + 1 ≤ 16 ∨
      (s.retOf c).r.ptr.toNat + ((s.retOf c).rres.length + 1 - 16) ≤ 24576) :
    PushedR c (s.carrel c).retBank [x] s (s.pushR c x) := by
  have hp : 16 ≤ (s.retOf c).rres.length → (s.retOf c).r.ptr.toNat < 24576 := by omega
  refine ⟨s.pushR_eq c x, fun d hd => ?_, ?_, fun i hi => ?_, fun a ha => ?_⟩
  · rw [State.pushR_carrel, if_neg hd]
  · rw [State.pushR_carrel, if_pos rfl]
    rw [show (s.carrel c).bank (s.carrel c).retBank = s.retOf c from rfl]
    by_cases hl : (s.retOf c).rres.length < 16
    · rw [if_pos hl]
      have hs : (s.pushR c x).slot c = s.slot c := by
        funext i; rw [State.pushR_slot _ _ _ _ hp, if_neg (by omega)]
      refine ⟨(s.retOf c).r.ptr, _, rfl, ?_, ?_, ?_, ?_, fun e => by simp at e⟩
      · simp only [List.length_cons, List.length_nil]; omega
      · simp only [List.length_cons, List.length_nil]; omega
      · intro n y hy
        match n, hy with
        | 0, hy => simpa using hy
        | n + 1, hy => simp at hy
      · intro n _
        rw [hs]
        simp only [List.length_cons, List.length_nil, Nat.zero_add, Nat.add_comm 1 n]
        exact entryAt_push _ _ _ _ _
    · rw [if_neg hl]
      have hlt := hp (by omega)
      have hne : (s.retOf c).rres ≠ [] := by
        intro e; rw [e] at hl; simp at hl
      have hs : (s.pushR c x).slot c = fun i => if i = (s.retOf c).r.ptr.toNat then
          (s.retOf c).rres.getLastD 0 else s.slot c i := by
        funext i; rw [State.pushR_slot _ _ _ _ hp]
        simp [show 16 ≤ (s.retOf c).rres.length by omega]
      have ht : ((s.retOf c).r.ptr + 1).toNat = (s.retOf c).r.ptr.toNat + 1 := by
        rw [BitVec.toNat_add]; simp; omega
      refine ⟨_, _, rfl, ?_, ?_, ?_, ?_, fun e => by simp at e⟩
      · rw [ht]; simp only [List.length_cons, List.length_nil, List.length_dropLast]; omega
      · simp only [List.length_cons, List.length_nil, List.length_dropLast]; omega
      · intro n y hy
        match n, hy with
        | 0, hy => simpa using hy
        | n + 1, hy => simp at hy
      · intro n hn
        rw [hs, ht]
        simp only [List.length_cons, List.length_nil, Nat.zero_add, Nat.add_comm 1 n]
        exact entryAt_spill _ _ _ _ _ hne hn
  · rw [State.pushR_slot _ _ _ _ hp, if_neg]
    intro ⟨h1, h2⟩
    unfold State.retOf at h1
    rw [show (s.retOf c).r = ((s.carrel c).bank (s.carrel c).retBank).r from rfl] at h2
    exact hi ⟨by omega, by simp only [List.length_cons, List.length_nil]; omega⟩
  · exact State.pushR_byte _ _ _ _ fun h8 => ha _ ⟨Nat.le_refl _, by
      change ((s.carrel c).bank (s.carrel c).retBank).r.ptr.toNat < _
      have h9 : 16 ≤ ((s.carrel c).bank (s.carrel c).retBank).rres.length := h8
      simp only [List.length_cons, List.length_nil]; omega⟩

/-! ### The chain -/

/-- Data entries leave, return entries leave, at most one return entry comes, data entries come. -/
theorem moves_chain {c : BitVec 12} {dPop rPop : Nat} {dOut rOut : List Word} {s s1 s2 s3 t : State}
    (h1 : PopsD c dPop s s1) (h2 : PopsR c rPop s1 s2) (h3 : PushedR c (s.carrel c).retBank rOut s2 s3)
    (h4 : PushedD c (s.carrel c).dataBank dOut s3 t)
    (hfD : dPop - (s.dataOf c).dres.length ≤ (s.dataOf c).d.ptr.toNat)
    (hfR : rPop - (s.retOf c).rres.length ≤ (s.retOf c).r.ptr.toNat)
    (h0 : dPop = 0 → dOut = [] → t = s3) :
    Moves c (s.carrel c) dPop dOut rPop rOut s t := by
  -- registers along the chain
  have db1 : (s1.carrel c).dataBank = (s.carrel c).dataBank := by rw [h1.carrel]; simp
  have rb1 : (s1.carrel c).retBank = (s.carrel c).retBank := by rw [h1.carrel]; simp
  have ro1 : (s1.retOf c).r = (s.retOf c).r ∧ (s1.retOf c).rres = (s.retOf c).rres := by
    unfold State.retOf
    rw [rb1, h1.carrel, Carrel.bank_withD]
    split
    · next e => rw [e]; exact ⟨rfl, rfl⟩
    · exact ⟨rfl, rfl⟩
  have e2 := h2.carrel
  rw [ro1.1, ro1.2, rb1] at e2
  have sl1 : s1.slot c = s.slot c := by
    funext i; unfold State.slot State.le State.bytes State.byte; rw [h1.mem, h1.rest]
  have sl2 : s2.slot c = s.slot c := by
    rw [← sl1]; funext i; unfold State.slot State.le State.bytes State.byte; rw [h2.mem, h2.rest]
  rw [sl1] at e2
  obtain ⟨p3, l3, e3, n3, m3, o3, k3, z3⟩ := h3.bank
  obtain ⟨p4, l4, e4, n4, m4, o4, k4⟩ := h4.bank
  have sl3 := h3.slots
  have sl4 := h4.slots
  have by3 := h3.bytes
  have by4 := h4.bytes
  -- the banks of the four states
  generalize hDp : (s.dataOf c).d.ptr - BitVec.ofNat 15 (dPop - (s.dataOf c).dres.length) = pd at *
  generalize hDl : ((s.dataOf c).dres ++ (upto (dPop - (s.dataOf c).dres.length)).map fun i =>
      s.slot c ((s.dataOf c).d.ptr.toNat - 1 - i)).drop dPop = ld at *
  generalize hRp : (s.retOf c).r.ptr - BitVec.ofNat 15 (rPop - (s.retOf c).rres.length) = pr at *
  generalize hRl : ((s.retOf c).rres ++ (upto (rPop - (s.retOf c).rres.length)).map fun i =>
      s.slot c ((s.retOf c).r.ptr.toNat - 1 - i)).drop rPop = lr at *
  have hpd : pd.toNat = (s.dataOf c).d.ptr.toNat - (dPop - (s.dataOf c).dres.length) := by
    rw [← hDp]; exact ptr_sub_toNat _ _ hfD
  have hpr : pr.toNat = (s.retOf c).r.ptr.toNat - (rPop - (s.retOf c).rres.length) := by
    rw [← hRp]; exact ptr_sub_toNat _ _ hfR
  have hld : ld.length = max (s.dataOf c).dres.length dPop - dPop := by
    rw [← hDl]; unfold upto; simp; omega
  have hlr : lr.length = max (s.retOf c).rres.length rPop - rPop := by
    rw [← hRl]; unfold upto; simp; omega
  have c1 : s1.carrel c = (s.carrel c).withD (s.carrel c).dataBank pd ld := by
    rw [← hDl, ← hDp]; exact h1.carrel
  have c2 : s2.carrel c = (s1.carrel c).withR (s.carrel c).retBank pr lr := e2
  have b2r : ((s2.carrel c).bank (s.carrel c).retBank).r.ptr = pr ∧
      ((s2.carrel c).bank (s.carrel c).retBank).rres = lr := by
    rw [c2, Carrel.bank_withR, if_pos rfl]; exact ⟨rfl, rfl⟩
  have b3d : ((s3.carrel c).bank (s.carrel c).dataBank).d.ptr = pd ∧
      ((s3.carrel c).bank (s.carrel c).dataBank).dres = ld ∧
      ((s3.carrel c).bank (s.carrel c).dataBank).d.lo = (s.dataOf c).d.lo := by
    rw [e3, c2, c1]
    by_cases e : (s.carrel c).dataBank = (s.carrel c).retBank
    · simp [Carrel.bank_withR, Carrel.bank_withD, State.dataOf, e]
    · simp [Carrel.bank_withR, Carrel.bank_withD, State.dataOf, e]
  rw [b2r.1, b2r.2] at n3 k3 z3 sl3 by3
  rw [b2r.2] at m3
  rw [b3d.1, b3d.2.1] at n4 k4 sl4 by4
  rw [b3d.2.1] at m4
  rw [sl2] at k3
  -- banks of the last state
  have bt : ∀ id, (t.carrel c).bank id = if id = (s.carrel c).dataBank then
      { (s3.carrel c).bank (s.carrel c).dataBank with
        d := { ((s3.carrel c).bank (s.carrel c).dataBank).d with ptr := p4 }, dres := l4 }
      else (s3.carrel c).bank id := by
    intro id; rw [e4, Carrel.bank_setBank]
  have b3 : ∀ id, (s3.carrel c).bank id = if id = (s.carrel c).retBank then
      { (s1.carrel c).bank (s.carrel c).retBank with
        r := { ((s1.carrel c).bank (s.carrel c).retBank).r with ptr := p3 }, rres := l3 }
      else (s1.carrel c).bank id := by
    intro id
    rw [e3, Carrel.bank_withR, c2]
    by_cases hid : id = (s.carrel c).retBank
    · rw [if_pos hid, if_pos hid, Carrel.bank_withR, if_pos rfl]
    · rw [if_neg hid, if_neg hid, Carrel.bank_withR, if_neg hid]
  have b1 : ∀ id, (s1.carrel c).bank id = if id = (s.carrel c).dataBank then
      { s.dataOf c with d := { (s.dataOf c).d with ptr := pd }, dres := ld } else (s.carrel c).bank id := by
    intro id; rw [c1, Carrel.bank_withD]; rfl
  -- return fields of the last state
  have tr : ∀ id, ((t.carrel c).bank id).r = ((s3.carrel c).bank id).r ∧
      ((t.carrel c).bank id).rres = ((s3.carrel c).bank id).rres := by
    intro id; rw [bt]; split
    · next e => rw [e]; exact ⟨rfl, rfl⟩
    · exact ⟨rfl, rfl⟩
  have r3 : ((s3.carrel c).bank (s.carrel c).retBank).r = { (s.retOf c).r with ptr := p3 } ∧
      ((s3.carrel c).bank (s.carrel c).retBank).rres = l3 := by
    rw [b3, if_pos rfl, b1]
    split
    · next e => unfold State.retOf State.dataOf; rw [e]; exact ⟨rfl, rfl⟩
    · exact ⟨rfl, rfl⟩
  have r3o : ∀ id, id ≠ (s.carrel c).retBank → ((s3.carrel c).bank id).r = ((s.carrel c).bank id).r ∧
      ((s3.carrel c).bank id).rres = ((s.carrel c).bank id).rres := by
    intro id hid
    rw [b3, if_neg hid, b1]
    split
    · next e => rw [e]; exact ⟨rfl, rfl⟩
    · exact ⟨rfl, rfl⟩
  have td : ((t.carrel c).bank (s.carrel c).dataBank).d = { (s.dataOf c).d with ptr := p4 } ∧
      ((t.carrel c).bank (s.carrel c).dataBank).dres = l4 := by
    rw [bt, if_pos rfl, b3]
    split
    · next e => rw [← e, b1, if_pos rfl]; exact ⟨rfl, rfl⟩
    · rw [b1, if_pos rfl]; exact ⟨rfl, rfl⟩
  have tdo : ∀ id, id ≠ (s.carrel c).dataBank → ((t.carrel c).bank id).d = ((s.carrel c).bank id).d ∧
      ((t.carrel c).bank id).dres = ((s.carrel c).bank id).dres := by
    intro id hid
    rw [bt, if_neg hid, b3]
    split
    · next e => rw [← e, b1, if_neg hid]; exact ⟨rfl, rfl⟩
    · rw [b1, if_neg hid]; exact ⟨rfl, rfl⟩
  have nD : ∀ i, ¬ s.spillsD c dPop dOut.length i → t.slot c i = s3.slot c i := by
    intro i hi
    apply sl4
    unfold State.spillsD spills at hi
    rw [hpd, hld]; exact hi
  have nR : ∀ i, ¬ s.spillsR c rPop rOut.length i → s3.slot c i = s.slot c i := by
    intro i hi
    rw [← sl2]
    apply sl3
    unfold State.spillsR spills at hi
    rw [hpr, hlr]; exact hi
  refine ⟨⟨?_, ?_, ?_⟩, ⟨?_, ?_, ?_⟩, ⟨?_, ?_⟩, ?_, ?_, ?_⟩
  · unfold Bank.dataDepth stackDepth at *
    rw [td.1, td.2]
    simp only
    omega
  · intro n x hx
    rw [td.1, td.2, State.peek_eq]
    exact o4 n x hx
  · intro n hlt hhit
    rw [td.1, td.2] at hhit ⊢
    simp only at hhit
    rw [State.peek_eq]
    unfold State.peekD
    rw [State.peek_eq]
    unfold Bank.dataDepth stackDepth at hlt
    show entryAt (t.slot c) p4.toNat l4 (dOut.length + n) = entryAt (s.slot c) (s.dataOf c).d.ptr.toNat (s.dataOf c).dres (dPop + n)
    rw [k4 n (by omega), ← entryAt_take (s.slot c), hDl, ← hpd]
    apply entryAt_congr
    intro hle
    apply nR
    have := hhit (by omega)
    rwa [show pd.toNat - 1 - (n - ld.length) = p4.toNat - 1 - (dOut.length + n - l4.length) by omega]
  · have h := tr (s.carrel c).retBank
    unfold Bank.retDepth stackDepth at *
    rw [h.1, h.2, r3.1, r3.2]
    simp only
    omega
  · intro n x hx
    have h := tr (s.carrel c).retBank
    rw [h.1, h.2, r3.1, r3.2, State.peek_eq]
    unfold entryAt
    rw [o3 n x hx]; rfl
  · intro n hlt hhit
    have h := tr (s.carrel c).retBank
    rw [h.1, h.2, r3.1, r3.2] at hhit ⊢
    simp only at hhit
    rw [State.peek_eq]
    unfold State.peekR
    rw [State.peek_eq]
    unfold Bank.retDepth stackDepth at hlt
    rw [← entryAt_take (s.slot c), hRl, ← hpr, ← k3 n (by omega)]
    apply entryAt_congr
    intro hle
    apply nD
    exact hhit hle
  · rw [h4.rest, h3.rest, h2.rest, h1.rest]
  · intro d hne
    rw [h4.others d hne, h3.others d hne, h2.others d hne, h1.others d hne]
  · have q1 : s1.carrel c = (s.carrel c).banksOf (s1.carrel c) := by
      rw [c1]; exact Carrel.withD_banksOf (Carrel.banksOf_self _) _ _ _
    have q2 : s2.carrel c = (s.carrel c).banksOf (s2.carrel c) := by
      rw [c2]; exact Carrel.withR_banksOf q1 _ _ _
    have q3 : s3.carrel c = (s.carrel c).banksOf (s3.carrel c) := by
      rw [e3]; exact Carrel.withR_banksOf q2 _ _ _
    have q4 : t.carrel c = (s.carrel c).banksOf (t.carrel c) := by
      rw [e4]; exact Carrel.withD_banksOf q3 _ _ _
    exact q4
  · intro id
    have hr := tr id
    refine ⟨?_, ?_, ?_, ?_, ?_, ?_⟩
    · by_cases hid : id = (s.carrel c).dataBank
      · rw [hid, td.1]; rfl
      · rw [(tdo id hid).1]
    · by_cases hid : id = (s.carrel c).dataBank
      · rw [hid, td.1]; rfl
      · rw [(tdo id hid).1]
    · rw [hr.1]
      by_cases hid : id = (s.carrel c).retBank
      · rw [hid, r3.1]; rfl
      · rw [(r3o id hid).1]
    · rw [hr.1]
      by_cases hid : id = (s.carrel c).retBank
      · rw [hid, r3.1]; rfl
      · rw [(r3o id hid).1]
    · intro hor
      by_cases hid : id = (s.carrel c).dataBank
      · have h01 : dPop = 0 ∧ dOut = [] := by
          rcases hor with h | h
          · exact absurd hid h
          · simpa using h
        have ht := h0 h01.1 h01.2
        have hq := h01.1
        subst hq
        have hu : ld = (s.dataOf c).dres ∧ pd = (s.dataOf c).d.ptr := by
          rw [← hDl, ← hDp]; unfold upto; simp
        have : ((t.carrel c).bank id).d.ptr = pd ∧ ((t.carrel c).bank id).dres = ld := by
          rw [ht, hid]; exact ⟨b3d.1, b3d.2.1⟩
        have e5 : p4 = (s.dataOf c).d.ptr := by
          have h5 := this.1
          rw [hid, td.1] at h5
          rw [← hu.2]; exact h5
        rw [hid, td.1, e5]
        refine ⟨rfl, ?_⟩
        have h6 := this.2
        rw [hid] at h6
        rw [h6, hu.1]; rfl
      · exact tdo id hid
    · intro hor
      rw [hr.1, hr.2]
      by_cases hid : id = (s.carrel c).retBank
      · have h01 : rPop = 0 ∧ rOut = [] := by
          rcases hor with h | h
          · exact absurd hid h
          · simpa using h
        have hq := h01.1
        subst hq
        have hu : lr = (s.retOf c).rres ∧ pr = (s.retOf c).r.ptr := by
          rw [← hRl, ← hRp]; unfold upto; simp
        have hz := z3 h01.2
        rw [hid, r3.1, r3.2, hz.1, hz.2, hu.1, hu.2]
        exact ⟨rfl, rfl⟩
      · exact r3o id hid
  · intro a ha
    rw [by4 a (fun i hi => ha i (Or.inl (by
        unfold State.spillsD spills; rw [hpd, hld] at hi; exact hi))),
      by3 a (fun i hi => ha i (Or.inr (by
        unfold State.spillsR spills; rw [hpr, hlr] at hi; exact hi)))]
    unfold State.byte
    rw [h2.mem, h1.mem]

/-- Pops and pushes of the data stack alone. -/
theorem moves_data (s : State) (c : BitVec 12) (pop : Nat) (outs : List Word)
    (hd : pop ≠ 0 → (pop : Int) ≤ (s.dataOf c).dataDepth)
    (hr : max (s.dataOf c).dres.length pop - pop + outs.length ≤ 8 ∨
      (s.dataOf c).d.ptr.toNat - (pop - (s.dataOf c).dres.length) +
        (max (s.dataOf c).dres.length pop - pop + outs.length - 8) ≤ 24576) :
    Moves c (s.carrel c) pop outs 0 [] s ((s.popD c pop).2.pushDs c outs.reverse) := by
  have hc1 : ((s.popD c pop).2.carrel c) = (s.carrel c).setBank (s.carrel c).dataBank (s.poppedBank c pop) := by
    rw [State.popD_state, State.carrel_setCarrel_same]
  have hdb : ((s.popD c pop).2.carrel c).dataBank = (s.carrel c).dataBank := by rw [hc1]; simp
  have hdo : (s.popD c pop).2.dataOf c = s.poppedBank c pop := by
    unfold State.dataOf; rw [hdb, hc1]; simp
  have hpp : (s.poppedBank c pop).d.ptr.toNat = (s.dataOf c).d.ptr.toNat - (pop - (s.dataOf c).dres.length) :=
    ptr_sub_toNat _ _ (data_fills hd)
  have hP := State.pushDs_pushed c outs.reverse (s.popD c pop).2 (by
    rw [hdo, poppedBank_length, hpp]; simpa using hr)
  rw [List.reverse_reverse, hdb] at hP
  exact moves_chain (State.popD_pops s c pop) (PopsR.refl c _) (PushedR.refl c _ _) hP (data_fills hd)
    (by omega) (fun _ h => by subst h; rfl)

/-- An instruction that moves no entry. -/
theorem moves_none (s : State) (c : BitVec 12) : Moves c (s.carrel c) 0 [] 0 [] s s :=
  moves_chain (PopsD.refl c s) (PopsR.refl c s) (PushedR.refl c _ s) (PushedD.refl c _ s) (by omega) (by omega)
    (fun _ _ => rfl)

end Sys2Proof.Machine
end

