-- ==== Sys2Proof/Laws/Run.lean ====
section
/-!
SUPPORT. Running one instruction: what a ready carrel answers, and how retiring and changes of the carrel's other
registers go with the effect on the stacks.
-/

namespace Sys2Proof.Machine

/-- A carrel that is ready performs the body. -/
theorem runInstr_ready {s : State} {c : BitVec 12} {len : Nat} (body : State → Res) (h : Ready s c len) :
    runInstr c len body s = .next (s.finish c len (body s)) := by
  obtain ⟨h1, h2, ⟨pa, part, h3⟩, h4⟩ := h
  unfold runInstr
  simp only [h1, h2, h3, Bool.true_eq_false, if_false]
  cases hrep : (s.carrel c).rep with
  | none => simp
  | some r => simp; exact fun h => absurd h (h4 r hrep)

/-- With the stack bounds met the body runs. -/
theorem withStacks_fits {s : State} {c : BitVec 12} {u : StackUse} (body : State → Res) (h : Fits s c u) :
    withStacks c u body s = body s := by
  unfold withStacks; unfold Fits at h; rw [h]

/-- A change of the carrel's registers that leaves the banks alone. -/
def KeepsBanks (f : Carrel → Carrel) : Prop := ∀ k j : Carrel, f (k.banksOf j) = (f k).banksOf j

theorem KeepsBanks.bank {f : Carrel → Carrel} (h : KeepsBanks f) (k : Carrel) (id : BankId) :
    (f k).bank id = k.bank id := by
  have := h k k
  rw [← Carrel.banksOf_self] at this
  rw [this]; cases id <;> rfl

/-- The effect on the stacks, followed by a change of the carrel's other registers. -/
theorem Moves.mod {c : BitVec 12} {base : Carrel} {dPop rPop : Nat} {dOut rOut : List Word} {s t : State}
    {f : Carrel → Carrel} (hf : KeepsBanks f) (h : Moves c base dPop dOut rPop rOut s t) :
    Moves c (f base) dPop dOut rPop rOut s (t.modCarrel c f) := by
  obtain ⟨⟨d1, d2, d3⟩, ⟨r1, r2, r3⟩, ⟨o1, o2⟩, hc, hb, hm⟩ := h
  have hbank : ∀ id, ((t.modCarrel c f).carrel c).bank id = (t.carrel c).bank id := by
    intro id; rw [State.carrel_modCarrel_same, hf.bank]
  refine ⟨⟨?_, ?_, ?_⟩, ⟨?_, ?_, ?_⟩, ⟨?_, ?_⟩, ?_, ?_, ?_⟩
  · rw [hbank]; exact d1
  · rw [hbank]; exact d2
  · rw [hbank]; exact d3
  · rw [hbank]; exact r1
  · rw [hbank]; exact r2
  · rw [hbank]; exact r3
  · show { t with carrels := _ } = _
    rw [o1]; rfl
  · intro d hd; rw [State.carrel_modCarrel_other _ _ hd]; exact o2 d hd
  · unfold CarrelIs at *
    rw [State.carrel_modCarrel_same]
    have e : f (t.carrel c) = (f base).banksOf (t.carrel c) := by
      have : t.carrel c = base.banksOf (t.carrel c) := hc
      rw [this, hf]; rfl
    have e2 : ∀ j k : Carrel, (∀ id, j.bank id = k.bank id) → (f base).banksOf j = (f base).banksOf k := by
      intro j k hjk
      have hu := hjk .u
      have hs := hjk .s
      have hmm := hjk .m
      have hr := hjk .rescue
      unfold Carrel.bank at hu hs hmm hr
      unfold Carrel.banksOf
      simp only at hu hs hmm hr
      rw [hu, hs, hmm, hr]
    show f (t.carrel c) = (f base).banksOf (f (t.carrel c))
    rw [e2 (f (t.carrel c)) (t.carrel c) (hf.bank _)]
    exact e
  · intro id; have := hb id; rw [hbank]; exact this
  · exact hm

theorem keepsBanks_retire (len : Nat) : KeepsBanks (fun k => k.after len) := fun _ _ => rfl

theorem keepsBanks_jumped (pc : Word) : KeepsBanks (fun k => k.jumped pc) := fun _ _ => rfl

/-- Retiring is what `after` says. -/
theorem State.retire_eq (s : State) (c : BitVec 12) (len : Nat) : s.retire c len = s.modCarrel c (·.after len) := by
  unfold State.retire
  congr 1
  funext k
  unfold Carrel.retired Carrel.after
  cases hk : k.rep with
  | none => simp
  | some r =>
    simp only
    by_cases h : r.count ≤ 1
    · have h' : ¬ 1 < r.count := by bv_omega
      rw [if_pos h, if_neg h', if_neg h']
    · have h' : 1 < r.count := by bv_omega
      rw [if_neg h, if_pos h', if_pos h']

/-- The effect on the stacks of a form that goes on behind itself. -/
theorem Moves.retire {c : BitVec 12} {base : Carrel} {dPop rPop : Nat} {dOut rOut : List Word} {s t : State}
    (len : Nat) (h : Moves c base dPop dOut rPop rOut s t) :
    Moves c (base.after len) dPop dOut rPop rOut s (t.retire c len) := by
  rw [State.retire_eq]; exact Moves.mod (keepsBanks_retire len) h

/-- The entries that an instruction pops, top first. -/
def State.tops (s : State) (c : BitVec 12) (n : Nat) : List Word := (upto n).map (s.peekD c)

theorem State.popD_fst (s : State) (c : BitVec 12) (n : Nat) : (s.popD c n).1 = s.tops c n := by
  unfold State.popD State.takeN State.tops State.peekD
  simp only
  apply List.ext_getElem?
  intro i
  by_cases hi : i < n
  · rw [takeN_getElem _ _ _ _ _ hi]
    simp [upto, hi, State.peek_eq]
  · rw [List.getElem?_eq_none_iff.mpr (by simp [upto]; omega), List.getElem?_eq_none_iff.mpr (by simp [upto]; omega)]

theorem ent_tops (s : State) (c : BitVec 12) {n i : Nat} (h : i < n) : ent (s.tops c n) i = s.peekD c i := by
  unfold ent State.tops upto
  simp [List.getD_eq_getElem?_getD, h]

/-- A form that replaces `pop` data entries by others. -/
theorem stackOp_next {s : State} {c : BitVec 12} {pop push : Nat} (f : List Word → List Word)
    (hr : Ready s c 2) (hf : Fits s c { dPop := pop, dPush := push }) (hl : (f (s.tops c pop)).length = push) :
    ∃ t, stackOp c pop push f s = .next t ∧
      Moves c ((s.carrel c).after 2) pop (f (s.tops c pop)).reverse 0 [] s t := by
  unfold stackOp
  rw [runInstr_ready _ hr, withStacks_fits _ hf]
  refine ⟨_, rfl, ?_⟩
  have h1 := fits_data hf
  simp only at h1
  have hm := moves_data s c pop (f (s.tops c pop)).reverse (by simpa using h1.1)
    (by rw [List.length_reverse, hl]; exact h1.2)
  rw [List.reverse_reverse] at hm
  show Moves c _ pop _ 0 [] s (((s.popD c pop).2.pushDs c (f (s.popD c pop).1)).retire c 2)
  rw [State.popD_fst]
  exact Moves.retire 2 hm

/-! ### Whole forms -/

/-- A form whose meaning is `stackOp`. -/
theorem dataForm_of {mk : BitVec 12 → Instr} {pop push : Nat} (f : List Word → List Word)
    {g : (Nat → Word) → List Word} (h : ∀ c s, Sys2Proof.Machine.exec (mk c) s = stackOp c pop push f s)
    (hlen : ∀ l, (f l).length = push)
    (hg : ∀ (s : State) (c : BitVec 12), (f (s.tops c pop)).reverse = g (s.peekD c)) :
    DataForm mk 2 0 pop push g := by
  intro c s hr hf _
  rw [h]
  obtain ⟨t, ht, hm⟩ := stackOp_next f hr hf (hlen _)
  rw [hg] at hm
  exact ⟨t, ht, hm⟩

/-- A form of two operands and one result. -/
theorem binary_of {mk : BitVec 12 → Instr} (f : Word → Word → Word) {g : Word → Word → Word}
    (h : ∀ c s, Sys2Proof.Machine.exec (mk c) s = binOp c f s) (hg : ∀ a b, f a b = g a b) : Binary mk g := by
  refine dataForm_of (fun l => [f (ent l 1) (ent l 0)]) h (fun _ => rfl) ?_
  intro s c
  simp [ent_tops, hg]

/-- A form of one operand and one result. -/
theorem unary_of {mk : BitVec 12 → Instr} (f : Word → Word) {g : Word → Word}
    (h : ∀ c s, Sys2Proof.Machine.exec (mk c) s = unOp c f s) (hg : ∀ a, f a = g a) : Unary mk g := by
  refine dataForm_of (fun l => [f (ent l 0)]) h (fun _ => rfl) ?_
  intro s c
  simp [ent_tops, hg]

theorem keepsBanks_reported (wtn : Word) (src : BitVec 3) (elem : Nat) (cause : Option NanCause) :
    KeepsBanks (fun k => k.reported wtn src elem cause) := by
  cases cause <;> exact fun _ _ => rfl

/-- The effect on the stacks, followed by the report of a NaN event. -/
theorem Moves.coreNan {c : BitVec 12} {base : Carrel} {dPop rPop : Nat} {dOut rOut : List Word} {s t : State}
    (src : BitVec 3) (elem : Nat) (cause : Option NanCause) (h : Moves c base dPop dOut rPop rOut s t) :
    Moves c (base.reported s.tickWtn src elem cause) dPop dOut rPop rOut s (t.coreNan c src elem cause) := by
  cases cause with
  | none => exact h
  | some x =>
    have hw : t.tickWtn = s.tickWtn := by rw [h.2.2.1.1]
    have he : t.coreNan c src elem (some x) = t.modCarrel c (·.reported t.tickWtn src elem (some x)) := rfl
    rw [he, hw]
    exact Moves.mod (keepsBanks_reported _ _ _ _) h

/-- A 16-bit form that pops, pushes the entries of `f` (deepest first) and reports the NaN it has produced. -/
theorem floatForm_of {mk : BitVec 12 → Instr} {pop push : Nat} (f : List Word → List Word × Option NanCause)
    {g : (Nat → Word) → List Word × Option NanCause}
    (h : ∀ c s, Sys2Proof.Machine.exec (mk c) s =
      runInstr c 2 (withStacks c { dPop := pop, dPush := push } fun s =>
        .done (((s.popD c pop).2.pushDs c (f (s.popD c pop).1).1).coreNan c 0 0 (f (s.popD c pop).1).2)) s)
    (hlen : ∀ l, (f l).1.length = push)
    (hg : ∀ (s : State) (c : BitVec 12), (f (s.tops c pop)).1.reverse = (g (s.peekD c)).1 ∧
      (f (s.tops c pop)).2 = (g (s.peekD c)).2) :
    FloatForm mk pop push g := by
  intro c s hr hf _
  rw [h, runInstr_ready _ hr, withStacks_fits _ hf]
  refine ⟨_, rfl, ?_⟩
  have h1 := fits_data hf
  simp only at h1
  have hm := moves_data s c pop (f (s.tops c pop)).1.reverse (by simpa using h1.1)
    (by rw [List.length_reverse, hlen]; exact h1.2)
  rw [List.reverse_reverse] at hm
  rw [State.popD_fst]
  have := Moves.retire 2 (Moves.coreNan 0 0 (f (s.tops c pop)).2 hm)
  rw [(hg s c).1, (hg s c).2] at this
  rw [(hg s c).2]
  exact this

end Sys2Proof.Machine
end

