-- ==== Sys2Proof/Laws/Tokens.lean ====
section
/-!
SUPPORT. What asking a stack for tokens can do: it changes the stacks and the tokens drawn, and nothing else.
-/

namespace Sys2Proof.Machine

/-- A requester that needs no token is let through at once. -/
theorem State.askHbm_nothing (s : State) (who : Requester) (cls : HbmClass) (w : Nat) (p : s.paid = []) :
    s.askHbm who cls w [] = (true, s) := by
  have q : s.setPaid who [] = s := by cases s; cases p; rfl
  simp only [State.askHbm, List.foldl_nil, List.all_nil, if_true, q]

/-- Accesses beyond stacked memory need no token. -/
theorem State.tokensFor_elsewhere (s : State) (w : Nat) (l : List (Nat × BitVec 6)) (h : ∀ x ∈ l, s.hbmEnd ≤ x.1) :
    s.tokensFor w l = [] := by
  unfold State.tokensFor
  rw [List.filter_eq_nil_iff.mpr fun x m => by have := h x m; simp; omega]
  rfl

theorem State.drawSome_frame (s : State) (cls : HbmClass) (w key n : Nat) :
    (s.drawSome cls w key n).2 = { s with hbm := (s.drawSome cls w key n).2.hbm } := by
  unfold State.drawSome
  dsimp only
  split
  · rfl
  split
  · rfl
  split <;> rfl

/-- One request asks its stack alone. -/
theorem State.askOne_frame (s : State) (cls : HbmClass) (w a : Nat) (part : BitVec 6) :
    (s.askOne cls w a part).2 = { s with hbm := (s.askOne cls w a part).2.hbm } := by
  unfold State.askOne
  split
  · exact s.drawSome_frame ..
  · rfl

theorem State.askAt_frame (s : State) (cls : HbmClass) (w pa : Nat) (part : BitVec 6) :
    (s.askAt cls w pa part).2 = { s with hbm := (s.askAt cls w pa part).2.hbm } := by
  unfold State.askAt
  split
  · exact s.askOne_frame ..
  · rfl

/-- A requester that asks for many accesses changes the stacks and what it has drawn. -/
theorem State.askHbm_frame (s : State) (who : Requester) (cls : HbmClass) (w : Nat) (need : Tab Nat) :
    (s.askHbm who cls w need).2 =
      { s with hbm := (s.askHbm who cls w need).2.hbm, paid := (s.askHbm who cls w need).2.paid } := by
  have h (l : Tab Nat) (q : Tab Nat × State) (e : q.2 = { s with hbm := q.2.hbm }) :
      let r := l.foldl (fun (q : Tab Nat × State) x =>
        let (m, s) := q.2.drawSome cls w x.1 (x.2 - Tab.get 0 q.1 x.1)
        (Tab.set 0 q.1 x.1 (Tab.get 0 q.1 x.1 + m), s)) q
      r.2 = { s with hbm := r.2.hbm } := by
    induction l generalizing q with
    | nil => exact e
    | cons x l ih =>
      refine ih _ ?_
      show (q.2.drawSome cls w x.1 _).2 = { s with hbm := (q.2.drawSome cls w x.1 _).2.hbm }
      rw [State.drawSome_frame, e]
  have k := h need (s.paidBy who, s) rfl
  unfold State.askHbm
  dsimp only at k ⊢
  split
  · simp only [State.setPaid]; rw [k]
  · simp only [State.setPaid]; rw [k]

/-- A row that asks first does its work once it is let through, and until then only asks. -/
theorem whenLet_cases (q : Bool × State) (f : State → State) :
    (q.1 = true ∧ whenLet q f = f q.2) ∨ (q.1 = false ∧ whenLet q f = q.2) := by
  obtain ⟨_ | _, s⟩ := q
  · exact .inr ⟨rfl, rfl⟩
  · exact .inl ⟨rfl, rfl⟩

end Sys2Proof.Machine
end

