-- ==== Sys2Proof/WellFormed.lean ====
section
/-!
DEFINITION. Which commands exist on the part: payloads as long as their port is wide, and numbers within the
ranges of their rules. A command that breaks one of these checks cannot be sent.
-/

namespace Sys2Proof

/-- The payload of a flit has 29 units (R388). -/
def FlitIn.wf (f : FlitIn) : Bool := decide (f.payload.length = 29)

/-- The items of a start: images, stacks, receive lanes, links and bays of R538, within their ranges. -/
def ItemOutcome.wf (i : ItemOutcome) : Bool :=
  match i.kind.toNat with
  | 1 => decide (i.item.toNat < 2)
  | 2 => decide (i.item.toNat < 8)
  | 3 => decide (i.item.toNat < 96)
  | 4 => decide (i.item.toNat < 12)
  | 5 => decide (i.item.toNat / 256 < 2 ∧ i.item.toNat % 256 < 132)
  | _ => false

/-- Whether a function of the host makes an access. -/
def Src.isHost : Src → Bool
  | .pf => true
  | .vf f => decide (f ≠ 0)
  | _ => false

/-- A well-formed command. -/
def WellFormed : Instr → Bool
  | .flit _ f => f.wf
  | .hbmWrite _ data mask => decide (data.length = 64 ∧ mask.length = 64)
  | .dCacheFill _ data => decide (data.length = 0 ∨ data.length = 64)
  | .registerWrite _ _ _ data => decide (1 ≤ data.length ∧ data.length ≤ 4096)
  | .intakeSlotWrite _ _ off data => decide (1 ≤ data.length ∧ off.toNat + data.length ≤ 4096)
  | .readbackRead src block off len =>
    src.isHost && decide (1 ≤ len ∧ block.toNat * 65536 + off.toNat + len ≤ 2 ^ 28)
  | .bayunitFail _ u => decide (u.toNat < 5)
  | .attestationSigned m => decide (m.toNat < 65)
  | .attGo m _ => decide (m.toNat < 65)
  | .programClear _ sub => decide (sub = 1 ∨ sub = 2)
  | .programEnd _ sub => decide (sub = 1 ∨ sub = 2)
  | .tpdoEventTimer n => decide (1 ≤ n.toNat ∧ n.toNat ≤ 4)
  | .railPowerGoodLost k => decide (k.toNat < 9)
  | .zoneLevelRise z _ => decide (z.toNat < 15)
  | .sensorFault z _ => decide (z.toNat < 15)
  | .sensorRecovered z _ _ => decide (z.toNat < 15)
  | .senseFault k => decide (k.toNat < 3)
  | .setupConfirmation _ _ chips => chips.all fun x => decide (x < 4096)
  | .startUp o => o.items.all ItemOutcome.wf
  | _ => true

end Sys2Proof
end

