-- ==== Sys2Proof/Tests/Slice0.lean ====
section
/-!
SUPPORT. Tests of the model: ill-formed commands that the check refuses, results that the spec's own tables and
examples give, and for the statements with hypotheses states and operands that meet them.
-/

open Sys2Proof Sys2Proof.Machine

namespace Sys2Proof.Tests

set_option Elab.async false

/-! ## States to test on -/

/-- A descriptor: valid, all rights but REMOTE, `len` bytes at local address `base`. -/
def tDesc (base len : Nat) : BitVec 128 := BitVec.ofNat 128 (0x1F + base + len * 2 ^ 64)

/-- Carrel 5 about to run an instruction at level U: code and segment 0 in HBM, segment 1 its own shelf. -/
def tCarrel : Carrel :=
  { Carrel.reset with
    level := 0, dbank := 0, icInit := false, dcInit := false, pc := 0x100
    desc := [(0, some (tDesc 0 0x100000)), (16, some (tDesc 0 0x100000)), (17, some (tDesc 0x80000140000 0x30000)),
      (33, some (tDesc 0x80000140000 0x30000)), (48, some (tDesc 0 0x100000))]
    bankU := { d := { ptr := 8, lo := 0, hi := 64 }, dres := [0x40, 5, 3, 2], r := { ptr := 64, lo := 64, hi := 128 }
               rres := [0x200] }
    ulim := 2816, xspSTop := 2900, xspSFloor := 2816, xspMTop := 3064, xspMFloor := 2900
    vstack := [0, 1, 2], vl := 4 }

/-- A module that holds that carrel. -/
def tState (k : Carrel) : State := { State.reset with carrels := [(5, k)] }

theorem ready_of {s : State} {c : BitVec 12} {n : Nat} (h : (s.carrel c).idle = true) (p : s.takePending c = none)
    (f : (match s.fetch c n with | .ok _ _ => true | _ => false) = true) (r : (s.carrel c).rep = none) : Ready s c n := by
  refine ⟨h, p, ?_, fun x e => by rw [r] at e; cases e⟩
  split at f
  · exact ⟨_, _, by assumption⟩
  · cases f

theorem ready2 : Ready (tState tCarrel) 5 2 := ready_of rfl rfl (by decide +kernel) rfl
theorem ready4 : Ready (tState tCarrel) 5 4 := ready_of rfl rfl (by decide +kernel) rfl

/-- A carrel with an address of its own shelf on top of its stack. -/
def tShelf : Carrel := { tCarrel with bankU := { tCarrel.bankU with dres := [0x1000000000000040, 5, 3, 2] } }

theorem ready4_shelf : Ready (tState tShelf) 5 4 := ready_of rfl rfl (by decide +kernel) rfl

/-! ## Ill-formed commands -/

theorem test_wellformed_payloads :
    WellFormed (.flit 0 { hdr := 0, payload := List.replicate 28 0, fecCorr := 0, crcOk := true }) = false ∧
    WellFormed (.flit 0 { hdr := 0, payload := List.replicate 29 0, fecCorr := 0, crcOk := true }) = true ∧
    WellFormed (.hbmWrite { addr := 0, part := 0, cls := .unplanned, ecc := .clean, ctx := 0, carrel := 0 } (List.replicate 64 0) (List.replicate 63 true)) = false ∧
    WellFormed (.dCacheFill 0 (List.replicate 63 0)) = false ∧
    WellFormed (.registerWrite .pf 0 0 []) = false ∧
    WellFormed (.intakeSlotWrite .pf 0 0xFFF [1, 2]) = false ∧
    WellFormed (.readbackRead .pf 0xFFF 0xFFFF 2) = false ∧ WellFormed (.readbackRead .pf 0xFFF 0xFFFE 2) = true := by decide

theorem test_wellformed_ranges :
    WellFormed (.bayunitFail 0 5) = false ∧ WellFormed (.attestationSigned 65) = false ∧
    WellFormed (.attGo 65 .pf) = false ∧ WellFormed (.programClear .pf 3) = false ∧
    WellFormed (.programEnd .pf 0) = false ∧ WellFormed (.tpdoEventTimer 5) = false ∧
    WellFormed (.railPowerGoodLost 9) = false ∧ WellFormed (.zoneLevelRise 15 0) = false ∧
    WellFormed (.sensorFault 15 0) = false ∧ WellFormed (.sensorRecovered 15 0 0) = false ∧
    WellFormed (.senseFault 3) = false ∧ WellFormed (.setupConfirmation 0 0 [4096]) = false ∧
    (∀ k : Fin 7, ItemOutcome.wf
      { kind := BitVec.ofNat 8 k.val, item := 0xFFFF, ok := true, noPeer := false, stuck := false, code := 0, time := 0 } =
        false) := by
  decide

/-! ## The scalar core -/

theorem witness_StepRunsTheFrontCommand :
    ∃ s : State, s.pending = .holdover :: [.setupTimeout] := ⟨{ State.reset with pending := [.holdover, .setupTimeout] }, rfl⟩

theorem witness_EmptyQueueIdles : State.reset.pending = [] := rfl

/-- The stacks at the ends of their ranges: two entries for two, and the last spill slot. -/
def tEdge : Carrel :=
  { tCarrel with bankU := { tCarrel.bankU with
      d := { ptr := 56, lo := 56, hi := 57 }, dres := [1, 2, 3, 4, 5, 6, 7, 8]
      r := { ptr := 64, lo := 64, hi := 65 }, rres := List.replicate 16 9 } }

theorem witness_StackInstructions :
    Ready (tState tCarrel) 5 2 ∧ Ready (tState tCarrel) 5 4 ∧
    Fits (tState tCarrel) 5 { dPop := 4, dPush := 4, rPop := 1, rPush := 1 } ∧
    Fits (tState tCarrel) 5 { dNeed := 12 } ∧ ¬ Fits (tState tCarrel) 5 { dNeed := 13 } ∧
    Fits (tState tEdge) 5 { dPush := 1, rPush := 1 } ∧ ¬ Fits (tState tEdge) 5 { dPush := 2 } :=
  ⟨ready2, ready4, rfl, rfl, nofun, rfl, nofun⟩

theorem witness_IntegerArithmetic :
    Ready (tState tCarrel) 5 2 ∧ Fits (tState tCarrel) 5 { dPop := 2, dPush := 1 } ∧
    Fits (tState tCarrel) 5 { dPop := 1, dPush := 1 } := ⟨ready2, rfl, rfl⟩

/-- R94: the edge cases of the divisions. -/
theorem test_division_edges :
    ∀ p ∈ [(Instr.div 5, (5 : Word), (0 : Word), BitVec.allOnes 64), (.rem 5, 5, 0, 5), (.divu 5, 5, 0, BitVec.allOnes 64),
      (.div 5, BitVec.ofInt 64 (-2 ^ 63), BitVec.allOnes 64, BitVec.ofInt 64 (-2 ^ 63)),
      (.rem 5, BitVec.ofInt 64 (-2 ^ 63), BitVec.allOnes 64, 0)],
    ∃ t, exec p.1 (tState { tCarrel with bankU := { tCarrel.bankU with dres := [p.2.2.1, p.2.1] } }) = .next t ∧
      t.peekD 5 0 = p.2.2.2 ∧ (t.carrel 5).pc = 0x102 := by
  simp only [List.mem_cons, List.not_mem_nil, or_false]
  rintro p (rfl | rfl | rfl | rfl | rfl) <;> exact ⟨_, rfl, by decide, by decide⟩

theorem witness_FloatInstructions :
    Ready (tState tCarrel) 5 2 ∧ Fits (tState tCarrel) 5 { dPop := 3, dPush := 1 } ∧
    (Fmt.f64.decode (0x7FF8000000000000#64).toNat).isNan = true := ⟨ready2, rfl, by decide⟩

/-- R96: 0 × ∞ in FMUL is INV-MUL; a finite value divided by zero is an infinity and no event. -/
theorem test_float_events :
    (∃ t, exec (.fmul 5) (tState { tCarrel with bankU := { tCarrel.bankU with dres := [0x7FF0000000000000, 0] } }) = .next t ∧
      (t.carrel 5).nan.valid = true ∧ (t.carrel 5).nan.ev.op = 0x100) ∧
    ∃ t, exec (.fdiv 5) (tState { tCarrel with bankU := { tCarrel.bankU with dres := [0, 0x3FF0000000000000] } }) = .next t ∧
      t.peekD 5 0 = 0x7FF0000000000000 ∧ (t.carrel 5).nan.valid = false :=
  ⟨⟨_, rfl, by decide, by decide⟩, ⟨_, rfl, by decide, by decide⟩⟩

theorem witness_ControlTransfers :
    (∀ n, n = 2 ∨ n = 4 → Ready (tState tCarrel) 5 n) ∧ Fits (tState tCarrel) 5 { dPop := 1, rPush := 1 } ∧
    Fits (tState tCarrel) 5 { rPop := 1 } ∧
    prefixBad 0x100 = false ∧ isLong 0x100 = false ∧ prefixBad 3 = false ∧ isLong 3 = true ∧
    (∃ pa part, (tState tCarrel).fetchWord 5 ((tState tCarrel).carrel 5).pc = .ok pa part) ∧
    (∃ pa part, (tState tCarrel).fetchWord 5 (((tState tCarrel).carrel 5).pc + 2) = .ok pa part) ∧
    (∃ pa part, (tState tCarrel).fetchWord 5 (((tState tCarrel).carrel 5).pc + 4) = .ok pa part) :=
  ⟨by rintro n (rfl | rfl); exacts [ready2, ready4], rfl, rfl, by decide, by decide, by decide, by decide,
    ⟨0x100, 0, by decide⟩, ⟨0x100, 0, by decide⟩, ⟨0x100, 0, by decide⟩⟩

/-- A masked form of VADD with a reserved DTYPE, and a long form of an unknown operation. -/
def tBadForm : VArith := { type := 0xF, m := true, dtype := 3, sat := true }

theorem witness_IllegalForms :
    prefixBad 0x10 = true ∧ isLong 0x10 = false ∧ prefixBad 0x0B = true ∧ isLong 0x0B = true ∧
    parcelsLegal 0 = false ∧ isLong 0 = false ∧ parcelsLegal 0xFFFFFFFF = false ∧ isLong 0xFFFFFFFF = true ∧
    Ready (tState tCarrel) 5 2 ∧ Ready (tState tCarrel) 5 4 ∧ ((tState tCarrel).carrel 5).rep = none ∧
    vArithLegal 0x08 tBadForm = false ∧ vArithLegal 0x20 tBadForm = false ∧ vArithLegal 0x15 tBadForm = false ∧
    vMemLegal 0x00 { ew := 0, m := false, iw := true, sc := 0, at_ := 0 } = false ∧
    vMemLegal 0x06 { ew := 3, m := false, iw := false, sc := 0, at_ := 5 } = false :=
  ⟨by decide, by decide, by decide, by decide, by decide, by decide, by decide, by decide, ready2, ready4, rfl,
    by decide, by decide, by decide, by decide, by decide⟩

theorem witness_ParcelsPickTheirForms :
    parcelsLegal ((0x0001 : BitVec 48).setWidth 32) = true ∧ parcelsLegal ((0x0518 : BitVec 48).setWidth 32) = false ∧
    parcelsLegal ((0xFFFFFFFF : BitVec 48).setWidth 32) = false := by decide +kernel

/-- No entry on either stack. -/
def tEmpty : Carrel := { tCarrel with bankU := Bank.reset }

/-- Both stacks at their bound. -/
def tFull : Carrel :=
  { tCarrel with bankU :=
      { d := { ptr := 57, lo := 56, hi := 57 }, dres := [1, 2, 3, 4, 5, 6, 7, 8]
        r := { ptr := 65, lo := 64, hi := 65 }, rres := List.replicate 16 9 } }

/-- Forms with too few entries on empty stacks, with no room on full ones, and with too few or too many vectors. -/
def tRefused : List (Carrel × StackUse) :=
  (([{ dPop := 2, dPush := 1 }, { rPop := 1 }, { dPop := 1, dPush := 1 }, { dPop := 6, dPush := 2 }] : List StackUse).map fun u =>
    (tEmpty, u)) ++
  (([{ dPop := 1, dPush := 2 }, { dPush := 1 }, { dPop := 1, rPush := 1 }] : List StackUse).map fun u => (tFull, u)) ++
  [({ tCarrel with vstack := List.replicate 8 0 }, { vPop := 1, vPush := 2 }), (tCarrel, { vPop := 4 })]

theorem witness_StackBounds :
    Ready (tState tEmpty) 5 2 ∧ Ready (tState tFull) 5 2 ∧ Ready (tState tFull) 5 4 ∧
    (∀ x ∈ tRefused, ∃ e, x.1.stackCheck x.2 = some e) ∧
    ((tCarrel.bank tCarrel.dataBank).dataDepth < max 0 13) ∧
    boundCheck (tCarrel.bank tCarrel.dataBank).d (tCarrel.bank tCarrel.dataBank).dres 8 (max 0 12) 12 0 = none ∧
    boundCheck (tCarrel.bank tCarrel.retBank).r (tCarrel.bank tCarrel.retBank).rres 16 (max 0 1) 1 0 = none :=
  ⟨ready_of rfl rfl (by decide +kernel) rfl, ready_of rfl rfl (by decide +kernel) rfl,
    ready_of rfl rfl (by decide +kernel) rfl,
    fun x m => Option.isSome_iff_exists.mp
      ((by decide +kernel : ∀ x ∈ tRefused, (x.1.stackCheck x.2).isSome = true) x m),
    by decide, rfl, rfl⟩

theorem witness_FaultEntry :
    (∀ c : BitVec 8, c ∈ [0x01, 0x03, 0x04, 0x05, 0x08] → tCarrel.entersAt c 1) ∧
    ({ tCarrel with rescue := true } : Carrel).rescue = true ∧
    (let k := { tCarrel with maskU := 7 }
     k.rescue = false ∧ causeStep 0x04 ≤ (k.mask k.level).toNat ∧ causeLevel 0x04 k.level = 1 ∧ k.seals.length < 4 ∧
       k.xspValid 2 = true) ∧
    (let k := { tCarrel with level := 2, maskM := 7 }
     k.rescue = false ∧ causeStep 0x04 ≤ (k.mask k.level).toNat ∧ causeLevel 0x04 k.level = 2) := by
  refine ⟨?_, rfl, by decide, by decide⟩
  unfold Carrel.entersAt; decide

theorem witness_ShelfAccess :
    Ready (tState tCarrel) 5 2 ∧ Fits (tState tCarrel) 5 { dPop := 2 } ∧ Fits (tState tCarrel) 5 { dPop := 1, dPush := 1 } ∧
    (let o (n : Nat) := ((tState tCarrel).peekD 5 0 + BitVec.ofNat 64 (511 * n)).toNat
     ∀ n, n ∈ [1, 2, 4, 8] → o n + n ≤ tCarrel.shelfEnd) ∧
    (let k := { tCarrel with bankU := { tCarrel.bankU with dres := [2816 * 64 - 8, 1] } }
     Ready (tState k) 5 2 ∧ (((tState k).peekD 5 0).toNat + 8 = k.shelfEnd) ∧
       k.shelfEnd < ((tState k).peekD 5 0 + BitVec.ofNat 64 (1 * 8)).toNat + 8) :=
  ⟨ready2, rfl, rfl, by decide, ready_of rfl rfl (by decide +kernel) rfl, by decide, by decide⟩

/-- The line of local address 0x40 is in the D-cache. -/
def tLine : Carrel :=
  { tCarrel with dcache := Tab.insert [] (dSet 0x40 * 4) (some { tag := dTag 0x40, data := List.replicate 64 1 }) }

theorem witness_TranslatedAccess :
    Ready (tState tShelf) 5 4 ∧ Fits (tState tShelf) 5 { dPop := 1, dPush := 1 } ∧ Fits (tState tShelf) 5 { dPop := 2 } ∧
    (let a := (tState tShelf).accesses 5 1 ((tState tShelf).peekD 5 0 + 0x3C) 1 true
        (halvesOf ((tState tShelf).peekD 5 0 + 0x3C) 8)
     a = .ok a.parts ∧ a.parts.length = 2 ∧ ∀ h ∈ a.parts, (tState tShelf).ownMem 5 h.2.2.2.1 = true) ∧
    Ready (tState tLine) 5 4 ∧
    (let a := (tState tLine).accesses 5 1 ((tState tLine).peekD 5 0) 1 true (halvesOf ((tState tLine).peekD 5 0) 8)
     a = .ok a.parts ∧ ∀ h ∈ a.parts, isHbm h.2.2.2.1 = true ∧ (tLine.dLine h.2.2.2.1).isSome = true ∧ tLine.dcInit = false) ∧
    (let va := (tState tShelf).peekD 5 0 + 0x38
     va.toNat % 64 + 8 = 64 ∧ ∃ pa part, (tState tShelf).access 5 1 va 8 2 = .ok pa part ∧
       (tState tShelf).ownMem 5 pa = true ∧ tShelf.mb = []) ∧
    (let va := (tState tLine).peekD 5 0 + 0x38
     va.toNat % 64 + 8 = 64 ∧ ∃ pa part, (tState tLine).access 5 1 va 8 2 = .ok pa part ∧ isHbm pa = true ∧
       (tState tLine).isLocal pa = true ∧ tLine.mb = [] ∧ tLine.dcInit = false) :=
  ⟨ready4_shelf, rfl, rfl, by decide, ready_of rfl rfl (by decide +kernel) rfl, by decide,
    ⟨by decide, _, _, rfl, by decide, rfl⟩, ⟨by decide, _, _, rfl, by decide, by decide, rfl, rfl⟩⟩

theorem witness_AtomicsOnTheShelf :
    Ready (tState tShelf) 5 4 ∧ Fits (tState tShelf) 5 { dPop := 3, dPush := 1 } ∧
    (let va := (tState tShelf).peekD 5 0 + BitVec.ofInt 64 (-8)
     va.toNat % 8 = 0 ∧ va.toNat % 4 = 0 ∧ ∃ pa part, (tState tShelf).access 5 1 va 8 11 = .ok pa part ∧
       (tState tShelf).access 5 1 va 4 11 = .ok pa part ∧ (tState tShelf).ownMem 5 pa = true ∧
       (∃ d o, regionOf (localOf pa) = .shelf d o) ∧ tShelf.mb = []) ∧
    (let va := (tState tShelf).peekD 5 0 + BitVec.ofInt 64 4
     va.toNat % 8 ≠ 0 ∧ (va + 2).toNat % 4 ≠ 0) :=
  ⟨ready4_shelf, rfl, ⟨by decide, by decide, 0x80000140038, 0, rfl, rfl, by decide, ⟨5, 0x38, rfl⟩, rfl⟩, by decide, by decide⟩

/-! ## Short and long vectors -/

theorem witness_ShortVectors :
    Ready (tState tCarrel) 5 2 ∧ Fits (tState tCarrel) 5 { dPop := 6, dPush := 2 } ∧
    Fits (tState tCarrel) 5 { dPop := 2, dPush := 4 } ∧ elemOf (0#3).toNat = .int 8 ∧ elemOf (3#3).toNat = .int 64 ∧
    elemOf (7#3).toNat = .fp .f64 ∧ tCarrel.rep = none := ⟨ready2, rfl, rfl, rfl, rfl, rfl, rfl⟩

theorem witness_LanesAndElements :
    ([0xFF, 0xFF] : List Byte).length ≤ 8 ∧ 0 < ([0xFF, 0xFF] : List Byte).length ∧ 0 < (Elem.int 8).width ∧
    (∀ l : List Nat, ((fun l => (arg l 0 % 256, none) : List Nat → FRes) l).1 < 2 ^ (Elem.int 8).width) ∧
    15 < 128 / (Elem.int 8).width ∧ 255 < 2 ^ 8 ∧
    (16 * (List.replicate 512 65535).length ≤ 8192 ∧ 16 * (511 + 1) ≤ 8192 ∧ ∀ x ∈ List.replicate 512 65535, x < 2 ^ 16) :=
  ⟨by decide, by decide, by decide, fun _ => Nat.mod_lt _ (by decide), by decide, by decide, Nat.le_of_eq (congrArg (16 * ·) List.length_replicate), by decide,
    fun x h => by rw [List.eq_of_mem_replicate h]; decide⟩

theorem witness_VectorArithmetic :
    Ready (tState tCarrel) 5 4 ∧ vArithLegal 0x00 { type := 9, m := false, dtype := 0, sat := false } = true ∧
    vArithLegal 0x08 { type := 7, m := true, dtype := 0, sat := false } = true ∧
    vArithLegal 0x20 { type := 6, m := true, dtype := 8, sat := true } = true ∧
    Fits (tState tCarrel) 5 { dPop := 1, dPush := 1 } ∧ Fits (tState tCarrel) 5 { vPop := 2 + 1, vPush := 1 } ∧
    Fits (tState { tCarrel with vstack := [0, 1, 2, 3] }) 5 { vPop := 3 + 1, vPush := 1 } ∧
    Ready (tState { tCarrel with vstack := [0, 1, 2, 3] }) 5 4 :=
  ⟨ready4, by decide, by decide, by decide, rfl, rfl, rfl, ready_of rfl rfl (by decide +kernel) rfl⟩

theorem witness_VectorReductions :
    Ready (tState tCarrel) 5 4 ∧ vArithLegal 0x21 { type := 3, m := true, dtype := 0, sat := false } = true ∧
    vArithLegal 0x22 { type := 4, m := true, dtype := 0, sat := false } = true ∧
    vArithLegal 0x23 { type := 7, m := false, dtype := 0, sat := false } = true ∧
    Fits (tState tCarrel) 5 { dPush := 1, vPop := 1 + 1 } ∧ ([some 1, none, some 5, some 9] : List (Option Nat)).length = 2 ^ 2 :=
  ⟨ready4, by decide, by decide, by decide, rfl, rfl⟩

theorem witness_VectorMemory :
    (∀ op ∈ [0, 1, 2, 3, 4, 5, 7, 8, 9, 10, 11, 12],
      vMemLegal op { ew := 0, m := false, iw := false, sc := 0, at_ := 0 } = true) ∧
    vMemLegal 6 { ew := 2, m := false, iw := false, sc := 3, at_ := 0 } = true ∧
    vMemLegal 6 { ew := 3, m := false, iw := true, sc := 0, at_ := 1 } = true ∧
    (let a : VMem := { ew := 3, m := false, iw := false, sc := 0, at_ := 0 }
     let k := { tShelf with vstack := [0, 1, 2, 3] }
     let s := tState k
     Ready s 5 4 ∧ (∀ op ∈ [0, 1, 7, 12], Fits s 5 (vmUse op a) ∧ s.vmChecks 5 op a (s.vmRecords 5 op a) = .ok ∧
       ∀ x ∈ s.vmAccs 5 op a, s.ownMem 5 x.pa = true)) ∧
    (let a : VMem := { ew := 3, m := false, iw := true, sc := 3, at_ := 1 }
     let s := tState tShelf
     Fits s 5 (vmUse 6 a) ∧ s.vmChecks 5 6 a (s.vmRecords 5 6 a) = .ok ∧ ∀ x ∈ s.vmAccs 5 6 a, s.ownMem 5 x.pa = true) := by
  refine ⟨by decide, by decide, by decide, ⟨ready_of rfl rfl (by decide +kernel) rfl, ?_⟩, ?_⟩
  · unfold Fits; decide +kernel
  · unfold Fits; decide +kernel

/-! ## Descriptors, levels and exceptions -/

/-- A plan of context 0 that runs on carrel 5, with two phases and two mover descriptors in the first. -/
def tPlan : Plan :=
  { state := .running, reason := 0, ctx := 0
    img :=
      { period := 1, phases := 2, tickLen := 8000, set := [5], phasesOf := [2], entries := [], budgets := [], rwset := []
        backing := [], allocs := [], lists := [((5 * 16 + 6) * 4096 * 256, [List.replicate 64 0, List.replicate 64 0])]
        rowEng := [], folio := [], margin := [], mover := [], demand := [], training := none, uses := [] }
    start := none, resume := false, suspend := none, k := 0, ran := [], overrun := false, late := false, uncorr := false
    fresh := false, tokens := [3], joined := [], links := [], ticks := 0, prevLists := none, imageVa := 0, digest := []
    startTick := 0 }

/-- Carrel 5 with that plan. -/
def tPlanned (k : Carrel) (p : Plan) : State := { tState { k with plan := some 2 } with plans := [(2, p)] }

/-- A descriptor of the mover's queue, and sixteen of them. -/
def tIssued : Issued := { queue := 6, idx := 0, desc := List.replicate 64 0, param := none, started := false }

theorem witness_DescriptorIssue :
    (let s := tPlanned tCarrel tPlan
     Ready s 5 4 ∧ Fits s 5 { dPop := 0 } ∧ s.issueCheck 5 6 2 none = none ∧
       2 ≤ 16 - (Tab.get [] (s.carrel 5).queue 6).length ∧
       (s.phaseList 5 6).length < Tab.get 0 (s.carrel 5).next 6 + 2 + 1) ∧
    (let s := tPlanned { tCarrel with queue := [(6, List.replicate 15 tIssued)] } tPlan
     Ready s 5 4 ∧ s.issueCheck 5 6 2 none = none ∧ 16 - (Tab.get [] (s.carrel 5).queue 6).length < 2) ∧
    (let s := tPlanned { tCarrel with queue := [(0, [tIssued])], bankU := { tCarrel.bankU with dres := [1] } } tPlan
     Ready s 5 4 ∧ Fits s 5 { dPop := 1, dPush := 1 } ∧
       (Tab.get [] (s.carrel 5).queue 0).length = (s.peekD 5 0).toNat ∧ Tab.get [] (s.carrel 5).queue 0 ≠ [] ∧
       Tab.get [] (s.carrel 5).queue 4 = []) ∧
    (let s := tPlanned { tCarrel with queue := [(0, [tIssued])], bankU := { tCarrel.bankU with dres := [0] } } tPlan
     Ready s 5 4 ∧ (s.peekD 5 0).toNat < (Tab.get [] (s.carrel 5).queue 0).length) :=
  ⟨⟨ready_of rfl rfl (by decide +kernel) rfl, rfl, by decide, by decide, by decide⟩,
    ⟨ready_of rfl rfl (by decide +kernel) rfl, by decide, by decide⟩,
    ⟨ready_of rfl rfl (by decide +kernel) rfl, rfl, by decide, by decide, rfl⟩,
    ready_of rfl rfl (by decide +kernel) rfl, by decide⟩

theorem witness_PhasesAndBarriers :
    (let s := tPlanned tCarrel tPlan
     Ready s 5 4 ∧ s.planOf 5 = some (2, tPlan) ∧ (s.carrel 5).wd.phase.toNat + 1 < tPlan.phasesNow ∧
       (∀ q l, (q, l) ∈ (s.carrel 5).queue → l = []) ∧ (s.carrel 5).mb = [] ∧ (s.carrel 5).overrun = false ∧
       s.plan (2 : BitVec 8).toNat = some tPlan ∧ tPlan.state = .running ∧ ∃ c ∈ tPlan.img.set, c ∉ tPlan.joined) ∧
    (let s := tPlanned { tCarrel with wd := { tCarrel.wd with phase := 1 } } tPlan
     Ready s 5 4 ∧ s.planOf 5 = some (2, tPlan) ∧ tPlan.phasesNow ≤ (s.carrel 5).wd.phase.toNat + 1) ∧
    (let p := { tPlan with joined := [5] }
     (tPlanned tCarrel p).plan 2 = some p ∧ p.state = .running ∧ p.img.set.Nodup ∧ ∀ c ∈ p.img.set, c < 4096 ∧ c ∈ p.joined) :=
  ⟨⟨ready_of rfl rfl (by decide +kernel) rfl, rfl, by decide, nofun, rfl, rfl, rfl, rfl, 5, by decide,
      by decide⟩,
    ⟨ready_of rfl rfl (by decide +kernel) rfl, rfl, by decide⟩, rfl, rfl, by decide, by decide⟩

/-- A gate of carrel 5: entry 0 at offset 180,224, valid, to S, two 64-bit integer arguments, one result. -/
def tGate : State :=
  { tState { tCarrel with gateBase := 11264, gateCount := 1 } with mem := [(0x8000016C008, 83)] }

theorem witness_SystemCallsAndGates :
    (let k := { tCarrel with fast := true }
     Ready (tState k) 5 4 ∧ k.level ≤ 2 ∧ k.fast = true ∧ (tState k).gateOnly = false ∧ k.seals.length ≤ 2 ∧
       k.shdM.busy = false ∧ k.shdS.busy = false) ∧
    (let k := { tCarrel with fast := true, shdS := { tCarrel.shdS with busy := true }, shdM := { tCarrel.shdM with busy := true } }
     Ready (tState k) 5 4 ∧ k.xspValid 1 = true ∧ k.xspValid 2 = true ∧ k.rep = none ∧ k.shdM.busy = true ∧ k.shdS.busy = true) ∧
    (Ready (tState tCarrel) 5 4 ∧ tCarrel.fast = false) ∧
    (let k := { tCarrel with level := 2 }
     Ready (tState k) 5 4 ∧ (1 : BitVec 2) < k.level ∧ k.rep = none) ∧
    (let s := tGate
     let k := s.carrel 5
     Ready s 5 4 ∧ k.gateCount.toNat ≤ (1 : BitVec 10).toNat ∧ (0 : BitVec 10).toNat < k.gateCount.toNat ∧
       16 * k.gateBase.toNat = k.ulim.toNat * 64 ∧ 16 * k.gateBase.toNat + 16 ≤ 196096 ∧
       s.le (shelfBase 5 + 16 * k.gateBase.toNat + 8) 8 = 83 ∧ k.rescue = false ∧ (2 : Int) ≤ (s.dataOf 5).dataDepth ∧
       s.gateArgs 5 83 2 2 = .pass ∧ k.seals.length < 3 ∧ k.xspValid 1 = true ∧
       boundCheck (k.bank .s).d (k.bank .s).dres 8 0 0 2 = none) ∧
    (let k := { tCarrel with gateBase := 11263, gateCount := 1024 }
     Ready (tState k) 5 4 ∧ 16 * k.gateBase.toNat < k.ulim.toNat * 64 ∧ (1023 : BitVec 10).toNat < k.gateCount.toNat ∧
       196096 < 16 * (k.gateBase.toNat + 1023) + 16) ∧
    (let k := { tCarrel with gateBase := 11264, gateCount := 1 }
     Ready (tState k) 5 4 ∧ (tState k).le (shelfBase 5 + 16 * k.gateBase.toNat + 8) 8 % 2 = 0) :=
  ⟨⟨ready_of rfl rfl (by decide +kernel) rfl, by decide, rfl, rfl, by decide, rfl, rfl⟩,
    ⟨ready_of rfl rfl (by decide +kernel) rfl, rfl, rfl, rfl, rfl, rfl⟩, ⟨ready4, rfl⟩,
    ⟨ready_of rfl rfl (by decide +kernel) rfl, by decide, rfl⟩,
    ⟨ready_of rfl rfl (by decide +kernel) rfl, by decide, by decide, by decide, by decide, by decide +kernel, rfl,
      by decide, by decide +kernel, by decide, rfl, rfl⟩,
    ⟨ready_of rfl rfl (by decide +kernel) rfl, by decide, by decide, by decide⟩,
    ready_of rfl rfl (by decide +kernel) rfl, by decide +kernel⟩

/-- Carrel 5 in the handler of a SYS to S, its results in the shadow set. -/
def tHandler : Carrel :=
  { tCarrel with
    level := 1, seals := [{ tag := 1, shadow := true, hlvl := 1 }]
    shdS := { pc := 0x104, status := statusWord 0 0 0 false 2 0 0 true false 1, cause := 0x20
              depth := { tCarrel with level := 1 }.depthWord, busy := true } }

theorem witness_ReturnFromException :
    (Ready (tState tCarrel) 5 4 ∧ tCarrel.level = 0) ∧
    (let k := { tCarrel with level := 1 }
     Ready (tState k) 5 4 ∧ k.level ≠ 0 ∧ (tState k).retCheck 5 = some 1) ∧
    (let k := { tHandler with shdS := { tHandler.shdS with status := 0x14000 + 3 } }
     Ready (tState k) 5 4 ∧ (tState k).retCheck 5 = some 3) ∧
    (Ready (tState tHandler) 5 4 ∧ tHandler.level ≠ 0 ∧ (tState tHandler).retCheck 5 = none ∧
      (((tState tHandler).retFrame 5).2.1.extractLsb' 8 2 = 3 → ((tState tHandler).retFrame 5).2.1.extractLsb' 10 2 = 0)) ∧
    (let s := (tState tCarrel).fault 5 { code := 0x04, detail := 0x11, faddr := some 0x40 }
     (s.carrel 5).idle = true ∧ (s.carrel 5).level ≠ 0 ∧ s.retCheck 5 = none ∧ (s.retFrame 5).2.1.extractLsb' 8 2 ≠ 3) :=
  ⟨⟨ready4, rfl⟩, ⟨ready_of rfl rfl (by decide +kernel) rfl, by decide, by decide +kernel⟩,
    ⟨ready_of rfl rfl (by decide +kernel) rfl, by decide +kernel⟩,
    ⟨ready_of rfl rfl (by decide +kernel) rfl, by decide, by decide +kernel, by decide +kernel⟩,
    by decide +kernel, by decide +kernel, by decide +kernel, by decide +kernel⟩

theorem witness_ReturnUndoesFaultEntry :
    ∀ rep ∈ [none, some ({ repx := false, addr := 0xFE, count := 3, parcel := some 0x050C } : Repeat)],
      let k := { tCarrel with rep := rep }
      let s := tState k
      k.entersAt 0x04 1 ∧ k.level ≤ 1 ∧ k.pc.toNat % 2 = 0 ∧ k.wait = .none ∧
      (∀ r, k.rep = some r → r.addr.toNat % 2 = 0 ∧ k.pc = r.addr + 2 ∧ r.parcel = if r.repx then none else some 0x050C) ∧
      Ready (s.fault 5 { code := 0x04, detail := 0x11, faddr := some 0x40 }) 5 4 := by
  simp only [List.mem_cons, List.not_mem_nil, or_false]
  rintro rep (rfl | rfl)
  · exact ⟨by unfold Carrel.entersAt; decide, by decide, by decide, rfl, nofun,
      ready_of (by decide +kernel) (by decide +kernel) (by decide +kernel) (by decide +kernel)⟩
  · exact ⟨by unfold Carrel.entersAt; decide, by decide, by decide, rfl, fun r h => by cases h; decide,
      ready_of (by decide +kernel) (by decide +kernel) (by decide +kernel) (by decide +kernel)⟩

theorem witness_ControlRegisters :
    (Ready (tState tCarrel) 5 4 ∧ cregAcc (0x040 : BitVec 10).toNat tCarrel.level ≠ .no ∧
      cregAcc (0x002 : BitVec 10).toNat tCarrel.level = .ro ∧ cregAcc (0x035 : BitVec 10).toNat tCarrel.level = .no) ∧
    (let k := { tCarrel with level := 2 }
     Ready (tState k) 5 4 ∧ cregAcc (0x090 : BitVec 10).toNat k.level = .rw ∧ cregAcc (0x3FF : BitVec 10).toNat k.level = .ro ∧
       cregAcc (0x0A1 : BitVec 10).toNat k.level ≠ .no ∧ k.wd.run = false ∧ Fits (tState k) 5 { dPush := 1 } ∧
       Fits (tState k) 5 { dPop := 1 } ∧ cregAcc (0x010 : BitVec 10).toNat k.level = .rw ∧
       cregAcc (0x035 : BitVec 10).toNat k.level = .rw) :=
  ⟨⟨ready4, by decide, by decide, by decide⟩, ready_of rfl rfl (by decide +kernel) rfl, by decide, by decide, by decide, rfl, rfl,
    rfl, by decide, by decide⟩

theorem witness_Interrupts :
    (let k := { tCarrel with keeperReq := true, debugReq := true, maskU := 5 }
     k.idle = true ∧ k.inRepx = false ∧ k.imprecise = none ∧ k.takeable = some (0x41, 6, 2) ∧ k.seals.length < 4 ∧
       k.xspValid 2 = true) ∧
    (let k := { tCarrel with nan := { tCarrel.nan with valid := true, trapEn := true }, maskU := 6 }
     k.takeable = some (0x40, 7, 1) ∧ k.seals.length < 3 ∧ k.xspValid 1 = true) ∧
    (let k := { tCarrel with debugReq := true, maskU := 4 }
     k.takeable = some (0x42, 5, 2)) ∧
    (let k := { tCarrel with debugReq := true, maskU := 5 }
     k.imprecise = none ∧ k.takeable = none) ∧
    (let k := { tCarrel with debugReq := true, rescue := true }
     k.takeable = none) ∧
    (let k := { tCarrel with rep := some { repx := true, addr := 0xFE, count := 3, parcel := some 0x210 }, debugReq := true }
     k.inRepx = true) ∧
    (let k := { tCarrel with wd := { tCarrel.wd with run := true } }
     k.counting = true ∧ k.wait = .none ∧ k.rescue = false ∧ k.seals.length < 4 ∧ k.xspValid 2 = true) ∧
    tCarrel.wd.run = false := by decide

/-- That module with nine tokens in either bucket of partition 0, in every stack. -/
def tRich (s : State) : State :=
  { s with hbm := (upto 8).map fun i => (i, { Stack.reset with planBkt := [(0, 9)], unplBkt := [(0, 9)] }) }

/-- An entry of the merging buffer: bytes 0 and 63 of the block at local address 0x40. -/
def tEntry : MergeEntry :=
  { block := 1, bytes := [(0, some 0xAA), (63, some 0xBB)], mergeable := true, issued := false, part := 0, retried := false
    acked := false }

/-- A load of 8 bytes from local address 0x40 that waits. -/
def tHalf (stage : LoadStage) : LoadHalf := { va := 0x40, pa := 0x40, n := 8, part := 0, stage := stage }

theorem witness_CachesAndBuffers :
    (Ready (tState tCarrel) 5 4 ∧ tCarrel.mb = [] ∧ Fits (tState tCarrel) 5 { dPop := 2 } ∧ tCarrel.level = 0 ∧
      ∃ q part, (tState tCarrel).access 5 3 ((tState tCarrel).peekD 5 0) 1 1 = .ok q part) ∧
    (let k := { tCarrel with mb := [tEntry], level := 1 }
     Ready (tState k) 5 4 ∧ k.mb ≠ [] ∧ (∀ e ∈ k.mb, (tState k).isLocal (e.block * 64) = true) ∧ k.level ≠ 0) ∧
    (let k := { tLine with level := 1 }
     Ready (tState k) 5 4 ∧ (Tab.get none k.dcache (dSet 0x40 * 4)).isSome = true ∧ k.mb = []) ∧
    (let k := { tCarrel with wait := .load 4 false [tHalf .miss], mb := [tEntry] }
     (tHalf .miss).stage = .miss ∧ isHbm (tHalf .miss).pa = true ∧ (tState k).isLocal (tHalf .miss).pa = true ∧
       (tState k).lostIn (localOf (tHalf .miss).pa / 64 * 64) 64 = false ∧ Fits (tState k) 5 { dPop := 1, dPush := 1 }) ∧
    (∀ n, n = 1 ∨ n = 2 → ((tRich (tState tCarrel)).askAt .planned n 0x40 0).1 = true ∧
      ((tState tCarrel).askAt .planned n 0x40 0).1 = false) ∧
    (tCarrel.icInit = false ∧ (∀ w, w < 4 → ∀ l ∈ Tab.get none tCarrel.icache (63 * 4 + w), l.tag ≠ 0xFFF / 4096) ∧
      (tState tCarrel).isLocal 0xFFF = true) ∧
    (let k := { tCarrel with mb := [{ tEntry with issued := true, block := 9 }, tEntry] }
     k.mb = [{ tEntry with issued := true, block := 9 }] ++ tEntry :: [] ∧ tEntry.issued = false ∧
       (tState k).isLocal (tEntry.block * 64) = true) ∧
    (let e := { tEntry with issued := true }
     let k := { tCarrel with mb := List.replicate 7 tEntry ++ [e] }
     k.mb[(7 : BitVec 3).toNat]? = some e ∧ e.issued = true ∧ e.acked = false ∧ k.wait = .none ∧
       (tState k).isLocal (e.block * 64) = true ∧ isHbm (e.block * 64) = true ∧
       (tState k).present (localOf (e.block * 64)) 64 = true ∧ (tState k).lost = []) :=
  ⟨⟨ready4, rfl, rfl, rfl, 0x40, 0, by decide⟩,
    ⟨ready_of rfl rfl (by decide +kernel) rfl, by decide, by decide, by decide⟩,
    ⟨ready_of rfl rfl (by decide +kernel) rfl, by decide, rfl⟩, ⟨rfl, by decide, by decide, by decide, rfl⟩,
    by rintro n (rfl | rfl) <;> decide, ⟨rfl, by decide, by decide⟩, ⟨rfl, rfl, by decide⟩, by decide⟩

theorem witness_AnswersAndErrors :
    (∀ r, let s := tRich (tState { tCarrel with wait := .load 4 true [tHalf (.mesh r)] })
     (s.carrel 5).wait = .load 4 true [tHalf (.mesh r)] ∧ (tHalf (.mesh r)).stage = .mesh r ∧
       Fits s 5 { dPop := 1, dPush := 1 } ∧ s.isLocal (tHalf (.mesh r)).pa = true ∧
       (s.askAt .planned 1 (tHalf (.mesh r)).pa 0).1 = true ∧ (0x7F : BitVec 56).toNat / 64 = (tHalf (.mesh r)).pa / 64) ∧
    (let s := tRich (tState { tCarrel with wait := .atomic 4 7 true 0x40 0x40 0 1 2 true false })
     s.isLocal 0x40 = true ∧ s.lostIn (localOf 0x40) 8 = false ∧ Fits s 5 { dPop := 3, dPush := 1 } ∧
       isHbm 0x40 = true ∧ (s.askAt .planned 2 0x40 0).1 = true) ∧
    (∀ r, let h := { tHalf (.mesh r) with pa := 2 ^ 44 + 0x40 }
     h.stage = .mesh r ∧ (tState { tCarrel with wait := .load 4 false [h] }).isLocal h.pa = false ∧
       (0x100000000040 : BitVec 56).toNat / 64 = h.pa / 64 ∧ ([0, 0, 0, 0, 0, 0, 0, 0] : List Byte).length = h.n) ∧
    (let e := { tEntry with issued := true }
     let k := { tCarrel with mb := [e] }
     k.mb[(0 : BitVec 3).toNat]? = some e ∧ e.issued = true ∧ e.acked = false ∧ k.wait = .none) ∧
    (tCarrel.mb = [] ∧ (tState tCarrel).isLocal (0x100000000000 : BitVec 56).toNat = false ∧ tCarrel.wait = .none) := by
  unfold Fits; decide

/-! ## Engines and stacked memory -/

/-- An array descriptor: MSTR 1 or MCLR 3 in byte 4, its turn 0 in byte 5. -/
def tArray (op : Byte) (started : Bool) : Issued :=
  { queue := 1, idx := 0, desc := [0, 0, 0, 0, op, 0] ++ List.replicate 58 0, param := none, started := started }

/-- An element descriptor that waits for token 3 (offset 0x2C) and releases token 4 (offset 0x2E). -/
def tElem (tok : Byte) (started : Bool) : Issued :=
  { queue := 4, idx := 0, desc := List.replicate 0x2C 0 ++ [tok, 0, 4, 0] ++ List.replicate 16 0, param := none, started := started }

theorem witness_ArrayAndElementEngines :
    (let l := [tArray 3 false]
     (∀ y ∈ l, y.started = false) ∧ l.find? (fun y => decide (leAt y.desc 5 1 = tCarrel.arrayDone)) = some (tArray 3 false)) ∧
    (∀ op : Fin 4, let x := tArray (BitVec.ofNat 8 op.val) true
     [x].find? (fun y => y.started) = some x ∧ leAt x.desc 4 1 = op.val) ∧ tCarrel.wait = .none ∧
    tyBits (arrDesc (tArray 1 true).desc).acc = 8 * accSize (arrDesc (tArray 1 true).desc).acc ∧
    (let s := tPlanned { tCarrel with queue := [(4, [tElem 3 false])] } tPlan
     Tab.get [] (s.carrel 5).queue 4 = tElem 3 false :: [] ∧ (tElem 3 false).started = false ∧
       leAt (tElem 3 false).desc 0x2C 2 = 3 ∧ s.planOf 5 = some (2, tPlan) ∧ 3 ∈ tPlan.tokens) ∧
    (leAt (tElem 9 false).desc 0x2C 2 = 9 ∧ 9 ∉ tPlan.tokens) ∧
    (tElem 3 true).started = true ∧ leAt (tElem 3 true).desc 0x2E 2 = 4 := by decide +kernel

/-- A mover descriptor: one element of 8 bits from 0x40 to 0x80 of segment 0; a token before it, token 4 after it. -/
def tMove (wait : Byte) (started : Bool) : Issued :=
  { queue := 6, idx := 0, param := none, started := started
    desc :=
      let d := patch (List.replicate 160 0) 6 ([1, 0] ++ (List.replicate 5 [1, 0, 0, 0]).flatten)
      patch (patch (patch d 0x20 [0x40]) 0x28 [0x80]) 0x7C [wait, 0, 4, 0] }

/-- Carrel 5 with that descriptor on channel 0 of its bay. -/
def tMover (wait : Byte) (started : Bool) : State :=
  tPlanned { tCarrel with
    desc := tCarrel.desc ++ [((movStream 0).toNat * 16, some (tDesc 0 0x100000))], queue := [(6, [tMove wait started])] } tPlan

/-- A row-engine descriptor. -/
def tRow (started : Bool) : Issued := { tIssued with queue := 5, started := started }

theorem witness_RowEnginesAndMovers :
    (∀ st, let s := tState { tCarrel with queue := [(5, [tRow st])] }
     (st = false → (∀ y ∈ s.rowIssued 0, y.2.started = false) ∧
       (s.rowIssued 0).find? (fun y => s.rowReady 0 (leAt y.2.desc 6 1)) = some (5, tRow false)) ∧
     (st = true → (s.rowIssued 0).find? (fun y => y.2.started) = some (5, tRow true) ∧ (s.carrel 5).wait = .none)) ∧
    (∀ w, w = 3 ∨ w = 9 → let s := tMover w false
     let d := movDesc (tMove w false).desc none
     s.movHead 0 0 = some (5, 6, tMove w false) ∧ Tab.get [] (s.carrel 5).queue 6 = tMove w false :: [] ∧
       (tMove w false).dead = false ∧ d.tokWait = w.toNat ∧ s.planOf 5 = some (2, tPlan) ∧ s.movMisses 5 0 d = [] ∧
       ∀ r ∈ d.rounds, ∀ a ∈ r, ∀ p ∈ a, ∀ e ∈ s.movElem 5 0 p, ∀ y ∈ e.src, s.isLocal (y.1 / 2) = true) ∧
    3 ∈ tPlan.tokens ∧ 9 ∉ tPlan.tokens ∧
    (∀ b : Bool, let s := if b then tRich (tMover 3 true) else tMover 3 true
     let d := movDesc (tMove 3 true).desc none
     let rs : List (List (List MovElem)) := [[[{ src := some (128, 0), dst := 256, part := 0, idx := 0, pad := false }]]]
     s.movHead 0 0 = some (5, 6, tMove 3 true) ∧ (tMove 3 true).started = true ∧ (tMove 3 true).moved = false ∧
       (s.carrel 5).wait = .none ∧ s.asked (.mover 0 0) = false ∧ s.movRounds 5 0 d = some rs ∧
       ([] : List Byte).length = s.remoteBytes d rs.flatten.flatten ∧ (s.movAsk 0 0 d rs).1 = b ∧
       ∀ e ∈ rs.flatten.flatten, ∀ i, i < d.width / 4 → s.isLocal ((e.dst + i) / 2) = true) ∧
    ({ tMover 3 true with chain := { Chain.reset with open_ := [(0, .mover 0 0)] } } : State).asked (.mover 0 0) = true ∧
    (let x := { tMove 3 true with moved := true }
     let s := tPlanned { tCarrel with queue := [(6, [x])] } tPlan
     s.movHead 0 0 = some (5, 6, x) ∧ x.moved = true ∧ (movDesc x.desc x.param).tokRel = 4) := by
  refine ⟨by decide +kernel, ?_, by decide, by decide, ?_, by decide +kernel, by decide +kernel⟩
  · rintro w (rfl | rfl) <;> decide +kernel
  · rintro (_ | _) <;> decide +kernel

/-- A link record of a plan: of a KIND, eight bytes to local address 0x40, a token before it and token 4 after it. -/
def tRecord (tok : Byte) (started : Bool) (kind : Byte := 1) : LinkRun :=
  { desc := patch (patch (List.replicate 64 0) 4 [kind, 0, 0, 0, 0x40]) 0x18 ([8] ++ List.replicate 11 0 ++ [tok, 0, 4, 0])
    started := started }

/-- A fragment of reduction 1: two values of 64 bits. -/
def tFrag : Item := [word 9, word (1 + 2 * 2 ^ 33), 5, 6]

/-- The chain with node list [own, link 3], the root. -/
def tChain : Chain :=
  { Chain.reset with
    live := { ChainCfg.reset with red := 0xF + 2 * 16 + 0xE * 2 ^ 8 + 3 * 2 ^ 12 }
    reds := [{ num := 1, type := 0, exp := 0, parts := [(14, some [1, 2])], result := none }] }

/-- A module whose link 3 is open and has received an item. -/
def tLink (i : Item) : State :=
  { State.reset with links := [(3, { Link.reset with state := 2, rx := [i] })] }

theorem witness_LinkRecordsAndReductions :
    (∀ t : Bool, let x := tRecord (if t then 3 else 9) false
     let p := { tPlan with links := [{ x with started := true }, x] }
     (tPlanned tCarrel p).plan 2 = some p ∧ p.links = [{ x with started := true }] ++ x :: [] ∧
       leAt x.desc 0x24 2 = (if t then 3 else 9)) ∧ 3 ∈ tPlan.tokens ∧ 9 ∉ tPlan.tokens ∧
    (let s (p : Plan) : State := { tPlanned tCarrel p with seg := { SegUnit.reset with table := [(0, tDesc 0 0x100000)] } }
     (let x := tRecord 3 false 0
      let p := { tPlan with links := [x] }
      let r := linkRec x.desc
      r.kind = 0 ∧ ((s p).recAsk 2 0 r.loc r.ahead).1 = false ∧ ((tRich (s p)).recAsk 2 0 r.loc r.ahead).1 = true) ∧
     let x := tRecord 3 true
     let p := { tPlan with links := [tRecord 9 true, x, tRecord 9 false] }
     let u := tRich (s p)
     let r := linkRec x.desc
     u.plan 2 = some p ∧ p.links = [tRecord 9 true] ++ x :: [tRecord 9 false] ∧ x.dead = false ∧ r.kind = 1 ∧
       r.length = 8 ∧ r.tokRel = 4 ∧ u.recTrans p.ctx r.loc 8 2 = some (0x40, 0) ∧ u.present (localOf 0x40) 8 = true ∧
       u.isLocal 0x40 = true ∧ (u.recAsk 2 p.ctx r.loc r.back).1 = true) ∧
    (∃ u, (tLink tFrag).takeRx 3 (fun i => decide (i.kind = 9) && decide (fieldN (i.unit 1) 0 16 ≠ 0xFFFF)) =
      some (tFrag, u) ∧ 3 ∉ (tLink tFrag).redOrder) ∧
    ∃ u, ({ tLink tFrag with chain := tChain } : State).takeRx 3
        (fun i => decide (i.kind = 9) && decide (fieldN (i.unit 1) 0 16 ≠ 0xFFFF)) = some (tFrag, u) ∧
      ({ tLink tFrag with chain := tChain } : State).redOrder = [14, 3] ∧
      ({ tLink tFrag with chain := tChain } : State).redParent = 15 ∧ (u.chain.redOf 1).isSome = true ∧
      unpackValues 0 2 (tFrag.drop 2) = [5, 6] ∧ (∀ r ∈ u.chain.redOf 1, r.result = none) ∧
      (∀ c, (fun c => if c / 4 = 1023 then [c] else []) c = [] ∨ c / 4 = 1023) ∧
      ∀ c, (fun c => if c = 5 ∨ c = 2048 + 7 then [c] else []) c = [] ∨ c = 5 ∨ c = 2048 + 7 :=
  ⟨by decide, by decide, by decide, by decide +kernel, ⟨_, rfl, by decide⟩, _, rfl, by decide, by decide, rfl, by decide,
    by decide, fun c => by by_cases h : c / 4 = 1023 <;> simp [h],
    fun c => by by_cases h : c = 5 ∨ c = 2048 + 7 <;> simp [h]⟩

/-- A request of partition 5, at the last burst of stacked memory. -/
def tAcc (cls : HbmClass) : HbmAccess :=
  { addr := 0x0BFFFFFFFC0, part := 5, cls := cls, ecc := .clean, ctx := 0xFFFF, carrel := 0xFFFF }

/-- A module whose stacks and partitions are ON, with two tokens in either bucket of partition 5. -/
def tHbm (k : Stack) : State :=
  { State.reset with
    hbm := (upto 8).map fun i => (i, k)
    dict := { DictUnit.reset with funcs := ((upto 8).map (0x100 + ·) ++ [0x205]).map fun i => (i, { Func.reset with state := 2 }) } }

/-- A stack with two tokens in either bucket of partition 5. -/
def tStack : Stack := { Stack.reset with planBkt := [(5, 2)], unplBkt := [(5, 2)] }

theorem witness_HbmRequests :
    (∀ cls, cls = .planned ∨ cls = .unplanned ∨ cls = .free →
      ∀ w, w = .read ∨ w = .write (List.replicate 64 1) (List.replicate 64 true) ∨ w = .oper 3 true 1 2 →
      (tHbm tStack).reaches { acc := tAcc cls, work := w } = true ∧
      (tHbm Stack.reset).reaches { acc := tAcc cls, work := w } = true) ∧
    (let k := (tHbm tStack).stack ((tHbm tStack).stackOf (tAcc .planned).addr.toNat)
     k.selfref = false ∧ k.waiting = [] ∧ Tab.get 0 k.planBkt 5 = 2 ∧ Tab.get 0 k.unplBkt 5 = 2 ∧ (tAcc .planned).ecc = .clean ∧
       (tHbm tStack).lost = []) ∧
    (let k := (tHbm Stack.reset).stack 0
     Tab.get 0 k.planBkt 5 < 1 ∧ (tAcc .planned).cls ≠ .free) ∧
    State.reset.hbmEnd ≤ (0x0C000000000 : BitVec 44).toNat ∧
    (∀ n, n = 0 ∨ n = 1 →
      let r : HbmReq := { acc := tAcc .unplanned, work := .read }
      let k := { Stack.reset with waiting := [r], unplBkt := [(5, n)] }
      ((tHbm k).stack 7).waiting.find? (fun r => decide (r.acc.part = 5) && decide (r.acc.cls = .unplanned)) = some r ∧
        k.selfref = false) ∧
    (let x := tAcc .planned
     let k := { Stack.reset with reread := [x] }
     ((tHbm k).stack ((tHbm k).stackOf x.addr.toNat)).reread.find? (fun y => decide (y.addr = x.addr)) = some x) ∧
    (Stack.reset.scrubEn = true ∧ (tHbm Stack.reset).stackOf 0x0BFFFFFFFC0 < 8 ∧
      Stack.reset.corrPeriod + 15 ≤ Census.reset.corrLimit.toNat) ∧
    (let k := { Stack.reset with selfref := true, exiting := true }
     ((tHbm k).stack 7).selfref = true ∧ k.exiting = true ∧ k.waiting = []) := by
  refine ⟨?_, by decide +kernel, by decide +kernel, by decide, ?_, by decide +kernel, by decide +kernel, by decide +kernel⟩
  · rintro cls (rfl | rfl | rfl) w (rfl | rfl | rfl) <;> decide +kernel
  · rintro n (rfl | rfl) <;> decide +kernel

theorem witness_MemorySideOperations : (0xFFFFFFFF : Nat) < 2 ^ 32 ∧ (2 ^ 64 - 1 : Nat) < 2 ^ 64 := by decide

/-- R354, R198: the largest FX64 value stays, and INVALID propagates. -/
theorem test_fx64 :
    (operNew 8 true (2 ^ 63 - 1) 1 0).1 = 2 ^ 63 - 1 ∧ (operNew 8 true (2 ^ 63) 1 0).1 = 2 ^ 63 ∧
    (operNew 14 false 7 9 7).1 = 9 ∧ (operNew 14 false 7 9 8).1 = 7 := by decide

/-! ## Links, chain and translation -/

/-- A training result with seven lanes one way and eight the other. -/
def tTrain (t : BitVec 8) : TrainResult :=
  { noPeer := false, short := 0, opened := 0, eqfail := 0, tlanes := t, rlanes := 0xFF, delay := 9, serial := 1, plink := 2 }

theorem witness_LinkStates :
    Link.reset.en = true ∧ Link.reset.state = 0 ∧ Link.reset.sleepAllow = true ∧ Link.reset.txq = [] ∧
    (tLink []).linkIdle 3 = true ∧ ((tLink []).link 3).state = 2 ∧
    ({ tLink [] with links := [(3, { Link.reset with txq := [[4]] })] } : State).linkIdle 3 = false ∧
    ({ Link.reset with sleepAllow := false } : Link).sleepAllow = false ∧
    ((tTrain 0x7F).noPeer = false ∧ 7 = ((List.range 8).filter fun i => (tTrain 0x7F).tlanes.getLsbD i).length ∧
      7 ≤ ((List.range 8).filter fun i => (tTrain 0x7F).rlanes.getLsbD i).length) ∧
    ¬ 7 ≤ ((List.range 8).filter fun i => (tTrain 0x3F).tlanes.getLsbD i).length ∧
    (let s : State := { State.reset with
       links := [(11, { Link.reset with state := 1 })], dict := { DictUnit.reset with funcs := [(11, { Func.reset with state := 1 })] } }
     (s.link 11).state = 1 ∧ (s.func (.link 11)).state = 1) ∧
    (let k := { Link.reset with state := 2, rlanes := 0xFF, dropReq := 1 }
     k.rlanes.getLsbD 7 = true ∧ 7 < ((List.range 8).filter fun i => k.rlanes.getLsbD i).length ∧ k.dropReq ≠ 0 ∧ k.state = 2) ∧
    (let k := { Link.reset with state := 3, rlanes := 0x7F }
     k.rlanes.getLsbD 6 = true ∧ ((List.range 8).filter fun i => k.rlanes.getLsbD i).length ≤ 7 ∧ k.state = 3) ∧
    (let k := { Link.reset with state := 4 }
     k.state = 4 ∧ k.replay = [] ∧ k.txq = []) ∧ ({ Link.reset with state := 5 } : Link).state = 5 := by decide

/-- A flit with SEQ 0, ACK 0xFFE, no NAK and the one unit of a write acknowledgement. -/
def tFlit (units : Nat) : FlitIn :=
  { hdr := word (0xFFE * 4096 + units * 2 ^ 36), payload := word 4 :: List.replicate 28 0, fecCorr := 1, crcOk := true }

theorem witness_FlitsAreReceivedInOrder :
    (tFlit 1).payload.length = 29 ∧ Link.reset.state ≠ 2 ∧ Link.reset.state ≠ 3 ∧ Link.reset.state ≠ 4 ∧
    (∀ b, let k := { Link.reset with state := 4, dropRx := b }
     (k.state = 4 ∧ k.dropRx = false) ↔ b = false) ∧
    (let k := { Link.reset with state := 2, replay := [(0xFFD, [1]), (0xFFE, [2]), (0xFFF, [3])] }
     let h := (tFlit 1).hdr
     k.state = 2 ∧ (tFlit 1).crcOk = true ∧ h.getLsbD 24 = false ∧ h.extractLsb' 41 4 = 0#4 ∧ k.txq = [] ∧
       h.extractLsb' 0 12 = k.rxSeq ∧ k.replay = [(0xFFD, [1])] ++ (h.extractLsb' 12 12, [2]) :: [(0xFFF, [3])] ∧
       (∀ x ∈ [((0xFFD : BitVec 12), ([1] : List Word))], x.1 ≠ h.extractLsb' 12 12) ∧ k.rxPart = [] ∧
       (let i : Item := (tFlit 1).payload.take (h.extractLsb' 36 5).toNat
        i ≠ [] ∧ i.kind ≠ 9 ∧ i.kind ≤ 12 ∧ i.length = itemUnits i.hdr)) ∧
    (∀ x ∈ Link.reset.replay, x.1 ≠ (tFlit 1).hdr.extractLsb' 12 12) ∧ (tFlit 1).hdr.extractLsb' 0 12 ≠ (1 : BitVec 12) ∧
    ({ tFlit 1 with crcOk := false } : FlitIn).crcOk = false := by decide

/-- An item of a kind from chip 7, with these units behind its header; an atomic is INT64 add with its old value. -/
def tItem (kind : Nat) (dst : BitVec 12) (more : List Word) : Item := itemHdr kind 7 dst 1 0 true 3 true true :: more

theorem witness_LinkItems :
    (∀ n : Fin 7, ((tLink (tItem n.val 0 [0x40])).link 3).rx.find? (fun (x : Item) => decide (fieldN (x.headD 0) 0 4 = n.val)) =
      some (tItem n.val 0 [0x40])) ∧ (tItem 0 9 []).dst ≠ State.reset.ownChip ∧ (tItem 0 0 []).dst = State.reset.ownChip ∧
    State.reset.present 0x0BFFFFFFFC0 64 = true ∧ State.reset.lostIn 0x40 64 = false ∧
    State.reset.present 0x0C000000000 64 = false ∧
    (let s : State := { State.reset with lost := [(8, true)] }
     s.lostIn 0x40 64 = true ∧ s.present 0x40 64 = true) ∧
    (∀ b o, regionOf 0x40 ≠ .regs b o) ∧ State.reset.lost = [] ∧
    (let i := tItem 2 0 [0x48, 5]
     regionOf 0x48 = .hbm ∧ State.reset.present 0x48 (operWidth i.op i.w) = true ∧ 0x48 % operWidth i.op i.w = 0 ∧ i.op ≠ 8 ∧ i.op ≠ 15) ∧
    ([(1, Requester.carrel 5)].find? (fun (x : Nat × Requester) => decide (x.1 = (tItem 3 0 []).tag.toNat)) = some (1, .carrel 5)) ∧
    (let h := { tHalf (.mesh false) with pa := 7 * 2 ^ 44 + 0x40 }
     h.ready = false ∧ h.pa / 64 = (word (7 * 2 ^ 44 + 0x41)).toNat % 2 ^ 56 / 64 ∧ (word (7 * 2 ^ 44 + 0x41)).toNat % 16 ≠ 2) ∧
    (∀ r : Bool, let i := tItem 8 0 [if r then 0x10001 else 1]
     ((tLink i).link 3).rx.find? (fun (x : Item) => decide (fieldN (x.headD 0) 0 4 = 8)) = some i ∧
       (i.unit 1).getLsbD 16 = r) ∧ (∀ x ∈ ([3] : List Nat), x < 12) ∧ (∃ x ∈ ([3, 4] : List Nat), x ∉ ([3, 12] : List Nat)) ∧
    (∀ n : Fin 3, let i := tItem n.val 0 [0x40]
     let ask (s : State) := s.askOne (if i.planned then .planned else .unplanned) (if n.val = 2 then 2 else 1) 0x40 i.part
     (ask (tLink i)).1 = false ∧ (ask (tRich (tLink i))).1 = true) ∧
    (((tLink (tItem 10 0 [8])).link 3).rx.find? (fun (x : Item) => decide (fieldN (x.headD 0) 0 4 = 10)) =
      some (tItem 10 0 [8])) := by
  refine ⟨by decide +kernel, by decide, by decide, by decide +kernel, by decide, by decide +kernel, by decide +kernel, ?_, rfl,
    by decide +kernel, by decide, by decide, by decide +kernel, by decide, by decide, by decide +kernel, by decide +kernel⟩
  intro b o; simp [regionOf]

/-- A slave below link 3. -/
def tSlave : Chain := { Chain.reset with cfg := { ChainCfg.reset with master := false, up := 3 }
                                         live := { ChainCfg.reset with master := false, up := 3 } }

/-- A master with link 3, or links 3 and 4, below it that sets a chain up. -/
def tMaster (down : BitVec 12) : State :=
  { State.reset with chain := { Chain.reset with live := { ChainCfg.reset with down := down }, setup := true } }

theorem witness_ChainSetupAndRejoin :
    (∃ x ∈ (tPlanned tCarrel tPlan).plans, x.2.state = .ready ∨ x.2.state = .running) ∧
    (¬ ∃ x ∈ State.reset.plans, x.2.state = .ready ∨ x.2.state = .running) ∧ Chain.reset.live.master = true ∧
    (tSlave.cfg = tSlave.live ∧ tSlave.live.master = false ∧ tSlave.cfg.up ≠ 0xF) ∧
    (∃ l, l < 12 ∧ (tSlave.cfg.down.getLsbD l = true ∨ tSlave.cfg.up.toNat = l) ∧ (State.reset.link l).state ≠ 2) ∧
    (∀ l, l < 12 → tSlave.cfg.down.getLsbD l = true ∨ tSlave.cfg.up.toNat = l → ((tLink []).link l).state = 2) ∧
    (let c : ChainCfg := { ChainCfg.reset with down := 8 }
     c.master = true ∧ (∃ l, l < 12 ∧ c.down.getLsbD l = true) ∧
       ∀ l, l < 12 → c.down.getLsbD l = true ∨ c.up.toNat = l → ((tLink []).link l).state = 2) ∧
    Chain.reset.setup = false ∧
    (∀ d, d = 8 ∨ d = 24 → let c := (tMaster d).chain
     c.setup = true ∧ c.live.down.getLsbD 3 = true ∧ c.live.master = true ∧ c.confs = [] ∧
       ((∀ m, m < 12 → c.live.down.getLsbD m = true → m = 3) ↔ d = 8)) ∧
    (¬ (0 :: [1, 0] : List Nat).Nodup ∧ ((tMaster 8).chain.live.chip.toNat :: [1, 4095]).Nodup ∧
      ∀ n, n = 1 ∨ n = 100 →
        (ceilDiv (2 * ((BitVec.ofNat 12 n).toNat * 51143 * 7 + max 3 (tMaster 8).chain.live.sflits.toNat * 8000) + 1200 * 7000) 7000 ≤
          State.reset.tick.len.toNat ↔ n = 1)) ∧
    (∀ n, n = 0 ∨ n = 2 →
      let c : Chain := { tSlave with setup := true, depth := n, live := { tSlave.live with down := 8 } }
      c.setup = true ∧ c.live.master = false ∧ c.depth = n) := by
  refine ⟨by decide, by decide, by decide, by decide, ⟨3, by decide⟩, by decide, by decide, by decide, ?_, ⟨by decide, by decide, ?_⟩, ?_⟩
  · rintro d (rfl | rfl) <;> decide
  · rintro n (rfl | rfl) <;> decide
  · rintro n (rfl | rfl) <;> decide

/-- A slave with this state of its chain, with a tick mark of these two units on its upstream link. -/
def tMarked (c : Chain) (k : TickUnit) (w : Word) : State :=
  { tLink (tItem 7 0 [5, w, 0]) with chain := c, tick := k }

theorem witness_TickMarksAndHoldover :
    (∀ w : Word, w = 0 ∨ w = 2 ^ 53 + 2 ^ 41 ∨ w = 2 ^ 53 + 4095 * 2 ^ 41 →
      ((tMarked tSlave TickUnit.reset w).link 3).rx.find? (fun (x : Item) => decide (fieldN (x.headD 0) 0 4 = 7)) =
        some (tItem 7 0 [5, w, 0]) ∧ ((tItem 7 0 [5, w, 0]).unit 2).getLsbD 53 = decide (w ≠ 0) ∧
        (((tItem 7 0 [5, w, 0]).unit 2).extractLsb' 41 12 + 1 = (0 : BitVec 12) ↔ w = 2 ^ 53 + 4095 * 2 ^ 41)) ∧
    (∀ b d, let s := tMarked { tSlave with up := b } { TickUnit.reset with alignDue := d } 0
     s.chain.live.master = false ∧ s.chain.live.up.toNat = 3 ∧ s.chain.setup = false ∧ s.chain.join = false ∧
       s.chain.up = b ∧ s.tick.alignDue = d) ∧
    (∀ n d : Fin 2, let c := { tSlave with setup := true, depth := BitVec.ofNat 12 n.val
                                           live := { tSlave.live with down := BitVec.ofNat 12 d.val } }
     c.setup = true ∧ (c.depth = 0 ↔ n = 0) ∧ c.confs = [] ∧ (c.live.down = 0 ↔ d = 0) ∧
       ((∃ m, m < 12 ∧ c.live.down.getLsbD m = true ∧ ∀ x ∈ c.confs, x.1 ≠ m) ↔ d = 1)) ∧
    (∀ b, let c := { tSlave with join := b, up := !b }
     c.setup = false ∧ c.join = b ∧ (c.up = true ∨ c.setup = true ∨ c.join = true)) ∧
    (∀ b, (Mark.mk b).close = b ∧ ({ TickUnit.reset with locked := b } : TickUnit).locked = b ∧
      ({ TickUnit.reset with holdover := b } : TickUnit).holdover = b) ∧
    (¬ 15 ≤ Link.reset.good ∧ 15 ≤ ({ Link.reset with good := 15 } : Link).good) ∧
    ((tLink []).link 3).rx.find? (fun (x : Item) => decide (fieldN (x.headD 0) 0 4 = 7)) = none := by
  refine ⟨?_, by decide, by decide, by decide, by decide, by decide, by decide⟩
  rintro w (rfl | rfl | rfl) <;> decide +kernel

theorem witness_ContextsAndTables :
    (∀ f, Src.pf ≠ .vf f) ∧
    (∀ w, w = [] ∨ w = [3] ∨ w = [3, 4] →
      let r : InvRun := { id := .slot 1, ctx := 0, segs := 1, all := false, seq := 7, waitFor := w, drained := false, vas := [], blocks := [(5, 1)] }
      let s (k : Carrel) : State := { tState k with seg := { SegUnit.reset with runs := [r] } }
      [r].find? (fun r => decide (r.id = .slot 1) && !r.drained) = some r ∧ [r].Nodup ∧ (s tCarrel).stillOpen r = false ∧
        (s { tCarrel with mb := [{ tEntry with issued := true }] }).stillOpen r = true) ∧
    State.reset.plansOf 5 = [] ∧ (tPlanned tCarrel tPlan).plansOf 0 ≠ [] ∧
    descReason 5 (tDesc 0x1000 0x1000) = 0 ∧ descReason 5 (BitVec.ofNat 128 1) ≠ 0 ∧
    ((tDesc 0x1000 0x1000).extractLsb' 56 8 = 0#8 ∧ (tDesc 0x1000 0x1000).extractLsb' 109 19 = 0#19 ∧
      (tDesc 0x1000 0x1000).getLsbD 0 = true) ∧
    (let d := tDesc 0x1000 (2 ^ 30)
     2 ^ 30 = (d.extractLsb' 64 45).toNat ∧ ((d.extractLsb' 12 44).toNat * 4096) % 2097152 ≠ 0) ∧
    (tDesc (2 ^ 56) 0).extractLsb' 56 8 ≠ 0#8 ∧ (0 : BitVec 128).getLsbD 0 = false ∧
    (State.reset.invSlot 31).busy = false ∧ State.reset.chain.up = false ∧ isDevice (.carrel 5) = true ∧
    (let s : State := { State.reset with seg := { SegUnit.reset with slots := [(63, { InvSlot.reset with busy := true })] } }
     (s.invSlot 63).busy = true) ∧
    ((word (2 ^ 28)).getLsbD 28 = true ∧ (word (2 ^ 12)).extractLsb' 0 12 = (0 : BitVec 12) ∧ (word (2 ^ 12)).getLsbD (12 + 0) = true) ∧
    (((tLink (tItem 11 0 [2 ^ 28])).link 3).rx.find? (fun (x : Item) => decide (fieldN (x.headD 0) 0 4 = 11)) =
      some (tItem 11 0 [2 ^ 28])) ∧
    (let x : InvRun := { id := .slot 1, ctx := 0, segs := 1, all := false, seq := 7, waitFor := [3], drained := true, vas := [], blocks := [] }
     x.id = .slot 1 ∧ (tItem 12 0 []).dst = State.reset.ownChip ∧ 3 ∈ x.waitFor ∧ x.drained = true) ∧
    (∀ v x : Bool, let p : TablePort := { State.reset.seg.port0 with write := v, read := x }
     p.write = v ∧ p.read = x) ∧
    (((tLink (tItem 12 0 [])).link 3).rx.find? (fun (x : Item) => decide (fieldN (x.headD 0) 0 4 = 12)) = some (tItem 12 0 []) ∧
      (tItem 12 0 []).tag.toNat = 1) ∧
    Tab.get none ((tState tCarrel).carrel 5).desc ((7 : BitVec 3).toNat * 16 + (0xF000000000000000 : Word).toNat / 2 ^ 60) = none := by
  refine ⟨nofun, ?_, by decide⟩
  rintro w (rfl | rfl | rfl) <;> exact ⟨by decide, by simp, by decide, by decide⟩

/-! ## Ticks -/

/-- A module that runs ticks, in a part of the tick. -/
def tTick (p : TickPart) (t : TickUnit) : State :=
  { State.reset with start := { StartUnit.reset with ticking := true, step := 10 }, tick := { t with part := p } }

/-- A status of the tick before. -/
def tStat : Status := { tick := 0, fail := false, late := false, linkev := false, recover := false, ctxs := [], sets := [] }

theorem witness_TickBoundary :
    State.reset.start.ticking = false ∧ (tTick .guard TickUnit.reset).start.ticking = true ∧
    (tTick .guard TickUnit.reset).tick.part = .guard ∧ (tTick .work TickUnit.reset).tick.part ≠ .guard ∧
    (tTick .guard { TickUnit.reset with armed := some (1, 9000) }).tick.armed = some (TickUnit.reset.no + 1, 9000) ∧
    (tTick .guard { TickUnit.reset with armed := some (2, 9000) }).tick.armed ≠ some (TickUnit.reset.no + 1, 9000) ∧
    (tTick .guard { TickUnit.reset with gapDue := true }).tick.gapDue = true ∧ TickUnit.reset.gapDue = false ∧
    (∀ b : Bool, let p := { tPlan with uncorr := b }
     let s : State := { tTick .guard TickUnit.reset with plans := [(2, p)] }
     let h := s.treatHalts
     (h.plans.any fun x => x.2.ranNow && (h.planFault x.2 || (x.2.late && h.linkEv)) &&
       !h.plans.any fun y => y.2.ranNow && decide (y.2.ctx = x.2.ctx) &&
         (y.2.overrun || (y.2.late && !h.linkEv && !h.planFault y.2) || (y.2.uncorr && h.keepers.none_))) = b) ∧
    (∀ b : Bool, let s : State := { tTick .guard TickUnit.reset with
       chain := { Chain.reset with up := true, own := some tStat, verdict := some { tStat with recover := b } } }
     s.chain.up = true ∧ s.chain.own = some tStat ∧ s.chain.verdict = some { tStat with recover := b }) ∧
    (tTick .gap { TickUnit.reset with toReplay := [3, 4] }).tick.part = .gap := by decide +kernel

theorem witness_WorkWindowAndGuard :
    (∀ b : Bool, let s : State := { tTick .intake { TickUnit.reset with gapDue := b } with plans := [(2, tPlan)], carrels := [(5, tCarrel)] }
     s.start.ticking = true ∧ s.tick.part = .intake ∧ s.tick.gapDue = b ∧ s.tick.replay = false ∧ (s.plans.map (·.1)).Nodup ∧
       (∀ x ∈ s.plans, x.2.img.set.Nodup ∧ ∀ c ∈ x.2.img.set, c < 4096) ∧ (2, tPlan) ∈ s.plans ∧ tPlan.state = .running ∧
       (5 : BitVec 12).toNat ∈ tPlan.img.set ∧ (s.carrel 5).halted = false) ∧
    (∀ b : Bool, let p := { tPlan with links := if b then [tRecord 3 true] else [], fresh := false }
     let s : State := { tTick .work TickUnit.reset with plans := [(2, p)], carrels := [(5, { tCarrel with wait := .rest })] }
     s.start.ticking = true ∧ s.tick.part = .work ∧ p.ranNow = true ∧ (p.links ≠ [] ↔ b = true) ∧
       (∀ c ∈ p.img.set, c < 4096) ∧ (s.carrel 5).wait = .rest ∧ (s.carrel 5).queue = [] ∧ s.halts = [] ∧
       s.tick.failDue = [] ∧ s.planFault { p with uncorr := b } = b) ∧
    ((tPlanned tCarrel tPlan).carrel 5).wait ≠ .rest := by decide +kernel

theorem witness_LengthChange :
    (∀ f, Src.pf ≠ .vf f) ∧
    (let s : State := { State.reset with tick := { TickUnit.reset with lenNext := 2000 } }
     s.tick.no.toNat + 16 ≤ (16 : Word).toNat ∧ 2000 ≤ s.tick.lenNext.toNat ∧ s.tick.lenNext.toNat ≤ 1000000 ∧
       s.chain.live.master = true ∧ (s.chain.up = true → s.chain.minTick.toNat ≤ s.tick.lenNext.toNat)) ∧
    (let s : State := { State.reset with tick := { TickUnit.reset with lenNext := 1000001 } }
     ¬ s.tick.lenNext.toNat ≤ 1000000) ∧
    (let t : TickUnit := { TickUnit.reset with armed := some (16, 9000), no := 1 }
     t.armed = some (16, 9000) ∧ (16 : Word).toNat < t.no.toNat + 16 ∧ t.no.toNat + 15 ≤ (16 : Word).toNat) :=
  ⟨nofun, by decide, by decide, by decide⟩

/-- A status or verdict for tick 0 of a tree link. -/
def tStatItem (v : Bool) : Item :=
  tItem 9 0 ([word (0xFFFF + (if v then 2 ^ 19 else 0))] ++ List.replicate 85 0)

theorem witness_StatusesAndVerdicts :
    (∀ d, d = 8 ∨ d = 24 →
      let s : State := { tLink (tStatItem false) with
        chain := { Chain.reset with up := true, own := some tStat, live := { ChainCfg.reset with down := d } } }
      ∃ x u, s.takeStatus 3 false = some (x, u) ∧ s.chain.own = some tStat ∧ tStat.tick = x.tick ∧ 3 ∈ s.downLinks ∧
        s.chain.verdict = none ∧ ((∃ m ∈ s.downLinks, m ≠ 3) ↔ d = 24)) ∧
    (let s : State := { tLink (tStatItem true) with chain := { tSlave with own := some tStat } }
     ∃ x u, s.takeStatus 3 true = some (x, u) ∧ s.chain.live.master = false ∧ s.chain.live.up.toNat = 3 ∧
       s.chain.own = some tStat ∧ tStat.tick = x.tick) ∧
    (let c : Chain := { Chain.reset with own := some tStat }
     c.own = some tStat ∧ c.live.master = true ∧ c.verdict = none) ∧ tSlave.live.master = false := by
  refine ⟨?_, ⟨_, _, rfl, by decide, by decide, rfl, by decide +kernel⟩, by decide, by decide⟩
  rintro d (rfl | rfl) <;> exact ⟨_, _, rfl, rfl, by decide +kernel, by decide +kernel, rfl, by decide +kernel⟩

/-! ## The host -/

/-- A command of context 0, of one OP, with a completion record and arguments. -/
def tCmd (op : Byte) (args : List Byte) (stage : CmdStage) : Cmd :=
  { seq := 7, tick := 0, stage := stage
    bytes := patch (patch (patch (List.replicate 256 0) 0 [op, 1]) 8 [0, 0x10]) 0x18 args }

/-- A module whose context 0 has taken commands, with segment 0 in HBM. -/
def tHost (l : List Cmd) : State :=
  { State.reset with
    host := { HostUnit.reset with ctxs := [(0, { HostCtx.reset with cmds := l })] }
    seg := { SegUnit.reset with table := [(0, tDesc 0 0x100000)] } }

/-- A command of 2 sequence numbers before. -/
def tEarlier (op : Byte) : Cmd := { tCmd op [] .waiting with seq := 5 }

/-- A plan of another slot, as tPlan stands. -/
def tHostPlan (l : List Cmd) (p : Plan) : State := { tHost l with plans := [(2, p)] }

theorem witness_HostCommands :
    Taken (tHost [tCmd 0 [] .waiting]) 0 (tCmd 0 [] .waiting) 0 ∧
    (let c := tCmd 0 [] .waiting
     let s := tHost [tEarlier 0x10, c]
     s.cmd 0 c.seq = some c ∧ s.badCmd 0 c = false ∧ s.startable 0 c = true ∧ s.fenced 0 c.seq = true ∧
       (s.hctx 0).orphaned = false) ∧
    (let c := tCmd 0x10 [] .ready
     Taken (tHost [c]) 0 c 0x10 ∧ (tHost [c]).earlier 0 c.seq = [] ∧ Taken (tHost [tEarlier 0, c]) 0 c 0x10 ∧
       (tHost [tEarlier 0, c]).earlier 0 c.seq ≠ []) ∧
    (∀ l, l = [0x87, 0x13] ∨ l = [0x88, 0x13] → Taken (tHost [tCmd 0x0C l .waiting]) 0 (tCmd 0x0C l .waiting) 0x0C) ∧
    (∀ x ∈ [((9 : Byte), PlanState.running), (0x0A, .running), (0x0B, .suspended)],
      let c := tCmd x.1 [2] .waiting
      let p := { tPlan with state := x.2 }
      Taken (tHostPlan [c] p) 0 c x.1.toNat ∧ (tHostPlan [c] p).plan (c.arg 0).toNat = some p ∧ p.ctx = 0 ∧ p.reason ≠ 0x85) ∧
    (tHost [tCmd 9 [2] .waiting]).plan ((tCmd 9 [2] .waiting).arg 0).toNat = none ∧
    (let c := tCmd 5 [] .waiting
     (tHost [c]).badCmd 0 c = true ∧ (tHost [c]).fenced 0 c.seq = false ∧ c.op ≠ 0x10) ∧
    (let c := tCmd 2 ([0] ++ List.replicate 15 0 ++ [64]) .waiting
     let d := { tCmd 2 ([0] ++ List.replicate 15 0 ++ [64]) .waiting with seq := 5 }
     (tHost [d, c]).badCmd 0 c = false ∧ (tHost [d, c]).startable 0 c = false ∧ (tHost [c]).startable 0 c = true) ∧
    (let c := tCmd 8 [0] .waiting
     (tHost [c]).badCmd 0 c = false ∧ (tHost [c]).startable 0 c = true ∧ (tHost [c]).loadingSlot = none ∧
       (tHost [c]).freeSlot = some 0 ∧ (tHostPlan [c] { tPlan with state := .loading }).loadingSlot ≠ none ∧
       (tHost [c]).loadFirst 0 c = true ∧ (tHost [{ c with seq := 5 }, c]).loadFirst 0 c = false) ∧
    (let c := tCmd 3 ([0] ++ List.replicate 15 0 ++ [64]) .waiting
     (tHost [c]).badCmd 0 c = false ∧ (tHost [c]).startable 0 c = true ∧
       (tHost [c]).tick.confirmed ≤ max (c.tick.toNat - 1) c.notBefore ∧
       max (c.tick.toNat - 1) c.notBefore < ({ tHost [c] with tick := { TickUnit.reset with confirmed := 1 } } : State).tick.confirmed) := by
  unfold Taken
  refine ⟨by decide +kernel, by decide +kernel, by decide +kernel, ?_, by decide +kernel, by decide +kernel, by decide +kernel,
    by decide +kernel, by decide +kernel, by decide +kernel⟩
  rintro l (rfl | rfl) <;> decide +kernel

/-- A write of 8 inline bytes to address 0 of segment 0. -/
def tInline : Cmd := { tCmd 1 [] .waiting with bytes := patch (tCmd 1 [] .waiting).bytes 2 [8] }

/-- The block of a module in its intake window. -/
def tIntake (l : List Cmd) : State := { tHost l with tick := { TickUnit.reset with part := .intake } }

theorem hbm_present {s : State} (z : s.hbmEnd = 0x0C000000000) {a : Nat} (h : a < 64) :
    s.present a 1 = true ∧ ∀ b o, regionOf a ≠ .regs b o := by
  have r : regionOf a = .hbm := by simp only [regionOf]; split <;> first | rfl | omega
  refine ⟨?_, fun b o k => by rw [r] at k; cases k⟩
  simp only [State.present, State.exists_, List.all_eq_true]
  intro i hi
  obtain rfl : i = 0 := by have : i < 1 := by simpa [upto] using hi
                           omega
  simp only [Nat.add_zero, r, z]
  simp; omega

theorem witness_InlineWritesAndAtomics :
    (let s := tRich (tIntake [tInline])
     s.isLocal 0 = true ∧ s.asked (.intake 0 7) = false ∧ s.lost = [] ∧ tInline.bytes.length = 256 ∧
       Taken s 0 tInline 1 ∧ s.recTrans 0 (tInline.arg 0) tInline.inlineLen 2 = some (0, 0) ∧ tInline.inlineLen ≠ 0 ∧
       s.tick.part = .intake ∧ max tInline.tick.toNat tInline.notBefore ≤ s.tick.no.toNat ∧
       (s.rowsAsk (.intake 0 7) 0 [(tInline.arg 0, tInline.inlineLen)]).1 = true ∧
       ((tIntake [tInline]).rowsAsk (.intake 0 7) 0 [(tInline.arg 0, tInline.inlineLen)]).1 = false ∧
       ∀ a, localOf 0 / 64 * 64 ≤ a → a < (localOf 0 + tInline.inlineLen + 63) / 64 * 64 →
         s.present a 1 = true ∧ ∀ b o, regionOf a ≠ .regs b o) ∧
    (let s : State := { tHost [tInline] with tick := { TickUnit.reset with part := .work } }
     s.recTrans 0 (tInline.arg 0) tInline.inlineLen 2 = some (0, 0) ∧ Taken s 0 tInline 1 ∧ s.tick.part ≠ .intake) ∧
    (let c := tCmd 4 [0, 0, 0, 0, 0, 0, 0, 0, 0x23] .waiting
     let s := tRich (tIntake [c])
     c.bytes.length = 256 ∧ Taken s 0 c 4 ∧ operWidth ((c.arg 1).extractLsb' 0 4) ((c.arg 1).getLsbD 4) = 8 ∧
       s.recTrans 0 (c.arg 0) 8 11 = some (0, 0) ∧ regionOf (localOf 0) = .hbm ∧ s.present (localOf 0) 8 = true ∧
       localOf 0 % 8 = 0 ∧ (c.arg 1).extractLsb' 0 4 ≠ 8 ∧ (c.arg 1).extractLsb' 0 4 ≠ 15 ∧
       (s.askOne .unplanned 2 (localOf 0) 0).1 = true ∧ ((tIntake [c]).askOne .unplanned 2 (localOf 0) 0).1 = false) := by
  unfold Taken
  refine ⟨⟨by decide +kernel, by decide +kernel, rfl, by decide +kernel, by decide +kernel, by decide +kernel, ?_, rfl, ?_, ?_, ?_,
    fun a _ h => ?_⟩, by decide +kernel, by decide +kernel⟩
  iterate 4 decide +kernel
  have e : (localOf 0 + tInline.inlineLen + 63) / 64 * 64 = 64 := by decide +kernel
  exact hbm_present (by decide +kernel) (by omega)

/-- A copy of 1 byte between host address 0 and address 0 of segment 0. -/
def tCopy (op : Byte) (stage : CmdStage) : Cmd := tCmd op (List.replicate 16 0 ++ [1]) stage

/-- A module whose engine 0 moves a copy. -/
def tCopying (c : Cmd) : State :=
  { tHost [c] with
    host := { (tHost [c]).host with
      engines := [(0, { busy := true, ctx := 0, seq := 7, desc := [(0, some (tDesc 0 0x100000))], moved := 0, tick := 0 })] } }

theorem moved_such (m : Moved) (P : State → Bool) (h : (match m with | .ok u => P u | .err _ _ => false) = true) :
    ∃ u, m = .ok u ∧ P u = true := by
  cases m with
  | ok u => exact ⟨u, rfl, h⟩
  | err e u => cases h

theorem rows_ok (r : Moved × List Byte) (h : (match r.1 with | .ok _ => true | .err _ _ => false) = true) :
    ∃ u b, r = (.ok u, b) := by
  obtain ⟨m, b⟩ := r
  obtain ⟨u, rfl, -⟩ := moved_such m (fun _ => true) h
  exact ⟨u, b, rfl⟩

theorem witness_HostCopies :
    (let c := tCopy 2 .ready
     let s := tHost [c]
     s.cmd 0 c.seq = some c ∧ s.fenced 0 c.seq = false ∧ (s.hctx 0).orphaned = false ∧ s.nextCopy = some (0, c) ∧
       (s.engine 0).busy = false ∧ 0 < s.enginesOpen) ∧
    (∀ x ∈ [((2 : Byte), CmdStage.moving 0), (2, .flush 0), (3, .moving 0), (3, .flush 0)],
      let c := tCopy x.1 x.2
      let s := tCopying c
      let ask (s : State) := s.rowsAsk (.copyEngine 0) 0 c.deviceRows
      s.cmd 0 c.seq = some c ∧ s.fenced 0 c.seq = false ∧ (s.hctx 0).orphaned = false ∧ c.op = x.1.toNat ∧
        (s.engine 0).moved = 0 ∧ s.host.d3.getLsbD (s.owner 0).toNat = false ∧ (s.engine 0).busy = true ∧
        (s.engine 0).ctx = 0 ∧ (s.engine 0).seq = c.seq ∧ s.census.ring.en = false ∧ (ask s).1 = false ∧ (ask (tRich s)).1 = true) ∧
    (let c := tCopy 2 (.flush 0)
     let s := ((tRich (tCopying c)).rowsAsk (.copyEngine 0) 0 c.deviceRows).2
     ∃ u, [(0 : Byte)].length = (c.arg 2).toNat ∧
       s.putRows (.copyEngine 0) 0 c.deviceRows [0] = .ok u ∧ u = { s with mem := u.mem } ∧
       u.asked (.copyEngine 0) = false) ∧
    (let c := tCopy 3 (.moving 0)
     let s := ((tRich (tCopying c)).rowsAsk (.copyEngine 0) 0 c.deviceRows).2
     ∃ u b, s.getRows (.copyEngine 0) 0 1 c.deviceRows [] = (.ok u, b)) := by
  refine ⟨by decide +kernel, by decide +kernel, ?_, ?_⟩
  · intro c s
    obtain ⟨u, e, h⟩ := moved_such (s.putRows (.copyEngine 0) 0 c.deviceRows [0])
      (fun u => decide (u = { s with mem := u.mem } ∧ u.asked (.copyEngine 0) = false)) (by decide +kernel)
    exact ⟨u, by decide +kernel, e, of_decide_eq_true h⟩
  · exact rows_ok _ (by decide +kernel)

/-- The CLAIMS segment of a plan that claims no unit. -/
def tClaims : List Byte := List.replicate 2112 0 ++ (List.replicate 4096 0xFF ++ List.replicate 272 0)

/-- A plan image of one carrel, one plan tick and one phase up to its digest. -/
def tImageHead : List Byte :=
  natToBytes 4 0x4C443950 ++ natToBytes 4 0x00010001 ++ natToBytes 4 0x00010000 ++ natToBytes 4 5 ++ natToBytes 4 8000 ++
  natToBytes 4 1 ++ natToBytes 8 256 ++ natToBytes 8 768 ++ natToBytes 8 7696 ++ List.replicate 16 0

/-- What stands between the digest and the CLAIMS segment: the rest of the header, the set, the directory and the
small segments, all zero. -/
def tImageRest : List Byte :=
  List.replicate 160 0 ++ (1 : Byte) :: List.replicate 511 0 ++
  ([(1, 0, 960, 8), (2, 0, 1024, 8), (3, 0, 1088, 8), (4, 0, 1152, 48), (5, 0xFFFF, 1216, 6480)].flatMap
    fun ((t, c, o, n) : Nat × Nat × Nat × Nat) => natToBytes 2 t ++ natToBytes 6 c ++ natToBytes 8 o ++ natToBytes 16 n) ++
  List.replicate 288 0

/-- The whole image. -/
def tImage (digest : List Byte) : List Byte := tImageHead ++ (digest ++ (tImageRest ++ tClaims))

/-- The image with its digest field zero. -/
def tBlank : List Byte := tImage (List.replicate 32 0)

/-- The digest of that image. -/
def tDigest : List Byte := sm3 tBlank

/-- A module whose bay 0 and context 0 are ON, with segment 0 in the shelf of carrel 5. -/
def tOn (l : List Cmd) : State :=
  { tHost l with
    seg := { SegUnit.reset with table := [(0, tDesc 0x80000140000 0x30000)] }
    dict := { (tHost l).dict with
      funcs := [(0x300, { Func.reset with state := 2 }), (0x1000, { Func.reset with state := 2 })] } }

theorem bytesToNat_zeros (n : Nat) : bytesToNat (List.replicate n 0) = 0 := by
  induction n with
  | zero => rfl
  | succ n ih =>
    rw [List.replicate_succ, bytesToNat, ih]
    rfl

theorem tClaims_low {o n : Nat} (h : o + n ≤ 2112) : leAt tClaims o n = 0 := by
  have e : slice tClaims o n = List.replicate n 0 := by
    unfold slice tClaims
    rw [List.drop_append_of_le_length (by rw [List.length_replicate]; omega), List.drop_replicate,
      List.take_append_of_le_length (by rw [List.length_replicate]; omega), List.take_replicate]
    congr 1; omega
  rw [leAt, e, bytesToNat_zeros]

theorem tClaims_movers (k : Nat) (h : k < 2048) : leAt tClaims (0x840 + 2 * k) 2 = 0xFFFF := by
  have e : slice tClaims (0x840 + 2 * k) 2 = [0xFF, 0xFF] := by
    have l : 4096 - 2 * k = (4096 - 2 * k - 2) + 2 := by omega
    unfold slice tClaims
    rw [List.drop_append, List.length_replicate, List.drop_eq_nil_of_le (by rw [List.length_replicate]; omega),
      List.nil_append, show 0x840 + 2 * k - 2112 = 2 * k by omega, List.drop_append, List.drop_replicate, l]
    rfl
  rw [leAt, e]; rfl

theorem tClaims_high {o n : Nat} (h : 6208 ≤ o) : leAt tClaims o n = 0 := by
  have e : slice tClaims o n = List.replicate (min n (272 - (o - 2112 - 4096))) 0 := by
    unfold slice tClaims
    rw [List.drop_append, List.drop_eq_nil_of_le (by rw [List.length_replicate]; omega), List.nil_append, List.length_replicate,
      List.drop_append, List.drop_eq_nil_of_le (by rw [List.length_replicate]; omega), List.nil_append, List.length_replicate,
      List.drop_replicate, List.take_replicate]
  rw [leAt, e, bytesToNat_zeros]

theorem tDigest_length : tDigest.length = 32 := by
  have (l : List W32) : (l.flatMap fun w => beBytes 4 w.toNat).length = 4 * l.length := by
    induction l with
    | nil => rfl
    | cons a l ih =>
      rw [List.flatMap_cons, List.length_append, ih, List.length_cons, beBytes, List.length_reverse]
      show 4 + 4 * l.length = _
      omega
  rw [tDigest, sm3, this]
  rfl

theorem tImageHead_length : tImageHead.length = 64 := by decide +kernel

theorem tImageRest_length : tImageRest.length = 1120 := by decide +kernel

theorem tClaims_length : tClaims.length = 6480 := by
  simp only [tClaims, List.length_append, List.length_replicate]

theorem tImage_length {d : List Byte} (h : d.length = 32) : (tImage d).length = 7696 := by
  rw [tImage, List.length_append, List.length_append, List.length_append, tImageHead_length, tImageRest_length, tClaims_length, h]

theorem tBlank_eq : undigested (tImage tDigest) = tBlank := by
  rw [undigested, patch, List.length_replicate, tImage, List.take_append_of_le_length (by rw [tImageHead_length]),
    List.take_of_length_le (by rw [tImageHead_length]), List.drop_append, List.drop_eq_nil_of_le (by rw [tImageHead_length]; decide), tImageHead_length,
    List.drop_append, List.drop_eq_nil_of_le (by rw [tDigest_length]), tDigest_length]
  simp [tBlank, tImage]

theorem slice_digest {d : List Byte} (h : d.length = 32) {o n : Nat} (a : o + n ≤ 64 ∨ 96 ≤ o) :
    slice (tImage d) o n = slice tBlank o n := by
  have e {d : List Byte} (h : d.length = 32) : slice (tImage d) o n =
      if o + n ≤ 64 then slice tImageHead o n else slice (tImageRest ++ tClaims) (o - 96) n := by
    unfold slice tImage
    split
    · rw [List.drop_append_of_le_length (by rw [tImageHead_length]; omega),
        List.take_append_of_le_length (by rw [List.length_drop, tImageHead_length]; omega)]
    · rw [List.drop_append, List.drop_eq_nil_of_le (by rw [tImageHead_length]; omega), List.nil_append, tImageHead_length,
        List.drop_append, List.drop_eq_nil_of_le (by omega), List.nil_append, h, Nat.sub_sub]
  rw [e h, tBlank, e (List.length_replicate ..)]

theorem le_digest {o n : Nat} (a : o + n ≤ 64 ∨ 96 ≤ o) : leAt (tImage tDigest) o n = leAt tBlank o n := by
  rw [leAt, slice_digest tDigest_length a, leAt]

theorem tBlank_set : setOfImage tBlank = [0] := by decide +kernel

theorem tImage_set : setOfImage (tImage tDigest) = [0] := by
  rw [← tBlank_set]
  have p : leAt tBlank 0x18 8 = 256 := by decide +kernel
  simp only [setOfImage, le_digest (show 0x18 + 8 ≤ 64 ∨ _ from .inl (by decide)), p, le_digest (show _ ∨ 96 ≤ 256 from .inr (by decide))]

theorem tBlank_entries : dirOf tBlank =
    [⟨1, 0, 960, 8⟩, ⟨2, 0, 1024, 8⟩, ⟨3, 0, 1088, 8⟩, ⟨4, 0, 1152, 48⟩, ⟨5, 0xFFFF, 1216, 6480⟩] := by decide +kernel

theorem tImage_entries : dirOf (tImage tDigest) = dirOf tBlank := by
  have p : leAt tBlank 0x20 8 = 768 := by decide +kernel
  simp only [dirOf, le_digest (show 0x0C + 2 ≤ 64 ∨ _ from .inl (by decide)), le_digest (show 0x20 + 8 ≤ 64 ∨ _ from .inl (by decide)), p]
  refine List.map_congr_left fun i _ => ?_
  rw [le_digest (.inr (by omega)), le_digest (.inr (by omega)), le_digest (.inr (by omega)), le_digest (.inr (by omega))]

theorem tImage_seg (t c : Nat) : segOf (tImage tDigest) t c = segOf tBlank t c := by
  have o : ∀ x ∈ dirOf tBlank, 96 ≤ x.off := by
    rw [tBlank_entries]
    intro x h
    simp only [List.mem_cons, List.not_mem_nil, or_false] at h
    rcases h with rfl | rfl | rfl | rfl | rfl <;> simp only <;> omega
  simp only [segOf, tImage_entries]
  exact Option.map_congr fun x h => slice_digest tDigest_length (.inr (o x (List.mem_of_find?_eq_some h)))

theorem tBlank_claims : segOf tBlank 5 0xFFFF = some tClaims := by
  rw [segOf, tBlank_entries]
  show some (slice tBlank 1216 6480) = some tClaims
  unfold slice tBlank tImage
  rw [List.drop_append, List.drop_eq_nil_of_le (by rw [tImageHead_length]; decide), List.nil_append, tImageHead_length,
    List.drop_append, List.drop_eq_nil_of_le (by rw [List.length_replicate]; decide), List.nil_append, List.length_replicate,
    List.drop_append, List.drop_eq_nil_of_le (by rw [tImageRest_length]), List.nil_append, tImageRest_length]
  show some (List.take 6480 (List.drop 0 tClaims)) = some tClaims
  rw [List.drop_zero, List.take_of_length_le (by rw [tClaims_length])]

theorem tBlank_dir : dirOk tBlank = true := by
  unfold dirOk
  simp only [tBlank_set, tBlank_entries]
  decide +kernel

theorem tImage_dir : dirOk (tImage tDigest) = true := by
  have p : leAt tBlank 0x20 8 = 768 := by decide +kernel
  have q : leAt tBlank 0x18 8 = 256 := by decide +kernel
  have l : tBlank.length = 7696 := tImage_length (List.length_replicate ..)
  have e := tBlank_dir
  simp only [dirOk, zeroAt, tBlank_set, l, p, q] at e
  simp (disch := omega) only [dirOk, zeroAt, le_digest, tImage_set, tImage_entries, tImage_length tDigest_length, p, q]
  exact e

theorem tClaims_ok : claimsOk tClaims [0] 1 1 = true := by
  have m : ((upto 2048).all fun k =>
      let c := leAt tClaims (0x840 + 2 * k) 2
      decide (c = 0xFFFF) || (([0] : List Nat).contains c && decide (c / 16 = k / 8))) = true := by
    rw [List.all_eq_true]
    intro k hk
    have := tClaims_movers k (by simpa [upto] using hk)
    simp [this]
  have g (l : List Nat) : ((upto 256).all fun k => zeroAt tClaims (0x40 + 8 * k + 4) 4 &&
      (decide (leAt tClaims (0x40 + 8 * k + 2) 2 = 0) || l.contains k)) = true := by
    rw [List.all_eq_true]
    intro k hk
    have hk : k < 256 := by simpa [upto] using hk
    simp [zeroAt, tClaims_low (show 0x40 + 8 * k + 4 + 4 ≤ 2112 by omega), tClaims_low (show 0x40 + 8 * k + 2 + 2 ≤ 2112 by omega)]
  have l : 0x1948 + 1 ≤ tClaims.length := by
    simp only [tClaims, List.length_append, List.length_replicate]; omega
  have b (o : Nat) (h : o ≤ 0x20) : bits256 tClaims o = [] := by
    rw [bits256, tClaims_low (by omega)]
    simp
  have t : leAt tClaims 0x1940 4 = 0 := tClaims_high (by decide)
  have u : leAt tClaims 6472 1 = 0 := tClaims_high (by decide)
  unfold claimsOk
  simp only [Bool.and_eq_true]
  refine ⟨⟨⟨⟨⟨⟨⟨⟨decide_eq_true l, ?_⟩, ?_⟩, ?_⟩, ?_⟩, g _⟩, m⟩, ?_⟩, ?_⟩
  · rw [t]; rfl
  · exact decide_eq_true (tClaims_high (by decide))
  · rw [b 0 (by decide)]; rfl
  · rw [b 0x20 (by decide)]; rfl
  · show decide (max 0 (leAt tClaims 6472 1 + 1) = 1) = true
    rw [u]; rfl
  · rw [t]; rfl

theorem tBlank_small : segOf tBlank 1 0 = some (List.replicate 8 0) ∧ segOf tBlank 2 0 = some (List.replicate 8 0) ∧
    segOf tBlank 3 0 = some (List.replicate 8 0) ∧ segOf tBlank 4 0 = some (List.replicate 48 0) ∧
    (∀ t ∈ [6, 7, 8, 9], segOf tBlank t 0 = none) ∧ segOf tBlank 10 0xFFFF = none := by
  simp only [segOf, tBlank_entries]
  decide +kernel

theorem tBlank_fields : leAt tBlank 0x0A 2 = 1 ∧ leAt tBlank 0x14 4 = 1 ∧ leAt tBlank 8 2 = 0 ∧ leAt tBlank 0x10 4 = 8000 := by
  decide +kernel

theorem tImage_segs : segsOk (tImage tDigest) = true := by
  obtain ⟨hp, hh, -, -⟩ := tBlank_fields
  obtain ⟨h1, h2, h3, h4, h, h10⟩ := tBlank_small
  have h6 := h 6 (by decide)
  have h7 := h 7 (by decide)
  have h8 := h 8 (by decide)
  have h9 := h 9 (by decide)
  unfold segsOk
  simp (disch := omega) only [tImage_set, tImage_seg, le_digest, hp, hh, tBlank_claims, tClaims_ok, h1, h2, h3, h4, h6, h7, h8,
    h9, h10, List.all_cons, List.all_nil]
  decide +kernel

/-- What the loader reads from that image. -/
def tPlanImage : PlanImage :=
  { img := { Image.blank with tickLen := 8000, set := [0], phasesOf := [1] }, ctx := 0, tickLen := 8000, phases := 1
    digest := [], code := [], shelf := [(0, [])], regions := List.replicate 5 (0, 0) }

theorem tabOf_none (l : List Nat) (f : Nat → Nat) (h : ∀ k ∈ l, f k = 0) : tabOf l f = [] := by
  have (l : List Nat) (h : ∀ k ∈ l, f k = 0) (t : Tab Nat) (e : t = []) : l.foldl (fun t k => Tab.set 0 t k (f k)) t = [] := by
    induction l generalizing t with
    | nil => exact e
    | cons a l ih =>
      refine ih (fun k m => h k (.tail _ m)) _ ?_
      show Tab.set 0 t a (f a) = []
      rw [e, h a (.head _)]; rfl
  exact this l h [] rfl

/-- What an image says is read from its set, its segments, five header fields and its digest. -/
theorem image_congr {b c : List Byte} (hs : setOfImage b = setOfImage c) (hg : ∀ t k, segOf b t k = segOf c t k)
    (hf : leAt b 0x0A 2 = leAt c 0x0A 2 ∧ leAt b 0x14 4 = leAt c 0x14 4 ∧ leAt b 8 2 = leAt c 8 2 ∧ leAt b 0x10 4 = leAt c 0x10 4) :
    planImage b = { planImage c with digest := slice b 0x40 32 } := by
  simp only [planImage, hs, hg, hf.1, hf.2.1, hf.2.2.1, hf.2.2.2]

theorem image_claims (b : List Byte) :
    let cl := (segOf b 5 0xFFFF).getD []
    (planImage b).img.margin = (tabOf (upto 256) fun k =>
      let n := leAt cl (0x40 + 8 * k + 2) 2
      if n = 0 then 0 else leAt cl (0x40 + 8 * k) 2 * 65536 + n) ∧
    (planImage b).img.mover = (tabOf (upto 2048) fun k =>
      let c := leAt cl (0x840 + 2 * k) 2
      if cl = [] ∨ c = 0xFFFF then 0 else c + 1) ∧
    (planImage b).img.demand = tabOf (upto 64) fun p => leAt cl (0x1840 + 4 * p) 4 := by
  simp only [planImage, and_self]

theorem tBlank_units : (planImage tBlank).img.margin = [] ∧ (planImage tBlank).img.mover = [] ∧
    (planImage tBlank).img.demand = [] := by
  obtain ⟨h1, h2, h3⟩ := image_claims tBlank
  rw [h1, h2, h3, tBlank_claims]
  refine ⟨tabOf_none _ _ fun k m => ?_, tabOf_none _ _ fun k m => ?_, tabOf_none _ _ fun k _ => tClaims_high (by omega)⟩
  · have m : k < 256 := by simpa [upto] using m
    simp only [Option.getD_some, tClaims_low (show 0x40 + 8 * k + 2 + 2 ≤ 2112 by omega), if_true]
  · simp only [Option.getD_some, tClaims_movers k (by simpa [upto] using m), or_true, if_true]

/-- What the loader reads from an image, without its digest and what CLAIMS says of margins, movers and partitions. -/
def tCut (x : PlanImage) : PlanImage := { x with digest := [], img := { x.img with margin := [], mover := [], demand := [] } }

theorem tCut_eq {x y : PlanImage} {d : List Byte} (h : tCut x = tCut y) (m : x.img.margin = y.img.margin ∧
    x.img.mover = y.img.mover ∧ x.img.demand = y.img.demand) : ({ x with digest := d } : PlanImage) = { y with digest := d } := by
  obtain ⟨⟨⟩⟩ := x
  obtain ⟨⟨⟩⟩ := y
  simp only [tCut, PlanImage.mk.injEq, Image.mk.injEq] at h ⊢
  simp_all

theorem tBlank_cut : tCut (planImage tBlank) = tCut tPlanImage := by decide +kernel

theorem tImage_own : slice (tImage tDigest) 0x40 32 = tDigest := by
  unfold slice tImage
  rw [List.drop_append, List.drop_eq_nil_of_le (by rw [tImageHead_length]), List.nil_append, tImageHead_length]
  show List.take 32 (List.drop 0 (tDigest ++ _)) = tDigest
  rw [List.drop_zero, List.take_append_of_le_length (by rw [tDigest_length]), List.take_of_length_le (by rw [tDigest_length])]

theorem tImage_read : planImage (tImage tDigest) = { tPlanImage with digest := tDigest } := by
  rw [image_congr (by rw [tImage_set, tBlank_set]) tImage_seg ⟨le_digest (by omega), le_digest (by omega), le_digest (by omega),
    le_digest (by omega)⟩, tImage_own]
  exact tCut_eq tBlank_cut tBlank_units

/-- A module with that image at address 0 of segment 0, whose context 0 asks for its load. -/
def tLoad : State :=
  { tOn [tCmd 8 [0] .waiting] with mem := ((tOn [tCmd 8 [0] .waiting]).setBytes 0x80000140000 (tImage tDigest)).mem }

/-- The state in which that image is checked. -/
def tLoading : State := tLoad.loadBegin 0 (tCmd 8 [0] .waiting)

theorem tImage_header : headerOk (tImage tDigest) tDigest = true := by
  have h : headerOk tBlank (List.replicate 32 0) = true := by decide +kernel
  have l : tBlank.length = 7696 := tImage_length (List.length_replicate ..)
  have z : slice tBlank 0x40 32 = List.replicate 32 0 := by decide +kernel
  simp only [headerOk, zeroAt, imgLength, l, z] at h
  simp (disch := omega) only [headerOk, zeroAt, imgLength, le_digest, tImage_length tDigest_length, tImage_own]
  exact h

theorem tImage_accepted : tLoading.refusal 0 (tImage tDigest) = none := by
  have hf : tLoading.formOk 0 (tImage tDigest) { tPlanImage with digest := tDigest } = true := by
    rw [State.formOk, tBlank_eq, ← tDigest, tImage_header, tImage_dir, tImage_segs]
    decide +kernel
  obtain ⟨h1, h2, h3, h4, -⟩ := tBlank_small
  have hm : ({ tPlanImage with digest := tDigest } : PlanImage).img.dearest.set = [0] := rfl
  unfold State.refusal
  simp only [tImage_read, hf, tImage_seg, tBlank_claims, hm, List.any_cons, List.any_nil, h1, h2, h3, h4]
  decide +kernel

theorem loadBegin_mem (s : State) (ctx : BitVec 12) (c : Cmd) : (s.loadBegin ctx c).mem = s.mem := by
  unfold State.loadBegin
  split <;> rfl

/-- Nothing but the counter of free values differs. -/
def Fresh (s v : State) : Prop := v = { s with fresh := v.fresh }

theorem fresh_same (s : State) : Fresh s s := rfl

theorem tLoading_bytes (n : Nat) (h : n ≤ 7696) : tLoading.bytes 0x80000140000 n = (tImage tDigest).take n := by
  have l : (tImage tDigest).length = 7696 := tImage_length tDigest_length
  have e : tLoading.bytes 0x80000140000 7696 = tImage tDigest := by
    have := State.bytes_setBytes_same (tOn [tCmd 8 [0] .waiting]) 0x80000140000 (tImage tDigest)
    rw [l] at this
    rw [← this]
    refine State.bytes_congr fun i _ => ?_
    simp only [State.byte, tLoading, loadBegin_mem, tLoad]
  rw [← e]
  simp only [State.bytes, upto, ← List.map_take, List.take_range, Nat.min_eq_left h]

/-- Where the memory of these modules is read: the start of HBM or of the shelf of carrel 5. -/
theorem regions_read {a n k : Nat} (h : a = 0 ∨ a = 0x80000140000) (l : n ≤ 7696) (m : k < n) :
    regionOf (a + k) = if a = 0 then .hbm else .shelf 5 k := by
  rcases h with rfl | rfl
  · simp only [regionOf]
    rw [if_pos (by omega), if_pos trivial]
  · have h1 : ¬ 0x80000140000 + k < 0x0C000000000 := by omega
    have h2 : 0x80000000000 ≤ 0x80000140000 + k ∧ 0x80000140000 + k < 0x80040000000 := by omega
    have h3 : (0x80000140000 + k - 0x80000000000) % 0x40000 = k := by omega
    have h4 : (0x80000140000 + k - 0x80000000000) / 0x40000 = 5 := by omega
    have h5 : k < 0x30000 := by omega
    simp only [regionOf, h1, h2, h3, h4, h5, and_self, if_true, if_false, Nat.reduceEqDiff]

/-- A read of a module whose segment 0 stands there. -/
theorem read_mem (s : State) (a n : Nat) (b : a = 0 ∨ a = 0x80000140000) (h : n ≤ 7696) (r : s.recTrans 0 0 n 1 = some (a, 0))
    (z : s.hbmEnd = 0x0C000000000) (o : s.isLocal a = true) (e : s.lost = []) :
    s.getRows (.loader 0 7 0) 0 1 [(0, n)] [] = (.ok s, s.bytes a n) := by
  have i (k : Nat) (m : k < n) : regionOf (a + k) = if a = 0 then .hbm else .shelf 5 k := regions_read b h m
  have j : localOf a = a := by rcases b with rfl | rfl <;> rfl
  have p : s.present a n = true := by
    simp only [State.present, List.all_eq_true]
    intro k hk
    have m : k < n := by simpa [upto] using hk
    simp only [State.exists_, i k m]
    rcases b with rfl | rfl
    · rw [if_pos rfl]; exact decide_eq_true (by omega)
    · rw [if_neg (by decide)]
  have w : s.memRead a n = s.bytes a n := by
    simp only [State.memRead, State.bytes]
    refine List.map_congr_left fun k hk => ?_
    have m : k < n := by simpa [upto] using hk
    rw [State.anyByte, i k m]
    rcases b with rfl | rfl <;> rfl
  have q : s.readErr a n = none := by
    rw [State.readErr, if_pos o, j, p, State.lostIn, e]
    rfl
  have t : s.hostTrans (.loader 0 7 0) 0 0 n 1 = some (a, 0) := r
  simp only [State.getRows, t, q]
  rw [if_pos o, j, w, List.nil_append]

theorem tLoading_read (n : Nat) (h : n = 256 ∨ n = 7696) :
    tLoading.getRows (.loader 0 7 0) 0 1 [(0, n)] [] = (.ok tLoading, (tImage tDigest).take n) := by
  have r : tLoading.recTrans 0 0 n 1 = some (0x80000140000, 0) := by rcases h with rfl | rfl <;> decide +kernel
  have l : n ≤ 7696 := by omega
  rw [read_mem tLoading _ n (.inr rfl) l r (by decide +kernel) (by decide +kernel) rfl, tLoading_bytes n l]

theorem read_short (s : State) (c : Cmd) (a : c.arg 0 = 0) (q : c.seq = 7) (r : s.recTrans 0 0 256 1 = some (0, 0))
    (z : s.hbmEnd = 0x0C000000000) (o : s.isLocal 0 = true) (e : s.lost = []) (m : leAt (s.bytes 0 256) 0 4 = 0) :
    s.readImage 0 c = (.ok s, s.bytes 0 256) := by
  rw [State.readImage, a, q]
  simp only [read_mem s 0 256 (.inl rfl) (by decide) r z o e, m]
  rfl

theorem tLoading_image : tLoading.readImage 0 (tCmd 8 [0] .ready) = (.ok tLoading, tImage tDigest) := by
  have a : (tCmd 8 [0] .ready).arg 0 = 0 := by decide +kernel
  have f {o n : Nat} (x : o + n ≤ 64) : leAt ((tImage tDigest).take 256) o n = leAt tBlank o n := by
    rw [← le_digest (.inl x), leAt, leAt, slice, slice, List.drop_take, List.take_take, Nat.min_eq_left (by omega)]
  have m : leAt tBlank 0 4 = 0x4C443950 ∧ leAt tBlank 0x28 8 = 7696 := by decide +kernel
  have l : (tImage tDigest).length ≤ 7696 := Nat.le_of_eq (tImage_length tDigest_length)
  rw [State.readImage, a]
  simp only [show (tCmd 8 [0] .ready).seq = 7 from rfl, tLoading_read 256 (.inl rfl), imgLength, f (show 0 + 4 ≤ 64 by decide),
    f (show 0x28 + 8 ≤ 64 by decide), m.1, m.2]
  rw [if_pos (by decide), tLoading_read 7696 (.inr rfl), List.take_of_length_le l]

theorem tLoading_rows : tLoading.loadRows 0 (tCmd 8 [0] .ready) = [(0, 7696)] := by
  have a : (tCmd 8 [0] .ready).arg 0 = 0 := by decide +kernel
  have l : (tImage tDigest).length = 7696 := tImage_length tDigest_length
  rw [State.loadRows, tLoading_image]
  simp only [tImage_accepted, tImage_read, a, l]
  rfl

theorem tLoading_ask : tLoading.rowsAsk (.loader 0 7 0) 0 (tLoading.loadRows 0 (tCmd 8 [0] .ready)) = (true, tLoading) := by
  have t : tLoading.hostTrans (.loader 0 7 0) 0 0 7696 0 = some (0x80000140000, 0) := by decide +kernel
  have o : tLoading.isLocal 0x80000140000 = true := by decide +kernel
  have z : tLoading.hbmEnd = 0x0C000000000 := by decide +kernel
  rw [State.rowsAsk, tLoading_rows, State.tokensFor_elsewhere, State.askHbm_nothing _ _ _ _ rfl]
  intro x m
  simp only [List.flatMap_cons, List.flatMap_nil, t, o, if_true, List.append_nil, List.mem_map] at m
  obtain ⟨y, m, rfl⟩ := m
  rw [piecesOf, if_neg (by decide), List.mem_map] at m
  obtain ⟨i, -, rfl⟩ := m
  rw [z]
  exact Nat.le_trans (by decide) (Nat.le_max_left ..)

/-- A module whose context 0 asks for the load of what is no plan image. -/
def tNoImage : State := tHost [tCmd 8 [0] .waiting]

/-- What it needs of tokens, from a module with some. -/
def tNoImageAsk (s : State) : Bool × State :=
  let s := s.loadBegin 0 (tCmd 8 [0] .waiting)
  s.rowsAsk (.loader 0 7 0) 0 (s.loadRows 0 (tCmd 8 [0] .ready))

theorem witness_PlanLoads :
    (∃ v b, Taken tLoad 0 (tCmd 8 [0] .waiting) 8 ∧ (tCmd 8 [0] .waiting).stage = .waiting ∧ tLoad.loadingSlot = none ∧
      tLoad.loadFirst 0 (tCmd 8 [0] .waiting) = true ∧ tLoad.freeSlot = some 0 ∧
      (tLoading.rowsAsk (.loader 0 7 0) 0 (tLoading.loadRows 0 (tCmd 8 [0] .ready))).1 = true ∧
      (tLoading.rowsAsk (.loader 0 7 0) 0 (tLoading.loadRows 0 (tCmd 8 [0] .ready))).2.readImage 0 (tCmd 8 [0] .ready) = (.ok v, b) ∧
      Fresh tLoading v ∧ v.refusal 0 b = none ∧
      v.loadWrites 0 7 (planImage b).ownPieces = .ok v ∧ ((planImage b).shelf.map (·.1)).Nodup ∧
      (∀ y ∈ (planImage b).shelf, y.1 < 4096 ∧ y.2.length ≤ 0x40000)) ∧
    (let c := tCmd 8 [0] .waiting
     let s := tRich tNoImage
     ∃ v b, Taken s 0 c 8 ∧ s.loadingSlot = none ∧ s.freeSlot = some 0 ∧ (tNoImageAsk s).1 = true ∧
       (tNoImageAsk s).2.readImage 0 { c with stage := .ready } = (.ok v, b) ∧
       Fresh (tNoImageAsk s).2 v ∧ ∃ code, v.refusal 0 b = some code) ∧ (tNoImageAsk tNoImage).1 = false ∧
    (let c := tCmd 8 [0] .ready
     let s := tHostPlan [c] { tPlan with state := .loading }
     ∃ v b, Taken s 0 c 8 ∧ (s.loadingSlot.map (·.1)) = some 2 ∧ (s.plans.map (·.1)).Pairwise (· < ·) ∧
       s.census.ring.en = false ∧ s.readImage 0 c = (.ok v, b) ∧ Fresh s v ∧ 0 < (b.length + 63) / 64) := by
  unfold Taken
  refine ⟨⟨tLoading, tImage tDigest, by decide +kernel, rfl, by decide +kernel, by decide +kernel, by decide +kernel, ?_, ?_,
    fresh_same _, tImage_accepted, ?_, ?_, ?_⟩, ?_, by decide +kernel, ?_⟩
  · rw [tLoading_ask]
  · rw [tLoading_ask]; exact tLoading_image
  · rw [tImage_read]; rfl
  · rw [tImage_read]; decide +kernel
  · rw [tImage_read]; decide +kernel
  · refine ⟨_, _, by decide +kernel, by decide +kernel, by decide +kernel, by decide +kernel,
      read_short _ _ (by decide +kernel) rfl (by decide +kernel) (by decide +kernel) (by decide +kernel) (by decide +kernel)
        (by decide +kernel), fresh_same _, 1, by decide +kernel⟩
  · refine ⟨_, _, by decide +kernel, by decide +kernel, by decide +kernel, rfl,
      read_short _ _ (by decide +kernel) rfl (by decide +kernel) (by decide +kernel) (by decide +kernel) rfl
        (by decide +kernel), fresh_same _, by decide +kernel⟩

/-- A census bank that is being copied out. -/
def tBank : Bank2 :=
  { tag := 3, done := false, chip := 0, period := 1000, carrels := [], bays := [], hbm := [], links := [], ctxs := [], gauges := []
    power := State.reset.power
    keeper := KeeperCount.reset, ringHead := 0, ringLost := 0, nan := PkgNan.reset }

/-- Context 4 of function 3, which holds an idle plan of carrel 5. -/
def tVf : State :=
  { tPlanned tCarrel { tPlan with ctx := 4 } with
    seg := { SegUnit.reset with func := [(4, 3)] }, host := { HostUnit.reset with vfs := 8 } }

theorem witness_HostAccesses :
    tVf.owner 4 = 3 ∧ tVf.owner 5 ≠ 3 ∧ (14 : BitVec 7).toNat < 64 ∧ ((9 : Nat) ≠ 8 ∨ (0 : Nat) % 8 ≠ 0) ∧
    tVf.vfWrites 3 0 0 = false ∧
    (let pa := (tVf.host.winBase.toNat * 2 ^ 28 + 0) % 2 ^ 56
     tVf.isLocal pa = true ∧ tVf.present (localOf pa) 4 = true ∧ tVf.lost = [] ∧ tVf.census.ring.en = false ∧
       (∀ i, i < 4 → regionOf (localOf pa + i) = .hbm) ∧
       ∀ a, localOf pa / 64 * 64 ≤ a → a < (localOf pa + 1 + 63) / 64 * 64 → a < 64) ∧
    (let s : State := { tVf with host := { tVf.host with winBase := 0xC00 } }
     let pa := (s.host.winBase.toNat * 2 ^ 28 + 0) % 2 ^ 56
     s.isLocal pa = true ∧ s.present (localOf pa) 4 = false) ∧
    ((tVf.windowAsk 0 4).1 = false ∧ ((tRich tVf).windowAsk 0 4).1 = true) ∧
    (∀ b, (tVf.vfReads 3 (if b then 0 else 1) 0) = b) ∧
    (∀ second : Bool, let s : State := { tVf with census := { Census.reset with
       bankA := some { tBank with done := true }, bankB := some { tBank with done := true } } }
     (if second then s.census.bankB else s.census.bankA) = some { tBank with done := true }) ∧
    (∃ i p, tVf.planOf 5 = some (i, p) ∧ tVf.owner p.ctx.toNat = 3) ∧
    ¬ ∃ i p, tVf.planOf 6 = some (i, p) ∧ tVf.owner p.ctx.toNat = 3 := by
  refine ⟨by decide, by decide, by decide, by decide, by decide +kernel, ⟨by decide +kernel, by decide +kernel, by decide,
    by decide, by decide +kernel, ?_⟩, by decide +kernel, by decide +kernel, by decide +kernel, by decide,
    ⟨2, { tPlan with ctx := 4 }, by decide +kernel, by decide +kernel⟩, ?_⟩
  · intro a _ h
    exact h
  · rintro ⟨i, p, h, -⟩
    have : tVf.planOf 6 = none := by decide +kernel
    rw [this] at h; cases h

/-- Context 4 orphaned, and ON. -/
def tOrphan : State :=
  { tVf with
    host := { tVf.host with ctxs := [(4, { HostCtx.reset with orphaned := true })] }
    dict := { tVf.dict with funcs := [(0x1004, { Func.reset with state := 2 })] } }

theorem witness_HostLossesAndPower :
    (3 : BitVec 6) ≠ 0 ∧ tVf.owner 4 = 3 ∧ tVf.owner 5 ≠ 3 ∧ (tVf.hctx 4).orphaned = false ∧
    (tOrphan.hctx (4 : BitVec 12).toNat).orphaned = true ∧
    tOrphan.host.vfs.getLsbD (3 : BitVec 6).toNat = true ∧ (4 : BitVec 12) ≠ 0 ∧ (tOrphan.func (.ctx 4)).state = 2 := by
  decide +kernel

/-- A module whose error ring of 1,024 entries is on at address 0. -/
def tRing (head : Word) : State :=
  { State.reset with
    census := { State.reset.census with ring := { State.reset.census.ring with en := true, log2 := 10, head := head } }
    host := { State.reset.host with dlUp := true } }

theorem witness_ErrorRingAndCensus :
    (let s := tRing 1
     let g := s.census.ring
     g.en = true ∧ (g.head - g.tail).toNat ≠ g.entries ∧ g.base.toNat * 64 + 64 * (g.head.toNat % g.entries) + 64 ≤ s.hbmEnd ∧
       s.host.dlUp = true) ∧
    (let g := (tRing 1024).census.ring
     g.en = true ∧ (g.head - g.tail).toNat = g.entries) ∧
    (let g := State.reset.census.ring
     g.en = false ∧ g.held.length < 64 ∧ g.held = []) ∧
    ((1 : Word).getLsbD 0 = true ∧ (0 : Word).getLsbD 0 = false) ∧
    (let s := State.reset
     s.chain.live.master = true ∧ (s.chain.up || s.chain.setup) = false ∧ s.tick.no + 2 ∉ s.census.due ∧
       s.tick.no + 2 ∈ ({ s.census with due := [2] } : Census).due) ∧
    tSlave.live.master = false ∧
    (let c : Census := { Census.reset with bankB := some tBank }
     (if c.newest then c.bankB else c.bankA) = some tBank ∧ tBank.done = false) ∧
    (let s : State := { State.reset with start := { State.reset.start with step := 10 } }
     10 ≤ s.start.step.toNat ∧ s.plans = [] ∧
       ∀ x, x = 1 ∨ x = 0x6000 →
         (((upto 64).map fun q => if q = 0 then ratePlan (BitVec.ofNat 35 x) + rateUnpl (BitVec.ofNat 35 x)
           else ratePlan ((s.stack 0).rateShown q) + rateUnpl ((s.stack 0).rateShown q)).sum ≤ 20480 ↔ x = 1)) := by
  refine ⟨by decide +kernel, by decide +kernel, by decide +kernel, by decide, by decide +kernel, by decide, by decide +kernel,
    by decide +kernel, rfl, ?_⟩
  rintro x (rfl | rfl) <;> decide +kernel

/-- A module that serves its dictionary, whose images carry security version 1 and whose debug port is open. -/
def tServed (bytes : List Byte) : State :=
  { tState tCarrel with
    dict := { State.reset.dict with nmt := 2, nodeId := 5 }
    sec := { State.reset.sec with
      imageA := { bytes := bytes, status := 0 }, imageB := { bytes := bytes, status := 0 }, dbgOpen := true, scope := 5
      boxes := [(1, { Mailbox.reset with status := 1, cap := [1] })] } }

theorem witness_Security :
    (let s := tServed [0, 0, 0, 0, 0, 0, 1]
     s.dictServed .pf = true ∧ (0 : BitVec 8).toNat ≤ s.arbCount ∧ s.arbCount < (1 : BitVec 8).toNat ∧ s.sec.imageA.status = 0 ∧
       s.sec.imageB.status = 0 ∧ 1 ≤ s.sec.imageA.svn ∧ 1 ≤ s.sec.imageB.svn ∧ (s.mbox (boxOf .pf)).status = 1 ∧
       (s.mbox (boxOf .can)).status ≠ 1 ∧ (s.mbox 1).cap ≠ [] ∧ (∀ x ∈ s.sec.boxes, x.1 < 1 → x.2.cap = []) ∧
       s.sec.chalOut = false ∧ s.sec.dbgOpen = true ∧ s.sec.scope.getLsbD 0 = true ∧ s.sec.scope.getLsbD 2 = true ∧
       (3 : BitVec 3).toNat < (s.dataOf 5).dres.length ∧ (0 : BitVec 4).toNat < (s.retOf 5).rres.length) ∧
    (tServed []).arbCount < (1 : BitVec 8).toNat ∧ (tServed []).sec.imageA.svn < (1 : BitVec 8).toNat ∧
    (let s : State := { State.reset with sec := { State.reset.sec with dbgOpen := false, fails := 8 } }
     8 ≤ s.sec.fails.toNat ∧ ¬ (s.sec.dbgOpen = true ∧ s.sec.scope.getLsbD 0 = true)) := by
  decide +kernel

/-- A module whose die 0 has no spare left, with carrel 5 in a plan. -/
def tNoSpare : State :=
  { tPlanned tCarrel tPlan with map := { State.reset.map with badBays := [128, 129, 130, 131] } }

theorem witness_FailuresAndKeepers :
    (let s := State.reset
     s.keepers.none_ = false ∧ (∃ x, s.pickSpare ((5 : BitVec 12).toNat / 2048) = some x) ∧
       (∃ p, (s.spareBays ((5 : BitVec 8).toNat / 128)).find? (fun p => !s.serves ((5 : BitVec 8).toNat / 128) p) = some p) ∧
       s.keepers.standbyOk = true ∧ (∀ j, (s.redirectAt j).getLsbD 31 = false) ∧ true ≠ s.keepers.active) ∧
    (tNoSpare.keepers.none_ = false ∧ tNoSpare.pickSpare ((5 : BitVec 12).toNat / 2048) = none ∧
      (∃ i p, tNoSpare.planOf 5 = some (i, p)) ∧ tNoSpare.map.badSlots = [] ∧ ∀ j, (tNoSpare.redirectAt j).getLsbD 31 = false) ∧
    (let s : State := { State.reset with keepers := { Keepers.reset with standbyOk := false } }
     s.keepers.standbyOk = false ∧ s.keepers.none_ = false) := by
  refine ⟨⟨rfl, ⟨(128, 0), by decide +kernel⟩, ⟨128, by decide +kernel⟩, rfl, fun j => ?_, by decide⟩,
    ⟨rfl, by decide +kernel, ⟨2, tPlan, by decide +kernel⟩, rfl, fun j => ?_⟩, rfl, rfl⟩
  · simp [State.redirectAt, show State.reset.map.redirectNext = [] from rfl, show State.reset.map.redirect = [] from rfl]
  · simp [State.redirectAt, show tNoSpare.map.redirectNext = [] from rfl, show tNoSpare.map.redirect = [] from rfl]

/-- A module past start-up whose context 4 stands so. -/
def tFunc (n : BitVec 3) : State :=
  { State.reset with
    start := { State.reset.start with step := 10 }
    dict := { State.reset.dict with nmt := 2, funcs := [(0, { Func.reset with state := n }), (0x1004, { Func.reset with state := n })] } }

theorem witness_FunctionStates :
    (∀ n : BitVec 3, n.toNat < 4 →
      (tFunc n).dictServed .pf = true ∧ 10 ≤ (tFunc n).start.step.toNat ∧ (tFunc n).enableRefused (.ctx 4) = false ∧
        (tFunc n).disableRefused (.ctx 4) = false ∧ ((tFunc n).func (.ctx 4)).state = n ∧ ((tFunc n).func (.link 0)).state = n ∧
        (tFunc n).hasPlan 4 = false ∧ (tFunc n).dictServed (.vf 3) = true) ∧
    (tFunc 2).disableRefused (.ctx 0) = true ∧ (tServed []).start.step.toNat < 10 ∧
    (let s : State := { tFunc 3 with plans := [(2, { tPlan with ctx := 4 })] }
     (s.func (.ctx 4)).state = 3 ∧ s.hasPlan (4 : BitVec 12).toNat = true) ∧
    (∀ b : Bool, let u : State := { State.reset with
       seg := { SegUnit.reset with table := [(4 * 16, tDesc 0 0x100)] }
       dict := { State.reset.dict with funcs := [(0x1004, { Func.reset with state := 3, scrub := true })] } }
     let s := if b then tRich u else u
     (s.func (.ctx 4)).state = 3 ∧ (s.func (.ctx 4)).scrub = true ∧ s.hasPlan 4 = false ∧ (s.scrubAsk 4).1 = b) ∧
    (let s : State := { tFunc 0 with hbm := [(1, { Stack.reset with excluded := true })] }
     s.enableRefused (.stack 1) = true) := by
  decide +kernel

/-- A keeper that talks on CAN, with entries of its dictionary written. -/
def tCan (n : BitVec 2) (v : Tab (Option (List Byte))) : State :=
  { State.reset with
    dict := { State.reset.dict with nmt := n, nodeId := 5, vals := v }
    sec := { State.reset.sec with imageA := { bytes := [], status := 1 } } }

/-- Entries that send tick 0x3000/2 in TPDO 1, under a COB-ID. -/
def tTpdo (cob : Nat) : Tab (Option (List Byte)) :=
  [(0x1800 * 256 + 1, some (natToBytes 4 cob)), (0x1800 * 256 + 2, some [0xFF]), (0x1A00 * 256, some [1]),
    (0x1A00 * 256 + 1, some (natToBytes 4 (0x3000 * 65536 + 2 * 256 + 64)))]

theorem witness_CanServices :
    (∀ n : BitVec 2, n = 1 ∨ n = 2 →
      let s := tCan n []
      s.keepers.none_ = false ∧ s.dict.busOff = false ∧ s.dict.nodeId ≠ 0 ∧ (s.dict.nmt = 1 ∨ s.dict.nmt = 2) ∧
        bytesToNat (s.entryVal 0x1017 0 (natToBytes 2 100)) ≠ 0 ∧ s.sec.recovery = false ∧ s.dict.transfers = [] ∧
        s.dict.usdo = none ∧ s.dict.emcy = [] ∧ (s.image (decide ((1 : BitVec 8) = 2))).status = 1) ∧
    bytesToNat ((tCan 2 [(0x1017 * 256, some [0, 0])]).entryVal 0x1017 0 (natToBytes 2 100)) = 0 ∧
    State.reset.dict.nodeId = 0 ∧
    (∃ e, { (tCan 2 []).dict with emcy := [(0xFF01, 0, none)] }.emcy = e :: []) ∧
    (∀ c, c = 0x185 ∨ c = 0x80000185 →
      let s := tCan 2 (tTpdo c)
      Tab.get none s.dict.vals ((0x17FF + 1) * 256 + 1) = some (natToBytes 4 c) ∧ s.entryVal (0x17FF + 1) 2 [0xFE] = [0xFF] ∧
        s.entryVal (0x19FF + 1) 0 [0] = [1] ∧
        s.entryVal (0x19FF + 1) 1 (natToBytes 4 0) = natToBytes 4 (0x3000 * 65536 + 2 * 256 + 64) ∧
        (bytesToNat (natToBytes 4 c) < 2 ^ 31 ↔ c = 0x185) ∧ bytesToNat (natToBytes 4 c) < 2 ^ 32) ∧
    (let u : Usdo := { index := 0x1F50, sub := 1, size := 60, bytes := List.replicate 50 0 }
     u.bytes.length + (List.replicate 10 (0 : Byte)).length = u.size ∧ u.bytes.length + 0 ≠ u.size ∧ u.size ≤ 16777216) := by
  refine ⟨?_, by decide +kernel, by decide, ⟨_, rfl⟩, ?_, by decide⟩
  · rintro n (rfl | rfl) <;> decide +kernel
  · rintro c (rfl | rfl) <;> decide +kernel

/-- A dictionary window of function `f` set up by software. -/
def tWin (f : Nat) (idx : BitVec 16) (sub : BitVec 8) (write : Bool) (len : BitVec 32) (buf : List Byte) : State :=
  { State.reset with
    dict := { State.reset.dict with
      nmt := 1
      windows := [(f, { DictWin.reset with index := idx, sub := sub, write := write, length := len
                                           buf := (upto buf.length).zip buf })] } }

theorem witness_Dictionary :
    (∀ src, src = .pf ∨ src = .can ∨ src = .vf 3 →
      let s := tCan 1 [(0x1017 * 256, some [5, 0])]
      s.dictServed src = true ∧ s.sec.recovery = false ∧ s.dict.transfers = [] ∧ s.dict.usdo = none ∧
        Tab.get none s.dict.vals (0x1017 * 256) = some [5, 0] ∧ s.dict.trims = [] ∧ s.dict.trimsNext = [] ∧
        Tab.wf none s.dict.vals = true ∧ (s.image false).status ≠ 2 ∧ false = s.sec.runImage ∧
        s.selVal src 0x2240 1 (natToBytes 8 0) = natToBytes 8 0 ∧ s.selVal src 0x2240 2 (natToBytes 2 1) = natToBytes 2 1 ∧
        s.present 0 1 = true ∧ s.lost = []) ∧
    (let t : Tab Int := [(0x212001, -3)]
     0x210000 ≤ 0x212001 ∧ 0x212001 < 0x220000 ∧ Tab.get 0 t 0x212001 = -3 ∧ Tab.wf 0 t = true) ∧
    (let s : State := { State.reset with sec := { State.reset.sec with imageB := { bytes := [], status := 0 } } }
     (s.image true).status ≠ 2 ∧ true ≠ s.sec.runImage ∧ (false = s.sec.runImage ∧ (s.image true).status = 0)) ∧
    (let s : State := { State.reset with sec := { State.reset.sec with imageA := { bytes := [], status := 2 } } }
     (s.image false).status = 2) ∧
    (∀ b : Bool, let s := if b then tRich (tCan 1 []) else tCan 1 []
     (s.peekAsk .pf).1 = b) ∧
    (∃ r, dictFind 0x3000 2 = .row r) ∧ dictFind 0x2FFF 0 = .noIndex ∧ dictFind 0x3000 0xFE = .noSub ∧
    (∀ x ∈ [(0, (0x3000 : BitVec 16), (2 : BitVec 8)), (3, 0x2FFF, 0), (3, 0x3000, 0xFE)],
      let s := tWin x.1 x.2.1 x.2.2 false 8 []
      let w := s.win x.1
      s.dictServed (windowSrc (BitVec.ofNat 6 x.1)) = true ∧ s.sec.recovery = false ∧ s.dict.transfers = [] ∧ s.dict.usdo = none ∧
        w.write = false ∧ w.index = x.2.1 ∧ w.sub = x.2.2 ∧ w.offset = 0 ∧ 8 ≤ w.length.toNat) ∧
    (∀ x ∈ [(0, (0x4400 : BitVec 16), (1 : BitVec 8), (4 : BitVec 32), 500), (0, 0x4400, 1, 4, 2 ^ 20), (0, 0x4400, 1, 2, 500),
        (3, 0x4400, 1, 4, 500), (3, 0x3000, 2, 4, 500)],
      let w := (tWin x.1 x.2.1 x.2.2.1 true x.2.2.2.1 (natToBytes 4 x.2.2.2.2)).win x.1
      w.write = true ∧ w.index = x.2.1 ∧ w.sub = x.2.2.1 ∧ w.length = x.2.2.2.1 ∧ w.offset = 0 ∧
        ∀ j, j < 4 → Tab.get 0 w.buf j = BitVec.ofNat 8 (x.2.2.2.2 / 256 ^ j)) := by
  refine ⟨?_, by decide, by decide +kernel, by decide +kernel, by decide +kernel, ⟨_, rfl⟩, rfl, rfl, by decide +kernel, by decide +kernel⟩
  rintro src (rfl | rfl | rfl) <;> decide +kernel

/-- An item of start-up. -/
def tStep (kind : BitVec 8) (item : BitVec 16) (ok stuck : Bool) : ItemOutcome :=
  { kind := kind, item := item, ok := ok, noPeer := false, stuck := stuck, code := 0, time := 0 }

/-- What a start finds. -/
def tStart (w e : Bool) (items : List ItemOutcome) : StartOutcome :=
  { bad12 := none, keeperW := w, keeperE := e, fuseOk := true, items := items, links := [], nodeId := 5, rate0 := true
    rate1 := false, ms := 900 }

theorem witness_StartsOfTheModule :
    (let s := State.reset
     s.power.on = true ∧ s.start.step = 0 ∧ s.start.fails = [] ∧ s.start.bayMiss = [] ∧ s.hbm = [] ∧ s.start.clear = 0 ∧
       s.start.run = none ∧ s.power.tries = 0) ∧
    { State.reset.power with on := false, tries := 1 }.tries ≠ 0 ∧
    { tStart true true [] with bad12 := some (true, 3) }.bad12 = some (true, 3) ∧
    ((tStart false false []).keeperW = false ∧ (tStart false false []).keeperE = false) ∧
    (let o := tStart true true [tStep 1 0 true false, tStep 1 1 true false]
     o.bad12 = none ∧ (o.keeperW = true ∨ o.keeperE = true) ∧ o.fuseOk = true ∧ (∀ x ∈ o.items, x.ok = true ∧ x.stuck = false) ∧
       ∀ b : BitVec 16, b.toNat < 2 → ∃ x, o.items.find? (fun i => decide (i.kind.toNat = 1 ∧ i.item.toNat = b.toNat)) = some x ∧
         x.ok = true) ∧
    (let o := tStart true true [tStep 1 0 false false, tStep 1 1 false false]
     (∀ x ∈ o.items, x.stuck = false) ∧
       ∀ b : Bool, ∃ x, o.items.find? (fun i => decide (i.kind.toNat = 1 ∧ i.item.toNat = b2n b)) = some x ∧ x.ok = false) ∧
    (let o := tStart true true [tStep 1 0 false true]
     o.bad12 = none ∧ o.keeperW = true ∧ ∃ x ∈ o.items, x.stuck = true ∧ x.kind = 1) ∧
    (let o := tStart true true [tStep 5 0x103 false true]
     let s : State := { State.reset with start := { State.reset.start with step := 8, run := some o } }
     s.start.run = some o ∧ s.start.step = 8 ∧ s.map.fuseBad = [] ∧ s.power.on = true ∧
       ∃ x ∈ o.items, x.stuck = true ∧ x.kind = 5 ∧ x.item.toNat / 256 < 2 ∧ x.item.toNat % 256 < 132 ∧
         o.items.find? (fun i => decide (i.kind.toNat = 5 ∧ i.item.toNat = x.item.toNat)) = some x) := by
  refine ⟨by decide +kernel, by decide, rfl, by decide, ⟨rfl, by decide, rfl, by decide, ?_⟩, ⟨by decide, ?_⟩, by decide,
    rfl, rfl, rfl, rfl, _, .head _, by decide, by decide, by decide, by decide, rfl⟩
  · intro b h
    obtain rfl | rfl : b = 0 ∨ b = 1 := by bv_omega
    · exact ⟨_, rfl, rfl⟩
    · exact ⟨_, rfl, rfl⟩
  · rintro (_ | _)
    · exact ⟨_, rfl, rfl⟩
    · exact ⟨_, rfl, rfl⟩

/-- A running module with one zone at a level, with failed sensors. -/
def tZone (z : Nat) (l : BitVec 2) (failed : List Nat) : State :=
  { State.reset with power := { State.reset.power with zones := [(z, { temp := 0, level := l, failed := failed })] } }

theorem witness_PowerSequencer :
    (State.reset.power.on = true ∧ { State.reset.power with on := false }.on = false ∧ State.reset.power.shutCause ≠ 1 ∧
      { State.reset.power with shutCause := 1 }.shutCause = 1 ∧ (3 : BitVec 4).toNat < 9) ∧
    (let s := tZone 3 3 []
     s.moduleLevel = 3 ∧ s.power.on = true ∧ (s.zone 3).level = 3 ∧ ∀ y, y < 3 → (s.zone y).level ≠ 3) ∧
    (let s := tZone 14 3 []
     s.moduleLevel = 3 ∧ ∀ y, y < 14 → (s.zone y).level ≠ 3) ∧
    State.reset.moduleLevel ≠ 3 ∧
    (let p := { State.reset.power with autoRestart := true, shutCause := 4 }
     p.autoRestart = true ∧ p.shutCause = 4) ∧ State.reset.power.autoRestart = false ∧
    ((14 : BitVec 4).toNat < 15 ∧ (1 : BitVec 4).toNat < zoneSensors 13 ∧ (1 : BitVec 4).toNat ∉ ((tZone 13 0 [0]).zone 13).failed ∧
      (0 : BitVec 4).toNat ∈ ((tZone 13 0 [0]).zone 13).failed ∧
      (∀ j, j < zoneSensors 13 → j ∈ ((tZone 13 0 [0, 1]).zone 13).failed) ∧
      ∃ j, j < zoneSensors 13 ∧ j ∉ ((tZone 13 0 [0]).zone 13).failed) := by
  refine ⟨by decide, by decide +kernel, by decide +kernel, by decide +kernel, by decide, by decide,
    by decide, by decide +kernel, by decide +kernel, by decide +kernel, by decide +kernel, 1, by decide +kernel⟩

/-! ## The whole machine -/

/-- A module with a blown fuse and a command that waits. -/
def tBlown : State :=
  { State.reset with
    pending := [.heartbeat], sec := { State.reset.sec with fuse := [(0x60, 1)] } }

theorem witness_steps :
    (∃ t, Sys2Proof.Machine.step tBlown = .next t) ∧ tBlown.memWf = true ∧ (Tab.get 0 tBlown.sec.fuse 0x60).getLsbD 0 = true ∧
    ∃ t, Sys2Proof.Machine.exec .heartbeat State.reset = .next t := by
  refine ⟨⟨_, rfl⟩, by decide +kernel, by decide +kernel, _, rfl⟩

end Sys2Proof.Tests
end

section
/-!
Forms that move entries of both stacks: one rule for a body that pops, pushes at most one return entry and then pushes
data entries, and the completion of any form whose body has such an effect. O3 (the stack instructions and literals)
follows from it form by form.
-/

namespace Sys2Proof.Machine

/-! ### The stacks along a chain -/

/-- A bank after its top `n` return entries have left. -/
def State.poppedRetBank (s : State) (c : BitVec 12) (n : Nat) : Bank :=
  let b := s.retOf c
  { b with
    r := { b.r with ptr := b.r.ptr - BitVec.ofNat 15 (n - b.rres.length) }
    rres := (b.rres ++ (upto (n - b.rres.length)).map fun i => s.slot c (b.r.ptr.toNat - 1 - i)).drop n }

theorem poppedRetBank_length (s : State) (c : BitVec 12) (n : Nat) :
    (s.poppedRetBank c n).rres.length = max (s.retOf c).rres.length n - n := by
  simp only [State.poppedRetBank, upto, List.length_drop, List.length_append, List.length_map, List.length_range]
  omega

theorem PopsD.dataOf_eq {s t : State} {c : BitVec 12} {n : Nat} (h : PopsD c n s t) :
    (t.carrel c).dataBank = (s.carrel c).dataBank ∧ t.dataOf c = s.poppedBank c n := by
  have hb : (t.carrel c).dataBank = (s.carrel c).dataBank := by rw [h.carrel, Carrel.withD_dataBank]
  refine ⟨hb, ?_⟩
  unfold State.dataOf
  rw [hb, h.carrel, Carrel.bank_withD, if_pos rfl]
  rfl

theorem PopsR.retOf_eq {s t : State} {c : BitVec 12} {n : Nat} (h : PopsR c n s t) :
    (t.carrel c).retBank = (s.carrel c).retBank ∧ t.retOf c = s.poppedRetBank c n := by
  have hb : (t.carrel c).retBank = (s.carrel c).retBank := by rw [h.carrel, Carrel.withR_retBank]
  refine ⟨hb, ?_⟩
  unfold State.retOf
  rw [hb, h.carrel, Carrel.bank_withR, if_pos rfl]
  rfl

/-- Popping data entries leaves the return stack in use alone. -/
theorem PopsD.retOf_kept {s t : State} {c : BitVec 12} {n : Nat} (h : PopsD c n s t) :
    (t.carrel c).retBank = (s.carrel c).retBank ∧ (t.retOf c).r = (s.retOf c).r ∧
      (t.retOf c).rres = (s.retOf c).rres := by
  have hb : (t.carrel c).retBank = (s.carrel c).retBank := by rw [h.carrel, Carrel.withD_retBank]
  refine ⟨hb, ?_⟩
  unfold State.retOf
  rw [hb, h.carrel, Carrel.bank_withD]
  split
  · next e => rw [e]; exact ⟨rfl, rfl⟩
  · exact ⟨rfl, rfl⟩

/-- Replacing a return stack leaves the data stack in use alone. -/
theorem dataOf_kept_of_withR {s t : State} {c : BitVec 12} {id : BankId} {p : BitVec 15} {l : List Word}
    (h : t.carrel c = (s.carrel c).withR id p l) :
    (t.carrel c).dataBank = (s.carrel c).dataBank ∧ (t.dataOf c).d = (s.dataOf c).d ∧
      (t.dataOf c).dres = (s.dataOf c).dres := by
  have hb : (t.carrel c).dataBank = (s.carrel c).dataBank := by rw [h, Carrel.withR_dataBank]
  refine ⟨hb, ?_⟩
  unfold State.dataOf
  rw [hb, h, Carrel.bank_withR]
  split
  · next e => rw [e]; exact ⟨rfl, rfl⟩
  · exact ⟨rfl, rfl⟩

/-! ### Bodies that fit -/

section
variable {s s1 s2 s3 : State} {c : BitVec 12} {u : StackUse}

/-- The data entries that a form fills before it pops are there to fill. -/
theorem fits_data_fills (hf : Fits s c u) : u.dPop - (s.dataOf c).dres.length ≤ (s.dataOf c).d.ptr.toNat := by
  obtain ⟨hneed, _⟩ := fits_data hf
  exact data_fills fun _ => by omega

/-- The return entries that a form fills before it pops are there to fill. -/
theorem fits_ret_fills (hf : Fits s c u) : u.rPop - (s.retOf c).rres.length ≤ (s.retOf c).r.ptr.toNat := by
  obtain ⟨hneed, _⟩ := fits_ret hf
  exact ret_fills fun _ => by omega

/-- After the pops of a form that fits, the one return entry it pushes has room. -/
theorem pushR_after_pops (hf : Fits s c u) (h1 : PopsD c u.dPop s s1) (h2 : PopsR c u.rPop s1 s2)
    (hp : u.rPush = 1) (x : Word) : PushedR c (s.carrel c).retBank [x] s2 (s2.pushR c x) := by
  obtain ⟨hb1, hr1, hl1⟩ := h1.retOf_kept
  obtain ⟨hb2, hbank⟩ := h2.retOf_eq
  obtain ⟨_, hroom⟩ := fits_ret hf
  have hptr : (s2.retOf c).r.ptr.toNat = (s.retOf c).r.ptr.toNat - (u.rPop - (s.retOf c).rres.length) := by
    rw [hbank, State.poppedRetBank, hr1, hl1]
    exact ptr_sub_toNat _ _ (fits_ret_fills hf)
  have hlen : (s2.retOf c).rres.length = max (s.retOf c).rres.length u.rPop - u.rPop := by
    rw [hbank, poppedRetBank_length, hl1]
  rw [hp, ← hlen, ← hptr] at hroom
  rw [← hb1, ← hb2]
  exact State.pushR_pushed s2 c x hroom

/-- The whole effect of a body that fits: data entries leave, return entries leave, at most one return entry comes,
data entries come. -/
theorem moves_of_fits {dOut rOut : List Word} (hf : Fits s c u) (h1 : PopsD c u.dPop s s1)
    (h2 : PopsR c u.rPop s1 s2) (h3 : PushedR c (s.carrel c).retBank rOut s2 s3) (hd : dOut.length = u.dPush) :
    Moves c (s.carrel c) u.dPop dOut u.rPop rOut s (s3.pushDs c dOut.reverse) := by
  obtain ⟨hb1, hbank⟩ := h1.dataOf_eq
  obtain ⟨hb2, hp2, hl2⟩ := dataOf_kept_of_withR h2.carrel
  obtain ⟨_, _, hc3, _⟩ := h3.bank
  obtain ⟨hb3, hp3, hl3⟩ := dataOf_kept_of_withR hc3
  obtain ⟨_, hroom⟩ := fits_data hf
  have hptr : (s3.dataOf c).d.ptr.toNat = (s.dataOf c).d.ptr.toNat - (u.dPop - (s.dataOf c).dres.length) := by
    rw [hp3, hp2, hbank]
    exact ptr_sub_toNat _ _ (fits_data_fills hf)
  have hlen : (s3.dataOf c).dres.length = max (s.dataOf c).dres.length u.dPop - u.dPop := by
    rw [hl3, hl2, hbank, poppedBank_length]
  rw [← hlen, ← hptr, ← hd, ← List.length_reverse (as := dOut)] at hroom
  have hpush := State.pushDs_pushed c dOut.reverse s3 hroom
  rw [List.reverse_reverse, hb3, hb2, hb1] at hpush
  exact moves_chain h1 h2 h3 hpush (fits_data_fills hf) (fits_ret_fills hf) fun _ h => by subst h; rfl

end

theorem State.pushDs_one (s : State) (c : BitVec 12) (x : Word) : s.pushDs c [x] = s.pushD c x := rfl

/-- The entry that a pop of one return entry answers is the one read where it lies. -/
theorem State.ent_popR_one (s : State) (c : BitVec 12) : ent (s.popR c 1).1 0 = s.peekR c 0 := by
  unfold ent State.popR State.takeN State.peekR
  simp only
  rw [State.peek_eq, List.getD_eq_getElem?_getD, takeN_getElem _ _ _ _ _ Nat.zero_lt_one]
  rfl

/-- The entry that a pop of one data entry answers. -/
theorem State.ent_popD_one (s : State) (c : BitVec 12) : ent (s.popD c 1).1 0 = s.peekD c 0 :=
  State.ent_popD s c 1 0 Nat.zero_lt_one

/-- A form runs as its body does: where the body, on stacks that fit, completes with an effect on the stacks, the form
retires with it. -/
theorem runs_of {mk : BitVec 12 → Instr} {len : Nat} {u : StackUse} {dOut rOut : BitVec 12 → State → List Word}
    (body : BitVec 12 → State → State)
    (hexec : ∀ c s, Sys2Proof.Machine.exec (mk c) s = runInstr c len (withStacks c u fun s => .done (body c s)) s)
    (hbody : ∀ c s, Fits s c u →
      Moves c (s.carrel c) u.dPop (dOut c s) u.rPop (rOut c s) s (body c s)) :
    Runs mk len u (fun c s => (s.carrel c).after len) dOut rOut := by
  intro c s hr hf _
  rw [hexec, runInstr_ready _ hr, withStacks_fits _ hf]
  exact ⟨_, rfl, (hbody c s hf).retire len⟩

/-- A form that pops nothing and pushes one data entry. -/
theorem pushForm_of {mk : BitVec 12 → Instr} {len need : Nat} {f : (Nat → Word) → Word} (x : BitVec 12 → State → Word)
    (hexec : ∀ c s, Sys2Proof.Machine.exec (mk c) s =
      runInstr c len (withStacks c { dNeed := need, dPush := 1 } fun s => .done (s.pushD c (x c s))) s)
    (hx : ∀ c s, x c s = f (s.peekD c)) : DataForm mk len need 0 1 fun e => [f e] := by
  refine runs_of (fun c s => s.pushD c (x c s)) hexec fun c s hf => ?_
  rw [hx, ← State.pushDs_one]
  exact moves_of_fits hf (PopsD.refl c s) (PopsR.refl c s) (PushedR.refl c _ s) rfl

/-! ### O3: the stack instructions -/

/-- The stack effects of R92 and R103 on the data stack alone. -/
theorem dataStackForms :
    DataForm .dup 2 0 1 2 (fun e => [e 0, e 0]) ∧
    DataForm .drop 2 0 1 0 (fun _ => []) ∧
    DataForm .swap 2 0 2 2 (fun e => [e 1, e 0]) ∧
    DataForm .overTop 2 0 2 3 (fun e => [e 1, e 0, e 1]) ∧
    DataForm .rot 2 0 3 3 (fun e => [e 2, e 0, e 1]) ∧
    DataForm .nip 2 0 2 1 (fun e => [e 0]) ∧
    (∀ n : BitVec 4, DataForm (.pick · n) 2 (n.toNat + 1) 0 1 (fun e => [e n.toNat])) := by
  refine ⟨?dup, ?drop, ?swap, ?overTop, ?rot, ?nip, ?pick⟩
  case dup =>
    exact dataForm_of (fun l => [ent l 0, ent l 0]) (fun _ _ => rfl) (fun _ => rfl) fun s c => by simp [ent_tops]
  case drop => exact dataForm_of (fun _ => []) (fun _ _ => rfl) (fun _ => rfl) fun _ _ => rfl
  case swap =>
    exact dataForm_of (fun l => [ent l 0, ent l 1]) (fun _ _ => rfl) (fun _ => rfl) fun s c => by simp [ent_tops]
  case overTop =>
    exact dataForm_of (fun l => [ent l 1, ent l 0, ent l 1]) (fun _ _ => rfl) (fun _ => rfl)
      fun s c => by simp [ent_tops]
  case rot =>
    exact dataForm_of (fun l => [ent l 1, ent l 0, ent l 2]) (fun _ _ => rfl) (fun _ => rfl)
      fun s c => by simp [ent_tops]
  case nip => exact dataForm_of (fun l => [ent l 0]) (fun _ _ => rfl) (fun _ => rfl) fun s c => by simp [ent_tops]
  case pick => exact fun n => pushForm_of (fun c s => s.peekD c n.toNat) (fun _ _ => rfl) fun _ _ => rfl

/-- The pair forms of R103, whose element type plays no part. -/
theorem pairStackForms (t : BitVec 3) :
    DataForm (.pDup · t) 2 0 2 4 (fun e => [e 0, e 1, e 0, e 1]) ∧
    DataForm (.pDrop · t) 2 0 2 0 (fun _ => []) ∧
    DataForm (.pSwap · t) 2 0 4 4 (fun e => [e 2, e 3, e 0, e 1]) := by
  refine ⟨?pDup, ?pDrop, ?pSwap⟩
  case pDup =>
    exact dataForm_of (fun l => [ent l 1, ent l 0, ent l 1, ent l 0]) (fun _ _ => rfl) (fun _ => rfl)
      fun s c => by simp [ent_tops]
  case pDrop => exact dataForm_of (fun _ => []) (fun _ _ => rfl) (fun _ => rfl) fun _ _ => rfl
  case pSwap =>
    exact dataForm_of (fun l => [ent l 1, ent l 0, ent l 3, ent l 2]) (fun _ _ => rfl) (fun _ => rfl)
      fun s c => by simp [ent_tops]

/-- PUSHR: the top data entry goes to the return stack. -/
theorem pushr_runs :
    Runs .pushr 2 { dPop := 1, rPush := 1 } (fun c s => (s.carrel c).after 2) (fun _ _ => [])
      (fun c s => [s.peekD c 0]) := by
  refine runs_of (fun c s => (s.popD c 1).2.pushR c (ent (s.popD c 1).1 0)) (fun _ _ => rfl) fun c s hf => ?_
  have hpop := State.popD_pops s c 1
  rw [State.ent_popD_one]
  exact moves_of_fits hf hpop (PopsR.refl c _) (pushR_after_pops hf hpop (PopsR.refl c _) rfl _) rfl

/-- POPR: the top return entry goes to the data stack. -/
theorem popr_runs :
    Runs .popr 2 { dPush := 1, rPop := 1 } (fun c s => (s.carrel c).after 2) (fun c s => [s.peekR c 0])
      (fun _ _ => []) := by
  refine runs_of (fun c s => (s.popR c 1).2.pushD c (ent (s.popR c 1).1 0)) (fun _ _ => rfl) fun c s hf => ?_
  rw [State.ent_popR_one, ← State.pushDs_one]
  exact moves_of_fits hf (PopsD.refl c s) (State.popR_pops s c 1) (PushedR.refl c _ _) rfl

/-- RCOPY: the return stack keeps the entry that the data stack gains. -/
theorem rcopy_runs :
    Runs .rcopy 2 { dPush := 1, rPop := 1, rPush := 1 } (fun c s => (s.carrel c).after 2) (fun c s => [s.peekR c 0])
      (fun c s => [s.peekR c 0]) := by
  refine runs_of (fun c s => ((s.popR c 1).2.pushR c (ent (s.popR c 1).1 0)).pushD c (ent (s.popR c 1).1 0))
    (fun _ _ => rfl) fun c s hf => ?_
  have hpop := State.popR_pops s c 1
  rw [State.ent_popR_one, ← State.pushDs_one]
  exact moves_of_fits hf (PopsD.refl c s) hpop (pushR_after_pops hf (PopsD.refl c s) hpop rfl _) rfl

/-- LITX on numbers: the entry's low 39 bits move up by 25 and the literal fills the bits below them. -/
theorem shiftLeft_or_literal (a : Word) (v : BitVec 25) :
    (a <<< 25) ||| v.setWidth 64 = BitVec.ofNat 64 (a.toNat % 2 ^ 39 * 2 ^ 25 + v.toNat) := by
  have hv := v.isLt
  apply BitVec.eq_of_toNat_eq
  calc ((a <<< 25) ||| v.setWidth 64).toNat
      = (a.toNat % 2 ^ 39) <<< 25 ||| v.toNat := by
        rw [BitVec.toNat_or, BitVec.toNat_shiftLeft, BitVec.toNat_setWidth, Nat.shiftLeft_eq, Nat.shiftLeft_eq,
          Nat.mod_eq_of_lt (a := v.toNat) (by omega), show (2 : Nat) ^ 64 = 2 ^ 39 * 2 ^ 25 by norm_num,
          Nat.mul_mod_mul_right]
    _ = a.toNat % 2 ^ 39 * 2 ^ 25 + v.toNat := by rw [← Nat.shiftLeft_add_eq_or_of_lt hv, Nat.shiftLeft_eq]
    _ = (BitVec.ofNat 64 (a.toNat % 2 ^ 39 * 2 ^ 25 + v.toNat)).toNat := by
        rw [BitVec.toNat_ofNat, Nat.mod_eq_of_lt (a := _ + _) (by omega)]

/-- LITX: the top entry is replaced (R97). -/
theorem litx_form (v : BitVec 25) : DataForm (.litx · v) 4 0 1 1
    (fun e => [BitVec.ofNat 64 ((e 0).toNat % 2 ^ 39 * 2 ^ 25 + v.toNat)]) := by
  refine runs_of (fun c s => (s.popD c 1).2.pushD c ((ent (s.popD c 1).1 0 <<< 25) ||| v.setWidth 64))
    (fun _ _ => rfl) fun c s hf => ?_
  rw [State.ent_popD_one, shiftLeft_or_literal, ← State.pushDs_one]
  exact moves_of_fits hf (State.popD_pops s c 1) (PopsR.refl c _) (PushedR.refl c _ _) rfl

/-- Settles O3: every form is a body of pops and pushes, whose effect `moves_of_fits` gives. -/
theorem stackInstructions : Obligations.StackInstructions := by
  unfold Obligations.StackInstructions
  obtain ⟨hdup, hdrop, hswap, hover, hrot, hnip, hpick⟩ := dataStackForms
  refine ⟨⟨hdup, hdrop, hswap, hover, hrot, hnip, hpick, pairStackForms⟩, ⟨pushr_runs, popr_runs, rcopy_runs⟩,
    ?lit6, ?lit32, litx_form⟩
  case lit6 => exact fun v => pushForm_of (fun _ _ => v.signExtend 64) (fun _ _ => rfl) fun _ _ => rfl
  case lit32 => exact fun v => pushForm_of (fun _ _ => v.signExtend 64) (fun _ _ => rfl) fun _ _ => rfl

end Sys2Proof.Machine
end

section
/-!
O4: each integer operation of the model, on the numbers its operands stand for (R93, R94).
-/

namespace Sys2Proof.Machine

/-- A test leaves 1 or 0 (R93). -/
theorem flag_eq_ite {b : Bool} {p : Prop} [Decidable p] (h : b = true ↔ p) : flag b = if p then 1 else 0 := by
  cases b with
  | true => rw [if_pos (h.mp rfl)]; rfl
  | false => rw [if_neg fun hp => Bool.false_ne_true (h.mpr hp)]; rfl

theorem add_eq_ofNat (a b : Word) : a + b = BitVec.ofNat 64 (a.toNat + b.toNat) := by
  rw [BitVec.ofNat_add]; simp

theorem mul_eq_ofNat (a b : Word) : a * b = BitVec.ofNat 64 (a.toNat * b.toNat) := by
  rw [BitVec.ofNat_mul]; simp

theorem sub_eq_ofInt (a b : Word) : a - b = BitVec.ofInt 64 (a.toInt - b.toInt) :=
  BitVec.eq_of_toInt_eq (by rw [BitVec.toInt_sub, BitVec.toInt_ofInt])

theorem zero_sub_eq_ofInt (a : Word) : 0 - a = BitVec.ofInt 64 (- a.toInt) := by
  rw [sub_eq_ofInt, show (0 : Word).toInt = 0 from BitVec.toInt_zero, Int.zero_sub]

/-- An arithmetic shift is division by a power of two, rounded down. -/
theorem sshiftRight_eq_ofInt (a : Word) (n : Nat) : a.sshiftRight n = BitVec.ofInt 64 (a.toInt / 2 ^ n) := by
  rw [BitVec.sshiftRight_eq, Int.shiftRight_eq_div_pow]
  norm_cast

theorem divS_eq (a b : Word) :
    divS a b = if b = 0 then BitVec.allOnes 64 else BitVec.ofInt 64 (a.toInt.tdiv b.toInt) := by
  have h : a.sdiv b = BitVec.ofInt 64 (a.toInt.tdiv b.toInt) :=
    BitVec.eq_of_toInt_eq (by rw [BitVec.toInt_sdiv, BitVec.toInt_ofInt])
  rw [divS, h]

theorem remS_eq (a b : Word) : remS a b = if b = 0 then a else BitVec.ofInt 64 (a.toInt.tmod b.toInt) := by
  have h : a.srem b = BitVec.ofInt 64 (a.toInt.tmod b.toInt) := by rw [← BitVec.toInt_srem, BitVec.ofInt_toInt]
  rw [remS, h]

theorem divU_eq (a b : Word) :
    divU a b = if b = 0 then BitVec.allOnes 64 else BitVec.ofNat 64 (a.toNat / b.toNat) := by
  rw [divU, BitVec.udiv_def]

theorem remU_eq (a b : Word) : remU a b = if b = 0 then a else BitVec.ofNat 64 (a.toNat % b.toNat) := by
  rw [remU, BitVec.umod_def]

/-- Sums, products, bitwise operations and shifts (R93). -/
theorem arithmeticForms :
    Binary .add (fun a b => BitVec.ofNat 64 (a.toNat + b.toNat)) ∧
    Binary .sub (fun a b => BitVec.ofInt 64 (a.toInt - b.toInt)) ∧
    Binary .mul (fun a b => BitVec.ofNat 64 (a.toNat * b.toNat)) ∧
    Binary .mulh (fun a b => BitVec.ofInt 64 (a.toInt * b.toInt / 2 ^ 64)) ∧
    Binary .mulhu (fun a b => BitVec.ofNat 64 (a.toNat * b.toNat / 2 ^ 64)) ∧
    Binary .and (fun a b => a &&& b) ∧ Binary .or (fun a b => a ||| b) ∧ Binary .xor (fun a b => a ^^^ b) ∧
    Unary .not (fun a => ~~~ a) ∧ Unary .neg (fun a => BitVec.ofInt 64 (- a.toInt)) ∧
    Binary .shl (fun a n => a <<< (n.toNat % 64)) ∧ Binary .shr (fun a n => a >>> (n.toNat % 64)) ∧
    Binary .sar (fun a n => BitVec.ofInt 64 (a.toInt / 2 ^ (n.toNat % 64))) :=
  ⟨binary_of (· + ·) (fun _ _ => rfl) add_eq_ofNat,
    binary_of (· - ·) (fun _ _ => rfl) sub_eq_ofInt,
    binary_of (· * ·) (fun _ _ => rfl) mul_eq_ofNat,
    binary_of mulHi (fun _ _ => rfl) fun _ _ => rfl,
    binary_of mulHiU (fun _ _ => rfl) fun _ _ => rfl,
    binary_of (· &&& ·) (fun _ _ => rfl) fun _ _ => rfl,
    binary_of (· ||| ·) (fun _ _ => rfl) fun _ _ => rfl,
    binary_of (· ^^^ ·) (fun _ _ => rfl) fun _ _ => rfl,
    unary_of (~~~ ·) (fun _ _ => rfl) fun _ => rfl,
    unary_of (0 - ·) (fun _ _ => rfl) zero_sub_eq_ofInt,
    binary_of (fun a n => a <<< (n.toNat % 64)) (fun _ _ => rfl) fun _ _ => rfl,
    binary_of (fun a n => a >>> (n.toNat % 64)) (fun _ _ => rfl) fun _ _ => rfl,
    binary_of (fun a n => a.sshiftRight (n.toNat % 64)) (fun _ _ => rfl) fun a _ => sshiftRight_eq_ofInt a _⟩

/-- The comparisons (R93). -/
theorem comparisonForms :
    Binary .cmpeq (fun a b => if a = b then 1 else 0) ∧ Binary .cmpne (fun a b => if a = b then 0 else 1) ∧
    Binary .cmplt (fun a b => if a.toInt < b.toInt then 1 else 0) ∧
    Binary .cmple (fun a b => if a.toInt ≤ b.toInt then 1 else 0) ∧
    Binary .cmpltu (fun a b => if a.toNat < b.toNat then 1 else 0) ∧
    Binary .cmpleu (fun a b => if a.toNat ≤ b.toNat then 1 else 0) :=
  ⟨binary_of (fun a b => flag (decide (a = b))) (fun _ _ => rfl) fun _ _ => flag_eq_ite decide_eq_true_iff,
    binary_of (fun a b => flag (decide (a ≠ b))) (fun _ _ => rfl) fun a b => by
      rw [flag_eq_ite decide_eq_true_iff, ite_not],
    binary_of (fun a b => flag (a.slt b)) (fun _ _ => rfl) fun _ _ => flag_eq_ite BitVec.slt_iff_toInt_lt,
    binary_of (fun a b => flag (a.sle b)) (fun _ _ => rfl) fun _ _ => flag_eq_ite BitVec.sle_iff_toInt_le,
    binary_of (fun a b => flag (a.ult b)) (fun _ _ => rfl) fun _ _ => flag_eq_ite BitVec.ult_iff_toNat_lt,
    binary_of (fun a b => flag (a.ule b)) (fun _ _ => rfl) fun _ _ => flag_eq_ite BitVec.ule_iff_toNat_le⟩

/-- The divisions, whose edge cases raise nothing (R94). -/
theorem divisionForms :
    Binary .div (fun a b => if b = 0 then BitVec.allOnes 64 else BitVec.ofInt 64 (a.toInt.tdiv b.toInt)) ∧
    Binary .divu (fun a b => if b = 0 then BitVec.allOnes 64 else BitVec.ofNat 64 (a.toNat / b.toNat)) ∧
    Binary .rem (fun a b => if b = 0 then a else BitVec.ofInt 64 (a.toInt.tmod b.toInt)) ∧
    Binary .remu (fun a b => if b = 0 then a else BitVec.ofNat 64 (a.toNat % b.toNat)) :=
  ⟨binary_of divS (fun _ _ => rfl) divS_eq, binary_of divU (fun _ _ => rfl) divU_eq,
    binary_of remS (fun _ _ => rfl) remS_eq, binary_of remU (fun _ _ => rfl) remU_eq⟩

/-- Settles O4: each form is `binOp` or `unOp` of an operation that the lemmas above put into numbers; the most
negative number divided by −1 is a closed fact. -/
theorem integerArithmetic : Obligations.IntegerArithmetic := by
  unfold Obligations.IntegerArithmetic
  obtain ⟨hadd, hsub, hmul, hmulh, hmulhu, hand, hor, hxor, hnot, hneg, hshl, hshr, hsar⟩ := arithmeticForms
  obtain ⟨hdiv, hdivu, hrem, hremu⟩ := divisionForms
  exact ⟨⟨hadd, hsub, hmul, hmulh, hmulhu, hand, hor, hxor, hnot, hneg, hshl, hshr, hsar, comparisonForms⟩,
    hdiv, hdivu, hrem, hremu, by decide, by decide⟩

end Sys2Proof.Machine
end

section
/-!
O1, O2, O41 and O57: the queue, the write of TICK_LEN_AT, and what module reset leaves.
-/

namespace Sys2Proof.Machine

/-! ### The queue -/

/-- Settles O1: `step` matches on the queue. -/
theorem stepRunsTheFrontCommand : Obligations.StepRunsTheFrontCommand := by
  intro i rest s h
  rw [step, h]

/-- Settles O2: no row of the table gives bits, so `withFetchWord` finds no command to place. -/
theorem emptyQueueIdles : Obligations.EmptyQueueIdles := by
  refine ⟨fun s h => ?_, fun _ _ _ => ⟨rfl, rfl⟩⟩
  rw [step, h]

/-! ### The tick length -/

/-- Only a virtual function is denied a write of a device register (R419). -/
theorem isVf_eq_false {src : Src} (h : ∀ f, src ≠ .vf f) : isVf src = false := by
  cases src with
  | vf f => exact absurd rfl (h f)
  | pf | carrel | keeper | link => rfl

theorem ite_isVf {α : Type} {src : Src} (h : ∀ f, src ≠ .vf f) (a b : α) : (if isVf src then a else b) = b :=
  if_neg (by rw [isVf_eq_false h]; exact Bool.false_ne_true)

/-- What R42 and R407 ask of the change of length that a write of TICK_LEN_AT arms. -/
def State.mayArm (s : State) (b : Word) : Prop :=
  s.tick.no.toNat + 16 ≤ b.toNat ∧ 2000 ≤ s.tick.lenNext.toNat ∧ s.tick.lenNext.toNat ≤ 1000000 ∧
    s.chain.live.master = true ∧ (s.chain.up = true → s.chain.minTick.toNat ≤ s.tick.lenNext.toNat)

/-- A boundary that the rules allow is armed. -/
theorem State.lenAtWrite_arms {s : State} {b : Word} (hb : b ≠ 0) (h : s.mayArm b) :
    s.lenAtWrite b = { s with tick := { s.tick with lenAt := b, armed := some (b, s.tick.lenNext) } } := by
  obtain ⟨hahead, hlow, hhigh, hmaster, hchain⟩ := h
  unfold State.lenAtWrite
  rw [if_neg hb, if_neg]
  push Not
  exact ⟨hahead, hlow, hhigh, by simpa [State.slave] using hmaster, hchain⟩

/-- Any other boundary sets LEN_REJ. -/
theorem State.lenAtWrite_rejects {s : State} {b : Word} (hb : b ≠ 0) (h : ¬ s.mayArm b) :
    s.lenAtWrite b = { s with tick := { s.tick with lenAt := b, lenRej := true } } := by
  unfold State.lenAtWrite
  rw [if_neg hb, if_pos]
  by_contra hno
  push Not at hno
  obtain ⟨hahead, hlow, hhigh, hmaster, hchain⟩ := hno
  exact h ⟨hahead, hlow, hhigh, by simpa [State.slave] using hmaster, hchain⟩

/-- Settles O41: a write of a boundary arms or is refused, and 0 cancels what is still 16 ticks ahead. -/
theorem lengthChange : Obligations.LengthChange := by
  intro src b s
  refine ⟨fun _ => rfl, fun hsrc hb => ⟨fun h => ?arms, fun h => ?refused⟩,
    fun hsrc a n ha => ⟨fun h => ?cancels, fun h => ?late⟩⟩
  case arms => exact congrArg Host.Outcome.next ((ite_isVf hsrc _ _).trans (State.lenAtWrite_arms hb h))
  case refused => exact congrArg Host.Outcome.next ((ite_isVf hsrc _ _).trans (State.lenAtWrite_rejects hb h))
  case cancels =>
    refine congrArg Host.Outcome.next ((ite_isVf hsrc _ _).trans ?_)
    simp [State.lenAtWrite, ha, h]
  case late =>
    refine congrArg Host.Outcome.next ((ite_isVf hsrc _ _).trans ?_)
    simp [State.lenAtWrite, ha, Nat.not_le.mpr h]

/-! ### Module reset -/

/-- A route register that is not listed holds all ones, and 15 is no link. -/
theorem reset_route (n : BitVec 12) : State.reset.route n = none := by
  have hlink : ∀ i < 16, ¬ fieldN routeReset (4 * i) 4 < 12 := by decide
  exact if_neg (hlink _ (Nat.mod_lt _ (by decide)))

/-- Settles O57. -/
theorem resetValues : Obligations.ResetValues :=
  ⟨rfl, rfl, rfl, rfl, rfl, rfl, rfl, rfl, rfl, rfl, rfl, rfl, rfl, rfl, rfl, fun fn => by cases fn <;> rfl,
    fun _ => ⟨rfl, rfl, rfl, rfl, rfl⟩, fun _ => ⟨rfl, rfl⟩, reset_route⟩

end Sys2Proof.Machine
end

section
/-!
O5: the scalar FP64 instructions, each its operation on the numbers that its operands encode, and what a NaN operand
makes of it (R95, R188, R208).
-/

namespace Sys2Proof.Machine

/-! ### Forms that report the NaN they produce -/

/-- A form whose meaning is `fpOp`. -/
theorem fpForm_of {mk : BitVec 12 → Instr} {pop : Nat} (f : List Word → FRes) {g : (Nat → Word) → FRes}
    (h : ∀ c s, Sys2Proof.Machine.exec (mk c) s = fpOp c pop f s)
    (hg : ∀ (s : State) (c : BitVec 12), f (s.tops c pop) = g (s.peekD c)) :
    FloatForm mk pop 1 (fun e => ([word (g e).1], (g e).2)) :=
  floatForm_of (fun l => ([word (f l).1], (f l).2)) h (fun _ => rfl) fun s c => by rw [hg]; exact ⟨rfl, rfl⟩

/-- The forms of two operands. -/
theorem fpBinary_of {mk : BitVec 12 → Instr} (f : Nat → Nat → FRes)
    (h : ∀ c s, Sys2Proof.Machine.exec (mk c) s = fpOp c 2 (fun l => f (entN l 1) (entN l 0)) s) :
    FloatForm mk 2 1 (fun e => ([word (f (e 1).toNat (e 0).toNat).1], (f (e 1).toNat (e 0).toNat).2)) :=
  fpForm_of _ (g := fun e => f (e 1).toNat (e 0).toNat) h fun s c => by simp [entN, ent_tops]

/-- The form of three operands. -/
theorem fpTernary_of {mk : BitVec 12 → Instr} (f : Nat → Nat → Nat → FRes)
    (h : ∀ c s, Sys2Proof.Machine.exec (mk c) s = fpOp c 3 (fun l => f (entN l 2) (entN l 1) (entN l 0)) s) :
    FloatForm mk 3 1 (fun e => ([word (f (e 2).toNat (e 1).toNat (e 0).toNat).1],
      (f (e 2).toNat (e 1).toNat (e 0).toNat).2)) :=
  fpForm_of _ (g := fun e => f (e 2).toNat (e 1).toNat (e 0).toNat) h fun s c => by simp [entN, ent_tops]

/-- The form of one operand. -/
theorem fpUnary_of {mk : BitVec 12 → Instr} (f : Nat → FRes)
    (h : ∀ c s, Sys2Proof.Machine.exec (mk c) s = fpOp c 1 (fun l => f (entN l 0)) s) :
    FloatForm mk 1 1 (fun e => ([word (f (e 0).toNat).1], (f (e 0).toNat).2)) :=
  fpForm_of _ (g := fun e => f (e 0).toNat) h fun s c => by simp [entN, ent_tops]

theorem floatArithmetic :
    let num (x : Word) : Num := Fmt.f64.decode x.toNat
    let rnd (v : Val) : Word := word (Fmt.f64.rne v)
    FloatForm .fadd 2 1 (fun e => ([rnd ((num (e 1)).add (num (e 0))).toVal], addCause (num (e 1)) (num (e 0)))) ∧
    FloatForm .fsub 2 1 (fun e =>
      ([rnd ((num (e 1)).add (num (e 0)).negate).toVal], addCause (num (e 1)) (num (e 0)).negate)) ∧
    FloatForm .fmul 2 1 (fun e => ([rnd ((num (e 1)).mul (num (e 0))).toVal], mulCause (num (e 1)) (num (e 0)))) ∧
    FloatForm .ffma 3 1 (fun e =>
      ([rnd (((num (e 2)).mul (num (e 1))).add (num (e 0))).toVal],
        (mulCause (num (e 2)) (num (e 1))).or (addCause ((num (e 2)).mul (num (e 1))) (num (e 0))))) ∧
    FloatForm .fdiv 2 1 (fun e => ([rnd ((num (e 1)).div (num (e 0))).1], ((num (e 1)).div (num (e 0))).2)) ∧
    FloatForm .fsqrt 1 1 (fun e => ([rnd (num (e 0)).sqrt.1], (num (e 0)).sqrt.2)) := by
  refine ⟨?fadd, ?fsub, ?fmul, ?ffma, ?fdiv, ?fsqrt⟩
  case fadd => exact fpBinary_of Fmt.f64.addOp fun _ _ => rfl
  case fsub => exact fpBinary_of Fmt.f64.subOp fun _ _ => rfl
  case fmul => exact fpBinary_of Fmt.f64.mulOp fun _ _ => rfl
  case ffma => exact fpTernary_of Fmt.f64.fmaOp fun _ _ => rfl
  case fdiv => exact fpBinary_of Fmt.f64.divOp fun _ _ => rfl
  case fsqrt => exact fpUnary_of Fmt.f64.sqrtOp fun _ _ => rfl

/-! ### NaN operands -/

theorem isNan_iff {a : Num} : a.isNan = true ↔ a = .nan := by cases a <;> simp [Num.isNan]

theorem nan_add (a : Num) : Num.add .nan a = .nan := by cases a <;> rfl
theorem add_nan (a : Num) : a.add .nan = .nan := by cases a <;> rfl
theorem nan_mul (a : Num) : Num.mul .nan a = .nan := by cases a <;> rfl
theorem mul_nan (a : Num) : a.mul .nan = .nan := by cases a <;> rfl
theorem nan_div (a : Num) : Num.div .nan a = (.nan, none) := by cases a <;> rfl
theorem div_nan (a : Num) : a.div .nan = (.nan, none) := by cases a <;> rfl
theorem addCause_nan (a : Num) : addCause a .nan = none := by cases a <;> rfl
theorem nan_addCause (a : Num) : addCause .nan a = none := by cases a <;> rfl
theorem mulCause_nan (a : Num) : mulCause a .nan = none := by cases a <;> rfl
theorem nan_mulCause (a : Num) : mulCause .nan a = none := by cases a <;> rfl

theorem rne_nan (f : Fmt) : f.rne .nan = f.nan := rfl

/-- A NaN operand gives the canonical NaN, and no operation but a product of the other two produces one of its own. -/
theorem nanOperand (f : Fmt) {x : Nat} (y z : Nat) (h : f.decode x = .nan) :
    f.addOp x y = (f.nan, none) ∧ f.addOp y x = (f.nan, none) ∧ f.subOp x y = (f.nan, none) ∧
    f.subOp y x = (f.nan, none) ∧ f.mulOp x y = (f.nan, none) ∧ f.mulOp y x = (f.nan, none) ∧
    f.divOp x y = (f.nan, none) ∧ f.divOp y x = (f.nan, none) ∧ f.sqrtOp x = (f.nan, none) ∧
    f.fmaOp x y z = (f.nan, none) ∧ (f.fmaOp y z x).1 = f.nan := by
  simp [Fmt.addOp, Fmt.subOp, Fmt.mulOp, Fmt.divOp, Fmt.sqrtOp, Fmt.fmaOp, h, Num.negate, Num.toVal, Num.sqrt, nan_add,
    add_nan, nan_mul, mul_nan, nan_div, div_nan, addCause_nan, nan_addCause, mulCause_nan, nan_mulCause, rne_nan]

/-- A form that is `unOp` of what it is said to do. -/
theorem unary_eq {mk : BitVec 12 → Instr} {f : Word → Word}
    (h : ∀ c s, Sys2Proof.Machine.exec (mk c) s = unOp c f s) : Unary mk f := unary_of f h fun _ => rfl

/-- A form that leaves the flag of a test. -/
theorem flagForm_of {mk : BitVec 12 → Instr} (p : Word → Word → Bool)
    (h : ∀ c s, Sys2Proof.Machine.exec (mk c) s = binOp c (fun a b => flag (p a b)) s) :
    Binary mk fun a b => if p a b then 1 else 0 := binary_of _ h fun _ _ => flag_eq_ite Iff.rfl

/-! ### Signs, selection, comparison and conversion -/

theorem bothNanPick_cases (x y : Nat) : bothNanPick x y = x ∨ bothNanPick x y = y := by
  unfold bothNanPick
  split
  · exact .inl rfl
  · exact .inr rfl

theorem word_minOp (a b : Word) :
    let x := Fmt.f64.decode a.toNat; let y := Fmt.f64.decode b.toNat
    word (Fmt.f64.minOp a.toNat b.toNat) =
      if x.isNan && y.isNan then word (bothNanPick a.toNat b.toNat)
      else if x.isNan then b else if y.isNan then a else if y.belowSel x then b else a := by
  simp only [Fmt.minOp, apply_ite word, word_toNat]

theorem word_maxOp (a b : Word) :
    let x := Fmt.f64.decode a.toNat; let y := Fmt.f64.decode b.toNat
    word (Fmt.f64.maxOp a.toNat b.toNat) =
      if x.isNan && y.isNan then word (bothNanPick a.toNat b.toNat)
      else if x.isNan then b else if y.isNan then a else if x.belowSel y then b else a := by
  simp only [Fmt.maxOp, apply_ite word, word_toNat]

theorem intNum_word (a : Word) : intNum 64 0 a.toNat = .fin (decide (a.toInt < 0)) a.toInt.natAbs 0 := by
  unfold intNum
  rw [BitVec.ofNat_toNat, BitVec.setWidth_eq]

/-- Settles O5: each form is its operation of exact arithmetic, rounded; the NaN cases are those of the operation. -/
theorem floatInstructions : Obligations.FloatInstructions := by
  unfold Obligations.FloatInstructions
  refine ⟨floatArithmetic, ?nan, ?fneg, ?fabs, ?fmin, ?fmax,
    bothNanPick_cases, ?fcmpeq, ?fcmplt, ?fcmple, ?i2f, ?u2f, ?f2i, ?f2u, ?d2s, ?s2d⟩
  case nan =>
    intro x y z h
    have hx : Fmt.f64.decode x.toNat = .nan := isNan_iff.mp h
    exact nanOperand Fmt.f64 y.toNat z.toNat hx
  case fneg => exact unary_eq fun _ _ => rfl
  case fabs => exact unary_eq fun _ _ => rfl
  case fmin => exact binary_of (fun a b => word (Fmt.f64.minOp a.toNat b.toNat)) (fun _ _ => rfl) word_minOp
  case fmax => exact binary_of (fun a b => word (Fmt.f64.maxOp a.toNat b.toNat)) (fun _ _ => rfl) word_maxOp
  case fcmpeq => exact flagForm_of (fun a b => (Fmt.f64.decode a.toNat).eqNum (Fmt.f64.decode b.toNat)) fun _ _ => rfl
  case fcmplt => exact flagForm_of (fun a b => (Fmt.f64.decode a.toNat).ltNum (Fmt.f64.decode b.toNat)) fun _ _ => rfl
  case fcmple => exact flagForm_of (fun a b => (Fmt.f64.decode a.toNat).leNum (Fmt.f64.decode b.toNat)) fun _ _ => rfl
  case i2f => exact unary_of (fun a => word (Fmt.f64.rne (intNum 64 0 a.toNat).toVal)) (fun _ _ => rfl) fun a => by rw [intNum_word]
  case u2f => exact unary_eq fun _ _ => rfl
  case f2i => exact unary_eq fun _ _ => rfl
  case f2u => exact unary_eq fun _ _ => rfl
  case d2s => exact unary_eq fun _ _ => rfl
  case s2d => exact unary_eq fun _ _ => rfl

end Sys2Proof.Machine
end

section
/-!
O6 and O7: control transfers, repeat prefixes, and the forms that raise ILLEGAL before anything else.
-/

namespace Sys2Proof.Machine

/-! ### Forms that set the pc -/

theorem State.goto_retired (t : State) (c : BitVec 12) (pc : Word) :
    (t.goto c pc).modCarrel c Carrel.retired = (t.modCarrel c ({ · with pc := pc })).modCarrel c Carrel.retired := rfl

/-- The effect on the stacks of a form that goes to `pc`. -/
theorem Moves.jumped {c : BitVec 12} {base : Carrel} {dPop rPop : Nat} {dOut rOut : List Word} {s t : State}
    (pc : Word) (h : Moves c base dPop dOut rPop rOut s t) :
    Moves c (base.jumped pc) dPop dOut rPop rOut s ((t.goto c pc).modCarrel c Carrel.retired) :=
  Moves.mod (f := Carrel.retired) (fun _ _ => rfl) (Moves.mod (f := fun k => { k with pc := pc }) (fun _ _ => rfl) h)

/-- A form whose body, on stacks that fit, has an effect on the stacks and then goes to a target. -/
theorem runs_went {mk : BitVec 12 → Instr} {len : Nat} {u : StackUse} {dOut rOut : BitVec 12 → State → List Word}
    {target : BitVec 12 → State → Word} (body : BitVec 12 → State → State)
    (hexec : ∀ c s, Sys2Proof.Machine.exec (mk c) s =
      runInstr c len (withStacks c u fun s => .went ((body c s).goto c (target c s))) s)
    (hbody : ∀ c s, Fits s c u → Moves c (s.carrel c) u.dPop (dOut c s) u.rPop (rOut c s) s (body c s)) :
    Runs mk len u (fun c s => (s.carrel c).jumped (target c s)) dOut rOut := by
  intro c s hr hf _
  rw [hexec, runInstr_ready _ hr, withStacks_fits _ hf]
  exact ⟨_, rfl, (hbody c s hf).jumped _⟩

/-- A jump that pops its target. -/
theorem moves_popD_one {s : State} {c : BitVec 12} (hf : Fits s c { dPop := 1 }) :
    Moves c (s.carrel c) 1 [] 0 [] s (s.popD c 1).2 :=
  moves_of_fits (dOut := []) (s3 := (s.popD c 1).2) hf (State.popD_pops s c 1) (PopsR.refl c _) (PushedR.refl c _ _) rfl

/-! ### Targets -/

/-- The target of an offset form, as a number of bytes (R90). -/
theorem brTarget_signExtend {w : Nat} (hw : w ≤ 64) (pc : Word) (o : BitVec w) :
    brTarget pc (o.signExtend 64) = pc + BitVec.ofInt 64 (2 * o.toInt) := by
  unfold brTarget
  congr 1
  apply BitVec.eq_of_toInt_eq
  rw [BitVec.toInt_ofInt, BitVec.toInt_mul, BitVec.toInt_signExtend_of_le hw, Int.mul_comm]
  rfl

theorem brTarget_brOff (pc : Word) (long : Bool) (o : BitVec 23) :
    brTarget pc (brOff long o) = pc + BitVec.ofInt 64 (2 * if long then o.toInt else (o.setWidth 11).toInt) := by
  unfold brOff
  cases long with
  | true => exact brTarget_signExtend (by decide) pc o
  | false => exact brTarget_signExtend (by decide) pc (o.setWidth 11)

/-- Bit 0 of a target from a stack is ignored (R90). -/
theorem evenAddr_eq (x : Word) : evenAddr x = BitVec.ofNat 64 (x.toNat / 2 * 2) := by
  have h : evenAddr x = x >>> 1 <<< 1 := by rw [BitVec.shiftLeft_ushiftRight]; rfl
  apply BitVec.eq_of_toNat_eq
  rw [h, BitVec.toNat_shiftLeft, BitVec.toNat_ushiftRight, BitVec.toNat_ofNat, Nat.shiftRight_eq_div_pow,
    Nat.shiftLeft_eq]

/-! ### Branches, calls and returns -/

theorem br_runs (long : Bool) (o : BitVec 23) :
    RunsFree (fun _ _ => True) (.br · long o) (brLen long)
      (fun c s => (s.carrel c).jumped (brTarget (s.carrel c).pc (brOff long o))) := by
  intro c s hr _
  exact ⟨_, runInstr_ready (fun s => .went (s.goto c (brTarget (s.carrel c).pc (brOff long o)))) hr, (moves_none s c).jumped _⟩

/-- A conditional branch pops its condition and goes to its target or on (R102). -/
theorem condBr_runs {mk : BitVec 12 → Instr} (long : Bool) (o : BitVec 23) (take : Word → Bool)
    (hexec : ∀ c s, Sys2Proof.Machine.exec (mk c) s = condBr c long o take s) :
    Runs mk (brLen long) { dPop := 1 }
      (fun c s => if take (s.peekD c 0) then (s.carrel c).jumped (brTarget (s.carrel c).pc (brOff long o))
        else (s.carrel c).after (brLen long))
      (fun _ _ => []) (fun _ _ => []) := by
  intro c s hr hf _
  have hm := moves_popD_one hf
  rw [hexec, condBr, runInstr_ready _ hr, withStacks_fits _ hf]
  dsimp only
  rw [State.ent_popD_one]
  refine ⟨_, rfl, ?_⟩
  split
  · exact hm.jumped _
  · exact hm.retire _

theorem controlNop_runs : RunsFree (fun _ _ => True) .controlNop 2 (fun c s => (s.carrel c).after 2) := by
  intro c s hr _
  exact ⟨_, runInstr_ready _ hr, (moves_none s c).retire 2⟩

theorem call_runs (o : BitVec 25) :
    Runs (.call · o) 4 { rPush := 1 } (fun c s => (s.carrel c).jumped (brTarget (s.carrel c).pc (o.signExtend 64)))
      (fun _ _ => []) (fun c s => [(s.carrel c).pc + 4]) :=
  runs_went (fun c s => s.pushR c ((s.carrel c).pc + 4)) (fun _ _ => rfl) fun c s hf =>
    moves_of_fits hf (PopsD.refl c s) (PopsR.refl c s)
      (pushR_after_pops hf (PopsD.refl c s) (PopsR.refl c s) rfl _) rfl

theorem calli_runs :
    Runs .calli 2 { dPop := 1, rPush := 1 } (fun c s => (s.carrel c).jumped (evenAddr (s.peekD c 0)))
      (fun _ _ => []) (fun c s => [(s.carrel c).pc + 2]) := by
  refine runs_went (fun c s => (s.popD c 1).2.pushR c ((s.carrel c).pc + 2))
    (fun c s => by simp only [← State.ent_popD_one]; rfl) fun c s hf => ?_
  have hpop := State.popD_pops s c 1
  exact moves_of_fits hf hpop (PopsR.refl c _) (pushR_after_pops hf hpop (PopsR.refl c _) rfl _) rfl

theorem jmpi_runs :
    Runs .jmpi 2 { dPop := 1 } (fun c s => (s.carrel c).jumped (evenAddr (s.peekD c 0)))
      (fun _ _ => []) (fun _ _ => []) :=
  runs_went (fun c s => (s.popD c 1).2) (fun c s => by simp only [← State.ent_popD_one]; rfl)
    fun c s hf => moves_popD_one hf

theorem ret_runs :
    Runs .ret 2 { rPop := 1 } (fun c s => (s.carrel c).jumped (evenAddr (s.peekR c 0)))
      (fun _ _ => []) (fun _ _ => []) :=
  runs_went (fun c s => (s.popR c 1).2) (fun c s => by simp only [← State.ent_popR_one]; rfl)
    fun c s hf => moves_of_fits hf (PopsD.refl c s) (State.popR_pops s c 1) (PushedR.refl c _ _) rfl

/-! ### Repeat prefixes -/

/-- The parcels of the instruction behind a prefix can be fetched (log entry 71). -/
def State.fetchesNext (s : State) (c : BitVec 12) (nxt : BitVec 32) : Prop :=
  (∃ pa part, s.fetchWord c ((s.carrel c).pc + 2) = .ok pa part) ∧
  (isLong nxt = true → ∃ pa part, s.fetchWord c ((s.carrel c).pc + 4) = .ok pa part)

/-- A word is fetched only when its segment is there. -/
theorem State.fetchSeg_of_fetchWord {s : State} {c : BitVec 12} {va : Word} {pa : Nat} {part : BitVec 6}
    (h : s.fetchWord c va = .ok pa part) : s.fetchSeg c va = .ok pa part := by
  unfold State.fetchWord State.fetchMapped at h
  split at h
  · next e =>
    split at h
    · cases h
    · rw [e, h]
  · exact h

/-- Behind a prefix whose next instruction can be fetched, its rule decides alone (R113). -/
theorem afterPrefix_fetched {s : State} {c : BitVec 12} {nxt : BitVec 32} (parcel : Nat) (body : State → Res)
    (h : s.fetchesNext c nxt) :
    afterPrefix c nxt parcel body s = if prefixBad nxt then .exc (s.illegal c parcel) else body s := by
  obtain ⟨⟨pa, part, h2⟩, hlong⟩ := h
  have e2 := State.fetchSeg_of_fetchWord h2
  unfold State.fetchWord at h2
  rw [e2] at h2
  unfold afterPrefix
  cases hl : isLong nxt with
  | false => simp only [State.fetchWords, Bool.false_eq_true, if_false, List.map_cons, List.map_nil, List.find?_cons, List.find?_nil, e2, h2, List.headD_cons, Option.getD_none]
  | true =>
    obtain ⟨pa', part', h4⟩ := hlong hl
    have e4 := State.fetchSeg_of_fetchWord h4
    unfold State.fetchWord at h4
    rw [e4] at h4
    have e : (s.carrel c).pc + 2 + 2 = (s.carrel c).pc + 4 := by rw [BitVec.add_assoc]; rfl
    simp only [State.fetchWords, if_true, List.map_cons, List.map_nil, List.find?_cons, List.find?_nil, e, e2, h2, e4, h4, List.headD_cons, Option.getD_none]

theorem repPrefix_runs {nxt : BitVec 32} (hn : prefixBad nxt = false) :
    RunsIf (fun c s => s.fetchesNext c nxt) (.repPrefix · nxt) 2 { dPop := 1 }
      (fun c s =>
        if s.peekD c 0 = 0 then (s.carrel c).jumped ((s.carrel c).pc + if isLong nxt then 6 else 4)
        else { (s.carrel c).jumped ((s.carrel c).pc + 2) with
          rep := some { repx := false, addr := (s.carrel c).pc, count := s.peekD c 0, parcel := some 0x050C } })
      (fun _ _ => []) (fun _ _ => []) := by
  intro c s hr hf hnext
  have hm := moves_popD_one hf
  refine ⟨_, runInstr_ready _ hr, ?_⟩
  rw [afterPrefix_fetched _ _ hnext, hn, if_neg Bool.false_ne_true, withStacks_fits _ hf]
  dsimp only
  rw [State.ent_popD_one]
  have e : (s.carrel c).pc + 2 + (if isLong nxt then 4 else 2) = (s.carrel c).pc + if isLong nxt then 6 else 4 := by
    rw [BitVec.add_assoc]
    cases isLong nxt <;> rfl
  split
  · rw [e]; exact hm.jumped _
  · exact Moves.mod (f := Carrel.retired) (fun _ _ => rfl) (Moves.mod (f := fun k => { k with
      pc := (s.carrel c).pc + 2
      rep := some { repx := false, addr := (s.carrel c).pc, count := s.peekD c 0, parcel := some 0x050C } })
      (fun _ _ => rfl) hm)

theorem repxPrefix_runs {nxt : BitVec 32} (hn : prefixBad nxt = false) (m : BitVec 8) :
    RunsFree (fun c s => s.fetchesNext c nxt) (.repxPrefix · m nxt) 2 fun c s =>
      { (s.carrel c).jumped ((s.carrel c).pc + 2) with
        rep := some { repx := true, addr := (s.carrel c).pc, count := m.setWidth 64 + 1
                      parcel := some (BitVec.ofNat 16 (m.toNat * 256 + 0x10)) } } := by
  intro c s hr hnext
  refine ⟨_, runInstr_ready _ hr, ?_⟩
  rw [afterPrefix_fetched _ _ hnext, hn, if_neg Bool.false_ne_true]
  exact Moves.mod (f := Carrel.retired) (fun _ _ => rfl) (Moves.mod (f := fun k => { k with
    pc := k.pc + 2
    rep := some { repx := true, addr := k.pc, count := m.setWidth 64 + 1
                  parcel := some (BitVec.ofNat 16 (m.toNat * 256 + 0x10)) } }) (fun _ _ => rfl) (moves_none s c))

theorem setWidth_add_one (m : BitVec 8) : m.setWidth 64 + 1 = BitVec.ofNat 64 (m.toNat + 1) := by
  bv_omega

/-- Settles O6: every form has its stack effect and then goes to its target. -/
theorem controlTransfers : Obligations.ControlTransfers := by
  unfold Obligations.ControlTransfers
  dsimp only
  simp only [← brTarget_brOff, ← brTarget_signExtend (w := 25) (by decide), ← evenAddr_eq, ← setWidth_add_one]
  refine ⟨⟨fun long o => ⟨br_runs long o, ?bz, ?bnz⟩, controlNop_runs⟩, ⟨call_runs, calli_runs, jmpi_runs, ret_runs⟩,
    fun nxt hn => ⟨repPrefix_runs hn, repxPrefix_runs hn⟩⟩
  case bz =>
    have h := condBr_runs (mk := (.bz · long o)) long o (fun x => decide (x = 0)) fun _ _ => rfl
    simp only [decide_eq_true_eq] at h
    exact h
  case bnz =>
    have h := condBr_runs (mk := (.bnz · long o)) long o (fun x => decide (x ≠ 0)) fun _ _ => rfl
    simp only [decide_eq_true_eq] at h
    exact h

/-! ### Illegal forms -/

/-- Outside a repeat the parcels themselves are reported (R85). -/
theorem State.illegal_of_no_repeat {s : State} {c : BitVec 12} (h : (s.carrel c).rep = none) (p : Nat) :
    s.illegal c p = { code := 0x01, detail := word p } := by
  rw [State.illegal, h]

/-- A ready instruction whose body raises an exception takes it. -/
theorem runInstr_exc {s : State} {c : BitVec 12} {len : Nat} {body : State → Res} {e : Exc} (hr : Ready s c len)
    (h : body s = .exc e) : runInstr c len body s = .next (s.fault c e) := by
  rw [runInstr_ready _ hr, h]; rfl

/-- An instruction that may not follow a prefix raises ILLEGAL at the prefix (R113). -/
theorem afterPrefix_bad {s : State} {c : BitVec 12} {nxt : BitVec 32} (parcel : Nat) (body : State → Res)
    (h : s.fetchesNext c nxt) (hb : prefixBad nxt = true) (hrep : (s.carrel c).rep = none) :
    afterPrefix c nxt parcel body s = .exc { code := 0x01, detail := word parcel } := by
  rw [afterPrefix_fetched _ _ h, if_pos hb, State.illegal_of_no_repeat hrep]

/-- A vector arithmetic form whose fields are not legal raises ILLEGAL (R172). -/
theorem vInstr_illegal {op : Nat} {a : VArith} {c : BitVec 12} {s : State} (u : StackUse)
    (body : State → BitVec 8192 → Res) (hr : Ready s c 4) (hrep : (s.carrel c).rep = none)
    (h : vArithLegal op a = false) :
    vInstr c op a u body s = .next (s.fault c { code := 0x01, detail := word (vArithParcels op a) }) :=
  runInstr_exc hr (by rw [h, State.illegal_of_no_repeat hrep]; rfl)

/-- A vector memory form whose fields are not legal raises ILLEGAL (R176). -/
theorem vmInstr_illegal {op : Nat} {a : VMem} {c : BitVec 12} {s : State} (hr : Ready s c 4)
    (hrep : (s.carrel c).rep = none) (h : vMemLegal op a = false) :
    vmInstr c op a s = .next (s.fault c { code := 0x01, detail := word (vMemParcels op a) }) :=
  runInstr_exc hr (by rw [h, State.illegal_of_no_repeat hrep]; rfl)

/-- The parcel of REPX with its count. -/
theorem repxParcel_toNat (m : BitVec 8) :
    (BitVec.ofNat 16 (m.toNat * 256 + 0x10)).toNat = m.toNat * 256 + 0x10 := by
  have := m.isLt
  rw [BitVec.toNat_ofNat]
  omega

/-- Settles O7: the encoding is looked at before the stacks. -/
theorem illegalForms : Obligations.IllegalForms := by
  unfold Obligations.IllegalForms
  refine ⟨?prefixes, ?parcels, ?arithmetic, ?memory⟩
  case prefixes =>
    intro nxt c s m hb hr hrep h2 h4
    refine ⟨runInstr_exc hr (afterPrefix_bad 0x050C _ ⟨h2, h4⟩ hb hrep), ?_⟩
    exact runInstr_exc hr ((afterPrefix_bad _ _ ⟨h2, h4⟩ hb hrep).trans (by rw [repxParcel_toNat]; rfl))
  case parcels =>
    intro p c s hp hr hrep
    change execIllegalInstruction c p s = _
    refine runInstr_exc hr ?_
    simp only [hp, Bool.false_eq_true, if_false, State.illegal_of_no_repeat hrep]
    rfl
  case arithmetic =>
    intro a c s hr hrep
    change (_ → execVadd c a s = _) ∧ (_ → execVcvt c a s = _) ∧ (_ → execVshl c a s = _)
    rw [execVadd, vMap2, vMap, execVcvt, execVshl, vShift]
    exact ⟨fun h => vInstr_illegal _ _ hr hrep h, fun h => vInstr_illegal _ _ hr hrep h,
      fun h => vInstr_illegal _ _ hr hrep h⟩
  case memory =>
    intro a c s hr hrep
    exact ⟨fun h => vmInstr_illegal hr hrep h, fun h => vmInstr_illegal hr hrep h⟩

end Sys2Proof.Machine
end

section
/-!
O8: the statement names the wrong form for one encoding.
-/

namespace Sys2Proof.Machine

/-- Kind 4 with 0 in bits [6:5] is LD8.L, and 1 there is LD16.L (R87, R98). -/
theorem decodeParcels_shelfLoad :
    decodeParcels 0 (0#32 ++ (0#9 ++ 0b0010001#7 : BitVec 16)) = some (.ld8L 0 0) ∧
    decodeParcels 0 (0#32 ++ (0#9 ++ 0b0110001#7 : BitVec 16)) = some (.ld16L 0 0) := by decide +kernel

/-- Refutes O8: the statement gives the parcel 0b0010001 to LD16.L, whose size field holds 0 and not 1; it picks
LD8.L. -/
theorem not_parcelsPickTheirForms : ¬ Obligations.ParcelsPickTheirForms := by
  unfold Obligations.ParcelsPickTheirForms
  intro h
  obtain ⟨_, hshort, _, _⟩ := h
  obtain ⟨_, _, hshelf, _⟩ := hshort 0 0
  obtain ⟨hload, _⟩ := hshelf 0
  have h8 := hload.symm.trans decodeParcels_shelfLoad.1
  cases h8

end Sys2Proof.Machine
end

section
/-!
O14: the short-vector forms, as their operation on the pairs they find (R103, R104).
-/

namespace Sys2Proof.Machine

/-! ### Operations on pairs -/

/-- The pairs that a form of `np` pairs finds, deepest first. -/
def pairsOf (np : Nat) (e : Nat → Word) : List Nat :=
  (upto np).map fun i => pairNat (e (2 * (np - 1 - i))) (e (2 * (np - 1 - i) + 1))

/-- What a pair form leaves: the pair's entries, top first, and the NaN it produced. -/
def pairOut (r : Nat × Option NanCause) : List Word × Option NanCause :=
  ([word (r.1 / 2 ^ 64), word (r.1 % 2 ^ 64)], r.2)

theorem pairWords_reverse (x : Nat) : (pairWords x).reverse = [word (x / 2 ^ 64), word (x % 2 ^ 64)] := rfl

/-- The pairs among the entries that the form pops. -/
theorem pairs_tops (s : State) (c : BitVec 12) (np : Nat) :
    ((upto np).map fun i => pairNat (ent (s.tops c (2 * np)) (2 * (np - 1 - i)))
      (ent (s.tops c (2 * np)) (2 * (np - 1 - i) + 1))) = pairsOf np (s.peekD c) := by
  refine List.map_congr_left fun i hi => ?_
  have hlt : i < np := List.mem_range.mp hi
  rw [ent_tops s c (by omega), ent_tops s c (by omega)]

/-- A form whose meaning is `pairOp`. -/
theorem pairForm_of {mk : BitVec 12 → Instr} {np : Nat} (f : List Nat → Nat × Option NanCause)
    (h : ∀ c s, Sys2Proof.Machine.exec (mk c) s = pairOp c np f s) :
    FloatForm mk (2 * np) 2 (fun e => pairOut (f (pairsOf np e))) := by
  refine floatForm_of (fun l => (pairWords (f ((upto np).map fun i => pairNat (ent l (2 * (np - 1 - i)))
    (ent l (2 * (np - 1 - i) + 1)))).1, (f ((upto np).map fun i => pairNat (ent l (2 * (np - 1 - i)))
    (ent l (2 * (np - 1 - i) + 1)))).2)) h (fun _ => rfl) fun s c => ?_
  rw [pairs_tops]
  exact ⟨rfl, rfl⟩

/-- A form that produces no NaN is one of plain data. -/
theorem dataForm_of_floatForm {mk : BitVec 12 → Instr} {pop push : Nat} {g : (Nat → Word) → List Word}
    (h : FloatForm mk pop push fun e => (g e, none)) : DataForm mk 2 0 pop push g := h

/-! ### Bitwise operations, half by half -/

theorem pairNat_lt (hi lo : Word) : pairNat hi lo < 2 ^ 128 := by
  have h1 := hi.isLt
  have h2 := lo.isLt
  unfold pairNat
  omega

theorem pairNat_eq_append (hi lo : Word) : pairNat hi lo = (hi ++ lo).toNat := by
  rw [BitVec.toNat_append, ← Nat.shiftLeft_add_eq_or_of_lt lo.isLt, Nat.shiftLeft_eq]
  unfold pairNat
  omega

/-- The halves of a pair. -/
theorem pairOut_append (hi lo : Word) (r : Option NanCause) : pairOut ((hi ++ lo).toNat, r) = ([hi, lo], r) := by
  have h2 := lo.isLt
  rw [← pairNat_eq_append]
  unfold pairOut pairNat
  rw [show (lo.toNat + 2 ^ 64 * hi.toNat) / 2 ^ 64 = hi.toNat by omega,
    show (lo.toNat + 2 ^ 64 * hi.toNat) % 2 ^ 64 = lo.toNat by omega, word_toNat, word_toNat]

theorem pairNat_and (a b x y : Word) : pairNat a b &&& pairNat x y = ((a &&& x) ++ (b &&& y)).toNat := by
  rw [pairNat_eq_append, pairNat_eq_append, ← BitVec.toNat_and, BitVec.and_append]

theorem pairNat_or (a b x y : Word) : pairNat a b ||| pairNat x y = ((a ||| x) ++ (b ||| y)).toNat := by
  rw [pairNat_eq_append, pairNat_eq_append, ← BitVec.toNat_or, BitVec.or_append]

theorem pairNat_xor (a b x y : Word) : pairNat a b ^^^ pairNat x y = ((a ^^^ x) ++ (b ^^^ y)).toNat := by
  rw [pairNat_eq_append, pairNat_eq_append, ← BitVec.toNat_xor, BitVec.xor_append]

theorem ones_eq_pairNat : 2 ^ 128 - 1 = pairNat (BitVec.allOnes 64) (BitVec.allOnes 64) := rfl

theorem xor_allOnes (a : Word) : a ^^^ BitVec.allOnes 64 = ~~~ a := BitVec.xor_allOnes

theorem bitForms (t : BitVec 3) :
    DataForm (.pAnd · t) 2 0 4 2 (fun e => [e 2 &&& e 0, e 3 &&& e 1]) ∧
    DataForm (.pOr · t) 2 0 4 2 (fun e => [e 2 ||| e 0, e 3 ||| e 1]) ∧
    DataForm (.pXor · t) 2 0 4 2 (fun e => [e 2 ^^^ e 0, e 3 ^^^ e 1]) ∧
    DataForm (.pSel · t) 2 0 6 2
      (fun e => [(e 2 &&& e 0) ||| (e 4 &&& ~~~ (e 0)), (e 3 &&& e 1) ||| (e 5 &&& ~~~ (e 1))]) := by
  refine ⟨dataForm_of_floatForm ?_, dataForm_of_floatForm ?_, dataForm_of_floatForm ?_, dataForm_of_floatForm ?_⟩
  · have h := pairForm_of (mk := (.pAnd · t)) (np := 2) (fun ps => (arg ps 0 &&& arg ps 1, none)) fun _ _ => rfl
    have e (e : Nat → Word) : arg (pairsOf 2 e) 0 &&& arg (pairsOf 2 e) 1 = ((e 2 &&& e 0) ++ (e 3 &&& e 1)).toNat :=
      pairNat_and ..
    simpa only [e, pairOut_append] using h
  · have h := pairForm_of (mk := (.pOr · t)) (np := 2) (fun ps => (arg ps 0 ||| arg ps 1, none)) fun _ _ => rfl
    have e (e : Nat → Word) : arg (pairsOf 2 e) 0 ||| arg (pairsOf 2 e) 1 = ((e 2 ||| e 0) ++ (e 3 ||| e 1)).toNat :=
      pairNat_or ..
    simpa only [e, pairOut_append] using h
  · have h := pairForm_of (mk := (.pXor · t)) (np := 2) (fun ps => (arg ps 0 ^^^ arg ps 1, none)) fun _ _ => rfl
    have e (e : Nat → Word) : arg (pairsOf 2 e) 0 ^^^ arg (pairsOf 2 e) 1 = ((e 2 ^^^ e 0) ++ (e 3 ^^^ e 1)).toNat :=
      pairNat_xor ..
    simpa only [e, pairOut_append] using h
  · have h := pairForm_of (mk := (.pSel · t)) (np := 3) (fun ps =>
      ((arg ps 1 &&& arg ps 2) ||| (arg ps 0 &&& (arg ps 2 ^^^ (2 ^ 128 - 1))), none)) fun _ _ => rfl
    have e (e : Nat → Word) : (arg (pairsOf 3 e) 1 &&& arg (pairsOf 3 e) 2) |||
        (arg (pairsOf 3 e) 0 &&& (arg (pairsOf 3 e) 2 ^^^ (2 ^ 128 - 1))) =
        (((e 2 &&& e 0) ||| (e 4 &&& ~~~ (e 0))) ++ ((e 3 &&& e 1) ||| (e 5 &&& ~~~ (e 1)))).toNat := by
      show (pairNat (e 2) (e 3) &&& pairNat (e 0) (e 1)) |||
        (pairNat (e 4) (e 5) &&& (pairNat (e 0) (e 1) ^^^ (2 ^ 128 - 1))) = _
      rw [ones_eq_pairNat, pairNat_xor, xor_allOnes, xor_allOnes, ← pairNat_eq_append, pairNat_and, pairNat_and,
        ← pairNat_eq_append, ← pairNat_eq_append, pairNat_or]
    simpa only [e, pairOut_append] using h

/-! ### Lane-wise operations -/

/-- The lane-wise operation of two pairs. -/
def twoLanes (t : BitVec 3) (f : Nat → Nat → FRes) (e : Nat → Word) : List Word × Option NanCause :=
  pairOut (laneWise (elemOf t.toNat) (fun l => f (arg l 0) (arg l 1)) (pairsOf 2 e))

theorem pair2Form_of {mk : BitVec 12 → Instr} {t : BitVec 3} (f : Elem → Nat → Nat → FRes)
    (h : ∀ c s, Sys2Proof.Machine.exec (mk c) s = pair2 c t f s) :
    FloatForm mk 4 2 (twoLanes t (f (elemOf t.toNat))) := pairForm_of _ h

theorem laneForms (t : BitVec 3) :
    let el := elemOf t.toNat
    FloatForm (.pAdd · t) 4 2 (twoLanes t el.add) ∧ FloatForm (.pSub · t) 4 2 (twoLanes t el.sub) ∧
    FloatForm (.pMul · t) 4 2 (twoLanes t el.mul) ∧ FloatForm (.pMin · t) 4 2 (twoLanes t el.min) ∧
    FloatForm (.pMax · t) 4 2 (twoLanes t el.max) ∧
    FloatForm (.pFma · t) 6 2
      (fun e => pairOut (laneWise el (fun l => el.fma (arg l 0) (arg l 1) (arg l 2)) (pairsOf 3 e))) ∧
    FloatForm (.pCmpeq · t) 4 2 (twoLanes t fun x y => (maskLane el.width (el.eq x y), none)) ∧
    FloatForm (.pCmplt · t) 4 2 (twoLanes t fun x y => (maskLane el.width (el.lt x y), none)) := by
  refine ⟨pair2Form_of Elem.add ?_, pair2Form_of Elem.sub ?_, pair2Form_of Elem.mul ?_, pair2Form_of Elem.min ?_,
    pair2Form_of Elem.max ?_, pairForm_of (np := 3) _ ?_,
    pair2Form_of (fun e x y => (maskLane e.width (e.eq x y), none)) ?_,
    pair2Form_of (fun e x y => (maskLane e.width (e.lt x y), none)) ?_⟩ <;> exact fun _ _ => rfl

/-! ### Shifts, the horizontal sum and the broadcast -/

/-- A lane-wise shift of an integer type. -/
theorem pairShiftForm_of {mk : BitVec 12 → Instr} {t : BitVec 3} {op w : Nat} (f : Nat → Nat → Nat → Nat)
    (h : ∀ c s, Sys2Proof.Machine.exec (mk c) s = pairShift c op t f s) (ht : elemOf t.toNat = .int w) :
    DataForm mk 2 0 3 2 fun e =>
      let x := fromLanes w ((lanesOf w (128 / w) (pairNat (e 1) (e 2))).map fun v => f w v ((e 0).toNat % w))
      [word (x / 2 ^ 64), word (x % 2 ^ 64)] := by
  refine dataForm_of (fun l => pairWords (fromLanes w ((lanesOf w (128 / w) (pairNat (ent l 1) (ent l 2))).map
    fun v => f w v ((ent l 0).toNat % w)))) (fun c s => ?_) (fun _ => rfl) fun s c => ?_
  · rw [h, pairShift, ht]
    rfl
  · rw [ent_tops s c (by omega), ent_tops s c (by omega), ent_tops s c (by omega)]
    rfl

/-- A shift of a floating type raises ILLEGAL (R104). -/
theorem pairShift_illegal {t : BitVec 3} {op : Nat} {g : Fmt} {c : BitVec 12} {s : State} (f : Nat → Nat → Nat → Nat)
    (ht : elemOf t.toNat = .fp g) (hr : Ready s c 2) (hrep : (s.carrel c).rep = none) :
    pairShift c op t f s = .next (s.fault c { code := 0x01, detail := word (shortParcel op t) }) :=
  runInstr_exc hr (by rw [ht, State.illegal_of_no_repeat hrep])

theorem pHsumInt_form {t : BitVec 3} {w : Nat} (ht : elemOf t.toNat = .int w) :
    DataForm (.pHsum · t) 2 0 2 1 fun e =>
      [BitVec.ofInt 64 ((lanesOf w (128 / w) (pairNat (e 0) (e 1))).map (sInt w)).sum] := by
  refine dataForm_of (fun l => [BitVec.ofInt 64
    (((lanesOf w (128 / w) (pairNat (ent l 0) (ent l 1))).map (sInt w)).foldl (· + ·) 0)]) (fun c s => ?_)
    (fun _ => rfl) fun s c => ?_
  · change execPHsum c t s = _
    rw [execPHsum, ht]
    rfl
  · rw [ent_tops s c (by omega), ent_tops s c (by omega), List.sum_eq_foldl]
    rfl

theorem pHsumFp_form {t : BitVec 3} {f : Fmt} (ht : elemOf t.toNat = .fp f) :
    FloatForm (.pHsum · t) 2 1 fun e =>
      let r := pairTree f.addOp 3 (lanesOf f.width (128 / f.width) (pairNat (e 0) (e 1)))
      ([word r.1], r.2) := by
  refine floatForm_of (fun l =>
    let r := pairTree f.addOp 3 (lanesOf f.width (128 / f.width) (pairNat (ent l 0) (ent l 1)))
    ([word r.1], r.2)) (fun c s => ?_) (fun _ => rfl) fun s c => ?_
  · change execPHsum c t s = _
    rw [execPHsum, ht]
    rfl
  · rw [ent_tops s c (by omega), ent_tops s c (by omega)]
    exact ⟨rfl, rfl⟩

theorem pBcast_form (t : BitVec 3) :
    DataForm (.pBcast · t) 2 0 1 2 fun e =>
      let w := (elemOf t.toNat).width
      let x := fromLanes w (List.replicate (128 / w) ((e 0).toNat % 2 ^ w))
      [word (x / 2 ^ 64), word (x % 2 ^ 64)] := by
  refine dataForm_of (fun l =>
    let w := (elemOf t.toNat).width
    pairWords (fromLanes w (List.replicate (128 / w) (entN l 0 % 2 ^ w)))) (fun _ _ => rfl) (fun _ => rfl) fun s c => ?_
  unfold entN
  rw [ent_tops s c (by omega)]
  rfl

/-- Settles O14: every form is its operation on pairs; the shifts look at the type first. -/
theorem shortVectors : Obligations.ShortVectors := by
  unfold Obligations.ShortVectors
  refine ⟨fun t => ?lanes, fun t w ht => ?shifts, fun t f ht => ⟨pHsumFp_form ht, fun c s hr hrep => ?illegal⟩,
    pBcast_form⟩
  case lanes =>
    obtain ⟨hadd, hsub, hmul, hmin, hmax, hfma, heq, hlt⟩ := laneForms t
    exact ⟨hadd, hsub, hmul, hmin, hmax, hfma, heq, hlt, bitForms t⟩
  case shifts =>
    have hsum := pHsumInt_form ht
    have hshl := pairShiftForm_of (mk := (.pShl · t)) shlElem (fun _ _ => rfl) ht
    have hshr := pairShiftForm_of (mk := (.pShr · t)) shrElem (fun _ _ => rfl) ht
    have hsar := pairShiftForm_of (mk := (.pSar · t)) sarElem (fun _ _ => rfl) ht
    simp only [lanesOf, List.map_map] at hsum hshl hshr hsar
    exact ⟨hshl, hshr, hsar, hsum⟩
  case illegal =>
    have hp (op : Nat) : word (shortParcel op t) = BitVec.ofNat 64 (op * 4 + 2 + 256 * t.toNat) := by
      rw [word, shortParcel, Nat.mul_comm 256]
    have h (op : Nat) (f : Nat → Nat → Nat → Nat) := pairShift_illegal (op := op) f ht hr hrep
    simp only [hp] at h
    exact ⟨h 0x0C shlElem, h 0x0D shrElem, h 0x0E sarElem⟩

end Sys2Proof.Machine
end

section
/-!
O15: what a load makes of its bytes, and the lanes and elements of a packed value (R98, R104, R171).
-/

namespace Sys2Proof.Machine

/-! ### Load extension -/

theorem bytesToNat_lt_two_pow (l : List Byte) : bytesToNat l < 2 ^ (8 * l.length) := by
  have h := bytesToNat_lt l
  rwa [show 256 = 2 ^ 8 by rfl, ← Nat.pow_mul] at h

theorem word_bytes_toNat {b : List Byte} (h : b.length ≤ 8) : (word (bytesToNat b)).toNat = bytesToNat b := by
  have hb := bytesToNat_lt_two_pow b
  have hp : 2 ^ (8 * b.length) ≤ 2 ^ 64 := Nat.pow_le_pow_right (by decide) (by omega)
  rw [word, BitVec.toNat_ofNat, Nat.mod_eq_of_lt (by omega)]

/-- The two's-complement reading of a number of `n` bits. -/
theorem toInt_ofNat_ite {n x : Nat} (hn : 0 < n) (hx : x < 2 ^ n) :
    (BitVec.ofNat n x).toInt = if x < 2 ^ (n - 1) then (x : Int) else (x : Int) - 2 ^ n := by
  have hp : 2 ^ n = 2 * 2 ^ (n - 1) := (Nat.two_pow_pred_mul_two hn).symm.trans (Nat.mul_comm _ _)
  rw [BitVec.toInt_eq_toNat_cond, BitVec.toNat_ofNat, Nat.mod_eq_of_lt hx]
  split
  · rw [if_pos (by omega)]
  · rw [if_neg (by omega)]
    norm_cast

theorem loadValue_signed {b : List Byte} (h8 : b.length ≤ 8) (h0 : 0 < b.length) :
    (loadValue true b).toInt = if bytesToNat b < 2 ^ (8 * b.length - 1) then (bytesToNat b : Int)
      else (bytesToNat b : Int) - 2 ^ (8 * b.length) := by
  rw [← toInt_ofNat_ite (by omega) (bytesToNat_lt_two_pow b)]
  show (sext (8 * b.length) (word (bytesToNat b))).toInt = _
  rw [sext, BitVec.toInt_signExtend_of_le (by omega), word, BitVec.setWidth_ofNat_of_le (by omega)]

/-! ### Packed values -/

theorem fromLanes_lt {w : Nat} {l : List Nat} (h : ∀ x ∈ l, x < 2 ^ w) : fromLanes w l < 2 ^ (w * l.length) := by
  induction l with
  | nil => exact Nat.one_pos
  | cons x l ih =>
    have hx := h x (List.mem_cons_self ..)
    have hl := ih fun y hy => h y (List.mem_cons_of_mem _ hy)
    rw [fromLanes, List.length_cons, Nat.mul_succ, Nat.add_comm (w * l.length), Nat.pow_add]
    calc x + 2 ^ w * fromLanes w l < 2 ^ w + 2 ^ w * fromLanes w l := by omega
      _ = 2 ^ w * (fromLanes w l + 1) := by ring
      _ ≤ 2 ^ w * 2 ^ (w * l.length) := Nat.mul_le_mul_left _ hl

/-- Lane `i` of lanes put together. -/
theorem fromLanes_lane {w : Nat} {l : List Nat} (h : ∀ x ∈ l, x < 2 ^ w) (i : Nat) :
    fromLanes w l / 2 ^ (w * i) % 2 ^ w = l.getD i 0 := by
  induction l generalizing i with
  | nil => simp [fromLanes]
  | cons x l ih =>
    have hx := h x (List.mem_cons_self ..)
    cases i with
    | zero => simp [fromLanes, Nat.mod_eq_of_lt hx]
    | succ i =>
      rw [fromLanes, Nat.mul_succ, Nat.add_comm (w * i), Nat.pow_add, ← Nat.div_div_eq_div_mul,
        Nat.add_mul_div_left _ _ (Nat.two_pow_pos w), Nat.div_eq_of_lt hx, Nat.zero_add, List.getD_cons_succ]
      exact ih (fun y hy => h y (List.mem_cons_of_mem _ hy)) i

theorem laneWise_lane (el : Elem) (f : List Nat → FRes) (ps : List Nat) {i : Nat} (hf : ∀ l, (f l).1 < 2 ^ el.width)
    (hi : i < 128 / el.width) :
    (laneWise el f ps).1 / 2 ^ (el.width * i) % 2 ^ el.width =
      (f (ps.map fun p => p / 2 ^ (el.width * i) % 2 ^ el.width)).1 := by
  unfold laneWise
  rw [fromLanes_lane]
  · simp [upto, List.getD_eq_getElem?_getD, hi]
  · intro x hx
    simp only [List.map_map, List.mem_map, Function.comp_apply] at hx
    obtain ⟨j, _, rfl⟩ := hx
    exact hf _

theorem velem_ventry {w : Nat} {l : List Nat} (i : Nat) (hw : w * l.length ≤ 8192) (h : ∀ x ∈ l, x < 2 ^ w) :
    velem w (ventry w l) i = l.getD i 0 := by
  have hle := Nat.pow_le_pow_right Nat.two_pos hw
  rw [velem, ventry, BitVec.toNat_ushiftRight, BitVec.toNat_ofNat, Nat.mod_eq_of_lt ((fromLanes_lt h).trans_le hle),
    Nat.shiftRight_eq_div_pow]
  exact fromLanes_lane h i

theorem intSub {w x y : Nat} (hy : y < 2 ^ w) : (Elem.int w).sub x y = ((2 ^ w + x - y) % 2 ^ w, none) := by
  show ((x + (2 ^ w - y)) % 2 ^ w, none) = _
  rw [show x + (2 ^ w - y) = 2 ^ w + x - y by omega]

/-- Settles O15: `fromLanes_lane` reads a lane back; the rest is the definition of each operation. -/
theorem lanesAndElements : Obligations.LanesAndElements := by
  refine ⟨fun b h8 => ⟨word_bytes_toNat h8, loadValue_signed h8⟩,
    ⟨fun el f ps i _ hf hi => laneWise_lane el f ps hf hi, fun w x y z _ hy => ?int⟩,
    fun w l i _ hl _ h => velem_ventry i hl h⟩
  case int => exact ⟨rfl, intSub hy, rfl, rfl, rfl, rfl, rfl, rfl⟩

end Sys2Proof.Machine
end

section
/-!
# Memory keeps its form and blown fuses stay

One lemma per function of the model that gives a state: it keeps `Lasts`. The lemmas stand in the order of the model, so
each cites the ones for the functions it calls.
-/
namespace Sys2Proof.Machine

/-- The end of a tick at its boundary: what is owed from a gap cut short, a chain's verdict, or the module's own
confirmation; and whether a recovery gap follows. -/
def State.endTick (s : State) : State × Bool :=
  if s.tick.gapDue then
    ({ s with tick := { s.tick with
        gapDue := false
        toReplay := if s.tick.replay then s.tick.wtn :: s.tick.toReplay else s.tick.toReplay } }, true)
  else if s.chain.up then s.endChain else s.endAlone

/-- `TICK_NO` advances past the work tick `w`. -/
def State.nextNo (s : State) (w : Word) : State := { s with tick := { s.tick with no := s.tick.no + 1, wtnLast := w } }

/-- A length armed for this tick takes effect. -/
def State.takeLength (s : State) : State :=
  match s.tick.armed with
  | some (b, n) => if b = s.tick.no then { s with tick := { s.tick with len := n, armed := none } } else s
  | none => s

/-- Plans are fresh for the tick that begins, and the links' counts of it are 0. -/
def State.freshTick (s : State) : State :=
  { s with
    plans := s.plans.map fun (x : Nat × Plan) => (x.1, { x.2 with fresh := true })
    links := s.links.map fun (x : Nat × Link) => (x.1, { x.2 with evTick := false, unplSent := 0 }) }

/-- The work that the boundary itself does, once the tick's number has advanced. -/
def State.crossBoundary (s : State) (changed : Bool) (env : TickEnv) : State :=
  let s := (s.unloads.suspends changed).freshTick
  let s := if s.census.due.contains s.tick.no then s.snapshot s.tick.no else s
  let s := s.applyTrims.haltAll.census2.sendMarks
  let s := if s.chain.up then s.statusReady else s
  let s := (upto 12).foldl State.flushTx s
  let s := env.coolStacks.foldl (fun s i => s.coolStack i.toNat) s
  env.coolZones.foldl (fun s z => s.coolZone z.toNat) s

/-- The tick that the boundary begins: a recovery gap, or the work chosen for it and its intake window. -/
def State.beginTick (s : State) (gap : Bool) : State :=
  if gap then
    let s := { s with tick := { s.tick with part := .gap } }
    if s.keepers.none_ then s else s.gapWork
  else
    let s := { s with tick := s.tick.chooseWork }
    let s := if s.tick.replay then s else (upto 4096).foldl (fun s c => s.stepApply c s.tick.wtn) s
    s.openIntake

/-- The state in which a boundary ends the tick. -/
def State.atBoundary (s : State) : State :=
  { s.treatHalts.swapBack with retried := [], paid := s.paid.filter fun x => !ofPlan x.1 }

theorem boundary_eq (s : State) (env : TickEnv) : s.boundary env =
    (let q := s.atBoundary.endTick
    let t := q.1.nextNo s.atBoundary.tick.wtn
    (t.takeLength.crossBoundary (match t.tick.armed with | some (b, _) => decide (b = t.tick.no) | none => false)
      env).beginTick q.2) := by
  rw [State.boundary]
  rfl

/-- What a GATE does, for the words `e0` and `w1` of its gate and the check `g` of its arguments. -/
def gateRes (s : State) (c : BitVec 12) (n : BitVec 10) (k : Carrel) (off e0 w1 narg : Nat) (g : GateCheck) : Res :=
  let tlvl := BitVec.ofNat 2 (w1 / 2)
  let nres := w1 / 64 % 4
  if k.gateCount.toNat ≤ n.toNat then .exc (gateExc n 1 0)
  else if off < k.ulim.toNat * 64 ∨ rescueOff < off + 16 then .exc (gateExc n 3 0)
  else if w1 % 2 = 0 ∨ tlvl = 0 ∨ tlvl = 3 ∨ narg = 7 ∨ nres = 3 ∨ tlvl < k.level then .exc (gateExc n 2 0)
  else if (k.bank k.dataBank).dataDepth < narg then .exc (gateExc n 4 0)
  else match g with
    | .miss seg => .hold (s.missWait c 3 seg)
    | .fail i => .exc (gateExc n 5 i)
    | .pass =>
      let target := if k.rescue then BankId.rescue else bankOfCode tlvl
      let b := k.bank target
      let popHere := if target = k.dataBank then narg else 0
      let e : Entry := { h := tlvl.toNat, code := 0x21, detail := some (n.setWidth 64), kind := 3
                         pc := k.pc + 4, nres := BitVec.ofNat 2 nres
                         target := some (evenAddr (word e0)) }
      let x := k.settle e
      if k.rescue ∧ (x.h = 3 ∨ x.code = 0x0B) then .jump (s.haltCarrel c)
      else if x.code = 0x0B then .jump (s.enter c { e with pc := k.pc })
      else if x.h = 3 then .went ((s.popD c narg).2.enter c e)
      else if (boundCheck b.d b.dres 8 popHere popHere narg).isSome then
        if k.rescue then .jump (s.haltCarrel c)
        else .jump (s.enter c { h := 2, code := 0x0B, orig := 0x21, detail := some 3, pc := k.pc })
      else
        let (args, s) := s.popD c narg
        .went ((s.enter c e).pushDs c args.reverse)

/-- Where the gate `n` of `k` stands in its shelf. -/
def Carrel.gateOff (k : Carrel) (n : BitVec 10) : Nat := k.gateBase.toNat * 16 + n.toNat * 16

theorem execGate_eq (c : BitVec 12) (n : BitVec 10) (s : State) : execGate c n s = runInstr c 4 (fun s =>
    let k := s.carrel c
    let w1 := s.le (shelfBase c.toNat + k.gateOff n + 8) 8
    gateRes s c n k (k.gateOff n) (s.le (shelfBase c.toNat + k.gateOff n) 8) w1 (w1 / 8 % 8)
      (s.gateArgs c w1 (w1 / 8 % 8) (w1 / 8 % 8))) s := rfl

/-- What holds of device memory and of the fuses after a step from `s₀`, as long as they reach `t` by stores and blown
fuses alone: memory keeps its canonical form, and a blown bit stays blown. -/
structure Lasts (s₀ t : State) : Prop where
  form : s₀.memWf = true → t.memWf = true
  fuse : ∀ k j, (Tab.get 0 s₀.sec.fuse k).getLsbD j = true → (Tab.get 0 t.sec.fuse k).getLsbD j = true

namespace Lasts
variable {s₀ s u : State}

theorem refl (s : State) : Lasts s s := ⟨id, fun _ _ => id⟩

theorem of_eq (h : Lasts s₀ u) (hm : s.mem = u.mem) (hf : s.sec.fuse = u.sec.fuse) : Lasts s₀ s :=
  ⟨fun e => by unfold State.memWf; rw [hm]; exact h.form e, fun k j e => by rw [hf]; exact h.fuse k j e⟩

/-- Any part but memory and the security unit may be replaced. -/
theorem upd {pending fresh lost carrels halts retried ownChip gateOnly tick plans hbm paid links chain seg host
    census keepers gauges train dict start map power sent}
    (h : Lasts s₀ u) :
    Lasts s₀ ⟨pending, fresh, u.mem, lost, carrels, halts, retried, ownChip, gateOnly, tick, plans, hbm, paid,
      links, chain, seg, host, census, keepers, gauges, train, u.sec, dict, start, map, power, sent⟩ := ⟨h.form, h.fuse⟩

/-- Any part but memory and the fuses may be replaced. -/
theorem updSec {pending fresh lost carrels halts retried ownChip gateOnly tick plans hbm paid links chain seg
    host census keepers gauges train dict start map power sent runImage runHead aOk bOk recovery arbRej scrubEn
    chal chalOut keys sigs dbgOpen everOpen dbgRej dbgReason fails scope imageA imageB boxes cert}
    (h : Lasts s₀ u) :
    Lasts s₀ ⟨pending, fresh, u.mem, lost, carrels, halts, retried, ownChip, gateOnly, tick, plans, hbm, paid,
      links, chain, seg, host, census, keepers, gauges, train, ⟨u.sec.fuse, runImage, runHead, aOk, bOk,
      recovery, arbRej, scrubEn, chal, chalOut, keys, sigs, dbgOpen, everOpen, dbgRej, dbgReason, fails, scope,
      imageA, imageB, boxes, cert⟩, dict, start, map, power, sent⟩ := ⟨h.form, h.fuse⟩

theorem ite {p : Prop} [Decidable p] (h1 : Lasts s₀ s) (h2 : Lasts s₀ u) : Lasts s₀ (if p then s else u) := by
  split
  · exact h1
  · exact h2

theorem ite_fst {α : Type} {p : Prop} [Decidable p] {a b : State × α} (h1 : Lasts s₀ a.1) (h2 : Lasts s₀ b.1) :
    Lasts s₀ (if p then a else b).1 := by
  split
  · exact h1
  · exact h2

theorem ite_snd {α : Type} {p : Prop} [Decidable p] {a b : α × State} (h1 : Lasts s₀ a.2) (h2 : Lasts s₀ b.2) :
    Lasts s₀ (if p then a else b).2 := by
  split
  · exact h1
  · exact h2

theorem foldl {α : Type} {f : State → α → State} (h : Lasts s₀ s) (hf : ∀ s a, Lasts s₀ s → Lasts s₀ (f s a))
    (l : List α) : Lasts s₀ (l.foldl f s) :=
  List.foldlRecOn l f h fun t ht a _ => hf t a ht

end Lasts

/-- `Lasts` of the state that a command goes on in. -/
def OutLasts (s₀ : State) (o : Out) : Prop := ∀ t, o = .next t → Lasts s₀ t

theorem OutLasts.next {s₀ t : State} (h : Lasts s₀ t) : OutLasts s₀ (.next t) := fun _ e => by cases e; exact h

theorem OutLasts.fault {s₀ : State} {r} : OutLasts s₀ (.fault r) := fun _ e => by cases e

theorem OutLasts.ite {s₀ : State} {p : Prop} [Decidable p] {a b : Out}
    (h1 : OutLasts s₀ a) (h2 : OutLasts s₀ b) : OutLasts s₀ (if p then a else b) := by
  split
  · exact h1
  · exact h2

/-- `Lasts` of the state that an attempt at an instruction leaves. -/
def Res.Lasts (s₀ : State) : Res → Prop
  | .done t | .jump t | .went t | .hold t => Machine.Lasts s₀ t
  | .exc _ => True

/-- The state that a transfer has come to. -/
def Moved.state : Moved → State
  | .ok s => s
  | .err _ s => s

namespace Lasts
variable {s₀ s u : State}

theorem of_ok {m : Moved} (h : Lasts s₀ m.state) (e : m = .ok s) : Lasts s₀ s := by
  rw [e] at h
  exact h

theorem of_err {m : Moved} {r : RespErr} (h : Lasts s₀ m.state) (e : m = .err r s) : Lasts s₀ s := by
  rw [e] at h
  exact h
/-! ### Ops -/

theorem setCarrel (h : Lasts s₀ s) (c : BitVec 12) (k : Carrel) :
    Lasts s₀ (State.setCarrel s c k) := by
  unfold State.setCarrel
  apply_rules [upd, updSec, h]

theorem modCarrel (h : Lasts s₀ s) (c : BitVec 12) (f : Carrel → Carrel) :
    Lasts s₀ (State.modCarrel s c f) := by
  unfold State.modCarrel
  apply_rules [setCarrel, h]

theorem modCarrels (h : Lasts s₀ s) (l : List Nat) (f : Carrel → Carrel) :
    Lasts s₀ (State.modCarrels s l f) := by
  unfold State.modCarrels
  refine foldl h (fun s a h => ?_) _
  apply_rules [modCarrel, h]

theorem setByte (h : Lasts s₀ s) (a : Nat) (b : Byte) : Lasts s₀ (s.setByte a b) :=
  ⟨fun e => s.setByte_memWf a b (h.form e), h.fuse⟩

theorem setBytes (h : Lasts s₀ s) (a : Nat) (l : List Byte) : Lasts s₀ (s.setBytes a l) := by
  induction l generalizing s a with
  | nil => exact h
  | cons b l ih => exact ih (h.setByte a b) _

theorem setLe (h : Lasts s₀ s) (a n y : Nat) : Lasts s₀ (s.setLe a n y) := h.setBytes _ _

theorem draw (h : Lasts s₀ s) :
    Lasts s₀ (State.draw s).2 := by
  unfold State.draw
  apply_rules [upd, updSec, h]

theorem popD (h : Lasts s₀ s) (c : BitVec 12) (n : Nat) :
    Lasts s₀ (State.popD s c n).2 := by
  unfold State.popD
  apply_rules [setCarrel, upd, updSec, h]

theorem popR (h : Lasts s₀ s) (c : BitVec 12) (n : Nat) :
    Lasts s₀ (State.popR s c n).2 := by
  unfold State.popR
  apply_rules [setCarrel, upd, updSec, h]

theorem pushBank (h : Lasts s₀ s) (c : BitVec 12) (id : BankId) (x : Word) : Lasts s₀ (s.pushBank c id x) := by
  unfold State.pushBank
  exact ite (h.setCarrel _ _) ((h.setLe _ _ _).setCarrel _ _)

theorem pushD (h : Lasts s₀ s) (c : BitVec 12) (x : Word) :
    Lasts s₀ (State.pushD s c x) := by
  unfold State.pushD
  apply_rules [pushBank, h]

theorem pushDs (h : Lasts s₀ s) (c : BitVec 12) (l : List Word) : Lasts s₀ (s.pushDs c l) := by
  induction l generalizing s with
  | nil => exact h
  | cons y l ih => exact ih (h.pushD c y)

theorem pushR (h : Lasts s₀ s) (c : BitVec 12) (x : Word) :
    Lasts s₀ (State.pushR s c x) := by
  unfold State.pushR
  grind only [← setCarrel, ← setLe]

theorem pushVs (h : Lasts s₀ s) (c : BitVec 12) (l : List (BitVec 8192)) :
    Lasts s₀ (State.pushVs s c l) := by
  unfold State.pushVs
  apply_rules [modCarrel, upd, updSec, h]

theorem dropV (h : Lasts s₀ s) (c : BitVec 12) (n : Nat) :
    Lasts s₀ (State.dropV s c n) := by
  unfold State.dropV
  apply_rules [modCarrel, upd, updSec, h]

theorem haltCarrel (h : Lasts s₀ s) (c : BitVec 12) :
    Lasts s₀ (State.haltCarrel s c) := by
  unfold State.haltCarrel
  apply_rules [modCarrel, upd, updSec, h]

theorem enter (h : Lasts s₀ s) (c : BitVec 12) (e0 : Entry) :
    Lasts s₀ (State.enter s c e0) := by
  unfold State.enter
  grind only [← setCarrel, ← setBytes, ← draw]

theorem fault (h : Lasts s₀ s) (c : BitVec 12) (x : Exc) :
    Lasts s₀ (State.fault s c x) := by
  unfold State.fault
  grind only [← haltCarrel, ← enter]

theorem takePending (h : Lasts s₀ s) (c : BitVec 12) {u : State} (e : State.takePending s c = some u) :
    Lasts s₀ u := by
  unfold State.takePending at e
  grind only [← setCarrel, ← haltCarrel, ← enter]

theorem retire (h : Lasts s₀ s) (c : BitVec 12) (len : Nat) :
    Lasts s₀ (State.retire s c len) := by
  unfold State.retire
  apply_rules [modCarrel, upd, updSec, ite, h]

theorem missWait (h : Lasts s₀ s) (c : BitVec 12) (stream : BitVec 3) (seg : BitVec 4) :
    Lasts s₀ (State.missWait s c stream seg) := by
  unfold State.missWait
  apply_rules [modCarrel, upd, updSec, h]

theorem finish (h : Lasts s₀ s) (c : BitVec 12) (len : Nat) {r : Res} (hr : Res.Lasts s₀ r) :
    Lasts s₀ (s.finish c len r) := by
  cases r with
  | done t => exact retire hr _ _
  | jump t => exact hr
  | went t => exact modCarrel hr _ _
  | hold t => exact hr
  | exc e => exact h.fault _ _

theorem of_runInstr (h : Lasts s₀ s) (c : BitVec 12) (len : Nat) {body : State → Res} (hb : Res.Lasts s₀ (body s)) :
    OutLasts s₀ (runInstr c len body s) := by
  refine .next ?_
  split
  · exact h
  · split
    · next t e => exact h.takePending c e
    · split
      · exact h.missWait _ _ _
      · exact h.fault _ _
      · exact ite (h.retire _ _) (h.finish _ _ hb)

theorem of_withStacks (c : BitVec 12) (u : StackUse) {body : State → Res} (hb : Res.Lasts s₀ (body s)) :
    Res.Lasts s₀ (withStacks c u body s) := by
  unfold withStacks
  split
  · trivial
  · exact hb

/-! ### Flags -/

theorem reportNan (h : Lasts s₀ s) (c : BitVec 12) (e : NanEvent) :
    Lasts s₀ (State.reportNan s c e) := by
  unfold State.reportNan
  apply_rules [modCarrel, upd, updSec, h]

theorem coreNan (h : Lasts s₀ s) (c : BitVec 12) (src : BitVec 3) (elem : Nat) (cause : Option NanCause) :
    Lasts s₀ (State.coreNan s c src elem cause) := by
  unfold State.coreNan
  split <;> apply_rules [reportNan, upd, updSec, h]

theorem engineNan (h : Lasts s₀ s) (c : BitVec 12) (src : BitVec 3) (opnum : Nat) (row : Nat) (col : Nat)
    (group : Nat) (x : NanCause) :
    Lasts s₀ (State.engineNan s c src opnum row col group x) := by
  unfold State.engineNan
  apply_rules [reportNan, h]

/-! ### Scalar -/

theorem of_stackOp (h : Lasts s₀ s) (c : BitVec 12) (pop : Nat) (push : Nat) (f : List Word → List Word) :
    OutLasts s₀ (stackOp c pop push f s) := by
  unfold stackOp
  apply_rules [popD, pushDs, of_runInstr, of_withStacks, h]

theorem of_execDup (h : Lasts s₀ s) (c : BitVec 12) :
    OutLasts s₀ (execDup c s) := by
  unfold execDup
  apply_rules [of_stackOp, h]

theorem of_execDrop (h : Lasts s₀ s) (c : BitVec 12) :
    OutLasts s₀ (execDrop c s) := by
  unfold execDrop
  apply_rules [of_stackOp, h]

theorem of_execSwap (h : Lasts s₀ s) (c : BitVec 12) :
    OutLasts s₀ (execSwap c s) := by
  unfold execSwap
  apply_rules [of_stackOp, h]

theorem of_execOverTop (h : Lasts s₀ s) (c : BitVec 12) :
    OutLasts s₀ (execOverTop c s) := by
  unfold execOverTop
  apply_rules [of_stackOp, h]

theorem of_execRot (h : Lasts s₀ s) (c : BitVec 12) :
    OutLasts s₀ (execRot c s) := by
  unfold execRot
  apply_rules [of_stackOp, h]

theorem of_execNip (h : Lasts s₀ s) (c : BitVec 12) :
    OutLasts s₀ (execNip c s) := by
  unfold execNip
  apply_rules [of_stackOp, h]

theorem of_execPick (h : Lasts s₀ s) (c : BitVec 12) (n : BitVec 4) : OutLasts s₀ (execPick c n s) :=
  of_runInstr h _ _ (of_withStacks _ _ (h.pushD _ _))

theorem of_execPushr (h : Lasts s₀ s) (c : BitVec 12) : OutLasts s₀ (execPushr c s) :=
  of_runInstr h _ _ (of_withStacks _ _ ((h.popD _ _).pushR _ _))

theorem of_execPopr (h : Lasts s₀ s) (c : BitVec 12) : OutLasts s₀ (execPopr c s) :=
  of_runInstr h _ _ (of_withStacks _ _ ((h.popR _ _).pushD _ _))

theorem of_execRcopy (h : Lasts s₀ s) (c : BitVec 12) :
    OutLasts s₀ (execRcopy c s) := by
  refine of_runInstr h _ _ (of_withStacks _ _ ?_)
  grind only [Res.Lasts, ← popR, ← pushD, ← pushR, ← of_runInstr, ← of_withStacks, ← OutLasts.next]

theorem of_unOp (h : Lasts s₀ s) (c : BitVec 12) (f : Word → Word) :
    OutLasts s₀ (unOp c f s) := by
  unfold unOp
  apply_rules [of_stackOp, h]

theorem of_binOp (h : Lasts s₀ s) (c : BitVec 12) (f : Word → Word → Word) :
    OutLasts s₀ (binOp c f s) := by
  unfold binOp
  apply_rules [of_stackOp, h]

theorem of_execAdd (h : Lasts s₀ s) (c : BitVec 12) :
    OutLasts s₀ (execAdd c s) := by
  unfold execAdd
  apply_rules [of_binOp, h]

theorem of_execSub (h : Lasts s₀ s) (c : BitVec 12) :
    OutLasts s₀ (execSub c s) := by
  unfold execSub
  apply_rules [of_binOp, h]

theorem of_execMul (h : Lasts s₀ s) (c : BitVec 12) :
    OutLasts s₀ (execMul c s) := by
  unfold execMul
  apply_rules [of_binOp, h]

theorem of_execMulh (h : Lasts s₀ s) (c : BitVec 12) :
    OutLasts s₀ (execMulh c s) := by
  unfold execMulh
  apply_rules [of_binOp, h]

theorem of_execMulhu (h : Lasts s₀ s) (c : BitVec 12) :
    OutLasts s₀ (execMulhu c s) := by
  unfold execMulhu
  apply_rules [of_binOp, h]

theorem of_execDiv (h : Lasts s₀ s) (c : BitVec 12) :
    OutLasts s₀ (execDiv c s) := by
  unfold execDiv
  apply_rules [of_binOp, h]

theorem of_execDivu (h : Lasts s₀ s) (c : BitVec 12) :
    OutLasts s₀ (execDivu c s) := by
  unfold execDivu
  apply_rules [of_binOp, h]

theorem of_execRem (h : Lasts s₀ s) (c : BitVec 12) :
    OutLasts s₀ (execRem c s) := by
  unfold execRem
  apply_rules [of_binOp, h]

theorem of_execRemu (h : Lasts s₀ s) (c : BitVec 12) :
    OutLasts s₀ (execRemu c s) := by
  unfold execRemu
  apply_rules [of_binOp, h]

theorem of_execAnd (h : Lasts s₀ s) (c : BitVec 12) :
    OutLasts s₀ (execAnd c s) := by
  unfold execAnd
  apply_rules [of_binOp, h]

theorem of_execOr (h : Lasts s₀ s) (c : BitVec 12) :
    OutLasts s₀ (execOr c s) := by
  unfold execOr
  apply_rules [of_binOp, h]

theorem of_execXor (h : Lasts s₀ s) (c : BitVec 12) :
    OutLasts s₀ (execXor c s) := by
  unfold execXor
  apply_rules [of_binOp, h]

theorem of_execNot (h : Lasts s₀ s) (c : BitVec 12) :
    OutLasts s₀ (execNot c s) := by
  unfold execNot
  apply_rules [of_unOp, h]

theorem of_execNeg (h : Lasts s₀ s) (c : BitVec 12) :
    OutLasts s₀ (execNeg c s) := by
  unfold execNeg
  apply_rules [of_unOp, h]

theorem of_execShl (h : Lasts s₀ s) (c : BitVec 12) :
    OutLasts s₀ (execShl c s) := by
  unfold execShl
  apply_rules [of_binOp, h]

theorem of_execShr (h : Lasts s₀ s) (c : BitVec 12) :
    OutLasts s₀ (execShr c s) := by
  unfold execShr
  apply_rules [of_binOp, h]

theorem of_execSar (h : Lasts s₀ s) (c : BitVec 12) :
    OutLasts s₀ (execSar c s) := by
  unfold execSar
  apply_rules [of_binOp, h]

theorem of_execCmpeq (h : Lasts s₀ s) (c : BitVec 12) :
    OutLasts s₀ (execCmpeq c s) := by
  unfold execCmpeq
  apply_rules [of_binOp, h]

theorem of_execCmpne (h : Lasts s₀ s) (c : BitVec 12) :
    OutLasts s₀ (execCmpne c s) := by
  unfold execCmpne
  apply_rules [of_binOp, h]

theorem of_execCmplt (h : Lasts s₀ s) (c : BitVec 12) :
    OutLasts s₀ (execCmplt c s) := by
  unfold execCmplt
  apply_rules [of_binOp, h]

theorem of_execCmple (h : Lasts s₀ s) (c : BitVec 12) :
    OutLasts s₀ (execCmple c s) := by
  unfold execCmple
  apply_rules [of_binOp, h]

theorem of_execCmpltu (h : Lasts s₀ s) (c : BitVec 12) :
    OutLasts s₀ (execCmpltu c s) := by
  unfold execCmpltu
  apply_rules [of_binOp, h]

theorem of_execCmpleu (h : Lasts s₀ s) (c : BitVec 12) :
    OutLasts s₀ (execCmpleu c s) := by
  unfold execCmpleu
  apply_rules [of_binOp, h]

theorem of_fpOp (h : Lasts s₀ s) (c : BitVec 12) (pop : Nat) (f : List Word → FRes) :
    OutLasts s₀ (fpOp c pop f s) := by
  refine of_runInstr h _ _ (of_withStacks _ _ ?_)
  grind only [Res.Lasts, ← popD, ← pushD, ← of_runInstr, ← of_withStacks, ← coreNan, ← OutLasts.next]

theorem of_execFadd (h : Lasts s₀ s) (c : BitVec 12) :
    OutLasts s₀ (execFadd c s) := by
  unfold execFadd
  apply_rules [of_fpOp, h]

theorem of_execFsub (h : Lasts s₀ s) (c : BitVec 12) :
    OutLasts s₀ (execFsub c s) := by
  unfold execFsub
  apply_rules [of_fpOp, h]

theorem of_execFmul (h : Lasts s₀ s) (c : BitVec 12) :
    OutLasts s₀ (execFmul c s) := by
  unfold execFmul
  apply_rules [of_fpOp, h]

theorem of_execFfma (h : Lasts s₀ s) (c : BitVec 12) :
    OutLasts s₀ (execFfma c s) := by
  unfold execFfma
  apply_rules [of_fpOp, h]

theorem of_execFdiv (h : Lasts s₀ s) (c : BitVec 12) :
    OutLasts s₀ (execFdiv c s) := by
  unfold execFdiv
  apply_rules [of_fpOp, h]

theorem of_execFsqrt (h : Lasts s₀ s) (c : BitVec 12) :
    OutLasts s₀ (execFsqrt c s) := by
  unfold execFsqrt
  apply_rules [of_fpOp, h]

theorem of_execFneg (h : Lasts s₀ s) (c : BitVec 12) :
    OutLasts s₀ (execFneg c s) := by
  unfold execFneg
  apply_rules [of_unOp, h]

theorem of_execFabs (h : Lasts s₀ s) (c : BitVec 12) :
    OutLasts s₀ (execFabs c s) := by
  unfold execFabs
  apply_rules [of_unOp, h]

theorem of_execFmin (h : Lasts s₀ s) (c : BitVec 12) :
    OutLasts s₀ (execFmin c s) := by
  unfold execFmin
  apply_rules [of_binOp, h]

theorem of_execFmax (h : Lasts s₀ s) (c : BitVec 12) :
    OutLasts s₀ (execFmax c s) := by
  unfold execFmax
  apply_rules [of_binOp, h]

theorem of_execFcmpeq (h : Lasts s₀ s) (c : BitVec 12) :
    OutLasts s₀ (execFcmpeq c s) := by
  unfold execFcmpeq
  apply_rules [of_binOp, h]

theorem of_execFcmplt (h : Lasts s₀ s) (c : BitVec 12) :
    OutLasts s₀ (execFcmplt c s) := by
  unfold execFcmplt
  apply_rules [of_binOp, h]

theorem of_execFcmple (h : Lasts s₀ s) (c : BitVec 12) :
    OutLasts s₀ (execFcmple c s) := by
  unfold execFcmple
  apply_rules [of_binOp, h]

theorem of_execFcvtI2f (h : Lasts s₀ s) (c : BitVec 12) :
    OutLasts s₀ (execFcvtI2f c s) := by
  unfold execFcvtI2f
  apply_rules [of_unOp, h]

theorem of_execFcvtU2f (h : Lasts s₀ s) (c : BitVec 12) :
    OutLasts s₀ (execFcvtU2f c s) := by
  unfold execFcvtU2f
  apply_rules [of_unOp, h]

theorem of_execFcvtF2i (h : Lasts s₀ s) (c : BitVec 12) :
    OutLasts s₀ (execFcvtF2i c s) := by
  unfold execFcvtF2i
  apply_rules [of_unOp, h]

theorem of_execFcvtF2u (h : Lasts s₀ s) (c : BitVec 12) :
    OutLasts s₀ (execFcvtF2u c s) := by
  unfold execFcvtF2u
  apply_rules [of_unOp, h]

theorem of_execFcvtD2s (h : Lasts s₀ s) (c : BitVec 12) :
    OutLasts s₀ (execFcvtD2s c s) := by
  unfold execFcvtD2s
  apply_rules [of_unOp, h]

theorem of_execFcvtS2d (h : Lasts s₀ s) (c : BitVec 12) :
    OutLasts s₀ (execFcvtS2d c s) := by
  unfold execFcvtS2d
  apply_rules [of_unOp, h]

theorem of_pushLit (h : Lasts s₀ s) (c : BitVec 12) (len : Nat) (x : Word) :
    OutLasts s₀ (pushLit c len x s) := by
  unfold pushLit
  apply_rules [pushD, of_runInstr, of_withStacks, h]

theorem of_execLit6 (h : Lasts s₀ s) (c : BitVec 12) (v : BitVec 6) :
    OutLasts s₀ (execLit6 c v s) := by
  unfold execLit6
  apply_rules [of_pushLit, h]

theorem of_execLit32 (h : Lasts s₀ s) (c : BitVec 12) (v : BitVec 25) :
    OutLasts s₀ (execLit32 c v s) := by
  unfold execLit32
  apply_rules [of_pushLit, h]

theorem of_execLitx (h : Lasts s₀ s) (c : BitVec 12) (v : BitVec 25) : OutLasts s₀ (execLitx c v s) :=
  of_runInstr h _ _ (of_withStacks _ _ ((h.popD _ _).pushD _ _))

/-! ### ShortVec -/

theorem of_pairOp (h : Lasts s₀ s) (c : BitVec 12) (np : Nat) (f : List Nat → Nat × Option NanCause) :
    OutLasts s₀ (pairOp c np f s) := by
  refine of_runInstr h _ _ (of_withStacks _ _ ?_)
  grind only [Res.Lasts, ← popD, ← pushDs, ← of_runInstr, ← of_withStacks, ← coreNan, ← OutLasts.next]

theorem of_pair2 (h : Lasts s₀ s) (c : BitVec 12) (t : BitVec 3) (f : Elem → Nat → Nat → FRes) :
    OutLasts s₀ (pair2 c t f s) := by
  unfold pair2
  apply_rules [of_pairOp, h]

theorem of_execPAdd (h : Lasts s₀ s) (c : BitVec 12) (t : BitVec 3) :
    OutLasts s₀ (execPAdd c t s) := by
  unfold execPAdd
  apply_rules [of_pair2, h]

theorem of_execPSub (h : Lasts s₀ s) (c : BitVec 12) (t : BitVec 3) :
    OutLasts s₀ (execPSub c t s) := by
  unfold execPSub
  apply_rules [of_pair2, h]

theorem of_execPMul (h : Lasts s₀ s) (c : BitVec 12) (t : BitVec 3) :
    OutLasts s₀ (execPMul c t s) := by
  unfold execPMul
  apply_rules [of_pair2, h]

theorem of_execPFma (h : Lasts s₀ s) (c : BitVec 12) (t : BitVec 3) :
    OutLasts s₀ (execPFma c t s) := by
  unfold execPFma
  apply_rules [of_pairOp, h]

theorem of_execPMin (h : Lasts s₀ s) (c : BitVec 12) (t : BitVec 3) :
    OutLasts s₀ (execPMin c t s) := by
  unfold execPMin
  apply_rules [of_pair2, h]

theorem of_execPMax (h : Lasts s₀ s) (c : BitVec 12) (t : BitVec 3) :
    OutLasts s₀ (execPMax c t s) := by
  unfold execPMax
  apply_rules [of_pair2, h]

theorem of_pairBits (h : Lasts s₀ s) (c : BitVec 12) (f : Nat → Nat → Nat) :
    OutLasts s₀ (pairBits c f s) := by
  unfold pairBits
  apply_rules [of_pairOp, h]

theorem of_execPAnd (h : Lasts s₀ s) (c : BitVec 12) (_t : BitVec 3) :
    OutLasts s₀ (execPAnd c _t s) := by
  unfold execPAnd
  apply_rules [of_pairBits, h]

theorem of_execPOr (h : Lasts s₀ s) (c : BitVec 12) (_t : BitVec 3) :
    OutLasts s₀ (execPOr c _t s) := by
  unfold execPOr
  apply_rules [of_pairBits, h]

theorem of_execPXor (h : Lasts s₀ s) (c : BitVec 12) (_t : BitVec 3) :
    OutLasts s₀ (execPXor c _t s) := by
  unfold execPXor
  apply_rules [of_pairBits, h]

theorem of_execPCmpeq (h : Lasts s₀ s) (c : BitVec 12) (t : BitVec 3) :
    OutLasts s₀ (execPCmpeq c t s) := by
  unfold execPCmpeq
  apply_rules [of_pair2, h]

theorem of_execPCmplt (h : Lasts s₀ s) (c : BitVec 12) (t : BitVec 3) :
    OutLasts s₀ (execPCmplt c t s) := by
  unfold execPCmplt
  apply_rules [of_pair2, h]

theorem of_execPSel (h : Lasts s₀ s) (c : BitVec 12) (_t : BitVec 3) :
    OutLasts s₀ (execPSel c _t s) := by
  unfold execPSel
  apply_rules [of_pairOp, h]

theorem of_pairShift (h : Lasts s₀ s) (c : BitVec 12) (op : Nat) (t : BitVec 3) (f : Nat → Nat → Nat → Nat) :
    OutLasts s₀ (pairShift c op t f s) := by
  refine of_runInstr h _ _ ?_
  grind only [Res.Lasts, ← of_withStacks, ← popD, ← pushDs, ← of_runInstr, ← OutLasts.next]

theorem of_execPShl (h : Lasts s₀ s) (c : BitVec 12) (t : BitVec 3) :
    OutLasts s₀ (execPShl c t s) := by
  unfold execPShl
  apply_rules [of_pairShift, h]

theorem of_execPShr (h : Lasts s₀ s) (c : BitVec 12) (t : BitVec 3) :
    OutLasts s₀ (execPShr c t s) := by
  unfold execPShr
  apply_rules [of_pairShift, h]

theorem of_execPSar (h : Lasts s₀ s) (c : BitVec 12) (t : BitVec 3) :
    OutLasts s₀ (execPSar c t s) := by
  unfold execPSar
  apply_rules [of_pairShift, h]

theorem of_execPHsum (h : Lasts s₀ s) (c : BitVec 12) (t : BitVec 3) :
    OutLasts s₀ (execPHsum c t s) := by
  refine of_runInstr h _ _ (of_withStacks _ _ ?_)
  grind only [Res.Lasts, ← popD, ← pushD, ← of_runInstr, ← of_withStacks, ← coreNan, ← OutLasts.next, ← foldl]

theorem of_execPBcast (h : Lasts s₀ s) (c : BitVec 12) (t : BitVec 3) :
    OutLasts s₀ (execPBcast c t s) := by
  refine of_runInstr h _ _ (of_withStacks _ _ ?_)
  grind only [Res.Lasts, ← popD, ← pushDs, ← of_runInstr, ← of_withStacks, ← OutLasts.next]

theorem of_execPDup (h : Lasts s₀ s) (c : BitVec 12) (_t : BitVec 3) :
    OutLasts s₀ (execPDup c _t s) := by
  unfold execPDup
  apply_rules [of_stackOp, h]

theorem of_execPDrop (h : Lasts s₀ s) (c : BitVec 12) (_t : BitVec 3) :
    OutLasts s₀ (execPDrop c _t s) := by
  unfold execPDrop
  apply_rules [of_stackOp, h]

theorem of_execPSwap (h : Lasts s₀ s) (c : BitVec 12) (_t : BitVec 3) :
    OutLasts s₀ (execPSwap c _t s) := by
  unfold execPSwap
  apply_rules [of_stackOp, h]

/-! ### Control -/

theorem goto (h : Lasts s₀ s) (c : BitVec 12) (pc : Word) :
    Lasts s₀ (State.goto s c pc) := by
  unfold State.goto
  apply_rules [modCarrel, upd, updSec, h]

theorem of_execBr (h : Lasts s₀ s) (c : BitVec 12) (long : Bool) (off : BitVec 23) :
    OutLasts s₀ (execBr c long off s) := by
  refine of_runInstr h _ _ ?_
  grind only [Res.Lasts, ← of_withStacks, ← of_runInstr, ← goto, ← OutLasts.next]

theorem of_condBr (h : Lasts s₀ s) (c : BitVec 12) (long : Bool) (off : BitVec 23) (take : Word → Bool) :
    OutLasts s₀ (condBr c long off take s) := by
  refine of_runInstr h _ _ (of_withStacks _ _ ?_)
  grind only [Res.Lasts, ← popD, ← of_runInstr, ← of_withStacks, ← goto, ← OutLasts.next]

theorem of_execBz (h : Lasts s₀ s) (c : BitVec 12) (long : Bool) (off : BitVec 23) :
    OutLasts s₀ (execBz c long off s) := by
  unfold execBz
  apply_rules [of_condBr, h]

theorem of_execBnz (h : Lasts s₀ s) (c : BitVec 12) (long : Bool) (off : BitVec 23) :
    OutLasts s₀ (execBnz c long off s) := by
  unfold execBnz
  apply_rules [of_condBr, h]

theorem of_execCall (h : Lasts s₀ s) (c : BitVec 12) (off : BitVec 25) :
    OutLasts s₀ (execCall c off s) := by
  refine of_runInstr h _ _ (of_withStacks _ _ ?_)
  grind only [Res.Lasts, ← pushR, ← of_runInstr, ← of_withStacks, ← goto, ← OutLasts.next]

theorem of_execCalli (h : Lasts s₀ s) (c : BitVec 12) :
    OutLasts s₀ (execCalli c s) := by
  refine of_runInstr h _ _ (of_withStacks _ _ ?_)
  grind only [Res.Lasts, ← popD, ← pushR, ← of_runInstr, ← of_withStacks, ← goto, ← OutLasts.next]

theorem of_execJmpi (h : Lasts s₀ s) (c : BitVec 12) :
    OutLasts s₀ (execJmpi c s) := by
  refine of_runInstr h _ _ (of_withStacks _ _ ?_)
  grind only [Res.Lasts, ← popD, ← of_runInstr, ← of_withStacks, ← goto, ← OutLasts.next]

theorem of_execRet (h : Lasts s₀ s) (c : BitVec 12) :
    OutLasts s₀ (execRet c s) := by
  refine of_runInstr h _ _ (of_withStacks _ _ ?_)
  grind only [Res.Lasts, ← popR, ← of_runInstr, ← of_withStacks, ← goto, ← OutLasts.next]

theorem of_execControlNop (h : Lasts s₀ s) (c : BitVec 12) :
    OutLasts s₀ (execControlNop c s) := by
  unfold execControlNop
  apply_rules [of_runInstr, h]

theorem of_execIllegalInstruction (h : Lasts s₀ s) (c : BitVec 12) (parcels : BitVec 32) :
    OutLasts s₀ (execIllegalInstruction c parcels s) := by
  refine of_runInstr h _ _ ?_
  grind only [Res.Lasts, ← of_withStacks, ← of_runInstr, ← OutLasts.next]

theorem of_afterPrefix (h : Lasts s₀ s) (c : BitVec 12) (nxt : BitVec 32) (parcel : Nat) {body : State → Res}
    (hb : Res.Lasts s₀ (body s)) : Res.Lasts s₀ (afterPrefix c nxt parcel body s) := by
  unfold afterPrefix
  dsimp only
  split
  · exact h.missWait _ _ _
  · trivial
  · split
    · trivial
    · exact hb

theorem of_execRepPrefix (h : Lasts s₀ s) (c : BitVec 12) (nxt : BitVec 32) :
    OutLasts s₀ (execRepPrefix c nxt s) := by
  refine of_runInstr h _ _ ?_
  grind only [Res.Lasts, ← of_withStacks, ← modCarrel, ← popD, ← of_runInstr, ← goto, ← of_afterPrefix,
      ← OutLasts.next]

theorem of_execRepxPrefix (h : Lasts s₀ s) (c : BitVec 12) (count : BitVec 8) (nxt : BitVec 32) :
    OutLasts s₀ (execRepxPrefix c count nxt s) := by
  unfold execRepxPrefix
  apply_rules [modCarrel, of_runInstr, of_afterPrefix, upd, updSec, h]

theorem enterShadow (h : Lasts s₀ s) (c : BitVec 12) (t : BitVec 2) :
    Lasts s₀ (State.enterShadow s c t) := by
  unfold State.enterShadow
  apply_rules [modCarrel, upd, updSec, h]

theorem of_execSys (h : Lasts s₀ s) (c : BitVec 12) (toM : Bool) :
    OutLasts s₀ (execSys c toM s) := by
  refine of_runInstr h _ _ ?_
  grind only [Res.Lasts, ← of_withStacks, ← haltCarrel, ← enter, ← of_runInstr, ← enterShadow, ← OutLasts.next]

theorem of_gateRes (h : Lasts s₀ s) (c : BitVec 12) (n : BitVec 10) (k : Carrel) (off e0 w1 narg : Nat)
    (g : GateCheck) :
    Res.Lasts s₀ (gateRes s c n k off e0 w1 narg g) := by
  have hp := h.popD c narg
  unfold gateRes
  extract_lets
  split
  · trivial
  · cases g with
    | miss seg => grind only [Res.Lasts, ← missWait]
    | fail i => grind only [Res.Lasts]
    | pass =>
      dsimp only
      grind only [Res.Lasts, ← haltCarrel, ← enter, ← pushDs]

theorem of_execGate (h : Lasts s₀ s) (c : BitVec 12) (n : BitVec 10) : OutLasts s₀ (execGate c n s) := by
  rw [execGate_eq]
  exact of_runInstr h _ _ (h.of_gateRes _ _ _ _ _ _ _ _)

theorem of_execRetx (h : Lasts s₀ s) (c : BitVec 12) :
    OutLasts s₀ (execRetx c s) := by
  refine of_runInstr h _ _ ?_
  grind only [Res.Lasts, ← of_withStacks, ← modCarrel, ← popD, ← pushBank, ← of_runInstr, ← OutLasts.next, ← foldl]

theorem of_execInterruptEntry (h : Lasts s₀ s) (c : BitVec 12) : OutLasts s₀ (execInterruptEntry c s) := by
  refine .next ?_
  split
  · cases e : s.takePending c with
    | none => exact h
    | some t => exact h.takePending c e
  · exact h

theorem of_execKeeperInterruptRequest (h : Lasts s₀ s) (x : IrqSource) :
    OutLasts s₀ (execKeeperInterruptRequest x s) := by
  unfold execKeeperInterruptRequest
  apply_rules [modCarrel, OutLasts.next, upd, updSec, h]

/-! ### CtrlRegs -/

theorem of_execCrd (h : Lasts s₀ s) (c : BitVec 12) (n : BitVec 10) :
    OutLasts s₀ (execCrd c n s) := by
  refine of_runInstr h _ _ ?_
  grind only [Res.Lasts, ← of_withStacks, ← modCarrel, ← pushD, ← of_runInstr, ← OutLasts.next, ← upd]

theorem of_execCwr (h : Lasts s₀ s) (c : BitVec 12) (n : BitVec 10) :
    OutLasts s₀ (execCwr c n s) := by
  refine of_runInstr h _ _ ?_
  grind only [Res.Lasts, ← of_withStacks, ← modCarrel, ← popD, ← of_runInstr, ← OutLasts.next]

/-! ### Report -/

theorem send (h : Lasts s₀ s) (x : Sent) :
    Lasts s₀ (State.send s x) := by
  unfold State.send
  apply_rules [upd, updSec, h]

theorem modHctx (h : Lasts s₀ s) (c : Nat) (f : HostCtx → HostCtx) :
    Lasts s₀ (State.modHctx s c f) := by
  unfold State.modHctx
  apply_rules [upd, updSec, h]

theorem sendMsix (h : Lasts s₀ s) (f : BitVec 6) (v : BitVec 16) :
    Lasts s₀ (State.sendMsix s f v) := by
  unfold State.sendMsix
  split <;> apply_rules [send, ite, h]

theorem raiseCtx (h : Lasts s₀ s) (c : Nat) :
    Lasts s₀ (State.raiseCtx s c) := by
  unfold State.raiseCtx
  apply_rules [modHctx, sendMsix, upd, updSec, h]

theorem emcyNext (h : Lasts s₀ s) :
    Lasts s₀ (State.emcyNext s) := by
  unfold State.emcyNext
  split <;> apply_rules [send, upd, updSec, h]

theorem emcy (h : Lasts s₀ s) (code : BitVec 16) (regBit : Option Nat) (num : Option Nat) :
    Lasts s₀ (State.emcy s code regBit num) := by
  unfold State.emcy
  dsimp only
  repeat' split
  all_goals apply_rules [emcyNext, upd, updSec, ite, h]

theorem of_execEmcyInhibitExpiry (h : Lasts s₀ s) :
    OutLasts s₀ (execEmcyInhibitExpiry s) := by
  unfold execEmcyInhibitExpiry
  apply_rules [emcyNext, OutLasts.next, h]

theorem clearErrBit (h : Lasts s₀ s) (b : Nat) :
    Lasts s₀ (State.clearErrBit s b) := by
  unfold State.clearErrBit
  apply_rules [upd, updSec, h]

theorem clearLost (h : Lasts s₀ s) (a : Nat) (n : Nat) :
    Lasts s₀ (State.clearLost s a n) := by
  unfold State.clearLost
  split <;> apply_rules [upd, updSec, ite, h]

theorem store (h : Lasts s₀ s) (a : Nat) (b : List Byte) :
    Lasts s₀ (State.store s a b) := by
  unfold State.store
  apply_rules [setBytes, clearLost, h]

theorem setRing (h : Lasts s₀ s) (r : Ring) :
    Lasts s₀ (State.setRing s r) := by
  unfold State.setRing
  apply_rules [upd, updSec, h]

theorem ringLose (h : Lasts s₀ s) :
    Lasts s₀ (State.ringLose s) := by
  unfold State.ringLose
  apply_rules [emcy, setRing, upd, updSec, h]

theorem recordEmcy (h : Lasts s₀ s) (code : BitVec 16) (num : Nat) :
    Lasts s₀ (State.recordEmcy s code num) := by
  unfold State.recordEmcy
  repeat' split
  all_goals apply_rules [emcy, ite, h]

theorem ringWrite (h : Lasts s₀ s) (h : HeldReport) :
    Lasts s₀ (State.ringWrite s h) := by
  unfold State.ringWrite
  grind only [← sendMsix, ← raiseCtx, ← store, ← setRing, ← ringLose]

theorem report (h : Lasts s₀ s) (rep : Report) (ref : Option Nat := none) :
    Lasts s₀ (State.report s rep ref) := by
  unfold State.report
  grind only [← setRing, ← ringLose, ← recordEmcy, ← ringWrite]

theorem ringEnable (h : Lasts s₀ s) :
    Lasts s₀ (State.ringEnable s) := by
  unfold State.ringEnable
  grind only [← setRing, ← ringWrite, ← foldl]

theorem ringCtl (h : Lasts s₀ s) (v : Word) :
    Lasts s₀ (State.ringCtl s v) := by
  unfold State.ringCtl
  grind only [← setRing, ← ringEnable]

theorem of_execErrorReport (h : Lasts s₀ s) (report : Report) :
    OutLasts s₀ (execErrorReport report s) := by
  unfold execErrorReport
  grind only [← report, ← OutLasts.next]

/-! ### LinkTx -/

theorem setFunc (h : Lasts s₀ s) (f : FuncId) (x : Func) :
    Lasts s₀ (State.setFunc s f x) := by
  unfold State.setFunc
  apply_rules [upd, updSec, h]

theorem modLink (h : Lasts s₀ s) (l : Nat) (f : Link → Link) :
    Lasts s₀ (State.modLink s l f) := by
  unfold State.modLink
  apply_rules [upd, updSec, h]

theorem emitFlit (h : Lasts s₀ s) (l : Nat) (mark : Bool) (units : List Word) :
    Lasts s₀ (State.emitFlit s l mark units) := by
  unfold State.emitFlit
  split <;> apply_rules [draw, send, modLink, upd, updSec, ite, h]

theorem emitItem (h : Lasts s₀ s) (l : Nat) (i : Item) :
    Lasts s₀ (State.emitItem s l i) := by
  unfold State.emitItem
  grind only [← modLink, ← emitFlit, ← foldl]

theorem flushTx (h : Lasts s₀ s) (l : Nat) :
    Lasts s₀ (State.flushTx s l) := by
  unfold State.flushTx
  grind only [← modLink, ← emitItem, ← foldl]

theorem sendOn (h : Lasts s₀ s) (l : Nat) (i : Item) (n : Nat) : Lasts s₀ (s.sendOn l i n) := by
  induction n generalizing l i with
  | zero => exact h
  | succ n ih =>
    unfold State.sendOn
    grind only [← modLink, ← emitItem]

theorem sendItem (h : Lasts s₀ s) (i : Item) :
    Lasts s₀ (State.sendItem s i) := by
  unfold State.sendItem
  grind only [← sendOn, ← upd, ← updSec]

theorem sendRequest (h : Lasts s₀ s) (who : Requester) (kind : Nat) (pa : Nat) (part : BitVec 6)
    (planned : Bool) (op : BitVec 4) (ret : Bool) (w : Bool) (more : List Word) :
    Lasts s₀ (State.sendRequest s who kind pa part planned op ret w more) := by
  unfold State.sendRequest
  apply_rules [sendItem, upd, updSec, h]

theorem unask (h : Lasts s₀ s) (who : Requester) :
    Lasts s₀ (State.unask s who) := by
  unfold State.unask
  split <;> apply_rules [upd, updSec, h]

theorem forget (h : Lasts s₀ s) (who : Requester) :
    Lasts s₀ (State.forget s who) := by
  unfold State.forget
  apply_rules [upd, updSec, h]

/-! ### Cache -/

theorem issue (h : Lasts s₀ s) (c : BitVec 12) (f : List MergeEntry → List MergeEntry) :
    Lasts s₀ (State.issue s c f) := by
  unfold State.issue
  grind only [← modCarrel, ← sendRequest, ← foldl]

theorem sendRead (h : Lasts s₀ s) (c : BitVec 12) (pa : Nat) (part : BitVec 6) :
    Lasts s₀ (State.sendRead s c pa part) := by
  unfold State.sendRead
  split <;> apply_rules [sendRequest, ite, h]

theorem sendAtomic (h : Lasts s₀ s) (c : BitVec 12) (op : BitVec 4) (w : Bool) (pa : Nat) (part : BitVec 6)
    (x : Word) (e : Word) :
    Lasts s₀ (State.sendAtomic s c op w pa part x e) := by
  unfold State.sendAtomic
  split <;> apply_rules [sendRequest, ite, h]

theorem settleLoad (h : Lasts s₀ s) (c : BitVec 12) (len : Nat) (signed : Bool) (hs : List LoadHalf) :
    Lasts s₀ (State.settleLoad s c len signed hs) := by
  unfold State.settleLoad
  grind only [← modCarrel, ← popD, ← pushD, ← retire]

theorem of_loadInstr (h : Lasts s₀ s) (c : BitVec 12) (n : Nat) (signed : Bool) (off : BitVec 22) :
    OutLasts s₀ (loadInstr c n signed off s) := by
  refine of_runInstr h _ _ (of_withStacks _ _ ?_)
  grind only [Res.Lasts, ← modCarrel, ← missWait, ← of_runInstr, ← of_withStacks, ← issue, ← sendRead,
      ← settleLoad, ← OutLasts.next, ← foldl]

theorem of_execLd8 (h : Lasts s₀ s) (c : BitVec 12) (off : BitVec 22) :
    OutLasts s₀ (execLd8 c off s) := by
  unfold execLd8
  apply_rules [of_loadInstr, h]

theorem of_execLd16 (h : Lasts s₀ s) (c : BitVec 12) (off : BitVec 22) :
    OutLasts s₀ (execLd16 c off s) := by
  unfold execLd16
  apply_rules [of_loadInstr, h]

theorem of_execLd32 (h : Lasts s₀ s) (c : BitVec 12) (off : BitVec 22) :
    OutLasts s₀ (execLd32 c off s) := by
  unfold execLd32
  apply_rules [of_loadInstr, h]

theorem of_execLd64 (h : Lasts s₀ s) (c : BitVec 12) (off : BitVec 22) :
    OutLasts s₀ (execLd64 c off s) := by
  unfold execLd64
  apply_rules [of_loadInstr, h]

theorem of_execLd8s (h : Lasts s₀ s) (c : BitVec 12) (off : BitVec 22) :
    OutLasts s₀ (execLd8s c off s) := by
  unfold execLd8s
  apply_rules [of_loadInstr, h]

theorem of_execLd16s (h : Lasts s₀ s) (c : BitVec 12) (off : BitVec 22) :
    OutLasts s₀ (execLd16s c off s) := by
  unfold execLd16s
  apply_rules [of_loadInstr, h]

theorem of_execLd32s (h : Lasts s₀ s) (c : BitVec 12) (off : BitVec 22) :
    OutLasts s₀ (execLd32s c off s) := by
  unfold execLd32s
  apply_rules [of_loadInstr, h]

theorem of_loadLocal (h : Lasts s₀ s) (c : BitVec 12) (n : Nat) (off : BitVec 9) :
    OutLasts s₀ (loadLocal c n off s) := by
  refine of_runInstr h _ _ (of_withStacks _ _ ?_)
  grind only [Res.Lasts, ← popD, ← pushD, ← of_runInstr, ← of_withStacks, ← OutLasts.next]

theorem of_execLd8L (h : Lasts s₀ s) (c : BitVec 12) (off : BitVec 9) :
    OutLasts s₀ (execLd8L c off s) := by
  unfold execLd8L
  apply_rules [of_loadLocal, h]

theorem of_execLd16L (h : Lasts s₀ s) (c : BitVec 12) (off : BitVec 9) :
    OutLasts s₀ (execLd16L c off s) := by
  unfold execLd16L
  apply_rules [of_loadLocal, h]

theorem of_execLd32L (h : Lasts s₀ s) (c : BitVec 12) (off : BitVec 9) :
    OutLasts s₀ (execLd32L c off s) := by
  unfold execLd32L
  apply_rules [of_loadLocal, h]

theorem of_execLd64L (h : Lasts s₀ s) (c : BitVec 12) (off : BitVec 9) :
    OutLasts s₀ (execLd64L c off s) := by
  unfold execLd64L
  apply_rules [of_loadLocal, h]

theorem of_storeLocal (h : Lasts s₀ s) (c : BitVec 12) (n : Nat) (off : BitVec 9) :
    OutLasts s₀ (storeLocal c n off s) := by
  refine of_runInstr h _ _ (of_withStacks _ _ ?_)
  grind only [Res.Lasts, ← setLe, ← popD, ← of_runInstr, ← of_withStacks, ← OutLasts.next]

theorem of_execSt8L (h : Lasts s₀ s) (c : BitVec 12) (off : BitVec 9) :
    OutLasts s₀ (execSt8L c off s) := by
  unfold execSt8L
  apply_rules [of_storeLocal, h]

theorem of_execSt16L (h : Lasts s₀ s) (c : BitVec 12) (off : BitVec 9) :
    OutLasts s₀ (execSt16L c off s) := by
  unfold execSt16L
  apply_rules [of_storeLocal, h]

theorem of_execSt32L (h : Lasts s₀ s) (c : BitVec 12) (off : BitVec 9) :
    OutLasts s₀ (execSt32L c off s) := by
  unfold execSt32L
  apply_rules [of_storeLocal, h]

theorem of_execSt64L (h : Lasts s₀ s) (c : BitVec 12) (off : BitVec 9) :
    OutLasts s₀ (execSt64L c off s) := by
  unfold execSt64L
  apply_rules [of_storeLocal, h]

theorem settleStore (h : Lasts s₀ s) (c : BitVec 12) (len : Nat) (hs : List StoreHalf) :
    Lasts s₀ (State.settleStore s c len hs) := by
  unfold State.settleStore
  grind only [← setCarrel, ← modCarrel, ← setBytes, ← popD, ← retire, ← store, ← issue, ← foldl]

theorem of_storeInstr (h : Lasts s₀ s) (c : BitVec 12) (n : Nat) (off : BitVec 22) :
    OutLasts s₀ (storeInstr c n off s) := by
  refine of_runInstr h _ _ (of_withStacks _ _ ?_)
  grind only [Res.Lasts, ← missWait, ← of_runInstr, ← of_withStacks, ← settleStore, ← OutLasts.next]

theorem of_execSt8 (h : Lasts s₀ s) (c : BitVec 12) (off : BitVec 22) :
    OutLasts s₀ (execSt8 c off s) := by
  unfold execSt8
  apply_rules [of_storeInstr, h]

theorem of_execSt16 (h : Lasts s₀ s) (c : BitVec 12) (off : BitVec 22) :
    OutLasts s₀ (execSt16 c off s) := by
  unfold execSt16
  apply_rules [of_storeInstr, h]

theorem of_execSt32 (h : Lasts s₀ s) (c : BitVec 12) (off : BitVec 22) :
    OutLasts s₀ (execSt32 c off s) := by
  unfold execSt32
  apply_rules [of_storeInstr, h]

theorem of_execSt64 (h : Lasts s₀ s) (c : BitVec 12) (off : BitVec 22) :
    OutLasts s₀ (execSt64 c off s) := by
  unfold execSt64
  apply_rules [of_storeInstr, h]

theorem atomicAt (h : Lasts s₀ s) (op : BitVec 4) (n : Nat) (pa : Nat) (x : Word) (e : Word) :
    Lasts s₀ (State.atomicAt s op n pa x e).2 := by
  unfold State.atomicAt
  apply_rules [setLe, h]

theorem finishAtomic (h : Lasts s₀ s) (c : BitVec 12) (len : Nat) (op : BitVec 4) (old : Word) :
    Lasts s₀ (State.finishAtomic s c len op old) := by
  unfold State.finishAtomic
  grind only [← modCarrel, ← popD, ← pushD, ← retire]

theorem of_atomicInstr (h : Lasts s₀ s) (c : BitVec 12) (op : BitVec 4) (w : Bool) (off : BitVec 20) :
    OutLasts s₀ (atomicInstr c op w off s) := by
  refine of_runInstr h _ _ (of_withStacks _ _ ?_)
  grind only [Res.Lasts, ← modCarrel, ← missWait, ← of_runInstr, ← of_withStacks, ← issue, ← sendAtomic,
      ← atomicAt, ← finishAtomic, ← OutLasts.next]

theorem of_execAadd (h : Lasts s₀ s) (c : BitVec 12) (w : Bool) (off : BitVec 20) :
    OutLasts s₀ (execAadd c w off s) := by
  unfold execAadd
  apply_rules [of_atomicInstr, h]

theorem of_execAmin (h : Lasts s₀ s) (c : BitVec 12) (w : Bool) (off : BitVec 20) :
    OutLasts s₀ (execAmin c w off s) := by
  unfold execAmin
  apply_rules [of_atomicInstr, h]

theorem of_execAmax (h : Lasts s₀ s) (c : BitVec 12) (w : Bool) (off : BitVec 20) :
    OutLasts s₀ (execAmax c w off s) := by
  unfold execAmax
  apply_rules [of_atomicInstr, h]

theorem of_execAand (h : Lasts s₀ s) (c : BitVec 12) (w : Bool) (off : BitVec 20) :
    OutLasts s₀ (execAand c w off s) := by
  unfold execAand
  apply_rules [of_atomicInstr, h]

theorem of_execAor (h : Lasts s₀ s) (c : BitVec 12) (w : Bool) (off : BitVec 20) :
    OutLasts s₀ (execAor c w off s) := by
  unfold execAor
  apply_rules [of_atomicInstr, h]

theorem of_execAxor (h : Lasts s₀ s) (c : BitVec 12) (w : Bool) (off : BitVec 20) :
    OutLasts s₀ (execAxor c w off s) := by
  unfold execAxor
  apply_rules [of_atomicInstr, h]

theorem of_execAswap (h : Lasts s₀ s) (c : BitVec 12) (w : Bool) (off : BitVec 20) :
    OutLasts s₀ (execAswap c w off s) := by
  unfold execAswap
  apply_rules [of_atomicInstr, h]

theorem of_execAcas (h : Lasts s₀ s) (c : BitVec 12) (w : Bool) (off : BitVec 20) :
    OutLasts s₀ (execAcas c w off s) := by
  unfold execAcas
  apply_rules [of_atomicInstr, h]

theorem drainAll (h : Lasts s₀ s) (c : BitVec 12) :
    Lasts s₀ (State.drainAll s c) := by
  unfold State.drainAll
  apply_rules [issue, h]

theorem of_execFence (h : Lasts s₀ s) (c : BitVec 12) :
    OutLasts s₀ (execFence c s) := by
  refine of_runInstr h _ _ ?_
  grind only [Res.Lasts, ← of_withStacks, ← modCarrel, ← of_runInstr, ← drainAll, ← OutLasts.next]

theorem of_execFlushi (h : Lasts s₀ s) (c : BitVec 12) :
    OutLasts s₀ (execFlushi c s) := by
  refine of_runInstr h _ _ ?_
  grind only [Res.Lasts, ← of_withStacks, ← modCarrel, ← of_runInstr, ← drainAll, ← OutLasts.next]

theorem of_privileged (c : BitVec 12) {body : State → Res} (hb : Res.Lasts s₀ (body s)) :
    Res.Lasts s₀ (privileged c body s) := by
  unfold privileged
  split
  · trivial
  · exact hb

theorem of_execIcinv (h : Lasts s₀ s) (c : BitVec 12) :
    OutLasts s₀ (execIcinv c s) := by
  unfold execIcinv
  apply_rules [modCarrel, of_runInstr, of_privileged, h]

theorem cleanBlock (h : Lasts s₀ s) (c : BitVec 12) (pops : Nat) (block : Nat) (inv : Option Nat) :
    Res.Lasts s₀ (s.cleanBlock c pops block inv) := by
  unfold State.cleanBlock
  split
  · exact (h.issue _ _).modCarrel _ _
  · exact (h.popD _ _).modCarrel _ _

theorem of_byAddress (h : Lasts s₀ s) (c : BitVec 12) {f : State → Nat → Res} (hf : ∀ pa, Res.Lasts s₀ (f s pa)) :
    OutLasts s₀ (byAddress c f s) := by
  refine of_runInstr h _ _ (of_withStacks _ _ ?_)
  dsimp only
  split
  · exact h.missWait _ _ _
  · trivial
  · exact hf _

theorem of_execDclean (h : Lasts s₀ s)
    (c : BitVec 12) : OutLasts s₀ (execDclean c s) := of_byAddress h _ fun _ => h.cleanBlock _ _ _ _

theorem of_execDinv (h : Lasts s₀ s)
    (c : BitVec 12) : OutLasts s₀ (execDinv c s) := of_byAddress h _ fun _ => (h.popD _ _).modCarrel _ _

theorem of_execDclinv (h : Lasts s₀ s)
    (c : BitVec 12) : OutLasts s₀ (execDclinv c s) := of_byAddress h _ fun _ => h.cleanBlock _ _ _ _

theorem of_bySetWay (h : Lasts s₀ s) (c : BitVec 12) {f : State → Nat → Res} (hf : ∀ n, Res.Lasts s₀ (f s n)) :
    OutLasts s₀ (bySetWay c f s) := of_runInstr h _ _ (of_privileged _ (of_withStacks _ _ (hf _)))

theorem cleanSlot (h : Lasts s₀ s) (c : BitVec 12) (slot : Nat) (inv : Bool) :
    Res.Lasts s₀ (State.cleanSlot s c slot inv) := by
  unfold State.cleanSlot
  split <;> apply_rules [popD, cleanBlock, upd, updSec, ite, h]

theorem of_execDcleansw (h : Lasts s₀ s)
    (c : BitVec 12) : OutLasts s₀ (execDcleansw c s) := of_bySetWay h _ fun _ => h.cleanSlot _ _ _

theorem of_execDinvsw (h : Lasts s₀ s)
    (c : BitVec 12) : OutLasts s₀ (execDinvsw c s) := of_bySetWay h _ fun _ => (h.popD _ _).modCarrel _ _

theorem of_execDclinvsw (h : Lasts s₀ s)
    (c : BitVec 12) : OutLasts s₀ (execDclinvsw c s) := of_bySetWay h _ fun _ => h.cleanSlot _ _ _

theorem of_execMergeEntryTimeout (h : Lasts s₀ s) (c : BitVec 12) :
    OutLasts s₀ (execMergeEntryTimeout c s) := by
  unfold execMergeEntryTimeout
  apply_rules [issue, OutLasts.next, h]

theorem of_execCacheInitDone (h : Lasts s₀ s) (c : BitVec 12) (dcache : Bool) :
    OutLasts s₀ (execCacheInitDone c dcache s) := by
  unfold execCacheInitDone
  apply_rules [modCarrel, OutLasts.next, OutLasts.ite, upd, updSec, ite, h]

/-! ### Hbm -/

theorem modStack (h : Lasts s₀ s) (i : Nat) (f : Stack → Stack) :
    Lasts s₀ (State.modStack s i f) := by
  unfold State.modStack
  apply_rules [upd, updSec, h]

theorem fxSatAt (h : Lasts s₀ s) (a : Nat) :
    Lasts s₀ (State.fxSatAt s a) := by
  unfold State.fxSatAt
  apply_rules [report, modStack, upd, updSec, h]

theorem hbmOper (h : Lasts s₀ s) (a : Nat) (op : BitVec 4) (w : Bool) (x : Word) (cmp : Word) :
    Lasts s₀ (State.hbmOper s a op w x cmp).2 := by
  unfold State.hbmOper
  dsimp only
  repeat' split
  all_goals apply_rules [setLe, modStack, fxSatAt, upd, updSec, ite, h]

theorem stackCorr (h : Lasts s₀ s) (i : Nat) (n : Nat) :
    Lasts s₀ (State.stackCorr s i n) := by
  unfold State.stackCorr
  dsimp only
  repeat' split
  all_goals apply_rules [report, modStack, upd, updSec, ite, h]

theorem stackUncorr (h : Lasts s₀ s) (i : Nat) (acc : HbmAccess) :
    Lasts s₀ (State.stackUncorr s i acc) := by
  unfold State.stackUncorr
  apply_rules [modStack, upd, updSec, h]

theorem maskedStore (h : Lasts s₀ s) (a o : Nat) (l : List Byte) (m : List Bool) :
    Lasts s₀ (s.maskedStore a o l m) := by
  induction l generalizing s o m with
  | nil => exact h
  | cons b l ih =>
    refine ih ?_ _ _
    split
    · exact h.store _ _
    · exact h

theorem burstWrite (h : Lasts s₀ s) (a : Nat) (data : List Byte) (mask : List Bool) :
    Lasts s₀ (State.burstWrite s a data mask) := by
  unfold State.burstWrite
  grind only [← clearLost, ← maskedStore, ← foldl, ← upd, ← updSec]

theorem blockWrite (h : Lasts s₀ s) (a : Nat) (data : List Byte)
    (mask : List Bool) {u : State} (e : State.blockWrite s a data mask = some u) :
    Lasts s₀ u := by
  unfold State.blockWrite at e
  grind only [← burstWrite]

theorem perform (h : Lasts s₀ s) (r : HbmReq) :
    Lasts s₀ (State.perform s r) := by
  unfold State.perform
  dsimp only
  repeat' split
  all_goals apply_rules [hbmOper, stackCorr, stackUncorr, burstWrite, upd, updSec, ite, h]

theorem drawSome (h : Lasts s₀ s) (cls : HbmClass) (w : Nat) (key : Nat) (n : Nat) :
    Lasts s₀ (State.drawSome s cls w key n).2 := by
  unfold State.drawSome
  dsimp only
  repeat' split
  all_goals apply_rules [modStack, upd, updSec, ite, h]

theorem setPaid (h : Lasts s₀ s) (who : Requester) (t : Tab Nat) :
    Lasts s₀ (State.setPaid s who t) := by
  unfold State.setPaid
  apply_rules [upd, updSec, ite, h]

theorem askHbm (h : Lasts s₀ s) (who : Requester) (cls : HbmClass) (w : Nat) (need : Tab Nat) :
    Lasts s₀ (State.askHbm s who cls w need).2 := by
  have hdraw : Lasts s₀ (need.foldl (fun (q : Tab Nat × State) (x : Nat × Nat) =>
      (Tab.set 0 q.1 x.1 (Tab.get 0 q.1 x.1 + (q.2.drawSome cls w x.1 (x.2 - Tab.get 0 q.1 x.1)).1),
        (q.2.drawSome cls w x.1 (x.2 - Tab.get 0 q.1 x.1)).2)) (s.paidBy who, s)).2 :=
    List.foldlRecOn need _ (motive := fun (q : Tab Nat × State) => Lasts s₀ q.2) h fun _ hq _ _ => drawSome hq _
        _ _ _
  unfold State.askHbm
  dsimp only
  split
  · exact hdraw.setPaid _ _
  · exact hdraw.setPaid _ _

theorem askOne (h : Lasts s₀ s) (cls : HbmClass) (w : Nat) (a : Nat) (part : BitVec 6) :
    Lasts s₀ (State.askOne s cls w a part).2 := by
  unfold State.askOne
  split <;> apply_rules [drawSome, ite, h]

theorem askAt (h : Lasts s₀ s) (cls : HbmClass) (w : Nat) (pa : Nat) (part : BitVec 6) :
    Lasts s₀ (State.askAt s cls w pa part).2 := by
  unfold State.askAt
  split <;> apply_rules [askOne, ite, h]

theorem of_whenLet {q : Bool × State} {f : State → State} (h : Lasts s₀ q.2) (hf : ∀ u,
    Lasts s₀ u → Lasts s₀ (f u)) : Lasts s₀ (whenLet q f) := by
  unfold whenLet
  split
  · exact hf _ h
  · exact h

theorem arrive (h : Lasts s₀ s) (r : HbmReq) :
    Lasts s₀ (State.arrive s r) := by
  unfold State.arrive
  dsimp only
  repeat' split
  all_goals apply_rules [modStack, perform, upd, updSec, ite, h]

theorem of_execHbmRead (h : Lasts s₀ s) (acc : HbmAccess) :
    OutLasts s₀ (execHbmRead acc s) := by
  unfold execHbmRead
  apply_rules [arrive, OutLasts.next, h]

theorem of_execHbmWrite (h : Lasts s₀ s) (acc : HbmAccess) (data : List Byte) (mask : List Bool) :
    OutLasts s₀ (execHbmWrite acc data mask s) := by
  unfold execHbmWrite
  apply_rules [fault, arrive, OutLasts.next, OutLasts.ite, OutLasts.fault, ite, h]

theorem of_execMemorySideOperation (h : Lasts s₀ s) (acc : HbmAccess) (op : BitVec 4) (w : Bool) (data : Word)
    (cmp : Word) :
    OutLasts s₀ (execMemorySideOperation acc op w data cmp s) := by
  unfold execMemorySideOperation
  split <;> apply_rules [arrive, OutLasts.next, OutLasts.ite, ite, h]

theorem of_execTokenWaitServed (h : Lasts s₀ s) (stack : BitVec 3) (part : BitVec 6) (planned : Bool) :
    OutLasts s₀ (execTokenWaitServed stack part planned s) := by
  unfold execTokenWaitServed
  dsimp only
  repeat' split
  all_goals apply_rules [modStack, perform, OutLasts.next, OutLasts.ite, upd, updSec, ite, h]

theorem of_execHbmReread (h : Lasts s₀ s) (addr : BitVec 44) (clean : Bool) :
    OutLasts s₀ (execHbmReread addr clean s) := by
  unfold execHbmReread
  grind only [← draw, ← report, ← modStack, ← OutLasts.next, ← upd, ← updSec]

theorem of_execPatrolScrubRead (h : Lasts s₀ s) (stack : BitVec 3) (addr : BitVec 44) (ecc : EccResult) :
    OutLasts s₀ (execPatrolScrubRead stack addr ecc s) := by
  unfold execPatrolScrubRead
  repeat' split
  all_goals apply_rules [stackCorr, stackUncorr, OutLasts.next, OutLasts.ite, upd, updSec, ite, h]

theorem of_execHbmTempRise (h : Lasts s₀ s) (stack : BitVec 3) (temp : BitVec 16) :
    OutLasts s₀ (execHbmTempRise stack temp s) := by
  unfold execHbmTempRise
  apply_rules [modStack, OutLasts.next, OutLasts.ite, upd, updSec, ite, h]

theorem of_execSelfRefreshExit (h : Lasts s₀ s) (stack : BitVec 3) :
    OutLasts s₀ (execSelfRefreshExit stack s) := by
  unfold execSelfRefreshExit
  apply_rules [modStack, OutLasts.next, OutLasts.ite, upd, updSec, ite, h]

theorem rearrive (h : Lasts s₀ s) (l : List HbmReq) : Lasts s₀ (s.rearrive l) := by
  induction l generalizing s with
  | nil => exact h
  | cons r l ih => exact ih (h.arrive r)

theorem of_execSelfRefreshExitDone (h : Lasts s₀ s) (stack : BitVec 3) :
    OutLasts s₀ (execSelfRefreshExitDone stack s) := by
  unfold execSelfRefreshExitDone
  grind only [← modStack, ← rearrive, ← OutLasts.next, ← upd, ← updSec]

/-! ### Translate -/

theorem deny (h : Lasts s₀ s) :
    Lasts s₀ (State.deny s) := by
  unfold State.deny
  apply_rules [upd, updSec, h]

theorem segCtxWrite (h : Lasts s₀ s) (ctx : BitVec 12) (v : Word) :
    Lasts s₀ (State.segCtxWrite s ctx v) := by
  unfold State.segCtxWrite
  dsimp only
  repeat' split
  all_goals apply_rules [upd, updSec, ite, h]

theorem of_execSegCtxWrite (h : Lasts s₀ s) (src : Src) (ctx : BitVec 12) (v : Word) :
    OutLasts s₀ (execSegCtxWrite src ctx v s) := by
  unfold execSegCtxWrite
  split <;> apply_rules [deny, segCtxWrite, OutLasts.next, OutLasts.ite, ite, h]

theorem setPort (h : Lasts s₀ s) (p : Bool) (x : TablePort) :
    Lasts s₀ (State.setPort s p x) := by
  unfold State.setPort
  apply_rules [upd, updSec, ite, h]

theorem portSet (h : Lasts s₀ s) (src : Src) (p : Bool) (f : TablePort → TablePort) :
    Lasts s₀ (State.portSet s src p f) := by
  unfold State.portSet
  dsimp only
  repeat' split
  all_goals apply_rules [setPort, ite, h]

theorem portCmd (h : Lasts s₀ s) (src : Src) (p : Bool) (v : Word) :
    Lasts s₀ (State.portCmd s src p v) := by
  unfold State.portCmd
  split <;> apply_rules [setPort, upd, updSec, ite, h]

theorem of_execSegTableWrite (h : Lasts s₀ s) (src : Src) (port : Bool) :
    OutLasts s₀ (execSegTableWrite src port s) := by
  unfold execSegTableWrite
  split <;> apply_rules [deny, portCmd, OutLasts.next, OutLasts.ite, ite, h]

theorem of_execSegTableRead (h : Lasts s₀ s) (src : Src) (port : Bool) :
    OutLasts s₀ (execSegTableRead src port s) := by
  unfold execSegTableRead
  split <;> apply_rules [deny, portCmd, OutLasts.next, OutLasts.ite, ite, h]

theorem of_execTablePortDone (h : Lasts s₀ s) (port : Bool) :
    OutLasts s₀ (execTablePortDone port s) := by
  unfold execTablePortDone
  grind only [← setPort, ← OutLasts.next, ← upd, ← updSec]

theorem of_execDescriptorCacheFill (h : Lasts s₀ s) (c : BitVec 12) (stream : BitVec 3) (seg : BitVec 4) :
    OutLasts s₀ (execDescriptorCacheFill c stream seg s) := by
  unfold execDescriptorCacheFill
  apply_rules [setCarrel, OutLasts.next, OutLasts.ite, upd, updSec, ite, h]

theorem fillCaches (h : Lasts s₀ s) (c : BitVec 12) (ctx : BitVec 12) :
    Lasts s₀ (State.fillCaches s c ctx) := by
  unfold State.fillCaches
  apply_rules [modCarrel, upd, updSec, h]

theorem invalidate (h : Lasts s₀ s) (ctx : BitVec 12) (segs : BitVec 16) (all : Bool) :
    Lasts s₀ (State.invalidate s ctx segs all) := by
  unfold State.invalidate
  apply_rules [upd, updSec, ite, h]

theorem setInvSlot (h : Lasts s₀ s) (k : Nat) (x : InvSlot) :
    Lasts s₀ (State.setInvSlot s k x) := by
  unfold State.setInvSlot
  apply_rules [upd, updSec, h]

theorem beginInv (h : Lasts s₀ s) (id : InvId) (origin : BitVec 12) (tag : BitVec 16) (req : Word)
    (from_ : Option Nat) (send : Bool) :
    Lasts s₀ (State.beginInv s id origin tag req from_ send) := by
  unfold State.beginInv
  grind only [← send, ← sendOn, ← invalidate, ← foldl, ← upd, ← updSec]

theorem endInv (h : Lasts s₀ s) (r : InvRun) :
    Lasts s₀ (State.endInv s r) := by
  unfold State.endInv
  grind only [← sendOn, ← setInvSlot, ← upd, ← updSec]

theorem stepInv (h : Lasts s₀ s) (r : InvRun) (r' : InvRun) :
    Lasts s₀ (State.stepInv s r r') := by
  unfold State.stepInv
  apply_rules [endInv, upd, updSec, ite, h]

theorem invRequest (h : Lasts s₀ s) (src : Src) (k : Nat) (v : Word) :
    Lasts s₀ (State.invRequest s src k v) := by
  unfold State.invRequest
  dsimp only
  repeat' split
  all_goals apply_rules [setInvSlot, beginInv, upd, updSec, ite, h]

theorem of_execInvalidationRequest (h : Lasts s₀ s) (src : Src) (k : BitVec 6) (v : Word) :
    OutLasts s₀ (execInvalidationRequest src k v s) := by
  unfold execInvalidationRequest
  split <;> apply_rules [deny, invRequest, OutLasts.next, OutLasts.ite, ite, h]

theorem takeRx (h : Lasts s₀ s) {l : Nat} {p : Item → Bool} {i : Item} {t : State} (e : s.takeRx l p = some (i,
    t)) :
    Lasts s₀ t := by
  obtain ⟨j, _, e⟩ := Option.map_eq_some_iff.mp e
  cases e
  exact h.modLink _ _

theorem of_execInvalidationBroadcast (h : Lasts s₀ s) (l : Fin 12) :
    OutLasts s₀ (execInvalidationBroadcast l s) := by
  unfold execInvalidationBroadcast
  split
  · exact .next h
  · next e => exact .next ((h.takeRx e).beginInv _ _ _ _ _ _)

theorem of_execInvalidationDrainDone (h : Lasts s₀ s) (id : InvId) :
    OutLasts s₀ (execInvalidationDrainDone id s) := by
  unfold execInvalidationDrainDone
  repeat' split
  all_goals apply_rules [stepInv, OutLasts.next, OutLasts.ite, upd, updSec, ite, h]

theorem of_execInvalidationAck (h : Lasts s₀ s) (l : Fin 12) : OutLasts s₀ (execInvalidationAck l s) := by
  unfold execInvalidationAck
  split
  · exact .next h
  · next e =>
    have ht := h.takeRx e
    dsimp only
    split
    · exact .next ht
    · exact .next (ht.stepInv _ _)

theorem ctxOff (h : Lasts s₀ s) (c : BitVec 12) :
    Lasts s₀ (State.ctxOff s c) := by
  unfold State.ctxOff
  apply_rules [beginInv, upd, updSec, h]

/-! ### Gauge -/

theorem modTrain (h : Lasts s₀ s) (c : Nat) (f : TrainCtx → TrainCtx) :
    Lasts s₀ (State.modTrain s c f) := by
  unfold State.modTrain
  apply_rules [upd, updSec, h]

theorem modGauge (h : Lasts s₀ s) (i : Nat) (f : GaugeSet → GaugeSet) :
    Lasts s₀ (State.modGauge s i f) := by
  unfold State.modGauge
  apply_rules [upd, updSec, h]

theorem gaugeAdd (h : Lasts s₀ s) (ctx : Nat) (tag : Nat) (kind : Nat) (vals : List Num) :
    Lasts s₀ (State.gaugeAdd s ctx tag kind vals) := by
  unfold State.gaugeAdd
  dsimp only
  repeat' split
  all_goals apply_rules [modGauge, upd, updSec, ite, h]

theorem gaugeMerge (h : Lasts s₀ s) (ctx : Nat) (w : Word) :
    Lasts s₀ (State.gaugeMerge s ctx w) := by
  unfold State.gaugeMerge
  refine foldl h (fun s a h => ?_) _
  apply_rules [modGauge, upd, updSec, h]

theorem gaugeDrop (h : Lasts s₀ s) (w : Word) :
    Lasts s₀ (State.gaugeDrop s w) := by
  unfold State.gaugeDrop
  apply_rules [upd, updSec, h]

theorem stepClose (h : Lasts s₀ s) (ctx : Nat) (w : Word) (vals : Nat → SetSum) :
    Lasts s₀ (State.stepClose s ctx w vals) := by
  unfold State.stepClose
  grind only [← modTrain, ← modGauge, ← foldl]

theorem applyLayer (h : Lasts s₀ s) (ctx : Nat) (y : Layer) (v : SetSum) :
    Lasts s₀ (State.applyLayer s ctx y v) := by
  unfold State.applyLayer
  dsimp only
  repeat' split
  all_goals apply_rules [draw, modGauge, upd, updSec, ite, h]

theorem modPlan (h : Lasts s₀ s) (i : Nat) (f : Plan → Plan) :
    Lasts s₀ (State.modPlan s i f) := by
  unfold State.modPlan
  apply_rules [upd, updSec, ite, h]

theorem stepApply (h : Lasts s₀ s) (ctx : Nat) (w : Word) :
    Lasts s₀ (State.stepApply s ctx w) := by
  unfold State.stepApply
  grind only [← store, ← modTrain, ← applyLayer, ← modPlan, ← foldl]

theorem allotWrite (h : Lasts s₀ s) (ctx : Nat) (v : Word) :
    Lasts s₀ (State.allotWrite s ctx v) := by
  unfold State.allotWrite
  dsimp only
  repeat' split
  all_goals apply_rules [modTrain, upd, updSec, ite, h]

theorem of_execCenGaugeAllotWrite (h : Lasts s₀ s) (src : Src) (ctx : BitVec 12) (v : Word) :
    OutLasts s₀ (execCenGaugeAllotWrite src ctx v s) := by
  unfold execCenGaugeAllotWrite
  split <;> apply_rules [deny, allotWrite, OutLasts.next, OutLasts.ite, ite, h]

/-! ### Links -/

theorem linkFailed (h : Lasts s₀ s) (l : Nat) :
    Lasts s₀ (State.linkFailed s l) := by
  unfold State.linkFailed
  grind only [← fault, ← report, ← modLink, ← sendItem, ← foldl, ← upd, ← updSec]

theorem resend (h : Lasts s₀ s) (l : Nat) :
    Lasts s₀ (State.resend s l) := by
  unfold State.resend
  grind only [← send, ← modLink, ← foldl]

theorem startRetrain (h : Lasts s₀ s) (l : Nat) (n : Nat) :
    Lasts s₀ (State.startRetrain s l n) := by
  unfold State.startRetrain
  split <;> apply_rules [report, modLink, upd, updSec, ite, h]

theorem dropLane (h : Lasts s₀ s) (l : Nat) (lane : BitVec 3) (receive : Bool) :
    Lasts s₀ (State.dropLane s l lane receive) := by
  unfold State.dropLane
  grind only [← draw, ← report, ← modLink, ← linkFailed]

theorem of_execLaneDrop (h : Lasts s₀ s) (l : Fin 12) (lane : BitVec 3) :
    OutLasts s₀ (execLaneDrop l lane s) := by
  unfold execLaneDrop
  apply_rules [dropLane, OutLasts.next, h]

theorem of_execLaneDropDone (h : Lasts s₀ s) (l : Fin 12) (delay : BitVec 24) :
    OutLasts s₀ (execLaneDropDone l delay s) := by
  unfold execLaneDropDone
  dsimp only
  repeat' split
  all_goals apply_rules [modLink, flushTx, resend, OutLasts.next, OutLasts.ite, upd, updSec, ite, h]

theorem of_execDropRequestTimeout (h : Lasts s₀ s) (l : Fin 12) :
    OutLasts s₀ (execDropRequestTimeout l s) := by
  unfold execDropRequestTimeout
  split <;> apply_rules [modLink, startRetrain, OutLasts.next, OutLasts.ite, upd, updSec, ite, h]

theorem of_execRetrain (h : Lasts s₀ s) (l : Fin 12) :
    OutLasts s₀ (execRetrain l s) := by
  unfold execRetrain
  apply_rules [startRetrain, OutLasts.next, OutLasts.ite, ite, h]

theorem of_execRetrainDone (h : Lasts s₀ s) (l : Fin 12) (result : TrainResult) :
    OutLasts s₀ (execRetrainDone l result s) := by
  unfold execRetrainDone
  grind only [← modLink, ← flushTx, ← linkFailed, ← resend, ← OutLasts.next]

theorem of_execLinkTrain (h : Lasts s₀ s) (l : Fin 12) :
    OutLasts s₀ (execLinkTrain l s) := by
  unfold execLinkTrain
  split <;> apply_rules [modLink, OutLasts.next, OutLasts.ite, upd, updSec, ite, h]

theorem of_execLinkTrainDone (h : Lasts s₀ s) (l : Fin 12) (result : TrainResult) :
    OutLasts s₀ (execLinkTrainDone l result s) := by
  unfold execLinkTrainDone
  grind only [← fault, ← setFunc, ← modLink, ← flushTx, ← linkFailed, ← OutLasts.next]

theorem of_execLinkWake (h : Lasts s₀ s) (l : Fin 12) :
    OutLasts s₀ (execLinkWake l s) := by
  unfold execLinkWake
  split <;> apply_rules [modLink, OutLasts.next, OutLasts.ite, upd, updSec, ite, h]

theorem flitIn (h : Lasts s₀ s) (l : Nat) (f : FlitIn) :
    Lasts s₀ (State.flitIn s l f) := by
  unfold State.flitIn
  grind only [← modLink, ← flushTx, ← resend, ← startRetrain, ← dropLane]

theorem of_execFlit (h : Lasts s₀ s) (l : Fin 12) (f : FlitIn) :
    OutLasts s₀ (execFlit l f s) := by
  unfold execFlit
  repeat' split
  all_goals apply_rules [fault, flitIn, OutLasts.next, OutLasts.ite, OutLasts.fault, ite, h]

theorem forward (h : Lasts s₀ s) (i : Item) :
    Lasts s₀ (State.forward s i) := by
  unfold State.forward
  apply_rules [sendItem, h]

theorem sendMarks (h : Lasts s₀ s) :
    Lasts s₀ (State.sendMarks s) := by
  unfold State.sendMarks
  refine foldl h (fun s a h => ?_) _
  repeat' split
  all_goals apply_rules [emitItem, ite, h]

theorem masterReady (h : Lasts s₀ s) :
    Lasts s₀ (State.masterReady s) := by
  unfold State.masterReady
  dsimp only
  repeat' split
  all_goals apply_rules [upd, updSec, ite, h]

theorem slaveConfirm (h : Lasts s₀ s) :
    Lasts s₀ (State.slaveConfirm s) := by
  unfold State.slaveConfirm
  dsimp only
  repeat' split
  all_goals apply_rules [send, ite, h]

theorem chainSetup (h : Lasts s₀ s) :
    Lasts s₀ (State.chainSetup s) := by
  unfold State.chainSetup
  dsimp only
  repeat' split
  all_goals apply_rules [modLink, masterReady, upd, updSec, ite, h]

theorem of_execChainSetup (h : Lasts s₀ s) (src : Src) :
    OutLasts s₀ (execChainSetup src s) := by
  unfold execChainSetup
  split <;> apply_rules [deny, chainSetup, OutLasts.next, OutLasts.ite, ite, h]

theorem of_execSetupTimeout (h : Lasts s₀ s) :
    OutLasts s₀ (execSetupTimeout s) := by
  unfold execSetupTimeout
  grind only [← OutLasts.next, ← upd, ← updSec]

theorem of_execSetupConfirmation (h : Lasts s₀ s) (l : Fin 12) (depth : BitVec 12) (chips : List Nat) :
    OutLasts s₀ (execSetupConfirmation l depth chips s) := by
  unfold execSetupConfirmation
  grind only [← modLink, ← masterReady, ← slaveConfirm, ← OutLasts.next, ← upd, ← updSec]

theorem joinStart (h : Lasts s₀ s) :
    Lasts s₀ (State.joinStart s) := by
  unfold State.joinStart
  dsimp only
  repeat' split
  all_goals apply_rules [modLink, upd, updSec, ite, h]

theorem of_execJoin (h : Lasts s₀ s) (src : Src) :
    OutLasts s₀ (execJoin src s) := by
  unfold execJoin
  split <;> apply_rules [deny, joinStart, OutLasts.next, OutLasts.ite, ite, h]

theorem of_execTickMark (h : Lasts s₀ s) (l : Fin 12) (mark : Mark) : OutLasts s₀ (execTickMark l mark s) := by
  unfold execTickMark
  split
  · exact .next h
  · next e =>
    have ht := h.takeRx e
    grind only [← OutLasts.next, ← modLink, ← slaveConfirm, ← upd]

theorem of_execHoldover (h : Lasts s₀ s) :
    OutLasts s₀ (execHoldover s) := by
  unfold execHoldover
  grind only [← OutLasts.next, ← upd, ← updSec]

theorem of_execAlignLost (h : Lasts s₀ s) (us : Nat) :
    OutLasts s₀ (execAlignLost us s) := by
  unfold execAlignLost
  grind only [← report, ← OutLasts.next, ← upd, ← updSec]

theorem announce (h : Lasts s₀ s) (b : Word) :
    Lasts s₀ (State.announce s b) := by
  unfold State.announce
  apply_rules [upd, updSec, h]

theorem of_execCensusStrobe (h : Lasts s₀ s) (l : Fin 12) : OutLasts s₀ (execCensusStrobe l s) := by
  unfold execCensusStrobe
  split
  · exact .next h
  · next e => exact .next (foldl ((h.takeRx e).announce _) (fun _ _ h => h.sendOn _ _ _) _)

theorem releaseBarrier (h : Lasts s₀ s) (n : Nat) :
    Lasts s₀ (State.releaseBarrier s n) := by
  unfold State.releaseBarrier
  grind only [← sendOn, ← foldl, ← upd, ← updSec]

theorem arriveBarrier (h : Lasts s₀ s) (n : Nat) (who : Nat) :
    Lasts s₀ (State.arriveBarrier s n who) := by
  unfold State.arriveBarrier
  grind only [← sendOn, ← releaseBarrier, ← upd, ← updSec]

theorem of_execBarrier (h : Lasts s₀ s) (l : Fin 12) : OutLasts s₀ (execBarrier l s) := by
  unfold execBarrier
  split
  · exact .next h
  · next e => exact .next (ite ((h.takeRx e).releaseBarrier _) ((h.takeRx e).arriveBarrier _ _))

/-! ### Vector -/

theorem of_vInstr (h : Lasts s₀ s) (c : BitVec 12) (op : Nat) (a : VArith) (u : StackUse)
    {body : State → BitVec 8192 → Res} (hb : ∀ t m, Lasts s₀ t → Res.Lasts s₀ (body t m)) :
    OutLasts s₀ (vInstr c op a u body s) := by
  refine of_runInstr h _ _ ?_
  split
  · trivial
  · refine of_withStacks _ _ ?_
    split
    · exact hb _ _ (h.dropV _ _)
    · exact hb _ _ h

theorem popV (h : Lasts s₀ s) (c : BitVec 12) (n : Nat) :
    Lasts s₀ (State.popV s c n).2 := by
  unfold State.popV
  apply_rules [dropV, h]

theorem vecNan (h : Lasts s₀ s) (c : BitVec 12) (e : Option (Nat × NanCause)) :
    Lasts s₀ (State.vecNan s c e) := by
  unfold State.vecNan
  split <;> apply_rules [coreNan, upd, updSec, h]

theorem of_vMap (h : Lasts s₀ s) (c : BitVec 12) (op : Nat) (a : VArith) (k : Nat) (f : List Nat → FRes) :
    OutLasts s₀ (vMap c op a k f s) := by
  refine of_vInstr h _ _ _ _ fun t m ht => ?_
  grind only [Res.Lasts, ← pushVs, ← of_vInstr, ← popV, ← vecNan, ← OutLasts.next]

theorem of_vShuffle (h : Lasts s₀ s) (c : BitVec 12) (op : Nat) (a : VArith) (k : Nat) (j : Nat)
    (f : List (BitVec 8192) → List (BitVec 8192)) :
    OutLasts s₀ (vShuffle c op a k j f s) := by
  refine of_vInstr h _ _ _ _ fun t m ht => ?_
  grind only [Res.Lasts, ← pushVs, ← of_vInstr, ← popV, ← OutLasts.next]

theorem of_execVsetl (h : Lasts s₀ s) (c : BitVec 12) (a : VArith) :
    OutLasts s₀ (execVsetl c a s) := by
  refine of_vInstr h _ _ _ _ fun t m ht => ?_
  grind only [Res.Lasts, ← modCarrel, ← popD, ← pushD, ← of_vInstr, ← OutLasts.next]

theorem of_execVgetl (h : Lasts s₀ s) (c : BitVec 12) (a : VArith) :
    OutLasts s₀ (execVgetl c a s) := by
  refine of_vInstr h _ _ _ _ fun t m ht => ?_
  grind only [Res.Lasts, ← pushD, ← of_vInstr, ← OutLasts.next]

theorem of_execVdup (h : Lasts s₀ s) (c : BitVec 12) (a : VArith) :
    OutLasts s₀ (execVdup c a s) := by
  unfold execVdup
  apply_rules [of_vShuffle, h]

theorem of_execVdrop (h : Lasts s₀ s) (c : BitVec 12) (a : VArith) :
    OutLasts s₀ (execVdrop c a s) := by
  unfold execVdrop
  apply_rules [of_vShuffle, h]

theorem of_execVswap (h : Lasts s₀ s) (c : BitVec 12) (a : VArith) :
    OutLasts s₀ (execVswap c a s) := by
  unfold execVswap
  apply_rules [of_vShuffle, h]

theorem of_execVover (h : Lasts s₀ s) (c : BitVec 12) (a : VArith) :
    OutLasts s₀ (execVover c a s) := by
  unfold execVover
  apply_rules [of_vShuffle, h]

theorem of_execVrot (h : Lasts s₀ s) (c : BitVec 12) (a : VArith) :
    OutLasts s₀ (execVrot c a s) := by
  unfold execVrot
  apply_rules [of_vShuffle, h]

theorem of_vMap2 (h : Lasts s₀ s) (c : BitVec 12) (op : Nat) (a : VArith) (f : Elem → Nat → Nat → FRes) :
    OutLasts s₀ (vMap2 c op a f s) := by
  unfold vMap2
  apply_rules [of_vMap, h]

theorem of_execVadd (h : Lasts s₀ s) (c : BitVec 12) (a : VArith) :
    OutLasts s₀ (execVadd c a s) := by
  unfold execVadd
  apply_rules [of_vMap2, h]

theorem of_execVsub (h : Lasts s₀ s) (c : BitVec 12) (a : VArith) :
    OutLasts s₀ (execVsub c a s) := by
  unfold execVsub
  apply_rules [of_vMap2, h]

theorem of_execVmul (h : Lasts s₀ s) (c : BitVec 12) (a : VArith) :
    OutLasts s₀ (execVmul c a s) := by
  unfold execVmul
  apply_rules [of_vMap2, h]

theorem of_execVfma (h : Lasts s₀ s) (c : BitVec 12) (a : VArith) :
    OutLasts s₀ (execVfma c a s) := by
  unfold execVfma
  apply_rules [of_vMap, h]

theorem of_execVmin (h : Lasts s₀ s) (c : BitVec 12) (a : VArith) :
    OutLasts s₀ (execVmin c a s) := by
  unfold execVmin
  apply_rules [of_vMap2, h]

theorem of_execVmax (h : Lasts s₀ s) (c : BitVec 12) (a : VArith) :
    OutLasts s₀ (execVmax c a s) := by
  unfold execVmax
  apply_rules [of_vMap2, h]

theorem of_execVdiv (h : Lasts s₀ s) (c : BitVec 12) (a : VArith) :
    OutLasts s₀ (execVdiv c a s) := by
  unfold execVdiv
  apply_rules [of_vMap, h]

theorem of_execVsqrt (h : Lasts s₀ s) (c : BitVec 12) (a : VArith) :
    OutLasts s₀ (execVsqrt c a s) := by
  unfold execVsqrt
  apply_rules [of_vMap, h]

theorem of_execVneg (h : Lasts s₀ s) (c : BitVec 12) (a : VArith) :
    OutLasts s₀ (execVneg c a s) := by
  unfold execVneg
  apply_rules [of_vMap, upd, updSec, h]

theorem of_execVabs (h : Lasts s₀ s) (c : BitVec 12) (a : VArith) :
    OutLasts s₀ (execVabs c a s) := by
  unfold execVabs
  apply_rules [of_vMap, upd, updSec, h]

theorem of_execVand (h : Lasts s₀ s) (c : BitVec 12) (a : VArith) :
    OutLasts s₀ (execVand c a s) := by
  unfold execVand
  apply_rules [of_vMap, h]

theorem of_execVor (h : Lasts s₀ s) (c : BitVec 12) (a : VArith) :
    OutLasts s₀ (execVor c a s) := by
  unfold execVor
  apply_rules [of_vMap, h]

theorem of_execVxor (h : Lasts s₀ s) (c : BitVec 12) (a : VArith) :
    OutLasts s₀ (execVxor c a s) := by
  unfold execVxor
  apply_rules [of_vMap, h]

theorem of_vShift (h : Lasts s₀ s) (c : BitVec 12) (op : Nat) (a : VArith) (f : Nat → Nat → Nat → Nat) :
    OutLasts s₀ (vShift c op a f s) := by
  refine of_vInstr h _ _ _ _ fun t m ht => ?_
  grind only [Res.Lasts, ← popD, ← pushVs, ← of_vInstr, ← popV, ← OutLasts.next]

theorem of_execVshl (h : Lasts s₀ s) (c : BitVec 12) (a : VArith) :
    OutLasts s₀ (execVshl c a s) := by
  unfold execVshl
  apply_rules [of_vShift, h]

theorem of_execVshr (h : Lasts s₀ s) (c : BitVec 12) (a : VArith) :
    OutLasts s₀ (execVshr c a s) := by
  unfold execVshr
  apply_rules [of_vShift, h]

theorem of_execVsar (h : Lasts s₀ s) (c : BitVec 12) (a : VArith) :
    OutLasts s₀ (execVsar c a s) := by
  unfold execVsar
  apply_rules [of_vShift, h]

theorem of_vCompare (h : Lasts s₀ s) (c : BitVec 12) (op : Nat) (a : VArith) (f : Elem → Nat → Nat → Bool) :
    OutLasts s₀ (vCompare c op a f s) := by
  refine of_vInstr h _ _ _ _ fun t m ht => ?_
  grind only [Res.Lasts, ← pushVs, ← of_vInstr, ← popV, ← OutLasts.next]

theorem of_execVcmpeq (h : Lasts s₀ s) (c : BitVec 12) (a : VArith) :
    OutLasts s₀ (execVcmpeq c a s) := by
  unfold execVcmpeq
  apply_rules [of_vCompare, h]

theorem of_execVcmplt (h : Lasts s₀ s) (c : BitVec 12) (a : VArith) :
    OutLasts s₀ (execVcmplt c a s) := by
  unfold execVcmplt
  apply_rules [of_vCompare, h]

theorem of_execVcmple (h : Lasts s₀ s) (c : BitVec 12) (a : VArith) :
    OutLasts s₀ (execVcmple c a s) := by
  unfold execVcmple
  apply_rules [of_vCompare, h]

theorem of_execVsel (h : Lasts s₀ s) (c : BitVec 12) (a : VArith) :
    OutLasts s₀ (execVsel c a s) := by
  refine of_vInstr h _ _ _ _ fun t m ht => ?_
  grind only [Res.Lasts, ← pushVs, ← of_vInstr, ← popV, ← OutLasts.next]

theorem of_execVbcast (h : Lasts s₀ s) (c : BitVec 12) (a : VArith) :
    OutLasts s₀ (execVbcast c a s) := by
  refine of_vInstr h _ _ _ _ fun t m ht => ?_
  grind only [Res.Lasts, ← popD, ← pushVs, ← of_vInstr, ← OutLasts.next]

theorem of_execViota (h : Lasts s₀ s) (c : BitVec 12) (a : VArith) :
    OutLasts s₀ (execViota c a s) := by
  refine of_vInstr h _ _ _ _ fun t m ht => ?_
  grind only [Res.Lasts, ← pushVs, ← of_vInstr, ← OutLasts.next]

theorem of_execVext (h : Lasts s₀ s) (c : BitVec 12) (a : VArith) :
    OutLasts s₀ (execVext c a s) := by
  refine of_vInstr h _ _ _ _ fun t m ht => ?_
  grind only [Res.Lasts, ← popD, ← pushD, ← of_vInstr, ← OutLasts.next]

theorem of_execVins (h : Lasts s₀ s) (c : BitVec 12) (a : VArith) :
    OutLasts s₀ (execVins c a s) := by
  refine of_vInstr h _ _ _ _ fun t m ht => ?_
  grind only [Res.Lasts, ← popD, ← pushVs, ← of_vInstr, ← popV, ← OutLasts.next]

theorem of_execVcvt (h : Lasts s₀ s) (c : BitVec 12) (a : VArith) :
    OutLasts s₀ (execVcvt c a s) := by
  refine of_vInstr h _ _ _ _ fun t m ht => ?_
  grind only [Res.Lasts, ← pushVs, ← of_vInstr, ← popV, ← vecNan, ← OutLasts.next]

theorem of_vReduce (h : Lasts s₀ s) (c : BitVec 12) (op : Nat) (a : VArith) (prep : Nat → Nat)
    (f : Nat → Nat → FRes) (empty : Nat) :
    OutLasts s₀ (vReduce c op a prep f empty s) := by
  refine of_vInstr h _ _ _ _ fun t m ht => ?_
  grind only [Res.Lasts, ← pushD, ← of_vInstr, ← popV, ← vecNan, ← OutLasts.next]

theorem of_execVredAdd (h : Lasts s₀ s) (c : BitVec 12) (a : VArith) :
    OutLasts s₀ (execVredAdd c a s) := by
  unfold execVredAdd
  split <;> apply_rules [of_vReduce, upd, updSec, h]

theorem of_execVredMin (h : Lasts s₀ s) (c : BitVec 12) (a : VArith) :
    OutLasts s₀ (execVredMin c a s) := by
  unfold execVredMin
  split <;> apply_rules [of_vReduce, upd, updSec, h]

theorem of_execVredMax (h : Lasts s₀ s) (c : BitVec 12) (a : VArith) :
    OutLasts s₀ (execVredMax c a s) := by
  unfold execVredMax
  split <;> apply_rules [of_vReduce, upd, updSec, h]

theorem of_execVmcnt (h : Lasts s₀ s) (c : BitVec 12) (a : VArith) :
    OutLasts s₀ (execVmcnt c a s) := by
  refine of_vInstr h _ _ _ _ fun t m ht => ?_
  grind only [Res.Lasts, ← pushD, ← of_vInstr, ← OutLasts.next]

/-! ### VecMem -/

theorem vmAdd (h : Lasts s₀ s) (c : BitVec 12) (a : VMem) (x : VecAcc) :
    Lasts s₀ (State.vmAdd s c a x).2 := by
  unfold State.vmAdd
  dsimp only
  repeat' split
  all_goals apply_rules [setLe, report, hbmOper, upd, updSec, ite, h]

theorem vmAdds (h : Lasts s₀ s) (c : BitVec 12) (a : VMem) (accs : List VecAcc) : Lasts s₀ (s.vmAdds c a accs) := by
  have hadd : Lasts s₀ (accs.foldl (fun (r : Option (Nat × NanCause) × State) x =>
      (r.1.orElse fun _ => (r.2.vmAdd c a x).1.map fun y => (x.elem, y), (r.2.vmAdd c a x).2)) (none, s)).2 :=
    List.foldlRecOn accs _ (motive := fun (r : Option (Nat × NanCause) × State) => Lasts s₀ r.2) h fun _ hr _ _
        => vmAdd hr _ _ _
  unfold State.vmAdds
  dsimp only
  split
  · exact hadd.coreNan _ _ _ _
  · exact hadd

theorem vmFinish (h : Lasts s₀ s) (c : BitVec 12) (op : Nat) (a : VMem) (accs : List VecAcc) :
    Lasts s₀ (State.vmFinish s c op a accs) := by
  unfold State.vmFinish
  grind only [← modCarrel, ← popD, ← pushVs, ← dropV, ← retire]

theorem vmInvalidate (h : Lasts s₀ s) (c : BitVec 12) (accs : List VecAcc) :
    Lasts s₀ (State.vmInvalidate s c accs) := by
  unfold State.vmInvalidate
  refine foldl h (fun s a h => ?_) _
  repeat' split
  all_goals apply_rules [modCarrel, ite, h]

theorem vmWrites (h : Lasts s₀ s) (c : BitVec 12) (op : Nat) (a : VMem) (accs : List VecAcc) :
    Lasts s₀ (State.vmWrites s c op a accs) := by
  unfold State.vmWrites
  grind only [← store, ← vmAdds, ← foldl]

theorem vmSend (h : Lasts s₀ s) (c : BitVec 12) (op : Nat) (a : VMem) (g : List VecAcc) :
    Lasts s₀ (State.vmSend s c op a g) := by
  unfold State.vmSend
  dsimp only
  repeat' split
  all_goals apply_rules [sendRequest, sendRead, upd, updSec, ite, h]

theorem vmMove (h : Lasts s₀ s) (c : BitVec 12) (op : Nat) (a : VMem) (accs : List VecAcc) :
    Lasts s₀ (State.vmMove s c op a accs) := by
  unfold State.vmMove
  grind only [← modCarrel, ← vmFinish, ← vmWrites, ← vmSend, ← foldl]

theorem of_vmInstr (h : Lasts s₀ s) (c : BitVec 12) (op : Nat) (a : VMem) :
    OutLasts s₀ (vmInstr c op a s) := by
  refine of_runInstr h _ _ ?_
  grind only [Res.Lasts, ← of_withStacks, ← modCarrel, ← missWait, ← of_runInstr, ← drainAll, ← vmMove,
      ← OutLasts.next]

theorem of_execVld (h : Lasts s₀ s) (c : BitVec 12) (a : VMem) :
    OutLasts s₀ (execVld c a s) := by
  unfold execVld
  apply_rules [of_vmInstr, h]

theorem of_execVst (h : Lasts s₀ s) (c : BitVec 12) (a : VMem) :
    OutLasts s₀ (execVst c a s) := by
  unfold execVst
  apply_rules [of_vmInstr, h]

theorem of_execVlds (h : Lasts s₀ s) (c : BitVec 12) (a : VMem) :
    OutLasts s₀ (execVlds c a s) := by
  unfold execVlds
  apply_rules [of_vmInstr, h]

theorem of_execVsts (h : Lasts s₀ s) (c : BitVec 12) (a : VMem) :
    OutLasts s₀ (execVsts c a s) := by
  unfold execVsts
  apply_rules [of_vmInstr, h]

theorem of_execVgth (h : Lasts s₀ s) (c : BitVec 12) (a : VMem) :
    OutLasts s₀ (execVgth c a s) := by
  unfold execVgth
  apply_rules [of_vmInstr, h]

theorem of_execVsct (h : Lasts s₀ s) (c : BitVec 12) (a : VMem) :
    OutLasts s₀ (execVsct c a s) := by
  unfold execVsct
  apply_rules [of_vmInstr, h]

theorem of_execVscta (h : Lasts s₀ s) (c : BitVec 12) (a : VMem) :
    OutLasts s₀ (execVscta c a s) := by
  unfold execVscta
  apply_rules [of_vmInstr, h]

theorem of_execVld2 (h : Lasts s₀ s) (c : BitVec 12) (a : VMem) :
    OutLasts s₀ (execVld2 c a s) := by
  unfold execVld2
  apply_rules [of_vmInstr, h]

theorem of_execVld3 (h : Lasts s₀ s) (c : BitVec 12) (a : VMem) :
    OutLasts s₀ (execVld3 c a s) := by
  unfold execVld3
  apply_rules [of_vmInstr, h]

theorem of_execVld4 (h : Lasts s₀ s) (c : BitVec 12) (a : VMem) :
    OutLasts s₀ (execVld4 c a s) := by
  unfold execVld4
  apply_rules [of_vmInstr, h]

theorem of_execVst2 (h : Lasts s₀ s) (c : BitVec 12) (a : VMem) :
    OutLasts s₀ (execVst2 c a s) := by
  unfold execVst2
  apply_rules [of_vmInstr, h]

theorem of_execVst3 (h : Lasts s₀ s) (c : BitVec 12) (a : VMem) :
    OutLasts s₀ (execVst3 c a s) := by
  unfold execVst3
  apply_rules [of_vmInstr, h]

theorem of_execVst4 (h : Lasts s₀ s) (c : BitVec 12) (a : VMem) :
    OutLasts s₀ (execVst4 c a s) := by
  unfold execVst4
  apply_rules [of_vmInstr, h]

/-! ### Sync -/

theorem issueSome (h : Lasts s₀ s) (c : BitVec 12) (q n pops : Nat) (param : Option Word) :
    Lasts s₀ (s.issueSome c q n pops param) := by
  unfold State.issueSome
  exact ite (((h.setCarrel _ _).popD _ _).retire _ _) (h.setCarrel _ _)

theorem of_issueForm (h : Lasts s₀ s) (c : BitVec 12) (q : Nat) (n : BitVec 4) (p : Bool) :
    OutLasts s₀ (issueForm c q n p s) := by
  refine of_runInstr h _ _ (of_withStacks _ _ ?_)
  grind only [Res.Lasts, ← of_runInstr, ← of_withStacks, ← issueSome, ← OutLasts.next]

theorem of_execMld (h : Lasts s₀ s) (c : BitVec 12) (n : BitVec 4) (p : Bool) :
    OutLasts s₀ (execMld c n p s) := by
  unfold execMld
  apply_rules [of_issueForm, h]

theorem of_execMstr (h : Lasts s₀ s) (c : BitVec 12) (n : BitVec 4) (p : Bool) :
    OutLasts s₀ (execMstr c n p s) := by
  unfold execMstr
  apply_rules [of_issueForm, h]

theorem of_execMrd (h : Lasts s₀ s) (c : BitVec 12) (n : BitVec 4) (p : Bool) :
    OutLasts s₀ (execMrd c n p s) := by
  unfold execMrd
  apply_rules [of_issueForm, h]

theorem of_execMclr (h : Lasts s₀ s) (c : BitVec 12) (n : BitVec 4) (p : Bool) :
    OutLasts s₀ (execMclr c n p s) := by
  unfold execMclr
  apply_rules [of_issueForm, h]

theorem of_execEdq (h : Lasts s₀ s) (c : BitVec 12) (n : BitVec 4) (p : Bool) :
    OutLasts s₀ (execEdq c n p s) := by
  unfold execEdq
  apply_rules [of_issueForm, h]

theorem of_execRwq (h : Lasts s₀ s) (c : BitVec 12) (n : BitVec 4) (p : Bool) :
    OutLasts s₀ (execRwq c n p s) := by
  unfold execRwq
  apply_rules [of_issueForm, h]

theorem of_execDmq (h : Lasts s₀ s) (c : BitVec 12) (ch : BitVec 3) (n : BitVec 4) (p : Bool) :
    OutLasts s₀ (execDmq c ch n p s) := by
  unfold execDmq
  apply_rules [of_issueForm, h]

theorem of_waitForm (h : Lasts s₀ s) (c : BitVec 12) (eng : Nat) :
    OutLasts s₀ (waitForm c eng s) := by
  refine of_runInstr h _ _ (of_withStacks _ _ ?_)
  grind only [Res.Lasts, ← modCarrel, ← popD, ← of_runInstr, ← of_withStacks, ← OutLasts.next]

theorem of_execMwait (h : Lasts s₀ s) (c : BitVec 12) :
    OutLasts s₀ (execMwait c s) := by
  unfold execMwait
  apply_rules [of_waitForm, h]

theorem of_execQwaitE (h : Lasts s₀ s) (c : BitVec 12) :
    OutLasts s₀ (execQwaitE c s) := by
  unfold execQwaitE
  apply_rules [of_waitForm, h]

theorem of_execQwaitR (h : Lasts s₀ s) (c : BitVec 12) :
    OutLasts s₀ (execQwaitR c s) := by
  unfold execQwaitR
  apply_rules [of_waitForm, h]

theorem of_execQwaitD (h : Lasts s₀ s) (c : BitVec 12) (ch : BitVec 3) :
    OutLasts s₀ (execQwaitD c ch s) := by
  unfold execQwaitD
  apply_rules [of_waitForm, h]

theorem of_execMrdF (h : Lasts s₀ s) (c : BitVec 12) :
    OutLasts s₀ (execMrdF c s) := by
  refine of_runInstr h _ _ (of_withStacks _ _ ?_)
  grind only [Res.Lasts, ← modCarrel, ← popD, ← pushD, ← of_runInstr, ← of_withStacks, ← OutLasts.next]

theorem nanSettle (h : Lasts s₀ s) (c : BitVec 12) :
    Lasts s₀ (State.nanSettle s c) := by
  unfold State.nanSettle
  dsimp only
  repeat' split
  all_goals apply_rules [setCarrel, upd, updSec, ite, h]

theorem joinBarrier (h : Lasts s₀ s) (c : BitVec 12) :
    Lasts s₀ (State.joinBarrier s c) := by
  unfold State.joinBarrier
  split <;> apply_rules [modCarrel, modPlan, upd, updSec, h]

theorem idleNs (h : Lasts s₀ s) (c : Nat) :
    Lasts s₀ (State.idleNs s c).2 := by
  unfold State.idleNs
  dsimp only
  repeat' split
  all_goals apply_rules [draw, upd, updSec, ite, h]

theorem endProgram (h : Lasts s₀ s) (c : BitVec 12) :
    Lasts s₀ (State.endProgram s c) := by
  unfold State.endProgram
  apply_rules [modCarrel, nanSettle, idleNs, upd, updSec, h]

theorem settleBar (h : Lasts s₀ s) (c : BitVec 12) :
    Lasts s₀ (State.settleBar s c) := by
  unfold State.settleBar
  dsimp only
  repeat' split
  all_goals apply_rules [joinBarrier, endProgram, upd, updSec, ite, h]

theorem of_execBar (h : Lasts s₀ s) (c : BitVec 12) :
    OutLasts s₀ (execBar c s) := by
  refine of_runInstr h _ _ ?_
  grind only [Res.Lasts, ← of_withStacks, ← modCarrel, ← of_runInstr, ← drainAll, ← settleBar, ← OutLasts.next]

theorem of_execWtick (h : Lasts s₀ s) (c : BitVec 12) :
    OutLasts s₀ (execWtick c s) := by
  refine of_runInstr h _ _ ?_
  grind only [Res.Lasts, ← of_withStacks, ← modCarrel, ← of_runInstr, ← drainAll, ← settleBar, ← OutLasts.next]

theorem of_execBarrierRelease (h : Lasts s₀ s) (slot : BitVec 8) :
    OutLasts s₀ (execBarrierRelease slot s) := by
  unfold execBarrierRelease
  grind only [← modCarrel, ← retire, ← modPlan, ← nanSettle, ← OutLasts.next, ← foldl]

theorem engineWake (h : Lasts s₀ s) (c : BitVec 12) :
    Lasts s₀ (State.engineWake s c) := by
  unfold State.engineWake
  grind only [← setCarrel, ← popD, ← pushD, ← retire, ← issue, ← issueSome, ← settleBar]

theorem of_execCarrelWake (h : Lasts s₀ s) (c : BitVec 12) :
    OutLasts s₀ (execCarrelWake c s) := by
  unfold execCarrelWake
  apply_rules [modCarrel, OutLasts.next, OutLasts.ite, upd, updSec, ite, h]

/-! ### Formats -/

theorem storeCodes (h : Lasts s₀ s) (base : Nat) (b : Nat) (l : List Nat) :
    Lasts s₀ (State.storeCodes s base b l) := by
  unfold State.storeCodes
  dsimp only
  repeat' split
  all_goals apply_rules [store, ite, h]

theorem reportEvents (h : Lasts s₀ s) (c : BitVec 12) (src : BitVec 3) (op : Nat) (l : List Event) :
    Lasts s₀ (State.reportEvents s c src op l) := by
  unfold State.reportEvents
  split <;> apply_rules [engineNan, upd, updSec, h]

/-! ### Array -/

theorem orFlags (h : Lasts s₀ s) (c : BitVec 12) (t : Nat) (f : Nat) :
    Lasts s₀ (State.orFlags s c t f) := by
  unfold State.orFlags
  apply_rules [modCarrel, upd, updSec, h]

theorem clearFlags (h : Lasts s₀ s) (c : BitVec 12) (t : Nat) :
    Lasts s₀ (State.clearFlags s c t) := by
  unfold State.clearFlags
  apply_rules [modCarrel, upd, updSec, h]

theorem runMld (h : Lasts s₀ s) (c : BitVec 12) (d : ArrDesc) :
    Lasts s₀ (State.runMld s c d) := by
  unfold State.runMld
  apply_rules [modCarrel, upd, updSec, ite, h]

theorem runMstr (h : Lasts s₀ s) (c : BitVec 12) (d : ArrDesc) : Lasts s₀ (s.runMstr c d) := by
  unfold State.runMstr
  split
  · exact h
  · refine reportEvents (orFlags ?_ _ _ _) _ _ _ _
    exact List.foldlRecOn (upto d.rows) _ (motive := fun (acc : State × Nat × List Event) => Lasts s₀ acc.1) h
      fun _ hacc _ _ => storeCodes hacc _ _ _

theorem clearRows (h : Lasts s₀ s) (c : BitVec 12) (d : ArrDesc) :
    Lasts s₀ (State.clearRows s c d) := by
  unfold State.clearRows
  apply_rules [store, h]

theorem runMrd (h : Lasts s₀ s) (c : BitVec 12) (d : ArrDesc) :
    Lasts s₀ (State.runMrd s c d) := by
  unfold State.runMrd
  grind only [← modCarrel, ← store, ← storeCodes, ← reportEvents, ← clearFlags, ← clearRows, ← foldl]

theorem runArray (h : Lasts s₀ s) (c : BitVec 12) (x : Issued) :
    Lasts s₀ (State.runArray s c x) := by
  unfold State.runArray
  dsimp only
  repeat' split
  all_goals apply_rules [clearFlags, runMld, runMstr, clearRows, runMrd, upd, updSec, h]

theorem of_execArrayDescriptorStart (h : Lasts s₀ s) (c : BitVec 12) :
    OutLasts s₀ (execArrayDescriptorStart c s) := by
  unfold execArrayDescriptorStart
  dsimp only
  repeat' split
  all_goals apply_rules [setCarrel, OutLasts.next, OutLasts.ite, upd, updSec, ite, h]

theorem of_execArrayDescriptorDone (h : Lasts s₀ s) (c : BitVec 12) :
    OutLasts s₀ (execArrayDescriptorDone c s) := by
  unfold execArrayDescriptorDone
  dsimp only
  repeat' split
  all_goals apply_rules [modCarrel, engineWake, runArray, OutLasts.next, upd, updSec, h]

/-! ### Element -/

theorem elemStore (h : Lasts s₀ s) (c : BitVec 12) (d : ElemDesc) (outs : List ElemOut)
    (scales : List (Nat × Nat × Byte)) :
    Lasts s₀ (State.elemStore s c d outs scales) := by
  unfold State.elemStore
  grind only [← store, ← storeCodes, ← foldl]

theorem elemFlagsOr (h : Lasts s₀ s) (s0 : State) (c : BitVec 12) (d : ElemDesc) (outs : List ElemOut) :
    Lasts s₀ (State.elemFlagsOr s s0 c d outs) := by
  unfold State.elemFlagsOr
  refine foldl h (fun s a h => ?_) _
  repeat' split
  all_goals apply_rules [orFlags, upd, updSec, h]

theorem release (h : Lasts s₀ s) (c : BitVec 12) (tok : Nat) :
    Lasts s₀ (State.release s c tok) := by
  unfold State.release
  repeat' split
  all_goals apply_rules [modPlan, upd, updSec, ite, h]

theorem runElement (h : Lasts s₀ s) (c : BitVec 12) (x : Issued) :
    Lasts s₀ (State.runElement s c x) := by
  unfold State.runElement
  dsimp only
  repeat' split
  all_goals apply_rules [modCarrel, gaugeAdd, reportEvents, elemStore, elemFlagsOr, release, upd, updSec, ite, h]

theorem of_execElementDescriptorStart (h : Lasts s₀ s) (c : BitVec 12) :
    OutLasts s₀ (execElementDescriptorStart c s) := by
  unfold execElementDescriptorStart
  dsimp only
  repeat' split
  all_goals apply_rules [setCarrel, OutLasts.next, OutLasts.ite, upd, updSec, ite, h]

theorem of_execElementDescriptorDone (h : Lasts s₀ s) (c : BitVec 12) :
    OutLasts s₀ (execElementDescriptorDone c s) := by
  unfold execElementDescriptorDone
  repeat' split
  all_goals apply_rules [modCarrel, engineWake, runElement, OutLasts.next, OutLasts.ite, upd, updSec, ite, h]

/-! ### Row -/

theorem rowStore (h : Lasts s₀ s) (c : BitVec 12) (d : RowDesc) (r : Nat) (vs : List Val) :
    Lasts s₀ (State.rowStore s c d r vs).1 := by
  unfold State.rowStore
  dsimp only
  repeat' split
  all_goals apply_rules [store, storeCodes, ite, h]

theorem of_rowStep {q : RowRun} (h : Lasts s₀ q.s) (c : BitVec 12) (bay : Nat) (d : RowDesc) (valid : Nat)
    (gam bet : List Num) (r : Nat) : Lasts s₀ (rowStep c bay d valid gam bet q r).s := by
  unfold rowStep
  exact ite (store (rowStore h _ _ _ _) _ _) (rowStore h _ _ _ _)

theorem modBay (h : Lasts s₀ s) (b : Nat) (f : BayCount → BayCount) :
    Lasts s₀ (State.modBay s b f) := by
  unfold State.modBay
  apply_rules [upd, updSec, h]

theorem runRow (h : Lasts s₀ s) (c : BitVec 12) (bay : Nat) (x : Issued) : Lasts s₀ (s.runRow c bay x) := by
  have hrows (l : List Nat) (f : RowRun → Nat → RowRun) (q : RowRun) (hq : Lasts s₀ q.s) (hf : ∀ q r,
      Lasts s₀ q.s → Lasts s₀ (f q r).s) : Lasts s₀ (l.foldl f q).s :=
    List.foldlRecOn l f (motive := fun q => Lasts s₀ q.s) hq fun q hq r _ => hf q r hq
  unfold State.runRow
  grind only [← reportEvents, ← gaugeAdd, ← modBay, ← store, ← of_rowStep, ← draw]

theorem of_execRowDescriptorStart (h : Lasts s₀ s) (bay : BitVec 8) :
    OutLasts s₀ (execRowDescriptorStart bay s) := by
  unfold execRowDescriptorStart
  dsimp only
  repeat' split
  all_goals apply_rules [modCarrel, OutLasts.next, OutLasts.ite, upd, updSec, ite, h]

theorem of_execRowDescriptorDone (h : Lasts s₀ s) (bay : BitVec 8) :
    OutLasts s₀ (execRowDescriptorDone bay s) := by
  unfold execRowDescriptorDone
  repeat' split
  all_goals apply_rules [modCarrel, engineWake, runRow, OutLasts.next, upd, updSec, h]

/-! ### Mover -/

theorem movGet {q : MovAcc} (h : Lasts s₀ q.s) (a : NibAddr) (k : Nat) : Lasts s₀ (q.get a k).2.s := by
  unfold MovAcc.get
  split
  · exact h.draw
  · split
    · exact h
    · exact h

theorem movRead {d : MovDesc} {q : MovAcc} (h : Lasts s₀ q.s) (l : List MovElem) :
    Lasts s₀ (MovAcc.read d q l).2.s := by
  induction l generalizing q with
  | nil => exact h
  | cons e l ih =>
    unfold MovAcc.read
    refine ih ?_
    split
    · exact movGet h _ _
    · exact h

theorem movWrite {q : MovAcc} (h : Lasts s₀ q.s) (who : Requester) (es : List (MovElem × List Nat)) :
    Lasts s₀ (q.write who es).s := by
  unfold MovAcc.write
  refine foldl h (fun s b h => ?_) _
  split
  · dsimp only
    cases e : s.blockWrite (localOf (64 * b))
        (nibBlock s.nib (q.claim es).2 b).1 (nibBlock s.nib (q.claim es).2 b).2 with
    | none => exact h
    | some t => exact h.blockWrite _ _ _ e
  · exact h.sendRequest _ _ _ _ _ _ _ _ _

theorem movRound {q : MovAcc} (h : Lasts s₀ q.s) (who : Requester) (d : MovDesc) (r : List (List MovElem)) :
    Lasts s₀ (MovAcc.round who d q r).s := by
  unfold MovAcc.round
  exact List.foldlRecOn r _ (motive := fun (x : List (MovElem × List Nat) × MovAcc) => Lasts s₀ x.2.s)
      (movRead h _) fun x hx a _ => movWrite hx _ _

theorem movRun (h : Lasts s₀ s) (bay : BitVec 8) (ch : BitVec 3) (d : MovDesc) (rs : List (List (List MovElem)))
    (data : List Byte) : Lasts s₀ (s.movRun bay ch d rs data).1 := by
  have hq : Lasts s₀ (rs.foldl (MovAcc.round (.mover bay ch) d) ⟨s, [], data, []⟩).s :=
    List.foldlRecOn rs (MovAcc.round (.mover bay ch) d) (motive := fun q => Lasts s₀ q.s) h
      fun _ hq _ _ => movRound hq _ _ _
  rw [State.movRun]
  dsimp only
  exact hq.modBay _ _

theorem movAsk (h : Lasts s₀ s) (bay : BitVec 8) (ch : BitVec 3) (d : MovDesc) (rs : List (List (List MovElem))) :
    Lasts s₀ (State.movAsk s bay ch d rs).2 := by
  unfold State.movAsk
  apply_rules [askHbm, h]

theorem movGauge (h : Lasts s₀ s) (c : BitVec 12) (d : MovDesc) (codes : List Nat) :
    Lasts s₀ (State.movGauge s c d codes) := by
  unfold State.movGauge
  split <;> apply_rules [draw, gaugeAdd, ite, h]

theorem movReads (h : Lasts s₀ s) (bay : BitVec 8) (ch : BitVec 3) (l : List MovElem) (last : Option Nat) :
    Lasts s₀ (s.movReads bay ch l last) := by
  induction l generalizing s last with
  | nil => exact h
  | cons e l ih =>
    unfold State.movReads
    split
    · split
      · exact ih h _
      · exact ih (h.sendRequest _ _ _ _ _ _ _ _ _) _
    · exact ih h _

theorem of_execMoverDescriptorStart (h : Lasts s₀ s) (bay : BitVec 8) (ch : BitVec 3) :
    OutLasts s₀ (execMoverDescriptorStart bay ch s) := by
  unfold execMoverDescriptorStart
  grind only [← modCarrel, ← movReads, ← OutLasts.next, ← upd, ← updSec]

theorem movComplete (h : Lasts s₀ s) (c : BitVec 12) (q : Nat) (x : Issued) :
    Lasts s₀ (State.movComplete s c q x) := by
  unfold State.movComplete
  apply_rules [modCarrel, engineWake, release, h]

theorem of_execMoverDescriptorDone (h : Lasts s₀ s) (bay : BitVec 8) (ch : BitVec 3) (data : List Byte) :
    OutLasts s₀ (execMoverDescriptorDone bay ch data s) := by
  refine .next ?_
  split
  · exact h
  · dsimp only
    split
    · exact h
    · split
      · exact h.movComplete _ _ _
      · split
        · exact h
        · split
          · exact h
          · refine of_whenLet (h.movAsk _ _ _ _) fun u hu => ?_
            have hrun := fun d => (hu.movRun bay ch d ‹_› data).movGauge
            grind only [← movRun, ← movGauge, ← modCarrel, ← movComplete]

theorem movStopped (h : Lasts s₀ s) (c : BitVec 12) (bay : BitVec 8) (ch : BitVec 3) (d : MovDesc) (a : Word) :
    Lasts s₀ (State.movStopped s c bay ch d a) := by
  unfold State.movStopped
  apply_rules [draw, movRun, movGauge, h]

theorem of_execDescStop (h : Lasts s₀ s) (bay : BitVec 8) (ch : BitVec 3) (cause : StopCause) :
    OutLasts s₀ (execDescStop bay ch cause s) := by
  unfold execDescStop
  dsimp only
  repeat' split
  all_goals apply_rules [modCarrel, report, forget, modPlan, movStopped, OutLasts.next, OutLasts.ite, upd,
      updSec, ite, h]

theorem queueCopy (h : Lasts s₀ s) (r : RwRange) :
    Lasts s₀ (State.queueCopy s r) := by
  unfold State.queueCopy
  apply_rules [modCarrel, upd, updSec, h]

theorem copyByte (h : Lasts s₀ s) (c : BitVec 12) (ch : BitVec 3) (src : Word) (dst : Word) :
    Lasts s₀ (State.copyByte s c ch src dst) := by
  unfold State.copyByte
  repeat' split
  all_goals apply_rules [setByte, upd, updSec, ite, h]

theorem snapRestore (h : Lasts s₀ s) (r : RwRange) :
    Lasts s₀ (State.snapRestore s r) := by
  unfold State.snapRestore
  refine foldl h (fun s a h => ?_) _
  apply_rules [copyByte, h]

/-! ### LinkRec -/

theorem redPut (h : Lasts s₀ s) (num : Nat) (ty : Nat) (exp : Nat) (pos : Nat) (vals : List Nat) :
    Lasts s₀ (State.redPut s num ty exp pos vals) := by
  unfold State.redPut
  grind [← sendOn, ← foldl, ← upd, ← updSec]

theorem of_execReductionFragment (h : Lasts s₀ s) (l : Fin 12) : OutLasts s₀ (execReductionFragment l s) := by
  unfold execReductionFragment
  split
  · exact .next h
  · next e => exact .next (ite ((h.takeRx e).redPut _ _ _ _ _) (h.takeRx e))

theorem recAsk (h : Lasts s₀ s) (slot : BitVec 8) (ctx : BitVec 12) (va : Word) (n : Nat) :
    Lasts s₀ (State.recAsk s slot ctx va n).2 := by
  unfold State.recAsk
  apply_rules [askHbm, upd, updSec, ite, h]

theorem recBlock (h : Lasts s₀ s) {slot : BitVec 8} {ctx : BitVec 12} {r : LinkRec} {i : Nat} {t : State}
    (e : s.recBlock slot ctx r i = some t) : Lasts s₀ t := by
  unfold State.recBlock at e
  dsimp only at e
  split at e
  · split at e
    · cases e
      exact h.sendRequest _ _ _ _ _ _ _ _ _
    · cases e
  · obtain ⟨x, _, e⟩ := Option.map_eq_some_iff.mp e
    cases e
    exact h.sendRequest _ _ _ _ _ _ _ _ _

theorem recBlocks (h : Lasts s₀ s) (slot : BitVec 8) (ctx : BitVec 12) (r : LinkRec) (l : List Nat) :
    Lasts s₀ (s.recBlocks slot ctx r l).1 := by
  induction l generalizing s with
  | nil => exact h
  | cons i l ih =>
    unfold State.recBlocks
    split
    · next e => exact ih (h.recBlock e)
    · exact h

theorem recSend (h : Lasts s₀ s) (slot : BitVec 8) (ctx : BitVec 12) (r : LinkRec) :
    Lasts s₀ (s.recSend slot ctx r).1 := by
  unfold State.recSend
  split
  · grind only [← sendRequest]
  · exact h.arriveBarrier _ _
  · grind only [← redPut, ← sendOn]
  · exact h.recBlocks _ _ _ _

theorem putRecord (h : Lasts s₀ s) (slot : Nat) (i : Nat) (x : LinkRun) :
    Lasts s₀ (State.putRecord s slot i x) := by
  unfold State.putRecord
  apply_rules [modPlan, upd, updSec, h]

theorem of_execLinkRecordStart (h : Lasts s₀ s) (slot : BitVec 8) : OutLasts s₀ (execLinkRecordStart slot s) := by
  refine .next ?_
  split
  · exact h
  · dsimp only
    split
    · exact h
    · split
      · exact of_whenLet (h.recAsk _ _ _ _) fun u hu => (hu.recSend _ _ _).putRecord _ _ _
      · exact h

theorem recStore (h : Lasts s₀ s) {ctx : BitVec 12} {va : Word} {b : List Byte} {t : State}
    (e : s.recStore ctx va b = some t) : Lasts s₀ t := by
  unfold State.recStore at e
  split at e
  · cases e
    exact h
  · split at e
    · split at e
      · cases e
        exact h.store _ _
      · cases e
    · cases e

theorem of_execLinkRecordDone (h : Lasts s₀ s) (slot : BitVec 8) (e : RecordEnd) :
    OutLasts s₀ (execLinkRecordDone slot e s) := by
  refine .next ?_
  split
  · exact h
  · split
    · exact h
    · dsimp only
      split
      · refine of_whenLet (h.recAsk _ _ _ _) fun u hu => ?_
        split
        · exact hu.putRecord _ _ _
        · next e => exact (hu.recStore e).modPlan _ _
      · exact h

/-! ### Func -/

theorem modWin (h : Lasts s₀ s) (f : Nat) (g : DictWin → DictWin) :
    Lasts s₀ (State.modWin s f g) := by
  unfold State.modWin
  apply_rules [upd, updSec, h]

theorem dictEnd (h : Lasts s₀ s) (src : DictSrc) (code : Nat) (done : Nat) (size : Nat) (data : List Byte) :
    Lasts s₀ (State.dictEnd s src code done size data) := by
  unfold State.dictEnd
  repeat' split
  all_goals apply_rules [send, modWin, upd, updSec, ite, h]

theorem dictAbort (h : Lasts s₀ s) (src : DictSrc) (code : Nat) :
    Lasts s₀ (State.dictAbort s src code) := by
  unfold State.dictAbort
  apply_rules [dictEnd, h]

theorem dictOk (h : Lasts s₀ s) (src : DictSrc) (n : Nat) :
    Lasts s₀ (State.dictOk s src n) := by
  unfold State.dictOk
  apply_rules [dictEnd, h]

theorem beginStart (h : Lasts s₀ s) (fn : FuncId) : Lasts s₀ (s.beginStart fn) := by
  unfold State.beginStart
  split
  · exact h.modLink _ _
  · exact h.modStack _ _
  · exact h

theorem funcWrite (h : Lasts s₀ s) (fn : FuncId) (v : Bool) :
    Lasts s₀ (State.funcWrite s fn v) := by
  unfold State.funcWrite
  grind only [← fault, ← setFunc, ← beginStart, ← upd, ← updSec]

theorem funcEntry (h : Lasts s₀ s) (src : DictSrc) (fn : FuncId) (v : Bool) :
    Lasts s₀ (State.funcEntry s src fn v) := by
  unfold State.funcEntry
  repeat' split
  all_goals apply_rules [dictAbort, dictOk, funcWrite, upd, updSec, ite, h]

theorem of_execFunctionEnable (h : Lasts s₀ s) (src : DictSrc) (fn : FuncId) :
    OutLasts s₀ (execFunctionEnable src fn s) := by
  unfold execFunctionEnable
  apply_rules [funcEntry, OutLasts.next, h]

theorem of_execFunctionDisable (h : Lasts s₀ s) (src : DictSrc) (fn : FuncId) :
    OutLasts s₀ (execFunctionDisable src fn s) := by
  unfold execFunctionDisable
  apply_rules [funcEntry, OutLasts.next, h]

theorem dozeBay (h : Lasts s₀ s) (b : Nat) :
    Lasts s₀ (State.dozeBay s b) := by
  unfold State.dozeBay
  refine foldl h (fun s a h => ?_) _
  apply_rules [modCarrels, upd, updSec, h]

theorem startDone (h : Lasts s₀ s) (fn : FuncId) (ok : Bool) :
    Lasts s₀ (State.startDone s fn ok) := by
  unfold State.startDone
  dsimp only
  repeat' split
  all_goals apply_rules [fault, modHctx, setFunc, modStack, upd, updSec, ite, h]

theorem of_execFunctionStartDone (h : Lasts s₀ s) (fn : FuncId) (ok : Bool) :
    OutLasts s₀ (execFunctionStartDone fn ok s) := by
  unfold execFunctionStartDone
  apply_rules [startDone, OutLasts.next, h]

theorem zeroRange (h : Lasts s₀ s) (a n : Nat) : Lasts s₀ (s.zeroRange a n) :=
  ⟨fun e => Tab.wf_filter _ (h.form e), h.fuse⟩

theorem scrubAsk (h : Lasts s₀ s) (ctx : BitVec 12) :
    Lasts s₀ (State.scrubAsk s ctx).2 := by
  unfold State.scrubAsk
  apply_rules [askHbm, h]

theorem scrubCtx (h : Lasts s₀ s) (ctx : Nat) :
    Lasts s₀ (State.scrubCtx s ctx) := by
  unfold State.scrubCtx
  grind only [← modGauge, ← zeroRange, ← foldl, ← upd, ← updSec]

theorem linkOff (h : Lasts s₀ s) (l : Nat) :
    Lasts s₀ (State.linkOff s l) := by
  unfold State.linkOff
  grind only [← modLink, ← sendItem, ← foldl]

theorem stopDone (h : Lasts s₀ s) (fn : FuncId) : Lasts s₀ (s.stopDone fn) := by
  unfold State.stopDone
  grind only [← beginStart, ← setFunc, ← linkOff, ← modStack, ← foldl, ← dozeBay, ← ctxOff, ← scrubCtx,
      ← of_whenLet, ← scrubAsk]

theorem of_execFunctionStopDone (h : Lasts s₀ s) (fn : FuncId) :
    OutLasts s₀ (execFunctionStopDone fn s) := by
  unfold execFunctionStopDone
  apply_rules [stopDone, OutLasts.next, h]

theorem of_execLnkCtlEnWrite (h : Lasts s₀ s) (src : Src) (l : Fin 12) (en : Bool) :
    OutLasts s₀ (execLnkCtlEnWrite src l en s) := by
  unfold execLnkCtlEnWrite
  repeat' split
  all_goals apply_rules [deny, funcWrite, OutLasts.next, OutLasts.ite, ite, h]

/-! ### HostOrph -/

theorem modCmd (h : Lasts s₀ s) (ctx : Nat) (seq : BitVec 32) (f : Cmd → Cmd) :
    Lasts s₀ (State.modCmd s ctx seq f) := by
  unfold State.modCmd
  apply_rules [modHctx, upd, updSec, ite, h]

theorem setEngine (h : Lasts s₀ s) (e : Nat) (x : CopyEngine) :
    Lasts s₀ (State.setEngine s e x) := by
  unfold State.setEngine
  apply_rules [upd, updSec, h]

theorem dropCmd (h : Lasts s₀ s) (ctx : Nat) (c : Cmd) :
    Lasts s₀ (State.dropCmd s ctx c) := by
  unfold State.dropCmd
  split <;> apply_rules [modHctx, setEngine, upd, updSec, h]

theorem writeLost (h : Lasts s₀ s) (r : Report) :
    Lasts s₀ (State.writeLost s r) := by
  unfold State.writeLost
  apply_rules [modHctx, report, upd, updSec, h]

theorem hostLost (h : Lasts s₀ s) (ctx : Nat) (c : Cmd) :
    Lasts s₀ (State.hostLost s ctx c) := by
  unfold State.hostLost
  dsimp only
  repeat' split
  all_goals apply_rules [dropCmd, writeLost, upd, updSec, ite, h]

theorem complete1 (h : Lasts s₀ s) (ctx : Nat) (c : Cmd) (status : Nat) (detail : Nat) (tick : Word)
    (value : Word) :
    Lasts s₀ (State.complete1 s ctx c status detail tick value) := by
  unfold State.complete1
  dsimp only
  repeat' split
  all_goals apply_rules [send, sendMsix, dropCmd, hostLost, ite, h]

theorem releaseDone (h : Lasts s₀ s) (ctx : Nat) (l : List Cmd) : Lasts s₀ (s.releaseDone ctx l) := by
  induction l generalizing s with
  | nil => exact h
  | cons c l ih =>
    unfold State.releaseDone
    split
    · exact h
    · split
      · exact ih (h.complete1 _ _ _ _ _ _)
      · exact ih h

theorem complete (h : Lasts s₀ s) (ctx : Nat) (c : Cmd) (status : Nat) (detail : Nat) (tick : Word) (value : Word) :
    Lasts s₀ (State.complete s ctx c status detail tick value) := by
  unfold State.complete
  grind only [← modCmd, ← setEngine, ← complete1, ← releaseDone, ← upd, ← updSec]

theorem failCmd (h : Lasts s₀ s) (ctx : BitVec 12) (c : Cmd) (err : RespErr) :
    Lasts s₀ (State.failCmd s ctx c err) := by
  unfold State.failCmd
  apply_rules [forget, complete, h]

theorem orphan (h : Lasts s₀ s) (ctx : Nat) :
    Lasts s₀ (State.orphan s ctx) := by
  unfold State.orphan
  grind only [← modHctx, ← raiseCtx, ← hostLost, ← foldl]

theorem orphanAll (h : Lasts s₀ s) :
    Lasts s₀ (State.orphanAll s) := by
  unfold State.orphanAll
  refine foldl h (fun s a h => ?_) _
  apply_rules [orphan, h]

theorem of_execFlrVf (h : Lasts s₀ s) (x : VfLoss) :
    OutLasts s₀ (execFlrVf x s) := by
  unfold execFlrVf
  grind only [← orphan, ← OutLasts.next, ← foldl, ← upd, ← updSec]

theorem of_execFlrPf (h : Lasts s₀ s) :
    OutLasts s₀ (execFlrPf s) := by
  unfold execFlrPf
  grind only [← orphanAll, ← OutLasts.next, ← upd, ← updSec]

theorem of_execHotReset (h : Lasts s₀ s) :
    OutLasts s₀ (execHotReset s) := by
  unfold execHotReset
  grind only [← orphanAll, ← OutLasts.next, ← upd, ← updSec]

theorem of_execDataLinkDown (h : Lasts s₀ s) :
    OutLasts s₀ (execDataLinkDown s) := by
  unfold execDataLinkDown
  grind only [← orphanAll, ← OutLasts.next, ← upd, ← updSec]

theorem of_execDataLinkUp (h : Lasts s₀ s) (rate : BitVec 3) (width : BitVec 5) (noflit : Bool) (vfs : BitVec 64) :
    OutLasts s₀ (execDataLinkUp rate width noflit vfs s) := by
  unfold execDataLinkUp
  grind only [← writeLost, ← OutLasts.next, ← foldl, ← upd, ← updSec]

theorem of_execD3hotEntry (h : Lasts s₀ s) (f : BitVec 6) :
    OutLasts s₀ (execD3hotEntry f s) := by
  unfold execD3hotEntry
  grind only [← OutLasts.next, ← upd, ← updSec]

theorem of_execD0Entry (h : Lasts s₀ s) (f : BitVec 6) :
    OutLasts s₀ (execD0Entry f s) := by
  unfold execD0Entry
  grind only [← OutLasts.next, ← upd, ← updSec]

theorem orphCmd (h : Lasts s₀ s) :
    Lasts s₀ (State.orphCmd s) := by
  unfold State.orphCmd
  dsimp only
  repeat' split
  all_goals apply_rules [modHctx, funcWrite, upd, updSec, ite, h]

theorem orphWrite (h : Lasts s₀ s) (v : Word) :
    Lasts s₀ (State.orphWrite s v) := by
  unfold State.orphWrite
  split <;> apply_rules [orphCmd, upd, updSec, ite, h]

theorem of_execReclaim (h : Lasts s₀ s) (src : Src) (ctx : BitVec 12) (f : BitVec 6) :
    OutLasts s₀ (execReclaim src ctx f s) := by
  unfold execReclaim
  split <;> apply_rules [deny, orphWrite, OutLasts.next, OutLasts.ite, ite, h]

theorem of_execRelease (h : Lasts s₀ s) (src : Src) (ctx : BitVec 12) :
    OutLasts s₀ (execRelease src ctx s) := by
  unfold execRelease
  split <;> apply_rules [deny, orphWrite, OutLasts.next, OutLasts.ite, ite, h]

/-! ### Security -/

theorem setSec (h : Lasts s₀ s) {x : SecUnit} (hx : x.fuse = s.sec.fuse) : Lasts s₀ (s.setSec x) :=
  ⟨h.form, fun k j e => by rw [State.setSec, hx]; exact h.fuse k j e⟩

theorem setImage (h : Lasts s₀ s) (b : Bool) (x : Flash) : Lasts s₀ (s.setImage b x) :=
  h.setSec (by cases b <;> rfl)

/-- Entries written over others that they contain leave no bit behind. -/
theorem setAll_bits {t u : Tab Byte} (l : List (Nat × Byte)) (hu : ∀ k j,
    (Tab.get 0 t k).getLsbD j = true → (Tab.get 0 u k).getLsbD j = true) (hl : ∀ x ∈ l, ∀ j,
    (Tab.get 0 t x.1).getLsbD j = true → x.2.getLsbD j = true) (k j : Nat)
    (hb : (Tab.get 0 t k).getLsbD j = true) : (Tab.get 0 (Tab.setAll 0 u l) k).getLsbD j = true := by
  induction l generalizing u with
  | nil => exact hu k j hb
  | cons x l ih =>
    refine ih (u := Tab.set 0 u x.1 x.2) (fun k j hb => ?_) fun y hy => hl y (List.mem_cons_of_mem _ hy)
    by_cases hk : k = x.1
    · subst hk
      rw [Tab.get_set_same]
      exact hl x (List.mem_cons_self ..) j hb
    · rw [Tab.get_set_other _ _ _ _ _ hk]
      exact hu k j hb

theorem arbBlow_mem (s : State) (v : Nat) : (s.arbBlow v).mem = s.mem := by rw [State.arbBlow, State.setSec]

theorem arbBlow_fuse (s : State) (v : Nat) : ∃ l : List Byte, (s.arbBlow v).sec.fuse =
    Tab.setAll 0 s.sec.fuse (l.mapIdx fun i b => (0x60 + i, Tab.get 0 s.sec.fuse (0x60 + i) ||| b)) :=
  ⟨natToBytes 16 (bytesToNat (s.fuseBytes 0x60 16) ||| (2 ^ v - 2 ^ s.arbCount)), by rw [State.arbBlow,
      State.setSec]⟩

theorem burn_bits (t : Tab Byte) (l : List Byte) :
    ∀ x ∈ l.mapIdx fun i b => (0x60 + i, Tab.get 0 t (0x60 + i) ||| b), ∀ j,
      (Tab.get 0 t x.1).getLsbD j = true → x.2.getLsbD j = true := by
  intro x hx j hj
  obtain ⟨i, hi, rfl⟩ := List.mem_mapIdx.1 hx
  rw [BitVec.getLsbD_or, hj, Bool.true_or]

theorem arbBlow (h : Lasts s₀ s) (v : Nat) : Lasts s₀ (s.arbBlow v) := by
  obtain ⟨l, hl⟩ := arbBlow_fuse s v
  refine ⟨fun e => ?_, fun k j e => ?_⟩
  · rw [State.memWf, arbBlow_mem]
    exact h.form e
  · rw [hl]
    exact setAll_bits _ (fun _ _ => id) (burn_bits _ l) k j (h.fuse k j e)

theorem noteWrite (h : Lasts s₀ s) (index : Nat) (sub : Nat) (v : List Byte) :
    Lasts s₀ (State.noteWrite s index sub v) := by
  unfold State.noteWrite
  apply_rules [upd, updSec, h]

theorem arbPut (h : Lasts s₀ s) (v : BitVec 8) : Lasts s₀ (s.arbPut v).2 := by
  unfold State.arbPut
  dsimp only
  split
  · exact h.noteWrite _ _ _
  · split
    · exact h.setSec rfl
    · exact (h.noteWrite _ _ _).arbBlow _

theorem endPut {x : Nat × State} (h : Lasts s₀ x.2) (src : DictSrc) (n : Nat) : Lasts s₀ (State.endPut x src n) :=
  ite (h.dictOk _ _) (h.dictAbort _ _)

theorem of_execArbCommit (h : Lasts s₀ s) (src : DictSrc) (v : BitVec 8) : OutLasts s₀ (execArbCommit src v s) :=
  .next (ite h (ite (h.dictAbort _ _) (endPut (h.arbPut _) _ _)))

theorem setBox (h : Lasts s₀ s) (m : Nat) (x : Mailbox) : Lasts s₀ (s.setBox m x) := h.setSec rfl

theorem attRequest (h : Lasts s₀ s) (m : Nat) :
    Lasts s₀ (State.attRequest s m) := by
  unfold State.attRequest
  dsimp only
  repeat' split
  all_goals apply_rules [setBox, upd, updSec, ite, h]

theorem of_execAttGo (h : Lasts s₀ s) (m : BitVec 7) (src : DictSrc) :
    OutLasts s₀ (execAttGo m src s) := by
  unfold execAttGo
  repeat' split
  all_goals apply_rules [dictAbort, dictOk, attRequest, OutLasts.next, OutLasts.ite, ite, h]

theorem attCapture (h : Lasts s₀ s) (m : Nat) :
    Lasts s₀ (State.attCapture s m) := by
  unfold State.attCapture
  dsimp only
  repeat' split
  all_goals apply_rules [setBox, upd, updSec, ite, h]

theorem attCaptures (h : Lasts s₀ s) :
    Lasts s₀ (State.attCaptures s) := by
  unfold State.attCaptures
  refine foldl h (fun s a h => ?_) _
  apply_rules [attCapture, h]

theorem draw256 (h : Lasts s₀ s) :
    Lasts s₀ (State.draw256 s).2 := by
  unfold State.draw256
  apply_rules [draw, h]

theorem of_execAttestationSigned (h : Lasts s₀ s) (m : BitVec 7) :
    OutLasts s₀ (execAttestationSigned m s) := by
  unfold execAttestationSigned
  dsimp only
  repeat' split
  all_goals apply_rules [report, setBox, draw256, OutLasts.next, OutLasts.ite, upd, updSec, ite, h]

theorem newChal (h : Lasts s₀ s) : Lasts s₀ s.newChal := h.draw256.setSec rfl

theorem verify (h : Lasts s₀ s) : Lasts s₀ s.verify := by
  refine h.setSec ?_
  split
  · rfl
  · rfl

theorem dbgClose (h : Lasts s₀ s) : Lasts s₀ s.dbgClose := h.setSec rfl

theorem of_execNewchal (h : Lasts s₀ s) (src : Src) :
    OutLasts s₀ (execNewchal src s) := by
  unfold execNewchal
  split <;> apply_rules [deny, newChal, OutLasts.next, OutLasts.ite, ite, h]

theorem of_execVerify (h : Lasts s₀ s) (src : Src) :
    OutLasts s₀ (execVerify src s) := by
  unfold execVerify
  split <;> apply_rules [deny, verify, OutLasts.next, OutLasts.ite, ite, h]

theorem of_execClose (h : Lasts s₀ s) (src : Src) :
    OutLasts s₀ (execClose src s) := by
  unfold execClose
  split <;> apply_rules [deny, dbgClose, OutLasts.next, OutLasts.ite, ite, h]

theorem of_execDebugRequest (h : Lasts s₀ s) (x : IrqSource) :
    OutLasts s₀ (execDebugRequest x s) := by
  unfold execDebugRequest
  split <;> apply_rules [modCarrel, OutLasts.next, OutLasts.ite, upd, updSec, ite, h]

theorem of_execTestPortWrite (h : Lasts s₀ s) (c : BitVec 12) (target : TestTarget) (v : Word) :
    OutLasts s₀ (execTestPortWrite c target v s) := by
  unfold execTestPortWrite
  dsimp only
  repeat' split
  all_goals apply_rules [modCarrel, modPlan, OutLasts.next, OutLasts.ite, upd, updSec, ite, h]

/-! ### PowerSeq -/

theorem modPower (h : Lasts s₀ s) (f : PowerUnit → PowerUnit) :
    Lasts s₀ (State.modPower s f) := by
  unfold State.modPower
  apply_rules [upd, updSec, h]

theorem setZone (h : Lasts s₀ s) (z : Nat) (x : Zone) :
    Lasts s₀ (State.setZone s z x) := by
  unfold State.setZone
  dsimp only
  repeat' split
  all_goals apply_rules [emcy, clearErrBit, modPower, upd, updSec, ite, h]

theorem coolReading (h : Lasts s₀ s) (z : Nat) (r : BitVec 16) :
    Lasts s₀ (State.coolReading s z r) := by
  unfold State.coolReading
  repeat' split
  all_goals apply_rules [modPower, upd, updSec, ite, h]

theorem of_execZoneLevelRise (h : Lasts s₀ s) (z : BitVec 4) (reading : BitVec 16) :
    OutLasts s₀ (execZoneLevelRise z reading s) := by
  unfold execZoneLevelRise
  split <;> apply_rules [setZone, coolReading, OutLasts.next, OutLasts.ite, upd, updSec, ite, h]

theorem of_execSensorFault (h : Lasts s₀ s) (z : BitVec 4) (i : BitVec 4) :
    OutLasts s₀ (execSensorFault z i s) := by
  unfold execSensorFault
  split <;> apply_rules [draw, setZone, OutLasts.next, OutLasts.ite, upd, updSec, ite, h]

theorem of_execSensorRecovered (h : Lasts s₀ s) (z : BitVec 4) (i : BitVec 4) (reading : BitVec 16) :
    OutLasts s₀ (execSensorRecovered z i reading s) := by
  unfold execSensorRecovered
  split <;> apply_rules [setZone, OutLasts.next, OutLasts.ite, upd, updSec, ite, h]

theorem coolZone (h : Lasts s₀ s) (z : Nat) :
    Lasts s₀ (State.coolZone s z) := by
  unfold State.coolZone
  dsimp only
  repeat' split
  all_goals apply_rules [setZone, upd, updSec, ite, h]

theorem moduleReset (h : Lasts s₀ s) : Lasts s₀ s.moduleReset := ⟨fun _ => rfl, h.fuse⟩

theorem shutdown (h : Lasts s₀ s) (cause : Nat) (zone : Nat) :
    Lasts s₀ (State.shutdown s cause zone) := by
  unfold State.shutdown
  apply_rules [modPower, moduleReset, upd, updSec, h]

theorem shutIfOn (h : Lasts s₀ s) (cause : Nat) (zone : Nat) :
    Lasts s₀ (State.shutIfOn s cause zone) := by
  unfold State.shutIfOn
  split <;> apply_rules [shutdown, ite, h]

theorem powerOn (h : Lasts s₀ s) :
    Lasts s₀ (State.powerOn s) := by
  unfold State.powerOn
  apply_rules [modPower, upd, updSec, h]

theorem of_execCriticalHoldExpiry (h : Lasts s₀ s) :
    OutLasts s₀ (execCriticalHoldExpiry s) := by
  unfold execCriticalHoldExpiry
  repeat' split
  all_goals apply_rules [shutIfOn, OutLasts.next, OutLasts.ite, upd, updSec, ite, h]

theorem of_execAutoRestart (h : Lasts s₀ s) :
    OutLasts s₀ (execAutoRestart s) := by
  unfold execAutoRestart
  split <;> apply_rules [powerOn, OutLasts.next, OutLasts.ite, ite, h]

theorem of_execFuseTrip (h : Lasts s₀ s) :
    OutLasts s₀ (execFuseTrip s) := by
  unfold execFuseTrip
  split <;> apply_rules [draw, modPower, shutdown, OutLasts.next, OutLasts.ite, upd, updSec, ite, h]

theorem of_execFuseRetry (h : Lasts s₀ s) :
    OutLasts s₀ (execFuseRetry s) := by
  unfold execFuseRetry
  split <;> apply_rules [powerOn, OutLasts.next, OutLasts.ite, ite, h]

theorem of_execUndervoltage (h : Lasts s₀ s) (v : BitVec 16) :
    OutLasts s₀ (execUndervoltage v s) := by
  unfold execUndervoltage
  split <;> apply_rules [emcy, modPower, OutLasts.next, OutLasts.ite, upd, updSec, ite, h]

theorem of_execOvervoltage (h : Lasts s₀ s) (v : BitVec 16) :
    OutLasts s₀ (execOvervoltage v s) := by
  unfold execOvervoltage
  split <;> apply_rules [emcy, modPower, OutLasts.next, OutLasts.ite, upd, updSec, ite, h]

theorem of_execVoltageRecovered (h : Lasts s₀ s) (v : BitVec 16) :
    OutLasts s₀ (execVoltageRecovered v s) := by
  unfold execVoltageRecovered
  dsimp only
  repeat' split
  all_goals apply_rules [emcy, clearErrBit, modPower, OutLasts.next, OutLasts.ite, upd, updSec, ite, h]

theorem of_execBrownOut (h : Lasts s₀ s) :
    OutLasts s₀ (execBrownOut s) := by
  unfold execBrownOut
  apply_rules [shutIfOn, OutLasts.next, h]

theorem of_execSevereOvervoltage (h : Lasts s₀ s) :
    OutLasts s₀ (execSevereOvervoltage s) := by
  unfold execSevereOvervoltage
  apply_rules [shutIfOn, OutLasts.next, h]

theorem of_execRailPowerGoodLost (h : Lasts s₀ s) (k : BitVec 4) :
    OutLasts s₀ (execRailPowerGoodLost k s) := by
  unfold execRailPowerGoodLost
  split <;> apply_rules [shutIfOn, OutLasts.next, OutLasts.ite, ite, h]

theorem of_execPwrEnLow (h : Lasts s₀ s) :
    OutLasts s₀ (execPwrEnLow s) := by
  unfold execPwrEnLow
  apply_rules [modPower, shutIfOn, OutLasts.next, upd, updSec, h]

theorem of_execPwrEnHigh (h : Lasts s₀ s) :
    OutLasts s₀ (execPwrEnHigh s) := by
  unfold execPwrEnHigh
  apply_rules [modPower, powerOn, OutLasts.next, upd, updSec, h]

theorem of_execInputRemoved (h : Lasts s₀ s) :
    OutLasts s₀ (execInputRemoved s) := by
  unfold execInputRemoved
  apply_rules [modPower, shutIfOn, OutLasts.next, upd, updSec, h]

theorem of_execInputApplied (h : Lasts s₀ s) (v : BitVec 16) :
    OutLasts s₀ (execInputApplied v s) := by
  unfold execInputApplied
  apply_rules [modPower, powerOn, OutLasts.next, upd, updSec, h]

theorem of_execSenseFault (h : Lasts s₀ s) (k : BitVec 2) :
    OutLasts s₀ (execSenseFault k s) := by
  unfold execSenseFault
  split <;> apply_rules [modPower, OutLasts.next, OutLasts.ite, upd, updSec, ite, h]

theorem maxClr (h : Lasts s₀ s) :
    Lasts s₀ (State.maxClr s) := by
  unfold State.maxClr
  apply_rules [modPower, upd, updSec, h]

theorem of_execMaxClr (h : Lasts s₀ s) (src : Src) :
    OutLasts s₀ (execMaxClr src s) := by
  unfold execMaxClr
  split <;> apply_rules [deny, maxClr, OutLasts.next, OutLasts.ite, ite, h]

/-! ### RegFile -/

theorem lenAtWrite (h : Lasts s₀ s) (v : Word) :
    Lasts s₀ (State.lenAtWrite s v) := by
  unfold State.lenAtWrite
  dsimp only
  repeat' split
  all_goals apply_rules [upd, updSec, ite, h]

theorem of_execArmLengthChange (h : Lasts s₀ s) (src : Src) (boundary : Word) :
    OutLasts s₀ (execArmLengthChange src boundary s) := by
  unfold execArmLengthChange
  split <;> apply_rules [deny, lenAtWrite, OutLasts.next, OutLasts.ite, ite, h]

theorem of_execCancelLengthChange (h : Lasts s₀ s) (src : Src) :
    OutLasts s₀ (execCancelLengthChange src s) := by
  unfold execCancelLengthChange
  split <;> apply_rules [deny, lenAtWrite, OutLasts.next, OutLasts.ite, ite, h]

theorem rateWrite (h : Lasts s₀ s) (i : Nat) (p : Nat) (v : Word) :
    Lasts s₀ (State.rateWrite s i p v) := by
  unfold State.rateWrite
  split <;> apply_rules [modStack, upd, updSec, ite, h]

theorem of_execHbmPartRateWrite (h : Lasts s₀ s) (src : Src) (stack : BitVec 3) (p : BitVec 6) (v : Word) :
    OutLasts s₀ (execHbmPartRateWrite src stack p v s) := by
  unfold execHbmPartRateWrite
  split <;> apply_rules [deny, rateWrite, OutLasts.next, OutLasts.ite, ite, h]

theorem censusNow (h : Lasts s₀ s) :
    Lasts s₀ (State.censusNow s) := by
  unfold State.censusNow
  grind only [← sendOn, ← announce, ← foldl, ← upd, ← updSec]

theorem of_execCensusNow (h : Lasts s₀ s) (src : Src) :
    OutLasts s₀ (execCensusNow src s) := by
  unfold execCensusNow
  split <;> apply_rules [deny, censusNow, OutLasts.next, OutLasts.ite, ite, h]

theorem of_execRingEnable (h : Lasts s₀ s) (src : Src) (v : Word) :
    OutLasts s₀ (execRingEnable src v s) := by
  unfold execRingEnable
  split <;> apply_rules [ringCtl, deny, OutLasts.next, OutLasts.ite, ite, h]

theorem pkgNanWrite (h : Lasts s₀ s) (v : Word) :
    Lasts s₀ (State.pkgNanWrite s v) := by
  unfold State.pkgNanWrite
  apply_rules [upd, updSec, h]

theorem of_execPackageNanClear (h : Lasts s₀ s) (src : Src) (v : Word) :
    OutLasts s₀ (execPackageNanClear src v s) := by
  unfold execPackageNanClear
  split <;> apply_rules [deny, pkgNanWrite, OutLasts.next, OutLasts.ite, ite, h]

theorem tickRegWrite (h : Lasts s₀ s) (o : Nat) (v : Word) :
    Lasts s₀ (State.tickRegWrite s o v) := by
  unfold State.tickRegWrite
  dsimp only
  repeat' split
  all_goals apply_rules [lenAtWrite, upd, updSec, ite, h]

theorem portWrite (h : Lasts s₀ s) (src : Src) (p : Bool) (i : Nat) (v : Word) :
    Lasts s₀ (State.portWrite s src p i v) := by
  unfold State.portWrite
  split <;> apply_rules [portSet, portCmd, upd, updSec, h]

theorem segRegWrite (h : Lasts s₀ s) (src : Src) (b : Nat) (o : Nat) (v : Word) :
    Lasts s₀ (State.segRegWrite s src b o v) := by
  unfold State.segRegWrite
  dsimp only
  repeat' split
  all_goals apply_rules [segCtxWrite, setInvSlot, invRequest, portWrite, upd, updSec, ite, h]

theorem hbmRegWrite (h : Lasts s₀ s) (i : Nat) (o : Nat) (v : Word) :
    Lasts s₀ (State.hbmRegWrite s i o v) := by
  unfold State.hbmRegWrite
  dsimp only
  repeat' split
  all_goals apply_rules [modStack, rateWrite, upd, updSec, ite, h]

theorem lnkCtlWrite (h : Lasts s₀ s) (i : Nat) (v : Word) :
    Lasts s₀ (State.lnkCtlWrite s i v) := by
  unfold State.lnkCtlWrite
  dsimp only
  repeat' split
  all_goals apply_rules [modLink, funcWrite, upd, updSec, ite, h]

theorem chainRegWrite (h : Lasts s₀ s) (o : Nat) (v : Word) :
    Lasts s₀ (State.chainRegWrite s o v) := by
  unfold State.chainRegWrite
  dsimp only
  repeat' split
  all_goals apply_rules [chainSetup, joinStart, upd, updSec, ite, h]

theorem lnkRegWrite (h : Lasts s₀ s) (i : Nat) (o : Nat) (v : Word) :
    Lasts s₀ (State.lnkRegWrite s i o v) := by
  unfold State.lnkRegWrite
  repeat' split
  all_goals apply_rules [modLink, lnkCtlWrite, chainRegWrite, upd, updSec, ite, h]

theorem hostRegWrite (h : Lasts s₀ s) (b : Nat) (o : Nat) (v : Word) :
    Lasts s₀ (State.hostRegWrite s b o v) := by
  unfold State.hostRegWrite
  dsimp only
  repeat' split
  all_goals apply_rules [modHctx, orphWrite, upd, updSec, ite, h]

theorem secRegWrite (h : Lasts s₀ s) (o : Nat) (v : Word) : Lasts s₀ (s.secRegWrite o v) := by
  unfold State.secRegWrite
  refine ite (h.setSec rfl) (ite (ite h (h.setSec rfl)) (ite ?_ (ite (h.setSec rfl) (ite (h.setSec rfl)
      (ite (h.setSec rfl) h)))))
  grind only [← setSec, ← newChal, ← verify, ← dbgClose]

theorem cenRegWrite (h : Lasts s₀ s) (o : Nat) (v : Word) :
    Lasts s₀ (State.cenRegWrite s o v) := by
  unfold State.cenRegWrite
  grind only [← setRing, ← ringCtl, ← censusNow, ← pkgNanWrite, ← upd, ← updSec]

theorem trnRegWrite (h : Lasts s₀ s) (b : Nat) (o : Nat) (v : Word) :
    Lasts s₀ (State.trnRegWrite s b o v) := by
  unfold State.trnRegWrite
  dsimp only
  repeat' split
  all_goals apply_rules [modTrain, allotWrite, upd, updSec, ite, h]

theorem pwrRegWrite (h : Lasts s₀ s) (o : Nat) (v : Word) :
    Lasts s₀ (State.pwrRegWrite s o v) := by
  unfold State.pwrRegWrite
  repeat' split
  all_goals apply_rules [modPower, maxClr, upd, updSec, ite, h]

theorem regWrite (h : Lasts s₀ s) (src : Src) (b : Nat) (o : Nat) (v : Word) :
    Lasts s₀ (State.regWrite s src b o v) := by
  unfold State.regWrite
  repeat' split
  all_goals apply_rules [tickRegWrite, segRegWrite, hbmRegWrite, lnkRegWrite, hostRegWrite, secRegWrite,
      cenRegWrite, trnRegWrite, pwrRegWrite, ite, h]

theorem regAccess (h : Lasts s₀ s) (src : Src) (b : Nat) (o : Nat) (data : List Byte) :
    Lasts s₀ (State.regAccess s src b o data) := by
  unfold State.regAccess
  repeat' split
  all_goals apply_rules [deny, regWrite, upd, updSec, ite, h]

/-! ### Events -/

theorem mbWake (h : Lasts s₀ s) (c : BitVec 12) :
    Lasts s₀ (State.mbWake s c) := by
  unfold State.mbWake
  grind only [← modCarrel, ← popD, ← retire, ← store, ← sendRead, ← sendAtomic, ← settleLoad, ← settleStore,
      ← vmMove, ← settleBar, ← foldl]

theorem regBlock (h : Lasts s₀ s) (src : Src) (b : Nat) (o : Nat) (data : List Byte) (mask : List Bool) :
    Lasts s₀ (State.regBlock s src b o data mask) := by
  unfold State.regBlock
  refine foldl h (fun s a h => ?_) _
  repeat' split
  all_goals apply_rules [regWrite, ite, h]

theorem maskWrite (h : Lasts s₀ s) {src : Src} {a : Nat} {data : List Byte} {mask : List Bool} {old : Word} {t :
    State}
    (e : s.maskWrite src a data mask = .done old t) : Lasts s₀ t := by
  unfold State.maskWrite at e
  split at e
  · cases e
  · split at e
    · split at e
      · cases e
        exact h
      · split at e
        · cases e
        · cases e
          exact h.regBlock _ _ _ _ _
    · split at e
      · next e' =>
        cases e
        exact h.blockWrite _ _ _ e'
      · cases e

theorem shelfOper (h : Lasts s₀ s) (c : Nat) (a : Nat) (op : BitVec 4) (w : Bool) (x : Word) (cmp : Word) :
    Lasts s₀ (State.shelfOper s c a op w x cmp).2 := by
  unfold State.shelfOper
  dsimp only
  repeat' split
  all_goals apply_rules [setLe, report, upd, updSec, ite, h]

theorem operAt (h : Lasts s₀ s) {a : Nat} {op : BitVec 4} {w : Bool} {x cmp old : Word} {t : State}
    (e : s.operAt a op w x cmp = .done old t) : Lasts s₀ t := by
  unfold State.operAt at e
  dsimp only at e
  split at e
  · cases e
  · split at e
    · cases e
    · split at e
      · cases e
        exact h.hbmOper _ _ _ _ _
      · cases e
        exact h.shelfOper _ _ _ _ _ _
      · cases e

theorem entryWrite (h : Lasts s₀ s) {c : BitVec 12} {e : MergeEntry} {t : State} (ht : s.entryWrite c e = some t) :
    Lasts s₀ t := by
  unfold State.entryWrite at ht
  dsimp only at ht
  split at ht
  · cases ht
    exact h
  · split at ht
    · next e' =>
      cases ht
      exact h.maskWrite e'
    · cases ht

theorem of_execMergeEntryAck (h : Lasts s₀ s) (c : BitVec 12) (idx : BitVec 3) :
    OutLasts s₀ (execMergeEntryAck c idx s) := by
  refine .next ?_
  split
  · exact h
  · split
    · refine of_whenLet (h.askAt _ _ _ _) fun u hu => ?_
      split
      · exact hu
      · next e => exact ((hu.entryWrite e).modCarrel _ _).mbWake _
    · exact h

theorem of_execDCacheFill (h : Lasts s₀ s) (c : BitVec 12) (data : List Byte) :
    OutLasts s₀ (execDCacheFill c data s) := by
  unfold execDCacheFill
  split
  · split
    · exact .next h
    · split
      · exact .fault
      · split
        · exact .next h
        · exact .next (of_whenLet (h.askAt _ _ _ _) fun u hu => ((hu.modCarrel _ _).modCarrel _ _).settleLoad _ _
            _ _)
  · exact .next h

theorem of_execICacheFill (h : Lasts s₀ s) (c : BitVec 12)
    (pa : BitVec 56) : OutLasts s₀ (execICacheFill c pa s) := by
  refine .next ?_
  dsimp only
  split
  · exact h
  · refine of_whenLet (h.askAt _ _ _ _) fun u hu => modCarrel ?_ _ _
    split
    · exact hu
    · exact hu.draw

theorem vecPut (h : Lasts s₀ s) (c : BitVec 12) (op : Nat) (a : VMem) (accs : List VecAcc) :
    Lasts s₀ (s.vecPut c op a accs) := by
  unfold State.vecPut
  dsimp only
  split
  · exact h.vmAdds _ _ _
  · refine foldl (h.vmWrites _ _ _ _) (fun t g ht => ?_) _
    split
    · next e => exact ht.maskWrite e
    · exact ht

theorem vecIssued (h : Lasts s₀ s) (c : BitVec 12) :
    Lasts s₀ (State.vecIssued s c) := by
  unfold State.vecIssued
  split <;> apply_rules [vmInvalidate, vecPut, upd, updSec, h]

theorem vecAsk (h : Lasts s₀ s) (c : BitVec 12) (op : Nat) (accs : List VecAcc) :
    Lasts s₀ (State.vecAsk s c op accs).2 := by
  unfold State.vecAsk
  apply_rules [askHbm, ite, h]

theorem of_execMeshResponse (h : Lasts s₀ s) (c : BitVec 12) (data : List Byte) :
    OutLasts s₀ (execMeshResponse c data s) := by
  unfold execMeshResponse
  split
  case h_1 =>
    dsimp only
    split
    · exact .next h
    · split
      · exact .fault
      · exact .next (of_whenLet (h.askAt _ _ _ _) fun u hu => hu.settleLoad _ _ _ _)
  case h_2 =>
    refine .ite (.ite (.next h) (.next (of_whenLet (h.askAt _ _ _ _) fun u hu => ?_)))
      (.ite .fault (.next (h.finishAtomic _ _ _ _)))
    exact (hu.atomicAt _ _ _ _ _).finishAtomic _ _ _ _
  case h_3 =>
    split
    · exact .fault
    · split
      · exact .next h
      · exact .next (of_whenLet (h.vecAsk _ _ _) fun u hu => hu.vmFinish _ _ _ _)
  case h_4 =>
    split
    · exact .next h
    · exact .next (of_whenLet (h.vecAsk _ _ _) fun u hu => ((hu.vecPut _ _ _ _).vmInvalidate _ _).vmFinish _ _ _ _)
  case h_5 => exact .next h

theorem entryLost (h : Lasts s₀ s) (c : BitVec 12) (i : Nat) (e : MergeEntry) :
    Lasts s₀ (State.entryLost s c i e) := by
  unfold State.entryLost
  apply_rules [modCarrel, mbWake, upd, updSec, h]

theorem elemLost (h : Lasts s₀ s) (c : BitVec 12) (n : Nat) :
    Lasts s₀ (State.elemLost s c n) := by
  unfold State.elemLost
  repeat' split
  all_goals apply_rules [modCarrel, upd, updSec, h]

theorem of_execImpreciseFault (h : Lasts s₀ s) (c : BitVec 12) (w : ImpSource) :
    OutLasts s₀ (execImpreciseFault c w s) := by
  unfold execImpreciseFault
  repeat' split
  all_goals apply_rules [entryLost, elemLost, OutLasts.next, OutLasts.ite, upd, updSec, ite, h]

theorem retryReport (h : Lasts s₀ s) (c : BitVec 12) (pa : Nat) :
    Lasts s₀ (State.retryReport s c pa) := by
  unfold State.retryReport
  apply_rules [report, upd, updSec, h]

theorem unmappedLoad (h : Lasts s₀ s) (c : BitVec 12) (va : Word) (elem : Option Nat) :
    Lasts s₀ (State.unmappedLoad s c va elem) := by
  unfold State.unmappedLoad
  apply_rules [modCarrel, fault, upd, updSec, h]

theorem retry (h : Lasts s₀ s) (r : Requester) (pa : Nat) :
    Lasts s₀ (State.retry s r pa) := by
  unfold State.retry
  apply_rules [upd, updSec, h]

theorem entryUnmapped (h : Lasts s₀ s) (c : BitVec 12) (pa : Nat) :
    Lasts s₀ (State.entryUnmapped s c pa) := by
  unfold State.entryUnmapped
  repeat' split
  all_goals apply_rules [modCarrel, unask, entryLost, retryReport, upd, updSec, ite, h]

theorem carrelUnmapped (h : Lasts s₀ s) (c : BitVec 12) (pa : Nat) :
    Lasts s₀ (State.carrelUnmapped s c pa) := by
  unfold State.carrelUnmapped
  dsimp only
  repeat' split
  all_goals apply_rules [modCarrel, unask, elemLost, retryReport, unmappedLoad, retry, entryUnmapped, upd,
      updSec, ite, h]

theorem of_execUnmappedTargetResponse (h : Lasts s₀ s) (x : MeshAsk) :
    OutLasts s₀ (execUnmappedTargetResponse x s) := by
  unfold execUnmappedTargetResponse
  grind only [← report, ← unask, ← retry, ← carrelUnmapped, ← OutLasts.next, ← upd, ← updSec]

theorem restoreByte (h : Lasts s₀ s) (c : Nat) (off : Nat) (d : Option Byte) :
    Lasts s₀ (State.restoreByte s c off d) := by
  unfold State.restoreByte
  dsimp only
  repeat' split
  all_goals apply_rules [setByte, draw, upd, updSec, ite, h]

theorem sramLost (h : Lasts s₀ s) (c : Option (BitVec 12)) (a : Nat) :
    Lasts s₀ (State.sramLost s c a) := by
  unfold State.sramLost
  grind only [← setLe, ← draw, ← report, ← restoreByte, ← foldl, ← upd, ← updSec]

theorem of_execOverrun (h : Lasts s₀ s) (c : BitVec 12) :
    OutLasts s₀ (execOverrun c s) := by
  unfold execOverrun
  dsimp only
  repeat' split
  all_goals apply_rules [setCarrel, fault, modPlan, vecIssued, OutLasts.next, OutLasts.ite, OutLasts.fault, upd,
      updSec, ite, h]

theorem markUncorr (h : Lasts s₀ s) (c : BitVec 12) :
    Lasts s₀ (State.markUncorr s c) := by
  unfold State.markUncorr
  split <;> apply_rules [modPlan, upd, updSec, h]

theorem stopCarrel (h : Lasts s₀ s) (c : BitVec 12) :
    Lasts s₀ (State.stopCarrel s c) := by
  unfold State.stopCarrel
  grind only [← modCarrel, ← drainAll, entryWrite, ← vecIssued, ← markUncorr]

theorem stopIssued (h : Lasts s₀ s) (c : BitVec 12) (eng : Nat) (x : Issued) :
    Lasts s₀ (State.stopIssued s c eng x) := by
  unfold State.stopIssued
  split <;> apply_rules [modCarrel, engineWake, markUncorr, upd, updSec, ite, h]

theorem stopConsumer (h : Lasts s₀ s) (r : Requester) :
    Lasts s₀ (State.stopConsumer s r) := by
  unfold State.stopConsumer
  grind only [← modPlan, ← failCmd, ← stopCarrel, ← stopIssued, ← upd, ← updSec]

theorem of_execUncorrectableResponse (h : Lasts s₀ s) (r : Requester) (addr : BitVec 56) :
    OutLasts s₀ (execUncorrectableResponse r addr s) := by
  unfold execUncorrectableResponse
  grind only [← sramLost, ← stopConsumer, ← OutLasts.next]

/-! ### HostCmd -/

theorem act (h : Lasts s₀ s) (ctx : BitVec 12) (seq : BitVec 32) (op : Nat) {f : Cmd → State}
    (hf : ∀ c, Lasts s₀ (f c)) : Lasts s₀ (s.act ctx seq op f) := by
  unfold State.act
  split
  · exact ite (hf _) h
  · exact h

theorem ok (h : Lasts s₀ s) (ctx : BitVec 12) (c : Cmd) (tick : Word) (value : Word) :
    Lasts s₀ (State.ok s ctx c tick value) := by
  unfold State.ok
  apply_rules [complete, h]

theorem of_execNop (h : Lasts s₀ s) (ctx : BitVec 12) (seq : BitVec 32) : OutLasts s₀ (execNop ctx seq s) :=
  .next (h.act _ _ _ fun _ => h.ok _ _ _ _)

theorem of_execHostFence (h : Lasts s₀ s) (ctx : BitVec 12)
    (seq : BitVec 32) : OutLasts s₀ (execHostFence ctx seq s) :=
  .next (h.act _ _ _ fun _ => ite (h.ok _ _ _ _) h)

theorem declareSleep (h : Lasts s₀ s) (us : Nat) :
    Lasts s₀ (State.declareSleep s us) := by
  unfold State.declareSleep
  grind only [← modStack, ← foldl]

theorem of_execSleepDeclare (h : Lasts s₀ s) (ctx : BitVec 12) (seq : BitVec 32) :
    OutLasts s₀ (execSleepDeclare ctx seq s) := .next (h.act _ _ _ fun _ => (h.declareSleep _).ok _ _ _ _)

theorem putRange (h : Lasts s₀ s) (who : Requester) (src : Src) (part : BitVec 6) (b : List Byte)
    (l : List (Nat × Nat × Nat)) : Lasts s₀ (s.putRange who src part b l).state := by
  induction l generalizing s with
  | nil => exact h
  | cons x l ih =>
    obtain ⟨pa, o, n⟩ := x
    unfold State.putRange
    dsimp only
    split
    · split
      · next e => exact ih (h.maskWrite e)
      · exact h
      · exact h
    · split
      · exact h
      · exact ih (h.sendRequest _ _ _ _ _ _ _ _ _)

theorem rowsAsk (h : Lasts s₀ s) (who : Requester) (ctx : BitVec 12) (rows : List (Word × Nat)) :
    Lasts s₀ (State.rowsAsk s who ctx rows).2 := by
  unfold State.rowsAsk
  apply_rules [askHbm, upd, updSec, ite, h]

theorem putRows (h : Lasts s₀ s) (who : Requester) (ctx : BitVec 12) (l : List (Word × Nat)) (b : List Byte) :
    Lasts s₀ (s.putRows who ctx l b).state := by
  induction l generalizing s b with
  | nil => exact h
  | cons x l ih =>
    obtain ⟨va, n⟩ := x
    unfold State.putRows
    split
    · exact h
    · split
      · next e => exact ih (of_ok (h.putRange _ _ _ _ _) e) _
      · exact h.putRange _ _ _ _ _

theorem getRows (h : Lasts s₀ s) (who : Requester) (ctx : BitVec 12) (need : Rights) (l : List (Word × Nat))
    (b : List Byte) : Lasts s₀ (s.getRows who ctx need l b).1.state := by
  induction l generalizing s b with
  | nil => exact h
  | cons x l ih =>
    obtain ⟨va, n⟩ := x
    unfold State.getRows
    split
    · exact h
    · split
      · exact h
      · split
        · exact ih h _
        · exact ih (draw (foldl h (fun _ _ h => h.sendRequest _ _ _ _ _ _ _ _ _) _)) _

theorem xferStop (h : Lasts s₀ s) (e : Nat) (err : RespErr) :
    Lasts s₀ (State.xferStop s e err) := by
  unfold State.xferStop
  dsimp only
  repeat' split
  all_goals apply_rules [report, forget, complete, upd, updSec, ite, h]

theorem of_execXferStop (h : Lasts s₀ s) (e : BitVec 4) (err : RespErr) :
    OutLasts s₀ (execXferStop e err s) := by
  unfold execXferStop
  apply_rules [xferStop, OutLasts.next, h]

theorem endOrWait (h : Lasts s₀ s) (who : Requester) (ctx : BitVec 12) (c : Cmd) (value : Word) :
    Lasts s₀ (State.endOrWait s who ctx c value) := by
  unfold State.endOrWait
  split <;> apply_rules [modCmd, ok, upd, updSec, ite, h]

theorem of_execWriteInline (h : Lasts s₀ s) (ctx : BitVec 12) (seq : BitVec 32) :
    OutLasts s₀ (execWriteInline ctx seq s) := by
  refine .next (h.act _ _ _ fun c => ite (of_whenLet (h.rowsAsk _ _ _) fun u hu => ?_) h)
  split
  · next e => exact (of_ok (hu.putRows _ _ _ _) e).endOrWait _ _ _ _
  · next e => exact (of_err (hu.putRows _ _ _ _) e).failCmd _ _ _

theorem of_execAtomic (h : Lasts s₀ s) (ctx : BitVec 12)
    (seq : BitVec 32) : OutLasts s₀ (execAtomic ctx seq s) := by
  refine .next (h.act _ _ _ fun c => ?_)
  dsimp only
  split
  · exact h.failCmd _ _ _
  · split
    · refine of_whenLet (h.askOne _ _ _ _) fun u hu => ?_
      split
      · next e => exact (hu.operAt e).ok _ _ _ _
      · exact hu.failCmd _ _ _
      · exact hu.failCmd _ _ _
    · split
      · exact h.failCmd _ _ _
      · exact (h.sendRequest _ _ _ _ _ _ _ _ _).endOrWait _ _ _ _

theorem of_execCopyD2hStart (h : Lasts s₀ s) (ctx : BitVec 12) (seq : BitVec 32) :
    OutLasts s₀ (execCopyD2hStart ctx seq s) := .next (h.act _ _ _ fun _ => ite (h.modCmd _ _ _) h)

theorem of_execCopyEngineGrant (h : Lasts s₀ s) :
    OutLasts s₀ (execCopyEngineGrant s) := by
  unfold execCopyEngineGrant
  split <;> apply_rules [modCmd, setEngine, OutLasts.next, upd, updSec, h]

theorem of_execCopyH2d (h : Lasts s₀ s) (ctx : BitVec 12) (seq : BitVec 32) :
    OutLasts s₀ (execCopyH2d ctx seq s) := by
  unfold execCopyH2d
  split <;> apply_rules [send, modCmd, OutLasts.next, upd, updSec, h]

theorem h2dEnd (h : Lasts s₀ s) (e : Nat) (ctx : BitVec 12) (c : Cmd) :
    Lasts s₀ (State.h2dEnd s e ctx c) := by
  unfold State.h2dEnd
  split <;> apply_rules [modHctx, ok, upd, updSec, ite, h]

theorem of_execHostReadCompletion (h : Lasts s₀ s) (e : BitVec 4) (res : HostReadRes) :
    OutLasts s₀ (execHostReadCompletion e res s) := by
  unfold execHostReadCompletion
  dsimp only
  split
  · exact .next h
  · split
    · split
      · exact .next (h.xferStop _ _)
      · split
        · exact .next h
        · split
          · exact .fault
          · refine .next (of_whenLet (h.rowsAsk _ _ _) fun u hu => ?_)
            split
            · next e => exact (of_err (hu.putRows _ _ _ _) e).xferStop _ _
            · next e => exact (((of_ok (hu.putRows _ _ _ _) e).setEngine _ _).modCmd _ _ _).h2dEnd _ _ _
    · exact .next h

theorem of_execCopyD2h (h : Lasts s₀ s) (ctx : BitVec 12)
    (seq : BitVec 32) : OutLasts s₀ (execCopyD2h ctx seq s) := by
  refine .next ?_
  split
  · exact h
  · split
    · exact h
    · refine of_whenLet (h.rowsAsk _ _ _) fun u hu => ?_
      split
      · next e => exact (of_err (hu.getRows _ _ _ _ _) (congrArg Prod.fst e)).xferStop _ _
      · next e =>
        have ht := of_ok (hu.getRows _ _ _ _ _) (congrArg Prod.fst e)
        exact (((ht.draw.send _).send _).setEngine _ _).modCmd _ _ _

theorem of_execFlushReadDone (h : Lasts s₀ s) (e : BitVec 4) :
    OutLasts s₀ (execFlushReadDone e s) := by
  unfold execFlushReadDone
  dsimp only
  repeat' split
  all_goals apply_rules [modHctx, ok, OutLasts.next, OutLasts.ite, upd, updSec, ite, h]

theorem of_execIntakeSlotWrite (h : Lasts s₀ s) (src : Src) (ctx : BitVec 12) (off : BitVec 12) (data : List Byte) :
    OutLasts s₀ (execIntakeSlotWrite src ctx off data s) := by
  unfold execIntakeSlotWrite
  grind only [← deny, ← OutLasts.next, ← upd, ← updSec]

theorem windowReport (h : Lasts s₀ s) (pa : Nat) (status : Option Nat) :
    Lasts s₀ (State.windowReport s pa status) := by
  unfold State.windowReport
  apply_rules [report, upd, updSec, h]

theorem windowAsk (h : Lasts s₀ s) (pa : Nat) (n : Nat) :
    Lasts s₀ (State.windowAsk s pa n).2 := by
  unfold State.windowAsk
  apply_rules [askHbm, ite, h]

theorem of_execBar2WindowAccess (h : Lasts s₀ s) (src : Src) (off : Word) (access : WinAccess) :
    OutLasts s₀ (execBar2WindowAccess src off access s) := by
  unfold execBar2WindowAccess
  dsimp only
  split
  · exact .next h
  · split
    · split
      · exact .next h
      · split
        · split
          · exact .next (of_whenLet (h.windowAsk _ _) fun u hu => hu.send _)
          · split
            · exact .fault
            · exact .next (send (foldl h (fun _ _ h => h.sendRequest _ _ _ _ _ _ _ _ _) _) _)
        · exact .next ((h.windowReport _ _).send _)
    · split
      · exact .next h
      · split
        · refine .next (of_whenLet (h.windowAsk _ _) fun u hu => ?_)
          split
          · next e => exact of_ok (hu.putRange _ _ _ _ _) e
          · next e => exact (of_err (hu.putRange _ _ _ _ _) e).windowReport _ _
        · exact .next (h.windowReport _ _)

/-! ### Items -/

theorem handleItem (h : Lasts s₀ s) (l : Fin 12) (kind : Nat) {f : Item → State → State}
    (hf : ∀ i u, Lasts s₀ u → Lasts s₀ (f i u)) : Lasts s₀ (s.handleItem l kind f) := by
  unfold State.handleItem
  split
  · exact h
  · next e => exact ite (hf _ _ (h.takeRx e)) ((h.takeRx e).forward _)

theorem handleAsk (h : Lasts s₀ s) (l : Fin 12) (kind w : Nat) {f : Item → State → State}
    (hf : ∀ i u, Lasts s₀ u → Lasts s₀ (f i u)) : Lasts s₀ (s.handleAsk l kind w f) := by
  unfold State.handleAsk
  split
  · exact h
  · refine of_whenLet ?_ fun u hu => hu.handleItem _ _ hf
    split
    · exact h.askOne _ _ _ _
    · exact h

theorem serveRead (h : Lasts s₀ s) (i : Item) :
    Lasts s₀ (State.serveRead s i) := by
  unfold State.serveRead
  apply_rules [sendItem, ite, h]

theorem of_execReadRequest (h : Lasts s₀ s) (l : Fin 12) : OutLasts s₀ (execReadRequest l s) :=
  .next (h.handleAsk _ _ _ fun _ _ hu => hu.serveRead _)

theorem serveWrite (h : Lasts s₀ s) (i : Item) : Lasts s₀ (s.serveWrite i) := by
  unfold State.serveWrite
  dsimp only
  split
  · next e => exact (h.maskWrite e).sendItem _
  · exact h.sendItem _
  · exact h.sendItem _

theorem of_execWrite (h : Lasts s₀ s) (l : Fin 12) : OutLasts s₀ (execWrite l s) :=
  .next (h.handleAsk _ _ _ fun _ _ hu => hu.serveWrite _)

theorem serveAtomic (h : Lasts s₀ s) (i : Item) : Lasts s₀ (s.serveAtomic i) := by
  unfold State.serveAtomic
  split
  · next e => exact (h.operAt e).sendItem _
  · exact h.sendItem _
  · exact h.sendItem _

theorem of_execAtomicItem (h : Lasts s₀ s) (l : Fin 12) : OutLasts s₀ (execAtomicItem l s) :=
  .next (h.handleAsk _ _ _ fun _ _ hu => hu.serveAtomic _)

theorem closeTag (h : Lasts s₀ s) (i : Item) :
    Lasts s₀ (State.closeTag s i).2 := by
  unfold State.closeTag
  split <;> apply_rules [upd, updSec, h]

theorem intakeDone (h : Lasts s₀ s) (ctx : BitVec 12) (seq : BitVec 32) (value : Word) :
    Lasts s₀ (State.intakeDone s ctx seq value) := by
  unfold State.intakeDone
  repeat' split
  all_goals apply_rules [complete, upd, updSec, ite, h]

theorem intakeFail (h : Lasts s₀ s) (ctx : BitVec 12) (seq : BitVec 32) (code : Nat) :
    Lasts s₀ (State.intakeFail s ctx seq code) := by
  unfold State.intakeFail
  repeat' split
  all_goals apply_rules [failCmd, upd, updSec, ite, h]

theorem answered (h : Lasts s₀ s) (i : Item) (value : Word) :
    Lasts s₀ (State.answered s i value) := by
  unfold State.answered
  grind only [← h2dEnd, closeTag, ← intakeDone]

theorem of_execReadResponse (h : Lasts s₀ s) (l : Fin 12) : OutLasts s₀ (execReadResponse l s) :=
  .next (h.handleItem _ _ fun _ _ hu => hu.answered _ _)

theorem of_execWriteAcknowledgement (h : Lasts s₀ s) (l : Fin 12) : OutLasts s₀ (execWriteAcknowledgement l s) :=
  .next (h.handleItem _ _ fun _ _ hu => hu.answered _ _)

theorem of_execAtomicResponse (h : Lasts s₀ s) (l : Fin 12) : OutLasts s₀ (execAtomicResponse l s) :=
  .next (h.handleItem _ _ fun _ _ hu => hu.answered _ _)

theorem carrelError (h : Lasts s₀ s) (c : BitVec 12) (code : Nat) (blk : Nat) :
    Lasts s₀ (State.carrelError s c code blk) := by
  unfold State.carrelError
  grind only [← entryLost, ← elemLost, ← unmappedLoad, ← stopCarrel]

theorem of_execErrorResponse (h : Lasts s₀ s) (l : Fin 12) : OutLasts s₀ (execErrorResponse l s) := by
  refine .next (h.handleItem _ _ fun i u hu => ?_)
  grind only [← closeTag, ← carrelError, ← intakeFail, ← stopConsumer]

/-! ### Loader -/

theorem putPlan (h : Lasts s₀ s) (i : Nat) (p : Plan) :
    Lasts s₀ (State.putPlan s i p) := by
  unfold State.putPlan
  apply_rules [upd, updSec, h]

theorem freeLoading (h : Lasts s₀ s) (reason : Nat) :
    Lasts s₀ (State.freeLoading s reason) := by
  unfold State.freeLoading
  split <;> apply_rules [putPlan, upd, updSec, h]

theorem loadBegin (h : Lasts s₀ s) (ctx : BitVec 12) (c : Cmd) :
    Lasts s₀ (State.loadBegin s ctx c) := by
  unfold State.loadBegin
  split <;> apply_rules [modCmd, putPlan, upd, updSec, ite, h]

theorem of_execLinkSleep (h : Lasts s₀ s) (l : Fin 12) :
    OutLasts s₀ (execLinkSleep l s) := by
  unfold execLinkSleep
  split <;> apply_rules [modLink, OutLasts.next, OutLasts.ite, upd, updSec, ite, h]

theorem loadWrites (h : Lasts s₀ s) (ctx : BitVec 12) (seq : BitVec 32) (l : List (Word × List Byte)) :
    Lasts s₀ (s.loadWrites ctx seq l).state := by
  induction l generalizing s with
  | nil => exact h
  | cons x l ih =>
    obtain ⟨va, d⟩ := x
    unfold State.loadWrites
    split
    · next e => exact ih (of_ok (h.putRows _ _ _ _) e)
    · exact h.putRows _ _ _ _

theorem zeroRngs (h : Lasts s₀ s) (l : List Rng) :
    Lasts s₀ (State.zeroRngs s l) := by
  unfold State.zeroRngs
  refine foldl h (fun s a h => ?_) _
  apply_rules [setBytes, h]

theorem newTags (h : Lasts s₀ s) (ctx : BitVec 12) (t : Training) :
    Lasts s₀ (State.newTags s ctx t) := by
  unfold State.newTags
  refine foldl h (fun s a h => ?_) _
  repeat' split
  all_goals apply_rules [modGauge, upd, updSec, ite, h]

theorem takeCarrel (h : Lasts s₀ s) (slot : Nat) (ctx : BitVec 12) (c : Nat) :
    Lasts s₀ (State.takeCarrel s slot ctx c) := by
  unfold State.takeCarrel
  apply_rules [modCarrel, fillCaches, upd, updSec, h]

theorem accept (h : Lasts s₀ s) (ctx : BitVec 12) (c : Cmd) (slot : Nat) (p : Plan) (x : PlanImage) :
    Lasts s₀ (State.accept s ctx c slot p x) := by
  unfold State.accept
  grind only [← setBytes, ← ok, ← putPlan, ← zeroRngs, ← newTags, ← takeCarrel, ← foldl]

theorem loadStop (h : Lasts s₀ s) (ctx : BitVec 12) (c : Cmd) (err : RespErr) :
    Lasts s₀ (State.loadStop s ctx c err) := by
  unfold State.loadStop
  dsimp only
  repeat' split
  all_goals apply_rules [report, forget, failCmd, freeLoading, upd, updSec, ite, h]

theorem readImage (h : Lasts s₀ s) (ctx : BitVec 12) (c : Cmd) : Lasts s₀ (s.readImage ctx c).1.state := by
  unfold State.readImage
  dsimp only
  split
  · next e => exact of_err (h.getRows _ _ _ _ _) (congrArg Prod.fst e)
  · next e =>
    have ht := of_ok (h.getRows _ _ _ _ _) (congrArg Prod.fst e)
    split
    · exact ht.getRows _ _ _ _ _
    · exact ht

theorem load (h : Lasts s₀ s) (ctx : BitVec 12) (c : Cmd) : Lasts s₀ (s.load ctx c) := by
  refine of_whenLet (h.rowsAsk _ _ _) fun u hu => ?_
  split
  · next e => exact (of_err (hu.readImage _ _) (congrArg Prod.fst e)).loadStop _ _ _
  · next e =>
    have hr := of_ok (hu.readImage _ _) (congrArg Prod.fst e)
    split
    · exact complete (ite (freeLoading hr _) hr) _ _ _ _ _ _
    · split
      · exact hr
      · dsimp only
        split
        · next e => exact (of_err (hr.loadWrites _ _ _) e).loadStop _ _ _
        · next e => exact (of_ok (hr.loadWrites _ _ _) e).accept _ _ _ _ _

theorem of_execPlanLoad (h : Lasts s₀ s) (ctx : BitVec 12)
    (seq : BitVec 32) : OutLasts s₀ (execPlanLoad ctx seq s) := by
  refine .next (h.act _ _ _ fun c => ?_)
  split
  · exact ite h ((h.loadBegin _ _).load _ _)
  · split
    · exact ite (h.load _ _) h
    · exact h.load _ _

theorem of_execLoadStop (h : Lasts s₀ s) (ctx : BitVec 12) (seq : BitVec 32) (n : Nat) (err : RespErr) :
    OutLasts s₀ (execLoadStop ctx seq n err s) := by
  refine .next (h.act _ _ _ fun c => ?_)
  split
  · exact h
  · split
    · next e => exact (of_err (h.readImage _ _) (congrArg Prod.fst e)).loadStop _ _ _
    · next e =>
      have ht := of_ok (h.readImage _ _) (congrArg Prod.fst e)
      dsimp only
      split
      · exact ht.loadStop _ _ _
      · split
        · exact ht
        · split
          · next e => exact (of_err (ht.loadWrites _ _ _) e).loadStop _ _ _
          · next e => exact ((of_ok (ht.loadWrites _ _ _) e).zeroRngs _).loadStop _ _ _

theorem planCmd (h : Lasts s₀ s) (ctx : BitVec 12) (seq : BitVec 32) (op : Nat) (may : Plan → Bool)
    (f : Plan → Plan) :
    Lasts s₀ (s.planCmd ctx seq op may f) := by
  refine h.act _ _ _ fun c => ?_
  dsimp only
  split
  · exact ite ((h.modPlan _ _).ok _ _ _ _) (h.complete _ _ _ _ _ _)
  · exact h.complete _ _ _ _ _ _

theorem of_execPlanUnload (h : Lasts s₀ s) (ctx : BitVec 12) (seq : BitVec 32) :
    OutLasts s₀ (execPlanUnload ctx seq s) := by
  unfold execPlanUnload
  apply_rules [planCmd, OutLasts.next, upd, updSec, h]

theorem of_execPlanSuspend (h : Lasts s₀ s) (ctx : BitVec 12) (seq : BitVec 32) :
    OutLasts s₀ (execPlanSuspend ctx seq s) := by
  unfold execPlanSuspend
  apply_rules [planCmd, OutLasts.next, upd, updSec, h]

theorem of_execPlanResume (h : Lasts s₀ s) (ctx : BitVec 12) (seq : BitVec 32) :
    OutLasts s₀ (execPlanResume ctx seq s) := by
  unfold execPlanResume
  apply_rules [planCmd, OutLasts.next, upd, updSec, h]

theorem of_execCommandStart (h : Lasts s₀ s) (ctx : BitVec 12) (seq : BitVec 32) :
    OutLasts s₀ (execCommandStart ctx seq s) := by
  unfold execCommandStart
  grind only [← modCmd, ← complete, ← loadBegin, ← OutLasts.next]

/-! ### Reliab -/

theorem orderRedirect (h : Lasts s₀ s) (c : Nat) {u : State} (e : State.orderRedirect s c = some u) :
    Lasts s₀ u := by
  unfold State.orderRedirect at e
  grind only [← upd, ← updSec]

theorem noSpare (h : Lasts s₀ s) (die : Nat) :
    Lasts s₀ (State.noSpare s die) := by
  unfold State.noSpare
  apply_rules [report, upd, updSec, h]

theorem haltSoon (h : Lasts s₀ s) (ctxs : List Nat) (cause : Nat) (num : Nat) :
    Lasts s₀ (State.haltSoon s ctxs cause num) := by
  unfold State.haltSoon
  apply_rules [upd, updSec, h]

theorem carrelFails (h : Lasts s₀ s) (c : BitVec 12) (why : Nat) : Lasts s₀ (s.carrelFails c why) := by
  unfold State.carrelFails
  refine ite ?_ ?_
  · exact (((upd h).stopCarrel c).modCarrel c _).report _
  · split
    · next e => exact upd (((((upd h).stopCarrel c).modCarrel c _).orderRedirect _ e).report _)
    · exact (((((upd h).stopCarrel c).modCarrel c _).report _).noSpare _).haltSoon _ _ _

theorem of_execCarrelFailure (h : Lasts s₀ s) (c : BitVec 12) (why : BitVec 8) :
    OutLasts s₀ (execCarrelFailure c why s) := by
  unfold execCarrelFailure
  grind only [← carrelFails, ← OutLasts.next]

theorem treatHalts (h : Lasts s₀ s) :
    Lasts s₀ (State.treatHalts s) := by
  unfold State.treatHalts
  grind only [← carrelFails, ← foldl, ← upd, ← updSec]

theorem bayFails (h : Lasts s₀ s) (b : Nat) (unit : Nat) :
    Lasts s₀ (State.bayFails s b unit) := by
  unfold State.bayFails
  dsimp only
  repeat' split
  all_goals apply_rules [report, noSpare, haltSoon, upd, updSec, ite, h]

theorem of_execBayunitFail (h : Lasts s₀ s) (bay : BitVec 8) (unit : BitVec 8) :
    OutLasts s₀ (execBayunitFail bay unit s) := by
  unfold execBayunitFail
  apply_rules [bayFails, OutLasts.next, h]

theorem freshCarrel (h : Lasts s₀ s) (c : Nat) : Lasts s₀ (s.freshCarrel c) := by
  have h2 := fun k => ((h.zeroRange (shelfBase c) shelfSize).zeroRange (ledgerBase c) 0x8000).setCarrel
      (BitVec.ofNat 12 c) k
  rw [State.freshCarrel]
  split
  · exact ((h2 _).fillCaches _ _).foldl (fun t o ht => ht.restoreByte _ _ _) _
  · exact h2 _

theorem mapEffect (h : Lasts s₀ s) :
    Lasts s₀ (State.mapEffect s) := by
  unfold State.mapEffect
  grind only [← zeroRange, ← freshCarrel, ← foldl, ← upd, ← updSec]

theorem suspendPlan (h : Lasts s₀ s) (i : Nat) (reason : BitVec 8) (k : Nat) :
    Lasts s₀ (State.suspendPlan s i reason k) := by
  unfold State.suspendPlan
  split <;> apply_rules [modCarrels, raiseCtx, modPlan, upd, updSec, h]

theorem haltCtx (h : Lasts s₀ s) (ctx : Nat) (cause : Nat) (num : Option Nat) :
    Lasts s₀ (State.haltCtx s ctx cause num) := by
  unfold State.haltCtx
  grind only [← report, ← suspendPlan, ← foldl, ← upd, ← updSec]

theorem haltAll (h : Lasts s₀ s) :
    Lasts s₀ (State.haltAll s) := by
  unfold State.haltAll
  grind only [← haltCtx, ← foldl, ← upd, ← updSec]

theorem reloadLost (h : Lasts s₀ s) :
    Lasts s₀ (State.reloadLost s) := by
  unfold State.reloadLost
  grind only [← restoreByte, ← foldl, ← upd, ← updSec]

theorem gapWork (h : Lasts s₀ s) :
    Lasts s₀ (State.gapWork s) := by
  unfold State.gapWork
  apply_rules [report, haltAll, reloadLost, upd, updSec, h]

theorem snapshot (h : Lasts s₀ s) (b : Word) :
    Lasts s₀ (State.snapshot s b) := by
  unfold State.snapshot
  grind only [← modCarrels, ← modStack, ← foldl, ← upd, ← updSec]

theorem census2 (h : Lasts s₀ s) :
    Lasts s₀ (State.census2 s) := by
  unfold State.census2
  grind only [← sendOn, ← announce, ← foldl, ← upd, ← updSec]

/-! ### Tick -/

theorem gaugeDropCtx (h : Lasts s₀ s) (ctx : Nat) (w : Word) :
    Lasts s₀ (State.gaugeDropCtx s ctx w) := by
  unfold State.gaugeDropCtx
  refine foldl h (fun s a h => ?_) _
  apply_rules [modGauge, upd, updSec, h]

theorem noteRan (h : Lasts s₀ s) :
    Lasts s₀ (State.noteRan s) := by
  unfold State.noteRan
  apply_rules [upd, updSec, h]

theorem unnote (h : Lasts s₀ s) (w : Word) (ctxs : Option (List Nat)) :
    Lasts s₀ (State.unnote s w ctxs) := by
  unfold State.unnote
  apply_rules [upd, updSec, h]

theorem confirmCtx (h : Lasts s₀ s) (w : Word) (vals : Nat → SetSum) (c : Nat) (closes : Bool) :
    Lasts s₀ (State.confirmCtx s w vals c closes) := by
  unfold State.confirmCtx
  grind only [← gaugeMerge, ← stepClose, ← upd, ← updSec]

theorem confirm (h : Lasts s₀ s) (w : Word) (bad : List (Nat × BitVec 8)) (vals : Nat → SetSum) :
    Lasts s₀ (State.confirm s w bad vals) := by
  unfold State.confirm
  grind only [← gaugeDropCtx, ← unnote, ← confirmCtx, ← foldl]

theorem suspendCtxs (h : Lasts s₀ s) (bad : List (Nat × BitVec 8)) (at_ : Plan → Nat) :
    Lasts s₀ (State.suspendCtxs s bad at_) := by
  unfold State.suspendCtxs
  refine foldl h (fun s a h => ?_) _
  repeat' split
  all_goals apply_rules [suspendPlan, upd, updSec, ite, h]

theorem commitAll (h : Lasts s₀ s) (bad : List (Nat × BitVec 8)) :
    Lasts s₀ (State.commitAll s bad) := by
  unfold State.commitAll
  refine foldl h (fun s a h => ?_) _
  repeat' split
  all_goals apply_rules [modHctx, upd, updSec, ite, h]

theorem sendVerdict (h : Lasts s₀ s) (x : Status) :
    Lasts s₀ (State.sendVerdict s x) := by
  unfold State.sendVerdict
  grind only [← sendOn, ← foldl, ← upd, ← updSec]

theorem statusReady (h : Lasts s₀ s) :
    Lasts s₀ (State.statusReady s) := by
  unfold State.statusReady
  grind only [← sendOn, ← sendVerdict, ← foldl, ← upd, ← updSec]

theorem takeStatus (h : Lasts s₀ s) {l : Nat} {v : Bool} {x : Status} {t : State}
    (e : s.takeStatus l v = some (x, t)) : Lasts s₀ t := by
  obtain ⟨⟨i, u⟩, hu, e⟩ := Option.map_eq_some_iff.mp e
  cases e
  exact h.takeRx hu

theorem of_execTickStatus (h : Lasts s₀ s) (l : Fin 12) : OutLasts s₀ (execTickStatus l s) := by
  refine .next ?_
  split
  · exact h
  · next e =>
    have ht := h.takeStatus e
    exact ite (statusReady (upd ht)) ht

theorem of_execVerdict (h : Lasts s₀ s) (l : Fin 12) : OutLasts s₀ (execVerdict l s) := by
  refine .next ?_
  split
  · exact h
  · next e => exact ite ((h.takeStatus e).sendVerdict _) (h.takeStatus e)

theorem of_execVerdictDeadline (h : Lasts s₀ s) :
    OutLasts s₀ (execVerdictDeadline s) := by
  unfold execVerdictDeadline
  repeat' split
  all_goals apply_rules [sendVerdict, OutLasts.next, OutLasts.ite, upd, updSec, ite, h]

theorem swapBack (h : Lasts s₀ s) :
    Lasts s₀ (State.swapBack s) := by
  unfold State.swapBack
  split <;> apply_rules [upd, updSec, ite, h]

theorem recover (h : Lasts s₀ s) (ws : List Word) :
    Lasts s₀ (State.recover s ws) := by
  unfold State.recover
  grind only [← gaugeDrop, ← unnote, ← foldl, ← upd, ← updSec]

theorem endAlone (h : Lasts s₀ s) :
    Lasts s₀ (State.endAlone s).1 := by
  unfold State.endAlone
  grind only [← report, ← noteRan, ← confirm, ← suspendCtxs, ← commitAll, ← recover, ← foldl, ← upd, ← updSec]

theorem endChain (h : Lasts s₀ s) : Lasts s₀ s.endChain.1 := by
  have hc (u : State) (bad : List (Nat × BitVec 8)) (hu : Lasts s₀ u) := (hu.commitAll bad).noteRan
  unfold State.endChain
  split
  · exact upd (hc _ _ h)
  · split
    · refine upd (foldl (foldl h (fun t x ht => ite (ht.suspendPlan _ _ _) ht) _)
        (fun t x ht => (ht.gaugeDrop _).unnote _ _) _)
    · refine ite_fst (upd (h.recover _)) ?_
      refine foldl (suspendCtxs (unnote (upd (hc _ _ (foldl (upd (h.confirm _ _ _))
          (fun t x ht => ht.gaugeDropCtx _ _) _))) _ _) _ _) (fun t r ht => ht.report _) _

theorem releasePlan (h : Lasts s₀ s) (i : Nat) (p : Plan) :
    Lasts s₀ (State.releasePlan s i p) := by
  unfold State.releasePlan
  grind only [← modCarrels, ← zeroRange, ← putPlan, ← foldl]

theorem unloads (h : Lasts s₀ s) :
    Lasts s₀ (State.unloads s) := by
  unfold State.unloads
  grind only [← releasePlan, ← foldl, ← upd, ← updSec]

theorem suspends (h : Lasts s₀ s) (changed : Bool) :
    Lasts s₀ (State.suspends s changed) := by
  unfold State.suspends
  grind only [← modPlan, ← suspendPlan, ← foldl, ← upd, ← updSec]

theorem starts (h : Lasts s₀ s) :
    Lasts s₀ (State.starts s) := by
  unfold State.starts
  apply_rules [upd, updSec, ite, h]

theorem takeCmds (h : Lasts s₀ s) (ctx n : Nat) : Lasts s₀ (s.takeCmds ctx n).1 := by
  induction n generalizing s with
  | zero => exact h
  | succ n ih =>
    unfold State.takeCmds
    dsimp only
    split
    · exact ih (upd (h.modHctx _ _))
    · exact h

theorem badSeals (h : Lasts s₀ s) (ctx : Nat) :
    Lasts s₀ (State.badSeals s ctx) := by
  unfold State.badSeals
  dsimp only
  repeat' split
  all_goals apply_rules [modHctx, ok, upd, updSec, ite, h]

/-- Carrels' words taken in, each from the count that the ones before it left. -/
theorem intake_foldl (h : Lasts s₀ s) (l : List Nat) (n : Nat) (f : State × Nat → Nat → State × Nat) (hf : ∀ q i,
    Lasts s₀ q.1 → Lasts s₀ (f q i).1) : Lasts s₀ (l.foldl f (s, n)).1 :=
  List.foldlRecOn l f (motive := fun q => Lasts s₀ q.1) h fun q hq i _ => hf q i hq

theorem intake (h : Lasts s₀ s) : Lasts s₀ s.intake := by
  rw [State.intake]
  refine intake_foldl h _ _ _ fun q i hq => ?_
  grind only [← takeCmds, ← badSeals]

theorem funcBoundary (h : Lasts s₀ s) :
    Lasts s₀ (State.funcBoundary s) := by
  unfold State.funcBoundary
  refine foldl h (fun s a h => ?_) _
  repeat' split
  all_goals apply_rules [startDone, stopDone, upd, updSec, ite, h]

theorem coolStack (h : Lasts s₀ s) (i : Nat) :
    Lasts s₀ (State.coolStack s i) := by
  unfold State.coolStack
  apply_rules [modStack, upd, updSec, ite, h]

theorem openIntake (h : Lasts s₀ s) : Lasts s₀ s.openIntake := by
  unfold State.openIntake
  exact (foldl (upd h).mapEffect.funcBoundary (fun t i ht => ht.modStack _ _) _).starts.attCaptures.intake

theorem applyTrims (h : Lasts s₀ s) :
    Lasts s₀ (State.applyTrims s) := by
  unfold State.applyTrims
  apply_rules [upd, updSec, h]

theorem atBoundary (h : Lasts s₀ s) : Lasts s₀ s.atBoundary := upd h.treatHalts.swapBack

theorem endTick (h : Lasts s₀ s) : Lasts s₀ s.endTick.1 := ite_fst (upd h) (ite_fst (endChain h) (endAlone h))

theorem nextNo (h : Lasts s₀ s) (w : Word) : Lasts s₀ (s.nextNo w) := upd h

theorem takeLength (h : Lasts s₀ s) : Lasts s₀ s.takeLength := by
  unfold State.takeLength
  split
  · exact ite (upd h) h
  · exact h

theorem freshTick (h : Lasts s₀ s) : Lasts s₀ s.freshTick := upd h

theorem crossBoundary (h : Lasts s₀ s) (changed : Bool)
    (env : TickEnv) : Lasts s₀ (s.crossBoundary changed env) := by
  have h1 := (h.unloads.suspends changed).freshTick
  have h2 : Lasts s₀ (if (s.unloads.suspends changed).freshTick.census.due.contains (s.unloads.suspends
      changed).freshTick.tick.no then
    (s.unloads.suspends changed).freshTick.snapshot (s.unloads.suspends changed).freshTick.tick.no else
    (s.unloads.suspends changed).freshTick) := ite (h1.snapshot _) h1
  have h3 := h2.applyTrims.haltAll.census2.sendMarks
  unfold State.crossBoundary
  exact foldl (foldl (foldl (ite h3.statusReady h3) (fun t l ht => ht.flushTx l) _)
      (fun t i ht => ht.coolStack _) _) (fun t z ht => ht.coolZone _) _

theorem beginTick (h : Lasts s₀ s) (gap : Bool) : Lasts s₀ (s.beginTick gap) := by
  unfold State.beginTick
  refine ite (ite (upd h) (gapWork (upd h))) (openIntake (ite (upd h) (foldl (upd h)
      (fun t c ht => ht.stepApply _ _) _)))

theorem boundary (h : Lasts s₀ s) (env : TickEnv) : Lasts s₀ (s.boundary env) := by
  rw [boundary_eq]
  exact ((h.atBoundary.endTick.nextNo _).takeLength.crossBoundary _ _).beginTick _

theorem of_execTickBoundary (h : Lasts s₀ s) (env : TickEnv) :
    OutLasts s₀ (execTickBoundary env s) := by
  unfold execTickBoundary
  split <;> apply_rules [boundary, OutLasts.next, OutLasts.ite, ite, h]

theorem of_execGapEnd (h : Lasts s₀ s) :
    OutLasts s₀ (execGapEnd s) := by
  unfold execGapEnd
  grind only [← openIntake, ← OutLasts.next, ← upd, ← updSec]

theorem beginPlan (h : Lasts s₀ s) (i : Nat) : Lasts s₀ (s.beginPlan i) := by
  unfold State.beginPlan
  split
  · exact h
  · refine ite h ?_
    refine foldl (foldl ?_ (fun t c ht => ht.modCarrel _ _) _) (fun t r ht => ht.queueCopy r) _
    refine ite (foldl ((h.modPlan _ _).modHctx _ _) (fun t r ht => ?_) _) (h.modPlan _ _)
    grind only [← snapRestore, ← clearLost]

theorem of_execWorkWindowStart (h : Lasts s₀ s) :
    OutLasts s₀ (execWorkWindowStart s) := by
  unfold execWorkWindowStart
  grind only [← intake, ← beginPlan, ← OutLasts.next, ← foldl, ← upd, ← updSec]

theorem engineFault (h : Lasts s₀ s) (e : EngineId) :
    Lasts s₀ (State.engineFault s e) := by
  unfold State.engineFault
  grind only [← carrelFails, ← bayFails]

theorem lateCheck (h : Lasts s₀ s) (i : Nat) (p : Plan) :
    Lasts s₀ (State.lateCheck s i p) := by
  unfold State.lateCheck
  grind only [← modCarrel, ← report, ← drainAll, ← modPlan, ← settleBar, ← vecIssued, ← foldl]

theorem of_execGuardStart (h : Lasts s₀ s) (stuck : List EngineId) :
    OutLasts s₀ (execGuardStart stuck s) := by
  unfold execGuardStart
  grind only [← treatHalts, ← engineFault, ← lateCheck, ← OutLasts.next, ← foldl, ← upd, ← updSec]

/-! ### Dict -/

theorem setSel (h : Lasts s₀ s) (src : DictSrc) (idx : Nat) (sub : Nat) (v : List Byte) :
    Lasts s₀ (State.setSel s src idx sub v) := by
  unfold State.setSel
  apply_rules [upd, updSec, h]

theorem peekAsk (h : Lasts s₀ s) (src : DictSrc) :
    Lasts s₀ (State.peekAsk s src).2 := by
  unfold State.peekAsk
  dsimp only
  repeat' split
  all_goals apply_rules [askHbm, ite, h]

theorem endTransfer (h : Lasts s₀ s) (src : DictSrc) (idx : Nat) (sub : Nat) :
    Lasts s₀ (State.endTransfer s src idx sub) := by
  unfold State.endTransfer
  apply_rules [upd, updSec, h]

theorem setTransfer (h : Lasts s₀ s) (src : DictSrc) (idx : Nat) (sub : Nat) (write : Bool) (b : List Byte) :
    Lasts s₀ (State.setTransfer s src idx sub write b) := by
  unfold State.setTransfer
  apply_rules [endTransfer, upd, updSec, h]

theorem dictGet (h : Lasts s₀ s) (src : DictSrc) (idx : Nat) (sub : Nat) (off : Nat) (len : Nat) :
    Lasts s₀ (State.dictGet s src idx sub off len) := by
  unfold State.dictGet
  grind only [← draw, ← of_whenLet, ← dictEnd, ← dictAbort, ← peekAsk, ← endTransfer, ← setTransfer, ← upd,
      ← updSec]

theorem flashSet (h : Lasts s₀ s) (b : Bool) (l : List Byte) (status : BitVec 16) :
    Lasts s₀ (s.flashSet b l status) := (h.setImage _ _).setSec (by cases b <;> rfl)

theorem programPart (h : Lasts s₀ s) (src : DictSrc) (sub : Nat) (off : Nat) (v : List Byte) :
    Lasts s₀ (State.programPart s src sub off v).2 := by
  unfold State.programPart
  grind only [← setTransfer, ← flashSet]

theorem programControl (h : Lasts s₀ s) (sub : Nat) (v : Nat) :
    Lasts s₀ (State.programControl s sub v).2 := by
  unfold State.programControl
  dsimp only
  repeat' split
  all_goals apply_rules [noteWrite, flashSet, upd, updSec, ite, h]

theorem storeAll (h : Lasts s₀ s) :
    Lasts s₀ (State.storeAll s) := by
  unfold State.storeAll
  apply_rules [upd, updSec, h]

theorem tpdoWrite (h : Lasts s₀ s) (idx : Nat) (sub : Nat) (v : List Byte) :
    Lasts s₀ (State.tpdoWrite s idx sub v).2 := by
  unfold State.tpdoWrite
  dsimp only
  repeat' split
  all_goals apply_rules [noteWrite, ok, ite, h]

theorem dictPut (h : Lasts s₀ s) (src : DictSrc) (idx sub : Nat)
    (v : List Byte) : Lasts s₀ (s.dictPut src idx sub v).2 := by
  have hn := h.noteWrite idx sub v
  have hb := fun x => h.setBox (idx - 0x4820) x
  unfold State.dictPut
  refine ite_snd (ite_snd hn.storeAll h) (ite_snd (ite_snd (upd hn) h) (ite_snd hn (ite_snd (h.tpdoWrite _ _ _)
      (ite_snd (h.programPart _ _ _ _) (ite_snd (h.programControl _ _) (ite_snd (upd h) (ite_snd ?_
    (ite_snd (ite_snd h (h.setSel _ _ _ _)) (ite_snd (ite_snd (upd hn) h) (ite_snd ?_ (ite_snd ?_
    (ite_snd (ite_snd (upd h) h) (ite_snd (h.arbPut _) ?_)))))))))))))
  · grind only [← setSel]
  · grind only [← modPower]
  · split
    · exact h
    · exact ite_snd h (ite_snd h (h.funcWrite _ _))
  · split
    · exact hb _
    · exact hb _
    · exact hb _
    · exact ite_snd (h.attRequest _) (hb _)

theorem dictSet (h : Lasts s₀ s) (src : DictSrc) (idx : Nat) (sub : Nat) (off : Nat) (v : List Byte) :
    Lasts s₀ (State.dictSet s src idx sub off v) := by
  unfold State.dictSet
  grind only [← dictAbort, ← endPut, ← programPart, ← dictPut, ← upd, ← updSec]

theorem of_execDictRead (h : Lasts s₀ s) (f : BitVec 6) :
    OutLasts s₀ (execDictRead f s) := by
  unfold execDictRead
  grind only [← modWin, ← dictGet, ← OutLasts.next]

theorem of_execDictWrite (h : Lasts s₀ s) (f : BitVec 6) :
    OutLasts s₀ (execDictWrite f s) := by
  unfold execDictWrite
  dsimp only
  repeat' split
  all_goals apply_rules [modWin, dictAbort, dictSet, OutLasts.next, OutLasts.ite, upd, updSec, ite, h]

theorem of_execDictTransferTimeout (h : Lasts s₀ s) (src : DictSrc) :
    OutLasts s₀ (execDictTransferTimeout src s) := by
  unfold execDictTransferTimeout
  grind only [← flashSet, ← OutLasts.next, ← foldl, ← upd, ← updSec]

theorem windowWrite (h : Lasts s₀ s) (f : Nat) (o : Nat) (data : List Byte) :
    Lasts s₀ (State.windowWrite s f o data) := by
  unfold State.windowWrite
  apply_rules [modWin, upd, updSec, ite, h]

theorem of_execRegisterWrite (h : Lasts s₀ s) (src : Src) (block : BitVec 7) (off : BitVec 16) (data : List Byte) :
    OutLasts s₀ (execRegisterWrite src block off data s) := by
  unfold execRegisterWrite
  repeat' split
  all_goals apply_rules [regAccess, windowWrite, OutLasts.next, OutLasts.ite, upd, updSec, ite, h]

theorem of_execStoreAll (h : Lasts s₀ s) (src : DictSrc) (v : BitVec 32) :
    OutLasts s₀ (execStoreAll src v s) := by
  unfold execStoreAll
  apply_rules [dictSet, OutLasts.next, h]

theorem of_execRestoreAll (h : Lasts s₀ s) (src : DictSrc) (v : BitVec 32) :
    OutLasts s₀ (execRestoreAll src v s) := by
  unfold execRestoreAll
  apply_rules [dictSet, OutLasts.next, h]

theorem of_execCalibrationTrimWrite (h : Lasts s₀ s) (src : DictSrc) (idx : BitVec 16) (sub : BitVec 8) (v : Word) :
    OutLasts s₀ (execCalibrationTrimWrite src idx sub v s) := by
  unfold execCalibrationTrimWrite
  repeat' split
  all_goals apply_rules [dictAbort, dictSet, OutLasts.next, OutLasts.ite, ite, h]

theorem of_execProgramClear (h : Lasts s₀ s) (src : DictSrc) (sub : BitVec 8) :
    OutLasts s₀ (execProgramClear src sub s) := by
  unfold execProgramClear
  apply_rules [dictSet, OutLasts.next, h]

theorem of_execProgramEnd (h : Lasts s₀ s) (src : DictSrc) (sub : BitVec 8) :
    OutLasts s₀ (execProgramEnd src sub s) := by
  unfold execProgramEnd
  apply_rules [dictSet, OutLasts.next, h]

theorem of_execClearStanding (h : Lasts s₀ s) (src : DictSrc) (v : BitVec 8) :
    OutLasts s₀ (execClearStanding src v s) := by
  unfold execClearStanding
  apply_rules [dictSet, OutLasts.next, h]

theorem of_execPeekData (h : Lasts s₀ s) (src : DictSrc) (off : Nat) (len : Nat) :
    OutLasts s₀ (execPeekData src off len s) := by
  unfold execPeekData
  apply_rules [dictGet, OutLasts.next, h]

theorem of_execDescSelect (h : Lasts s₀ s) (src : DictSrc) (v : BitVec 32) :
    OutLasts s₀ (execDescSelect src v s) := by
  unfold execDescSelect
  apply_rules [dictSet, OutLasts.next, h]

/-! ### Bar0 -/

theorem of_execReadbackRead (h : Lasts s₀ s) (src : Src) (block : BitVec 12) (off : BitVec 16) (len : Nat) :
    OutLasts s₀ (execReadbackRead src block off len s) := by
  unfold execReadbackRead
  dsimp only
  repeat' split
  all_goals apply_rules [draw, send, deny, OutLasts.next, OutLasts.ite, upd, updSec, ite, h]

/-! ### Manage -/

theorem setNmt (h : Lasts s₀ s) (n : BitVec 2) :
    Lasts s₀ (State.setNmt s n) := by
  unfold State.setNmt
  apply_rules [upd, updSec, h]

theorem sendBeat (h : Lasts s₀ s) (code : Byte) :
    Lasts s₀ (State.sendBeat s code) := by
  unfold State.sendBeat
  split <;> apply_rules [send, ite, h]

theorem bootUp (h : Lasts s₀ s) :
    Lasts s₀ (State.bootUp s) := by
  unfold State.bootUp
  grind only [← setNmt, ← sendBeat]

theorem of_execNmtStart (h : Lasts s₀ s) :
    OutLasts s₀ (execNmtStart s) := by
  unfold execNmtStart
  split <;> apply_rules [setNmt, OutLasts.next, OutLasts.ite, ite, h]

theorem of_execNmtStop (h : Lasts s₀ s) :
    OutLasts s₀ (execNmtStop s) := by
  unfold execNmtStop
  split <;> apply_rules [setNmt, OutLasts.next, OutLasts.ite, ite, h]

theorem of_execNmtPreOperational (h : Lasts s₀ s) :
    OutLasts s₀ (execNmtPreOperational s) := by
  unfold execNmtPreOperational
  split <;> apply_rules [setNmt, OutLasts.next, OutLasts.ite, ite, h]

theorem loadComm (h : Lasts s₀ s) :
    Lasts s₀ (State.loadComm s) := by
  unfold State.loadComm
  apply_rules [upd, updSec, h]

theorem of_execResetCommunication (h : Lasts s₀ s) :
    OutLasts s₀ (execResetCommunication s) := by
  unfold execResetCommunication
  split <;> apply_rules [bootUp, loadComm, OutLasts.next, OutLasts.ite, ite, h]

theorem loadTrims (h : Lasts s₀ s) :
    Lasts s₀ (State.loadTrims s) := by
  unfold State.loadTrims
  apply_rules [upd, updSec, h]

theorem of_execResetApplication (h : Lasts s₀ s) :
    OutLasts s₀ (execResetApplication s) := by
  unfold execResetApplication
  split <;> apply_rules [bootUp, loadComm, loadTrims, OutLasts.next, OutLasts.ite, ite, h]

theorem of_execHeartbeat (h : Lasts s₀ s) :
    OutLasts s₀ (execHeartbeat s) := by
  unfold execHeartbeat
  split <;> apply_rules [sendBeat, OutLasts.next, OutLasts.ite, ite, h]

theorem tpdoSend (h : Lasts s₀ s) (v : State) (k : Nat) (type : Nat) :
    Lasts s₀ (State.tpdoSend s v k type) := by
  unfold State.tpdoSend
  dsimp only
  repeat' split
  all_goals apply_rules [send, upd, updSec, ite, h]

theorem of_execTpdoEventTimer (h : Lasts s₀ s) (n : BitVec 3) :
    OutLasts s₀ (execTpdoEventTimer n s) := by
  unfold execTpdoEventTimer
  split <;> apply_rules [tpdoSend, OutLasts.next, OutLasts.ite, ite, h]

theorem of_execCensusCopyDone (h : Lasts s₀ s) :
    OutLasts s₀ (execCensusCopyDone s) := by
  unfold execCensusCopyDone
  grind only [← tpdoSend, ← OutLasts.next, ← foldl, ← upd, ← updSec]

theorem setUsdo (h : Lasts s₀ s) (u : Option Usdo) :
    Lasts s₀ (State.setUsdo s u) := by
  unfold State.setUsdo
  apply_rules [upd, updSec, h]

theorem of_execUsdoDownload (h : Lasts s₀ s) (idx : BitVec 16) (sub : BitVec 8) (size : Nat) (data : List Byte) :
    OutLasts s₀ (execUsdoDownload idx sub size data s) := by
  unfold execUsdoDownload
  dsimp only
  repeat' split
  all_goals apply_rules [dictEnd, dictAbort, dictSet, setUsdo, OutLasts.next, OutLasts.ite, ite, h]

theorem of_execUsdoUpload (h : Lasts s₀ s) (idx : BitVec 16) (sub : BitVec 8) :
    OutLasts s₀ (execUsdoUpload idx sub s) := by
  unfold execUsdoUpload
  apply_rules [dictGet, OutLasts.next, h]

theorem of_execUsdoSegment (h : Lasts s₀ s) (last : Bool) (data : List Byte) :
    OutLasts s₀ (execUsdoSegment last data s) := by
  unfold execUsdoSegment
  dsimp only
  repeat' split
  all_goals apply_rules [dictEnd, dictAbort, dictSet, setUsdo, OutLasts.next, OutLasts.ite, upd, updSec, ite, h]

theorem of_execUsdoTimeout (h : Lasts s₀ s) :
    OutLasts s₀ (execUsdoTimeout s) := by
  unfold execUsdoTimeout
  dsimp only
  repeat' split
  all_goals apply_rules [dictAbort, setUsdo, OutLasts.next, OutLasts.ite, upd, updSec, ite, h]

theorem of_execCanBusOff (h : Lasts s₀ s) :
    OutLasts s₀ (execCanBusOff s) := by
  unfold execCanBusOff
  grind only [← OutLasts.next, ← upd, ← updSec]

theorem of_execCanBusOffRecovery (h : Lasts s₀ s) :
    OutLasts s₀ (execCanBusOffRecovery s) := by
  unfold execCanBusOffRecovery
  grind only [← OutLasts.next, ← upd, ← updSec]

theorem of_execKeeperHeartbeat (h : Lasts s₀ s) :
    OutLasts s₀ (execKeeperHeartbeat s) := .next h

theorem takeover (h : Lasts s₀ s) (cause : Nat) : Lasts s₀ (s.takeover cause) := by
  unfold State.takeover
  refine foldl ?_ (fun t x ht => ite (ht.dictAbort _ _) ht) _
  split
  · exact (((upd h).report _).emcy _ _ _ |>.setUsdo _).dictAbort _ _
  · exact ((upd h).report _).emcy _ _ _

theorem of_execKeeperTakeover (h : Lasts s₀ s) (cause : BitVec 8) :
    OutLasts s₀ (execKeeperTakeover cause s) := by
  unfold execKeeperTakeover
  split <;> apply_rules [takeover, OutLasts.next, OutLasts.ite, ite, h]

theorem of_execKeeperFailure (h : Lasts s₀ s) (k : Bool) :
    OutLasts s₀ (execKeeperFailure k s) := by
  unfold execKeeperFailure
  grind only [← draw, ← report, ← OutLasts.next, ← upd, ← updSec]

/-! ### Startup -/

theorem day (h : Lasts s₀ s) (step : Nat) (kind : Nat) (item : Nat) (outcome : Nat) (choice : Nat)
    (reason : Nat) (time : BitVec 32) (detail : Nat) :
    Lasts s₀ (State.day s step kind item outcome choice reason time detail) := by
  unfold State.day
  grind only [← upd, ← updSec]

theorem setFails (h : Lasts s₀ s) (kind : Nat) (item : Nat) (n : Nat) :
    Lasts s₀ (State.setFails s kind item n) := by
  unfold State.setFails
  apply_rules [upd, updSec, h]

theorem itemRecord (h : Lasts s₀ s) (o : StartOutcome) (step : Nat) (kind : Nat) (item : Nat) (failChoice : Nat)
    (detail : Nat) (w : Word) :
    Lasts s₀ (State.itemRecord s o step kind item failChoice detail w) := by
  unfold State.itemRecord
  grind only [← ok, ← day, ← setFails, ← upd, ← updSec]

theorem stepRecord (h : Lasts s₀ s) (step : Nat) (ok : Bool) (reason : Nat) (w : Word) :
    Lasts s₀ (State.stepRecord s step ok reason w) := by
  unfold State.stepRecord
  grind only [← ok, ← day]

theorem atStep (h : Lasts s₀ s) (n : Nat) :
    Lasts s₀ (State.atStep s n) := by
  unfold State.atStep
  apply_rules [upd, updSec, h]

theorem startStop (h : Lasts s₀ s) (step : Nat) :
    Lasts s₀ (State.startStop s step) := by
  unfold State.startStop
  grind only [← bootUp, ← day, ← atStep, ← upd, ← updSec]

theorem startWait (h : Lasts s₀ s) (o : StartOutcome) (n : Nat) :
    Lasts s₀ (State.startWait s o n) := by
  unfold State.startWait
  apply_rules [atStep, upd, updSec, h]

theorem funcStarts (h : Lasts s₀ s) (f : FuncId) (on : Bool) (fault : Bool) :
    Lasts s₀ (State.funcStarts s f on fault) := by
  unfold State.funcStarts
  apply_rules [fault, setFunc, upd, updSec, ite, h]

theorem startReady (h : Lasts s₀ s) (o : StartOutcome) (w : Word) : Lasts s₀ (s.startReady o w) := by
  unfold State.startReady
  have h1 : Lasts s₀ _ := foldl h (fun t i ht => ht.funcStarts (.part (BitVec.ofNat 6 i)) true false) (upto 64)
  exact openIntake (upd (((upd ((h1.funcStarts _ _ _).modHctx _ _)).stepRecord _ _ _ _).stepRecord _ _ _ _ |>.day
      _ _ _ _ _ _ _ _ |>.atStep _))

theorem start8 (h : Lasts s₀ s) (o : StartOutcome) (w : Word) : Lasts s₀ (s.start8 o w) := by
  have hf (l : List Nat) (u : State) (x : List (Nat × Nat))
      (f : State × List (Nat × Nat) → Nat → State × List (Nat × Nat)) (hq : Lasts s₀ u) (hf : ∀ q b,
      Lasts s₀ q.1 → Lasts s₀ (f q b).1) : Lasts s₀ (l.foldl f (u, x)).1 :=
    List.foldlRecOn l f (motive := fun q => Lasts s₀ q.1) hq fun q hq b _ => hf q b hq
  unfold State.start8
  refine ite (h.startWait _ _)
      (startReady (stepRecord (foldl (foldl (hf _ _ _ _ (upd h) ?_) ?_ _) ?_ _) _ _ _ _) _ _)
  · intro q b hq
    dsimp only
    split
    · exact upd hq
    · exact upd hq
  · exact fun t die ht => ht.foldl (fun t p ht => ht.itemRecord _ _ _ _ _ _ _) _
  · exact fun t b ht => ht.funcStarts _ _ _

theorem startLink (h : Lasts s₀ s) (o : StartOutcome) (w : Word) (l : Nat) :
    Lasts s₀ (State.startLink s o w l) := by
  unfold State.startLink
  grind only [← modLink, ← ok, ← day, ← itemRecord, ← funcStarts, ← foldl, ← upd, ← updSec]

theorem start7 (h : Lasts s₀ s) (o : StartOutcome) (w : Word) :
    Lasts s₀ (State.start7 s o w) := by
  unfold State.start7
  grind only [← stepRecord, ← startWait, ← start8, ← startLink, ← foldl]

theorem start6 (h : Lasts s₀ s) (o : StartOutcome) (w : Word) :
    Lasts s₀ (State.start6 s o w) := by
  unfold State.start6
  grind only [← modStack, ← itemRecord, ← stepRecord, ← startStop, ← startWait, ← funcStarts, ← start7, ← foldl]

theorem start5 (h : Lasts s₀ s) (o : StartOutcome) (w : Word) :
    Lasts s₀ (State.start5 s o w) := by
  unfold State.start5
  grind only [← bootUp, ← stepRecord, ← startStop, ← start6, ← upd, ← updSec]

theorem tryImage (h : Lasts s₀ s) (o : StartOutcome) (b : Bool) (w : Word) : Lasts s₀ (s.tryImage o b w) :=
  (((h.day _ _ _ _ _ _ _ _).setFails _ _ _).setImage _ _).setSec (by cases b <;> rfl)

theorem start4 (h : Lasts s₀ s) (o : StartOutcome) (w : Word) : Lasts s₀ (s.start4 o w) := by
  have hrun {u : State} (hu : Lasts s₀ u) (b : Bool) : Lasts s₀ (((u.setSec { u.sec with
      runImage := b, runHead := (u.image b).bytes.take 512 }).stepRecord 4 true 0 w).start5 o w) := by
    refine start5 (stepRecord (setSec hu ?_) _ _ _ _) _ _
    rfl
  have htry {u : State} (hu : Lasts s₀ u) (b : Bool) : Lasts s₀ (u.tryImage o b w) := hu.tryImage _ _ _
  rw [State.start4]
  split
  · exact h.startWait _ _
  · dsimp only
    split
    · refine hrun (setSec (htry h _) ?_) _
      split
      · rfl
      · rfl
    · split
      · exact hrun (htry (htry h _) _) _
      · refine startStop (stepRecord (setSec (htry (htry h _) _) ?_) _ _ _ _) _
        rfl

theorem clearFails (h : Lasts s₀ s) :
    Lasts s₀ (State.clearFails s) := by
  unfold State.clearFails
  dsimp only
  repeat' split
  all_goals apply_rules [upd, updSec, ite, h]

theorem start1 (h : Lasts s₀ s) (o : StartOutcome) : Lasts s₀ (s.start1 o) := by
  have hu (f g) : Lasts s₀ { s.draw.2.modPower f with dict := g } := upd (h.draw.modPower _)
  unfold State.start1
  split
  · exact h.modPower _
  · refine ite (upd (atStep (hu _ _) _)) ?_
    refine start4 (stepRecord (ite (p := o.keeperE = true) ?_ (day ?_ _ _ _ _ _ _ _ _)) _ _ _ _) _ _
    all_goals refine ite (p := o.keeperW = true) ?_ (day ?_ _ _ _ _ _ _ _ _)
    all_goals exact stepRecord (stepRecord (day (upd (clearFails (upd (hu _ _)))) _ _ _ _ _ _ _ _) _ _ _ _) _ _ _ _

theorem of_execStartUp (h : Lasts s₀ s) (o : StartOutcome) :
    OutLasts s₀ (execStartUp o s) := by
  unfold execStartUp
  split <;> apply_rules [start1, OutLasts.next, OutLasts.ite, ite, h]

theorem of_execStartupStepTimeout (h : Lasts s₀ s) (step : BitVec 4) :
    OutLasts s₀ (execStartupStepTimeout step s) := by
  unfold execStartupStepTimeout
  grind only [← draw, ← ok, ← start8, ← start7, ← start6, ← start4, ← OutLasts.next, ← upd, ← updSec]

theorem of_execStartupTimeLimit (h : Lasts s₀ s) :
    OutLasts s₀ (execStartupTimeLimit s) := by
  unfold execStartupTimeLimit
  split <;> apply_rules [shutdown, powerOn, OutLasts.next, OutLasts.ite, ite, h]

theorem of_execStartupRetry (h : Lasts s₀ s) :
    OutLasts s₀ (execStartupRetry s) := by
  unfold execStartupRetry
  split <;> apply_rules [powerOn, OutLasts.next, OutLasts.ite, ite, h]

/-! ### Dispatch -/

theorem of_exec (h : Lasts s₀ s) (i : Instr) : OutLasts s₀ (exec i s) :=
  match i with
  | .tickBoundary env => of_execTickBoundary h env
  | .workWindowStart => of_execWorkWindowStart h
  | .guardStart stuck => of_execGuardStart h stuck
  | .gapEnd => of_execGapEnd h
  | .armLengthChange src boundary => of_execArmLengthChange h src boundary
  | .cancelLengthChange src => of_execCancelLengthChange h src
  | .tickMark l mark => of_execTickMark h l mark
  | .holdover => of_execHoldover h
  | .alignLost us => of_execAlignLost h us
  | .tickStatus l => of_execTickStatus h l
  | .verdict l => of_execVerdict h l
  | .verdictDeadline => of_execVerdictDeadline h
  | .planLoad ctx seq => of_execPlanLoad h ctx seq
  | .loadStop ctx seq access err => of_execLoadStop h ctx seq access err
  | .planUnload ctx seq => of_execPlanUnload h ctx seq
  | .planSuspend ctx seq => of_execPlanSuspend h ctx seq
  | .planResume ctx seq => of_execPlanResume h ctx seq
  | .sleepDeclare ctx seq => of_execSleepDeclare h ctx seq
  | .nop ctx seq => of_execNop h ctx seq
  | .writeInline ctx seq => of_execWriteInline h ctx seq
  | .copyH2d ctx seq => of_execCopyH2d h ctx seq
  | .copyD2h ctx seq => of_execCopyD2h h ctx seq
  | .atomic ctx seq => of_execAtomic h ctx seq
  | .hostFence ctx seq => of_execHostFence h ctx seq
  | .commandStart ctx seq => of_execCommandStart h ctx seq
  | .copyD2hStart ctx seq => of_execCopyD2hStart h ctx seq
  | .copyEngineGrant => of_execCopyEngineGrant h
  | .xferStop e err => of_execXferStop h e err
  | .flushReadDone e => of_execFlushReadDone h e
  | .intakeSlotWrite src ctx off data => of_execIntakeSlotWrite h src ctx off data
  | .bar2WindowAccess src off access => of_execBar2WindowAccess h src off access
  | .readbackRead src c off len => of_execReadbackRead h src c off len
  | .registerWrite src block off data => of_execRegisterWrite h src block off data
  | .flrVf f => of_execFlrVf h f
  | .flrPf => of_execFlrPf h
  | .hotReset => of_execHotReset h
  | .dataLinkDown => of_execDataLinkDown h
  | .dataLinkUp rate width noflit vfs => of_execDataLinkUp h rate width noflit vfs
  | .d3hotEntry f => of_execD3hotEntry h f
  | .d0Entry f => of_execD0Entry h f
  | .reclaim src ctx f => of_execReclaim h src ctx f
  | .release src ctx => of_execRelease h src ctx
  | .segCtxWrite src ctx v => of_execSegCtxWrite h src ctx v
  | .segTableWrite src port => of_execSegTableWrite h src port
  | .segTableRead src port => of_execSegTableRead h src port
  | .tablePortDone port => of_execTablePortDone h port
  | .invalidationRequest src k v => of_execInvalidationRequest h src k v
  | .invalidationBroadcast l => of_execInvalidationBroadcast h l
  | .invalidationDrainDone id => of_execInvalidationDrainDone h id
  | .invalidationAck l => of_execInvalidationAck h l
  | .descriptorCacheFill c stream seg => of_execDescriptorCacheFill h c stream seg
  | .cenGaugeAllotWrite src ctx v => of_execCenGaugeAllotWrite h src ctx v
  | .hbmPartRateWrite src stack p v => of_execHbmPartRateWrite h src stack p v
  | .censusNow src => of_execCensusNow h src
  | .censusCopyDone => of_execCensusCopyDone h
  | .censusStrobe l => of_execCensusStrobe h l
  | .ringEnable src v => of_execRingEnable h src v
  | .errorReport report => of_execErrorReport h report
  | .packageNanClear src v => of_execPackageNanClear h src v
  | .maxClr src => of_execMaxClr h src
  | .newchal src => of_execNewchal h src
  | .verify src => of_execVerify h src
  | .close src => of_execClose h src
  | .debugRequest c => of_execDebugRequest h c
  | .testPortWrite c target v => of_execTestPortWrite h c target v
  | .keeperInterruptRequest c => of_execKeeperInterruptRequest h c
  | .dup c => of_execDup h c
  | .drop c => of_execDrop h c
  | .swap c => of_execSwap h c
  | .overTop c => of_execOverTop h c
  | .rot c => of_execRot h c
  | .nip c => of_execNip h c
  | .pick c n => of_execPick h c n
  | .pushr c => of_execPushr h c
  | .popr c => of_execPopr h c
  | .rcopy c => of_execRcopy h c
  | .add c => of_execAdd h c
  | .sub c => of_execSub h c
  | .mul c => of_execMul h c
  | .mulh c => of_execMulh h c
  | .mulhu c => of_execMulhu h c
  | .div c => of_execDiv h c
  | .divu c => of_execDivu h c
  | .rem c => of_execRem h c
  | .remu c => of_execRemu h c
  | .and c => of_execAnd h c
  | .or c => of_execOr h c
  | .xor c => of_execXor h c
  | .not c => of_execNot h c
  | .neg c => of_execNeg h c
  | .shl c => of_execShl h c
  | .shr c => of_execShr h c
  | .sar c => of_execSar h c
  | .cmpeq c => of_execCmpeq h c
  | .cmpne c => of_execCmpne h c
  | .cmplt c => of_execCmplt h c
  | .cmple c => of_execCmple h c
  | .cmpltu c => of_execCmpltu h c
  | .cmpleu c => of_execCmpleu h c
  | .fadd c => of_execFadd h c
  | .fsub c => of_execFsub h c
  | .fmul c => of_execFmul h c
  | .ffma c => of_execFfma h c
  | .fdiv c => of_execFdiv h c
  | .fsqrt c => of_execFsqrt h c
  | .fneg c => of_execFneg h c
  | .fabs c => of_execFabs h c
  | .fmin c => of_execFmin h c
  | .fmax c => of_execFmax h c
  | .fcmpeq c => of_execFcmpeq h c
  | .fcmplt c => of_execFcmplt h c
  | .fcmple c => of_execFcmple h c
  | .fcvtI2f c => of_execFcvtI2f h c
  | .fcvtU2f c => of_execFcvtU2f h c
  | .fcvtF2i c => of_execFcvtF2i h c
  | .fcvtF2u c => of_execFcvtF2u h c
  | .fcvtD2s c => of_execFcvtD2s h c
  | .fcvtS2d c => of_execFcvtS2d h c
  | .lit6 c v => of_execLit6 h c v
  | .lit32 c v => of_execLit32 h c v
  | .litx c v => of_execLitx h c v
  | .br c long off => of_execBr h c long off
  | .bz c long off => of_execBz h c long off
  | .bnz c long off => of_execBnz h c long off
  | .call c off => of_execCall h c off
  | .calli c => of_execCalli h c
  | .jmpi c => of_execJmpi h c
  | .ret c => of_execRet h c
  | .controlNop c => of_execControlNop h c
  | .repPrefix c nxt => of_execRepPrefix h c nxt
  | .repxPrefix c count nxt => of_execRepxPrefix h c count nxt
  | .ld8L c off => of_execLd8L h c off
  | .ld16L c off => of_execLd16L h c off
  | .ld32L c off => of_execLd32L h c off
  | .ld64L c off => of_execLd64L h c off
  | .st8L c off => of_execSt8L h c off
  | .st16L c off => of_execSt16L h c off
  | .st32L c off => of_execSt32L h c off
  | .st64L c off => of_execSt64L h c off
  | .ld8 c off => of_execLd8 h c off
  | .ld16 c off => of_execLd16 h c off
  | .ld32 c off => of_execLd32 h c off
  | .ld64 c off => of_execLd64 h c off
  | .ld8s c off => of_execLd8s h c off
  | .ld16s c off => of_execLd16s h c off
  | .ld32s c off => of_execLd32s h c off
  | .st8 c off => of_execSt8 h c off
  | .st16 c off => of_execSt16 h c off
  | .st32 c off => of_execSt32 h c off
  | .st64 c off => of_execSt64 h c off
  | .aadd c w off => of_execAadd h c w off
  | .amin c w off => of_execAmin h c w off
  | .amax c w off => of_execAmax h c w off
  | .aand c w off => of_execAand h c w off
  | .aor c w off => of_execAor h c w off
  | .axor c w off => of_execAxor h c w off
  | .aswap c w off => of_execAswap h c w off
  | .acas c w off => of_execAcas h c w off
  | .pAdd c t => of_execPAdd h c t
  | .pSub c t => of_execPSub h c t
  | .pMul c t => of_execPMul h c t
  | .pFma c t => of_execPFma h c t
  | .pMin c t => of_execPMin h c t
  | .pMax c t => of_execPMax h c t
  | .pAnd c t => of_execPAnd h c t
  | .pOr c t => of_execPOr h c t
  | .pXor c t => of_execPXor h c t
  | .pCmpeq c t => of_execPCmpeq h c t
  | .pCmplt c t => of_execPCmplt h c t
  | .pSel c t => of_execPSel h c t
  | .pShl c t => of_execPShl h c t
  | .pShr c t => of_execPShr h c t
  | .pSar c t => of_execPSar h c t
  | .pHsum c t => of_execPHsum h c t
  | .pBcast c t => of_execPBcast h c t
  | .pDup c t => of_execPDup h c t
  | .pDrop c t => of_execPDrop h c t
  | .pSwap c t => of_execPSwap h c t
  | .vsetl c a => of_execVsetl h c a
  | .vgetl c a => of_execVgetl h c a
  | .vdup c a => of_execVdup h c a
  | .vdrop c a => of_execVdrop h c a
  | .vswap c a => of_execVswap h c a
  | .vover c a => of_execVover h c a
  | .vrot c a => of_execVrot h c a
  | .vadd c a => of_execVadd h c a
  | .vsub c a => of_execVsub h c a
  | .vmul c a => of_execVmul h c a
  | .vfma c a => of_execVfma h c a
  | .vmin c a => of_execVmin h c a
  | .vmax c a => of_execVmax h c a
  | .vdiv c a => of_execVdiv h c a
  | .vsqrt c a => of_execVsqrt h c a
  | .vneg c a => of_execVneg h c a
  | .vabs c a => of_execVabs h c a
  | .vand c a => of_execVand h c a
  | .vor c a => of_execVor h c a
  | .vxor c a => of_execVxor h c a
  | .vshl c a => of_execVshl h c a
  | .vshr c a => of_execVshr h c a
  | .vsar c a => of_execVsar h c a
  | .vcmpeq c a => of_execVcmpeq h c a
  | .vcmplt c a => of_execVcmplt h c a
  | .vcmple c a => of_execVcmple h c a
  | .vsel c a => of_execVsel h c a
  | .vbcast c a => of_execVbcast h c a
  | .viota c a => of_execViota h c a
  | .vext c a => of_execVext h c a
  | .vins c a => of_execVins h c a
  | .vcvt c a => of_execVcvt h c a
  | .vredAdd c a => of_execVredAdd h c a
  | .vredMin c a => of_execVredMin h c a
  | .vredMax c a => of_execVredMax h c a
  | .vmcnt c a => of_execVmcnt h c a
  | .vld c a => of_execVld h c a
  | .vst c a => of_execVst h c a
  | .vlds c a => of_execVlds h c a
  | .vsts c a => of_execVsts h c a
  | .vgth c a => of_execVgth h c a
  | .vsct c a => of_execVsct h c a
  | .vscta c a => of_execVscta h c a
  | .vld2 c a => of_execVld2 h c a
  | .vld3 c a => of_execVld3 h c a
  | .vld4 c a => of_execVld4 h c a
  | .vst2 c a => of_execVst2 h c a
  | .vst3 c a => of_execVst3 h c a
  | .vst4 c a => of_execVst4 h c a
  | .mld c n p => of_execMld h c n p
  | .mstr c n p => of_execMstr h c n p
  | .mrd c n p => of_execMrd h c n p
  | .mclr c n p => of_execMclr h c n p
  | .mwait c => of_execMwait h c
  | .mrdF c => of_execMrdF h c
  | .edq c n p => of_execEdq h c n p
  | .rwq c n p => of_execRwq h c n p
  | .dmq c ch n p => of_execDmq h c ch n p
  | .qwaitE c => of_execQwaitE h c
  | .qwaitR c => of_execQwaitR h c
  | .qwaitD c ch => of_execQwaitD h c ch
  | .bar c => of_execBar h c
  | .wtick c => of_execWtick h c
  | .barrierRelease slot => of_execBarrierRelease h slot
  | .sys c toM => of_execSys h c toM
  | .gate c n => of_execGate h c n
  | .retx c => of_execRetx h c
  | .flushi c => of_execFlushi h c
  | .icinv c => of_execIcinv h c
  | .dclean c => of_execDclean h c
  | .dinv c => of_execDinv h c
  | .dclinv c => of_execDclinv h c
  | .dcleansw c => of_execDcleansw h c
  | .dinvsw c => of_execDinvsw h c
  | .dclinvsw c => of_execDclinvsw h c
  | .fence c => of_execFence h c
  | .crd c n => of_execCrd h c n
  | .cwr c n => of_execCwr h c n
  | .interruptEntry c => of_execInterruptEntry h c
  | .impreciseFault c w => of_execImpreciseFault h c w
  | .unmappedTargetResponse r => of_execUnmappedTargetResponse h r
  | .uncorrectableResponse r addr => of_execUncorrectableResponse h r addr
  | .overrun c => of_execOverrun h c
  | .cacheInitDone c dcache => of_execCacheInitDone h c dcache
  | .dCacheFill c data => of_execDCacheFill h c data
  | .mergeEntryTimeout c => of_execMergeEntryTimeout h c
  | .mergeEntryAck c idx => of_execMergeEntryAck h c idx
  | .carrelWake c => of_execCarrelWake h c
  | .arrayDescriptorStart c => of_execArrayDescriptorStart h c
  | .arrayDescriptorDone c => of_execArrayDescriptorDone h c
  | .elementDescriptorStart c => of_execElementDescriptorStart h c
  | .elementDescriptorDone c => of_execElementDescriptorDone h c
  | .rowDescriptorStart bay => of_execRowDescriptorStart h bay
  | .rowDescriptorDone bay => of_execRowDescriptorDone h bay
  | .moverDescriptorStart bay ch => of_execMoverDescriptorStart h bay ch
  | .moverDescriptorDone bay ch data => of_execMoverDescriptorDone h bay ch data
  | .descStop bay ch cause => of_execDescStop h bay ch cause
  | .linkRecordStart slot => of_execLinkRecordStart h slot
  | .linkRecordDone slot data => of_execLinkRecordDone h slot data
  | .reductionFragment l => of_execReductionFragment h l
  | .hbmRead acc => of_execHbmRead h acc
  | .hbmWrite acc data mask => of_execHbmWrite h acc data mask
  | .memorySideOperation acc op w data cmp => of_execMemorySideOperation h acc op w data cmp
  | .tokenWaitServed stack part planned => of_execTokenWaitServed h stack part planned
  | .hbmReread addr clean => of_execHbmReread h addr clean
  | .patrolScrubRead stack addr ecc => of_execPatrolScrubRead h stack addr ecc
  | .hbmTempRise stack temp => of_execHbmTempRise h stack temp
  | .selfRefreshExit stack => of_execSelfRefreshExit h stack
  | .selfRefreshExitDone stack => of_execSelfRefreshExitDone h stack
  | .linkTrain l => of_execLinkTrain h l
  | .linkTrainDone l result => of_execLinkTrainDone h l result
  | .laneDrop l lane => of_execLaneDrop h l lane
  | .laneDropDone l delay => of_execLaneDropDone h l delay
  | .dropRequestTimeout l => of_execDropRequestTimeout h l
  | .retrain l => of_execRetrain h l
  | .retrainDone l result => of_execRetrainDone h l result
  | .linkSleep l => of_execLinkSleep h l
  | .linkWake l => of_execLinkWake h l
  | .flit l f => of_execFlit h l f
  | .readRequest l => of_execReadRequest h l
  | .write l => of_execWrite h l
  | .atomicItem l => of_execAtomicItem h l
  | .readResponse l => of_execReadResponse h l
  | .writeAcknowledgement l => of_execWriteAcknowledgement h l
  | .atomicResponse l => of_execAtomicResponse h l
  | .errorResponse l => of_execErrorResponse h l
  | .barrier l => of_execBarrier h l
  | .setupConfirmation l depth chips => of_execSetupConfirmation h l depth chips
  | .chainSetup src => of_execChainSetup h src
  | .setupTimeout => of_execSetupTimeout h
  | .join src => of_execJoin h src
  | .carrelFailure c why => of_execCarrelFailure h c why
  | .bayunitFail bay unit => of_execBayunitFail h bay unit
  | .keeperHeartbeat => of_execKeeperHeartbeat h
  | .keeperTakeover cause => of_execKeeperTakeover h cause
  | .attestationSigned m => of_execAttestationSigned h m
  | .attGo m src => of_execAttGo h m src
  | .arbCommit src v => of_execArbCommit h src v
  | .storeAll src v => of_execStoreAll h src v
  | .restoreAll src v => of_execRestoreAll h src v
  | .calibrationTrimWrite src idx sub v => of_execCalibrationTrimWrite h src idx sub v
  | .programClear src sub => of_execProgramClear h src sub
  | .programEnd src sub => of_execProgramEnd h src sub
  | .clearStanding src v => of_execClearStanding h src v
  | .peekData src off len => of_execPeekData h src off len
  | .descSelect src v => of_execDescSelect h src v
  | .functionEnable src fn => of_execFunctionEnable h src fn
  | .functionDisable src fn => of_execFunctionDisable h src fn
  | .functionStartDone fn ok => of_execFunctionStartDone h fn ok
  | .functionStopDone fn => of_execFunctionStopDone h fn
  | .lnkCtlEnWrite src l en => of_execLnkCtlEnWrite h src l en
  | .dictRead f => of_execDictRead h f
  | .dictWrite f => of_execDictWrite h f
  | .dictTransferTimeout src => of_execDictTransferTimeout h src
  | .usdoDownload idx sub size data => of_execUsdoDownload h idx sub size data
  | .usdoUpload idx sub => of_execUsdoUpload h idx sub
  | .usdoSegment last data => of_execUsdoSegment h last data
  | .usdoTimeout => of_execUsdoTimeout h
  | .nmtStart => of_execNmtStart h
  | .nmtStop => of_execNmtStop h
  | .nmtPreOperational => of_execNmtPreOperational h
  | .resetCommunication => of_execResetCommunication h
  | .resetApplication => of_execResetApplication h
  | .heartbeat => of_execHeartbeat h
  | .emcyInhibitExpiry => of_execEmcyInhibitExpiry h
  | .tpdoEventTimer n => of_execTpdoEventTimer h n
  | .startUp o => of_execStartUp h o
  | .startupStepTimeout step => of_execStartupStepTimeout h step
  | .startupTimeLimit => of_execStartupTimeLimit h
  | .fuseTrip => of_execFuseTrip h
  | .fuseRetry => of_execFuseRetry h
  | .undervoltage v => of_execUndervoltage h v
  | .overvoltage v => of_execOvervoltage h v
  | .voltageRecovered v => of_execVoltageRecovered h v
  | .brownOut => of_execBrownOut h
  | .severeOvervoltage => of_execSevereOvervoltage h
  | .railPowerGoodLost k => of_execRailPowerGoodLost h k
  | .pwrEnLow => of_execPwrEnLow h
  | .pwrEnHigh => of_execPwrEnHigh h
  | .inputRemoved => of_execInputRemoved h
  | .inputApplied v => of_execInputApplied h v
  | .senseFault k => of_execSenseFault h k
  | .zoneLevelRise z reading => of_execZoneLevelRise h z reading
  | .sensorFault z k => of_execSensorFault h z k
  | .criticalHoldExpiry => of_execCriticalHoldExpiry h
  | .autoRestart => of_execAutoRestart h
  | .illegalInstruction c parcels => of_execIllegalInstruction h c parcels
  | .iCacheFill c pa => of_execICacheFill h c pa
  | .meshResponse c data => of_execMeshResponse h c data
  | .hostReadCompletion e res => of_execHostReadCompletion h e res
  | .keeperFailure k => of_execKeeperFailure h k
  | .sensorRecovered z k reading => of_execSensorRecovered h z k reading
  | .canBusOff => of_execCanBusOff h
  | .canBusOffRecovery => of_execCanBusOffRecovery h
  | .startupRetry => of_execStartupRetry h

/-! ### Step -/

theorem of_step (h : Lasts s₀ s) : OutLasts s₀ (step s) := by
  unfold step
  split
  · exact .next h
  · exact h.upd.of_exec _

end Lasts

/-- A step of the block keeps the form of memory and the blown fuses. -/
theorem lasts_step {s t : State} (e : step s = .next t) : Lasts s t := (Lasts.refl s).of_step t e

/-- Settles O59: every write goes through the canonical store, `Lasts` carries it through every command. -/
theorem stepsKeepTheMemoryForm : Obligations.StepsKeepTheMemoryForm := by
  unfold Obligations.StepsKeepTheMemoryForm
  intro s t hm e
  exact (lasts_step e).form hm

/-- Settles O60: the only write to the fuses burns bits over what they hold, and a module reset keeps them. -/
theorem blownFusesStay : Obligations.BlownFusesStay := by
  unfold Obligations.BlownFusesStay
  intro s t k j e
  exact (lasts_step e).fuse k j

end Sys2Proof.Machine
end

section
/-!
# Entering an exception

What the frame holds, where it stands, and what else an entry changes.
-/
namespace Sys2Proof.Machine

/-! ### Words stored one after the other -/

theorem State.setBytes_append (s : State) (a : Nat) (l m : List Byte) :
    s.setBytes a (l ++ m) = (s.setBytes a l).setBytes (a + l.length) m := by
  induction l generalizing s a with
  | nil => rfl
  | cons b l ih =>
    rw [List.cons_append, State.setBytes, State.setBytes, ih, List.length_cons]
    congr 1
    omega

/-- The bytes of a list of words, in order. -/
def wordBytes (l : List Word) : List Byte := l.flatMap fun w => natToBytes 8 w.toNat

theorem length_wordBytes (l : List Word) : (wordBytes l).length = 8 * l.length := by
  induction l with
  | nil => rfl
  | cons w l ih =>
    rw [wordBytes, List.flatMap_cons, List.length_append, length_natToBytes, ← wordBytes, ih, List.length_cons]
    omega

theorem State.setLe_word_le (s : State) (a : Nat) (w : Word) : (s.setLe a 8 w.toNat).le a 8 = w.toNat := by
  rw [State.le_setLe_same]
  exact Nat.mod_eq_of_lt w.isLt

/-- A word of those stored reads back. -/
theorem State.le_setBytes_words (s : State) (a : Nat) (l : List Word) (i : Nat) (hi : i < l.length) :
    (s.setBytes a (wordBytes l)).le (a + 8 * i) 8 = l[i].toNat := by
  induction l generalizing s a i with
  | nil => exact absurd hi (Nat.not_lt_zero i)
  | cons w l ih =>
    have hcut : s.setBytes a (wordBytes (w :: l)) = (s.setLe a 8 w.toNat).setBytes (a + 8) (wordBytes l) := by
      rw [wordBytes, List.flatMap_cons, State.setBytes_append, length_natToBytes, State.setLe, wordBytes]
    rw [hcut]
    cases i with
    | zero =>
      have hapart := State.bytes_setBytes_apart (s.setLe a 8 w.toNat) (wordBytes l) (Or.inl (Nat.le_refl (a + 8)))
      change bytesToNat (State.bytes _ a 8) = w.toNat
      rw [hapart, ← State.le, State.setLe_word_le]
    | succ i =>
      rw [show a + 8 * (i + 1) = a + 8 + 8 * i by omega]
      exact ih _ _ i (Nat.lt_of_succ_lt_succ hi)

/-! ### The frame -/

/-- The level at which an entry's handler runs. -/
def Entry.lvl (e : Entry) : BitVec 2 := if e.h = 1 then 1 else 2

/-- The carrel as the entry `e` leaves it, before its pc, its frame and its seal are set. -/
def Carrel.raised (k : Carrel) (e : Entry) : Carrel :=
  { k.abandon with
    sealNext := nextSeal k.sealNext, rep := none, level := e.lvl
    dbank := if e.keepBank then k.dbank else e.lvl
    rescue := k.rescue || decide (e.h = 3)
    bankR := if e.h = 3 then Bank.rescue else k.bankR }

/-- The eight words of the frame of an entry `e`, with `fw` and `dw` where no rule names FADDR and DETAIL. -/
def Carrel.frameOf (k : Carrel) (e : Entry) (fw dw wtn : Word) : List Word :=
  [e.pc, statusWord k.level (repKind k.rep) (k.mask e.lvl) e.imprecise e.kind e.nres k.dbank (decide (e.code ≠ 0x09))
    e.more k.sealNext, place e.code 0 ||| place e.orig 8, e.faddr.getD fw, (k.rep.map (·.count)).getD 0,
    e.detail.getD dw, (k.raised e).depthWord, wtn]

/-- The carrel after it has entered rescue state. -/
def Carrel.rescued (k : Carrel) (e : Entry) : Carrel :=
  { k.raised e with rescueSeal := k.sealNext, pc := vecAddr (k.raised e).rescueVec }

/-- The carrel after the entry `e` at level 1 or 2, its frame below the top of the level's exception stack. -/
def Carrel.entered (k : Carrel) (e : Entry) : Carrel :=
  let k2 := (match e.step with | some st => (k.raised e).setMask e.lvl st | none => k.raised e).setXspTop e.lvl
    ((k.xsp e.lvl).1 - 1)
  { k2 with
    seals := { tag := k.sealNext, shadow := false, hlvl := e.lvl } :: k2.seals
    pc := e.target.getD (if e.lvl = 1 then vecAddr k2.xvecS else vecAddr k2.xvecM) }

/-- The free word for FADDR, where no rule names it, and the state it leaves. -/
def State.drawFor (s : State) (w : Option Word) : Word × State := if w = none then s.draw else (0, s)

/-- An entry whose frame is the list of words that `drawFor` completes. -/
def State.enterAs (s : State) (c : BitVec 12) (e : Entry) : State :=
  let k := s.carrel c
  let q := s.drawFor e.faddr
  let r := q.2.drawFor e.detail
  let b := wordBytes (k.frameOf e q.1 r.1 r.2.tickWtn)
  if e.h = 3 then (r.2.setBytes (shelfBase c.toNat + rescueOff) b).setCarrel c (k.rescued e)
  else (r.2.setBytes (shelfBase c.toNat + ((k.xsp e.lvl).1 - 1).toNat * 64) b).setCarrel c (k.entered e)

theorem State.enter_eq (s : State) (c : BitVec 12) (e : Entry) : s.enter c e = s.enterAs c ((s.carrel c).settle e) := by
  rw [State.enter, State.enterAs]
  rfl

theorem State.drawFor_carrel (s : State) (w : Option Word) (d : BitVec 12) : (s.drawFor w).2.carrel d = s.carrel d := by
  cases w <;> rfl

theorem State.drawFor_byte (s : State) (w : Option Word) (a : Nat) : (s.drawFor w).2.byte a = s.byte a := by
  cases w <;> rfl

theorem State.drawFor_eq (s : State) (w : Option Word) :
    (s.drawFor w).2 = { s with fresh := if w = none then s.fresh + 1 else s.fresh } := by
  cases w <;> rfl

theorem State.getD_drawFor (s : State) (w : Option Word) :
    w.getD (s.drawFor w).1 = w.getD (Config.freeWord s.fresh) := by
  cases w <;> rfl

/-- Where the frame of an entry that settles as `e` stands. -/
def State.frameAt (s : State) (c : BitVec 12) (e : Entry) : Nat :=
  shelfBase c.toNat + if e.h = 3 then rescueOff else (((s.carrel c).xsp e.lvl).1 - 1).toNat * 64

/-- The frame that `e` pushes. -/
def State.frameWords (s : State) (c : BitVec 12) (e : Entry) (d : Word) : List Word :=
  (s.carrel c).frameOf { e with detail := some d } (Config.freeWord s.fresh) 0 s.tickWtn

/-- The carrel that `e` leaves. -/
def State.enteredCarrel (s : State) (c : BitVec 12) (e : Entry) : Carrel :=
  if e.h = 3 then (s.carrel c).rescued e else (s.carrel c).entered e

/-- An entry with its DETAIL given, as one store and one carrel written. -/
theorem State.enterAs_eq (s : State) (c : BitVec 12) (e : Entry) {d : Word} (hd : e.detail = some d) :
    s.enterAs c e = ((s.drawFor e.faddr).2.setBytes (s.frameAt c e) (wordBytes (s.frameWords c e d))).setCarrel c
      (s.enteredCarrel c e) := by
  obtain ⟨eh, ecode, eorig, edetail, efaddr, ekind, epc, eimp, emore, enres, estep, etarget, ekeep⟩ := e
  subst hd
  unfold State.enterAs State.frameAt State.enteredCarrel State.frameWords
  cases efaddr with
  | none =>
    by_cases h3 : eh = 3
    · simp only [h3, if_true]
      rfl
    · simp only [h3, if_false]
      rfl
  | some f =>
    by_cases h3 : eh = 3
    · simp only [h3, if_true]
      rfl
    · simp only [h3, if_false]
      rfl

section
variable {s : State} {c : BitVec 12} {e : Entry} {d : Word} (hd : e.detail = some d)
include hd

theorem State.enterAs_le (i : Nat) (hi : i < 8) :
    (s.enterAs c e).le (s.frameAt c e + 8 * i) 8 = ((s.frameWords c e d)[i]'hi).toNat := by
  rw [s.enterAs_eq c e hd, State.setCarrel_le]
  exact State.le_setBytes_words _ _ (s.frameWords c e d) i hi

theorem State.enterAs_byte (b : Nat) (hb : b < s.frameAt c e ∨ s.frameAt c e + 64 ≤ b) :
    (s.enterAs c e).byte b = s.byte b := by
  rw [s.enterAs_eq c e hd, State.setCarrel_byte, State.byte_setBytes, length_wordBytes,
    if_neg (by change ¬ (_ ∧ _ < _ + 8 * 8); omega), State.drawFor_byte]

theorem State.enterAs_carrel : (s.enterAs c e).carrel c = s.enteredCarrel c e := by
  rw [s.enterAs_eq c e hd, State.carrel_setCarrel_same]

theorem State.enterAs_carrel_other {b : BitVec 12} (hb : b ≠ c) : (s.enterAs c e).carrel b = s.carrel b := by
  rw [s.enterAs_eq c e hd, State.carrel_setCarrel_other _ _ hb, State.setBytes_carrel, State.drawFor_carrel]

theorem State.enterAs_frame : s.enterAs c e = { s with
    mem := (s.enterAs c e).mem, carrels := (s.enterAs c e).carrels
    fresh := if e.faddr = none then s.fresh + 1 else s.fresh } := by
  rw [s.enterAs_eq c e hd, State.setCarrel, State.setBytes_eq, State.drawFor_eq]

end

/-! ### Faults -/

/-- The entry that a fault asks for at the normal level of its cause. -/
def State.faultEntry (s : State) (c : BitVec 12) (x : Exc) : Entry :=
  { h := causeLevel x.code (s.carrel c).level, code := x.code, detail := some x.detail, faddr := x.faddr
    pc := (s.carrel c).resumePc }

theorem State.fault_masked {s : State} {c : BitVec 12} {x : Exc} (hr : (s.carrel c).rescue = false)
    (hm : causeStep x.code ≤ ((s.carrel c).mask (s.carrel c).level).toNat) :
    s.fault c x = s.enter c { s.faultEntry c x with
      h := (s.faultEntry c x).h + 1, orig := x.code, code := 0x0C } := by
  rw [State.fault]
  simp only [hr, hm, if_true, Bool.false_eq_true, if_false]
  rfl

theorem State.fault_unmasked {s : State} {c : BitVec 12} {x : Exc} (hr : (s.carrel c).rescue = false)
    (hm : ((s.carrel c).mask (s.carrel c).level).toNat < causeStep x.code) :
    s.fault c x = s.enter c (s.faultEntry c x) := by
  rw [State.fault]
  simp only [hr, Nat.not_le.2 hm, Bool.false_eq_true, if_false]
  rfl

/-- An entry for which its level has room stays as it is. -/
theorem Carrel.settle_of_room {k : Carrel} {e : Entry} {h : BitVec 2} (he : e.h = h.toNat) (h12 : h = 1 ∨ h = 2)
    (hs : k.seals.length < if h = 1 then 3 else 4) (hx : k.xspValid h = true) : k.settle e = e := by
  rw [Carrel.settle]
  rcases h12 with rfl | rfl
  · have h1 : e.h = 1 := he
    have hn : ¬ (3 ≤ k.seals.length ∨ k.xspValid 1 = false) := by
      rw [hx]
      exact fun h => h.elim (fun h => absurd hs (Nat.not_lt.2 h)) (fun h => by cases h)
    simp only [h1, if_true, hn, if_false]
  · have h2 : e.h = 2 := he
    have hn : ¬ (k.seals.length = 4 ∨ k.xspValid 2 = false) := by
      rw [hx]
      exact fun h => h.elim (fun h => absurd hs (by rw [h]; decide)) (fun h => by cases h)
    simp only [h2, hn, if_false, if_true, show ¬ (2 = 1) by decide]

theorem causeLevel_cases (code : BitVec 8) (l : BitVec 2) : causeLevel code l = 1 ∨ causeLevel code l = 2 := by
  unfold causeLevel
  grind

/-- The top of a valid exception stack has a frame below it. -/
theorem Carrel.xspValid_top {k : Carrel} {h : BitVec 2} (hx : k.xspValid h = true) :
    ((k.xsp h).1 - 1).toNat = (k.xsp h).1.toNat - 1 := by
  rw [Carrel.xspValid] at hx
  simp only [Bool.and_eq_true, decide_eq_true_eq] at hx
  bv_omega

/-- A fault that enters without escalation settles as the entry it asks for. -/
theorem State.fault_enters {s : State} {c : BitVec 12} {x : Exc} {h : BitVec 2} (he : (s.carrel c).entersAt x.code h) :
    s.fault c x = s.enterAs c (s.faultEntry c x) ∧ (s.faultEntry c x).h = h.toNat ∧ (h = 1 ∨ h = 2) := by
  obtain ⟨hr, hl, hm, hs, hx⟩ := he
  have h12 : h = 1 ∨ h = 2 := by
    rcases causeLevel_cases x.code (s.carrel c).level with e | e
    · exact Or.inl (BitVec.eq_of_toNat_eq (hl.trans e))
    · exact Or.inr (BitVec.eq_of_toNat_eq (hl.trans e))
  refine ⟨?_, hl.symm, h12⟩
  rw [State.fault_unmasked hr hm, State.enter_eq, Carrel.settle_of_room hl.symm h12 hs hx]

theorem Entry.lvl_of {e : Entry} {h : BitVec 2} (he : e.h = h.toNat) (h12 : h = 1 ∨ h = 2) : e.lvl = h ∧ e.h ≠ 3 := by
  rw [Entry.lvl]
  rcases h12 with rfl | rfl
  · exact ⟨if_pos he, by rw [he]; decide⟩
  · exact ⟨if_neg (by rw [he]; decide), by rw [he]; decide⟩

/-- The depths in the frame are those of the banks that the handler's level uses. -/
theorem Carrel.raised_depthWord {k : Carrel} {e : Entry} {h : BitVec 2} (hr : k.rescue = false) (hl : e.lvl = h)
    (h3 : e.h ≠ 3) (hk : e.keepBank = false) :
    (k.raised e).depthWord = ({ k with level := h, dbank := h } : Carrel).depthWord := by
  have hbank (id : BankId) : (k.raised e).bank id = k.bank id := by
    cases id
    · rfl
    · rfl
    · rfl
    · exact if_neg h3
  have hresc : (k.raised e).rescue = false := by rw [Carrel.raised, hr, decide_eq_false h3]; rfl
  have hdb : (k.raised e).dbank = h := by rw [Carrel.raised, hk]; exact hl
  have hlv : (k.raised e).level = h := hl
  rw [Carrel.depthWord, Carrel.depthWord, Carrel.dataBank, Carrel.retBank, Carrel.dataBank, Carrel.retBank, hresc, hdb,
    hlv, hr]
  simp only [Bool.false_eq_true, if_false, hbank]
  cases bankOfCode h <;> rfl

/-- The carrel that an entry at level 1 or 2 to the level's own vector leaves. -/
theorem Carrel.entered_eq {k : Carrel} {e : Entry} {h : BitVec 2} (hl : e.lvl = h)
    (h12 : h = 1 ∨ h = 2) (h3 : e.h ≠ 3) (hk : e.keepBank = false) (hs : e.step = none) (ht : e.target = none) :
    k.entered e = { k.abandon with
      level := h, dbank := h, rep := none
      sealNext := nextSeal k.sealNext, seals := { tag := k.sealNext, shadow := false, hlvl := h } :: k.seals
      xspSTop := if h = 1 then k.xspSTop - 1 else k.xspSTop
      xspMTop := if h = 1 then k.xspMTop else k.xspMTop - 1
      pc := if h = 1 then vecAddr k.xvecS else vecAddr k.xvecM } := by
  have hrescue : (k.rescue || decide (e.h = 3)) = k.rescue := by rw [decide_eq_false h3, Bool.or_false]
  rw [Carrel.entered, Carrel.raised, hl, hs, ht, hk, if_neg h3, hrescue]
  rcases h12 with rfl | rfl
  · simp only [Carrel.setXspTop, Carrel.xsp, Carrel.abandon, Option.getD_none, if_true, Bool.false_eq_true, if_false]
  · simp only [Carrel.setXspTop, Carrel.xsp, Carrel.abandon, Option.getD_none, show ¬ (2 : BitVec 2) = 1 by decide,
      Bool.false_eq_true, if_false]

/-- What a fault that enters without escalation leaves. -/
theorem State.fault_entered (c : BitVec 12) (s : State) (x : Exc) (h : BitVec 2) (he : (s.carrel c).entersAt x.code h) :
     let k := s.carrel c
     let t := s.fault c x
     let a := shelfBase c.toNat + 64 * ((k.xsp h).1.toNat - 1)
     let j := { k with level := h, dbank := h }
     t.le a 8 = k.resumePc.toNat ∧
     t.le (a + 8) 8 =
       (statusWord k.level (repKind k.rep) (k.mask h) false 0 0 k.dbank (decide (x.code ≠ 0x09)) false k.sealNext).toNat ∧
     t.le (a + 16) 8 = x.code.toNat ∧
     t.le (a + 24) 8 = (x.faddr.getD (Config.freeWord s.fresh)).toNat ∧
     t.le (a + 32) 8 = ((k.rep.map fun (r : Repeat) => r.count).getD 0).toNat ∧
     t.le (a + 40) 8 = x.detail.toNat ∧
     t.le (a + 48) 8 = j.depthWord.toNat ∧
     t.le (a + 56) 8 = s.tickWtn.toNat ∧
     (∀ b, b < a ∨ a + 64 ≤ b → t.byte b = s.byte b) ∧
     t.carrel c =
       { k.abandon with
         level := h, dbank := h, rep := none
         sealNext := nextSeal k.sealNext, seals := { tag := k.sealNext, shadow := false, hlvl := h } :: k.seals
         xspSTop := if h = 1 then k.xspSTop - 1 else k.xspSTop
         xspMTop := if h = 1 then k.xspMTop else k.xspMTop - 1
         pc := if h = 1 then vecAddr k.xvecS else vecAddr k.xvecM } ∧
     t = { s with mem := t.mem, carrels := t.carrels, fresh := if x.faddr = none then s.fresh + 1 else s.fresh } ∧
     ∀ d, d ≠ c → t.carrel d = s.carrel d := by
  intro k t a j
  obtain ⟨hf, hh, h12⟩ := State.fault_enters he
  obtain ⟨hr, -, -, -, hx⟩ := he
  obtain ⟨hlvl, h3⟩ := Entry.lvl_of hh h12
  have ht : t = s.enterAs c (s.faultEntry c x) := hf
  have hd : (s.faultEntry c x).detail = some x.detail := rfl
  have ha : s.frameAt c (s.faultEntry c x) = a := by
    rw [State.frameAt, if_neg h3, hlvl, Carrel.xspValid_top hx, Nat.mul_comm]
  have hle := fun i hi => State.enterAs_le hd (s := s) (c := c) i hi
  have hb := State.enterAs_byte hd (s := s) (c := c)
  rw [← ht, ha] at hle hb
  have hw : s.frameWords c (s.faultEntry c x) x.detail =
      [k.resumePc, statusWord k.level (repKind k.rep) (k.mask h) false 0 0 k.dbank (decide (x.code ≠ 0x09)) false
        k.sealNext, place x.code 0 ||| place (0 : BitVec 8) 8, x.faddr.getD (Config.freeWord s.fresh),
        (k.rep.map fun r => r.count).getD 0, x.detail, j.depthWord, s.tickWtn] := by
    rw [State.frameWords, Carrel.frameOf, ← Carrel.raised_depthWord (e := s.faultEntry c x) hr hlvl h3 rfl]
    exact congrArg (fun l => [_, statusWord _ _ (k.mask l) _ _ _ _ _ _ _, _, _, _, _, _, _]) hlvl
  simp only [hw] at hle
  have hc : (place x.code 0 ||| place (0 : BitVec 8) 8).toNat = x.code.toNat := by
    simp [place]
    have := x.code.isLt
    omega
  refine ⟨hle 0 (by decide), hle 1 (by decide), (hle 2 (by decide)).trans hc, hle 3 (by decide), hle 4 (by decide),
    hle 5 (by decide), hle 6 (by decide), hle 7 (by decide), hb, ?_, ?_, fun d hdc => ?_⟩
  · rw [ht, State.enterAs_carrel hd, State.enteredCarrel, if_neg h3]
    exact Carrel.entered_eq hlvl h12 h3 rfl rfl rfl
  · rw [ht]
    exact State.enterAs_frame hd
  · rw [ht]
    exact State.enterAs_carrel_other hd hdc

/-- A fault in rescue state halts the carrel. -/
theorem State.fault_halts (c : BitVec 12) (s : State) (x : Exc) (hr : (s.carrel c).rescue = true) :
    (s.fault c x).carrel c = { (s.carrel c).abandon with halted := true } ∧
    s.fault c x = { s with carrels := (s.fault c x).carrels, halts := s.halts ++ [c] } ∧
    ∀ d, d ≠ c → (s.fault c x).carrel d = s.carrel d := by
  have hf : s.fault c x = s.haltCarrel c := by rw [State.fault, if_pos hr]
  rw [hf]
  exact ⟨State.carrel_modCarrel_same s c fun k => { k.abandon with halted := true }, rfl,
    fun d hd => State.carrel_modCarrel_other s (fun k => { k.abandon with halted := true }) hd⟩

/-- CAUSE of an escalated fault: MASKED, with the fault's own cause in ORIG. -/
theorem masked_cause (code : BitVec 8) : (place (0x0C : BitVec 8) 0 ||| place code 8).toNat = 0x0C + 256 * code.toNat := by
  have hlt := code.isLt
  have hp : (place code 8).toNat = 2 ^ 8 * code.toNat := by
    simp only [place, BitVec.toNat_shiftLeft, BitVec.toNat_setWidth, Nat.shiftLeft_eq]
    omega
  rw [BitVec.toNat_or, hp, Nat.or_comm, show (place (0x0C : BitVec 8) 0).toNat = 0x0C by decide,
    ← Nat.two_pow_add_eq_or_of_lt (by decide)]
  exact Nat.add_comm _ _

/-- The escalated entry of a masked fault. -/
def State.maskedEntry (s : State) (c : BitVec 12) (x : Exc) : Entry :=
  { s.faultEntry c x with h := (s.faultEntry c x).h + 1, orig := x.code, code := 0x0C }

theorem State.fault_to_m (c : BitVec 12) (s : State) (x : Exc) (hr : (s.carrel c).rescue = false)
    (hm : causeStep x.code ≤ ((s.carrel c).mask (s.carrel c).level).toNat)
    (hl : causeLevel x.code (s.carrel c).level = 1) (hs : (s.carrel c).seals.length < 4)
    (hx : (s.carrel c).xspValid 2 = true) :
    let t := s.fault c x
    let a := shelfBase c.toNat + 64 * ((s.carrel c).xspMTop.toNat - 1)
    t.le (a + 16) 8 = 0x0C + 256 * x.code.toNat ∧ t.le (a + 40) 8 = x.detail.toNat ∧
      (t.carrel c).level = 2 ∧ (t.carrel c).pc = vecAddr (s.carrel c).xvecM ∧ (t.carrel c).rescue = false := by
  intro t a
  have hh : (s.maskedEntry c x).h = (2 : BitVec 2).toNat := congrArg (· + 1) hl
  have hsettle := Carrel.settle_of_room (k := s.carrel c) hh (Or.inr rfl) hs hx
  obtain ⟨hlvl, h3⟩ := Entry.lvl_of hh (Or.inr rfl)
  have hd : (s.maskedEntry c x).detail = some x.detail := rfl
  have ht : t = s.enterAs c (s.maskedEntry c x) := by
    rw [show t = _ from State.fault_masked hr hm, State.enter_eq]
    exact congrArg _ hsettle
  have ha : s.frameAt c (s.maskedEntry c x) = a := by
    rw [State.frameAt, if_neg h3, hlvl, Carrel.xspValid_top hx, Nat.mul_comm]
    rfl
  have hk : t.carrel c = (s.carrel c).entered (s.maskedEntry c x) := by
    rw [ht, State.enterAs_carrel hd, State.enteredCarrel, if_neg h3]
  rw [hk, Carrel.entered_eq hlvl (Or.inr rfl) h3 rfl rfl rfl, ht, ← ha]
  exact ⟨(State.enterAs_le hd 2 (by decide)).trans (masked_cause _), State.enterAs_le hd 5 (by decide), rfl, rfl, hr⟩

theorem State.fault_to_rescue (c : BitVec 12) (s : State) (x : Exc) (hr : (s.carrel c).rescue = false)
    (hm : causeStep x.code ≤ ((s.carrel c).mask (s.carrel c).level).toNat)
    (hl : causeLevel x.code (s.carrel c).level = 2) :
    let k := s.carrel c
    let t := s.fault c x
    let a := shelfBase c.toNat + 196096
    t.le (a + 16) 8 = 0x0C + 256 * x.code.toNat ∧ t.le (a + 40) 8 = x.detail.toNat ∧
      (t.carrel c).level = 2 ∧ (t.carrel c).pc = vecAddr k.rescueVec ∧ (t.carrel c).rescue = true ∧
      (t.carrel c).bankR = Bank.rescue ∧ (t.carrel c).rescueSeal = k.sealNext ∧ (t.carrel c).seals = k.seals := by
  intro k t a
  have hh : (s.maskedEntry c x).h = 3 := congrArg (· + 1) hl
  have hsettle : k.settle (s.maskedEntry c x) = s.maskedEntry c x := by
    rw [Carrel.settle, hh]
    rfl
  have hd : (s.maskedEntry c x).detail = some x.detail := rfl
  have ht : t = s.enterAs c (s.maskedEntry c x) := by
    rw [show t = _ from State.fault_masked hr hm, State.enter_eq]
    exact congrArg _ hsettle
  have ha : s.frameAt c (s.maskedEntry c x) = a := by
    rw [State.frameAt, if_pos hh]
    rfl
  have hk : t.carrel c = k.rescued (s.maskedEntry c x) := by
    rw [ht, State.enterAs_carrel hd, State.enteredCarrel, if_pos hh]
  have hlvl : (s.maskedEntry c x).lvl = 2 := by rw [Entry.lvl, hh]; rfl
  rw [hk, ht, ← ha]
  refine ⟨(State.enterAs_le hd 2 (by decide)).trans (masked_cause _), State.enterAs_le hd 5 (by decide), hlvl, rfl,
    ?_, if_pos hh, rfl, rfl⟩
  rw [Carrel.rescued, Carrel.raised, decide_eq_true hh, Bool.or_true]

/-- Settles O10: the frame is eight words stored below the top of the handler's exception stack, and the carrel that
the entry writes is read off its one equation. -/
theorem faultEntry : Obligations.FaultEntry := by
  unfold Obligations.FaultEntry
  exact ⟨State.fault_entered, State.fault_halts, fun c s x hr hm =>
    ⟨State.fault_to_m c s x hr hm, State.fault_to_rescue c s x hr hm⟩⟩

end Sys2Proof.Machine
end

section
/-!
# RETX

What a return takes from its frame, and that a return straight after a fault entry gives back what the entry saved.
-/
namespace Sys2Proof

theorem Tab.erase_insert {α : Type} (t : Tab α) (n : Nat) (x : α) : Tab.erase (Tab.insert t n x) n = Tab.erase t n := by
  induction t with
  | nil => simp [Tab.insert, Tab.erase]
  | cons p t ih =>
    obtain ⟨k, v⟩ := p
    by_cases hk : n = k
    · simp [Tab.insert, Tab.erase, hk]
    · by_cases hlt : n < k
      · simp [Tab.insert, Tab.erase, hk, hlt]
      · simp [Tab.insert, Tab.erase, hk, hlt, ih]

theorem Tab.insert_insert {α : Type} (t : Tab α) (n : Nat) (x y : α) :
    Tab.insert (Tab.insert t n x) n y = Tab.insert t n y := by
  induction t with
  | nil => simp [Tab.insert]
  | cons p t ih =>
    obtain ⟨k, v⟩ := p
    by_cases hk : n = k
    · simp [Tab.insert, hk]
    · by_cases hlt : n < k
      · simp [Tab.insert, hk, hlt]
      · simp [Tab.insert, hk, hlt, ih]

/-- Writing one place twice leaves the second value: where the first is not the default, it has an entry to replace. -/
theorem Tab.set_set {α : Type} [DecidableEq α] {d : α} (t : Tab α) (n : Nat) {x : α} (y : α) (hx : x ≠ d) :
    Tab.set d (Tab.set d t n x) n y = Tab.set d t n y := by
  unfold Tab.set
  rw [if_neg hx, Tab.erase_insert, Tab.insert_insert]

namespace Machine

/-- A carrel whose I-cache has been invalidated is not the one that a reset leaves. -/
theorem Carrel.ne_reset {k : Carrel} (h : k.icInit = false) : k ≠ Carrel.reset := fun e => by
  rw [e] at h
  cases h

theorem State.setCarrel_setCarrel (s : State) (c : BitVec 12) {k : Carrel} (j : Carrel) (h : k.icInit = false) :
    (s.setCarrel c k).setCarrel c j = s.setCarrel c j := by
  simp only [State.setCarrel, Tab.set_set _ _ _ (Carrel.ne_reset h)]

theorem Carrel.icInit_of_idle {k : Carrel} (h : k.idle = true) : k.icInit = false := by
  simp only [Carrel.idle, Bool.and_eq_true, Bool.not_eq_true'] at h
  exact h.1.2

/-- Popping nothing leaves the carrel's registers as they were. -/
theorem State.popD_zero (s : State) (c : BitVec 12) : (s.popD c 0).2 = s.setCarrel c (s.carrel c) := by
  have hk : (s.popD c 0).2.carrel c = s.carrel c := (s.popD_pops c 0).carrel.trans (PopsD.refl c s).carrel.symm
  rw [State.popD_state, State.carrel_setCarrel_same] at hk
  rw [State.popD_state, hk]

/-- The carrel after RETX has taken `pc`, `status` and the repeat count `cnt` from the frame. -/
def Carrel.returned (k : Carrel) (pc status cnt : Word) : Carrel :=
  let repk := fieldN status 2 2
  let k1 := k.setMask k.level (field status 4 3)
  let k2 : Carrel := if k.rescue then k1 else
    match k.seals with
    | sl :: rest =>
      let k' := { k1 with seals := rest }
      if sl.shadow then k'.setShadow sl.hlvl { k'.shadow sl.hlvl with busy := false }
      else k'.setXspTop k.level ((k.xsp k.level).1 + 1)
    | [] => k1
  { k2 with
    rescue := false, level := field status 0 2, dbank := field status 12 2
    pc := if repk = 1 ∨ repk = 2 then evenAddr pc + 2 else evenAddr pc
    rep := if repk = 1 ∨ repk = 2 then
        some { repx := decide (repk = 2), addr := evenAddr pc, count := cnt
               parcel := if repk = 1 then some 0x050C else none }
      else none }

theorem Carrel.returned_icInit (k : Carrel) (pc status cnt : Word) : (k.returned pc status cnt).icInit = k.icInit := by
  have hmask (l : BitVec 2) (m : BitVec 3) : (k.setMask l m).icInit = k.icInit := by
    unfold Carrel.setMask
    split
    · rfl
    · split <;> rfl
  unfold Carrel.returned
  dsimp only
  split
  · exact hmask _ _
  · split
    · split
      · unfold Carrel.setShadow
        split <;> exact hmask _ _
      · unfold Carrel.setXspTop
        split <;> exact hmask _ _
    · exact hmask _ _

/-- RETX whose frame passes the checks, with no results to move. -/
theorem retx_returns {c : BitVec 12} {s : State} (hr : Ready s c 4) (hl : (s.carrel c).level ≠ 0)
    (hc : s.retCheck c = none) (hn : fieldN (s.retFrame c).2.1 8 2 = 3 → fieldN (s.retFrame c).2.1 10 2 = 0) :
    Sys2Proof.Machine.exec (.retx c) s = .next (s.setCarrel c
      ((s.carrel c).returned (s.retFrame c).1 (s.retFrame c).2.1 (s.retFrame c).2.2.1).retired) := by
  have hi := Carrel.icInit_of_idle hr.1
  have hres : (if fieldN (s.retFrame c).2.1 8 2 = 3 then fieldN (s.retFrame c).2.1 10 2 else 0) = 0 := by
    split
    · next e => exact hn e
    · rfl
  change execRetx c s = _
  rw [execRetx, runInstr_ready _ hr]
  simp only [hl, if_false, hc, hres]
  change Host.Outcome.next (((s.popD c 0).2.modCarrel c fun k =>
    k.returned (s.retFrame c).1 (s.retFrame c).2.1 (s.retFrame c).2.2.1).modCarrel c Carrel.retired) = _
  rw [State.popD_zero, State.modCarrel, State.modCarrel, State.carrel_setCarrel_same, State.carrel_setCarrel_same,
    State.setCarrel_setCarrel _ _ _ ((Carrel.returned_icInit ..).trans hi), State.setCarrel_setCarrel _ _ _ hi]

theorem retx_raises {c : BitVec 12} {s : State} (hr : Ready s c 4) {r : Nat} (hl : (s.carrel c).level ≠ 0)
    (hc : s.retCheck c = some r) : Sys2Proof.Machine.exec (.retx c) s =
      .next (s.fault c { code := 0x0A, detail := BitVec.ofNat 64 r }) := by
  change execRetx c s = _
  rw [execRetx, runInstr_ready _ hr]
  simp only [hl, if_false, hc]
  rfl

theorem retx_at_u {c : BitVec 12} {s : State} (hr : Ready s c 4) (hl : (s.carrel c).level = 0) :
    Sys2Proof.Machine.exec (.retx c) s = .next (s.fault c { code := 0x02, detail := 0 }) := by
  change execRetx c s = _
  rw [execRetx, runInstr_ready _ hr]
  simp only [hl, if_true]
  rfl

/-! ### What the return restores -/

theorem Carrel.setMask_eq (k : Carrel) {l : BitVec 2} (m : BitVec 3) (h0 : l ≠ 0) :
    k.setMask l m = { k with
      maskS := if l = 1 then m else k.maskS, maskM := if l = 1 then k.maskM else m } := by
  unfold Carrel.setMask
  by_cases h1 : l = 1
  · simp only [h1, if_true, show ¬ (1 : BitVec 2) = 0 by decide, if_false]
  · simp only [h0, h1, if_false]

theorem Carrel.setXspTop_eq (k : Carrel) (l : BitVec 2) (t : BitVec 12) :
    k.setXspTop l t = { k with
      xspSTop := if l = 1 then t else k.xspSTop, xspMTop := if l = 1 then k.xspMTop else t } := by
  unfold Carrel.setXspTop
  by_cases h1 : l = 1
  · simp only [h1, if_true]
  · simp only [h1, if_false]

theorem Carrel.setShadow_eq (k : Carrel) (l : BitVec 2) (x : Shadow) :
    k.setShadow l x = { k with shdS := if l = 1 then x else k.shdS, shdM := if l = 1 then k.shdM else x } := by
  unfold Carrel.setShadow
  by_cases h1 : l = 1
  · simp only [h1, if_true]
  · simp only [h1, if_false]

/-- The carrel that `Carrel.returned` gives, field by field, but for the shadow sets. -/
theorem Carrel.returned_eq (k : Carrel) (pc status cnt : Word) (h0 : k.level ≠ 0)
    (hs : k.rescue = false → k.seals ≠ []) :
    let repk : BitVec 2 := field status 2 2
    let shadowed := !k.rescue && (k.seals.head?.map fun (x : Seal) => x.shadow).getD false
    let low := k.level = 1
    let j := k.returned pc status cnt
    j = { k with
      level := field status 0 2, dbank := field status 12 2, rescue := false
      maskS := if low then field status 4 3 else k.maskS
      maskM := if low then k.maskM else field status 4 3
      seals := if k.rescue then k.seals else k.seals.tail
      xspSTop := if k.rescue = false ∧ shadowed = false ∧ low then k.xspSTop + 1 else k.xspSTop
      xspMTop := if k.rescue = false ∧ shadowed = false ∧ ¬ low then k.xspMTop + 1 else k.xspMTop
      pc := if repk = 1 ∨ repk = 2 then evenAddr pc + 2 else evenAddr pc
      rep := if repk = 1 ∨ repk = 2 then
          some { repx := decide (repk = 2), addr := evenAddr pc, count := cnt
                 parcel := if repk = 1 then some 0x050C else none }
        else none
      shdS := j.shdS, shdM := j.shdM } ∧
    (shadowed = false → j.shdS = k.shdS ∧ j.shdM = k.shdM) ∧
    (shadowed = true → ∀ x ∈ k.seals.head?,
      j.shdS = (if x.hlvl = 1 then { k.shdS with busy := false } else k.shdS) ∧
      j.shdM = (if x.hlvl = 1 then k.shdM else { k.shdM with busy := false })) := by
  have h1 : (fieldN status 2 2 = 1) = (field status 2 2 = (1 : BitVec 2)) :=
    propext (BitVec.toNat_inj (x := field status 2 2) (y := 1#2))
  have h2 : (fieldN status 2 2 = 2) = (field status 2 2 = (2 : BitVec 2)) :=
    propext (BitVec.toNat_inj (x := field status 2 2) (y := 2#2))
  have hmask (m : BitVec 3) := k.setMask_eq m h0
  unfold Carrel.returned
  simp only [h1, h2, hmask, Carrel.setXspTop_eq, Carrel.setShadow_eq, Carrel.xsp, Carrel.shadow]
  cases hr : k.rescue with
  | true => simp
  | false =>
    cases hseals : k.seals with
    | nil => exact absurd hseals (hs hr)
    | cons sl rest =>
      cases hsh : sl.shadow with
      | false =>
        by_cases hl : k.level = 1#2
        · simp [hsh, hl]
        · simp [hsh, hl]
      | true =>
        by_cases hh : sl.hlvl = 1#2
        · simp [hsh, hh]
        · simp [hsh, hh]

theorem State.seals_of_retCheck {s : State} {c : BitVec 12} (hc : s.retCheck c = none) :
    (s.carrel c).rescue = false → (s.carrel c).seals ≠ [] := by
  intro hr hs
  rw [State.retCheck] at hc
  simp [hr, hs] at hc

/-- Settles O22: a return reads four words of the frame or of the shadow set, and writes one carrel. -/
theorem returnFromException : Obligations.ReturnFromException := by
  unfold Obligations.ReturnFromException
  intro c s hr
  refine ⟨retx_at_u hr, fun r hl hc => retx_raises hr hl hc, fun hl hc hn => ?_⟩
  have hn' : fieldN (s.retFrame c).2.1 8 2 = 3 → fieldN (s.retFrame c).2.1 10 2 = 0 := fun e =>
    congrArg BitVec.toNat (hn (BitVec.eq_of_toNat_eq e))
  obtain ⟨hj, hfree, hshadow⟩ :=
    Carrel.returned_eq _ (s.retFrame c).1 (s.retFrame c).2.1 (s.retFrame c).2.2.1 hl (State.seals_of_retCheck hc)
  refine ⟨_, retx_returns hr hl hc hn', ?_, hfree, hshadow⟩
  rw [evenAddr_eq] at hj
  exact congrArg Carrel.retired hj

end Machine
end Sys2Proof
end

section
/-!
# The status word, and a return straight after a fault
-/
namespace Sys2Proof.Machine

/-! ### Fields of a word -/

theorem place_toNat {n : Nat} (x : BitVec n) (lo : Nat) (h : lo + n ≤ 64) : (place x lo).toNat = 2 ^ lo * x.toNat := by
  have hx : 2 ^ lo * x.toNat < 2 ^ 64 := calc
    2 ^ lo * x.toNat < 2 ^ lo * 2 ^ n := Nat.mul_lt_mul_of_pos_left x.isLt (Nat.two_pow_pos lo)
    _ = 2 ^ (lo + n) := (Nat.pow_add ..).symm
    _ ≤ 2 ^ 64 := Nat.pow_le_pow_right (by decide) h
  have hs : x.toNat < 2 ^ 64 := Nat.lt_of_lt_of_le x.isLt (Nat.pow_le_pow_right (by decide) (by omega))
  rw [place, BitVec.toNat_shiftLeft, BitVec.toNat_setWidth, Nat.mod_eq_of_lt hs, Nat.shiftLeft_eq, Nat.mul_comm,
    Nat.mod_eq_of_lt hx]

/-- A field placed above all bits of a word adds to it. -/
theorem or_place_toNat {n : Nat} (w : Word) (x : BitVec n) (lo : Nat) (hw : w.toNat < 2 ^ lo) (h : lo + n ≤ 64) :
    (w ||| place x lo).toNat = w.toNat + 2 ^ lo * x.toNat := by
  rw [BitVec.toNat_or, place_toNat x lo h, Nat.or_comm, ← Nat.two_pow_add_eq_or_of_lt hw, Nat.add_comm]

theorem getLsbD_of_div {n : Nat} {w : BitVec n} {i : Nat} {b : Bool} (h : w.toNat / 2 ^ i % 2 = (bit b).toNat) :
    w.getLsbD i = b := by
  rw [BitVec.getLsbD, Nat.testBit_eq_decide_div_mod_eq, h]
  cases b <;> rfl

theorem extractLsb'_of_div {n k : Nat} {w : BitVec n} {lo : Nat} {x : BitVec k} (h : w.toNat / 2 ^ lo % 2 ^ k = x.toNat) :
    w.extractLsb' lo k = x := by
  apply BitVec.eq_of_toNat_eq
  rw [BitVec.extractLsb'_toNat, Nat.shiftRight_eq_div_pow, h]

theorem statusWord_toNat (plvl repk : BitVec 2) (pmask : BitVec 3) (imprecise resumable more : Bool)
    (kind nres pdbank : BitVec 2) (tag : BitVec 16) :
    (statusWord plvl repk pmask imprecise kind nres pdbank resumable more tag).toNat =
      plvl.toNat + 4 * repk.toNat + 16 * pmask.toNat + 128 * (bit imprecise).toNat + 256 * kind.toNat +
        1024 * nres.toNat + 4096 * pdbank.toNat + 16384 * (bit resumable).toNat + 32768 * (bit more).toNat +
        65536 * tag.toNat := by
  have h1 := plvl.isLt; have h2 := repk.isLt; have h3 := pmask.isLt; have h4 := (bit imprecise).isLt; have h5 := kind.isLt
  have h6 := nres.isLt; have h7 := pdbank.isLt; have h8 := (bit resumable).isLt; have h9 := (bit more).isLt
  unfold statusWord
  have e0 := place_toNat plvl 0 (by decide)
  have e1 := or_place_toNat _ repk 2 (by rw [e0]; omega) (by decide)
  have e2 := or_place_toNat _ pmask 4 (by rw [e1, e0]; omega) (by decide)
  have e3 := or_place_toNat _ (bit imprecise) 7 (by rw [e2, e1, e0]; omega) (by decide)
  have e4 := or_place_toNat _ kind 8 (by rw [e3, e2, e1, e0]; omega) (by decide)
  have e5 := or_place_toNat _ nres 10 (by rw [e4, e3, e2, e1, e0]; omega) (by decide)
  have e6 := or_place_toNat _ pdbank 12 (by rw [e5, e4, e3, e2, e1, e0]; omega) (by decide)
  have e7 := or_place_toNat _ (bit resumable) 14 (by rw [e6, e5, e4, e3, e2, e1, e0]; omega) (by decide)
  have e8 := or_place_toNat _ (bit more) 15 (by rw [e7, e6, e5, e4, e3, e2, e1, e0]; omega) (by decide)
  have e9 := or_place_toNat _ tag 16 (by rw [e8, e7, e6, e5, e4, e3, e2, e1, e0]; omega) (by decide)
  rw [e9, e8, e7, e6, e5, e4, e3, e2, e1, e0]
  omega

theorem statusWord_fields (plvl repk : BitVec 2) (pmask : BitVec 3) (imprecise resumable more : Bool)
    (kind nres pdbank : BitVec 2) (tag : BitVec 16) :
     let w := statusWord plvl repk pmask imprecise kind nres pdbank resumable more tag
     w.extractLsb' 0 2 = plvl ∧ w.extractLsb' 2 2 = repk ∧ w.extractLsb' 4 3 = pmask ∧ w.getLsbD 7 = imprecise ∧
     w.extractLsb' 8 2 = kind ∧ w.extractLsb' 10 2 = nres ∧ w.extractLsb' 12 2 = pdbank ∧ w.getLsbD 14 = resumable ∧
     w.getLsbD 15 = more ∧ w.extractLsb' 16 16 = tag ∧ w.extractLsb' 32 32 = 0 := by
  intro w
  have hw : w.toNat = _ := statusWord_toNat ..
  have h1 := plvl.isLt; have h2 := repk.isLt; have h3 := pmask.isLt; have h4 := (bit imprecise).isLt; have h5 := kind.isLt
  have h6 := nres.isLt; have h7 := pdbank.isLt; have h8 := (bit resumable).isLt; have h9 := (bit more).isLt
  have h10 := tag.isLt
  refine ⟨extractLsb'_of_div ?_, extractLsb'_of_div ?_, extractLsb'_of_div ?_, getLsbD_of_div ?_, extractLsb'_of_div ?_,
    extractLsb'_of_div ?_, extractLsb'_of_div ?_, getLsbD_of_div ?_, getLsbD_of_div ?_, extractLsb'_of_div ?_,
    extractLsb'_of_div (Eq.trans ?_ BitVec.toNat_zero.symm)⟩
  all_goals
    rw [hw]
    omega

/-! ### The return -/

/-- The slot words of a frame at slot `8 * n`. -/
theorem State.slot_frame (s : State) (c : BitVec 12) (n i : Nat) (hn : n < 3072) (hi : i < 8) :
    s.slot c (n * 8 + i) = word (s.le (shelfBase c.toNat + 64 * n + 8 * i) 8) := by
  rw [State.slot, if_pos (by change _ < 24576; omega), show 8 * (n * 8 + i) = 64 * n + 8 * i by omega, Nat.add_assoc]

/-- RETX straight after a fault entry reads back what the entry stored. -/
theorem State.retFrame_fault {c : BitVec 12} {s : State} {x : Exc} {h : BitVec 2} (he : (s.carrel c).entersAt x.code h) :
    (s.fault c x).retFrame c = ((s.carrel c).resumePc,
      statusWord (s.carrel c).level (repKind (s.carrel c).rep) ((s.carrel c).mask h) false 0 0 (s.carrel c).dbank
        (decide (x.code ≠ 0x09)) false (s.carrel c).sealNext,
      ((s.carrel c).rep.map fun r => r.count).getD 0,
      ({ s.carrel c with level := h, dbank := h } : Carrel).depthWord) := by
  obtain ⟨h0, h1, -, -, h4, -, h6, -, -, hk, -, -⟩ := State.fault_entered c s x h he
  obtain ⟨hr, -, -, -, hx⟩ := he
  have htop : (((s.fault c x).carrel c).xsp h).1.toNat = ((s.carrel c).xsp h).1.toNat - 1 := by
    rw [hk, ← Carrel.xspValid_top hx]
    unfold Carrel.xsp
    split <;> rfl
  have hlt : ((s.carrel c).xsp h).1.toNat - 1 < 3072 := by
    have := ((s.carrel c).xsp h).1.isLt
    simp only [Carrel.xspValid, Bool.and_eq_true, decide_eq_true_eq] at hx
    omega
  have hl : ((s.fault c x).carrel c).level = h := by rw [hk]
  have hres : ((s.fault c x).carrel c).rescue = false := by rw [hk]; exact hr
  have hseals : ((s.fault c x).carrel c).seals = { tag := (s.carrel c).sealNext, shadow := false, hlvl := h } ::
      (s.carrel c).seals := by rw [hk]
  unfold State.retFrame
  simp only [hres, hseals, hl, htop, Bool.false_eq_true, if_false]
  have hword (i : Nat) (hi : i < 8) {w : Word}
      (e : (s.fault c x).le (shelfBase c.toNat + 64 * (((s.carrel c).xsp h).1.toNat - 1) + 8 * i) 8 = w.toNat) :
      (s.fault c x).slot c ((((s.carrel c).xsp h).1.toNat - 1) * 8 + i) = w := by
    rw [State.slot_frame _ _ _ i hlt hi, e, word_toNat]
  have e0 : (s.fault c x).slot c ((((s.carrel c).xsp h).1.toNat - 1) * 8) = _ := hword 0 (by decide) h0
  rw [e0, hword 1 (by decide) h1, hword 4 (by decide) h4, hword 6 (by decide) h6]

/-- The depths in the frame are the ones that the return finds. -/
theorem State.depthWord_fault {c : BitVec 12} {s : State} {x : Exc} {h : BitVec 2} (he : (s.carrel c).entersAt x.code h) :
    ((s.fault c x).carrel c).depthWord = ({ s.carrel c with level := h, dbank := h } : Carrel).depthWord := by
  obtain ⟨-, -, -, -, -, -, -, -, -, hk, -, -⟩ := State.fault_entered c s x h he
  have hbank (id : BankId) : ((s.fault c x).carrel c).bank id = (s.carrel c).bank id := by
    rw [hk]
    cases id <;> rfl
  rw [Carrel.depthWord, Carrel.depthWord, Carrel.dataBank, Carrel.retBank]
  simp only [hbank]
  rw [hk]
  rfl

/-- The frame of a fault that is not an overrun passes the checks of the return. -/
theorem State.retCheck_fault {c : BitVec 12} {s : State} {x : Exc} {h : BitVec 2} (he : (s.carrel c).entersAt x.code h)
    (hl : (s.carrel c).level ≤ h) (hx : x.code ≠ 0x09) : (s.fault c x).retCheck c = none := by
  obtain ⟨-, -, -, -, -, -, -, -, -, hk, -, -⟩ := State.fault_entered c s x h he
  have hr : ((s.fault c x).carrel c).rescue = false := by rw [hk]; exact he.1
  have hseals : ((s.fault c x).carrel c).seals = { tag := (s.carrel c).sealNext, shadow := false, hlvl := h } ::
      (s.carrel c).seals := by rw [hk]
  have hlev : ((s.fault c x).carrel c).level = h := by rw [hk]
  have hnlt : ¬ h < (s.carrel c).level := BitVec.not_lt.2 hl
  obtain ⟨f0, -, -, -, f8, f10, -, f14, -, f16, -⟩ := statusWord_fields (s.carrel c).level (repKind (s.carrel c).rep)
    ((s.carrel c).mask h) false (decide (x.code ≠ 0x09)) false 0 0 (s.carrel c).dbank (s.carrel c).sealNext
  unfold State.retCheck
  simp only [State.retFrame_fault he, hr, hseals, hlev, State.depthWord_fault he, retDataDepth, fieldN, field, f0, f8, f10,
    f14, f16]
  simp [hnlt]
  exact hx

/-- The status word of the frame that a fault pushes. -/
def Carrel.faultStatus (k : Carrel) (code : BitVec 8) (h : BitVec 2) : Word :=
  statusWord k.level (repKind k.rep) (k.mask h) false 0 0 k.dbank (decide (code ≠ 0x09)) false k.sealNext

theorem evenAddr_of_even {x : Word} (h : x.toNat % 2 = 0) : evenAddr x = x := by
  rw [evenAddr_eq, Nat.div_mul_cancel (Nat.dvd_of_mod_eq_zero h), BitVec.ofNat_toNat, BitVec.setWidth_eq]

/-- The carrel after a fault has entered at level `h`. -/
def Carrel.faulted (k : Carrel) (h : BitVec 2) : Carrel :=
  { k.abandon with
    level := h, dbank := h, rep := none
    sealNext := nextSeal k.sealNext, seals := { tag := k.sealNext, shadow := false, hlvl := h } :: k.seals
    xspSTop := if h = 1 then k.xspSTop - 1 else k.xspSTop
    xspMTop := if h = 1 then k.xspMTop else k.xspMTop - 1
    pc := if h = 1 then vecAddr k.xvecS else vecAddr k.xvecM }

theorem Carrel.faulted_level_ne {k : Carrel} {h : BitVec 2} (h12 : h = 1 ∨ h = 2) : (k.faulted h).level ≠ 0 := by
  change h ≠ 0
  rcases h12 with rfl | rfl <;> decide

/-- What the return makes of the repeat: it stands where the frame says, or there is none. -/
theorem Carrel.repeat_restored {k : Carrel} (heven : k.pc.toNat % 2 = 0)
    (hrep : ∀ r, k.rep = some r → r.addr.toNat % 2 = 0 ∧ k.pc = r.addr + 2 ∧
      r.parcel = if r.repx then none else some 0x050C) :
    let again := repKind k.rep = 1 ∨ repKind k.rep = 2
    evenAddr k.resumePc = k.resumePc ∧ (if again then k.resumePc + 2 else k.resumePc) = k.pc ∧
      (if again then
          some ({ repx := decide (repKind k.rep = 2), addr := k.resumePc, count := (k.rep.map fun r => r.count).getD 0
                  parcel := if repKind k.rep = 1 then some 0x050C else none } : Repeat)
        else none) = k.rep := by
  unfold Carrel.resumePc
  cases hr : k.rep with
  | none => exact ⟨evenAddr_of_even heven, rfl, rfl⟩
  | some r =>
    obtain ⟨ha, hpc, hp⟩ := hrep r hr
    refine ⟨evenAddr_of_even ha, ?_, ?_⟩
    · rw [hpc]
      cases h : r.repx <;> simp [repKind, h]
    · obtain ⟨repx, addr, count, parcel⟩ := r
      rw [show parcel = if repx then none else some 0x050C from hp]
      cases repx <;> rfl

/-- The return undoes the entry, field by field. -/
theorem Carrel.returned_faulted {k : Carrel} {h : BitVec 2} {code : BitVec 8} (h12 : h = 1 ∨ h = 2)
    (hr : k.rescue = false) (heven : k.pc.toNat % 2 = 0)
    (hrep : ∀ r, k.rep = some r → r.addr.toNat % 2 = 0 ∧ k.pc = r.addr + 2 ∧
      r.parcel = if r.repx then none else some 0x050C) :
    (k.faulted h).returned k.resumePc (k.faultStatus code h) ((k.rep.map fun r => r.count).getD 0) =
      { k.abandon with sealNext := nextSeal k.sealNext } := by
  obtain ⟨f0, f2, f4, -, -, -, f12, -, -, -, -⟩ := statusWord_fields k.level (repKind k.rep) (k.mask h) false
    (decide (code ≠ 0x09)) false 0 0 k.dbank k.sealNext
  obtain ⟨hpc, hat, hre⟩ := Carrel.repeat_restored heven hrep
  have h0 : (k.faulted h).level ≠ 0 := Carrel.faulted_level_ne h12
  obtain ⟨hj, hfree, -⟩ := Carrel.returned_eq (k.faulted h) k.resumePc (k.faultStatus code h)
    ((k.rep.map fun r => r.count).getD 0) h0 (fun _ => List.cons_ne_nil _ _)
  obtain ⟨hS, hM⟩ := hfree (by simp [Carrel.faulted, Carrel.abandon, hr])
  rw [hj, hS, hM]
  simp only [field, Carrel.faultStatus, f0, f2, f4, f12, hpc, hat, hre]
  rcases h12 with rfl | rfl
  · simp [Carrel.faulted, Carrel.abandon, Carrel.mask, hr]
  · simp [Carrel.faulted, Carrel.abandon, Carrel.mask, hr]

/-- Settles O23: the return reads the frame that the entry stored, and each of its fields is what the carrel held. -/
theorem returnUndoesFaultEntry : Obligations.ReturnUndoesFaultEntry := by
  unfold Obligations.ReturnUndoesFaultEntry
  intro c s x h he hl hx heven _ hrep hready
  have h12 := (State.fault_enters he).2.2
  have hframe := State.retFrame_fault he
  obtain ⟨-, -, -, -, -, -, -, -, hb, hk, ht, ho⟩ := State.fault_entered c s x h he
  have hk' : (s.fault c x).carrel c = (s.carrel c).faulted h := hk
  have h0 : ((s.fault c x).carrel c).level ≠ 0 := by
    rw [hk']
    exact Carrel.faulted_level_ne h12
  have hn : fieldN ((s.fault c x).retFrame c).2.1 8 2 = 3 → fieldN ((s.fault c x).retFrame c).2.1 10 2 = 0 := by
    rw [hframe]
    obtain ⟨-, -, -, -, -, f10, -⟩ := statusWord_fields (s.carrel c).level (repKind (s.carrel c).rep)
      ((s.carrel c).mask h) false (decide (x.code ≠ 0x09)) false 0 0 (s.carrel c).dbank (s.carrel c).sealNext
    exact fun _ => congrArg BitVec.toNat f10
  refine ⟨_, retx_returns hready h0 (State.retCheck_fault he hl hx) hn, ?_, fun d hd => ?_, fun b hbb => hb b hbb, ?_⟩
  · have hret : ((s.carrel c).faulted h).returned _ ((s.carrel c).faultStatus x.code h) _ = _ :=
      Carrel.returned_faulted h12 he.1 heven hrep
    rw [State.carrel_setCarrel_same, hframe, hk', ← Carrel.faultStatus, hret]
    simp only [Carrel.retired, Carrel.abandon]
  · rw [State.carrel_setCarrel_other _ _ hd, ho d hd]
  · rw [State.setCarrel, ht]

end Sys2Proof.Machine
end

section
/-!
# SYS and GATE
-/
namespace Sys2Proof.Machine

/-! ### Entries with an own target -/

/-- The carrel that an entry at level 1 or 2 leaves. -/
theorem Carrel.entered_all {k : Carrel} {e : Entry} {h : BitVec 2} (hl : e.lvl = h) (h12 : h = 1 ∨ h = 2)
    (h3 : e.h ≠ 3) :
    k.entered e = { k.abandon with
      level := h, dbank := if e.keepBank then k.dbank else h, rep := none
      sealNext := nextSeal k.sealNext, seals := { tag := k.sealNext, shadow := false, hlvl := h } :: k.seals
      maskS := if h = 1 then e.step.getD k.maskS else k.maskS
      maskM := if h = 1 then k.maskM else e.step.getD k.maskM
      xspSTop := if h = 1 then k.xspSTop - 1 else k.xspSTop
      xspMTop := if h = 1 then k.xspMTop else k.xspMTop - 1
      pc := e.target.getD (if h = 1 then vecAddr k.xvecS else vecAddr k.xvecM) } := by
  have h0 : h ≠ 0 := by rcases h12 with rfl | rfl <;> decide
  have hrescue : (k.rescue || decide (e.h = 3)) = k.rescue := by rw [decide_eq_false h3, Bool.or_false]
  rw [Carrel.entered, Carrel.raised, hl, if_neg h3, hrescue]
  cases e.step with
  | none =>
    simp only [Carrel.setXspTop_eq, Carrel.xsp, Carrel.abandon, Option.getD_none]
    rcases h12 with rfl | rfl
    · simp only [if_true]
    · simp only [show ¬ (2 : BitVec 2) = 1 by decide, if_false]
  | some st =>
    simp only [Carrel.setXspTop_eq, Carrel.setMask_eq _ _ h0, Carrel.xsp, Carrel.abandon, Option.getD_some]
    rcases h12 with rfl | rfl
    · simp only [if_true]
    · simp only [show ¬ (2 : BitVec 2) = 1 by decide, if_false]

/-- An entry that its level has room for. -/
theorem State.enter_room {s : State} {c : BitVec 12} {e : Entry} {h : BitVec 2} (he : e.h = h.toNat)
    (h12 : h = 1 ∨ h = 2) (hs : (s.carrel c).seals.length < if h = 1 then 3 else 4)
    (hx : (s.carrel c).xspValid h = true) :
    s.enter c e = s.enterAs c e ∧
      s.frameAt c e = shelfBase c.toNat + 64 * (((s.carrel c).xsp h).1.toNat - 1) ∧
      s.enteredCarrel c e = (s.carrel c).entered e ∧ e.lvl = h ∧ e.h ≠ 3 := by
  obtain ⟨hl, h3⟩ := Entry.lvl_of he h12
  refine ⟨?_, ?_, if_neg h3, hl, h3⟩
  · rw [State.enter_eq, Carrel.settle_of_room he h12 hs hx]
  · rw [State.frameAt, if_neg h3, hl, Carrel.xspValid_top hx, Nat.mul_comm]

/-- The depths depend on the banks and on which of them are in use. -/
theorem Carrel.depthWord_congr {k j : Carrel} (hb : ∀ id, j.bank id = k.bank id) (hd : j.dataBank = k.dataBank)
    (hr : j.retBank = k.retBank) : j.depthWord = k.depthWord := by
  rw [Carrel.depthWord, Carrel.depthWord, hb, hb, hd, hr]

theorem Carrel.depthWord_sealed (k : Carrel) (l : BitVec 2) (n : BitVec 16) :
    ({ k with level := l, sealNext := n } : Carrel).depthWord = ({ k with level := l } : Carrel).depthWord :=
  Carrel.depthWord_congr (fun id => by cases id <;> rfl) rfl rfl

theorem Carrel.raised_depthWord_kept {k : Carrel} {e : Entry} {h : BitVec 2} (hl : e.lvl = h) (h3 : e.h ≠ 3)
    (hk : e.keepBank = true) : (k.raised e).depthWord = ({ k with level := h } : Carrel).depthWord := by
  subst hl
  have hres : (k.raised e).rescue = k.rescue := by rw [Carrel.raised, decide_eq_false h3]; exact Bool.or_false _
  refine Carrel.depthWord_congr (fun id => ?_) ?_ ?_
  · cases id
    · rfl
    · rfl
    · rfl
    · exact if_neg h3
  · rw [Carrel.dataBank, hres]
    exact congrArg (fun d => if k.rescue then BankId.rescue else bankOfCode d) (if_pos hk)
  · rw [Carrel.retBank, hres]
    rfl

/-! ### SYS -/

/-- The level that SYS enters. -/
def sysLevel (toM : Bool) : BitVec 2 := if toM then 2 else 1

/-- The carrel after a SYS, its frame and its shadow set apart. -/
def Carrel.sysEntered (k : Carrel) (toM shadowed : Bool) : Carrel :=
  { (if shadowed then k else k.abandon) with
    level := sysLevel toM, sealNext := nextSeal k.sealNext
    seals := { tag := k.sealNext, shadow := shadowed, hlvl := sysLevel toM } :: k.seals
    pc := vecAddr (if toM then k.sentryM else k.sentryS)
    count := { k.count with retired := k.count.retired + 1 } }

/-- What SYS saves in the shadow set of its level. -/
def Carrel.sysSaved (k : Carrel) (toM : Bool) : Shadow :=
  { pc := k.pc + 4, status := statusWord k.level 0 (k.mask (sysLevel toM)) false 2 0 k.dbank true false k.sealNext
    cause := 0x20, depth := { k with level := sysLevel toM }.depthWord, busy := true }

/-- The entry of a SYS that pushes a frame. -/
def Carrel.sysEntry (k : Carrel) (toM : Bool) : Entry :=
  { h := (sysLevel toM).toNat, code := 0x20, detail := some 0, kind := 2, pc := k.pc + 4
    target := some (k.sentry (sysLevel toM)), keepBank := true }

/-- CAUSE of a SYS. -/
theorem sysCause : (place (0x20 : BitVec 8) 0 ||| place (0 : BitVec 8) 8).toNat = 0x20 := by decide

section
variable {s : State} {c : BitVec 12} {toM : Bool} (hr : Ready s c 4)
include hr

theorem sys_fast (hl : ¬ sysLevel toM < (s.carrel c).level) (hf : (s.carrel c).fast = true) (hg : s.gateOnly = false)
    (hs : (s.carrel c).seals.length ≤ if toM then 3 else 2)
    (hb : ((s.carrel c).shadow (sysLevel toM)).busy = false) :
    Sys2Proof.Machine.exec (.sys c toM) s = .next (s.setCarrel c { (s.carrel c).sysEntered toM true with
      shdS := if toM then (s.carrel c).shdS else (s.carrel c).sysSaved toM
      shdM := if toM then (s.carrel c).sysSaved toM else (s.carrel c).shdM }) := by
  have hbody : Sys2Proof.Machine.exec (.sys c toM) s =
      .next ((s.enterShadow c (sysLevel toM)).modCarrel c Carrel.retired) := by
    change execSys c toM s = _
    rw [execSys, runInstr_ready _ hr, ← sysLevel]
    simp only [hl, if_false, hf, hg, hs, hb, and_self, if_true, reduceCtorEq, or_self]
    rfl
  have hi := Carrel.icInit_of_idle hr.1
  rw [hbody, State.enterShadow, State.modCarrel, State.modCarrel, State.carrel_setCarrel_same]
  simp only [Carrel.setShadow_eq]
  rw [State.setCarrel_setCarrel _ _ _ (by exact hi)]
  congr 2
  cases toM
  · simp [Carrel.sysEntered, Carrel.sysSaved, sysLevel, Carrel.retired, Carrel.sentry, Carrel.depthWord_sealed]
  · simp [Carrel.sysEntered, Carrel.sysSaved, sysLevel, Carrel.retired, Carrel.sentry, Carrel.depthWord_sealed]

theorem sys_pushes (hl : ¬ sysLevel toM < (s.carrel c).level) (hf : (s.carrel c).fast = true) (hg : s.gateOnly = false)
    (hs : (s.carrel c).seals.length ≤ if toM then 3 else 2)
    (hb : ((s.carrel c).shadow (sysLevel toM)).busy = true) (hx : (s.carrel c).xspValid (sysLevel toM) = true)
    (hrep : (s.carrel c).rep = none) :
    let k := s.carrel c
    let a := shelfBase c.toNat + 64 * ((k.xsp (sysLevel toM)).1.toNat - 1)
    ∃ t, Sys2Proof.Machine.exec (.sys c toM) s = .next t ∧
      t = { s with mem := t.mem, carrels := t.carrels, fresh := t.fresh } ∧
      t.carrel c = { k.sysEntered toM false with
        xspSTop := if toM then k.xspSTop else k.xspSTop - 1
        xspMTop := if toM then k.xspMTop - 1 else k.xspMTop } ∧
      t.le a 8 = (k.pc + 4).toNat ∧ t.le (a + 8) 8 = (k.sysSaved toM).status.toNat ∧ t.le (a + 16) 8 = 0x20 ∧
      t.le (a + 48) 8 = (k.sysSaved toM).depth.toNat ∧ (∀ b, b < a ∨ a + 64 ≤ b → t.byte b = s.byte b) ∧
      ∀ d, d ≠ c → t.carrel d = s.carrel d := by
  intro k a
  have h12 : sysLevel toM = 1 ∨ sysLevel toM = 2 := by cases toM <;> decide
  have hroom : k.seals.length < if sysLevel toM = 1 then 3 else 4 := by
    cases toM
    · exact Nat.lt_succ_of_le hs
    · exact Nat.lt_succ_of_le hs
  obtain ⟨hent, hat, hcar, hlvl, h3⟩ := State.enter_room (e := k.sysEntry toM) rfl h12 hroom hx
  have hbody : Sys2Proof.Machine.exec (.sys c toM) s =
      .next ((s.enterAs c (k.sysEntry toM)).modCarrel c Carrel.retired) := by
    have hset := Carrel.settle_of_room (k := s.carrel c) (e := (s.carrel c).sysEntry toM) rfl h12 hroom hx
    have hlim : ¬ (if toM then 3 else 2) < (s.carrel c).seals.length := Nat.not_lt.2 hs
    have hh : ¬ (sysLevel toM).toNat = 3 := h3
    rw [← hent]
    unfold Carrel.sysEntry at hset ⊢
    change execSys c toM s = _
    rw [execSys, runInstr_ready _ hr, ← sysLevel]
    simp only [hl, if_false, hf, hg, hs, hb, Bool.true_eq_false, and_false, Bool.false_eq_true, or_self, hlim,
        false_and,
      hset, hh, show ¬ (0x20 : BitVec 8) = 0x0B by decide]
    rfl
  have hd : (k.sysEntry toM).detail = some 0 := rfl
  have hle := fun i hi => State.enterAs_le hd (s := s) (c := c) i hi
  have hbyte := State.enterAs_byte hd (s := s) (c := c)
  rw [hat] at hle hbyte
  refine ⟨_, hbody, ?_, ?_, hle 0 (by decide), (hle 1 (by decide)).trans ?_, (hle 2 (by decide)).trans sysCause,
    (hle 6 (by decide)).trans ?_, hbyte, fun d hdc => ?_⟩
  · rw [State.modCarrel, State.setCarrel, State.enterAs_frame hd]
  · rw [State.carrel_modCarrel_same, State.enterAs_carrel hd, hcar, Carrel.entered_all hlvl h12 h3]
    cases toM
    · simp [Carrel.sysEntered, sysLevel, Carrel.retired, Carrel.sysEntry, Carrel.sentry, Carrel.abandon, hrep, k]
    · simp [Carrel.sysEntered, sysLevel, Carrel.retired, Carrel.sysEntry, Carrel.sentry, Carrel.abandon, hrep, k]
  · have hw : statusWord k.level (repKind k.rep) (k.mask (k.sysEntry toM).lvl) false 2 0 k.dbank
        (decide ((0x20 : BitVec 8) ≠ 0x09)) false k.sealNext = (k.sysSaved toM).status := by
      rw [hlvl, show k.rep = none from hrep]
      rfl
    exact congrArg BitVec.toNat hw
  · have hw : (k.raised (k.sysEntry toM)).depthWord = (k.sysSaved toM).depth :=
      Carrel.raised_depthWord_kept hlvl h3 rfl
    exact congrArg BitVec.toNat hw
  · rw [State.carrel_modCarrel_other _ _ hdc, State.enterAs_carrel_other hd hdc]

theorem sys_privileged (hl : ¬ sysLevel toM < (s.carrel c).level)
    (hf : (s.carrel c).fast = false ∨ s.gateOnly = true) :
    Sys2Proof.Machine.exec (.sys c toM) s = .next (s.fault c { code := 0x02, detail := 2 }) := by
  change execSys c toM s = _
  rw [execSys, runInstr_ready _ hr, ← sysLevel]
  simp only [hl, if_false, hf, if_true]
  rfl

theorem sys_downwards (hl : sysLevel toM < (s.carrel c).level) (hrep : (s.carrel c).rep = none) :
    Sys2Proof.Machine.exec (.sys c toM) s =
      .next (s.fault c { code := 0x01, detail := if toM then 0x1033 else 0x33 }) := by
  change execSys c toM s = _
  rw [execSys, runInstr_ready _ hr, ← sysLevel]
  simp only [hl, if_true, State.illegal_of_no_repeat hrep]
  cases toM <;> rfl

end

/-! ### GATE -/

/-- Eight bytes make a word. -/
theorem State.le_lt (s : State) (a : Nat) : s.le a 8 < 2 ^ 64 := by
  have h := bytesToNat_lt (s.bytes a 8)
  rw [State.bytes, List.length_map, upto, List.length_range] at h
  exact h

/-- The word that holds the checks of gate `n` of carrel `c`. -/
def State.gateWord (s : State) (c : BitVec 12) (n : BitVec 10) : Nat :=
  s.le (shelfBase c.toNat + 16 * ((s.carrel c).gateBase.toNat + n.toNat) + 8) 8

theorem gate_runs {s : State} {c : BitVec 12} (n : BitVec 10) (hr : Ready s c 4) :
    Sys2Proof.Machine.exec (.gate c n) s = .next (s.finish c 4
      (gateRes s c n (s.carrel c) (16 * ((s.carrel c).gateBase.toNat + n.toNat))
        (s.le (shelfBase c.toNat + 16 * ((s.carrel c).gateBase.toNat + n.toNat)) 8) (s.gateWord c n)
        (s.gateWord c n / 8 % 8) (s.gateArgs c (s.gateWord c n) (s.gateWord c n / 8 % 8) (s.gateWord c n / 8 % 8))))
            := by
  have hoff : (s.carrel c).gateOff n = 16 * ((s.carrel c).gateBase.toNat + n.toNat) := by
    rw [Carrel.gateOff]
    omega
  change execGate c n s = _
  rw [execGate_eq, runInstr_ready _ hr, State.gateWord, ← hoff]

section
variable {s : State} {c : BitVec 12} {n : BitVec 10} {k : Carrel} {off e0 w1 narg : Nat} {g : GateCheck}

theorem gateRes_past (h : k.gateCount.toNat ≤ n.toNat) : gateRes s c n k off e0 w1 narg g = .exc (gateExc n 1 0) := by
  unfold gateRes
  exact if_pos h

theorem gateRes_outside (h : n.toNat < k.gateCount.toNat) (ho : off < k.ulim.toNat * 64 ∨ rescueOff < off + 16) :
    gateRes s c n k off e0 w1 narg g = .exc (gateExc n 3 0) := by
  unfold gateRes
  exact (if_neg (Nat.not_le.2 h)).trans (if_pos ho)

theorem gateRes_invalid (h : n.toNat < k.gateCount.toNat) (h1 : k.ulim.toNat * 64 ≤ off) (h2 : off + 16 ≤ rescueOff)
    (hw : w1 % 2 = 0 ∨ BitVec.ofNat 2 (w1 / 2) = 0 ∨ BitVec.ofNat 2 (w1 / 2) = 3 ∨ narg = 7 ∨ w1 / 64 % 4 = 3 ∨
      BitVec.ofNat 2 (w1 / 2) < k.level) : gateRes s c n k off e0 w1 narg g = .exc (gateExc n 2 0) := by
  unfold gateRes
  exact (if_neg (Nat.not_le.2 h)).trans ((if_neg (by omega)).trans (if_pos hw))

/-- The entry of a GATE that passes its checks. -/
def gateEntry (k : Carrel) (n : BitVec 10) (e0 w1 : Nat) : Entry :=
  { h := (BitVec.ofNat 2 (w1 / 2)).toNat, code := 0x21, detail := some (n.setWidth 64), kind := 3, pc := k.pc + 4
    nres := BitVec.ofNat 2 (w1 / 64 % 4), target := some (evenAddr (word e0)) }

theorem gateRes_passes {h : BitVec 2} (hn : n.toNat < k.gateCount.toNat) (h1 : k.ulim.toNat * 64 ≤ off)
    (h2 : off + 16 ≤ rescueOff) (hh : BitVec.ofNat 2 (w1 / 2) = h) (h12 : h = 1 ∨ h = 2)
    (hw : ¬ (w1 % 2 = 0 ∨ BitVec.ofNat 2 (w1 / 2) = 0 ∨ BitVec.ofNat 2 (w1 / 2) = 3 ∨ narg = 7 ∨ w1 / 64 % 4 = 3 ∨
      BitVec.ofNat 2 (w1 / 2) < k.level))
    (hres : k.rescue = false) (hd : ¬ (k.bank k.dataBank).dataDepth < narg)
    (hroom : k.seals.length < if h = 1 then 3 else 4) (hx : k.xspValid h = true)
    (hb : boundCheck (k.bank (bankOfCode h)).d (k.bank (bankOfCode h)).dres 8
      (if bankOfCode h = k.dataBank then narg else 0) (if bankOfCode h = k.dataBank then narg else 0) narg = none) :
    gateRes s c n k off e0 w1 narg .pass =
      .went (((s.popD c narg).2.enter c (gateEntry k n e0 w1)).pushDs c (s.popD c narg).1.reverse) := by
  have hset : k.settle (gateEntry k n e0 w1) = gateEntry k n e0 w1 :=
    Carrel.settle_of_room (congrArg BitVec.toNat hh) h12 hroom hx
  have h3 : ¬ h.toNat = 3 := by rcases h12 with rfl | rfl <;> decide
  unfold gateEntry at hset ⊢
  unfold gateRes
  rw [if_neg (Nat.not_le.2 hn), if_neg (by omega), if_neg hw, if_neg hd]
  subst hh
  simp only [hres, Bool.false_eq_true, if_false, hb, Option.isSome_none, hset, h3, false_and,
    show ¬ (0x21 : BitVec 8) = 0x0B by decide]

end

/-- What the bound check guarantees. -/
theorem room_of_boundCheck {p : Ptrs} {res : List Word} {cap need pop push : Nat}
    (h : boundCheck p res cap need pop push = none) :
    (need ≠ 0 → (need : Int) ≤ stackDepth p res) ∧
      (max res.length pop - pop + push ≤ cap ∨
        p.ptr.toNat - (pop - res.length) + (max res.length pop - pop + push - cap) ≤ 24576) := by
  unfold boundCheck at h
  split at h
  · cases h
  · next hn =>
    dsimp only at h
    split at h
    · cases h
    · next hs =>
      refine ⟨fun h0 => by omega, ?_⟩
      simp only [shelfSize] at hs
      omega

theorem Carrel.banksOf_trans {k j i : Carrel} (h1 : j = k.banksOf j) (h2 : i = j.banksOf i) : i = k.banksOf i := by
  rw [h2, h1]
  rfl

theorem Carrel.setBank_banksOf (k : Carrel) (id : BankId) (b : Bank) : k.setBank id b = k.banksOf (k.setBank id b) := by
  cases id <;> rfl

/-- An entry at level 1 or 2 leaves the banks as they are. -/
theorem Carrel.bank_entered {k : Carrel} {e : Entry} {h : BitVec 2} (hl : e.lvl = h) (h12 : h = 1 ∨ h = 2)
    (h3 : e.h ≠ 3) (id : BankId) : (k.entered e).bank id = k.bank id := by
  rw [Carrel.entered_all hl h12 h3]
  cases id <;> rfl

section
variable {s : State} {c : BitVec 12} {n : BitVec 10} {e0 w1 narg : Nat} {h : BitVec 2}

/-- The state of a GATE between the pop of its arguments and their push. -/
def State.gateMid (s : State) (c : BitVec 12) (n : BitVec 10) (e0 w1 narg : Nat) : State :=
  (s.popD c narg).2.enterAs c (gateEntry (s.carrel c) n e0 w1)

variable (hh : BitVec.ofNat 2 (w1 / 2) = h) (h12 : h = 1 ∨ h = 2) (hres : (s.carrel c).rescue = false)
  (hx : (s.carrel c).xspValid h = true) (hroom : (s.carrel c).seals.length < if h = 1 then 3 else 4)
include hh h12 hres hx hroom

theorem gateMid_facts : 
    let p := (s.popD c narg).2
    let e := gateEntry (s.carrel c) n e0 w1
    let t := s.gateMid c n e0 w1 narg
    p.enter c e = t ∧
      p.frameAt c e = shelfBase c.toNat + 64 * (((s.carrel c).xsp h).1.toNat - 1) ∧
      t.carrel c = (p.carrel c).entered e ∧ e.lvl = h ∧ e.h ≠ 3 ∧ 
      (t.carrel c).dataBank = bankOfCode h ∧
      (t.dataOf c) = if bankOfCode h =
          (s.carrel c).dataBank then s.poppedBank c narg else (s.carrel c).bank (bankOfCode h) := by
  intro p e t
  have hpop := s.popD_pops c narg
  have hj : p.carrel c = (s.carrel c).banksOf (p.carrel c) := by
    rw [hpop.carrel]
    exact Carrel.withD_banksOf (Carrel.banksOf_self _) _ _ _
  have hroom' : (p.carrel c).seals.length < if h = 1 then 3 else 4 := by rw [hj]; exact hroom
  have hx' : (p.carrel c).xspValid h = true := by rw [hj]; exact hx
  have hxsp : (p.carrel c).xsp h = (s.carrel c).xsp h := by rw [hj]; rfl
  obtain ⟨hent, hat, hcar, hlvl, h3⟩ := State.enter_room (s := p) (c := c) (e := e) (congrArg BitVec.toNat hh) h12
      hroom' hx'
  have hc : t.carrel c = (p.carrel c).entered e := (State.enterAs_carrel rfl).trans hcar
  have hdb : (t.carrel c).dataBank = bankOfCode h := by
    have hresc : (t.carrel c).rescue = false := by
      rw [hc, Carrel.entered_all hlvl h12 h3, hj]
      exact hres
    have hbk : (t.carrel c).dbank = h := by
      rw [hc, Carrel.entered_all hlvl h12 h3]
      rfl
    rw [Carrel.dataBank, hresc, hbk]
    rfl
  refine ⟨hent, hat.trans (by rw [hxsp]), hc, hlvl, h3, hdb, ?_⟩
  have hbank : t.dataOf c = (p.carrel c).bank (bankOfCode h) := by
    rw [State.dataOf, hdb, hc, Carrel.bank_entered hlvl h12 h3]
  rw [hbank]
  obtain ⟨hpb, hpd⟩ := hpop.dataOf_eq
  split
  · next hs => rw [hs, ← hpb, ← hpd]; rfl
  · next hs => rw [hpop.carrel, Carrel.bank_withD, if_neg hs]

end

/-- Where the target's stack has room for the arguments before the pop, it has it after the entry too. -/
theorem gateMid_room {s : State} {c : BitVec 12} {narg : Nat} {b : Bank} {h : BitVec 2}
    (hb : b = if bankOfCode h = (s.carrel c).dataBank then s.poppedBank c narg else (s.carrel c).bank (bankOfCode h))
    (hd : (narg : Int) ≤ (s.dataOf c).dataDepth)
    (hc : boundCheck ((s.carrel c).bank (bankOfCode h)).d ((s.carrel c).bank (bankOfCode h)).dres 8
      (if bankOfCode h = (s.carrel c).dataBank then narg else 0)
      (if bankOfCode h = (s.carrel c).dataBank then narg else 0) narg = none) :
    (b.dres.length + narg ≤ 8 ∨ b.d.ptr.toNat + (b.dres.length + narg - 8) ≤ 24576) ∧
      (((s.carrel c).bank (bankOfCode h)).dres.length + narg ≤ 8 → narg < 8 → b.dres.length + narg ≤ 8) ∧
      ∀ (ptr : BitVec 15) (res : List Word), ptr.toNat + res.length = b.d.ptr.toNat + b.dres.length + narg →
        stackDepth { b.d with ptr := ptr } res =
          ((s.carrel c).bank (bankOfCode h)).dataDepth + (if bankOfCode h =
              (s.carrel c).dataBank then 0 else narg) := by
  obtain ⟨hneed, hroom⟩ := room_of_boundCheck hc
  have hfill := data_fills (b := s.dataOf c) (n := narg) fun _ => hd
  by_cases hs : bankOfCode h = (s.carrel c).dataBank
  · rw [if_pos hs] at hb hroom
    have hlen := poppedBank_length s c narg
    have hptr : (s.poppedBank c narg).d.ptr.toNat = (s.dataOf c).d.ptr.toNat - (narg - (s.dataOf c).dres.length) :=
      ptr_sub_toNat _ _ hfill
    have hdat : (s.carrel c).bank (bankOfCode h) = s.dataOf c := by rw [hs]; rfl
    rw [hdat] at hroom ⊢
    rw [if_pos hs, hb, hlen, hptr]
    refine ⟨by omega, fun _ _ => by omega, fun ptr res e => ?_⟩
    rw [Bank.dataDepth, stackDepth, stackDepth]
    change (res.length : Int) + ptr.toNat - (s.dataOf c).d.lo.toNat = _
    omega
  · rw [if_neg hs] at hb hroom
    rw [if_neg hs, hb]
    refine ⟨by omega, fun h _ => h, fun ptr res e => ?_⟩
    rw [Bank.dataDepth, stackDepth, stackDepth]
    dsimp only
    omega

/-- The registers of a carrel that a GATE has entered, its banks apart. -/
theorem gateEntered_banks {k j i : Carrel} {n : BitVec 10} {e0 w1 : Nat} {h : BitVec 2}
    (hl : (gateEntry k n e0 w1).lvl = h) (h12 : h = 1 ∨ h = 2) (h3 : (gateEntry k n e0 w1).h ≠ 3)
    (hj : j = k.banksOf j) (hi : i = (j.entered (gateEntry k n e0 w1)).banksOf i) :
    i.retired = ({ k.abandon with
      level := h, dbank := h, rep := none, sealNext := nextSeal k.sealNext
      seals := { tag := k.sealNext, shadow := false, hlvl := h } :: k.seals
      xspSTop := if h = 1 then k.xspSTop - 1 else k.xspSTop
      xspMTop := if h = 1 then k.xspMTop else k.xspMTop - 1
      pc := evenAddr (word e0)
      count := { k.count with retired := k.count.retired + 1 } } : Carrel).banksOf i.retired := by
  rw [hi, Carrel.entered_all hl h12 h3, hj]
  simp only [gateEntry, Option.getD_none, Option.getD_some, ite_self, Bool.false_eq_true, if_false, Carrel.retired,
    Carrel.banksOf, Carrel.abandon]

/-- CAUSE of a GATE. -/
theorem gateCause : (place (0x21 : BitVec 8) 0 ||| place (0 : BitVec 8) 8).toNat = 0x21 := by decide

theorem statusWord_nres (plvl repk : BitVec 2) (pmask : BitVec 3) (imprecise resumable more : Bool)
    (kind nres pdbank : BitVec 2) (tag : BitVec 16) :
    (statusWord plvl repk pmask imprecise kind nres pdbank resumable more tag).toNat / 1024 % 4 = nres.toNat := by
  obtain ⟨-, -, -, -, -, h10, -⟩ := statusWord_fields plvl repk pmask imprecise resumable more kind nres pdbank tag
  rw [← congrArg BitVec.toNat h10, BitVec.extractLsb'_toNat, Nat.shiftRight_eq_div_pow]

/-- Entries popped leave the depth. -/
theorem poppedBank_depth {s : State} {c : BitVec 12} {narg : Nat} (hd : (narg : Int) ≤ (s.dataOf c).dataDepth) :
    (s.poppedBank c narg).dataDepth = (s.dataOf c).dataDepth - narg := by
  have hlen := poppedBank_length s c narg
  have hptr : (s.poppedBank c narg).d.ptr.toNat = (s.dataOf c).d.ptr.toNat - (narg - (s.dataOf c).dres.length) :=
    ptr_sub_toNat _ _ (data_fills fun _ => hd)
  have hlo : (s.poppedBank c narg).d.lo = (s.dataOf c).d.lo := rfl
  have hfill := data_fills (b := s.dataOf c) (n := narg) fun _ => hd
  rw [Bank.dataDepth, Bank.dataDepth, stackDepth, stackDepth, hlen, hptr, hlo]
  omega

theorem gate_enters {s : State} {c : BitVec 12} (n : BitVec 10) (hr : Ready s c 4) :
     let k := s.carrel c
     let off := 16 * (k.gateBase.toNat + n.toNat)
     let at_ := shelfBase c.toNat + off
     let w1 := s.le (at_ + 8) 8
     let h := BitVec.ofNat 2 (w1 / 2)
     let narg := w1 / 8 % 8
     let nres := w1 / 64 % 4
     n.toNat < k.gateCount.toNat → k.ulim.toNat * 64 ≤ off → off + 16 ≤ 196096 →
       w1 % 2 = 1 → (h = 1 ∨ h = 2) → narg < 7 → nres < 3 → k.level ≤ h → k.rescue = false → k.rep = none →
         (narg : Int) ≤ (s.dataOf c).dataDepth → s.gateArgs c w1 narg narg = .pass →
         k.seals.length < (if h = 1 then 3 else 4) → k.xspValid h = true →
         (let b := k.bank (bankOfCode h)
          let pop := if bankOfCode h = k.dataBank then narg else 0
          boundCheck b.d b.dres 8 pop pop narg = none) →
         let a := shelfBase c.toNat + 64 * ((k.xsp h).1.toNat - 1)
         ∃ t, Sys2Proof.Machine.exec (.gate c n) s = .next t ∧
           t = { s with mem := t.mem, carrels := t.carrels, fresh := t.fresh } ∧
           (∀ d, d ≠ c → t.carrel d = s.carrel d) ∧
           CarrelIs c { k.abandon with
             level := h, dbank := h, rep := none, sealNext := nextSeal k.sealNext
             seals := { tag := k.sealNext, shadow := false, hlvl := h } :: k.seals
             xspSTop := if h = 1 then k.xspSTop - 1 else k.xspSTop
             xspMTop := if h = 1 then k.xspMTop else k.xspMTop - 1
             pc := BitVec.ofNat 64 (s.le at_ 8 / 2 * 2)
             count := { k.count with retired := k.count.retired + 1 } } t ∧
           (∀ i, i < narg → t.peekD c i = s.peekD c i) ∧
           (t.dataOf c).dataDepth =
             (k.bank (bankOfCode h)).dataDepth + (if bankOfCode h = k.dataBank then 0 else narg) ∧
           (bankOfCode h ≠ k.dataBank →
             ((t.carrel c).bank k.dataBank).dataDepth = (s.dataOf c).dataDepth - narg) ∧
           ((k.bank (bankOfCode h)).dres.length + narg ≤ 8 →
             t.le a 8 = (k.pc + 4).toNat ∧ t.le (a + 16) 8 = 0x21 ∧
             t.le (a + 40) 8 = n.toNat ∧ t.le (a + 8) 8 / 1024 % 4 = nres ∧
             ∀ b, b < a ∨ a + 64 ≤ b → t.byte b = s.byte b) := by
  intro k off at_ w1 h narg nres hn h1 h2 hw1 h12 h7 h3' hl hres hrep hd hg hroom hx hb a
  let e0 := s.le at_ 8
  let p := (s.popD c narg).2
  let e := gateEntry (s.carrel c) n e0 w1
  let q := s.gateMid c n e0 w1 narg
  let args := (s.popD c narg).1
  obtain ⟨hent, hat, hcar, hlvl, h3, hdb,
      hdat⟩ := gateMid_facts (n := n) (e0 := e0) (narg := narg) rfl h12 hres hx hroom
  obtain ⟨hfit, hsmall, hdepth⟩ := gateMid_room hdat hd hb
  have hargs : args = s.tops c narg := s.popD_fst c narg
  have hlen : args.reverse.length =
      narg := by rw [List.length_reverse, hargs, State.tops, List.length_map, upto, List.length_range]
  have hpush : PushedD c (bankOfCode h) args q (q.pushDs c args.reverse) := by
    have hp := State.pushDs_pushed c args.reverse q (by rw [hlen]; exact hfit)
    rw [hdb, List.reverse_reverse] at hp
    exact hp
  have hbody : Sys2Proof.Machine.exec (.gate c n) s = .next ((q.pushDs c args.reverse).modCarrel c Carrel.retired) := by
    have hnw : ¬ (w1 % 2 = 0 ∨ h = 0 ∨ h = 3 ∨ narg = 7 ∨ nres = 3 ∨ h < k.level) := by
      have hlt : ¬ h < k.level := BitVec.not_lt.2 hl
      have h0 : h ≠ 0 ∧ h ≠ 3 := by rcases h12 with e | e <;> rw [e] <;> decide
      rintro (e | e | e | e | e | e)
      · omega
      · exact h0.1 e
      · exact h0.2 e
      · omega
      · omega
      · exact hlt e
    have hpass := gateRes_passes (s := s) (c := c) (e0 := e0) hn h1 h2 rfl h12 hnw hres (Int.not_lt.2 hd) hroom hx hb
    rw [gate_runs n hr, State.gateWord, hg, hpass, hent]
    rfl
  have hp : p = { s with mem := p.mem, carrels := p.carrels } := (s.popD_pops c narg).rest
  have hq : q = { p with
      mem := q.mem, carrels := q.carrels, fresh := if e.faddr = none then p.fresh + 1 else p.fresh } :=
    State.enterAs_frame rfl
  obtain ⟨hrest, hothers, ⟨ptr, res, hbk, hcount, -, htop, -⟩, -, hbytes⟩ := hpush
  have hkeep : (q.pushDs c args.reverse).carrel c = (q.carrel c).banksOf ((q.pushDs c args.reverse).carrel c) := by
    rw [hbk]
    exact Carrel.setBank_banksOf _ _ _
  have hj : p.carrel c = k.banksOf (p.carrel c) := by
    rw [(s.popD_pops c narg).carrel]
    exact Carrel.withD_banksOf (Carrel.banksOf_self _) _ _ _
  have hdb3 : ((q.pushDs c args.reverse).carrel c).dataBank = bankOfCode h := by
    rw [hbk, Carrel.setBank_dataBank, hdb]
  have hdat3 : ((q.pushDs c args.reverse).modCarrel c Carrel.retired).dataOf c =
      { q.dataOf c with d := { (q.dataOf c).d with ptr := ptr }, dres := res } := by
    have hq3 : (q.pushDs c args.reverse).dataOf c = ((q.pushDs c args.reverse).carrel c).bank (bankOfCode h) := by
      rw [State.dataOf, hdb3]
    have hqd : q.dataOf c = (q.carrel c).bank (bankOfCode h) := by rw [State.dataOf, hdb]
    rw [State.dataOf, State.carrel_modCarrel_same]
    change (q.pushDs c args.reverse).dataOf c = _
    rw [hq3, hqd, hbk, Carrel.bank_setBank_same]
  have hentry : evenAddr (word (s.le at_ 8)) = BitVec.ofNat 64 (s.le at_ 8 / 2 * 2) := by
    have hlt : s.le at_ 8 < 2 ^ 64 := State.le_lt s at_
    rw [evenAddr_eq, word, BitVec.toNat_ofNat, Nat.mod_eq_of_lt hlt]
  refine ⟨_, hbody, ?_, fun d hdc => ?_, ?_, fun i hi => ?_, ?_, fun hne => ?_, fun hfew => ?_⟩
  · rw [State.modCarrel, State.setCarrel, hrest, hq, hp]
  · rw [State.carrel_modCarrel_other _ _ hdc]
    exact (hothers d hdc).trans ((State.enterAs_carrel_other rfl hdc).trans ((s.popD_pops c narg).others d hdc))
  · rw [CarrelIs, State.carrel_modCarrel_same, ← hentry]
    exact gateEntered_banks hlvl h12 h3 hj (hcar ▸ hkeep)
  · have hx := htop i (s.peekD c i) (by rw [hargs, State.tops, upto, List.getElem?_map, List.getElem?_range hi]; rfl)
    rw [← hx]
    change State.peek _ c (State.dataOf _ c).d (State.dataOf _ c).dres i = _
    rw [hdat3, State.modCarrel_peek, State.peek_eq]
  · have hal : args.length = narg := by rw [← hlen, List.length_reverse]
    rw [hal] at hcount
    have hcount' : ptr.toNat + res.length = (q.dataOf c).d.ptr.toNat + (q.dataOf c).dres.length + narg := by
      rw [State.dataOf, hdb]
      exact hcount
    rw [hdat3]
    exact hdepth ptr res hcount'
  · have hb3 : ((q.pushDs c args.reverse).carrel c).bank k.dataBank = s.poppedBank c narg := by
      rw [hbk, Carrel.bank_setBank, if_neg (Ne.symm hne), hcar, Carrel.bank_entered hlvl h12 h3,
        ← (s.popD_pops c narg).dataOf_eq.2, ← (s.popD_pops c narg).dataOf_eq.1]
      rfl
    rw [State.carrel_modCarrel_same]
    exact (congrArg Bank.dataDepth hb3).trans (poppedBank_depth hd)
  · have hal : args.length = narg := by rw [← hlen, List.length_reverse]
    have hbyte (x : Nat) : ((q.pushDs c args.reverse).modCarrel c Carrel.retired).byte x = q.byte x := by
      refine hbytes x fun i hi => ?_
      have hfew' : ((q.carrel c).bank (bankOfCode h)).dres.length + narg ≤ 8 := by
        have hq' := hsmall hfew (by omega)
        rw [State.dataOf, hdb] at hq'
        exact hq'
      rw [hal] at hi
      omega
    have hle (i : Nat) (hi : i < 8) : ((q.pushDs c args.reverse).modCarrel c Carrel.retired).le (a + 8 * i) 8 =
        ((p.frameWords c e (n.setWidth 64))[i]'hi).toNat := by
      have he := State.enterAs_le (s := p) (c := c) (e := e) rfl i hi
      rw [← he, hat, State.le, State.bytes_congr fun j _ => hbyte _]
      rfl
    refine ⟨hle 0 (by decide), (hle 2 (by decide)).trans gateCause, (hle 5 (by decide)).trans ?_, ?_, fun b hb => ?_⟩
    · exact BitVec.toNat_setWidth_of_le (b := n) (show 10 ≤ 64 by decide)
    · rw [hle 1 (by decide)]
      refine (statusWord_nres ..).trans ?_
      exact Nat.mod_eq_of_lt (by omega)
    · rw [hbyte]
      refine (State.enterAs_byte (s := p) (c := c) (e := e) rfl b ?_).trans ?_
      · rw [hat]
        exact hb
      · rw [State.byte, (s.popD_pops c narg).mem, ← State.byte]

/-- Settles O21: SYS and GATE are entries with a target of their own; a GATE pops its arguments before its entry and
pushes them after it. -/
theorem systemCallsAndGates : Obligations.SystemCallsAndGates := by
  unfold Obligations.SystemCallsAndGates
  refine ⟨⟨fun toM c s hr => ?_, statusWord_fields⟩, fun c n s hr => ?_⟩
  · have hb : ((s.carrel c).shadow (sysLevel toM)).busy =
      if toM then (s.carrel c).shdM.busy else (s.carrel c).shdS.busy := by
      cases toM <;> rfl
    refine ⟨fun hl hf hg hs hn => ?_, fun hl hf hg hs hn hx hrep => ?_, fun hl hf => ?_, fun hl hrep => ?_⟩
    · exact sys_fast hr (BitVec.not_lt.2 hl) hf hg hs (hb.trans hn)
    · exact sys_pushes hr (BitVec.not_lt.2 hl) hf hg hs (hb.trans hn) hx hrep
    · exact sys_privileged hr (BitVec.not_lt.2 hl) hf
    · exact sys_downwards hr hl hrep
  · refine ⟨fun h => ?_, fun h ho => ?_, fun h h1 h2 => ⟨fun hw => ?_, gate_enters n hr h h1 h2⟩⟩
    · rw [gate_runs n hr, gateRes_past h]
      rfl
    · rw [gate_runs n hr, gateRes_outside h ho]
      rfl
    · rw [gate_runs n hr, State.gateWord, gateRes_invalid h h1 h2 hw]
      rfl

end Sys2Proof.Machine
end

section
/-!
# Interrupts and the watchdog
-/
namespace Sys2Proof.Machine

/-! ### Entries that draw both FADDR and DETAIL -/

/-- The frame of an interrupt: both free words are drawn, FADDR first. -/
def State.drawnFrame (s : State) (c : BitVec 12) (e : Entry) : List Word :=
  (s.carrel c).frameOf e (Config.freeWord s.fresh) (Config.freeWord (s.fresh + 1)) s.tickWtn

section
variable {s : State} {c : BitVec 12} {e : Entry} (hf : e.faddr = none) (hd : e.detail = none) (h3 : e.h ≠ 3)
include hf hd h3

theorem State.enterAs_drawn : s.enterAs c e =
    (State.setBytes { s with fresh := s.fresh + 2 } (s.frameAt c e) (wordBytes (s.drawnFrame c e))).setCarrel c
      ((s.carrel c).entered e) := by
  unfold State.enterAs State.frameAt State.drawnFrame State.drawFor
  simp only [hf, hd, h3, if_true, if_false]
  rfl

theorem State.enterAs_drawn_le (i : Nat) (hi : i < 8) :
    (s.enterAs c e).le (s.frameAt c e + 8 * i) 8 = ((s.drawnFrame c e)[i]'hi).toNat := by
  rw [s.enterAs_drawn hf hd h3, State.setCarrel_le]
  exact State.le_setBytes_words _ _ (s.drawnFrame c e) i hi

theorem State.enterAs_drawn_byte (b : Nat) (hb : b < s.frameAt c e ∨ s.frameAt c e + 64 ≤ b) :
    (s.enterAs c e).byte b = s.byte b := by
  rw [s.enterAs_drawn hf hd h3, State.setCarrel_byte, State.byte_setBytes, length_wordBytes,
    if_neg (by change ¬ (_ ∧ _ < _ + 8 * 8); omega)]
  rfl

theorem State.enterAs_drawn_carrel : (s.enterAs c e).carrel c = (s.carrel c).entered e := by
  rw [s.enterAs_drawn hf hd h3, State.carrel_setCarrel_same]

theorem State.enterAs_drawn_carrel_other {b : BitVec 12} (hb : b ≠ c) : (s.enterAs c e).carrel b = s.carrel b := by
  rw [s.enterAs_drawn hf hd h3, State.carrel_setCarrel_other _ _ hb, State.setBytes_carrel]
  rfl

theorem State.enterAs_drawn_frame : s.enterAs c e = { s with
    mem := (s.enterAs c e).mem, carrels := (s.enterAs c e).carrels, fresh := s.fresh + 2 } := by
  rw [s.enterAs_drawn hf hd h3, State.setCarrel, State.setBytes_eq]

end

/-! ### Which interrupt is taken -/

/-- An interrupt that can be taken: outside rescue state, at S or M, with its own step. -/
theorem Carrel.takeable_cases {k : Carrel} {code : BitVec 8} {step : BitVec 3} {h : BitVec 2}
    (ht : k.takeable = some (code, step, h)) : (h = 1 ∨ h = 2) ∧ code ≠ 0x09 := by
  unfold Carrel.takeable at ht
  dsimp only at ht
  split at ht
  · cases ht
    exact ⟨Or.inl rfl, by decide⟩
  · split at ht
    · cases ht
      exact ⟨Or.inr rfl, by decide⟩
    · split at ht
      · cases ht
        exact ⟨Or.inr rfl, by decide⟩
      · cases ht

/-- CAUSE of an entry with nothing in ORIG. -/
theorem plain_cause (code : BitVec 8) : (place code 0 ||| place (0 : BitVec 8) 8).toNat = code.toNat := by
  rw [or_place_toNat _ _ 8 (by rw [place_toNat code 0 (by decide)]; have := code.isLt; omega) (by decide),
    place_toNat code 0 (by decide)]
  simp

theorem Carrel.mask_of_level (k : Carrel) {h : BitVec 2} (h12 : h = 1 ∨ h = 2) :
    k.mask h = if h = 1 then k.maskS else k.maskM := by
  rcases h12 with rfl | rfl <;> rfl

/-- An interrupt enters. -/
theorem interrupt_enters (c : BitVec 12) (s : State) (code : BitVec 8) (step : BitVec 3) (h : BitVec 2) :
     let k := s.carrel c
     k.idle = true → k.inRepx = false → k.imprecise = none → k.takeable = some (code, step, h) →
     k.seals.length < (if h = 1 then 3 else 4) → k.xspValid h = true →
     let a := shelfBase c.toNat + 64 * ((k.xsp h).1.toNat - 1)
     ∃ t, Sys2Proof.Machine.exec (.interruptEntry c) s = .next t ∧
       t = { s with mem := t.mem, carrels := t.carrels, fresh := s.fresh + 2 } ∧
       t.le a 8 = k.resumePc.toNat ∧ t.le (a + 16) 8 = code.toNat ∧
       t.le (a + 8) 8 =
         (statusWord k.level (repKind k.rep) (if h = 1 then k.maskS else k.maskM) false 1 0 k.dbank true false
           k.sealNext).toNat ∧
       (∀ b, b < a ∨ a + 64 ≤ b → t.byte b = s.byte b) ∧ (∀ d, d ≠ c → t.carrel d = s.carrel d) ∧
       t.carrel c = { k.abandon with
         level := h, dbank := h, rep := none
         maskS := if h = 1 then step else k.maskS, maskM := if h = 1 then k.maskM else step
         sealNext := nextSeal k.sealNext, seals := { tag := k.sealNext, shadow := false, hlvl := h } :: k.seals
         xspSTop := if h = 1 then k.xspSTop - 1 else k.xspSTop
         xspMTop := if h = 1 then k.xspMTop else k.xspMTop - 1
         pc := if h = 1 then vecAddr k.xvecS else vecAddr k.xvecM } := by
  intro k hi hrx himp htake hroom hx a
  obtain ⟨h12, h9⟩ := Carrel.takeable_cases htake
  let e : Entry := { h := h.toNat, code := code, detail := none, kind := 1, pc := k.resumePc, step := some step }
  obtain ⟨hent, hat, -, hlvl, h3⟩ := State.enter_room (s := s) (c := c) (e := e) rfl h12 hroom hx
  have hbody : Sys2Proof.Machine.exec (.interruptEntry c) s = .next (s.enterAs c e) := by
    have hpend : s.takePending c = some (s.enter c e) := by
      unfold State.takePending
      simp only [show (s.carrel c).inRepx = false from hrx, show (s.carrel c).imprecise = none from himp,
        show (s.carrel c).takeable = _ from htake, Bool.false_eq_true, if_false]
      rfl
    change Host.Outcome.next (if (s.carrel c).idle then (s.takePending c).getD s else s) = _
    rw [if_pos hi, hpend, Option.getD_some, hent]
  have hle := fun i hi => State.enterAs_drawn_le (s := s) (c := c) (e := e) rfl rfl h3 i hi
  have hbyte := State.enterAs_drawn_byte (s := s) (c := c) (e := e) rfl rfl h3
  rw [hat] at hle hbyte
  refine ⟨_, hbody, State.enterAs_drawn_frame rfl rfl h3, hle 0 (by decide),
    (hle 2 (by decide)).trans (plain_cause code), (hle 1 (by decide)).trans ?_, hbyte,
    fun d hd => State.enterAs_drawn_carrel_other rfl rfl h3 hd, ?_⟩
  · have hw : statusWord k.level (repKind k.rep) (k.mask e.lvl) false 1 0 k.dbank (decide (code ≠ 0x09)) false
        k.sealNext = statusWord k.level (repKind k.rep) (if h = 1 then k.maskS else k.maskM) false 1 0 k.dbank true
          false k.sealNext := by
      rw [hlvl, Carrel.mask_of_level k h12, decide_eq_true h9]
    exact congrArg BitVec.toNat hw
  · rw [State.enterAs_drawn_carrel rfl rfl h3, Carrel.entered_all hlvl h12 h3]
    rfl

/-- The three requests, in their order. -/
theorem takeable_spec (k : Carrel) (hl : k.level ≤ 2) :
     let mask := (if k.level = 0 then k.maskU else if k.level = 1 then k.maskS else k.maskM).toNat
     let nan := k.nan.valid = true ∧ k.nan.trapEn = true ∧ k.level ≤ 1 ∧ mask < 7
     let keeper := k.keeperReq = true ∧ mask < 6
     let debug := k.debugReq = true ∧ mask < 5
     (k.rescue = true → k.takeable = none) ∧
     (k.rescue = false →
       (nan → k.takeable = some (0x40, 7, 1)) ∧ (¬ nan → keeper → k.takeable = some (0x41, 6, 2)) ∧
       (¬ nan → ¬ keeper → debug → k.takeable = some (0x42, 5, 2)) ∧
       (¬ nan → ¬ keeper → ¬ debug → k.takeable = none)) := by
  intro mask nan keeper debug
  have hm : mask = (k.mask k.level).toNat := by
    unfold Carrel.mask
    simp only [mask]
  have hp0 : k.pend.getLsbD 0 = (k.nan.valid && k.nan.trapEn) := by
    unfold Carrel.pend bit
    cases (k.nan.valid && k.nan.trapEn) <;> cases k.keeperReq <;> cases k.debugReq <;> rfl
  have hp1 : k.pend.getLsbD 1 = k.keeperReq := by
    unfold Carrel.pend bit
    cases (k.nan.valid && k.nan.trapEn) <;> cases k.keeperReq <;> cases k.debugReq <;> rfl
  have hp2 : k.pend.getLsbD 2 = k.debugReq := by
    unfold Carrel.pend bit
    cases (k.nan.valid && k.nan.trapEn) <;> cases k.keeperReq <;> cases k.debugReq <;> rfl
  have hlt (n : Nat) (hn : n < 8) : (k.mask k.level < BitVec.ofNat 3 n) ↔ mask < n := by
    rw [hm, BitVec.lt_def, BitVec.toNat_ofNat, Nat.mod_eq_of_lt hn]
  have h7 : k.mask k.level < (7 : BitVec 3) ↔ mask < 7 := hlt 7 (by decide)
  have h6 : k.mask k.level < (6 : BitVec 3) ↔ mask < 6 := hlt 6 (by decide)
  have h5 : k.mask k.level < (5 : BitVec 3) ↔ mask < 5 := hlt 5 (by decide)
  unfold Carrel.takeable
  simp only [hp0, hp1, hp2, Bool.and_eq_true, Bool.not_eq_true', decide_eq_true_eq, h7, h6, h5, hl, and_true]
  grind

/-! ### The watchdog -/

/-- The plan in slot `i` after the plan in slot `j` has been changed. -/
theorem State.plan_modPlan (s : State) (i j : Nat) {f : Plan → Plan} (hf : ∀ p, (f p).present = p.present) :
    (s.modPlan j f).plan i = (s.plan i).map fun p => if j = i then f p else p := by
  have hkey (x : Nat × Plan) : (if x.1 = j then (x.1, f x.2) else (x.1, x.2)).1 = x.1 := by split <;> rfl
  have hpres (x : Nat × Plan) : (if x.1 = j then (x.1, f x.2) else (x.1, x.2)).2.present = x.2.present := by
    split
    · exact hf _
    · rfl
  unfold State.plan State.modPlan
  dsimp only
  rw [List.find?_map]
  simp only [Function.comp_def, hkey, hpres]
  cases hx : s.plans.find? fun x => decide (x.1 = i) && x.2.present with
  | none => rfl
  | some x =>
    have hi : x.1 = i := by
      have h := List.find?_some hx
      simp only [Bool.and_eq_true, decide_eq_true_eq] at h
      exact h.1
    subst hi
    by_cases hj : x.1 = j
    · simp [hj]
    · simp [hj, Ne.symm hj]

/-- A carrel as the watchdog stops it. -/
def Carrel.overran (k : Carrel) : Carrel :=
  { k.abandon with
    overrun := true
    wd := { k.wd with run := false, ovr := true, count := k.wd.budget + 1
                      max := if k.wd.max < k.wd.budget + 1 then k.wd.budget + 1 else k.wd.max } }

theorem Carrel.abandon_abandon (k : Carrel) : k.abandon.abandon = k.abandon := by
  simp only [Carrel.abandon, List.filter_filter, Bool.and_self]

/-- The plan of a carrel that has overrun is marked. -/
def State.markOverrun (s : State) (c : BitVec 12) : State :=
  match s.planOf c with
  | some (i, _) => s.modPlan i fun p => { p with overrun := true }
  | none => s

theorem overrun_body {c : BitVec 12} {s : State} (hc : (s.carrel c).counting = true)
    (hv : ∀ op a l, (s.carrel c).wait ≠ .vecAck op a l) :
    Sys2Proof.Machine.exec (.overrun c) s = .next (((s.setCarrel c (s.carrel c).overran).markOverrun c).fault c
      { code := 0x09, detail := place (s.carrel c).wd.phase 0 ||| place (s.carrel c).wd.budget 32 }) := by
  have hvec : s.vecIssued c = s := by
    unfold State.vecIssued
    split
    · next op a l h => exact absurd h (hv op a l)
    · rfl
  change Host.Outcome.next (if (s.carrel c).counting then _ else s) = _
  rw [if_pos hc, hvec]
  rfl

/-! ### The frame of an overrun, and nothing to do -/

theorem State.markOverrun_plans (s : State) (c : BitVec 12) : ∃ ps, s.markOverrun c = { s with plans := ps } := by
  unfold State.markOverrun
  split
  · exact ⟨_, rfl⟩
  · exact ⟨s.plans, rfl⟩

theorem State.markOverrun_plan (s : State) (c : BitVec 12) {i : Nat} {p : Plan} (hp : s.plan i = some p) :
    (s.markOverrun c).plan i =
      some (if ∃ x ∈ (s.carrel c).plan, x.toNat = i then { p with overrun := true } else p) := by
  unfold State.markOverrun State.planOf
  cases hk : (s.carrel c).plan with
  | none => simpa using hp
  | some x =>
    simp only [Option.bind_some, Option.mem_some_iff, exists_eq_left']
    cases hx : s.plan x.toNat with
    | none =>
      have hne : x.toNat ≠ i := by
        intro h
        rw [h, hp] at hx
        cases hx
      simpa [hne] using hp
    | some q =>
      simp only [Option.map_some]
      refine (State.plan_modPlan s i x.toNat (f := fun p => { p with overrun := true }) fun _ => rfl).trans ?_
      rw [hp]
      rfl

theorem watchdog_words (p : BitVec 8) (q : BitVec 32) :
    (place p 0 ||| place q 32).toNat = p.toNat + 2 ^ 32 * q.toNat := by
  have hp : (place p 0).toNat = p.toNat := by rw [place_toNat p 0 (by decide)]; simp
  rw [or_place_toNat _ _ 32 (by rw [hp]; have := p.isLt; omega) (by decide), hp]

theorem Carrel.overran_abandon (k : Carrel) : k.overran.abandon = k.overran := by
  simp only [Carrel.overran, Carrel.abandon, List.filter_filter, Bool.and_self]

/-- The watchdog enters. -/
theorem overrun_enters (c : BitVec 12) (s : State) :
     let k := s.carrel c
     let n := k.wd.budget + 1
     k.counting = true → (∀ op a l, k.wait ≠ .vecAck op a l) → k.rescue = false → k.seals.length < 4 →
     k.xspValid 2 = true →
     let a := shelfBase c.toNat + 64 * (k.xspMTop.toNat - 1)
     ∃ t, Sys2Proof.Machine.exec (.overrun c) s = .next t ∧
       t = { s with mem := t.mem, carrels := t.carrels, plans := t.plans, fresh := s.fresh + 1 } ∧
       t.le a 8 = k.resumePc.toNat ∧ t.le (a + 16) 8 = 0x09 ∧
       t.le (a + 8) 8 =
         (statusWord k.level (repKind k.rep) k.maskM false 0 0 k.dbank false false k.sealNext).toNat ∧
       t.le (a + 40) 8 = k.wd.phase.toNat + 2 ^ 32 * k.wd.budget.toNat ∧
       (∀ b, b < a ∨ a + 64 ≤ b → t.byte b = s.byte b) ∧ (∀ d, d ≠ c → t.carrel d = s.carrel d) ∧
       (∀ i p, s.plan i = some p → t.plan i =
         some (if ∃ x ∈ k.plan, x.toNat = i then { p with overrun := true } else p)) ∧
       t.carrel c = { k.abandon with
         level := 2, dbank := 2, rep := none, overrun := true
         wd := { k.wd with run := false, ovr := true, count := n, max := if k.wd.max < n then n else k.wd.max }
         sealNext := nextSeal k.sealNext, seals := { tag := k.sealNext, shadow := false, hlvl := 2 } :: k.seals
         xspMTop := k.xspMTop - 1, pc := vecAddr k.xvecM } := by
  intro k n hcount hvec hres hroom hx a
  let u := (s.setCarrel c k.overran).markOverrun c
  let x : Exc := { code := 0x09, detail := place k.wd.phase 0 ||| place k.wd.budget 32 }
  obtain ⟨ps, hps⟩ := State.markOverrun_plans (s.setCarrel c k.overran) c
  have huc : u.carrel c = k.overran :=
    (congrArg (fun s => State.carrel s c) hps).trans (State.carrel_setCarrel_same s c k.overran)
  have hent : (u.carrel c).entersAt x.code 2 := by
    rw [huc]
    exact ⟨hres, rfl, Nat.lt_of_lt_of_le (k.overran.mask k.overran.level).isLt (show 2 ^ 3 ≤ causeStep 0x09 by
        decide), hroom, hx⟩
  obtain ⟨hpc, hst, hcode, -, -, hdet, -, -, hbyte, hcar, heq, hother⟩ := State.fault_entered c u x 2 hent
  rw [huc, show (k.overran.xsp 2).1 = k.xspMTop from rfl] at hpc hst hcode hdet hbyte
  rw [huc] at hcar
  have hw : statusWord k.overran.level (repKind k.overran.rep) (k.overran.mask 2) false 0 0 k.overran.dbank
      (decide (x.code ≠ 0x09)) false k.overran.sealNext = statusWord k.level (repKind k.rep) k.maskM false 0 0 k.dbank
      false false k.sealNext := rfl
  rw [hw] at hst
  refine ⟨u.fault c x, overrun_body hcount hvec, ?_, hpc, hcode, hst, hdet.trans (watchdog_words _ _),
    fun b hb => ?_, fun d hd => ?_, fun i p hp => ?_, ?_⟩
  · rw [heq, show u = _ from hps]
    rfl
  · have hub : u.byte b = s.byte b := by
      change ((s.setCarrel c k.overran).markOverrun c).byte b = _
      rw [hps]
      rfl
    exact (hbyte b hb).trans hub
  · refine (hother d hd).trans ?_
    exact (congrArg (fun s => State.carrel s d) hps).trans (State.carrel_setCarrel_other s k.overran hd)
  · have := State.markOverrun_plan (s.setCarrel c k.overran) c (i := i) (p := p) hp
    rw [State.carrel_setCarrel_same] at this
    exact (congrArg (fun s => State.plan s i) heq).trans this
  · rw [hcar, k.overran_abandon]
    simp only [show ¬ (2 : BitVec 2) = 1 by decide, if_false, Carrel.overran]
    rfl
theorem State.takePending_none {s : State} {c : BitVec 12}
    (h : (s.carrel c).inRepx = true ∨ ((s.carrel c).imprecise = none ∧ (s.carrel c).takeable = none)) :
    s.takePending c = none := by
  unfold State.takePending
  rcases h with h | ⟨himp, htake⟩
  · simp only [h, if_true]
  · simp only [himp, htake, ite_self]

/-- Nothing that can be taken: nothing happens. -/
theorem interrupt_none {c : BitVec 12} {s : State}
    (h : (s.carrel c).inRepx = true ∨ ((s.carrel c).imprecise = none ∧ (s.carrel c).takeable = none)) :
    Sys2Proof.Machine.exec (.interruptEntry c) s = .next s := by
  change Host.Outcome.next (if (s.carrel c).idle then (s.takePending c).getD s else s) = _
  rw [State.takePending_none h, Option.getD_none, ite_self]

/-- A watchdog that does not count does not overrun. -/
theorem overrun_not_counting {c : BitVec 12} {s : State} (h : (s.carrel c).wd.run = false ∨
    (∃ q n m p, (s.carrel c).wait = .issue q n m p) ∨ (∃ e n, (s.carrel c).wait = .qwait e n)) :
    Sys2Proof.Machine.exec (.overrun c) s = .next s := by
  have hc : (s.carrel c).counting = false := by
    unfold Carrel.counting
    rcases h with h | ⟨q, n, m, p, h⟩ | ⟨e, n, h⟩
    · rw [h, Bool.false_and, Bool.false_and]
    · rw [h, Bool.and_false]
    · rw [h, Bool.and_false]
  change Host.Outcome.next (if (s.carrel c).counting then _ else s) = _
  rw [if_neg (by rw [hc]; decide)]

theorem carrelWake_eq (c : BitVec 12) (s : State) :
    Sys2Proof.Machine.exec (.carrelWake c) s = .next (s.setCarrel c { s.carrel c with
       waking := false
       power := if (s.carrel c).plan ≠ none ∧ (s.carrel c).wait ≠ .rest then .run else (s.carrel c).power }) := by
  change Host.Outcome.next (s.setCarrel c { s.carrel c with
    waking := false
    power := if (s.carrel c).plan.isSome ∧ (s.carrel c).wait ≠ .rest then .run else (s.carrel c).power }) = _
  simp only [Option.isSome_iff_ne_none]

/-- Settles O25: an interrupt and the watchdog enter as the frame of `State.enterAs` says, each by the case of its
row. -/
theorem interrupts : Obligations.Interrupts := by
  unfold Obligations.Interrupts
  exact ⟨⟨interrupt_enters, takeable_spec, fun c s => ⟨interrupt_none, fun on => rfl⟩⟩,
    overrun_enters, fun c s => ⟨overrun_not_counting, carrelWake_eq c s⟩⟩

end Sys2Proof.Machine
end

section
/-!
# The memory-side operations
-/
namespace Sys2Proof.Machine

/-- The signed reading of a value that fits its width. -/
theorem sInt_of_lt {w x : Nat} (hw : 0 < w) (hx : x < 2 ^ w) :
    sInt w x = if x < 2 ^ (w - 1) then (x : Int) else (x : Int) - 2 ^ w := by
  obtain ⟨n, rfl⟩ : ∃ n, w = n + 1 := ⟨w - 1, by omega⟩
  unfold sInt
  rw [BitVec.toInt_eq_toNat_cond, BitVec.toNat_ofNat, Nat.mod_eq_of_lt hx]
  have hp : 2 ^ (n + 1) = 2 * 2 ^ n := by rw [Nat.pow_succ, Nat.mul_comm]
  have hi : ((2 ^ (n + 1) : Nat) : Int) = 2 ^ (n + 1) := by push_cast; rfl
  rw [hi, hp, Nat.add_sub_cancel]
  simp only [Nat.mul_lt_mul_left Nat.two_pos]

/-- Settles O32: each operation of the table is the model's own, its operand cut to the width of the operation. -/
theorem memorySideOperations : Obligations.MemorySideOperations := by
  unfold Obligations.MemorySideOperations
  intro signed fp w o x c m new
  have h4 {y : Nat} (hy : y < 2 ^ 32) : sInt 32 y = signed 4 y := sInt_of_lt (by decide) hy
  have h8 {y : Nat} (hy : y < 2 ^ 64) : sInt 64 y = signed 8 y := sInt_of_lt (by decide) hy
  have hx4 : x % 2 ^ 32 < 2 ^ 32 := Nat.mod_lt _ (by decide)
  have hx8 : x % 2 ^ 64 < 2 ^ 64 := Nat.mod_lt _ (by decide)
  have hlo : x % 2 ^ 32 % 65536 = x % 65536 := Nat.mod_mod_of_dvd x (by decide)
  refine ⟨fun ho => ⟨Nat.add_mod_mod _ _ _, ?_, ?_, rfl, ?_⟩,
    fun ho => ⟨Nat.add_mod_mod _ _ _, ?_, ?_, rfl, rfl⟩, fun _ => ?_⟩
  · rw [← h4 ho, ← h4 hx4]
    rfl
  · rw [← h4 ho, ← h4 hx4]
    rfl
  · rw [← hlo]
    rfl
  · rw [← h8 ho, ← h8 hx8]
    rfl
  · rw [← h8 ho, ← h8 hx8]
    rfl
  · cases w
    · exact ⟨rfl, rfl, rfl, rfl, rfl⟩
    · exact ⟨rfl, rfl, rfl, rfl, rfl⟩

end Sys2Proof.Machine
end

section
/-!
# Links: reads and writes of one link, and what sending on a link changes
-/
namespace Sys2Proof.Machine

/-! ### One link -/

@[simp] theorem State.link_modLink_same (s : State) (l : Nat) (f : Link → Link) :
    (s.modLink l f).link l = f (s.link l) :=
  Tab.get_set_same _ _ _ _

theorem State.link_modLink_other (s : State) {l m : Nat} (f : Link → Link) (h : m ≠ l) :
    (s.modLink l f).link m = s.link m :=
  Tab.get_set_other _ _ _ _ _ h

/-- Nothing but link `l` differs between the two states. -/
def OnlyLink (l : Nat) (s t : State) : Prop :=
  (∃ ls, t = { s with links := ls }) ∧ ∀ m, m ≠ l → t.link m = s.link m

theorem OnlyLink.refl (l : Nat) (s : State) : OnlyLink l s s := ⟨⟨s.links, rfl⟩, fun _ _ => rfl⟩

theorem OnlyLink.modLink {l : Nat} {s t : State} (h : OnlyLink l s t) (f : Link → Link) :
    OnlyLink l s (t.modLink l f) := by
  obtain ⟨⟨ls, ht⟩, ho⟩ := h
  refine ⟨?_, fun m hm => (State.link_modLink_other t f hm).trans (ho m hm)⟩
  rw [ht]
  exact ⟨_, rfl⟩

theorem OnlyLink.state {l : Nat} {s t : State} (h : OnlyLink l s t) : t = { s with links := t.links } := by
  obtain ⟨⟨ls, ht⟩, -⟩ := h
  rw [ht]

theorem OnlyLink.modLink_self (l : Nat) (s : State) (f : Link → Link) : OnlyLink l s (s.modLink l f) :=
  (OnlyLink.refl l s).modLink f

/-- A link with nothing queued offers nothing. -/
theorem State.flushTx_of_empty {s : State} {l : Nat} (hq : (s.link l).txq = []) :
    OnlyLink l s (s.flushTx l) ∧ (s.flushTx l).link l = s.link l := by
  have he : { s.link l with txq := [] } = s.link l := by rw [← hq]
  have ha : arbitrate s.tick.no.toNat [] = [] := rfl
  unfold State.flushTx
  dsimp only
  split
  · rw [hq, ha, List.foldl_nil]
    refine ⟨OnlyLink.modLink_self _ _ _, ?_⟩
    rw [State.link_modLink_same]
    exact he
  · exact ⟨OnlyLink.refl _ _, rfl⟩

theorem OnlyLink.trans {l : Nat} {s t u : State} (h : OnlyLink l s t) (h' : OnlyLink l t u) : OnlyLink l s u := by
  obtain ⟨⟨ls, ht⟩, ho⟩ := h
  obtain ⟨⟨ls', hu⟩, ho'⟩ := h'
  refine ⟨⟨ls', ?_⟩, fun m hm => (ho' m hm).trans (ho m hm)⟩
  rw [hu, ht]

/-! ### Items and their headers -/

theorem extractLsb'_place_high {w : Nat} (x : BitVec w) {lo a n : Nat} (h : a + n ≤ lo) :
    (place x lo).extractLsb' a n = 0 := by
  apply BitVec.eq_of_getLsbD_eq
  intro i hi
  unfold place
  simp only [BitVec.getLsbD_extractLsb', BitVec.getLsbD_shiftLeft]
  simp
  omega

theorem itemHdr_kind (kind : Nat) (src dst : BitVec 12) (tag : BitVec 16) (part : BitVec 6) (planned : Bool)
    (op : BitVec 4) (ret w : Bool) :
    fieldN (itemHdr kind src dst tag part planned op ret w) 0 4 = kind % 16 := by
  unfold fieldN itemHdr
  simp (disch := omega) only [BitVec.extractLsb'_or, extractLsb'_place_high]
  simp [word]

/-! ### Sending -/

/-- Only the links and what has been sent differ. -/
def SendsOnly (s t : State) : Prop := ∃ ls ss, t = { s with links := ls, sent := ss }

theorem SendsOnly.refl (s : State) : SendsOnly s s := ⟨s.links, s.sent, rfl⟩

theorem SendsOnly.trans {s t u : State} (h : SendsOnly s t) (h' : SendsOnly t u) : SendsOnly s u := by
  obtain ⟨ls, ss, rfl⟩ := h
  obtain ⟨ls', ss', rfl⟩ := h'
  exact ⟨ls', ss', rfl⟩

theorem SendsOnly.modLink (s : State) (l : Nat) (f : Link → Link) : SendsOnly s (s.modLink l f) := ⟨_, s.sent, rfl⟩

theorem SendsOnly.send (s : State) (x : Sent) : SendsOnly s (s.send x) := ⟨s.links, _, rfl⟩

theorem SendsOnly.state {s t : State} (h : SendsOnly s t) : t = { s with links := t.links, sent := t.sent } := by
  obtain ⟨ls, ss, rfl⟩ := h
  rfl

theorem SendsOnly.foldl {α : Type} {f : State → α → State} (hf : ∀ s x, SendsOnly s (f s x)) (l : List α) :
    ∀ s, SendsOnly s (l.foldl f s) := by
  induction l with
  | nil => exact SendsOnly.refl
  | cons x l ih => exact fun s => (hf s x).trans (ih _)

/-- A flit without a tick mark. -/
theorem SendsOnly.emitFlit (s : State) (l : Nat) (us : List Word) : SendsOnly s (s.emitFlit l false us) :=
  ⟨_, _, rfl⟩

theorem SendsOnly.emitItem (s : State) (l : Nat) {i : Item} (hi : i.kind ≠ 7) : SendsOnly s (s.emitItem l i) := by
  unfold State.emitItem
  dsimp only
  split
  · exact SendsOnly.modLink _ _ _
  · rw [decide_eq_false hi]
    exact (SendsOnly.foldl (fun s us => SendsOnly.emitFlit s l us) _ s).trans (SendsOnly.modLink _ _ _)

theorem errorItem_kind (i : Item) (code : Nat) : (errorItem i code).kind = 6 := itemHdr_kind _ _ _ _ _ _ _ _ _

theorem SendsOnly.sendOn (n : Nat) : ∀ (s : State) (l : Nat) {i : Item}, i.kind ≠ 7 → SendsOnly s (s.sendOn l i n) := by
  induction n with
  | zero => exact fun s _ _ _ => SendsOnly.refl s
  | succ n ih =>
    intro s l i hi
    have he : (errorItem i 3).kind ≠ 7 := by rw [errorItem_kind]; decide
    unfold State.sendOn
    dsimp only
    split
    · exact SendsOnly.modLink _ _ _
    · split
      · exact SendsOnly.emitItem s l hi
      · split
        · exact SendsOnly.modLink _ _ _
        · split
          · split
            · exact ih s _ he
            · exact SendsOnly.refl s
          · exact SendsOnly.refl s

theorem SendsOnly.sendItem (s : State) {i : Item} (hi : i.kind ≠ 7) : SendsOnly s (s.sendItem i) := by
  have he : (errorItem i 3).kind ≠ 7 := by rw [errorItem_kind]; decide
  unfold State.sendItem
  split
  · exact SendsOnly.sendOn 2 s _ hi
  · split
    · dsimp only
      split
      · exact SendsOnly.sendOn 2 s _ he
      · exact SendsOnly.refl s
    · exact SendsOnly.refl s

end Sys2Proof.Machine
end

section
/-!
# Statuses and verdicts of a chain
-/
namespace Sys2Proof.Machine

/-- The statuses of `l` combined into `a`. -/
def Status.combineAll (a : Status) (l : List (Nat × Status)) : Status := l.foldl (fun a x => a.combine x.2) a

theorem Status.combineAll_spec (l : List (Nat × Status)) : ∀ a : Status,
    (a.combineAll l).tick = a.tick ∧ (a.combineAll l).fail = (a.fail || l.any (·.2.fail)) ∧
      (a.combineAll l).late = (a.late || l.any (·.2.late)) ∧
      (a.combineAll l).linkev = (a.linkev || l.any (·.2.linkev)) ∧
      ∀ c, c ∈ (a.combineAll l).ctxs ↔ c ∈ a.ctxs ∨ ∃ y ∈ l, c ∈ y.2.ctxs := by
  induction l with
  | nil => exact fun a => ⟨rfl, (Bool.or_false _).symm, (Bool.or_false _).symm, (Bool.or_false _).symm,
      fun c => by simp [Status.combineAll]⟩
  | cons x l ih =>
    intro a
    obtain ⟨htick, hfail, hlate, hev, hctx⟩ := ih (a.combine x.2)
    have hc : a.combineAll (x :: l) = (a.combine x.2).combineAll l := rfl
    rw [hc]
    refine ⟨htick, hfail.trans ?_, hlate.trans ?_, hev.trans ?_, fun c => (hctx c).trans ?_⟩
    · rw [List.any_cons, ← Bool.or_assoc]
      rfl
    · rw [List.any_cons, ← Bool.or_assoc]
      rfl
    · rw [List.any_cons, ← Bool.or_assoc]
      rfl
    · have : c ∈ (a.combine x.2).ctxs ↔ c ∈ a.ctxs ∨ c ∈ x.2.ctxs := by
        rw [Status.combine, List.mem_eraseDups, List.mem_append]
      simp only [this, List.mem_cons, exists_eq_or_imp, or_assoc]

theorem statusItem_kind (s : State) (v : Bool) (x : Status) : (s.statusItem v x).kind = 9 :=
  itemHdr_kind _ _ _ _ _ _ _ _ _

theorem State.takeStatus_chain {s u : State} {l : Nat} {v : Bool} {x : Status} (h : s.takeStatus l v = some (x, u)) :
    u.chain = s.chain := by
  unfold State.takeStatus State.takeRx at h
  cases hf : (s.link l).rx.find? _ with
  | none =>
    rw [hf] at h
    cases h
  | some i =>
    rw [hf] at h
    cases h
    rfl

theorem State.sendVerdict_spec (s : State) (x : Status) :
    SendsOnly { s with chain := { s.chain with verdict := some x } } (s.sendVerdict x) :=
  SendsOnly.foldl (fun s l => SendsOnly.sendOn 2 s l (by rw [statusItem_kind]; decide)) _ _

/-- The part of `State.statusReady` once the statuses of all children are here. -/
theorem State.statusReady_all {s : State} {own : Status} (ho : s.chain.own = some own)
    (hv : s.chain.verdict = none) (hall : ∀ m ∈ s.downLinks, ∃ y ∈ s.chain.statuses, y.1 = m) :
    s.statusReady = if s.chain.live.master then s.sendVerdict (verdictOf (own.combineAll s.chain.statuses) false)
      else s.sendOn s.chain.live.up.toNat (s.statusItem false (own.combineAll s.chain.statuses)) 2 := by
  have hc : (s.chain.verdict.isNone && s.downLinks.all fun l => s.chain.statuses.any fun x => decide (x.1 = l)) =
      true := by
    simpa [hv] using hall
  unfold State.statusReady
  simp only [ho, hc, if_true]
  rfl

theorem State.statusReady_missing {s : State} {own : Status} (ho : s.chain.own = some own)
    (hm : ∃ m ∈ s.downLinks, ∀ y ∈ s.chain.statuses, y.1 ≠ m) : s.statusReady = s := by
  have hc : (s.chain.verdict.isNone && s.downLinks.all fun l => s.chain.statuses.any fun x => decide (x.1 = l)) =
      false := by
    obtain ⟨m, hm, hy⟩ := hm
    simp only [Bool.and_eq_false_iff, List.all_eq_false, List.any_eq_true, decide_eq_true_eq]
    exact Or.inr ⟨m, hm, fun ⟨y, hy', he⟩ => hy y hy' he⟩
  unfold State.statusReady
  simp only [ho, hc, Bool.false_eq_true, if_false]

/-- Settles O42: a status is kept, and the last one releases the combination of them all. -/
theorem statusesAndVerdicts : Obligations.StatusesAndVerdicts := by
  unfold Obligations.StatusesAndVerdicts
  intro l s u x own all joins
  refine ⟨fun ht ho htick hl hv => ?_, fun ht hm hup ho htick => ?_, fun ho hm hv => ?_, fun h => ?_⟩
  · have hu := State.takeStatus_chain ht
    have huo : u.chain.own = some own := by rw [hu]; exact ho
    have hdown : u.downLinks = s.downLinks := by unfold State.downLinks; rw [hu]
    let w : State := { u with chain := { u.chain with statuses := u.chain.statuses ++ [(l.val, x)] } }
    have hw : w = { u with chain := { u.chain with statuses := all } } := by
      change { u with chain := { u.chain with statuses := u.chain.statuses ++ [(l.val, x)] } } = _
      rw [show u.chain.statuses = s.chain.statuses by rw [hu]]
    have hrun : Sys2Proof.Machine.exec (.tickStatus l) s = .next w.statusReady := by
      change execTickStatus l s = _
      have hc : u.downLinks.contains l.val = true := by rw [hdown]; simpa using hl
      rw [execTickStatus, ht]
      exact congrArg Host.Outcome.next (if_pos (by simp only [hc, huo, htick, decide_true, Bool.and_true]))
    have hwo : w.chain.own = some own := (congrArg Chain.own hu).trans ho
    have hwv : w.chain.verdict = none := (congrArg Chain.verdict hu).trans hv
    have hwall : w.chain.statuses = all := by rw [hw]
    have hwd : w.downLinks = s.downLinks := hdown
    refine ⟨fun hm => ?_, fun hm => ?_⟩
    · rw [hrun, State.statusReady_missing hwo (by rw [hwd, hwall]; exact hm), hw]
    · obtain ⟨h1, h2, h3, h4, h5⟩ := Status.combineAll_spec all own
      refine ⟨w.statusReady, verdictOf (own.combineAll all) false, hrun, ⟨h1, h2, h3, h4, h5⟩, Bool.or_false _, ?_⟩
      rw [State.statusReady_all hwo hwv (by rw [hwd, hwall]; exact hm), hwall]
      have hmaster : w.chain.live.master = s.chain.live.master := by rw [← hu]
      have hvn : u.chain.verdict = none := by rw [hu]; exact hv
      by_cases hma : s.chain.live.master = true
      · simp only [hmaster, hma, if_true]
        rw [(State.sendVerdict_spec w _).state, hw]
      · simp only [hmaster, hma]
        rw [(SendsOnly.sendOn 2 w _ (by rw [statusItem_kind]; decide)).state, hw, ← hvn]
        rfl
  · have hu := State.takeStatus_chain ht
    refine ⟨u.sendVerdict x, ?_, (State.sendVerdict_spec u x).state⟩
    change execVerdict l s = _
    unfold execVerdict
    simp only [ht, State.slave, hu, hm, hup, ho, htick]
    rfl
  · obtain ⟨h1, h2, h3, h4, h5⟩ := Status.combineAll_spec s.chain.statuses own
    refine ⟨s.sendVerdict (verdictOf (own.combineAll s.chain.statuses) true),
        verdictOf (own.combineAll s.chain.statuses) true, ?_, ⟨h1, h2, h3, h4, h5⟩,
      Bool.or_true _, (State.sendVerdict_spec s _).state⟩
    change execVerdictDeadline s = _
    unfold execVerdictDeadline
    simp only [ho, hm, hv]
    rfl
  · have hc : (s.chain.live.master && s.chain.verdict.isNone) = false := by
      rcases h with h | h
      · rw [h, Bool.false_and]
      · cases hv : s.chain.verdict with
        | none => exact absurd hv h
        | some v => exact Bool.and_false _
    change execVerdictDeadline s = _
    unfold execVerdictDeadline
    simp only [hc, Bool.false_eq_true, if_false]
    split <;> rfl

end Sys2Proof.Machine
end

section
/-!
# Flits
-/
namespace Sys2Proof.Machine

/-! ### Acknowledgements -/

theorem Link.ack_of_none {k : Link} {a : BitVec 12} (h : ∀ x ∈ k.replay, x.1 ≠ a) : k.ack a = k := by
  have hf : (upto k.replay.length).find? (fun i => (k.replay[i]?).any fun x => decide (x.1 = a)) = none := by
    rw [List.find?_eq_none]
    intro i _ hi
    obtain ⟨x, hx, he⟩ := Option.any_eq_true _ _ |>.mp hi
    exact h x (List.mem_of_getElem? hx) (of_decide_eq_true he)
  unfold Link.ack
  rw [hf]

theorem Link.ack_of_first {k : Link} {a : BitVec 12} {old rest : List (BitVec 12 × List Word)} {u : List Word}
    (hk : k.replay = old ++ (a, u) :: rest) (h : ∀ x ∈ old, x.1 ≠ a) :
    k.ack a = { k with replay := rest, tries := 0 } := by
  have hf : (upto k.replay.length).find? (fun i => (k.replay[i]?).any fun x => decide (x.1 = a)) = some old.length := by
    have hlen : k.replay.length = old.length + (rest.length + 1) := by
      rw [hk, List.length_append, List.length_cons]
    refine List.find?_range_eq_some.mpr ⟨?_, ?_, fun j hj => ?_⟩
    · rw [hk, List.getElem?_append_right (Nat.le_refl _), Nat.sub_self]
      exact decide_eq_true rfl
    · rw [List.mem_range, hlen]
      omega
    · rw [hk, List.getElem?_append_left hj, List.getElem?_eq_getElem hj, Option.any_some,
        decide_eq_false (h _ (List.getElem_mem hj))]
      rfl
  unfold Link.ack
  rw [hf, hk]
  dsimp only
  rw [List.drop_append]
  simp

/-- An acknowledgement changes the replay buffer and the resend count alone. -/
theorem Link.ack_eq (k : Link) (a : BitVec 12) : ∃ r n, k.ack a = { k with replay := r, tries := n } := by
  unfold Link.ack
  split
  · exact ⟨_, _, rfl⟩
  · exact ⟨k.replay, k.tries, rfl⟩

/-! ### Items -/

theorem State.takeItems_whole (s : State) {i : Item} (hne : i ≠ []) (h9 : i.kind ≠ 9) (hl : i.length =
    itemUnits i.hdr) :
    s.takeItems i.length i = ([i], []) := by
  obtain ⟨h, t, rfl⟩ := List.exists_cons_of_ne_nil hne
  have hnil (n : Nat) : s.takeItems n [] = ([], []) := by cases n <;> rfl
  have hu : s.unitsOf h (t.headD 0) = (h :: t).length := by
    unfold State.unitsOf
    exact (if_neg h9).trans hl.symm
  rw [List.length_cons, State.takeItems, if_neg (fun hc => h9 hc.1)]
  dsimp only
  rw [hu, if_neg (Nat.lt_irrefl _), List.drop_length, hnil, List.take_length]

theorem State.takeItems_congr {s t : State} (h : t.chain = s.chain) (n : Nat) :
    ∀ l, t.takeItems n l = s.takeItems n l := by
  have hu (a b : Word) : t.unitsOf a b = s.unitsOf a b := by unfold State.unitsOf; rw [h]
  induction n with
  | zero => exact fun _ => rfl
  | succ n ih =>
    intro l
    cases l with
    | nil => rfl
    | cons a l =>
      unfold State.takeItems
      simp only [hu, ih]

/-! ### A flit -/

/-- A link that takes the units of a flit in its sequence: whole items, and what is left. -/
def Link.took (k : Link) (r : List Item × List Word) : Link :=
  { k with rxSeq := k.rxSeq + 1, rxPart := r.2, rx := k.rx ++ r.1.filter fun i => i.kind ≤ 12 }

/-- The units that wait on a link once it takes the flit. -/
def Link.units (k : Link) (f : FlitIn) : List Word := k.rxPart ++ f.payload.take (fieldN f.hdr 36 5)

/-- A flit with a good CRC, without NAK and drop request, on a link with nothing to send. -/
theorem State.flitIn_good {s : State} {l : Nat} {f : FlitIn} (hc : f.crcOk = true) (hn : f.hdr.getLsbD 24 = false)
    (hd : f.hdr.extractLsb' 41 4 = 0#4) (hq : (s.link l).txq = []) :
    let k := s.link l
    let j := ({ k with fecCorr := satAdd k.fecCorr f.fecCorr.toNat } : Link).ack (field f.hdr 12 12)
    OnlyLink l s (s.flitIn l f) ∧
      (s.flitIn l f).link l = if field f.hdr 0 12 = k.rxSeq then
        j.took (s.takeItems (j.units f).length (j.units f)) else j := by
  intro k j
  let c : State := s.modLink l fun k => { k with fecCorr := satAdd k.fecCorr f.fecCorr.toNat }
  let a : State := c.modLink l fun k => k.ack (field f.hdr 12 12)
  have ha : a.link l = j := by
    rw [State.link_modLink_same, State.link_modLink_same]
  obtain ⟨r, n, hj⟩ := Link.ack_eq { k with fecCorr := satAdd k.fecCorr f.fecCorr.toNat } (field f.hdr 12 12)
  have hjq : j.txq = [] := by rw [show j = _ from hj]; exact hq
  have hjs : j.rxSeq = k.rxSeq := by rw [show j = _ from hj]
  have hsa : OnlyLink l s a := (OnlyLink.modLink_self l s _).modLink _
  have hrun : s.flitIn l f = (if field f.hdr 0 12 = (a.link l).rxSeq then
      a.modLink l fun k => k.took (a.takeItems ((a.link l).units f).length ((a.link l).units f)) else a).flushTx l := by
    unfold State.flitIn
    have hd' : fieldN f.hdr 41 4 = 0 := congrArg BitVec.toNat hd
    simp only [hc, hn, hd', Bool.false_eq_true, if_false, show ¬ (1 ≤ 0 ∧ 0 ≤ 8) by decide, reduceCtorEq, a, c,
      Link.took, Link.units]
  have htake (l : List Word) : a.takeItems l.length l =
      s.takeItems l.length l := State.takeItems_congr (s := s) (t := a) rfl _ _
  rw [hrun, ha, hjs, htake]
  by_cases hseq : field f.hdr 0 12 = k.rxSeq
  · rw [if_pos hseq, if_pos hseq]
    have hl : (a.modLink l fun k => k.took (s.takeItems (j.units f).length (j.units f))).link l =
        j.took (s.takeItems (j.units f).length (j.units f)) := by
      rw [State.link_modLink_same, ha]
    obtain ⟨hf, he⟩ := State.flushTx_of_empty (l := l) (s := a.modLink l fun k => k.took (s.takeItems (j.units
        f).length (j.units f)))
      (by rw [hl]; exact hjq)
    exact ⟨(hsa.modLink _).trans hf, he.trans hl⟩
  · rw [if_neg hseq, if_neg hseq]
    obtain ⟨hf, he⟩ := State.flushTx_of_empty (l := l) (s := a) (by rw [ha]; exact hjq)
    exact ⟨hsa.trans hf, he.trans ha⟩

theorem Link.rxOpen_iff (k : Link) :
    k.rxOpen = true ↔ k.state = 2 ∨ k.state = 3 ∨ (k.state = 4 ∧ k.dropRx = false) := by
  unfold Link.rxOpen Link.open_
  simp only [Bool.or_eq_true, Bool.and_eq_true, decide_eq_true_eq, Bool.not_eq_true', or_assoc]

theorem flit_run {l : Fin 12} {s : State} {f : FlitIn} (hl : f.payload.length = 29) :
    Sys2Proof.Machine.exec (.flit l f) s = .next (if (s.link l.val).rxOpen then s.flitIn l.val f else s) :=
  if_pos hl

theorem State.flitIn_bad {s : State} {l : Nat} {f : FlitIn} (hc : f.crcOk = false) :
    OnlyLink l s (s.flitIn l f) ∧
      (s.flitIn l f).link l = { s.link l with fecCorr := satAdd (s.link l).fecCorr f.fecCorr.toNat, nak := true } := by
  have hrun : s.flitIn l f = (s.modLink l fun k => { k with fecCorr := satAdd k.fecCorr f.fecCorr.toNat }).modLink l
      fun k => { k with nak := true } := by
    unfold State.flitIn
    simp only [hc, if_true]
  rw [hrun]
  refine ⟨(OnlyLink.modLink_self l s _).modLink _, ?_⟩
  rw [State.link_modLink_same, State.link_modLink_same]

/-- Settles O34: a flit with a good CRC acts as `Link.ack` and `Link.took` say, and any other leaves the link but
for its counters. -/
theorem flitsAreReceivedInOrder : Obligations.FlitsAreReceivedInOrder := by
  unfold Obligations.FlitsAreReceivedInOrder
  intro l s f hlen k h seq ack counted receives
  refine ⟨fun hr => ?_, fun hr => ⟨fun hc => ?_, fun hc hn hd hq => ?_⟩⟩
  · rw [flit_run hlen, if_neg fun ho => hr ((Link.rxOpen_iff k).mp ho)]
  · obtain ⟨ho, hk⟩ := State.flitIn_bad (s := s) (l := l.val) hc
    exact ⟨_, (flit_run hlen).trans (congrArg Host.Outcome.next (if_pos ((Link.rxOpen_iff k).mpr hr))), ho.state,
        ho.2, hk⟩
  · obtain ⟨ho, hk⟩ := State.flitIn_good (s := s) (l := l.val) hc hn hd hq
    obtain ⟨r, n, hj⟩ := Link.ack_eq counted ack
    refine ⟨_, (flit_run hlen).trans (congrArg Host.Outcome.next (if_pos ((Link.rxOpen_iff k).mpr hr))), ho.state,
        ho.2, ?_⟩
    have hk' : (s.flitIn l.val f).link l.val = if seq = k.rxSeq then
      (counted.ack ack).took (s.takeItems ((counted.ack ack).units f).length ((counted.ack ack).units f))
      else counted.ack ack := hk
    have hun : k.rxPart = [] → (counted.ack ack).units f = f.payload.take (h.extractLsb' 36 5).toNat := by
      intro hp
      rw [hj]
      unfold Link.units
      simp only [counted, hp, List.nil_append]
      rfl
    refine ⟨fun hnone => ?_, fun old u rest hr ho => ?_, fun hne => ?_, fun he => ⟨?_,
        fun i hp hi hi0 hi9 hi12 hil => ?_⟩⟩
    · have hsame : counted.ack ack = counted := Link.ack_of_none hnone
      rw [hk', hsame]
      split <;> exact ⟨rfl, rfl⟩
    · have hfirst : counted.ack ack = { counted with replay := rest, tries := 0 } := Link.ack_of_first hr ho
      rw [hk', hfirst]
      split <;> exact ⟨rfl, rfl⟩
    · rw [hk', if_neg hne, hj]
    · rw [hk', if_pos he, hj]
      rfl
    · rw [hk', if_pos he, hun hp, ← hi, State.takeItems_whole s hi0 hi9 hil, hj]
      refine ⟨?_, rfl⟩
      change k.rx ++ [i].filter (fun i => i.kind ≤ 12) = _
      rw [List.filter_singleton, decide_eq_true hi12, cond_true]

end Sys2Proof.Machine
end

section
/-!
# What a report changes
-/
namespace Sys2Proof.Machine

/-- What a report may change, `n` reports being numbered: memory, the events of the host's contexts, the ring, the
EMCY queue and what has been sent. -/
def Reported (n : Nat) (s t : State) : Prop :=
  ∃ m lost ctxs ring errReg emcy inhibit sent,
    t = { s with
      mem := m, lost := lost, host := { s.host with ctxs := ctxs }, census := { s.census with ring := ring },
          sent := sent
      dict := { s.dict with errReg := errReg, emcy := emcy, inhibit := inhibit } } ∧
    ring.num = s.census.ring.num + n

theorem Reported.refl (s : State) : Reported 0 s s := ⟨_, _, _, _, _, _, _, _, rfl, rfl⟩

theorem Reported.trans {a b : Nat} {s t u : State} (h : Reported a s t) (h' : Reported b t u) :
    Reported (a + b) s u := by
  obtain ⟨_, _, _, _, _, _, _, _, rfl, hn⟩ := h
  obtain ⟨_, _, _, _, _, _, _, _, rfl, hn'⟩ := h'
  exact ⟨_, _, _, _, _, _, _, _, rfl, hn'.trans (by rw [hn, Nat.add_assoc])⟩

theorem Reported.then {n : Nat} {s t u : State} (h : Reported n s t) (h' : Reported 0 t u) : Reported n s u :=
  h.trans h'

theorem Reported.setRing {s : State} {n : Nat} {r : Ring} (hr : r.num = s.census.ring.num + n) :
    Reported n s (s.setRing r) :=
  ⟨_, _, _, r, _, _, _, _, rfl, hr⟩

theorem Reported.emcyNext (s : State) : Reported 0 s s.emcyNext := by
  unfold State.emcyNext
  split <;> exact ⟨_, _, _, _, _, _, _, _, rfl, rfl⟩

theorem Reported.emcy (s : State) (code : BitVec 16) (b n : Option Nat) : Reported 0 s (s.emcy code b n) := by
  have he (s : State) (e : BitVec 8) : Reported 0 s { s with dict := { s.dict with errReg := e } } :=
    ⟨_, _, _, _, _, _, _, _, rfl, rfl⟩
  have hq (s : State) : Reported 0 s { s with dict := { s.dict with emcy := s.dict.emcy ++ [(code, b.getD 8, n)] } } :=
    ⟨_, _, _, _, _, _, _, _, rfl, rfl⟩
  have htail (s : State) : Reported 0 s (if s.canTalk then
      let s := { s with dict := { s.dict with emcy := s.dict.emcy ++ [(code, b.getD 8, n)] } }
      if s.dict.inhibit then s else s.emcyNext
    else s) := by
    split
    · dsimp only
      split
      · exact hq s
      · exact (hq s).trans (Reported.emcyNext _)
    · exact Reported.refl s
  unfold State.emcy
  cases b with
  | none => exact htail s
  | some b => exact (he s _).trans (htail _)

theorem Reported.recordEmcy (s : State) (code : BitVec 16) (n : Nat) : Reported 0 s (s.recordEmcy code n) := by
  unfold State.recordEmcy
  split
  · exact Reported.emcy _ _ _ _
  · split
    · exact Reported.emcy _ _ _ _
    · split
      · exact Reported.emcy _ _ _ _
      · exact Reported.refl s

theorem Reported.ringLose (s : State) : Reported 0 s s.ringLose := by
  unfold State.ringLose
  exact (Reported.setRing (n := 0) rfl).then (Reported.emcy _ _ _ _)

theorem Reported.sendMsix (s : State) (f : BitVec 6) (v : BitVec 16) : Reported 0 s (s.sendMsix f v) := by
  unfold State.sendMsix
  split <;> exact ⟨_, _, _, _, _, _, _, _, rfl, rfl⟩

theorem Reported.raiseCtx (s : State) (c : Nat) : Reported 0 s (s.raiseCtx c) := by
  have h : Reported 0 s (s.modHctx c fun h => { h with event := true }) := ⟨_, _, _, _, _, _, _, _, rfl, rfl⟩
  exact h.trans (Reported.sendMsix _ _ _)

theorem Reported.store (s : State) (a : Nat) (b : List Byte) : Reported 0 s (s.store a b) := by
  unfold State.store State.clearLost
  rw [State.setBytes_eq]
  split
  · exact ⟨_, _, _, _, _, _, _, _, rfl, rfl⟩
  · exact ⟨_, _, _, _, _, _, _, _, rfl, rfl⟩

theorem State.store_census (s : State) (a : Nat) (b : List Byte) : (s.store a b).census = s.census := by
  unfold State.store State.clearLost
  rw [State.setBytes_eq]
  split <;> rfl

theorem Reported.ringWrite (s : State) (h : HeldReport) : Reported 0 s (s.ringWrite h) := by
  unfold State.ringWrite
  extract_lets r a hrep rep s1 s2 s3
  split
  · exact Reported.ringLose s
  · have h1 : Reported 0 s s1 := Reported.store s a _
    have hr : s1.census.ring = r := congrArg Census.ring (State.store_census s a _)
    have h2 : Reported 0 s s2 := h1.then (Reported.setRing (by rw [hr]; rfl))
    have h3 : Reported 0 s s3 := h2.then (Reported.sendMsix _ 0 0)
    split
    · exact h3.then (Reported.raiseCtx _ _)
    · exact h3

/-- A report is numbered, and changes nothing else than `Reported` allows. -/
theorem State.report_spec (s : State) (rep : Report) (ref : Option Nat) : Reported 1 s (s.report rep ref) := by
  unfold State.report
  extract_lets r h s1 t l u v s2
  have h1 : Reported 1 s s1 := Reported.setRing rfl
  split
  · split
    · exact h1.then (Reported.ringWrite _ _)
    · exact (h1.then (Reported.ringWrite _ _)).then (Reported.recordEmcy _ _ _)
  · have h2 : Reported 1 s s2 := by
      change Reported 1 s (if _ then _ else _)
      split
      · exact (h1.then (Reported.ringLose _)).then (Reported.setRing rfl)
      · exact h1.then (Reported.setRing rfl)
    exact h2.then (Reported.recordEmcy _ _ _)

end Sys2Proof.Machine
end

section
/-!
# The states of a link
-/
namespace Sys2Proof.Machine

/-! ### Reports and links -/

theorem State.report_link (s : State) (rep : Report) (m : Nat) : (s.report rep).link m = s.link m := by
  obtain ⟨_, _, _, _, _, _, _, _, h, -⟩ := State.report_spec s rep none
  rw [h]
  rfl

theorem State.report_num (s : State) (rep : Report) :
    (s.report rep).census.ring.num = s.census.ring.num + 1 := by
  obtain ⟨_, _, _, _, _, _, _, _, h, hn⟩ := State.report_spec s rep none
  rw [h]
  exact hn

theorem State.report_carrels (s : State) (rep : Report) : (s.report rep).carrels = s.carrels := by
  obtain ⟨_, _, _, _, _, _, _, _, h, -⟩ := State.report_spec s rep none
  rw [h]

/-! ### Sending keeps the state of every link -/

/-- Every link stands in the state it stood in. -/
def SameStates (s t : State) : Prop := ∀ m, (t.link m).state = (s.link m).state

theorem SameStates.trans {s t u : State} (h : SameStates s t) (h' : SameStates t u) : SameStates s u :=
  fun m => (h' m).trans (h m)

theorem SameStates.modLink (s : State) (l : Nat) {f : Link → Link} (hf : ∀ k, (f k).state = k.state) :
    SameStates s (s.modLink l f) := by
  intro m
  by_cases hm : m = l
  · subst hm
    rw [State.link_modLink_same, hf]
  · rw [State.link_modLink_other _ _ hm]

theorem SameStates.foldl {α : Type} {f : State → α → State} (hf : ∀ s x, SameStates s (f s x)) (l : List α) :
    ∀ s, SameStates s (l.foldl f s) := by
  induction l with
  | nil => exact fun _ _ => rfl
  | cons x l ih => exact fun s => (hf s x).trans (ih _)

theorem SameStates.emitFlit (s : State) (l : Nat) (mark : Bool) (us : List Word) :
    SameStates s (s.emitFlit l mark us) := by
  unfold State.emitFlit
  cases mark
  · exact SameStates.modLink (s.send _) l fun _ => rfl
  · exact SameStates.modLink (State.send _ _) l fun _ => rfl

theorem SameStates.emitItem (s : State) (l : Nat) (i : Item) : SameStates s (s.emitItem l i) := by
  unfold State.emitItem
  dsimp only
  split
  · exact SameStates.modLink _ _ fun _ => rfl
  · refine (SameStates.foldl (fun s us => SameStates.emitFlit s l _ us) _ s).trans (SameStates.modLink _ _ fun k => ?_)
    split <;> rfl

theorem SameStates.sendOn (n : Nat) : ∀ (s : State) (l : Nat) (i : Item), SameStates s (s.sendOn l i n) := by
  induction n with
  | zero => exact fun _ _ _ _ => rfl
  | succ n ih =>
    intro s l i
    unfold State.sendOn
    dsimp only
    split
    · exact SameStates.modLink _ _ fun _ => rfl
    · split
      · exact SameStates.emitItem s l i
      · split
        · exact SameStates.modLink _ _ fun _ => rfl
        · split
          · split
            · exact ih s _ _
            · exact fun _ => rfl
          · exact fun _ => rfl

theorem SameStates.sendItem (s : State) (i : Item) : SameStates s (s.sendItem i) := by
  unfold State.sendItem
  split
  · exact SameStates.sendOn 2 s _ _
  · split
    · dsimp only
      split
      · exact SameStates.sendOn 2 s _ _
      · exact fun _ => rfl
    · exact fun _ => rfl

/-! ### A link fails -/

theorem State.linkFailed_spec (s : State) (l : Nat) : ((s.linkFailed l).link l).state = 6 ∧
    (s.linkFailed l).census.ring.num = s.census.ring.num + 1 ∧ (s.linkFailed l).carrels = s.carrels := by
  unfold State.linkFailed
  extract_lets k held reqs s1 s2 f d s3 hit tick s4
  have h1 : (s1.link l).state = 6 := by rw [State.link_modLink_same]
  have hsame : SameStates s1 s2 := SameStates.foldl (fun s i => by
    split
    · exact fun _ => rfl
    · exact SameStates.sendItem s _) reqs s1
  have hsend : SendsOnly s1 s2 := SendsOnly.foldl (fun s i => by
    split
    · exact SendsOnly.refl s
    · exact SendsOnly.sendItem s (by rw [errorItem_kind]; decide)) reqs s1
  have h4 : s4.links = s2.links ∧ s4.census = s2.census ∧ s4.carrels = s2.carrels := by
    have h3 : s3.links = s2.links ∧ s3.census = s2.census ∧ s3.carrels = s2.carrels := by
      change (if _ then _ else _ : State).links = _ ∧ (if _ then _ else _ : State).census = _ ∧
        (if _ then _ else _ : State).carrels = _
      split <;> exact ⟨rfl, rfl, rfl⟩
    exact h3
  obtain ⟨hl, hc, hk⟩ := h4
  obtain ⟨ls, ss, hs2⟩ := hsend
  refine ⟨?_, ?_, ?_⟩
  · rw [State.report_link]
    have : s4.link l = s2.link l := by unfold State.link; rw [hl]
    rw [this, hsame l, h1]
  · rw [State.report_num, hc, hs2]
    rfl
  · rw [State.report_carrels, hk, hs2]
    rfl

/-! ### Retraining and dropped lanes -/

/-- A link that starts to retrain. -/
def Link.retraining (k : Link) : Link :=
  { k with
    state := 5, dropTx := false, dropRx := false, retrained := true, linkev := true, evTick := true
    retrains := satInc k.retrains, tries := 0 }

theorem Link.running_iff (k : Link) : (k.open_ = true ∨ k.state = 4) ↔ k.state = 2 ∨ k.state = 3 ∨ k.state = 4 := by
  unfold Link.open_
  rw [decide_eq_true_eq, or_assoc]

theorem State.startRetrain_spec {s : State} {l n : Nat}
    (h : (s.link l).state = 2 ∨ (s.link l).state = 3 ∨ (s.link l).state = 4) :
    (s.startRetrain l n).census.ring.num = s.census.ring.num + 1 ∧
      (s.startRetrain l n).link l = (s.link l).retraining := by
  unfold State.startRetrain
  rw [if_pos ((Link.running_iff _).mpr h)]
  dsimp only
  refine ⟨State.report_num _ _, ?_⟩
  rw [State.report_link, State.link_modLink_same]
  rfl

theorem lane_mask (lane : BitVec 3) : BitVec.ofNat 8 (2 ^ lane.toNat) = 1#8 <<< lane.toNat := by
  revert lane
  decide

theorem State.dropLane_spec {s : State} {l : Nat} {lane : BitVec 3}
    (h : (s.link l).state = 2 ∨ (s.link l).state = 3 ∨ (s.link l).state = 4)
    (hb : (s.link l).rlanes.getLsbD lane.toNat = true) :
    (7 < laneCount (s.link l).rlanes →
      (s.dropLane l lane true).census.ring.num = s.census.ring.num + 1 ∧
      (s.dropLane l lane true).link l = { s.link l with
        state := 4, dropRx := true, dropped := true, linkev := true, evTick := true, drops := satInc (s.link l).drops
        rlanes := (s.link l).rlanes &&& ~~~ (1#8 <<< lane.toNat)
        runfail := (s.link l).runfail ||| (1#8 <<< lane.toNat)
        dropReq := BitVec.ofNat 4 (lane.toNat + 1) }) ∧
    (laneCount (s.link l).rlanes ≤ 7 → s.dropLane l lane true = s.linkFailed l) := by
  unfold State.dropLane
  extract_lets k m lanes s1
  rw [if_pos ⟨(Link.running_iff _).mpr h, hb⟩]
  refine ⟨fun hn => ?_, fun hn => if_pos hn⟩
  rw [if_neg (by exact Nat.not_le.mpr hn)]
  refine ⟨State.report_num _ _, ?_⟩
  rw [State.report_link]
  change s1.link l = _
  refine (State.link_modLink_same s l _).trans ?_
  simp only [Bool.or_true, Bool.not_true, Bool.or_false, if_true, m, k, lane_mask]

/-! ### Resending -/

theorem State.resend_spec (s : State) (l : Nat) :
    (s.resend l).sent.length = s.sent.length + (s.link l).replay.length ∧
      (∃ n b c, (s.resend l).link l = { s.link l with replays := n, linkev := b, evTick := c }) ∧
      ((s.link l).replay = [] → s.resend l = s) := by
  unfold State.resend
  dsimp only
  have hfold (q : List (BitVec 12 × List Word)) : ∀ t : State,
      let u := q.foldl (fun s x =>
        s.send (.flit l ((s.link l).flitHdr x.2.length &&& ~~~ 0xFFF#64 ||| place x.1 0) x.2)) t
      u.sent.length = t.sent.length + q.length ∧ u.links = t.links := by
    induction q with
    | nil => exact fun t => ⟨rfl, rfl⟩
    | cons x q ih =>
      intro t
      obtain ⟨h1, h2⟩ := ih (t.send (.flit l ((t.link l).flitHdr x.2.length &&& ~~~ 0xFFF#64 ||| place x.1 0) x.2))
      refine ⟨h1.trans ?_, h2⟩
      rw [List.length_cons]
      change t.sent.length + 1 + q.length = _
      omega
  by_cases he : (s.link l).replay.isEmpty = true
  · have hr : (s.link l).replay = [] := List.isEmpty_iff.mp he
    rw [if_pos he]
    exact ⟨by rw [hr]; rfl, ⟨(s.link l).replays, (s.link l).linkev, (s.link l).evTick, rfl⟩, fun _ => rfl⟩
  · rw [if_neg he]
    obtain ⟨h1, h2⟩ := hfold (s.link l).replay s
    refine ⟨h1, ?_, fun hr => absurd (List.isEmpty_iff.mpr hr) he⟩
    rw [State.link_modLink_same]
    have hk (t : State) (ht : t.links = s.links) : t.link l = s.link l := by unfold State.link; rw [ht]
    rw [hk _ h2]
    exact ⟨_, _, _, rfl⟩

/-! ### Training -/

/-- A training result that leaves at least 7 lanes each way. -/
theorem trainOk_iff (r : TrainResult) :
    trainOk r = true ↔ r.noPeer = false ∧ 7 ≤ laneCount r.tlanes ∧ 7 ≤ laneCount r.rlanes := by
  unfold trainOk
  simp only [Bool.and_eq_true, Bool.not_eq_true', decide_eq_true_eq, and_assoc]

/-- The end of a training that succeeds. -/
theorem trainDone_ok {l : Fin 12} {s : State} {r : TrainResult} (h1 : (s.link l.val).state = 1)
    (hq : (s.link l.val).txq = []) (hr : trainOk r = true) (hf : (s.func (.link l)).state = 1) :
    let t := (((s.modLink l.val fun k => k.trained r).setFunc (.link l) { s.func (.link l) with
      state := 2, fault := false })).flushTx l.val
    Sys2Proof.Machine.exec (.linkTrainDone l r) s = .next t ∧
      t = { s with links := t.links, dict := { s.dict with funcs := t.dict.funcs } } ∧
      (∀ m, m ≠ l.val → t.link m = s.link m) ∧ (t.func (.link l)).state = 2 ∧ (t.func (.link l)).fault = false ∧
      t.link l.val = { (s.link l.val).trained r with state := 2 } := by
  let u := (s.modLink l.val fun k => k.trained r).setFunc (.link l) { s.func (.link l) with state := 2, fault := false }
  have hlink : u.link l.val = (s.link l.val).trained r := State.link_modLink_same s l.val fun k => k.trained r
  obtain ⟨⟨⟨ls, ht⟩, ho⟩, hl⟩ := State.flushTx_of_empty (s := u) (l := l.val) (by rw [hlink]; exact hq)
  have hfunc : (u.flushTx l.val).func (.link l) = { s.func (.link l) with state := 2, fault := false } := by
    rw [ht]
    exact Tab.get_set_same _ _ _ _
  refine ⟨?_, ?_, fun m hm => (ho m hm).trans (State.link_modLink_other s (fun k => k.trained r) hm), ?_, ?_, ?_⟩
  · change execLinkTrainDone l r s = _
    unfold execLinkTrainDone
    rw [if_pos h1]
    dsimp only
    rw [show (s.modLink l.val fun k => k.trained r).func (.link l) = s.func (.link l) from rfl, if_pos hf, if_pos hr]
    simp only [hr, if_true, Bool.not_true, Bool.false_and]
  · change u.flushTx l.val = _
    rw [ht]
    rfl
  · rw [hfunc]
  · rw [hfunc]
  · rw [hl, hlink]
    unfold Link.trained
    rw [hr, if_pos rfl]

theorem trainDone_failed {l : Fin 12} {s : State} {r : TrainResult} (h1 : (s.link l.val).state = 1)
    (hr : trainOk r = false) : ∃ u : State, Sys2Proof.Machine.exec (.linkTrainDone l r) s = .next (u.linkFailed l.val) ∧
      u.census = s.census ∧ u.carrels = s.carrels := by
  change ∃ u : State, execLinkTrainDone l r s = _ ∧ _
  unfold execLinkTrainDone
  rw [if_pos h1]
  simp only [hr, Bool.false_eq_true, if_false]
  refine ⟨_, rfl, ?_, ?_⟩
  · split <;> rfl
  · split <;> rfl

/-- Settles O33: each row of a link by its own lemma; sending and reporting keep the link's state. -/
theorem linkStates : Obligations.LinkStates := by
  unfold Obligations.LinkStates
  intro lanes enough l s k
  have henough (r : TrainResult) : enough r ↔ trainOk r = true := (trainOk_iff r).symm
  have hnot {r : TrainResult} (h : ¬ enough r) : trainOk r = false := by
    rw [henough, Bool.not_eq_true] at h
    exact h
  have hdrop := fun (hs : k.state = 2 ∨ k.state = 3 ∨ k.state = 4) =>
    State.startRetrain_spec (s := s) (l := l.val) (n := if (s.link l.val).retrain then 3 else 0) hs
  refine ⟨fun he h0 => ?_, fun h2 ha hi => ?_, fun h => ?_, fun h3 => ?_, fun r h1 hq hr hf => ?_, fun r h1 hr => ?_,
    fun lane hs hb hn => ?_, fun lane hs hb hn => ?_, fun delay h4 hrep hq => ?_, fun hd hs => ?_, fun hs => ?_,
    fun r h5 hq hr => ?_, fun r h5 hr => ?_⟩
  · exact congrArg Host.Outcome.next (if_pos ⟨he, h0⟩)
  · exact congrArg Host.Outcome.next (if_pos ⟨h2, ha, hi⟩)
  · refine congrArg Host.Outcome.next (if_neg fun ⟨_, ha, hi⟩ => ?_)
    rcases h with h | h
    · rw [show (s.link l.val).sleepAllow = false from h] at ha
      cases ha
    · rw [h] at hi
      cases hi
  · exact congrArg Host.Outcome.next (if_pos h3)
  · obtain ⟨hrun, hst, ho, h2, hft, hl⟩ := trainDone_ok h1 hq ((henough r).mp hr) hf
    exact ⟨_, hrun, hst, ho, h2, hft, hl⟩
  · obtain ⟨u, hu, hc, hk⟩ := trainDone_failed (r := r) h1 (hnot hr)
    obtain ⟨h6, hn, hcar⟩ := State.linkFailed_spec u l.val
    exact ⟨_, hu, h6, hn.trans (by rw [hc]), hcar.trans hk⟩
  · obtain ⟨hrep, hl⟩ := (State.dropLane_spec (lane := lane) hs hb).1 hn
    exact ⟨_, rfl, hrep, hl⟩
  · refine ⟨_, rfl, ?_⟩
    rw [(State.dropLane_spec (lane := lane) hs hb).2 hn]
    exact (State.linkFailed_spec s l.val).1
  · let t := s.modLink l.val fun k =>
      { k with state := 2, dropTx := false, dropRx := false, delay := delay, dropReq := 0 }
    have htl : t.link l.val = { k with state := 2, dropTx := false, dropRx := false, delay := delay, dropReq := 0 } :=
      State.link_modLink_same s l.val _
    have hres : (if (s.link l.val).dropTx then t.resend l.val else t) = t := by
      rw [(State.resend_spec t l.val).2.2 (by rw [htl]; exact hrep), ite_self]
    obtain ⟨ho, hl⟩ := State.flushTx_of_empty (s := t) (l := l.val) (by rw [htl]; exact hq)
    have hst : OnlyLink l.val s (t.flushTx l.val) := (OnlyLink.modLink_self l.val s _).trans ho
    refine ⟨t.flushTx l.val, ?_, hst.state, hst.2, hl.trans htl⟩
    refine congrArg Host.Outcome.next ((if_pos h4).trans ?_)
    change (if (s.link l.val).dropTx then t.resend l.val else t).flushTx l.val = _
    rw [hres]
  · let t := s.modLink l.val fun k => { k with dropReq := 0 }
    have htl : t.link l.val = { k with dropReq := 0 } := State.link_modLink_same s l.val _
    obtain ⟨hn, hl⟩ := State.startRetrain_spec (s := t) (l := l.val) (n := 2) (by rw [htl]; exact hs)
    refine ⟨_, congrArg Host.Outcome.next (if_neg hd), hn, hl.trans ?_⟩
    rw [htl]
    rfl
  · obtain ⟨hn, hl⟩ := hdrop hs
    exact ⟨_, rfl, hn, hl⟩
  · let u := s.modLink l.val fun k => { k with retrain := false }
    let t := u.modLink l.val fun k => { k with state := 2, tlanes := r.tlanes, rlanes := r.rlanes, delay := r.delay }
    have htl : t.link l.val = { k with
        retrain := false, state := 2, tlanes := r.tlanes, rlanes := r.rlanes, delay := r.delay } := by
      rw [State.link_modLink_same, State.link_modLink_same]
    obtain ⟨hsent, ⟨n, b, e, hv⟩, -⟩ := State.resend_spec t l.val
    rw [htl] at hsent hv
    obtain ⟨⟨⟨ls, ho⟩, -⟩, hl⟩ := State.flushTx_of_empty (s := t.resend l.val) (l := l.val) (by rw [hv]; exact hq)
    refine ⟨(t.resend l.val).flushTx l.val, ?_, ?_⟩
    · change execRetrainDone l r s = _
      unfold execRetrainDone
      rw [if_pos h5]
      exact congrArg Host.Outcome.next (if_pos ((henough r).mp hr))
    · rw [hl, hv]
      refine ⟨rfl, rfl, rfl, rfl, rfl, rfl, ?_⟩
      rw [ho]
      exact hsent
  · refine ⟨(s.modLink l.val fun k => { k with retrain := false }).linkFailed l.val, ?_,
      (State.linkFailed_spec _ l.val).1⟩
    change execRetrainDone l r s = _
    unfold execRetrainDone
    rw [if_pos h5]
    exact congrArg Host.Outcome.next (if_neg (by rw [hnot hr]; decide))

end Sys2Proof.Machine
end

section
/-!
# Chain set-up and rejoining
-/
namespace Sys2Proof.Machine

/-! ### The conditions -/

theorem State.anyActive_iff (s : State) :
    s.anyActive = true ↔ ∃ x ∈ s.plans, x.2.state = .ready ∨ x.2.state = .running := by
  unfold State.anyActive
  simp only [List.any_eq_true, decide_eq_true_eq]

theorem State.links_ready_iff (s : State) (g : ChainCfg) :
    (g.links.any fun l => decide ((s.link l).state ≠ 2)) = false ↔
      ∀ l, l < 12 → g.down.getLsbD l = true ∨ g.up.toNat = l → (s.link l).state = 2 := by
  unfold ChainCfg.links upto
  simp only [List.any_eq_false, List.mem_filter, List.mem_range, Bool.or_eq_true, decide_eq_true_eq, not_not, and_imp]

/-- Whether a confirmation has come up every down link. -/
def Chain.allConfirmed (c : Chain) : Bool :=
  ((upto 12).filter fun l => c.live.down.getLsbD l).all fun l => c.confs.any fun x => decide (x.1 = l)

theorem Chain.allConfirmed_iff (c : Chain) : c.allConfirmed = true ↔
    ∀ l, l < 12 → c.live.down.getLsbD l = true → ∃ x ∈ c.confs, x.1 = l := by
  unfold Chain.allConfirmed upto
  simp only [List.all_eq_true, List.mem_filter, List.mem_range, List.any_eq_true, decide_eq_true_eq, and_imp]

theorem hasDup_eq (l : List Nat) : hasDup l = !decide l.Nodup := by
  induction l with
  | nil => rfl
  | cons x l ih =>
    rw [hasDup, ih]
    by_cases hx : x ∈ l
    · simp [hx]
    · simp [hx]

/-! ### The ends of a set-up -/

theorem State.masterReady_slave {s : State} (h : s.chain.live.master = false) : s.masterReady = s :=
  if_neg (by rw [h, Bool.and_false, Bool.false_and]; decide)

theorem State.masterReady_waits {s : State} (h : s.chain.allConfirmed = false) : s.masterReady = s :=
  if_neg fun hc => Bool.false_ne_true (h.symm.trans (Bool.and_eq_true_iff.mp hc).2)

theorem State.slaveConfirm_master {s : State} (h : s.chain.live.master = true) : s.slaveConfirm = s :=
  if_neg (by rw [h, Bool.not_true, Bool.and_false, Bool.false_and, Bool.false_and]; decide)

theorem State.slaveConfirm_waits {s : State} (h : s.chain.allConfirmed = false) : s.slaveConfirm = s :=
  if_neg fun hc => Bool.false_ne_true (h.symm.trans (Bool.and_eq_true_iff.mp hc).2)

/-- What a confirmation leaves on the master once it is the last. -/
def State.setupEnd (s : State) (depth : BitVec 12) (chips : List Nat) : Chain :=
  let c := s.chain
  let mt := minTickOf depth.toNat s.statusFlits
  if (c.live.chip.toNat :: chips).Nodup then
    if s.tick.len.toNat < mt then { c with setup := false, rej := true, reason := 3 }
    else { c with
      confs := [], setup := false, up := true, depth := 0, maxDepth := depth, minTick := BitVec.ofNat 20 mt }
  else { c with setup := false, rej := true, reason := 4 }

theorem State.setupEnd_live (s : State) (depth : BitVec 12) (chips : List Nat) :
    (s.setupEnd depth chips).live.master = s.chain.live.master := by
  unfold State.setupEnd
  dsimp only
  split
  · split <;> rfl
  · rfl

theorem State.masterReady_all {s : State} {l : Nat} {depth : BitVec 12} {chips : List Nat}
    (hs : s.chain.setup = true) (hm : s.chain.live.master = true) (ha : s.chain.allConfirmed = true)
    (hc : s.chain.confs = [(l, depth.toNat, chips)]) :
    s.masterReady = { s with chain := s.setupEnd depth chips } := by
  have hd : s.chain.confs.foldl (fun m x => max m x.2.1) 0 = depth.toNat := by
    rw [hc]
    exact Nat.zero_max _
  have hl : s.chain.confs.flatMap (·.2.2) = chips := by
    rw [hc]
    exact List.append_nil _
  have hof : BitVec.ofNat 12 depth.toNat = depth := by rw [BitVec.ofNat_toNat, BitVec.setWidth_eq]
  unfold State.masterReady
  refine (if_pos (Bool.and_eq_true_iff.mpr ⟨Bool.and_eq_true_iff.mpr ⟨hs, hm⟩, ha⟩)).trans ?_
  dsimp only
  rw [hd, hl, hasDup_eq]
  unfold State.setupEnd
  dsimp only
  by_cases hn : (s.chain.live.chip.toNat :: chips).Nodup
  · rw [decide_eq_true hn, if_neg (by decide), if_pos hn]
    split
    · rfl
    · rw [hof]
  · rw [decide_eq_false hn, if_pos (by decide), if_neg hn]

theorem State.slaveConfirm_all {s : State} {l : Nat} {depth : BitVec 12} {chips : List Nat}
    (hs : s.chain.setup = true) (hm : s.chain.live.master = false) (ha : s.chain.allConfirmed = true)
    (hc : s.chain.confs = [(l, depth.toNat, chips)]) :
    s.slaveConfirm = if s.chain.depth = 0 then s else
      s.send (.confirmation s.chain.live.up.toNat (max s.chain.depth.toNat depth.toNat)
        (s.chain.live.chip.toNat :: chips)) := by
  have hl : s.chain.confs.flatMap (·.2.2) = chips := by
    rw [hc]
    exact List.append_nil _
  have hd : s.chain.confs.foldl (fun m x => max m x.2.1) s.chain.depth.toNat = max s.chain.depth.toNat depth.toNat := by
    rw [hc]
    rfl
  by_cases h0 : s.chain.depth = 0
  · rw [if_pos h0]
    exact if_neg (by rw [h0]; simp)
  · rw [if_neg h0, ← hl, ← hd]
    exact if_pos (by
      refine Bool.and_eq_true_iff.mpr ⟨?_, ha⟩
      rw [hs, hm, decide_eq_true h0]
      rfl)

/-! ### The rows -/

theorem setup_refused {src : Src} {s : State} (hsrc : ∀ f, src ≠ .vf f) (ha : s.anyActive = true) :
    Sys2Proof.Machine.exec (.chainSetup src) s = .next { s with chain := { s.chain with rej := true, reason := 1 } } ∧
      Sys2Proof.Machine.exec (.join src) s = .next { s with chain := { s.chain with rej := true, reason := 1 } } := by
  refine ⟨?_, ?_⟩
  · refine (congrArg Host.Outcome.next (ite_isVf hsrc _ _)).trans ?_
    exact congrArg Host.Outcome.next (if_pos ha)
  · refine (congrArg Host.Outcome.next (ite_isVf hsrc _ _)).trans ?_
    exact congrArg Host.Outcome.next (if_pos ha)

theorem join_refused {src : Src} {s : State} (hsrc : ∀ f, src ≠ .vf f) (ha : ¬ s.anyActive = true)
    (h : s.chain.cfg ≠ s.chain.live ∨ s.chain.live.master = true) :
    Sys2Proof.Machine.exec (.join src) s = .next { s with chain := { s.chain with rej := true, reason := 2 } } := by
  refine (congrArg Host.Outcome.next (ite_isVf hsrc _ _)).trans (congrArg Host.Outcome.next ((if_neg ha).trans
      (if_pos ?_)))
  refine h.imp id fun hm => ?_
  rw [State.slave, hm]
  rfl

theorem join_starts {src : Src} {s : State} (hsrc : ∀ f, src ≠ .vf f) (ha : ¬ s.anyActive = true)
    (hc : s.chain.cfg = s.chain.live) (hm : s.chain.live.master = false) :
    Sys2Proof.Machine.exec (.join src) s =
      .next { (s.modLink s.chain.live.up.toNat fun k => { k with good := 0 }) with
        chain := { s.chain with join := true, up := false }, tick := { s.tick with locked := false } } := by
  refine (congrArg Host.Outcome.next (ite_isVf hsrc _ _)).trans (congrArg Host.Outcome.next ((if_neg ha).trans
      (if_neg ?_)))
  rw [State.slave, hm]
  simp [hc]

/-- A module that waits for marks on link `l` anew. -/
def State.unlock (s : State) (l : Nat) : State :=
  { s.modLink l (fun k => { k with good := 0 }) with tick := { s.tick with locked := false } }

/-- The registers of a set-up that begins with the configuration written. -/
def State.setupFrom (u : State) (c : Chain) : State :=
  { u with
    ownChip := c.cfg.chip
    chain := { c with live := c.cfg, setup := true, up := false, confs := [], depth := 0, maxDepth := 0, minTick := 0 } }

/-- A set-up that nothing refuses. -/
theorem setup_accepted {src : Src} {s : State} (hsrc : ∀ f, src ≠ .vf f) (ha : ¬ s.anyActive = true)
    (hr : (s.chain.cfg.links.any fun l => decide ((s.link l).state ≠ 2)) = false)
    (hu : ¬ (s.chain.cfg.master = false ∧ s.chain.cfg.up = 0xF)) :
    Sys2Proof.Machine.exec (.chainSetup src) s =
      .next (((if s.chain.cfg.master then s else s.unlock s.chain.cfg.up.toNat).setupFrom s.chain).masterReady) := by
  refine (congrArg Host.Outcome.next (ite_isVf hsrc _ _)).trans (congrArg Host.Outcome.next ((if_neg ha).trans
      (if_neg ?_)))
  rw [hr]
  exact not_or.mpr ⟨Bool.false_ne_true, hu⟩

/-- Settles O36: a set-up, a confirmation and a rejoin, each by the condition that decides it. -/
theorem chainSetupAndRejoin : Obligations.ChainSetupAndRejoin := by
  unfold Obligations.ChainSetupAndRejoin
  refine ⟨?_, fun s => ⟨fun h => ?_, fun h => ?_⟩, ?_⟩
  · intro src s hsrc active cfg start ready
    have hact : s.anyActive = true ↔ active := s.anyActive_iff
    have hready : (cfg.links.any fun l => decide ((s.link l).state ≠ 2)) = false ↔ ready := State.links_ready_iff s cfg
    refine ⟨fun ha => setup_refused hsrc (hact.mpr ha), fun ha h => join_refused hsrc (mt hact.mp ha) h,
      fun ha hc hm => ?_, fun ha h => ?_, fun ha hr hm hd => ?_, fun ha hr hm hup => ?_⟩
    · refine ⟨_, join_starts hsrc (mt hact.mp ha) hc hm, rfl,
        fun m hne => State.link_modLink_other s (fun k => { k with good := 0 }) hne, ?_⟩
      exact State.link_modLink_same s _ fun k => { k with good := 0 }
    · refine (congrArg Host.Outcome.next (ite_isVf hsrc _ _)).trans
        (congrArg Host.Outcome.next ((if_neg (mt hact.mp ha)).trans (if_pos ?_)))
      refine h.imp (fun hn => ?_) id
      rw [← Bool.not_eq_false, hready]
      exact hn
    · have hrun := setup_accepted hsrc (mt hact.mp ha) (hready.mpr hr)
        (by rw [show s.chain.cfg.master = true from hm]; simp)
      refine hrun.trans (congrArg Host.Outcome.next ?_)
      rw [show s.chain.cfg.master = true from hm, if_pos rfl]
      refine State.masterReady_waits ?_
      obtain ⟨l, hl, hd⟩ := hd
      rw [← Bool.not_eq_true, Chain.allConfirmed_iff]
      intro hall
      obtain ⟨x, hx, -⟩ := hall l hl hd
      cases hx
    · have hm' : s.chain.cfg.master = false := hm
      have hrun := setup_accepted hsrc (mt hact.mp ha) (hready.mpr hr) (by intro h; exact hup h.2)
      rw [hm', if_neg Bool.false_ne_true, State.masterReady_slave hm'] at hrun
      refine ⟨_, hrun, rfl, fun m hne => State.link_modLink_other s (fun k => { k with good := 0 }) hne, ?_⟩
      exact State.link_modLink_same s _ fun k => { k with good := 0 }
  · exact congrArg Host.Outcome.next (if_pos h)
  · exact congrArg Host.Outcome.next (if_neg (by rw [h]; decide))
  · intro l depth chip below s hs hdown hconf c chips confs only mt
    let u : State := { s.modLink l.val fun k => { k with pchip := BitVec.ofNat 12 chip } with
      chain := { c with confs := confs } }
    have hrun : Sys2Proof.Machine.exec (.setupConfirmation l depth chips) s = .next u.masterReady.slaveConfirm := by
      refine congrArg Host.Outcome.next ((if_pos ⟨hs, hdown⟩).trans ?_)
      dsimp only
      rw [show s.chain.confs = [] from hconf]
      rfl
    have hother (m : Nat) (hm : m ≠ l.val) :
        u.link m = s.link m := State.link_modLink_other s (fun k => { k with pchip := BitVec.ofNat 12 chip }) hm
    have hsame : u.link l.val = { s.link l.val with pchip := BitVec.ofNat 12 chip } :=
      State.link_modLink_same s l.val fun k => { k with pchip := BitVec.ofNat 12 chip }
    have honly : u.chain.allConfirmed = true ↔ only := by
      rw [Chain.allConfirmed_iff]
      refine forall_congr' fun m => imp_congr_right fun _ => imp_congr_right fun _ => ?_
      simp [u, confs, eq_comm]
    by_cases ho : only
    · have hall := honly.mpr ho
      cases hm : c.live.master with
      | true =>
        have hend : u.masterReady.slaveConfirm = { u with chain := u.setupEnd depth chips } := by
          rw [State.masterReady_all (s := u) (l := l.val) hs hm hall rfl]
          exact State.slaveConfirm_master ((State.setupEnd_live u depth chips).trans hm)
        rw [hend] at hrun
        refine ⟨_, hrun, rfl, hother, hsame, fun h => absurd ho h, fun _ _ => ⟨rfl, fun hn => ?_, fun hn hlt => ?_,
          fun hn hge => ?_⟩, fun _ h => absurd h (by decide)⟩
        · exact if_neg hn
        · exact (if_pos hn).trans (if_pos hlt)
        · exact (if_pos hn).trans (if_neg (Nat.not_lt.mpr hge))
      | false =>
        have hend : u.masterReady.slaveConfirm = if u.chain.depth = 0 then u else
            u.send (.confirmation u.chain.live.up.toNat (max u.chain.depth.toNat depth.toNat)
              (u.chain.live.chip.toNat :: chips)) := by
          rw [State.masterReady_slave (s := u) hm, State.slaveConfirm_all (s := u) (l := l.val) hs hm hall rfl]
        rw [hend] at hrun
        by_cases h0 : c.depth = 0
        · rw [show u.chain.depth = 0 from h0, if_pos rfl] at hrun
          exact ⟨u, hrun, rfl, hother, hsame, fun h => absurd ho h, fun _ h => absurd h (by decide),
            fun _ _ => ⟨rfl, (if_pos h0).symm⟩⟩
        · rw [if_neg (show ¬ u.chain.depth = 0 from h0)] at hrun
          exact ⟨_, hrun, rfl, hother, hsame, fun h => absurd ho h, fun _ h => absurd h (by decide),
            fun _ _ => ⟨rfl, (if_neg h0).symm⟩⟩
    · have hn : u.chain.allConfirmed = false := by rw [← Bool.not_eq_true, honly]; exact ho
      rw [State.masterReady_waits hn, State.slaveConfirm_waits hn] at hrun
      exact ⟨u, hrun, rfl, hother, hsame, fun _ => ⟨rfl, rfl⟩, fun h => absurd h ho, fun h => absurd h ho⟩

end Sys2Proof.Machine
end

section
/-!
# Tick marks, holdover and the loss of alignment
-/
namespace Sys2Proof.Machine

/-- A link once a tick mark has been taken from it. -/
def Link.without (k : Link) (i : Item) : Link := { k with rx := k.rx.erase i }

theorem State.takeRx_eq {s : State} {l : Nat} {p : Item → Bool} {i : Item} (h : (s.link l).rx.find? p = some i) :
    s.takeRx l p = some (i, s.modLink l fun k => k.without i) := by
  unfold State.takeRx
  rw [h]
  rfl

theorem State.takeRx_none {s : State} {l : Nat} {p : Item → Bool} (h : (s.link l).rx.find? p = none) :
    s.takeRx l p = none := by
  unfold State.takeRx
  rw [h]
  rfl

/-- Whether the module follows the marks of link `l`. -/
def State.follows (s : State) (l : Nat) : Prop :=
  s.chain.live.master = false ∧ s.chain.live.up.toNat = l ∧ s.tick.alignDue = false ∧
    (s.chain.up = true ∨ s.chain.setup = true ∨ s.chain.join = true)

theorem State.follows_iff (s : State) (l : Nat) : s.follows l ↔
    ¬ (s.slave = false ∨ s.chain.live.up.toNat ≠ l ∨ s.tick.alignDue = true ∨
      (s.chain.up = false ∧ s.chain.setup = false ∧ s.chain.join = false)) := by
  unfold State.follows State.slave
  cases s.chain.live.master <;> cases s.tick.alignDue <;> cases s.chain.up <;> cases s.chain.setup <;>
    cases s.chain.join <;> simp

/-- The count of close marks after a mark. -/
def goodAfter (mark : Mark) (k : Link) : Nat := if mark.close then k.good + 1 else 0

/-- The tick registers as a mark gives them. -/
def TickUnit.fromMark (t : TickUnit) (i : Item) (locked : Bool) : TickUnit :=
  { t.takeLengths (i.unit 2) (i.unit 3) with holdover := false, locked := locked }

/-- Whether a mark leaves the module locked. -/
def State.locks (s : State) (l : Nat) (mark : Mark) : Bool := decide (16 ≤ goodAfter mark (s.link l)) || s.tick.locked

theorem tickMark_ignored {l : Fin 12} {mark : Mark} {s : State} {i : Item}
    (hi : (s.link l.val).rx.find? (fun x => decide (x.kind = 7)) = some i) (hf : ¬ s.follows l.val) :
    Sys2Proof.Machine.exec (.tickMark l mark) s = .next (s.modLink l.val fun k => k.without i) := by
  change execTickMark l mark s = _
  rw [execTickMark, State.takeRx_eq hi]
  exact if_pos (by rw [← not_not (a := _ ∨ _), ← State.follows_iff]; exact hf)

/-- A link with the count of close marks after a mark. -/
def Link.counted (k : Link) (mark : Mark) : Link := { k with good := goodAfter mark k }

/-- What a mark does that the module follows, the item being taken from its link already. -/
def State.followMark (s : State) (l : Nat) (i : Item) (mark : Mark) : State :=
  let u := s.modLink l fun k => { k with good := goodAfter mark (s.link l) }
  let c := s.chain
  let t := s.tick.fromMark i (s.locks l mark)
  let depth : BitVec 12 := field (i.unit 2) 41 12 + 1
  if s.locks l mark = false then { u with tick := { s.tick with holdover := false, locked := false } }
  else if c.setup ∧ (i.unit 2).getLsbD 53 ∧ c.depth = 0 then
    State.slaveConfirm { (u.modLink l fun k => { k with pchip := i.src }) with
      tick := { t with no := i.unit 1 }, chain := { c with depth := depth } }
  else if c.setup ∧ (i.unit 2).getLsbD 53 = false ∧ c.depth ≠ 0 then
    { u with tick := t, chain := { c with setup := false, up := true } }
  else if c.join then
    { u with
      tick := { t with no := i.unit 1, alignLost := false }, chain :=
          { c with join := false, up := true, depth := depth } }
  else { u with tick := t }

theorem tickMark_followed {l : Fin 12} {mark : Mark} {s : State} {i : Item}
    (hi : (s.link l.val).rx.find? (fun x => decide (x.kind = 7)) = some i) (hf : s.follows l.val) :
    Sys2Proof.Machine.exec (.tickMark l mark) s =
      .next ((s.modLink l.val fun k => k.without i).followMark l.val i mark) := by
  change execTickMark l mark s = _
  rw [execTickMark, State.takeRx_eq hi]
  generalize hu : (s.modLink l.val fun k => k.without i) = u
  have huf : u.follows l.val := by rw [← hu]; exact hf
  dsimp only
  refine (if_neg ((State.follows_iff _ _).mp huf)).trans ?_
  rw [State.followMark, apply_ite Host.Outcome.next, apply_ite Host.Outcome.next, apply_ite Host.Outcome.next,
    apply_ite Host.Outcome.next]
  rfl

theorem tickMark_none {l : Fin 12} {mark : Mark} {s : State}
    (hi : (s.link l.val).rx.find? (fun x => decide (x.kind = 7)) = none) :
    Sys2Proof.Machine.exec (.tickMark l mark) s = .next s := by
  change execTickMark l mark s = _
  rw [execTickMark, State.takeRx_none hi]

theorem State.slaveConfirm_cases (s : State) : ∃ x, s.slaveConfirm = { s with sent := x } := by
  unfold State.slaveConfirm
  dsimp only
  split
  · exact ⟨_, rfl⟩
  · exact ⟨s.sent, rfl⟩

theorem State.slaveConfirm_leaf {s : State} (hs : s.chain.setup = true) (hm : s.chain.live.master = false)
    (hd : s.chain.depth ≠ 0) (hdown : s.chain.live.down = 0) (hc : s.chain.confs = []) :
    s.slaveConfirm =
      s.send (.confirmation s.chain.live.up.toNat s.chain.depth.toNat [s.chain.live.chip.toNat]) := by
  have ha : s.chain.allConfirmed = true := by
    rw [Chain.allConfirmed_iff, hdown]
    intro l _ hl
    rw [BitVec.ofNat_eq_ofNat, BitVec.getLsbD_zero] at hl
    cases hl
  unfold State.slaveConfirm
  refine (if_pos (Bool.and_eq_true_iff.mpr ⟨?_, ha⟩)).trans ?_
  · rw [hs, hm, decide_eq_true hd]
    rfl
  · rw [hc]
    rfl

/-- What a mark that is followed changes, and what it leaves. -/
structure Followed (l : Nat) (s t : State) : Prop where
  state : t = { s with links := t.links, tick := t.tick, chain := t.chain, sent := t.sent }
  other : ∀ m, m ≠ l → t.link m = s.link m

section
variable (s : State) (l : Nat) (i : Item) (mark : Mark)

theorem State.followMark_followed : Followed l s (s.followMark l i mark) := by
  have hu : OnlyLink l s (s.modLink l fun k => { k with good := goodAfter mark (s.link l) }) :=
    OnlyLink.modLink_self l s _
  have hv := hu.modLink fun k => { k with pchip := i.src }
  unfold State.followMark
  extract_lets u c t depth
  obtain ⟨⟨ls, hu1⟩, hu2⟩ := hu
  obtain ⟨⟨ls', hv1⟩, hv2⟩ := hv
  split
  · exact ⟨by rw [show u = _ from hu1], hu2⟩
  · split
    · obtain ⟨x, hx⟩ := State.slaveConfirm_cases { (u.modLink l fun k => { k with pchip := i.src }) with
          tick := { t with no := i.unit 1 }, chain := { c with depth := depth } }
      rw [hx]
      exact ⟨by rw [show u.modLink l _ = _ from hv1], hv2⟩
    · split
      · exact ⟨by rw [show u = _ from hu1], hu2⟩
      · split
        · exact ⟨by rw [show u = _ from hu1], hu2⟩
        · exact ⟨by rw [show u = _ from hu1], hu2⟩

variable {s l i mark}

theorem State.followMark_unlocked (hl : s.locks l mark = false) :
    s.followMark l i mark = { (s.modLink l fun k => { k with good := goodAfter mark (s.link l) }) with
      tick := { s.tick with holdover := false, locked := false } } :=
  if_pos hl

variable (hl : s.locks l mark = true)
include hl

/-- The first mark of a set-up that the module locks on. -/
theorem State.followMark_first (hs : s.chain.setup = true) (hb : (i.unit 2).getLsbD 53 = true)
    (hd : s.chain.depth = 0) :
    s.followMark l i mark = State.slaveConfirm
      { ((s.modLink l fun k => { k with good := goodAfter mark (s.link l) }).modLink l fun k =>
          { k with pchip := i.src }) with
        tick := { s.tick.fromMark i true with no := i.unit 1 }
        chain := { s.chain with depth := field (i.unit 2) 41 12 + 1 } } := by
  rw [State.followMark, hl]
  exact (if_neg (by decide)).trans (if_pos ⟨hs, hb, hd⟩)

theorem State.followMark_last (hs : s.chain.setup = true) (hb : (i.unit 2).getLsbD 53 = false)
    (hd : s.chain.depth ≠ 0) :
    s.followMark l i mark = { (s.modLink l fun k => { k with good := goodAfter mark (s.link l) }) with
      tick := s.tick.fromMark i true, chain := { s.chain with setup := false, up := true } } := by
  rw [State.followMark, hl]
  exact (if_neg (by decide)).trans ((if_neg fun h => hd h.2.2).trans (if_pos ⟨hs, hb, hd⟩))

theorem State.followMark_join (hs : s.chain.setup = false) (hj : s.chain.join = true) :
    s.followMark l i mark = { (s.modLink l fun k => { k with good := goodAfter mark (s.link l) }) with
      tick := { s.tick.fromMark i true with no := i.unit 1, alignLost := false }
      chain := { s.chain with join := false, up := true, depth := field (i.unit 2) 41 12 + 1 } } := by
  rw [State.followMark, hl]
  have hn : ¬ s.chain.setup = true := by rw [hs]; decide
  exact (if_neg (by decide)).trans ((if_neg fun h => hn h.1).trans ((if_neg fun h => hn h.1).trans (if_pos hj)))

theorem State.followMark_tick (hs : s.chain.setup = false) (hj : s.chain.join = false) :
    s.followMark l i mark = { (s.modLink l fun k => { k with good := goodAfter mark (s.link l) }) with
      tick := s.tick.fromMark i true } := by
  rw [State.followMark, hl]
  have hn : ¬ s.chain.setup = true := by rw [hs]; decide
  exact (if_neg (by decide)).trans ((if_neg fun h => hn h.1).trans ((if_neg fun h => hn h.1).trans
    (if_neg (by rw [hj]; decide))))

end

/-- Settles O37: a mark is ignored, or locks, or is followed as set-up, rejoin and the tick need it. -/
theorem tickMarksAndHoldover : Obligations.TickMarksAndHoldover := by
  unfold Obligations.TickMarksAndHoldover
  refine ⟨?_, fun l mark s h => tickMark_none h, fun us s => ⟨fun h => ?_, fun h => ?_, fun h => ?_, fun h => ?_⟩⟩
  · intro l mark s i hi c k w locks follows read tick
    by_cases hf : s.follows l.val
    · have hf' : follows := hf
      let u : State := s.modLink l.val fun k => k.without i
      have huk : u.link l.val = k.without i := State.link_modLink_same s l.val fun k => k.without i
      have hgood : goodAfter mark (u.link l.val) = if mark.close then k.good + 1 else 0 := by
        rw [huk]
        rfl
      have hlocks : u.locks l.val mark = true ↔ locks := by
        unfold State.locks
        rw [hgood]
        simp only [Bool.or_eq_true, decide_eq_true_eq, locks]
        cases mark.close <;> simp [or_comm, u, State.modLink]
      have hread : (u.modLink l.val fun k => { k with good := goodAfter mark (u.link l.val) }).link l.val = read := by
        rw [State.link_modLink_same, hgood, huk]
        rfl
      have hst := State.followMark_followed u l.val i mark
      refine ⟨_, tickMark_followed hi hf, hst.state,
        fun m hm => (hst.other m hm).trans (State.link_modLink_other s (fun k => k.without i) hm),
        fun h => absurd hf' h, fun _ hn => ?_, fun _ hk hs hb hd => ?_, fun _ hk hs hb hd => ?_,
        fun _ hk hs hj => ?_, fun _ hk hs hj => ?_⟩
      · rw [State.followMark_unlocked (by rw [← Bool.not_eq_true, hlocks]; exact hn)]
        exact ⟨rfl, rfl, hread, rfl⟩
      · rw [State.followMark_first (hlocks.mpr hk) hs hb hd]
        let v : State := { ((u.modLink l.val fun k => { k with good := goodAfter mark (u.link l.val) }).modLink l.val
            fun k => { k with pchip := i.src }) with
          tick := { u.tick.fromMark i true with no := i.unit 1 }
          chain := { u.chain with depth := field (i.unit 2) 41 12 + 1 } }
        have hvl : v.link l.val = { read with pchip := i.src } :=
          (State.link_modLink_same _ l.val fun k => { k with pchip := i.src }).trans (by rw [hread])
        have hwait (h : ∃ m, m < 12 ∧ c.live.down.getLsbD m = true ∧ ∀ x ∈ c.confs, x.1 ≠ m) :
            v.chain.allConfirmed = false := by
          rw [← Bool.not_eq_true, Chain.allConfirmed_iff]
          obtain ⟨m, hm, hdown, hne⟩ := h
          intro hall
          obtain ⟨y, hy, hym⟩ := hall m hm hdown
          exact hne y hy hym
        obtain ⟨x, hx⟩ := State.slaveConfirm_cases v
        change v.slaveConfirm.tick = _ ∧ v.slaveConfirm.chain = _ ∧ v.slaveConfirm.link l.val = _ ∧
          (_ → v.slaveConfirm.sent = _) ∧ (_ → _ → _ → v.slaveConfirm.sent = _)
        refine ⟨by rw [hx]; rfl, by rw [hx]; rfl, by rw [hx]; exact hvl, fun h => ?_, fun h0 hc hd' => ?_⟩
        · rw [State.slaveConfirm_waits (hwait h)]
          rfl
        · rw [State.slaveConfirm_leaf (s := v) hs hf.1 hd' h0 hc]
          change Sent.confirmation s.chain.live.up.toNat _ _ :: s.sent = _
          rw [hf.2.1]
          rfl
      · rw [State.followMark_last (hlocks.mpr hk) hs hb hd]
        exact ⟨rfl, rfl, rfl, hread⟩
      · rw [State.followMark_join (hlocks.mpr hk) hs hj]
        exact ⟨rfl, rfl, hread, rfl⟩
      · rw [State.followMark_tick (hlocks.mpr hk) hs hj]
        exact ⟨rfl, rfl, rfl, hread⟩
    · have hnf : ¬ follows := hf
      refine ⟨_, tickMark_ignored hi hf, rfl, fun m hm => State.link_modLink_other s _ hm,
        fun _ => ⟨rfl, State.link_modLink_same s l.val fun k => k.without i⟩, fun h => absurd h hnf,
        fun h => absurd h hnf, fun h => absurd h hnf, fun h => absurd h hnf, fun h => absurd h hnf⟩
  · exact congrArg Host.Outcome.next (if_pos (by rw [State.slave, h]; rfl))
  · exact congrArg Host.Outcome.next (if_neg (by rw [State.slave, h]; decide))
  · exact congrArg Host.Outcome.next (if_neg (by rw [h]; decide))
  · obtain ⟨_, _, _, _, _, _, _, _, hr, hn⟩ := State.report_spec
      { s with tick := { s.tick with alignLost := true, alignDue := true } }
      { blankReport with code := 0x28, unit := 5, d0 := word us, wtn := s.tick.wtn } none
    refine ⟨_, congrArg Host.Outcome.next (if_pos h), ?_⟩
    dsimp only
    rw [hr]
    exact ⟨hn, rfl, rfl, rfl⟩

end Sys2Proof.Machine
end

section
/-!
# Long-vector arithmetic
-/
namespace Sys2Proof.Machine

/-! ### Vector entries that leave before the body runs -/

theorem State.dropV_carrel (s : State) (c : BitVec 12) (n : Nat) :
    (s.dropV c n).carrel c = { s.carrel c with vstack := (s.carrel c).vstack.drop n } := by
  unfold State.dropV
  rw [State.carrel_modCarrel_same]

theorem State.dropV_dataOf (s : State) (c : BitVec 12) (n : Nat) : (s.dropV c n).dataOf c = s.dataOf c := by
  unfold State.dataOf
  rw [State.dropV_carrel]
  rfl

theorem State.dropV_retOf (s : State) (c : BitVec 12) (n : Nat) : (s.dropV c n).retOf c = s.retOf c := by
  unfold State.retOf
  rw [State.dropV_carrel]
  rfl

theorem State.dropV_peekD (s : State) (c : BitVec 12) (n : Nat) : (s.dropV c n).peekD c = s.peekD c := by
  funext i
  unfold State.peekD
  rw [State.dropV_carrel]
  rfl

theorem State.dropV_peekR (s : State) (c : BitVec 12) (n : Nat) : (s.dropV c n).peekR c = s.peekR c := by
  funext i
  unfold State.peekR
  rw [State.dropV_retOf]
  rfl

/-- The effect of an instruction whose mask entry left first. -/
theorem Moves.of_dropV {c : BitVec 12} {base : Carrel} {dPop rPop n : Nat} {dOut rOut : List Word} {s t : State}
    (h : Moves c base dPop dOut rPop rOut (s.dropV c n) t) : Moves c base dPop dOut rPop rOut s t := by
  obtain ⟨⟨d1, d2, d3⟩, ⟨r1, r2, r3⟩, ⟨o1, o2⟩, hc, hb, hm⟩ := h
  have hk := s.dropV_carrel c n
  have hD : (s.dropV c n).spillsD c = s.spillsD c := by
    funext pop push i
    unfold State.spillsD
    rw [State.dropV_dataOf]
  have hR : (s.dropV c n).spillsR c = s.spillsR c := by
    funext pop push i
    unfold State.spillsR
    rw [State.dropV_retOf]
  have hdb : ((s.dropV c n).carrel c).dataBank = (s.carrel c).dataBank := by rw [hk]; rfl
  have hrb : ((s.dropV c n).carrel c).retBank = (s.carrel c).retBank := by rw [hk]; rfl
  have hbk (id : BankId) : ((s.dropV c n).carrel c).bank id = (s.carrel c).bank id := by rw [hk]; cases id <;> rfl
  rw [hdb, State.dropV_dataOf] at d1 d3
  rw [hdb] at d2
  rw [hrb, State.dropV_retOf] at r1 r3
  rw [hrb] at r2
  rw [hR, State.dropV_peekD] at d3
  rw [hD, State.dropV_peekR] at r3
  rw [hD, hR] at hm
  refine ⟨⟨d1, d2, d3⟩, ⟨r1, r2, r3⟩, ⟨o1, fun d hd => (o2 d hd).trans (State.carrel_modCarrel_other s _ hd)⟩, hc,
      ?_, hm⟩
  intro id
  have hid := hb id
  rw [hbk, hdb, hrb] at hid
  exact hid

theorem Carrel.stackCheck_drop {k : Carrel} {u : StackUse} {n : Nat}
    (h : k.stackCheck { u with vPop := u.vPop + n } = none) :
    ({ k with vstack := k.vstack.drop n } : Carrel).stackCheck u = none := by
  let j : Carrel := { k with vstack := k.vstack.drop n }
  unfold Carrel.stackCheck at h
  dsimp only at h
  split at h
  · cases h
  · next hd =>
    split at h
    · cases h
    · next hr =>
      have hd' : boundCheck (j.bank j.dataBank).d (j.bank j.dataBank).dres 8 (max u.dNeed u.dPop) u.dPop u.dPush =
          none := hd
      have hr' : boundCheck (j.bank j.retBank).r (j.bank j.retBank).rres 16 (max u.rNeed u.rPop) u.rPop u.rPush =
          none := hr
      have hl : (k.vstack.drop n).length = k.vstack.length - n := List.length_drop
      split at h
      · cases h
      · split at h
        · cases h
        · unfold Carrel.stackCheck
          change (match boundCheck (j.bank j.dataBank).d (j.bank j.dataBank).dres 8 (max u.dNeed u.dPop) u.dPop
              u.dPush with
            | some b => some (stackExc 0 b)
            | none => match boundCheck (j.bank j.retBank).r (j.bank j.retBank).rres 16 (max u.rNeed u.rPop) u.rPop
                u.rPush with
              | some b => some (stackExc 1 b)
              | none => _) = none
          rw [hd', hr']
          dsimp only
          rw [hl, if_neg (by omega), if_neg (by omega)]

/-- The stacks still have what a form needs once its mask entry has left. -/
theorem Fits.of_dropV {s : State} {c : BitVec 12} {u : StackUse} {n : Nat}
    (h : Fits s c { u with vPop := u.vPop + n }) : Fits (s.dropV c n) c u := by
  unfold Fits
  rw [State.dropV_carrel]
  exact Carrel.stackCheck_drop h

/-- Enough vector entries are there. -/
theorem Fits.vstack {s : State} {c : BitVec 12} {u : StackUse} (h : Fits s c u) :
    u.vPop ≤ (s.carrel c).vstack.length := by
  unfold Fits Carrel.stackCheck at h
  dsimp only at h
  split at h
  · cases h
  · split at h
    · cases h
    · split at h
      · cases h
      · omega

/-! ### Elements -/

/-- The vector operands of a form, deepest first. -/
theorem vent_take {l : List (BitVec 8192)} {n i : Nat} (hn : n ≤ l.length) (hi : i < n) :
    vent (l.take n).reverse i = l.getD (n - 1 - i) 0 := by
  unfold vent
  rw [List.getD_eq_getElem?_getD, List.getD_eq_getElem?_getD, List.getElem?_reverse (by simpa [hn] using hi),
    List.length_take, Nat.min_eq_left hn, List.getElem?_take_of_lt (by omega)]

theorem firstCause_map (n : Nat) (h : Nat → Option NanCause) :
    firstCause ((upto n).map h) = (upto n).findSome? fun i => (h i).map fun x => (i, x) := by
  have hm : ((upto n).map h).mapIdx (fun i x => x.map fun y => (i, y)) =
      (upto n).map fun i => (h i).map fun x => (i, x) := by
    refine List.ext_getElem (by simp) fun i h1 h2 => ?_
    simp [upto]
  unfold firstCause
  rw [hm, List.findSome?_map]
  rfl

/-- What a lane-wise result and its event are. -/
theorem vResult_lanewise (w n : Nat) (m : BitVec 8192) (g : Nat → FRes) (keep : Nat → Nat) :
    (lanewise w n m g keep).v = [ventry w ((vResult n m g keep).map (·.1))] ∧
      (lanewise w n m g keep).nan = firstCause ((vResult n m g keep).map (·.2)) := by
  unfold lanewise vResult
  rw [List.map_map, List.map_map]
  refine ⟨?_, ?_⟩
  · refine congrArg (fun l => [ventry w l]) (List.map_congr_left fun i _ => ?_)
    change _ = (if m.getLsbD i then g i else (keep i, none)).1
    split <;> rfl
  · rw [firstCause_map]
    refine congrArg (fun f => (upto n).findSome? f) (funext fun i => ?_)
    change _ = Option.map _ (if m.getLsbD i then g i else (keep i, none)).2
    split <;> rfl

/-! ### Forms -/

/-- What a form leaves in the carrel's registers, the stacks of words and the pc apart. -/
def VecOut.carrel (o : VecOut) (k : Carrel) (vPop : Nat) (wtn : Word) : Carrel :=
  let j := { k with vl := o.vl.getD k.vl, vstack := o.v ++ k.vstack.drop vPop }
  match o.nan with
  | none => j
  | some (i, x) => j.reported wtn 1 i (some x)

/-- A form by its body, which finds the mask entry already gone. -/
theorem vecForm_of {mk : BitVec 12 → VArith → Instr} {op : Nat} {u : StackUse}
    {f : VArith → Carrel → BitVec 8192 → (Nat → BitVec 8192) → (Nat → Word) → VecOut}
    (body : VArith → BitVec 12 → State → BitVec 8192 → Res)
    (h : ∀ a c s, vArithLegal op a = true → Sys2Proof.Machine.exec (mk c a) s = vInstr c op a u (body a c) s)
    (hk : ∀ a k l m v e, f a { k with vstack := l } m v e = f a k m v e)
    (hb : ∀ a c s m, vArithLegal op a = true → Fits s c u → (s.carrel c).icInit = false →
      ∃ t, body a c s m = .done t ∧
        let o := f a (s.carrel c) m (fun i => (s.carrel c).vstack.getD i 0) (s.peekD c)
        Moves c (o.carrel (s.carrel c) u.vPop s.tickWtn) u.dPop o.d 0 [] s t) :
    VecForm mk op u f := by
  intro a c s hlegal hr hf k mask o j
  have hic : (s.carrel c).icInit = false := Carrel.icInit_of_idle hr.1
  have hrun (t : State) (hbody : (if a.m then body a c (s.dropV c 1) ((s.carrel c).vstack.headD 0)
      else body a c s (BitVec.allOnes 8192)) = .done t) :
      Sys2Proof.Machine.exec (mk c a) s = .next (t.retire c 4) := by
    rw [h a c s hlegal, vInstr, runInstr_ready _ hr]
    rw [hlegal]
    rw [if_neg (by decide), withStacks_fits _ hf]
    rw [hbody]
    rfl
  cases hm : a.m with
  | true =>
    rw [hm] at hf
    have hdrop := s.dropV_carrel c 1
    obtain ⟨t, ht, hmv⟩ := hb a c (s.dropV c 1) ((s.carrel c).vstack.headD 0) hlegal hf.of_dropV
        (by rw [hdrop]; exact hic)
    refine ⟨t.retire c 4, hrun t (by rw [hm, if_pos rfl]; exact ht), ?_⟩
    rw [State.dropV_peekD, hdrop] at hmv
    rw [hk] at hmv
    have ho : o = f a k (k.vstack.headD 0) (fun i => (k.vstack.drop 1).getD i 0) (s.peekD c) := by
      simp only [o, mask, hm, if_true, b2n]
    have hj : j = { k with vl := o.vl.getD k.vl, vstack := o.v ++ (k.vstack.drop 1).drop u.vPop } := by
      simp only [j, hm, b2n, if_true, List.drop_drop, Nat.add_comm]
    rw [hj, ho]
    exact hmv.of_dropV.retire 4
  | false =>
    rw [hm] at hf
    obtain ⟨t, ht, hmv⟩ := hb a c s (BitVec.allOnes 8192) hlegal hf hic
    refine ⟨t.retire c 4, hrun t (by rw [hm, if_neg Bool.false_ne_true]; exact ht), ?_⟩
    have ho : o = f a k (BitVec.allOnes 8192) (fun i => k.vstack.getD i 0) (s.peekD c) := by
      simp only [o, mask, hm, Bool.false_eq_true, if_false, b2n, List.drop_zero]
    have hj : j = { k with vl := o.vl.getD k.vl, vstack := o.v ++ k.vstack.drop u.vPop } := by
      simp only [j, hm, b2n, Bool.false_eq_true, if_false, Nat.add_zero]
    rw [hj, ho]
    exact hmv.retire 4

/-! ### What bodies do to the vector stack -/

theorem keepsBanks_vstack (f : Carrel → List (BitVec 8192)) (hf : ∀ k j, f (Carrel.banksOf k j) = f k) :
    KeepsBanks fun k => { k with vstack := f k } := by
  intro k j
  dsimp only
  rw [hf]
  rfl

/-- Vector entries that leave and come after the effect on the stacks of words. -/
theorem Moves.vec {c : BitVec 12} {base : Carrel} {dPop : Nat} {dOut : List Word} {s t : State} (n : Nat)
    (l : List (BitVec 8192)) (h : Moves c base dPop dOut 0 [] s t) :
    Moves c { base with vstack := l.reverse ++ base.vstack.drop n } dPop dOut 0 [] s ((t.dropV c n).pushVs c l) :=
  Moves.mod (f := fun k => { k with vstack := l.reverse ++ k.vstack }) (keepsBanks_vstack _ fun _ _ => rfl)
    (Moves.mod (f := fun k => { k with vstack := k.vstack.drop n }) (keepsBanks_vstack _ fun _ _ => rfl) h)

/-- The event of a vector instruction, reported last. -/
theorem Moves.vecNan {c : BitVec 12} {base : Carrel} {dPop : Nat} {dOut : List Word} {s t : State}
    (e : Option (Nat × NanCause)) (h : Moves c base dPop dOut 0 [] s t) :
    Moves c (match e with
      | none => base
      | some (i, x) => base.reported s.tickWtn 1 i (some x)) dPop dOut 0 [] s (t.vecNan c e) := by
  cases e with
  | none => exact h
  | some e => exact h.coreNan 1 e.1 (some e.2)

/-- Data entries that leave and come for a form that fits. -/
theorem Fits.moves {s : State} {c : BitVec 12} {u : StackUse} (hf : Fits s c u) (outs : List Word)
    (hl : outs.length = u.dPush) :
    Moves c (s.carrel c) u.dPop outs 0 [] s ((s.popD c u.dPop).2.pushDs c outs.reverse) := by
  obtain ⟨hneed, hroom⟩ := fits_data hf
  exact moves_data s c u.dPop outs (fun h => by omega) (by rw [hl]; exact hroom)

/-! ### Forms by family -/

/-- The forms that move whole entries. -/
theorem shuffleForm_of {mk : BitVec 12 → VArith → Instr} {op k j : Nat}
    (f : List (BitVec 8192) → List (BitVec 8192)) {g : (Nat → BitVec 8192) → List (BitVec 8192)}
    (h : ∀ a c s, Sys2Proof.Machine.exec (mk c a) s = vShuffle c op a k j f s)
    (hg : ∀ l : List (BitVec 8192), k ≤ l.length → (f (l.take k).reverse).reverse = g fun i => l.getD i 0) :
    VecForm mk op { vPop := k, vPush := j } fun _ _ _ v _ => { v := g v } := by
  refine vecForm_of (fun _ c s _ => .done ((s.dropV c k).pushVs c (f ((s.carrel c).vstack.take k).reverse)))
    (fun a c s _ => h a c s) (fun _ _ _ _ _ _ => rfl) fun a c s m _ hf _ => ⟨_, rfl, ?_⟩
  have hv := (moves_none s c).vec k (f ((s.carrel c).vstack.take k).reverse)
  rw [hg _ hf.vstack] at hv
  exact hv

/-- The elements of an element-wise form. -/
def mapResult (a : VArith) (k : Nat) (f : List Nat → FRes) (r : Carrel) (m : BitVec 8192) : List FRes :=
  vResult (r.active (vaElem a).width) m
    (fun i => f ((r.vstack.take k).reverse.map fun v => velem (vaElem a).width v i))
    (fun i => velem (vaElem a).width ((r.vstack.take k).reverse.headD 0) i)

theorem vMap_eq (c : BitVec 12) (op : Nat) (a : VArith) (k : Nat) (f : List Nat → FRes) (s : State) :
    vMap c op a k f s = vInstr c op a { vPop := k, vPush := 1 } (fun s m =>
      .done (((s.dropV c k).pushVs c [ventry (vaElem a).width ((mapResult a k f (s.carrel c) m).map (·.1))]).vecNan c
        (firstCause ((mapResult a k f (s.carrel c) m).map (·.2))))) s := rfl

/-- The element-wise forms. -/
theorem mapForm_of {mk : BitVec 12 → VArith → Instr} {op k : Nat} (F : VArith → List Nat → FRes)
    {G : VArith → (Nat → Nat) → FRes}
    (h : ∀ a c s, vArithLegal op a = true → Sys2Proof.Machine.exec (mk c a) s = vMap c op a (k + 1) (F a) s)
    (hG : ∀ a (l : List (BitVec 8192)) i, vArithLegal op a = true → k + 1 ≤ l.length →
      F a ((l.take (k + 1)).reverse.map fun v => velem (elemOf a.type.toNat).width v i) =
        G a fun j => velem (elemOf a.type.toNat).width (l.getD j 0) i) :
    VecForm mk op { vPop := k + 1, vPush := 1 } fun a r m v _ =>
      lanewise (elemOf a.type.toNat).width (min r.vl.toNat (8192 / (elemOf a.type.toNat).width)) m
        (fun i => G a fun j => velem (elemOf a.type.toNat).width (v j) i)
        (velem (elemOf a.type.toNat).width (v k)) := by
  refine vecForm_of (fun a c s m => .done (((s.dropV c (k + 1)).pushVs c
      [ventry (vaElem a).width ((mapResult a (k + 1) (F a) (s.carrel c) m).map (·.1))]).vecNan c
        (firstCause ((mapResult a (k + 1) (F a) (s.carrel c) m).map (·.2)))))
    (fun a c s hl => (h a c s hl).trans (vMap_eq c op a (k + 1) (F a) s)) (fun _ _ _ _ _ _ => rfl)
    fun a c s m hl hf _ => ⟨_, rfl, ?_⟩
  have hlen := hf.vstack
  have hhead : ((s.carrel c).vstack.take (k + 1)).reverse.headD 0 = (s.carrel c).vstack.getD k 0 := by
    have := vent_take (i := 0) hlen (Nat.succ_pos k)
    rw [Nat.add_sub_cancel, Nat.sub_zero] at this
    rw [← this]
    unfold vent
    cases ((s.carrel c).vstack.take (k + 1)).reverse <;> rfl
  have hres : mapResult a (k + 1) (F a) (s.carrel c) m = vResult ((s.carrel c).active (vaElem a).width) m
      (fun i => G a fun j => velem (elemOf a.type.toNat).width ((s.carrel c).vstack.getD j 0) i)
      (velem (elemOf a.type.toNat).width ((s.carrel c).vstack.getD k 0)) := by
    unfold mapResult
    rw [hhead]
    exact congrArg (fun f => vResult _ m f _) (funext fun i => hG a _ i hl hlen)
  obtain ⟨h1, h2⟩ := vResult_lanewise (elemOf a.type.toNat).width
    (min (s.carrel c).vl.toNat (8192 / (elemOf a.type.toNat).width)) m
    (fun i => G a fun j => velem (elemOf a.type.toNat).width ((s.carrel c).vstack.getD j 0) i)
    (velem (elemOf a.type.toNat).width ((s.carrel c).vstack.getD k 0))
  have hv := ((moves_none s c).vec (k + 1)
    [ventry (vaElem a).width ((mapResult a (k + 1) (F a) (s.carrel c) m).map (·.1))]).vecNan
    (firstCause ((mapResult a (k + 1) (F a) (s.carrel c) m).map (·.2)))
  rw [hres] at hv ⊢
  unfold VecOut.carrel
  dsimp only
  rw [h1, h2]
  exact hv

/-- Elements without an event. -/
theorem vResult_plain (n : Nat) (m : BitVec 8192) (f keep : Nat → Nat) :
    (vResult n m (fun i => (f i, none)) keep).map (·.1) =
        (upto n).map fun i => if m.getLsbD i then f i else keep i := by
  unfold vResult
  rw [List.map_map]
  refine List.map_congr_left fun i _ => ?_
  change (if m.getLsbD i then (f i, none) else (keep i, none) : FRes).1 = _
  split <;> rfl

/-- No lane-wise result without events reports one. -/
theorem lanewise_plain (w n : Nat) (m : BitVec 8192) (f keep : Nat → Nat) :
    lanewise w n m (fun i => (f i, none)) keep =
      { v := [ventry w ((upto n).map fun i => if m.getLsbD i then f i else keep i)] } := by
  unfold lanewise
  have : ((upto n).findSome? fun i => if m.getLsbD i then Option.map (fun x => (i, x)) none else none) =
      (none : Option (Nat × NanCause)) := by
    rw [List.findSome?_eq_none_iff]
    intro i _
    split <;> rfl
  dsimp only
  rw [this]

theorem State.popD_vstack (s : State) (c : BitVec 12) (n : Nat) :
    ((s.popD c n).2.carrel c).vstack = (s.carrel c).vstack := by
  rw [State.popD_state, State.carrel_setCarrel_same]
  cases (s.carrel c).dataBank <;> rfl

/-- Vector entries popped after data entries. -/
theorem State.popV_popD (s : State) (c : BitVec 12) (d n : Nat) :
    (s.popD c d).2.popV c n = (((s.carrel c).vstack.take n).reverse, (s.popD c d).2.dropV c n) := by
  unfold State.popV
  rw [State.popD_vstack]

/-- The forms that pop data entries and replace vector entries, without events. -/
theorem entryForm_of {mk : BitVec 12 → VArith → Instr} {op d k : Nat}
    (F : VArith → Carrel → BitVec 8192 → List Word → List (BitVec 8192) → BitVec 8192)
    {G : VArith → Carrel → BitVec 8192 → (Nat → BitVec 8192) → (Nat → Word) → BitVec 8192}
    (h : ∀ a c s, Sys2Proof.Machine.exec (mk c a) s =
      vInstr c op a { dPop := d, vPop := k, vPush := 1 } (fun s m =>
        .done (((s.popD c d).2.dropV c k).pushVs c
          [F a (s.carrel c) m (s.popD c d).1 ((s.carrel c).vstack.take k).reverse])) s)
    (hk : ∀ a r l m v e, G a { r with vstack := l } m v e = G a r m v e)
    (hG : ∀ a (r : Carrel) m (s : State) c, k ≤ r.vstack.length →
      F a r m (s.tops c d) (r.vstack.take k).reverse = G a r m (fun i => r.vstack.getD i 0) (s.peekD c)) :
    VecForm mk op { dPop := d, vPop := k, vPush := 1 } fun a r m v e => { v := [G a r m v e] } := by
  refine vecForm_of _ (fun a c s _ => h a c s) (fun a r l m v e => by rw [hk]) fun a c s m _ hf _ => ⟨_, rfl, ?_⟩
  have hv := (hf.moves [] rfl).vec k [F a (s.carrel c) m (s.popD c d).1 ((s.carrel c).vstack.take k).reverse]
  rw [State.popD_fst, hG a (s.carrel c) m s c hf.vstack] at hv
  rw [State.popD_fst, hG a (s.carrel c) m s c hf.vstack]
  exact hv

theorem shiftForm_of {mk : BitVec 12 → VArith → Instr} {op : Nat} (f : Nat → Nat → Nat → Nat)
    (h : ∀ a c s, Sys2Proof.Machine.exec (mk c a) s = vShift c op a f s) :
    VecForm mk op { dPop := 1, vPop := 1, vPush := 1 } fun a r m v e =>
      lanewise (elemOf a.type.toNat).width (min r.vl.toNat (8192 / (elemOf a.type.toNat).width)) m
        (fun i => (f (elemOf a.type.toNat).width (velem (elemOf a.type.toNat).width (v 0) i)
          ((e 0).toNat % (elemOf a.type.toNat).width), none))
        (velem (elemOf a.type.toNat).width (v 0)) := by
  simp only [lanewise_plain]
  refine entryForm_of (d := 1) (k := 1) (fun a r m l vs =>
      ventry (vaElem a).width ((vResult (r.active (vaElem a).width) m
        (fun i => (f (vaElem a).width (velem (vaElem a).width (vent vs 0) i) (entN l 0 % (vaElem a).width), none))
        (velem (vaElem a).width (vent vs 0))).map (·.1)))
    (fun a c s => (h a c s).trans ?_) (fun _ _ _ _ _ _ => rfl) fun a r m s c hl => ?_
  · unfold vShift
    simp only [State.popV_popD]
  · rw [vResult_plain, vent_take hl Nat.zero_lt_one]
    unfold entN
    rw [ent_tops s c Nat.zero_lt_one]
    rfl

/-- The forms that only replace vector entries, without events. -/
theorem plainForm_of {mk : BitVec 12 → VArith → Instr} {op k : Nat}
    (F : VArith → Carrel → BitVec 8192 → List (BitVec 8192) → BitVec 8192)
    {G : VArith → Carrel → BitVec 8192 → (Nat → BitVec 8192) → BitVec 8192}
    (h : ∀ a c s, Sys2Proof.Machine.exec (mk c a) s = vInstr c op a { vPop := k, vPush := 1 } (fun s m =>
      .done ((s.dropV c k).pushVs c [F a (s.carrel c) m ((s.carrel c).vstack.take k).reverse])) s)
    (hk : ∀ a r l m v, G a { r with vstack := l } m v = G a r m v)
    (hG : ∀ a (r : Carrel) m, k ≤ r.vstack.length →
      F a r m (r.vstack.take k).reverse = G a r m fun i => r.vstack.getD i 0) :
    VecForm mk op { vPop := k, vPush := 1 } fun a r m v _ => { v := [G a r m v] } := by
  refine vecForm_of _ (fun a c s _ => h a c s) (fun a r l m v e => by rw [hk]) fun a c s m _ hf _ => ⟨_, rfl, ?_⟩
  have hv := (moves_none s c).vec k [F a (s.carrel c) m ((s.carrel c).vstack.take k).reverse]
  rw [hG a (s.carrel c) m hf.vstack] at hv
  rw [hG a (s.carrel c) m hf.vstack]
  exact hv

theorem compareForm_of {mk : BitVec 12 → VArith → Instr} {op : Nat} (f : Elem → Nat → Nat → Bool)
    (h : ∀ a c s, Sys2Proof.Machine.exec (mk c a) s = vCompare c op a f s) :
    VecForm mk op { vPop := 2, vPush := 1 } fun a r m v _ =>
      { v := [ventry 1 ((upto (min r.vl.toNat (8192 / (elemOf a.type.toNat).width))).map fun i =>
        if m.getLsbD i && f (elemOf a.type.toNat) (velem (elemOf a.type.toNat).width (v 1) i)
          (velem (elemOf a.type.toNat).width (v 0) i) then 1 else 0)] } := by
  refine plainForm_of (k := 2) (fun a r m vs => ventry 1 ((upto (r.active (vaElem a).width)).map fun i =>
      b2n (m.getLsbD i && f (vaElem a) (velem (vaElem a).width (vent vs 0) i) (velem (vaElem a).width (vent vs 1) i))))
    (fun a c s => h a c s) (fun _ _ _ _ _ => rfl) fun a r m hl => ?_
  rw [vent_take hl (by decide), vent_take hl (by decide)]
  rfl

theorem vsel_form : VecForm .vsel 0x1B { vPop := 3, vPush := 1 } fun a r _ v _ =>
    { v := [ventry (elemOf a.type.toNat).width ((upto (min r.vl.toNat (8192 / (elemOf a.type.toNat).width))).map fun i =>
      if (v 0).getLsbD i then velem (elemOf a.type.toNat).width (v 1) i
      else velem (elemOf a.type.toNat).width (v 2) i)] } := by
  refine plainForm_of (k := 3) (fun a r _ vs => ventry (vaElem a).width ((upto (r.active (vaElem a).width)).map fun i =>
      if (vent vs 2).getLsbD i then velem (vaElem a).width (vent vs 1) i else velem (vaElem a).width (vent vs 0) i))
    (fun _ _ _ => rfl) (fun _ _ _ _ _ => rfl) fun a r m hl => ?_
  rw [vent_take hl (by decide), vent_take hl (by decide), vent_take hl (by decide)]
  rfl

/-- Vector entries that come after the effect on the stacks of words. -/
theorem Moves.pushVs {c : BitVec 12} {base : Carrel} {dPop : Nat} {dOut : List Word} {s t : State}
    (l : List (BitVec 8192)) (h : Moves c base dPop dOut 0 [] s t) :
    Moves c { base with vstack := l.reverse ++ base.vstack } dPop dOut 0 [] s (t.pushVs c l) :=
  Moves.mod (f := fun k => { k with vstack := l.reverse ++ k.vstack }) (keepsBanks_vstack _ fun _ _ => rfl) h

theorem exec_vbcast (c : BitVec 12) (a : VArith) (s : State) : Sys2Proof.Machine.exec (.vbcast c a) s =
    vInstr c 0x1C a { dPop := 1, vPush := 1 } (fun s m => .done ((s.popD c 1).2.pushVs c [ventry (vaElem a).width
      ((vResult ((s.carrel c).active (vaElem a).width) m
        (fun _ => (entN (s.popD c 1).1 0 % 2 ^ (vaElem a).width, none)) fun _ => 0).map (·.1))])) s := rfl

theorem vbcast_form : VecForm .vbcast 0x1C { dPop := 1, vPush := 1 } fun a r m _ e =>
    { v := [ventry (elemOf a.type.toNat).width ((upto (min r.vl.toNat (8192 / (elemOf a.type.toNat).width))).map fun i =>
      if m.getLsbD i then (e 0).toNat % 2 ^ (elemOf a.type.toNat).width else 0)] } := by
  refine vecForm_of _ (fun a c s _ => exec_vbcast c a s) (fun _ _ _ _ _ _ => rfl) fun a c s m _ hf _ => ⟨_, rfl, ?_⟩
  dsimp only
  rw [vResult_plain, State.popD_fst]
  unfold entN
  rw [ent_tops s c Nat.zero_lt_one]
  exact (hf.moves [] rfl).pushVs _

theorem exec_viota (c : BitVec 12) (a : VArith) (s : State) : Sys2Proof.Machine.exec (.viota c a) s =
    vInstr c 0x1D a { vPush := 1 } (fun s m => .done (s.pushVs c [ventry (vaElem a).width ((vResult ((s.carrel
        c).active (vaElem a).width) m
      (fun i => (i % 2 ^ (vaElem a).width, none)) fun _ => 0).map (·.1))])) s := rfl

theorem viota_form : VecForm .viota 0x1D { vPush := 1 } fun a r m _ _ =>
    { v := [ventry (elemOf a.type.toNat).width ((upto (min r.vl.toNat (8192 / (elemOf a.type.toNat).width))).map fun i =>
      if m.getLsbD i then i % 2 ^ (elemOf a.type.toNat).width else 0)] } := by
  refine vecForm_of _ (fun a c s _ => exec_viota c a s) (fun _ _ _ _ _ _ => rfl) fun a c s m _ hf _ => ⟨_, rfl, ?_⟩
  dsimp only
  rw [vResult_plain]
  exact (moves_none s c).pushVs _

theorem getD_listSet {α : Type} (l : List α) (n : Nat) (x : α) :
    listSet l n x = l.set n x := by
  induction l generalizing n with
  | nil => cases n <;> rfl
  | cons a l ih => cases n with
    | zero => rfl
    | succ n => rw [listSet, ih, List.set_cons_succ]

theorem vins_form : VecForm .vins 0x1F { dPop := 2, vPop := 1, vPush := 1 } fun a _ _ v e =>
    { v := [ventry (elemOf a.type.toNat).width ((upto (8192 / (elemOf a.type.toNat).width)).map fun i =>
      if i = (e 0).toNat % (8192 / (elemOf a.type.toNat).width) then (e 1).toNat % 2 ^ (elemOf a.type.toNat).width
      else velem (elemOf a.type.toNat).width (v 0) i)] } := by
  refine entryForm_of (d := 2) (k := 1) (fun a _ _ l vs => ventry (vaElem a).width
      (listSet (velems (vaElem a).width (vent vs 0) (vlMax (vaElem a).width)) (entN l 0 % vlMax (vaElem a).width)
        (entN l 1 % 2 ^ (vaElem a).width)))
    (fun a c s => ?_) (fun _ _ _ _ _ _ => rfl) fun a r m s c hl => ?_
  · change execVins c a s = _
    unfold execVins
    simp only [State.popV_popD]
  · rw [vent_take hl Nat.zero_lt_one, getD_listSet]
    unfold entN
    rw [ent_tops s c Nat.zero_lt_two, ent_tops s c Nat.one_lt_two]
    refine congrArg (ventry _) (List.ext_getElem (by simp [velems, upto, vlMax, vaElem]) fun i h1 h2 => ?_)
    rw [List.getElem_set]
    simp only [velems, upto, List.getElem_map, List.getElem_range, vlMax, vaElem]
    by_cases hi : (s.peekD c 0).toNat % (8192 / (elemOf a.type.toNat).width) = i
    · rw [if_pos hi, if_pos hi.symm]
    · rw [if_neg hi, if_neg (Ne.symm hi)]

/-- The elements of a conversion. -/
def cvtResult (a : VArith) (r : Carrel) (m : BitVec 8192) : List FRes :=
  vResult (min (r.active (vaElem a).width) (vlMax (elemOf a.dtype.toNat).width)) m
    (fun i => (elemOf a.dtype.toNat).conv a.sat
      ((vaElem a).num (velem (vaElem a).width (vent (r.vstack.take 1).reverse 0) i)).toVal) fun _ => 0

theorem exec_vcvt (c : BitVec 12) (a : VArith) (s : State) : Sys2Proof.Machine.exec (.vcvt c a) s =
    vInstr c 0x20 a { vPop := 1, vPush := 1 } (fun s m => .done (((s.dropV c 1).pushVs c
      [ventry (elemOf a.dtype.toNat).width ((cvtResult a (s.carrel c) m).map (·.1))]).vecNan c
        (firstCause ((cvtResult a (s.carrel c) m).map (·.2))))) s := rfl

theorem vcvt_form : VecForm .vcvt 0x20 { vPop := 1, vPush := 1 } fun a r m v _ =>
    lanewise (elemOf a.dtype.toNat).width (min (min r.vl.toNat (8192 / (elemOf a.type.toNat).width))
      (8192 / (elemOf a.dtype.toNat).width)) m
      (fun i => (elemOf a.dtype.toNat).conv a.sat
        ((elemOf a.type.toNat).num (velem (elemOf a.type.toNat).width (v 0) i)).toVal) fun _ => 0 := by
  refine vecForm_of _ (fun a c s _ => exec_vcvt c a s) (fun _ _ _ _ _ _ => rfl) fun a c s m _ hf _ => ⟨_, rfl, ?_⟩
  have hv := ((moves_none s c).vec 1
    [ventry (elemOf a.dtype.toNat).width ((cvtResult a (s.carrel c) m).map (·.1))]).vecNan
    (firstCause ((cvtResult a (s.carrel c) m).map (·.2)))
  unfold cvtResult at hv ⊢
  rw [vent_take hf.vstack Nat.zero_lt_one] at hv ⊢
  obtain ⟨h1, h2⟩ := vResult_lanewise (elemOf a.dtype.toNat).width
    (min (min (s.carrel c).vl.toNat (8192 / (elemOf a.type.toNat).width)) (8192 / (elemOf a.dtype.toNat).width)) m
    (fun i => (elemOf a.dtype.toNat).conv a.sat
        ((elemOf a.type.toNat).num (velem (elemOf a.type.toNat).width ((s.carrel c).vstack.getD 0 0) i)).toVal) fun _
            => 0
  unfold VecOut.carrel
  dsimp only
  rw [h1, h2]
  exact hv

/-- A pushed data entry, nothing popped. -/
theorem Fits.pushes {s : State} {c : BitVec 12} {u : StackUse} (hf : Fits s c u) (h0 : u.dPop = 0) (h1 : u.dPush = 1)
    (h2 : u.rPop = 0) (x : Word) : Moves c (s.carrel c) 0 [x] 0 [] s (s.pushD c x) := by
  have hm := moves_of_fits (dOut := [x]) (s3 := s) hf (by rw [h0]; exact PopsD.refl c s)
    (by rw [h2]; exact PopsR.refl c s) (PushedR.refl c _ s) h1.symm
  rw [h0, h2] at hm
  exact hm

/-- The top entry that stays. -/
theorem vstack_stays {l : List (BitVec 8192)} (h : 1 ≤ l.length) : [l.getD 0 0] ++ l.drop 1 = l := by
  match l, h with
  | x :: l, _ => rfl

theorem headD_eq_getD (l : List (BitVec 8192)) : l.headD 0 = l.getD 0 0 := by cases l <;> rfl

theorem exec_vgetl (c : BitVec 12) (a : VArith) (s : State) : Sys2Proof.Machine.exec (.vgetl c a) s =
    vInstr c 0x01 a { dPush := 1 } (fun s _ => .done (s.pushD c ((s.carrel c).vl.setWidth 64))) s := rfl

theorem vgetl_form : VecForm .vgetl 0x01 { dPush := 1 } fun _ r _ _ _ => { d := [BitVec.ofNat 64 r.vl.toNat] } := by
  refine vecForm_of _ (fun a c s _ => exec_vgetl c a s) (fun _ _ _ _ _ _ => rfl) fun a c s _ _ hf _ => ⟨_, rfl, ?_⟩
  have hx : (s.carrel c).vl.setWidth 64 = BitVec.ofNat 64 (s.carrel c).vl.toNat := (BitVec.ofNat_toNat _ _).symm
  rw [hx]
  exact hf.pushes rfl rfl rfl _

theorem exec_vmcnt (c : BitVec 12) (a : VArith) (s : State) : Sys2Proof.Machine.exec (.vmcnt c a) s =
    vInstr c 0x24 a { dPush := 1, vPop := 1, vPush := 1 } (fun s _ => .done (s.pushD c
      (word (((upto (s.carrel c).vl.toNat).filter fun i => ((s.carrel c).vstack.headD 0).getLsbD i).length)))) s := rfl

theorem vmcnt_form : VecForm .vmcnt 0x24 { dPush := 1, vPop := 1, vPush := 1 } fun _ r _ v _ =>
    { d := [BitVec.ofNat 64 ((List.range r.vl.toNat).countP fun i => (v 0).getLsbD i)], v := [v 0] } := by
  refine vecForm_of _ (fun a c s _ => exec_vmcnt c a s) (fun _ _ _ _ _ _ => rfl) fun a c s _ _ hf _ => ⟨_, rfl, ?_⟩
  have hv := hf.pushes rfl rfl rfl
    (word (((upto (s.carrel c).vl.toNat).filter fun i => ((s.carrel c).vstack.headD 0).getLsbD i).length))
  unfold VecOut.carrel
  dsimp only
  rw [vstack_stays hf.vstack, List.countP_eq_length_filter, ← headD_eq_getD]
  exact hv

/-- What VEXT gives for element value `x`. -/
def extEntry (a : VArith) (x : Nat) : Word :=
  match elemOf a.type.toNat with
  | .int w => BitVec.ofInt 64 (BitVec.ofNat w x).toInt
  | .fp _ => BitVec.ofNat 64 x

theorem elemOf_int_le {t w : Nat} (h : elemOf t = .int w) : w ≤ 64 := by
  unfold elemOf at h
  split at h <;> cases h <;> decide

theorem exec_vext (c : BitVec 12) (a : VArith) (s : State) : Sys2Proof.Machine.exec (.vext c a) s =
    vInstr c 0x1E a { dPop := 1, dPush := 1, vPop := 1, vPush := 1 } (fun s _ => .done ((s.popD c 1).2.pushD c
      (extEntry a (velem (vaElem a).width (((s.popD c 1).2.carrel c).vstack.headD 0)
          (entN (s.popD c 1).1 0 % vlMax (vaElem a).width))))) s := by
  have hx (w x : Nat) (hw : w ≤ 64) : sext w (word x) = BitVec.ofInt 64 (BitVec.ofNat w x).toInt := by
    unfold sext word
    rw [BitVec.signExtend, BitVec.setWidth_ofNat_of_le hw]
  change execVext c a s = _
  unfold execVext extEntry vaElem
  cases he : elemOf a.type.toNat with
  | int w =>
    simp only [hx w _ (elemOf_int_le he)]
  | fp f => rfl

theorem vext_form : VecForm .vext 0x1E { dPop := 1, dPush := 1, vPop := 1, vPush := 1 } fun a _ _ v e =>
    { d := [extEntry a (velem (elemOf a.type.toNat).width (v 0) ((e 0).toNat % (8192 / (elemOf a.type.toNat).width)))]
      v := [v 0] } := by
  refine vecForm_of _ (fun a c s _ => exec_vext c a s) (fun _ _ _ _ _ _ => rfl) fun a c s _ _ hf _ => ⟨_, rfl, ?_⟩
  rw [State.popD_vstack, State.popD_fst]
  unfold entN
  rw [ent_tops s c Nat.zero_lt_one, headD_eq_getD]
  unfold VecOut.carrel
  dsimp only
  rw [vstack_stays hf.vstack]
  exact hf.moves [extEntry a _] rfl

/-- Bytes and a carrel's registers are written independently. -/
theorem State.setBytes_setCarrel (c : BitVec 12) (k : Carrel) (l : List Byte) : ∀ (s : State) (a : Nat),
    (s.setCarrel c k).setBytes a l = (s.setBytes a l).setCarrel c k := by
  induction l with
  | nil => exact fun _ _ => rfl
  | cons b l ih => exact fun s a => ih (s.setByte a b) (a + 1)

/-- Memory after a push on a bank's data stack: its deepest resident entry is written where the bank is full. -/
def State.spilled (s : State) (c : BitVec 12) (b : Bank) : State :=
  if b.dres.length < 8 then s else s.setLe (shelfBase c.toNat + 8 * b.d.ptr.toNat) 8 (b.dres.getLastD 0).toNat

theorem State.pushBank_spilled (s : State) (c : BitVec 12) (id : BankId) (x : Word) :
    s.pushBank c id x = (s.spilled c ((s.carrel c).bank id)).setCarrel c
      ((s.carrel c).setBank id (((s.carrel c).bank id).pushed x)) := by
  unfold State.pushBank State.spilled Bank.pushed
  dsimp only
  split <;> rfl

theorem State.spilled_setCarrel (s : State) (c : BitVec 12) (k : Carrel) (b : Bank) :
    (s.setCarrel c k).spilled c b = (s.spilled c b).setCarrel c k := by
  unfold State.spilled
  split
  · rfl
  · exact State.setBytes_setCarrel c k _ s _

/-- The active length may be written before or after a push. -/
theorem State.setVl_pushD {s : State} {c : BitVec 12} (h : (s.carrel c).icInit = false) (n : BitVec 11) (x : Word) :
    (s.modCarrel c fun k => { k with vl := n }).pushD c x = (s.pushD c x).modCarrel c fun k => { k with vl := n } := by
  let j : Carrel := { s.carrel c with vl := n }
  have hj : j.icInit = false := h
  have hb (id : BankId) : j.bank id = (s.carrel c).bank id := by cases id <;> rfl
  have hset (id : BankId) (b : Bank) :
      j.setBank id b = { (s.carrel c).setBank id b with vl := n } := by cases id <;> rfl
  have hk (id : BankId) (b : Bank) : ((s.carrel c).setBank id b).icInit = false := by cases id <;> exact h
  unfold State.pushD State.modCarrel
  rw [State.carrel_setCarrel_same, State.pushBank_spilled, State.pushBank_spilled, State.carrel_setCarrel_same,
    State.carrel_setCarrel_same, State.setCarrel_setCarrel _ _ _ (hk _ _), State.spilled_setCarrel,
    State.setCarrel_setCarrel _ _ _ hj]
  change (s.spilled c (j.bank (s.carrel c).dataBank)).setCarrel c
    (j.setBank (s.carrel c).dataBank ((j.bank (s.carrel c).dataBank).pushed x)) = _
  rw [hb, hset]

theorem exec_vsetl (c : BitVec 12) (a : VArith) (s : State) : Sys2Proof.Machine.exec (.vsetl c a) s =
    vInstr c 0x00 a { dPop := 1, dPush := 1 } (fun s _ => .done (((s.popD c 1).2.modCarrel c fun k =>
      { k with vl := BitVec.ofNat 11 (min (entN (s.popD c 1).1 0) (vlMax (vaElem a).width)) }).pushD c
        (word (min (entN (s.popD c 1).1 0) (vlMax (vaElem a).width))))) s := rfl

theorem vsetl_form : VecForm .vsetl 0x00 { dPop := 1, dPush := 1 } fun a _ _ _ e =>
    { d := [BitVec.ofNat 64 (min (e 0).toNat (8192 / (elemOf a.type.toNat).width))]
      vl := some (BitVec.ofNat 11 (min (e 0).toNat (8192 / (elemOf a.type.toNat).width))) } := by
  refine vecForm_of _ (fun a c s _ => exec_vsetl c a s) (fun _ _ _ _ _ _ => rfl) fun a c s _ _ hf hic => ⟨_, rfl, ?_⟩
  have hpop : ((s.popD c 1).2.carrel c).icInit = false := by
    rw [State.popD_state, State.carrel_setCarrel_same]
    cases (s.carrel c).dataBank <;> exact hic
  rw [State.setVl_pushD hpop, State.popD_fst]
  unfold entN
  rw [ent_tops s c Nat.zero_lt_one]
  have hv := hf.moves [word (min (s.peekD c 0).toNat (vlMax (vaElem a).width))] rfl
  exact Moves.mod (f := fun k => { k with vl := BitVec.ofNat 11 (min (s.peekD c 0).toNat (vlMax (vaElem a).width)) })
    (fun _ _ => rfl) hv

/-! ### The instructions -/

/-- An operand of an element-wise form. -/
theorem arg_operand {l : List (BitVec 8192)} {n i : Nat} (f : BitVec 8192 → Nat) (hn : n ≤ l.length) (hi : i < n) :
    arg ((l.take n).reverse.map f) i = f (l.getD (n - 1 - i) 0) := by
  unfold arg
  rw [← vent_take hn hi]
  unfold vent
  rw [List.getD_eq_getElem?_getD, List.getD_eq_getElem?_getD, List.getElem?_map,
    List.getElem?_eq_getElem (by simp [hn]; omega)]
  rfl

/-- The result of an element-wise form of two operands, the first one deeper. -/
def twoResult (g : Elem → Nat → Nat → FRes) (a : VArith) (r : Carrel) (m : BitVec 8192) (v : Nat → BitVec 8192) :
    VecOut :=
  lanewise (elemOf a.type.toNat).width (min r.vl.toNat (8192 / (elemOf a.type.toNat).width)) m
    (fun i => g (elemOf a.type.toNat) (velem (elemOf a.type.toNat).width (v 1) i)
      (velem (elemOf a.type.toNat).width (v 0) i)) (velem (elemOf a.type.toNat).width (v 1))

theorem twoForm_of {mk : BitVec 12 → VArith → Instr} {op : Nat} (F : VArith → Nat → Nat → FRes)
    {g : Elem → Nat → Nat → FRes}
    (h : ∀ a c s, Sys2Proof.Machine.exec (mk c a) s = vMap c op a 2 (fun l => F a (arg l 0) (arg l 1)) s)
    (hg : ∀ a x y, vArithLegal op a = true → F a x y = g (elemOf a.type.toNat) x y) :
    VecForm mk op { vPop := 2, vPush := 1 } fun a r m v _ => twoResult g a r m v := by
  refine mapForm_of (k := 1) (G := fun a x => g (elemOf a.type.toNat) (x 1) (x 0))
    (fun a l => F a (arg l 0) (arg l 1)) (fun a c s _ => h a c s) fun a l i hl hlen => ?_
  rw [hg _ _ _ hl, arg_operand _ hlen (by decide), arg_operand _ hlen (by decide)]

/-- The result of an element-wise form of one operand. -/
def oneResult (g : Elem → Nat → FRes) (a : VArith) (r : Carrel) (m : BitVec 8192) (v : Nat → BitVec 8192) : VecOut :=
  lanewise (elemOf a.type.toNat).width (min r.vl.toNat (8192 / (elemOf a.type.toNat).width)) m
    (fun i => g (elemOf a.type.toNat) (velem (elemOf a.type.toNat).width (v 0) i))
    (velem (elemOf a.type.toNat).width (v 0))

theorem oneForm_of {mk : BitVec 12 → VArith → Instr} {op : Nat} (F : VArith → Nat → FRes) {g : Elem → Nat → FRes}
    (h : ∀ a c s, Sys2Proof.Machine.exec (mk c a) s = vMap c op a 1 (fun l => F a (arg l 0)) s)
    (hg : ∀ a x, vArithLegal op a = true → F a x = g (elemOf a.type.toNat) x) :
    VecForm mk op { vPop := 1, vPush := 1 } fun a r m v _ => oneResult g a r m v := by
  refine mapForm_of (k := 0) (G := fun a x => g (elemOf a.type.toNat) (x 0))
    (fun a l => F a (arg l 0)) (fun a c s _ => h a c s) fun a l i hl hlen => ?_
  rw [hg _ _ hl, arg_operand _ hlen (by decide)]

/-- The types of VDIV and VSQRT are formats. -/
theorem elemOf_of_division {op : Nat} {a : VArith} (h : vArithLegal op a = true) (ho : vTypes op = some 2) :
    elemOf a.type.toNat = .fp (vaFmt a) := by
  unfold vArithLegal at h
  rw [ho] at h
  simp only [Bool.and_eq_true, vTypeOk, decide_eq_true_eq] at h
  obtain ⟨⟨⟨h4, h7⟩, -⟩, -⟩ := h
  unfold vaFmt vaElem
  have : a.type.toNat = 4 ∨ a.type.toNat = 5 ∨ a.type.toNat = 6 ∨ a.type.toNat = 7 := by omega
  rcases this with h | h | h | h <;> rw [h] <;> rfl

theorem entry_forms :
    VecForm .vdup 0x02 { vPop := 1, vPush := 2 } (fun _ _ _ v _ => { v := [v 0, v 0] }) ∧
    VecForm .vdrop 0x03 { vPop := 1 } (fun _ _ _ _ _ => {}) ∧
    VecForm .vswap 0x04 { vPop := 2, vPush := 2 } (fun _ _ _ v _ => { v := [v 1, v 0] }) ∧
    VecForm .vover 0x05 { vPop := 2, vPush := 3 } (fun _ _ _ v _ => { v := [v 1, v 0, v 1] }) ∧
    VecForm .vrot 0x06 { vPop := 3, vPush := 3 } (fun _ _ _ v _ => { v := [v 2, v 0, v 1] }) := by
  refine ⟨shuffleForm_of (g := fun v => [v 0, v 0]) (fun l => [vent l 0, vent l 0]) (fun _ _ _ => rfl) fun l hl => ?_,
    shuffleForm_of (g := fun _ => []) (fun _ => []) (fun _ _ _ => rfl) fun _ _ => rfl,
    shuffleForm_of (g := fun v => [v 1, v 0]) (fun l => [vent l 1, vent l 0]) (fun _ _ _ => rfl) fun l hl => ?_,
    shuffleForm_of (g := fun v => [v 1, v 0, v 1]) (fun l => [vent l 0, vent l 1, vent l 0]) (fun _ _ _ => rfl)
      fun l hl => ?_,
    shuffleForm_of (g := fun v => [v 2, v 0, v 1]) (fun l => [vent l 1, vent l 2, vent l 0]) (fun _ _ _ => rfl)
      fun l hl => ?_⟩
  · rw [vent_take hl (by decide)]
    rfl
  · rw [vent_take hl (by decide), vent_take hl (by decide)]
    rfl
  · rw [vent_take hl (by decide), vent_take hl (by decide)]
    rfl
  · rw [vent_take hl (by decide), vent_take hl (by decide), vent_take hl (by decide)]
    rfl

theorem vfma_form : VecForm .vfma 0x0B { vPop := 3, vPush := 1 } fun a r m v _ =>
    lanewise (elemOf a.type.toNat).width (min r.vl.toNat (8192 / (elemOf a.type.toNat).width)) m
      (fun i => (elemOf a.type.toNat).fma (velem (elemOf a.type.toNat).width (v 2) i)
        (velem (elemOf a.type.toNat).width (v 1) i) (velem (elemOf a.type.toNat).width (v 0) i))
      (velem (elemOf a.type.toNat).width (v 2)) := by
  refine mapForm_of (k := 2) (G := fun a x => (elemOf a.type.toNat).fma (x 2) (x 1) (x 0))
    (fun a l => (vaElem a).fma (arg l 0) (arg l 1) (arg l 2)) (fun _ _ _ _ => rfl) fun a l i _ hlen => ?_
  rw [arg_operand _ hlen (by decide), arg_operand _ hlen (by decide), arg_operand _ hlen (by decide)]
  rfl

theorem vdiv_form : VecForm .vdiv 0x0E { vPop := 2, vPush := 1 } fun a r m v _ =>
    twoResult (fun el p q => match el with | .fp f => f.divOp p q | .int _ => (0, none)) a r m v := by
  refine twoForm_of (fun a => (vaFmt a).divOp) (fun _ _ _ => rfl) fun a p q hl => ?_
  rw [elemOf_of_division hl rfl]

theorem vsqrt_form : VecForm .vsqrt 0x0F { vPop := 1, vPush := 1 } fun a r m v _ =>
    oneResult (fun el p => match el with | .fp f => f.sqrtOp p | .int _ => (0, none)) a r m v := by
  refine oneForm_of (fun a => (vaFmt a).sqrtOp) (fun _ _ _ => rfl) fun a p hl => ?_
  rw [elemOf_of_division hl rfl]

theorem negOp_eq (f : Fmt) (p : Nat) : f.negOp p = p ^^^ 2 ^ (f.width - 1) := by
  unfold Fmt.negOp Fmt.width
  rw [show 1 + f.eb + f.mb - 1 = f.eb + f.mb by omega]

theorem absOp_eq (f : Fmt) (p : Nat) : f.absOp p = p % 2 ^ (f.width - 1) := by
  unfold Fmt.absOp Fmt.width
  rw [show 1 + f.eb + f.mb - 1 = f.eb + f.mb by omega]

/-- The negation of an element. -/
def negElem (e : Elem) (p : Nat) : FRes :=
  match e with
  | .int w => ((2 ^ w - p) % 2 ^ w, none)
  | .fp f => (f.negOp p, none)

/-- The magnitude of an element. -/
def absElem (e : Elem) (p : Nat) : FRes :=
  match e with
  | .int w => ((sInt w p).natAbs % 2 ^ w, none)
  | .fp f => (f.absOp p, none)

theorem vneg_form : VecForm .vneg 0x10 { vPop := 1, vPush := 1 } fun a r m v _ =>
    oneResult (fun el p => match el with
      | .int w => ((2 ^ w - p) % 2 ^ w, none)
      | .fp f => (p ^^^ 2 ^ (f.width - 1), none)) a r m v := by
  refine oneForm_of (fun a => negElem (vaElem a)) (fun _ _ _ => rfl) fun a p _ => ?_
  unfold vaElem negElem
  cases elemOf a.type.toNat with
  | int w => rfl
  | fp f => exact congrArg (fun x => (x, none)) (negOp_eq f p)

theorem vabs_form : VecForm .vabs 0x11 { vPop := 1, vPush := 1 } fun a r m v _ =>
    oneResult (fun el p => match el with
      | .int w => ((BitVec.ofNat w p).toInt.natAbs % 2 ^ w, none)
      | .fp f => (p % 2 ^ (f.width - 1), none)) a r m v := by
  refine oneForm_of (fun a => absElem (vaElem a)) (fun _ _ _ => rfl) fun a p _ => ?_
  unfold vaElem absElem
  cases elemOf a.type.toNat with
  | int w => rfl
  | fp f => exact congrArg (fun x => (x, none)) (absOp_eq f p)

theorem vand_form : VecForm .vand 0x12 { vPop := 2, vPush := 1 } fun a r m v _ =>
    twoResult (fun _ p q => (p &&& q, none)) a r m v :=
  twoForm_of (fun _ p q => (p &&& q, none)) (fun _ _ _ => rfl) fun _ _ _ _ => rfl

theorem vor_form : VecForm .vor 0x13 { vPop := 2, vPush := 1 } fun a r m v _ =>
    twoResult (fun _ p q => (p ||| q, none)) a r m v :=
  twoForm_of (fun _ p q => (p ||| q, none)) (fun _ _ _ => rfl) fun _ _ _ _ => rfl

theorem vxor_form : VecForm .vxor 0x14 { vPop := 2, vPush := 1 } fun a r m v _ =>
    twoResult (fun _ p q => (p ^^^ q, none)) a r m v :=
  twoForm_of (fun _ p q => (p ^^^ q, none)) (fun _ _ _ => rfl) fun _ _ _ _ => rfl

/-- Settles O16: each form by the rule of its family, the operands and results element by element. -/
theorem vectorArithmetic : Obligations.VectorArithmetic := by
  unfold Obligations.VectorArithmetic
  refine ⟨⟨vsetl_form, vgetl_form, entry_forms⟩, ?_, ?_⟩
  · intro n x two one bits u2 u1
    refine ⟨twoForm_of _ (fun _ _ _ => rfl) fun _ _ _ _ => rfl, twoForm_of _ (fun _ _ _ => rfl) fun _ _ _ _ => rfl,
      twoForm_of _ (fun _ _ _ => rfl) fun _ _ _ _ => rfl, vfma_form,
      twoForm_of _ (fun _ _ _ => rfl) fun _ _ _ _ => rfl, twoForm_of _ (fun _ _ _ => rfl) fun _ _ _ _ => rfl,
      vdiv_form, vsqrt_form, vneg_form, vabs_form,
      vand_form, vor_form, vxor_form⟩
  · intro wd n x shift test us u2
    refine ⟨shiftForm_of shlElem fun _ _ _ => rfl, shiftForm_of shrElem fun _ _ _ => rfl,
      shiftForm_of sarElem fun _ _ _ => rfl, compareForm_of Elem.eq fun _ _ _ => rfl,
      compareForm_of Elem.lt fun _ _ _ => rfl, compareForm_of Elem.le fun _ _ _ => rfl, vsel_form, vbcast_form,
      viota_form, vext_form, vins_form, vcvt_form, vmcnt_form⟩

end Sys2Proof.Machine
end

section
/-!
# Long-vector reductions
-/
namespace Sys2Proof.Machine

/-! ### The sum of a tree -/

/-- The value of a position as a number modulo 2^64; an empty one counts nothing. -/
def nodeValue (x : Node) : BitVec 64 := BitVec.ofNat 64 ((x.map (·.1)).getD 0)

/-- The sum of the positions. -/
def nodeSum (l : List Node) : BitVec 64 := (l.map nodeValue).sum

theorem nodeCombine_add (x y : Node) :
    (nodeCombine (Elem.int 64).add x y).2 = none ∧
      nodeValue (nodeCombine (Elem.int 64).add x y).1 = nodeValue x + nodeValue y := by
  match x, y with
  | none, none => exact ⟨rfl, rfl⟩
  | none, some b => exact ⟨rfl, (BitVec.zero_add _).symm⟩
  | some a, none => exact ⟨rfl, (BitVec.add_zero _).symm⟩
  | some (a, i), some (b, j) =>
    refine ⟨rfl, ?_⟩
    change BitVec.ofNat 64 ((a + b) % 2 ^ 64) = BitVec.ofNat 64 a + BitVec.ofNat 64 b
    rw [BitVec.ofNat_add_ofNat]
    exact BitVec.eq_of_toNat_eq (by simp)

theorem nodeLevel_add (n : Nat) : ∀ l : List Node, l.length = 2 * n →
    (nodeLevel (Elem.int 64).add l).2 = none ∧ (nodeLevel (Elem.int 64).add l).1.length = n ∧
      nodeSum (nodeLevel (Elem.int 64).add l).1 = nodeSum l := by
  induction n with
  | zero =>
    intro l hl
    rw [List.length_eq_zero_iff.mp hl]
    exact ⟨rfl, rfl, rfl⟩
  | succ n ih =>
    intro l hl
    match l, hl with
    | x :: y :: l, hl =>
      obtain ⟨h1, h2, h3⟩ := ih l (by simp only [List.length_cons] at hl; omega)
      obtain ⟨c1, c2⟩ := nodeCombine_add x y
      unfold nodeLevel
      dsimp only
      refine ⟨?_, congrArg Nat.succ h2, ?_⟩
      · rw [c1, h1]
        rfl
      · unfold nodeSum at *
        rw [List.map_cons, List.sum_cons, h3, c2, List.map_cons, List.sum_cons, List.map_cons, List.sum_cons,
          BitVec.add_assoc]

/-- The tree of sums gives the sum, and no event. -/
theorem nodeTree_add (k : Nat) : ∀ l : List Node, l.length = 2 ^ k →
    (nodeTree (Elem.int 64).add k l).2 = none ∧ nodeValue (nodeTree (Elem.int 64).add k l).1 = nodeSum l := by
  induction k with
  | zero =>
    intro l hl
    match l, hl with
    | [x], _ => exact ⟨rfl, (BitVec.add_zero _).symm⟩
  | succ k ih =>
    intro l hl
    obtain ⟨h1, h2, h3⟩ := nodeLevel_add (2 ^ k) l (by rw [hl, Nat.pow_succ, Nat.mul_comm])
    obtain ⟨i1, i2⟩ := ih _ h2
    unfold nodeTree
    dsimp only
    refine ⟨?_, i2.trans h3⟩
    rw [h1, i1]
    rfl

theorem nodeSum_mapIdx (prep : Nat → Nat) (l : List (Option Nat)) (f : Nat → Nat) :
    nodeSum (l.mapIdx fun i y => y.map fun z => (prep z, f i)) =
      ((l.filterMap id).map fun z => BitVec.ofNat 64 (prep z)).sum := by
  induction l generalizing f with
  | nil => rfl
  | cons y l ih =>
    rw [List.mapIdx_cons]
    unfold nodeSum at *
    rw [List.map_cons, List.sum_cons, ih fun i => f (i + 1)]
    cases y with
    | none => exact BitVec.zero_add _
    | some z => rfl

theorem sum_ofInt (l : List Int) : (l.map (BitVec.ofInt 64)).sum = BitVec.ofInt 64 l.sum := by
  induction l with
  | nil => rfl
  | cons x l ih => rw [List.map_cons, List.sum_cons, ih, List.sum_cons, BitVec.ofInt_add]

/-- The integer sum over any tree. -/
theorem intReduction (w k : Nat) (l : List (Option Nat)) (hl : l.length = 2 ^ k) :
    let prep (y : Nat) : Nat := (BitVec.ofInt 64 (BitVec.ofNat w y).toInt).toNat
    let r := nodeTree (Elem.int 64).add k (l.mapIdx fun i y => y.map fun z => (prep z, i))
    r.2 = none ∧ BitVec.ofNat 64 ((r.1.map (·.1)).getD 0) =
      BitVec.ofInt 64 ((l.filterMap id).map fun z => (BitVec.ofNat w z).toInt).sum := by
  intro prep r
  obtain ⟨h1, h2⟩ := nodeTree_add k (l.mapIdx fun i y => y.map fun z => (prep z, i)) (by simpa using hl)
  refine ⟨h1, h2.trans ((nodeSum_mapIdx prep l id).trans ?_)⟩
  rw [← sum_ofInt, List.map_map]
  refine congrArg List.sum (List.map_congr_left fun z _ => ?_)
  exact word_toNat _

/-! ### The instructions -/

/-- The positions of a reduction's tree. -/
def redNodes (a : VArith) (prep : Nat → Nat) (r : Carrel) (m : BitVec 8192) (v : BitVec 8192) : List Node :=
  (upto (2 ^ ceilLog2 (r.active (vaElem a).width))).map fun i =>
    if i < r.active (vaElem a).width ∧ m.getLsbD i then some (prep (velem (vaElem a).width v i), i) else none

/-- The tree of a reduction. -/
def vecTree (a : VArith) (prep : Nat → Nat) (f : Nat → Nat → FRes) (r : Carrel) (m v : BitVec 8192) :
    Node × Option (Nat × NanCause) :=
  nodeTree f (ceilLog2 (r.active (vaElem a).width)) (redNodes a prep r m v)

theorem vReduce_eq (c : BitVec 12) (op : Nat) (a : VArith) (prep : Nat → Nat) (f : Nat → Nat → FRes) (empty : Nat)
    (s : State) : vReduce c op a prep f empty s = vInstr c op a { dPush := 1, vPop := 1 } (fun s m =>
      .done (((s.dropV c 1).pushD c (word
        (((vecTree a prep f (s.carrel c) m (vent ((s.carrel c).vstack.take 1).reverse 0)).1.map (·.1)).getD
            empty))).vecNan c
          (vecTree a prep f (s.carrel c) m (vent ((s.carrel c).vstack.take 1).reverse 0)).2)) s := by
  have hm (x : Node) : (match x with | some (x, _) => x | none => empty) = (x.map (·.1)).getD empty := by
    cases x <;> rfl
  simp only [← hm]
  rfl

theorem reduceForm_of {mk : BitVec 12 → VArith → Instr} {op : Nat} (prep : VArith → Nat → Nat)
    (f : VArith → Nat → Nat → FRes) (empty : VArith → Nat)
    (h : ∀ a c s, Sys2Proof.Machine.exec (mk c a) s = vReduce c op a (prep a) (f a) (empty a) s) :
    VecForm mk op { dPush := 1, vPop := 1 } fun a r m v _ =>
      { d := [BitVec.ofNat 64 (((vecTree a (prep a) (f a) r m (v 0)).1.map (·.1)).getD (empty a))]
        nan := (vecTree a (prep a) (f a) r m (v 0)).2 } := by
  refine vecForm_of _ (fun a c s _ => (h a c s).trans (vReduce_eq c op a (prep a) (f a) (empty a) s))
    (fun _ _ _ _ _ _ => rfl) fun a c s m _ hf _ => ⟨_, rfl, ?_⟩
  have hlen := hf.vstack
  have hfit : Fits (s.dropV c 1) c { dPush := 1 } := Fits.of_dropV (u := { dPush := 1 }) hf
  have hv := ((hfit.pushes rfl rfl rfl (word (((vecTree a (prep a) (f a) (s.carrel c) m
    ((s.carrel c).vstack.getD 0 0)).1.map (·.1)).getD (empty a)))).of_dropV).vecNan
    (vecTree a (prep a) (f a) (s.carrel c) m ((s.carrel c).vstack.getD 0 0)).2
  rw [State.dropV_carrel] at hv
  rw [vent_take hlen Nat.zero_lt_one]
  exact hv

/-- The type that a reduction computes in. -/
def wideElem (e : Elem) : Elem :=
  match e with
  | .int _ => .int 64
  | .fp f => .fp f

/-- An element as the tree takes it. -/
def prepElem (e : Elem) (y : Nat) : Nat :=
  match e with
  | .int w => (BitVec.ofInt 64 (BitVec.ofNat w y).toInt).toNat
  | .fp _ => y

theorem ext64_eq {w : Nat} (hw : w ≤ 64) : ext64 w = prepElem (.int w) := by
  funext x
  unfold ext64 sext word
  rw [BitVec.signExtend, BitVec.setWidth_ofNat_of_le hw]
  rfl

theorem exec_vredAdd (a : VArith) (c : BitVec 12) (s : State) : Sys2Proof.Machine.exec (.vredAdd c a) s =
    vReduce c 0x21 a (prepElem (vaElem a)) (wideElem (vaElem a)).add 0 s := by
  change execVredAdd c a s = _
  unfold execVredAdd
  cases he : vaElem a with
  | int w =>
    dsimp only
    rw [ext64_eq (elemOf_int_le he)]
    rfl
  | fp f => rfl

/-- What VREDMIN gives for no element. -/
def minEmpty (e : Elem) : Nat :=
  match e with
  | .int w => 2 ^ (w - 1) - 1
  | .fp f => f.infCode

/-- What VREDMAX gives for no element. -/
def maxEmpty (e : Elem) : Nat :=
  match e with
  | .int w => 2 ^ 64 - 2 ^ (w - 1)
  | .fp f => f.signBit true + f.infCode

theorem exec_vredMin (a : VArith) (c : BitVec 12) (s : State) : Sys2Proof.Machine.exec (.vredMin c a) s =
    vReduce c 0x22 a (prepElem (vaElem a)) (wideElem (vaElem a)).min (minEmpty (vaElem a)) s := by
  change execVredMin c a s = _
  unfold execVredMin
  cases he : vaElem a with
  | int w =>
    dsimp only
    rw [ext64_eq (elemOf_int_le he)]
    rfl
  | fp f => rfl

theorem exec_vredMax (a : VArith) (c : BitVec 12) (s : State) : Sys2Proof.Machine.exec (.vredMax c a) s =
    vReduce c 0x23 a (prepElem (vaElem a)) (wideElem (vaElem a)).max (maxEmpty (vaElem a)) s := by
  change execVredMax c a s = _
  unfold execVredMax
  cases he : vaElem a with
  | int w =>
    dsimp only
    rw [ext64_eq (elemOf_int_le he)]
    rfl
  | fp f => rfl

/-- What a reduction leaves. -/
def redOut (prep : Elem → Nat → Nat) (g : Elem → Nat → Nat → FRes) (empty : Elem → Nat) (a : VArith) (r : Carrel)
    (m : BitVec 8192) (v : Nat → BitVec 8192) : VecOut :=
  { d := [BitVec.ofNat 64 (((vecTree a (prep (vaElem a)) (g (vaElem a)) r m (v 0)).1.map (·.1)).getD (empty (vaElem a)))]
    nan := (vecTree a (prep (vaElem a)) (g (vaElem a)) r m (v 0)).2 }

theorem vredAdd_form : VecForm .vredAdd 0x21 { dPush := 1, vPop := 1 } fun a r m v _ =>
    redOut prepElem (fun e => (wideElem e).add) (fun _ => 0) a r m v :=
  reduceForm_of (fun a => prepElem (vaElem a)) (fun a => (wideElem (vaElem a)).add) (fun _ => 0) exec_vredAdd

theorem vredMin_form : VecForm .vredMin 0x22 { dPush := 1, vPop := 1 } fun a r m v _ =>
    redOut prepElem (fun e => (wideElem e).min) minEmpty a r m v :=
  reduceForm_of (fun a => prepElem (vaElem a)) (fun a => (wideElem (vaElem a)).min) (fun a => minEmpty (vaElem a))
    exec_vredMin

theorem vredMax_form : VecForm .vredMax 0x23 { dPush := 1, vPop := 1 } fun a r m v _ =>
    redOut prepElem (fun e => (wideElem e).max) maxEmpty a r m v :=
  reduceForm_of (fun a => prepElem (vaElem a)) (fun a => (wideElem (vaElem a)).max) (fun a => maxEmpty (vaElem a))
    exec_vredMax

/-- Settles O17: the model's tree is the fixed tree, and an integer sum does not depend on it. -/
theorem vectorReductions : Obligations.VectorReductions := by
  unfold Obligations.VectorReductions
  refine ⟨?_, intReduction⟩
  intro wd n red prep wide u
  have hprep : prep = prepElem := by
    funext e y
    cases e <;> rfl
  have hwide : wide = wideElem := by
    funext e
    cases e <;> rfl
  rw [hprep, hwide]
  refine ⟨vredAdd_form, ?_, ?_⟩
  · exact vredMin_form
  · exact vredMax_form

end Sys2Proof.Machine
end

section
/-!
# Instructions that store

The effect of an instruction on the data stack alone, with no byte of it left open, and what it is worth when a store
stands before it or after its pops.
-/
namespace Sys2Proof.Machine

/-! ### States that differ only beside the stacks -/

/-- Carrel `c` may differ from what it was, but not in its banks nor in which of them are in use. -/
structure SameStacks (c : BitVec 12) (s t : State) : Prop where
  rest : t = { s with mem := t.mem, carrels := t.carrels }
  byte : ∀ a, t.byte a = s.byte a
  others : ∀ d, d ≠ c → t.carrel d = s.carrel d
  bank : ∀ id, (t.carrel c).bank id = (s.carrel c).bank id
  dataBank : (t.carrel c).dataBank = (s.carrel c).dataBank
  retBank : (t.carrel c).retBank = (s.carrel c).retBank

/-- A change of the carrel's registers that keeps the banks and those in use. -/
structure KeepsStacks (f : Carrel → Carrel) (k : Carrel) : Prop where
  bank : ∀ id, (f k).bank id = k.bank id
  dataBank : (f k).dataBank = k.dataBank
  retBank : (f k).retBank = k.retBank

theorem SameStacks.refl (c : BitVec 12) (s : State) : SameStacks c s s :=
  ⟨rfl, fun _ => rfl, fun _ _ => rfl, fun _ => rfl, rfl, rfl⟩

theorem SameStacks.trans {c : BitVec 12} {s t u : State} (h : SameStacks c s t) (g : SameStacks c t u) :
    SameStacks c s u where
  rest := by rw [g.rest, h.rest]
  byte a := (g.byte a).trans (h.byte a)
  others d hd := (g.others d hd).trans (h.others d hd)
  bank id := (g.bank id).trans (h.bank id)
  dataBank := g.dataBank.trans h.dataBank
  retBank := g.retBank.trans h.retBank

theorem SameStacks.mod (s : State) (c : BitVec 12) {f : Carrel → Carrel} (hf : KeepsStacks f (s.carrel c)) :
    SameStacks c s (s.modCarrel c f) where
  rest := rfl
  byte _ := rfl
  others _ hd := State.carrel_modCarrel_other _ _ hd
  bank id := by rw [State.carrel_modCarrel_same, hf.bank]
  dataBank := by rw [State.carrel_modCarrel_same, hf.dataBank]
  retBank := by rw [State.carrel_modCarrel_same, hf.retBank]

section
variable {c : BitVec 12} {s t : State} (h : SameStacks c s t)
include h

theorem SameStacks.slot : t.slot c = s.slot c := by
  funext i
  unfold State.slot State.le
  rw [State.bytes_congr fun i _ => h.byte _, h.rest]

theorem SameStacks.dataOf : t.dataOf c = s.dataOf c := by
  unfold State.dataOf
  rw [h.dataBank, h.bank]

theorem SameStacks.retOf : t.retOf c = s.retOf c := by
  unfold State.retOf
  rw [h.retBank, h.bank]

theorem SameStacks.peek (p : Ptrs) (res : List Word) (n : Nat) : t.peek c p res n = s.peek c p res n := by
  rw [State.peek_eq, State.peek_eq, h.slot]

theorem SameStacks.peekD : t.peekD c = s.peekD c := by
  funext n
  have hd : (t.carrel c).bank (t.carrel c).dataBank = _ := h.dataOf
  unfold State.peekD
  dsimp only
  rw [hd, h.peek]
  rfl

theorem SameStacks.peekR : t.peekR c = s.peekR c := by
  funext n
  unfold State.peekR
  rw [h.retOf, h.peek]

theorem SameStacks.spillsD : t.spillsD c = s.spillsD c := by
  funext pop push i
  unfold State.spillsD
  rw [h.dataOf]

theorem SameStacks.spillsR : t.spillsR c = s.spillsR c := by
  funext pop push i
  unfold State.spillsR
  rw [h.retOf]

end

/-- The stacks still have what a form needs after a change beside them that keeps the vector stack. -/
theorem SameStacks.fits {c : BitVec 12} {s t : State} {u : StackUse} (h : SameStacks c s t)
    (hv : (t.carrel c).vstack = (s.carrel c).vstack) (hf : Fits s c u) : Fits t c u := by
  have hd : (t.carrel c).bank (t.carrel c).dataBank = (s.carrel c).bank (s.carrel c).dataBank := h.dataOf
  have hr : (t.carrel c).bank (t.carrel c).retBank = (s.carrel c).bank (s.carrel c).retBank := h.retOf
  unfold Fits Carrel.stackCheck at hf ⊢
  dsimp only at hf ⊢
  rw [hd, hr, hv]
  exact hf

/-! ### The effect on the data stack -/

/-- The top `pop` data entries leave and `outs` come: no entry below is open, and the carrel's other registers are
those of `base`. -/
structure DataMoves (c : BitVec 12) (base : Carrel) (pop : Nat) (outs : List Word) (s t : State) : Prop where
  moves : Moves c base pop outs 0 [] s t
  data : DataStack c pop outs (fun _ => False) s t
  mem : MemKept c (s.spillsD c pop outs.length) s t
  resident : ((t.carrel c).bank (s.carrel c).dataBank).dres.length ≤
    max (s.dataOf c).dres.length pop - pop + outs.length

theorem DataMoves.mod {c : BitVec 12} {base : Carrel} {pop : Nat} {outs : List Word} {s t : State}
    {f : Carrel → Carrel} (hf : KeepsBanks f) (h : DataMoves c base pop outs s t) :
    DataMoves c (f base) pop outs s (t.modCarrel c f) where
  moves := Moves.mod hf h.moves
  data := by
    have hd := h.data
    unfold DataStack at hd ⊢
    rw [State.carrel_modCarrel_same, hf.bank]
    exact hd
  mem := h.mem
  resident := by rw [State.carrel_modCarrel_same, hf.bank]; exact h.resident

theorem DataMoves.retire {c : BitVec 12} {base : Carrel} {pop : Nat} {outs : List Word} {s t : State} (len : Nat)
    (h : DataMoves c base pop outs s t) : DataMoves c (base.after len) pop outs s (t.retire c len) := by
  rw [State.retire_eq]
  exact h.mod (keepsBanks_retire len)

/-- A change beside the stacks before the instruction's own moves. -/
theorem Moves.of_same {c : BitVec 12} {base : Carrel} {dPop rPop : Nat} {dOut rOut : List Word} {s s' t : State}
    (h : SameStacks c s s') (hm : Moves c base dPop dOut rPop rOut s' t) : Moves c base dPop dOut rPop rOut s t := by
  obtain ⟨⟨d1, d2, d3⟩, ⟨r1, r2, r3⟩, ⟨o1, o2⟩, hc, hb, hmem⟩ := hm
  rw [h.dataBank, h.dataOf] at d1 d3
  rw [h.dataBank] at d2
  rw [h.retBank, h.retOf] at r1 r3
  rw [h.retBank] at r2
  rw [h.spillsR, h.peekD] at d3
  rw [h.spillsD, h.peekR] at r3
  rw [h.spillsD, h.spillsR] at hmem
  refine ⟨⟨d1, d2, d3⟩, ⟨r1, r2, r3⟩, ⟨by rw [o1, h.rest], fun d hd => (o2 d hd).trans (h.others d hd)⟩, hc, ?_,
    fun a ha => (hmem a ha).trans (h.byte a)⟩
  intro id
  have hid := hb id
  rw [h.bank, h.dataBank, h.retBank] at hid
  exact hid

theorem DataMoves.of_same {c : BitVec 12} {base : Carrel} {pop : Nat} {outs : List Word} {s s' t : State}
    (h : SameStacks c s s') (hm : DataMoves c base pop outs s' t) : DataMoves c base pop outs s t where
  moves := hm.moves.of_same h
  data := by
    have hd := hm.data
    unfold DataStack at hd ⊢
    rw [h.dataBank, h.dataOf, h.peekD] at hd
    exact hd
  mem a ha := by
    have hd := hm.mem
    rw [h.spillsD] at hd
    exact (hd a ha).trans (h.byte a)
  resident := by rw [← h.dataBank, ← h.dataOf]; exact hm.resident

/-- Data entries that leave and come for a form that fits. -/
theorem Fits.dataMoves {s : State} {c : BitVec 12} {u : StackUse} (hf : Fits s c u) (outs : List Word)
    (hl : outs.length = u.dPush) :
    DataMoves c (s.carrel c) u.dPop outs s ((s.popD c u.dPop).2.pushDs c outs.reverse) := by
  have hp := State.popD_pops s c u.dPop
  obtain ⟨hb, hbank⟩ := hp.dataOf_eq
  obtain ⟨hneed, hroom⟩ := fits_data hf
  have hfill := fits_data_fills hf
  have hptr : (s.poppedBank c u.dPop).d.ptr.toNat = (s.dataOf c).d.ptr.toNat - (u.dPop - (s.dataOf c).dres.length) :=
    ptr_sub_toNat _ _ hfill
  have hlen := poppedBank_length s c u.dPop
  have hpush := State.pushDs_pushed c outs.reverse (s.popD c u.dPop).2 (by
    rw [hbank, hptr, hlen, List.length_reverse, hl]; exact hroom)
  have hmoves := hf.moves outs hl
  rw [List.reverse_reverse, hb] at hpush
  generalize (s.popD c u.dPop).2.pushDs c outs.reverse = t at hpush hmoves ⊢
  have hb1 : ((s.popD c u.dPop).2.carrel c).bank (s.carrel c).dataBank = s.poppedBank c u.dPop := by
    rw [← hbank, ← hb]; rfl
  obtain ⟨p, l, hc, hn, hm, ho, hk⟩ := hpush.bank
  have hbytes := hpush.bytes
  rw [hb1] at hn hm hk hbytes
  have htd : ((t.carrel c).bank (s.carrel c).dataBank).d.ptr = p := by rw [hc]; simp
  have htr : ((t.carrel c).bank (s.carrel c).dataBank).dres = l := by rw [hc]; simp
  refine ⟨hmoves, ⟨hmoves.1.1, hmoves.1.2.1, fun n hlt _ => ?_⟩, fun a ha => ?_, ?_⟩
  · unfold Bank.dataDepth stackDepth at hlt
    rw [State.peek_eq, htd, htr, hk n (by omega), State.peekD, State.peek_eq]
    change entryAt (s.slot c) (s.poppedBank c u.dPop).d.ptr.toNat (s.poppedBank c u.dPop).dres n = _
    rw [hptr]
    exact entryAt_take (s.slot c) _ _ _ _
  · refine hbytes a fun i hi => ha i ?_
    rw [hptr, hlen] at hi
    exact hi
  · rw [htr, ← hlen]
    exact hm

/-! ### Stores -/

section
variable {c : BitVec 12} {hit : Nat → Prop} {s u t : State}

/-- The data stack where writes to memory stood before the moves: an entry in a slot written is open. -/
theorem DataStack.of_writes {pop : Nat} {outs : List Word} (hcar : u.carrel c = s.carrel c)
    (hslot : ∀ i, ¬ hit i → u.slot c i = s.slot c i)
    (hlo : ((t.carrel c).bank (s.carrel c).dataBank).d.lo = (s.dataOf c).d.lo)
    (hres : ((t.carrel c).bank (s.carrel c).dataBank).dres.length ≤
      max (s.dataOf c).dres.length pop - pop + outs.length)
    (h : DataStack c pop outs (fun _ => False) u t) : DataStack c pop outs hit s t := by
  obtain ⟨d1, d2, d3⟩ := h
  have hpd : u.dataOf c = s.dataOf c := by unfold State.dataOf; rw [hcar]
  rw [hcar, hpd] at d1 d3
  rw [hcar] at d2
  refine ⟨d1, d2, fun m hm hhit => ?_⟩
  rw [d3 m hm fun _ h => h]
  unfold State.peekD
  rw [State.peek_eq, State.peek_eq, hcar]
  refine entryAt_congr fun hle => hslot _ ?_
  have hle' : (s.dataOf c).dres.length ≤ pop + m := hle
  have hh := hhit (by omega)
  unfold Bank.dataDepth stackDepth at d1 hm
  rw [hlo] at d1
  have he : ((t.carrel c).bank (s.carrel c).dataBank).d.ptr.toNat - 1 -
      (outs.length + m - ((t.carrel c).bank (s.carrel c).dataBank).dres.length) =
      (s.dataOf c).d.ptr.toNat - 1 - (pop + m - (s.dataOf c).dres.length) := by omega
  rw [he] at hh
  exact hh

/-- The return stack likewise, which moved no entry. -/
theorem RetStack.of_writes {hit' : Nat → Prop} (hcar : u.carrel c = s.carrel c)
    (hslot : ∀ i, ¬ hit i → u.slot c i = s.slot c i)
    (hr : ((t.carrel c).bank (s.carrel c).retBank).r = (s.retOf c).r)
    (hl : ((t.carrel c).bank (s.carrel c).retBank).rres = (s.retOf c).rres)
    (h : RetStack c 0 [] hit' u t) : RetStack c 0 [] (fun i => hit i ∨ hit' i) s t := by
  obtain ⟨r1, r2, r3⟩ := h
  have hpr : u.retOf c = s.retOf c := by unfold State.retOf; rw [hcar]
  rw [hcar, hpr] at r1 r3
  rw [hcar] at r2
  refine ⟨r1, r2, fun m hm hhit => ?_⟩
  rw [r3 m hm fun hle => fun h => hhit hle (Or.inr h)]
  unfold State.peekR
  rw [State.peek_eq, State.peek_eq, hpr]
  refine entryAt_congr fun hle => hslot _ ?_
  rw [hr, hl] at hhit
  have hh := hhit (by simpa using hle)
  simpa using fun h => hh (Or.inl h)

end

/-- A store before the moves of the stacks. -/
theorem DataMoves.storesTo {c : BitVec 12} {base : Carrel} {pop a n x : Nat} {outs : List Word} {s t : State}
    (h : DataMoves c base pop outs (s.setLe a n x) t) : StoresTo c base pop outs a n x s t := by
  obtain ⟨⟨_, hret, ⟨o1, o2⟩, hc, hb, _⟩, hdata, hmem, hres⟩ := h
  have hcar : (s.setLe a n x).carrel c = s.carrel c := State.setLe_carrel s a n x c
  have hslot (i : Nat) (hi : ¬ slotHit c a n i) : (s.setLe a n x).slot c i = s.slot c i := by
    unfold slotHit at hi
    unfold State.slot
    rw [State.le_setLe_apart _ _ (by omega), State.setLe_fresh]
  have hpd : (s.setLe a n x).dataOf c = s.dataOf c := by unfold State.dataOf; rw [hcar]
  have hsp : (s.setLe a n x).spillsD c = s.spillsD c := by
    funext pop push i
    unfold State.spillsD
    rw [hpd]
  rw [hsp] at hret hmem
  rw [hcar, hpd] at hres
  have hkept (id : BankId) := hb id
  simp only [hcar] at hkept
  obtain ⟨hlo, _⟩ := hkept (s.carrel c).dataBank
  obtain ⟨_, _, _, _, _, hrkept⟩ := hkept (s.carrel c).retBank
  obtain ⟨hr, hl⟩ := hrkept (Or.inr (by simp))
  refine ⟨hdata.of_writes hcar hslot hlo hres, hret.of_writes hcar hslot hr hl, ⟨?_, fun d hd => ?_⟩, hc, fun id => ?_,
    fun hno => ?_, fun b hb hout => ?_⟩
  · rw [o1]
    unfold State.setLe
    rw [State.setBytes_eq]
  · rw [o2 d hd, State.setLe_carrel]
  · obtain ⟨h1, h2, h3, h4, h5, h6⟩ := hkept id
    exact ⟨h1, h2, h3, h4, fun h => h5 (h.imp_right fun e => absurd e (by decide)),
      fun h => h6 (h.imp_right fun _ => by simp)⟩
  · rw [← State.le_setLe_same s a n x]
    unfold State.le
    rw [State.bytes_congr fun i _ => hmem (a + i) fun i hi => absurd hi (hno i)]
  · rw [hmem b hout, State.byte_setLe_apart _ _ hb]

/-- What a pop leaves does not depend on memory: entries that it fills leave with it. -/
theorem State.poppedBank_eq (s : State) (c : BitVec 12) (n : Nat) :
    s.poppedBank c n =
      { s.dataOf c with
        d := { (s.dataOf c).d with ptr := (s.dataOf c).d.ptr - BitVec.ofNat 15 (n - (s.dataOf c).dres.length) }
        dres := (s.dataOf c).dres.drop n } := by
  have hd : ((s.dataOf c).dres ++ (upto (n - (s.dataOf c).dres.length)).map fun i =>
      s.slot c ((s.dataOf c).d.ptr.toNat - 1 - i)).drop n = (s.dataOf c).dres.drop n := by
    by_cases h : n ≤ (s.dataOf c).dres.length
    · rw [Nat.sub_eq_zero_of_le h]
      simp [upto]
    · rw [List.drop_eq_nil_of_le (by simp [upto]; omega), List.drop_eq_nil_of_le (by omega)]
  unfold State.poppedBank
  dsimp only
  rw [hd]

theorem State.popD_setBytes (s : State) (c : BitVec 12) (n a : Nat) (l : List Byte) :
    (s.popD c n).2.setBytes a l = ((s.setBytes a l).popD c n).2 := by
  have hb : (s.setBytes a l).poppedBank c n = s.poppedBank c n := by
    rw [State.poppedBank_eq, State.poppedBank_eq]
    unfold State.dataOf
    rw [State.setBytes_carrel]
  rw [State.popD_state, State.popD_state, hb, State.setBytes_carrel, State.setBytes_setCarrel]

theorem State.popD_setLe (s : State) (c : BitVec 12) (n a m x : Nat) :
    (s.popD c n).2.setLe a m x = ((s.setLe a m x).popD c n).2 := State.popD_setBytes _ _ _ _ _

theorem Fits.setLe {s : State} {c : BitVec 12} {u : StackUse} (hf : Fits s c u) (a n x : Nat) :
    Fits (s.setLe a n x) c u := by
  unfold Fits at hf ⊢
  rw [State.setLe_carrel]
  exact hf

/-- A form that stores and replaces entries of the data stack. -/
theorem Fits.storesTo {s : State} {c : BitVec 12} {u : StackUse} (hf : Fits s c u) (a n x : Nat) (outs : List Word)
    (hl : outs.length = u.dPush) :
    DataMoves c (s.carrel c) u.dPop outs (s.setLe a n x)
      (((s.setLe a n x).popD c u.dPop).2.pushDs c outs.reverse) := by
  have h := (hf.setLe a n x).dataMoves outs hl
  rwa [State.setLe_carrel] at h

end Sys2Proof.Machine
end

section
/-!
# Loads and stores on the shelf
-/
namespace Sys2Proof.Machine

/-! ### Which bytes of the shelf a level may touch -/

theorem Carrel.shelfEnd_le (k : Carrel) : k.shelfEnd ≤ shelfSize := by
  unfold Carrel.shelfEnd shelfSize
  split
  · split <;> omega
  · split <;> omega

/-- An access meets no case exactly where it ends before the first byte that the level may not touch. -/
theorem Carrel.shelfCase_eq_none_iff (k : Carrel) (o n : Nat) : k.shelfCase o n = none ↔ o + n ≤ k.shelfEnd := by
  have hlevel : k.level.toNat < 2 ↔ k.level = 0#2 ∨ k.level = 1#2 := by bv_omega
  have hite {p q r : Prop} [Decidable p] [Decidable q] [Decidable r] :
      (if p then some 1 else if q then some 2 else if r then some 3 else none) = none ↔ ¬ p ∧ ¬ q ∧ ¬ r := by
    split_ifs <;> simp_all
  unfold Carrel.shelfCase Carrel.shelfEnd shelfSize rescueOff
  rw [hite, hlevel]
  by_cases h0 : k.level = 0#2
  · cases hr : k.rescue <;> simp [h0] <;> omega
  · by_cases h1 : k.level = 1#2
    · cases hr : k.rescue <;> simp [h1] ; omega
    · simp [h0, h1]

theorem Carrel.shelfCase_range {k : Carrel} {o n x : Nat} (h : k.shelfCase o n = some x) : 1 ≤ x ∧ x ≤ 3 := by
  unfold Carrel.shelfCase at h
  split at h
  · cases h; decide
  · split at h
    · cases h; decide
    · split at h
      · cases h; decide
      · cases h

theorem Carrel.localFault_eq_none {k : Carrel} {o : Word} {n : Nat} (h : o.toNat + n ≤ k.shelfEnd) :
    k.localFault o n = none := by
  have hle := k.shelfEnd_le
  have hcase (i m : Nat) (hi : i + m ≤ n) : k.localCase (o + word i) m = none := by
    unfold shelfSize at hle
    have : (o + word i).toNat = o.toNat + i := by
      unfold word
      rw [BitVec.toNat_add, BitVec.toNat_ofNat, Nat.mod_eq_of_lt (a := i) (by omega), Nat.mod_eq_of_lt (by omega)]
    unfold Carrel.localCase
    rw [this, Carrel.shelfCase_eq_none_iff]
    omega
  unfold Carrel.localFault
  rw [List.findSome?_eq_none_iff]
  intro p hp
  have hpn : p.1 + p.2 ≤ n := by
    unfold halvesOf at hp
    dsimp only at hp
    split at hp
    · simp at hp; rw [hp]; omega
    · simp at hp
      rcases hp with hp | hp <;> (rw [hp]; dsimp only; omega)
  dsimp only
  rw [hcase p.1 p.2 hpn]
  rfl

theorem Carrel.localFault_of_lt {k : Carrel} {o : Word} {n : Nat} (h : k.shelfEnd < o.toNat + n) :
    ∃ x fa, k.localFault o n = some (shelfExc 1 x fa) ∧ 1 ≤ x ∧ x ≤ 3 := by
  suffices hs : (k.localFault o n).isSome by
    obtain ⟨e, he⟩ := Option.isSome_iff_exists.mp hs
    unfold Carrel.localFault at he
    obtain ⟨p, hp, hpe⟩ := List.exists_of_findSome?_eq_some he
    obtain ⟨x, hx, rfl⟩ := Option.map_eq_some_iff.mp hpe
    exact ⟨x, _, he, Carrel.shelfCase_range hx⟩
  have hle := k.shelfEnd_le
  have hout (i m : Nat) (hi : k.shelfEnd < (o + word i).toNat + m) : (k.localCase (o + word i) m).isSome := by
    rw [Option.isSome_iff_ne_none]
    unfold Carrel.localCase
    rw [Ne, Carrel.shelfCase_eq_none_iff]
    omega
  have hzero : o + word 0 = o := by simp [word]
  unfold Carrel.localFault
  rw [List.findSome?_isSome_iff]
  unfold halvesOf
  dsimp only
  split
  · exact ⟨(0, n), by simp, by simpa using hout 0 n (by rw [hzero]; omega)⟩
  · generalize hf : 64 - o.toNat % 64 = first at *
    by_cases hlt : k.shelfEnd < o.toNat + first
    · exact ⟨(0, first), by simp, by simpa using hout 0 first (by rw [hzero]; omega)⟩
    · have hadd : (o + word first).toNat = o.toNat + first := by
        unfold shelfSize at hle
        unfold word
        rw [BitVec.toNat_add, BitVec.toNat_ofNat, Nat.mod_eq_of_lt (a := first) (by omega), Nat.mod_eq_of_lt (by omega)]
      exact ⟨(first, n - first), by simp, by simpa using hout first (n - first) (by rw [hadd]; omega)⟩

/-! ### The forms -/

theorem localOff_eq (a : Word) (off : BitVec 9) (n : Nat) : localOff a off n = a + BitVec.ofNat 64 (off.toNat * n) := by
  unfold localOff word
  congr 1
  apply BitVec.eq_of_toNat_eq
  simp

/-- Where a shelf-local form stands on the shelf. -/
def State.shelfOff (s : State) (c : BitVec 12) (off : BitVec 9) (n : Nat) : Word :=
  s.peekD c 0 + BitVec.ofNat 64 (off.toNat * n)

theorem loadLocal_next {s : State} {c : BitVec 12} {n : Nat} {off : BitVec 9} (hr : Ready s c 2)
    (hf : Fits s c { dPop := 1, dPush := 1 }) (h : (s.shelfOff c off n).toNat + n ≤ (s.carrel c).shelfEnd) :
    ∃ t, loadLocal c n off s = .next t ∧
      Moves c ((s.carrel c).after 2) 1 [word (s.le (shelfBase c.toNat + (s.shelfOff c off n).toNat) n)] 0 [] s t := by
  unfold loadLocal
  rw [runInstr_ready _ hr, withStacks_fits _ hf, localOff_eq]
  change ∃ t, Host.Outcome.next (s.finish c 2 (match (s.carrel c).localFault (s.shelfOff c off n) n with
    | some e => .exc e
    | none => _)) = _ ∧ _
  rw [Carrel.localFault_eq_none h]
  exact ⟨_, rfl, (hf.moves [word (s.le (shelfBase c.toNat + (s.shelfOff c off n).toNat) n)] rfl).retire 2⟩

theorem storeLocal_next {s : State} {c : BitVec 12} {n : Nat} {off : BitVec 9} (hr : Ready s c 2)
    (hf : Fits s c { dPop := 2 }) (h : (s.shelfOff c off n).toNat + n ≤ (s.carrel c).shelfEnd) :
    ∃ t, storeLocal c n off s = .next t ∧
      StoresTo c ((s.carrel c).after 2) 2 [] (shelfBase c.toNat + (s.shelfOff c off n).toNat) n (s.peekD c 1).toNat
        s t := by
  unfold storeLocal
  rw [runInstr_ready _ hr, withStacks_fits _ hf, localOff_eq]
  change ∃ t, Host.Outcome.next (s.finish c 2 (match (s.carrel c).localFault (s.shelfOff c off n) n with
    | some e => .exc e
    | none => _)) = _ ∧ _
  rw [Carrel.localFault_eq_none h]
  refine ⟨_, rfl, DataMoves.storesTo ?_⟩
  have hm := (hf.storesTo (shelfBase c.toNat + (s.shelfOff c off n).toNat) n (s.peekD c 1).toNat [] rfl).retire 2
  rw [← State.popD_setLe] at hm
  have hx : entN (s.popD c 2).1 1 = (s.peekD c 1).toNat := by
    unfold entN
    rw [State.popD_fst, ent_tops s c (by decide)]
  rw [← hx] at hm ⊢
  exact hm

/-- The fault of a shelf-local access. -/
theorem finish_localFault {s : State} {c : BitVec 12} {o : Word} {n : Nat} (body : Res)
    (h : (s.carrel c).shelfEnd < o.toNat + n) :
    ∃ (case_ : Nat) (fa : Word), 1 ≤ case_ ∧ case_ ≤ 3 ∧
      s.finish c 2 (match (s.carrel c).localFault o n with
        | some e => .exc e
        | none => body) =
        s.fault c { code := 0x04, detail := BitVec.ofNat 64 (1 + 0x100 + case_ * 0x200), faddr := some fa } := by
  obtain ⟨x, fa, he, h1, h3⟩ := Carrel.localFault_of_lt h
  refine ⟨x, fa, h1, h3, ?_⟩
  rw [he]
  have hd : shelfExc 1 x fa =
      { code := 0x04, detail := BitVec.ofNat 64 (1 + 0x100 + x * 0x200), faddr := some fa } := by
    have hx : x = 1 ∨ x = 2 ∨ x = 3 := by omega
    rcases hx with rfl | rfl | rfl <;> rfl
  rw [← hd]
  rfl

theorem loadLocal_fault {s : State} {c : BitVec 12} {n : Nat} {off : BitVec 9} (hr : Ready s c 2)
    (hf : Fits s c { dPop := 1, dPush := 1 }) (h : (s.carrel c).shelfEnd < (s.shelfOff c off n).toNat + n) :
    ∃ (case_ : Nat) (fa : Word), 1 ≤ case_ ∧ case_ ≤ 3 ∧ loadLocal c n off s =
      .next (s.fault c { code := 0x04, detail := BitVec.ofNat 64 (1 + 0x100 + case_ * 0x200), faddr := some fa }) := by
  obtain ⟨x, fa, h1, h3, he⟩ := finish_localFault _ h
  refine ⟨x, fa, h1, h3, ?_⟩
  unfold loadLocal
  rw [runInstr_ready _ hr, withStacks_fits _ hf, localOff_eq]
  exact congrArg Host.Outcome.next he

theorem storeLocal_fault {s : State} {c : BitVec 12} {n : Nat} {off : BitVec 9} (hr : Ready s c 2)
    (hf : Fits s c { dPop := 2 }) (h : (s.carrel c).shelfEnd < (s.shelfOff c off n).toNat + n) :
    ∃ (case_ : Nat) (fa : Word), 1 ≤ case_ ∧ case_ ≤ 3 ∧ storeLocal c n off s =
      .next (s.fault c { code := 0x04, detail := BitVec.ofNat 64 (1 + 0x100 + case_ * 0x200), faddr := some fa }) := by
  obtain ⟨x, fa, h1, h3, he⟩ := finish_localFault _ h
  refine ⟨x, fa, h1, h3, ?_⟩
  unfold storeLocal
  rw [runInstr_ready _ hr, withStacks_fits _ hf, localOff_eq]
  exact congrArg Host.Outcome.next he

/-- Settles O11: an access that ends before the level's shelf end meets no case in either half, any other meets one. -/
theorem shelfAccess : Obligations.ShelfAccess := by
  unfold Obligations.ShelfAccess
  refine ⟨⟨?_, ?_, ?_, ?_⟩, ⟨?_, ?_, ?_, ?_⟩, ⟨?_, ?_, ?_, ?_, ?_, ?_, ?_, ?_⟩⟩
  · exact fun off c s hr hf h => loadLocal_next hr hf h
  · exact fun off c s hr hf h => loadLocal_next hr hf h
  · exact fun off c s hr hf h => loadLocal_next hr hf h
  · exact fun off c s hr hf h => loadLocal_next hr hf h
  · exact fun off c s hr hf h => storeLocal_next hr hf h
  · exact fun off c s hr hf h => storeLocal_next hr hf h
  · exact fun off c s hr hf h => storeLocal_next hr hf h
  · exact fun off c s hr hf h => storeLocal_next hr hf h
  · exact fun off c s hr hf h => loadLocal_fault hr hf h
  · exact fun off c s hr hf h => loadLocal_fault hr hf h
  · exact fun off c s hr hf h => loadLocal_fault hr hf h
  · exact fun off c s hr hf h => loadLocal_fault hr hf h
  · exact fun off c s hr hf h => storeLocal_fault hr hf h
  · exact fun off c s hr hf h => storeLocal_fault hr hf h
  · exact fun off c s hr hf h => storeLocal_fault hr hf h
  · exact fun off c s hr hf h => storeLocal_fault hr hf h

end Sys2Proof.Machine
end

section
/-!
# Atomics on the shelf
-/
namespace Sys2Proof.Machine

/-! ### Issuing nothing -/

/-- Buffer entries that stand as they did are not newly issued. -/
theorem newlyIssued_self (mb : List MergeEntry) : newlyIssued mb mb = [] := by
  unfold newlyIssued
  rw [List.filterMap_eq_nil_iff]
  intro i _
  cases mb[i]? with
  | none => rfl
  | some e => simp

theorem issueUpTo_of_none {p : MergeEntry → Bool} {mb : List MergeEntry} (h : ∀ e ∈ mb, p e = false) :
    issueUpTo p mb = mb := by
  have : mb.reverse.takeWhile (fun e => !p e) = mb.reverse := by
    rw [List.takeWhile_eq_self_iff]
    intro e he
    simp [h e (List.mem_reverse.mp he)]
  unfold issueUpTo issueFirst
  rw [this, List.length_reverse, Nat.sub_self]
  rfl

/-- An issue that issues nothing new changes the buffer alone. -/
theorem State.issue_quiet {s : State} {c : BitVec 12} {f : List MergeEntry → List MergeEntry}
    (h : newlyIssued (s.carrel c).mb (f (s.carrel c).mb) = []) :
    s.issue c f = s.modCarrel c fun k => { k with mb := f (s.carrel c).mb } := by
  unfold State.issue
  dsimp only
  rw [h]
  rfl

/-! ### Regions -/

theorem isHbm_eq_false {pa : Nat} (h : regionOf (localOf pa) ≠ .hbm) : isHbm pa = false := by
  unfold isHbm
  rw [decide_eq_false_iff_not]
  intro hlt
  exact h (by unfold regionOf; rw [if_pos hlt])

/-- The carrel's own shelf and ledger are no HBM. -/
theorem isHbm_of_ownMem {s : State} {c : BitVec 12} {pa : Nat} (h : s.ownMem c pa = true) : isHbm pa = false := by
  refine isHbm_eq_false fun he => ?_
  unfold State.ownMem at h
  rw [he] at h
  simp at h

theorem State.atomicUnmapped_of_shelf {s : State} {pa : Nat} (h : ∃ d o, regionOf (localOf pa) = .shelf d o) :
    s.atomicUnmapped pa = false := by
  obtain ⟨d, o, h⟩ := h
  unfold State.atomicUnmapped
  rw [h]

/-! ### Changes of the carrel that the stacks do not see -/

theorem keepsStacks_dInvalidate (pa : Nat) (k : Carrel) : KeepsStacks (·.dInvalidate pa) k := by
  have h : k.dInvalidate pa = { k with dcache := (k.dInvalidate pa).dcache } := by
    unfold Carrel.dInvalidate
    split <;> rfl
  refine ⟨fun id => ?_, ?_, ?_⟩
  · rw [h]; cases id <;> rfl
  · rw [h]; rfl
  · rw [h]; rfl

theorem SameStacks.setLe {c : BitVec 12} {s t : State} (h : SameStacks c s t) (a n x : Nat) :
    SameStacks c (s.setLe a n x) (t.setLe a n x) where
  rest := by
    unfold State.setLe
    rw [State.setBytes_eq, h.rest, State.setBytes_eq s]
  byte b := by
    unfold State.setLe
    rw [State.byte_setBytes, State.byte_setBytes, h.byte]
  others d hd := by rw [State.setLe_carrel, State.setLe_carrel, h.others d hd]
  bank id := by rw [State.setLe_carrel, State.setLe_carrel, h.bank]
  dataBank := by rw [State.setLe_carrel, State.setLe_carrel, h.dataBank]
  retBank := by rw [State.setLe_carrel, State.setLe_carrel, h.retBank]

theorem SameStacks.le {c : BitVec 12} {s t : State} (h : SameStacks c s t) (a n : Nat) : t.le a n = s.le a n := by
  unfold State.le
  rw [State.bytes_congr fun i _ => h.byte _]

theorem Carrel.wait_of_idle {k : Carrel} (h : k.idle = true) : k.wait = .none := by
  unfold Carrel.idle at h
  simp at h
  exact h.2

/-! ### The form -/

theorem State.modCarrel_ownMem (s : State) (c d : BitVec 12) (f : Carrel → Carrel) (pa : Nat) :
    (s.modCarrel c f).ownMem d pa = s.ownMem d pa := rfl

/-- The address of an access with a signed offset. -/
def State.addrD (s : State) (c : BitVec 12) {w : Nat} (off : BitVec w) : Word := s.peekD c 0 + BitVec.ofInt 64 off.toInt

/-- The state in which an atomic on the own shelf has left the caches and stored. -/
def State.atomicStored (s : State) (c : BitVec 12) (pa n x : Nat) : State :=
  (((s.modCarrel c (·.dInvalidate pa)).modCarrel c fun k => { k with mb := [] }).setLe (localOf pa) n x).modCarrel c
    fun k => { k with wait := .none }

theorem State.atomicStored_same (s : State) (c : BitVec 12) (pa n x : Nat) :
    SameStacks c (s.setLe (localOf pa) n x) (s.atomicStored c pa n x) := by
  have h1 := SameStacks.mod s c (keepsStacks_dInvalidate pa (s.carrel c))
  have h2 := SameStacks.mod (s.modCarrel c (·.dInvalidate pa)) c (f := fun k => { k with mb := [] })
    ⟨fun id => by cases id <;> rfl, rfl, rfl⟩
  exact ((h1.trans h2).setLe _ _ _).trans (SameStacks.mod _ c ⟨fun id => by cases id <;> rfl, rfl, rfl⟩)

theorem State.atomicStored_carrel {s : State} {c : BitVec 12} (pa n x : Nat) (hmb : (s.carrel c).mb = [])
    (hw : (s.carrel c).wait = .none) : (s.atomicStored c pa n x).carrel c = (s.carrel c).dInvalidate pa := by
  have hk : (s.carrel c).dInvalidate pa = { s.carrel c with dcache := ((s.carrel c).dInvalidate pa).dcache } := by
    unfold Carrel.dInvalidate
    split <;> rfl
  unfold State.atomicStored
  rw [State.carrel_modCarrel_same, State.setLe_carrel, State.carrel_modCarrel_same, State.carrel_modCarrel_same, hk]
  calc ({ (s.carrel c) with mb := [], wait := .none, dcache := ((s.carrel c).dInvalidate pa).dcache } : Carrel) =
        { (s.carrel c) with
          mb := (s.carrel c).mb, wait := (s.carrel c).wait, dcache := ((s.carrel c).dInvalidate pa).dcache } := by
        rw [hmb, hw]
    _ = _ := rfl

theorem atomicInstr_next {s : State} {c : BitVec 12} {op : BitVec 4} {w : Bool} {off : BitVec 20} {pa : Nat}
    {part : BitVec 6} (hr : Ready s c 4) (hf : Fits s c { dPop := if op = 7 then 3 else 2, dPush := 1 })
    (hal : (s.addrD c off).toNat % (if w then 8 else 4) = 0)
    (hacc : s.access c 1 (s.addrD c off) (if w then 8 else 4) 11 = .ok pa part) (hown : s.ownMem c pa = true)
    (hshelf : ∃ d o, regionOf (localOf pa) = .shelf d o) (hmb : (s.carrel c).mb = []) :
    let n := if w then 8 else 4
    let old := s.le (localOf pa) n
    ∃ t, atomicInstr c op w off s = .next t ∧
      StoresTo c (((s.carrel c).dInvalidate pa).after 4) (if op = 7 then 3 else 2) [word old] (localOf pa) n
        (atomicNew op n old ((s.peekD c 1).toNat % 2 ^ (8 * n))
          ((if op = 7 then s.peekD c 2 else 0).toNat % 2 ^ (8 * n))) s t := by
  intro n old
  have hwait := Carrel.wait_of_idle hr.1
  generalize hx : atomicNew op n old ((s.peekD c 1).toNat % 2 ^ (8 * n))
    ((if op = 7 then s.peekD c 2 else 0).toNat % 2 ^ (8 * n)) = x
  have hsame := s.atomicStored_same c pa n x
  have hk := State.atomicStored_carrel pa n x hmb hwait
  have hal' : (s.peekD c 0 + off.signExtend 64).toNat % n = 0 := hal
  have hacc' : s.access c 1 (s.peekD c 0 + off.signExtend 64) n 11 = .ok pa part := hacc
  have hissue : (s.modCarrel c (·.dInvalidate pa)).issue c (issueUpTo (·.overlaps pa n)) =
      (s.modCarrel c (·.dInvalidate pa)).modCarrel c fun k => { k with mb := [] } := by
    have hb : ((s.modCarrel c (·.dInvalidate pa)).carrel c).mb = [] := by
      rw [State.carrel_modCarrel_same]
      unfold Carrel.dInvalidate
      split <;> exact hmb
    rw [State.issue_quiet (by rw [hb]; rfl), hb]
    rfl
  have hbody : atomicInstr c op w off s =
      .next ((((s.atomicStored c pa n x).popD c (if op = 7 then 3 else 2)).2.pushD c (word old)).retire c 4) := by
    unfold atomicInstr
    dsimp only
    rw [runInstr_ready _ hr, withStacks_fits _ hf]
    rw [if_neg (fun h => h hal'), hacc']
    dsimp only
    rw [State.atomicUnmapped_of_shelf hshelf, isHbm_of_ownMem hown, Bool.and_false, if_neg Bool.false_ne_true,
      if_neg (by simp), hissue]
    rw [State.modCarrel_ownMem, State.modCarrel_ownMem, if_pos hown, ← hx]
    rfl
  have hfits : Fits (s.atomicStored c pa n x) c { dPop := if op = 7 then 3 else 2, dPush := 1 } := by
    refine hsame.fits ?_ (hf.setLe _ _ _)
    rw [hk, State.setLe_carrel]
    unfold Carrel.dInvalidate
    split <;> rfl
  have hm := hfits.dataMoves [word old] rfl
  rw [hk] at hm
  exact ⟨_, hbody, ((hm.of_same hsame).retire 4).storesTo⟩

/-- A form on aligned addresses of the own shelf, by its operation. -/
theorem atomicForm_of {mk : BitVec 12 → Bool → BitVec 20 → Instr} {op : BitVec 4} {pop : Nat}
    {f : Nat → Nat → Nat → Nat → Nat} (h : ∀ c w off s, Sys2Proof.Machine.exec (mk c w off) s =
        atomicInstr c op w off s)
    (hpop : (if op = 7 then 3 else 2) = pop)
    (hf : ∀ n o x e e', 0 < n → o < 256 ^ n → x < 256 ^ n → (op = 7 → e' = e) → atomicNew op n o x e' = f n o x e) :
    ∀ (w : Bool) (off : BitVec 20) (c : BitVec 12) (s : State) (pa : Nat) (part : BitVec 6), Ready s c 4 →
      Fits s c { dPop := pop, dPush := 1 } →
      let n := if w then 8 else 4
      let old := s.le (localOf pa) n
      (s.addrD c off).toNat % n = 0 → s.access c 1 (s.addrD c off) n 11 = .ok pa part → s.ownMem c pa = true →
      (∃ d o, regionOf (localOf pa) = .shelf d o) → (s.carrel c).mb = [] →
      ∃ t, Sys2Proof.Machine.exec (mk c w off) s = .next t ∧
        StoresTo c (((s.carrel c).dInvalidate pa).after 4) pop [word old] (localOf pa) n
          (f n old ((s.peekD c 1).toNat % 256 ^ n) ((s.peekD c 2).toNat % 256 ^ n)) s t := by
  intro w off c s pa part hr hfit n old hal hacc hown hshelf hmb
  subst hpop
  obtain ⟨t, ht, hs⟩ := atomicInstr_next hr hfit hal hacc hown hshelf hmb
  have hpow : (2 : Nat) ^ (8 * n) = 256 ^ n := Nat.pow_mul 2 8 n
  have hpos : 0 < 256 ^ n := Nat.pow_pos (by decide)
  have hn : 0 < n := by unfold n; split <;> decide
  have hold : old < 256 ^ n := by
    have := bytesToNat_lt (s.bytes (localOf pa) n)
    rwa [show (s.bytes (localOf pa) n).length = n by simp [State.bytes, upto]] at this
  have he := hf n old ((s.peekD c 1).toNat % 256 ^ n) ((s.peekD c 2).toNat % 256 ^ n)
    ((if op = 7 then s.peekD c 2 else 0).toNat % 256 ^ n) hn hold (Nat.mod_lt _ hpos) (fun h7 => by rw [if_pos h7])
  refine ⟨t, (h c w off s).trans ht, ?_⟩
  rw [← he, ← hpow]
  exact hs

theorem atomicInstr_misaligned {s : State} {c : BitVec 12} {op : BitVec 4} {w : Bool} {off : BitVec 20} {pop : Nat}
    (hpop : (if op = 7 then 3 else 2) = pop) (hr : Ready s c 4) (hf : Fits s c { dPop := pop, dPush := 1 })
    (hal : (s.addrD c off).toNat % (if w then 8 else 4) ≠ 0) :
    atomicInstr c op w off s =
      .next (s.fault c { code := 0x05, detail := if w then 1 else 0, faddr := some (s.addrD c off) }) := by
  subst hpop
  have hd : word (b2n w) = if w then 1 else 0 := by cases w <;> rfl
  unfold atomicInstr
  dsimp only
  rw [runInstr_ready _ hr, withStacks_fits _ hf]
  have hal' : (s.peekD c 0 + off.signExtend 64).toNat % (if w then 8 else 4) ≠ 0 := hal
  rw [if_pos hal', hd]
  rfl

/-- Settles O13: with no entry in the buffer nothing drains, so the old value is read and the new one stored at once. -/
theorem atomicsOnTheShelf : Obligations.AtomicsOnTheShelf := by
  unfold Obligations.AtomicsOnTheShelf
  refine ⟨?_, ?_⟩
  · intro signed atomic
    have hs {n y : Nat} (hn : 0 < n) (hy : y < 256 ^ n) : sInt (8 * n) y = signed n y :=
      sInt_of_lt (by omega) (by rwa [Nat.pow_mul 2 8 n])
    refine ⟨?_, ?_, ?_, ?_, ?_, ?_, ?_, ?_⟩
    · exact atomicForm_of (op := 0) (fun _ _ _ _ => rfl) (by decide)
        fun n o x _ _ _ _ _ _ => congrArg (fun m => (o + x) % m) (Nat.pow_mul 2 8 n)
    · exact atomicForm_of (mk := .amin) (op := 1) (pop := 2) (f := fun n o x _ => if signed n x < signed n o then x
        else o)
        (fun _ _ _ _ => rfl) rfl fun n o x _ _ hn ho hx _ => by rw [← hs hn ho, ← hs hn hx]; rfl
    · exact atomicForm_of (mk := .amax) (op := 2) (pop := 2) (f := fun n o x _ => if signed n o < signed n x then x
        else o)
        (fun _ _ _ _ => rfl) rfl fun n o x _ _ hn ho hx _ => by rw [← hs hn ho, ← hs hn hx]; rfl
    · exact atomicForm_of (op := 3) (fun _ _ _ _ => rfl) (by decide) fun _ _ _ _ _ _ _ _ _ => rfl
    · exact atomicForm_of (op := 4) (fun _ _ _ _ => rfl) (by decide) fun _ _ _ _ _ _ _ _ _ => rfl
    · exact atomicForm_of (op := 5) (fun _ _ _ _ => rfl) (by decide) fun _ _ _ _ _ _ _ _ _ => rfl
    · exact atomicForm_of (op := 6) (fun _ _ _ _ => rfl) (by decide) fun _ _ _ _ _ _ _ _ _ => rfl
    · exact atomicForm_of (mk := .acas) (op := 7) (pop := 3) (f := fun _ o x e => if o = e then x else o)
        (fun _ _ _ _ => rfl) rfl fun n o x e e' _ _ _ he => by rw [he rfl]; rfl
  · exact ⟨fun _ _ _ _ hr hf hal => atomicInstr_misaligned (op := 0) rfl hr hf hal,
      fun _ _ _ _ hr hf hal => atomicInstr_misaligned (op := 1) rfl hr hf hal,
      fun _ _ _ _ hr hf hal => atomicInstr_misaligned (op := 2) rfl hr hf hal,
      fun _ _ _ _ hr hf hal => atomicInstr_misaligned (op := 3) rfl hr hf hal,
      fun _ _ _ _ hr hf hal => atomicInstr_misaligned (op := 4) rfl hr hf hal,
      fun _ _ _ _ hr hf hal => atomicInstr_misaligned (op := 5) rfl hr hf hal,
      fun _ _ _ _ hr hf hal => atomicInstr_misaligned (op := 6) rfl hr hf hal,
      fun _ _ _ _ hr hf hal => atomicInstr_misaligned (op := 7) rfl hr hf hal⟩

end Sys2Proof.Machine
end

section
/-!
# Translated loads and stores
-/
namespace Sys2Proof.Machine

/-! ### A change that changes nothing -/

/-- A state whose carrels read as they did. -/
theorem SameStacks.of_carrel_eq {c : BitVec 12} {s : State} {f : Carrel → Carrel} (h : f (s.carrel c) = s.carrel c) :
    SameStacks c s (s.modCarrel c f) :=
  SameStacks.mod s c ⟨fun _ => by rw [h], by rw [h], by rw [h]⟩

theorem KeepsStacks.of_keepsBanks {f : Carrel → Carrel} (hf : KeepsBanks f) (k : Carrel)
    (hd : (f k).dataBank = k.dataBank) (hr : (f k).retBank = k.retBank) : KeepsStacks f k := ⟨hf.bank k, hd, hr⟩

/-! ### Loads that find all their bytes -/

/-- One half of an access: offset, bytes, virtual and physical address, partition. -/
abbrev HalfAccess := Nat × Nat × Word × Nat × BitVec 6

/-- A half of a load whose bytes are there at once. -/
def State.halfHere (s : State) (c : BitVec 12) (pa : Nat) : Prop :=
  s.ownMem c pa = true ∨
    (isHbm pa = true ∧ ((s.carrel c).dLine pa).isSome = true ∧ (s.carrel c).dcInit = false)

/-- What a load makes of a half. -/
def State.loadHalf (s : State) (c : BitVec 12) : HalfAccess → LoadHalf
  | (_, m, a, pa, part) =>
    { va := a, pa := pa, n := m, part := part
      stage := (s.carrel c).loadStage (s.ownMem c pa) (s.bytes (localOf pa) m) pa m }

theorem State.halfHere_stage {s : State} {c : BitVec 12} {pa m : Nat} (h : s.halfHere c pa) :
    (s.carrel c).loadStage (s.ownMem c pa) (s.bytes (localOf pa) m) pa m = .got (s.foundBytes c pa m) := by
  unfold Carrel.loadStage State.foundBytes
  by_cases hown : s.ownMem c pa = true
  · rw [if_pos hown, if_pos hown]
  · obtain h | ⟨hh, hline, _⟩ := h
    · exact absurd h hown
    · obtain ⟨x, hx⟩ := Option.isSome_iff_exists.mp hline
      rw [if_neg hown, if_neg hown, if_pos hh, hx]

theorem loadInstr_eq (c : BitVec 12) (n : Nat) (signed : Bool) (off : BitVec 22) (s : State) :
    loadInstr c n signed off s = runInstr c 4 (withStacks c { dPop := 1, dPush := 1 } fun s =>
      match s.accesses c 1 (s.addrD c off) 1 true (halvesOf (s.addrD c off) n) with
      | .miss seg => .hold (s.missWait c 1 seg)
      | .exc e => .exc e
      | .ok l =>
        if (s.carrel c).dcInit ∧ l.any (fun (_, _, _, pa, _) => isHbm pa) then .hold s
        else
          let hs := l.map (s.loadHalf c)
          let s := s.issue c (issueUpTo fun e => hs.any fun h => decide (h.stage = .drain) && e.overlaps h.pa h.n)
          let misses := (hs.filter fun h => decide (h.stage = .miss)).length
          let s := s.modCarrel c fun k => { k with count := { k.count with dmiss := k.count.dmiss + word misses } }
          let s := hs.foldl (fun s h =>
            if h.stage = .miss ∨ h.stage = .mesh false then s.sendRead c h.pa h.part else s) s
          .jump (s.settleLoad c 4 signed hs)) s := rfl

theorem foldl_eq_of_fixed {α β : Type} {f : β → α → β} {l : List α} {b : β} (h : ∀ a ∈ l, f b a = b) :
    l.foldl f b = b := by
  induction l with
  | nil => rfl
  | cons a l ih =>
    rw [List.foldl_cons, h a List.mem_cons_self]
    exact ih fun x hx => h x (List.mem_cons_of_mem a hx)

/-- A load all of whose halves have come takes its address and leaves its value. -/
theorem settleLoad_ready {s : State} {c : BitVec 12} {hs : List LoadHalf} (len : Nat) (signed : Bool)
    (hf : Fits s c { dPop := 1, dPush := 1 }) (hw : (s.carrel c).wait = .none) (hall : ∀ h ∈ hs, h.ready = true) :
    Moves c ((s.carrel c).after len) 1 [loadValue signed (hs.flatMap (·.bytes))] 0 [] s
      (s.settleLoad c len signed hs) := by
  have hk : ({ s.carrel c with wait := .none } : Carrel) = s.carrel c := by rw [← hw]
  have hsame : SameStacks c s (s.modCarrel c fun k => { k with wait := .none }) := SameStacks.of_carrel_eq hk
  have hcar : (s.modCarrel c fun k => { k with wait := .none }).carrel c = s.carrel c := by
    rw [State.carrel_modCarrel_same]
    exact hk
  have hm := ((hsame.fits (by rw [hcar]) hf).moves [loadValue signed (hs.flatMap (·.bytes))] rfl).retire len
  rw [hcar] at hm
  unfold State.settleLoad
  rw [if_pos (List.all_eq_true.mpr hall)]
  exact hm.of_same hsame

theorem loadInstr_next {s : State} {c : BitVec 12} {n : Nat} {signed : Bool} {off : BitVec 22} {l : List HalfAccess}
    (hr : Ready s c 4) (hf : Fits s c { dPop := 1, dPush := 1 })
    (hacc : s.accesses c 1 (s.addrD c off) 1 true (halvesOf (s.addrD c off) n) = .ok l)
    (hall : ∀ h ∈ l, s.halfHere c h.2.2.2.1) :
    ∃ t, loadInstr c n signed off s = .next t ∧
      Moves c ((s.carrel c).after 4) 1
        [loadValue signed (l.flatMap fun (_, m, _, pa, _) => s.foundBytes c pa m)] 0 [] s t := by
  have hwait := Carrel.wait_of_idle hr.1
  have hstage (h : HalfAccess) (hh : h ∈ l) : (s.loadHalf c h).stage = .got (s.foundBytes c h.2.2.2.1 h.2.1) :=
    State.halfHere_stage (hall h hh)
  have hgot (h : LoadHalf) (hh : h ∈ l.map (s.loadHalf c)) : ∃ b, h.stage = .got b := by
    obtain ⟨p, hp, rfl⟩ := List.mem_map.mp hh
    exact ⟨_, hstage p hp⟩
  have hinit : ¬ ((s.carrel c).dcInit ∧ l.any (fun (_, _, _, pa, _) => isHbm pa)) := by
    intro ⟨hi, hany⟩
    obtain ⟨h, hh, hhbm⟩ := List.any_eq_true.mp hany
    rcases hall h hh with hown | ⟨_, _, hd⟩
    · exact absurd (hhbm.symm.trans (isHbm_of_ownMem hown)) (by decide)
    · rw [hd] at hi; cases hi
  have hbytes : (l.map (s.loadHalf c)).flatMap (·.bytes) = l.flatMap fun (_, m, _, pa, _) => s.foundBytes c pa m := by
    rw [List.flatMap_map]
    refine List.flatMap_congr fun h hh => ?_
    unfold LoadHalf.bytes
    rw [hstage h hh]
  rw [loadInstr_eq, runInstr_ready _ hr, withStacks_fits _ hf, hacc]
  refine ⟨_, rfl, ?_⟩
  dsimp only
  rw [if_neg hinit, ← hbytes]
  generalize l.map (s.loadHalf c) = hs at hgot
  have hnot (h : LoadHalf) (hh : h ∈ hs) (st : LoadStage) (hst : ∀ b, st ≠ .got b) : h.stage ≠ st := by
    obtain ⟨b, hb⟩ := hgot h hh
    exact fun he => hst b (he.symm.trans hb)
  have hissue : issueUpTo (fun e => hs.any fun h => decide (h.stage = .drain) && e.overlaps h.pa h.n)
      (s.carrel c).mb = (s.carrel c).mb :=
    issueUpTo_of_none fun e _ => List.any_eq_false.mpr fun h hh => by
      simp [hnot h hh .drain (fun _ => by simp)]
  have hmisses : hs.filter (fun h => decide (h.stage = .miss)) = [] :=
    List.filter_eq_nil_iff.mpr fun h hh => by simp [hnot h hh .miss (fun _ => by simp)]
  rw [State.issue_quiet (by rw [hissue]; exact newlyIssued_self _), hissue, hmisses,
    List.length_nil, foldl_eq_of_fixed fun h hh => if_neg (not_or.mpr ⟨hnot h hh .miss (fun _ => by simp),
      hnot h hh (.mesh false) (fun _ => by simp)⟩)]
  have hk1 : ({ s.carrel c with mb := (s.carrel c).mb } : Carrel) = s.carrel c := rfl
  have h1 : SameStacks c s (s.modCarrel c fun k => { k with mb := (s.carrel c).mb }) := SameStacks.of_carrel_eq hk1
  generalize hu : s.modCarrel c (fun k => { k with mb := (s.carrel c).mb }) = u at h1
  have hcu : u.carrel c = s.carrel c := by rw [← hu, State.carrel_modCarrel_same]
  have hk2 : ({ u.carrel c with
      count := { (u.carrel c).count with dmiss := (u.carrel c).count.dmiss + word 0 } } : Carrel) =
      u.carrel c := by
    rw [show word 0 = 0#64 from rfl, BitVec.add_zero]
  have h2 := SameStacks.of_carrel_eq (f := fun k =>
    { k with count := { k.count with dmiss := k.count.dmiss + word 0 } }) hk2
  generalize hv : u.modCarrel c (fun k =>
    { k with count := { k.count with dmiss := k.count.dmiss + word 0 } }) = v at h2 ⊢
  have hcv : v.carrel c = s.carrel c := by
    rw [← hv, State.carrel_modCarrel_same]
    exact hk2.trans hcu
  have hsame := h1.trans h2
  have hm := settleLoad_ready (s := v) 4 signed (hsame.fits (by rw [hcv]) hf) (by rw [hcv]; exact hwait)
    (fun h hh => by obtain ⟨b, hb⟩ := hgot h hh; unfold LoadHalf.ready; rw [hb])
  rw [hcv] at hm
  exact hm.of_same hsame

/-! ### Stores in one half -/

theorem halvesOf_one {va : Word} {n : Nat} (h : va.toNat % 64 + n ≤ 64) : halvesOf va n = [(0, n)] := by
  unfold halvesOf
  dsimp only
  rw [if_pos (by omega)]

/-- The checks of a store in one half are those of its one access. -/
theorem State.accesses_one {s : State} {c : BitVec 12} {va : Word} {n pa : Nat} {part : BitVec 6}
    (h : va.toNat % 64 + n ≤ 64) (hacc : s.access c 1 va n 2 = .ok pa part) :
    s.accesses c 1 va 2 false (halvesOf va n) = .ok [(0, n, va, pa, part)] := by
  have hzero : va + word 0 = va := by simp [word]
  rw [halvesOf_one h]
  unfold State.accesses State.segAccesses State.segAccesses
  dsimp only
  rw [hzero, hacc]
  rfl

theorem keepsBanks_dUpdate (pa : Nat) (b : List Byte) : KeepsBanks (·.dUpdate pa b) := by
  intro k j
  have h : (k.banksOf j).dLine pa = k.dLine pa := rfl
  unfold Carrel.dUpdate
  dsimp only
  rw [h]
  split <;> rfl

theorem slice_natToBytes (n x : Nat) : slice (natToBytes n x) 0 n = natToBytes n x := by
  unfold slice
  rw [List.drop_zero, List.take_of_length_le (by simp)]

/-- The one half of such a store. -/
def State.storeHalf (s : State) (c : BitVec 12) (n pa : Nat) (part : BitVec 6) : StoreHalf :=
  { pa := pa, bytes := natToBytes n (s.peekD c 1).toNat, mergeable := mergeableAt pa, part := part }

/-- A store in one half that passes its checks settles at once. -/
theorem storeInstr_one {s : State} {c : BitVec 12} {n pa : Nat} {off : BitVec 22} {part : BitVec 6}
    (hr : Ready s c 4) (hf : Fits s c { dPop := 2 }) (h : (s.addrD c off).toNat % 64 + n ≤ 64)
    (hacc : s.access c 1 (s.addrD c off) n 2 = .ok pa part) (hinit : isHbm pa = true → (s.carrel c).dcInit = false) :
    storeInstr c n off s = .next (s.settleStore c 4 [s.storeHalf c n pa part]) := by
  have hinit' : ¬ ((s.carrel c).dcInit = true ∧ [((0, n, s.addrD c off, pa, part) : HalfAccess)].any
      (fun (_, _, _, pa, _) => isHbm pa) = true) := by
    rw [List.any_cons, List.any_nil, Bool.or_false]
    exact fun ⟨hi, hh⟩ => by rw [hinit hh] at hi; cases hi
  have hacc' : s.accesses c 1 (s.peekD c 0 + off.signExtend 64) 2 false
      (halvesOf (s.peekD c 0 + off.signExtend 64) n) = .ok [(0, n, s.addrD c off, pa, part)] :=
    State.accesses_one h hacc
  unfold storeInstr
  rw [runInstr_ready _ hr, withStacks_fits _ hf]
  dsimp only
  rw [hacc']
  dsimp only
  rw [if_neg hinit', List.map_singleton, slice_natToBytes]
  rfl

/-- The state in which the operands of a store have left. -/
def State.storePopped (s : State) (c : BitVec 12) : State :=
  ((s.setCarrel c { s.carrel c with wait := .none }).popD c 2).2

theorem settleStore_own {s : State} {c : BitVec 12} {h : StoreHalf} (len : Nat) (hown : s.ownMem c h.pa = true)
    (hmb : (s.carrel c).mb = []) :
    s.settleStore c len [h] = ((((s.storePopped c).setBytes (localOf h.pa) h.bytes).modCarrel c fun k => k).issue c
      fun _ => issueRules []).retire c len := by
  have hmine : [h].filter (fun h => s.ownMem c h.pa) = [h] := by simp [hown]
  have hrest : [h].filter (fun h => !s.ownMem c h.pa) = [] := by simp [hown]
  unfold State.settleStore
  dsimp only
  rw [hmine, hrest, show mbStores (s.carrel c).mb [] = some [] by rw [hmb]; rfl]
  rfl

theorem settleStore_hbm {s : State} {c : BitVec 12} {h : StoreHalf} (len : Nat) (hhbm : isHbm h.pa = true)
    {mb : List MergeEntry} (hmb : mbStores (s.carrel c).mb [h] = some mb) :
    s.settleStore c len [h] = (((s.storePopped c).modCarrel c fun k => k.dUpdate h.pa h.bytes).issue c
      fun _ => issueRules mb).retire c len := by
  have hown : s.ownMem c h.pa = false := by
    by_contra ho
    have := isHbm_of_ownMem (eq_true_of_ne_false ho)
    rw [hhbm] at this
    cases this
  have hmine : [h].filter (fun h => s.ownMem c h.pa) = [] := by simp [hown]
  have hrest : [h].filter (fun h => !s.ownMem c h.pa) = [h] := by simp [hown]
  have hfold (k : Carrel) :
      [h].foldl (fun k h => if isHbm h.pa then k.dUpdate h.pa h.bytes else k) k = k.dUpdate h.pa h.bytes := by
    rw [List.foldl_cons, List.foldl_nil, if_pos hhbm]
  unfold State.settleStore
  dsimp only
  rw [hmine, hrest, hmb, funext hfold]
  rfl

/-! ### The moves of a store -/

theorem Carrel.noWait_eq {k : Carrel} (h : k.wait = .none) : ({ k with wait := .none } : Carrel) = k := by
  rw [← h]

/-- Operands that leave a carrel that waits for nothing. -/
theorem State.storePopped_same {s : State} {c : BitVec 12} (hw : (s.carrel c).wait = .none) :
    SameStacks c s (s.setCarrel c { s.carrel c with wait := .none }) ∧
      (s.setCarrel c { s.carrel c with wait := .none }).carrel c = s.carrel c := by
  have hc : (s.setCarrel c { s.carrel c with wait := .none }).carrel c = s.carrel c := by
    rw [State.carrel_setCarrel_same, Carrel.noWait_eq hw]
  exact ⟨SameStacks.of_carrel_eq (f := fun k => { k with wait := .none }) (Carrel.noWait_eq hw), hc⟩

theorem CarrelIs.mb {c : BitVec 12} {base : Carrel} {t : State} (h : CarrelIs c base t) :
    (t.carrel c).mb = base.mb := by
  unfold CarrelIs at h
  rw [h]

/-- An issue that issues nothing new and leaves the buffer as `mb`. -/
theorem DataMoves.issue_quiet {c : BitVec 12} {base : Carrel} {pop : Nat} {outs : List Word} {s t : State}
    {mb : List MergeEntry} (h : DataMoves c base pop outs s t) (hq : newlyIssued base.mb (issueRules mb) = []) :
    DataMoves c { base with mb := issueRules mb } pop outs s (t.issue c fun _ => issueRules mb) := by
  obtain ⟨_, _, _, hcar, _⟩ := h.moves
  rw [State.issue_quiet (by rw [hcar.mb]; exact hq)]
  exact h.mod (f := fun k => { k with mb := issueRules mb }) fun _ _ => rfl

theorem settleStore_own_next {s : State} {c : BitVec 12} {n x : Nat} {h : StoreHalf}
    (hf : Fits s c { dPop := 2 }) (hw : (s.carrel c).wait = .none) (hown : s.ownMem c h.pa = true)
    (hmb : (s.carrel c).mb = []) (hb : h.bytes = natToBytes n x) :
    StoresTo c ((s.carrel c).after 4) 2 [] (localOf h.pa) n x s (s.settleStore c 4 [h]) := by
  obtain ⟨hsame, hc⟩ := State.storePopped_same (c := c) hw
  rw [settleStore_own 4 hown hmb, hb]
  unfold State.storePopped
  generalize s.setCarrel c { s.carrel c with wait := .none } = u at hsame hc ⊢
  have hm := (hsame.fits (by rw [hc]) hf).storesTo (localOf h.pa) n x [] rfl
  rw [← State.popD_setLe, hc] at hm
  have hm2 := (hm.of_same (hsame.setLe (localOf h.pa) n x)).mod (f := fun k => k) fun _ _ => rfl
  have hm3 := (hm2.issue_quiet (mb := []) (by rw [hmb]; rfl)).retire 4
  have hbase : ({ s.carrel c with mb := issueRules [] } : Carrel) = s.carrel c := by
    rw [show issueRules [] = (s.carrel c).mb by rw [hmb]; rfl]
  rw [hbase] at hm3
  exact hm3.storesTo

/-! ### How many keys are listed -/

theorem Tab.length_insert_le {α : Type} (t : Tab α) (n : Nat) (x : α) : (Tab.insert t n x).length ≤ t.length + 1 := by
  induction t with
  | nil => exact Nat.le_refl _
  | cons p t ih =>
    unfold Tab.insert
    split
    · exact Nat.le_succ _
    · split
      · exact Nat.le_refl _
      · exact Nat.succ_le_succ ih

theorem Tab.length_erase_le {α : Type} (t : Tab α) (n : Nat) : (Tab.erase t n).length ≤ t.length := by
  induction t with
  | nil => exact Nat.le_refl _
  | cons p t ih =>
    unfold Tab.erase
    split
    · exact Nat.le_succ_of_le ih
    · exact Nat.succ_le_succ ih

theorem Tab.length_setAll_le {α : Type} [DecidableEq α] (d : α) (l : List (Nat × α)) (t : Tab α) :
    (Tab.setAll d t l).length ≤ t.length + l.length := by
  induction l generalizing t with
  | nil => exact Nat.le_refl _
  | cons p l ih =>
    have hset : (Tab.set d t p.1 p.2).length ≤ t.length + 1 := by
      unfold Tab.set
      split
      · exact (Tab.length_erase_le t p.1).trans (Nat.le_succ _)
      · exact Tab.length_insert_le t p.1 p.2
    have hrest := ih (Tab.set d t p.1 p.2)
    rw [List.length_cons]
    change (Tab.setAll d (Tab.set d t p.1 p.2) l).length ≤ _
    omega

/-- The one entry that a store to HBM enters. -/
def storeEntry (h : StoreHalf) : MergeEntry :=
  { block := h.pa / 64, bytes := Tab.setAll none [] (h.bytes.mapIdx fun i b => (h.pa % 64 + i, some b))
    mergeable := h.mergeable, issued := false, part := h.part, retried := false, acked := false }

theorem mbStores_one (h : StoreHalf) : mbStores [] [h] = some [storeEntry h] := rfl

theorem issueRules_storeEntry {h : StoreHalf} (hm : h.mergeable = true) (hl : h.bytes.length < 64) :
    issueRules [storeEntry h] = [storeEntry h] := by
  unfold issueRules
  rw [if_neg (by simp)]
  refine issueUpTo_of_none fun e he => ?_
  rw [List.mem_singleton.mp he]
  have hfull : (storeEntry h).full = false := by
    unfold MergeEntry.full storeEntry
    rw [decide_eq_false_iff_not]
    have := Tab.length_setAll_le none (h.bytes.mapIdx fun i b => (h.pa % 64 + i, some b)) []
    rw [List.length_mapIdx, List.length_nil] at this
    dsimp only
    omega
  rw [hfull]
  unfold storeEntry
  rw [hm]
  rfl

theorem settleStore_hbm_next {s : State} {c : BitVec 12} {h : StoreHalf}
    (hf : Fits s c { dPop := 2 }) (hw : (s.carrel c).wait = .none) (hhbm : isHbm h.pa = true)
    (hmb : (s.carrel c).mb = []) (hm : h.mergeable = true) (hl : h.bytes.length < 64) :
    Moves c { ((s.carrel c).dUpdate h.pa h.bytes).after 4 with mb := [storeEntry h] } 2 [] 0 [] s
      (s.settleStore c 4 [h]) := by
  obtain ⟨hsame, hc⟩ := State.storePopped_same (c := c) hw
  have hrules := issueRules_storeEntry hm hl
  rw [settleStore_hbm 4 hhbm (by rw [hmb]; exact mbStores_one h)]
  unfold State.storePopped
  generalize s.setCarrel c { s.carrel c with wait := .none } = u at hsame hc ⊢
  have hmv := (hsame.fits (by rw [hc]) hf).dataMoves [] rfl
  rw [hc] at hmv
  have hm2 := (hmv.of_same hsame).mod (keepsBanks_dUpdate h.pa h.bytes)
  have hnew : newlyIssued ((s.carrel c).dUpdate h.pa h.bytes).mb (issueRules [storeEntry h]) = [] := by
    rw [hrules]
    rfl
  have hm3 := (hm2.issue_quiet hnew).retire 4
  rw [hrules] at hm3 ⊢
  exact hm3.moves

/-! ### The forms -/

theorem storeInstr_own_next {s : State} {c : BitVec 12} {n pa : Nat} {off : BitVec 22} {part : BitVec 6}
    (hr : Ready s c 4) (hf : Fits s c { dPop := 2 }) (h : (s.addrD c off).toNat % 64 + n ≤ 64)
    (hacc : s.access c 1 (s.addrD c off) n 2 = .ok pa part) (hown : s.ownMem c pa = true)
    (hmb : (s.carrel c).mb = []) :
    ∃ t, storeInstr c n off s = .next t ∧
      StoresTo c ((s.carrel c).after 4) 2 [] (localOf pa) n (s.peekD c 1).toNat s t := by
  have hinit : isHbm pa = true → (s.carrel c).dcInit = false := by
    rw [isHbm_of_ownMem hown]
    exact fun h => absurd h Bool.false_ne_true
  exact ⟨_, storeInstr_one hr hf h hacc hinit,
    settleStore_own_next (h := s.storeHalf c n pa part) hf (Carrel.wait_of_idle hr.1) hown hmb rfl⟩

theorem mergeableAt_of_hbm {pa : Nat} (h : isHbm pa = true) : mergeableAt pa = true := by
  unfold isHbm at h
  unfold mergeableAt regionOf
  rw [if_pos (of_decide_eq_true h)]

theorem storeInstr_hbm_next {s : State} {c : BitVec 12} {n pa : Nat} {off : BitVec 22} {part : BitVec 6}
    (hr : Ready s c 4) (hf : Fits s c { dPop := 2 }) (hn : n < 64) (h : (s.addrD c off).toNat % 64 + n ≤ 64)
    (hacc : s.access c 1 (s.addrD c off) n 2 = .ok pa part) (hhbm : isHbm pa = true)
    (hmb : (s.carrel c).mb = []) (hd : (s.carrel c).dcInit = false) :
    ∃ t, storeInstr c n off s = .next t ∧
      Moves c { ((s.carrel c).dUpdate pa (natToBytes n (s.peekD c 1).toNat)).after 4 with
        mb := [storeEntry (s.storeHalf c n pa part)] } 2 [] 0 [] s t :=
  ⟨_, storeInstr_one hr hf h hacc fun _ => hd,
    settleStore_hbm_next (h := s.storeHalf c n pa part) hf (Carrel.wait_of_idle hr.1) hhbm hmb
      (mergeableAt_of_hbm hhbm) (by unfold State.storeHalf; simpa using hn)⟩

/-- The entry of such a store, as the statement writes it. -/
theorem storeEntry_storeHalf {s : State} {c : BitVec 12} {n pa : Nat} {part : BitVec 6} (h : isHbm pa = true) :
    storeEntry (s.storeHalf c n pa part) =
      { block := pa / 64
        bytes := Tab.setAll none [] ((natToBytes n (s.peekD c 1).toNat).mapIdx fun i b => (pa % 64 + i, some b))
        mergeable := true, issued := false, part := part, retried := false, acked := false } := by
  unfold storeEntry State.storeHalf
  rw [mergeableAt_of_hbm h]

/-- Settles O12: a load whose halves are all there issues and asks for nothing; a store in one half settles at once. -/
theorem translatedAccess : Obligations.TranslatedAccess := by
  unfold Obligations.TranslatedAccess
  refine ⟨?_, ?_, ?_⟩
  · intro load
    have hload (n : Nat) (signed : Bool) (mk : BitVec 12 → BitVec 22 → Instr)
        (h : ∀ c off s, Sys2Proof.Machine.exec (mk c off) s = loadInstr c n signed off s) : load mk n signed :=
      fun off c s hr hf ⟨hacc, hall⟩ => by
        obtain ⟨t, ht, hm⟩ := loadInstr_next hr hf hacc hall
        exact ⟨t, (h c off s).trans ht, hm⟩
    exact ⟨hload 1 false _ fun _ _ _ => rfl, hload 2 false _ fun _ _ _ => rfl, hload 4 false _ fun _ _ _ => rfl,
      hload 8 false _ fun _ _ _ => rfl, hload 1 true _ fun _ _ _ => rfl, hload 2 true _ fun _ _ _ => rfl,
      hload 4 true _ fun _ _ _ => rfl⟩
  · intro store
    have hstore (n : Nat) (mk : BitVec 12 → BitVec 22 → Instr)
        (h : ∀ c off s, Sys2Proof.Machine.exec (mk c off) s = storeInstr c n off s) : store mk n :=
      fun off c s pa part hr hf hone hacc hown hmb => by
        obtain ⟨t, ht, hs⟩ := storeInstr_own_next hr hf hone hacc hown hmb
        exact ⟨t, (h c off s).trans ht, hs⟩
    exact ⟨hstore 1 _ fun _ _ _ => rfl, hstore 2 _ fun _ _ _ => rfl, hstore 4 _ fun _ _ _ => rfl,
      hstore 8 _ fun _ _ _ => rfl⟩
  · intro store
    have hstore (n : Nat) (hn : n < 64) (mk : BitVec 12 → BitVec 22 → Instr)
        (h : ∀ c off s, Sys2Proof.Machine.exec (mk c off) s = storeInstr c n off s) : store mk n := by
      intro off va at_ data c s hr hf ⟨hone, ⟨pa, part, hacc⟩, hhbm, _, hmb, hd⟩
      have hat : at_ c s = (pa, part) := by
        change (match s.access c 1 (va c s) n 2 with
          | .ok pa part => (pa, part)
          | _ => (0, 0)) = _
        rw [hacc]
      rw [hat] at hhbm
      dsimp only
      rw [hat]
      obtain ⟨t, ht, hm⟩ := storeInstr_hbm_next hr hf hn hone hacc hhbm hmb hd
      rw [storeEntry_storeHalf hhbm] at hm
      exact ⟨t, (h c off s).trans ht, hm⟩
    exact ⟨hstore 1 (by decide) _ fun _ _ _ => rfl, hstore 2 (by decide) _ fun _ _ _ => rfl,
      hstore 4 (by decide) _ fun _ _ _ => rfl, hstore 8 (by decide) _ fun _ _ _ => rfl⟩

end Sys2Proof.Machine
end

section
/-!
# Long-vector loads and stores
-/
namespace Sys2Proof.Machine

/-! ### Entries that leave and none that come -/

/-- The top `pop` data entries leave: nothing is spilled, so neither stack and no byte of memory is open. -/
structure PopMoves (c : BitVec 12) (base : Carrel) (pop : Nat) (s t : State) : Prop where
  data : DataMoves c base pop [] s t
  ret : RetStack c 0 [] (fun _ => False) s t
  byte : ∀ a, t.byte a = s.byte a

theorem PopMoves.mod {c : BitVec 12} {base : Carrel} {pop : Nat} {s t : State} {f : Carrel → Carrel}
    (hf : KeepsBanks f) (h : PopMoves c base pop s t) : PopMoves c (f base) pop s (t.modCarrel c f) where
  data := h.data.mod hf
  ret := by
    have hr := h.ret
    unfold RetStack at hr ⊢
    rw [State.carrel_modCarrel_same, hf.bank]
    exact hr
  byte := h.byte

theorem PopMoves.retire {c : BitVec 12} {base : Carrel} {pop : Nat} {s t : State} (len : Nat)
    (h : PopMoves c base pop s t) : PopMoves c (base.after len) pop s (t.retire c len) := by
  rw [State.retire_eq]
  exact h.mod (keepsBanks_retire len)

theorem PopMoves.of_same {c : BitVec 12} {base : Carrel} {pop : Nat} {s s' t : State} (h : SameStacks c s s')
    (hm : PopMoves c base pop s' t) : PopMoves c base pop s t where
  data := hm.data.of_same h
  ret := by
    have hr := hm.ret
    unfold RetStack at hr ⊢
    rw [h.retBank, h.retOf, h.peekR] at hr
    exact hr
  byte a := (hm.byte a).trans (h.byte a)

theorem Fits.popMoves {s : State} {c : BitVec 12} {u : StackUse} (hf : Fits s c u) (hu : u.dPush = 0) :
    PopMoves c (s.carrel c) u.dPop s (s.popD c u.dPop).2 where
  data := hf.dataMoves [] hu.symm
  ret := by
    obtain ⟨hb, hr, hl⟩ := (State.popD_pops s c u.dPop).retOf_kept
    have hbank : ((s.popD c u.dPop).2.carrel c).bank (s.carrel c).retBank = (s.popD c u.dPop).2.retOf c := by
      rw [← hb]; rfl
    obtain ⟨hd, _⟩ := (hf.dataMoves [] hu.symm).moves.2.1
    refine ⟨hd, fun n x hx => by simp at hx, fun n _ _ => ?_⟩
    rw [hbank, hr, hl]
    unfold State.peekR
    rw [State.peek_eq, State.peek_eq]
    simp only [List.length_nil, Nat.zero_add]
    rfl
  byte _ := rfl

/-- The vector entries of a form that leave. -/
theorem PopMoves.dropV {c : BitVec 12} {base : Carrel} {pop : Nat} {s t : State} (n : Nat)
    (h : PopMoves c base pop s t) :
    PopMoves c { base with vstack := base.vstack.drop n } pop s (t.dropV c n) :=
  h.mod (f := fun k => { k with vstack := k.vstack.drop n }) (keepsBanks_vstack _ fun _ _ => rfl)

/-! ### The end of a form -/

/-- The state in which the operands of a vector memory form have left. -/
def State.vmPopped (s : State) (c : BitVec 12) (op : Nat) (a : VMem) : State :=
  ((s.modCarrel c fun k => { k with wait := .none }).popD c (vmUse op a).dPop).2

theorem State.vmPopped_moves {s : State} {c : BitVec 12} {op : Nat} {a : VMem} (hf : Fits s c (vmUse op a))
    (hw : (s.carrel c).wait = .none) :
    PopMoves c (s.carrel c) (vmUse op a).dPop s (s.vmPopped c op a) := by
  have hsame : SameStacks c s (s.modCarrel c fun k => { k with wait := .none }) :=
    SameStacks.of_carrel_eq (Carrel.noWait_eq hw)
  have hcar : (s.modCarrel c fun k => { k with wait := .none }).carrel c = s.carrel c := by
    rw [State.carrel_modCarrel_same]
    exact Carrel.noWait_eq hw
  have hm := (hsame.fits (by rw [hcar]) hf).popMoves rfl
  rw [hcar] at hm
  exact hm.of_same hsame

theorem CarrelIs.vl {c : BitVec 12} {base : Carrel} {t : State} (h : CarrelIs c base t) :
    (t.carrel c).vl = base.vl := by
  unfold CarrelIs at h
  rw [h]

theorem State.vmPopped_active {s : State} {c : BitVec 12} {op : Nat} {a : VMem} (hf : Fits s c (vmUse op a))
    (hw : (s.carrel c).wait = .none) :
    ((s.vmPopped c op a).carrel c).vmActive op a = (s.carrel c).vmActive op a := by
  obtain ⟨_, _, _, hcar, _⟩ := (State.vmPopped_moves hf hw).data.moves
  unfold Carrel.vmActive Carrel.active
  rw [hcar.vl]

/-- The bytes of record `i` of a load. -/
def State.vmBytesOf (s : State) (c : BitVec 12) (op : Nat) (a : VMem) (i : Nat) : List Byte :=
  if s.vmOne c op = true ∧ i ∉ (s.vmRecords c op a).map (·.1) then []
  else ((s.vmAccs c op a).filter fun x => s.vmOne c op || decide (x.elem = i)).flatMap fun x =>
    s.bytes (localOf x.pa) x.n

theorem leAt_nil (o n : Nat) : leAt [] o n = 0 := by
  unfold leAt slice
  rw [List.drop_nil, List.take_nil]
  rfl

/-- The entries that a load leaves. -/
def State.vmEntries (s : State) (c : BitVec 12) (op : Nat) (a : VMem) : List (BitVec 8192) :=
  (upto (vmFields op)).map fun f => ventry (8 * vmBytes a) ((upto ((s.carrel c).vmActive op a)).map fun i =>
    leAt (s.vmBytesOf c op a i) (f * vmBytes a) (vmBytes a))

/-- The elements of a load from the accesses with their bytes. -/
theorem vmElem_eq (s : State) (c : BitVec 12) (op : Nat) (a : VMem) (i o n : Nat) :
    (if s.vmOne c op && !((s.vmRecords c op a).map (·.1)).contains i then 0
      else leAt ((((s.vmAccs c op a).map fun x => { x with bytes := s.bytes (localOf x.pa) x.n }).filter fun x =>
        s.vmOne c op || decide (x.elem = i)).flatMap (·.bytes)) o n) = leAt (s.vmBytesOf c op a i) o n := by
  unfold State.vmBytesOf
  by_cases h : s.vmOne c op = true ∧ i ∉ (s.vmRecords c op a).map (·.1)
  · rw [if_pos h, leAt_nil, if_pos]
    obtain ⟨h1, h2⟩ := h
    rw [h1, Bool.true_and, Bool.not_eq_true', ← Bool.not_eq_true, List.contains_iff_mem]
    exact h2
  · rw [if_neg h, if_neg]
    · rw [List.filter_map, List.flatMap_map]
      rfl
    · intro hb
      rw [Bool.and_eq_true, Bool.not_eq_true', ← Bool.not_eq_true, List.contains_iff_mem] at hb
      exact h hb

theorem vmFinish_load {s : State} {c : BitVec 12} {op : Nat} {a : VMem} (hf : Fits s c (vmUse op a))
    (hw : (s.carrel c).wait = .none) (hl : vmLoads op = true) :
    Moves c ({ s.carrel c with
        vstack := (s.vmEntries c op a).reverse ++ (s.carrel c).vstack.drop (vmUse op a).vPop }.after 4)
      (vmUse op a).dPop [] 0 [] s
      (s.vmFinish c op a ((s.vmAccs c op a).map fun x => { x with bytes := s.bytes (localOf x.pa) x.n })) := by
  have hm := ((State.vmPopped_moves hf hw).data.moves.vec (vmUse op a).vPop (s.vmEntries c op a)).retire 4
  have he : s.vmFinish c op a ((s.vmAccs c op a).map fun x => { x with bytes := s.bytes (localOf x.pa) x.n }) =
      (((s.vmPopped c op a).dropV c (vmUse op a).vPop).pushVs c (s.vmEntries c op a)).retire c 4 := by
    unfold State.vmFinish State.vmEntries
    dsimp only
    rw [if_pos hl, ← State.vmPopped_active hf hw]
    simp only [vmElem_eq]
    rfl
  rw [he]
  exact hm

theorem vmFinish_store {s : State} {c : BitVec 12} {op : Nat} {a : VMem} (hf : Fits s c (vmUse op a))
    (hw : (s.carrel c).wait = .none) (hl : vmLoads op = false) :
    PopMoves c ({ s.carrel c with vstack := (s.carrel c).vstack.drop (vmUse op a).vPop }.after 4)
      (vmUse op a).dPop s (s.vmFinish c op a []) := by
  have hm := ((State.vmPopped_moves hf hw).dropV (vmUse op a).vPop).retire 4
  have he : s.vmFinish c op a [] = ((s.vmPopped c op a).dropV c (vmUse op a).vPop).retire c 4 := by
    unfold State.vmFinish
    dsimp only
    rw [hl, if_neg Bool.false_ne_true]
    rfl
  rw [he]
  exact hm

/-- A form all of whose accesses lie in the carrel's own memory moves its data at once. -/
theorem vmInstr_own {s : State} {c : BitVec 12} {op : Nat} {a : VMem} (hlegal : vMemLegal op a = true)
    (hr : Ready s c 4) (hf : Fits s c (vmUse op a)) (hok : s.vmChecks c op a (s.vmRecords c op a) = .ok)
    (hown : ∀ x ∈ s.vmAccs c op a, s.ownMem c x.pa = true) :
    vmInstr c op a s = .next (if vmLoads op then
        s.vmFinish c op a ((s.vmAccs c op a).map fun x => { x with bytes := s.bytes (localOf x.pa) x.n })
      else (s.vmWrites c op a (s.vmAccs c op a)).vmFinish c op a []) := by
  have hall : (s.vmAccs c op a).all (fun x => s.ownMem c x.pa) = true := List.all_eq_true.mpr hown
  have hhbm : (s.vmAccs c op a).any (fun x => isHbm x.pa) = false := by
    rw [List.any_eq_false]
    intro x hx
    rw [isHbm_of_ownMem (hown x hx)]
    decide
  have hany : (s.vmAccs c op a).any (fun x => !s.ownMem c x.pa) = false := by
    rw [List.any_eq_false]
    intro x hx
    rw [hown x hx]
    decide
  unfold vmInstr
  rw [runInstr_ready _ hr, hlegal]
  rw [show (!true) = false from rfl, if_neg Bool.false_ne_true, withStacks_fits _ hf, hok]
  dsimp only
  rw [hhbm, hany, Bool.and_false, Bool.false_and, if_neg Bool.false_ne_true, if_neg Bool.false_ne_true]
  unfold State.vmMove
  rw [if_pos hall]
  rfl

/-! ### The writes of a store -/

/-- A state that differs in memory and in fewer lost words alone. -/
structure Wrote (s t : State) : Prop where
  rest : t = { s with mem := t.mem, lost := t.lost }
  lost : ∀ x ∈ t.lost, x ∈ s.lost

theorem Wrote.refl (s : State) : Wrote s s := ⟨rfl, fun _ h => h⟩

theorem Wrote.trans {s t u : State} (h : Wrote s t) (g : Wrote t u) : Wrote s u :=
  ⟨by rw [g.rest, h.rest], fun x hx => h.lost x (g.lost x hx)⟩

theorem Wrote.carrel {s t : State} (h : Wrote s t) (c : BitVec 12) : t.carrel c = s.carrel c := by
  rw [h.rest]
  rfl

/-- No word is lost in part that was not. -/
theorem Wrote.lostPart {s t : State} (h : Wrote s t) {a n : Nat} (hl : s.lostPart a n = false) :
    t.lostPart a n = false := by
  unfold State.lostPart at hl ⊢
  rw [List.any_eq_false] at hl ⊢
  exact fun x hx => hl x (h.lost x hx)

theorem State.store_wrote (s : State) (a : Nat) (b : List Byte) : Wrote s (s.store a b) := by
  unfold State.store State.clearLost
  rw [State.setBytes_eq]
  split
  · exact ⟨rfl, fun _ h => h⟩
  · exact ⟨rfl, fun _ h => (List.mem_filter.mp h).1⟩

theorem State.store_byte (s : State) (a : Nat) (b : List Byte) (x : Nat) :
    (s.store a b).byte x = (s.setBytes a b).byte x := by
  unfold State.store State.clearLost
  split <;> rfl

/-- Writing the same bytes over equal memory gives equal memory. -/
theorem foldl_setBytes_congr (l : List VecAcc) : ∀ {s t : State}, (∀ b, s.byte b = t.byte b) → ∀ b,
    (l.foldl (fun u x => u.setBytes (localOf x.pa) x.bytes) s).byte b =
      (l.foldl (fun u x => u.setBytes (localOf x.pa) x.bytes) t).byte b := by
  induction l with
  | nil => exact fun h => h
  | cons x l ih => exact fun h => ih fun b => by rw [State.byte_setBytes, State.byte_setBytes, h]

/-- The writes of a vector store, parts of lost words left out. -/
def State.storeAccs (s : State) (l : List VecAcc) : State :=
  l.foldl (fun s x => if s.lostPart (localOf x.pa) x.n then s else s.store (localOf x.pa) x.bytes) s

/-- Whether a store writes byte `b`. -/
def VecAcc.writes (x : VecAcc) (b : Nat) : Prop := localOf x.pa ≤ b ∧ b < localOf x.pa + x.bytes.length

theorem State.storeAccs_spec (l : List VecAcc) : ∀ s : State,
    Wrote s (s.storeAccs l) ∧ (∀ b, (∀ x ∈ l, ¬ x.writes b) → (s.storeAccs l).byte b = s.byte b) ∧
      ((∀ x ∈ l, s.lostPart (localOf x.pa) x.n = false) → ∀ b, (s.storeAccs l).byte b =
        (l.foldl (fun u x => u.setBytes (localOf x.pa) x.bytes) s).byte b) := by
  induction l with
  | nil => exact fun s => ⟨Wrote.refl s, fun _ _ => rfl, fun _ _ => rfl⟩
  | cons x l ih =>
    intro s
    have hcons : s.storeAccs (x :: l) = (if s.lostPart (localOf x.pa) x.n then s
        else s.store (localOf x.pa) x.bytes).storeAccs l := rfl
    rw [hcons]
    by_cases hl : s.lostPart (localOf x.pa) x.n = true
    · rw [if_pos hl]
      obtain ⟨hw, hk, _⟩ := ih s
      exact ⟨hw, fun b hb => hk b fun y hy => hb y (List.mem_cons_of_mem x hy),
        fun hn => by rw [hn x List.mem_cons_self] at hl; cases hl⟩
    · rw [if_neg hl]
      have hx := s.store_wrote (localOf x.pa) x.bytes
      obtain ⟨hw, hk, he⟩ := ih (s.store (localOf x.pa) x.bytes)
      refine ⟨hx.trans hw, fun b hb => ?_, fun hn b => ?_⟩
      · rw [hk b fun y hy => hb y (List.mem_cons_of_mem x hy), State.store_byte, State.byte_setBytes,
          if_neg (show ¬ (_ ∧ _) from hb x List.mem_cons_self)]
      · rw [he fun y hy => hx.lostPart (hn y (List.mem_cons_of_mem x hy)), List.foldl_cons]
        exact foldl_setBytes_congr l (State.store_byte s _ _) b

/-! ### The effect of a store -/

/-- A shelf slot that a store writes. -/
def slotWritten (c : BitVec 12) (l : List VecAcc) (i : Nat) : Prop :=
  ∃ b, (∃ x ∈ l, x.writes b) ∧ shelfBase c.toNat + 8 * i ≤ b ∧ b < shelfBase c.toNat + 8 * i + 8

theorem slot_of_not_written {c : BitVec 12} {l : List VecAcc} {s u : State} (hw : Wrote s u)
    (hk : ∀ b, (∀ x ∈ l, ¬ x.writes b) → u.byte b = s.byte b) (i : Nat) (hi : ¬ slotWritten c l i) :
    u.slot c i = s.slot c i := by
  have hb (j : Nat) (hj : j < 8) : u.byte (shelfBase c.toNat + 8 * i + j) = s.byte (shelfBase c.toNat + 8 * i + j) :=
    hk _ fun x hx hxb => hi ⟨_, ⟨x, hx, hxb⟩, by omega, by omega⟩
  unfold State.slot State.le
  rw [State.bytes_congr hb, hw.rest]

theorem Fits.of_carrel_eq {s t : State} {c : BitVec 12} {u : StackUse} (h : t.carrel c = s.carrel c)
    (hf : Fits s c u) : Fits t c u := by
  unfold Fits at hf ⊢
  rw [h]
  exact hf

/-- What a store has done when its operands have left, by what its writes have done. -/
theorem vmFinish_stored {s u : State} {c : BitVec 12} {op : Nat} {a : VMem} {l : List VecAcc}
    (hf : Fits s c (vmUse op a)) (hw : (s.carrel c).wait = .none) (hl : vmLoads op = false) (hu : Wrote s u)
    (hk : ∀ b, (∀ x ∈ l, ¬ x.writes b) → u.byte b = s.byte b) :
    let t := u.vmFinish c op a []
    DataStack c (vmUse op a).dPop [] (slotWritten c l) s t ∧ RetStack c 0 [] (slotWritten c l) s t ∧
      t = { s with mem := t.mem, carrels := t.carrels, lost := t.lost } ∧ (∀ x ∈ t.lost, x ∈ s.lost) ∧
      (∀ d, d ≠ c → t.carrel d = s.carrel d) ∧
      CarrelIs c ({ s.carrel c with vstack := (s.carrel c).vstack.drop (vmUse op a).vPop }.after 4) t ∧
      BanksKept c true false s t ∧ ∀ b, t.byte b = u.byte b := by
  intro t
  have hcar := hu.carrel c
  have hm := vmFinish_store (hf.of_carrel_eq hcar) (by rw [hcar]; exact hw) hl
  rw [hcar] at hm
  change PopMoves c _ _ u t at hm
  clear_value t
  have hslot := slot_of_not_written (c := c) hu hk
  obtain ⟨⟨⟨_, _, ⟨o1, o2⟩, hc, hb, _⟩, hdata, _, hres⟩, hret, hbyte⟩ := hm
  have hpd : u.dataOf c = s.dataOf c := by unfold State.dataOf; rw [hcar]
  rw [hcar, hpd] at hres
  have hkept (id : BankId) := hb id
  simp only [hcar] at hkept
  obtain ⟨hlo, _⟩ := hkept (s.carrel c).dataBank
  obtain ⟨_, _, _, _, _, hrkept⟩ := hkept (s.carrel c).retBank
  obtain ⟨hr, hrl⟩ := hrkept (Or.inr (by simp))
  have hlost : t.lost = u.lost := by rw [o1]
  refine ⟨hdata.of_writes hcar hslot hlo hres, ?_, ?_, ?_, ?_, hc, fun id => ?_, hbyte⟩
  · simpa only [or_false] using hret.of_writes hcar hslot hr hrl
  · rw [hlost]
    exact o1.trans (congrArg (fun v : State => { v with mem := t.mem, carrels := t.carrels }) hu.rest)
  · rw [hlost]
    exact hu.lost
  · exact fun d hd => (o2 d hd).trans (hu.carrel d)
  · obtain ⟨h1, h2, h3, h4, h5, h6⟩ := hkept id
    exact ⟨h1, h2, h3, h4, fun h => h5 (h.imp_right fun e => absurd e (by decide)),
      fun h => h6 (h.imp_right fun _ => by simp)⟩

/-! ### Integer adds -/

/-- One integer add of VSCTA, modulo 256^n. -/
def State.addAcc (s : State) (n : Nat) (x : VecAcc) : State :=
  s.setLe (localOf x.pa) x.n ((s.le (localOf x.pa) x.n + bytesToNat x.bytes) % 256 ^ n)

/-- The integer adds of VSCTA in element order, those to lost words left out. -/
def State.addAccs (s : State) (n : Nat) (l : List VecAcc) : State :=
  l.foldl (fun s x => if s.lostIn (localOf x.pa) x.n then s else s.addAcc n x) s

theorem State.addAcc_eq (s : State) (n : Nat) (x : VecAcc) : s.addAcc n x = { s with mem := (s.addAcc n x).mem } := by
  unfold State.addAcc State.setLe
  exact State.setBytes_eq _ _ _

theorem State.addAccs_eq (n : Nat) (l : List VecAcc) : ∀ s : State,
    s.addAccs n l = { s with mem := (s.addAccs n l).mem } := by
  induction l with
  | nil => exact fun _ => rfl
  | cons x l ih =>
    intro s
    have hcons : s.addAccs n (x :: l) =
        (if s.lostIn (localOf x.pa) x.n then s else s.addAcc n x).addAccs n l := rfl
    rw [hcons]
    split
    · exact ih s
    · rw [ih, State.addAcc_eq]

theorem State.addAccs_of_kept (n : Nat) (l : List VecAcc) : ∀ s : State,
    (∀ x ∈ l, s.lostIn (localOf x.pa) x.n = false) → s.addAccs n l = l.foldl (fun u x => u.addAcc n x) s := by
  induction l with
  | nil => exact fun _ _ => rfl
  | cons x l ih =>
    intro s h
    have hcons : s.addAccs n (x :: l) =
        (if s.lostIn (localOf x.pa) x.n then s else s.addAcc n x).addAccs n l := rfl
    rw [hcons, h x List.mem_cons_self, if_neg Bool.false_ne_true, ih, List.foldl_cons]
    intro y hy
    rw [State.addAcc_eq]
    exact h y (List.mem_cons_of_mem x hy)

theorem State.vmAdd_int {s : State} {c : BitVec 12} {a : VMem} {x : VecAcc} (ha : a.at_.toNat ≤ 1)
    (hx : isHbm x.pa = false) : s.vmAdd c a x = (none,
      if s.lostIn (localOf x.pa) x.n then s else s.addAcc (if a.at_ = 0 then 4 else 8) x) := by
  have hadd (y z : Nat) : atAdd a.at_ y z = (((y + z) % 256 ^ (if a.at_ = 0 then 4 else 8), none), false) := by
    have h01 : a.at_ = 0 ∨ a.at_ = 1 := by bv_omega
    rcases h01 with h | h <;> (rw [h]; rfl)
  unfold State.vmAdd
  dsimp only
  split
  · rfl
  · rw [hx, if_neg Bool.false_ne_true, hadd]
    dsimp only
    rw [if_neg Bool.false_ne_true, ite_self]
    rfl

theorem State.vmAdds_int {c : BitVec 12} {a : VMem} (ha : a.at_.toNat ≤ 1) (l : List VecAcc)
    (hl : ∀ x ∈ l, isHbm x.pa = false) (s : State) :
    s.vmAdds c a l = s.addAccs (if a.at_ = 0 then 4 else 8) l := by
  have hfold : ∀ (l : List VecAcc), (∀ x ∈ l, isHbm x.pa = false) → ∀ s : State,
      l.foldl (fun (r : Option (Nat × NanCause) × State) x =>
        let (cause, t) := r.2.vmAdd c a x
        (r.1.orElse fun _ => cause.map fun y => (x.elem, y), t)) (none, s) =
        (none, s.addAccs (if a.at_ = 0 then 4 else 8) l) := by
    intro l
    induction l with
    | nil => exact fun _ _ => rfl
    | cons x l ih =>
      intro h s
      rw [List.foldl_cons]
      dsimp only
      rw [State.vmAdd_int ha (h x List.mem_cons_self)]
      exact ih (fun y hy => h y (List.mem_cons_of_mem x hy)) _
  unfold State.vmAdds
  dsimp only
  rw [hfold l hl s]

/-! ### The forms -/

theorem vecLoad_of {mk : BitVec 12 → VMem → Instr} {op : Nat}
    (h : ∀ c a s, Sys2Proof.Machine.exec (mk c a) s = vmInstr c op a s) (hl : vmLoads op = true) :
    VecMemForm mk op fun a c s t =>
      Moves c ({ s.carrel c with
        vstack := (s.vmEntries c op a).reverse ++ (s.carrel c).vstack.drop (vmUse op a).vPop }.after 4)
        (vmUse op a).dPop [] 0 [] s t := by
  intro a c s hlegal hr hf hok hown
  refine ⟨_, (h c a s).trans ((vmInstr_own hlegal hr hf hok hown).trans ?_),
    vmFinish_load hf (Carrel.wait_of_idle hr.1) hl⟩
  rw [hl, if_pos rfl]

theorem vecStore_of {mk : BitVec 12 → VMem → Instr} {op : Nat}
    (h : ∀ c a s, Sys2Proof.Machine.exec (mk c a) s = vmInstr c op a s) (hl : vmLoads op = false) (h6 : op ≠ 6) :
    VecMemForm mk op fun a c s t =>
      DataStack c (vmUse op a).dPop [] (slotWritten c (s.vmAccs c op a)) s t ∧
      RetStack c 0 [] (slotWritten c (s.vmAccs c op a)) s t ∧
      t = { s with mem := t.mem, carrels := t.carrels, lost := t.lost } ∧ (∀ x ∈ t.lost, x ∈ s.lost) ∧
      (∀ d, d ≠ c → t.carrel d = s.carrel d) ∧
      CarrelIs c ({ s.carrel c with vstack := (s.carrel c).vstack.drop (vmUse op a).vPop }.after 4) t ∧
      BanksKept c true false s t ∧
      ((∀ x ∈ s.vmAccs c op a, s.lostPart (localOf x.pa) x.n = false) →
        ∀ b, t.byte b = ((s.vmAccs c op a).foldl (fun u x => u.setBytes (localOf x.pa) x.bytes) s).byte b) ∧
      ∀ b, (¬ ∃ x ∈ s.vmAccs c op a, x.writes b) → t.byte b = s.byte b := by
  intro a c s hlegal hr hf hok hown
  obtain ⟨hu, hk, he⟩ := State.storeAccs_spec (s.vmAccs c op a) s
  obtain ⟨h1, h2, h3, h4, h5, h6', h7, hb⟩ := vmFinish_stored hf (Carrel.wait_of_idle hr.1) hl hu hk
  refine ⟨_, (h c a s).trans ((vmInstr_own hlegal hr hf hok hown).trans ?_), h1, h2, h3, h4, h5, h6', h7,
    fun hn b => (hb b).trans (he hn b), fun b hn => (hb b).trans (hk b fun x hx hxb => hn ⟨x, hx, hxb⟩)⟩
  rw [hl, if_neg Bool.false_ne_true]
  unfold State.vmWrites
  rw [if_neg h6]
  rfl

/-- Settles O18: where all is the carrel's own, the checks passed leave only the fold of the accesses and the pops. -/
theorem vectorMemory : Obligations.VectorMemory := by
  unfold Obligations.VectorMemory
  refine ⟨?_, ?_, fun a c s hlegal ha hr hf hok hown => ?_⟩
  · exact ⟨vecLoad_of (fun _ _ _ => rfl) rfl, vecLoad_of (fun _ _ _ => rfl) rfl, vecLoad_of (fun _ _ _ => rfl) rfl,
      vecLoad_of (fun _ _ _ => rfl) rfl, vecLoad_of (fun _ _ _ => rfl) rfl, vecLoad_of (fun _ _ _ => rfl) rfl⟩
  · exact ⟨vecStore_of (fun _ _ _ => rfl) rfl (by decide), vecStore_of (fun _ _ _ => rfl) rfl (by decide),
      vecStore_of (fun _ _ _ => rfl) rfl (by decide), vecStore_of (fun _ _ _ => rfl) rfl (by decide),
      vecStore_of (fun _ _ _ => rfl) rfl (by decide), vecStore_of (fun _ _ _ => rfl) rfl (by decide)⟩
  · intro n
    have hw := Carrel.wait_of_idle hr.1
    have hadds := State.vmAdds_int (c := c) ha (s.vmAccs c 0x06 a) (fun x hx => isHbm_of_ownMem (hown x hx)) s
    have heq := s.addAccs_eq n (s.vmAccs c 0x06 a)
    have hcar (d : BitVec 12) : (s.addAccs n (s.vmAccs c 0x06 a)).carrel d = s.carrel d := by rw [heq]; rfl
    have hm := vmFinish_store (op := 0x06) (hf.of_carrel_eq (hcar c)) (by rw [hcar]; exact hw) rfl
    obtain ⟨_, _, ⟨o1, o2⟩, hc, _, _⟩ := hm.data.moves
    rw [hcar] at hc
    refine ⟨_, (vmInstr_own hlegal hr hf hok hown).trans ?_, ⟨?_, fun d hd => (o2 d hd).trans (hcar d)⟩, hc,
      fun hn b => ?_⟩
    · rw [show vmLoads 0x06 = false from rfl, if_neg Bool.false_ne_true]
      unfold State.vmWrites
      rw [if_pos rfl, hadds]
    · exact o1.trans (congrArg (fun v : State => { v with
        mem := ((s.addAccs n (s.vmAccs c 0x06 a)).vmFinish c 0x06 a []).mem
        carrels := ((s.addAccs n (s.vmAccs c 0x06 a)).vmFinish c 0x06 a []).carrels }) heq)
    · rw [hm.byte b, State.addAccs_of_kept n _ s hn]
      rfl

end Sys2Proof.Machine
end

section
/-!
# Issuing descriptors and waiting for them
-/
namespace Sys2Proof.Machine

/-! ### A carrel replaced beside its stacks -/

theorem keepsBanks_const (k : Carrel) : KeepsBanks fun j => k.banksOf j := fun _ _ => rfl

/-- The carrel replaced by one with the same banks, after the moves of the stacks. -/
theorem Moves.set {c : BitVec 12} {base k : Carrel} {dPop rPop : Nat} {dOut rOut : List Word} {s t : State}
    (hk : k = k.banksOf (t.carrel c)) (h : Moves c base dPop dOut rPop rOut s t) :
    Moves c k dPop dOut rPop rOut s (t.setCarrel c k) := by
  have hm := Moves.mod (keepsBanks_const k) h
  have he : t.modCarrel c (fun j => k.banksOf j) = t.setCarrel c k := by
    exact congrArg (t.setCarrel c) hk.symm
  rw [he] at hm
  exact hm

/-- The carrel replaced by one with the same banks in use. -/
theorem SameStacks.set (s : State) {c : BitVec 12} {k : Carrel} (hb : ∀ id, k.bank id = (s.carrel c).bank id)
    (hd : k.dataBank = (s.carrel c).dataBank) (hr : k.retBank = (s.carrel c).retBank) :
    SameStacks c s (s.setCarrel c k) :=
  SameStacks.mod s c (f := fun _ => k) ⟨hb, hd, hr⟩

/-! ### Issue -/

theorem Carrel.issueList_bank (k : Carrel) (q : Nat) (l : List (List Byte)) (n : Nat) (p : Option Word) (id : BankId) :
    (k.issueList q l n p).bank id = k.bank id := by cases id <;> rfl

/-- An issue whose queue has room for all. -/
theorem issueSome_all {s : State} {c : BitVec 12} {q n pops : Nat} {param : Option Word}
    (hf : Fits s c { dPop := pops }) (hw : (s.carrel c).wait = .none) (hn : n ≠ 0)
    (hroom : n ≤ 16 - (Tab.get [] (s.carrel c).queue (engineOf q)).length) :
    Moves c (((s.carrel c).issueList q (s.phaseList c q) n param).after 4) pops [] 0 [] s
      (s.issueSome c q n pops param) := by
  have hmin : min n (16 - ((s.carrel c).unfinished (engineOf q)).length) = n := Nat.min_eq_left hroom
  have hk : ({ (s.carrel c).issueList q (s.phaseList c q) n param with wait := .none } : Carrel) =
      (s.carrel c).issueList q (s.phaseList c q) n param := by
    rw [← hw]
    rfl
  have hsame : SameStacks c s (s.setCarrel c ((s.carrel c).issueList q (s.phaseList c q) n param)) :=
    SameStacks.set s (Carrel.issueList_bank _ _ _ _ _) rfl rfl
  have hm := ((hsame.fits (by rw [State.carrel_setCarrel_same]; rfl) hf).moves [] rfl).retire 4
  rw [State.carrel_setCarrel_same] at hm
  unfold State.issueSome
  dsimp only
  rw [hmin, if_neg hn, if_pos rfl, hk]
  exact hm.of_same hsame

/-- An issue whose queue has room for some at most: the rest wait. -/
theorem issueSome_some {s : State} {c : BitVec 12} {q n pops : Nat} {param : Option Word} {room : Nat}
    (he : 16 - (Tab.get [] (s.carrel c).queue (engineOf q)).length = room) (hroom : room < n) :
    Moves c { (if room = 0 then s.carrel c else (s.carrel c).issueList q (s.phaseList c q) room param) with
        wait := .issue q (n - room) pops (if room = 0 then param else none) } 0 [] 0 [] s
      (s.issueSome c q n pops param) := by
  have hmin : min n (16 - ((s.carrel c).unfinished (engineOf q)).length) = room := by
    change min n (16 - (Tab.get [] (s.carrel c).queue (engineOf q)).length) = room
    omega
  unfold State.issueSome
  dsimp only
  rw [hmin, if_neg (show ¬ room = n by omega)]
  refine Moves.set ?_ (moves_none s c)
  split <;> rfl

theorem issueForm_exec {s : State} {c : BitVec 12} {q : Nat} {n : BitVec 4} {p : Bool} (hr : Ready s c 4)
    (hf : Fits s c { dPop := b2n p }) :
    issueForm c q n p s = .next (s.finish c 4
      (match s.issueCheck c q (n.toNat + 1) (if p then some (s.peekD c 0) else none) with
        | some x => .exc (planOrder x)
        | none => .jump (s.issueSome c q (n.toNat + 1) (b2n p) (if p then some (s.peekD c 0) else none)))) := by
  unfold issueForm
  dsimp only
  rw [runInstr_ready _ hr, withStacks_fits _ hf] <;> rfl

theorem issueCheck_past {s : State} {c : BitVec 12} {q n : Nat} (param : Option Word)
    (h : (s.phaseList c q).length < Tab.get 0 (s.carrel c).next q + n) : s.issueCheck c q n param = some 1 := by
  unfold State.issueCheck
  dsimp only
  rw [if_pos h]

/-! ### Waits -/

theorem waitForm_goes {s : State} {c : BitVec 12} {eng : Nat} (hr : Ready s c 4) (hf : Fits s c { dPop := 1 })
    (h : (Tab.get [] (s.carrel c).queue eng).length ≤ (s.peekD c 0).toNat) :
    ∃ t, waitForm c eng s = .next t ∧ Moves c ((s.carrel c).after 4) 1 [] 0 [] s t := by
  have hm := (hf.moves [] rfl).retire 4
  unfold waitForm
  rw [runInstr_ready _ hr, withStacks_fits _ hf]
  refine ⟨_, congrArg (fun r => Host.Outcome.next (s.finish c 4 r)) (if_pos h), hm⟩

theorem waitForm_holds {s : State} {c : BitVec 12} {eng : Nat} (hr : Ready s c 4) (hf : Fits s c { dPop := 1 })
    (h : (s.peekD c 0).toNat < (Tab.get [] (s.carrel c).queue eng).length) :
    ∃ t, waitForm c eng s = .next t ∧
      Moves c { s.carrel c with wait := .qwait eng (s.peekD c 0) } 0 [] 0 [] s t := by
  have hm := (moves_none s c).mod (f := fun k => { k with wait := .qwait eng (s.peekD c 0) }) fun _ _ => rfl
  unfold waitForm
  rw [runInstr_ready _ hr, withStacks_fits _ hf]
  refine ⟨_, congrArg (fun r => Host.Outcome.next (s.finish c 4 r)) (if_neg (Nat.not_le.mpr h)), hm⟩

theorem execMrdF_goes {s : State} {c : BitVec 12} (hr : Ready s c 4) (hf : Fits s c { dPop := 1, dPush := 1 })
    (h : Tab.get [] (s.carrel c).queue 0 = []) :
    ∃ t, execMrdF c s = .next t ∧
      Moves c ((s.carrel c).after 4) 1 [Tab.get 0 (s.carrel c).tiles ((s.peekD c 0).toNat % 64)] 0 [] s t := by
  have hm := (hf.moves [Tab.get 0 (s.carrel c).tiles ((s.peekD c 0).toNat % 64)] rfl).retire 4
  have hempty : ((s.carrel c).unfinished 0).isEmpty = true := List.isEmpty_iff.mpr h
  unfold execMrdF
  rw [runInstr_ready _ hr, withStacks_fits _ hf]
  refine ⟨_, congrArg (fun r => Host.Outcome.next (s.finish c 4 r)) (if_pos hempty), hm⟩

theorem execMrdF_holds {s : State} {c : BitVec 12} (hr : Ready s c 4) (hf : Fits s c { dPop := 1, dPush := 1 })
    (h : Tab.get [] (s.carrel c).queue 0 ≠ []) :
    ∃ t, execMrdF c s = .next t ∧ Moves c { s.carrel c with wait := .mrdf (s.peekD c 0) } 0 [] 0 [] s t := by
  have hm := (moves_none s c).mod (f := fun k => { k with wait := .mrdf (s.peekD c 0) }) fun _ _ => rfl
  have hempty : ¬ ((s.carrel c).unfinished 0).isEmpty = true := fun he => h (List.isEmpty_iff.mp he)
  unfold execMrdF
  rw [runInstr_ready _ hr, withStacks_fits _ hf]
  refine ⟨_, congrArg (fun r => Host.Outcome.next (s.finish c 4 r)) (if_neg hempty), hm⟩

/-- Settles O19: an issue enters what the queue has room for; with room for all it goes on, otherwise it waits. -/
theorem descriptorIssue : Obligations.DescriptorIssue := by
  unfold Obligations.DescriptorIssue
  refine ⟨?_, ?_⟩
  · intro issue
    have hissue (q : Nat) (mk : BitVec 12 → BitVec 4 → Bool → Instr)
        (h : ∀ c n p s, Sys2Proof.Machine.exec (mk c n p) s = issueForm c q n p s) : issue mk q := by
      intro n p eng word? room pops issued
      refine ⟨fun c s hr hf ⟨hok, hroom⟩ => ?_, fun c s hr ⟨hf, hok, hroom⟩ => ?_, fun c s hr hf hpast => ?_⟩
      · refine ⟨_, (h c n p s).trans ((issueForm_exec hr hf).trans ?_),
          issueSome_all hf (Carrel.wait_of_idle hr.1) (Nat.succ_ne_zero _) hroom⟩
        change Host.Outcome.next (s.finish c 4 (match s.issueCheck c q (n.toNat + 1) (word? c s) with
          | some x => .exc (planOrder x)
          | none => _)) = _
        rw [hok]
        rfl
      · refine ⟨_, (h c n p s).trans ((issueForm_exec hr hf).trans ?_), issueSome_some rfl hroom⟩
        change Host.Outcome.next (s.finish c 4 (match s.issueCheck c q (n.toNat + 1) (word? c s) with
          | some x => .exc (planOrder x)
          | none => _)) = _
        rw [hok]
        rfl
      · refine (h c n p s).trans ((issueForm_exec hr hf).trans ?_)
        rw [issueCheck_past _ (by rwa [← Nat.add_assoc])]
        rfl
    exact ⟨hissue 0 .mld fun _ _ _ _ => rfl, hissue 1 .mstr fun _ _ _ _ => rfl, hissue 2 .mrd fun _ _ _ _ => rfl,
      hissue 3 .mclr fun _ _ _ _ => rfl, hissue 4 .edq fun _ _ _ _ => rfl, hissue 5 .rwq fun _ _ _ _ => rfl,
      fun ch => hissue _ (.dmq · ch) fun _ _ _ _ => rfl⟩
  · intro waits
    have hwaits (eng : Nat) (mk : BitVec 12 → Instr)
        (h : ∀ c s, Sys2Proof.Machine.exec (mk c) s = waitForm c eng s) : waits mk eng := by
      refine ⟨fun c s hr hf hle => ?_, fun c s hr ⟨hf, hlt⟩ => ?_⟩
      · obtain ⟨t, ht, hm⟩ := waitForm_goes hr hf hle
        exact ⟨t, (h c s).trans ht, hm⟩
      · obtain ⟨t, ht, hm⟩ := waitForm_holds hr hf hlt
        exact ⟨t, (h c s).trans ht, hm⟩
    exact ⟨hwaits 0 .mwait fun _ _ => rfl, hwaits 4 .qwaitE fun _ _ => rfl, hwaits 5 .qwaitR fun _ _ => rfl,
      fun ch => hwaits _ (.qwaitD · ch) fun _ _ => rfl, fun _ _ hr hf he => execMrdF_goes hr hf he,
      fun _ _ hr ⟨hf, he⟩ => execMrdF_holds hr hf he⟩

end Sys2Proof.Machine
end

section
/-!
# Phases and barriers
-/
namespace Sys2Proof.Machine

/-! ### The watchdog at the end of a phase -/

theorem watchdog_sample_eq (w : Watchdog) (free : Nat) :
    w.sample free = { w with count := (w.sample free).count } := by
  unfold Watchdog.sample
  split <;> rfl

theorem watchdog_sample_count (w : Watchdog) (free : Nat) :
    w.count.toNat ≤ (w.sample free).count.toNat ∧ (w.run = false → (w.sample free).count = w.count) ∧
      (w.sample free).count.toNat ≤ max w.budget.toNat w.count.toNat := by
  unfold Watchdog.sample
  by_cases h : w.run = true
  · rw [if_pos h]
    have hb := w.budget.isLt
    have hc := w.count.isLt
    have hn : (BitVec.ofNat 32 (Nat.min (w.count.toNat + free) (Nat.max w.budget.toNat w.count.toNat))).toNat =
        min (w.count.toNat + free) (max w.budget.toNat w.count.toNat) := by
      rw [BitVec.toNat_ofNat]
      exact Nat.mod_eq_of_lt (Nat.lt_of_le_of_lt (Nat.min_le_right _ _) (Nat.max_lt.mpr ⟨hb, hc⟩))
    dsimp only
    rw [hn]
    refine ⟨by omega, fun hr => ?_, by omega⟩
    rw [h] at hr
    cases hr
  · rw [if_neg h]
    exact ⟨Nat.le_refl _, fun _ => rfl, Nat.le_max_right _ _⟩

theorem watchdog_endPhase_stopped (w : Watchdog) (free : Nat) :
    let x := w.endPhase free
    x = { w with run := false, count := x.count, max := x.max } ∧
      x.max.toNat = max w.max.toNat x.count.toNat ∧ w.count.toNat ≤ x.count.toNat ∧
      (w.run = false → x.count = w.count) ∧ x.count.toNat ≤ max w.budget.toNat w.count.toNat := by
  obtain ⟨h1, h2, h3⟩ := watchdog_sample_count w free
  have hs := watchdog_sample_eq w free
  unfold Watchdog.endPhase
  dsimp only
  generalize (w.sample free) = v at *
  refine ⟨by rw [hs], ?_, h1, h2, h3⟩
  rw [show v.max = w.max by rw [hs]]
  by_cases h : w.max < v.count
  · rw [if_pos h]
    exact (Nat.max_eq_right (Nat.le_of_lt h)).symm
  · rw [if_neg h]
    exact (Nat.max_eq_left (Nat.not_lt.mp h)).symm

/-! ### Waiting at BAR and WTICK -/

theorem Carrel.noWork_of_empty {k : Carrel} (h : ∀ q l, (q, l) ∈ k.queue → l = []) : k.noWork = true := by
  unfold Carrel.noWork
  rw [List.all_eq_true]
  intro ⟨q, l⟩ hx
  rw [h q l hx]
  rfl

/-- Draining an empty buffer changes nothing of the carrel. -/
theorem State.drainAll_empty {s : State} {c : BitVec 12} (h : (s.carrel c).mb = []) :
    s.drainAll c = s.modCarrel c fun k => { k with mb := [] } := by
  have hq : issueFirst (s.carrel c).mb.length (s.carrel c).mb = [] := by rw [h]; rfl
  have := State.issue_quiet (s := s) (c := c) (f := fun mb => issueFirst mb.length mb) (by
    rw [hq, h]
    rfl)
  rw [hq] at this
  exact this


/-- The state of a carrel that waits at BAR or WTICK with nothing to finish. -/
theorem State.barWait {s : State} {c : BitVec 12} {w : Wait} (hmb : (s.carrel c).mb = []) :
    ((s.drainAll c).modCarrel c fun k => { k with wait := w }).carrel c = { s.carrel c with wait := w } := by
  rw [State.drainAll_empty hmb, State.carrel_modCarrel_same, State.carrel_modCarrel_same]
  dsimp only
  rw [← hmb]

theorem State.barWait_spec {s : State} {c : BitVec 12} (w : Wait) (hmb : (s.carrel c).mb = []) :
    let u := (s.drainAll c).modCarrel c fun k => { k with wait := w }
    u = { s with carrels := u.carrels } ∧ u.carrel c = { s.carrel c with wait := w } ∧
      ∀ d, d ≠ c → u.carrel d = s.carrel d := by
  refine ⟨?_, State.barWait hmb, fun d hd => ?_⟩
  · rw [State.drainAll_empty hmb]
    rfl
  · rw [State.drainAll_empty hmb, State.carrel_modCarrel_other _ _ hd, State.carrel_modCarrel_other _ _ hd]

theorem settleBar_bar {s : State} {c : BitVec 12} (h : (s.carrel c).noWork = true) (hmb : (s.carrel c).mb = [])
    (hw : (s.carrel c).wait = .bar) : s.settleBar c = s.joinBarrier c := by
  unfold State.settleBar
  dsimp only
  rw [h, hmb, hw]
  rfl

theorem settleBar_wtick {s : State} {c : BitVec 12} (h : (s.carrel c).noWork = true) (hmb : (s.carrel c).mb = [])
    (hw : (s.carrel c).wait = .wtick) : s.settleBar c = s.endProgram c := by
  unfold State.settleBar
  dsimp only
  rw [h, hmb, hw]
  rfl

theorem State.planOf_eq {s : State} {c : BitVec 12} {i : Nat} {p : Plan} (h : s.planOf c = some (i, p)) :
    s.plan i = some p := by
  unfold State.planOf at h
  obtain ⟨j, _, hj⟩ := Option.bind_eq_some_iff.mp h
  obtain ⟨q, hq, he⟩ := Option.map_eq_some_iff.mp hj
  cases he
  exact hq

theorem State.planOf_congr {s t : State} {c : BitVec 12} (hp : t.plans = s.plans)
    (hk : (t.carrel c).plan = (s.carrel c).plan) : t.planOf c = s.planOf c := by
  unfold State.planOf State.plan
  rw [hp, hk]

/-! ### BAR -/

theorem joinBarrier_spec {s : State} {c : BitVec 12} {i : Nat} {p : Plan} (h : s.planOf c = some (i, p)) :
    let t := s.joinBarrier c
    t = { s with plans := t.plans, carrels := t.carrels, fresh := s.fresh + 1 } ∧
      t.plan i = some { p with joined := p.joined ++ [c.toNat] } ∧ (∀ j, j ≠ i → t.plan j = s.plan j) ∧
      t.carrel c = { s.carrel c with wait := .joined, wd := (s.carrel c).wd.endPhase (Config.cycles s.fresh) } ∧
      ∀ d, d ≠ c → t.carrel d = s.carrel d := by
  intro t
  have hplan (j : Nat) : t.plan j = (s.modPlan i fun p => { p with joined := p.joined ++ [c.toNat] }).plan j := by
    unfold t State.joinBarrier
    rw [h]
    rfl
  have hcar (d : BitVec 12) : t.carrel d =
      ((s.modPlan i fun p => { p with joined := p.joined ++ [c.toNat] }).modCarrel c
      fun k => { k with wait := .joined, wd := k.wd.endPhase (Config.cycles s.fresh) }).carrel d := by
    unfold t State.joinBarrier
    rw [h]
    rfl
  have hmod (j : Nat) := s.plan_modPlan j i (f := fun p => { p with joined := p.joined ++ [c.toNat] }) fun _ => rfl
  refine ⟨?_, ?_, fun j hj => ?_, ?_, fun d hd => ?_⟩
  · unfold t State.joinBarrier
    rw [h]
    rfl
  · rw [hplan, hmod, State.planOf_eq h, Option.map_some, if_pos rfl]
  · rw [hplan, hmod]
    cases s.plan j with
    | none => rfl
    | some q => rw [Option.map_some, if_neg (Ne.symm hj)]
  · rw [hcar, State.carrel_modCarrel_same]
    rfl
  · rw [hcar]
    exact State.carrel_modCarrel_other _ _ hd

theorem execBar_joins {s : State} {c : BitVec 12} {i : Nat} {p : Plan} (hr : Ready s c 4)
    (hp : s.planOf c = some (i, p)) (hph : (s.carrel c).wd.phase.toNat + 1 < p.phasesNow)
    (hwork : (s.carrel c).noWork = true) (hmb : (s.carrel c).mb = []) :
    execBar c s = .next (((s.drainAll c).modCarrel c fun k => { k with wait := .bar }).joinBarrier c) := by
  have hk := State.barWait (w := .bar) hmb
  have hs := settleBar_bar (s := (s.drainAll c).modCarrel c fun k => { k with wait := .bar }) (c := c)
    (by rw [hk]; exact hwork) (by rw [hk]; exact hmb) (by rw [hk])
  unfold execBar
  rw [runInstr_ready _ hr]
  dsimp only
  rw [hp]
  dsimp only
  rw [if_neg (Nat.not_le.mpr hph), hs]
  rfl

theorem execBar_planOrder {s : State} {c : BitVec 12} (hr : Ready s c 4)
    (h : ∀ i p, s.planOf c = some (i, p) → p.phasesNow ≤ (s.carrel c).wd.phase.toNat + 1) :
    execBar c s = .next (s.fault c { code := 0x07, detail := 4 }) := by
  unfold execBar
  rw [runInstr_ready _ hr]
  dsimp only
  cases hp : s.planOf c with
  | none => rfl
  | some x =>
    dsimp only
    rw [if_pos (h x.1 x.2 hp)]
    rfl

/-! ### WTICK -/

/-- Whether a carrel's held event belongs to the phase that ends. -/
def Carrel.nanDue (k : Carrel) (s : State) : Bool :=
  k.nan.valid && decide (k.nan.ev.phase = k.wd.phase ∧ k.nan.ev.wtn = s.tickWtn)

/-- A carrel's record once the phase has ended. -/
def Carrel.nanSettled (k : Carrel) (s : State) : NanRec := if k.nanDue s then { k.nan with settled := true } else k.nan

/-- What the end of a phase does with the event that a carrel holds. -/
theorem nanSettle_spec (s : State) (c : BitVec 12) :
    let t := s.nanSettle c
    let k := s.carrel c
    t = { s with
      carrels := t.carrels
      census := { s.census with
        nan := if k.nanDue s && !k.nan.settled then s.census.nan.take c k.ctx k.nan.ev else s.census.nan } } ∧
      t.carrel c = { k with nan := k.nanSettled s } ∧ ∀ d, d ≠ c → t.carrel d = s.carrel d := by
  intro t k
  have hcond : (k.nan.valid && !k.nan.settled && decide (k.nan.ev.phase = k.wd.phase) &&
      decide (k.nan.ev.wtn = s.tickWtn)) = (k.nanDue s && !k.nan.settled) := by
    unfold Carrel.nanDue
    rw [Bool.decide_and]
    cases k.nan.valid <;> cases k.nan.settled <;> simp
  have ht : t = if k.nanDue s && !k.nan.settled then
      { s.setCarrel c { k with nan := { k.nan with settled := true } } with
        census := { s.census with nan := s.census.nan.take c k.ctx k.nan.ev } } else s := by
    rw [← hcond]
    rfl
  by_cases h : (k.nanDue s && !k.nan.settled) = true
  · rw [if_pos h] at ht
    have hdue : k.nanDue s = true := (Bool.and_eq_true _ _ ▸ h).1
    unfold Carrel.nanSettled
    rw [if_pos h, if_pos hdue, ht]
    exact ⟨rfl, State.carrel_setCarrel_same _ _ _, fun d hd => State.carrel_setCarrel_other _ _ hd⟩
  · rw [if_neg h] at ht
    rw [if_neg h, ht]
    refine ⟨rfl, ?_, fun _ _ => rfl⟩
    unfold Carrel.nanSettled
    by_cases hdue : k.nanDue s = true
    · have hset : k.nan.settled = true := by
        rw [hdue, Bool.true_and] at h
        simpa using h
      rw [if_pos hdue, ← hset]
    · rw [if_neg hdue]

theorem State.idleNs_snd (s : State) (n : Nat) : (s.idleNs n).2 = { s with fresh := s.fresh + 1 } := by
  unfold State.idleNs State.draw
  dsimp only
  split
  · rfl
  · split <;> rfl

/-- The idle time depends on the plans, the tick and the draw alone. -/
theorem State.idleNs_congr {s t : State} (n : Nat) (hp : t.plans = s.plans) (ht : t.tick = s.tick)
    (hf : t.fresh = s.fresh) : (t.idleNs n).1 = (s.idleNs n).1 := by
  unfold State.idleNs State.draw State.usedIn
  dsimp only
  rw [hp, ht, hf, apply_ite Prod.fst, apply_ite Prod.fst]
  congr 1
  generalize List.find? _ _ = o
  cases o <;> rfl

/-- The carrel at rest, its event not yet settled. -/
def State.rested (s : State) (c : BitVec 12) : Carrel :=
  { s.carrel c with
    wait := .rest, ended := true, wd := (s.carrel c).wd.endPhase (Config.cycles s.fresh)
    power := restPower ({ s with fresh := s.fresh + 1 }.idleNs c.toNat).1 }

theorem State.endProgram_eq (s : State) (c : BitVec 12) :
    ∃ u : State, s.endProgram c = u.nanSettle c ∧ u = { s with carrels := u.carrels, fresh := s.fresh + 2 } ∧
      u.carrel c = s.rested c ∧ ∀ d, d ≠ c → u.carrel d = s.carrel d := by
  let u1 := s.modCarrel c fun k => { k with wait := .rest, ended := true, wd := k.wd.endPhase (Config.cycles s.fresh) }
  let u2 : State := { u1 with fresh := u1.fresh + 1 }
  have hidle : (u2.idleNs c.toNat).1 = ({ s with fresh := s.fresh + 1 }.idleNs c.toNat).1 :=
    State.idleNs_congr _ rfl rfl rfl
  have hcar (d : BitVec 12) : (u2.idleNs c.toNat).2.carrel d = u1.carrel d := by
    rw [State.idleNs_snd]
    rfl
  refine ⟨(u2.idleNs c.toNat).2.modCarrel c fun k => { k with power := restPower (u2.idleNs c.toNat).1 }, rfl, ?_, ?_,
    fun d hd => ?_⟩
  · rw [State.idleNs_snd]
    rfl
  · rw [State.carrel_modCarrel_same, hcar, hidle]
    unfold u1
    rw [State.carrel_modCarrel_same]
    rfl
  · rw [State.carrel_modCarrel_other _ _ hd, hcar]
    exact State.carrel_modCarrel_other _ _ hd

theorem endProgram_spec (s : State) (c : BitVec 12) :
    let t := s.endProgram c
    let k := s.carrel c
    t = { s with
      carrels := t.carrels, fresh := s.fresh + 2
      census := { s.census with
        nan := if k.nanDue s && !k.nan.settled then s.census.nan.take c k.ctx k.nan.ev else s.census.nan } } ∧
      t.carrel c = { s.rested c with nan := k.nanSettled s } ∧ ∀ d, d ≠ c → t.carrel d = s.carrel d := by
  obtain ⟨u, ht, hu, huc, huo⟩ := State.endProgram_eq s c
  obtain ⟨h1, h2, h3⟩ := nanSettle_spec u c
  have hphase : (s.rested c).wd.phase = (s.carrel c).wd.phase := by
    obtain ⟨hwd, _⟩ := watchdog_endPhase_stopped (s.carrel c).wd (Config.cycles s.fresh)
    change ((s.carrel c).wd.endPhase (Config.cycles s.fresh)).phase = _
    rw [hwd]
  have hdue : (s.rested c).nanDue u = (s.carrel c).nanDue s := by
    unfold Carrel.nanDue State.tickWtn
    rw [hphase, hu]
    rfl
  rw [huc] at h1 h2
  have hset : (s.rested c).nanSettled u = (s.carrel c).nanSettled s := by
    unfold Carrel.nanSettled
    rw [hdue]
    rfl
  rw [hset] at h2
  rw [hdue] at h1
  dsimp only
  rw [ht]
  refine ⟨h1.trans ?_, h2, fun d hd => (h3 d hd).trans (huo d hd)⟩
  rw [hu]
  rfl

theorem execWtick_ends {s : State} {c : BitVec 12} (hr : Ready s c 4)
    (hearly : (s.carrel c).overrun = true ∨
      ∀ i p, s.planOf c = some (i, p) → p.phasesNow ≤ (s.carrel c).wd.phase.toNat + 1)
    (hwork : (s.carrel c).noWork = true) (hmb : (s.carrel c).mb = []) :
    execWtick c s = .next (((s.drainAll c).modCarrel c fun k => { k with wait := .wtick }).endProgram c) := by
  have hk := State.barWait (w := .wtick) hmb
  have hs := settleBar_wtick (s := (s.drainAll c).modCarrel c fun k => { k with wait := .wtick }) (c := c)
    (by rw [hk]; exact hwork) (by rw [hk]; exact hmb) (by rw [hk])
  unfold execWtick
  rw [runInstr_ready _ hr]
  dsimp only
  rw [hs, if_neg]
  · rfl
  · rw [Bool.and_eq_true, Bool.not_eq_true']
    intro ⟨he, ho⟩
    rcases hearly with h | h
    · rw [h] at ho
      cases ho
    · cases hp : s.planOf c with
      | none => rw [hp] at he; cases he
      | some x =>
        rw [hp] at he
        exact absurd (of_decide_eq_true he) (Nat.not_lt.mpr (h x.1 x.2 hp))

theorem execWtick_planOrder {s : State} {c : BitVec 12} {i : Nat} {p : Plan} (hr : Ready s c 4)
    (hp : s.planOf c = some (i, p)) (hph : (s.carrel c).wd.phase.toNat + 1 < p.phasesNow)
    (ho : (s.carrel c).overrun = false) :
    execWtick c s = .next (s.fault c { code := 0x07, detail := 5 }) := by
  unfold execWtick
  rw [runInstr_ready _ hr]
  dsimp only
  rw [hp]
  dsimp only
  rw [ho, if_pos (by rw [decide_eq_true hph]; rfl)]
  rfl

/-! ### The release of a barrier -/

/-- What the release of a barrier does to one carrel of the set. -/
def State.releaseOne (slot : Nat) (p : Plan) (s : State) (c : Nat) : State :=
  let cc := BitVec.ofNat 12 c
  let ph := (s.carrel cc).wd.phase.toNat + 1
  let s := s.nanSettle cc
  let s := s.modCarrel cc fun k => { (k.startPhase p c ph) with wait := .none }
  let s := s.modPlan slot fun p => if p.img.set.head? = some c then { p with links := p.links ++ p.linksOf ph } else p
  s.retire cc 4

/-- A carrel of the set after the release. -/
def Carrel.released (k : Carrel) (p : Plan) (c : Nat) (s : State) : Carrel :=
  { (k.startPhase p c (k.wd.phase.toNat + 1)) with wait := .none, nan := k.nanSettled s }.after 4

/-- The carrels of `l` have been released, and nothing else has happened. -/
structure Released (slot : Nat) (p : Plan) (l : List Nat) (s t : State) : Prop where
  rest : t = { s with plans := t.plans, carrels := t.carrels, census := { s.census with nan := t.census.nan } }
  others : ∀ j, j ≠ slot → t.plan j = s.plan j
  plan : ∀ q, s.plan slot = some q → ∃ ls, t.plan slot = some { q with links := ls }
  kept : ∀ d : BitVec 12, d.toNat ∉ l → t.carrel d = s.carrel d
  carrel : ∀ d : BitVec 12, d.toNat ∈ l → t.carrel d = (s.carrel d).released p d.toNat s

theorem Released.nil (slot : Nat) (p : Plan) (s : State) : Released slot p [] s s :=
  ⟨rfl, fun _ _ => rfl, fun q h => ⟨q.links, h⟩, fun _ _ => rfl, fun _ h => absurd h (by simp)⟩

theorem releaseOne_released {slot : Nat} {p : Plan} {s : State} {c : Nat} (hc : c < 4096) :
    Released slot p [c] s (s.releaseOne slot p c) := by
  obtain ⟨h1, h2, h3⟩ := nanSettle_spec s (BitVec.ofNat 12 c)
  have hcc (d : BitVec 12) : d.toNat ∈ [c] ↔ d = BitVec.ofNat 12 c := by
    rw [List.mem_singleton]
    constructor
    · intro h
      rw [← h, BitVec.ofNat_toNat, BitVec.setWidth_eq]
    · intro h
      rw [h, BitVec.toNat_ofNat]
      exact Nat.mod_eq_of_lt hc
  generalize hu : s.nanSettle (BitVec.ofNat 12 c) = u at h1 h2 h3
  have hu1 : u = { s with carrels := u.carrels, census := { s.census with nan := u.census.nan } } := by rw [h1]
  generalize hph : (s.carrel (BitVec.ofNat 12 c)).wd.phase.toNat + 1 = ph
  let v := u.modCarrel (BitVec.ofNat 12 c) fun k => { (k.startPhase p c ph) with wait := .none }
  let f : Plan → Plan := fun p => if p.img.set.head? = some c then { p with links := p.links ++ p.linksOf ph } else p
  have ht : s.releaseOne slot p c = (v.modPlan slot f).modCarrel (BitVec.ofNat 12 c) (·.after 4) := by
    rw [← State.retire_eq]
    unfold State.releaseOne
    dsimp only
    rw [hu, hph]
  have hpres (q : Plan) : (f q).present = q.present := by
    unfold f
    split <;> rfl
  have hplan (j : Nat) : (s.releaseOne slot p c).plan j = (s.plan j).map fun q => if slot = j then f q else q := by
    rw [ht]
    change (v.modPlan slot f).plan j = _
    rw [v.plan_modPlan j slot hpres]
    change (u.plan j).map _ = _
    unfold State.plan
    rw [h1]
  refine ⟨?_, fun j hj => ?_, fun q hq => ?_, fun d hd => ?_, fun d hd => ?_⟩
  · rw [ht]
    exact congrArg (fun w : State => { w with
      plans := ((v.modPlan slot f).modCarrel (BitVec.ofNat 12 c) (·.after 4)).plans
      carrels := ((v.modPlan slot f).modCarrel (BitVec.ofNat 12 c) (·.after 4)).carrels }) hu1
  · rw [hplan]
    cases s.plan j with
    | none => rfl
    | some q => rw [Option.map_some, if_neg (Ne.symm hj)]
  · rw [hplan, hq, Option.map_some, if_pos rfl]
    unfold f
    split
    · exact ⟨_, rfl⟩
    · exact ⟨q.links, rfl⟩
  · have hne : d ≠ BitVec.ofNat 12 c := fun h => hd ((hcc d).mpr h)
    rw [ht, State.carrel_modCarrel_other _ _ hne]
    change v.carrel d = _
    exact (State.carrel_modCarrel_other _ _ hne).trans (h3 d hne)
  · have hdc := (hcc d).mp hd
    rw [List.mem_singleton] at hd
    rw [hd, hdc, ht, State.carrel_modCarrel_same]
    change (v.carrel (BitVec.ofNat 12 c)).after 4 = _
    unfold v Carrel.released
    rw [State.carrel_modCarrel_same, h2, hph]
    rfl

theorem Released.trans {slot : Nat} {p : Plan} {a b : List Nat} {s t u : State} (hab : ∀ c ∈ a, c ∉ b)
    (h : Released slot p a s t) (g : Released slot p b t u) : Released slot p (a ++ b) s u where
  rest := by
    have h1 := h.rest
    have h2 := g.rest
    exact h2.trans (congrArg (fun w : State => { w with
      plans := u.plans, carrels := u.carrels, census := { w.census with nan := u.census.nan } }) h1)
  others j hj := (g.others j hj).trans (h.others j hj)
  plan q hq := by
    obtain ⟨ls, hls⟩ := h.plan q hq
    obtain ⟨ls', hls'⟩ := g.plan _ hls
    exact ⟨ls', hls'⟩
  kept d hd := by
    rw [List.mem_append, not_or] at hd
    exact (g.kept d hd.2).trans (h.kept d hd.1)
  carrel d hd := by
    rw [List.mem_append] at hd
    have htw : t.tickWtn = s.tickWtn := congrArg (·.tickWtn) h.rest
    have hrel (k : Carrel) : k.released p d.toNat t = k.released p d.toNat s := by
      unfold Carrel.released Carrel.nanSettled Carrel.nanDue
      rw [htw]
    rcases hd with hd | hd
    · rw [g.kept d (hab d.toNat hd), h.carrel d hd]
    · rw [g.carrel d hd, h.kept d (fun ha => hab _ ha hd), hrel]

theorem foldl_releaseOne {slot : Nat} {p : Plan} (l : List Nat) (hl : l.Nodup) (hlt : ∀ c ∈ l, c < 4096) :
    ∀ s : State, Released slot p l s (l.foldl (fun s c => s.releaseOne slot p c) s) := by
  induction l with
  | nil => exact fun s => Released.nil slot p s
  | cons c l ih =>
    intro s
    rw [List.nodup_cons] at hl
    exact (releaseOne_released (hlt c List.mem_cons_self)).trans
      (fun x hx => by rw [List.mem_singleton.mp hx]; exact hl.1)
      (ih hl.2 (fun x hx => hlt x (List.mem_cons_of_mem c hx)) _)

theorem execBarrierRelease_go {slot : BitVec 8} {s : State} {p : Plan} (hp : s.plan slot.toNat = some p)
    (hrun : p.state = .running) (hall : ∀ c ∈ p.img.set, c ∈ p.joined) :
    execBarrierRelease slot s = .next (p.img.set.foldl (fun s c => s.releaseOne slot.toNat p c)
      (s.modPlan slot.toNat fun p => { p with joined := [], tokens := [] })) := by
  have hset : p.img.set.all (fun c => p.joined.contains c) = true :=
    List.all_eq_true.mpr fun c hc => List.contains_iff_mem.mpr (hall c hc)
  unfold execBarrierRelease
  rw [hp]
  dsimp only
  rw [if_pos ⟨hrun, hset⟩]
  rfl

theorem execBarrierRelease_stay {slot : BitVec 8} {s : State} {p : Plan} (hp : s.plan slot.toNat = some p)
    (hnot : ∃ c ∈ p.img.set, c ∉ p.joined) : execBarrierRelease slot s = .next s := by
  obtain ⟨c, hc, hj⟩ := hnot
  unfold execBarrierRelease
  rw [hp]
  dsimp only
  rw [if_neg]
  intro ⟨_, hall⟩
  exact hj (List.contains_iff_mem.mp (List.all_eq_true.mp hall c hc))

/-- Settles O20: each form ends in its one effect, and the release of a barrier is one such effect per carrel. -/
theorem phasesAndBarriers : Obligations.PhasesAndBarriers := by
  unfold Obligations.PhasesAndBarriers
  intro stopped due settled
  refine ⟨?_, fun c s hr h => execBar_planOrder hr h, ?_, fun c s i p hr hp hph ho => execWtick_planOrder hr hp hph ho,
    ?_, fun slot s p hp hnot => execBarrierRelease_stay hp hnot⟩
  · intro c s i p hr hp hph hq hmb
    obtain ⟨hu, hk, huo⟩ := State.barWait_spec .bar hmb
    have hexec := execBar_joins hr hp hph (Carrel.noWork_of_empty hq) hmb
    generalize (s.drainAll c).modCarrel c (fun k => { k with wait := .bar }) = u at hk hexec hu huo
    obtain ⟨h1, h2, h3, h4, h5⟩ := joinBarrier_spec
      ((State.planOf_congr (s := s) (t := u) (by rw [hu]) (by rw [hk])).trans hp)
    rw [hk] at h4
    have hplan (j : Nat) : u.plan j = s.plan j := by rw [hu]; rfl
    have hfresh : u.fresh = s.fresh := by rw [hu]
    refine ⟨_, hexec, ?_, h2, fun j hj => (h3 j hj).trans (hplan j), ?_, ?_, fun d hd => (h5 d hd).trans (huo d hd)⟩
    · rw [hfresh] at h1
      exact h1.trans (congrArg (fun w : State => { w with
        plans := (u.joinBarrier c).plans, carrels := (u.joinBarrier c).carrels, fresh := s.fresh + 1 }) hu)
    · rw [h4]
    · rw [h4]
      exact watchdog_endPhase_stopped (s.carrel c).wd (Config.cycles u.fresh)
  · intro c s hr hearly hq hmb
    obtain ⟨hu, hk, huo⟩ := State.barWait_spec .wtick hmb
    have hexec := execWtick_ends hr hearly (Carrel.noWork_of_empty hq) hmb
    generalize (s.drainAll c).modCarrel c (fun k => { k with wait := .wtick }) = u at hk hexec hu huo
    obtain ⟨h1, h2, h3⟩ := endProgram_spec u c
    have hfresh : u.fresh = s.fresh := by rw [hu]
    have hcensus : u.census = s.census := by rw [hu]
    have htw : u.tickWtn = s.tickWtn := by rw [hu]
    have hidle : ({ u with fresh := u.fresh + 1 }.idleNs c.toNat).1 =
        ({ s with fresh := s.fresh + 1 }.idleNs c.toNat).1 :=
      State.idleNs_congr _ (by rw [hu]) (by rw [hu]) (by rw [hu])
    have hdue : ({ s.carrel c with wait := .wtick } : Carrel).nanDue u = due (s.carrel c) s := by
      unfold Carrel.nanDue
      rw [htw]
    have hset : ({ s.carrel c with wait := .wtick } : Carrel).nanSettled u = settled (s.carrel c) s := by
      unfold Carrel.nanSettled
      rw [hdue]
    rw [hk] at h1 h2
    rw [hfresh, hcensus, hdue] at h1
    rw [hset] at h2
    unfold State.rested at h2
    rw [hk, hidle] at h2
    refine ⟨_, hexec, ?_, ?_, ?_, fun d hd => (h3 d hd).trans (huo d hd)⟩
    · exact h1.trans (congrArg (fun w : State => { w with
        carrels := (u.endProgram c).carrels, fresh := s.fresh + 2
        census := { s.census with
          nan := if due (s.carrel c) s && !(s.carrel c).nan.settled then
              s.census.nan.take c (s.carrel c).ctx (s.carrel c).nan.ev
            else s.census.nan } }) hu)
    · rw [h2]
    · rw [h2]
      exact watchdog_endPhase_stopped (s.carrel c).wd (Config.cycles u.fresh)
  · intro slot s p hp hrun hnodup hall
    have hgo := execBarrierRelease_go hp hrun fun c hc => (hall c hc).2
    have hrel := foldl_releaseOne (slot := slot.toNat) (p := p) p.img.set hnodup (fun c hc => (hall c hc).1)
      (s.modPlan slot.toNat fun p => { p with joined := [], tokens := [] })
    have hmod (j : Nat) := s.plan_modPlan j slot.toNat (f := fun p =>
        { p with joined := [], tokens := [] }) fun _ => rfl
    obtain ⟨ls, hls⟩ := hrel.plan _ ((hmod slot.toNat).trans (by rw [hp, Option.map_some, if_pos rfl]))
    refine ⟨_, hgo, hrel.rest, fun j hj => ?_, ⟨_, hls, rfl⟩, fun d hd => hrel.kept d hd, fun d hd => ?_⟩
    · rw [hrel.others j hj, hmod]
      cases s.plan j with
      | none => rfl
      | some q => rw [Option.map_some, if_neg (Ne.symm hj)]
    · exact hrel.carrel d hd

end Sys2Proof.Machine
end

section
/-!
# Control registers
-/
namespace Sys2Proof.Machine

/-! ### Fields put back where they stood -/

theorem place_field (v : Word) (lo w : Nat) :
    place (field v lo w) lo = v &&& ((BitVec.allOnes w).setWidth 64 <<< lo) := by
  unfold place field
  ext i hi
  simp only [BitVec.getElem_shiftLeft, BitVec.getElem_setWidth, BitVec.getLsbD_extractLsb', BitVec.getElem_and,
    BitVec.getLsbD_allOnes]
  by_cases h : i < lo
  · simp [h]
  · have : lo + (i - lo) = i := by omega
    simp [h, this, Bool.and_comm, BitVec.getLsbD_eq_getElem hi]

theorem place_fields (v : Word) (lo w lo' w' : Nat) :
    place (field v lo w) lo ||| place (field v lo' w') lo' =
      v &&& ((BitVec.allOnes w).setWidth 64 <<< lo ||| (BitVec.allOnes w').setWidth 64 <<< lo') := by
  rw [place_field, place_field]
  ext i hi
  simp only [BitVec.getElem_or, BitVec.getElem_and, Bool.and_or_distrib_left]

theorem place_bit_zero (v : Word) : place (bit (v.getLsbD 0)) 0 = v &&& 1#64 := by
  have h : place (field v 0 1) 0 = v &&& 1#64 := place_field v 0 1
  rw [← h]
  congr 1
  unfold field bit
  ext i hi
  have h0 : i = 0 := by omega
  subst h0
  simp

/-! ### Stack registers -/

/-- The number of a stack register (R81). -/
def stackReg (n : Nat) : Prop :=
  (0x010 ≤ n ∧ n ≤ 0x015) ∨ (0x020 ≤ n ∧ n ≤ 0x025) ∨ (0x030 ≤ n ∧ n ≤ 0x035)

/-- The bank of a stack register. -/
def stackRegBank (n : Nat) : BankId := if n < 0x020 then .u else if n < 0x030 then .s else .m

theorem creg_stack (s : State) (c : BitVec 12) {n : Nat} (h : stackReg n) :
    s.creg c n = place (((s.carrel c).bank (stackRegBank n)).reg (n % 16)) 3 := by
  unfold State.creg stackRegBank
  dsimp only
  rcases h with h | h | h
  · rw [if_neg (by omega), if_neg (by omega), if_neg (by omega), if_pos h, if_pos (by omega),
      show n - 0x010 = n % 16 by omega]
    rfl
  · rw [if_neg (by omega), if_neg (by omega), if_neg (by omega), if_neg (by omega), if_pos h, if_neg (by omega),
      if_pos (by omega), show n - 0x020 = n % 16 by omega]
    rfl
  · rw [if_neg (by omega), if_neg (by omega), if_neg (by omega), if_neg (by omega), if_neg (by omega), if_pos h,
      if_neg (by omega), if_neg (by omega), show n - 0x030 = n % 16 by omega]
    rfl

theorem setCreg_stack (k : Carrel) (v : Word) {n : Nat} (h : stackReg n) :
    k.setCreg n v = k.setBank (stackRegBank n) ((k.bank (stackRegBank n)).setReg (n % 16) (field v 3 15)) := by
  unfold Carrel.setCreg stackRegBank
  dsimp only
  rcases h with h | h | h
  · rw [if_neg (by omega), if_pos h, if_pos (by omega), show n - 0x010 = n % 16 by omega]
    rfl
  · rw [if_neg (by omega), if_neg (by omega), if_pos h, if_neg (by omega), if_pos (by omega),
      show n - 0x020 = n % 16 by omega]
    rfl
  · rw [if_neg (by omega), if_neg (by omega), if_neg (by omega), if_pos h, if_neg (by omega), if_neg (by omega),
      show n - 0x030 = n % 16 by omega]
    rfl

theorem reg_setReg_same (b : Bank) {i : Nat} (hi : i ≤ 5) (v : BitVec 15) : (b.setReg i v).reg i = v := by
  match i, hi with
  | 0, _ => rfl | 1, _ => rfl | 2, _ => rfl | 3, _ => rfl | 4, _ => rfl | 5, _ => rfl

theorem reg_setReg_other (b : Bank) {i j : Nat} (hi : i ≤ 5) (hj : j ≤ 5) (hij : j ≠ i) (v : BitVec 15) :
    (b.setReg i v).reg j = b.reg j := by
  have hi' : i = 0 ∨ i = 1 ∨ i = 2 ∨ i = 3 ∨ i = 4 ∨ i = 5 := by omega
  have hj' : j = 0 ∨ j = 1 ∨ j = 2 ∨ j = 3 ∨ j = 4 ∨ j = 5 := by omega
  rcases hi' with rfl | rfl | rfl | rfl | rfl | rfl <;> rcases hj' with rfl | rfl | rfl | rfl | rfl | rfl <;>
    trivial

theorem Carrel.banksOf_ite (p : Prop) [Decidable p] (a b j : Carrel) :
    (if p then a else b).banksOf j = if p then a.banksOf j else b.banksOf j := apply_ite (·.banksOf j) p a b

theorem keepsBanks_setCreg {n : Nat} (h : ¬ stackReg n) (v : Word) : KeepsBanks (·.setCreg n v) := by
  unfold stackReg at h
  rw [not_or, not_or] at h
  obtain ⟨hu, hs, hm⟩ := h
  intro k j
  dsimp only
  unfold Carrel.setCreg
  dsimp only
  rw [if_neg hu, if_neg hs, if_neg hm, if_neg hu, if_neg hs, if_neg hm]
  repeat rw [Carrel.banksOf_ite]
  rfl

/-! ### CRD and CWR -/

theorem execCrd_reads {s : State} {c : BitVec 12} {n : BitVec 10} (hr : Ready s c 4) (hf : Fits s c { dPush := 1 })
    (hacc : cregAcc n.toNat (s.carrel c).level ≠ .no) (hwd : ¬ (n = 0x0A1 ∧ (s.carrel c).wd.run = true)) :
    ∃ t, execCrd c n s = .next t ∧ Moves c ((s.carrel c).after 4) 0 [s.creg c n.toNat] 0 [] s t := by
  have hm := (moves_of_fits (dOut := [s.creg c n.toNat]) hf (PopsD.refl c s) (PopsR.refl c s) (PushedR.refl c _ s)
    rfl).retire 4
  unfold execCrd
  rw [runInstr_ready _ hr, if_neg hacc, withStacks_fits _ hf]
  dsimp only
  rw [if_neg hwd]
  exact ⟨_, rfl, hm⟩

theorem execCwr_runs {s : State} {c : BitVec 12} {n : BitVec 10} {a : Acc} (hr : Ready s c 4)
    (hf : Fits s c { dPop := 1 }) (hacc : cregAcc n.toNat (s.carrel c).level = a) (ha : a ≠ .no) :
    execCwr c n s = .next ((if a = .rw then (s.popD c 1).2.modCarrel c fun k => k.setCreg n.toNat (s.peekD c 0)
      else (s.popD c 1).2).retire c 4) := by
  have hx : ent (s.popD c 1).1 0 = s.peekD c 0 := by rw [State.popD_fst, ent_tops s c (by decide)]
  unfold execCwr
  rw [runInstr_ready _ hr, hacc]
  cases a with
  | no => exact absurd rfl ha
  | ro =>
    dsimp only
    rw [withStacks_fits _ hf, hx]
    rfl
  | rw =>
    dsimp only
    rw [withStacks_fits _ hf, hx]
    rfl

theorem privReg_eq (n : BitVec 10) : privReg n = { code := 0x02, detail := BitVec.ofNat 64 (1 + 4096 * n.toNat) } := by
  have hn := n.isLt
  have h1 : (place (1 : BitVec 1) 0).toNat = 1 := by decide
  have h2 : (place (1 : BitVec 1) 0 ||| place n 12).toNat = 1 + 2 ^ 12 * n.toNat := by
    rw [or_place_toNat _ _ 12 (by rw [h1]; decide) (by decide), h1]
  unfold privReg
  congr 1
  apply BitVec.eq_of_toNat_eq
  rw [BitVec.toNat_ofNat, Nat.mod_eq_of_lt (by omega)]
  exact h2

theorem execCrd_denied {s : State} {c : BitVec 12} {n : BitVec 10} (hr : Ready s c 4)
    (hacc : cregAcc n.toNat (s.carrel c).level = .no) :
    execCrd c n s = .next (s.fault c { code := 0x02, detail := BitVec.ofNat 64 (1 + 4096 * n.toNat) }) := by
  unfold execCrd
  rw [runInstr_ready _ hr, if_pos hacc, privReg_eq]
  rfl

theorem execCwr_denied {s : State} {c : BitVec 12} {n : BitVec 10} (hr : Ready s c 4)
    (hacc : cregAcc n.toNat (s.carrel c).level = .no) :
    execCwr c n s = .next (s.fault c { code := 0x02, detail := BitVec.ofNat 64 (1 + 4096 * n.toNat) }) := by
  unfold execCwr
  rw [runInstr_ready _ hr, hacc, privReg_eq]
  rfl

/-! ### A write to a stack register -/

theorem stackRegValue (v : Word) : place (field v 3 15) 3 = BitVec.ofNat 64 (v.toNat % 2 ^ 18 / 8 * 8) := by
  apply BitVec.eq_of_toNat_eq
  have hlt : (field v 3 15).toNat < 2 ^ 15 := (field v 3 15).isLt
  have hf : (field v 3 15).toNat = v.toNat / 8 % 2 ^ 15 := by
    unfold field
    rw [BitVec.extractLsb'_toNat, Nat.shiftRight_eq_div_pow]
  rw [place_toNat _ 3 (by decide), BitVec.toNat_ofNat, hf]
  omega

/-- A pop moves the pointer of the data stack and no other stack register. -/
theorem poppedBank_reg (s : State) (c : BitVec 12) (n : Nat) {i : Nat} (hi : i ≠ 0) :
    (s.poppedBank c n).reg i = (s.dataOf c).reg i := by
  match i, hi with
  | 0, h => exact absurd rfl h
  | 1, _ => rfl
  | 2, _ => rfl
  | 3, _ => rfl
  | 4, _ => rfl
  | _ + 5, _ => rfl

theorem stackReg_index {n : Nat} (h : stackReg n) : n % 16 ≤ 5 := by
  unfold stackReg at h
  omega

/-- Two stack registers of one bank with one index are one. -/
theorem stackReg_ext {m n : Nat} (hm : stackReg m) (hn : stackReg n) (hb : stackRegBank m = stackRegBank n)
    (hi : m % 16 = n % 16) : m = n := by
  unfold stackReg at hm hn
  unfold stackRegBank at hb
  rcases hm with hm | hm | hm <;> rcases hn with hn | hn | hn
  · omega
  · rw [if_pos (by omega), if_neg (by omega), if_pos (by omega)] at hb; cases hb
  · rw [if_pos (by omega), if_neg (by omega), if_neg (by omega)] at hb; cases hb
  · rw [if_neg (by omega), if_pos (by omega), if_pos (by omega)] at hb; cases hb
  · omega
  · rw [if_neg (by omega), if_pos (by omega), if_neg (by omega), if_neg (by omega)] at hb; cases hb
  · rw [if_neg (by omega), if_neg (by omega), if_pos (by omega)] at hb; cases hb
  · rw [if_neg (by omega), if_neg (by omega), if_neg (by omega), if_pos (by omega)] at hb; cases hb
  · omega

/-- The pointer register of a bank's data stack. -/
def dspOf : BankId → Nat
  | .u => 0x010 | .s => 0x020 | .m => 0x030 | .rescue => 0

theorem stackReg_dsp {m : Nat} (hm : stackReg m) (hi : m % 16 = 0) : m = dspOf (stackRegBank m) := by
  unfold stackReg at hm
  unfold stackRegBank
  rcases hm with hm | hm | hm
  · rw [if_pos (by omega)]
    change m = 0x010
    omega
  · rw [if_neg (by omega), if_pos (by omega)]
    change m = 0x020
    omega
  · rw [if_neg (by omega), if_neg (by omega)]
    change m = 0x030
    omega

theorem Carrel.setBank_of_banksOf {k j : Carrel} (h : j = k.banksOf j) (id : BankId) (b : Bank) :
    j.setBank id b = k.banksOf (j.setBank id b) := by
  cases id <;> (rw [h]; rfl)

theorem Carrel.after_banksOf {k j : Carrel} (h : j = k.banksOf j) (len : Nat) :
    j.after len = (k.after len).banksOf (j.after len) := by
  rw [h]
  rfl

theorem execCwr_stack {s : State} {c : BitVec 12} {n : BitVec 10} (hr : Ready s c 4) (hf : Fits s c { dPop := 1 })
    (hn : stackReg n.toNat) (hacc : cregAcc n.toNat (s.carrel c).level = .rw) :
    ∃ t, execCwr c n s = .next t ∧ OnlyCarrel c s t ∧ t.mem = s.mem ∧ CarrelIs c ((s.carrel c).after 4) t ∧
      t.creg c n.toNat = BitVec.ofNat 64 ((s.peekD c 0).toNat % 2 ^ 18 / 8 * 8) ∧
      ∀ m : Nat, m ≠ n.toNat → stackReg m → m ≠ dspOf (s.carrel c).dataBank → t.creg c m = s.creg c m := by
  refine ⟨_, execCwr_runs hr hf hacc (by decide), ?_⟩
  rw [if_pos rfl, State.retire_eq]
  generalize s.peekD c 0 = v
  have hpop : (s.popD c 1).2.carrel c = (s.carrel c).setBank (s.carrel c).dataBank (s.poppedBank c 1) := by
    rw [State.popD_state, State.carrel_setCarrel_same]
  generalize hq : (s.popD c 1).2 = q at hpop
  have hcar : (((q.modCarrel c fun k => k.setCreg n.toNat v).modCarrel c (·.after 4)).carrel c) =
      ((q.carrel c).setBank (stackRegBank n.toNat)
        (((q.carrel c).bank (stackRegBank n.toNat)).setReg (n.toNat % 16) (field v 3 15))).after 4 := by
    rw [State.carrel_modCarrel_same, State.carrel_modCarrel_same, setCreg_stack _ _ hn]
  have hbank (id : BankId) : (((q.modCarrel c fun k => k.setCreg n.toNat v).modCarrel c (·.after 4)).carrel c).bank id =
      if id = stackRegBank n.toNat then ((q.carrel c).bank id).setReg (n.toNat % 16) (field v 3 15)
      else (q.carrel c).bank id := by
    rw [hcar, (keepsBanks_retire 4).bank, Carrel.bank_setBank]
    split
    · next h => rw [h]
    · rfl
  have hqbank (id : BankId) : (q.carrel c).bank id =
      if id = (s.carrel c).dataBank then s.poppedBank c 1 else (s.carrel c).bank id := by
    rw [hpop, Carrel.bank_setBank]
  refine ⟨⟨?_, fun d hd => ?_⟩, ?_, ?_, ?_, fun m hmn hm hdsp => ?_⟩
  · rw [← hq]
    rfl
  · rw [State.carrel_modCarrel_other _ _ hd, State.carrel_modCarrel_other _ _ hd, ← hq]
    exact State.carrel_setCarrel_other _ _ hd
  · rw [← hq]
    rfl
  · unfold CarrelIs
    rw [hcar, hpop]
    exact Carrel.after_banksOf (Carrel.setBank_of_banksOf (Carrel.setBank_of_banksOf (Carrel.banksOf_self _) _ _) _ _) 4
  · rw [creg_stack _ _ hn, hbank, if_pos rfl, reg_setReg_same _ (stackReg_index hn), stackRegValue]
  · rw [creg_stack _ _ hm, creg_stack _ _ hm, hbank]
    congr 1
    have hpopped : ((q.carrel c).bank (stackRegBank m)).reg (m % 16) =
        ((s.carrel c).bank (stackRegBank m)).reg (m % 16) := by
      rw [hqbank]
      split
      · next h =>
        rw [h]
        refine poppedBank_reg s c 1 fun h0 => hdsp ?_
        rw [← h]
        exact stackReg_dsp hm h0
      · rfl
    split
    · next h =>
      rw [reg_setReg_other _ (stackReg_index hn) (stackReg_index hm) fun hi => hmn (stackReg_ext hm hn h hi)]
      exact hpopped
    · exact hpopped

/-! ### What a register reads back -/

/-- Register `n` read after it was written with `v`. -/
def State.cregBack (s : State) (c : BitVec 12) (v : Word) (n : Nat) : Word :=
  (s.setCarrel c ((s.carrel c).setCreg n v)).creg c n

theorem cregBack_stack (s : State) (c : BitVec 12) (v : Word) {n : Nat} (h : stackReg n) :
    s.cregBack c v n = v &&& 0x3FFF8#64 := by
  unfold State.cregBack
  rw [creg_stack _ _ h, State.carrel_setCarrel_same, setCreg_stack _ _ h, Carrel.bank_setBank, if_pos rfl,
    reg_setReg_same _ (stackReg_index h)]
  exact place_field v 3 15

theorem vecAddr_field (v : Word) : vecAddr (field v 1 63) = v &&& 0xFFFFFFFFFFFFFFFE#64 := place_field v 1 63

/-- Settles O24: CRD and CWR move one entry, and each layout's fields are masks of the word written. -/
theorem controlRegisters : Obligations.ControlRegisters := by
  unfold Obligations.ControlRegisters
  refine ⟨fun n => ⟨fun c s hr hf ⟨hacc, hwd⟩ => execCrd_reads hr hf hacc hwd, fun c s hr hf ⟨hacc, hn⟩ => ?_,
    fun c s hr hf hacc => ?_, fun c s hr hacc => ⟨execCrd_denied hr hacc, execCwr_denied hr hacc⟩,
    fun c s hr hf hn hacc => execCwr_stack hr hf hn hacc⟩, ?_⟩
  · exact ⟨_, execCwr_runs hr hf hacc (by decide),
      ((hf.moves [] rfl).mod (keepsBanks_setCreg hn (s.peekD c 0))).retire 4⟩
  · exact ⟨_, execCwr_runs hr hf hacc (by decide), (hf.moves [] rfl).retire 4⟩
  · intro c s v back
    have hvec (n : Nat) (hn : 0x048 ≤ n ∧ n ≤ 0x04C) : back n = v &&& 0xFFFFFFFFFFFFFFFE#64 := by
      have hn' : n = 0x048 ∨ n = 0x049 ∨ n = 0x04A ∨ n = 0x04B ∨ n = 0x04C := by omega
      unfold back State.creg
      rw [State.carrel_setCarrel_same, ← vecAddr_field]
      rcases hn' with rfl | rfl | rfl | rfl | rfl <;> rfl
    refine ⟨?_, fun n hn => cregBack_stack s c v hn, ?_, ?_, ?_, hvec, ?_, ?_, ?_, ?_, ?_, ?_, ?_, ?_, ?_, ?_, ?_, ?_,
      ?_, ?_⟩
    all_goals
      unfold back State.creg
      rw [State.carrel_setCarrel_same]
    · exact place_field v 6 12
    · exact place_field v 0 3
    · exact place_field v 0 3
    · exact place_field v 0 3
    · exact place_fields v 6 12 22 12
    · exact place_fields v 6 12 22 12
    · exact place_fields v 4 14 18 11
    · rfl
    · rfl
    · rfl
    · rfl
    · rfl
    · rfl
    · rfl
    · rfl
    · exact place_field v 0 16
    · exact place_field v 0 16
    · exact place_bit_zero v

end Sys2Proof.Machine
end

section
/-!
# Cache maintenance and the merging buffer
-/
namespace Sys2Proof.Machine

/-! ### Draining -/

theorem issueFirst_all (mb : List MergeEntry) : issueFirst mb.length mb = mb.map ({ · with issued := true }) := by
  unfold issueFirst
  rw [List.take_length, List.drop_length, List.append_nil]

/-- An issue of writes to this module's own memory sends nothing. -/
theorem State.issue_local {s : State} {c : BitVec 12} {f : List MergeEntry → List MergeEntry}
    (h : ∀ e ∈ newlyIssued (s.carrel c).mb (f (s.carrel c).mb), s.isLocal (e.block * 64) = true) :
    s.issue c f = s.modCarrel c fun k => { k with mb := f (s.carrel c).mb } := by
  unfold State.issue
  exact foldl_eq_of_fixed fun e he => if_pos (h e he)

theorem mem_newlyIssued {old new : List MergeEntry} {e : MergeEntry} (h : e ∈ newlyIssued old new) : e ∈ new := by
  unfold newlyIssued at h
  obtain ⟨i, _, hi⟩ := List.mem_filterMap.mp h
  obtain ⟨x, hx, he⟩ := Option.bind_eq_some_iff.mp hi
  split at he
  · cases he
    exact List.mem_of_getElem? hx
  · cases he

/-- Draining a buffer of writes to this module's own memory marks them all. -/
theorem State.drainAll_local {s : State} {c : BitVec 12}
    (h : ∀ e ∈ (s.carrel c).mb, s.isLocal (e.block * 64) = true) :
    s.drainAll c = s.modCarrel c fun k => { k with mb := (s.carrel c).mb.map ({ · with issued := true }) } := by
  unfold State.drainAll
  have hf : issueFirst (s.carrel c).mb.length (s.carrel c).mb = _ := issueFirst_all (s.carrel c).mb
  rw [State.issue_local (by
    rw [hf]
    intro e he
    obtain ⟨x, hx, rfl⟩ := List.mem_map.mp (mem_newlyIssued he)
    exact h x hx), hf]

/-! ### Waits that end at once -/

theorem execFence_done {s : State} {c : BitVec 12} (hr : Ready s c 4) (h : (s.carrel c).mb = []) :
    ∃ t, execFence c s = .next t ∧ Moves c ((s.carrel c).after 4) 0 [] 0 [] s t := by
  unfold execFence
  rw [runInstr_ready _ hr, h]
  exact ⟨_, rfl, (moves_none s c).retire 4⟩

theorem execFlushi_done {s : State} {c : BitVec 12} (hr : Ready s c 4) (h : (s.carrel c).mb = []) :
    ∃ t, execFlushi c s = .next t ∧ Moves c ({ s.carrel c with icache := [] }.after 4) 0 [] 0 [] s t := by
  unfold execFlushi
  rw [runInstr_ready _ hr, h]
  exact ⟨_, rfl, ((moves_none s c).mod (f := Carrel.icInvalidate) fun _ _ => rfl).retire 4⟩

/-- A drain that something waits for. -/
theorem drainAll_holds {s : State} {c : BitVec 12} (w : Wait)
    (hl : ∀ e ∈ (s.carrel c).mb, s.isLocal (e.block * 64) = true) :
    Moves c { s.carrel c with mb := (s.carrel c).mb.map ({ · with issued := true }), wait := w } 0 [] 0 [] s
      ((s.drainAll c).modCarrel c fun k => { k with wait := w }) := by
  rw [State.drainAll_local hl]
  exact ((moves_none s c).mod
    (f := fun k => { k with mb := (s.carrel c).mb.map ({ · with issued := true }) }) fun _ _ => rfl).mod
    (f := fun k => { k with wait := w }) fun _ _ => rfl

theorem execFence_holds {s : State} {c : BitVec 12} (hr : Ready s c 4) (h : (s.carrel c).mb ≠ [])
    (hl : ∀ e ∈ (s.carrel c).mb, s.isLocal (e.block * 64) = true) :
    ∃ t, execFence c s = .next t ∧
      Moves c { s.carrel c with mb := (s.carrel c).mb.map ({ · with issued := true }), wait := .fence 4 } 0 [] 0 []
        s t := by
  refine ⟨_, ?_, drainAll_holds (.fence 4) hl⟩
  unfold execFence
  rw [runInstr_ready _ hr, if_neg (fun he => h (List.isEmpty_iff.mp he))]
  rfl

theorem execFlushi_holds {s : State} {c : BitVec 12} (hr : Ready s c 4) (h : (s.carrel c).mb ≠ [])
    (hl : ∀ e ∈ (s.carrel c).mb, s.isLocal (e.block * 64) = true) :
    ∃ t, execFlushi c s = .next t ∧
      Moves c { s.carrel c with mb := (s.carrel c).mb.map ({ · with issued := true }), wait := .flushi 4 } 0 [] 0 []
        s t := by
  refine ⟨_, ?_, drainAll_holds (.flushi 4) hl⟩
  unfold execFlushi
  rw [runInstr_ready _ hr, if_neg (fun he => h (List.isEmpty_iff.mp he))]
  rfl

/-! ### Maintenance by address and by slot -/

theorem keepsBanks_dropSlot (i : Option Nat) : KeepsBanks (·.dropSlot i) := by
  cases i <;> exact fun _ _ => rfl

/-- Operands that leave, and a line that goes. -/
theorem moves_dropSlot {s : State} {c : BitVec 12} {pops : Nat} (hf : Fits s c { dPop := pops }) (i : Option Nat) :
    Moves c (((s.carrel c).dropSlot i).after 4) pops [] 0 [] s
      (((s.popD c pops).2.modCarrel c fun k => k.dropSlot i).retire c 4) :=
  ((hf.moves [] rfl).mod (keepsBanks_dropSlot i)).retire 4

theorem cleanBlock_done {s : State} {c : BitVec 12} {block : Nat} (pops : Nat) (inv : Option Nat)
    (h : ∀ e ∈ (s.carrel c).mb, e.block ≠ block) :
    s.cleanBlock c pops block inv = .done ((s.popD c pops).2.modCarrel c fun k => k.dropSlot inv) := by
  unfold State.cleanBlock
  rw [if_neg]
  intro hany
  obtain ⟨e, he, hb⟩ := List.any_eq_true.mp hany
  exact h e he (of_decide_eq_true hb)

theorem byAddress_ready {s : State} {c : BitVec 12} {pa : Nat} {part : BitVec 6} (f : State → Nat → Res)
    (hr : Ready s c 4) (hf : Fits s c { dPop := 1 }) (h : s.access c 3 (s.peekD c 0) 1 1 = .ok pa part) :
    byAddress c f s = .next (s.finish c 4 (f s pa)) := by
  unfold byAddress
  rw [runInstr_ready _ hr, withStacks_fits _ hf]
  dsimp only
  rw [h]

theorem privileged_of {s : State} {c : BitVec 12} (body : State → Res) (h : (s.carrel c).level ≠ 0) :
    privileged c body s = body s := if_neg h

theorem bySetWay_ready {s : State} {c : BitVec 12} (f : State → Nat → Res) (hr : Ready s c 4)
    (hf : Fits s c { dPop := 2 }) (h : (s.carrel c).level ≠ 0) :
    bySetWay c f s = .next (s.finish c 4 (f s ((s.peekD c 1).toNat % 32 * 4 + (s.peekD c 0).toNat % 4))) := by
  unfold bySetWay
  rw [runInstr_ready _ hr, privileged_of _ h, withStacks_fits _ hf]

theorem runInstr_privileged {s : State} {c : BitVec 12} (body : State → Res) (hr : Ready s c 4)
    (h : (s.carrel c).level = 0) :
    runInstr c 4 (privileged c body) s = .next (s.fault c { code := 0x02, detail := 0 }) := by
  rw [runInstr_ready _ hr]
  exact congrArg (fun r => Host.Outcome.next (s.finish c 4 r)) (if_pos h)

/-- The block that a slot of the set and way on the stack holds. -/
def State.swBlock (s : State) (c : BitVec 12) : Option Nat :=
  (Tab.get none (s.carrel c).dcache ((s.peekD c 1).toNat % 32 * 4 + (s.peekD c 0).toNat % 4)).map fun l =>
    l.tag * 32 + (s.peekD c 1).toNat % 32

theorem slotBlock_eq (s : State) (c : BitVec 12) :
    s.slotBlock c ((s.peekD c 1).toNat % 32 * 4 + (s.peekD c 0).toNat % 4) = s.swBlock c := by
  have h : ((s.peekD c 1).toNat % 32 * 4 + (s.peekD c 0).toNat % 4) / 4 = (s.peekD c 1).toNat % 32 := by omega
  unfold State.slotBlock State.swBlock
  rw [h]

theorem cleanSlot_done {s : State} {c : BitVec 12} (inv : Bool)
    (h : ∀ b ∈ s.swBlock c, ∀ e ∈ (s.carrel c).mb, e.block ≠ b) :
    let slot := (s.peekD c 1).toNat % 32 * 4 + (s.peekD c 0).toNat % 4
    let gone := if inv = true ∧ (s.swBlock c).isSome = true then some slot else none
    ∃ t, s.cleanSlot c slot inv = .done t ∧
      (Fits s c { dPop := 2 } → Moves c (((s.carrel c).dropSlot gone).after 4) 2 [] 0 [] s (t.retire c 4)) := by
  intro slot gone
  unfold State.cleanSlot
  rw [slotBlock_eq]
  cases hb : s.swBlock c with
  | none =>
    refine ⟨_, rfl, fun hf => ?_⟩
    have hg : gone = none := by unfold gone; rw [hb]; simp
    rw [hg]
    exact (hf.moves [] rfl).retire 4
  | some b =>
    refine ⟨_, cleanBlock_done 2 _ (h b hb), fun hf => ?_⟩
    have hg : gone = if inv then some slot else none := by unfold gone; rw [hb]; simp
    rw [hg]
    exact moves_dropSlot hf _

theorem dclean_done {s : State} {c : BitVec 12} {pa : Nat} {part : BitVec 6} (inv : State → Nat → Option Nat)
    (hr : Ready s c 4) (hf : Fits s c { dPop := 1 }) (hacc : s.access c 3 (s.peekD c 0) 1 1 = .ok pa part)
    (h : ∀ e ∈ (s.carrel c).mb, e.block ≠ pa / 64) :
    ∃ t, byAddress c (fun s pa => s.cleanBlock c 1 (pa / 64) (inv s pa)) s = .next t ∧
      Moves c (((s.carrel c).dropSlot (inv s pa)).after 4) 1 [] 0 [] s t := by
  rw [byAddress_ready _ hr hf hacc, cleanBlock_done _ _ h]
  exact ⟨_, rfl, moves_dropSlot hf _⟩

theorem dinv_done {s : State} {c : BitVec 12} {pa : Nat} {part : BitVec 6} (hr : Ready s c 4)
    (hf : Fits s c { dPop := 1 }) (hacc : s.access c 3 (s.peekD c 0) 1 1 = .ok pa part) :
    ∃ t, execDinv c s = .next t ∧ Moves c (((s.carrel c).dropSlot (s.lineSlot c pa)).after 4) 1 [] 0 [] s t := by
  unfold execDinv
  rw [byAddress_ready _ hr hf hacc]
  exact ⟨_, rfl, moves_dropSlot hf _⟩

theorem dcleansw_done {s : State} {c : BitVec 12} (inv : Bool) (hr : Ready s c 4) (hf : Fits s c { dPop := 2 })
    (hl : (s.carrel c).level ≠ 0) (h : ∀ b ∈ s.swBlock c, ∀ e ∈ (s.carrel c).mb, e.block ≠ b) :
    ∃ t, bySetWay c (fun s i => s.cleanSlot c i inv) s = .next t ∧
      Moves c (((s.carrel c).dropSlot (if inv = true ∧ (s.swBlock c).isSome = true then
        some ((s.peekD c 1).toNat % 32 * 4 + (s.peekD c 0).toNat % 4) else none)).after 4) 2 [] 0 [] s t := by
  obtain ⟨t, ht, hm⟩ := cleanSlot_done (c := c) inv h
  rw [bySetWay_ready _ hr hf hl, ht]
  exact ⟨_, rfl, hm hf⟩

end Sys2Proof.Machine
end

section
/-!
# Asking for tokens, and masked writes of a burst
-/
namespace Sys2Proof.Machine

/-! ### Stacks -/

theorem State.stack_modStack (s : State) (i j : Nat) (f : Stack → Stack) :
    (s.modStack i f).stack j = if j = i then f (s.stack i) else s.stack j := by
  unfold State.modStack State.stack
  rw [Tab.get_set]

/-- Only tokens have been asked for: the stacks in use are what they were. -/
structure TokensOnly (s t : State) : Prop where
  rest : t = { s with hbm := t.hbm, paid := t.paid }
  excluded : ∀ i, (t.stack i).excluded = (s.stack i).excluded

theorem TokensOnly.refl (s : State) : TokensOnly s s := ⟨rfl, fun _ => rfl⟩

theorem TokensOnly.trans {s t u : State} (h : TokensOnly s t) (g : TokensOnly t u) : TokensOnly s u :=
  ⟨g.rest.trans (congrArg (fun v : State => { v with hbm := u.hbm, paid := u.paid }) h.rest),
    fun i => (g.excluded i).trans (h.excluded i)⟩

theorem TokensOnly.modStack (s : State) (i : Nat) {f : Stack → Stack} (hf : ∀ k, (f k).excluded = k.excluded) :
    TokensOnly s (s.modStack i f) := by
  refine ⟨rfl, fun j => ?_⟩
  rw [State.stack_modStack]
  split
  · next h => rw [hf, h]
  · rfl

theorem TokensOnly.setPaid (s : State) (who : Requester) (l : Tab Nat) : TokensOnly s (s.setPaid who l) :=
  ⟨rfl, fun _ => rfl⟩

theorem drawSome_tokensOnly (s : State) (cls : HbmClass) (w key n : Nat) :
    TokensOnly s (s.drawSome cls w key n).2 := by
  unfold State.drawSome
  dsimp only
  split
  · exact TokensOnly.refl s
  · split
    · dsimp only
      exact TokensOnly.modStack s _ fun _ => rfl
    · split
      · exact TokensOnly.refl s
      · dsimp only
        refine TokensOnly.modStack s _ fun k => ?_
        have hd (m : Nat) : (k.drawTokens cls (key % 64) m).excluded = k.excluded := by cases cls <;> rfl
        have he (j : Stack) : (j.exhaust cls (key % 64)).excluded = j.excluded := by
          unfold Stack.exhaust
          split <;> rfl
        rw [apply_ite Stack.excluded, he, hd, ite_self]

theorem askOne_tokensOnly (s : State) (cls : HbmClass) (w a : Nat) (part : BitVec 6) :
    TokensOnly s (s.askOne cls w a part).2 := by
  unfold State.askOne
  split
  · exact drawSome_tokensOnly ..
  · exact TokensOnly.refl s

theorem askAt_tokensOnly (s : State) (cls : HbmClass) (w pa : Nat) (part : BitVec 6) :
    TokensOnly s (s.askAt cls w pa part).2 := by
  unfold State.askAt
  split
  · exact askOne_tokensOnly ..
  · exact TokensOnly.refl s

theorem askHbm_tokensOnly (s : State) (who : Requester) (cls : HbmClass) (w : Nat) (need : Tab Nat) :
    TokensOnly s (s.askHbm who cls w need).2 := by
  have h (l : Tab Nat) : ∀ (q : Tab Nat × State), TokensOnly s q.2 →
      TokensOnly s (l.foldl (fun (q : Tab Nat × State) x =>
        let (m, s) := q.2.drawSome cls w x.1 (x.2 - Tab.get 0 q.1 x.1)
        (Tab.set 0 q.1 x.1 (Tab.get 0 q.1 x.1 + m), s)) q).2 := by
    induction l with
    | nil => exact fun _ h => h
    | cons x l ih => exact fun q hq => ih _ (hq.trans (drawSome_tokensOnly ..))
  have hk := h need (s.paidBy who, s) (TokensOnly.refl s)
  unfold State.askHbm
  dsimp only at hk ⊢
  split
  · exact hk.trans (TokensOnly.setPaid _ _ _)
  · exact hk.trans (TokensOnly.setPaid _ _ _)

section
variable {s t : State} (h : TokensOnly s t)
include h

theorem TokensOnly.halfMode : t.halfMode = s.halfMode := by
  unfold State.halfMode
  exact congrArg _ (funext fun i => h.excluded i)

theorem TokensOnly.hbmEnd : t.hbmEnd = s.hbmEnd := by
  unfold State.hbmEnd
  rw [h.halfMode]

theorem TokensOnly.exists_ (a : Nat) : t.exists_ a = s.exists_ a := by
  unfold State.exists_
  rw [h.hbmEnd]

theorem TokensOnly.present (a n : Nat) : t.present a n = s.present a n := by
  unfold State.present
  rw [funext fun i => h.exists_ (a + i)]

theorem TokensOnly.byte (a : Nat) : t.byte a = s.byte a := by
  rw [h.rest]
  rfl

theorem TokensOnly.carrel (c : BitVec 12) : t.carrel c = s.carrel c := by
  rw [h.rest]
  rfl

theorem TokensOnly.isLocal (pa : Nat) : t.isLocal pa = s.isLocal pa := by
  rw [h.rest]
  rfl

theorem TokensOnly.populated (pa : Nat) : t.populated pa = s.populated pa := by
  unfold State.populated
  rw [h.isLocal, h.exists_]

theorem TokensOnly.lost : t.lost = s.lost := by rw [h.rest]

theorem TokensOnly.lostIn (a n : Nat) : t.lostIn a n = s.lostIn a n := by
  unfold State.lostIn
  rw [h.lost]

end

/-! ### Masked writes -/

theorem store_of_kept {s : State} (h : s.lost = []) (a : Nat) (b : List Byte) : s.store a b = s.setBytes a b := by
  unfold State.store State.clearLost
  rw [State.setBytes_lost, h]
  rfl

theorem clearLost_wrote (s : State) (a n : Nat) : Wrote s (s.clearLost a n) := by
  unfold State.clearLost
  split
  · exact Wrote.refl s
  · exact ⟨rfl, fun _ h => (List.mem_filter.mp h).1⟩

theorem clearLost_byte (s : State) (a n x : Nat) : (s.clearLost a n).byte x = s.byte x := by
  unfold State.clearLost
  split <;> rfl

theorem maskedStore_wrote (a : Nat) (data : List Byte) : ∀ (o : Nat) (mask : List Bool) (s : State),
    Wrote s (s.maskedStore a o data mask) := by
  induction data with
  | nil => exact fun _ _ s => Wrote.refl s
  | cons b l ih =>
    intro o mask s
    unfold State.maskedStore
    split
    · exact (s.store_wrote _ _).trans (ih ..)
    · exact ih ..

/-- A byte after a masked store: the enabled ones are those of the data. -/
theorem maskedStore_byte (a : Nat) (data : List Byte) : ∀ (o : Nat) (mask : List Bool) (s : State) (x : Nat),
    (s.maskedStore a o data mask).byte x =
      if a + o ≤ x ∧ x < a + o + data.length ∧ mask.getD (x - (a + o)) false = true
      then data.getD (x - (a + o)) 0 else s.byte x := by
  induction data with
  | nil =>
    intro o mask s x
    rw [if_neg (by rw [List.length_nil]; omega)]
    rfl
  | cons b l ih =>
    intro o mask s x
    unfold State.maskedStore
    rw [ih]
    have hdrop (i : Nat) : (mask.drop 1).getD i false = mask.getD (i + 1) false := by
      rw [List.getD_eq_getElem?_getD, List.getD_eq_getElem?_getD, List.getElem?_drop, Nat.add_comm]
    have hhead : mask.headD false = mask.getD 0 false := by cases mask <;> rfl
    rw [List.length_cons, hdrop, hhead]
    have hfirst : (if mask.getD 0 false = true then s.store (a + o) [b] else s).byte x =
        if x = a + o ∧ mask.getD 0 false = true then b else s.byte x := by
      by_cases hm : mask.getD 0 false = true
      · rw [if_pos hm, State.store_byte, State.byte_setBytes, List.length_singleton]
        by_cases hx : x = a + o
        · rw [if_pos (by omega), if_pos ⟨hx, hm⟩, hx, Nat.sub_self]
          rfl
        · rw [if_neg (by omega), if_neg (fun h => hx h.1)]
      · rw [if_neg hm, if_neg (fun h => hm h.2)]
    rw [hfirst]
    by_cases hx : x = a + o
    · subst hx
      rw [if_neg (by omega), Nat.sub_self]
      by_cases hm : mask.getD 0 false = true
      · rw [if_pos ⟨rfl, hm⟩, if_pos ⟨Nat.le_refl _, by omega, hm⟩]
        rfl
      · rw [if_neg (fun h => hm h.2), if_neg (fun h => hm h.2.2)]
    · rw [if_neg (c := x = a + o ∧ _) (fun h => hx h.1)]
      by_cases hle : a + o ≤ x
      · have hi : x - (a + o) = x - (a + (o + 1)) + 1 := by omega
        rw [hi, List.getD_cons_succ]
        refine if_congr ⟨fun ⟨_, h2, h3⟩ => ⟨by omega, by omega, h3⟩, fun ⟨_, h2, h3⟩ => ⟨by omega, by omega,
            h3⟩⟩ rfl rfl
      · rw [if_neg (fun h => hle (by omega)), if_neg (fun h => hle h.1)]

theorem burstWrite_wrote (s : State) (a : Nat) (data : List Byte) (mask : List Bool) :
    Wrote s (s.burstWrite a data mask) := by
  have h (l : List Nat) : ∀ u : State, Wrote s u → Wrote s (l.foldl (fun s w =>
      if (upto 8).all (fun i => maskAt mask (8 * w + i)) then s.clearLost (a + 8 * w) 8 else s) u) := by
    induction l with
    | nil => exact fun _ h => h
    | cons w l ih =>
      intro u hu
      rw [List.foldl_cons]
      refine ih _ ?_
      split
      · exact hu.trans (clearLost_wrote _ _ _)
      · exact hu
  exact h (upto 8) _ (maskedStore_wrote a data 0 mask s)

/-- A byte after a masked write of a burst. -/
theorem burstWrite_byte (s : State) (a : Nat) (data : List Byte) (mask : List Bool) (x : Nat) :
    (s.burstWrite a data mask).byte x =
      if a ≤ x ∧ x < a + data.length ∧ mask.getD (x - a) false = true then data.getD (x - a) 0 else s.byte x := by
  have h (l : List Nat) : ∀ u : State, (l.foldl (fun s w =>
      if (upto 8).all (fun i => maskAt mask (8 * w + i)) then s.clearLost (a + 8 * w) 8 else s) u).byte x =
        u.byte x := by
    induction l with
    | nil => exact fun _ => rfl
    | cons w l ih =>
      intro u
      rw [List.foldl_cons, ih]
      split
      · exact clearLost_byte _ _ _ _
      · rfl
  exact (h (upto 8) _).trans (maskedStore_byte a data 0 mask s x)

/-- What a part of a range has lost, the range has lost. -/
theorem lostIn_mono {s : State} {a n b m : Nat} (hab : a ≤ b) (hend : b + m ≤ a + n) (h : s.lostIn b m = true) :
    s.lostIn a n = true := by
  unfold State.lostIn at h ⊢
  obtain ⟨x, hx, hw⟩ := List.any_eq_true.mp h
  refine List.any_eq_true.mpr ⟨x, hx, ?_⟩
  rw [Bool.and_eq_true, decide_eq_true_eq, decide_eq_true_eq] at hw ⊢
  exact ⟨by omega, by omega⟩

theorem blockWrite_of_kept {s : State} {a : Nat} (data : List Byte) (mask : List Bool) (h : s.lostIn a 64 = false) :
    s.blockWrite a data mask = some (s.burstWrite a data mask) := by
  unfold State.blockWrite
  rw [if_neg]
  intro hany
  obtain ⟨w, hw, hl⟩ := List.any_eq_true.mp hany
  have hw8 : w < 8 := List.mem_range.mp hw
  have hpart := (Bool.and_eq_true _ _ ▸ hl).2
  exact absurd ((lostIn_mono (by omega) (by omega) hpart).symm.trans h) (by decide)

end Sys2Proof.Machine
end

section
/-!
# What the caches and the merging buffer do when an answer comes
-/
namespace Sys2Proof.Machine

/-! ### Bytes of the stacks' memory -/

theorem regionOf_hbm {a : Nat} (h : a < 0x0C000000000) : regionOf a = .hbm := if_pos h

theorem memRead_hbm {s : State} {a n : Nat} (h : a + n ≤ 0x0C000000000) : s.memRead a n = s.bytes a n := by
  unfold State.memRead State.bytes
  refine List.map_congr_left fun i hi => ?_
  have hi' : i < n := List.mem_range.mp hi
  unfold State.anyByte
  rw [regionOf_hbm (by omega)]

theorem localOf_block (pa : Nat) : localOf (pa / 64 * 64) = localOf pa / 64 * 64 := by
  unfold localOf
  omega

theorem localOf_lt_of_hbm {pa : Nat} (h : isHbm pa = true) : localOf pa < 0x0C000000000 := of_decide_eq_true h

/-- The line of an address of a stack, read from memory. -/
theorem lineData_hbm {s : State} {pa : Nat} (data : List Byte) (hl : s.isLocal pa = true) (h : isHbm pa = true) :
    s.lineData pa data = s.bytes (localOf pa / 64 * 64) 64 := by
  have hlt := localOf_lt_of_hbm h
  unfold State.lineData
  rw [if_pos hl, localOf_block, memRead_hbm (by omega)]

theorem TokensOnly.bytes {s t : State} (h : TokensOnly s t) (a n : Nat) : t.bytes a n = s.bytes a n :=
  State.bytes_congr fun i _ => h.byte (a + i)

theorem hbmEnd_le (s : State) : s.hbmEnd ≤ 0x0C000000000 := by
  unfold State.hbmEnd
  split <;> decide

/-- Asking for the tokens of a line reads as if nothing had been asked. -/
theorem askAt_memRead (s : State) (cls : HbmClass) (w pa : Nat) (part : BitVec 6) (hl : s.isLocal pa = true) :
    (s.askAt cls w pa part).2.memRead (localOf pa / 64 * 64) 64 = s.memRead (localOf pa / 64 * 64) 64 := by
  by_cases h : localOf pa < s.hbmEnd
  · have hlt : localOf pa / 64 * 64 + 64 ≤ 0x0C000000000 := by
      have := hbmEnd_le s
      omega
    rw [memRead_hbm hlt, memRead_hbm hlt, (askAt_tokensOnly s cls w pa part).bytes]
  · have hask : s.askAt cls w pa part = (true, s) := by
      unfold State.askAt State.askOne
      rw [if_pos hl, if_neg h]
    rw [hask]

/-! ### Fills -/

theorem fillOutstanding_of_served {k : Carrel} {len : Nat} {signed : Bool} {hs : List LoadHalf} (block : Nat)
    (hw : k.wait = .load len signed hs) (h : ∀ x ∈ hs, x.stage ≠ .miss) : k.fillOutstanding block = false := by
  unfold Carrel.fillOutstanding
  rw [hw]
  refine List.any_eq_false.mpr fun x hx hb => h x hx ?_
  exact of_decide_eq_true (Bool.and_eq_true _ _ ▸ hb).1

/-- A sweep of a buffer with no fill outstanding. -/
theorem mbSweep_of_quiet {k : Carrel} (h : ∀ b, k.fillOutstanding b = false) :
    k.mbSweep = { k with mb := k.mb.filter fun e => !e.acked } := by
  unfold Carrel.mbSweep
  have hf : (fun e : MergeEntry => !e.acked || k.fillOutstanding e.block) = fun e => !e.acked := by
    funext e
    rw [h, Bool.or_false]
  rw [hf]

/-- A load whose halves are all there ends. -/
theorem settleLoad_moves {s : State} {c : BitVec 12} {hs : List LoadHalf} (len : Nat) (signed : Bool)
    (hf : Fits s c { dPop := 1, dPush := 1 }) (hall : ∀ h ∈ hs, h.ready = true) :
    Moves c ({ s.carrel c with wait := .none }.after len) 1 [loadValue signed (hs.flatMap (·.bytes))] 0 [] s
      (s.settleLoad c len signed hs) := by
  have hsame : SameStacks c s (s.modCarrel c fun k => { k with wait := .none }) :=
    SameStacks.mod s c ⟨fun _ => rfl, rfl, rfl⟩
  have hm := ((hsame.fits (by rw [State.carrel_modCarrel_same]) hf).moves
    [loadValue signed (hs.flatMap (·.bytes))] rfl).retire len
  rw [State.carrel_modCarrel_same] at hm
  unfold State.settleLoad
  rw [if_pos (List.all_eq_true.mpr hall)]
  exact hm.of_same hsame

/-- What a fill makes of the carrel. -/
def Carrel.filled (k : Carrel) (pa : Nat) (line : List Byte) : Carrel :=
  { k.dFill pa line with wait := .none, mb := k.mb.filter fun e => !e.acked }

/-- What a fill does once its tokens are there. -/
theorem dFill_settles {u : State} {c : BitVec 12} {len : Nat} {signed : Bool} {h : LoadHalf} (line : List Byte)
    (hf : Fits u c { dPop := 1, dPush := 1 }) (hm : h.stage = .miss) :
    let s1 := u.modCarrel c fun k => k.dFill h.pa line
    let hs := serveFirst (fun x => decide (x.stage = .miss)) (·.serve line) [h]
    let s2 := s1.modCarrel c fun k => { k with wait := .load len signed hs : Carrel }.mbSweep
    Moves c (((u.carrel c).filled h.pa line).after len) 1 [loadValue signed (slice line (h.pa % 64) h.n)] 0 [] u
      (s2.settleLoad c len signed hs) := by
  intro s1 hs s2
  have hhs : hs = [h.serve line] := by
    unfold hs serveFirst
    rw [if_pos (decide_eq_true hm)]
  have hsweep (k : Carrel) : ({ k with wait := .load len signed hs } : Carrel).mbSweep =
      { k with wait := .load len signed hs, mb := k.mb.filter fun e => !e.acked } := by
    refine mbSweep_of_quiet fun b => fillOutstanding_of_served b rfl fun x hx => ?_
    rw [hhs, List.mem_singleton] at hx
    rw [hx]
    exact fun hc => by cases hc
  have hs1 : SameStacks c u s1 := SameStacks.mod u c ⟨fun _ => rfl, rfl, rfl⟩
  have hs2 : SameStacks c s1 s2 := SameStacks.mod s1 c ⟨fun _ => rfl, rfl, rfl⟩
  have hcar : s2.carrel c = { (u.carrel c).dFill h.pa line with
      wait := .load len signed hs, mb := (u.carrel c).mb.filter fun e => !e.acked } := by
    unfold s2
    rw [State.carrel_modCarrel_same, hsweep]
    unfold s1
    rw [State.carrel_modCarrel_same]
    rfl
  have hfit : Fits s2 c { dPop := 1, dPush := 1 } := (hs1.trans hs2).fits (by rw [hcar]; rfl) hf
  have hmv := settleLoad_moves (hs := hs) len signed hfit (by
    intro x hx
    rw [hhs, List.mem_singleton] at hx
    rw [hx]
    rfl)
  rw [hcar] at hmv
  have hval : hs.flatMap (·.bytes) = slice line (h.pa % 64) h.n := by
    rw [hhs, List.flatMap_singleton]
    rfl
  rw [hval] at hmv
  exact hmv.of_same (hs1.trans hs2)

/-- The bytes of the buffer over a line. -/
def Carrel.overLine (k : Carrel) (block : Nat) (l : List Byte) : List Byte :=
  k.mb.foldl (fun l e => if e.block = block then e.over l 0 else l) l

theorem execDCacheFill_eq {s : State} {c : BitVec 12} {len : Nat} {signed : Bool} {h : LoadHalf} (data : List Byte)
    (hw : (s.carrel c).wait = .load len signed [h]) (hm : h.stage = .miss) (hl : s.isLocal h.pa = true)
    (hlost : s.lostIn (localOf h.pa / 64 * 64) 64 = false) :
    execDCacheFill c data s = .next (whenLet (s.askAt .planned 1 h.pa h.part) fun s =>
      let line := (s.carrel c).overLine (h.pa / 64) (s.lineData h.pa data)
      let s1 := s.modCarrel c fun k => k.dFill h.pa line
      let hs := serveFirst (fun x => decide (x.stage = .miss)) (·.serve line) [h]
      let s2 := s1.modCarrel c fun k => { k with wait := .load len signed hs : Carrel }.mbSweep
      s2.settleLoad c len signed hs) := by
  have hfind : [h].find? (fun h => decide (h.stage = .miss)) = some h := by
    rw [List.find?_cons_of_pos (p := fun h : LoadHalf => decide (h.stage = .miss)) (decide_eq_true hm)]
  unfold execDCacheFill
  rw [hw]
  dsimp only
  rw [hfind]
  dsimp only
  rw [hl, localOf_block, hlost]
  rfl

theorem dCacheFill_spec {s : State} {c : BitVec 12} {len : Nat} {signed : Bool} {h : LoadHalf} (data : List Byte)
    (hw : (s.carrel c).wait = .load len signed [h]) (hm : h.stage = .miss) (hhbm : isHbm h.pa = true)
    (hl : s.isLocal h.pa = true) (hlost : s.lostIn (localOf h.pa / 64 * 64) 64 = false)
    (hf : Fits s c { dPop := 1, dPush := 1 }) :
    let k := s.carrel c
    let ask := s.askAt .planned 1 h.pa h.part
    let line := k.overLine (h.pa / 64) (s.bytes (localOf h.pa / 64 * 64) 64)
    (ask.1 = false → execDCacheFill c data s = .next ask.2) ∧
    (ask.1 = true → ∃ t, execDCacheFill c data s = .next t ∧
      Moves c ((k.filled h.pa line).after len) 1 [loadValue signed (slice line (h.pa % 64) h.n)] 0 [] ask.2 t ∧
      Tab.get none (t.carrel c).dcache (victim k.dcache (h.pa / 64 % 32) k.dcseed) =
        some { tag := h.pa / 2048, data := line }) := by
  intro k ask line
  have htok : TokensOnly s ask.2 := askAt_tokensOnly ..
  have hcar : ask.2.carrel c = k := htok.carrel c
  have hline : (ask.2.carrel c).overLine (h.pa / 64) (ask.2.lineData h.pa data) = line := by
    rw [hcar, lineData_hbm data (by rw [htok.isLocal]; exact hl) hhbm, htok.bytes]
  rw [execDCacheFill_eq data hw hm hl hlost]
  constructor
  · intro ha
    exact congrArg Host.Outcome.next (if_neg (by rw [ha]; decide))
  · intro ha
    have hfit : Fits ask.2 c { dPop := 1, dPush := 1 } := by
      unfold Fits
      rw [hcar]
      exact hf
    have hmv := dFill_settles (len := len) (signed := signed) line hfit hm
    rw [hcar] at hmv
    refine ⟨_, congrArg Host.Outcome.next (if_pos ha), ?_, ?_⟩
    · dsimp only
      rw [hline]
      exact hmv
    · dsimp only
      rw [hline]
      obtain ⟨_, _, _, hc, _, _⟩ := hmv
      rw [hc]
      exact Tab.get_set_same none k.dcache _ (some { tag := h.pa / 2048, data := line })

theorem findWay_none {t : Tab (Option Line)} {set tag : Nat}
    (h : ∀ w, w < 4 → ∀ l ∈ Tab.get none t (set * 4 + w), l.tag ≠ tag) : findWay t set tag = none := by
  unfold findWay
  refine List.find?_eq_none.mpr fun w hw hany => ?_
  obtain ⟨l, hl, ht⟩ := (Option.any_eq_true _ _).mp hany
  exact h w (List.mem_range.mp hw) l hl (of_decide_eq_true ht)

theorem iCacheFill_spec {s : State} {c : BitVec 12} {pa : BitVec 56} (hi : (s.carrel c).icInit = false)
    (hmiss : ∀ w, w < 4 → ∀ l ∈ Tab.get none (s.carrel c).icache (pa.toNat / 64 % 64 * 4 + w),
      l.tag ≠ pa.toNat / 4096) (hl : s.isLocal pa.toNat = true) :
    let k := s.carrel c
    let ask := s.askAt .planned 1 pa.toNat (s.fetchPart c)
    (ask.1 = false → execICacheFill c pa s = .next ask.2) ∧
    (ask.1 = true → execICacheFill c pa s = .next (ask.2.setCarrel c
      { k.iFill pa.toNat (s.memRead (localOf (pa.toNat / 64 * 64)) 64) with
        count := { k.count with imiss := k.count.imiss + 1 } })) := by
  intro k ask
  have htok : TokensOnly s ask.2 := askAt_tokensOnly ..
  have hcar : ask.2.carrel c = k := htok.carrel c
  have hgo : ¬ ((s.carrel c).icInit = true ∨
      (findWay (s.carrel c).icache (iSet pa.toNat) (iTag pa.toNat)).isSome = true) := by
    have hfw : findWay (s.carrel c).icache (iSet pa.toNat) (iTag pa.toNat) = none := findWay_none hmiss
    rw [hi, hfw]
    decide
  have hline (d : List Byte) : ask.2.lineData pa.toNat d = s.memRead (localOf (pa.toNat / 64 * 64)) 64 := by
    unfold State.lineData
    rw [if_pos (by rw [htok.isLocal]; exact hl), localOf_block]
    exact askAt_memRead s _ _ _ _ hl
  unfold execICacheFill
  dsimp only
  rw [if_neg hgo]
  constructor
  · intro ha
    exact congrArg Host.Outcome.next (if_neg (by rw [ha]; decide))
  · intro ha
    refine congrArg Host.Outcome.next ((if_pos ha).trans ?_)
    dsimp only
    rw [if_pos (by rw [htok.isLocal]; exact hl), hline]
    unfold State.modCarrel
    rw [hcar]

/-! ### Entries of the merging buffer -/

theorem issueFirst_oldest {old new : List MergeEntry} {e : MergeEntry} (hold : ∀ x ∈ old, x.issued = true)
    (he : e.issued = false) :
    issueFirst (((old ++ e :: new).takeWhile (·.issued)).length + 1) (old ++ e :: new) =
      old ++ { e with issued := true } :: new := by
  have htw : (old ++ e :: new).takeWhile (·.issued) = old := by
    rw [List.takeWhile_append_of_pos hold, List.takeWhile_cons_of_neg (by rw [he]; decide), List.append_nil]
  have hid : old.map (fun x : MergeEntry => { x with issued := true }) = old := by
    refine (List.map_congr_left fun x hx => ?_).trans (List.map_id _)
    have h := hold x hx
    show ({ x with issued := true } : MergeEntry) = x
    rw [← h]
  unfold issueFirst
  rw [htw, List.take_append, List.take_of_length_le (by omega), List.drop_append, List.drop_of_length_le (by omega),
    Nat.add_sub_cancel_left, List.map_append, hid]
  simp

/-- What an issue newly marks stood unmarked at the same place. -/
theorem newlyIssued_place {old new : List MergeEntry} {e : MergeEntry} (h : e ∈ newlyIssued old new) :
    ∃ i : Nat, new[i]? = some e ∧ e.issued = true ∧ ∀ x : MergeEntry, old[i]? = some x → x.issued = false := by
  unfold newlyIssued at h
  obtain ⟨i, _, hi⟩ := List.mem_filterMap.mp h
  obtain ⟨x, hx, he⟩ := Option.bind_eq_some_iff.mp hi
  split at he
  · next hc =>
    cases he
    obtain ⟨h1, h2⟩ := (Bool.and_eq_true _ _).mp hc
    refine ⟨i, hx, h1, fun y hy => ?_⟩
    rw [hy] at h2
    exact Bool.not_eq_true' _ ▸ h2
  · cases he

/-- The oldest entry that has not issued is all that its own issue newly marks. -/
theorem newlyIssued_oldest {old new : List MergeEntry} {e x : MergeEntry}
    (h : x ∈ newlyIssued (old ++ e :: new) (old ++ { e with issued := true } :: new)) :
    x = { e with issued := true } := by
  obtain ⟨i, hx, hi, hno⟩ := newlyIssued_place h
  rcases Nat.lt_trichotomy i old.length with hlt | heq | hgt
  · rw [List.getElem?_append_left hlt] at hx hno
    have := hno x hx
    rw [hi] at this
    cases this
  · rw [heq, List.getElem?_append_right (Nat.le_refl _), Nat.sub_self, List.getElem?_cons_zero] at hx
    exact (Option.some.inj hx).symm
  · obtain ⟨m, hm⟩ : ∃ m, i - old.length = m + 1 := ⟨i - old.length - 1, by omega⟩
    rw [List.getElem?_append_right (by omega), hm, List.getElem?_cons_succ] at hx hno
    have := hno x hx
    rw [hi] at this
    cases this

theorem mergeEntryTimeout_spec {s : State} {c : BitVec 12} {old new : List MergeEntry} {e : MergeEntry}
    (hmb : (s.carrel c).mb = old ++ e :: new) (hold : ∀ x ∈ old, x.issued = true) (he : e.issued = false)
    (hl : s.isLocal (e.block * 64) = true) :
    execMergeEntryTimeout c s = .next (s.setCarrel c
      { s.carrel c with mb := old ++ { e with issued := true } :: new }) := by
  have hf := issueFirst_oldest (new := new) hold he
  rw [← hmb] at hf
  have hissue : s.issue c (fun mb => issueFirst ((mb.takeWhile (·.issued)).length + 1) mb) = _ := State.issue_local (by
    intro x hx
    rw [hf, hmb] at hx
    rw [newlyIssued_oldest hx]
    exact hl)
  unfold execMergeEntryTimeout
  rw [hissue, hf]
  rfl

/-- An entry's masked data at byte `j`. -/
theorem MergeEntry.data_getD (e : MergeEntry) {j : Nat} (hj : j < 64) :
    e.data.getD j 0 = (Tab.get none e.bytes j).getD 0 := by
  unfold MergeEntry.data MergeEntry.over
  rw [List.getD_eq_getElem?_getD, List.getElem?_mapIdx, List.getElem?_replicate_of_lt hj, Nat.zero_add]
  rfl

theorem MergeEntry.mask_getD (e : MergeEntry) {j : Nat} (hj : j < 64) :
    e.mask.getD j false = (Tab.get none e.bytes j).isSome := by
  unfold MergeEntry.mask upto
  rw [List.getD_eq_getElem?_getD, List.getElem?_map, List.getElem?_range hj]
  rfl

theorem MergeEntry.data_length (e : MergeEntry) : e.data.length = 64 := by
  unfold MergeEntry.data MergeEntry.over
  rw [List.length_mapIdx, List.length_replicate]

/-- An entry whose bytes go to a stack of this module. -/
theorem entryWrite_hbm {s : State} {c : BitVec 12} {e : MergeEntry} (hl : s.isLocal (e.block * 64) = true)
    (hh : isHbm (e.block * 64) = true) (hp : s.present (localOf (e.block * 64)) 64 = true) (hlost : s.lost = []) :
    s.entryWrite c e = some (s.burstWrite (localOf (e.block * 64)) e.data e.mask) := by
  have hno : s.lostIn (localOf (e.block * 64)) 64 = false := by
    unfold State.lostIn
    rw [hlost]
    rfl
  unfold State.entryWrite State.maskWrite
  dsimp only
  rw [hl, hp, regionOf_hbm (localOf_lt_of_hbm hh)]
  dsimp only
  rw [blockWrite_of_kept _ _ hno]
  rfl

/-- The bytes of an entry over what memory holds. -/
theorem burstWrite_entry (s : State) (e : MergeEntry) {a j : Nat} (hj : j < 64) :
    (s.burstWrite a e.data e.mask).byte (a + j) = (Tab.get none e.bytes j).getD (s.byte (a + j)) := by
  rw [burstWrite_byte, Nat.add_sub_cancel_left, e.data_length, e.data_getD hj, e.mask_getD hj]
  cases Tab.get none e.bytes j with
  | none => rw [if_neg (fun h => by cases h.2.2)]; rfl
  | some b => rw [if_pos ⟨by omega, by omega, rfl⟩]; rfl

/-- Marking an entry and sweeping the marked ones away takes it out. -/
theorem filter_listSet_acked (mb : List MergeEntry) : ∀ (i : Nat) (e : MergeEntry), mb[i]?.isSome = true →
    (listSet mb i { e with acked := true }).filter (fun x => !x.acked) =
      (mb.eraseIdx i).filter fun x => !x.acked := by
  induction mb with
  | nil => intro i e h; cases h
  | cons x l ih =>
    intro i e h
    cases i with
    | zero =>
      unfold listSet
      rw [List.filter_cons_of_neg (by simp), List.eraseIdx_cons_zero]
    | succ i =>
      unfold listSet
      rw [List.eraseIdx_cons_succ, List.filter_cons, List.filter_cons, ih i e (by simpa using h)]

theorem mbWake_of_none {s : State} {c : BitVec 12} (h : (s.carrel c).wait = .none) : s.mbWake c = s := by
  unfold State.mbWake
  dsimp only
  rw [h]

/-- A write where no word had lost a byte. -/
theorem Wrote.rest_of_kept {s t : State} (h : Wrote s t) (hlost : s.lost = []) : t = { s with mem := t.mem } := by
  have hl : t.lost = s.lost := by
    rw [hlost]
    refine List.eq_nil_iff_forall_not_mem.mpr fun x hx => ?_
    have := h.lost x hx
    rw [hlost] at this
    cases this
  have hrest := h.rest
  rw [hl] at hrest
  exact hrest

/-- A write where no word had lost a byte, and then a change of a carrel. -/
theorem Wrote.setCarrel_rest {s t : State} (h : Wrote s t) (hlost : s.lost = []) (c : BitVec 12) (k : Carrel) :
    t.setCarrel c k = { s with mem := (t.setCarrel c k).mem, carrels := (t.setCarrel c k).carrels } :=
  congrArg (fun v : State => { v with carrels := (t.setCarrel c k).carrels }) (h.rest_of_kept hlost)

/-- The carrel with an acknowledged entry gone. -/
def Carrel.dropEntry (k : Carrel) (i : Nat) : Carrel :=
  { k with mb := (k.mb.eraseIdx i).filter fun x => !x.acked }

theorem mergeEntryAck_spec {s : State} {c : BitVec 12} {i : BitVec 3} {e : MergeEntry}
    (he : (s.carrel c).mb[i.toNat]? = some e) (hi : e.issued = true) (ha : e.acked = false)
    (hw : (s.carrel c).wait = .none) (hl : s.isLocal (e.block * 64) = true) (hh : isHbm (e.block * 64) = true)
    (hp : s.present (localOf (e.block * 64)) 64 = true) (hlost : s.lost = []) :
    let ask := s.askAt .planned 1 (e.block * 64) e.part
    (ask.1 = false → execMergeEntryAck c i s = .next ask.2) ∧
    (ask.1 = true → execMergeEntryAck c i s =
      .next ((ask.2.burstWrite (localOf (e.block * 64)) e.data e.mask).setCarrel c
        ((s.carrel c).dropEntry i.toNat))) := by
  intro ask
  have htok : TokensOnly s ask.2 := askAt_tokensOnly ..
  have hwrite := entryWrite_hbm (s := ask.2) (c := c) (by rw [htok.isLocal]; exact hl) hh
    (by rw [htok.present]; exact hp) (htok.lost.trans hlost)
  have hcar : (ask.2.burstWrite (localOf (e.block * 64)) e.data e.mask).carrel c = s.carrel c := by
    rw [(burstWrite_wrote ..).carrel, htok.carrel]
  unfold execMergeEntryAck
  rw [he]
  dsimp only
  rw [if_pos ⟨hi, ha⟩]
  constructor
  · intro hno
    exact congrArg Host.Outcome.next (if_neg (by rw [hno]; decide))
  · intro hyes
    refine congrArg Host.Outcome.next ((if_pos hyes).trans ?_)
    dsimp only
    rw [hwrite]
    have hquiet : ({ s.carrel c with mb := listSet (s.carrel c).mb i.toNat { e with acked := true } } :
        Carrel).mbSweep =
        (s.carrel c).dropEntry i.toNat := by
      rw [mbSweep_of_quiet (fun b => by unfold Carrel.fillOutstanding; dsimp only; rw [hw])]
      unfold Carrel.dropEntry
      dsimp only
      rw [filter_listSet_acked _ _ _ (by rw [he]; rfl)]
    unfold State.modCarrel
    dsimp only
    rw [hcar, hquiet]
    exact mbWake_of_none (by rw [State.carrel_setCarrel_same]; exact hw)

/-- Settles O26: maintenance with nothing to wait for acts at once, and an answer does what its row says. -/
theorem cachesAndBuffers : Obligations.CachesAndBuffers := by
  unfold Obligations.CachesAndBuffers
  refine ⟨?_, ?_, ?_, ?_, ?_, ?_⟩
  · intro idle_ pa may drop line slot block at_ none_
    have hpa {c : BitVec 12} {s : State} {q : Nat} {part : BitVec 6}
        (h : s.access c 3 (s.peekD c 0) 1 1 = .ok q part) : pa c s = q := by
      unfold pa
      rw [h]
    have hdrop (k : Carrel) (o : Option Nat) : drop k o = k.dropSlot o := by cases o <;> rfl
    have hgone (c : BitVec 12) (s : State) : at_ (fun k c s => drop k (line k (pa c s))) c s =
        ((s.carrel c).dropSlot (s.lineSlot c (pa c s))).after 4 := congrArg (fun k : Carrel => k.after 4) (hdrop _ _)
    refine ⟨fun c s hr h => execFence_done hr h, fun c s hr h => execFlushi_done hr h,
      fun c s hr h => execFence_holds hr h.1 h.2, fun c s hr h => execFlushi_holds hr h.1 h.2, ?_, ?_, ?_, ?_, ?_, ?_,
      ?_, ?_⟩
    · intro c s hr hl
      refine ⟨_, (runInstr_ready _ hr).trans (congrArg (fun r => Host.Outcome.next (s.finish c 4 r))
        (privileged_of _ hl)), ?_⟩
      exact ((moves_none s c).mod (f := Carrel.icInvalidate) fun _ _ => rfl).retire 4
    · rintro c s hr hf ⟨⟨q, part, hacc⟩, hidle⟩
      rw [hpa hacc] at hidle
      exact dclean_done (fun _ _ => none) hr hf hacc hidle
    · rintro c s hr hf ⟨q, part, hacc⟩
      obtain ⟨t, ht, hm⟩ := dinv_done hr hf hacc
      refine ⟨t, ht, ?_⟩
      rw [hgone c s, hpa hacc]
      exact hm
    · rintro c s hr hf ⟨⟨q, part, hacc⟩, hidle⟩
      rw [hpa hacc] at hidle
      obtain ⟨t, ht, hm⟩ := dclean_done (fun s pa => s.lineSlot c pa) hr hf hacc hidle
      refine ⟨t, ht, ?_⟩
      rw [hgone c s, hpa hacc]
      exact hm
    · rintro c s hr hf ⟨hl, h⟩
      obtain ⟨t, ht, hm⟩ := dcleansw_done false hr hf hl h
      exact ⟨t, ht, hm⟩
    · rintro c s hr hf hl
      refine ⟨_, bySetWay_ready (fun s i => .done ((s.popD c 2).2.modCarrel c fun k => k.dropSlot (some i))) hr hf hl,
        moves_dropSlot hf (some (slot c s))⟩
    · rintro c s hr hf ⟨hl, h⟩
      obtain ⟨t, ht, hm⟩ := dcleansw_done true hr hf hl h
      refine ⟨t, ht, ?_⟩
      have hsw : at_ (fun k c s => if (block c s).isSome then drop k (some (slot c s)) else k) c s =
          ((s.carrel c).dropSlot (if true = true ∧ (s.swBlock c).isSome = true then some (slot c s) else none)).after
            4 := by
        show (if (s.swBlock c).isSome then _ else _ : Carrel).after 4 = _
        cases (s.swBlock c).isSome <;> rfl
      rw [hsw]
      exact hm
    · intro c s hr hl i hi
      fin_cases hi
      · exact runInstr_privileged _ hr hl
      · exact runInstr_privileged _ hr hl
      · exact runInstr_privileged _ hr hl
      · exact runInstr_privileged _ hr hl
  · intro c s d
    refine congrArg (fun k => Host.Outcome.next (s.setCarrel c k)) ?_
    cases d <;> simp
  · intro c s data len signed h hw hm hhbm hl hlost hf
    exact dCacheFill_spec data hw hm hhbm hl hlost hf
  · intro c s pa k set hi hmiss hl
    exact iCacheFill_spec hi hmiss hl
  · intro c s old new e hmb hold he hl
    exact mergeEntryTimeout_spec hmb hold he hl
  · intro c s i e he hi ha hw hl hh hp hlost ask
    obtain ⟨hno, hyes⟩ := mergeEntryAck_spec he hi ha hw hl hh hp hlost
    refine ⟨hno, fun h => ⟨_, hyes h, ?_, ?_, ?_, ?_, ?_⟩⟩
    · exact (burstWrite_wrote ..).setCarrel_rest ((askAt_tokensOnly ..).lost.trans hlost) c _
    · intro d hd
      rw [State.carrel_setCarrel_other _ _ hd, (burstWrite_wrote ..).carrel, (askAt_tokensOnly ..).carrel]
    · exact State.carrel_setCarrel_same ..
    · intro j hj
      rw [State.setCarrel_byte, burstWrite_entry _ _ hj, (askAt_tokensOnly ..).byte]
    · intro b hb
      rw [State.setCarrel_byte, burstWrite_byte, e.data_length, if_neg (by omega), (askAt_tokensOnly ..).byte]

end Sys2Proof.Machine
end

section
/-!
# What the items of a link do
-/
namespace Sys2Proof.Machine

/-! ### Bytes in equal pieces -/

theorem getElem?_flatMap_of_length {α β : Type} {f : α → List β} {n : Nat} (hf : ∀ x, (f x).length = n) (l : List α) :
    ∀ {q r : Nat}, r < n → (l.flatMap f)[n * q + r]? = (l[q]?).bind fun x => (f x)[r]? := by
  induction l with
  | nil => intro q r _; rfl
  | cons x l ih =>
    intro q r hr
    rw [List.flatMap_cons]
    cases q with
    | zero =>
      rw [Nat.mul_zero, Nat.zero_add, List.getElem?_append_left (by rw [hf]; exact hr), List.getElem?_cons_zero]
      rfl
    | succ q =>
      have hge : n * (q + 1) + r = n + (n * q + r) := by rw [Nat.mul_succ]; omega
      rw [hge, List.getElem?_append_right (by rw [hf]; omega), hf, Nat.add_sub_cancel_left, ih hr,
        List.getElem?_cons_succ]

theorem getElem?_natToBytes (n : Nat) : ∀ {x j : Nat}, j < n →
    (natToBytes n x)[j]? = some (BitVec.ofNat 8 (x / 256 ^ j)) := by
  induction n with
  | zero => intro x j h; omega
  | succ n ih =>
    intro x j h
    unfold natToBytes
    cases j with
    | zero => rw [Nat.pow_zero, Nat.div_one, List.getElem?_cons_zero]
    | succ j => rw [List.getElem?_cons_succ, ih (by omega), Nat.div_div_eq_div_mul, Nat.pow_succ, Nat.mul_comm]

theorem slice_memRead (s : State) {a n o m : Nat} (h : o + m ≤ n) :
    slice (s.memRead a n) o m = s.memRead (a + o) m := by
  unfold slice State.memRead upto
  refine List.ext_getElem? fun i => ?_
  rw [List.getElem?_take, List.getElem?_drop]
  by_cases hi : i < m
  · rw [if_pos hi, List.getElem?_map, List.getElem?_map, List.getElem?_range (by omega), List.getElem?_range hi,
      Option.map_some, Option.map_some, Nat.add_assoc]
  · rw [if_neg hi, List.getElem?_map, List.getElem?_eq_none (by rw [List.length_range]; omega)]
    rfl

/-! ### What an item carries -/

/-- The address bits of an error response, beside its code. -/
theorem errorWord_eq (x : Word) {code : Nat} (h : code < 16) :
    word code ||| (x &&& 0x0FFFFFFFFFFFFFF0#64) = BitVec.ofNat 64 (code + x.toNat % 2 ^ 60 / 16 * 16) := by
  have hmask : x.toNat &&& (2 ^ 56 - 1) * 2 ^ 4 = x.toNat % 2 ^ 60 / 2 ^ 4 * 2 ^ 4 := by
    refine Nat.eq_of_testBit_eq fun i => ?_
    rw [Nat.testBit_and, Nat.testBit_mul_two_pow, Nat.testBit_two_pow_sub_one, Nat.testBit_mul_two_pow,
      Nat.testBit_div_two_pow, Nat.testBit_mod_two_pow]
    by_cases h4 : 4 ≤ i
    · rw [Nat.sub_add_cancel h4]
      simp only [h4, decide_true, Bool.true_and]
      rw [Bool.and_comm, decide_eq_decide.mpr (show i - 4 < 56 ↔ i < 60 by omega)]
    · simp [h4]
  have hand : x &&& 0x0FFFFFFFFFFFFFF0#64 = BitVec.ofNat 64 (x.toNat % 2 ^ 60 / 16 * 16) := by
    refine BitVec.eq_of_toNat_eq ?_
    rw [BitVec.toNat_ofNat, Nat.mod_eq_of_lt (by omega)]
    exact (BitVec.toNat_and _ _).trans hmask
  have hor : code ||| x.toNat % 2 ^ 60 / 16 * 16 = code + x.toNat % 2 ^ 60 / 16 * 16 := by
    rw [Nat.mul_comm, Nat.lor_comm, Nat.add_comm]
    exact (Nat.two_pow_add_eq_or_of_lt (i := 4) h _).symm
  rw [hand]
  unfold word
  rw [← BitVec.ofNat_or, hor]

/-- The bytes that a write item carries. -/
theorem Item.writeData_byte (i : Item) {j : Nat} (hj : j < 64) :
    i.writeData.1.getD j 0 = BitVec.ofNat 8 ((i.unit (3 + j / 8)).toNat / 256 ^ (j % 8)) := by
  unfold Item.writeData
  have hsplit : j = 8 * (j / 8) + j % 8 := by omega
  have hq : (upto 8)[j / 8]? = some (j / 8) := List.getElem?_range (by omega)
  conv_lhs => rw [hsplit]
  rw [List.getD_eq_getElem?_getD,
    getElem?_flatMap_of_length (f := fun w => natToBytes 8 (i.unit (3 + w)).toNat) (fun _ => length_natToBytes _ _) _
      (Nat.mod_lt _ (by decide)), hq, Option.bind_some, getElem?_natToBytes 8 (Nat.mod_lt _ (by decide))]
  rfl

theorem Item.writeData_length (i : Item) : i.writeData.1.length = 64 := by
  unfold Item.writeData
  rw [List.length_flatMap]
  simp [upto]

theorem Item.writeMask_bit (i : Item) {j : Nat} (hj : j < 64) :
    i.writeData.2.getD j false = (i.unit 2).getLsbD j := by
  unfold Item.writeData upto
  rw [List.getD_eq_getElem?_getD, List.getElem?_map, List.getElem?_range hj]
  rfl

/-! ### Requests and answers as they are taken -/

/-- The link without an item that was received on it. -/
def State.taken (s : State) (l : Nat) (i : Item) : State := s.modLink l fun k => { k with rx := k.rx.erase i }

/-- What the error response `i` ends. -/
def State.serveError (s : State) (i : Item) : State :=
  match s.closeTag i with
  | (some (.carrel c), s) => s.carrelError c (fieldN (i.unit 1) 0 4) i.errBlock
  | (some (.intake ctx seq), s) => s.intakeFail ctx seq (fieldN (i.unit 1) 0 4)
  | (some (.record slot), s) => if fieldN (i.unit 1) 0 4 = 2 then s.stopConsumer (.record slot) else s
  | (_, s) => s

/-- The oldest item of a kind: it is served, or passed on. -/
theorem State.handleItem_eq {s : State} {l : Fin 12} {kind : Nat} {i : Item} (f : Item → State → State)
    (h : (s.link l.val).rx.find? (fun i => decide (i.kind = kind)) = some i) :
    s.handleItem l kind f = if i.dst = s.ownChip then f i (s.taken l.val i) else (s.taken l.val i).sendItem i := by
  unfold State.handleItem
  rw [State.takeRx_eq h]
  rfl

/-- The tokens that a request asks for. -/
def State.itemAsk (s : State) (w : Nat) (i : Item) : Bool × State :=
  if i.dst = s.ownChip then s.askOne (if i.planned then .planned else .unplanned) w (localOf (i.unit 1).toNat) i.part
  else (true, s)

theorem itemAsk_tokensOnly (s : State) (w : Nat) (i : Item) : TokensOnly s (s.itemAsk w i).2 := by
  unfold State.itemAsk
  split
  · exact askOne_tokensOnly ..
  · exact TokensOnly.refl s

theorem TokensOnly.link {s t : State} (h : TokensOnly s t) (l : Nat) : t.link l = s.link l := by
  rw [h.rest]
  rfl

theorem TokensOnly.ownChip {s t : State} (h : TokensOnly s t) : t.ownChip = s.ownChip := by rw [h.rest]

theorem TokensOnly.chain {s t : State} (h : TokensOnly s t) : t.chain = s.chain := by rw [h.rest]

theorem TokensOnly.carrels {s t : State} (h : TokensOnly s t) : t.carrels = s.carrels := by rw [h.rest]

theorem State.handleAsk_eq {s : State} {l : Fin 12} {kind w : Nat} {i : Item} (f : Item → State → State)
    (h : (s.link l.val).rx.find? (fun i => decide (i.kind = kind)) = some i) :
    s.handleAsk l kind w f = if (s.itemAsk w i).1 = true then
      (if i.dst = s.ownChip then f i ((s.itemAsk w i).2.taken l.val i)
       else ((s.itemAsk w i).2.taken l.val i).sendItem i)
      else (s.itemAsk w i).2 := by
  have htok := itemAsk_tokensOnly s w i
  have hcont := State.handleItem_eq f (s := (s.itemAsk w i).2) (by rw [htok.link]; exact h)
  rw [htok.ownChip] at hcont
  unfold State.handleAsk
  rw [h]
  dsimp only
  rw [← hcont]
  rfl

/-- The tokens that an item of kind `n` asks for. -/
def State.linkAsk (s : State) (n : Nat) (i : Item) : Bool × State :=
  if n ≤ 2 ∧ i.dst = s.ownChip then
    s.askOne (if i.planned then .planned else .unplanned) (if n = 2 then 2 else 1) (localOf (i.unit 1).toNat) i.part
  else (true, s)

theorem linkAsk_request {n : Nat} (s : State) (i : Item) (h : n ≤ 2) :
    s.linkAsk n i = s.itemAsk (if n = 2 then 2 else 1) i := by
  unfold State.linkAsk State.itemAsk
  rw [if_congr (and_iff_right h) rfl rfl]

theorem linkAsk_answer {n : Nat} (s : State) (i : Item) (h : 2 < n) : s.linkAsk n i = (true, s) :=
  if_neg fun hc => Nat.not_le_of_lt h hc.1

theorem linkAsk_tokensOnly (s : State) (n : Nat) (i : Item) : TokensOnly s (s.linkAsk n i).2 := by
  unfold State.linkAsk
  split
  · exact askOne_tokensOnly ..
  · exact TokensOnly.refl s

/-- The command that takes the oldest item of kind `n`. -/
noncomputable def itemCmd (l : Fin 12) (n : Nat) : Instr :=
  match n with
  | 0 => .readRequest l | 1 => .write l | 2 => .atomicItem l | 3 => .readResponse l
  | 4 => .writeAcknowledgement l | 5 => .atomicResponse l | _ => .errorResponse l

/-- What an item of kind `n` for this chip does. -/
def State.serveItem (s : State) (n : Nat) (i : Item) : State :=
  match n with
  | 0 => s.serveRead i | 1 => s.serveWrite i | 2 => s.serveAtomic i | 3 => s.answered i 0
  | 4 => s.answered i 0 | 5 => s.answered i (if i.ret then i.unit 1 else 0) | _ => s.serveError i


/-- The oldest item of kind `n`: for another chip it is passed on, for this one it is served once its tokens are
there. -/
theorem exec_item {s : State} {l : Fin 12} {n : Nat} {i : Item} (hn : n ≤ 6)
    (h : (s.link l.val).rx.find? (fun i => decide (i.kind = n)) = some i) :
    Sys2Proof.Machine.exec (itemCmd l n) s = .next (if (s.linkAsk n i).1 = true then
      (if i.dst = s.ownChip then ((s.linkAsk n i).2.taken l.val i).serveItem n i
       else ((s.linkAsk n i).2.taken l.val i).sendItem i)
      else (s.linkAsk n i).2) := by
  by_cases h2 : n ≤ 2
  · rw [linkAsk_request s i h2]
    have hn' : n = 0 ∨ n = 1 ∨ n = 2 := by omega
    rcases hn' with rfl | rfl | rfl
    · exact congrArg Host.Outcome.next (State.handleAsk_eq _ h)
    · exact congrArg Host.Outcome.next (State.handleAsk_eq _ h)
    · exact congrArg Host.Outcome.next (State.handleAsk_eq _ h)
  · rw [linkAsk_answer s i (by omega), if_pos rfl]
    have hn' : n = 3 ∨ n = 4 ∨ n = 5 ∨ n = 6 := by omega
    rcases hn' with rfl | rfl | rfl | rfl
    · exact congrArg Host.Outcome.next (State.handleItem_eq _ h)
    · exact congrArg Host.Outcome.next (State.handleItem_eq _ h)
    · exact congrArg Host.Outcome.next (State.handleItem_eq _ h)
    · exact congrArg Host.Outcome.next (State.handleItem_eq _ h)

/-! ### What each kind does -/

/-- The answer that this chip gives. -/
theorem answerItem_own {s : State} {i : Item} (hd : i.dst = s.ownChip) (kind : Nat) (more : List Word) :
    answerItem i kind more = itemHdr kind s.ownChip i.src i.tag i.part i.planned 0 i.ret i.w :: more := by
  unfold answerItem
  rw [hd]

theorem errorItem_own {s : State} {i : Item} (hd : i.dst = s.ownChip) {code : Nat} (hc : code < 16) :
    errorItem i code = [itemHdr 6 s.ownChip i.src i.tag i.part i.planned 0 false false,
      BitVec.ofNat 64 (code + (i.unit 1).toNat % 2 ^ 60 / 16 * 16)] := by
  unfold errorItem
  rw [hd, errorWord_eq _ hc]

section
variable {s : State} {i : Item}

theorem serveRead_present (hp : s.present (i.la / 64 * 64) 64 = true) (hl : s.lostIn (i.la / 64 * 64) 64 = false) :
    s.serveRead i = s.sendItem (answerItem i 3 ((upto 8).map fun w =>
      BitVec.ofNat 64 (bytesToNat (s.memRead (i.la / 64 * 64 + 8 * w) 8)))) := by
  have hunits : unitsOfBytes (s.memRead (i.la / 64 * 64) 64) = (upto 8).map fun w =>
      BitVec.ofNat 64 (bytesToNat (s.memRead (i.la / 64 * 64 + 8 * w) 8)) := by
    unfold unitsOfBytes
    refine List.map_congr_left fun w hw => ?_
    have hw8 : w < 8 := List.mem_range.mp hw
    unfold leAt
    rw [slice_memRead s (by omega)]
    rfl
  unfold State.serveRead
  dsimp only
  rw [hp, hl, hunits]
  rfl

theorem serveRead_absent (hp : s.present (i.la / 64 * 64) 64 = false) : s.serveRead i = s.sendItem (errorItem i 1) := by
  unfold State.serveRead
  dsimp only
  rw [hp]
  rfl

theorem serveRead_lost (hp : s.present (i.la / 64 * 64) 64 = true) (hl : s.lostIn (i.la / 64 * 64) 64 = true) :
    s.serveRead i = s.sendItem (errorItem i 2) := by
  unfold State.serveRead
  dsimp only
  rw [hp, hl]
  rfl

theorem lostIn_of_kept (hl : s.lost = []) (a n : Nat) : s.lostIn a n = false := by
  unfold State.lostIn
  rw [hl]
  rfl

/-- A write to a place that is no register. -/
theorem serveWrite_present (hp : s.present (i.la / 64 * 64) 64 = true)
    (hr : ∀ b o, regionOf (i.la / 64 * 64) ≠ .regs b o) (hl : s.lost = []) :
    s.serveWrite i = (s.burstWrite (i.la / 64 * 64) i.writeData.1 i.writeData.2).sendItem (answerItem i 4 []) := by
  have hmask : s.maskWrite (.link i.src) (i.la / 64 * 64) i.writeData.1 i.writeData.2 =
      .done 0 (s.burstWrite (i.la / 64 * 64) i.writeData.1 i.writeData.2) := by
    have hb := blockWrite_of_kept i.writeData.1 i.writeData.2 (lostIn_of_kept hl (i.la / 64 * 64) 64)
    unfold State.maskWrite
    rw [hp, hb]
    cases hreg : regionOf (i.la / 64 * 64) with
    | regs b o => exact absurd hreg (hr b o)
    | _ => rfl
  unfold State.serveWrite
  dsimp only
  rw [hmask]

theorem serveWrite_absent (hp : s.present (i.la / 64 * 64) 64 = false) :
    s.serveWrite i = s.sendItem (errorItem i 1) := by
  unfold State.serveWrite State.maskWrite
  dsimp only
  rw [hp]
  rfl

end

/-- Only the FX64 add saturates a fixed-point value at the stack. -/
theorem operNew_sat {op : BitVec 4} (h : op ≠ 8) (w : Bool) (old x cmp : Nat) :
    (operNew op w old x cmp).2.sat = false := by
  have hne : op.toNat ≠ 8 := fun hc => h (BitVec.eq_of_toNat_eq hc)
  unfold operNew
  dsimp only
  split
  case h_9 h => exact absurd h hne
  all_goals rfl


theorem State.modStack_rest {s u : State} (h : u = { s with mem := u.mem }) (i : Nat) (f : Stack → Stack) :
    u.modStack i f = { s with mem := u.mem, hbm := (u.modStack i f).hbm } :=
  congrArg (fun v : State => { v with hbm := (u.modStack i f).hbm }) h

/-- What an adder of a stack leaves: its operand replaced, and otherwise its stacks' counts alone changed. -/
theorem hbmOper_kept (s : State) (a : Nat) {op : BitVec 4} (w : Bool) (x cmp : Word) (hop : op ≠ 8) :
    let n := operWidth op w
    ∃ v : State, s.hbmOper a op w x cmp = (word (s.le a n), v) ∧ v = { s with mem := v.mem, hbm := v.hbm } ∧
      v.mem = (s.setLe a n (operNew op w (s.le a n) x.toNat cmp.toNat).1).mem := by
  intro n
  have hset (y : Nat) : s.setLe a n y = { s with mem := (s.setLe a n y).mem } := State.setBytes_eq ..
  unfold State.hbmOper
  dsimp only
  rw [if_neg (by rw [operNew_sat hop]; decide)]
  refine ⟨_, rfl, ?_, rfl⟩
  exact State.modStack_rest (hset _) _ _

/-- An atomic on an aligned place of a stack. -/
theorem serveAtomic_hbm {s : State} {i : Item} (hreg : regionOf i.la = .hbm)
    (hp : s.present i.la (operWidth i.op i.w) = true) (ha : i.la % operWidth i.op i.w = 0) (hl : s.lost = [])
    (hop : i.op ≠ 8) :
    let n := operWidth i.op i.w
    ∃ v : State, s.serveAtomic i = v.sendItem (answerItem i 5 (if i.ret then [word (s.le i.la n)] else [])) ∧
      v = { s with mem := v.mem, hbm := v.hbm } ∧
      v.mem = (s.setLe i.la n (operNew i.op i.w (s.le i.la n) (i.unit 2).toNat (i.unit 3).toNat).1).mem := by
  intro n
  obtain ⟨v, hv, hrest, hmem⟩ := hbmOper_kept s i.la i.w (i.unit 2) (i.unit 3) hop
  refine ⟨v, ?_, hrest, hmem⟩
  have hoper : s.operAt i.la i.op i.w (i.unit 2) (i.unit 3) = .done (word (s.le i.la n)) v := by
    unfold State.operAt
    dsimp only
    rw [hp, ha, lostIn_of_kept hl, hreg, hv]
    rfl
  unfold State.serveAtomic
  rw [hoper]

theorem TokensOnly.le {s t : State} (h : TokensOnly s t) (a n : Nat) : t.le a n = s.le a n := by
  unfold State.le
  rw [h.bytes]

/-- An answer to a request of neither the intake unit nor a copy engine only frees its tag. -/
theorem answered_closes {s : State} {i : Item} {x : Nat × Requester} (v : Word)
    (h : s.chain.open_.find? (fun x => decide (x.1 = i.tag.toNat)) = some x) (hi : ∀ ctx q, x.2 ≠ .intake ctx q)
    (he : ∀ e, x.2 ≠ .copyEngine e) :
    s.answered i v = { s with chain := { s.chain with open_ := s.chain.open_.erase x } } := by
  have hclose : s.closeTag i = (some x.2, { s with chain := { s.chain with open_ := s.chain.open_.erase x } }) := by
    unfold State.closeTag
    rw [h]
  unfold State.answered
  rw [hclose]
  cases hx : x.2 with
  | intake ctx q => exact absurd hx (hi ctx q)
  | copyEngine e => exact absurd hx (he e)
  | _ => rfl

theorem errBlock_eq (i : Item) : i.errBlock = (i.unit 1).toNat % 2 ^ 56 / 64 := by
  unfold Item.errBlock
  omega

/-- An error response to a carrel's load. -/
theorem serveError_load {s : State} {i : Item} {c : BitVec 12} {x : Nat × Requester} {len : Nat} {signed : Bool}
    {h : LoadHalf} (hx : s.chain.open_.find? (fun x => decide (x.1 = i.tag.toNat)) = some x) (hc : x.2 = .carrel c)
    (hw : (s.carrel c).wait = .load len signed [h]) (hr : h.ready = false)
    (hb : h.pa / 64 = (i.unit 1).toNat % 2 ^ 56 / 64) (hcode : (i.unit 1).toNat % 16 ≠ 2) :
    s.serveError i = (({ s with chain := { s.chain with open_ := s.chain.open_.erase x } } : State).setCarrel c
      { s.carrel c with wait := .none }).fault c { code := 0x06, detail := 0, faddr := some h.va } := by
  have hclose : s.closeTag i =
      (some (.carrel c), { s with chain := { s.chain with open_ := s.chain.open_.erase x } }) := by
    unfold State.closeTag
    rw [hx, ← hc]
  have hcode' : fieldN (i.unit 1) 0 4 ≠ 2 := by
    unfold fieldN
    rw [BitVec.extractLsb'_toNat]
    exact hcode
  unfold State.serveError
  rw [hclose]
  generalize hu : ({ s with chain := { s.chain with open_ := s.chain.open_.erase x } } : State) = u
  have hcar : u.carrel c = s.carrel c := by rw [← hu]; rfl
  dsimp only
  unfold State.carrelError
  rw [if_neg hcode', hcar, hw]
  dsimp only
  have hfind : [h].find? (fun h => decide (h.pa / 64 = i.errBlock) && !h.ready) = some h :=
    List.find?_cons_of_pos (by rw [errBlock_eq, hr, decide_eq_true hb]; rfl)
  rw [hfind]
  dsimp only
  unfold State.unmappedLoad State.modCarrel
  dsimp only
  rw [hcar]
  rfl

/-! ### Barriers and census strobes -/

theorem arriveBarrier_waits {s : State} {n who : Nat} {now : List Nat}
    (hnow : now = if (s.chain.arrived n).contains who then s.chain.arrived n else s.chain.arrived n ++ [who])
    (h : (∀ x ∈ now, x < 12) ∨ ∃ x ∈ s.downLinks, x ∉ now) :
    s.arriveBarrier n who = { s with chain := { s.chain with
      barriers := (s.chain.barriers.filter fun x => decide (x.1 ≠ n)) ++ [(n, now)] } } := by
  unfold State.arriveBarrier
  dsimp only
  rw [← hnow]
  generalize hu : ({ s with chain := { s.chain.dropBarrier n with
    barriers := (s.chain.dropBarrier n).barriers ++ [(n, now)] } } : State) = u
  have hdown : u.downLinks = s.downLinks := by rw [← hu]; rfl
  rw [hdown]
  split
  · next own hfind hall =>
    rcases h with hlt | ⟨x, hx, hno⟩
    · have hmem := hlt own (List.mem_of_find?_eq_some hfind)
      have hge := List.find?_some hfind
      simp only [decide_eq_true_eq] at hge
      omega
    · exact absurd (List.contains_iff_mem.mp (List.all_eq_true.mp hall x hx)) hno
  · exact hu.symm

theorem releaseBarrier_leaf {s : State} (n : Nat) (h : s.downLinks = []) :
    s.releaseBarrier n =
      { s with chain := { s.chain with barriers := s.chain.barriers.filter fun x => decide (x.1 ≠ n) } } := by
  unfold State.releaseBarrier
  generalize hu : ({ s with chain := s.chain.dropBarrier n } : State) = u
  have hdown : u.downLinks = [] := by
    rw [← hu]
    exact h
  dsimp only
  rw [hdown]
  exact hu.symm

/-- A barrier item is taken from its link, and its number and whether it is a release decide what it does. -/
theorem execBarrier_eq {s : State} {l : Fin 12} {i : Item}
    (h : (s.link l.val).rx.find? (fun i => decide (i.kind = 8)) = some i) :
    execBarrier l s = .next (if (i.unit 1).getLsbD 16 = true
      then (s.taken l.val i).releaseBarrier ((i.unit 1).toNat % 65536)
      else (s.taken l.val i).arriveBarrier ((i.unit 1).toNat % 65536) l.val) := by
  have hn : fieldN (i.unit 1) 0 16 = (i.unit 1).toNat % 65536 := by
    unfold fieldN
    rw [BitVec.extractLsb'_toNat, Nat.shiftRight_zero]
  unfold execBarrier
  rw [State.takeRx_eq h]
  dsimp only
  rw [hn]
  rfl

/-- A strobe names the next snapshot's boundary and goes down the tree. -/
theorem execCensusStrobe_spec {s : State} {l : Fin 12} {i : Item}
    (h : (s.link l.val).rx.find? (fun i => decide (i.kind = 10)) = some i) :
    ∃ t, execCensusStrobe l s = .next t ∧ SendsOnly ((s.taken l.val i).announce (i.unit 1)) t ∧
      (s.downLinks = [] → t = (s.taken l.val i).announce (i.unit 1)) := by
  have hkind : i.kind ≠ 7 := by
    have hk := List.find?_some h
    simp only [decide_eq_true_eq] at hk
    rw [hk]
    decide
  have hex : execCensusStrobe l s = .next (s.downLinks.foldl (fun s d => s.sendOn d i 2)
      ((s.taken l.val i).announce (i.unit 1))) := by
    unfold execCensusStrobe
    rw [State.takeRx_eq h]
    rfl
  refine ⟨_, hex, SendsOnly.foldl (fun s d => SendsOnly.sendOn 2 s d hkind) _ _, fun hd => ?_⟩
  rw [hd]
  rfl

/-- Settles O35: every kind of item by what serves it, and the barriers and strobes of the tree. -/
theorem linkItems : Obligations.LinkItems := by
  unfold Obligations.LinkItems
  refine ⟨?_, ?_⟩
  · intro l s i n hn hfind ask u cmd la blk answer error
    have hex : Sys2Proof.Machine.exec cmd s = .next (if ask.1 = true then
      (if i.dst = s.ownChip then u.serveItem n i else u.sendItem i) else ask.2) := exec_item hn hfind
    have htok : TokensOnly s ask.2 := linkAsk_tokensOnly s n i
    have hpres (a m : Nat) : u.present a m = s.present a m := htok.present a m
    have hlost (a m : Nat) : u.lostIn a m = s.lostIn a m := htok.lostIn a m
    have hbyte (a : Nat) : u.byte a = s.byte a := htok.byte a
    have hchain : u.chain = s.chain := htok.chain
    have hcars : u.carrels = s.carrels := htok.carrels
    refine ⟨fun hd => ?_, fun ha => ?_, fun hd ha => ?_⟩
    · have hask : ask = (true, s) := if_neg fun h => hd h.2
      rw [hex, if_neg hd, if_pos (by rw [hask])]
    · rw [hex, ha]
      rfl
    rw [if_pos ha, if_pos hd] at hex
    have hown : i.dst = u.ownChip := hd.trans htok.ownChip.symm
    refine ⟨?_, ?_, ?_, ?_, ?_, ?_, ?_, ?_⟩
    · rintro rfl hp hl
      rw [hex]
      exact congrArg Host.Outcome.next ((serveRead_present ((hpres ..).trans hp) ((hlost ..).trans hl)).trans
        (congrArg u.sendItem (answerItem_own hd 3 _)))
    · rintro rfl hp
      rw [hex]
      exact congrArg Host.Outcome.next ((serveRead_absent ((hpres ..).trans hp)).trans
        (congrArg u.sendItem (errorItem_own hd (by decide))))
    · rintro rfl hp hl
      rw [hex]
      exact congrArg Host.Outcome.next ((serveRead_lost ((hpres ..).trans hp) ((hlost ..).trans hl)).trans
        (congrArg u.sendItem (errorItem_own hd (by decide))))
    · rintro rfl hp hr hl
      have hkept : u.lost = [] := htok.lost.trans hl
      refine ⟨u.burstWrite blk i.writeData.1 i.writeData.2, ?_, (burstWrite_wrote ..).rest_of_kept hkept, ?_, ?_⟩
      · rw [hex]
        exact congrArg Host.Outcome.next ((serveWrite_present ((hpres ..).trans hp) hr hkept).trans
          (congrArg _ (answerItem_own hd 4 _)))
      · intro j hj
        rw [burstWrite_byte, i.writeData_length, Nat.add_sub_cancel_left, i.writeData_byte hj, i.writeMask_bit hj,
          hbyte]
        exact if_congr ⟨fun h => h.2.2, fun h => ⟨by omega, by omega, h⟩⟩ rfl rfl
      · intro b hb
        rw [burstWrite_byte, i.writeData_length, if_neg (by omega), hbyte]
    · rintro rfl hp
      rw [hex]
      exact congrArg Host.Outcome.next ((serveWrite_absent ((hpres ..).trans hp)).trans
        (congrArg u.sendItem (errorItem_own hd (by decide))))
    · rintro rfl hreg hp hal hl h8 h15 old
      have hle : u.le la (operWidth i.op i.w) = old := htok.le la _
      obtain ⟨v, hv, hrest, hmem⟩ := serveAtomic_hbm (s := u) hreg ((hpres ..).trans hp) hal (htok.lost.trans hl) h8
      have hmem' : v.mem = (u.setLe la (operWidth i.op i.w)
          (operNew i.op i.w (u.le la (operWidth i.op i.w)) (i.unit 2).toNat (i.unit 3).toNat).1).mem := hmem
      rw [hle] at hmem'
      have hvbyte (a : Nat) : v.byte a = (u.setLe la (operWidth i.op i.w)
          (operNew i.op i.w old (i.unit 2).toNat (i.unit 3).toNat).1).byte a := by
        unfold State.byte
        rw [hmem']
      refine ⟨v, ?_, ?_, ?_, ?_, ?_⟩
      · rw [hex]
        refine congrArg Host.Outcome.next (hv.trans ?_)
        rw [answerItem_own hd]
        show v.sendItem (_ :: if i.ret = true then [word (u.le la (operWidth i.op i.w))] else []) = _
        rw [hle]
        rfl
      · have hbytes : v.bytes la (operWidth i.op i.w) = _ := State.bytes_congr fun j _ => hvbyte (la + j)
        unfold State.le
        rw [hbytes]
        exact State.le_setLe_same u la _ _
      · rw [hrest]
        exact hcars
      · rw [hrest]
        exact hchain
      · intro b hb
        rw [hvbyte, State.byte_setLe_apart u _ hb, hbyte]
    · rintro who x h3 h5 hx rfl hi he
      have hn' : n = 3 ∨ n = 4 ∨ n = 5 := by omega
      rw [← hchain] at hx
      rw [hex]
      rcases hn' with rfl | rfl | rfl
      · exact congrArg Host.Outcome.next (answered_closes _ hx hi he)
      · exact congrArg Host.Outcome.next (answered_closes _ hx hi he)
      · exact congrArg Host.Outcome.next (answered_closes _ hx hi he)
    · rintro c x len signed h rfl hx hc hw hr hb hcode
      have hcar : u.carrel c = s.carrel c := htok.carrel c
      rw [← hchain] at hx
      rw [← hcar] at hw ⊢
      rw [hex]
      exact congrArg Host.Outcome.next (serveError_load hx hc hw hr hb hcode)
  · intro l s i u n downs
    refine ⟨fun hfind => ?_, fun hfind => ?_⟩
    · intro old now
      have hex := execBarrier_eq hfind
      refine ⟨fun hbit hnow => ?_, fun hbit hd => ?_⟩
      · exact hex.trans (congrArg Host.Outcome.next ((if_neg (by rw [hbit]; decide)).trans
          (arriveBarrier_waits (s := u) (now := now) rfl hnow)))
      · exact hex.trans (congrArg Host.Outcome.next ((if_pos hbit).trans (releaseBarrier_leaf (s := u) n hd)))
    · obtain ⟨t, ht, hsend, hleaf⟩ := execCensusStrobe_spec hfind
      refine ⟨t, ht, ?_, ?_, ?_, fun hd => ?_⟩
      · rw [hsend.state]
        rfl
      · rw [hsend.state]
        rfl
      · rw [hsend.state]
        rfl
      · rw [hleaf hd]
        rfl

end Sys2Proof.Machine
end

section
/-!
# Requests to a stack and its events
-/
namespace Sys2Proof.Machine

/-! ### Reports while the error ring is off -/

/-- Memory is what it was. -/
def SameMem (s t : State) : Prop := t.mem = s.mem ∧ t.lost = s.lost

theorem SameMem.refl (s : State) : SameMem s s := ⟨rfl, rfl⟩

theorem SameMem.trans {s t u : State} (h : SameMem s t) (g : SameMem t u) : SameMem s u :=
  ⟨g.1.trans h.1, g.2.trans h.2⟩

theorem SameMem.emcyNext (s : State) : SameMem s s.emcyNext := by
  unfold State.emcyNext
  split <;> exact ⟨rfl, rfl⟩

theorem SameMem.emcy (s : State) (code : BitVec 16) (b n : Option Nat) : SameMem s (s.emcy code b n) := by
  have htail (s : State) : SameMem s (if s.canTalk then
      let s := { s with dict := { s.dict with emcy := s.dict.emcy ++ [(code, b.getD 8, n)] } }
      if s.dict.inhibit then s else s.emcyNext
    else s) := by
    split
    · dsimp only
      split
      · exact ⟨rfl, rfl⟩
      · exact SameMem.trans ⟨rfl, rfl⟩ (SameMem.emcyNext _)
    · exact SameMem.refl s
  unfold State.emcy
  cases b with
  | none => exact htail s
  | some b => exact SameMem.trans ⟨rfl, rfl⟩ (htail _)

theorem SameMem.recordEmcy (s : State) (code : BitVec 16) (n : Nat) : SameMem s (s.recordEmcy code n) := by
  unfold State.recordEmcy
  split
  · exact SameMem.emcy _ _ _ _
  · split
    · exact SameMem.emcy _ _ _ _
    · split
      · exact SameMem.emcy _ _ _ _
      · exact SameMem.refl s

theorem SameMem.setRing (s : State) (r : Ring) : SameMem s (s.setRing r) := ⟨rfl, rfl⟩

theorem SameMem.ringLose (s : State) : SameMem s s.ringLose := by
  unfold State.ringLose
  exact (SameMem.setRing _ _).trans (SameMem.emcy _ _ _ _)

/-- A report that the ring does not write leaves memory as it is. -/
theorem report_sameMem {s : State} (rep : Report) (ref : Option Nat) (h : s.census.ring.en = false) :
    SameMem s (s.report rep ref) := by
  unfold State.report
  extract_lets r hrep s1 t l u v s2
  have h1 : SameMem s s1 := SameMem.setRing ..
  rw [if_neg (by rw [h]; decide)]
  have h2 : SameMem s s2 := by
    change SameMem s (if _ then _ else _)
    split
    · exact (h1.trans (SameMem.ringLose _)).trans (SameMem.setRing ..)
    · exact h1.trans (SameMem.setRing ..)
  exact h2.trans (SameMem.recordEmcy _ _ _)

theorem Reported.carrels {n : Nat} {s t : State} (h : Reported n s t) : t.carrels = s.carrels := by
  obtain ⟨_, _, _, _, _, _, _, _, rfl, _⟩ := h
  rfl

theorem Reported.hbm {n : Nat} {s t : State} (h : Reported n s t) : t.hbm = s.hbm := by
  obtain ⟨_, _, _, _, _, _, _, _, rfl, _⟩ := h
  rfl

theorem Reported.num {n : Nat} {s t : State} (h : Reported n s t) :
    t.census.ring.num = s.census.ring.num + n := by
  obtain ⟨_, _, _, _, _, _, _, _, rfl, hn⟩ := h
  exact hn

/-! ### Places of a stack -/

theorem halfMode_modStack {s : State} (i : Nat) {f : Stack → Stack} (hf : ∀ k, (f k).excluded = k.excluded) :
    (s.modStack i f).halfMode = s.halfMode := (TokensOnly.modStack s i hf).halfMode

theorem stackOf_congr {s t : State} (h : ∀ i, (t.stack i).excluded = (s.stack i).excluded) (a : Nat) :
    t.stackOf a = s.stackOf a := by
  have hh : t.halfMode = s.halfMode := congrArg (List.any (upto 8)) (funext h)
  have hs : t.halfStacks = s.halfStacks := by
    unfold State.halfStacks
    rw [funext h]
  unfold State.stackOf
  rw [hh, hs]

theorem decodeSo_spec (stack so : Nat) :
    let x := decodeSo stack so
    x.channel = x.pch / 2 ∧ x.pch < 64 ∧ x.bank < 32 ∧ x.granule < 4 ∧ x.byte < 256 ∧
    so = x.row * 2 ^ 21 + (x.bank ^^^ (x.row / 64 % 32)) * 2 ^ 16 + (x.pch ^^^ (x.row % 64)) * 2 ^ 10 +
      x.granule * 2 ^ 8 + x.byte := by
  intro x
  have hpch : x.pch ^^^ (x.row % 64) = so / 2 ^ 10 % 64 := Nat.xor_xor_cancel_right ..
  have hbank : x.bank ^^^ (x.row / 64 % 32) = so / 2 ^ 16 % 32 := Nat.xor_xor_cancel_right ..
  refine ⟨rfl, Nat.xor_lt_two_pow (n := 6) (Nat.mod_lt _ (by decide)) (Nat.mod_lt _ (by decide)),
    Nat.xor_lt_two_pow (n := 5) (Nat.mod_lt _ (by decide)) (Nat.mod_lt _ (by decide)), Nat.mod_lt _ (by decide),
    Nat.mod_lt _ (by decide), ?_⟩
  rw [hpch, hbank]
  show so = so / 2 ^ 21 * 2 ^ 21 + so / 2 ^ 16 % 32 * 2 ^ 16 + so / 2 ^ 10 % 64 * 2 ^ 10 + so / 2 ^ 8 % 4 * 2 ^ 8 +
    so % 2 ^ 8
  omega

theorem hbmPlaceOf_example {s : State} (h : s.halfMode = false) : s.hbmPlaceOf 0x0012345B40 =
    { stack := 5, channel := 24, pch := 48, bank := 6, row := 18, granule := 3, byte := 0x40 } := by
  unfold State.hbmPlaceOf State.stackOf State.stackOffset
  rw [h, if_neg (by decide), if_neg (by decide)]
  decide

/-! ### Arrival -/

theorem tokens_of_paying {r : HbmReq} (h : r.acc.cls ≠ .free) :
    r.tokens = match r.work with | .oper .. => 2 | _ => 1 := by
  unfold HbmReq.tokens
  cases hc : r.acc.cls with
  | free => exact absurd hc h
  | _ => rfl

/-- What a request does whose tokens are there. -/
theorem arrive_served {s : State} {r : HbmReq} (hr : s.reaches r = true)
    (hs : (s.stack (s.stackOf r.acc.addr.toNat)).selfref = false)
    (hw : ∀ x ∈ (s.stack (s.stackOf r.acc.addr.toNat)).waiting, x.acc.part ≠ r.acc.part ∨ x.acc.cls ≠ r.acc.cls)
    (hb : r.tokens ≤ (s.stack (s.stackOf r.acc.addr.toNat)).bucket r.acc.cls r.acc.part.toNat) :
    s.arrive r = (s.modStack (s.stackOf r.acc.addr.toNat) fun k =>
      k.drawTokens r.acc.cls r.acc.part.toNat r.tokens).perform r := by
  unfold State.arrive
  dsimp only
  rw [if_pos hr, if_neg (by rw [hs]; decide), if_neg]
  rintro ⟨_, hany | hlt⟩
  · obtain ⟨x, hx, hsame⟩ := List.any_eq_true.mp hany
    obtain ⟨h1, h2⟩ := (Bool.and_eq_true _ _).mp hsame
    rcases hw x hx with h | h
    · exact h (of_decide_eq_true h1).symm
    · exact h (of_decide_eq_true h2).symm
  · omega

theorem arrive_waits {s : State} {r : HbmReq} (hr : s.reaches r = true)
    (hs : (s.stack (s.stackOf r.acc.addr.toNat)).selfref = false) (hc : r.acc.cls ≠ .free)
    (h : (∃ x ∈ (s.stack (s.stackOf r.acc.addr.toNat)).waiting, x.acc.part = r.acc.part ∧ x.acc.cls = r.acc.cls) ∨
      (s.stack (s.stackOf r.acc.addr.toNat)).bucket r.acc.cls r.acc.part.toNat < r.tokens) :
    s.arrive r = s.modStack (s.stackOf r.acc.addr.toNat) fun k => k.hold r := by
  have htok : r.tokens ≠ 0 := by
    rw [tokens_of_paying hc]
    split <;> decide
  have hwait : (s.stack (s.stackOf r.acc.addr.toNat)).waiting.any (sameBucket r) = true ∨
      (s.stack (s.stackOf r.acc.addr.toNat)).bucket r.acc.cls r.acc.part.toNat < r.tokens := by
    refine h.imp_left fun ⟨x, hx, h1, h2⟩ => List.any_eq_true.mpr ⟨x, hx, ?_⟩
    unfold sameBucket
    rw [decide_eq_true h1.symm, decide_eq_true h2.symm]
    rfl
  unfold State.arrive
  dsimp only
  rw [if_pos hr, if_neg (by rw [hs]; decide), if_pos ⟨htok, hwait⟩]

theorem arrive_outside {s : State} {r : HbmReq} (h : s.hbmEnd ≤ r.acc.addr.toNat) : s.arrive r = s := by
  have hr : s.reaches r = false := by
    unfold State.reaches
    dsimp only
    rw [decide_eq_false (by omega)]
    rfl
  unfold State.arrive
  rw [if_neg (by rw [hr]; decide)]

/-! ### What a request does -/

theorem stack_modStack_same (s : State) (i : Nat) (f : Stack → Stack) : (s.modStack i f).stack i = f (s.stack i) := by
  rw [State.stack_modStack, if_pos rfl]

theorem drawTokens_excluded (k : Stack) (cls : HbmClass) (p n : Nat) :
    (k.drawTokens cls p n).excluded = k.excluded := by
  cases cls <;> rfl

theorem perform_read {s : State} {acc : HbmAccess} (hc : acc.ecc = .clean) (hl : s.lost = []) :
    s.perform { acc := acc, work := .read } = s := by
  unfold State.perform
  dsimp only
  rw [hc]
  dsimp only
  rw [lostIn_of_kept hl, if_neg (by decide)]

theorem perform_write {s : State} {acc : HbmAccess} {data : List Byte} {mask : List Bool} (hc : acc.ecc = .clean)
    (hl : s.lost = []) : s.perform { acc := acc, work := .write data mask } =
      s.burstWrite (acc.addr.toNat / 64 * 64) data mask := by
  unfold State.perform
  dsimp only
  rw [hc]
  dsimp only
  rw [if_neg]
  intro hany
  obtain ⟨w, _, hw⟩ := List.any_eq_true.mp hany
  rw [lostIn_of_kept hl] at hw
  simp at hw

theorem perform_oper {s : State} {acc : HbmAccess} {op : BitVec 4} {w : Bool} {data cmp : Word}
    (hc : acc.ecc = .clean) (hl : s.lost = []) : s.perform { acc := acc, work := .oper op w data cmp } =
      (s.hbmOper acc.addr.toNat op w data cmp).2 := by
  unfold State.perform
  dsimp only
  rw [hc]
  dsimp only
  rw [lostIn_of_kept hl, if_neg (by decide)]

/-- The counts that an operation of a memory-side adder raises at its stack. -/
def Stack.adderCounts (k : Stack) (st : AddStat) : Stack :=
  { k with nanProd := satAdd k.nanProd st.nan, ovf := satAdd k.ovf st.ovf }

/-- An operation before its fixed-point saturation is reported. -/
def State.operWritten (s : State) (a : Nat) (op : BitVec 4) (w : Bool) (x cmp : Word) : State :=
  let r := operNew op w (s.le a (operWidth op w)) x.toNat cmp.toNat
  (s.setLe a (operWidth op w) r.1).modStack (s.stackOf a) fun k => k.adderCounts r.2

theorem setLe_stackOf (s : State) (a n x b : Nat) : (s.setLe a n x).stackOf b = s.stackOf b :=
  stackOf_congr (fun i => congrArg (fun t : Tab Stack => (Tab.get Stack.reset t i).excluded) (State.setLe_hbm s a n
      x)) b

theorem hbmOper_eq (s : State) (a : Nat) (op : BitVec 4) (w : Bool) (x cmp : Word) :
    (s.hbmOper a op w x cmp).2 =
      if (operNew op w (s.le a (operWidth op w)) x.toNat cmp.toNat).2.sat = true then
        (s.operWritten a op w x cmp).fxSatAt a
      else s.operWritten a op w x cmp := by
  unfold State.hbmOper
  dsimp only
  rw [setLe_stackOf]
  rfl

theorem operWritten_rest (s : State) (a : Nat) (op : BitVec 4) (w : Bool) (x cmp : Word) :
    s.operWritten a op w x cmp =
      { s with mem := (s.operWritten a op w x cmp).mem, hbm := (s.operWritten a op w x cmp).hbm } := by
  unfold State.operWritten
  exact State.modStack_rest (State.setBytes_eq s a _) _ _

theorem operWritten_byte (s : State) (a : Nat) (op : BitVec 4) (w : Bool) (x cmp : Word) (b : Nat) :
    (s.operWritten a op w x cmp).byte b = (s.setLe a (operWidth op w)
      (operNew op w (s.le a (operWidth op w)) x.toNat cmp.toNat).1).byte b := rfl

theorem operWritten_le (s : State) (a : Nat) (op : BitVec 4) (w : Bool) (x cmp : Word) :
    (s.operWritten a op w x cmp).le a (operWidth op w) =
      (operNew op w (s.le a (operWidth op w)) x.toNat cmp.toNat).1 % 256 ^ operWidth op w :=
  State.le_setLe_same ..

/-- A saturation that is reported changes no carrel, nor memory while the ring is off. -/
theorem fxSatAt_spec (s : State) (a : Nat) :
    (s.fxSatAt a).carrels = s.carrels ∧ (s.census.ring.en = false → (s.fxSatAt a).mem = s.mem) := by
  unfold State.fxSatAt
  dsimp only
  generalize hu : s.modStack (s.stackOf a) (fun k => { k with fxSat := satInc k.fxSat }) = u
  have hcar : u.carrels = s.carrels := by rw [← hu]; rfl
  have hmem : u.mem = s.mem := by rw [← hu]; rfl
  have hen : u.census.ring.en = s.census.ring.en := by rw [← hu]; rfl
  exact ⟨(State.report_spec u _ none).carrels.trans hcar,
    fun h => (report_sameMem _ _ (hen.trans h)).1.trans hmem⟩

/-! ### Events of a stack -/

theorem hbmReread_spec {s : State} {addr : BitVec 44} (clean : Bool) {x : HbmAccess}
    (h : (s.stack (s.stackOf addr.toNat)).reread.find? (fun x => decide (x.addr = addr)) = some x) :
    let i := s.stackOf addr.toNat
    ∃ t, execHbmReread addr clean s = .next t ∧
      (t.stack i).reread = (s.stack i).reread.erase x ∧ t.census.ring.num = s.census.ring.num + 1 ∧
      t.carrels = s.carrels ∧
      (s.census.ring.en = false → t.mem = s.mem ∧ (clean = true → t.lost = s.lost) ∧
        (clean = false → Tab.get false t.lost (addr.toNat / 8) = true)) := by
  intro i
  have key (u : State) (rep : Report) (hst : (u.stack i).reread = (s.stack i).reread.erase x)
      (hring : u.census.ring = s.census.ring) (hcar : u.carrels = s.carrels) (hmem : u.mem = s.mem)
      (hlost : (clean = true → u.lost = s.lost) ∧ (clean = false → Tab.get false u.lost (addr.toNat / 8) = true)) :
      ((u.report rep).stack i).reread = (s.stack i).reread.erase x ∧
      (u.report rep).census.ring.num = s.census.ring.num + 1 ∧ (u.report rep).carrels = s.carrels ∧
      (s.census.ring.en = false → (u.report rep).mem = s.mem ∧ (clean = true → (u.report rep).lost = s.lost) ∧
        (clean = false → Tab.get false (u.report rep).lost (addr.toNat / 8) = true)) := by
    have hrep := State.report_spec u rep none
    refine ⟨?_, hrep.num.trans (by rw [hring]), hrep.carrels.trans hcar, fun hen => ?_⟩
    · unfold State.stack
      rw [hrep.hbm]
      exact hst
    · obtain ⟨hm, hl⟩ := report_sameMem rep none (s := u) (by rw [hring]; exact hen)
      refine ⟨hm.trans hmem, ?_⟩
      rw [hl]
      exact hlost
  have hle : addr.toNat / 64 * 64 ≤ addr.toNat := Nat.div_mul_le_self ..
  have hst : ((s.modStack i fun k => { k with reread := k.reread.erase x }).stack i).reread =
      (s.stack i).reread.erase x := by rw [stack_modStack_same]
  unfold execHbmReread
  dsimp only
  rw [h]
  dsimp only
  cases clean with
  | true =>
    refine ⟨_, congrArg Host.Outcome.next (if_pos hle), ?_⟩
    exact key _ _ hst rfl rfl rfl ⟨fun _ => rfl, fun h => (by cases h)⟩
  | false =>
    refine ⟨_, congrArg Host.Outcome.next (if_pos hle), ?_⟩
    exact key _ _ hst rfl rfl rfl ⟨fun h => (by cases h), fun _ => Tab.get_set_same false s.lost (addr.toNat / 8) true⟩

theorem stackCorr_quiet {s : State} {i n : Nat} (h : (s.stack i).corrPeriod + n ≤ s.census.corrLimit.toNat) :
    s.stackCorr i n = s.modStack i fun k => { k with corr := satAdd k.corr n, corrPeriod := k.corrPeriod + n } := by
  unfold State.stackCorr
  dsimp only
  exact if_neg fun hc => absurd hc.2 (Nat.not_lt.mpr h)

theorem modStack_congr {s : State} {i : Nat} {f g : Stack → Stack} (h : f (s.stack i) = g (s.stack i)) :
    s.modStack i f = s.modStack i g := by
  unfold State.modStack
  rw [h]

/-- An operation that is let through: the stack's tokens are drawn, the operand replaced, the events counted. -/
theorem operServed {s : State} {a : Nat} (op : BitVec 4) (w : Bool) (x cmp : Word) {f : Stack → Stack}
    (hf : ∀ k, (f k).excluded = k.excluded) :
    let i := s.stackOf a
    let n := operWidth op w
    let r := operNew op w (s.le a n) x.toNat cmp.toNat
    let t := ((s.modStack i f).hbmOper a op w x cmp).2
    (r.2.sat = false ∨ s.census.ring.en = false →
      t.le a n = r.1 % 256 ^ n ∧ ∀ b, (b < a ∨ a + n ≤ b) → t.byte b = s.byte b) ∧
    t.carrels = s.carrels ∧
    (r.2.sat = false → t = { s with hbm := t.hbm, mem := t.mem } ∧ (∀ j, j ≠ i → t.stack j = s.stack j) ∧
      t.stack i = (f (s.stack i)).adderCounts r.2) := by
  intro i n r t
  have hi : (s.modStack i f).stackOf a = i := stackOf_congr (TokensOnly.modStack s i hf).excluded a
  have hrest := operWritten_rest (s.modStack i f) a op w x cmp
  have hle := operWritten_le (s.modStack i f) a op w x cmp
  have hbyte (b : Nat) (hb : b < a ∨ a + n ≤ b) : ((s.modStack i f).operWritten a op w x cmp).byte b = s.byte b :=
    (operWritten_byte _ _ _ _ _ _ b).trans (State.byte_setLe_apart (s.modStack i f) _ hb)
  have ht : t = if r.2.sat = true then ((s.modStack i f).operWritten a op w x cmp).fxSatAt a
      else (s.modStack i f).operWritten a op w x cmp := hbmOper_eq ..
  have hst (j : Nat) : ((s.modStack i f).operWritten a op w x cmp).stack j =
      if j = i then (f (s.stack i)).adderCounts r.2 else s.stack j := by
    have hset (y : Nat) (m : Nat) : ((s.modStack i f).setLe a n y).stack m = (s.modStack i f).stack m :=
      congrArg (fun t : Tab Stack => Tab.get Stack.reset t m) (State.setLe_hbm ..)
    unfold State.operWritten
    dsimp only
    rw [hi, State.stack_modStack, hset, hset, stack_modStack_same]
    split
    · rfl
    · next hj => rw [State.stack_modStack, if_neg hj]
  generalize hv : (s.modStack i f).operWritten a op w x cmp = v at *
  have hring : v.census = s.census := by rw [hrest]; rfl
  have hcar : v.carrels = s.carrels := by rw [hrest]; rfl
  cases hsat : r.2.sat with
  | false =>
    rw [hsat, if_neg (by decide)] at ht
    rw [ht]
    refine ⟨fun _ => ⟨hle, hbyte⟩, hcar, fun _ => ⟨hrest, fun j hj => ?_, ?_⟩⟩
    · rw [hst, if_neg hj]
    · rw [hst, if_pos rfl]
  | true =>
    rw [hsat, if_pos rfl] at ht
    rw [ht]
    obtain ⟨hfc, hfm⟩ := fxSatAt_spec v a
    refine ⟨fun h => ?_, hfc.trans hcar, fun h => by cases h⟩
    have hmem := hfm (by rw [hring]; exact h.resolve_left (by decide))
    have hb (b : Nat) : (v.fxSatAt a).byte b = v.byte b := by
      unfold State.byte
      rw [hmem]
    refine ⟨?_, fun b h => (hb b).trans (hbyte b h)⟩
    unfold State.le at hle ⊢
    rw [State.bytes_congr fun j _ => hb (a + j)]
    exact hle

/-- Settles O31: requests by what the controller finds, the events of a stack, and where a stack offset lies. -/
theorem hbmRequests : Obligations.HbmRequests := by
  unfold Obligations.HbmRequests
  refine ⟨?_, ⟨?_, ?_, ?_, ?_⟩, fun s h => hbmPlaceOf_example h, decodeSo_spec⟩
  · intro drawn bucket cmd legal cost
    have hdrawn (k : Stack) (r : HbmReq) :
        k.drawTokens r.acc.cls r.acc.part.toNat r.tokens = drawn k r.acc (cost r.work) := by
      unfold drawn HbmReq.tokens cost
      cases r.acc.cls <;> rfl
    have hexcl (acc : HbmAccess) (n : Nat) (k : Stack) : (drawn k acc n).excluded = k.excluded := by
      unfold drawn
      cases acc.cls <;> rfl
    have hbucket (k : Stack) (r : HbmReq) (h : cost r.work ≤ bucket k r.acc) :
        r.tokens ≤ k.bucket r.acc.cls r.acc.part.toNat := by
      unfold bucket cost at h
      unfold HbmReq.tokens Stack.bucket
      cases hc : r.acc.cls with
      | free => exact Nat.zero_le _
      | _ => rw [hc] at h; exact h
    have hless (k : Stack) (r : HbmReq) (hc : r.acc.cls ≠ .free) :
        bucket k r.acc < cost r.work ↔ k.bucket r.acc.cls r.acc.part.toNat < r.tokens := by
      rw [tokens_of_paying hc]
      unfold bucket cost Stack.bucket
      cases h : r.acc.cls with
      | free => exact absurd h hc
      | _ => exact Iff.rfl
    have hexec (acc : HbmAccess) (w : HbmWork) (s : State) (hl : legal w) :
        Sys2Proof.Machine.exec (cmd acc w) s = .next (s.arrive { acc := acc, work := w }) := by
      cases w with
      | read => rfl
      | write data mask => exact if_pos hl
      | oper op w data cmp => exact congrArg Host.Outcome.next (if_neg hl)
    refine ⟨?_, ?_, ?_⟩
    · intro acc w s hl hr i k blk hs
      refine ⟨fun hw hb hc hlost => ?_, fun hc h => ?_⟩
      · have hserved := arrive_served hr hs hw (hbucket k ⟨acc, w⟩ hb)
        have hfun : (fun k : Stack => k.drawTokens acc.cls acc.part.toNat (HbmReq.tokens ⟨acc, w⟩)) =
            (drawn · acc (cost w)) := funext fun k => hdrawn k ⟨acc, w⟩
        have hexe : Sys2Proof.Machine.exec (cmd acc w) s =
            .next ((s.modStack i (drawn · acc (cost w))).perform { acc := acc, work := w }) := by
          rw [hexec acc w s hl, hserved]
          exact congrArg (fun f => Host.Outcome.next ((s.modStack i f).perform ⟨acc, w⟩)) hfun
        cases w with
        | read => exact ⟨_, hexe.trans (congrArg Host.Outcome.next (perform_read hc hlost)), rfl⟩
        | write data mask =>
          refine ⟨_, hexe.trans (congrArg Host.Outcome.next (perform_write hc hlost)), ?_, fun j hj => ?_,
              fun b hb => ?_⟩
          · exact (burstWrite_wrote ..).rest_of_kept hlost
          · rw [burstWrite_byte, Nat.add_sub_cancel_left, hl.1]
            exact if_congr ⟨fun h => h.2.2, fun h => ⟨by omega, by omega, h⟩⟩ rfl rfl
          · rw [burstWrite_byte, hl.1, if_neg (by omega)]
            rfl
        | oper op w data cmp =>
          refine ⟨_, hexe.trans (congrArg Host.Outcome.next (perform_oper hc hlost)), ?_⟩
          obtain ⟨hbytes, hcar, hst⟩ := operServed (s := s) (a := acc.addr.toNat) op w data cmp (f := (drawn · acc 2))
            (hexcl acc 2)
          have hcounts (st : AddStat) : (drawn k acc 2).adderCounts st =
              { drawn k acc 2 with nanProd := satAdd k.nanProd st.nan, ovf := satAdd k.ovf st.ovf } := by
            unfold drawn Stack.adderCounts
            cases acc.cls <;> rfl
          refine ⟨hbytes, hcar, fun h => ?_⟩
          obtain ⟨hrest, hother, hown⟩ := hst h
          exact ⟨hrest, hother, hown.trans (hcounts _)⟩
      · have hwait := arrive_waits (r := ⟨acc, w⟩) hr hs hc (h.imp_right (hless k ⟨acc, w⟩ hc).mp)
        rw [hexec acc w s hl, hwait]
        refine congrArg (fun f => Host.Outcome.next (s.modStack i f)) (funext fun k => ?_)
        unfold Stack.hold Stack.exhaust
        dsimp only
        split <;> rfl
    · intro acc w s hl h
      rw [hexec acc w s hl, arrive_outside h]
    · intro i part planned s r hs hfind
      have hpay : r.acc.cls ≠ .free := by
        have hk := List.find?_some hfind
        simp only [Bool.and_eq_true, decide_eq_true_eq] at hk
        rw [hk.2]
        cases planned <;> exact fun h => by cases h
      have hex : Sys2Proof.Machine.exec (.tokenWaitServed i part planned) s =
          .next (if (s.stack i.toNat).bucket r.acc.cls r.acc.part.toNat < r.tokens then s
            else (s.modStack i.toNat fun k => ({ k with waiting := k.waiting.erase r } : Stack).drawTokens r.acc.cls
              r.acc.part.toNat r.tokens).perform r) := by
        show execTokenWaitServed i part planned s = _
        unfold execTokenWaitServed
        dsimp only
        rw [hs, hfind]
        rfl
      refine ⟨fun h => ?_, fun h hw hc hlost => ?_⟩
      · rw [hex, if_pos ((hless _ r hpay).mp h)]
      · rw [hex, if_neg (fun hlt => absurd ((hless _ r hpay).mpr hlt) (by rw [hw]; exact Nat.not_lt.mpr h))]
        obtain ⟨acc, work⟩ := r
        subst hw
        have hread (f : Stack → Stack) : (s.modStack i.toNat f).perform ⟨acc, .read⟩ = s.modStack i.toNat f :=
          perform_read hc hlost
        exact congrArg Host.Outcome.next ((hread _).trans
          (congrArg (s.modStack i.toNat) (funext fun k => hdrawn { k with waiting := _ } ⟨acc, .read⟩)))
  · intro addr clean s x i hx
    exact hbmReread_spec clean hx
  · intro i addr n s hen hst hlt
    have hgo : (s.stack i.toNat).scrubEn = true ∧ s.stackOf addr.toNat = i.toNat ∧ addr.toNat < s.hbmEnd :=
      ⟨hen, hst, hlt⟩
    refine ⟨congrArg Host.Outcome.next (if_pos hgo), fun hq => ?_, ?_⟩
    · exact congrArg Host.Outcome.next ((if_pos hgo).trans (stackCorr_quiet hq))
    · refine ⟨_, congrArg Host.Outcome.next (if_pos hgo), ?_,
        ⟨addr, 0, .free, .uncorrectable, BitVec.allOnes 16, BitVec.allOnes 16⟩, ?_, rfl⟩
      · dsimp only
        rw [State.stackUncorr, stack_modStack_same]
      · dsimp only
        rw [State.stackUncorr, stack_modStack_same]
  · intro i temp s
    rfl
  · intro i s
    refine ⟨fun h => ?_, fun h hx hw => ?_, fun h => ?_⟩
    · exact congrArg Host.Outcome.next (modStack_congr (if_pos h))
    · refine congrArg Host.Outcome.next ((if_pos (by rw [h, hx]; rfl)).trans ?_)
      rw [hw]
      rfl
    · exact congrArg Host.Outcome.next (if_neg (by rw [h]; exact Bool.false_ne_true))

end Sys2Proof.Machine
end

section
/-!
# What the engines of a carrel may change
-/
namespace Sys2Proof.Machine

/-! ### An engine's work -/

/-- Work of an engine of carrel `c`: memory and, of the carrels' registers, those of `c` alone that `f` forgets. -/
structure Works (f : Carrel → Carrel) (c : BitVec 12) (s t : State) : Prop where
  rest : t = { s with mem := t.mem, lost := t.lost, carrels := t.carrels }
  others : ∀ e, e ≠ c → t.carrel e = s.carrel e
  own : f (t.carrel c) = f (s.carrel c)

namespace Works
variable {f : Carrel → Carrel} {c : BitVec 12} {s t u : State}

theorem refl (f : Carrel → Carrel) (c : BitVec 12) (s : State) : Works f c s s := ⟨rfl, fun _ _ => rfl, rfl⟩

theorem trans (h : Works f c s t) (g : Works f c t u) : Works f c s u where
  rest := g.rest.trans (congrArg (fun v : State =>
      { v with mem := u.mem, lost := u.lost, carrels := u.carrels }) h.rest)
  others e he := (g.others e he).trans (h.others e he)
  own := g.own.trans h.own

theorem of_wrote (h : Wrote s t) : Works f c s t where
  rest := h.rest.trans (by
    have hc : t.carrels = s.carrels := by rw [h.rest]
    rw [hc])
  others e _ := h.carrel e
  own := by rw [h.carrel]

theorem store (s : State) (a : Nat) (b : List Byte) : Works f c s (s.store a b) := of_wrote (s.store_wrote a b)

theorem mod (s : State) {g : Carrel → Carrel} (hg : ∀ k, f (g k) = f k) : Works f c s (s.modCarrel c g) where
  rest := rfl
  others _ he := State.carrel_modCarrel_other _ _ he
  own := by rw [State.carrel_modCarrel_same, hg]

theorem foldl {α : Type} {g : State → α → State} (hg : ∀ s x, Works f c s (g s x)) (l : List α) :
    ∀ s, Works f c s (l.foldl g s) := by
  induction l with
  | nil => exact fun s => refl f c s
  | cons x l ih => exact fun s => (hg s x).trans (ih _)

theorem storeCodes (s : State) (a b : Nat) (l : List Nat) : Works f c s (s.storeCodes a b l) := by
  unfold State.storeCodes
  dsimp only
  split
  · exact store ..
  · exact store ..

theorem reportEvents (hf : ∀ k n, f { k with nan := n } = f k) (s : State) (src : BitVec 3) (op : Nat)
    (l : List Event) : Works f c s (s.reportEvents c src op l) := by
  unfold State.reportEvents
  split
  · exact mod s fun k => hf k _
  · exact refl f c s

theorem orFlags (hf : ∀ k x, f { k with tiles := x } = f k) (s : State) (t n : Nat) :
    Works f c s (s.orFlags c t n) := mod s fun k => hf k _

theorem clearFlags (hf : ∀ k x, f { k with tiles := x } = f k) (s : State) (t : Nat) :
    Works f c s (s.clearFlags c t) := mod s fun k => hf k _

end Works

/-- A carrel but for what the matrix array may change. -/
def Carrel.lessArray (k : Carrel) : Carrel :=
  { k with stationary := none, tiles := [], nan := NanRec.reset, count := { k.count with satArray := 0 } }

theorem Carrel.eq_of_lessArray {k j : Carrel} (h : j.lessArray = k.lessArray) :
    j = { k with
      stationary := j.stationary, tiles := j.tiles, nan := j.nan
      count := { k.count with satArray := j.count.satArray } } :=
  congrArg (fun i : Carrel => { i with
    stationary := j.stationary, tiles := j.tiles, nan := j.nan
    count := { i.count with satArray := j.count.satArray } }) h

/-- A carrel but for what the element engine may change. -/
def Carrel.lessElement (k : Carrel) : Carrel :=
  { k with tiles := [], nan := NanRec.reset, count := { k.count with satElem := 0 } }

theorem Carrel.eq_of_lessElement {k j : Carrel} (h : j.lessElement = k.lessElement) :
    j = { k with tiles := j.tiles, nan := j.nan, count := { k.count with satElem := j.count.satElem } } :=
  congrArg (fun i : Carrel => { i with
    tiles := j.tiles, nan := j.nan, count := { i.count with satElem := j.count.satElem } }) h

theorem engineWake_of_none {s : State} {c : BitVec 12} (h : (s.carrel c).wait = .none) : s.engineWake c = s := by
  unfold State.engineWake State.settleBar
  dsimp only
  rw [h]
  dsimp only
  split <;> rfl

/-! ### Bytes that codes are stored in -/

/-- Only bytes of a range may change. -/
def KeptOutside (a n : Nat) (s t : State) : Prop := ∀ b, (b < a ∨ a + n ≤ b) → t.byte b = s.byte b

theorem KeptOutside.trans {a n : Nat} {s t u : State} (h : KeptOutside a n s t) (g : KeptOutside a n t u) :
    KeptOutside a n s u := fun b hb => (g b hb).trans (h b hb)

theorem KeptOutside.within {a n a' n' : Nat} {s t : State} (h : KeptOutside a' n' s t) (h1 : a ≤ a')
    (h2 : a' + n' ≤ a + n) : KeptOutside a n s t := fun b hb => h b (by omega)

/-- Codes of whole bytes keep every byte outside their own. -/
theorem storeCodes_kept (s : State) (base m : Nat) (l : List Nat) :
    KeptOutside base (l.length * m) s (s.storeCodes base (8 * m) l) := by
  have hbits : l.length * (8 * m) = l.length * m * 8 := by
    rw [← Nat.mul_assoc, Nat.mul_assoc, Nat.mul_comm 8 m, ← Nat.mul_assoc]
  intro b hb
  unfold State.storeCodes
  dsimp only
  rw [hbits, Nat.mul_mod_left, if_pos rfl, Nat.mul_div_cancel _ (by decide), State.store_byte, State.byte_setBytes,
    length_natToBytes, if_neg (by omega)]

/-! ### The matrix array -/

theorem Works.clearRows {f : Carrel → Carrel} {c : BitVec 12} (s : State) (d : ArrDesc) :
    Works f c s (s.clearRows c d) := Works.store ..

theorem clearRows_byte (s : State) (c : BitVec 12) (d : ArrDesc) (b : Nat) :
    let a := outAddr c d.acc d.rowbase 0
    (s.clearRows c d).byte b = if a ≤ b ∧ b < a + d.rows * 16 * accSize d.acc then 0 else s.byte b := by
  intro a
  unfold State.clearRows
  rw [State.store_byte, State.byte_setBytes, List.length_replicate]
  refine if_congr Iff.rfl ?_ rfl
  rw [List.getD_eq_getElem?_getD, List.getElem?_replicate]
  split <;> rfl

/-- What the streaming of rows keeps. -/
structure Streamed (c : BitVec 12) (d : ArrDesc) (s t : State) : Prop where
  works : Works Carrel.lessArray c s t
  stationary : (t.carrel c).stationary = (s.carrel c).stationary
  bytes : tyBits d.acc = 8 * accSize d.acc →
    KeptOutside (outAddr c d.acc d.rowbase 0) (d.rows * 16 * accSize d.acc) s t

theorem Streamed.refl (c : BitVec 12) (d : ArrDesc) (s : State) : Streamed c d s s :=
  ⟨Works.refl .., rfl, fun _ _ _ => rfl⟩

theorem Streamed.trans {c : BitVec 12} {d : ArrDesc} {s t u : State} (h : Streamed c d s t) (g : Streamed c d t u) :
    Streamed c d s u :=
  ⟨h.works.trans g.works, g.stationary.trans h.stationary, fun ha => (h.bytes ha).trans (g.bytes ha)⟩

/-- The outputs of one row: they lie in its tile row. -/
theorem Streamed.row (s : State) (c : BitVec 12) (d : ArrDesc) {i : Nat} {l : List Nat} (hi : i < d.rows)
    (hl : l.length ≤ 16) : Streamed c d s (s.storeCodes (outAddr c d.acc (d.rowbase + i) 0) (tyBits d.acc) l) where
  works := Works.storeCodes ..
  stationary := by
    have h : (s.storeCodes (outAddr c d.acc (d.rowbase + i) 0) (tyBits d.acc) l).carrel c = s.carrel c := by
      unfold State.storeCodes
      dsimp only
      split
      · exact (s.store_wrote ..).carrel c
      · exact (s.store_wrote ..).carrel c
    rw [h]
  bytes ha := by
    rw [ha]
    refine KeptOutside.within (storeCodes_kept s _ _ l) ?_ ?_
    · unfold outAddr
      have := Nat.mul_le_mul_right (16 * accSize d.acc) (Nat.le_add_right d.rowbase i)
      omega
    · unfold outAddr
      have h1 : l.length * accSize d.acc ≤ 16 * accSize d.acc := Nat.mul_le_mul_right _ hl
      have h2 : (i + 1) * (16 * accSize d.acc) ≤ d.rows * (16 * accSize d.acc) := Nat.mul_le_mul_right _ hi
      have h3 : (d.rowbase + i) * (16 * accSize d.acc) = d.rowbase * (16 * accSize d.acc) + i * (16 * accSize d.acc) :=
        Nat.add_mul ..
      have h4 : (i + 1) * (16 * accSize d.acc) = i * (16 * accSize d.acc) + 16 * accSize d.acc := Nat.succ_mul ..
      rw [Nat.mul_assoc d.rows]
      omega

theorem Streamed.foldl {β : Type} {c : BitVec 12} {d : ArrDesc} {g : State × β → Nat → State × β}
    (hg : ∀ q i, i < d.rows → Streamed c d q.1 (g q i).1) (s : State) (x : β) :
    Streamed c d s ((upto d.rows).foldl g (s, x)).1 :=
  List.foldlRecOn (motive := fun r => Streamed c d s r.1) (upto d.rows) g (Streamed.refl c d s)
    fun r hr i hi => hr.trans (hg r i (List.mem_range.mp hi))

theorem Streamed.mod {c : BitVec 12} {d : ArrDesc} (s : State) {f : Carrel → Carrel}
    (hf : ∀ k, (f k).lessArray = k.lessArray) (hst : ∀ k, (f k).stationary = k.stationary) :
    Streamed c d s (s.modCarrel c f) :=
  ⟨Works.mod s hf, by rw [State.carrel_modCarrel_same, hst], fun _ _ _ => rfl⟩

theorem Streamed.reportEvents {c : BitVec 12} {d : ArrDesc} (s : State) (src : BitVec 3) (op : Nat) (l : List Event) :
    Streamed c d s (s.reportEvents c src op l) := by
  unfold State.reportEvents State.engineNan State.reportNan
  split
  · exact Streamed.mod s (fun _ => rfl) fun _ => rfl
  · exact Streamed.refl c d s

theorem Streamed.orFlags {c : BitVec 12} {d : ArrDesc} (s : State) (t n : Nat) :
    Streamed c d s (s.orFlags c t n) := by
  unfold State.orFlags
  exact Streamed.mod s (fun _ => rfl) fun _ => rfl

theorem runMstr_streamed (s : State) (c : BitVec 12) (d : ArrDesc) : Streamed c d s (s.runMstr c d) := by
  unfold State.runMstr
  cases (s.carrel c).stationary with
  | none => exact Streamed.refl c d s
  | some st =>
    dsimp only
    refine Streamed.trans ?_ ((Streamed.orFlags ..).trans (Streamed.reportEvents ..))
    refine Streamed.foldl (fun q i hi => ?_) s _
    exact Streamed.row q.1 c d hi (by
      rw [List.length_map, List.length_map]
      unfold upto
      rw [List.length_range]
      split <;> decide)

theorem runMrd_works (s : State) (c : BitVec 12) (d : ArrDesc) : Works Carrel.lessArray c s (s.runMrd c d) := by
  unfold State.runMrd
  extract_lets q val rnd cols blocks outs base codeAt b s1 s2 sats s3 s4
  have h1 : Works Carrel.lessArray c s s1 := by
    unfold s1
    split
    · exact Works.storeCodes ..
    · exact Works.foldl (fun s i => Works.storeCodes ..) _ s
  have h2 : Works Carrel.lessArray c s1 s2 := Works.foldl (fun s x => by
    obtain ⟨_ | a, _, sc⟩ := x
    · exact Works.refl ..
    · exact Works.store ..) _ s1
  have h3 : Works Carrel.lessArray c s2 s3 := Works.mod s2 fun _ => rfl
  have h4 : Works Carrel.lessArray c s3 s4 := Works.reportEvents (fun _ _ => rfl) ..
  have h := ((h1.trans h2).trans h3).trans h4
  split
  · exact (h.trans (Works.clearRows s4 d)).trans (Works.clearFlags (fun _ _ => rfl) ..)
  · exact h

theorem runMld_works (s : State) (c : BitVec 12) (d : ArrDesc) : Works Carrel.lessArray c s (s.runMld c d) := by
  unfold State.runMld
  exact Works.mod s fun _ => rfl

/-- A descriptor with its parameter word added to the source. -/
def Issued.arr (x : Issued) : ArrDesc :=
  { arrDesc x.desc with
    src := (arrDesc x.desc).src + (x.param.map BitVec.toNat).getD 0 * (arrDesc x.desc).pstep }

theorem runArray_works (s : State) (c : BitVec 12) (x : Issued) : Works Carrel.lessArray c s (s.runArray c x) := by
  unfold State.runArray
  dsimp only
  split
  · exact runMld_works ..
  · exact (runMstr_streamed ..).works
  · exact runMrd_works ..
  · exact (Works.clearRows s _).trans (Works.clearFlags (fun _ _ => rfl) ..)

theorem runArray_mld {s : State} {c : BitVec 12} {x : Issued} (h : leAt x.desc 4 1 = 0) :
    s.runArray c x = s.runMld c x.arr := by
  have hk : (arrDesc x.desc).kind = 0 := h
  unfold State.runArray
  dsimp only
  rw [hk]
  rfl

theorem runArray_mstr {s : State} {c : BitVec 12} {x : Issued} (h : leAt x.desc 4 1 = 1) :
    s.runArray c x = s.runMstr c x.arr := by
  have hk : (arrDesc x.desc).kind = 1 := h
  unfold State.runArray
  dsimp only
  rw [hk]
  rfl

theorem runArray_mclr {s : State} {c : BitVec 12} {x : Issued} (h : leAt x.desc 4 1 = 3) :
    s.runArray c x = (s.clearRows c x.arr).clearFlags c x.arr.tile := by
  have hk : (arrDesc x.desc).kind = 3 := h
  unfold State.runArray
  dsimp only
  rw [hk]
  rfl

/-- A stationary load reads memory and leaves it. -/
theorem runMld_spec (s : State) (c : BitVec 12) (d : ArrDesc) :
    (s.runMld c d).mem = s.mem ∧ ((s.runMld c d).carrel c).tiles = (s.carrel c).tiles ∧
      ∃ st ∈ ((s.runMld c d).carrel c).stationary, st.fmt = BitVec.ofNat 16 d.fmt.ty ∧ st.split = d.split := by
  unfold State.runMld
  dsimp only
  rw [State.carrel_modCarrel_same]
  exact ⟨rfl, rfl, _, rfl, rfl, rfl⟩

/-- The flags of a word cleared. -/
theorem clearFlags_word (w : Word) : w &&& ~~~ 15#64 = BitVec.ofNat 64 (w.toNat / 16 * 16) := by
  have h : w &&& ~~~ 15#64 = (w >>> 4) <<< 4 := by
    refine BitVec.eq_of_getLsbD_eq fun i hi => ?_
    have h15 : (15#64).getLsbD i = decide (i < 4) := by
      rw [show (15#64) = BitVec.ofNat 64 (2 ^ 4 - 1) from rfl, BitVec.getLsbD_ofNat, Nat.testBit_two_pow_sub_one,
        decide_eq_true hi, Bool.true_and]
    rw [BitVec.getLsbD_and, BitVec.getLsbD_not, h15, BitVec.getLsbD_shiftLeft, BitVec.getLsbD_ushiftRight]
    by_cases h4 : i < 4
    · simp [h4]
    · simp [h4, hi, show 4 + (i - 4) = i by omega]
  refine h.trans (BitVec.eq_of_toNat_eq ?_)
  rw [BitVec.toNat_shiftLeft, BitVec.toNat_ushiftRight, Nat.shiftRight_eq_div_pow, Nat.shiftLeft_eq, BitVec.toNat_ofNat]

theorem mclr_spec (s : State) (c : BitVec 12) (d : ArrDesc) :
    let t := (s.clearRows c d).clearFlags c d.tile
    let a := outAddr c d.acc d.rowbase 0
    (∀ b, t.byte b = if a ≤ b ∧ b < a + d.rows * 16 * accSize d.acc then 0 else s.byte b) ∧
      (t.carrel c).stationary = (s.carrel c).stationary ∧
      ∀ i, Tab.get 0 (t.carrel c).tiles i = if i = d.tile then
        BitVec.ofNat 64 ((Tab.get 0 (s.carrel c).tiles i).toNat / 16 * 16) else Tab.get 0 (s.carrel c).tiles i := by
  intro t a
  have hcar : (s.clearRows c d).carrel c = s.carrel c := (s.store_wrote ..).carrel c
  have hown : t.carrel c = { s.carrel c with
      tiles := Tab.set 0 (s.carrel c).tiles d.tile (Tab.get 0 (s.carrel c).tiles d.tile &&& ~~~ 15#64) } := by
    unfold t State.clearFlags
    rw [State.carrel_modCarrel_same, hcar]
  refine ⟨clearRows_byte s c d, by rw [hown], fun i => ?_⟩
  rw [hown]
  dsimp only
  rw [Tab.get_set, clearFlags_word]
  split
  · next h => rw [h]
  · rfl

theorem unfinished_eq (k : Carrel) (eng : Nat) : k.unfinished eng = Tab.get [] k.queue eng := rfl

/-- The running array descriptor ends: its effect, its place in the queue and the order of the next. -/
theorem arrayDescriptorDone_eq {s : State} {c : BitVec 12} {x : Issued}
    (h : (Tab.get [] (s.carrel c).queue 0).find? (fun y => y.started) = some x) (hw : (s.carrel c).wait = .none) :
    execArrayDescriptorDone c s = .next ((s.runArray c x).modCarrel c fun k =>
      { k.finishIssued 0 x with arrayDone := k.arrayDone + 1 }) := by
  have hown := Carrel.eq_of_lessArray (runArray_works s c x).own
  unfold execArrayDescriptorDone
  rw [unfinished_eq, h]
  refine congrArg Host.Outcome.next (engineWake_of_none ?_)
  rw [State.carrel_modCarrel_same]
  show ((s.runArray c x).carrel c).wait = _
  rw [hown]
  exact hw

/-! ### The element engine -/

theorem elemStore_wrote (s : State) (c : BitVec 12) (d : ElemDesc) (outs : List ElemOut)
    (scales : List (Nat × Nat × Byte)) : Works Carrel.lessElement c s (s.elemStore c d outs scales) := by
  unfold State.elemStore
  extract_lets x row base s1
  have hrow (b : Nat) (u : State) : Works Carrel.lessElement c u (row b u) :=
    Works.foldl (fun s r => Works.storeCodes ..) _ u
  split
  · exact hrow _ s
  · exact Works.trans (Works.foldl (fun s x => Works.store ..) _ s) (hrow _ s1)

theorem elemFlagsOr_works (s s0 : State) (c : BitVec 12) (d : ElemDesc) (outs : List ElemOut) :
    Works Carrel.lessElement c s (s.elemFlagsOr s0 c d outs) := by
  unfold State.elemFlagsOr
  refine Works.foldl (fun s o => ?_) outs s
  split
  · exact Works.orFlags (fun _ _ => rfl) ..
  · exact Works.refl ..

theorem gaugeAdd_rest (s : State) (ctx tag kind : Nat) (vals : List Num) :
    ∃ g, s.gaugeAdd ctx tag kind vals = { s with gauges := g } := by
  unfold State.gaugeAdd
  split
  · exact ⟨s.gauges, rfl⟩
  · split
    · exact ⟨s.gauges, rfl⟩
    · exact ⟨_, rfl⟩

/-- The results of an element descriptor stored, with their flags or counts. -/
def State.elemResults (s : State) (c : BitVec 12) (d : ElemDesc) : State :=
  let s1 := s.elemStore c d (s.elemOuts c d).1 (s.elemOuts c d).2
  if d.d.ledger then s1.elemFlagsOr s c d (s.elemOuts c d).1
  else s1.modCarrel c fun k => { k with count := { k.count with
    satElem := satAdd k.count.satElem ((s.elemOuts c d).1.filter fun o => o.conv.sat).length } }

theorem elemResults_works (s : State) (c : BitVec 12) (d : ElemDesc) :
    Works Carrel.lessElement c s (s.elemResults c d) := by
  unfold State.elemResults
  dsimp only
  have h := elemStore_wrote s c d (s.elemOuts c d).1 (s.elemOuts c d).2
  split
  · exact h.trans (elemFlagsOr_works ..)
  · exact h.trans (Works.mod _ fun _ => rfl)

/-- An element descriptor's work: its results, the gauges, its first event, and the token that it releases. -/
theorem runElement_eq (s : State) (c : BitVec 12) (x : Issued) :
    ∃ ctx vals l, let d := elemDesc x.desc x.param
      s.runElement c x = (((s.elemResults c d).gaugeAdd ctx d.layer d.gkind vals).reportEvents c 3 d.opnum l).release c
        (leAt x.desc 0x2E 2) := ⟨_, _, _, rfl⟩

theorem runElement_works (s : State) (c : BitVec 12) (x : Issued) :
    ∃ u v : State, ∃ g, s.runElement c x = v.release c (leAt x.desc 0x2E 2) ∧ Works Carrel.lessElement c s u ∧
      Works Carrel.lessElement c { u with gauges := g } v := by
  obtain ⟨ctx, vals, l, h⟩ := runElement_eq s c x
  obtain ⟨g, hg⟩ := gaugeAdd_rest (s.elemResults c (elemDesc x.desc x.param)) ctx (elemDesc x.desc x.param).layer
    (elemDesc x.desc x.param).gkind vals
  refine ⟨s.elemResults c (elemDesc x.desc x.param), _, g, h, elemResults_works .., ?_⟩
  rw [hg]
  exact Works.reportEvents (fun _ _ => rfl) ..

/-- Memory, carrels, plans and gauges alone may differ. -/
def OnlyElement (s t : State) : Prop :=
  t = { s with mem := t.mem, lost := t.lost, carrels := t.carrels, plans := t.plans, gauges := t.gauges }

namespace OnlyElement
variable {s t u : State}

theorem of_parts (h : ∃ m l k p g, t = { s with mem := m, lost := l, carrels := k, plans := p, gauges := g }) :
    OnlyElement s t := by
  obtain ⟨_, _, _, _, _, rfl⟩ := h
  rfl

theorem parts (h : OnlyElement s t) :
    ∃ m l k p g, t = { s with mem := m, lost := l, carrels := k, plans := p, gauges := g } := ⟨_, _, _, _, _, h⟩

theorem trans (h : OnlyElement s t) (g : OnlyElement t u) : OnlyElement s u := by
  obtain ⟨_, _, _, _, _, rfl⟩ := h.parts
  obtain ⟨_, _, _, _, _, rfl⟩ := g.parts
  rfl

theorem gauges (s : State) (g : Tab GaugeSet) : OnlyElement s { s with gauges := g } := rfl

theorem of_plans (h : t = { s with plans := t.plans }) : OnlyElement s t := of_parts ⟨_, _, _, _, _, h⟩

theorem modCarrel (h : OnlyElement s t) (c : BitVec 12) (f : Carrel → Carrel) : OnlyElement s (t.modCarrel c f) :=
  h.trans rfl

end OnlyElement

theorem Works.onlyElement {f : Carrel → Carrel} {c : BitVec 12} {s t : State} (h : Works f c s t) : OnlyElement s t :=
  .of_parts ⟨_, _, _, _, _, h.rest⟩

/-- A plan with a token released. -/
def Plan.withToken (p : Plan) (tok : Nat) : Plan :=
  { p with tokens := if p.tokens.contains tok then p.tokens else p.tokens ++ [tok] }

theorem Plan.mem_withToken (p : Plan) (tok : Nat) : tok ∈ (p.withToken tok).tokens := by
  unfold Plan.withToken
  dsimp only
  split
  · next h => exact List.contains_iff_mem.mp h
  · exact List.mem_append_right _ (List.mem_singleton.mpr rfl)

/-- Whether an awaited token is released. -/
theorem tokenIn_iff (s : State) (c : BitVec 12) (tok : Nat) :
    s.tokenIn c tok = true ↔ tok = 0 ∨ ∃ i p, s.planOf c = some (i, p) ∧ tok ∈ p.tokens := by
  unfold State.tokenIn
  rw [Bool.or_eq_true, decide_eq_true_eq]
  refine or_congr_right ?_
  cases hp : s.planOf c with
  | none => exact ⟨fun h => (by cases h), fun ⟨i, p, h, _⟩ => (by cases h)⟩
  | some y => exact ⟨fun h => ⟨y.1, y.2, rfl, List.contains_iff_mem.mp h⟩,
      fun ⟨i, p, h, hm⟩ => (by cases h; exact List.contains_iff_mem.mpr hm)⟩

/-- The release of a token changes the plan of the carrel alone. -/
theorem release_spec (s : State) (c : BitVec 12) (tok : Nat) :
    let t := s.release c tok
    t = { s with plans := t.plans } ∧
      (∀ i, t.plan i = (s.plan i).map fun p =>
        if tok ≠ 0 ∧ (s.planOf c).map (·.1) = some i then p.withToken tok else p) ∧
      ∀ i p, s.planOf c = some (i, p) → tok ≠ 0 → t.plan i = some (p.withToken tok) := by
  intro t
  have hspec : t = { s with plans := t.plans } ∧ ∀ i, t.plan i = (s.plan i).map fun p =>
      if tok ≠ 0 ∧ (s.planOf c).map (·.1) = some i then p.withToken tok else p := by
    unfold t State.release
    cases hp : s.planOf c with
    | none => exact ⟨rfl, fun i => by simp⟩
    | some x =>
      dsimp only
      by_cases h0 : tok = 0
      · rw [if_pos h0]
        exact ⟨rfl, fun i => by simp [h0]⟩
      · rw [if_neg h0]
        refine ⟨rfl, fun i => ?_⟩
        refine (State.plan_modPlan s i x.1 (f := fun p => p.withToken tok) fun _ => rfl).trans ?_
        refine congrArg (fun f => (s.plan i).map f) (funext fun p => if_congr ?_ rfl rfl)
        rw [Option.map_some, Option.some.injEq]
        exact ⟨fun h => ⟨h0, h⟩, fun h => h.2⟩
  refine ⟨hspec.1, hspec.2, fun i p hp h0 => ?_⟩
  rw [hspec.2, State.planOf_eq hp, hp, Option.map_some, if_pos ⟨h0, rfl⟩]

theorem elementDescriptorDone_eq {s : State} {c : BitVec 12} {x : Issued} {l : List Issued}
    (h : Tab.get [] (s.carrel c).queue 4 = x :: l) (hs : x.started = true) (hw : (s.carrel c).wait = .none) :
    execElementDescriptorDone c s = .next ((s.runElement c x).modCarrel c fun k => k.finishIssued 4 x) := by
  obtain ⟨u, v, g, he, hu, hv⟩ := runElement_works s c x
  have hown : ((s.runElement c x).carrel c).wait = .none := by
    rw [he, (release_spec v c _).1]
    show (v.carrel c).wait = _
    rw [Carrel.eq_of_lessElement hv.own]
    show (u.carrel c).wait = _
    rw [Carrel.eq_of_lessElement hu.own]
    exact hw
  unfold execElementDescriptorDone
  rw [unfinished_eq, h]
  dsimp only
  rw [if_pos hs]
  refine congrArg Host.Outcome.next (engineWake_of_none ?_)
  rw [State.carrel_modCarrel_same]
  exact hown

/-- The running element descriptor ends. -/
theorem elementDescriptorDone_spec {s : State} {c : BitVec 12} {x : Issued} {l : List Issued}
    (hl : Tab.get [] (s.carrel c).queue 4 = x :: l) (hs : x.started = true) (hw : (s.carrel c).wait = .none) :
    let tok := leAt x.desc 0x2E 2
    ∃ t, execElementDescriptorDone c s = .next t ∧ OnlyElement s t ∧
      (∀ e, e ≠ c → t.carrel e = s.carrel e) ∧
      t.carrel c = { s.carrel c with
        queue := Tab.set [] (s.carrel c).queue 4 l, tiles := (t.carrel c).tiles, nan := (t.carrel c).nan
        count := { (s.carrel c).count with satElem := (t.carrel c).count.satElem } } ∧
      (∀ i p, s.plan i = some p → t.plan i = some (if tok ≠ 0 ∧ (s.planOf c).map (·.1) = some i
        then p.withToken tok else p)) ∧
      ∀ i p, s.planOf c = some (i, p) → tok ≠ 0 → ∃ q, t.plan i = some q ∧ tok ∈ q.tokens := by
  intro tok
  obtain ⟨u, v, g, he, hu, hv⟩ := runElement_works s c x
  have hplans : v.plans = s.plans := by
    rw [hv.rest]
    show u.plans = _
    rw [hu.rest]
  have hown : v.carrel c = { s.carrel c with
      tiles := (v.carrel c).tiles, nan := (v.carrel c).nan
      count := { (s.carrel c).count with satElem := (v.carrel c).count.satElem } } :=
    Carrel.eq_of_lessElement (hv.own.trans hu.own)
  have hplanOf : v.planOf c = s.planOf c := State.planOf_congr hplans (by rw [hown])
  have hplan (i : Nat) : v.plan i = s.plan i := by
    unfold State.plan
    rw [hplans]
  obtain ⟨hrest, hmod, htok⟩ := release_spec v c tok
  have hfin : (v.release c tok).carrel c = v.carrel c := by
    rw [hrest]
    rfl
  have hex := elementDescriptorDone_eq hl hs hw
  rw [he] at hex
  refine ⟨_, hex, ?_, fun e hne => ?_, ?_, fun i p hp => ?_, fun i p hp h0 => ?_⟩
  · exact (((hu.onlyElement.trans (.gauges u g)).trans hv.onlyElement).trans (.of_plans hrest)).modCarrel c _
  · rw [State.carrel_modCarrel_other _ _ hne, hrest]
    exact (hv.others e hne).trans (hu.others e hne)
  · have hl' : ((s.carrel c).unfinished 4).erase x = l := by
      rw [unfinished_eq, show Tab.get [] (s.carrel c).queue 4 = x :: l from hl, List.erase_cons_head]
    rw [State.carrel_modCarrel_same, hfin]
    refine (congrArg (fun k : Carrel => k.finishIssued 4 x) hown).trans ?_
    show ({ s.carrel c with
      tiles := (v.carrel c).tiles, nan := (v.carrel c).nan
      count := { (s.carrel c).count with satElem := (v.carrel c).count.satElem }
      queue := Tab.set [] (s.carrel c).queue 4 (((s.carrel c).unfinished 4).erase x) } : Carrel) = _
    rw [hl']
    rfl
  · show (v.release c tok).plan i = _
    rw [hmod, hplan, hp, hplanOf, Option.map_some]
  · exact ⟨_, htok i p (hplanOf.trans hp) h0, Plan.mem_withToken p tok⟩

/-- Settles O28: what starts and what ends a descriptor of the array and of the element engine. -/
theorem arrayAndElementEngines : Obligations.ArrayAndElementEngines := by
  unfold Obligations.ArrayAndElementEngines
  intro list
  refine ⟨?_, ?_, ?_, ?_⟩
  · intro c s x hno hfind
    have hany : ¬ (list (s.carrel c) 0).any (·.started) = true := by
      intro h
      obtain ⟨y, hy, hst⟩ := List.any_eq_true.mp h
      rw [hno y hy] at hst
      cases hst
    have hgo : (list (s.carrel c) 0).find? (fun x => decide ((arrDesc x.desc).seq = (s.carrel c).arrayDone)) = some x :=
      hfind
    show execArrayDescriptorStart c s = _
    unfold execArrayDescriptorStart
    dsimp only
    refine congrArg Host.Outcome.next ((if_neg hany).trans ?_)
    rw [unfinished_eq, hgo]
  · intro c s x hfind hw d at_ len
    have hworks := runArray_works s c x
    have hown := Carrel.eq_of_lessArray hworks.own
    refine ⟨_, arrayDescriptorDone_eq hfind hw, ?_, fun e he => ?_, ?_, fun hk => ?_, fun hk hacc => ?_, fun hk => ?_⟩
    · exact congrArg (fun v : State => v.modCarrel c fun k =>
        { k.finishIssued 0 x with arrayDone := k.arrayDone + 1 }) hworks.rest
    · rw [State.carrel_modCarrel_other _ _ he, hworks.others e he]
    · rw [State.carrel_modCarrel_same]
      exact congrArg (fun k : Carrel => { k.finishIssued 0 x with arrayDone := k.arrayDone + 1 }) hown
    · rw [State.carrel_modCarrel_same, runArray_mld hk]
      obtain ⟨hmem, htiles, st, hst, hfmt, hsplit⟩ := runMld_spec s c x.arr
      refine ⟨hmem, htiles, st, hst, ?_, hsplit⟩
      rw [hfmt, BitVec.toNat_ofNat]
      have hty : x.arr.fmt.ty < 32 := Nat.mod_lt _ (by decide)
      exact Nat.mod_eq_of_lt (by omega)
    · rw [State.carrel_modCarrel_same, runArray_mstr hk]
      have hst := runMstr_streamed s c x.arr
      exact ⟨hst.stationary, hst.bytes hacc⟩
    · rw [State.carrel_modCarrel_same, runArray_mclr hk]
      obtain ⟨hbytes, hst, htiles⟩ := mclr_spec s c x.arr
      generalize (s.clearRows c x.arr).clearFlags c x.arr.tile = v at *
      generalize v.carrel c = k at *
      exact ⟨hbytes, hst, htiles⟩
  · intro c s x l hl hs tok free
    have htok : s.tokenIn c (elemDesc x.desc x.param).tokWait = true ↔ free := tokenIn_iff s c tok
    have hex : Sys2Proof.Machine.exec (.elementDescriptorStart c) s =
        .next (if s.tokenIn c (elemDesc x.desc x.param).tokWait = true then s.setCarrel c { s.carrel c with
          queue := Tab.set [] (s.carrel c).queue 4 ({ x with started := true } :: l) } else s) := by
      show execElementDescriptorStart c s = _
      unfold execElementDescriptorStart
      dsimp only
      rw [unfinished_eq, show Tab.get [] (s.carrel c).queue 4 = x :: l from hl]
      dsimp only
      rw [hs]
      rfl
    exact ⟨fun h => by rw [hex, if_pos (htok.mpr h)], fun h => by rw [hex, if_neg (fun hc => h (htok.mp hc))]⟩
  · intro c s x l hl hs hw tok
    exact elementDescriptorDone_spec hl hs hw

end Sys2Proof.Machine
end

section
/-!
# What the engines of a bay may change
-/
namespace Sys2Proof.Machine

/-! ### A bay's work -/

/-- Work of a bay's engines: memory, the gauges, the bay's counters and the values drawn, and of the carrels nothing. -/
def OnlyBay (s t : State) : Prop :=
  ∃ m l f g b, t = { s with
    mem := m, lost := l, fresh := f, gauges := g, census := { s.census with bays := b } }

namespace OnlyBay
variable {s t u : State}

theorem refl (s : State) : OnlyBay s s := ⟨_, _, _, _, _, rfl⟩

theorem trans (h : OnlyBay s t) (g : OnlyBay t u) : OnlyBay s u := by
  obtain ⟨_, _, _, _, _, rfl⟩ := h
  obtain ⟨_, _, _, _, _, rfl⟩ := g
  exact ⟨_, _, _, _, _, rfl⟩

theorem of_wrote (h : Wrote s t) : OnlyBay s t := ⟨_, _, s.fresh, s.gauges, s.census.bays, h.rest⟩

theorem store (s : State) (a : Nat) (b : List Byte) : OnlyBay s (s.store a b) := of_wrote (s.store_wrote a b)

theorem draw (s : State) : OnlyBay s s.draw.2 := ⟨s.mem, s.lost, _, s.gauges, s.census.bays, rfl⟩

theorem modBay (s : State) (b : Nat) (f : BayCount → BayCount) : OnlyBay s (s.modBay b f) :=
  ⟨s.mem, s.lost, s.fresh, s.gauges, _, rfl⟩

theorem gaugeAdd (s : State) (ctx tag kind : Nat) (vals : List Num) : OnlyBay s (s.gaugeAdd ctx tag kind vals) := by
  obtain ⟨g, hg⟩ := gaugeAdd_rest s ctx tag kind vals
  rw [hg]
  exact ⟨s.mem, s.lost, s.fresh, g, s.census.bays, rfl⟩

theorem storeCodes (s : State) (a b : Nat) (l : List Nat) : OnlyBay s (s.storeCodes a b l) := by
  unfold State.storeCodes
  dsimp only
  split
  · exact store ..
  · exact store ..

theorem carrel (h : OnlyBay s t) (c : BitVec 12) : t.carrel c = s.carrel c := by
  obtain ⟨_, _, _, _, _, rfl⟩ := h
  rfl

theorem plans (h : OnlyBay s t) : t.plans = s.plans := by
  obtain ⟨_, _, _, _, _, rfl⟩ := h
  rfl

theorem isLocal (h : OnlyBay s t) (a : Nat) : t.isLocal a = s.isLocal a := by
  obtain ⟨_, _, _, _, _, rfl⟩ := h
  rfl

theorem asked (h : OnlyBay s t) (who : Requester) : t.asked who = s.asked who := by
  obtain ⟨_, _, _, _, _, rfl⟩ := h
  rfl

theorem ringNum (h : OnlyBay s t) : t.census.ring = s.census.ring := by
  obtain ⟨_, _, _, _, _, rfl⟩ := h
  rfl

theorem planOf (h : OnlyBay s t) (c : BitVec 12) : t.planOf c = s.planOf c :=
  State.planOf_congr h.plans (by rw [h.carrel])

end OnlyBay

/-! ### The row engine -/

theorem rowStore_bay (s : State) (c : BitVec 12) (d : RowDesc) (r : Nat) (vs : List Val) :
    OnlyBay s (s.rowStore c d r vs).1 := by
  unfold State.rowStore
  extract_lets x base rnd vr
  split
  extract_lets s1 s2
  have h1 : OnlyBay s s1 := by
    unfold s1
    split
    · exact OnlyBay.store ..
    · exact OnlyBay.refl s
  exact h1.trans (OnlyBay.storeCodes ..)

theorem rowStep_bay (c : BitVec 12) (bay : Nat) (d : RowDesc) (valid : Nat) (gam bet : List Num) (q : RowRun)
    (r : Nat) : OnlyBay q.s (rowStep c bay d valid gam bet q r).s := by
  unfold rowStep
  extract_lets s xs dys ma stat res
  have h1 : OnlyBay q.s (s.rowStore c d r res.out).1 := rowStore_bay ..
  dsimp only
  split
  · exact h1.trans (OnlyBay.store ..)
  · exact h1

/-- What a row descriptor's rows come to, `fw` standing for a parameter word that is missing. -/
def State.rowRun (s : State) (c : BitVec 12) (bay : Nat) (x : Issued) (d : RowDesc) (fw : Word) : RowRun :=
  let g0 (a : Nat) : List Nat := if d.ginit then List.replicate d.cols 0 else s.f64Row a d.cols
  let ga := shelfBase d.g.carrel + d.g.off
  (upto d.rows).foldl (rowStep c bay d (if d.param then (x.param.getD fw).toNat else d.cols)
      (if d.affine then (upto d.cols).map fun j => s.rowNum d.w 0 j else List.replicate d.cols numOne)
      (if d.affine ∧ (d.op = 1 ∨ d.op = 4) then (upto d.cols).map fun j => s.rowNum d.w 1 j
        else List.replicate d.cols numZero))
    { s := s, evs := [], sats := 0, vals := [], gg := g0 ga, gb := g0 (ga + d.g.pitch) }

theorem rowRun_bay (s : State) (c : BitVec 12) (bay : Nat) (x : Issued) (d : RowDesc) (fw : Word) :
    OnlyBay s (s.rowRun c bay x d fw).s := by
  unfold State.rowRun
  exact List.foldlRecOn (motive := fun p : RowRun => OnlyBay s p.s) _ _ (OnlyBay.refl s) fun p hp r _ =>
    hp.trans (rowStep_bay ..)

/-- What a row descriptor adds into its slot G. -/
def RowRun.sums (q : RowRun) (d : RowDesc) : State :=
  let ga := shelfBase d.g.carrel + d.g.off
  let s := if d.wgrad then q.s.store ga (q.gg.flatMap (natToBytes 8)) else q.s
  if d.wgrad ∧ d.op = 4 then s.store (ga + d.g.pitch) (q.gb.flatMap (natToBytes 8)) else s

theorem sums_bay (q : RowRun) (d : RowDesc) : OnlyBay q.s (q.sums d) := by
  unfold RowRun.sums
  extract_lets ga s
  have h1 : OnlyBay q.s s := by
    unfold s
    split
    · exact OnlyBay.store ..
    · exact OnlyBay.refl _
  split
  · exact h1.trans (OnlyBay.store ..)
  · exact h1

/-- A row descriptor's work: its rows and sums, the bay's count, the gauges, and its first event. -/
theorem runRow_eq (s : State) (c : BitVec 12) (bay : Nat) (x : Issued) :
    ∃ q : Word × State, OnlyBay s q.2 ∧ ∃ f ctx tag kind vals n l, s.runRow c bay x =
      ((((q.2.rowRun c bay x (rowDesc bay x.desc) q.1).sums (rowDesc bay x.desc)).modBay bay f).gaugeAdd ctx tag kind
        vals).reportEvents c 4 n l := by
  refine ⟨if (rowDesc bay x.desc).param ∧ x.param = none then s.draw else (0, s), ?_, _, _, _, _, _, _, _, rfl⟩
  split
  · exact OnlyBay.draw s
  · exact OnlyBay.refl s

theorem runRow_spec (s : State) (c : BitVec 12) (bay : Nat) (x : Issued) :
    ∃ u n l, s.runRow c bay x = u.reportEvents c 4 n l ∧ OnlyBay s u := by
  obtain ⟨q, hq, f, ctx, tag, kind, vals, n, l, h⟩ := runRow_eq s c bay x
  exact ⟨_, n, l, h, (((hq.trans (rowRun_bay ..)).trans (sums_bay ..)).trans (OnlyBay.modBay ..)).trans
    (OnlyBay.gaugeAdd ..)⟩

/-- A carrel but for its record of the first NaN. -/
def Carrel.lessNan (k : Carrel) : Carrel := { k with nan := NanRec.reset }

theorem Carrel.eq_of_lessNan {k j : Carrel} (h : j.lessNan = k.lessNan) : j = { k with nan := j.nan } :=
  congrArg (fun i : Carrel => { i with nan := j.nan }) h

/-- What a bay's engine does for carrel `c`. -/
def OnlyBayFor (s t : State) : Prop :=
  ∃ m l k f g b, t = { s with
    mem := m, lost := l, carrels := k, fresh := f, gauges := g, census := { s.census with bays := b } }

theorem OnlyBayFor.rest {s t : State} (h : OnlyBayFor s t) : t = { s with
    mem := t.mem, lost := t.lost, carrels := t.carrels, gauges := t.gauges, fresh := t.fresh
    census := { s.census with bays := t.census.bays } } := by
  obtain ⟨_, _, _, _, _, _, rfl⟩ := h
  rfl

theorem OnlyBay.worked {f : Carrel → Carrel} {c : BitVec 12} {s t u : State} (h : OnlyBay s t) (g : Works f c t u) :
    OnlyBayFor s u := by
  obtain ⟨_, _, _, _, _, rfl⟩ := h
  exact ⟨_, _, _, _, _, _, g.rest⟩

theorem OnlyBayFor.modCarrel {s t : State} (h : OnlyBayFor s t) (c : BitVec 12) (f : Carrel → Carrel) :
    OnlyBayFor s (t.modCarrel c f) := by
  obtain ⟨_, _, _, _, _, _, rfl⟩ := h
  exact ⟨_, _, _, _, _, _, rfl⟩

theorem rowDescriptorDone_spec {s : State} {c : BitVec 12} {bay : BitVec 8} {x : Issued}
    (h : (s.rowIssued bay.toNat).find? (fun y => y.2.started) = some (c, x)) (hw : (s.carrel c).wait = .none) :
    ∃ t, execRowDescriptorDone bay s = .next t ∧ OnlyBayFor s t ∧ (∀ e, e ≠ c → t.carrel e = s.carrel e) ∧
      t.carrel c = { s.carrel c with
        queue := Tab.set [] (s.carrel c).queue 5 ((Tab.get [] (s.carrel c).queue 5).erase x),
            nan := (t.carrel c).nan } := by
  obtain ⟨u, n, l, hrun, hu⟩ := runRow_spec s c bay.toNat x
  have hw' : Works Carrel.lessNan c u (s.runRow c bay.toNat x) := by
    rw [hrun]
    exact Works.reportEvents (fun _ _ => rfl) ..
  have hown := Carrel.eq_of_lessNan (hw'.own.trans (congrArg Carrel.lessNan (hu.carrel c)))
  have hex : execRowDescriptorDone bay s =
      .next ((s.runRow c bay.toNat x).modCarrel c fun k => k.finishIssued 5 x) := by
    unfold execRowDescriptorDone
    rw [h]
    refine congrArg Host.Outcome.next (engineWake_of_none ?_)
    rw [State.carrel_modCarrel_same]
    show ((s.runRow c bay.toNat x).carrel c).wait = _
    rw [hown]
    exact hw
  refine ⟨_, hex, (hu.worked hw').modCarrel c _, fun e he => ?_, ?_⟩
  · rw [State.carrel_modCarrel_other _ _ he, hw'.others e he, hu.carrel]
  · rw [State.carrel_modCarrel_same]
    exact congrArg (fun k : Carrel => k.finishIssued 5 x) hown

theorem rowDescriptorStart_eq {s : State} {c : BitVec 12} {bay : BitVec 8} {x : Issued}
    (hno : ∀ y ∈ s.rowIssued bay.toNat, y.2.started = false)
    (h : (s.rowIssued bay.toNat).find? (fun y => s.rowReady bay.toNat (leAt y.2.desc 6 1)) = some (c, x)) :
    execRowDescriptorStart bay s = .next (s.setCarrel c { s.carrel c with
      queue := Tab.set [] (s.carrel c).queue 5 ((Tab.get [] (s.carrel c).queue 5).map fun y =>
        if y = x then { y with started := true } else y) }) := by
  have hany : ¬ (s.rowIssued bay.toNat).any (fun x => x.2.started) = true := by
    intro ha
    obtain ⟨y, hy, hst⟩ := List.any_eq_true.mp ha
    rw [hno y hy] at hst
    cases hst
  unfold execRowDescriptorStart
  refine congrArg Host.Outcome.next ((if_neg hany).trans ?_)
  rw [h]
  rfl

/-! ### What a mover writes -/

theorem Tab.mem_insert {α : Type} (t : Tab α) (n : Nat) (x : α) {y : Nat × α} (h : y ∈ Tab.insert t n x) :
    y ∈ t ∨ y = (n, x) := by
  induction t with
  | nil => exact Or.inr (List.mem_singleton.mp h)
  | cons z l ih =>
    unfold Tab.insert at h
    split at h
    · rcases List.mem_cons.mp h with h | h
      · exact Or.inr h
      · exact Or.inl (List.mem_cons_of_mem _ h)
    · split at h
      · exact (List.mem_cons.mp h).symm
      · rcases List.mem_cons.mp h with h | h
        · exact Or.inl (List.mem_cons.mpr (Or.inl h))
        · exact (ih h).imp_left (List.mem_cons_of_mem _)

theorem Tab.mem_erase {α : Type} (t : Tab α) (n : Nat) {y : Nat × α} (h : y ∈ Tab.erase t n) : y ∈ t := by
  induction t with
  | nil => exact h
  | cons z l ih =>
    unfold Tab.erase at h
    split at h
    · exact List.mem_cons_of_mem _ (ih h)
    · rcases List.mem_cons.mp h with h | h
      · exact List.mem_cons.mpr (Or.inl h)
      · exact List.mem_cons_of_mem _ (ih h)

theorem Tab.mem_set {α : Type} [DecidableEq α] {d : α} (t : Tab α) (n : Nat) (x : α) {y : Nat × α}
    (h : y ∈ Tab.set d t n x) : y ∈ t ∨ y = (n, x) := by
  unfold Tab.set at h
  split at h
  · exact Or.inl (Tab.mem_erase t n h)
  · exact Tab.mem_insert t n x h

theorem Tab.mem_of_get {α : Type} {d : α} (t : Tab α) (n : Nat) (h : Tab.get d t n ≠ d) : ∃ y ∈ t, y.1 = n := by
  induction t with
  | nil => exact absurd rfl h
  | cons z l ih =>
    unfold Tab.get at h
    split at h
    · next he => exact ⟨z, List.mem_cons_self, he.symm⟩
    · obtain ⟨y, hy, hn⟩ := ih h
      exact ⟨y, List.mem_cons_of_mem _ hy, hn⟩

/-- The nibbles that an access claims are those of its elements. -/
theorem claim_keys (q : MovAcc) (es : List (MovElem × List Nat)) :
    ∀ y ∈ (q.claim es).2, ∃ x ∈ es, ∃ i, i < x.2.length ∧ y.1 = x.1.dst + i := by
  unfold MovAcc.claim
  refine List.foldlRecOn (motive := fun t : Tab Nat × Tab (Option Nat) => ∀ y ∈ t.2, ∃ x ∈ es, ∃ i, i < x.2.length ∧
    y.1 = x.1.dst + i) es _ (fun y hy => by cases hy) fun t ht x hx => ?_
  refine List.foldlRecOn (motive := fun t : Tab Nat × Tab (Option Nat) => ∀ y ∈ t.2, ∃ x ∈ es, ∃ i, i < x.2.length ∧
    y.1 = x.1.dst + i) _ _ ht fun u hu z hz => ?_
  obtain ⟨i, hi, rfl⟩ := List.mem_mapIdx.mp hz
  dsimp only
  split
  · intro y hy
    rcases Tab.mem_set (d := none) u.2 (x.1.dst + i) (some x.2[i]) hy with h | h
    · exact hu y h
    · exact ⟨x, hx, i, hi, by rw [h]⟩
  · exact hu

/-- The work of a bay that keeps every byte of which `P` holds. -/
structure MovKept (P : Nat → Prop) (s t : State) : Prop where
  bay : OnlyBay s t
  bytes : ∀ b, P b → t.byte b = s.byte b

theorem MovKept.refl (P : Nat → Prop) (s : State) : MovKept P s s := ⟨OnlyBay.refl s, fun _ _ => rfl⟩

theorem MovKept.trans {P : Nat → Prop} {s t u : State} (h : MovKept P s t) (g : MovKept P t u) : MovKept P s u :=
  ⟨h.bay.trans g.bay, fun b hb => (g.bytes b hb).trans (h.bytes b hb)⟩

/-- An element whose destination lies in this module's memory, at bytes of which `P` does not hold. -/
def MovElem.lands (P : Nat → Prop) (w : Nat) (s : State) (e : MovElem) : Prop :=
  ∀ i, i < w → s.isLocal ((e.dst + i) / 2) = true ∧ ∀ b, P b → localOf ((e.dst + i) / 2) ≠ b

theorem MovElem.lands_of_bay {P : Nat → Prop} {w : Nat} {s t : State} {e : MovElem} (h : OnlyBay s t)
    (he : e.lands P w s) : e.lands P w t := fun i hi => by
  rw [h.isLocal]
  exact he i hi

theorem isLocal_nibble (s : State) (n : Nat) : s.isLocal (64 * (n / 128)) = s.isLocal (n / 2) := by
  unfold State.isLocal chipOf
  rw [show 64 * (n / 128) / 2 ^ 44 = n / 2 / 2 ^ 44 by omega]

/-- The byte of a block that a mask bit of its nibbles stands for. -/
theorem nibBlock_mask (old : NibAddr → Nat) (t : Tab (Option Nat)) (blk : Nat) {j : Nat} (hj : j < 64)
    (h : (nibBlock old t blk).2.getD j false = true) : ∃ y ∈ t, localOf (y.1 / 2) = localOf (64 * blk) + j := by
  have hget : (nibBlock old t blk).2.getD j false = ((Tab.get none t (128 * blk + 2 * j)).isSome ||
      (Tab.get none t (128 * blk + 2 * j + 1)).isSome) := by
    unfold nibBlock upto
    rw [List.getD_eq_getElem?_getD, List.getElem?_map, List.getElem?_range hj]
    rfl
  rw [hget, Bool.or_eq_true] at h
  have hkey (n : Nat) (hn : (Tab.get none t n).isSome = true) : ∃ y ∈ t, y.1 = n :=
    Tab.mem_of_get t n fun hc => by rw [hc] at hn; cases hn
  have hloc : localOf (64 * blk + j) = localOf (64 * blk) + j := by
    unfold localOf
    omega
  rcases h with h | h
  · obtain ⟨y, hy, he⟩ := hkey _ h
    exact ⟨y, hy, by rw [he, ← hloc, show (128 * blk + 2 * j) / 2 = 64 * blk + j by omega]⟩
  · obtain ⟨y, hy, he⟩ := hkey _ h
    exact ⟨y, hy, by rw [he, ← hloc, show (128 * blk + 2 * j + 1) / 2 = 64 * blk + j by omega]⟩

theorem blockWrite_getD (s : State) (a : Nat) (data : List Byte) (mask : List Bool) :
    (s.blockWrite a data mask).getD s = s ∨ (s.blockWrite a data mask).getD s = s.burstWrite a data mask := by
  unfold State.blockWrite
  split
  · exact Or.inl rfl
  · exact Or.inr rfl

/-- A masked block of nibbles written. -/
theorem nibBlock_kept {P : Nat → Prop} {t : Tab (Option Nat)} (s : State) (blk : Nat)
    (h : ∀ y ∈ t, ∀ b, P b → localOf (y.1 / 2) ≠ b) :
    MovKept P s ((s.blockWrite (localOf (64 * blk)) (nibBlock s.nib t blk).1 (nibBlock s.nib t blk).2).getD s) := by
  have hlen : (nibBlock s.nib t blk).1.length = 64 := by
    unfold nibBlock upto
    rw [List.length_map, List.length_range]
  rcases blockWrite_getD s (localOf (64 * blk)) (nibBlock s.nib t blk).1 (nibBlock s.nib t blk).2 with he | he
  · rw [he]
    exact MovKept.refl P s
  · rw [he]
    refine ⟨OnlyBay.of_wrote (burstWrite_wrote ..), fun b hb => ?_⟩
    rw [burstWrite_byte, hlen]
    refine if_neg fun ⟨h1, h2, h3⟩ => ?_
    obtain ⟨y, hy, hloc⟩ := nibBlock_mask _ _ _ (j := b - localOf (64 * blk)) (by omega) h3
    exact h y hy b hb (by omega)

theorem write_kept {P : Nat → Prop} {who : Requester} {q : MovAcc} {es : List (MovElem × List Nat)} {w : Nat}
    (h : ∀ x ∈ es, x.1.lands P w q.s ∧ x.2.length = w) : MovKept P q.s (q.write who es).s := by
  have hkeys (y : Nat × Option Nat) (hy : y ∈ (q.claim es).2) :
      q.s.isLocal (y.1 / 2) = true ∧ ∀ b, P b → localOf (y.1 / 2) ≠ b := by
    obtain ⟨x, hx, i, hi, he⟩ := claim_keys q es y hy
    rw [he]
    exact (h x hx).1 i (by rw [← (h x hx).2]; exact hi)
  unfold MovAcc.write
  dsimp only
  refine List.foldlRecOn (motive := fun u => MovKept P q.s u) _ _ (MovKept.refl P q.s) fun u hu blk hblk => hu.trans ?_
  obtain ⟨y, hy, rfl⟩ := List.mem_map.mp (List.mem_eraseDups.mp hblk)
  rw [if_pos (by rw [isLocal_nibble, hu.bay.isLocal]; exact (hkeys y hy).1)]
  exact nibBlock_kept u _ fun z hz => (hkeys z hz).2

theorem length_nibsOf (w v : Nat) : (nibsOf w v).length = w / 4 := by
  unfold nibsOf upto
  rw [List.length_map, List.length_range]

/-- The reads of a round: they change no byte. -/
structure MovRead (w : Nat) (l : List MovElem) (q : MovAcc) (r : List (MovElem × List Nat) × MovAcc) : Prop where
  elems : ∀ x ∈ r.1, x.1 ∈ l ∧ x.2.length = w
  kept : ∀ P, MovKept P q.s r.2.s

theorem get_spec (q : MovAcc) (a : NibAddr) (k : Nat) :
    (q.get a k).1.length = k ∧ ∀ P, MovKept P q.s (q.get a k).2.s := by
  have hk (v : Nat) : (nibsOf (4 * k) v).length = k := by
    rw [length_nibsOf]
    omega
  unfold MovAcc.get
  split
  · exact ⟨hk _, fun P => ⟨OnlyBay.draw q.s, fun _ _ => rfl⟩⟩
  · split
    · refine ⟨?_, fun P => MovKept.refl P q.s⟩
      unfold upto
      rw [List.length_map, List.length_range]
    · exact ⟨hk _, fun P => MovKept.refl P q.s⟩

theorem read_spec (d : MovDesc) (l : List MovElem) : ∀ q : MovAcc,
    MovRead (d.width / 4) l q (MovAcc.read d q l) := by
  induction l with
  | nil => exact fun q => ⟨fun x hx => (by cases hx), fun P => MovKept.refl P q.s⟩
  | cons e l ih =>
    intro q
    have hfirst : ∃ v q1, MovAcc.read d q (e :: l) = ((e, v) :: (MovAcc.read d q1 l).1, (MovAcc.read d q1 l).2) ∧
        v.length = d.width / 4 ∧ ∀ P, MovKept P q.s q1.s := by
      cases h : e.src with
      | none =>
        refine ⟨nibsOf d.width d.padv, q, ?_, length_nibsOf .., fun P => MovKept.refl P q.s⟩
        conv_lhs => unfold MovAcc.read
        rw [h]
      | some x =>
        obtain ⟨a, part⟩ := x
        refine ⟨(q.get a (d.width / 4)).1, (q.get a (d.width / 4)).2, ?_, get_spec ..⟩
        conv_lhs => unfold MovAcc.read
        rw [h]
    obtain ⟨v, q1, heq, hlen, hq1⟩ := hfirst
    obtain ⟨hel, hkept⟩ := ih q1
    rw [heq]
    refine ⟨fun x hx => ?_, fun P => (hq1 P).trans (hkept P)⟩
    rcases List.mem_cons.mp hx with rfl | hx
    · exact ⟨List.mem_cons_self, hlen⟩
    · exact ⟨List.mem_cons_of_mem _ (hel x hx).1, (hel x hx).2⟩

/-- One round: it writes no byte but those of its destinations. -/
theorem round_kept {P : Nat → Prop} {who : Requester} {d : MovDesc} {q : MovAcc} {r : List (List MovElem)}
    (h : ∀ e ∈ r.flatten, e.lands P (d.width / 4) q.s) : MovKept P q.s (MovAcc.round who d q r).s := by
  obtain ⟨hel, hkept⟩ := read_spec d r.flatten q
  unfold MovAcc.round
  refine (List.foldlRecOn (motive := fun x : List (MovElem × List Nat) × MovAcc =>
    (∀ y ∈ x.1, y.1 ∈ r.flatten ∧ y.2.length = d.width / 4) ∧ MovKept P q.s x.2.s) r _ ⟨hel, hkept P⟩
    fun x hx a _ => ⟨fun y hy => hx.1 y (List.mem_of_mem_drop hy), hx.2.trans ?_⟩).2
  refine write_kept (w := d.width / 4) fun y hy => ?_
  obtain ⟨h1, h2⟩ := hx.1 y (List.mem_of_mem_take hy)
  exact ⟨MovElem.lands_of_bay hx.2.bay (h y.1 h1), h2⟩

/-- A movement writes no byte but those of its destinations, and sends nothing where they lie in this module. -/
theorem movRun_kept {P : Nat → Prop} {s : State} {bay : BitVec 8} {ch : BitVec 3} {d : MovDesc}
    {rs : List (List (List MovElem))} {data : List Byte}
    (h : ∀ e ∈ rs.flatten.flatten, e.lands P (d.width / 4) s) : MovKept P s (s.movRun bay ch d rs data).1 := by
  unfold State.movRun
  dsimp only
  refine MovKept.trans (t := (rs.foldl (MovAcc.round (.mover bay ch) d)
    { s := s, done := [], data := data, codes := [] }).s) ?_ ⟨OnlyBay.modBay .., fun _ _ => rfl⟩
  refine List.foldlRecOn (motive := fun q : MovAcc => MovKept P s q.s) rs _ (MovKept.refl P s) fun q hq r hr =>
    hq.trans (round_kept fun e he => ?_)
  obtain ⟨a, ha, he⟩ := List.mem_flatten.mp he
  exact MovElem.lands_of_bay hq.bay (h e (List.mem_flatten.mpr ⟨a, List.mem_flatten.mpr ⟨r, hr, ha⟩, he⟩))

theorem movGauge_kept (P : Nat → Prop) (s : State) (c : BitVec 12) (d : MovDesc) (codes : List Nat) :
    MovKept P s (s.movGauge c d codes) := by
  unfold State.movGauge
  split
  · exact MovKept.refl P s
  · dsimp only
    refine MovKept.trans (t := s.draw.2) ⟨OnlyBay.draw s, fun _ _ => rfl⟩ ⟨OnlyBay.gaugeAdd .., fun b _ => ?_⟩
    obtain ⟨g, hg⟩ := gaugeAdd_rest s.draw.2 (s.draw.2.carrel c).ctx.toNat d.layer d.gkind
      (codes.map (tyNum d.gfmt.ty (s.draw.1.setWidth 16).toInt))
    rw [hg]
    rfl

end Sys2Proof.Machine
end

section
/-!
# Steps of the row engines and of the data movers
-/
namespace Sys2Proof.Machine

/-! ### Translated rounds -/

theorem allSome_mem {α : Type} : ∀ {l : List (Option α)} {r : List α}, allSome l = some r → ∀ x ∈ r, some x ∈ l := by
  intro l
  induction l with
  | nil => intro r h x hx; cases h; cases hx
  | cons o l ih =>
    intro r h x hx
    cases o with
    | none => cases h
    | some y =>
      obtain ⟨r', hr', rfl⟩ := Option.map_eq_some_iff.mp h
      rcases List.mem_cons.mp hx with rfl | hx
      · exact List.mem_cons_self
      · exact List.mem_cons_of_mem _ (ih hr' x hx)

/-- A translated element is that of a point of the descriptor. -/
theorem movRounds_mem {s : State} {c : BitVec 12} {ch : BitVec 3} {d : MovDesc} {rs : List (List (List MovElem))}
    (h : s.movRounds c ch d = some rs) : ∀ e ∈ rs.flatten.flatten, ∃ r ∈ d.rounds, ∃ a ∈ r, ∃ p ∈ a,
      s.movElem c ch p = some e := by
  intro e he
  obtain ⟨a', ha', he⟩ := List.mem_flatten.mp he
  obtain ⟨r', hr', ha'⟩ := List.mem_flatten.mp ha'
  obtain ⟨r, hr, hra⟩ := List.mem_map.mp (allSome_mem h r' hr')
  obtain ⟨a, ha, haa⟩ := List.mem_map.mp (allSome_mem hra a' ha')
  obtain ⟨p, hp, hpe⟩ := List.mem_map.mp (allSome_mem haa e he)
  exact ⟨r, hr, a, ha, p, hp, hpe⟩

/-- What a mover's translation looks at. -/
structure SameMaps (c : BitVec 12) (s t : State) : Prop where
  desc : (t.carrel c).desc = (s.carrel c).desc
  ctx : (t.carrel c).ctx = (s.carrel c).ctx
  ownChip : t.ownChip = s.ownChip
  seg : t.seg = s.seg
  hbm : t.hbm = s.hbm

theorem SameMaps.movTrans {c : BitVec 12} {s t : State} (h : SameMaps c s t) (ch : BitVec 3) (va : Word)
    (need : Rights) : t.movTrans c ch va need = s.movTrans c ch va need := by
  unfold State.movTrans State.translate State.tableAt State.isLocal State.hbmEnd State.halfMode
  rw [h.desc, h.ctx, h.ownChip, h.seg, h.hbm]

theorem SameMaps.movElem {c : BitVec 12} {s t : State} (h : SameMaps c s t) (ch : BitVec 3) (p : MovPoint) :
    t.movElem c ch p = s.movElem c ch p := by
  have hnib (a : NibAddr) (need : Rights) : t.movNib c ch a need = s.movNib c ch a need := by
    unfold State.movNib
    rw [h.movTrans]
  unfold State.movElem
  simp only [hnib]

theorem movReads_local {s : State} (bay : BitVec 8) (ch : BitVec 3) (l : List MovElem)
    (h : ∀ e ∈ l, ∀ y ∈ e.src, s.isLocal (y.1 / 2) = true) : ∀ last, s.movReads bay ch l last = s := by
  induction l with
  | nil => exact fun _ => rfl
  | cons e l ih =>
    intro last
    have ih' := ih fun e he => h e (List.mem_cons_of_mem _ he)
    have he := h e List.mem_cons_self
    unfold State.movReads
    cases hsrc : e.src with
    | none => exact ih' last
    | some x =>
      obtain ⟨a, part⟩ := x
      dsimp only
      rw [if_pos (Or.inl (he (a, part) hsrc))]
      exact ih' last

theorem setHead_eq {k : Carrel} {q : Nat} {x : Issued} {l : List Issued} (h : Tab.get [] k.queue q = x :: l)
    (y : Issued) : k.setHead q y = { k with queue := Tab.set [] k.queue q (y :: l) } := by
  unfold Carrel.setHead
  rw [unfinished_eq, h]
  rfl

theorem finishIssued_eq {k : Carrel} {q : Nat} {x : Issued} {l : List Issued} (h : Tab.get [] k.queue q = x :: l) :
    k.finishIssued q x = { k with queue := Tab.set [] k.queue q l } := by
  unfold Carrel.finishIssued
  rw [unfinished_eq, h, List.erase_cons_head]

/-! ### Start -/

section
variable {bay : BitVec 8} {ch : BitVec 3} {s : State} {c : BitVec 12} {q : Nat} {x : Issued} {l : List Issued}

theorem moverStart_waits (hhead : s.movHead bay ch = some (c, q, x))
    (h : s.tokenIn c (movDesc x.desc x.param).tokWait = false) :
    execMoverDescriptorStart bay ch s = .next s := by
  unfold execMoverDescriptorStart
  rw [hhead]
  exact congrArg Host.Outcome.next (if_pos (Or.inr (Or.inr h)))

theorem moverStart_runs (hhead : s.movHead bay ch = some (c, q, x)) (hl : Tab.get [] (s.carrel c).queue q = x :: l)
    (hdead : x.dead = false) (hs : x.started = false) (htok : s.tokenIn c (movDesc x.desc x.param).tokWait = true)
    (hmiss : s.movMisses c ch (movDesc x.desc x.param) = [])
    (hlocal : ∀ r ∈ (movDesc x.desc x.param).rounds, ∀ a ∈ r, ∀ p ∈ a, ∀ e, s.movElem c ch p = some e →
      ∀ y ∈ e.src, s.isLocal (y.1 / 2) = true) :
    execMoverDescriptorStart bay ch s = .next (s.setCarrel c { s.carrel c with
      queue := Tab.set [] (s.carrel c).queue q ({ x with started := true } :: l) }) := by
  have hgo : ¬ (x.started = true ∨ x.dead = true ∨ s.tokenIn c (movDesc x.desc x.param).tokWait = false) := by
    rw [hs, hdead, htok]
    decide
  have hset := setHead_eq hl { x with started := true }
  unfold execMoverDescriptorStart
  rw [hhead]
  dsimp only
  rw [if_neg hgo, if_neg (fun h => h hmiss)]
  have hmaps : SameMaps c s (s.modCarrel c fun k => k.setHead q { x with started := true }) := by
    refine ⟨?_, ?_, rfl, rfl, rfl⟩
    · rw [State.carrel_modCarrel_same]
      rfl
    · rw [State.carrel_modCarrel_same]
      rfl
  have hmod : (s.modCarrel c fun k => k.setHead q { x with started := true }) = s.setCarrel c { s.carrel c with
      queue := Tab.set [] (s.carrel c).queue q ({ x with started := true } :: l) } := by
    unfold State.modCarrel
    exact congrArg (s.setCarrel c) hset
  rw [← hmod]
  refine congrArg Host.Outcome.next ?_
  split
  · next rs hrs =>
    refine movReads_local bay ch _ (fun e he y hy => ?_) none
    obtain ⟨r, hr, a, ha, p, hp, hpe⟩ := movRounds_mem hrs e he
    rw [hmaps.movElem] at hpe
    exact hlocal r hr a ha p hp e hpe y hy
  · rfl

/-! ### Completion -/

theorem carrelsPlans_eq {s t : State} (h : ∃ k p, t = { s with carrels := k, plans := p }) :
    t = { s with carrels := t.carrels, plans := t.plans } := by
  obtain ⟨k, p, rfl⟩ := h
  rfl

/-- A descriptor whose writes are acknowledged leaves its queue and releases its token. -/
theorem movComplete_spec (hl : Tab.get [] (s.carrel c).queue q = x :: l) (hw : (s.carrel c).wait = .none) :
    let t := s.movComplete c q x
    let tok := (movDesc x.desc x.param).tokRel
    t = { s with carrels := t.carrels, plans := t.plans } ∧ (∀ e, e ≠ c → t.carrel e = s.carrel e) ∧
      t.carrel c = { s.carrel c with queue := Tab.set [] (s.carrel c).queue q l } ∧
      ∀ i p, s.planOf c = some (i, p) → tok ≠ 0 → ∃ y, t.plan i = some y ∧ tok ∈ y.tokens := by
  intro t tok
  obtain ⟨hrest, _, htok⟩ := release_spec s c tok
  have hcar (e : BitVec 12) : (s.release c tok).carrel e = s.carrel e := by
    rw [hrest]
    rfl
  have ht : t = (s.release c tok).modCarrel c fun k => k.finishIssued q x := by
    refine engineWake_of_none ?_
    rw [State.carrel_modCarrel_same]
    show ((s.release c tok).carrel c).wait = _
    rw [hcar]
    exact hw
  rw [ht]
  refine ⟨?_, fun e he => ?_, ?_, fun i p hp h0 => ?_⟩
  · exact carrelsPlans_eq ⟨_, (s.release c tok).plans,
      (congrArg (fun u : State => u.modCarrel c fun k => k.finishIssued q x) hrest).trans rfl⟩
  · rw [State.carrel_modCarrel_other _ _ he, hcar]
  · rw [State.carrel_modCarrel_same, hcar, finishIssued_eq hl]
  · exact ⟨_, htok i p hp h0, Plan.mem_withToken p tok⟩

end

/-- The movement of a descriptor and its sums on the state `u`, its tokens drawn. -/
def State.movPerform (u : State) (c : BitVec 12) (bay : BitVec 8) (ch : BitVec 3) (d : MovDesc)
    (rs : List (List (List MovElem))) (data : List Byte) : State :=
  (u.movRun bay ch d rs data).1.movGauge c d (u.movRun bay ch d rs data).2

theorem movPerform_kept {P : Nat → Prop} {u : State} {c : BitVec 12} {bay : BitVec 8} {ch : BitVec 3} {d : MovDesc}
    {rs : List (List (List MovElem))} {data : List Byte}
    (h : ∀ e ∈ rs.flatten.flatten, e.lands P (d.width / 4) u) : MovKept P u (u.movPerform c bay ch d rs data) :=
  (movRun_kept h).trans (movGauge_kept ..)

section
variable {bay : BitVec 8} {ch : BitVec 3} {data : List Byte} {s : State} {c : BitVec 12} {q : Nat} {x : Issued}
  {l : List Issued}

theorem moverDone_asked (hhead : s.movHead bay ch = some (c, q, x)) (h : s.asked (.mover bay ch) = true) :
    execMoverDescriptorDone bay ch data s = .next s := by
  unfold execMoverDescriptorDone
  rw [hhead]
  exact congrArg Host.Outcome.next (if_pos (Or.inr (Or.inr h)))

theorem moverDone_moved (hhead : s.movHead bay ch = some (c, q, x)) (hdead : x.dead = false) (hs : x.started = true)
    (h : s.asked (.mover bay ch) = false) (hm : x.moved = true) :
    execMoverDescriptorDone bay ch data s = .next (s.movComplete c q x) := by
  have hgo : ¬ (x.started = false ∨ x.dead = true ∨ s.asked (.mover bay ch) = true) := by
    rw [hs, hdead, h]
    decide
  unfold execMoverDescriptorDone
  rw [hhead]
  exact congrArg Host.Outcome.next ((if_neg hgo).trans (if_pos hm))

theorem moverDone_moves {rs : List (List (List MovElem))} (hhead : s.movHead bay ch = some (c, q, x))
    (hdead : x.dead = false) (hs : x.started = true) (h : s.asked (.mover bay ch) = false) (hm : x.moved = false)
    (hrs : s.movRounds c ch (movDesc x.desc x.param) = some rs)
    (hdata : data.length = s.remoteBytes (movDesc x.desc x.param) rs.flatten.flatten) :
    execMoverDescriptorDone bay ch data s = .next (whenLet (s.movAsk bay ch (movDesc x.desc x.param) rs) fun u =>
      let v := u.movPerform c bay ch (movDesc x.desc x.param) rs data
      if v.asked (.mover bay ch) then v.modCarrel c fun k => k.setHead q { x with moved := true }
      else v.movComplete c q x) := by
  have hgo : ¬ (x.started = false ∨ x.dead = true ∨ s.asked (.mover bay ch) = true) := by
    rw [hs, hdead, h]
    decide
  have hm' : ¬ x.moved = true := by rw [hm]; decide
  unfold execMoverDescriptorDone
  rw [hhead]
  refine congrArg Host.Outcome.next ((if_neg hgo).trans ((if_neg hm').trans ?_))
  dsimp only
  rw [hrs]
  exact if_neg fun hne => hne hdata

/-- A movement within this module whose tokens are drawn completes at once. -/
theorem moverDone_completes {rs : List (List (List MovElem))} (hhead : s.movHead bay ch = some (c, q, x))
    (hl : Tab.get [] (s.carrel c).queue q = x :: l)
    (hdead : x.dead = false) (hs : x.started = true) (hw : (s.carrel c).wait = .none)
    (h : s.asked (.mover bay ch) = false) (hm : x.moved = false)
    (hrs : s.movRounds c ch (movDesc x.desc x.param) = some rs)
    (hdata : data.length = s.remoteBytes (movDesc x.desc x.param) rs.flatten.flatten)
    (hask : (s.movAsk bay ch (movDesc x.desc x.param) rs).1 = true)
    (hhere : ∀ e ∈ rs.flatten.flatten, ∀ i, i < (movDesc x.desc x.param).width / 4 →
      s.isLocal ((e.dst + i) / 2) = true) :
    let d := movDesc x.desc x.param
    ∃ t, execMoverDescriptorDone bay ch data s = .next t ∧
      (t.carrel c).queue = Tab.set [] (s.carrel c).queue q l ∧ (t.carrel c).pc = (s.carrel c).pc ∧
      (∀ e, e ≠ c → t.carrel e = s.carrel e) ∧
      (∀ i p, s.planOf c = some (i, p) → d.tokRel ≠ 0 → ∃ y, t.plan i = some y ∧ d.tokRel ∈ y.tokens) ∧
      ∀ b, (∀ e ∈ rs.flatten.flatten, ∀ i, i < d.width / 4 → localOf ((e.dst + i) / 2) ≠ b) →
        t.byte b = s.byte b := by
  intro d
  have htok : TokensOnly s (s.movAsk bay ch d rs).2 := askHbm_tokensOnly ..
  obtain ⟨v, hv⟩ : ∃ v, v = (s.movAsk bay ch d rs).2.movPerform c bay ch d rs data := ⟨_, rfl⟩
  have hkept : MovKept (fun b => ∀ e ∈ rs.flatten.flatten, ∀ i, i < d.width / 4 → localOf ((e.dst + i) / 2) ≠ b)
      (s.movAsk bay ch d rs).2 v := by
    rw [hv]
    refine movPerform_kept fun e he i hi => ⟨?_, fun b hb => hb e he i hi⟩
    rw [htok.isLocal]
    exact hhere e he i hi
  have hcar (e : BitVec 12) : v.carrel e = s.carrel e := (hkept.bay.carrel e).trans (htok.carrel e)
  have hnot : ¬ v.asked (.mover bay ch) = true := by
    rw [hkept.bay.asked, State.asked, htok.chain]
    exact fun h' => by rw [State.asked, h'] at h; cases h
  have hplan : v.planOf c = s.planOf c :=
    (hkept.bay.planOf c).trans (State.planOf_congr (by rw [htok.rest]) (by rw [htok.carrel]))
  obtain ⟨hrest, hoth, hown, hrel⟩ := movComplete_spec (s := v) (by rw [hcar]; exact hl) (by rw [hcar]; exact hw)
  refine ⟨v.movComplete c q x, ?_, ?_, ?_, fun e he => (hoth e he).trans (hcar e), fun i p hp => hrel i p ?_,
    fun b hb => ?_⟩
  · rw [moverDone_moves hhead hdead hs h hm hrs hdata]
    refine congrArg Host.Outcome.next ((if_pos hask).trans ?_)
    dsimp only
    rw [← hv]
    exact if_neg hnot
  · rw [hown, hcar]
  · rw [hown, hcar]
  · exact hplan.trans hp
  · have hbyte : (v.movComplete c q x).byte b = v.byte b := by
      rw [hrest]
      rfl
    exact hbyte.trans ((hkept.bytes b hb).trans (htok.byte b))

/-! ### A stopped descriptor -/

/-- An element that a channel issued is that of a point of the descriptor. -/
theorem issuedRounds_mem (s : State) (c : BitVec 12) (ch : BitVec 3) (a : Word) :
    ∀ (l : List (List (List MovPoint))), ∀ e ∈ (s.issuedRounds c ch a l).flatten.flatten,
      ∃ r ∈ l, ∃ b ∈ r, ∃ p ∈ b, s.movElem c ch p = some e := by
  intro l
  induction l with
  | nil => exact fun e he => by cases he
  | cons r l ih =>
    have hfirst : ∀ e ∈ (s.issuedOf c ch a r).1.flatten, ∃ b ∈ r, ∃ p ∈ b, s.movElem c ch p = some e := by
      intro e he
      unfold State.issuedOf at he
      dsimp only at he
      split at he
      · cases he
      · obtain ⟨y, hy, he⟩ := List.mem_flatten.mp he
        obtain ⟨b, hb, rfl⟩ := List.mem_map.mp hy
        obtain ⟨p, hp, hpe⟩ := List.mem_filterMap.mp he
        exact ⟨b, (List.takeWhile_subset _) hb, p, hp, hpe⟩
    intro e he
    have hsplit : e ∈ (s.issuedOf c ch a r).1.flatten ∨ e ∈ (s.issuedRounds c ch a l).flatten.flatten := by
      unfold State.issuedRounds at he
      dsimp only at he
      split at he
      · split at he
        · cases he
        · rw [List.flatten_cons, List.flatten_nil, List.append_nil] at he
          exact Or.inl he
      · rw [List.flatten_cons, List.flatten_append] at he
        exact List.mem_append.mp he
    rcases hsplit with h | h
    · obtain ⟨b, hb, hp⟩ := hfirst e h
      exact ⟨r, List.mem_cons_self, b, hb, hp⟩
    · obtain ⟨r', hr', hp⟩ := ih e h
      exact ⟨r', List.mem_cons_of_mem _ hr', hp⟩

/-- What a stopped descriptor still moves goes no further than the bay. -/
theorem movStopped_bay {d : MovDesc} {a : Word}
    (h : ∀ r ∈ d.rounds, ∀ b ∈ r, ∀ p ∈ b, ∀ e, s.movElem c ch p = some e →
      ∀ i, i < d.width / 4 → s.isLocal ((e.dst + i) / 2) = true) : OnlyBay s (s.movStopped c bay ch d a) := by
  refine (OnlyBay.draw s).trans (movPerform_kept (P := fun _ => False) (u := s.draw.2) (c := c) (bay := bay) (ch := ch)
    (d := d) fun e he i hi => ⟨?_, fun _ hb => hb.elim⟩).bay
  obtain ⟨r, hr, b, hb, p, hp, hpe⟩ := issuedRounds_mem s c ch a d.rounds e he
  exact h r hr b hb p hp e hpe i hi

theorem Reported.plans {n : Nat} {s t : State} (h : Reported n s t) : t.plans = s.plans := by
  obtain ⟨_, _, _, _, _, _, _, _, rfl, _⟩ := h
  rfl

/-- The plan of a stopped descriptor, if there is one, is LATE. -/
def State.markLate (s : State) (c : BitVec 12) : State :=
  match s.planOf c with
  | some (i, _) => s.modPlan i fun p => { p with late := true }
  | none => s

theorem markLate_rest (s : State) (c : BitVec 12) : ∃ p, s.markLate c = { s with plans := p } := by
  unfold State.markLate
  split
  · exact ⟨_, rfl⟩
  · exact ⟨_, rfl⟩

theorem markLate_plan {i : Nat} {p : Plan} (h : s.planOf c = some (i, p)) :
    (s.markLate c).plan i = some { p with late := true } := by
  have he : s.markLate c = s.modPlan i fun p => { p with late := true } := by
    unfold State.markLate
    rw [h]
  rw [he, State.plan_modPlan (f := fun p => { p with late := true }) s i i fun _ => rfl, State.planOf_eq h]
  exact congrArg some (if_pos rfl)

/-- The record of a stopped descriptor. -/
def stopRecord (s : State) (c : BitVec 12) (bay : BitVec 8) (ch : BitVec 3) (d : MovDesc) (cause : StopCause) :
    Report :=
  { s.carrelReport c 0x33 1 with
    disp := 4
    unitno := bay.setWidth 16, opnum := BitVec.ofNat 32 d.opnum, addr := cause.addr
    d0 := cause.code.setWidth 64, d1 := ch.setWidth 64 }

theorem descStop_eq {cause : StopCause} (hhead : s.movHead bay ch = some (c, q, x)) (hs : x.started = true)
    (hdead : x.dead = false) :
    let d := movDesc x.desc x.param
    let u := (if x.moved then s else s.movStopped c bay ch d cause.addr).markLate c
    execDescStop bay ch cause s = .next (((u.report (stopRecord u c bay ch d cause)).forget (.mover bay ch)).modCarrel c
      fun k => k.setHead q { x with dead := true }) := by
  unfold execDescStop
  rw [hhead]
  exact congrArg Host.Outcome.next (if_pos ⟨hs, hdead⟩)

theorem descStop_spec {cause : StopCause} (hhead : s.movHead bay ch = some (c, q, x))
    (hl : Tab.get [] (s.carrel c).queue q = x :: l) (hdead : x.dead = false) (hs : x.started = true)
    (hbay : x.moved = true ∨ ∀ r ∈ (movDesc x.desc x.param).rounds, ∀ b ∈ r, ∀ p ∈ b, ∀ e, s.movElem c ch p = some e →
      ∀ i, i < (movDesc x.desc x.param).width / 4 → s.isLocal ((e.dst + i) / 2) = true) :
    ∃ t, execDescStop bay ch cause s = .next t ∧
      (t.carrel c).queue = Tab.set [] (s.carrel c).queue q ({ x with dead := true } :: l) ∧
      (∀ e, e ≠ c → t.carrel e = s.carrel e) ∧ t.census.ring.num = s.census.ring.num + 1 ∧
      ∀ i p, s.planOf c = some (i, p) → t.plan i = some { p with late := true } := by
  rw [descStop_eq hhead hs hdead]
  generalize hd : movDesc x.desc x.param = d at hbay ⊢
  generalize hm : (if x.moved then s else s.movStopped c bay ch d cause.addr) = m
  have hm' : OnlyBay s m := by
    rw [← hm]
    split
    · exact OnlyBay.refl s
    · next h => exact movStopped_bay (hbay.resolve_left h)
  generalize stopRecord (m.markLate c) c bay ch d cause = rep
  have hcar (e : BitVec 12) : ((m.markLate c).report rep).carrel e = s.carrel e := by
    obtain ⟨p, hp⟩ := markLate_rest m c
    unfold State.carrel
    rw [State.report_carrels, hp]
    exact hm'.carrel e
  refine ⟨_, rfl, ?_, fun e he => ?_, ?_, fun i p hp => ?_⟩
  · rw [State.carrel_modCarrel_same]
    refine Eq.trans (congrArg Carrel.queue (setHead_eq (l := l) (x := x) ?_ _)) ?_
    · exact (congrArg (fun k : Carrel => Tab.get [] k.queue q) (hcar c)).trans hl
    · exact congrArg (fun k : Carrel => Tab.set [] k.queue q ({ x with dead := true } :: l)) (hcar c)
  · rw [State.carrel_modCarrel_other _ _ he]
    exact hcar e
  · obtain ⟨w, hw⟩ := markLate_rest m c
    refine (State.report_num (m.markLate c) rep).trans ?_
    rw [hw]
    exact congrArg (fun r : Ring => r.num + 1) hm'.ringNum
  · have hplans := (State.report_spec (m.markLate c) rep none).plans
    refine Eq.trans ?_ (markLate_plan (s := m) (c := c) (i := i) (p := p) ((hm'.planOf c).trans hp))
    exact congrArg (fun l : Tab Plan => (State.plan { s with plans := l } i)) hplans

end

end Sys2Proof.Machine

namespace Sys2Proof
open Machine

/-- Settles O29: a row engine's start and completion, a mover's start, movement and completion, and a stop. -/
theorem rowEnginesAndMovers : Obligations.RowEnginesAndMovers := by
  unfold Obligations.RowEnginesAndMovers
  refine ⟨fun bay s c x hno h => rowDescriptorStart_eq hno h, fun bay s c x h hw => ?_, ?_, ?_, ?_⟩
  · obtain ⟨t, he, hrest, hoth, hown⟩ := rowDescriptorDone_spec h hw
    exact ⟨t, he, hrest.rest, hoth, hown⟩
  · rintro bay ch s c q x l ⟨hhead, hl, hdead⟩ hs
    refine ⟨fun h0 hno => moverStart_waits hhead ?_, fun htok hmiss hloc =>
      moverStart_runs hhead hl hdead hs ((tokenIn_iff ..).mpr htok) hmiss hloc⟩
    rw [Bool.eq_false_iff]
    intro h
    rcases (tokenIn_iff ..).mp h with h | ⟨i, p, hp, hm⟩
    · exact h0 h
    · exact hno i p hp hm
  · rintro bay ch data s c q x l rs ⟨hhead, hl, hdead⟩ hs hw
    refine ⟨moverDone_asked hhead, fun ha hm hrs hdata => ⟨fun hask => ?_, fun hask hhere =>
      moverDone_completes hhead hl hdead hs hw ha hm hrs hdata hask hhere⟩, fun ha hm => ?_⟩
    · refine (moverDone_moves hhead hdead hs ha hm hrs hdata).trans (congrArg Host.Outcome.next (if_neg ?_))
      rw [hask]
      decide
    · obtain ⟨hrest, hoth, hown, hrel⟩ := movComplete_spec hl hw
      exact ⟨_, moverDone_moved hhead hdead hs ha hm, hrest, hoth, by rw [hown], hrel⟩
  · rintro bay ch cause s c q x l ⟨hhead, hl, hdead⟩ hs hbay
    exact descStop_spec hhead hl hdead hs hbay

end Sys2Proof
end

section
/-!
# Answers of the dictionary and the states of the functions
-/
namespace Sys2Proof.Machine

/-! ### Answers -/

theorem get_bufSet (l : List Byte) : ∀ (b : Tab Byte) (i j : Nat),
    Tab.get 0 (bufSet b i l) j = if i ≤ j ∧ j < i + l.length then l.getD (j - i) 0 else Tab.get 0 b j := by
  induction l with
  | nil =>
    intro b i j
    exact (if_neg (by simp)).symm
  | cons x l ih =>
    intro b i j
    unfold bufSet
    rw [ih]
    by_cases hj : j = i
    · subst hj
      rw [if_neg (by omega), if_pos (by simp), Tab.get_set_same, Nat.sub_self]
      rfl
    · rw [Tab.get_set_other _ _ _ _ _ hj]
      by_cases h : i ≤ j ∧ j < i + (l.length + 1)
      · rw [if_pos (by omega), if_pos (by simpa using h), show j - i = (j - (i + 1)) + 1 by omega]
        rfl
      · rw [if_neg (by omega), if_neg (by simpa using h)]

theorem State.win_modWin_same (s : State) (f : Nat) (g : DictWin → DictWin) : (s.modWin f g).win f = g (s.win f) :=
  Tab.get_set_same _ _ _ _

theorem State.win_modWin_other (s : State) {f h : Nat} (g : DictWin → DictWin) (hf : h ≠ f) :
    (s.modWin f g).win h = s.win h :=
  Tab.get_set_other _ _ _ _ _ hf

/-- The end of a request that a keeper serves is its answer. -/
theorem dictEnd_answered {s : State} {src : DictSrc} (h : src = .can → s.canTalk = true) (code done size : Nat)
    (data : List Byte) : Answered src code done size data s (s.dictEnd src code done size data) := by
  have hwin (f : Nat) : let t := s.modWin f fun w => { w with
        go := false, err := w.err || decide (code ≠ 0), abort := BitVec.ofNat 32 code
        doneLen := if code = 0 then BitVec.ofNat 32 done else w.doneLen
        size := if code = 0 then BitVec.ofNat 32 size else w.size, buf := bufSet w.buf 0 data }
      t = { s with dict := { s.dict with windows := t.dict.windows } } ∧ (∀ g, g ≠ f → t.win g = s.win g) ∧
      t.win f = { s.win f with
        go := false, err := (s.win f).err || decide (code ≠ 0), abort := BitVec.ofNat 32 code
        doneLen := if code = 0 then BitVec.ofNat 32 done else (s.win f).doneLen
        size := if code = 0 then BitVec.ofNat 32 size else (s.win f).size, buf := (t.win f).buf } ∧
      ∀ j, Tab.get 0 (t.win f).buf j = if j < data.length then data.getD j 0 else Tab.get 0 (s.win f).buf j := by
    intro t
    have ht : t.win f = { s.win f with
        go := false, err := (s.win f).err || decide (code ≠ 0), abort := BitVec.ofNat 32 code
        doneLen := if code = 0 then BitVec.ofNat 32 done else (s.win f).doneLen
        size := if code = 0 then BitVec.ofNat 32 size else (s.win f).size, buf := bufSet (s.win f).buf 0 data } :=
      State.win_modWin_same ..
    refine ⟨rfl, fun g hg => State.win_modWin_other s _ hg, ?_, fun j => ?_⟩
    · rw [ht]
    · rw [ht]
      refine (get_bufSet data (s.win f).buf 0 j).trans ?_
      simp only [Nat.zero_le, true_and, Nat.zero_add, Nat.sub_zero]
  cases src with
  | can => exact if_pos (h rfl)
  | pf => exact hwin 0
  | vf f => exact hwin f.toNat

theorem State.canTalk_of_served {s : State} {src : DictSrc} (h : s.dictServed src = true) :
    src = .can → s.canTalk = true := by
  rintro rfl
  exact h

/-! ### Functions -/

theorem funcKey_inj {f g : FuncId} : funcKey f = funcKey g ↔ f = g := by
  cases f <;> cases g <;> simp only [funcKey, FuncId.link.injEq, FuncId.stack.injEq, FuncId.part.injEq,
    FuncId.bay.injEq, FuncId.ctx.injEq, Fin.ext_iff, ← BitVec.toNat_inj, reduceCtorEq, iff_false] <;> omega

theorem State.func_setFunc_same (s : State) (f : FuncId) (x : Func) : (s.setFunc f x).func f = x :=
  Tab.get_set_same _ _ _ _

theorem State.func_setFunc_other (s : State) {f g : FuncId} (x : Func) (h : g ≠ f) :
    (s.setFunc f x).func g = s.func g :=
  Tab.get_set_other _ _ _ _ _ fun he => h (funcKey_inj.mp he)

/-- Work on a function that leaves the states of the functions and the plans. -/
structure KeepsFuncs (s t : State) : Prop where
  funcs : t.dict.funcs = s.dict.funcs
  plans : t.plans = s.plans

theorem KeepsFuncs.refl (s : State) : KeepsFuncs s s := ⟨rfl, rfl⟩

theorem KeepsFuncs.trans {s t u : State} (h : KeepsFuncs s t) (g : KeepsFuncs t u) : KeepsFuncs s u :=
  ⟨g.funcs.trans h.funcs, g.plans.trans h.plans⟩

theorem KeepsFuncs.func {s t : State} (h : KeepsFuncs s t) (f : FuncId) : t.func f = s.func f := by
  unfold State.func
  rw [h.funcs]

theorem KeepsFuncs.of_sends {s t : State} (h : SendsOnly s t) : KeepsFuncs s t := by
  obtain ⟨_, _, rfl⟩ := h
  exact ⟨rfl, rfl⟩

theorem KeepsFuncs.of_tokens {s t : State} (h : TokensOnly s t) : KeepsFuncs s t := by
  rw [h.rest]
  exact ⟨rfl, rfl⟩

theorem KeepsFuncs.foldl {α : Type} {f : State → α → State} (hf : ∀ s x, KeepsFuncs s (f s x)) (l : List α)
    (s : State) : KeepsFuncs s (l.foldl f s) :=
  List.foldlRecOn (motive := KeepsFuncs s) l f (KeepsFuncs.refl s) fun t ht x _ => ht.trans (hf t x)

/-! ### Start work -/

/-- What a write of REQUEST to a function changes besides its state: the links and the stacks. -/
structure FuncWork (s t : State) : Prop extends KeepsFuncs s t where
  carrels : t.carrels = s.carrels
  rest : t = { s with links := t.links, hbm := t.hbm }

theorem beginStart_work (s : State) (fn : FuncId) : FuncWork s (s.beginStart fn) := by
  cases fn <;> exact ⟨⟨rfl, rfl⟩, rfl, rfl⟩

/-- What a write of REQUEST makes of a function's state. -/
def Func.written (f : Func) (scrub v : Bool) : Func :=
  if v then
    if f.state = 0 then { f with request := true, state := 1, fault := false }
    else if f.state = 3 then { f with request := true, deferred := true }
    else { f with request := true }
  else if f.state = 1 ∨ f.state = 2 then
    { f with request := false, state := 3, deferred := false, scrub := scrub }
  else if f.state = 3 then { f with request := false, deferred := false }
  else { f with request := false }

section
variable {f : Func} {scrub : Bool}

theorem Func.written_on (h : f.state = 0) :
    f.written scrub true = { f with request := true, state := 1, fault := false } := by
  simp [Func.written, h]

theorem Func.written_again (h : f.state = 3) : f.written scrub true = { f with request := true, deferred := true } := by
  simp [Func.written, h]

theorem Func.written_more (h : f.state = 1 ∨ f.state = 2) : f.written scrub true = { f with request := true } := by
  rcases h with h | h <;> simp [Func.written, h]

theorem Func.written_off (h : f.state = 1 ∨ f.state = 2) :
    f.written scrub false = { f with request := false, state := 3, deferred := false, scrub := scrub } := by
  rcases h with h | h <;> simp [Func.written, h]

theorem Func.written_cancel (h : f.state = 3) :
    f.written scrub false = { f with request := false, deferred := false } := by
  simp [Func.written, h]

theorem Func.written_less (h : f.state = 0) : f.written scrub false = { f with request := false } := by
  simp [Func.written, h]

end

theorem funcWrite_work (s : State) (fn : FuncId) (v : Bool) :
    ∃ scrub, (∀ l, fn = .link l → scrub = false) ∧
      FuncWork (s.setFunc fn ((s.func fn).written scrub v)) (s.funcWrite fn v) := by
  refine ⟨match fn with | .ctx _ => s.scrubNow | _ => false, fun l h => by rw [h], ?_⟩
  unfold State.funcWrite Func.written
  dsimp only
  have hsame (t : State) : FuncWork t t := ⟨KeepsFuncs.refl t, rfl, rfl⟩
  cases v
  · simp only [Bool.false_eq_true, if_false]
    split
    · exact hsame _
    · split <;> exact hsame _
  · simp only [if_true]
    split
    · exact beginStart_work _ fn
    · split <;> exact hsame _

/-- The state of a function after a write of REQUEST, and what the write leaves. -/
theorem funcWrite_spec (s : State) (fn : FuncId) (v : Bool) :
    let t := s.funcWrite fn v
    (∃ scrub, (∀ l, fn = .link l → scrub = false) ∧ t.func fn = (s.func fn).written scrub v) ∧
      (∀ g, g ≠ fn → t.func g = s.func g) ∧ t.carrels = s.carrels ∧ t.plans = s.plans ∧ t.canTalk = s.canTalk := by
  obtain ⟨scrub, hscrub, hw⟩ := funcWrite_work s fn v
  refine ⟨⟨scrub, hscrub, ?_⟩, fun g hg => ?_, hw.carrels, hw.plans, ?_⟩
  · rw [hw.func, State.func_setFunc_same]
  · rw [hw.func, State.func_setFunc_other s _ hg]
  · rw [hw.rest]
    rfl

/-! ### Requests -/

theorem funcEntry_refused {s : State} {src : DictSrc} {fn : FuncId} {v : Bool} (h : s.dictServed src = true)
    (hsrc : ∀ g, src ≠ .vf g)
    (hr : s.start.step.toNat < 10 ∨ (if v then s.enableRefused fn else s.disableRefused fn) = true) :
    s.funcEntry src fn v = s.dictAbort src 0x08000022 := by
  have hstep : s.starting ∨ (if v then s.enableRefused fn else s.disableRefused fn) = true :=
    hr.imp_left fun h => decide_eq_true h
  unfold State.funcEntry
  rw [if_neg (by rw [h]; decide)]
  cases src with
  | vf g => exact absurd rfl (hsrc g)
  | can => exact (if_neg (by decide)).trans (if_pos hstep)
  | pf => exact (if_neg (by decide)).trans (if_pos hstep)

theorem funcEntry_taken {s : State} {src : DictSrc} {fn : FuncId} {v : Bool} (h : s.dictServed src = true)
    (hsrc : ∀ g, src ≠ .vf g) (hstep : 10 ≤ s.start.step.toNat)
    (hr : (if v then s.enableRefused fn else s.disableRefused fn) = false) :
    s.funcEntry src fn v = (s.funcWrite fn v).dictOk src 2 := by
  have hno : ¬ (s.starting = true ∨ (if v then s.enableRefused fn else s.disableRefused fn) = true) := by
    rw [hr]
    rintro (h | h)
    · exact absurd (of_decide_eq_true h) (Nat.not_lt.mpr hstep)
    · cases h
  unfold State.funcEntry
  rw [if_neg (by rw [h]; decide)]
  cases src with
  | vf g => exact absurd rfl (hsrc g)
  | can => exact (if_neg (by decide)).trans (if_neg hno)
  | pf => exact (if_neg (by decide)).trans (if_neg hno)

/-! ### Stop work -/

theorem modCarrels_keeps (l : List Nat) (f : Carrel → Carrel) (s : State) : KeepsFuncs s (s.modCarrels l f) :=
  KeepsFuncs.foldl (f := fun s c => s.modCarrel (BitVec.ofNat 12 c) f) (fun _ _ => ⟨rfl, rfl⟩) l s

theorem linkOff_keeps (s : State) (l : Nat) : KeepsFuncs s (s.linkOff l) := by
  unfold State.linkOff
  dsimp only
  refine KeepsFuncs.trans (t := s.modLink l _) ⟨rfl, rfl⟩ (KeepsFuncs.foldl (fun t i => ?_) _ _)
  split
  · exact KeepsFuncs.of_sends (SendsOnly.sendItem t (by rw [errorItem_kind]; decide))
  · exact KeepsFuncs.refl t

theorem scrubCtx_keeps (s : State) (ctx : Nat) : KeepsFuncs s (s.scrubCtx ctx) := by
  have hzero := KeepsFuncs.foldl (f := fun (s : State) (x : Nat × Nat × BitVec 6) => s.zeroRange x.1 x.2.1)
    (fun _ _ => ⟨rfl, rfl⟩) (s.scrubRanges ctx) s
  unfold State.scrubCtx
  dsimp only
  generalize (s.scrubRanges ctx).foldl (fun (s : State) (x : Nat × Nat × BitVec 6) => s.zeroRange x.1 x.2.1) s = t
    at hzero ⊢
  exact hzero.trans (List.foldlRecOn (motive := KeepsFuncs t) _ _ ⟨rfl, rfl⟩ fun u hu i _ => hu.trans ⟨rfl, rfl⟩)

theorem ctxOff_keeps (s : State) (c : BitVec 12) : KeepsFuncs s (s.ctxOff c) := ⟨rfl, rfl⟩

/-- The end of a function's stop work. -/
def State.stopEnd (s : State) (fn : FuncId) (f : Func) : State :=
  let t := s.setFunc fn { f with state := if f.deferred then 1 else 0, deferred := false, scrub := false }
  if f.deferred then t.beginStart fn else t

/-- The stop work itself. -/
def State.stopWork (s : State) : FuncId → State
  | .link l => s.linkOff l.val
  | .stack i => s.modStack i.toNat fun k => { k with selfref := true, exiting := false }
  | .part p => (upto 8).foldl (fun s i => s.modStack i fun k =>
      { k with planBkt := Tab.set 0 k.planBkt p.toNat 0, unplBkt := Tab.set 0 k.unplBkt p.toNat 0 }) s
  | .bay b => s.dozeBay b.toNat
  | .ctx c => if (s.func (.ctx c)).scrub then ((s.scrubAsk c).2.scrubCtx c.toNat).ctxOff c else s.ctxOff c

theorem stopWork_keeps (s : State) (fn : FuncId) : KeepsFuncs s (s.stopWork fn) := by
  cases fn with
  | link l => exact linkOff_keeps s l.val
  | stack i => exact ⟨rfl, rfl⟩
  | part p => exact List.foldlRecOn (motive := KeepsFuncs s) _ _ (KeepsFuncs.refl s) fun u hu i _ => hu.trans ⟨rfl, rfl⟩
  | bay b => exact modCarrels_keeps _ _ s
  | ctx c =>
    unfold State.stopWork
    dsimp only
    split
    · exact ((KeepsFuncs.of_tokens (askHbm_tokensOnly ..)).trans (scrubCtx_keeps _ _)).trans (ctxOff_keeps _ _)
    · exact ctxOff_keeps s c

theorem stopEnd_spec (s : State) (fn : FuncId) (f : Func) :
    let t := s.stopEnd fn f
    t.func fn = { f with state := if f.deferred then 1 else 0, deferred := false, scrub := false } ∧
      (∀ g, g ≠ fn → t.func g = s.func g) ∧ t.plans = s.plans := by
  intro t
  have hw : KeepsFuncs (s.setFunc fn { f with state := if f.deferred then 1 else 0, deferred := false, scrub := false })
      t := by
    unfold t State.stopEnd
    dsimp only
    split
    · exact (beginStart_work ..).toKeepsFuncs
    · exact KeepsFuncs.refl _
  refine ⟨?_, fun g hg => ?_, hw.plans⟩
  · rw [hw.func, State.func_setFunc_same]
  · rw [hw.func, State.func_setFunc_other s _ hg]

/-- Stop work that need not wait. -/
theorem stopDone_ends {s : State} {fn : FuncId} (h3 : (s.func fn).state = 3)
    (h : ∀ c, fn = .ctx c → s.hasPlan c.toNat = false ∧ ((s.func fn).scrub = true → (s.scrubAsk c).1 = true)) :
    s.stopDone fn = (s.stopWork fn).stopEnd fn (s.func fn) := by
  unfold State.stopDone
  refine (if_pos h3).trans ?_
  cases fn with
  | link l => rfl
  | stack i => rfl
  | part p => rfl
  | bay b => rfl
  | ctx c =>
    obtain ⟨hplan, hask⟩ := h c rfl
    refine (if_neg (by rw [hplan]; decide)).trans ?_
    unfold State.stopWork
    dsimp only
    cases hs : (s.func (.ctx c)).scrub with
    | false => rfl
    | true =>
      refine (if_pos rfl).trans ((if_pos (hask hs)).trans ?_)
      rw [if_pos rfl]
      rfl

theorem startDone_spec {s : State} {fn : FuncId} (h1 : (s.func fn).state = 1) (ok : Bool) :
    let t := s.startDone fn ok
    t.func fn = (if ok then { s.func fn with state := 2 } else { s.func fn with state := 0, fault := true }) ∧
      (∀ g, g ≠ fn → t.func g = s.func g) ∧ t.carrels = s.carrels ∧ t.plans = s.plans := by
  intro t
  obtain ⟨x, hx⟩ : ∃ x, x = (if ok then { s.func fn with state := 2 } else
      { s.func fn with state := 0, fault := true }) :=
    ⟨_, rfl⟩
  have hw : KeepsFuncs (s.setFunc fn x) t ∧ t.carrels = s.carrels := by
    unfold t State.startDone
    dsimp only
    rw [if_pos h1, hx]
    cases ok
    · exact ⟨KeepsFuncs.refl _, rfl⟩
    · cases fn <;> exact ⟨⟨rfl, rfl⟩, rfl⟩
  refine ⟨?_, fun g hg => ?_, hw.2, hw.1.plans⟩
  · rw [hw.1.func, State.func_setFunc_same, hx]
  · rw [hw.1.func, State.func_setFunc_other s _ hg]

end Sys2Proof.Machine

namespace Sys2Proof
open Machine

/-- Settles O54: requests through the dictionary and through LNK_CTL, and the ends of the start and stop work. -/
theorem functionStates : Obligations.FunctionStates := by
  unfold Obligations.FunctionStates
  intro src fn s f others
  refine ⟨fun hserved hsrc => ⟨?_, ?_, ?_, ?_⟩, ?_, ?_, ?_, ?_, ?_, ?_, ?_, ?_⟩
  · intro hstep hr
    obtain ⟨⟨scrub, _, hown⟩, hoth, hcar, hplans, htalk⟩ := funcWrite_spec s fn true
    refine ⟨s.funcWrite fn true, _, congrArg Host.Outcome.next (funcEntry_taken hserved hsrc hstep hr),
      dictEnd_answered (fun h => htalk.trans (State.canTalk_of_served hserved h)) .., ⟨hoth, hcar, hplans⟩, ?_⟩
    rw [hown]
    exact ⟨Func.written_on, Func.written_again, Func.written_more⟩
  · intro hstep hr
    obtain ⟨⟨scrub, _, hown⟩, hoth, hcar, hplans, htalk⟩ := funcWrite_spec s fn false
    refine ⟨s.funcWrite fn false, _, congrArg Host.Outcome.next (funcEntry_taken hserved hsrc hstep hr),
      dictEnd_answered (fun h => htalk.trans (State.canTalk_of_served hserved h)) .., ⟨hoth, hcar, hplans⟩, ?_⟩
    rw [hown]
    exact ⟨fun h => by rw [Func.written_off h], Func.written_cancel, Func.written_less⟩
  · intro hr
    exact ⟨_, congrArg Host.Outcome.next (funcEntry_refused hserved hsrc hr),
      dictEnd_answered (State.canTalk_of_served hserved) ..⟩
  · intro hr
    exact ⟨_, congrArg Host.Outcome.next (funcEntry_refused hserved hsrc hr),
      dictEnd_answered (State.canTalk_of_served hserved) ..⟩
  · intro g hserved
    refine ⟨_, congrArg Host.Outcome.next ?_, dictEnd_answered (State.canTalk_of_served hserved) ..⟩
    exact (if_neg (by rw [hserved]; decide)).trans (if_pos rfl)
  · intro h1
    exact ⟨⟨_, rfl, startDone_spec h1 true⟩, ⟨_, rfl, startDone_spec h1 false⟩⟩
  · exact fun h1 ok => congrArg Host.Outcome.next (if_neg h1)
  · exact fun h3 => congrArg Host.Outcome.next (if_neg h3)
  · rintro c rfl h3 hplan hscrub hask
    refine congrArg Host.Outcome.next ((if_pos h3).trans ((if_neg (by rw [hplan]; decide)).trans ((if_pos hscrub).trans
      (if_neg ?_))))
    rw [hask]
    decide
  · intro h3 hgo
    have hkeeps := stopWork_keeps s fn
    obtain ⟨hown, hoth, hplans⟩ := stopEnd_spec (s.stopWork fn) fn (s.func fn)
    exact ⟨_, congrArg Host.Outcome.next (stopDone_ends h3 hgo), hown, fun g hg => (hoth g hg).trans (hkeeps.func g),
      hplans.trans hkeeps.plans⟩
  · rintro c rfl h3 hplan
    exact congrArg Host.Outcome.next ((if_pos h3).trans (if_pos hplan))
  · rintro l r rfl hr
    have hvf : ¬ isVf r = true := by rw [isVf_eq_false hr]; decide
    have hex (en : Bool) (hstep : 10 ≤ s.start.step.toNat) :
        Machine.exec (.lnkCtlEnWrite r l en) s = .next (s.funcWrite (.link l) en) :=
      congrArg Host.Outcome.next ((if_neg hvf).trans (if_neg fun h => by
        exact absurd (of_decide_eq_true h) (Nat.not_lt.mpr hstep)))
    refine ⟨fun hstep h0 => ?_, fun hstep h2 => ?_, fun hstep en => ?_⟩
    · obtain ⟨⟨scrub, _, hown⟩, hoth, hcar, hplans, _⟩ := funcWrite_spec s (.link l) true
      refine ⟨_, hex true hstep, ⟨hoth, hcar, hplans⟩, hown.trans (Func.written_on h0), ?_⟩
      have hw : s.funcWrite (.link l) true = (s.setFunc (.link l) _).beginStart (.link l) := if_pos h0
      rw [hw]
      unfold State.beginStart
      rw [State.link_modLink_same]
    · obtain ⟨⟨scrub, hs, hown⟩, hoth, hcar, hplans, _⟩ := funcWrite_spec s (.link l) false
      refine ⟨_, hex false hstep, ⟨hoth, hcar, hplans⟩, hown.trans ?_⟩
      rw [Func.written_off (Or.inr h2), hs l rfl]
    · exact congrArg Host.Outcome.next ((if_neg hvf).trans (if_pos (decide_eq_true hstep)))

end Sys2Proof
end

section
/-!
# Anti-rollback, attestation and authenticated debug
-/
namespace Sys2Proof.Machine

/-! ### The anti-rollback bits -/

theorem bytesToNat_or : ∀ (l m : List Byte), l.length = m.length →
    bytesToNat (List.zipWith (· ||| ·) l m) = bytesToNat l ||| bytesToNat m := by
  intro l
  induction l with
  | nil =>
    intro m h
    rw [List.length_eq_zero_iff.mp h.symm]
    rfl
  | cons a l ih =>
    intro m h
    cases m with
    | nil => cases h
    | cons b m =>
      have ih' := ih m (Nat.succ.inj h)
      refine Nat.eq_of_testBit_eq fun i => ?_
      have hbit (c : Byte) (n : Nat) : (c.toNat + 256 * n).testBit i =
          if i < 8 then c.toNat.testBit i else n.testBit (i - 8) := by
        rw [Nat.add_comm]
        exact Nat.testBit_two_pow_mul_add n c.isLt i
      rw [List.zipWith_cons_cons, Nat.testBit_or]
      unfold bytesToNat
      rw [hbit, hbit, hbit, ih', BitVec.toNat_or, Nat.testBit_or, Nat.testBit_or]
      split <;> rfl

/-- The bytes of a keeper's or of the block's ARB bits with those of a number blown. -/
def burn (n : Nat) (t : Tab Byte) : Tab Byte :=
  Tab.setAll 0 t ((natToBytes 16 n).mapIdx fun i b => (0x60 + i, Tab.get 0 t (0x60 + i) ||| b))

theorem get_setAll_none {α : Type} [DecidableEq α] {d : α} (l : List (Nat × α)) (k : Nat) :
    ∀ t : Tab α, (∀ x ∈ l, x.1 ≠ k) → Tab.get d (Tab.setAll d t l) k = Tab.get d t k := by
  induction l with
  | nil => exact fun _ _ => rfl
  | cons x l ih =>
    intro t h
    refine (ih _ fun y hy => h y (List.mem_cons_of_mem _ hy)).trans ?_
    exact Tab.get_set_other _ _ _ _ _ (h x List.mem_cons_self).symm

theorem get_setAll_mapIdx {α β : Type} [DecidableEq α] {d : α} (f : Nat → β → α) (a k : Nat) (l : List β) :
    ∀ (o : Nat) (t : Tab α), Tab.get d (Tab.setAll d t (l.mapIdx fun i b => (a + (o + i), f (o + i) b))) k =
      if h : a + o ≤ k ∧ k < a + o + l.length then f (k - a) (l[k - (a + o)]'(by omega)) else Tab.get d t k := by
  induction l with
  | nil =>
    intro o t
    rw [dif_neg (by rw [List.length_nil]; omega)]
    rfl
  | cons b l ih =>
    intro o t
    rw [List.mapIdx_cons]
    have hsh : (fun (i : Nat) (b : β) => (a + (o + (i + 1)), f (o + (i + 1)) b)) =
        fun i b => (a + (o + 1 + i), f (o + 1 + i) b) := by
      funext i b
      rw [show o + (i + 1) = o + 1 + i by omega]
    rw [hsh]
    refine (ih (o + 1) _).trans ?_
    by_cases hk : k = a + o
    · subst hk
      rw [dif_neg (by omega), dif_pos ⟨Nat.le_refl _, by rw [List.length_cons]; omega⟩]
      refine (Tab.get_set_same _ _ _ _).trans ?_
      simp
    · by_cases h : a + o ≤ k ∧ k < a + o + (l.length + 1)
      · rw [dif_pos (by omega), dif_pos (by simpa using h)]
        congr 1
        simp only [show k - (a + o) = k - (a + (o + 1)) + 1 by omega, List.getElem_cons_succ]
      · rw [dif_neg (by omega), dif_neg (by simpa using h)]
        exact Tab.get_set_other _ _ _ _ _ hk

theorem get_burn (n : Nat) (t : Tab Byte) {i : Nat} (hi : i < 16) :
    Tab.get 0 (burn n t) (0x60 + i) = Tab.get 0 t (0x60 + i) ||| BitVec.ofNat 8 (n / 256 ^ i) := by
  have h := get_setAll_mapIdx (d := (0 : Byte)) (fun i b => Tab.get 0 t (0x60 + i) ||| b) 0x60 (0x60 + i)
    (natToBytes 16 n) 0 t
  simp only [Nat.zero_add, Nat.add_zero] at h
  unfold burn
  rw [h, dif_pos ⟨Nat.le_add_right .., by rw [length_natToBytes]; omega⟩]
  have hget := getElem?_natToBytes 16 (x := n) hi
  simp only [Nat.add_sub_cancel_left]
  rw [List.getElem?_eq_getElem (by rw [length_natToBytes]; exact hi)] at hget
  rw [Option.some.inj hget]

theorem get_burn_other (n : Nat) (t : Tab Byte) {k : Nat} (hk : k < 0x60 ∨ 0x70 ≤ k) :
    Tab.get 0 (burn n t) k = Tab.get 0 t k := by
  refine get_setAll_none _ _ _ fun x hx => ?_
  obtain ⟨i, hi, rfl⟩ := List.mem_mapIdx.mp hx
  rw [length_natToBytes] at hi
  dsimp only
  omega

/-- The ARB bits of a burnt copy: those of the copy and of the number. -/
theorem bytesToNat_burn (n : Nat) (t : Tab Byte) :
    bytesToNat ((upto 16).map fun i => Tab.get 0 (burn n t) (0x60 + i)) =
      bytesToNat ((upto 16).map fun i => Tab.get 0 t (0x60 + i)) ||| n % 256 ^ 16 := by
  rw [← bytesToNat_natToBytes, ← bytesToNat_or _ _ (by rw [length_natToBytes, List.length_map]; rfl)]
  refine congrArg bytesToNat (List.ext_getElem? fun i => ?_)
  by_cases hi : i < 16
  · rw [List.getElem?_zipWith, getElem?_natToBytes 16 hi]
    simp only [upto, List.getElem?_map, List.getElem?_range hi, Option.map_some]
    rw [get_burn n t hi]
  · rw [List.getElem?_eq_none (by simp [upto]; omega), List.getElem?_eq_none (by simp [upto]; omega)]

theorem arbBlow_fuses (s : State) (v : Nat) :
    (s.arbBlow v).fuses = burn (bytesToNat (s.fuseBytes 0x60 16) ||| (2 ^ v - 2 ^ s.arbCount)) s.fuses := by
  generalize hn : bytesToNat (s.fuseBytes 0x60 16) ||| (2 ^ v - 2 ^ s.arbCount) = n
  have hk : (s.arbBlow v).keepers =
      { s.keepers with fuseW := s.keepers.fuseW.map (burn n), fuseE := s.keepers.fuseE.map (burn n) } := by
    rw [← hn]
    dsimp only [State.arbBlow, State.setSec, burn]
    rfl
  have hf : (s.arbBlow v).sec.fuse = burn n s.sec.fuse := by
    rw [← hn]
    dsimp only [State.arbBlow, State.setSec, burn]
  unfold State.fuses
  rw [hk, hf]
  dsimp only
  split
  · exact Option.getD_map _ _ _
  · exact Option.getD_map _ _ _

theorem fuseBytes_lt (s : State) : bytesToNat (s.fuseBytes 0x60 16) < 2 ^ s.arbCount := by
  unfold State.arbCount
  dsimp only
  split
  · next h =>
    rw [h]
    decide
  · exact Nat.lt_log2_self

/-- The ARB bits after a commit of `v`. -/
theorem arbBlow_bits {s : State} {v : Nat} (hc : s.arbCount < v) (hv : v ≤ 128) :
    bytesToNat ((s.arbBlow v).fuseBytes 0x60 16) =
      bytesToNat (s.fuseBytes 0x60 16) ||| (2 ^ v - 2 ^ s.arbCount) := by
  have hold := fuseBytes_lt s
  have hle : 2 ^ s.arbCount ≤ 2 ^ v := Nat.pow_le_pow_right (by decide) (Nat.le_of_lt hc)
  have hv' : 2 ^ v ≤ 256 ^ 16 := Nat.le_trans (Nat.pow_le_pow_right (by decide) hv) (by decide)
  have hpos : 0 < 2 ^ s.arbCount := Nat.two_pow_pos _
  have hor : bytesToNat (s.fuseBytes 0x60 16) ||| (2 ^ v - 2 ^ s.arbCount) < 2 ^ v :=
    Nat.or_lt_two_pow (by omega) (by omega)
  have h := bytesToNat_burn (bytesToNat (s.fuseBytes 0x60 16) ||| (2 ^ v - 2 ^ s.arbCount)) s.fuses
  rw [Nat.mod_eq_of_lt (by omega)] at h
  unfold State.fuseBytes at h ⊢
  rw [arbBlow_fuses]
  unfold State.fuseBytes
  rw [h, ← Nat.or_assoc, Nat.or_self]

theorem arbBlow_count {s : State} {v : Nat} (hc : s.arbCount < v) (hv : v ≤ 128) : (s.arbBlow v).arbCount = v := by
  have hold := fuseBytes_lt s
  have hle : 2 ^ s.arbCount * 2 ≤ 2 ^ v := by
    rw [← Nat.pow_succ]
    exact Nat.pow_le_pow_right (by decide) hc
  have hpos : 0 < 2 ^ s.arbCount := Nat.two_pow_pos _
  have hlt : bytesToNat (s.fuseBytes 0x60 16) ||| (2 ^ v - 2 ^ s.arbCount) < 2 ^ v :=
    Nat.or_lt_two_pow (by omega) (by omega)
  have hge : 2 ^ v - 2 ^ s.arbCount ≤ bytesToNat (s.fuseBytes 0x60 16) ||| (2 ^ v - 2 ^ s.arbCount) :=
    Nat.right_le_or
  obtain ⟨w, rfl⟩ : ∃ w, v = w + 1 := ⟨v - 1, by omega⟩
  rw [Nat.pow_succ] at hle hlt hge
  unfold State.arbCount
  rw [arbBlow_bits hc hv, Nat.pow_succ]
  dsimp only
  have hne : ¬ (bytesToNat (s.fuseBytes 0x60 16) ||| (2 ^ w * 2 - 2 ^ s.arbCount)) = 0 := by omega
  rw [if_neg hne]
  have hlog : (bytesToNat (s.fuseBytes 0x60 16) ||| (2 ^ w * 2 - 2 ^ s.arbCount)).log2 = w :=
    (Nat.log2_eq_iff hne).mpr ⟨by omega, by rw [Nat.pow_succ]; omega⟩
  rw [hlog]

section
variable {s : State} {src : DictSrc} {v : BitVec 8}

theorem arbCommit_eq (h : s.dictServed src = true) (hsrc : ∀ f, src ≠ .vf f) :
    execArbCommit src v s = .next (State.endPut (s.arbPut v) src 1) := by
  refine congrArg Host.Outcome.next ((if_neg (by rw [h]; decide)).trans ?_)
  cases src with
  | vf f => exact absurd rfl (hsrc f)
  | can => exact if_neg (by decide)
  | pf => exact if_neg (by decide)

theorem endPut_answered {t : State} {x : Nat × State} {n : Nat} (h : src = .can → x.2.canTalk = true) (hx : x =
    (0, t)) :
    Answered src 0 n n [] t (State.endPut x src n) := by
  subst hx
  exact dictEnd_answered h ..

theorem endPut_refused {t : State} {c : Nat} {x : Nat × State} {n : Nat} (h : src = .can → x.2.canTalk = true)
    (hx : x = (c, t)) (hc : c ≠ 0) : Answered src c 0 0 [] t (State.endPut x src n) := by
  subst hx
  have he : State.endPut (c, t) src n = t.dictAbort src c := if_neg hc
  rw [he]
  exact dictEnd_answered h ..

theorem arbPut_old (h : v.toNat ≤ s.arbCount) : s.arbPut v = (0, s.noteWrite 0x4800 4 [v]) := if_pos h

theorem arbRefused_iff : s.arbRefused v.toNat = true ↔ (128 < v.toNat ∨ s.sec.imageA.status ≠ 0 ∨
    s.sec.imageB.status ≠ 0 ∨ s.sec.imageA.svn < v.toNat ∨ s.sec.imageB.svn < v.toNat) := by
  unfold State.arbRefused Flash.open_ Flash.valid
  simp only [Bool.or_eq_true, Bool.not_eq_true', decide_eq_true_eq, decide_eq_false_iff_not]
  constructor
  · rintro ((((((h | h) | h) | h) | h) | h) | h)
    · exact Or.inl h
    · exact Or.inr (Or.inl (by rw [h]; decide))
    · exact Or.inr (Or.inr (Or.inl (by rw [h]; decide)))
    · exact Or.inr (Or.inl h)
    · exact Or.inr (Or.inr (Or.inl h))
    · exact Or.inr (Or.inr (Or.inr (Or.inl h)))
    · exact Or.inr (Or.inr (Or.inr (Or.inr h)))
  · rintro (h | h | h | h | h)
    · exact Or.inl (Or.inl (Or.inl (Or.inl (Or.inl (Or.inl h)))))
    · exact Or.inl (Or.inl (Or.inl (Or.inr h)))
    · exact Or.inl (Or.inl (Or.inr h))
    · exact Or.inl (Or.inr h)
    · exact Or.inr h

theorem arbPut_refused (h : s.arbCount < v.toNat) (hr : s.arbRefused v.toNat = true) :
    s.arbPut v = (0x08000020, { s with sec := { s.sec with arbRej := true } }) :=
  (if_neg (Nat.not_le.mpr h)).trans (if_pos hr)

theorem arbPut_blown (h : s.arbCount < v.toNat) (hr : s.arbRefused v.toNat = false) :
    s.arbPut v = (0, (s.noteWrite 0x4800 4 [v]).arbBlow v.toNat) :=
  (if_neg (Nat.not_le.mpr h)).trans (if_neg (by rw [hr]; decide))

theorem arbBlow_sec (s : State) (n : Nat) :
    ∃ x w e, s.arbBlow n = { s with
      sec := { s.sec with fuse := x }, keepers := { s.keepers with fuseW := w, fuseE := e } } := by
  dsimp only [State.arbBlow, State.setSec]
  exact ⟨_, _, _, rfl⟩

theorem arbBlow_secFuse (s : State) (n : Nat) : (s.arbBlow n).sec.fuse =
    burn (bytesToNat (s.fuseBytes 0x60 16) ||| (2 ^ n - 2 ^ s.arbCount)) s.sec.fuse := by
  dsimp only [State.arbBlow, State.setSec, burn]

theorem arbPut_canTalk (s : State) (v : BitVec 8) : (s.arbPut v).2.canTalk = s.canTalk := by
  by_cases h : v.toNat ≤ s.arbCount
  · rw [arbPut_old h]
    rfl
  · cases hr : s.arbRefused v.toNat with
    | true =>
      rw [arbPut_refused (Nat.not_le.mp h) hr]
      rfl
    | false =>
      obtain ⟨x, w, e, heq⟩ := arbBlow_sec (s.noteWrite 0x4800 4 [v]) v.toNat
      rw [arbPut_blown (Nat.not_le.mp h) hr, heq]
      rfl

end

/-! ### Attestation -/

theorem State.mbox_setBox_same (s : State) (m : Nat) (x : Mailbox) : (s.setBox m x).mbox m = x :=
  Tab.get_set_same _ _ _ _

theorem State.mbox_setBox_other (s : State) {m j : Nat} (x : Mailbox) (h : j ≠ m) : (s.setBox m x).mbox j = s.mbox j :=
  Tab.get_set_other _ _ _ _ _ h

theorem attRequest_canTalk (s : State) (m : Nat) : (s.attRequest m).canTalk = s.canTalk := by
  unfold State.attRequest
  dsimp only
  split
  · rfl
  · rfl

theorem draw256_rest (s : State) : s.draw256.2 = { s with fresh := s.fresh + 4 } := rfl

/-- A captured report that no earlier mailbox delays is signed. -/
theorem signed_spec {s : State} {m : BitVec 7} (hcap : (s.mbox m.toNat).cap ≠ [])
    (hfirst : ∀ x ∈ s.sec.boxes, x.1 < m.toNat → x.2.cap = []) :
    ∃ t r, execAttestationSigned m s = .next t ∧
      t = { s with fresh := t.fresh, sec := { s.sec with boxes := t.sec.boxes } } ∧
      (∀ j, j ≠ m.toNat → t.mbox j = s.mbox j) ∧
      t.mbox m.toNat = { s.mbox m.toNat with status := 2, report := (s.mbox m.toNat).cap ++ r, cap := [] } := by
  have hgo : ¬ ((s.mbox m.toNat).cap = [] ∨
      s.sec.boxes.any (fun (x : Nat × Mailbox) => decide (x.1 < m.toNat) && decide (x.2.cap ≠ [])) = true) := by
    rintro (h | h)
    · exact hcap h
    · obtain ⟨x, hx, hlt⟩ := List.any_eq_true.mp h
      rw [Bool.and_eq_true, decide_eq_true_eq, decide_eq_true_eq] at hlt
      exact hlt.2 (hfirst x hx hlt.1)
  refine ⟨s.draw256.2.setBox m.toNat { s.mbox m.toNat with
      status := 2
      report := (s.mbox m.toNat).cap ++
        sm2Sign s.draw256.2.idKey (s.draw256.1 % (sm2N - 1) + 1) (s.mbox m.toNat).cap
      cap := [] }, _, congrArg Host.Outcome.next (if_neg hgo), rfl,
    fun j hj => State.mbox_setBox_other _ _ hj, State.mbox_setBox_same ..⟩

theorem attGo_eq {s : State} {src : DictSrc} (h : s.dictServed src = true) :
    execAttGo (BitVec.ofNat 7 (boxOf src)) src s = .next ((s.attRequest (boxOf src)).dictOk src 1) := by
  have hbox : boxOf src ≤ 64 := by
    cases src with
    | can => exact Nat.zero_le _
    | pf => exact Nat.le_of_ble_eq_true rfl
    | vf f =>
      have hf : f.toNat < 64 := f.isLt
      show 1 + f.toNat ≤ 64
      omega
  have hm : (BitVec.ofNat 7 (boxOf src)).toNat = boxOf src := by
    rw [BitVec.toNat_ofNat]
    exact Nat.mod_eq_of_lt (Nat.lt_of_le_of_lt hbox (by decide))
  unfold execAttGo
  rw [hm]
  exact congrArg Host.Outcome.next ((if_neg (by rw [h]; decide)).trans ((if_neg (Nat.not_lt.mpr hbox)).trans
    (if_neg fun hne => hne rfl)))

/-! ### Authenticated debug -/

theorem debugAdmits_iff {s : State} {c : BitVec 12} : s.debugAdmits c = true ↔
    s.sec.dbgOpen = true ∧ s.sec.scope.getLsbD 0 = true ∧
      (s.sec.scope.getLsbD 2 = true ∨ ∃ i p, s.planOf c = some (i, p) ∧ p.ctx = s.sec.scope.extractLsb' 16 12) := by
  unfold State.debugAdmits
  rw [Bool.and_eq_true, Bool.and_eq_true, Bool.or_eq_true, and_assoc]
  refine and_congr_right fun _ => and_congr_right fun _ => or_congr_right ?_
  cases hp : s.planOf c with
  | none => exact ⟨fun h => (by cases h), fun ⟨i, p, h, _⟩ => (by cases h)⟩
  | some y => exact ⟨fun h => ⟨y.1, y.2, rfl, of_decide_eq_true h⟩, fun ⟨i, p, h,
      hc⟩ => (by cases h; exact decide_eq_true hc)⟩

theorem verifyReason_of_fails {s : State} (h : 8 ≤ s.sec.fails.toNat) : s.verifyReason ≠ 0 ∧ s.verifyReason ≠ 4 := by
  unfold State.verifyReason
  dsimp only
  split
  · decide
  · split
    · decide
    · decide

/-- What a write through the test access port makes of the state. -/
def State.testPort (s : State) (c : BitVec 12) (v : Word) : TestTarget → State
  | .pc => s.modCarrel c fun k => { k with pc := v &&& ~~~ 1#64 }
  | .creg n => s.modCarrel c fun k => k.setCreg n.toNat v
  | .data i => s.modCarrel c fun k =>
      k.setBank k.dataBank { k.bank k.dataBank with dres := listSet (k.bank k.dataBank).dres i.toNat v }
  | .ret i => s.modCarrel c fun k =>
      k.setBank k.retBank { k.bank k.retBank with rres := listSet (k.bank k.retBank).rres i.toNat v }
  | .vl => s.modCarrel c fun k => { k with vl := v.extractLsb' 0 11 }
  | .halt =>
    let t := s.modCarrel c fun k => { k with halted := true, wd := { k.wd with run := false } }
    match t.planOf c with
    | some (i, _) => t.modPlan i fun p => { p with late := true }
    | none => t

section
variable {s : State} {c : BitVec 12} {x : TestTarget} {v : Word}

theorem testPort_admitted (h : s.debugAdmits c = true) : execTestPortWrite c x v s = .next (s.testPort c v x) := by
  refine congrArg Host.Outcome.next ((if_pos h).trans ?_)
  cases x <;> rfl

theorem testPort_dres (i : BitVec 3) :
    ((s.testPort c v (.data i)).dataOf c).dres = (s.dataOf c).dres.set i.toNat v := by
  unfold State.testPort State.dataOf
  dsimp only
  rw [State.carrel_modCarrel_same, Carrel.setBank_dataBank, Carrel.bank_setBank_same, getD_listSet]

theorem testPort_rres (i : BitVec 4) :
    ((s.testPort c v (.ret i)).retOf c).rres = (s.retOf c).rres.set i.toNat v := by
  unfold State.testPort State.retOf
  dsimp only
  rw [State.carrel_modCarrel_same, Carrel.setBank_retBank, Carrel.bank_setBank_same, getD_listSet]

end

theorem testPort_halts (s : State) (c : BitVec 12) {v : Word} :
    let t := s.testPort c v .halt
    (t.carrel c).halted = true ∧ (t.carrel c).wd.run = false ∧ ∀ d, d ≠ c → t.carrel d = s.carrel d := by
  intro t
  have hcar (d : BitVec 12) :
      t.carrel d = (s.modCarrel c fun k => { k with halted := true, wd := { k.wd with run := false } }).carrel d := by
    unfold t State.testPort
    dsimp only
    split <;> rfl
  refine ⟨?_, ?_, fun d hd => ?_⟩
  · rw [hcar, State.carrel_modCarrel_same]
  · rw [hcar, State.carrel_modCarrel_same]
  · rw [hcar, State.carrel_modCarrel_other _ _ hd]

end Sys2Proof.Machine

namespace Sys2Proof
open Machine

/-- Settles O50: a commit to the anti-rollback bits, the mailboxes, the challenge and the test access port. -/
theorem security : Obligations.Security := by
  unfold Obligations.Security
  refine ⟨fun src v s hserved hsrc => ?_, fun src s hsrc => ?_⟩
  · intro noted old
    have htalk (h : src = .can) : (s.arbPut v).2.canTalk = true :=
      (arbPut_canTalk s v).trans (State.canTalk_of_served hserved h)
    refine ⟨fun hle => ?_, fun hlt => ⟨?_, fun hr => ?_⟩, ?_, fun m hcap hfirst => ?_⟩
    · exact ⟨_, arbCommit_eq hserved hsrc, endPut_answered htalk (arbPut_old hle)⟩
    · rintro ⟨h128, hA, hB, hsA, hsB⟩
      have hno : s.arbRefused v.toNat = false := by
        rw [Bool.eq_false_iff]
        intro h
        rcases arbRefused_iff.mp h with h | h | h | h | h
        · omega
        · exact h hA
        · exact h hB
        · omega
        · omega
      have hput := arbPut_blown hlt hno
      obtain ⟨x, w, e, heq⟩ := arbBlow_sec noted v.toNat
      refine ⟨noted.arbBlow v.toNat, _, arbCommit_eq hserved hsrc, endPut_answered htalk hput,
        by rw [heq], arbBlow_count (s := noted) hlt h128, fun i hi => ?_, fun k hk => ?_⟩
      · rw [arbBlow_bits (s := noted) hlt h128, Nat.testBit_or]
        exact Bool.or_eq_true_iff.mpr (Or.inl hi)
      · rw [arbBlow_secFuse, get_burn_other _ _ hk]
    · have hput := arbPut_refused hlt (arbRefused_iff.mpr hr)
      exact ⟨_, arbCommit_eq hserved hsrc, endPut_refused htalk hput (by decide)⟩
    · intro m b
      have htalk' : src = .can → (s.attRequest m).canTalk = true := by
        rw [attRequest_canTalk]
        exact State.canTalk_of_served hserved
      refine ⟨s.attRequest m, _, attGo_eq hserved, dictEnd_answered htalk' .., fun h1 => if_pos h1, fun h1 => ?_⟩
      have he : s.attRequest m = s.setBox m { b with go := 1, status := 1, asked := true, cap := [] } := if_neg h1
      rw [he]
      exact ⟨rfl, fun j hj => State.mbox_setBox_other s _ hj, State.mbox_setBox_same ..⟩
    · exact signed_spec hcap hfirst
  · intro reason may
    have hvf : ¬ isVf src = true := by rw [isVf_eq_false hsrc]; decide
    have hadmits (c : BitVec 12) : s.debugAdmits c = true ↔ may c := debugAdmits_iff
    refine ⟨?_, ?_, fun h => if_pos h, fun h => ?_, ?_, fun c => ⟨rfl, fun h => ?_, fun h => ?_⟩⟩
    · exact ⟨_, length_natToBytes 32 _, congrArg Host.Outcome.next (if_neg hvf)⟩
    · exact congrArg Host.Outcome.next (if_neg hvf)
    · exact verifyReason_of_fails h
    · exact congrArg Host.Outcome.next (if_neg hvf)
    · have ha := (hadmits c).mpr h
      have hport (x : TestTarget) (v : Word) := testPort_admitted (x := x) (v := v) ha
      refine ⟨congrArg Host.Outcome.next (if_pos ha), fun v => ⟨hport .pc v, hport .vl v, fun n => hport (.creg n) v,
        fun i hi => ?_, fun i hi => ?_, ?_⟩⟩
      · refine ⟨_, hport (.data i) v, rfl, ?_⟩
        rw [testPort_dres]
        exact ⟨List.getElem?_set_self hi, fun j hj => List.getElem?_set_ne hj.symm⟩
      · refine ⟨_, hport (.ret i) v, rfl, ?_⟩
        rw [testPort_rres]
        exact ⟨List.getElem?_set_self hi, fun j hj => List.getElem?_set_ne hj.symm⟩
      · exact ⟨_, hport .halt v, testPort_halts s c⟩
    · have ha : ¬ s.debugAdmits c = true := fun ha => h ((hadmits c).mp ha)
      exact ⟨congrArg Host.Outcome.next (if_neg ha), fun x v => congrArg Host.Outcome.next (if_neg ha)⟩

end Sys2Proof
end

section
/-!
# A failing carrel whose last adds saturate
-/
namespace Sys2Proof.Machine

/-- An FX64 add of the largest code to the first word of carrel 0's shelf. -/
def fullAdd : VecAcc :=
  { elem := 0, va := 0, pa := shelfBase 0, n := 8, part := 0, bytes := natToBytes 8 (2 ^ 63 - 1) }

/-- Carrel 0 waits for the acknowledgements of a VSCTA whose second add saturates; its plan runs for context 5, and
its die has no spare bay left. -/
def failingState : State :=
  { State.reset with
    carrels := [(0, { Carrel.reset with
      plan := some 0
      wait := .vecAck 6 { ew := 3, m := false, iw := false, sc := 0, at_ := 4 } [fullAdd, fullAdd] })]
    plans := [(0, { Plan.blank with state := .running, ctx := 5 })]
    map := { State.reset.map with badBays := [128, 129, 130, 131] } }

theorem failingState_noSpare : failingState.pickSpare 0 = none := by decide

theorem failingState_noRedirect (j : Nat) : (failingState.redirectAt j).getLsbD 31 = false := by
  have h : failingState.redirectAt j = 0 := rfl
  rw [h]
  decide

/-- The record of the saturated add takes number 0, so that of the failure has number 1. -/
theorem failingState_haltDue : (failingState.carrelFails 0 1).tick.haltDue = [(5, 4, some 1)] := by decide

end Sys2Proof.Machine

namespace Sys2Proof
open Machine

/-- Refutes O51: a carrel that fails while a VSCTA of it waits for acknowledgements completes the adds in its own
shelf first (R184, R449). One that saturates makes a record of its own (R179), so the record of the failure, which the
halt of the context refers to, is not the next of the ring. -/
theorem not_failuresAndKeepers : ¬ Obligations.FailuresAndKeepers := by
  unfold Obligations.FailuresAndKeepers
  intro h
  obtain ⟨-, hnoSpare, -⟩ := h failingState
  obtain ⟨t, hex, -, -, hdue⟩ := hnoSpare 0 1 0 { Plan.blank with state := .running, ctx := 5 } rfl
    failingState_noSpare rfl rfl failingState_noRedirect
  cases Host.Outcome.next.inj hex
  have hnum := failingState_haltDue.symm.trans hdue
  exact absurd hnum (by decide)

end Sys2Proof
end

section
/-!
# The error ring, the census and its controls
-/
namespace Sys2Proof.Machine

/-! ### Messages -/

/-- Messages sent and queued: nothing but the EMCY queue, the events of contexts and what has been sent differs. -/
def Noted (s t : State) : Prop :=
  ∃ ctxs errReg emcy inhibit l, t = { s with
    host := { s.host with ctxs := ctxs }, sent := l ++ s.sent
    dict := { s.dict with errReg := errReg, emcy := emcy, inhibit := inhibit } }

namespace Noted

theorem refl (s : State) : Noted s s := ⟨_, _, _, _, [], rfl⟩

theorem trans {s t u : State} (h : Noted s t) (g : Noted t u) : Noted s u := by
  obtain ⟨_, _, _, _, l, rfl⟩ := h
  obtain ⟨c, e, q, i, m, rfl⟩ := g
  exact ⟨c, e, q, i, m ++ l, congrArg (fun x => { s with
    host := { s.host with ctxs := c }, sent := x
    dict := { s.dict with errReg := e, emcy := q, inhibit := i } }) (List.append_assoc ..).symm⟩

theorem setEmcy (s : State) (e : BitVec 8) (q : List (BitVec 16 × Nat × Option Nat)) (i : Bool) :
    Noted s { s with dict := { s.dict with errReg := e, emcy := q, inhibit := i } } := ⟨_, _, _, _, [], rfl⟩

theorem send (s : State) (x : Sent) : Noted s (s.send x) := ⟨_, _, _, _, [x], rfl⟩

theorem emcyNext (s : State) : Noted s s.emcyNext := by
  unfold State.emcyNext
  split
  · exact setEmcy s _ _ _
  · exact (setEmcy s _ _ _).trans (send _ _)

theorem emcy (s : State) (code : BitVec 16) (b n : Option Nat) : Noted s (s.emcy code b n) := by
  have htail (s : State) : Noted s (if s.canTalk then
      let s := { s with dict := { s.dict with emcy := s.dict.emcy ++ [(code, b.getD 8, n)] } }
      if s.dict.inhibit then s else s.emcyNext
    else s) := by
    split
    · dsimp only
      split
      · exact setEmcy s _ _ _
      · exact (setEmcy s _ _ _).trans (emcyNext _)
    · exact refl s
  unfold State.emcy
  cases b with
  | none => exact htail s
  | some b => exact (setEmcy s _ _ _).trans (htail _)

theorem recordEmcy (s : State) (code : BitVec 16) (n : Nat) : Noted s (s.recordEmcy code n) := by
  unfold State.recordEmcy
  split
  · exact emcy ..
  · split
    · exact emcy ..
    · split
      · exact emcy ..
      · exact refl s

theorem sendMsix (s : State) (f : BitVec 6) (v : BitVec 16) : Noted s (s.sendMsix f v) := by
  unfold State.sendMsix
  split
  · exact send _ _
  · exact refl s

theorem raiseCtx (s : State) (c : Nat) : Noted s (s.raiseCtx c) := by
  have h : Noted s (s.modHctx c fun h => { h with event := true }) := ⟨_, _, _, _, [], rfl⟩
  exact h.trans (sendMsix _ _ _)

variable {s t : State}

theorem byte (h : Noted s t) (a : Nat) : t.byte a = s.byte a := by
  obtain ⟨_, _, _, _, _, rfl⟩ := h
  rfl

theorem rest (h : Noted s t) : t.mem = s.mem ∧ t.census = s.census ∧ t.carrels = s.carrels ∧ t.tick = s.tick := by
  obtain ⟨_, _, _, _, _, rfl⟩ := h
  exact ⟨rfl, rfl, rfl, rfl⟩

theorem sent (h : Noted s t) {x : Sent} (hx : x ∈ s.sent) : x ∈ t.sent := by
  obtain ⟨_, _, _, _, _, rfl⟩ := h
  exact List.mem_append_right _ hx

end Noted

/-! ### Reports -/

theorem length_reportBytes (r : Report) (q n : Word) : (reportBytes r q n).length = 64 := by
  simp [reportBytes]

theorem ringLose_noted (s : State) :
    Noted (s.setRing { s.census.ring with lost := satInc s.census.ring.lost }) s.ringLose := by
  unfold State.ringLose
  exact Noted.emcy ..

/-- The state with a record written at the head of the ring. -/
def State.recordAt (s : State) (h : HeldReport) (rep : Report) : State :=
  (s.store s.census.ring.slotAddr (reportBytes rep s.census.ring.head h.tick)).setRing
    { s.census.ring with
      head := s.census.ring.head + 1, seqs := Tab.set none s.census.ring.seqs h.num (some s.census.ring.head) }

/-- A record of a ring with room: it is written at the head, with a message to the physical function. -/
theorem ringWrite_noted {s : State} {h : HeldReport} (hfull : s.census.ring.full = false)
    (hend : s.census.ring.slotAddr + 64 ≤ s.hbmEnd) (href : h.ref = none) :
    Noted ((s.recordAt h h.rep).sendMsix 0 0) (s.ringWrite h) := by
  have hno : ¬ (s.census.ring.full = true ∨ s.hbmEnd < s.census.ring.slotAddr + 64) := by
    rw [hfull]
    rintro (h | h)
    · cases h
    · omega
  unfold State.ringWrite
  extract_lets r a hrep rep s1 s2 s3
  rw [if_neg hno]
  have hrep' : rep = h.rep := by
    unfold rep
    rw [href]
  have hs3 : s3 = (s.recordAt h h.rep).sendMsix 0 0 := by
    unfold s3 s2 s1
    rw [hrep']
    rfl
  rw [← hs3]
  split
  · exact Noted.raiseCtx _ _
  · exact Noted.refl _

theorem ringWrite_full {s : State} {h : HeldReport} (hfull : s.census.ring.full = true) :
    s.ringWrite h = s.ringLose := if_pos (Or.inl hfull)

theorem State.byte_setRing (s : State) (r : Ring) (a : Nat) : (s.setRing r).byte a = s.byte a := rfl

theorem State.setRing_rest (s : State) (r : Ring) :
    (s.setRing r).carrels = s.carrels ∧ (s.setRing r).tick = s.tick ∧ (s.setRing r).host = s.host := ⟨rfl, rfl, rfl⟩

theorem recordAt_byte (s : State) (h : HeldReport) (rep : Report) (a : Nat) :
    (s.recordAt h rep).byte a = if s.census.ring.slotAddr ≤ a ∧ a < s.census.ring.slotAddr + 64 then
      (reportBytes rep s.census.ring.head h.tick).getD (a - s.census.ring.slotAddr) 0 else s.byte a := by
  unfold State.recordAt
  rw [State.byte_setRing, State.store_byte, State.byte_setBytes, length_reportBytes]

theorem recordAt_rest (s : State) (h : HeldReport) (rep : Report) :
    (s.recordAt h rep).carrels = s.carrels ∧ (s.recordAt h rep).tick = s.tick ∧
      (s.recordAt h rep).host = s.host := by
  have hw := State.store_wrote s s.census.ring.slotAddr (reportBytes rep s.census.ring.head h.tick)
  unfold State.recordAt
  generalize s.store s.census.ring.slotAddr (reportBytes rep s.census.ring.head h.tick) = u at hw ⊢
  obtain ⟨hc, ht, hh⟩ := State.setRing_rest u { s.census.ring with
    head := s.census.ring.head + 1, seqs := Tab.set none s.census.ring.seqs h.num (some s.census.ring.head) }
  rw [hc, ht, hh, hw.rest]
  exact ⟨rfl, rfl, rfl⟩

/-- The ring with a report numbered. -/
def State.numbered (s : State) : State := s.setRing { s.census.ring with num := s.census.ring.num + 1 }

/-- A report to a ring that is on and has room. -/
theorem report_written {s : State} {r : Report} (hen : s.census.ring.en = true) (hfull : s.census.ring.full = false)
    (hend : s.census.ring.slotAddr + 64 ≤ s.hbmEnd) :
    let h : HeldReport := { rep := r, tick := s.tick.no, num := s.census.ring.num, ref := none }
    Noted ((s.numbered.recordAt h r).sendMsix 0 0) (s.report r) := by
  intro h
  have hw : Noted ((s.numbered.recordAt h r).sendMsix 0 0) (s.numbered.ringWrite h) :=
    ringWrite_noted (s := s.numbered) hfull hend rfl
  have hhead : ¬ (s.numbered.ringWrite h).census.ring.head = s.census.ring.head := by
    obtain ⟨-, hc, -⟩ := ((Noted.sendMsix (s.numbered.recordAt h r) 0 0).trans hw).rest
    rw [hc]
    show ¬ s.census.ring.head + 1 = s.census.ring.head
    intro he
    have := congrArg BitVec.toNat he
    bv_omega
  have he : s.report r = (s.numbered.ringWrite h).recordEmcy r.code s.census.ring.num := by
    unfold State.report
    exact (if_pos hen).trans (if_neg hhead)
  rw [he]
  exact hw.trans (Noted.recordEmcy _ _ _)

/-- A report to a full ring is lost. -/
theorem report_lost {s : State} {r : Report} (hen : s.census.ring.en = true) (hfull : s.census.ring.full = true) :
    Noted (s.setRing { s.census.ring with lost := satInc s.census.ring.lost, num := s.census.ring.num + 1 })
      (s.report r) := by
  have hw : s.numbered.ringWrite { rep := r, tick := s.tick.no, num := s.census.ring.num, ref := none } =
      s.numbered.ringLose := ringWrite_full (s := s.numbered) hfull
  have hl : Noted (s.setRing { s.census.ring with lost := satInc s.census.ring.lost, num := s.census.ring.num + 1 })
      s.numbered.ringLose := ringLose_noted s.numbered
  have he : s.report r = s.numbered.ringLose := by
    unfold State.report
    refine (if_pos hen).trans ((if_pos ?_).trans hw)
    refine (congrArg (fun t : State => t.census.ring.head) hw).trans ?_
    obtain ⟨-, hc, -⟩ := hl.rest
    exact (congrArg (fun c : Census => c.ring.head) hc).trans rfl
  rw [he]
  exact hl

/-- A report while the ring is off is held. -/
theorem report_held {s : State} {r : Report} (hen : s.census.ring.en = false) (hlen : s.census.ring.held.length < 64) :
    Noted (s.setRing { s.census.ring with
        num := s.census.ring.num + 1
        held := s.census.ring.held ++ [{ rep := r, tick := s.tick.no, num := s.census.ring.num, ref := none }] })
      (s.report r) := by
  have hno : ¬ 64 < (s.census.ring.held ++
      [{ rep := r, tick := s.tick.no, num := s.census.ring.num, ref := none : HeldReport }]).length := by
    rw [List.length_append]
    exact Nat.not_lt.mpr hlen
  unfold State.report
  dsimp only
  rw [if_neg (by rw [hen]; decide)]
  refine Noted.trans (t := _) ?_ (Noted.recordEmcy _ _ _)
  refine Eq.subst (motive := Noted _) (if_neg hno).symm (Noted.refl _)

theorem ring_recordAt (s : State) (h : HeldReport) (rep : Report) :
    (s.recordAt h rep).census.ring = { s.census.ring with
      head := s.census.ring.head + 1
      seqs := Tab.set none s.census.ring.seqs h.num (some s.census.ring.head) } := rfl

theorem Ring.full_iff (g : Ring) : g.full = true ↔ (g.head - g.tail).toNat = g.entries := decide_eq_true_iff

/-- What a report to a ring with room changes. -/
theorem report_written_spec {s : State} {r : Report} (hen : s.census.ring.en = true)
    (hfull : (s.census.ring.head - s.census.ring.tail).toNat ≠ s.census.ring.entries)
    (hend : s.census.ring.slotAddr + 64 ≤ s.hbmEnd) :
    let t := s.report r
    let g := s.census.ring
    (∀ j, j < 64 → t.byte (g.slotAddr + j) = (reportBytes r g.head s.tick.no).getD j 0) ∧
      (∀ a, (a < g.slotAddr ∨ g.slotAddr + 64 ≤ a) → t.byte a = s.byte a) ∧
      t.census.ring = { g with head := g.head + 1, num := g.num + 1, seqs := t.census.ring.seqs } ∧
      Tab.get none t.census.ring.seqs g.num = some g.head ∧
      (s.host.dlUp = true → .msix 0 0 ∈ t.sent) ∧ t.carrels = s.carrels ∧ t.tick = s.tick := by
  have hnfull : s.census.ring.full = false := by
    rw [Bool.eq_false_iff]
    exact fun h => hfull ((Ring.full_iff _).mp h)
  have hn := report_written (r := r) hen hnfull hend
  obtain ⟨h, hh⟩ : ∃ h : HeldReport,
      h = { rep := r, tick := s.tick.no, num := s.census.ring.num, ref := none } := ⟨_, rfl⟩
  dsimp only at hn ⊢
  rw [← hh] at hn
  generalize hu : s.numbered.recordAt h r = u at hn
  have htot := (Noted.sendMsix u 0 0).trans hn
  obtain ⟨-, hc, hk, ht⟩ := htot.rest
  have hbyte (a : Nat) : (s.report r).byte a = if s.census.ring.slotAddr ≤ a ∧ a < s.census.ring.slotAddr + 64 then
      (reportBytes r s.census.ring.head s.tick.no).getD (a - s.census.ring.slotAddr) 0 else s.byte a := by
    rw [htot.byte, ← hu]
    refine (recordAt_byte s.numbered h r a).trans ?_
    rw [hh]
    rfl
  have hring : u.census.ring = { s.census.ring with
      head := s.census.ring.head + 1, num := s.census.ring.num + 1
      seqs := Tab.set none s.census.ring.seqs s.census.ring.num (some s.census.ring.head) } := by
    rw [← hu, ring_recordAt, hh]
    rfl
  obtain ⟨huk, hut, huh⟩ : u.carrels = s.carrels ∧ u.tick = s.tick ∧ u.host = s.host := by
    rw [← hu]
    exact recordAt_rest s.numbered h r
  refine ⟨fun j hj => ?_, fun a ha => ?_, ?_, ?_, fun hup => hn.sent ?_, hk.trans huk, ht.trans hut⟩
  · rw [hbyte, if_pos (by omega), Nat.add_sub_cancel_left]
  · rw [hbyte, if_neg (by omega)]
  · rw [hc, hring]
  · rw [hc, hring]
    show Tab.get none (Tab.set none s.census.ring.seqs s.census.ring.num (some s.census.ring.head))
      s.census.ring.num = _
    exact Tab.get_set_same _ _ _ _
  · have hsend : u.sendMsix 0 0 = u.send (.msix 0 0) := if_pos ((congrArg HostUnit.dlUp huh).trans hup)
    rw [hsend]
    exact List.mem_cons_self

section
variable {s : State} {v : Word}

theorem ringCtl_on (hv : v.getLsbD 0 = true) (hen : s.census.ring.en = false) (hheld : s.census.ring.held = []) :
    s.ringCtl v = s.setRing { s.census.ring with log2 := v.extractLsb' 1 5, en := true } := by
  unfold State.ringCtl
  dsimp only
  rw [if_pos hv, hen, if_neg (by decide), if_neg (by decide)]
  unfold State.ringEnable
  dsimp only [State.setRing]
  rw [hheld]
  rfl

theorem ringCtl_off (hv : v.getLsbD 0 = false) (hen : s.census.ring.en = true) :
    s.ringCtl v = s.setRing { s.census.ring with en := false } := by
  unfold State.ringCtl
  dsimp only
  rw [if_neg (by rw [hv]; decide), if_pos hen]

theorem ringCtl_stays (hv : v.getLsbD 0 = true) (hen : s.census.ring.en = true) : s.ringCtl v = s := by
  unfold State.ringCtl
  dsimp only
  rw [if_pos hv, if_pos hen, if_pos hen]

end

/-! ### The census -/

section
variable {s : State} {b : Word}

theorem censusNow_due (h : s.chain.live.master = true) (hb : s.tick.no + 2 ∈ s.census.due) :
    s.censusNow = { s with census := { s.census with now := some (s.tick.no + 2) } } := by
  have hs : ¬ s.slave = true := by
    unfold State.slave
    rw [h]
    decide
  exact (if_neg hs).trans (if_pos (List.contains_iff_mem.mpr hb))

theorem censusNow_announces (h : s.chain.live.master = true) (hd : s.downLinks =
    []) (hb : s.tick.no + 2 ∉ s.census.due) :
    s.censusNow = { s with census := { s.census with
      now := some (s.tick.no + 2), due := s.census.due ++ [s.tick.no + 2], next := s.tick.no + 2 } } := by
  have hs : ¬ s.slave = true := by
    unfold State.slave
    rw [h]
    decide
  have hdown : State.downLinks { s with census := { s.census with now := some (s.tick.no + 2) } } = [] := hd
  refine (if_neg hs).trans ((if_neg fun hc => hb (List.contains_iff_mem.mp hc)).trans ?_)
  rw [hdown]
  rfl

theorem tpdoSend_sent (s v : State) (k type : Nat) : ∃ l, s.tpdoSend v k type = { s with sent := l } := by
  unfold State.tpdoSend
  dsimp only
  split
  · exact ⟨_, rfl⟩
  · exact ⟨s.sent, rfl⟩

theorem tpdos_sent (s v : State) :
    let t := (upto 4).foldl (fun s k => s.tpdoSend v k 0xFE) s
    t = { s with sent := t.sent } := by
  refine List.foldlRecOn (motive := fun t : State => t = { s with sent := t.sent }) _ _ rfl fun t ht k _ => ?_
  obtain ⟨m, hm⟩ := tpdoSend_sent t v k 0xFE
  rw [hm]
  exact congrArg (fun u : State => { u with sent := m }) ht

/-- The bank written last shows that its copy is complete. -/
def Census.copied (c : Census) (b : Bank2) : Census :=
  { c with
    snap := b.tag
    bankA := if c.newest then c.bankA else some { b with done := true }
    bankB := if c.newest then some { b with done := true } else c.bankB }

theorem censusCopyDone_eq {s : State} {b : Bank2}
    (h : (if s.census.newest then s.census.bankB else s.census.bankA) = some b) (hdone : b.done = false) :
    ∃ v, execCensusCopyDone s =
      .next ((upto 4).foldl (fun s k => s.tpdoSend v k 0xFE) { s with census := s.census.copied b }) := by
  have hnot : ¬ b.done = true := by rw [hdone]; decide
  unfold execCensusCopyDone Census.copied
  dsimp only
  rw [h]
  dsimp only
  rw [if_neg hnot]
  cases hn : s.census.newest with
  | true =>
    rw [hn, if_pos rfl] at h
    rw [h]
    exact ⟨_, rfl⟩
  | false =>
    rw [hn, if_neg (by decide)] at h
    rw [h]
    exact ⟨_, rfl⟩

end

/-! ### Gauge sets and rates -/

theorem State.trainCtx_modTrain_same (s : State) (c : Nat) (f : TrainCtx → TrainCtx) :
    (s.modTrain c f).trainCtx c = f (s.trainCtx c) := Tab.get_set_same _ _ _ _

theorem State.trainCtx_modTrain_other (s : State) {c d : Nat} (f : TrainCtx → TrainCtx) (h : d ≠ c) :
    (s.modTrain c f).trainCtx d = s.trainCtx d := Tab.get_set_other _ _ _ _ _ h

/-- Whether the gauge sets that a write of CEN_GAUGE_ALLOT names are free for the context. -/
def State.setsFree (s : State) (ctx base count : Nat) : Prop :=
  base + count ≤ 4096 ∧ s.hasResident ctx = false ∧ ∀ x ∈ s.train, x.1 ≠ ctx → count ≠ 0 →
    x.2.count ≠ 0 → x.2.base.toNat + x.2.count.toNat ≤ base ∨ base + count ≤ x.2.base.toNat

theorem setsClash_iff (s : State) (ctx base count : Nat) :
    (s.train.any (fun x : Nat × TrainCtx =>
        decide (x.1 ≠ ctx) && decide (base < x.2.base.toNat + x.2.count.toNat) && decide (x.2.base.toNat < base +
            count) &&
          decide (count ≠ 0) && decide (x.2.count ≠ 0)) = true ∨ 4096 < base + count ∨ s.hasResident ctx = true) ↔
      ¬ s.setsFree ctx base count := by
  unfold State.setsFree
  simp only [List.any_eq_true, Bool.and_eq_true, decide_eq_true_eq]
  constructor
  · rintro (⟨x, hx, ⟨⟨⟨hc, h1⟩, h2⟩, h3⟩, h4⟩ | h | h) ⟨hle, hres, hfree⟩
    · have := hfree x hx hc h3 h4
      omega
    · omega
    · rw [h] at hres
      cases hres
  · intro h
    by_contra hno
    rw [not_or, not_or] at hno
    obtain ⟨hany, hle, hres⟩ := hno
    refine h ⟨by omega, Bool.eq_false_iff.mpr hres, fun x hx hc h3 h4 => ?_⟩
    by_contra hov
    exact hany ⟨x, hx, ⟨⟨⟨hc, by omega⟩, by omega⟩, h3⟩, h4⟩

theorem allotWrite_free {s : State} {ctx : Nat} {v : Word}
    (h : s.setsFree ctx (v.extractLsb' 0 12).toNat (v.extractLsb' 16 13).toNat) :
    s.allotWrite ctx v = s.modTrain ctx fun x => { x with
      base := v.extractLsb' 0 12, count := v.extractLsb' 16 13, rej := (s.trainCtx ctx).rej && !v.getLsbD 63 } := by
  unfold State.allotWrite fieldN
  refine (if_neg fun hc => (setsClash_iff ..).mp hc h).trans ?_
  rw [BitVec.ofNat_toNat, BitVec.ofNat_toNat, BitVec.setWidth_eq, BitVec.setWidth_eq]

theorem allotWrite_refused {s : State} {ctx : Nat} {v : Word}
    (h : ¬ s.setsFree ctx (v.extractLsb' 0 12).toNat (v.extractLsb' 16 13).toNat) :
    s.allotWrite ctx v = s.modTrain ctx fun x => { x with rej := true } := by
  unfold State.allotWrite fieldN
  exact if_pos ((setsClash_iff ..).mpr h)

theorem allotWrite_spec (s : State) (ctx : Nat) (v : Word) :
    let t := s.allotWrite ctx v
    let free := s.setsFree ctx (v.extractLsb' 0 12).toNat (v.extractLsb' 16 13).toNat
    t = { s with train := t.train } ∧ (∀ d, d ≠ ctx → t.trainCtx d = s.trainCtx d) ∧
      (free → t.trainCtx ctx = { s.trainCtx ctx with
        base := v.extractLsb' 0 12, count := v.extractLsb' 16 13
        rej := (s.trainCtx ctx).rej && !v.getLsbD 63 }) ∧
      (¬ free → t.trainCtx ctx = { s.trainCtx ctx with rej := true }) := by
  intro t free
  by_cases h : free
  · have ht : t = _ := allotWrite_free h
    rw [ht]
    exact ⟨rfl, fun d hd => State.trainCtx_modTrain_other s _ hd, fun _ => State.trainCtx_modTrain_same ..,
      fun hn => absurd h hn⟩
  · have ht : t = _ := allotWrite_refused h
    rw [ht]
    exact ⟨rfl, fun d hd => State.trainCtx_modTrain_other s _ hd, fun hf => absurd hf h,
      fun _ => State.trainCtx_modTrain_same ..⟩

theorem foldl_rest_add (f a b : Nat → Nat) (g p : Nat) (hf : ∀ q, f q = a q + b q) (l : List Nat) (hl : l.Nodup) :
    ∀ n, l.foldl (fun n q => if q = p then n else n + a q + b q) n + (if p ∈ l then g else 0) =
      n + (l.map fun q => if q = p then g else f q).sum := by
  induction l with
  | nil => exact fun n => rfl
  | cons q l ih =>
    intro n
    obtain ⟨hq, hl'⟩ := List.nodup_cons.mp hl
    rw [List.foldl_cons, List.map_cons, List.sum_cons]
    by_cases hp : q = p
    · subst hp
      have := ih hl' n
      rw [if_neg hq] at this
      rw [if_pos rfl, if_pos List.mem_cons_self, if_pos rfl]
      omega
    · have := ih hl' (n + a q + b q)
      rw [if_neg hp, if_neg hp, hf]
      have hmem : (p ∈ q :: l) ↔ p ∈ l := by
        rw [List.mem_cons]
        exact or_iff_right (Ne.symm hp)
      simp only [hmem]
      omega

/-- The rates of a stack's partitions, partition `p` having those of a written value. -/
def Stack.rateSum (k : Stack) (p : Nat) (r : BitVec 35) : Nat :=
  ((upto 64).map fun q => if q = p then ratePlan r + rateUnpl r
    else ratePlan (k.rateShown q) + rateUnpl (k.rateShown q)).sum

theorem rateWrite_eq {s : State} {i p : Nat} (v : Word) (hp : p < 64) (hstep : 10 ≤ s.start.step.toNat)
    (hplans : s.plans = []) :
    s.rateWrite i p v = s.modStack i fun k => { k with
      ratePend := if decide (20480 < (s.stack i).rateSum p (v.extractLsb' 0 35)) then k.ratePend
        else Tab.set none k.ratePend p (some (v.extractLsb' 0 35))
      rej := Tab.set false k.rej p ((Tab.get false (s.stack i).rej p && !v.getLsbD 63) ||
        decide (20480 < (s.stack i).rateSum p (v.extractLsb' 0 35))) } := by
  have hrest := foldl_rest_add (fun q => ratePlan ((s.stack i).rateShown q) + rateUnpl ((s.stack i).rateShown q))
    (fun q => ratePlan ((s.stack i).rateShown q)) (fun q => rateUnpl ((s.stack i).rateShown q))
    (ratePlan (v.extractLsb' 0 35) + rateUnpl (v.extractLsb' 0 35)) p (fun _ => rfl) (upto 64) List.nodup_range 0
  rw [if_pos (show p ∈ upto 64 from List.mem_range.mpr hp), Nat.zero_add] at hrest
  have hdem : s.demand i p = 0 := by
    unfold State.demand
    rw [hplans]
    rfl
  unfold State.rateWrite
  refine (if_neg fun h => absurd (of_decide_eq_true h) (Nat.not_lt.mpr hstep)).trans ?_
  dsimp only
  rw [hdem, decide_eq_false (Nat.not_lt_zero _), Bool.or_false, Nat.add_assoc]
  unfold field Stack.rateSum
  rw [hrest]

theorem rateWrite_spec {s : State} {i p : Nat} (v : Word) (hp : p < 64) (hstep : 10 ≤ s.start.step.toNat)
    (hplans : s.plans = []) :
    let k := s.stack i
    let r := v.extractLsb' 0 35
    let t := s.rateWrite i p v
    (∀ j, j ≠ i → t.stack j = s.stack j) ∧
      (k.rateSum p r ≤ 20480 → Tab.get none (t.stack i).ratePend p = some r ∧
        t.stack i = { k with ratePend := (t.stack i).ratePend, rej := (t.stack i).rej }) ∧
      (20480 < k.rateSum p r → Tab.get false (t.stack i).rej p = true ∧
        t.stack i = { k with rej := (t.stack i).rej }) := by
  intro k r t
  have ht := rateWrite_eq (i := i) v hp hstep hplans
  have hti := (congrArg (State.stack · i) ht).trans ((State.stack_modStack ..).trans (if_pos rfl))
  change t.stack i = _ at hti
  refine ⟨fun j hj => ?_, fun h => ?_, fun h => ?_⟩
  · show (s.rateWrite i p v).stack j = _
    rw [ht, State.stack_modStack, if_neg hj]
  · rw [decide_eq_false (Nat.not_lt.mpr h)] at hti
    rw [hti]
    refine ⟨?_, rfl⟩
    show Tab.get none (Tab.set none (s.stack i).ratePend p (some r)) p = some r
    exact Tab.get_set_same _ _ _ _
  · rw [decide_eq_true h, Bool.or_true] at hti
    rw [hti]
    refine ⟨?_, rfl⟩
    show Tab.get false (Tab.set false (s.stack i).rej p true) p = true
    exact Tab.get_set_same _ _ _ _

end Sys2Proof.Machine

namespace Sys2Proof
open Machine

/-- Settles O49: reports, the ring's switch, snapshots and the controls of the census page. -/
theorem errorRingAndCensus : Obligations.ErrorRingAndCensus := by
  unfold Obligations.ErrorRingAndCensus
  refine ⟨fun r s => ?_, fun src v s hsrc => ?_⟩
  · intro g slot
    refine ⟨fun hen hfull hend => ⟨_, rfl, report_written_spec hen hfull hend⟩, fun hen hfull => ?_, fun hen hlen => ?_,
      fun src v hsrc => ?_, fun f v => rfl⟩
    · obtain ⟨hmem, hc, -⟩ := (report_lost (r := r) hen ((Ring.full_iff g).mpr hfull)).rest
      exact ⟨_, rfl, hmem, (congrArg Census.ring hc).trans rfl⟩
    · obtain ⟨hmem, hc, -⟩ := (report_held (r := r) hen hlen).rest
      exact ⟨_, rfl, hmem, (congrArg Census.ring hc).trans rfl⟩
    · have hvf : ¬ isVf src = true := by rw [isVf_eq_false hsrc]; decide
      have hex : Machine.exec (.ringEnable src v) s = .next (s.ringCtl v) := congrArg Host.Outcome.next (if_neg hvf)
      refine ⟨fun hv hen hheld => hex.trans ?_, fun hv hen => hex.trans ?_, fun hv hen => hex.trans ?_⟩
      · exact congrArg Host.Outcome.next (ringCtl_on hv hen hheld)
      · exact congrArg Host.Outcome.next (ringCtl_off hv hen)
      · exact congrArg Host.Outcome.next (ringCtl_stays hv hen)
  · intro c downs b
    have hvf : ¬ isVf src = true := by rw [isVf_eq_false hsrc]; decide
    refine ⟨fun hm hb => ?_, fun hm hd hb => ?_, fun hm => ?_, fun b hb hdone => ?_, fun ctx => ?_,
      fun i p hstep hplans => ?_, ?_, ?_⟩
    · exact congrArg Host.Outcome.next ((if_neg hvf).trans (censusNow_due hm hb))
    · exact congrArg Host.Outcome.next ((if_neg hvf).trans (censusNow_announces hm hd hb))
    · refine congrArg Host.Outcome.next ((if_neg hvf).trans (if_pos ?_))
      unfold State.slave
      rw [hm]
      rfl
    · obtain ⟨w, hex⟩ := censusCopyDone_eq hb hdone
      exact ⟨_, hex, tpdos_sent _ w⟩
    · exact ⟨_, congrArg Host.Outcome.next (if_neg hvf), allotWrite_spec s ctx.toNat v⟩
    · exact ⟨_, congrArg Host.Outcome.next (if_neg hvf), rateWrite_spec v p.isLt hstep hplans⟩
    · exact congrArg Host.Outcome.next (if_neg hvf)
    · exact congrArg Host.Outcome.next (if_neg hvf)

end Sys2Proof
end

section
/-!
# Host commands: one context, one engine, the end of a command
-/
namespace Sys2Proof.Machine

/-! ### Reads and writes -/

theorem State.hctx_modHctx_same (s : State) (c : Nat) (f : HostCtx → HostCtx) : (s.modHctx c f).hctx c = f (s.hctx c) :=
  Tab.get_set_same _ _ _ _

theorem State.hctx_modHctx_other (s : State) {c d : Nat} (f : HostCtx → HostCtx) (h : d ≠ c) :
    (s.modHctx c f).hctx d = s.hctx d := Tab.get_set_other _ _ _ _ _ h

theorem State.engine_modHctx (s : State) (c e : Nat) (f : HostCtx → HostCtx) :
    (s.modHctx c f).engine e = s.engine e := rfl

theorem State.engine_setEngine_same (s : State) (e : Nat) (x : CopyEngine) : (s.setEngine e x).engine e = x :=
  Tab.get_set_same _ _ _ _

theorem State.engine_setEngine_other (s : State) {e d : Nat} (x : CopyEngine) (h : d ≠ e) :
    (s.setEngine e x).engine d = s.engine d := Tab.get_set_other _ _ _ _ _ h

theorem State.hctx_setEngine (s : State) (e c : Nat) (x : CopyEngine) : (s.setEngine e x).hctx c = s.hctx c := rfl

/-! ### The end of a command -/

theorem dropCmd_spec (s : State) (ctx : Nat) (c : Cmd) :
    let t := s.dropCmd ctx c
    t = { s with host := { s.host with ctxs := t.host.ctxs, engines := t.host.engines } } ∧
      t.hctx ctx = { s.hctx ctx with cmds := (s.hctx ctx).cmds.filter fun x => decide (x.seq ≠ c.seq) } ∧
      (∀ d, d ≠ ctx → t.hctx d = s.hctx d) ∧
      ∀ e, t.engine e = if c.engine = some e then { s.engine e with busy := false, moved := 0 } else s.engine e := by
  unfold State.dropCmd
  dsimp only
  cases h : c.engine with
  | none =>
    refine ⟨rfl, State.hctx_modHctx_same .., fun d hd => State.hctx_modHctx_other s _ hd, fun e => ?_⟩
    exact (if_neg (by simp)).symm
  | some e =>
    refine ⟨rfl, (State.hctx_setEngine ..).trans (State.hctx_modHctx_same ..),
      fun d hd => (State.hctx_setEngine ..).trans (State.hctx_modHctx_other s _ hd), fun d => ?_⟩
    by_cases hd : d = e
    · subst hd
      rw [if_pos rfl, State.engine_setEngine_same]
      rfl
    · rw [if_neg fun he => hd (Option.some.inj he).symm, State.engine_setEngine_other _ _ hd]
      rfl

theorem complete1_eq {s : State} {ctx : Nat} (c : Cmd) (status detail : Nat) (tick value : Word)
    (h : (s.hctx ctx).orphaned = false) :
    s.complete1 ctx c status detail tick value =
      { s.dropCmd ctx c with sent := s.cplSent ctx c status detail tick value ++ s.sent } := by
  have hrest := (dropCmd_spec s ctx c).1
  have hup : (s.dropCmd ctx c).host.dlUp = s.host.dlUp := by rw [hrest]
  have hown : (s.dropCmd ctx c).owner ctx = s.owner ctx := by
    rw [hrest]
    rfl
  have hsent : (s.dropCmd ctx c).sent = s.sent := by rw [hrest]
  unfold State.complete1
  refine (if_neg (by rw [h]; decide)).trans ?_
  dsimp only
  rw [hown]
  rw [← hsent]
  generalize s.dropCmd ctx c = u at hup
  unfold State.cplSent State.sendMsix
  cases c.cpl <;> cases c.irq <;> cases hd : s.host.dlUp <;>
    simp [State.send, hup, hd]

theorem complete1_completed {s : State} {ctx : BitVec 12} (c : Cmd) (status detail : Nat) (tick value : Word)
    (h : (s.hctx ctx.toNat).orphaned = false) :
    Completed ctx c status detail tick value s (s.complete1 ctx.toNat c status detail tick value) := by
  obtain ⟨hrest, hown, hoth, heng⟩ := dropCmd_spec s ctx.toNat c
  rw [complete1_eq c status detail tick value h]
  exact ⟨congrArg (fun t : State => { t with
    sent := s.cplSent ctx.toNat c status detail tick value ++ s.sent }) hrest, hown, hoth, heng⟩

theorem complete_completed {s : State} {ctx : BitVec 12} {c : Cmd} (status detail : Nat) (tick value : Word)
    (hf : s.fenced ctx.toNat c.seq = false) (h : (s.hctx ctx.toNat).orphaned = false) (hop : c.op ≠ 0x10) :
    Completed ctx c status detail tick value s (s.complete ctx.toNat c status detail tick value) := by
  have hno : ¬ (s.fenced ctx.toNat c.seq = true ∧ (s.hctx ctx.toNat).orphaned = false) := by
    rw [hf]
    exact fun hc => by cases hc.1
  have he : s.complete ctx.toNat c status detail tick value = s.complete1 ctx.toNat c status detail tick value :=
    (if_neg hno).trans (if_neg fun hc => hop (of_decide_eq_true hc))
  rw [he]
  exact complete1_completed c status detail tick value h

/-! ### Commands that are taken -/

theorem act_taken {s : State} {ctx : BitVec 12} {c : Cmd} {op : Nat} (f : Cmd → State) (h : Taken s ctx c op) :
    s.act ctx c.seq op f = f c := by
  obtain ⟨hcmd, hop, hstage, hbad, hstart, -, -⟩ := h
  unfold State.act
  rw [hcmd]
  exact if_pos ⟨hop, hstage, hbad, hstart⟩

/-- Work on memory and on the tokens, which the host's commands do not see. -/
structure HostKept (s t : State) : Prop where
  host : t.host = s.host
  seg : t.seg = s.seg

theorem HostKept.hctx {s t : State} (h : HostKept s t) (c : Nat) : t.hctx c = s.hctx c := by
  unfold State.hctx
  rw [h.host]

theorem HostKept.fenced {s t : State} (h : HostKept s t) (c : Nat) (q : BitVec 32) : t.fenced c q = s.fenced c q := by
  unfold State.fenced State.earlier
  rw [h.hctx]

/-- A command that its work leaves in the list completes. -/
theorem Taken.completes {s t : State} {ctx : BitVec 12} {c : Cmd} {op : Nat} (h : Taken s ctx c op) (hk : HostKept s t)
    (hop : op ≠ 0x10) (status detail : Nat) (tick value : Word) :
    Completed ctx c status detail tick value t (t.complete ctx.toNat c status detail tick value) := by
  obtain ⟨-, hc, -, -, -, hf, ho⟩ := h
  exact complete_completed status detail tick value ((hk.fenced _ _).trans hf)
    ((congrArg HostCtx.orphaned (hk.hctx _)).trans ho) (hc ▸ hop)

end Sys2Proof.Machine
end

section
/-!
# Ranges written by the host, inline writes and atomics
-/
namespace Sys2Proof.Machine

/-! ### A range of bytes in this module's memory -/

/-- Blocks that the host may write: the memory there is populated and holds no device register. -/
def State.writable (s : State) (la n : Nat) : Prop :=
  ∀ a, la / 64 * 64 ≤ a → a < (la + n + 63) / 64 * 64 → s.present a 1 = true ∧ ∀ b o, regionOf a ≠ .regs b o

theorem exists_of_present_one {s : State} {a : Nat} (h : s.present a 1 = true) : s.exists_ a = true :=
  List.all_eq_true.mp h 0 (List.mem_range.mpr Nat.one_pos)

theorem lt_of_exists {s : State} {a : Nat} (h : s.exists_ a = true) : a < 2 ^ 44 := by
  by_contra hge
  have hhole : regionOf a = .hole := by
    unfold regionOf
    rw [if_neg (by omega), if_neg (by omega), if_neg (by omega), if_neg (by omega), if_neg (by omega)]
  unfold State.exists_ at h
  rw [hhole] at h
  cases h

/-- A piece of a range that starts at `pa`: some bytes of one block. -/
structure IsPiece (pa n : Nat) (x : Nat × Nat × Nat) : Prop where
  start : x.1 = pa + x.2.1
  pos : 0 < x.2.2
  inside : x.2.1 + x.2.2 ≤ n
  block : x.1 % 64 + x.2.2 ≤ 64

theorem isPiece_of_mem {pa n : Nat} {x : Nat × Nat × Nat} (h : x ∈ piecesOf pa n) : IsPiece pa n x := by
  unfold piecesOf at h
  split at h
  · cases h
  · obtain ⟨i, hi, rfl⟩ := List.mem_map.mp h
    have hi' : i < (pa + n - 1) / 64 - pa / 64 + 1 := List.mem_range.mp hi
    refine ⟨?_, ?_, ?_, ?_⟩ <;> dsimp only <;> omega

theorem exists_piece {pa n j : Nat} (hj : j < n) : ∃ x ∈ piecesOf pa n, x.2.1 ≤ j ∧ j < x.2.1 + x.2.2 := by
  unfold piecesOf
  rw [if_neg (by omega)]
  refine ⟨_, List.mem_map.mpr ⟨(pa + j) / 64 - pa / 64, List.mem_range.mpr ?_, rfl⟩, ?_⟩
  · omega
  · dsimp only
    omega

theorem length_blockOf (pa : Nat) (b : List Byte) : (blockOf pa b).1.length = 64 := by
  unfold blockOf upto
  rw [List.length_map, List.length_range]

theorem getD_map_upto {α : Type} (f : Nat → α) (d : α) {n i : Nat} (h : i < n) : ((upto n).map f).getD i d = f i := by
  unfold upto
  rw [List.getD_eq_getElem?_getD, List.getElem?_map, List.getElem?_range h]
  rfl

theorem getD_slice {b : List Byte} {o m j : Nat} (h : j < m) : (slice b o m).getD j 0 = b.getD (o + j) 0 := by
  unfold slice
  rw [List.getD_eq_getElem?_getD, List.getElem?_take_of_lt h, List.getElem?_drop, ← List.getD_eq_getElem?_getD]

theorem Wrote.kept {s t : State} (h : Wrote s t) (hl : s.lost = []) : t.lost = [] :=
  List.eq_nil_iff_forall_not_mem.mpr fun x hx => by
    have := h.lost x hx
    rw [hl] at this
    cases this

theorem Wrote.isLocal {s t : State} (h : Wrote s t) (pa : Nat) : t.isLocal pa = s.isLocal pa := by
  rw [h.rest]
  rfl

theorem Wrote.present {s t : State} (h : Wrote s t) (a n : Nat) : t.present a n = s.present a n := by
  rw [h.rest]
  rfl

theorem Wrote.writable {s t : State} (h : Wrote s t) {la n : Nat} (hw : s.writable la n) : t.writable la n := by
  intro a h1 h2
  rw [h.present]
  exact hw a h1 h2

/-- A masked write of a block of plain memory. -/
theorem maskWrite_done {s : State} {src : Src} {a : Nat} {data : List Byte} {mask : List Bool} (hl : s.lost = [])
    (hp : s.present a 64 = true) (hr : ∀ b o, regionOf a ≠ .regs b o) :
    s.maskWrite src a data mask = .done 0 (s.burstWrite a data mask) := by
  have hb : s.blockWrite a data mask = some (s.burstWrite a data mask) :=
    blockWrite_of_kept data mask (by unfold State.lostIn; rw [hl]; rfl)
  unfold State.maskWrite
  rw [if_neg (by rw [hp]; decide), hb]
  split
  · next b o he => exact absurd he (hr b o)
  · rfl

/-- One piece of a range: its bytes are written. -/
theorem putPiece {s : State} {src : Src} {pa n : Nat} {b : List Byte} {x : Nat × Nat × Nat} (hx : IsPiece pa n x)
    (hloc : s.isLocal pa = true) (hl : s.lost = []) (hw : s.writable (localOf pa) n) (hb : n ≤ b.length) :
    ∃ u, s.maskWrite src (localOf (x.1 / 64 * 64)) (blockOf x.1 (slice b x.2.1 x.2.2)).1
        (blockOf x.1 (slice b x.2.1 x.2.2)).2 = .done 0 u ∧ s.isLocal x.1 = true ∧ Wrote s u ∧
      ∀ a, u.byte a = if localOf pa + x.2.1 ≤ a ∧ a < localOf pa + x.2.1 + x.2.2 then b.getD (a - localOf pa) 0
        else s.byte a := by
  obtain ⟨lo, o, m⟩ := x
  obtain ⟨hstart, hpos, hin, hblk⟩ := hx
  dsimp only at hstart hpos hin hblk ⊢
  have hend : localOf pa + o < 2 ^ 44 := lt_of_exists (exists_of_present_one (hw (localOf pa + o) (by omega) (by
      omega)).1)
  have hlo : localOf lo = localOf pa + o := by
    unfold localOf at hend ⊢
    omega
  have hchip : s.isLocal lo = true := by
    have h : chipOf lo = chipOf pa := by
      unfold localOf chipOf at *
      omega
    unfold State.isLocal at hloc ⊢
    rw [h]
    exact hloc
  have hmod : lo % 64 = localOf lo % 64 := by
    unfold localOf
    omega
  generalize hla : localOf pa = la at *
  rw [localOf_block, hlo]
  have hpres : s.present ((la + o) / 64 * 64) 64 = true := by
    refine List.all_eq_true.mpr fun i hi => ?_
    have hi' : i < 64 := List.mem_range.mp hi
    exact exists_of_present_one (hw _ (by omega) (by omega)).1
  refine ⟨_, maskWrite_done hl hpres (hw _ (by omega) (by omega)).2, hchip, burstWrite_wrote .., fun a => ?_⟩
  have hlen : (slice b o m).length = m := by
    unfold slice
    rw [List.length_take, List.length_drop]
    omega
  have hmask (i : Nat) (hi : i < 64) : (blockOf lo (slice b o m)).2.getD i false = true ↔
      lo % 64 ≤ i ∧ i < lo % 64 + m := by
    unfold blockOf
    rw [getD_map_upto _ _ hi, decide_eq_true_eq, hlen]
  have hdata (i : Nat) (hi : i < 64) (h : lo % 64 ≤ i ∧ i < lo % 64 + m) :
      (blockOf lo (slice b o m)).1.getD i 0 = b.getD (o + (i - lo % 64)) 0 := by
    unfold blockOf
    rw [getD_map_upto _ _ hi, hlen, if_pos h, getD_slice (by omega)]
  rw [burstWrite_byte, length_blockOf]
  by_cases ha : la + o ≤ a ∧ a < la + o + m
  · have hi : a - (la + o) / 64 * 64 < 64 := by omega
    have him : lo % 64 ≤ a - (la + o) / 64 * 64 ∧ a - (la + o) / 64 * 64 < lo % 64 + m := by omega
    rw [if_pos ⟨by omega, by omega, (hmask _ hi).mpr him⟩, if_pos ha, hdata _ hi him]
    congr 1
    omega
  · rw [if_neg ha, if_neg]
    rintro ⟨h1, h2, h3⟩
    have hi : a - (la + o) / 64 * 64 < 64 := by omega
    have := (hmask _ hi).mp h3
    omega

theorem putRange_pieces {src : Src} {who : Requester} {part : BitVec 6} {pa n : Nat} {b : List Byte} (hb : n ≤ b.length)
    (l : List (Nat × Nat × Nat)) : ∀ s : State, (∀ x ∈ l, IsPiece pa n x) → s.isLocal pa = true → s.lost = [] →
    s.writable (localOf pa) n →
    ∃ u, s.putRange who src part b l = .ok u ∧ Wrote s u ∧ ∀ a, u.byte a =
      if ∃ x ∈ l, localOf pa + x.2.1 ≤ a ∧ a < localOf pa + x.2.1 + x.2.2 then b.getD (a - localOf pa) 0
      else s.byte a := by
  induction l with
  | nil => exact fun s _ _ _ _ => ⟨s, rfl, Wrote.refl s, fun a => (if_neg (by simp)).symm⟩
  | cons x l ih =>
    intro s hx hloc hl hw
    obtain ⟨t, hput, hlo, hwr, hbyte⟩ := putPiece (src := src) (hx x List.mem_cons_self) hloc hl hw hb
    obtain ⟨u, hu, hwr', hbyte'⟩ := ih t (fun y hy => hx y (List.mem_cons_of_mem _ hy)) ((hwr.isLocal pa).trans hloc)
      (hwr.kept hl) (hwr.writable hw)
    refine ⟨u, ?_, hwr.trans hwr', fun a => ?_⟩
    · unfold State.putRange
      dsimp only
      rw [if_pos hlo, hput]
      exact hu
    · rw [hbyte', hbyte]
      simp only [List.exists_mem_cons_iff]
      by_cases h1 : ∃ y ∈ l, localOf pa + y.2.1 ≤ a ∧ a < localOf pa + y.2.1 + y.2.2
      · rw [if_pos h1, if_pos (Or.inr h1)]
      · rw [if_neg h1]
        by_cases h2 : localOf pa + x.2.1 ≤ a ∧ a < localOf pa + x.2.1 + x.2.2
        · rw [if_pos h2, if_pos (Or.inl h2)]
        · rw [if_neg h2, if_neg (not_or.mpr ⟨h2, h1⟩)]

/-- A range of plain memory of this module is written, and no other byte. -/
theorem putRange_spec {s : State} {src : Src} {who : Requester} {part : BitVec 6} {pa n : Nat} {b : List Byte}
    (hb : n ≤ b.length) (hloc : s.isLocal pa = true) (hl : s.lost = []) (hw : s.writable (localOf pa) n) :
    ∃ u, s.putRange who src part b (piecesOf pa n) = .ok u ∧ u = { s with mem := u.mem } ∧
      ∀ a, u.byte a = if localOf pa ≤ a ∧ a < localOf pa + n then b.getD (a - localOf pa) 0 else s.byte a := by
  obtain ⟨u, hu, hwr, hbyte⟩ := putRange_pieces (src := src) (who := who) (part := part) hb (piecesOf pa n) s
    (fun x hx => isPiece_of_mem hx) hloc hl hw
  refine ⟨u, hu, hwr.rest_of_kept hl, fun a => ?_⟩
  rw [hbyte]
  refine if_congr ⟨fun ⟨x, hx, h1, h2⟩ => ?_, fun ⟨h1, h2⟩ => ?_⟩ rfl rfl
  · have := (isPiece_of_mem hx).inside
    omega
  · obtain ⟨x, hx, h3, h4⟩ := exists_piece (pa := pa) (n := n) (j := a - localOf pa) (by omega)
    exact ⟨x, hx, by omega, by omega⟩

/-! ### WRITE_INLINE -/

theorem TokensOnly.recTrans {s t : State} (h : TokensOnly s t) (ctx : BitVec 12) (va : Word) (n : Nat) (need : Rights) :
    t.recTrans ctx va n need = s.recTrans ctx va n need := by
  unfold State.recTrans State.tableAt
  rw [h.rest]

theorem TokensOnly.writable {s t : State} (h : TokensOnly s t) {la n : Nat} (hw : s.writable la n) :
    t.writable la n := by
  intro a h1 h2
  rw [h.present]
  exact hw a h1 h2

theorem TokensOnly.hostKept {s t : State} (h : TokensOnly s t) : HostKept s t := by
  rw [h.rest]
  exact ⟨rfl, rfl⟩

theorem HostKept.setMem {s t : State} (h : HostKept s t) {u : State} (hu : u = { t with mem := u.mem }) :
    HostKept s u := by
  rw [hu]
  exact ⟨h.host, h.seg⟩

theorem TokensOnly.asked {s t : State} (h : TokensOnly s t) (who : Requester) : t.asked who = s.asked who := by
  unfold State.asked
  rw [h.chain]

theorem Taken.inlineLen_le {s : State} {ctx : BitVec 12} {c : Cmd} (h : Taken s ctx c 1) : c.inlineLen ≤ 192 := by
  obtain ⟨-, hop, -, hbad, -⟩ := h
  by_contra hgt
  have hlong : decide (192 < c.inlineLen) = true := decide_eq_true (by omega)
  unfold State.badCmd at hbad
  simp [hop, hlong] at hbad

/-- What a WRITE_INLINE does once its tokens are drawn. -/
def State.inlineWrite (s : State) (ctx : BitVec 12) (c : Cmd) (rows : List (Word × Nat)) : State :=
  match s.putRows (.intake ctx c.seq) ctx rows c.inlineBytes with
  | .ok s => s.endOrWait (.intake ctx c.seq) ctx c (word c.inlineLen)
  | .err e s => s.failCmd ctx c e

theorem writeInline_waits {s : State} {ctx : BitVec 12} {c : Cmd} (h : Taken s ctx c 1)
    (hno : s.tick.part ≠ .intake ∨ s.tick.no.toNat < max c.tick.toNat c.notBefore) :
    execWriteInline ctx c.seq s = .next s := by
  refine congrArg Host.Outcome.next ((act_taken _ h).trans (if_neg ?_))
  rintro ⟨hp, hle⟩
  rcases hno with hn | hn
  · exact hn hp
  · omega

theorem writeInline_eq {s : State} {ctx : BitVec 12} {c : Cmd} (h : Taken s ctx c 1) (hp : s.tick.part = .intake)
    (hle : max c.tick.toNat c.notBefore ≤ s.tick.no.toNat) (hn : c.inlineLen ≠ 0) :
    execWriteInline ctx c.seq s = .next (whenLet (s.rowsAsk (.intake ctx c.seq) ctx [(c.arg 0, c.inlineLen)])
      fun s => s.inlineWrite ctx c [(c.arg 0, c.inlineLen)]) := by
  refine congrArg Host.Outcome.next ((act_taken _ h).trans ((if_pos ⟨hp, hle⟩).trans ?_))
  dsimp only
  rw [if_neg hn]
  rfl

/-- The bytes of a WRITE_INLINE in plain memory of this module. -/
theorem inlineWrite_spec {s t : State} {ctx : BitVec 12} {c : Cmd} {pa : Nat} {part : BitVec 6} (h : Taken s ctx c 1)
    (ht : TokensOnly s t) (hloc : s.isLocal pa = true) (hask : s.asked (.intake ctx c.seq) = false) (hl : s.lost = [])
    (hlen : c.bytes.length = 256) (htr : s.recTrans ctx (c.arg 0) c.inlineLen 2 = some (pa, part))
    (hw : s.writable (localOf pa) c.inlineLen) (hn : c.inlineLen ≤ 192) :
    ∃ u, Completed ctx c 0 0 s.tick.no (BitVec.ofNat 64 c.inlineLen) u
        (t.inlineWrite ctx c [(c.arg 0, c.inlineLen)]) ∧ u = { t with mem := u.mem } ∧
      (∀ j, j < c.inlineLen → u.byte (localOf pa + j) = c.inlineBytes.getD j 0) ∧
      ∀ a, (a < localOf pa ∨ localOf pa + c.inlineLen ≤ a) → u.byte a = s.byte a := by
  have hbytes : c.inlineBytes.length = 192 := by
    unfold Cmd.inlineBytes slice
    rw [List.length_take, List.length_drop, hlen]
    rfl
  obtain ⟨u, hu, hrest, hbyte⟩ := putRange_spec (s := t) (src := t.ownerSrc ctx) (who := .intake ctx c.seq) (part :=
      part)
    (pa := pa) (n := c.inlineLen) (b := c.inlineBytes.take c.inlineLen)
    (by rw [List.length_take]; omega) ((ht.isLocal pa).trans hloc) (ht.lost.trans hl) (ht.writable hw)
  have hput : t.putRows (.intake ctx c.seq) ctx [(c.arg 0, c.inlineLen)] c.inlineBytes = .ok u := by
    have htr' : t.hostTrans (.intake ctx c.seq) ctx (c.arg 0) c.inlineLen 2 = some (pa, part) :=
      (ht.recTrans ..).trans htr
    unfold State.putRows
    rw [htr']
    dsimp only
    rw [hu]
    rfl
  have hasked : u.asked (.intake ctx c.seq) = false := by
    rw [hrest]
    exact (ht.asked _).trans hask
  have hend : t.inlineWrite ctx c [(c.arg 0, c.inlineLen)] =
      u.complete ctx.toNat c 0 0 u.tick.no (BitVec.ofNat 64 c.inlineLen) := by
    unfold State.inlineWrite
    rw [hput]
    exact if_neg (by rw [hasked]; decide)
  have htick : u.tick.no = s.tick.no := by rw [hrest, ht.rest]
  refine ⟨u, ?_, hrest, fun j hj => ?_, fun a ha => ?_⟩
  · rw [hend, htick]
    exact h.completes (ht.hostKept.setMem hrest) (by decide) 0 0 _ _
  · rw [hbyte, if_pos (by omega), Nat.add_sub_cancel_left, List.getD_eq_getElem?_getD, List.getElem?_take_of_lt hj,
      ← List.getD_eq_getElem?_getD]
  · rw [hbyte, if_neg (by omega), ht.byte]

/-! ### ATOMIC -/

/-- How an ATOMIC at a local address ends once its tokens are drawn. -/
def State.atomicEnd (s : State) (ctx : BitVec 12) (c : Cmd) (la : Nat) : State :=
  match s.operAt la ((c.arg 1).extractLsb' 0 4) ((c.arg 1).getLsbD 4) (c.arg 2) (word (leAt c.inlineBytes 0 8)) with
  | .done old s => s.ok ctx c s.tick.no (if (c.arg 1).getLsbD 5 then old else 0)
  | .unmapped => s.failCmd ctx c .unmapped
  | .uncorr => s.failCmd ctx c .uncorrectable

theorem atomic_eq {s : State} {ctx : BitVec 12} {c : Cmd} {pa : Nat} {part : BitVec 6} (h : Taken s ctx c 4)
    (htr : s.recTrans ctx (c.arg 0) (operWidth ((c.arg 1).extractLsb' 0 4) ((c.arg 1).getLsbD 4)) 11 = some (pa, part))
    (hloc : s.isLocal pa = true) :
    execAtomic ctx c.seq s = .next (whenLet (s.askOne .unplanned 2 (localOf pa) part) fun s =>
      s.atomicEnd ctx c (localOf pa)) := by
  refine congrArg Host.Outcome.next ((act_taken _ h).trans ?_)
  unfold Cmd.atomicWidth field
  dsimp only
  rw [htr]
  exact if_pos hloc

/-- An ATOMIC on an aligned place of a stack, its tokens drawn. -/
theorem atomicEnd_spec {s t : State} {ctx : BitVec 12} {c : Cmd} {la : Nat} (h : Taken s ctx c 4) (ht : TokensOnly s t)
    (hreg : regionOf la = .hbm) (hl : s.lost = []) (hop : (c.arg 1).extractLsb' 0 4 ≠ 8) :
    let op := (c.arg 1).extractLsb' 0 4
    let w := (c.arg 1).getLsbD 4
    let m := operWidth op w
    let old := s.le la m
    s.present la m = true → la % m = 0 →
    ∃ u, Completed ctx c 0 0 s.tick.no (if (c.arg 1).getLsbD 5 then BitVec.ofNat 64 old else 0) u
        (t.atomicEnd ctx c la) ∧
      u.le la m = (operNew op w old (c.arg 2).toNat (word (leAt c.inlineBytes 0 8)).toNat).1 % 256 ^ m ∧
      u.carrels = s.carrels ∧ ∀ a, (a < la ∨ la + m ≤ a) → u.byte a = s.byte a := by
  intro op w m old hp ha
  obtain ⟨v, hv, hrest, hmem⟩ := hbmOper_kept t la w (c.arg 2) (word (leAt c.inlineBytes 0 8)) hop
  rw [show t.le la m = old from ht.le la m] at hv hmem
  have hoper : t.operAt la op w (c.arg 2) (word (leAt c.inlineBytes 0 8)) = .done (word old) v := by
    unfold State.operAt
    dsimp only
    rw [show t.present la m = true from (ht.present la m).trans hp, show la % m = 0 from ha,
      lostIn_of_kept (ht.lost.trans hl), hreg, hv]
    rfl
  have hend : t.atomicEnd ctx c la =
      v.complete ctx.toNat c 0 0 v.tick.no (if (c.arg 1).getLsbD 5 then BitVec.ofNat 64 old else 0) := by
    unfold State.atomicEnd
    rw [hoper]
    rfl
  have hkept : HostKept s v := by
    rw [hrest]
    exact ⟨ht.hostKept.host, ht.hostKept.seg⟩
  have htick : v.tick.no = s.tick.no := by rw [hrest, ht.rest]
  have hbyte (a : Nat) : v.byte a =
      (t.setLe la m (operNew op w old (c.arg 2).toNat (word (leAt c.inlineBytes 0 8)).toNat).1).byte a :=
    congrArg (fun m : Tab Byte => Tab.get 0 m a) hmem
  refine ⟨v, ?_, ?_, ?_, fun a ha => ?_⟩
  · rw [hend, htick]
    exact h.completes hkept (by decide) 0 0 _ _
  · rw [← State.le_setLe_same t]
    unfold State.le
    rw [State.bytes_congr fun i _ => hbyte (la + i)]
  · rw [hrest]
    exact ht.carrels
  · rw [hbyte, State.byte_setLe_apart _ _ ha, ht.byte]

end Sys2Proof.Machine

namespace Sys2Proof
open Machine

/-- Settles O44: a WRITE_INLINE and an ATOMIC at an address of this module. -/
theorem inlineWritesAndAtomics : Obligations.InlineWritesAndAtomics := by
  unfold Obligations.InlineWritesAndAtomics
  intro ctx c s pa part la n op w m ask ask1 hloc hasked hl hlen
  refine ⟨fun htk htr => ⟨fun hn hp hle => ⟨fun hask => ?_, fun hask hw => ?_⟩, fun hno => writeInline_waits htk hno⟩,
    fun htk htr hask => ?_, ?_⟩
  · exact (writeInline_eq htk hp hle hn).trans (congrArg Host.Outcome.next (if_neg (by rw [hask]; decide)))
  · obtain ⟨u, hcpl, hrest, hin, hout⟩ := inlineWrite_spec (t := ask.2) htk (askHbm_tokensOnly ..) hloc hasked hl
      hlen htr
      hw htk.inlineLen_le
    exact ⟨u, _, (writeInline_eq htk hp hle hn).trans (congrArg Host.Outcome.next (if_pos hask)), hcpl, hrest, hin,
        hout⟩
  · exact (atomic_eq htk htr hloc).trans (congrArg Host.Outcome.next (if_neg (by rw [hask]; decide)))
  · intro htk htr hreg hp ha hop _ hask old cmp
    obtain ⟨u, hcpl, hle, hcar, hout⟩ := atomicEnd_spec (t := ask1.2) htk (askOne_tokensOnly ..) hreg hl hop hp ha
    exact ⟨u, _, (atomic_eq htk htr hloc).trans (congrArg Host.Outcome.next (if_pos hask)), hcpl, hle, hcar, hout⟩

end Sys2Proof
end

section
/-!
# The host's simple commands and the start of a command
-/
namespace Sys2Proof.Machine

/-! ### Plan slots -/

section
variable {α : Type} {n : Nat} {x : α} {P : Nat × α → Bool}

theorem Tab.find?_insert_other (hx : P (n, x) = false) : ∀ t : Tab α, (∀ y ∈ t, y.1 = n → P y = false) →
    (Tab.insert t n x).find? P = List.find? P t := by
  intro t
  induction t with
  | nil => exact fun _ => List.find?_singleton.trans (if_neg (by rw [hx]; decide))
  | cons z l ih =>
    intro h
    obtain ⟨k, v⟩ := z
    have hskip : ¬ P (n, x) = true := by rw [hx]; decide
    unfold Tab.insert
    split
    · next hk => rw [List.find?_cons_of_neg hskip, List.find?_cons_of_neg
        (by rw [h (k, v) List.mem_cons_self hk.symm]; decide)]
    · split
      · rw [List.find?_cons_of_neg hskip]
      · rw [List.find?_cons, List.find?_cons, ih fun y hy => h y (List.mem_cons_of_mem _ hy)]

theorem Tab.find?_insert_same (hx : P (n, x) = true) : ∀ t : Tab α, (∀ y ∈ t, P y = false) →
    (Tab.insert t n x).find? P = some (n, x) := by
  intro t
  induction t with
  | nil => exact fun _ => List.find?_cons_of_pos hx
  | cons z l ih =>
    intro h
    unfold Tab.insert
    split
    · exact List.find?_cons_of_pos hx
    · split
      · exact List.find?_cons_of_pos hx
      · rw [List.find?_cons_of_neg (by rw [h z List.mem_cons_self]; decide)]
        exact ih fun y hy => h y (List.mem_cons_of_mem _ hy)

end

theorem State.plan_putPlan_same {s : State} {i : Nat} {p : Plan} (hp : p.state ≠ .free) (h : s.plan i = none) :
    (s.putPlan i p).plan i = some p := by
  have hne : p ≠ Plan.blank := fun hc => hp (by rw [hc]; rfl)
  unfold State.plan State.putPlan Tab.set at *
  rw [if_neg hne, Tab.find?_insert_same (by simp [Plan.present, hp])]
  · rfl
  · intro y hy
    rw [Bool.eq_false_iff]
    exact List.find?_eq_none.mp (Option.map_eq_none_iff.mp h) y hy

theorem State.plan_putPlan_other {s : State} {i j : Nat} {p : Plan} (hp : p.state ≠ .free) (h : j ≠ i) :
    (s.putPlan i p).plan j = s.plan j := by
  have hne : p ≠ Plan.blank := fun hc => hp (by rw [hc]; rfl)
  unfold State.plan State.putPlan Tab.set
  rw [if_neg hne, Tab.find?_insert_other]
  · simp [h.symm]
  · intro y _ hy
    simp [hy, h.symm]

/-! ### Commands that end by themselves -/

section
variable {s : State} {ctx : BitVec 12} {c : Cmd}

theorem HostKept.refl (s : State) : HostKept s s := ⟨rfl, rfl⟩

theorem modPlan_hostKept (s : State) (i : Nat) (f : Plan → Plan) : HostKept s (s.modPlan i f) := ⟨rfl, rfl⟩

theorem nop_completes (h : Taken s ctx c 0) :
    ∃ t, execNop ctx c.seq s = .next t ∧ Completed ctx c 0 0 c.tick 0 s t :=
  ⟨_, congrArg Host.Outcome.next (act_taken _ h), h.completes (HostKept.refl s) (by decide) 0 0 c.tick 0⟩

theorem complete_held (hf : s.fenced ctx.toNat c.seq = true) (ho : (s.hctx ctx.toNat).orphaned = false)
    (he : c.engine = none) (status detail : Nat) (tick value : Word) :
    s.complete ctx.toNat c status detail tick value =
      s.modCmd ctx.toNat c.seq fun x => { x with stage := .done status detail tick value } := by
  unfold State.complete
  rw [if_pos ⟨hf, ho⟩, he]

theorem nop_held (hc : s.cmd ctx.toNat c.seq = some c) (hop : c.op = 0) (hst : c.stage = .waiting)
    (hbad : s.badCmd ctx.toNat c = false) (hs : s.startable ctx c = true) (hf : s.fenced ctx.toNat c.seq = true)
    (ho : (s.hctx ctx.toNat).orphaned = false) :
    execNop ctx c.seq s = .next (s.modCmd ctx.toNat c.seq fun x => { x with stage := .done 0 0 c.tick 0 }) := by
  have he : c.engine = none := by
    unfold Cmd.engine
    rw [hst]
  have hact (f : Cmd → State) : s.act ctx c.seq 0 f = f c := by
    unfold State.act
    rw [hc]
    exact if_pos ⟨hop, Or.inl hst, hbad, hs⟩
  exact congrArg Host.Outcome.next ((hact _).trans (complete_held hf ho he 0 0 c.tick 0))

theorem releaseDone_none (ctx : Nat) (l : List Cmd) : ∀ s : State,
    (∀ x ∈ l, ∀ st d t v, x.stage ≠ .done st d t v) → s.releaseDone ctx l = s := by
  induction l with
  | nil => exact fun _ _ => rfl
  | cons c l ih =>
    intro s h
    unfold State.releaseDone
    split
    · rfl
    · split
      · next st d t v he => exact absurd he (h c List.mem_cons_self st d t v)
      · exact ih s fun x hx => h x (List.mem_cons_of_mem _ hx)

theorem fence_completes (h : Taken s ctx c 0x10) (he : s.earlier ctx.toNat c.seq = [])
    (hnone : ∀ x ∈ (s.hctx ctx.toNat).cmds, ∀ st d t v, x.stage ≠ .done st d t v) :
    ∃ t, execHostFence ctx c.seq s = .next t ∧ Completed ctx c 0 0 s.tick.no 0 s t := by
  have ht := act_taken (fun x => if (s.earlier ctx.toNat c.seq).isEmpty then s.ok ctx x s.tick.no 0 else s) h
  obtain ⟨-, hop, -, -, -, hf, ho⟩ := h
  have hcpl := complete1_completed c 0 0 s.tick.no 0 ho
  have hrel : (s.complete1 ctx.toNat c 0 0 s.tick.no 0).releaseDone ctx.toNat
      ((s.complete1 ctx.toNat c 0 0 s.tick.no 0).hctx ctx.toNat).cmds = s.complete1 ctx.toNat c 0 0 s.tick.no 0 := by
    refine releaseDone_none _ _ _ fun x hx => hnone x ?_
    rw [hcpl.2.1] at hx
    exact List.mem_of_mem_filter hx
  have hno : ¬ (s.fenced ctx.toNat c.seq = true ∧ (s.hctx ctx.toNat).orphaned = false) := by
    rw [hf]
    exact fun hc => by cases hc.1
  have hend : s.complete ctx.toNat c 0 0 s.tick.no 0 = s.complete1 ctx.toNat c 0 0 s.tick.no 0 :=
    (if_neg hno).trans ((if_pos (decide_eq_true hop)).trans hrel)
  refine ⟨_, congrArg Host.Outcome.next (ht.trans ((if_pos ?_).trans hend)), hcpl⟩
  rw [he]
  rfl

theorem fence_waits (h : Taken s ctx c 0x10) (he : s.earlier ctx.toNat c.seq ≠ []) :
    execHostFence ctx c.seq s = .next s := by
  have ht := act_taken (fun x => if (s.earlier ctx.toNat c.seq).isEmpty then s.ok ctx x s.tick.no 0 else s) h
  exact congrArg Host.Outcome.next (ht.trans (if_neg fun hc => he (List.isEmpty_iff.mp hc)))

end

/-! ### SLEEP_DECLARE -/

/-- What the declaration does to one stack without demand. -/
def Stack.slept (k : Stack) : Stack := if k.srAllow then { k with selfref := true } else { k with srIgn := true }

theorem stackWanted_of_none_running {s : State} (h : ∀ x ∈ s.plans, x.2.state ≠ .running) (i : Nat) :
    s.stackWanted i = false := by
  unfold State.stackWanted
  rw [List.any_eq_false]
  intro x hx
  simp [h x hx]

theorem foldl_modStack_slept (l : List Nat) : ∀ s : State, l.Nodup →
    let u := l.foldl (fun s i => s.modStack i Stack.slept) s
    u = { s with hbm := u.hbm } ∧ ∀ i, u.stack i = if i ∈ l then (s.stack i).slept else s.stack i := by
  induction l with
  | nil => exact fun s _ => ⟨rfl, fun i => (if_neg List.not_mem_nil).symm⟩
  | cons j l ih =>
    intro s h
    obtain ⟨hj, hl⟩ := List.nodup_cons.mp h
    obtain ⟨hrest, hst⟩ := ih (s.modStack j Stack.slept) hl
    refine ⟨hrest, fun i => (hst i).trans ?_⟩
    rw [State.stack_modStack]
    by_cases hij : i = j
    · subst hij
      rw [if_neg hj, if_pos List.mem_cons_self, if_pos rfl]
    · rw [if_neg hij]
      exact if_congr (by rw [List.mem_cons, or_iff_right hij]) rfl rfl

theorem declareSleep_spec {s : State} (us : Nat) (h : ∀ x ∈ s.plans, x.2.state ≠ .running) :
    let u := s.declareSleep us
    u = { s with hbm := u.hbm } ∧ ∀ i, i < 8 → u.stack i = if us < 5000 then s.stack i else (s.stack i).slept := by
  unfold State.declareSleep
  by_cases hu : us < 5000
  · rw [if_pos hu]
    exact ⟨rfl, fun _ _ => (if_pos hu).symm⟩
  · rw [if_neg hu]
    have hfold (l : List Nat) : ∀ w : State, w.plans = s.plans →
        l.foldl (fun s i => if (s.stack i).srAllow && !s.stackWanted i then s.modStack i fun k =>
            { k with selfref := true }
          else s.modStack i fun k => { k with srIgn := true }) w = l.foldl (fun s i => s.modStack i Stack.slept) w := by
      induction l with
      | nil => exact fun _ _ => rfl
      | cons j l ih =>
        intro w hw
        rw [List.foldl_cons, List.foldl_cons, stackWanted_of_none_running (hw ▸ h)]
        have hone : (if (w.stack j).srAllow && !false then w.modStack j fun k => { k with selfref := true }
          else w.modStack j fun k => { k with srIgn := true }) = w.modStack j Stack.slept := by
          by_cases ha : (w.stack j).srAllow = true
          · exact (if_pos (by rw [ha]; rfl)).trans (modStack_congr (if_pos ha).symm)
          · exact (if_neg (by rw [Bool.eq_false_iff.mpr ha]; decide)).trans (modStack_congr (if_neg ha).symm)
        rw [hone]
        exact ih _ hw
    rw [hfold (upto 8) s rfl]
    obtain ⟨hrest, hst⟩ := foldl_modStack_slept (upto 8) s (by decide)
    exact ⟨hrest, fun i hi => ((hst i).trans (if_pos (List.mem_range.mpr hi))).trans (if_neg hu).symm⟩

theorem sleep_completes {s : State} {ctx : BitVec 12} {c : Cmd} (h : Taken s ctx c 0x0C)
    (hp : ∀ x ∈ s.plans, x.2.state ≠ .running) :
    ∃ u t, execSleepDeclare ctx c.seq s = .next t ∧ Completed ctx c 0 0 c.tick 0 u t ∧ u = { s with hbm := u.hbm } ∧
      ∀ i, i < 8 → u.stack i = if (c.arg 0).toNat < 5000 then s.stack i else (s.stack i).slept := by
  obtain ⟨hu, hst⟩ := declareSleep_spec (c.arg 0).toNat hp
  have hk : HostKept s (s.declareSleep (c.arg 0).toNat) := ⟨by rw [hu], by rw [hu]⟩
  exact ⟨_, _, congrArg Host.Outcome.next (act_taken _ h), h.completes hk (by decide) 0 0 c.tick 0, hu, hst⟩

/-! ### The plan commands -/

section
variable {s : State} {ctx : BitVec 12} {c : Cmd} {op : Nat} {may : Plan → Bool} {f : Plan → Plan}

theorem planCmd_accepts (h : Taken s ctx c op) (hop : op ≠ 0x10) {p : Plan} (hp : s.plan (c.arg 0).toNat = some p)
    (hctx : p.ctx = ctx) (hmay : may p = true) :
    Completed ctx c 0 0 (s.tick.no + 1) 0 (s.modPlan (c.arg 0).toNat f) (s.planCmd ctx c.seq op may f) := by
  have he : s.planCmd ctx c.seq op may f = (s.modPlan (c.arg 0).toNat f).ok ctx c (s.tick.no + 1) 0 := by
    refine (act_taken _ h).trans ?_
    dsimp only
    rw [hp]
    exact if_pos ⟨hctx, hmay⟩
  rw [he]
  exact h.completes (modPlan_hostKept s _ f) hop 0 0 (s.tick.no + 1) 0

theorem planCmd_refuses (h : Taken s ctx c op) (hop : op ≠ 0x10)
    (hno : ∀ p, s.plan (c.arg 0).toNat = some p → p.ctx ≠ ctx ∨ ¬ may p = true) :
    Completed ctx c 7 0 s.tick.no 0 s (s.planCmd ctx c.seq op may f) := by
  have he : s.planCmd ctx c.seq op may f = s.complete ctx.toNat c 7 0 s.tick.no 0 := by
    refine (act_taken _ h).trans ?_
    dsimp only
    cases hp : s.plan (c.arg 0).toNat with
    | none => rfl
    | some p => exact if_neg fun hc => (hno p hp).elim (fun hx => hx hc.1) fun hx => hx hc.2
  rw [he]
  exact h.completes (HostKept.refl s) hop 7 0 s.tick.no 0

end

/-! ### The start of a command -/

section
variable {s : State} {ctx : BitVec 12} {c : Cmd}

theorem start_malformed (hc : s.cmd ctx.toNat c.seq = some c) (hst : c.stage =
    .waiting) (hbad : s.badCmd ctx.toNat c = true)
    (hf : s.fenced ctx.toNat c.seq = false) (ho : (s.hctx ctx.toNat).orphaned = false) (hop : c.op ≠ 0x10) :
    ∃ t, execCommandStart ctx c.seq s = .next t ∧ Completed ctx c 5 0 s.tick.no 0 s t := by
  refine ⟨_, ?_, complete_completed 5 0 s.tick.no 0 hf ho hop⟩
  unfold execCommandStart
  rw [hc]
  exact congrArg Host.Outcome.next ((if_neg (not_not_intro hst)).trans (if_pos hbad))

theorem start_waits (hc : s.cmd ctx.toNat c.seq = some c) (hst : c.stage = .waiting) (hbad : s.badCmd ctx.toNat c =
    false)
    (hs : s.startable ctx c = false) : execCommandStart ctx c.seq s = .next s := by
  unfold execCommandStart
  rw [hc]
  exact congrArg Host.Outcome.next ((if_neg (not_not_intro hst)).trans
    ((if_neg (Bool.eq_false_iff.mp hbad)).trans (if_pos (Or.inl hs))))

/-- A waiting command that is well formed and startable, no COPY_D2H: what starts it. -/
theorem start_eq (hc : s.cmd ctx.toNat c.seq = some c) (hst : c.stage = .waiting) (hbad : s.badCmd ctx.toNat c = false)
    (hs : s.startable ctx c = true) (h3 : c.op ≠ 3) :
    execCommandStart ctx c.seq s = .next (if c.op = 8 then
      (if s.loadingSlot.isSome ∨ s.loadFirst ctx c = false then s else s.loadBegin ctx c)
      else s.modCmd ctx.toNat c.seq fun x => { x with stage := .ready }) := by
  have hno : ¬ (s.startable ctx c = false ∨ c.op = 3) := by simp [hs, h3]
  unfold execCommandStart
  rw [hc]
  exact congrArg Host.Outcome.next ((if_neg (not_not_intro hst)).trans
    ((if_neg (Bool.eq_false_iff.mp hbad)).trans (if_neg hno)))

theorem load_waits (h : s.loadingSlot ≠ none ∨ s.loadFirst ctx c = false) :
    s.loadingSlot.isSome ∨ s.loadFirst ctx c = false := h.imp_left Option.isSome_iff_ne_none.mpr

theorem freeSlot_free {i : Nat} (h : s.freeSlot = some i) : s.plan i = none :=
  Option.isNone_iff_eq_none.mp (List.find?_some (p := fun i => (s.plan i).isNone) h)

/-- The plan of a load command that begins (R53, R569). -/
def begunPlan (ctx : BitVec 12) (c : Cmd) : Plan :=
  { Plan.blank with
    state := .loading, ctx := ctx, imageVa := c.arg 0, start := if c.arg 1 = 0 then none else some (c.arg 1) }

theorem loadBegin_eq {i : Nat} (h : s.freeSlot = some i) :
    s.loadBegin ctx c =
      (s.putPlan i (begunPlan ctx c)).modCmd ctx.toNat c.seq fun x => { x with stage := .ready } := by
  unfold State.loadBegin
  rw [h]
  rfl

theorem loadBegin_spec {i : Nat} (h : s.freeSlot = some i) :
    ∃ p, (s.loadBegin ctx c).plan i = some p ∧ p.state = .loading ∧ p.ctx = ctx ∧ p.imageVa = c.arg 0 ∧
      (∀ j, j ≠ i → (s.loadBegin ctx c).plan j = s.plan j) ∧
      s.loadBegin ctx c = { s.modCmd ctx.toNat c.seq fun x => { x with stage := .ready } with
        plans := (s.loadBegin ctx c).plans } := by
  have hl : (begunPlan ctx c).state ≠ .free := fun h => by cases h
  rw [loadBegin_eq h]
  exact ⟨begunPlan ctx c, State.plan_putPlan_same hl (freeSlot_free h), rfl, rfl, rfl,
    fun j hj => State.plan_putPlan_other hl hj, rfl⟩

theorem copyD2hStart_eq (hc : s.cmd ctx.toNat c.seq = some c) (hst : c.stage =
    .waiting) (hbad : s.badCmd ctx.toNat c = false)
    (hs : s.startable ctx c = true) (h3 : c.op = 3) :
    execCopyD2hStart ctx c.seq s =
      .next (if s.d2hDue c then s.modCmd ctx.toNat c.seq fun x => { x with stage := .ready } else s) := by
  refine congrArg Host.Outcome.next ?_
  unfold State.act
  rw [hc]
  exact if_pos ⟨h3, Or.inl hst, hbad, hs⟩

end

end Sys2Proof.Machine

namespace Sys2Proof
open Machine

/-- Settles O43: every command reads its own record through `State.act`; a plan's demand is no obstacle where none
runs, and the lowest free slot holds no plan. -/
theorem hostCommands : Obligations.HostCommands := by
  unfold Obligations.HostCommands
  refine ⟨fun ctx c s => ?_, fun ctx c s hc hst => ⟨start_malformed hc hst, start_waits hc hst, fun hbad hs => ?_⟩⟩
  · refine ⟨nop_completes, nop_held, fun h => ⟨fence_completes h, fence_waits h⟩, sleep_completes, fun h => ?_,
      fun h => ?_, fun h => ?_⟩
    · exact ⟨fun p hp hx hm => ⟨_, rfl, planCmd_accepts h (by decide) hp hx (decide_eq_true hm)⟩,
        fun hno => ⟨_, rfl, planCmd_refuses h (by decide) (by simpa using hno)⟩⟩
    · exact ⟨fun p hp hx hm => ⟨_, rfl, planCmd_accepts h (by decide) hp hx (decide_eq_true hm)⟩,
        fun hno => ⟨_, rfl, planCmd_refuses h (by decide) (by simpa using hno)⟩⟩
    · exact ⟨fun p hp hx hm => ⟨_, rfl, planCmd_accepts h (by decide) hp hx (decide_eq_true hm)⟩,
        fun hno => ⟨_, rfl, planCmd_refuses h (by decide) (by simpa using hno)⟩⟩
  · refine ⟨fun h3 h8 => (start_eq hc hst hbad hs h3).trans (congrArg Host.Outcome.next (if_neg h8)), fun h8 hw => ?_,
      fun i h8 hno hfirst hi => ?_, fun h3 hd => ?_, fun h3 hd => ?_⟩
    · exact (start_eq hc hst hbad hs (by rw [h8]; decide)).trans
        (congrArg Host.Outcome.next ((if_pos h8).trans (if_pos (load_waits hw))))
    · obtain ⟨p, hp⟩ := loadBegin_spec (ctx := ctx) (c := c) hi
      refine ⟨_, p, (start_eq hc hst hbad hs (by rw [h8]; decide)).trans
        (congrArg Host.Outcome.next ((if_pos h8).trans (if_neg ?_))), hp⟩
      simp [hno, hfirst]
    · exact (copyD2hStart_eq hc hst hbad hs h3).trans (congrArg Host.Outcome.next (if_pos (decide_eq_true hd)))
    · exact (copyD2hStart_eq hc hst hbad hs h3).trans
        (congrArg Host.Outcome.next (if_neg fun h => absurd (of_decide_eq_true h) (Nat.not_lt.mpr hd)))

end Sys2Proof
end

section
/-!
# Host copies and their steps
-/
namespace Sys2Proof.Machine

/-! ### The command that an engine moves -/

theorem State.cmd_modCmd {s : State} {ctx : Nat} {seq : BitVec 32} {c : Cmd} {f : Cmd → Cmd} (hf : ∀ x, (f x).seq =
    x.seq)
    (h : s.cmd ctx seq = some c) : (s.modCmd ctx seq f).cmd ctx seq = some (f c) := by
  have hc : c.seq = seq := of_decide_eq_true (List.find?_some (p := fun c : Cmd => decide (c.seq = seq)) h)
  have hkeep : (fun c : Cmd => decide (c.seq = seq)) ∘ (fun c : Cmd => if c.seq = seq then f c else c) =
      fun c : Cmd => decide (c.seq = seq) := by
    funext x
    refine decide_eq_decide.mpr ?_
    show (if x.seq = seq then f x else x).seq = seq ↔ _
    rw [apply_ite Cmd.seq, hf, ite_self]
  unfold State.cmd State.modCmd at *
  rw [State.hctx_modHctx_same, List.find?_map, hkeep, h]
  exact congrArg some (if_pos hc)

/-- The commands of a context keep their order, their numbers and their operations. -/
theorem fenced_of_map {s t : State} {ctx : Nat} {q : BitVec 32} {f : Cmd → Cmd} (hs : ∀ x, (f x).seq = x.seq)
    (hf : ∀ x, (f x).isFence = x.isFence) (h : (t.hctx ctx).cmds = (s.hctx ctx).cmds.map f) :
    t.fenced ctx q = s.fenced ctx q := by
  have h1 : (fun c : Cmd => decide (c.seq ≠ q)) ∘ f = fun c : Cmd => decide (c.seq ≠ q) := by
    funext x
    exact decide_eq_decide.mpr (by rw [hs])
  have h2 : Cmd.isFence ∘ f = Cmd.isFence := funext hf
  unfold State.fenced State.earlier
  rw [h, List.takeWhile_map, List.any_map, h1, h2]

theorem fenced_of_cmds {s t : State} {ctx : Nat} {q : BitVec 32} (h : (t.hctx ctx).cmds = (s.hctx ctx).cmds) :
    t.fenced ctx q = s.fenced ctx q :=
  fenced_of_map (f := id) (fun _ => rfl) (fun _ => rfl) (h.trans (List.map_id _).symm)

/-- The engine's number as a word of its own. -/
theorem ofNat_engine (e : BitVec 4) : BitVec.ofNat 4 e.toNat = e :=
  (BitVec.ofNat_toNat 4 e).trans (BitVec.setWidth_eq e)


/-! ### A copy takes an engine -/

section
variable {s : State} {ctx : BitVec 12} {c : Cmd} {e : BitVec 4}

theorem find?_upto_first {p : Nat → Bool} {n e : Nat} (hlt : e < n) (hmin : ∀ i, i < e → p i = false) (he : p e =
    true) :
    (upto n).find? p = some e := by
  unfold upto
  rw [List.find?_range_eq_some]
  exact ⟨he, List.mem_range.mpr hlt, fun i hi => by rw [hmin i hi]; rfl⟩

/-- The engine that a copy takes: busy with it, its descriptor cache filled (R335, R375). -/
def State.grantedEngine (s : State) (ctx : BitVec 12) (c : Cmd) : CopyEngine :=
  { busy := true, ctx := ctx, seq := c.seq, moved := 0, tick := 0
    desc := (upto 16).map fun i => (i, some (s.tableAt ctx.toNat i)) }

theorem grant_eq (hnext : s.nextCopy = some (ctx.toNat, c)) (hmin : ∀ i, i < e.toNat → (s.engine i).busy = true)
    (hidle : (s.engine e.toNat).busy = false) (hopen : e.toNat < s.enginesOpen) :
    execCopyEngineGrant s = .next ((s.setEngine e.toNat (s.grantedEngine ctx c)).modCmd ctx.toNat c.seq fun x =>
      { x with stage := .moving e }) := by
  have hfind : ((upto s.enginesOpen).find? fun e => !(s.engine e).busy) = some e.toNat :=
    find?_upto_first hopen (fun i hi => by rw [hmin i hi]; rfl) (by rw [hidle]; rfl)
  have hctx : BitVec.ofNat 12 ctx.toNat = ctx := (BitVec.ofNat_toNat 12 ctx).trans (BitVec.setWidth_eq ctx)
  unfold execCopyEngineGrant
  rw [hnext, hfind]
  dsimp only
  rw [hctx, ofNat_engine]
  rfl

theorem engine_grant (s : State) (ctx : Nat) (q : BitVec 32) (f : Cmd → Cmd) (e : Nat) (x : CopyEngine) :
    (((s.setEngine e x).modCmd ctx q f).engine e = x) ∧
      ∀ i, i ≠ e → ((s.setEngine e x).modCmd ctx q f).engine i = s.engine i :=
  ⟨State.engine_setEngine_same s e x, fun _ hi => State.engine_setEngine_other s x hi⟩

theorem moving_eq {op : Nat} (hc : s.cmd ctx.toNat c.seq = some c) (hop : c.op = op) (hst : c.stage = .moving e)
    (hm : (s.engine e.toNat).moved = 0) (hd : s.host.d3.getLsbD (s.owner ctx.toNat).toNat = false) :
    s.moving ctx c.seq op = some (e.toNat, c) := by
  unfold State.moving
  rw [hc, Option.bind_some, hst]
  exact if_pos ⟨hop, hm, hd⟩

theorem copyH2d_eq (hc : s.cmd ctx.toNat c.seq = some c) (hop : c.op = 2) (hst : c.stage = .moving e)
    (hm : (s.engine e.toNat).moved = 0) (hd : s.host.d3.getLsbD (s.owner ctx.toNat).toNat = false) :
    execCopyH2d ctx c.seq s =
      .next (({ s with sent := .hostRead (s.owner ctx.toNat) (c.arg 0) (c.arg 2).toNat :: s.sent } : State).modCmd
        ctx.toNat c.seq fun x => { x with stage := .flush e }) := by
  unfold execCopyH2d
  rw [moving_eq hc hop hst hm hd]
  dsimp only
  rw [ofNat_engine]
  rfl

end

/-! ### The end of a COPY_H2D -/

/-- What the host's data does once the engine's tokens are drawn. -/
def State.dataIn (s : State) (e : BitVec 4) (ctx : BitVec 12) (c : Cmd) (b : List Byte) : State :=
  match s.putRows (.copyEngine e) ctx c.deviceRows b with
  | .err err s => s.xferStop e.toNat err
  | .ok s =>
    let s := s.setEngine e.toNat { s.engine e.toNat with moved := b.length }
    let s := s.modCmd ctx.toNat c.seq fun x => { x with stage := .moving e }
    s.h2dEnd e.toNat ctx { c with stage := .moving e }

section
variable {s : State} {ctx : BitVec 12} {c : Cmd} {e : BitVec 4} {b : List Byte}

theorem readCompletion_eq (hc : s.cmd ctx.toNat c.seq = some c) (hop : c.op = 2) (hst : c.stage = .flush e)
    (hbusy : (s.engine e.toNat).busy = true) (hctx : (s.engine e.toNat).ctx = ctx) (hseq : (s.engine e.toNat).seq =
        c.seq)
    (hlen : b.length = (c.arg 2).toNat) :
    execHostReadCompletion e (.data b) s =
      .next (whenLet (s.rowsAsk (.copyEngine e) ctx c.deviceRows) fun s => s.dataIn e ctx c b) := by
  unfold execHostReadCompletion
  dsimp only
  rw [hctx, hseq, hc]
  refine (if_pos ⟨hbusy, hst⟩).trans ?_
  refine (if_neg (not_not_intro hop)).trans ((if_neg (not_not_intro hlen)).trans ?_)
  rfl

/-- The state in which a COPY_H2D whose bytes are written completes. -/
def State.copiedIn (s : State) (e : BitVec 4) (ctx : BitVec 12) (c : Cmd) (n m : Nat) : State :=
  (((s.setEngine e.toNat { s.engine e.toNat with moved := n }).modCmd ctx.toNat c.seq fun x =>
    { x with stage := .moving e }).modHctx ctx.toNat fun h => { h with bytesIn := h.bytesIn + m })

theorem copiedIn_host (s : State) (n m : Nat) :
    s.copiedIn e ctx c n m = { s with host := { s.host with
        ctxs := (s.copiedIn e ctx c n m).host.ctxs, engines := (s.copiedIn e ctx c n m).host.engines } } := rfl

theorem copiedIn_hctx (s : State) (n m : Nat) :
    (s.copiedIn e ctx c n m).hctx ctx.toNat = { s.hctx ctx.toNat with
      cmds := (s.hctx ctx.toNat).cmds.map fun x => if x.seq = c.seq then { x with stage := .moving e } else x
      bytesIn := (s.hctx ctx.toNat).bytesIn + m } := by
  refine (State.hctx_modHctx_same ..).trans ?_
  unfold State.modCmd
  rw [State.hctx_modHctx_same]
  rfl

theorem copiedIn_fenced (s : State) (n m : Nat) (q : BitVec 32) :
    (s.copiedIn e ctx c n m).fenced ctx.toNat q = s.fenced ctx.toNat q := by
  refine fenced_of_map (f := fun x : Cmd => if x.seq = c.seq then { x with stage := .moving e } else x)
    (fun x => ?_) (fun x => ?_) (congrArg HostCtx.cmds (copiedIn_hctx s n m))
  · rw [apply_ite Cmd.seq, ite_self]
  · rw [apply_ite Cmd.isFence]
    exact ite_self _

/-- Data all written, no answer awaited: the command completes. -/
theorem dataIn_spec {u : State} (hput : s.putRows (.copyEngine e) ctx c.deviceRows b = .ok u)
    (hask : u.asked (.copyEngine e) = false) (hop : c.op = 2) (hf : u.fenced ctx.toNat c.seq = false)
    (ho : (u.hctx ctx.toNat).orphaned = false) :
    Completed ctx { c with stage := .moving e } 0 0 (u.tick.no + 1) (c.arg 2)
      (u.copiedIn e ctx c b.length (c.arg 2).toNat) (s.dataIn e ctx c b) := by
  have hd : s.dataIn e ctx c b = (u.copiedIn e ctx c b.length (c.arg 2).toNat).complete ctx.toNat
      { c with stage := .moving e } 0 0 (u.tick.no + 1) (c.arg 2) := by
    unfold State.dataIn
    rw [hput]
    dsimp only
    unfold State.h2dEnd
    rw [ofNat_engine]
    refine (if_neg ?_).trans rfl
    show ¬ u.asked (.copyEngine e) = true
    rw [hask]
    decide
  rw [hd]
  refine complete_completed 0 0 _ _ ((copiedIn_fenced u _ _ _).trans hf) ?_ ?_
  · rw [copiedIn_hctx]
    exact ho
  · show c.op ≠ 0x10
    rw [hop]
    decide

end


/-! ### A COPY_D2H -/

/-- Requests over the links and free words: the rest of the state stays. -/
def AsksOnly (s t : State) : Prop :=
  ∃ fr ch ls ss, t = { s with fresh := fr, chain := ch, links := ls, sent := ss }

namespace AsksOnly

theorem refl (s : State) : AsksOnly s s := ⟨s.fresh, s.chain, s.links, s.sent, rfl⟩

theorem trans {s t u : State} (h : AsksOnly s t) (h' : AsksOnly t u) : AsksOnly s u := by
  obtain ⟨_, _, _, _, rfl⟩ := h
  obtain ⟨fr, ch, ls, ss, rfl⟩ := h'
  exact ⟨fr, ch, ls, ss, rfl⟩

theorem draw (s : State) : AsksOnly s s.draw.2 := ⟨_, s.chain, s.links, s.sent, rfl⟩

theorem sendRequest (s : State) (who : Requester) {kind : Nat} (pa : Nat) (part : BitVec 6) (planned : Bool)
    (op : BitVec 4) (ret w : Bool) (more : List Word) (hk : kind < 7) :
    AsksOnly s (s.sendRequest who kind pa part planned op ret w more) := by
  unfold State.sendRequest
  dsimp only
  obtain ⟨ls, ss, h⟩ := SendsOnly.sendItem { s with chain := { s.chain with
      nextTag := s.chain.nextTag + 1, open_ := s.chain.open_ ++ [(s.chain.nextTag.toNat, who)] } }
    (i := itemHdr kind s.ownChip (BitVec.ofNat 12 (chipOf pa)) s.chain.nextTag part planned op ret w :: word pa :: more)
    (fun h => by
      have := (itemHdr_kind ..).symm.trans h
      omega)
  exact ⟨s.fresh, _, ls, ss, h⟩

theorem foldl {α : Type} {f : State → α → State} (hf : ∀ s x, AsksOnly s (f s x)) (l : List α) (s : State) :
    AsksOnly s (l.foldl f s) :=
  List.foldlRecOn (motive := AsksOnly s) l f (refl s) fun t ht x _ => ht.trans (hf t x)

theorem kept {s t : State} (h : AsksOnly s t) : HostKept s t ∧ t.tick = s.tick ∧ t.mem = s.mem := by
  obtain ⟨_, _, _, _, rfl⟩ := h
  exact ⟨⟨rfl, rfl⟩, rfl, rfl⟩

end AsksOnly

theorem getRows_asksOnly {who : Requester} {ctx : BitVec 12} {need : Rights} {u : State} {b' : List Byte}
    (l : List (Word × Nat)) : ∀ (s : State) (b : List Byte), s.getRows who ctx need l b =
        (.ok u, b') → AsksOnly s u := by
  induction l with
  | nil =>
    intro s b h
    cases h
    exact AsksOnly.refl _
  | cons r l ih =>
    intro s b h
    unfold State.getRows at h
    dsimp only at h
    split at h
    · cases h
    · split at h
      · cases h
      · split at h
        · exact ih _ _ h
        · exact ((AsksOnly.foldl (fun s x => AsksOnly.sendRequest s _ _ _ _ _ _ _ _ (by decide)) _ _).trans
            (AsksOnly.draw _)).trans (ih _ _ h)

/-- What an engine does with a COPY_D2H once its tokens are drawn. -/
def State.dataOut (s : State) (e : Nat) (ctx : BitVec 12) (c : Cmd) : State :=
  match s.getRows (.copyEngine (BitVec.ofNat 4 e)) ctx 1 c.deviceRows [] with
  | (.err err s, _) => s.xferStop e err
  | (.ok s, b) =>
    let f := s.owner ctx.toNat
    let n := (c.arg 2).toNat
    let (w, s) := s.draw
    let s := s.send (.hostWrite f (c.arg 1) b (s.host.roEn && w.getLsbD 0))
    let s := s.send (.hostRead f (c.arg 1 + word (n - 4)) 4)
    let s := s.setEngine e { s.engine e with moved := n, tick := word (s.tick.confirmed - 1) }
    s.modCmd ctx.toNat c.seq fun x => { x with stage := .flush (BitVec.ofNat 4 e) }

section
variable {s : State} {ctx : BitVec 12} {c : Cmd} {e : BitVec 4} {b : List Byte}

theorem copyD2h_eq (hc : s.cmd ctx.toNat c.seq = some c) (hf : s.fenced ctx.toNat c.seq = false) (hop : c.op = 3)
    (hst : c.stage = .moving e) (hm : (s.engine e.toNat).moved = 0)
    (hd : s.host.d3.getLsbD (s.owner ctx.toNat).toNat = false) :
    execCopyD2h ctx c.seq s =
      .next (whenLet (s.rowsAsk (.copyEngine e) ctx c.deviceRows) fun s => s.dataOut e.toNat ctx c) := by
  have h : execCopyD2h ctx c.seq s = .next (whenLet (s.rowsAsk (.copyEngine (BitVec.ofNat 4 e.toNat)) ctx c.deviceRows)
      fun s => s.dataOut e.toNat ctx c) := by
    unfold execCopyD2h
    rw [moving_eq hc hop hst hm hd]
    exact congrArg Host.Outcome.next (if_neg (by rw [hf]; decide))
  rw [ofNat_engine] at h
  exact h

theorem dataOut_spec {u : State} (hc : s.cmd ctx.toNat c.seq = some c)
    (hget : s.getRows (.copyEngine e) ctx 1 c.deviceRows [] = (.ok u, b)) :
    let t := s.dataOut e.toNat ctx c
    let f := s.owner ctx.toNat
    let n := (c.arg 2).toNat
    t.sent = .hostRead f (c.arg 1 + BitVec.ofNat 64 (n - 4)) 4 ::
      .hostWrite f (c.arg 1) b (s.host.roEn && u.draw.1.getLsbD 0) :: u.sent ∧
    (t.engine e.toNat).moved = n ∧ (t.engine e.toNat).tick = BitVec.ofNat 64 (s.tick.confirmed - 1) ∧
    t.cmd ctx.toNat c.seq = some { c with stage := .flush e } ∧ t.mem = u.mem := by
  obtain ⟨⟨hhost, hseg⟩, htick, -⟩ := (getRows_asksOnly _ _ _ hget).kept
  have hown : s.owner ctx.toNat = u.owner ctx.toNat := by
    unfold State.owner
    rw [hseg]
  have hcu : u.cmd ctx.toNat c.seq = some c := by
    unfold State.cmd State.hctx at hc ⊢
    rw [hhost]
    exact hc
  unfold State.dataOut
  rw [ofNat_engine, hget, hown, ← htick, ← hhost]
  dsimp only
  refine ⟨rfl, ?_, ?_, State.cmd_modCmd (fun _ => rfl) hcu, rfl⟩
  · exact congrArg CopyEngine.moved (State.engine_setEngine_same ..)
  · exact congrArg CopyEngine.tick (State.engine_setEngine_same ..)

theorem flushReadDone_spec (hc : s.cmd ctx.toNat c.seq = some c) (hf : s.fenced ctx.toNat c.seq = false)
    (ho : (s.hctx ctx.toNat).orphaned = false) (hop : c.op = 3) (hst : c.stage = .flush e)
    (hbusy : (s.engine e.toNat).busy = true) (hctx : (s.engine e.toNat).ctx = ctx)
    (hseq : (s.engine e.toNat).seq = c.seq) :
    ∃ v t, execFlushReadDone e s = .next t ∧
      Completed ctx c 0 0 (s.engine e.toNat).tick (BitVec.ofNat 64 (s.engine e.toNat).moved) v t ∧
      v = { s with host := { s.host with ctxs := v.host.ctxs } } ∧
      (v.hctx ctx.toNat).bytesOut = (s.hctx ctx.toNat).bytesOut + (s.engine e.toNat).moved := by
  have hsame := State.hctx_modHctx_same s ctx.toNat fun h =>
      { h with bytesOut := h.bytesOut + (s.engine e.toNat).moved }
  have hx : execFlushReadDone e s = .next
      ((s.modHctx ctx.toNat fun h => { h with bytesOut := h.bytesOut + (s.engine e.toNat).moved }).complete ctx.toNat c
        0 0 (s.engine e.toNat).tick (word (s.engine e.toNat).moved)) := by
    unfold execFlushReadDone
    dsimp only
    rw [hctx, hseq, hc]
    exact congrArg Host.Outcome.next (if_pos ⟨hbusy, hop, hst⟩)
  refine ⟨_, _, hx, complete_completed 0 0 _ _ ?_ ?_ ?_, rfl, ?_⟩
  · exact (fenced_of_cmds (by rw [hsame])).trans hf
  · rw [hsame]
    exact ho
  · rw [hop]
    decide
  · rw [hsame]

end

/-! ### A copy that an error stops -/

section
variable {s t u : State}

theorem HostKept.trans (h : HostKept s t) (g : HostKept t u) : HostKept s u :=
  ⟨g.host.trans h.host, g.seg.trans h.seg⟩

theorem HostKept.emcyNext (s : State) : HostKept s s.emcyNext := by
  unfold State.emcyNext
  split <;> exact ⟨rfl, rfl⟩

theorem HostKept.setDict (s : State) (d : DictUnit) : HostKept s { s with dict := d } := ⟨rfl, rfl⟩

theorem HostKept.emcy (s : State) (code : BitVec 16) (b n : Option Nat) : HostKept s (s.emcy code b n) := by
  have htail (s : State) : HostKept s (if s.canTalk then
      let s := { s with dict := { s.dict with emcy := s.dict.emcy ++ [(code, b.getD 8, n)] } }
      if s.dict.inhibit then s else s.emcyNext
    else s) := by
    split
    · dsimp only
      split
      · exact ⟨rfl, rfl⟩
      · exact (HostKept.setDict s _).trans (HostKept.emcyNext _)
    · exact HostKept.refl s
  unfold State.emcy
  cases b with
  | none => exact htail s
  | some b => exact (HostKept.setDict s _).trans (htail _)

theorem HostKept.recordEmcy (s : State) (code : BitVec 16) (n : Nat) : HostKept s (s.recordEmcy code n) := by
  unfold State.recordEmcy
  split
  · exact HostKept.emcy _ _ _ _
  · split
    · exact HostKept.emcy _ _ _ _
    · split
      · exact HostKept.emcy _ _ _ _
      · exact HostKept.refl s

theorem HostKept.setRing (s : State) (r : Ring) : HostKept s (s.setRing r) := ⟨rfl, rfl⟩

theorem HostKept.ringLose (s : State) : HostKept s s.ringLose := by
  unfold State.ringLose
  exact (HostKept.setRing s _).trans (HostKept.emcy _ _ _ _)

/-- A report that the ring does not write interrupts no host. -/
theorem report_hostKept {s : State} (rep : Report) (ref : Option Nat) (h : s.census.ring.en = false) :
    HostKept s (s.report rep ref) := by
  unfold State.report
  extract_lets r hrep s1 t l u v s2
  rw [if_neg (by rw [h]; decide)]
  have h1 : HostKept s s1 := ⟨rfl, rfl⟩
  have h2 : HostKept s s2 := by
    change HostKept s (if _ then _ else _)
    split
    · exact (h1.trans (HostKept.ringLose _)).trans ⟨rfl, rfl⟩
    · exact h1.trans ⟨rfl, rfl⟩
  exact h2.trans (HostKept.recordEmcy _ _ _)

/-- The record of an engine's stop, where the error has one (R451). -/
def State.stopReport (s : State) (g : CopyEngine) (c : Cmd) (e : Nat) (err : RespErr) : State :=
  match errCode err with
  | some code => s.report { blankReport with
      code := 0x34, unit := 4, unitno := BitVec.ofNat 16 e, wtn := s.tick.wtn
      context := g.ctx.setWidth 16, d0 := code, d1 := c.seq.setWidth 64 }
  | none => s

theorem stopReport_spec (s : State) (g : CopyEngine) (c : Cmd) (e : Nat) (err : RespErr) (hen : s.census.ring.en =
    false) :
    let t := s.stopReport g c e err
    HostKept s t ∧ t.tick = s.tick ∧ t.carrels = s.carrels ∧ t.mem = s.mem ∧
      t.census.ring.num = s.census.ring.num + if err = .host then 0 else 1 := by
  have hrep (rep : Report) : HostKept s (s.report rep) ∧ (s.report rep).tick = s.tick ∧
      (s.report rep).carrels = s.carrels ∧ (s.report rep).mem = s.mem ∧
      (s.report rep).census.ring.num = s.census.ring.num + 1 := by
    have hr := State.report_spec s rep none
    refine ⟨report_hostKept rep none hen, ?_, hr.carrels, (report_sameMem rep none hen).1, hr.num⟩
    obtain ⟨_, _, _, _, _, _, _, _, he, _⟩ := hr
    rw [he]
  cases err with
  | host => exact ⟨HostKept.refl s, rfl, rfl, rfl, rfl⟩
  | unmapped => exact hrep _
  | uncorrectable => exact hrep _
  | noRoute => exact hrep _
  | translation => exact hrep _

variable {ctx : BitVec 12} {c : Cmd} {e : BitVec 4}

theorem xferStop_eq (err : RespErr) (hc : s.cmd ctx.toNat c.seq = some c) (he : c.engine = some e.toNat)
    (hbusy : (s.engine e.toNat).busy = true) (hctx : (s.engine e.toNat).ctx = ctx)
    (hseq : (s.engine e.toNat).seq = c.seq) :
    let u := s.stopReport (s.engine e.toNat) c e.toNat err
    s.xferStop e.toNat err =
      (u.forget (.copyEngine e)).complete ctx.toNat c (errStatus err).1 (errStatus err).2 u.tick.no 0 := by
  unfold State.xferStop
  dsimp only
  rw [hctx, hseq, hc, ofNat_engine]
  refine (if_pos ⟨hbusy, he⟩).trans ?_
  unfold State.stopReport
  rw [hctx] <;> rfl

theorem forget_open (s : State) (who : Requester) : ∀ x ∈ (s.forget who).chain.open_, x.2 ≠ who :=
  fun _ hx => of_decide_eq_true (List.mem_filter.mp hx).2

end

end Sys2Proof.Machine

namespace Sys2Proof
open Machine

/-- Settles O45: a copy's engine is named by its stage; the tokens and the requests over the links change nothing that
the host's commands see, and neither does a report while the ring is off. -/
theorem hostCopies : Obligations.HostCopies := by
  unfold Obligations.HostCopies
  intro ctx c e s g f n ask hc hf ho
  have hask : TokensOnly s ask.2 := askHbm_tokensOnly ..
  refine ⟨fun hnext hmin hidle hopen => ?_, fun hop hst hm hd => copyH2d_eq hc hop hst hm hd,
    fun b hop hst hbusy hctx hseq hlen hno => ?_, fun b u hop hst hbusy hctx hseq hlen hyes hput hu hno => ?_,
    fun hop hst hm hd hno => ?_, fun b u hop hst hm hd hyes hget => ?_,
    fun hop hst hbusy hctx hseq => flushReadDone_spec hc hf ho hop hst hbusy hctx hseq,
    fun err hop hst hbusy hctx hseq hen => ?_⟩
  · obtain ⟨hsame, hother⟩ := engine_grant s ctx.toNat c.seq (fun x => { x with stage := .moving e }) e.toNat
      (s.grantedEngine ctx c)
    refine ⟨_, grant_eq hnext hmin hidle hopen, ?_, ?_, ?_, ?_, hother, rfl⟩ <;> rw [hsame] <;> rfl
  · exact (readCompletion_eq hc hop hst hbusy hctx hseq hlen).trans
      (congrArg Host.Outcome.next (if_neg (by rw [hno]; decide)))
  · have hk : HostKept s u := hask.hostKept.setMem hu
    have htick : u.tick.no = s.tick.no := by rw [hu, hask.rest]
    have hcpl := dataIn_spec hput hno hop ((hk.fenced _ _).trans hf) ((congrArg HostCtx.orphaned (hk.hctx _)).trans ho)
    rw [htick] at hcpl
    refine ⟨_, _, (readCompletion_eq hc hop hst hbusy hctx hseq hlen).trans
      (congrArg Host.Outcome.next (if_pos hyes)), hcpl, ?_, ?_⟩
    · rw [← hk.host]
      exact copiedIn_host u _ _
    · rw [copiedIn_hctx, hk.hctx]
  · exact (copyD2h_eq hc hf hop hst hm hd).trans (congrArg Host.Outcome.next (if_neg (by rw [hno]; decide)))
  · refine ⟨_, (copyD2h_eq hc hf hop hst hm hd).trans (congrArg Host.Outcome.next (if_pos hyes)), ?_⟩
    have hcu : ask.2.cmd ctx.toNat c.seq = some c := by
      unfold State.cmd at hc ⊢
      rw [hask.hostKept.hctx]
      exact hc
    have h := dataOut_spec hcu hget
    dsimp only at h
    have hown : ask.2.owner ctx.toNat = s.owner ctx.toNat := by
      unfold State.owner
      rw [hask.hostKept.seg]
    have htick : ask.2.tick = s.tick := by rw [hask.rest]
    rw [hown, hask.hostKept.host, htick] at h
    exact h
  · have he : c.engine = some e.toNat := by
      unfold Cmd.engine
      rcases hst with h | h <;> rw [h]
    obtain ⟨hk, htick, hcar, hmem, hnum⟩ := stopReport_spec s (s.engine e.toNat) c e.toNat err hen
    have hcpl := complete_completed (s := (s.stopReport (s.engine e.toNat) c e.toNat err).forget (.copyEngine e))
      (errStatus err).1 (errStatus err).2 (s.stopReport (s.engine e.toNat) c e.toNat err).tick.no 0
      ((hk.fenced _ _).trans hf) ((congrArg HostCtx.orphaned (hk.hctx _)).trans ho) hop
    refine ⟨(s.stopReport (s.engine e.toNat) c e.toNat err).forget (.copyEngine e), _,
      congrArg Host.Outcome.next (xferStop_eq err hc he hbusy hctx hseq), ?_, hnum, forget_open _ _, hcar,
      hmem⟩
    rw [htick] at hcpl ⊢
    cases err <;> exact hcpl

end Sys2Proof
end

section
/-!
# Loading a plan and stopping a load
-/
namespace Sys2Proof.Machine

/-! ### A slot that is freed -/

section
variable {α : Type} {n : Nat} {P : Nat × α → Bool}

theorem Tab.find?_erase : ∀ t : Tab α, (∀ y ∈ t, y.1 = n → P y = false) → (Tab.erase t n).find? P = List.find? P t := by
  intro t
  induction t with
  | nil => exact fun _ => rfl
  | cons z l ih =>
    intro h
    obtain ⟨k, v⟩ := z
    have hl := ih fun y hy => h y (List.mem_cons_of_mem _ hy)
    unfold Tab.erase
    split
    · next hk =>
      rw [hl, List.find?_cons_of_neg (by rw [h (k, v) List.mem_cons_self hk.symm]; decide)]
    · rw [List.find?_cons, List.find?_cons, hl]

/-- A value set where no entry of its key counts, and that does not count itself. -/
theorem Tab.find?_set [DecidableEq α] {d x : α} {t : Tab α} (hx : P (n, x) = false) (h : ∀ y ∈ t, y.1 = n → P y =
    false) :
    (Tab.set d t n x).find? P = List.find? P t := by
  unfold Tab.set
  split
  · exact Tab.find?_erase t h
  · exact Tab.find?_insert_other hx t h

theorem Tab.lt_of_pairwise_cons {k : Nat} {v : α} {l : Tab α}
    (h : (((k, v) :: l : Tab α).map (·.1)).Pairwise (· < ·)) {y : Nat × α} (hy : y ∈ l) : k < y.1 :=
  List.rel_of_pairwise_cons h (List.mem_map_of_mem hy)

theorem Tab.eq_of_mem_insert {x : α} : ∀ t : Tab α, (t.map (·.1)).Pairwise (· < ·) → ∀ y ∈ Tab.insert t n x, y.1 = n →
    y = (n, x) := by
  intro t
  induction t with
  | nil => exact fun _ y hy _ => List.mem_singleton.mp hy
  | cons z l ih =>
    intro h y hy hn
    obtain ⟨k, v⟩ := z
    unfold Tab.insert at hy
    split at hy
    · next hk =>
      rcases List.mem_cons.mp hy with rfl | hy
      · rfl
      · have := Tab.lt_of_pairwise_cons h hy
        omega
    · split at hy
      · rcases List.mem_cons.mp hy with rfl | hy
        · rfl
        · rcases List.mem_cons.mp hy with rfl | hy
          · dsimp only at hn
            omega
          · have := Tab.lt_of_pairwise_cons h hy
            omega
      · rcases List.mem_cons.mp hy with rfl | hy
        · dsimp only at hn
          omega
        · exact ih (List.Pairwise.of_cons h) y hy hn

end


theorem Tab.ne_of_mem_erase {α : Type} {n : Nat} : ∀ t : Tab α, ∀ y ∈ Tab.erase t n, y.1 ≠ n := by
  intro t
  induction t with
  | nil => exact fun y hy => by cases hy
  | cons z l ih =>
    intro y hy
    obtain ⟨k, v⟩ := z
    unfold Tab.erase at hy
    split at hy
    · exact ih y hy
    · next hk =>
      rcases List.mem_cons.mp hy with rfl | hy
      · exact fun h => hk h.symm
      · exact ih y hy

theorem Tab.get_map_upto {α : Type} (d : α) (f : Nat → α) {n q : Nat} (h : q < n) :
    Tab.get d ((upto n).map fun i => (i, f i)) q = f q := by
  have hall (l : List Nat) : q ∈ l → Tab.get d (l.map fun i => (i, f i)) q = f q := by
    induction l with
    | nil => exact fun h => by cases h
    | cons k l ih =>
      intro hq
      rw [List.map_cons, Tab.get_cons]
      by_cases hk : q = k
      · rw [if_pos hk, hk]
      · rw [if_neg hk]
        exact ih ((List.mem_cons.mp hq).resolve_left hk)
  exact hall _ (List.mem_range.mpr h)

section
variable {s t : State} {i j : Nat} {q : Plan}

theorem State.plan_congr (h : t.plans = s.plans) (j : Nat) : t.plan j = s.plan j := by
  unfold State.plan
  rw [h]

theorem State.putPlan_plans_congr (h : t.plans = s.plans) : (t.putPlan i q).plans = (s.putPlan i q).plans :=
  congrArg (fun l => Tab.set Plan.blank l i q) h

theorem State.plan_eq (s : State) (i : Nat) :
    s.plan i = (s.plans.find? fun y => decide (y.1 = i) && y.2.present).map (·.2) := rfl

/-- A freed slot shows no plan; the others show theirs. -/
theorem State.plan_putPlan_freed (hq : q.state = .free) (h : j ≠ i ∨ s.plan i = none) :
    (s.putPlan i q).plan j = s.plan j := by
  have hno : q.present = false := by
    unfold Plan.present
    rw [hq]
    rfl
  rw [State.plan_eq] at h ⊢
  rw [State.plan_eq]
  refine congrArg (Option.map _) (Tab.find?_set ?_ fun y hy hi => ?_)
  · rw [hno, Bool.and_false]
  · rcases h with h | h
    · rw [decide_eq_false (fun hj => h (hj.symm.trans hi)), Bool.false_and]
    · have hy' := List.find?_eq_none.mp (Option.map_eq_none_iff.mp h) y hy
      by_cases hj : y.1 = j
      · have hji : j = i := hj.symm.trans hi
        rw [hji]
        exact Bool.eq_false_iff.mpr hy'
      · rw [decide_eq_false hj, Bool.false_and]

theorem State.plan_putPlan_freed_same (hq : q.state = .free) (hs : (s.plans.map (·.1)).Pairwise (· < ·)) :
    (s.putPlan i q).plan i = none := by
  rw [State.plan_eq, Option.map_eq_none_iff, List.find?_eq_none]
  unfold State.putPlan Tab.set
  intro y hy
  split at hy
  · rw [decide_eq_false (Tab.ne_of_mem_erase _ y hy), Bool.false_and]
    exact Bool.false_ne_true
  · by_cases hi : y.1 = i
    · rw [Tab.eq_of_mem_insert _ hs y hy hi]
      unfold Plan.present
      rw [hq, decide_eq_true rfl]
      decide
    · rw [decide_eq_false hi, Bool.false_and]
      exact Bool.false_ne_true

/-! ### A load begins -/

variable {ctx : BitVec 12} {c : Cmd}

theorem begunPlan_ne_blank : begunPlan ctx c ≠ Plan.blank := fun h => by
  have := congrArg Plan.state h
  cases this

/-- A state that holds the begun load in slot `i`, and whose host, segments, tick and carrels are untouched. -/
structure HasBegun (s : State) (ctx : BitVec 12) (c : Cmd) (i : Nat) (v : State) : Prop where
  plans : v.plans = (s.putPlan i (begunPlan ctx c)).plans
  host : HostKept (s.loadBegin ctx c) v
  tick : v.tick = s.tick
  carrels : v.carrels = s.carrels

theorem hasBegun (hi : s.freeSlot = some i) : HasBegun s ctx c i (s.loadBegin ctx c) := by
  rw [loadBegin_eq hi]
  exact ⟨rfl, by rw [loadBegin_eq hi]; exact HostKept.refl _, rfl, rfl⟩

theorem HasBegun.tokens (h : HasBegun s ctx c i t) {v : State} (ht : TokensOnly t v) : HasBegun s ctx c i v := by
  refine ⟨?_, h.host.trans ht.hostKept, ?_, ?_⟩
  · rw [ht.rest]
    exact h.plans
  · rw [ht.rest]
    exact h.tick
  · rw [ht.rest]
    exact h.carrels

theorem HasBegun.fresh (h : HasBegun s ctx c i t) {v : State} (hv : v = { t with fresh := v.fresh }) :
    HasBegun s ctx c i v := by
  rw [hv]
  exact ⟨h.plans, h.host.trans ⟨rfl, rfl⟩, h.tick, h.carrels⟩

theorem HasBegun.mem (h : HasBegun s ctx c i t) {v : State} (hv : v = { t with mem := v.mem }) :
    HasBegun s ctx c i v := by
  rw [hv]
  exact ⟨h.plans, h.host.trans ⟨rfl, rfl⟩, h.tick, h.carrels⟩

theorem HasBegun.loadingSlot {v : State} (h : HasBegun s ctx c i v) (hno : s.loadingSlot = none) :
    v.loadingSlot = some (i, begunPlan ctx c) := by
  unfold State.loadingSlot at *
  rw [h.plans]
  unfold State.putPlan Tab.set
  rw [if_neg begunPlan_ne_blank]
  exact Tab.find?_insert_same rfl _ fun y hy => Bool.eq_false_iff.mpr (List.find?_eq_none.mp hno y hy)

theorem loadBegin_fenced (hi : s.freeSlot = some i) (q : BitVec 32) :
    (s.loadBegin ctx c).fenced ctx.toNat q = s.fenced ctx.toNat q := by
  rw [loadBegin_eq hi]
  refine fenced_of_map (f := fun x : Cmd => if x.seq = c.seq then { x with stage := .ready } else x)
    (fun x => ?_) (fun x => ?_) (congrArg HostCtx.cmds (State.hctx_modHctx_same ..))
  · rw [apply_ite Cmd.seq, ite_self]
  · rw [apply_ite Cmd.isFence]
    exact ite_self _

theorem loadBegin_orphaned (hi : s.freeSlot = some i) :
    ((s.loadBegin ctx c).hctx ctx.toNat).orphaned = (s.hctx ctx.toNat).orphaned := by
  rw [loadBegin_eq hi]
  unfold State.modCmd
  rw [State.hctx_modHctx_same]
  rfl

/-- A load that has begun completes. -/
theorem HasBegun.completes {u : State} (hk : HostKept (s.loadBegin ctx c) u) (h : Taken s ctx c 8)
    (hi : s.freeSlot = some i) (status detail : Nat) (tick value : Word) :
    Completed ctx { c with stage := .ready } status detail tick value u
      (u.complete ctx.toNat { c with stage := .ready } status detail tick value) := by
  obtain ⟨-, hc, -, -, -, hf, ho⟩ := h
  refine complete_completed status detail tick value ((hk.fenced _ _).trans ((loadBegin_fenced hi _).trans hf))
    ((congrArg HostCtx.orphaned (hk.hctx _)).trans ((loadBegin_orphaned hi).trans ho)) ?_
  show c.op ≠ 0x10
  rw [hc]
  decide

/-- What the loader does once its tokens are drawn. -/
def State.loaded (s : State) (ctx : BitVec 12) (c : Cmd) : State :=
  match s.readImage ctx c with
  | (.err e s, _) => s.loadStop ctx c e
  | (.ok s, b) =>
    match s.refusal ctx b with
    | some code => (if s.loadingSlot.isSome then s.freeLoading code else s).complete ctx.toNat c 1 code s.tick.no 0
    | none =>
      match s.loadingSlot with
      | none => s
      | some (slot, p) =>
        let x := planImage b
        match s.loadWrites ctx c.seq x.ownPieces with
        | .err e s => s.loadStop ctx c e
        | .ok s => s.accept ctx c slot p x

theorem load_eq (s : State) (ctx : BitVec 12) (c : Cmd) :
    s.load ctx c = whenLet (s.rowsAsk (.loader ctx c.seq 0) ctx (s.loadRows ctx c)) fun s => s.loaded ctx c := by
  unfold State.load
  refine congrArg (whenLet _) (funext fun s => ?_)
  unfold State.loaded
  obtain ⟨m, b⟩ := s.readImage ctx c
  cases m with
  | err e s => rfl
  | ok s =>
    dsimp only <;> (
      cases s.refusal ctx b with
      | some code => rfl
      | none =>
        dsimp only
        cases s.loadingSlot with
        | none => rfl
        | some y =>
          obtain ⟨slot, p⟩ := y
          dsimp only
          cases s.loadWrites ctx c.seq (planImage b).ownPieces <;> rfl)

theorem planLoad_waits (h : Taken s ctx c 8) (hst : c.stage = .waiting)
    (hw : s.loadingSlot ≠ none ∨ s.loadFirst ctx c = false) : execPlanLoad ctx c.seq s = .next s :=
  congrArg Host.Outcome.next ((act_taken _ h).trans ((if_pos hst).trans (if_pos (load_waits hw))))

theorem planLoad_begins (h : Taken s ctx c 8) (hst : c.stage = .waiting) (hno : s.loadingSlot = none)
    (hfirst : s.loadFirst ctx c = true) :
    execPlanLoad ctx c.seq s = .next (whenLet
      ((s.loadBegin ctx c).rowsAsk (.loader ctx c.seq 0) ctx ((s.loadBegin ctx c).loadRows ctx
          { c with stage := .ready }))
      fun s => s.loaded ctx { c with stage := .ready }) := by
  have hgo : ¬ (s.loadingSlot.isSome ∨ s.loadFirst ctx c = false) := by simp [hno, hfirst]
  exact congrArg Host.Outcome.next ((act_taken _ h).trans ((if_pos hst).trans ((if_neg hgo).trans (load_eq ..))))

/-! ### An image that is refused -/

/-- What a refused or stopped load leaves in its slot (R48). -/
def freedPlan (code : Nat) (ctx : BitVec 12) : Plan :=
  { Plan.blank with reason := BitVec.ofNat 8 code, ctx := ctx }

theorem loaded_refused {u v : State} {b : List Byte} {code : Nat} (hread : u.readImage ctx c = (.ok v, b))
    (href : v.refusal ctx b = some code) {p : Plan} (hs : v.loadingSlot = some (i, p)) :
    u.loaded ctx c = (v.putPlan i (freedPlan code p.ctx)).complete ctx.toNat c 1 code v.tick.no 0 := by
  unfold State.loaded
  rw [hread]
  dsimp only
  rw [href]
  dsimp only
  unfold State.freeLoading
  rw [hs]
  rfl

theorem plan_refused {v : State} (h : HasBegun s ctx c i v) (hi : s.freeSlot = some i) (hq : q.state =
    .free) (j : Nat) :
    (v.putPlan i q).plan j = s.plan j := by
  have hplans : (v.putPlan i q).plans = (s.putPlan i q).plans := by
    unfold State.putPlan
    dsimp only
    rw [h.plans]
    exact Tab.set_set _ _ _ begunPlan_ne_blank
  rw [State.plan_congr hplans]
  exact State.plan_putPlan_freed hq (Or.inr (freeSlot_free hi))

end


/-! ### An accepted plan -/

/-- The state of an acceptance in which its command completes. -/
def State.accepted (s : State) (ctx : BitVec 12) (slot : Nat) (p : Plan) (x : PlanImage) : State :=
  let s := x.shelf.foldl (fun s ((k, d) : Nat × List Byte) => s.setBytes (shelfBase k) d) s
  let s := s.zeroRngs x.marginRngs
  let s := x.img.set.foldl (fun s k => s.takeCarrel slot ctx k) s
  let s := match x.img.training with | some t => s.newTags ctx t | none => s
  s.putPlan slot { p with
    state := .ready, img := { s.followAll ctx.toNat x.img with uses := s.planUses ctx x.img }, fresh := true,
        digest := x.digest }

/-- Only memory, carrels and gauges are what a load changes before its plan is in its slot. -/
def LoadKept (s t : State) : Prop := ∃ m cs gs, t = { s with mem := m, carrels := cs, gauges := gs }

namespace LoadKept

theorem refl (s : State) : LoadKept s s := ⟨_, _, _, rfl⟩

theorem trans {s t u : State} (h : LoadKept s t) (g : LoadKept t u) : LoadKept s u := by
  obtain ⟨_, _, _, rfl⟩ := h
  obtain ⟨m, cs, gs, rfl⟩ := g
  exact ⟨m, cs, gs, rfl⟩

theorem foldl {α : Type} {f : State → α → State} (hf : ∀ s x, LoadKept s (f s x)) (l : List α) (s : State) :
    LoadKept s (l.foldl f s) :=
  List.foldlRecOn (motive := LoadKept s) l f (refl s) fun t ht x _ => ht.trans (hf t x)

theorem setBytes (s : State) (a : Nat) (l : List Byte) : LoadKept s (s.setBytes a l) := by
  rw [State.setBytes_eq]
  exact ⟨_, _, _, rfl⟩

theorem takeCarrel (s : State) (slot : Nat) (ctx : BitVec 12) (c : Nat) : LoadKept s (s.takeCarrel slot ctx c) :=
  ⟨_, _, _, rfl⟩

theorem kept {s t : State} (h : LoadKept s t) : HostKept s t ∧ t.plans = s.plans ∧ t.tick = s.tick := by
  obtain ⟨_, _, _, rfl⟩ := h
  exact ⟨⟨rfl, rfl⟩, rfl, rfl⟩

end LoadKept

/-- Gauges alone. -/
def GaugesOnly (s t : State) : Prop := ∃ g, t = { s with gauges := g }

theorem newTags_gaugesOnly (s : State) (ctx : BitVec 12) (t : Training) : GaugesOnly s (s.newTags ctx t) := by
  unfold State.newTags
  refine List.foldlRecOn (motive := GaugesOnly s) _ _ ⟨s.gauges, rfl⟩ fun u hu y _ => ?_
  have hmod (i : Nat) (f : GaugeSet → GaugeSet) : GaugesOnly s (u.modGauge i f) := by
    obtain ⟨g, rfl⟩ := hu
    exact ⟨_, rfl⟩
  dsimp only
  split
  · split
    · exact hu
    · exact hmod _ _
  · exact hu

theorem follow_set (m : Image) (f : Follow) (v : List Byte) : (m.follow f v).set = m.set := by
  unfold Image.follow
  split <;> rfl

theorem followAll_set (s : State) (ctx : Nat) (m : Image) : (s.followAll ctx m).set = m.set := by
  unfold State.followAll
  cases m.training with
  | none => rfl
  | some t =>
    refine List.foldlRecOn (motive := fun x : Image => x.set = m.set) _ _ rfl fun x hx f _ => ?_
    dsimp only
    split
    · exact (follow_set ..).trans hx
    · exact hx

/-- A carrel that a load has bound to its plan (R38, R119, R215, R373). -/
structure BoundTo (s : State) (i : Nat) (ctx : BitVec 12) (j : Carrel) : Prop where
  plan : j.plan = some (BitVec.ofNat 8 i)
  owner : j.ctx = ctx
  icache : j.icache = []
  dcache : j.dcache = []
  nan : j.nan = NanRec.reset
  wait : j.wait = .rest
  fast : j.fast = Tab.get false s.seg.fast ctx.toNat
  desc : ∀ q, q < 128 → Tab.get none j.desc q = some (s.tableAt ctx.toNat (q % 16))

section
variable {s t : State} {i : Nat} {ctx : BitVec 12}

theorem takeCarrel_same (s : State) (i : Nat) (ctx : BitVec 12) (c : Nat) :
    BoundTo s i ctx ((s.takeCarrel i ctx c).carrel (BitVec.ofNat 12 c)) := by
  unfold State.takeCarrel State.fillCaches
  dsimp only
  rw [State.carrel_modCarrel_same, State.carrel_modCarrel_same]
  exact ⟨rfl, rfl, rfl, rfl, rfl, rfl, rfl, fun q hq => Tab.get_map_upto none _ hq⟩

theorem takeCarrel_other (s : State) (i : Nat) (ctx : BitVec 12) (c : Nat) {d : BitVec 12} (h : d ≠ BitVec.ofNat 12 c) :
    (s.takeCarrel i ctx c).carrel d = s.carrel d := by
  unfold State.takeCarrel State.fillCaches
  dsimp only
  rw [State.carrel_modCarrel_other _ _ h, State.carrel_modCarrel_other _ _ h]

theorem BoundTo.of_seg {j : Carrel} (h : BoundTo t i ctx j) (hseg : t.seg = s.seg) : BoundTo s i ctx j := by
  obtain ⟨h1, h2, h3, h4, h5, h6, h7, h8⟩ := h
  refine ⟨h1, h2, h3, h4, h5, h6, h7.trans (by rw [hseg]), fun q hq => (h8 q hq).trans ?_⟩
  unfold State.tableAt
  rw [hseg]

theorem takeCarrels_bound (l : List Nat) : ∀ (s : State), ∀ k ∈ l,
    BoundTo s i ctx ((l.foldl (fun s k => s.takeCarrel i ctx k) s).carrel (BitVec.ofNat 12 k)) := by
  have hkeep (l : List Nat) (s : State) (d : BitVec 12) (h : BoundTo s i ctx (s.carrel d)) :
      BoundTo s i ctx ((l.foldl (fun s k => s.takeCarrel i ctx k) s).carrel d) := by
    have hall := List.foldlRecOn (motive := fun u : State => u.seg = s.seg ∧ BoundTo s i ctx (u.carrel d)) l
      (fun s k => s.takeCarrel i ctx k) ⟨rfl, h⟩ fun u ⟨hu, hb⟩ c _ => by
        refine ⟨hu, ?_⟩
        by_cases hd : d = BitVec.ofNat 12 c
        · rw [hd]
          exact (takeCarrel_same u i ctx c).of_seg hu
        · rw [takeCarrel_other u i ctx c hd]
          exact hb
    exact hall.2
  induction l with
  | nil => exact fun _ _ h => by cases h
  | cons c l ih =>
    intro s k hk
    rcases List.mem_cons.mp hk with rfl | hk
    · refine (hkeep l (s.takeCarrel i ctx k) _ ?_).of_seg (s := s) rfl
      exact (takeCarrel_same s i ctx k).of_seg (t := s) rfl
    · exact (ih (s.takeCarrel i ctx c) k hk).of_seg (s := s) rfl

/-! ### The shelf stage -/

/-- The bytes of a shelf image lie in its carrel's shelf. -/
def onShelf (y : Nat × List Byte) : Prop := y.1 < 4096 ∧ y.2.length ≤ 0x40000

theorem shelves_byte (l : List (Nat × List Byte)) : ∀ s : State, (l.map (·.1)).Nodup → (∀ y ∈ l, onShelf y) →
    let t := l.foldl (fun s ((k, d) : Nat × List Byte) => s.setBytes (shelfBase k) d) s
    (∀ y ∈ l, ∀ j, j < y.2.length → t.byte (shelfBase y.1 + j) = y.2.getD j 0) ∧
      ∀ k, k < 4096 → k ∉ l.map (·.1) → ∀ j, j < 0x40000 → t.byte (shelfBase k + j) = s.byte (shelfBase k + j) := by
  induction l with
  | nil => exact fun s _ _ => ⟨(fun y hy => by cases hy), fun _ _ _ _ _ => rfl⟩
  | cons z l ih =>
    intro s hnd hlen
    obtain ⟨hz, hnd⟩ := List.nodup_cons.mp hnd
    obtain ⟨hin, hout⟩ := ih (s.setBytes (shelfBase z.1) z.2) hnd fun y hy => hlen y (List.mem_cons_of_mem _ hy)
    obtain ⟨hk, hl⟩ := hlen z List.mem_cons_self
    refine ⟨fun y hy j hj => ?_, fun k hk' hno j hj => ?_⟩
    · rcases List.mem_cons.mp hy with rfl | hy
      · refine (hout y.1 hk hz j (by omega)).trans ?_
        rw [State.byte_setBytes, if_pos (by omega), Nat.add_sub_cancel_left]
      · exact hin y hy j hj
    · obtain ⟨hne, hno⟩ := not_or.mp (fun h => hno (List.mem_cons.mpr h))
      dsimp only at hne
      refine (hout k hk' hno j hj).trans ?_
      rw [State.byte_setBytes, if_neg]
      unfold shelfBase
      omega

theorem zeroRngs_byte {l : List Rng} {a : Nat} (h : ∀ r ∈ l, a < r.1) (s : State) :
    (s.zeroRngs l).byte a = s.byte a := by
  refine List.foldlRecOn (motive := fun t : State => t.byte a = s.byte a) _ _ rfl fun u hu r hr => ?_
  have := h r hr
  rw [State.byte_setBytes, if_neg (by omega)]
  exact hu

theorem shelf_lt_margin (x : PlanImage) {k j : Nat} (hk : k < 4096) (hj : j < 0x40000) :
    ∀ r ∈ x.marginRngs, shelfBase k + j < r.1 := by
  intro r hr
  obtain ⟨y, -, rfl⟩ := List.mem_map.mp hr
  unfold shelfBase marginBase
  dsimp only
  omega

end


section
variable {s : State} {i : Nat} {ctx : BitVec 12} {p : Plan} {x : PlanImage}

/-- The shelf stage with its carrels taken, before the gauges and the plan. -/
def State.staged (s : State) (ctx : BitVec 12) (slot : Nat) (x : PlanImage) : State :=
  x.img.set.foldl (fun s k => s.takeCarrel slot ctx k)
    ((x.shelf.foldl (fun s ((k, d) : Nat × List Byte) => s.setBytes (shelfBase k) d) s).zeroRngs x.marginRngs)

/-- A plan with what its image says of it (R53, R569). -/
def Plan.readied (p : Plan) (m : Image) (digest : List Byte) : Plan :=
  { p with state := .ready, img := m, fresh := true, digest := digest }

theorem zeroRngs_loadKept (s : State) (l : List Rng) : LoadKept s (s.zeroRngs l) :=
  List.foldlRecOn (motive := LoadKept s) _ _ (LoadKept.refl s) fun _ hu _ _ => hu.trans (LoadKept.setBytes ..)

theorem shelves_loadKept (s : State) (l : List (Nat × List Byte)) :
    LoadKept s (l.foldl (fun s ((k, d) : Nat × List Byte) => s.setBytes (shelfBase k) d) s) :=
  List.foldlRecOn (motive := LoadKept s) _ _ (LoadKept.refl s) fun _ hu _ _ => hu.trans (LoadKept.setBytes ..)

theorem takeCarrels_mem (s : State) (slot : Nat) (ctx : BitVec 12) (l : List Nat) :
    (l.foldl (fun s k => s.takeCarrel slot ctx k) s).mem = s.mem :=
  List.foldlRecOn (motive := fun u : State => u.mem = s.mem) l _ rfl fun _ hu _ _ => hu

theorem staged_spec (s : State) (ctx : BitVec 12) (i : Nat) (x : PlanImage) :
    LoadKept s (s.staged ctx i x) ∧
      (∀ k ∈ x.img.set, BoundTo s i ctx ((s.staged ctx i x).carrel (BitVec.ofNat 12 k))) ∧
      ((x.shelf.map (·.1)).Nodup → (∀ y ∈ x.shelf, onShelf y) →
        ∀ y ∈ x.shelf, (s.staged ctx i x).bytes (shelfBase y.1) y.2.length = y.2) := by
  have hsh := shelves_loadKept s x.shelf
  have hz := hsh.trans (zeroRngs_loadKept _ x.marginRngs)
  refine ⟨hz.trans (LoadKept.foldl (fun s k => LoadKept.takeCarrel s i ctx k) _ _), fun k hk =>
    (takeCarrels_bound x.img.set _ k hk).of_seg hz.kept.1.seg, fun hnd hlen y hy => ?_⟩
  obtain ⟨hin, -⟩ := shelves_byte x.shelf s hnd hlen
  obtain ⟨hk, hl⟩ := hlen y hy
  refine (State.bytes_congr (s := s.setBytes (shelfBase y.1) y.2) fun j hj => ?_).trans (State.bytes_setBytes_same ..)
  have hm := takeCarrels_mem
    ((x.shelf.foldl (fun s ((k, d) : Nat × List Byte) => s.setBytes (shelfBase k) d) s).zeroRngs x.marginRngs) i ctx
    x.img.set
  rw [State.byte_setBytes, if_pos (by omega), Nat.add_sub_cancel_left]
  unfold State.staged State.byte
  rw [hm]
  exact (zeroRngs_byte (shelf_lt_margin x hk (by omega)) _).trans (hin y hy j hj)

/-- The gauges of a training plan's new tags. -/
def State.tagged (s : State) (ctx : BitVec 12) (x : PlanImage) : State :=
  match x.img.training with | some t => s.newTags ctx t | none => s

theorem tagged_gaugesOnly (s : State) (ctx : BitVec 12) (x : PlanImage) : GaugesOnly s (s.tagged ctx x) := by
  unfold State.tagged
  split
  · exact newTags_gaugesOnly ..
  · exact ⟨_, rfl⟩

theorem accepted_eq (s : State) (ctx : BitVec 12) (i : Nat) (p : Plan) (x : PlanImage) :
    let t := (s.staged ctx i x).tagged ctx x
    s.accepted ctx i p x =
      t.putPlan i (p.readied { t.followAll ctx.toNat x.img with uses := t.planUses ctx x.img } x.digest) := rfl

/-- An accepted plan: its carrels and its shelf bytes. -/
theorem accepted_spec (s : State) (ctx : BitVec 12) (i : Nat) (p : Plan) (x : PlanImage) :
    let u := s.accepted ctx i p x
    (∃ m, m.set = x.img.set ∧ u.plans = (s.putPlan i (p.readied m x.digest)).plans) ∧ HostKept s u ∧ u.tick = s.tick ∧
      (∀ k ∈ x.img.set, BoundTo s i ctx (u.carrel (BitVec.ofNat 12 k))) ∧
      ((x.shelf.map (·.1)).Nodup → (∀ y ∈ x.shelf, onShelf y) →
        ∀ y ∈ x.shelf, u.bytes (shelfBase y.1) y.2.length = y.2) := by
  obtain ⟨hkept, hbound, hbytes⟩ := staged_spec s ctx i x
  obtain ⟨hhost, hplans, htick⟩ := hkept.kept
  obtain ⟨g, hg⟩ := tagged_gaugesOnly (s.staged ctx i x) ctx x
  rw [accepted_eq]
  dsimp only
  have hset := followAll_set ((s.staged ctx i x).tagged ctx x) ctx.toNat x.img
  generalize (s.staged ctx i x).tagged ctx x = t at *
  have hp : t.plans = s.plans := by
    rw [hg]
    exact hplans
  refine ⟨⟨{ t.followAll ctx.toNat x.img with uses := t.planUses ctx x.img }, hset,
    State.putPlan_plans_congr hp⟩, ?_⟩
  generalize { t.followAll ctx.toNat x.img with uses := t.planUses ctx x.img } = m
  subst hg
  exact ⟨⟨hhost.host, hhost.seg⟩, htick, hbound, hbytes⟩

end

section
variable {s u v w : State} {i : Nat} {ctx : BitVec 12} {c : Cmd} {b : List Byte}

theorem accept_eq (s : State) (ctx : BitVec 12) (c : Cmd) (i : Nat) (p : Plan) (x : PlanImage) :
    s.accept ctx c i p x = (s.accepted ctx i p x).complete ctx.toNat c 0 0 ((s.accepted ctx i p x).runBoundary c)
      (BitVec.ofNat 64 i) := rfl

theorem loaded_accepted {p : Plan} (hread : u.readImage ctx c = (.ok v, b)) (href : v.refusal ctx b = none)
    (hs : v.loadingSlot = some (i, p)) (hw : v.loadWrites ctx c.seq (planImage b).ownPieces = .ok w) :
    u.loaded ctx c = w.accept ctx c i p (planImage b) := by
  unfold State.loaded
  rw [hread]
  dsimp only
  rw [href]
  dsimp only
  rw [hs]
  dsimp only
  rw [hw]

theorem plan_accepted (h : HasBegun s ctx c i w) (hi : s.freeSlot = some i) {p : Plan} {m : Image} {l : List Byte}
    (hu : u.plans = (w.putPlan i (p.readied m l)).plans) :
    u.plan i = some (p.readied m l) ∧ ∀ j, j ≠ i → u.plan j = s.plan j := by
  have hr : (p.readied m l).state ≠ .free := fun h => by cases h
  have hplans : u.plans = (s.putPlan i (p.readied m l)).plans := by
    rw [hu]
    unfold State.putPlan
    dsimp only
    rw [h.plans]
    exact Tab.set_set _ _ _ begunPlan_ne_blank
  refine ⟨?_, fun j hj => ?_⟩
  · rw [State.plan_congr hplans]
    exact State.plan_putPlan_same hr (freeSlot_free hi)
  · rw [State.plan_congr hplans]
    exact State.plan_putPlan_other hr hj

/-! ### A load that is stopped -/

/-- The record of a load's stop, where the error has one (R451, R569). -/
def State.loadStopReport (s : State) (ctx : BitVec 12) (err : RespErr) : State :=
  match errCode err with
  | some code => s.report { blankReport with
      code := 0x34, unit := 7, wtn := s.tick.wtn, context := ctx.setWidth 16, d0 := code
      d1 := match s.loadingSlot.map (·.1) with | some i => word i | none => BitVec.allOnes 64 }
  | none => s

theorem loadStopReport_spec (s : State) (ctx : BitVec 12) (err : RespErr) (hen : s.census.ring.en = false) :
    let t := s.loadStopReport ctx err
    HostKept s t ∧ t.tick = s.tick ∧ t.carrels = s.carrels ∧ t.mem = s.mem ∧ t.plans = s.plans := by
  have hrep (rep : Report) : HostKept s (s.report rep) ∧ (s.report rep).tick = s.tick ∧
      (s.report rep).carrels = s.carrels ∧ (s.report rep).mem = s.mem ∧ (s.report rep).plans = s.plans := by
    have hr := State.report_spec s rep none
    refine ⟨report_hostKept rep none hen, ?_, hr.carrels, (report_sameMem rep none hen).1, hr.plans⟩
    obtain ⟨_, _, _, _, _, _, _, _, he, _⟩ := hr
    rw [he]
  unfold State.loadStopReport
  cases errCode err with
  | none => exact ⟨HostKept.refl s, rfl, rfl, rfl, rfl⟩
  | some code => exact hrep _

/-- The state of a stopped load in which its command completes. -/
def State.loadFreed (s : State) (ctx : BitVec 12) (c : Cmd) (err : RespErr) : State :=
  let t := s.loadStopReport ctx err
  ((if s.loadingSlot.isSome then t.freeLoading 0 else t).forget (.loader ctx c.seq 0)).forget (.intake ctx c.seq)

theorem loadStop_eq (s : State) (ctx : BitVec 12) (c : Cmd) (err : RespErr) :
    s.loadStop ctx c err = (s.loadFreed ctx c err).complete ctx.toNat c (errStatus err).1 (errStatus err).2
      (s.loadFreed ctx c err).tick.no 0 := by
  unfold State.loadStop State.failCmd State.loadFreed State.loadStopReport
  dsimp only
  cases err <;> cases s.loadingSlot <;> rfl

theorem loadFreed_spec {p : Plan} (hs : s.loadingSlot = some (i, p)) (hen : s.census.ring.en = false)
    (hwf : (s.plans.map (·.1)).Pairwise (· < ·)) (err : RespErr) :
    let u := s.loadFreed ctx c err
    HostKept s u ∧ u.tick = s.tick ∧ u.carrels = s.carrels ∧ u.mem = s.mem ∧ u.plan i = none ∧
      ∀ j, j ≠ i → u.plan j = s.plan j := by
  obtain ⟨hk, htick, hcar, hmem, hplans⟩ := loadStopReport_spec s ctx err hen
  have hslot : (s.loadStopReport ctx err).loadingSlot = some (i, p) := by
    unfold State.loadingSlot at *
    rw [hplans]
    exact hs
  unfold State.loadFreed
  dsimp only
  rw [hs]
  generalize s.loadStopReport ctx err = t at *
  have hfree : t.freeLoading 0 = t.putPlan i (freedPlan 0 p.ctx) := by
    unfold State.freeLoading
    rw [hslot]
    rfl
  rw [Option.isSome_some, if_pos rfl, hfree]
  refine ⟨⟨hk.host, hk.seg⟩, htick, hcar, hmem, ?_, fun j hj => ?_⟩
  · exact State.plan_putPlan_freed_same (s := t) rfl (hplans ▸ hwf)
  · exact (State.plan_putPlan_freed (s := t) rfl (Or.inl hj)).trans (State.plan_congr hplans j)

theorem loadStop_reads {n : Nat} (err : RespErr) (h : Taken s ctx c 8) (hst : c.stage = .ready)
    (hread : s.readImage ctx c = (.ok v, b)) (hn : n < (b.length + 63) / 64) :
    execLoadStop ctx c.seq n err s = .next (v.loadStop ctx c err) := by
  have hnw : ¬ c.stage = .waiting := by
    rw [hst]
    exact fun h => by cases h
  refine congrArg Host.Outcome.next ((act_taken _ h).trans ((if_neg hnw).trans ?_))
  rw [hread]
  exact if_pos hn

end

end Sys2Proof.Machine

namespace Sys2Proof
open Machine

/-- Settles O46: from the begun load on, the loader works on a table that holds its plan in the lowest free slot and
no other that is loading, so what it puts there replaces that plan alone. -/
theorem planLoads : Obligations.PlanLoads := by
  unfold Obligations.PlanLoads
  intro ctx c s v i b d x s1 ask
  have hask : TokensOnly s1 ask.2 := askHbm_tokensOnly ..
  refine ⟨planLoad_waits, fun h hst hno hfirst hask1 => ?_, fun h hst hno hfirst hi hask1 hread hv => ?_,
    fun n err p h hst hs hwf hen hread hv hn => ?_⟩
  · exact (planLoad_begins h hst hno hfirst).trans (congrArg Host.Outcome.next (if_neg (by
      show ¬ ask.1 = true
      rw [hask1]
      decide)))
  · have hbegun : HasBegun s ctx c i v := ((hasBegun hi).tokens hask).fresh hv
    have hslot := hbegun.loadingSlot hno
    have hexec : execPlanLoad ctx c.seq s = .next (ask.2.loaded ctx d) :=
      (planLoad_begins h hst hno hfirst).trans (congrArg Host.Outcome.next (if_pos hask1))
    refine ⟨fun code href => ?_, fun w href hw hwv => ?_⟩
    · have hk : HostKept (s.loadBegin ctx c) (v.putPlan i (freedPlan code (begunPlan ctx c).ctx)) :=
        hbegun.host.trans ⟨rfl, rfl⟩
      have hcpl := HasBegun.completes hk h hi 1 code v.tick.no 0
      have hend := loaded_refused hread href hslot
      have hplan := plan_refused (q := freedPlan code (begunPlan ctx c).ctx) hbegun hi rfl
      rw [← hend, hbegun.tick] at hcpl
      exact ⟨_, _, hexec, hcpl, rfl, hplan⟩
    · have hw' : HasBegun s ctx c i w := hbegun.mem hwv
      obtain ⟨⟨m, hm, hplans⟩, hk, htick, hbound, hbytes⟩ := accepted_spec w ctx i (begunPlan ctx c) x
      obtain ⟨hp, hothers⟩ := plan_accepted hw' hi hplans
      have hseg : w.seg = s.seg := hw'.host.seg.trans (by
        rw [loadBegin_eq hi]
        rfl)
      refine ⟨_, _, _, hexec.trans (congrArg Host.Outcome.next
        ((loaded_accepted hread href hslot hw).trans (accept_eq ..))), ?_, hp, rfl, rfl, hm, rfl, hothers,
        fun k hk' _ => ?_, hbytes⟩
      · have hr : (w.accepted ctx i (begunPlan ctx c) x).runBoundary d =
            if s.tick.no < c.arg 1 then c.arg 1 else s.tick.no + 1 := by
          unfold State.runBoundary
          rw [htick, hw'.tick]
          rfl
        have hcpl := HasBegun.completes (hw'.host.trans hk) h hi 0 0
          ((w.accepted ctx i (begunPlan ctx c) x).runBoundary d) (BitVec.ofNat 64 i)
        rw [← hr]
        exact hcpl
      · obtain ⟨h1, h2, h3, h4, h5, h6, h7, h8⟩ := (hbound k hk').of_seg hseg
        exact ⟨h1, h2, h3, h4, h5, h6, h7, h8⟩
  · have hslot : v.loadingSlot = some (i, p) := by
      rw [hv]
      exact hs
    obtain ⟨hk, htick, hcar, hmem, hnone, hothers⟩ := loadFreed_spec (s := v) (ctx := ctx) (c := c) hslot
      (by rw [hv]; exact hen) (by rw [hv]; exact hwf) err
    have hk' : HostKept s (v.loadFreed ctx c err) := HostKept.trans (by rw [hv]; exact ⟨rfl, rfl⟩) hk
    have htick' : (v.loadFreed ctx c err).tick.no = s.tick.no := by
      rw [htick, hv]
    have hcpl := h.completes hk' (by decide) (errStatus err).1 (errStatus err).2 s.tick.no 0
    refine ⟨_, _, (loadStop_reads err h hst hread hn).trans (congrArg Host.Outcome.next (loadStop_eq ..)), ?_, hnone,
      fun j hj => (hothers j hj).trans (by rw [hv]; rfl), hmem.trans (by rw [hv]), hcar.trans (by rw [hv])⟩
    rw [htick']
    cases err <;> exact hcpl

end Sys2Proof
end

section
/-!
# Reads and writes of the host
-/
namespace Sys2Proof.Machine

/-! ### Intake pages -/

/-- Bytes set from `a + o` on, but none at `a + m` and past it. -/
theorem get_setAll_page {α : Type} [DecidableEq α] {d : α} (a m k : Nat) (l : List α) : ∀ (o : Nat) (t : Tab α),
    Tab.get d (Tab.setAll d t (((l.mapIdx fun i b => (o + i, b)).filter fun x => decide (x.1 < m)).map fun x =>
      (a + x.1, x.2))) k =
      if a + o ≤ k ∧ k < a + o + l.length ∧ k < a + m then l.getD (k - (a + o)) d else Tab.get d t k := by
  induction l with
  | nil =>
    intro o t
    rw [if_neg (by rw [List.length_nil]; omega)]
    rfl
  | cons b l ih =>
    intro o t
    have hsh : (fun (i : Nat) (b : α) => (o + (i + 1), b)) = fun i b => (o + 1 + i, b) := by
      funext i b
      rw [Nat.add_right_comm, Nat.add_assoc]
    rw [List.mapIdx_cons, hsh, Nat.add_zero]
    have hlen : (b :: l).length = l.length + 1 := rfl
    by_cases hm : o < m
    · rw [List.filter_cons_of_pos (p := fun x : Nat × α => decide (x.1 < m)) (decide_eq_true hm), List.map_cons]
      refine (ih (o + 1) (Tab.set d t (a + o) b)).trans ?_
      by_cases hk : k = a + o
      · subst hk
        rw [if_neg (by omega), Tab.get_set_same, if_pos (by omega), Nat.sub_self]
        rfl
      · rw [Tab.get_set_other _ _ _ _ _ hk]
        by_cases hin : a + (o + 1) ≤ k ∧ k < a + (o + 1) + l.length ∧ k < a + m
        · rw [if_pos hin, if_pos (by omega), show k - (a + o) = k - (a + (o + 1)) + 1 by omega]
          rfl
        · rw [if_neg hin, if_neg (by omega)]
    · rw [List.filter_cons_of_neg (p := fun x : Nat × α => decide (x.1 < m)) (fun h => hm (of_decide_eq_true h))]
      refine (ih (o + 1) t).trans ?_
      rw [if_neg (by omega), if_neg (by omega)]

section
variable {s : State} {data : List Byte}

/-- The bytes of a write in an intake page: those that lie in it. -/
def State.intakeWritten (s : State) (ctx off : BitVec 12) (data : List Byte) : State :=
  { s with host := { s.host with
      intake := Tab.setAll 0 s.host.intake (((data.mapIdx fun i b => (off.toNat + i, b)).filter fun x =>
        decide (x.1 < 4096)).map fun x => (ctx.toNat * 4096 + x.1, x.2)) } }

theorem intakeWrite_allowed {src : Src} {ctx : BitVec 12} (off : BitVec 12)
    (h : src = .pf ∨ ∃ f, src = .vf f ∧ s.owner ctx.toNat = f) :
    ∃ t, execIntakeSlotWrite src ctx off data s = .next t ∧ t =
        { s with host := { s.host with intake := t.host.intake } } ∧
      ∀ k, Tab.get 0 t.host.intake k =
        let at_ := ctx.toNat * 4096 + off.toNat
        if at_ ≤ k ∧ k < at_ + data.length ∧ k / 4096 = ctx.toNat then data.getD (k - at_) 0
        else Tab.get 0 s.host.intake k := by
  have hx : execIntakeSlotWrite src ctx off data s = .next (s.intakeWritten ctx off data) := by
    rcases h with rfl | ⟨f, rfl, hf⟩
    · exact congrArg Host.Outcome.next (if_pos rfl)
    · exact congrArg Host.Outcome.next (if_pos (decide_eq_true hf))
  refine ⟨_, hx, rfl, fun k => ?_⟩
  refine (get_setAll_page (ctx.toNat * 4096) 4096 k data off.toNat _).trans ?_
  exact if_congr (by omega) rfl rfl

theorem intakeWrite_denied {f : BitVec 6} {ctx : BitVec 12} (off : BitVec 12) (h : s.owner ctx.toNat ≠ f) :
    execIntakeSlotWrite (.vf f) ctx off data s = .next s.deny :=
  congrArg Host.Outcome.next (if_neg fun hc => h (of_decide_eq_true hc))

/-! ### Register writes -/

theorem word_leAt_natToBytes (v : Word) : word (leAt (natToBytes 8 v.toNat) 0 8) = v := by
  have hs : slice (natToBytes 8 v.toNat) 0 8 = natToBytes 8 v.toNat := by
    unfold slice
    rw [List.drop_zero]
    exact List.take_of_length_le (Nat.le_of_eq (length_natToBytes ..))
  unfold leAt word
  rw [hs, bytesToNat_natToBytes, Nat.mod_eq_of_lt (by have := v.isLt; omega)]
  exact (BitVec.ofNat_toNat 64 v).trans (BitVec.setWidth_eq v)

theorem regWrite_pf {block : BitVec 7} {off : BitVec 16} (hb : block.toNat < 64) (ho : off.toNat % 8 = 0) (v : Word) :
    execRegisterWrite .pf block off (natToBytes 8 v.toNat) s = .next (s.regWrite .pf block.toNat off.toNat v) := by
  refine congrArg Host.Outcome.next ((if_pos hb).trans ((if_pos ⟨length_natToBytes .., ho⟩).trans ?_))
  rw [word_leAt_natToBytes]

theorem regWrite_vf {f : BitVec 6} {block : BitVec 7} {off : BitVec 16} (hb : block.toNat < 64) (ho : off.toNat % 8 = 0)
    (hv : s.vfWrites f block.toNat off.toNat = true) (v : Word) :
    execRegisterWrite (.vf f) block off (natToBytes 8 v.toNat) s =
      .next (s.regWrite (.vf f) block.toNat off.toNat v) := by
  refine congrArg Host.Outcome.next ((if_pos hb).trans ((if_pos hv).trans
    ((if_pos ⟨length_natToBytes .., ho⟩).trans ?_)))
  rw [word_leAt_natToBytes]

theorem regWrite_vf_denied {f : BitVec 6} {block : BitVec 7} {off : BitVec 16} (hb : block.toNat < 64)
    (hv : s.vfWrites f block.toNat off.toNat = false) : execRegisterWrite (.vf f) block off data s = .next s.deny :=
  congrArg Host.Outcome.next ((if_pos hb).trans (if_neg (Bool.eq_false_iff.mp hv)))

theorem regWrite_partial {block : BitVec 7} {off : BitVec 16} (hb : block.toNat < 64)
    (h : data.length ≠ 8 ∨ off.toNat % 8 ≠ 0) : execRegisterWrite .pf block off data s = .next s :=
  congrArg Host.Outcome.next ((if_pos hb).trans (if_neg fun hc => h.elim (fun g => g hc.1) fun g => g hc.2))

/-- The offset of CEN_TRN_STATE of a context. -/
theorem stateOff (c : Fin 4096) : (BitVec.ofNat 16 (0x8000 + 8 * c.val)).toNat = 0x8000 + 8 * c.val := by
  rw [BitVec.toNat_ofNat]
  omega

theorem stateWrite_spec {src : Src} (c : Fin 4096) (v : Word) (h : src = .pf ∨ ∃ f, src = .vf f ∧ s.owner c.val = f) :
    ∃ t, execRegisterWrite src 38 (BitVec.ofNat 16 (0x8000 + 8 * c.val)) (natToBytes 8 v.toNat) s = .next t ∧
      t = { s with train := t.train } ∧ (∀ d, d ≠ c.val → t.trainCtx d = s.trainCtx d) ∧
      t.trainCtx c.val = { s.trainCtx c.val with
        lossExp := v.extractLsb' 0 8, clean := v.extractLsb' 16 16, steps := v.extractLsb' 32 32 } := by
  have hidx : (0x8000 + 8 * c.val) % 0x8000 / 8 = c.val := by omega
  have hw : s.regWrite src 38 (0x8000 + 8 * c.val) v = s.modTrain c.val fun t => { t with
      lossExp := v.extractLsb' 0 8, clean := v.extractLsb' 16 16, steps := v.extractLsb' 32 32 } := by
    have ht : s.regWrite src 38 (0x8000 + 8 * c.val) v = s.trnRegWrite 38 (0x8000 + 8 * c.val) v := rfl
    rw [ht]
    unfold State.trnRegWrite field
    dsimp only
    rw [hidx]
    exact (if_neg (by decide)).trans (if_neg (by omega))
  have hx : execRegisterWrite src 38 (BitVec.ofNat 16 (0x8000 + 8 * c.val)) (natToBytes 8 v.toNat) s =
      .next (s.regWrite src 38 (0x8000 + 8 * c.val) v) := by
    have ho := stateOff c
    rcases h with rfl | ⟨f, rfl, hf⟩
    · exact (regWrite_pf (by decide) (by omega) v).trans (by rw [ho]; rfl)
    · refine (regWrite_vf (by decide) (by omega) ?_ v).trans (by rw [ho]; rfl)
      unfold State.vfWrites State.owns
      rw [ho, hidx, hf, decide_eq_true rfl, decide_eq_true (show 0x8000 ≤ 0x8000 + 8 * c.val by omega)]
      rfl
  rw [hx, hw]
  exact ⟨_, rfl, rfl, fun d hd => State.trainCtx_modTrain_other _ _ hd, State.trainCtx_modTrain_same ..⟩

end


/-! ### The BAR2 window -/

section
variable {s : State} {off : Word} {n : Nat}

theorem exists_of_present {a i : Nat} (h : s.present a n = true) (hi : i < n) : s.exists_ (a + i) = true :=
  List.all_eq_true.mp h i (List.mem_range.mpr hi)

theorem lostIn_nil (h : s.lost = []) (a m : Nat) : s.lostIn a m = false := by
  unfold State.lostIn
  rw [h]
  rfl

theorem windowRes_ok {pa : Nat} (hloc : s.isLocal pa = true) (hp : s.present (localOf pa) n = true)
    (hr : ∀ i, i < n → ∀ k o, regionOf (localOf pa + i) ≠ .regs k o) (hl : s.lost = []) :
    s.windowRes pa n (.ok []) = .ok [] := by
  unfold State.windowRes
  refine (if_neg fun hbad => ?_).trans ((if_pos hloc).trans ((if_neg (by rw [hp]; decide)).trans ?_))
  · obtain ⟨i, hi, hm⟩ := List.any_eq_true.mp hbad
    have hi' : i < n := List.mem_range.mp hi
    have he := exists_of_present hp hi'
    unfold State.exists_ at he
    split at hm
    · next h => exact absurd h (hr i hi' _ _)
    · next h =>
      rw [h] at he
      cases he
    · cases hm
  · rw [lostIn_nil hl]
    rfl

theorem windowRes_absent {pa : Nat} (hloc : s.isLocal pa = true) (hp : s.present (localOf pa) n = false) (r : WinRes) :
    s.windowRes pa n r = .unmapped := by
  unfold State.windowRes
  exact (ite_eq_left_iff.mpr fun _ => (if_pos hloc).trans (if_pos (by rw [hp]; rfl)))

theorem memRead_plain {a : Nat} (hr : ∀ i, i < n → ∀ k o, regionOf (a + i) ≠ .regs k o) :
    s.memRead a n = s.bytes a n := by
  unfold State.memRead State.bytes
  refine List.map_congr_left fun i hi => ?_
  unfold State.anyByte
  split
  · next h => exact absurd h (hr i (List.mem_range.mp hi) _ _)
  · rfl

theorem TokensOnly.bytes_eq {t : State} (h : TokensOnly s t) (a m : Nat) : t.bytes a m = s.bytes a m :=
  State.bytes_congr fun i _ => h.byte (a + i)

variable {pa : Nat} (hpa : (s.host.winBase.toNat * 2 ^ 28 + off.toNat) % 2 ^ 56 = pa)
include hpa

theorem windowRead_eq (hoff : off.toNat < 2 ^ 28) (hn : off.toNat + n ≤ 2 ^ 28)
    (hloc : s.isLocal pa = true) (hp : s.present (localOf pa) n = true)
    (hr : ∀ i, i < n → ∀ k o, regionOf (localOf pa + i) ≠ .regs k o) (hl : s.lost = []) :
    execBar2WindowAccess .pf off (.read n (.ok [])) s = .next (whenLet (s.windowAsk pa n) fun s' =>
      s'.send (.answer .pf (s'.memRead (localOf pa) n))) := by
  have hres := windowRes_ok hloc hp hr hl
  unfold execBar2WindowAccess
  refine (if_neg (by simp; omega)).trans ((if_neg (Nat.not_lt.mpr hn)).trans ?_)
  rw [hpa, hres]
  exact if_pos hloc

theorem windowRead_drawn (hoff : off.toNat < 2 ^ 28) (hn : off.toNat + n ≤ 2 ^ 28)
    (hloc : s.isLocal pa = true) (hp : s.present (localOf pa) n = true)
    (hr : ∀ i, i < n → ∀ k o, regionOf (localOf pa + i) ≠ .regs k o) (hl : s.lost = [])
    (hask : (s.windowAsk pa n).1 = true) :
    execBar2WindowAccess .pf off (.read n (.ok [])) s = .next { (s.windowAsk pa n).2 with
      sent := .answer .pf (s.bytes (localOf pa) n) :: s.sent } := by
  have ht : TokensOnly s (s.windowAsk pa n).2 := askHbm_tokensOnly ..
  refine (windowRead_eq hpa hoff hn hloc hp hr hl).trans (congrArg Host.Outcome.next ((if_pos hask).trans ?_))
  dsimp only
  rw [memRead_plain hr, ht.bytes_eq]
  generalize (s.windowAsk pa n).2 = t at *
  have hsent : t.sent = s.sent := by rw [ht.rest]
  unfold State.send
  rw [hsent]

theorem windowRead_absent (hoff : off.toNat < 2 ^ 28) (hn : off.toNat + n ≤ 2 ^ 28)
    (hloc : s.isLocal pa = true) (hp : s.present (localOf pa) n = false)
    (hen : s.census.ring.en = false) :
    ∃ t, execBar2WindowAccess .pf off (.read n (.ok [])) s = .next t ∧
      t.census.ring.num = s.census.ring.num + 1 ∧ t.sent.head? = some (.status .pf 1) ∧ t.mem = s.mem := by
  have hx : execBar2WindowAccess .pf off (.read n (.ok [])) s =
      .next ((s.windowReport pa (some 1)).send (.status .pf 1)) := by
    have hres := windowRes_absent hloc hp (.ok [])
    unfold execBar2WindowAccess
    refine (if_neg (by simp; omega)).trans ((if_neg (Nat.not_lt.mpr hn)).trans ?_)
    rw [hpa, hres]
    rfl
  exact ⟨_, hx, (State.report_spec s _ none).num, rfl, (report_sameMem _ none hen).1⟩

theorem windowWrite_eq {b : List Byte} (hb : b ≠ []) (hn : off.toNat + b.length ≤ 2 ^ 28)
    (hloc : s.isLocal pa = true) (hw : s.writable (localOf pa) b.length) (hl : s.lost = []) :
    execBar2WindowAccess .pf off (.write b (.ok [])) s =
      .next (whenLet (s.windowAsk pa b.length) fun s' =>
        match s'.putRange .window .pf s.host.winPart b (piecesOf pa b.length) with
        | .ok u => u
        | .err _ u => u.windowReport pa none) := by
  have hpos : 0 < b.length := List.length_pos_iff.mpr hb
  have hp : s.present (localOf pa) b.length = true :=
    List.all_eq_true.mpr fun i hi => by
      have hi' : i < b.length := List.mem_range.mp hi
      exact exists_of_present_one (hw _ (by omega) (by omega)).1
  have hres := windowRes_ok hloc hp (fun i hi => (hw _ (by omega) (by omega)).2) hl
  unfold execBar2WindowAccess
  refine (if_neg (by simp; omega)).trans ((if_neg (Nat.not_lt.mpr hn)).trans ?_)
  rw [hpa, hres] <;>
    exact congrArg Host.Outcome.next (congrArg (whenLet _) (funext fun s' => by
      cases s'.putRange .window .pf s.host.winPart b (piecesOf pa b.length) <;> rfl))

theorem windowWrite_drawn {b : List Byte} (hb : b ≠ []) (hn : off.toNat + b.length ≤ 2 ^ 28)
    (hloc : s.isLocal pa = true) (hw : s.writable (localOf pa) b.length) (hl : s.lost = [])
    (hask : (s.windowAsk pa b.length).1 = true) :
    ∃ t, execBar2WindowAccess .pf off (.write b (.ok [])) s = .next t ∧
      t = { (s.windowAsk pa b.length).2 with mem := t.mem } ∧
      (∀ j, j < b.length → t.byte (localOf pa + j) = b.getD j 0) ∧
      ∀ a, (a < localOf pa ∨ localOf pa + b.length ≤ a) → t.byte a = s.byte a := by
  have ht : TokensOnly s (s.windowAsk pa b.length).2 := askHbm_tokensOnly ..
  obtain ⟨u, hu, hrest, hbyte⟩ := putRange_spec (src := .pf) (who := .window) (part := s.host.winPart) (Nat.le_refl _)
    ((ht.isLocal _).trans hloc) (ht.lost.trans hl) (ht.writable hw)
  refine ⟨u, (windowWrite_eq hpa hb hn hloc hw hl).trans (congrArg Host.Outcome.next ((if_pos hask).trans ?_)), hrest,
    fun j hj => ?_, fun a ha => ?_⟩
  · dsimp only
    rw [hu]
  · rw [hbyte, if_pos (by omega), Nat.add_sub_cancel_left]
  · rw [hbyte, if_neg (by omega), ht.byte]

/-- The clause of a read, as the obligation states it. -/
theorem windowReads_spec :
    let la := localOf pa
    let ask (m : Nat) := s.windowAsk pa m
    (off.toNat + n ≤ 2 ^ 28 → off.toNat < 2 ^ 28 → s.isLocal pa = true →
      (s.present la n = true → (∀ i, i < n → ∀ k o, regionOf (la + i) ≠ .regs k o) → s.lost = [] →
        ((ask n).1 = true → execBar2WindowAccess .pf off (.read n (.ok [])) s =
          .next { (ask n).2 with sent := .answer .pf (s.bytes la n) :: s.sent }) ∧
        ((ask n).1 = false → execBar2WindowAccess .pf off (.read n (.ok [])) s = .next (ask n).2)) ∧
      (s.present la n = false → s.census.ring.en = false →
        ∃ t, execBar2WindowAccess .pf off (.read n (.ok [])) s = .next t ∧
          t.census.ring.num = s.census.ring.num + 1 ∧ t.sent.head? = some (.status .pf 1) ∧ t.mem = s.mem)) := by
  intro la ask hn hoff hloc
  refine ⟨fun hp hr hl => ⟨windowRead_drawn hpa hoff hn hloc hp hr hl, fun hask => ?_⟩,
      windowRead_absent hpa hoff hn hloc⟩
  exact (windowRead_eq hpa hoff hn hloc hp hr hl).trans (congrArg Host.Outcome.next (if_neg (Bool.eq_false_iff.mp
      hask)))

/-- The clause of a write, as the obligation states it. -/
theorem windowWrites_spec (b : List Byte) :
    let la := localOf pa
    let ask (m : Nat) := s.windowAsk pa m
    (b ≠ [] → off.toNat + b.length ≤ 2 ^ 28 → s.isLocal pa = true → s.lost = [] →
      (∀ a, la / 64 * 64 ≤ a → a < (la + b.length + 63) / 64 * 64 → s.present a 1 =
          true ∧ ∀ k o, regionOf a ≠ .regs k o) →
      ((ask b.length).1 = false → execBar2WindowAccess .pf off (.write b (.ok [])) s = .next (ask b.length).2) ∧
      ((ask b.length).1 = true →
        ∃ t, execBar2WindowAccess .pf off (.write b (.ok [])) s = .next t ∧
          t = { (ask b.length).2 with mem := t.mem } ∧ (∀ j, j < b.length → t.byte (la + j) = b.getD j 0) ∧
          ∀ a, (a < la ∨ la + b.length ≤ a) → t.byte a = s.byte a)) := by
  intro la ask hb hn hloc hl hw
  refine ⟨fun hask => ?_, windowWrite_drawn hpa hb hn hloc hw hl⟩
  exact (windowWrite_eq hpa hb hn hloc hw hl).trans (congrArg Host.Outcome.next (if_neg (Bool.eq_false_iff.mp hask)))

omit hpa in
theorem windowAccess_vf (f : BitVec 6) (off : Word) (x : WinAccess) (s : State) :
    execBar2WindowAccess (.vf f) off x s = .next s := by
  unfold execBar2WindowAccess
  exact if_pos (Or.inl fun h => by cases h)

end


/-! ### Reads of BAR0 -/

/-- What a read leaves: a word drawn for the places that are free, the answer sent. -/
def State.told (s : State) (src : Src) (d : List Byte) : State :=
  { s with fresh := s.fresh + 1, sent := .answer src d :: s.sent }

/-- The state whose registers a read sees: that with its word drawn. -/
def State.drawn (s : State) : State := { s with fresh := s.fresh + 1 }

section
variable {s : State} {src : Src} {f : BitVec 6} {a n : Nat}

theorem readbackRead_eq (hf : hostFunc src = some f) (ha : a < 2 ^ 28) :
    execReadbackRead src (BitVec.ofNat 12 (a / 65536)) (BitVec.ofNat 16 a) n s =
      let l := (upto n).map fun j => s.drawn.bar0Byte src f (a + j) (Config.freeWord s.fresh)
      .next (if l.all (·.isSome) then s.told src (l.map fun b => b.getD 0)
        else (s.told src (l.map fun b => b.getD 0)).deny) := by
  have hsum : (BitVec.ofNat 12 (a / 65536)).toNat * 65536 + (BitVec.ofNat 16 a).toNat = a := by
    rw [BitVec.toNat_ofNat, BitVec.toNat_ofNat]
    omega
  unfold execReadbackRead
  rw [hf]
  dsimp only
  rw [hsum]
  rfl

theorem readbackRead_shows {d : List Byte} (hf : hostFunc src = some f) (ha : a < 2 ^ 28) (hd : d.length = n)
    (h : ∀ j, j < n → s.drawn.bar0Byte src f (a + j) (Config.freeWord s.fresh) = some (d.getD j 0)) :
    execReadbackRead src (BitVec.ofNat 12 (a / 65536)) (BitVec.ofNat 16 a) n s = .next (s.told src d) := by
  have hl : ((upto n).map fun j => s.drawn.bar0Byte src f (a + j) (Config.freeWord s.fresh)) = d.map some := by
    refine List.ext_getElem ?_ fun j h1 h2 => ?_
    · rw [List.length_map, List.length_map, hd]
      exact List.length_range
    · have hj : j < d.length := by rw [List.length_map] at h2; exact h2
      have hu : (upto n)[j]'(by rw [List.length_map] at h1; exact h1) = j := List.getElem_range _
      rw [List.getElem_map, List.getElem_map, hu, h j (by omega), List.getD_eq_getElem _ _ hj]
  rw [readbackRead_eq hf ha, hl]
  refine congrArg Host.Outcome.next ((if_pos ?_).trans ?_)
  · rw [List.all_map, List.all_eq_true]
    exact fun _ _ => rfl
  · rw [List.map_map]
    exact congrArg (s.told src) (List.map_id d)

theorem readbackRead_hides (hf : hostFunc src = some f) (ha : a < 2 ^ 28) (hn : 0 < n)
    (h : ∀ j, j < n → s.drawn.bar0Byte src f (a + j) (Config.freeWord s.fresh) = none) :
    execReadbackRead src (BitVec.ofNat 12 (a / 65536)) (BitVec.ofNat 16 a) n s =
      .next (s.told src (List.replicate n 0)).deny := by
  have hl : ((upto n).map fun j => s.drawn.bar0Byte src f (a + j) (Config.freeWord s.fresh)) =
      List.replicate n none := by
    refine List.eq_replicate_iff.mpr ⟨(List.length_map _).trans List.length_range, fun x hx => ?_⟩
    obtain ⟨j, hj, rfl⟩ := List.mem_map.mp hx
    exact h j (List.mem_range.mp hj)
  rw [readbackRead_eq hf ha, hl]
  refine congrArg Host.Outcome.next ((if_neg ?_).trans ?_)
  · rw [List.all_replicate]
    simp
    omega
  · rw [List.map_replicate]
    rfl

/-! #### Registers -/

theorem regRead_drawn (s : State) (b o : Nat) : s.drawn.regRead b o = s.regRead b o := rfl

theorem vfReads_drawn (s : State) (f : BitVec 6) (b o : Nat) : s.drawn.vfReads f b o = s.vfReads f b o := rfl

theorem getD_natToBytes {w : Word} {j : Nat} (hj : j < 8) : (natToBytes 8 w.toNat).getD j 0 = wordByte w j := by
  rw [List.getD_eq_getElem?_getD, getElem?_natToBytes 8 hj]
  unfold wordByte
  refine BitVec.eq_of_toNat_eq ?_
  rw [BitVec.toNat_setWidth, BitVec.toNat_ushiftRight, Nat.shiftRight_eq_div_pow, Option.getD_some, BitVec.toNat_ofNat,
    Nat.pow_mul]

/-- A byte of a register of the blocks. -/
theorem bar0Byte_reg {b o j : Nat} (hb : b < 64) (ho : o < 0x10000) (ho8 : o % 8 = 0) (hj : j < 8) (w : Word) :
    s.bar0Byte src f (b * 0x10000 + o + j) w =
      if decide (src = .pf) || s.vfReads f b o then some (wordByte (s.regRead b o) j) else none := by
  have h1 : (b * 0x10000 + o + j) / 65536 = b := by omega
  have h2 : (b * 0x10000 + o + j) % 65536 = o + j := by omega
  have h3 : (o + j) / 8 * 8 = o := by omega
  have h4 : (b * 0x10000 + o + j) % 8 = j := by omega
  have hread : s.regRead b (o + j) = s.regRead b o := by
    unfold State.regRead
    dsimp only
    rw [h3, show o / 8 * 8 = o by omega]
  unfold State.bar0Byte
  dsimp only
  rw [if_pos (by omega), h1, h2, h3, h4, hread]

theorem regRead_told {b o : Nat} (hb : b < 64) (ho : o < 0x10000) (ho8 : o % 8 = 0) (hf : hostFunc src = some f)
    (hmay : (decide (src = .pf) || s.vfReads f b o) = true) :
    execReadbackRead src (BitVec.ofNat 12 ((b * 0x10000 + o) / 65536)) (BitVec.ofNat 16 (b * 0x10000 + o)) 8 s =
      .next (s.told src (natToBytes 8 (s.regRead b o).toNat)) := by
  refine readbackRead_shows hf (by omega) (length_natToBytes ..) fun j hj => ?_
  rw [bar0Byte_reg hb ho ho8 hj, vfReads_drawn, if_pos hmay, regRead_drawn, getD_natToBytes hj]

theorem regRead_hidden {b o : Nat} (hb : b < 64) (ho : o < 0x10000) (ho8 : o % 8 = 0)
    (hno : s.vfReads f b o = false) :
    execReadbackRead (.vf f) (BitVec.ofNat 12 ((b * 0x10000 + o) / 65536)) (BitVec.ofNat 16 (b * 0x10000 + o)) 8 s =
      .next (s.told (.vf f) (List.replicate 8 0)).deny := by
  refine readbackRead_hides rfl (by omega) (by decide) fun j hj => ?_
  rw [bar0Byte_reg hb ho ho8 hj, vfReads_drawn, hno]
  exact if_neg (by simp)

end


/-! #### The windows of the carrels -/

section
variable {s : State} {src : Src} {f : BitVec 6} {c : BitVec 12}

/-- Who may read a carrel's state: the PF, and the function whose plan holds it (R419, R473). -/
def State.mayRead (s : State) (src : Src) (c : BitVec 12) : Prop :=
  src = .pf ∨ ∃ f i p, src = .vf f ∧ s.planOf c = some (i, p) ∧ s.owner p.ctx.toNat = f

theorem vfCarrel_iff : s.vfCarrel f c = true ↔ ∃ i p, s.planOf c = some (i, p) ∧ s.owner p.ctx.toNat = f := by
  unfold State.vfCarrel
  cases h : s.planOf c with
  | none => simp
  | some y =>
    obtain ⟨i, p⟩ := y
    dsimp only
    rw [decide_eq_true_eq]
    exact ⟨fun h => ⟨i, p, rfl, h⟩, fun ⟨_, _, he, ho⟩ => by cases he; exact ho⟩

theorem mayRead_lets (h : s.mayRead src c) :
    ∃ f, hostFunc src = some f ∧ (decide (src = .pf) || s.drawn.vfCarrel f c) = true := by
  rcases h with rfl | ⟨f, i, p, rfl, hp, ho⟩
  · exact ⟨0, rfl, rfl⟩
  · exact ⟨f, rfl, vfCarrel_iff.mpr ⟨i, p, hp, ho⟩⟩

theorem mayRead_hides (h : ¬ s.mayRead (.vf f) c) :
    (decide (Src.vf f = .pf) || s.drawn.vfCarrel f c) = false := by
  rw [decide_eq_false (fun h => by cases h), Bool.false_or]
  exact Bool.eq_false_iff.mpr fun hv => h (Or.inr (by
    obtain ⟨i, p, hp, ho⟩ := vfCarrel_iff.mp hv
    exact ⟨f, i, p, rfl, hp, ho⟩))

theorem wordByte_eq (w : Word) (i : Nat) : wordByte w i = BitVec.ofNat 8 (w.toNat / 256 ^ i) := by
  unfold wordByte
  refine BitVec.eq_of_toNat_eq ?_
  rw [BitVec.toNat_setWidth, BitVec.toNat_ushiftRight, Nat.shiftRight_eq_div_pow, BitVec.toNat_ofNat, Nat.pow_mul]

theorem bar0Byte_readback {o j : Nat} (ho : o + j < 0xC000) (w : Word) :
    s.bar0Byte src f (0x4000000 + c.toNat * 0xC000 + o + j) w =
      if decide (src = .pf) || s.vfCarrel f c then some (s.readbackByte c (o + j) (w + word (c.toNat * 0x1800)))
      else none := by
  have hc := c.isLt
  have h1 : (0x4000000 + c.toNat * 0xC000 + o + j - 0x4000000) / 0xC000 = c.toNat := by omega
  have h2 : (0x4000000 + c.toNat * 0xC000 + o + j - 0x4000000) % 0xC000 = o + j := by omega
  have h3 : BitVec.ofNat 12 c.toNat = c := (BitVec.ofNat_toNat 12 c).trans (BitVec.setWidth_eq c)
  unfold State.bar0Byte
  dsimp only
  rw [if_neg (by omega), if_neg (by omega), if_neg (by omega), if_neg (by omega), if_pos (by omega), h1, h2, h3]

theorem readbackByte_eq {a : Nat} (ha : a < 0xC000) (w : Word) : s.readbackByte c a w =
    wordByte (s.readbackWord c (a / 8) (Config.freeWord (w.toNat + a / 8))) (a % 8) := if_pos ha

theorem readbackWord_creg {i : Nat} (hi : 8 * i < 0x800) (w : Word) : s.readbackWord c i w = s.creg c i := if_pos hi

theorem readbackWord_pc (w : Word) : s.readbackWord c 0x180 w = (s.carrel c).pc := rfl

theorem readbackWord_vl (w : Word) : s.readbackWord c 0x181 w = (s.carrel c).vl.setWidth 64 := rfl

/-- The bytes of the readback window that a read of a carrel's area shows. -/
theorem readback_told {o n : Nat} (hn : 0 < n) (ho : o + n ≤ 0xC000) (h : s.mayRead src c) :
    ∃ d : List Byte, d.length = n ∧
      execReadbackRead src (BitVec.ofNat 12 ((0x4000000 + c.toNat * 0xC000 + o) / 65536))
        (BitVec.ofNat 16 (0x4000000 + c.toNat * 0xC000 + o)) n s = .next (s.told src d) ∧
      ∀ j, j < n →
        let a := o + j
        let part (w : Word) : Byte := BitVec.ofNat 8 (w.toNat / 256 ^ (a % 8))
        (a < 0x800 → d.getD j 0 = part (s.creg c (a / 8))) ∧
        (0xC00 ≤ a → a < 0xC08 → d.getD j 0 = part (s.carrel c).pc) ∧
        (0xC08 ≤ a → a < 0xC10 → d.getD j 0 = part ((s.carrel c).vl.setWidth 64)) := by
  obtain ⟨f, hf, hlets⟩ := mayRead_lets h
  have hc := c.isLt
  let w := Config.freeWord s.fresh + word (c.toNat * 0x1800)
  have hget (j : Nat) (hj : j < n) : ((upto n).map fun j => s.drawn.readbackByte c (o + j) w).getD j 0 =
      s.drawn.readbackByte c (o + j) w := getD_map_upto _ _ hj
  refine ⟨(upto n).map fun j => s.drawn.readbackByte c (o + j) w, (List.length_map _).trans List.length_range,
    readbackRead_shows hf (by omega) ((List.length_map _).trans List.length_range) fun j hj => ?_, fun j hj => ?_⟩
  · rw [bar0Byte_readback (by omega), if_pos hlets, hget j hj]
  · intro a part
    rw [hget j hj, readbackByte_eq (by omega), wordByte_eq]
    refine ⟨fun h1 => ?_, fun h1 h2 => ?_, fun h1 h2 => ?_⟩
    · rw [readbackWord_creg (by omega)]
      rfl
    · rw [show (o + j) / 8 = 0x180 by omega, readbackWord_pc]
      rfl
    · rw [show (o + j) / 8 = 0x181 by omega, readbackWord_vl]
      rfl

theorem readback_hidden {o n : Nat} (hn : 0 < n) (ho : o + n ≤ 0xC000) (h : ¬ s.mayRead (.vf f) c) :
    execReadbackRead (.vf f) (BitVec.ofNat 12 ((0x4000000 + c.toNat * 0xC000 + o) / 65536))
      (BitVec.ofNat 16 (0x4000000 + c.toNat * 0xC000 + o)) n s = .next (s.told (.vf f) (List.replicate n 0)).deny := by
  have hc := c.isLt
  refine readbackRead_hides rfl (by omega) hn fun j hj => ?_
  rw [bar0Byte_readback (by omega), mayRead_hides h]
  exact if_neg Bool.false_ne_true

/-! #### The census window -/

/-- The offset of a bank's window. -/
def bankBase (second : Bool) : Nat := 0x2000000 + if second then 0x800000 else 0

theorem bankBase_first : bankBase false = 0x2000000 := rfl

theorem bankBase_second : bankBase true = 0x2800000 := rfl

theorem bar0Byte_census {second : Bool} {x : Bank2} (hx : (if second then s.census.bankB else s.census.bankA) = some x)
    {o : Nat} (ho : o < 0x800000) (w : Word) :
    s.bar0Byte src f (bankBase second + o) w =
      if decide (src = .pf) || s.vfCensus f o then some (s.bankByte x o w) else none := by
  cases second with
  | false =>
    have h1 : bankBase false + o - 0x2000000 = o := by rw [bankBase_first]; omega
    have h2 : s.censusByte o w = s.bankByte x o w := by
      unfold State.censusByte
      rw [if_pos ho, show s.census.bankA = some x from hx, Nat.mod_eq_of_lt ho]
    unfold State.bar0Byte
    dsimp only
    rw [h1, h2, Nat.mod_eq_of_lt ho]
    rw [bankBase_first, if_neg (by omega), if_neg (by omega), if_neg (by omega), if_pos (by omega)]
  | true =>
    have h1 : bankBase true + o - 0x2000000 = 0x800000 + o := by rw [bankBase_second]; omega
    have h3 : (0x800000 + o) % 0x800000 = o := by omega
    have h2 : s.censusByte (0x800000 + o) w = s.bankByte x o w := by
      unfold State.censusByte
      rw [if_neg (by omega), show s.census.bankB = some x from hx, h3]
    unfold State.bar0Byte
    dsimp only
    rw [h1, h2, h3]
    rw [bankBase_second, if_neg (by omega), if_neg (by omega), if_neg (by omega), if_pos (by omega)]

theorem bankByte_tag {x : Bank2} (hd : x.done = true) {j : Nat} (hj : j < 8) (w : Word) :
    s.bankByte x j w = (natToBytes 8 x.tag.toNat).getD j 0 := by
  unfold State.bankByte State.bankHeader
  dsimp only
  rw [if_pos hj, hd, if_pos rfl, List.append_assoc, List.append_assoc, List.append_assoc, List.getD_eq_getElem?_getD,
    List.getElem?_append_left (by rw [length_natToBytes]; exact hj), ← List.getD_eq_getElem?_getD]

theorem bankByte_carrel {x : Bank2} (hd : x.done = true) {c p j : Nat} (hc : c < 4096) (hp : p % 8 = 0) (hp' : p < 256)
    (hj : j < 8) (w : Word) :
    ∃ free, s.bankByte x (0x010000 + c * 256 + p + j) w =
      wordByte ((Tab.get Carrel.reset x.carrels c).censusWord (BitVec.ofNat 12 c) (p / 8) free) j := by
  have h1 : (0x010000 + c * 256 + p + j - 0x010000) / 256 = c := by omega
  have h2 : (0x010000 + c * 256 + p + j) % 256 / 8 = p / 8 := by omega
  have h3 : (0x010000 + c * 256 + p + j) % 8 = j := by omega
  have h4 : (BitVec.ofNat 12 c).toNat = c := by
    rw [BitVec.toNat_ofNat]
    exact Nat.mod_eq_of_lt hc
  unfold State.bankByte
  dsimp only
  rw [if_neg (by omega), hd, if_neg (by decide), if_neg (by omega), if_neg (by omega), if_pos (by omega), h1, h2, h3,
      h4]
  exact ⟨_, rfl⟩

theorem vfCensus_low {o : Nat} (ho : o < 0x010000) : s.vfCensus f o = false := by
  unfold State.vfCensus
  rw [if_neg (by omega), if_neg (by omega), if_neg (by omega)]

theorem vfCensus_carrel {p j : Nat} (hp : p + j < 256) :
    s.vfCensus f (0x010000 + c.toNat * 256 + p + j) = s.vfCarrel f c := by
  have hc := c.isLt
  have h1 : (0x010000 + c.toNat * 256 + p + j - 0x010000) / 256 = c.toNat := by omega
  have h2 : BitVec.ofNat 12 c.toNat = c := (BitVec.ofNat_toNat 12 c).trans (BitVec.setWidth_eq c)
  unfold State.vfCensus
  rw [if_pos (by omega), h1, h2]

variable {second : Bool} {x : Bank2}

theorem bankBase_le (second : Bool) : bankBase second ≤ 0x2800000 := by
  cases second with
  | false => rw [bankBase_first]; omega
  | true => rw [bankBase_second]

theorem censusTag_told (hx : (if second then s.census.bankB else s.census.bankA) = some x) (hd : x.done = true) :
    execReadbackRead .pf (BitVec.ofNat 12 (bankBase second / 65536)) (BitVec.ofNat 16 (bankBase second)) 8 s =
      .next (s.told .pf (natToBytes 8 x.tag.toNat)) := by
  have := bankBase_le second
  refine readbackRead_shows rfl (by omega) (length_natToBytes ..) fun j hj => ?_
  refine (bar0Byte_census (s := s.drawn) hx (o := j) (by omega) _).trans ((if_pos rfl).trans ?_)
  rw [bankByte_tag hd hj]

theorem censusTag_hidden (hx : (if second then s.census.bankB else s.census.bankA) = some x) :
    execReadbackRead (.vf f) (BitVec.ofNat 12 (bankBase second / 65536)) (BitVec.ofNat 16 (bankBase second)) 8 s =
      .next (s.told (.vf f) (List.replicate 8 0)).deny := by
  have := bankBase_le second
  refine readbackRead_hides rfl (by omega) (by decide) fun j hj => ?_
  refine (bar0Byte_census (s := s.drawn) hx (o := j) (by omega) _).trans (if_neg ?_)
  rw [vfCensus_low (by omega), decide_eq_false (fun h => by cases h)]
  exact Bool.false_ne_true

/-- A word of a carrel's record that the model gives. -/
theorem censusCarrel_told (hx : (if second then s.census.bankB else s.census.bankA) = some x) (hd : x.done = true)
    (h : s.mayRead src c) {p : Nat} {v : Word} (hp : p % 8 = 0) (hp' : p + 8 ≤ 256)
    (hv : ∀ free, (Tab.get Carrel.reset x.carrels c.toNat).censusWord c (p / 8) free = v) :
    execReadbackRead src (BitVec.ofNat 12 ((bankBase second + 0x010000 + c.toNat * 256 + p) / 65536))
      (BitVec.ofNat 16 (bankBase second + 0x010000 + c.toNat * 256 + p)) 8 s =
          .next (s.told src (natToBytes 8 v.toNat)) := by
  obtain ⟨f, hf, hlets⟩ := mayRead_lets h
  have := bankBase_le second
  have hc := c.isLt
  have h2 : BitVec.ofNat 12 c.toNat = c := (BitVec.ofNat_toNat 12 c).trans (BitVec.setWidth_eq c)
  refine readbackRead_shows hf (by omega) (length_natToBytes ..) fun j hj => ?_
  rw [show bankBase second + 0x010000 + c.toNat * 256 + p + j = bankBase second + (0x010000 + c.toNat * 256 + p + j) by
    omega]
  refine (bar0Byte_census (s := s.drawn) hx (by omega) _).trans ?_
  rw [vfCensus_carrel (by omega), if_pos hlets]
  obtain ⟨free, hb⟩ := bankByte_carrel (s := s.drawn) hd hc hp (by omega) hj (Config.freeWord s.fresh)
  rw [hb, h2, hv, getD_natToBytes hj]

theorem censusCarrel_hidden (hx : (if second then s.census.bankB else s.census.bankA) = some x)
    (h : ¬ s.mayRead (.vf f) c) {p : Nat} (hp : p + 8 ≤ 256) :
    execReadbackRead (.vf f) (BitVec.ofNat 12 ((bankBase second + 0x010000 + c.toNat * 256 + p) / 65536))
      (BitVec.ofNat 16 (bankBase second + 0x010000 + c.toNat * 256 + p)) 8 s =
      .next (s.told (.vf f) (List.replicate 8 0)).deny := by
  have := bankBase_le second
  have hc := c.isLt
  refine readbackRead_hides rfl (by omega) (by decide) fun j hj => ?_
  rw [show bankBase second + 0x010000 + c.toNat * 256 + p + j = bankBase second + (0x010000 + c.toNat * 256 + p + j) by
    omega]
  refine (bar0Byte_census (s := s.drawn) hx (by omega) _).trans ?_
  rw [vfCensus_carrel (by omega), mayRead_hides h]
  exact if_neg Bool.false_ne_true

end

end Sys2Proof.Machine

namespace Sys2Proof
open Machine

/-- Settles O47: a write goes through `State.regAccess`, a window access through the tokens, and each byte of a read
through the one rule of `State.bar0Byte` for its place. -/
theorem hostAccesses : Obligations.HostAccesses := by
  unfold Obligations.HostAccesses
  refine ⟨fun s data v => ?_, fun s off n b => ?_⟩
  · intro denied bytes wr
    refine ⟨fun src ctx off h => intakeWrite_allowed off h, fun f ctx off h => intakeWrite_denied off h,
      fun block off hb h => regWrite_partial hb h, regWrite_pf (by decide) (by decide) v,
      regWrite_pf (by decide) (by decide) v, regWrite_pf (by decide) (by decide) v,
      regWrite_pf (by decide) (by decide) v, regWrite_pf (by decide) (by decide) v,
      fun c src h => stateWrite_spec c v h, fun f block off hb hv => regWrite_vf_denied hb hv⟩
  · intro pa la ask denied told read
    refine ⟨windowReads_spec rfl, windowWrites_spec rfl b, fun f x => windowAccess_vf f off x s,
      fun block o hb ho ho8 => ⟨regRead_told (s := s) (src := .pf) hb ho ho8 rfl rfl, fun f => ?_⟩,
      fun src c o ho hn => ⟨readback_told hn ho, fun f hf hno => ?_⟩, fun second x hx hd => ?_⟩
    · cases hv : s.vfReads f block o with
      | true => exact regRead_told (src := .vf f) hb ho ho8 rfl (by rw [hv]; rfl)
      | false => exact regRead_hidden hb ho ho8 hv
    · subst hf
      exact readback_hidden hn ho hno
    · refine ⟨censusTag_told hx hd, fun f => censusTag_hidden hx, fun src c => ⟨fun hmay =>
        ⟨censusCarrel_told hx hd hmay (by decide) (by decide) fun _ => rfl,
          censusCarrel_told hx hd hmay (by decide) (by decide) fun _ => rfl⟩, fun f hf hno => ?_⟩⟩
      subst hf
      exact censusCarrel_hidden hx hno (by decide)

end Sys2Proof
end

section
/-!
# Link records of a plan, and reductions over the mesh
-/
namespace Sys2Proof.Machine

/-! ### What a record sends -/

namespace AsksOnly

theorem of_sends {s t : State} (h : SendsOnly s t) : AsksOnly s t := by
  obtain ⟨ls, ss, rfl⟩ := h
  exact ⟨s.fresh, s.chain, ls, ss, rfl⟩

theorem setChain (s : State) (c : Chain) : AsksOnly s { s with chain := c } := ⟨s.fresh, c, s.links, s.sent, rfl⟩

theorem rest {s t : State} (h : AsksOnly s t) :
    t.plans = s.plans ∧ t.carrels = s.carrels ∧ t.mem = s.mem ∧ t.tick = s.tick ∧ t.host = s.host := by
  obtain ⟨_, _, _, _, rfl⟩ := h
  exact ⟨rfl, rfl, rfl, rfl, rfl⟩

end AsksOnly

theorem barrierItem_kind (chip : BitVec 12) (n : Nat) (r : Bool) : (barrierItem chip n r).kind = 8 :=
  itemHdr_kind _ _ _ _ _ _ _ _ _

theorem fragItem_kind (chip : BitVec 12) (num ty exp : Nat) (vals : List Nat) :
    (fragItem chip num ty exp vals).kind = 9 := itemHdr_kind _ _ _ _ _ _ _ _ _

theorem releaseBarrier_asksOnly (s : State) (n : Nat) : AsksOnly s (s.releaseBarrier n) := by
  unfold State.releaseBarrier
  refine (AsksOnly.setChain s _).trans (AsksOnly.of_sends (SendsOnly.foldl (fun s d => SendsOnly.sendOn 2 s d ?_) _ _))
  rw [barrierItem_kind]
  decide

theorem arriveBarrier_asksOnly (s : State) (n who : Nat) : AsksOnly s (s.arriveBarrier n who) := by
  unfold State.arriveBarrier
  dsimp only
  generalize (if (s.chain.arrived n).contains who then s.chain.arrived n else s.chain.arrived n ++ [who]) = a
  split
  · split
    · refine (AsksOnly.setChain s _).trans (AsksOnly.of_sends (SendsOnly.sendOn 2 _ _ ?_))
      rw [barrierItem_kind]
      decide
    · exact (AsksOnly.setChain s _).trans (releaseBarrier_asksOnly _ n)
  · exact AsksOnly.setChain s _

theorem sendFrag_asksOnly (s : State) (l num ty exp : Nat) (vals : List Nat) :
    AsksOnly s (s.sendOn l (fragItem s.ownChip num ty exp vals) 2) :=
  AsksOnly.of_sends (SendsOnly.sendOn 2 s l (by rw [fragItem_kind]; decide))

theorem redPut_asksOnly (s : State) (num ty exp pos : Nat) (vals : List Nat) :
    AsksOnly s (s.redPut num ty exp pos vals) := by
  unfold State.redPut
  dsimp only
  split
  · split
    · exact AsksOnly.setChain s _
    · exact (AsksOnly.setChain s _).trans (sendFrag_asksOnly _ _ _ _ _ _)
  · exact AsksOnly.setChain s _

theorem recBlock_asksOnly {s u : State} {slot : BitVec 8} {ctx : BitVec 12} {r : LinkRec} {i : Nat}
    (h : s.recBlock slot ctx r i = some u) : AsksOnly s u := by
  unfold State.recBlock at h
  dsimp only at h
  split at h
  · split at h
    · cases h
      exact AsksOnly.sendRequest s _ _ _ _ _ _ _ _ (by decide)
    · cases h
  · obtain ⟨x, -, rfl⟩ := Option.map_eq_some_iff.mp h
    exact AsksOnly.sendRequest s _ _ _ _ _ _ _ _ (by decide)

theorem recBlocks_asksOnly (slot : BitVec 8) (ctx : BitVec 12) (r : LinkRec) (l : List Nat) :
    ∀ s : State, AsksOnly s (s.recBlocks slot ctx r l).1 := by
  induction l with
  | nil => exact fun s => AsksOnly.refl s
  | cons i l ih =>
    intro s
    unfold State.recBlocks
    split
    · next u hu => exact (recBlock_asksOnly hu).trans (ih u)
    · exact AsksOnly.refl s

theorem recSend_asksOnly (s : State) (slot : BitVec 8) (ctx : BitVec 12) (r : LinkRec) :
    AsksOnly s (s.recSend slot ctx r).1 := by
  unfold State.recSend
  split
  · dsimp only
    split
    · exact AsksOnly.sendRequest s _ _ _ _ _ _ _ _ (by decide)
    · exact AsksOnly.refl s
  · exact arriveBarrier_asksOnly ..
  · split
    · exact AsksOnly.refl s
    · dsimp only
      split
      · exact redPut_asksOnly ..
      · exact sendFrag_asksOnly ..
  · exact recBlocks_asksOnly ..

theorem recSend_barrier (s : State) (slot : BitVec 8) (ctx : BitVec 12) {r : LinkRec} (h : r.kind = 3) :
    (s.recSend slot ctx r).2 = true := by
  unfold State.recSend
  rw [h]
  rfl

/-! ### The start of a record -/

section
variable {slot : BitVec 8} {s : State} {p : Plan} {now l : List LinkRun} {x : LinkRun}

theorem takeWhile_started (hnow : ∀ y ∈ now, y.started = true) (hx : x.started = false) :
    ((now ++ x :: l).takeWhile (·.started)).length = now.length := by
  rw [List.takeWhile_append_of_pos hnow, List.takeWhile_cons_of_neg (by rw [hx]; decide), List.append_nil]

theorem getElem?_record (now l : List LinkRun) (x : LinkRun) : (now ++ x :: l)[now.length]? = some x := by
  rw [List.getElem?_append_right (Nat.le_refl _), Nat.sub_self]
  rfl

theorem listSet_record (now l : List LinkRun) (x y : LinkRun) :
    listSet (now ++ x :: l) now.length y = now ++ y :: l := by
  induction now with
  | nil => rfl
  | cons z now ih => exact congrArg (z :: ·) ih

theorem plan_modPlan_same {f : Plan → Plan} {i : Nat} (hf : ∀ p, (f p).present = p.present) (h : s.plan i = some p) :
    (s.modPlan i f).plan i = some (f p) := by
  rw [State.plan_modPlan (f := f) s i i hf, h]
  exact congrArg some (if_pos rfl)

/-- What a record's start does once its tokens are drawn. -/
def State.recStarted (s : State) (slot : BitVec 8) (ctx : BitVec 12) (i : Nat) (x : LinkRun) : State :=
  (s.recSend slot ctx (linkRec x.desc)).1.putRecord slot.toNat i
    { x with started := true, dead := !(s.recSend slot ctx (linkRec x.desc)).2 }

theorem recordStart_eq (hp : s.plan slot.toNat = some p) (hl : p.links = now ++ x :: l)
    (hnow : ∀ y ∈ now, y.started = true) (hx : x.started = false) :
    execLinkRecordStart slot s = .next (if p.tokenIn (linkRec x.desc).tokWait then
      whenLet (s.recAsk slot p.ctx (linkRec x.desc).loc (linkRec x.desc).ahead) fun s =>
        s.recStarted slot p.ctx now.length x
      else s) := by
  unfold execLinkRecordStart
  rw [hp]
  dsimp only
  rw [hl, takeWhile_started hnow hx, getElem?_record]
  rfl

/-- A record that has started. -/
def LinkRun.begun (x : LinkRun) (dead : Bool) : LinkRun := { x with started := true, dead := dead }

/-- A plan with one record replaced. -/
def Plan.recordPut (p : Plan) (i : Nat) (y : LinkRun) : Plan := { p with links := listSet p.links i y }

theorem recStarted_spec (hp : s.plan slot.toNat = some p) (hl : p.links = now ++ x :: l) :
    let t := s.recStarted slot p.ctx now.length x
    (∃ dead, t.plan slot.toNat = some { p with links := now ++ { x with started := true, dead := dead } :: l } ∧
      ((linkRec x.desc).kind = 3 → dead = false)) ∧
    t.carrels = s.carrels ∧ t.mem = s.mem ∧ t.tick = s.tick ∧ t.host = s.host := by
  obtain ⟨hplans, hcar, hmem, htick, hhost⟩ := (recSend_asksOnly s slot p.ctx (linkRec x.desc)).rest
  refine ⟨⟨!(s.recSend slot p.ctx (linkRec x.desc)).2, ?_, fun hk => ?_⟩, hcar, hmem, htick, hhost⟩
  · refine (plan_modPlan_same (f := fun q => q.recordPut now.length (x.begun !(s.recSend slot p.ctx
      (linkRec x.desc)).2)) (fun _ => rfl) ((State.plan_congr hplans _).trans hp)).trans ?_
    unfold Plan.recordPut
    rw [hl, listSet_record]
    rfl
  · rw [recSend_barrier s slot p.ctx hk] <;> rfl

end


/-! ### The end of a record -/

section
variable {slot : BitVec 8} {s t : State} {p : Plan} {now l : List LinkRun} {x : LinkRun} {data : List Byte}

/-- A record's data is stored, or it has none. -/
theorem recStore_spec (ctx : BitVec 12) (va : Word) (ht : TokensOnly s t)
    (h : data = [] ∨ ∃ pa part, s.recTrans ctx va data.length 2 = some (pa, part) ∧ s.isLocal pa = true ∧
      s.present (localOf pa) data.length = true) :
    ∃ u, t.recStore ctx va data = some u ∧ Wrote t u ∧ (data = [] → u = t) ∧
      ∀ pa part, s.recTrans ctx va data.length 2 = some (pa, part) →
        ∀ b, u.byte b = (t.setBytes (localOf pa) data).byte b := by
  unfold State.recStore
  by_cases hd : data = []
  · subst hd
    rw [if_pos rfl]
    exact ⟨t, rfl, Wrote.refl t, fun _ => rfl, fun _ _ _ _ => rfl⟩
  · obtain ⟨pa, part, htr, hloc, hp⟩ := h.resolve_left hd
    rw [if_neg hd, ht.recTrans, htr]
    dsimp only
    rw [ht.isLocal, hloc, ht.present, hp]
    refine ⟨_, if_pos rfl, State.store_wrote .., fun h => absurd h hd, fun pa' part' h' b => ?_⟩
    cases h'
    exact State.store_byte ..

/-- The plan without the record, its token released. -/
def Plan.recordEnded (p : Plan) (i : Nat) (tok : Nat) : Plan :=
  { p with
    links := p.links.take i ++ p.links.drop (i + 1)
    tokens := if tok = 0 ∨ p.tokens.contains tok then p.tokens else p.tokens ++ [tok] }

theorem recordDone_eq {u : State} (hp : s.plan slot.toNat = some p) (hl : p.links = now ++ x :: l)
    (hx : x.started = true) (hdead : x.dead = false) (hlen : data.length = (linkRec x.desc).back)
    (hask : (s.recAsk slot p.ctx (linkRec x.desc).loc (linkRec x.desc).back).1 = true)
    (hu : (s.recAsk slot p.ctx (linkRec x.desc).loc (linkRec x.desc).back).2.recStore p.ctx (linkRec x.desc).loc data =
      some u) :
    execLinkRecordDone slot ⟨now.length, data⟩ s =
      .next (u.modPlan slot.toNat fun p => p.recordEnded now.length (linkRec x.desc).tokRel) := by
  unfold execLinkRecordDone
  dsimp only
  rw [hp]
  dsimp only
  rw [hl, getElem?_record]
  dsimp only
  refine congrArg Host.Outcome.next ((if_pos ⟨hx, hdead, hlen⟩).trans ((if_pos hask).trans ?_))
  dsimp only
  rw [hu]
  rfl

theorem recordEnded_eq (hl : p.links = now ++ x :: l) (tok : Nat) :
    p.recordEnded now.length tok = { p with
      links := now ++ l
      tokens := if tok = 0 ∨ tok ∈ p.tokens then p.tokens else p.tokens ++ [tok] } := by
  have hlinks : p.links.take now.length ++ p.links.drop (now.length + 1) = now ++ l := by
    rw [hl, List.take_left, ← List.drop_drop, List.drop_left]
    rfl
  unfold Plan.recordEnded
  rw [hlinks]
  simp only [List.contains_iff_mem]

theorem recordDone_spec (hp : s.plan slot.toNat = some p) (hl : p.links = now ++ x :: l)
    (hx : x.started = true) (hdead : x.dead = false) (hlen : data.length = (linkRec x.desc).back)
    (hask : (s.recAsk slot p.ctx (linkRec x.desc).loc (linkRec x.desc).back).1 = true)
    (hdata : data = [] ∨ ∃ pa part, s.recTrans p.ctx (linkRec x.desc).loc data.length 2 = some (pa, part) ∧
      s.isLocal pa = true ∧ s.present (localOf pa) data.length = true) :
    let r := linkRec x.desc
    let ask := s.recAsk slot p.ctx r.loc r.back
    ∃ t, execLinkRecordDone slot ⟨now.length, data⟩ s = .next t ∧
      t = { ask.2 with mem := t.mem, lost := t.lost, plans := t.plans } ∧
      t.plan slot.toNat = some { p with
        links := now ++ l
        tokens := if r.tokRel = 0 ∨ r.tokRel ∈ p.tokens then p.tokens else p.tokens ++ [r.tokRel] } ∧
      (data = [] → t.mem = s.mem) ∧
      ∀ pa part, s.recTrans p.ctx r.loc data.length 2 = some (pa, part) →
        t.bytes (localOf pa) data.length = data ∧
        ∀ b, (b < localOf pa ∨ localOf pa + data.length ≤ b) → t.byte b = s.byte b := by
  intro r ask
  have ht : TokensOnly s ask.2 := askHbm_tokensOnly ..
  obtain ⟨u, hu, hwrote, hnil, hbyte⟩ := recStore_spec p.ctx r.loc ht hdata
  have hplans : u.plans = s.plans := by rw [hwrote.rest, ht.rest]
  refine ⟨_, recordDone_eq hp hl hx hdead hlen hask hu, ?_, ?_, fun hd => ?_, fun pa part htr => ⟨?_, fun b hb => ?_⟩⟩
  · exact congrArg (fun w : State => { w with
      plans := (u.modPlan slot.toNat fun p => p.recordEnded now.length r.tokRel).plans }) hwrote.rest
  · refine (plan_modPlan_same (s := u) (f := fun p => p.recordEnded now.length r.tokRel) (fun _ => rfl)
      ((State.plan_congr hplans _).trans hp)).trans ?_
    rw [recordEnded_eq hl]
  · show u.mem = s.mem
    rw [hnil hd, ht.rest]
  · refine (State.bytes_congr (s := ask.2.setBytes (localOf pa) data) fun j _ => hbyte pa part htr _).trans ?_
    exact State.bytes_setBytes_same ..
  · refine (hbyte pa part htr b).trans ?_
    rw [State.byte_setBytes, if_neg (by omega), ht.byte]

end

/-! ### Fragments of a reduction -/

section
variable {s : State}

theorem allSome_eq_some {α : Type} : ∀ {l : List (Option α)} {r : List α}, allSome l = some r ↔ l = r.map some := by
  intro l
  induction l with
  | nil =>
    intro r
    cases r <;> simp [allSome]
  | cons o l ih =>
    intro r
    cases o with
    | none => cases r <;> simp [allSome]
    | some x =>
      cases r with
      | nil => simp [allSome]
      | cons y r => simp [allSome, ih, and_comm]

/-- A node's reduction with one more value. -/
def Reduction.with (r : Reduction) (pos : Nat) (vals : List Nat) : Reduction :=
  { r with parts := Tab.set none r.parts pos (some vals) }

/-- The values of a reduction combined, once all are there. -/
def Reduction.ended (r : Reduction) (order : List Nat) : Reduction :=
  match allSome (order.map (Tab.get none r.parts)) with
  | some (x :: l) => { r with result := some (l.foldl (redAddAll r.type) x) }
  | _ => r

/-- A value at the root: it is kept, and the last one completes the reduction. -/
theorem redPut_root {num ty exp pos : Nat} {vals : List Nat} {r : Reduction} (hr : s.chain.redOf num = some r)
    (hres : r.result = none) (hroot : s.redParent = 15) :
    s.redPut num ty exp pos vals = { s with chain := { s.chain with
      reds := (r.with pos vals).ended s.redOrder :: s.chain.reds.filter fun r => decide (r.num ≠ num) } } := by
  unfold State.redPut
  rw [hr]
  dsimp only
  rw [hres]
  simp only [Option.isSome_none, Bool.false_eq_true, if_false]
  unfold Reduction.ended Reduction.with
  dsimp only
  generalize allSome (s.redOrder.map (Tab.get none (Tab.set none r.parts pos (some vals)))) = o
  rcases o with _ | _ | ⟨x, l⟩
  · rfl
  · rfl
  · exact if_pos hroot

theorem ended_num (r : Reduction) (order : List Nat) : (r.ended order).num = r.num := by
  unfold Reduction.ended
  split <;> rfl

theorem ended_parts (r : Reduction) (order : List Nat) : (r.ended order).parts = r.parts := by
  unfold Reduction.ended
  split <;> rfl

theorem ended_result {r : Reduction} {order : List Nat} {x : List Nat} {xs : List (List Nat)}
    (h : order.map (Tab.get none r.parts) = (x :: xs).map some) :
    (r.ended order).result = some (xs.foldl (redAddAll r.type) x) := by
  unfold Reduction.ended
  rw [allSome_eq_some.mpr h]

theorem redOf_num {c : Chain} {num : Nat} {r : Reduction} (h : c.redOf num = some r) : r.num = num :=
  of_decide_eq_true (List.find?_some (p := fun r : Reduction => decide (r.num = num)) h)

variable {l : Fin 12} {u : State} {i : Item}

theorem takeRx_chain {n : Nat} {P : Item → Bool} (h : s.takeRx n P = some (i, u)) : u.chain = s.chain := by
  unfold State.takeRx at h
  obtain ⟨j, -, hj⟩ := Option.map_eq_some_iff.mp h
  cases hj
  rfl

/-- The rule by which a fragment is taken. -/
theorem fragment_eq
    (h : s.takeRx l.val (fun i => decide (i.kind = 9) && decide (fieldN (i.unit 1) 0 16 ≠ 0xFFFF)) = some (i, u)) :
    execReductionFragment l s = .next (if s.redOrder.contains l.val then
      u.redPut (fieldN (i.unit 1) 0 16) (fieldN (i.unit 1) 16 5) (fieldN (i.unit 1) 21 12) l.val
        (unpackValues (fieldN (i.unit 1) 16 5) (fieldN (i.unit 1) 33 16) (i.drop 2)) else u) := by
  have horder : u.redOrder = s.redOrder := by
    unfold State.redOrder
    rw [takeRx_chain h]
  unfold execReductionFragment
  rw [h]
  dsimp only
  rw [horder]

theorem fragment_spec
    (h : s.takeRx l.val (fun i => decide (i.kind = 9) && decide (fieldN (i.unit 1) 0 16 ≠ 0xFFFF)) = some (i, u))
    {r : Reduction} (hr : u.chain.redOf (fieldN (i.unit 1) 0 16) = some r) (hres : r.result = none)
    (hl : l.val ∈ s.redOrder) (hroot : s.redParent = 15) :
    let vals := unpackValues (fieldN (i.unit 1) 16 5) (fieldN (i.unit 1) 33 16) (i.drop 2)
    ∃ t, execReductionFragment l s = .next t ∧ t = { u with chain := { u.chain with reds := t.chain.reds } } ∧
      ∃ q, t.chain.redOf (fieldN (i.unit 1) 0 16) = some q ∧ Tab.get none q.parts l.val = some vals ∧
        (∀ n, n ≠ l.val → Tab.get none q.parts n = Tab.get none r.parts n) ∧
        ∀ x xs, s.redOrder.map (fun n => if n = l.val then some vals else Tab.get none r.parts n) = (x :: xs).map some →
          q.result = some (xs.foldl (redAddAll r.type) x) := by
  intro vals
  have hchain := takeRx_chain h
  have horder : u.redOrder = s.redOrder := by
    unfold State.redOrder
    rw [hchain]
  have hroot' : u.redParent = 15 := by
    unfold State.redParent at hroot ⊢
    rw [hchain]
    exact hroot
  have hget (n : Nat) : Tab.get none (r.with l.val vals).parts n = if n =
      l.val then some vals else Tab.get none r.parts n :=
    Tab.get_set none r.parts l.val n (some vals)
  have hput := redPut_root (ty := fieldN (i.unit 1) 16 5) (exp := fieldN (i.unit 1) 21 12) (pos := l.val) (vals := vals)
    hr hres hroot'
  refine ⟨_, (fragment_eq h).trans (congrArg Host.Outcome.next ((if_pos (List.contains_iff_mem.mpr hl)).trans hput)),
      rfl,
    (r.with l.val vals).ended u.redOrder, ?_, ?_, fun n hn => ?_, fun x xs hx => ?_⟩
  · refine List.find?_cons_of_pos (decide_eq_true ?_)
    rw [ended_num]
    show r.num = _
    exact redOf_num hr
  · rw [ended_parts, hget, if_pos rfl]
  · rw [ended_parts, hget, if_neg hn]
  · refine ended_result ?_
    rw [horder, ← hx]
    exact List.map_congr_left fun n _ => hget n

end


/-! ### The tree over a module's carrels -/

section
variable {f : List Nat → List Nat → List Nat} (hl : ∀ y, f [] y = y) (hr : ∀ x, f x [] = x)
include hl hr

theorem getD_redLevel : ∀ (l : List (List Nat)) (m : Nat),
    (redLevel f l).getD m [] = f (l.getD (2 * m) []) (l.getD (2 * m + 1) [])
  | [], _ => (hl []).symm
  | [x], 0 => (hr x).symm
  | [_], _ + 1 => (hl []).symm
  | _ :: _ :: _, 0 => rfl
  | _ :: _ :: l, m + 1 => getD_redLevel l m

/-- A tree in which one position has values hands them through. -/
theorem redTree_single : ∀ (k : Nat) (l : List (List Nat)) (j : Nat), j < 2 ^ k → (∀ m, m ≠ j → l.getD m [] = []) →
    redTree f k l = l.getD j [] := by
  intro k
  induction k with
  | zero =>
    intro l j hj _
    have hj0 : j = 0 := by omega
    subst hj0
    cases l <;> rfl
  | succ k ih =>
    intro l j hj h
    have hlevel := getD_redLevel hl hr l
    refine (ih (redLevel f l) (j / 2) (by omega) fun m hm => ?_).trans ?_
    · rw [hlevel, h _ (by omega), h _ (by omega), hl]
    · rw [hlevel]
      rcases Nat.mod_two_eq_zero_or_one j with hj2 | hj2
      · rw [h (2 * (j / 2) + 1) (by omega), hr, show 2 * (j / 2) = j by omega]
      · rw [h (2 * (j / 2)) (by omega), hl, show 2 * (j / 2) + 1 = j by omega]

theorem redTree_empty (k : Nat) {l : List (List Nat)} (h : ∀ m, l.getD m [] = []) : redTree f k l = [] :=
  (redTree_single hl hr k l 0 (Nat.two_pow_pos k) fun m _ => h m).trans (h 0)

/-- Two levels of the tree: one group of four has values. -/
theorem redTree_quad {l : List (List Nat)} {q : Nat} (hq : q < 4) (h : ∀ m, m / 4 ≠ q → l.getD m [] = []) :
    redTree f 4 l = f (f (l.getD (4 * q) []) (l.getD (4 * q + 1) [])) (f (l.getD (4 * q + 2) []) (l.getD (4 * q + 3)
        [])) := by
  have h2 (m : Nat) : (redLevel f (redLevel f l)).getD m [] =
      f (f (l.getD (4 * m) []) (l.getD (4 * m + 1) [])) (f (l.getD (4 * m + 2) []) (l.getD (4 * m + 3) [])) := by
    rw [getD_redLevel hl hr, getD_redLevel hl hr, getD_redLevel hl hr, show 2 * (2 * m) = 4 * m by omega,
      show 2 * (2 * m + 1) = 4 * m + 2 by omega]
  show redTree f 2 (redLevel f (redLevel f l)) = _
  rw [redTree_single hl hr 2 _ q (by omega) fun m hm => ?_, h2]
  rw [h2, h _ (by omega), h _ (by omega), h _ (by omega), h _ (by omega), hl, hl]

end

theorem getD_map_upto_of_le {α : Type} (f : Nat → α) (d : α) {n i : Nat} (h : n ≤ i) :
    ((upto n).map f).getD i d = d := by
  rw [List.getD_eq_getElem?_getD, List.getElem?_eq_none]
  · rfl
  · unfold upto
    rw [List.length_map, List.length_range]
    exact h

/-- A list over `upto n` whose entries are empty but at `j`. -/
theorem getD_map_upto_empty {g : Nat → List Nat} {n m : Nat} (h : m < n → g m = []) :
    ((upto n).map g).getD m [] = [] := by
  by_cases hm : m < n
  · exact (getD_map_upto _ _ hm).trans (h hm)
  · exact getD_map_upto_of_le _ _ (Nat.le_of_not_lt hm)

section
variable (ty : Nat) {part : Nat → List Nat}

theorem redAddAll_nil_left (y : List Nat) : redAddAll ty [] y = y := if_pos rfl

theorem redAddAll_nil_right (x : List Nat) : redAddAll ty x [] = x := by
  unfold redAddAll
  split
  · next h => exact h.symm
  · exact if_pos rfl

/-- The value of one bay's carrels. -/
def baySum (part : Nat → List Nat) (die bay : Nat) : List Nat :=
  redTree (redAddAll ty) 4 ((upto 16).map fun slot => part (die * 2048 + bay * 16 + slot))

/-- The value of one die's carrels. -/
def dieSum (part : Nat → List Nat) (die : Nat) : List Nat :=
  redTree (redAddAll ty) 7 ((upto 128).map (baySum ty part die))

theorem reduceModule_eq : reduceModule ty part = redAddAll ty (dieSum ty part 0) (dieSum ty part 1) := rfl

theorem baySum_empty {die bay : Nat} (h : ∀ slot, slot < 16 → part (die * 2048 + bay * 16 + slot) = []) :
    baySum ty part die bay = [] :=
  redTree_empty (redAddAll_nil_left ty) (redAddAll_nil_right ty) 4 fun m => getD_map_upto_empty (h m)

theorem dieSum_empty {die : Nat} (h : ∀ c, c < 2048 → part (die * 2048 + c) = []) : dieSum ty part die = [] :=
  redTree_empty (redAddAll_nil_left ty) (redAddAll_nil_right ty) 7 fun m => getD_map_upto_empty fun hm =>
    baySum_empty ty fun slot hs => by
      rw [Nat.add_assoc]
      exact h (m * 16 + slot) (by omega)

/-- A die in which one bay has values. -/
theorem dieSum_bay {die bay : Nat} (hb : bay < 128)
    (h : ∀ b slot, b < 128 → slot < 16 → b ≠ bay → part (die * 2048 + b * 16 + slot) = []) :
    dieSum ty part die = baySum ty part die bay := by
  unfold dieSum
  rw [redTree_single (redAddAll_nil_left ty) (redAddAll_nil_right ty) 7 _ bay hb fun m hm => ?_, getD_map_upto _ _ hb]
  exact getD_map_upto_empty fun hlt => baySum_empty ty fun slot hs => h m slot hlt hs hm

/-- A die with one carrel that has values. -/
theorem dieSum_single {die a : Nat} (ha : a < 2048) (h : ∀ c, c < 2048 → c ≠ a → part (die * 2048 + c) = []) :
    dieSum ty part die = part (die * 2048 + a) := by
  rw [dieSum_bay ty (bay := a / 16) (by omega) fun b slot hb hs hne => by
    rw [Nat.add_assoc]
    exact h _ (by omega) (by omega)]
  unfold baySum
  rw [redTree_single (redAddAll_nil_left ty) (redAddAll_nil_right ty) 4 _ (a % 16) (by omega) fun m hm => ?_,
    getD_map_upto _ _ (by omega), Nat.add_assoc, show a / 16 * 16 + a % 16 = a by omega]
  exact getD_map_upto_empty fun hlt => by
    rw [Nat.add_assoc]
    exact h _ (by omega) (by omega)

/-- A die in which one aligned group of four carrels has values. -/
theorem dieSum_quad {die q : Nat} (hq : q < 512) (h : ∀ c, c < 2048 → c / 4 ≠ q → part (die * 2048 + c) = []) :
    dieSum ty part die = redAddAll ty
      (redAddAll ty (part (die * 2048 + 4 * q)) (part (die * 2048 + (4 * q + 1))))
      (redAddAll ty (part (die * 2048 + (4 * q + 2))) (part (die * 2048 + (4 * q + 3)))) := by
  rw [dieSum_bay ty (bay := q / 4) (by omega) fun b slot hb hs hne => by
    rw [Nat.add_assoc]
    exact h _ (by omega) (by omega)]
  have hget (j : Nat) (hj : j < 4) :
      ((upto 16).map fun slot => part (die * 2048 + q / 4 * 16 + slot)).getD (4 * (q % 4) + j) [] =
        part (die * 2048 + (4 * q + j)) := by
    rw [getD_map_upto _ _ (by omega), Nat.add_assoc, show q / 4 * 16 + (4 * (q % 4) + j) = 4 * q + j by omega]
  have h0 := hget 0 (by decide)
  unfold baySum
  rw [redTree_quad (redAddAll_nil_left ty) (redAddAll_nil_right ty) (q := q % 4) (by omega) fun m hm => ?_,
      hget 1 (by decide),
    hget 2 (by decide), hget 3 (by decide)]
  · rw [Nat.add_zero, Nat.add_zero] at h0
    rw [h0]
  · exact getD_map_upto_empty fun hlt => by
      rw [Nat.add_assoc]
      exact h _ (by omega) (by omega)

/-- One aligned group of four carrels of the module. -/
theorem reduceModule_quad {i : Nat} (hi : i < 1024) (h : ∀ c, part c = [] ∨ c / 4 = i) :
    reduceModule ty part = redAddAll ty (redAddAll ty (part (4 * i)) (part (4 * i + 1)))
      (redAddAll ty (part (4 * i + 2)) (part (4 * i + 3))) := by
  have hother (c : Nat) (hc : c / 4 ≠ i) : part c = [] := (h c).resolve_right hc
  rw [reduceModule_eq]
  by_cases hd : i < 512
  · rw [dieSum_empty ty (die := 1) fun c _ => hother _ (by omega), redAddAll_nil_right,
      dieSum_quad ty (die := 0) (q := i) hd fun c _ hc => hother _ (by omega)]
    simp only [Nat.zero_mul, Nat.zero_add]
  · rw [dieSum_empty ty (die := 0) fun c _ => hother _ (by omega), redAddAll_nil_left,
      dieSum_quad ty (die := 1) (q := i - 512) (by omega) fun c _ hc => hother _ (by omega)]
    rw [show 1 * 2048 + 4 * (i - 512) = 4 * i by omega, show 1 * 2048 + (4 * (i - 512) + 1) = 4 * i + 1 by omega,
      show 1 * 2048 + (4 * (i - 512) + 2) = 4 * i + 2 by omega, show 1 * 2048 + (4 * (i - 512) + 3) =
          4 * i + 3 by omega]

/-- One carrel of each die. -/
theorem reduceModule_dies {a b : Nat} (ha : a < 2048) (hb : b < 2048) (h : ∀ c, part c = [] ∨ c = a ∨ c = 2048 + b) :
    reduceModule ty part = redAddAll ty (part a) (part (2048 + b)) := by
  have hother (c : Nat) (h1 : c ≠ a) (h2 : c ≠ 2048 + b) : part c = [] :=
    (h c).resolve_right (not_or.mpr ⟨h1, h2⟩)
  rw [reduceModule_eq, dieSum_single ty (die := 0) ha fun c hc hne => hother _ (by omega) (by omega),
    dieSum_single ty (die := 1) hb fun c hc hne => hother _ (by omega) (by omega), Nat.zero_mul, Nat.zero_add,
    Nat.one_mul]

end

end Sys2Proof.Machine

namespace Sys2Proof
open Machine

/-- Settles O30: what a record sends changes no plan, a fragment is one more value of its node, and a level of the
pairing tree hands a lone position through. -/
theorem linkRecordsAndReductions : Obligations.LinkRecordsAndReductions := by
  unfold Obligations.LinkRecordsAndReductions
  refine ⟨fun slot s p now x l hp hl hnow hx => ?_, fun slot data s p x now l hp hl hx hdead hlen hask hdata =>
    recordDone_spec hp hl hx hdead hlen hask hdata, fun l s u i h => ⟨fun hno => ?_, fun r hr hres hl hroot =>
      fragment_spec h hr hres hl hroot⟩, fun ty part => ⟨fun i hi h => reduceModule_quad ty hi h,
      fun a b ha hb h => reduceModule_dies ty ha hb h⟩⟩
  · intro tok ask
    have ht : TokensOnly s ask.2 := askHbm_tokensOnly ..
    have hstart := recordStart_eq hp hl hnow hx
    have htok : p.tokenIn (linkRec x.desc).tokWait = true ↔ tok = 0 ∨ tok ∈ p.tokens := by
      unfold Plan.tokenIn
      rw [Bool.or_eq_true, decide_eq_true_eq, List.contains_iff_mem]
      rfl
    refine ⟨fun hin hno => ?_, fun hin hyes => ?_, fun h0 hno => ?_⟩
    · exact hstart.trans (congrArg Host.Outcome.next ((if_pos (htok.mpr hin)).trans
        (if_neg (Bool.eq_false_iff.mp hno))))
    · have hplan : ask.2.plan slot.toNat = some p := (State.plan_congr (by rw [ht.rest]) _).trans hp
      obtain ⟨hput, hcar, hmem, htick, hhost⟩ := recStarted_spec hplan hl
      refine ⟨_, hstart.trans (congrArg Host.Outcome.next ((if_pos (htok.mpr hin)).trans (if_pos hyes))), hput,
        hcar.trans (by rw [ht.rest]), hmem.trans (by rw [ht.rest]), htick.trans (by rw [ht.rest]),
        hhost.trans (by rw [ht.rest])⟩
    · exact hstart.trans (congrArg Host.Outcome.next (if_neg fun h => (htok.mp h).elim h0 hno))
  · exact (fragment_eq h).trans (congrArg Host.Outcome.next
      (if_neg fun hc => hno (List.contains_iff_mem.mp hc)))

end Sys2Proof
end

section
/-!
# What the opening of an intake window keeps
-/
namespace Sys2Proof.Machine

/-- What the first cycle of an intake window keeps: the start, the keepers, the tick's fields, the bad bays, the
dictionary but for the functions, and every function that is ON. -/
structure Opened (s t : State) : Prop where
  start : t.start = s.start
  keepers : t.keepers = s.keepers
  tick : t.tick = s.tick
  badBays : t.map.badBays = s.map.badBays
  dict : t.dict = { s.dict with funcs := t.dict.funcs }
  funcs : ∀ fn, (s.func fn).state = 2 → t.func fn = s.func fn

namespace Opened

theorem refl (s : State) : Opened s s := ⟨rfl, rfl, rfl, rfl, rfl, fun _ _ => rfl⟩

variable {s t u : State}

theorem trans (h : Opened s t) (g : Opened t u) : Opened s u where
  start := g.start.trans h.start
  keepers := g.keepers.trans h.keepers
  tick := g.tick.trans h.tick
  badBays := g.badBays.trans h.badBays
  dict := by rw [g.dict, h.dict]
  funcs fn h2 := by
    have ht := h.funcs fn h2
    exact (g.funcs fn (by rw [ht]; exact h2)).trans ht

/-- Work that leaves the dictionary alone. -/
theorem of_eq (hstart : t.start = s.start) (hkeep : t.keepers = s.keepers) (htick : t.tick = s.tick)
    (hbad : t.map.badBays = s.map.badBays) (hdict : t.dict = s.dict) : Opened s t where
  start := hstart
  keepers := hkeep
  tick := htick
  badBays := hbad
  dict := by rw [hdict]
  funcs fn _ := by unfold State.func; rw [hdict]

theorem foldl {α : Type} {f : State → α → State} (hf : ∀ s x, Opened s (f s x)) (l : List α) (s : State) :
    Opened s (l.foldl f s) :=
  List.foldlRecOn (motive := Opened s) l f (refl s) fun t ht x _ => ht.trans (hf t x)

theorem restoreByte (s : State) (c off : Nat) (d : Option Byte) : Opened s (s.restoreByte c off d) := by
  unfold State.restoreByte
  dsimp only
  repeat' split
  all_goals exact of_eq rfl rfl rfl rfl rfl

theorem freshCarrel (s : State) (c : Nat) : Opened s (s.freshCarrel c) := by
  unfold State.freshCarrel
  dsimp only
  generalize upto shelfSize = l
  split
  · refine trans ?_ (foldl (fun t o => restoreByte t c o none) _ _)
    exact of_eq rfl rfl rfl rfl rfl
  · exact of_eq rfl rfl rfl rfl rfl

theorem mapEffect (s : State) : Opened s s.mapEffect := by
  unfold State.mapEffect
  dsimp only
  refine ((foldl (fun t x => ?_) _ s).trans (foldl (fun t x => ?_) _ _)).trans (of_eq rfl rfl rfl rfl rfl)
  · split
    · refine trans ?_ (freshCarrel _ _)
      exact of_eq rfl rfl rfl rfl rfl
    · exact refl t
  · split
    · refine trans ?_ (foldl (fun t i => freshCarrel t _) _ _)
      exact of_eq rfl rfl rfl rfl rfl
    · exact refl t

/-- A function in another state than ON that is set. -/
theorem setFunc {fn : FuncId} (h : (s.func fn).state ≠ 2) (x : Func) : Opened s (s.setFunc fn x) where
  start := rfl
  keepers := rfl
  tick := rfl
  badBays := rfl
  dict := rfl
  funcs _ h2 := State.func_setFunc_other s x fun hg => h (hg ▸ h2)

theorem startDone (s : State) (fn : FuncId) (ok : Bool) : Opened s (s.startDone fn ok) := by
  by_cases h1 : (s.func fn).state = 1
  · have hset (x : Func) : Opened s (s.setFunc fn x) := setFunc (by rw [h1]; decide) x
    unfold State.startDone
    dsimp only
    rw [if_pos h1]
    cases ok
    · exact hset _
    · rw [if_pos rfl]
      have h2 := hset { s.func fn with state := 2 }
      generalize s.setFunc fn { s.func fn with state := 2 } = t at h2 ⊢
      cases fn <;> exact h2.trans (of_eq rfl rfl rfl rfl rfl)
  · have hno : s.startDone fn ok = s := if_neg h1
    rw [hno]
    exact refl s

theorem modStacks (g : State → Stack → Stack) (l : List Nat) (s : State) :
    Opened s (l.foldl (fun s i => s.modStack i (g s)) s) :=
  foldl (f := fun s i => s.modStack i (g s)) (fun _ _ => of_eq rfl rfl rfl rfl rfl) l s

theorem stopDone_part (s : State) (p : BitVec 6) : Opened s (s.stopDone (.part p)) := by
  by_cases h3 : (s.func (.part p)).state = 3
  · rw [stopDone_ends h3 (by simp)]
    have hw : Opened s (s.stopWork (.part p)) :=
      modStacks (fun _ k =>
        { k with planBkt := Tab.set 0 k.planBkt p.toNat 0, unplBkt := Tab.set 0 k.unplBkt p.toNat 0 }) _ s
    have hf := (stopWork_keeps s (.part p)).func (.part p)
    refine hw.trans ?_
    have hset (x : Func) : Opened (s.stopWork (.part p)) ((s.stopWork (.part p)).setFunc (.part p) x) :=
      setFunc (by rw [hf, h3]; decide) x
    unfold State.stopEnd
    dsimp only
    split
    · exact hset _
    · exact hset _
  · have hno : s.stopDone (.part p) = s := if_neg h3
    rw [hno]
    exact refl s

theorem funcBoundary (s : State) : Opened s s.funcBoundary := by
  unfold State.funcBoundary
  refine foldl (fun t x => ?_) _ s
  obtain ⟨k, f⟩ := x
  dsimp only
  by_cases hp : 0x200 ≤ k ∧ k < 0x240
  · rw [if_pos hp]
    dsimp only
    split
    · exact startDone t _ _
    · split
      · exact stopDone_part t _
      · exact refl t
  · rw [if_neg hp]
    by_cases hc : 0x1000 ≤ k
    · rw [if_pos hc]
      dsimp only
      split
      · exact startDone t _ _
      · rw [if_neg (by omega)]
        exact refl t
    · rw [if_neg hc]
      exact refl t

theorem attCapture (s : State) (m : Nat) : Opened s (s.attCapture m) := by
  unfold State.attCapture
  dsimp only
  repeat' split
  all_goals exact of_eq rfl rfl rfl rfl rfl

theorem takeCmds (ctx n : Nat) : ∀ s : State, Opened s (s.takeCmds ctx n).1 := by
  induction n with
  | zero => exact refl
  | succ n ih =>
    intro s
    unfold State.takeCmds
    dsimp only
    split
    · refine trans ?_ (ih _)
      exact of_eq rfl rfl rfl rfl rfl
    · exact refl s

theorem badSeals (s : State) (ctx : Nat) : Opened s (s.badSeals ctx) := by
  unfold State.badSeals
  dsimp only
  split
  · exact of_eq rfl rfl rfl rfl rfl
  · exact refl s

theorem intake (s : State) : Opened s s.intake := by
  have hfold (l : List Nat) (n : Nat) (f : State × Nat → Nat → State × Nat) (hf : ∀ q i, Opened q.1 (f q i).1) :
      Opened s (l.foldl f (s, n)).1 :=
    List.foldlRecOn l f (motive := fun q => Opened s q.1) (refl s) fun q hq i _ => hq.trans (hf q i)
  rw [State.intake]
  refine hfold _ _ _ fun q i => ?_
  obtain ⟨t, left⟩ := q
  dsimp only
  split
  · exact (badSeals t _).trans (takeCmds _ _ _)
  · exact refl t

end Opened

/-- The regulators of the stacks for the tick that begins. -/
def State.refillStacks (s : State) : State :=
  (upto 8).foldl (fun s' i => s'.modStack i fun k => k.refill (workCycles s.tick.len.toNat) (decide (s.moduleLevel = 2))
    fun p => s'.funcOn (.part (BitVec.ofNat 6 p))) s

theorem openIntake_eq (s : State) : s.openIntake =
    { s with tick := { s.tick with part := .intake } }.mapEffect.funcBoundary.refillStacks.starts.attCaptures.intake
        := rfl

/-- The first cycle of an intake window, from the state that is in it. -/
theorem openIntake_opened (s : State) : Opened { s with tick := { s.tick with part := .intake } } s.openIntake := by
  have hstacks (t : State) : Opened t t.refillStacks := Opened.modStacks _ _ _
  have hstarts (t : State) : Opened t t.starts := Opened.of_eq rfl rfl rfl rfl rfl
  have hatt (t : State) : Opened t t.attCaptures := Opened.foldl Opened.attCapture _ _
  rw [openIntake_eq]
  generalize { s with tick := { s.tick with part := .intake } } = u
  exact (Opened.mapEffect u).trans ((Opened.funcBoundary _).trans ((hstacks _).trans ((hstarts _).trans
    ((hatt _).trans (Opened.intake _)))))

end Sys2Proof.Machine
end

section
/-!
# Start-up
-/
namespace Sys2Proof.Machine

/-! ### What a step of start-up keeps -/

/-- The day book set. -/
def State.withBook (s : State) (l : List DayRec) : State := { s with start := { s.start with book := l } }

/-- A record changes the day book only. -/
theorem day_eq (s : State) (step kind item outcome choice reason : Nat) (time : BitVec 32) (detail : Nat) :
    ∃ l, s.day step kind item outcome choice reason time detail = s.withBook l :=
  ⟨_, rfl⟩

theorem withBook_withBook (s : State) (a b : List DayRec) : (s.withBook a).withBook b = s.withBook b := rfl

theorem stepRecord_eq (s : State) (step : Nat) (ok : Bool) (reason : Nat) (w : Word) :
    ∃ l, s.stepRecord step ok reason w = s.withBook l := by
  unfold State.stepRecord
  exact day_eq ..

/-- What the steps of start-up keep: the places of a start, the keepers, the tick, the stacks, the dictionary but for
the functions, and that a function that is no link is ON. -/
structure StepKept (s t : State) : Prop where
  count : t.start.count = s.start.count
  bayMiss : t.start.bayMiss = s.start.bayMiss
  keepers : t.keepers = s.keepers
  tick : t.tick = s.tick
  badBays : t.map.badBays = s.map.badBays
  hbm : t.hbm = s.hbm
  dict : t.dict = { s.dict with funcs := t.dict.funcs }
  funcs : ∀ fn, (∀ l, fn ≠ .link l) → (s.func fn).state = 2 → (t.func fn).state = 2

theorem State.func_congr {s t : State} (h : t.dict = s.dict) (fn : FuncId) : t.func fn = s.func fn := by
  unfold State.func
  rw [h]

namespace StepKept

variable {s t u : State}

theorem of_eq (h1 : t.start.count = s.start.count) (h2 : t.start.bayMiss = s.start.bayMiss)
    (h3 : t.keepers = s.keepers) (h4 : t.tick = s.tick) (h5 : t.map.badBays = s.map.badBays) (h6 : t.hbm = s.hbm)
    (h7 : t.dict = s.dict) : StepKept s t where
  count := h1
  bayMiss := h2
  keepers := h3
  tick := h4
  badBays := h5
  hbm := h6
  dict := by rw [h7]
  funcs fn _ h := by
    unfold State.func at h ⊢
    rw [h7]
    exact h

theorem refl (s : State) : StepKept s s := of_eq rfl rfl rfl rfl rfl rfl rfl

theorem trans (h : StepKept s t) (g : StepKept t u) : StepKept s u where
  count := g.count.trans h.count
  bayMiss := g.bayMiss.trans h.bayMiss
  keepers := g.keepers.trans h.keepers
  tick := g.tick.trans h.tick
  badBays := g.badBays.trans h.badBays
  hbm := g.hbm.trans h.hbm
  dict := by rw [g.dict, h.dict]
  funcs fn hfn h2 := g.funcs fn hfn (h.funcs fn hfn h2)

theorem foldl {α : Type} {f : State → α → State} (hf : ∀ s x, StepKept s (f s x)) (l : List α) (s : State) :
    StepKept s (l.foldl f s) :=
  List.foldlRecOn (motive := StepKept s) l f (refl s) fun t ht x _ => ht.trans (hf t x)

/-- A fold whose steps keep what the ones before them left of it. -/
theorem foldl_of {α : Type} {P : State → Prop} {f : State → α → State} (hP : ∀ s t, StepKept s t → P s → P t)
    (hf : ∀ s x, P s → StepKept s (f s x)) (l : List α) {s : State} (hs : P s) : StepKept s (l.foldl f s) :=
  List.foldlRecOn (motive := StepKept s) l f (refl s) fun t ht x _ => ht.trans (hf t x (hP s t ht hs))

theorem day (s : State) (step kind item outcome choice reason : Nat) (time : BitVec 32) (detail : Nat) :
    StepKept s (s.day step kind item outcome choice reason time detail) := by
  obtain ⟨l, hl⟩ := day_eq s step kind item outcome choice reason time detail
  rw [hl]
  exact of_eq rfl rfl rfl rfl rfl rfl rfl

theorem setFails (s : State) (kind item n : Nat) : StepKept s (s.setFails kind item n) :=
  of_eq rfl rfl rfl rfl rfl rfl rfl

theorem modHctx (s : State) (c : Nat) (f : HostCtx → HostCtx) : StepKept s (s.modHctx c f) :=
  of_eq rfl rfl rfl rfl rfl rfl rfl

theorem itemRecord (s : State) (o : StartOutcome) (step kind item failChoice detail : Nat) (w : Word) :
    StepKept s (s.itemRecord o step kind item failChoice detail w) := by
  unfold State.itemRecord
  dsimp only
  split
  · obtain ⟨l, hl⟩ := day_eq s step kind item 2 4 0 0 detail
    rw [hl]
    exact of_eq rfl rfl rfl rfl rfl rfl rfl
  · split
    · split
      · exact (day ..).trans (setFails ..)
      · exact (day ..).trans (setFails ..)
    · exact (day ..).trans (setFails ..)

theorem funcStarts (s : State) {fn : FuncId} {on : Bool} (h : (∃ l, fn = .link l) ∨ on = true) (fault : Bool) :
    StepKept s (s.funcStarts fn on fault) where
  count := rfl
  bayMiss := rfl
  keepers := rfl
  tick := rfl
  badBays := rfl
  hbm := rfl
  dict := rfl
  funcs g hg h2 := by
    unfold State.funcStarts
    by_cases he : g = fn
    · subst he
      rcases h with ⟨l, hl⟩ | hon
      · exact absurd hl (hg l)
      · rw [State.func_setFunc_same, hon]
        rfl
    · rw [State.func_setFunc_other _ _ he]
      exact h2

end StepKept

/-- After a fold each of whose steps turns its own function ON and turns no other off, the functions of all its
steps are ON. -/
theorem funcs_foldl {P : State → Prop} {f : State → Nat → State} {key : Nat → FuncId}
    (hP : ∀ s i, P s → P (f s i)) (hkeep : ∀ s i, P s → StepKept s (f s i)) (hkey : ∀ i l, key i ≠ .link l)
    (hset : ∀ s i, P s → ((f s i).func (key i)).state = 2) :
    ∀ (l : List Nat) (s : State), P s → ∀ i ∈ l, ((l.foldl f s).func (key i)).state = 2 := by
  intro l
  induction l with
  | nil => exact fun s _ i hi => absurd hi List.not_mem_nil
  | cons j l ih =>
    intro s hs i hi
    rcases List.mem_cons.mp hi with rfl | hi
    · have hfold : StepKept (f s i) (l.foldl f (f s i)) ∧ P (l.foldl f (f s i)) :=
        List.foldlRecOn (motive := fun t => StepKept (f s i) t ∧ P t) l f ⟨StepKept.refl _, hP s i hs⟩
          fun t ht x _ => ⟨ht.1.trans (hkeep t x ht.2), hP t x ht.2⟩
      exact hfold.1.funcs _ (hkey i) (hset s i hs)
    · exact ih _ (hP s j hs) i hi

theorem funcStarts_on (s : State) (fn : FuncId) (fault : Bool) : ((s.funcStarts fn true fault).func fn).state = 2 := by
  unfold State.funcStarts
  rw [State.func_setFunc_same]
  rfl

/-! ### Steps 9 and 10 -/

/-- The last record of the day book after one is written. -/
theorem day_getLast? (s : State) (step kind item outcome choice reason : Nat) (time : BitVec 32) (detail : Nat) :
    ∀ r, (s.day step kind item outcome choice reason time detail).start.book.getLast? = some r →
      r.outcome = BitVec.ofNat 8 outcome := by
  intro r hr
  dsimp only [State.day] at hr
  rw [List.getLast?_drop] at hr
  split at hr
  · exact absurd hr (by simp)
  · rw [List.getLast?_concat] at hr
    rw [← Option.some.inj hr]

/-- A start stands at step 10. -/
def State.atReady (s : State) (o : StartOutcome) : State :=
  { s.atStep 10 with start := { (s.atStep 10).start with
    outcome := if s.degraded then 1 else 0, ms := o.ms, lastImage := s.sec.runImage, run := none } }

theorem atReady_start (s : State) (o : StartOutcome) :
    (s.atReady o).start.step = 10 ∧ (s.atReady o).start.run = none ∧ (s.atReady o).start.book = s.start.book ∧
      (s.atReady o).start.ticking = s.start.ticking ∧ (s.atReady o).start.fails = s.start.fails :=
  ⟨rfl, rfl, rfl, rfl, rfl⟩

theorem atReady_kept (s : State) (o : StartOutcome) :
    StepKept s (s.atReady o) := StepKept.of_eq rfl rfl rfl rfl rfl rfl rfl

/-- Ticks run. -/
def State.ticksRun (s : State) : State := { s with start := { s.start with ticking := true } }

theorem ticksRun_kept (s : State) : StepKept s s.ticksRun := StepKept.of_eq rfl rfl rfl rfl rfl rfl rfl

theorem withBook_kept (s : State) (l : List DayRec) :
    StepKept s (s.withBook l) := StepKept.of_eq rfl rfl rfl rfl rfl rfl rfl

/-- What the end of a start gives. -/
structure StartEnds (s t : State) : Prop where
  step : t.start.step = 10
  run : t.start.run = none
  ticking : t.start.ticking = true
  fails : t.start.fails = s.start.fails
  count : t.start.count = s.start.count
  keepers : t.keepers = s.keepers
  tick : t.tick = { s.tick with part := .intake }
  badBays : t.map.badBays = s.map.badBays
  dict : t.dict = { s.dict with funcs := t.dict.funcs }
  funcs : ∀ fn, (∀ l, fn ≠ .link l) → (s.func fn).state = 2 → (t.func fn).state = 2
  parts : ∀ p, (t.func (.part p)).state = 2
  ctx : (t.func (.ctx 0)).state = 2
  book : ∀ r, t.start.book.getLast? = some r → r.outcome = 6

theorem partsStart_kept (s : State) (l : List Nat) :
    StepKept s (l.foldl (fun s i => s.funcStarts (.part (BitVec.ofNat 6 i)) true false) s) :=
  StepKept.foldl (fun t _ => StepKept.funcStarts t (.inr rfl) false) l s

theorem partsStart_part (s : State) (p : BitVec 6) :
    (((upto 64).foldl (fun s i => s.funcStarts (.part (BitVec.ofNat 6 i)) true false) s).func (.part p)).state = 2 := by
  have h := funcs_foldl (P := fun _ => True) (f := fun s i => s.funcStarts (.part (BitVec.ofNat 6 i)) true false)
    (key := fun i => .part (BitVec.ofNat 6 i)) (fun _ _ _ => trivial)
    (fun t i _ => StepKept.funcStarts t (.inr rfl) false) (fun _ _ => by simp) (fun t i _ => funcStarts_on t _ _)
    (upto 64) s trivial p.toNat (List.mem_range.mpr p.isLt)
  rwa [BitVec.ofNat_toNat, BitVec.setWidth_eq] at h

theorem modHctx_start (s : State) (c : Nat) (f : HostCtx → HostCtx) : (s.modHctx c f).start = s.start := rfl

theorem funcStarts_start (s : State) (fn : FuncId) (on fault : Bool) : (s.funcStarts fn on fault).start = s.start := rfl

theorem funcStarts_map (s : State) (fn : FuncId) (on fault : Bool) : (s.funcStarts fn on fault).map = s.map := rfl

theorem partsStart_fails (s : State) (l : List Nat) :
    (l.foldl (fun s i => s.funcStarts (.part (BitVec.ofNat 6 i)) true false) s).start.fails = s.start.fails := by
  refine List.foldlRecOn (motive := fun t : State => t.start.fails = s.start.fails) _ _ rfl fun t ht i _ => ?_
  rw [funcStarts_start]
  exact ht

theorem startReady_ends (s : State) (o : StartOutcome) (w : Word) : StartEnds s (s.startReady o w) := by
  unfold State.startReady
  extract_lets s1 s2 st2 s3 s4 top s5 src5 st5 s6
  have hkept1 : StepKept s s1 := partsStart_kept s _
  have hparts1 : ∀ p, (s1.func (.part p)).state = 2 := partsStart_part s
  have hfails1 : s1.start.fails = s.start.fails := partsStart_fails s _
  clear_value s1
  have hkept2' : StepKept s1 s2 := (StepKept.funcStarts s1 (.inr rfl) false).trans (StepKept.modHctx _ _ _)
  have hkept2 := hkept1.trans hkept2'
  have hdict2 : s2.dict = (s1.funcStarts (.ctx 0) true false).dict := rfl
  have hctx2 : (s2.func (.ctx 0)).state = 2 := by
    rw [State.func_congr hdict2]
    exact funcStarts_on s1 (.ctx 0) false
  have hparts2 p : (s2.func (.part p)).state = 2 := hkept2'.funcs (.part p) (by simp) (hparts1 p)
  have hstart2 : s2.start = s1.start := by
    rw [show s2 = (s1.funcStarts (.ctx 0) true false).modHctx 0 fun h => { h with nextSeq := 1 } from rfl,
      modHctx_start, funcStarts_start]
  have hfails2 : s2.start.fails = s.start.fails := by rw [hstart2, hfails1]
  clear_value s2
  have h3 : s3 = s2.ticksRun := rfl
  clear_value s3
  have h4 : ∃ l, s4 = s3.withBook l := by
    obtain ⟨a, ha⟩ := stepRecord_eq s3 9 true 0 w
    obtain ⟨b, hb⟩ := stepRecord_eq (s3.withBook a) 10 true 0 w
    refine ⟨b, ?_⟩
    rw [show s4 = (s3.stepRecord 9 true 0 w).stepRecord 10 true 0 w from rfl, ha, hb, withBook_withBook]
  clear_value top s4
  have h5 : ∃ l, s5 = s4.withBook l := day_eq ..
  have hlast : ∀ r, s5.start.book.getLast? = some r → r.outcome = 6 :=
    fun r hr => day_getLast? s4 0 0 0 6 0 0 0 top r hr
  clear_value s5
  have h6 : s6 = s5.atReady o := rfl
  clear_value s6
  obtain ⟨a, rfl⟩ := h4
  obtain ⟨l, rfl⟩ := h5
  subst h3
  have hkept5 := hkept2.trans (((ticksRun_kept s2).trans (withBook_kept _ a)).trans (withBook_kept _ l))
  have hdict5 : ((s2.ticksRun.withBook a).withBook l).dict = s2.dict := rfl
  have hfails5 : ((s2.ticksRun.withBook a).withBook l).start.fails = s2.start.fails := rfl
  have htick5 : ((s2.ticksRun.withBook a).withBook l).start.ticking = true := rfl
  generalize (s2.ticksRun.withBook a).withBook l = u at hkept5 hdict5 hfails5 htick5 hlast h6
  obtain ⟨hstep6, hrun6, hbook6, hticking6, hfails6⟩ := atReady_start u o
  have hkept6 := hkept5.trans (atReady_kept u o)
  have hdict6 : (u.atReady o).dict = u.dict := rfl
  rw [← h6] at hstep6 hrun6 hbook6 hticking6 hfails6 hkept6 hdict6
  have hopen := openIntake_opened s6
  have hstart : s6.openIntake.start = s6.start := hopen.start
  generalize s6.openIntake = t at hopen hstart
  have hon (fn : FuncId) (h : (s6.func fn).state = 2) : (t.func fn).state = 2 := by
    rw [hopen.funcs fn h]
    exact h
  have hon2 (fn : FuncId) (h : (s2.func fn).state = 2) : (t.func fn).state = 2 :=
    hon fn (by rwa [State.func_congr (hdict6.trans hdict5)])
  exact {
    step := by rw [hstart, hstep6]
    run := by rw [hstart, hrun6]
    ticking := by rw [hstart, hticking6, htick5]
    fails := by rw [hstart, hfails6, hfails5, hfails2]
    count := by rw [hstart, hkept6.count]
    keepers := hopen.keepers.trans hkept6.keepers
    tick := hopen.tick.trans (congrArg (fun x : TickUnit => { x with part := .intake }) hkept6.tick)
    badBays := hopen.badBays.trans hkept6.badBays
    dict := hopen.dict.trans (congrArg (fun x : DictUnit => { x with funcs := t.dict.funcs }) hkept6.dict)
    funcs := fun fn hfn h => hon fn (hkept6.funcs fn hfn h)
    parts := fun p => hon2 _ (hparts2 p)
    ctx := hon2 _ hctx2
    book := fun r hr => hlast r (by rwa [hstart, hbook6] at hr) }

/-! ### A start with nothing failing -/

/-- A start in which every attempt ends and passes. -/
def PassesAll (o : StartOutcome) : Prop := ∀ x ∈ o.items, x.ok = true ∧ x.stuck = false

section

variable {o : StartOutcome} (ho : PassesAll o)
include ho

theorem clean_passes (kind item : Nat) : itemPasses o kind item = true := by
  unfold itemPasses
  cases h : StartOutcomeItem o kind item with
  | none => rfl
  | some i => exact (ho i (List.mem_of_find?_eq_some h)).1

theorem clean_stuck (n : Nat) : stepStuck o n = false := by
  unfold stepStuck
  rw [List.any_eq_false]
  intro x hx
  rw [(ho x hx).2, Bool.false_and]
  exact Bool.false_ne_true

theorem clean_works {s : State} (hf : s.start.fails = []) (kind item : Nat) : s.itemWorks o kind item = true := by
  have h0 : s.failsOf kind item = 0 := by
    unfold State.failsOf
    rw [hf]
    rfl
  unfold State.itemWorks
  rw [h0, clean_passes ho, Bool.and_true]
  exact decide_eq_true (by unfold standingAt; split <;> decide)

theorem clean_itemRecord {s : State} (hf : s.start.fails = []) (step kind item failChoice detail : Nat) (w : Word) :
    (s.itemRecord o step kind item failChoice detail w).start.fails = [] := by
  have h0 : s.failsOf kind item = 0 := by
    unfold State.failsOf
    rw [hf]
    rfl
  have hset (t : State) (l : List DayRec) (ht : t = s.withBook l) : (t.setFails kind item 0).start.fails = [] := by
    subst ht
    exact (congrArg (fun f => Tab.set 0 f (kind * 65536 + item) 0) hf).trans rfl
  unfold State.itemRecord
  dsimp only
  rw [h0, if_neg (by unfold standingAt; split <;> decide)]
  split
  · next i hi =>
    rw [if_pos (ho i (List.mem_of_find?_eq_some hi)).1]
    obtain ⟨l, hl⟩ := day_eq s step kind item 0 (if kind = 5 then 0 else 0) 0 i.time 0
    exact hset _ l hl
  · obtain ⟨l, hl⟩ := day_eq s step kind item 0 (if kind = 5 then 0 else 0) 0 (freeTime w (kind * 65536 + item)) 0
    exact hset _ l hl

end

/-! ### Step 8 -/

/-- The bays that a start finds failed, as die × 132 + bay. -/
def State.failedBays (s : State) (o : StartOutcome) : List Nat :=
  (upto 2).flatMap fun die =>
    ((s.testBays die).filter fun p => !s.itemWorks o 5 (die * 256 + p)).map fun p => die * 132 + p

theorem clean_failedBays {o : StartOutcome} (ho : PassesAll o) {s : State} (hf : s.start.fails = []) :
    s.failedBays o = [] := by
  unfold State.failedBays
  refine List.flatMap_eq_nil_iff.mpr fun die _ => ?_
  rw [List.map_eq_nil_iff, List.filter_eq_nil_iff]
  intro p _
  rw [clean_works ho hf]
  decide

/-- Bays listed as bad. -/
def State.withBadBays (s : State) (l : List Nat) :
    State := { s with map := { s.map with badBays := s.map.badBays ++ l } }

theorem withBadBays_nil (s : State) : StepKept s (s.withBadBays []) :=
  StepKept.of_eq rfl rfl rfl rfl (List.append_nil _) rfl rfl

theorem withBook_map (s : State) (l : List DayRec) : (s.withBook l).map = s.map := rfl

theorem withBook_fails (s : State) (l : List DayRec) : (s.withBook l).start.fails = s.start.fails := rfl

theorem withBook_func (s : State) (l : List DayRec) (fn : FuncId) : (s.withBook l).func fn = s.func fn :=
  State.func_congr rfl fn

/-- Where no bay is left out, the bays begin ON. -/
theorem baysStart_on (s : State) (h : s.start.bayMiss = []) :
    let t := (upto 256).foldl (fun s b =>
      s.funcStarts (.bay (BitVec.ofNat 8 b)) (!s.start.bayMiss.contains b) (s.start.bayMiss.contains b)) s
    StepKept s t ∧ ∀ b, (t.func (.bay b)).state = 2 := by
  have hstep (t : State) (b : Nat) (ht : t.start.bayMiss = []) : t.funcStarts (.bay (BitVec.ofNat 8 b))
      (!t.start.bayMiss.contains b) (t.start.bayMiss.contains b) =
          t.funcStarts (.bay (BitVec.ofNat 8 b)) true false := by
    rw [ht]
    rfl
  have hkept (t : State) (b : Nat) (ht : t.start.bayMiss = []) : StepKept t (t.funcStarts (.bay (BitVec.ofNat 8 b))
      (!t.start.bayMiss.contains b) (t.start.bayMiss.contains b)) := by
    rw [hstep t b ht]
    exact StepKept.funcStarts t (.inr rfl) false
  intro t
  refine ⟨StepKept.foldl_of (P := fun t => t.start.bayMiss = []) (fun _ _ hk ht => hk.bayMiss.trans ht) hkept _ h,
    fun b => ?_⟩
  have hon := funcs_foldl (P := fun t => t.start.bayMiss = []) (key := fun b => .bay (BitVec.ofNat 8 b))
    (fun t b ht => (hkept t b ht).bayMiss.trans ht) hkept (fun _ _ => by simp)
    (fun t b ht => by rw [hstep t b ht]; exact funcStarts_on t _ _) (upto 256) s h b.toNat (List.mem_range.mpr b.isLt)
  rwa [BitVec.ofNat_toNat, BitVec.setWidth_eq] at hon

/-- What step 8 ends in: the end of the start, from a state with the failed bays listed as bad; with nothing failing
every bay is ON. -/
theorem start8_runs (s : State) {o : StartOutcome} (w : Word) (h : stepStuck o 8 = false) :
    ∃ u, s.start8 o w = u.startReady o w ∧ u.map.badBays = s.map.badBays ++ s.failedBays o ∧
      (PassesAll o → s.start.fails = [] → s.start.bayMiss = [] →
        StepKept s u ∧ u.start.fails = [] ∧ ∀ b, (u.func (.bay b)).state = 2) := by
  unfold State.start8
  rw [h, if_neg (by decide)]
  extract_lets before bad src1 s1 failed
  have hbad : bad = s.failedBays o := rfl
  clear_value bad
  subst hbad
  have hs1 : s1 = s.withBadBays (s.failedBays o) := rfl
  clear_value s1
  generalize hq : List.foldl _ (s1, []) failed = q
  have hbays : q.1.map.badBays = s1.map.badBays := by
    rw [← hq]
    refine List.foldlRecOn (motive := fun q : State × List (Nat × Nat) => q.1.map.badBays = s1.map.badBays) _ _ rfl
      fun r hr b _ => ?_
    dsimp only
    split
    · exact hr
    · exact hr
  have hnone : s.failedBays o = [] → q = (s1, []) := by
    intro hno
    have hf : failed = [] := by simp [failed, hno]
    rw [← hq, hf]
    rfl
  clear_value failed
  clear hq
  obtain ⟨s2, took⟩ := q
  dsimp only at hbays hnone ⊢
  generalize hs3 : List.foldl _ s2 (upto 2) = s3
  have hkept3 : StepKept s2 s3 := by
    rw [← hs3]
    exact StepKept.foldl (fun t die => StepKept.foldl (fun v p => StepKept.itemRecord v o _ _ _ _ _ w) _ t) _ s2
  have hfails3 : PassesAll o → s2.start.fails = [] → s3.start.fails = [] := by
    intro ho h2
    rw [← hs3]
    exact List.foldlRecOn (motive := fun t : State => t.start.fails = []) _ _ h2 fun t ht die _ =>
      List.foldlRecOn (motive := fun t : State => t.start.fails = []) _ _ ht fun v hv p _ =>
        clean_itemRecord ho hv _ _ _ _ _ w
  clear hs3
  have hfuncs4 := baysStart_on s3
  generalize hs4 : List.foldl _ s3 (upto 256) = s4 at hfuncs4 ⊢
  have hmap4 : s4.map = s3.map := by
    rw [← hs4]
    refine List.foldlRecOn (motive := fun t : State => t.map = s3.map) _ _ rfl fun t ht b _ => ?_
    rw [funcStarts_map]
    exact ht
  have hstart4 : s4.start = s3.start := by
    rw [← hs4]
    refine List.foldlRecOn (motive := fun t : State => t.start = s3.start) _ _ rfl fun t ht b _ => ?_
    rw [funcStarts_start]
    exact ht
  clear hs4
  obtain ⟨l, hl⟩ := stepRecord_eq s4 8 true 0 w
  rw [hl]
  refine ⟨s4.withBook l, rfl, ?_, fun ho hf hmiss => ?_⟩
  · rw [withBook_map, hmap4, hkept3.badBays, hbays, hs1]
    rfl
  · have hno := clean_failedBays ho hf
    have h2 : s2 = s1 := (Prod.mk.inj (hnone hno)).1
    rw [h2, hs1, hno] at hkept3 hfails3
    have hkept := (withBadBays_nil s).trans hkept3
    obtain ⟨hkept4, hon⟩ := hfuncs4 (hkept.bayMiss.trans hmiss)
    refine ⟨(hkept.trans hkept4).trans (withBook_kept s4 l), ?_, fun b => ?_⟩
    · rw [withBook_fails, hstart4]
      exact hfails3 ho hf
    · rw [withBook_func]
      exact hon b

/-! ### Steps 7 to 5 -/

/-- A step that ends with nothing failing. -/
structure StepOk (s t : State) : Prop extends StepKept s t where
  fails : s.start.fails = [] → t.start.fails = []

namespace StepOk

variable {s t u : State}

theorem refl (s : State) : StepOk s s := ⟨StepKept.refl s, id⟩

theorem trans (h : StepOk s t) (g : StepOk t u) : StepOk s u :=
  ⟨h.toStepKept.trans g.toStepKept, fun hs => g.fails (h.fails hs)⟩

theorem foldl_of {α : Type} {f : State → α → State} (hf : ∀ s x, s.start.fails = [] → StepOk s (f s x)) (l : List α)
    {s : State} (hs : s.start.fails = []) : StepOk s (l.foldl f s) :=
  List.foldlRecOn (motive := StepOk s) l f (refl s) fun t ht x _ => ht.trans (hf t x (ht.fails hs))

theorem withBook (s : State) (l : List DayRec) : StepOk s (s.withBook l) := ⟨withBook_kept s l, id⟩

theorem modLink (s : State) (l : Nat) (f : Link → Link) : StepOk s (s.modLink l f) :=
  ⟨StepKept.of_eq rfl rfl rfl rfl rfl rfl rfl, id⟩

theorem linkMask (s : State) (m : BitVec 12) : StepOk s { s with start := { s.start with linkMask := m } } :=
  ⟨StepKept.of_eq rfl rfl rfl rfl rfl rfl rfl, id⟩

theorem funcStarts (s : State) {fn : FuncId} {on : Bool} (h : (∃ l, fn = .link l) ∨ on = true) (fault : Bool) :
    StepOk s (s.funcStarts fn on fault) :=
  ⟨StepKept.funcStarts s h fault, fun hs => by rw [funcStarts_start]; exact hs⟩

theorem itemRecord {o : StartOutcome} (ho : PassesAll o) (s : State)
    (step kind item failChoice detail : Nat) (w : Word) :
        StepOk s (s.itemRecord o step kind item failChoice detail w) :=
  ⟨StepKept.itemRecord s o step kind item failChoice detail w,
    fun hf => clean_itemRecord ho hf step kind item failChoice detail w⟩

/-- The function of a link set, where the link exists. -/
theorem linkFunc (s : State) (l : Nat) (on fault : Bool) :
    StepOk s (if h : l < 12 then s.funcStarts (.link ⟨l, h⟩) on fault else s) := by
  split
  · exact funcStarts s (.inl ⟨_, rfl⟩) fault
  · exact refl s

theorem startLink {o : StartOutcome} (ho : PassesAll o) {s : State} (hs : s.start.fails = []) (w : Word) (l : Nat) :
    StepOk s (s.startLink o w l) := by
  unfold State.startLink
  extract_lets standing lost s1 off src mask
  have h1 : StepOk s s1 := modLink s l _
  clear_value s1
  have hoff : StepOk s1 off := by
    obtain ⟨b, hb⟩ := day_eq s1 7 4 l 3 0 0 (freeTime w (0x40000 + l)) 0
    rw [show off = (s1.withBook b).modLink l fun k => { k with state := 6 } from congrArg (State.modLink · l _) hb]
    exact (withBook s1 b).trans (modLink _ l _)
  have hmask : StepOk s1 mask := hoff.trans (linkMask off _)
  clear_value mask off
  split
  · exact (h1.trans hmask).trans (linkFunc mask l false false)
  · extract_lets r s2 ok src2 s3 s4
    have h2 : StepOk s1 s2 := modLink s1 l _
    have h3 : StepOk s2 s3 := by
      unfold s3
      split
      · exact refl s2
      · exact linkMask s2 _
    clear_value s3
    have h4 : StepOk s3 s4 := linkFunc s3 l ok (!ok)
    clear_value s4
    have h := ((h1.trans h2).trans h3).trans h4
    exact h.trans (foldl_of (fun t j _ => itemRecord ho t 7 3 (l * 8 + j) 3 0 w) _ (h.fails hs))

end StepOk

theorem start7_runs {o : StartOutcome} (ho : PassesAll o) {s : State} (hs : s.start.fails = [])
    (hmiss : s.start.bayMiss = []) (w : Word) :
    ∃ u, s.start7 o w = u.startReady o w ∧ StepOk s u ∧ ∀ b, (u.func (.bay b)).state = 2 := by
  unfold State.start7
  rw [clean_stuck ho, if_neg (by decide)]
  extract_lets s1
  have h1 : StepOk s s1 := StepOk.foldl_of (fun t l ht => StepOk.startLink ho ht w l) _ hs
  clear_value s1
  obtain ⟨l, hl⟩ := stepRecord_eq s1 7 true 0 w
  rw [hl]
  have h2 := h1.trans (StepOk.withBook s1 l)
  obtain ⟨u, hu, -, hclean⟩ := start8_runs (s1.withBook l) w (clean_stuck ho 8)
  obtain ⟨hkept, hf, hon⟩ := hclean ho (h2.fails hs) (h2.bayMiss.trans hmiss)
  exact ⟨u, hu, h2.trans ⟨hkept, fun _ => hf⟩, hon⟩

/-- Stacks of which nothing is recorded are present. -/
theorem stackPresent_of_nil {s : State} (h : s.hbm = []) (i : Nat) : s.stackPresent i = true := by
  have hstack (j : Nat) : (s.stack j).excluded = false := by
    unfold State.stack
    rw [h]
    rfl
  simp [State.stackPresent, hstack]

/-- With nothing failing the stacks begin ON. -/
theorem stacksStart_on (s : State) (h : s.hbm = []) (bad : List Nat) :
    let t := (upto 8).foldl (fun s i =>
      s.funcStarts (.stack (BitVec.ofNat 3 i)) (s.stackPresent i) (bad.contains i)) s
    StepOk s t ∧ ∀ i, (t.func (.stack i)).state = 2 := by
  have hstep (t : State) (i : Nat) (ht : t.hbm = []) : StepOk t (t.funcStarts (.stack (BitVec.ofNat 3 i))
      (t.stackPresent i) (bad.contains i)) := by
    rw [stackPresent_of_nil ht]
    exact StepOk.funcStarts t (.inr rfl) _
  intro t
  refine ⟨List.foldlRecOn (motive := StepOk s) _ _ (StepOk.refl s) fun u hu i _ =>
    hu.trans (hstep u i (hu.hbm.trans h)), fun i => ?_⟩
  have hon := funcs_foldl (P := fun t => t.hbm = []) (key := fun i => .stack (BitVec.ofNat 3 i))
    (fun t i ht => (hstep t i ht).hbm.trans ht) (fun t i ht => (hstep t i ht).toStepKept) (fun _ _ => by simp)
    (fun t i ht => by rw [stackPresent_of_nil ht]; exact funcStarts_on t _ _) (upto 8) s h i.toNat
    (List.mem_range.mpr i.isLt)
  rwa [BitVec.ofNat_toNat, BitVec.setWidth_eq] at hon

theorem start6_runs {o : StartOutcome} (ho : PassesAll o) {s : State} (hs : s.start.fails = [])
    (hmiss : s.start.bayMiss = []) (hhbm : s.hbm = []) (w : Word) :
    ∃ u, s.start6 o w = u.startReady o w ∧ StepOk s u ∧ (∀ b, (u.func (.bay b)).state = 2) ∧
      ∀ i, (u.func (.stack i)).state = 2 := by
  unfold State.start6
  rw [clean_stuck ho, if_neg (by decide)]
  extract_lets bad s1 s2 s3
  have hbad : bad = [] := by
    refine List.filter_eq_nil_iff.mpr fun i _ => ?_
    rw [clean_works ho hs]
    decide
  clear_value bad
  subst hbad
  have h1 : StepOk s s1 := StepOk.foldl_of (fun t i _ => StepOk.itemRecord ho t 6 2 i 3 0 w) _ hs
  clear_value s1
  have h12 : s2 = s1 := rfl
  clear_value s2
  subst h12
  obtain ⟨h3, hon⟩ : StepOk s2 s3 ∧ ∀ i, (s3.func (.stack i)).state = 2 := stacksStart_on s2 (h1.hbm.trans hhbm) []
  clear_value s3
  obtain ⟨l, hl⟩ := stepRecord_eq s3 6 true 0 w
  rw [if_neg (by simp), hl]
  have h := (h1.trans h3).trans (StepOk.withBook s3 l)
  obtain ⟨u, hu, hk, hb⟩ := start7_runs ho (h.fails hs) (h.bayMiss.trans hmiss) w
  exact ⟨u, hu, h.trans hk, hb, fun i => hk.funcs _ (by simp) (by rw [withBook_func]; exact hon i)⟩

/-- The state with which step 5 ends. -/
theorem start5_runs {o : StartOutcome} (ho : o.fuseOk = true) (s : State) (w : Word) :
    ∃ u : State, s.start5 o w = u.start6 o w ∧ (u.start.count = s.start.count ∧ u.start.fails = s.start.fails ∧
      u.start.bayMiss = s.start.bayMiss) ∧ u.hbm = s.hbm ∧ u.tick = s.tick ∧
      (u.keepers.active = s.keepers.active ∧ u.keepers.standbyOk = s.keepers.standbyOk) ∧
      u.dict.nmt = 1 ∧ u.dict.nodeId = s.dict.nodeId := by
  unfold State.start5
  rw [if_pos ho]
  extract_lets d k m s1
  have h1 : (s1.start.count = s.start.count ∧ s1.start.fails = s.start.fails ∧ s1.start.bayMiss = s.start.bayMiss) ∧
      s1.hbm = s.hbm ∧ s1.tick = s.tick ∧
      (s1.keepers.active = s.keepers.active ∧ s1.keepers.standbyOk = s.keepers.standbyOk) ∧
      s1.dict.nodeId = s.dict.nodeId := ⟨⟨rfl, rfl, rfl⟩, rfl, rfl, ⟨rfl, rfl⟩, rfl⟩
  clear_value s1
  obtain ⟨hstart, hhbm, htick, hkeep, hnode⟩ := h1
  obtain ⟨l, hl⟩ := stepRecord_eq s1 5 true 0 w
  rw [hl]
  refine ⟨_, rfl, ?_⟩
  unfold State.bootUp State.sendBeat
  split
  · exact ⟨hstart, hhbm, htick, hkeep, rfl, hnode⟩
  · exact ⟨hstart, hhbm, htick, hkeep, rfl, hnode⟩

/-! ### Step 4 -/

theorem imageVerdict_ok {s : State} {o : StartOutcome} {b : Bool} {i : ItemOutcome}
    (h : StartOutcomeItem o 1 (b2n b) = some i) (hi : i.ok = true) : s.imageVerdict o b = 0 := by
  unfold State.imageVerdict
  rw [h]
  exact if_pos hi

theorem imageVerdict_bad {s : State} {o : StartOutcome} {b : Bool} {i : ItemOutcome}
    (h : StartOutcomeItem o 1 (b2n b) = some i) (hi : i.ok = false) : s.imageVerdict o b ≠ 0 := by
  unfold State.imageVerdict
  rw [h]
  dsimp only
  rw [hi, if_neg Bool.false_ne_true]
  omega

/-- Whether an image was found good. -/
def imageOk (x : SecUnit) (b : Bool) : Bool := if b then x.bOk else x.aOk

/-- What the attempt of an image leaves, and what it shows of the image. -/
theorem tryImage_spec (s : State) (o : StartOutcome) (b : Bool) (w : Word) :
    let t := s.tryImage o b w
    StepKept s t ∧ t.start.ticking = s.start.ticking ∧
      (s.imageVerdict o b = 0 → s.start.fails = [] → t.start.fails = []) ∧
      imageOk t.sec b = decide (s.imageVerdict o b = 0) ∧ imageOk t.sec (!b) = imageOk s.sec (!b) := by
  unfold State.tryImage
  extract_lets v time s1 s2 f s3 src t
  have hv : v = s.imageVerdict o b := rfl
  clear_value v time
  subst hv
  obtain ⟨l, hl⟩ : ∃ l, s1 = s.withBook l := day_eq ..
  clear_value s1
  subst hl
  have hsec2 : s2.sec = s.sec := rfl
  have hkept2 : StepKept s s2 := (withBook_kept s l).trans (StepKept.setFails ..)
  have htick2 : s2.start.ticking = s.start.ticking := rfl
  have hfails2 : s.imageVerdict o b = 0 → s.start.fails = [] → s2.start.fails = [] := by
    intro h0 hf
    unfold s2
    rw [if_pos h0]
    exact (congrArg (fun f => Tab.set 0 f (1 * 65536 + b2n b) 0) hf).trans rfl
  clear_value s2 f
  have hother : imageOk s.sec (!b) = imageOk s2.sec (!b) := by rw [hsec2]
  rw [hother]
  cases b with
  | true => exact ⟨hkept2.trans (StepKept.of_eq rfl rfl rfl rfl rfl rfl rfl), htick2, hfails2, rfl, rfl⟩
  | false => exact ⟨hkept2.trans (StepKept.of_eq rfl rfl rfl rfl rfl rfl rfl), htick2, hfails2, rfl, rfl⟩

theorem setSec_withBook_sec (s : State) (x : SecUnit) (l : List DayRec) : ((s.setSec x).withBook l).sec = x := rfl

theorem setSec_withBook_ticking (s : State) (x : SecUnit) (l : List DayRec) :
    ((s.setSec x).withBook l).start.ticking = s.start.ticking := rfl

theorem bootUp_kept (s : State) : s.bootUp.start = s.start ∧ s.bootUp.sec = s.sec := by
  unfold State.bootUp State.sendBeat
  split
  · exact ⟨rfl, rfl⟩
  · exact ⟨rfl, rfl⟩

theorem startStop_spec (s : State) (n : Nat) :
    let t := s.startStop n
    t.start.step = BitVec.ofNat 8 n ∧ t.start.outcome = 2 ∧ t.start.run = none ∧ t.start.ticking = s.start.ticking ∧
      t.sec = s.sec := by
  unfold State.startStop
  extract_lets s1 t1 src s2 t
  obtain ⟨l, hl⟩ : ∃ l, s1 = s.withBook l := day_eq ..
  clear_value s1
  subst hl
  have h2 : s2.start.step = BitVec.ofNat 8 n ∧ s2.start.outcome = 2 ∧ s2.start.run = none ∧
      s2.start.ticking = s.start.ticking ∧ s2.sec = s.sec := ⟨rfl, rfl, rfl, rfl, rfl⟩
  clear_value s2
  have ht : t.start = s2.start ∧ t.sec = s2.sec := by
    unfold t
    split
    · exact bootUp_kept s2
    · exact ⟨rfl, rfl⟩
  rw [ht.1, ht.2]
  exact h2

/-- With both images good, step 4 runs the first. -/
theorem start4_runs {o : StartOutcome} (hstuck : stepStuck o 4 = false)
    (hok : ∀ b, ∃ i, StartOutcomeItem o 1 (b2n b) = some i ∧ i.ok = true) (s : State) (w : Word) :
    ∃ u, s.start4 o w = u.start5 o w ∧ StepOk s u := by
  unfold State.start4
  rw [hstuck, if_neg (by decide)]
  extract_lets a run s1
  obtain ⟨i, hi, hiok⟩ := hok a
  obtain ⟨hkept, -, hfails, -⟩ := tryImage_spec s o a w
  have h1 : StepOk s s1 := ⟨hkept, hfails (imageVerdict_ok hi hiok)⟩
  clear_value s1
  rw [if_pos (imageVerdict_ok hi hiok)]
  have hsec (t : State) (x : SecUnit) : StepOk t (t.setSec x) := ⟨StepKept.of_eq rfl rfl rfl rfl rfl rfl rfl, id⟩
  have hrun (t : State) : ∃ u, run t a = u.start5 o w ∧ StepOk t u := by
    obtain ⟨l, hl⟩ := stepRecord_eq (t.setSec
        { t.sec with runImage := a, runHead := (t.image a).bytes.take 512 }) 4 true 0 w
    exact ⟨_, congrArg (State.start5 · o w) hl, (hsec t _).trans (StepOk.withBook _ l)⟩
  obtain ⟨u, hu, hk⟩ := hrun (s1.setSec (if a then { s1.sec with aOk := s1.sec.imageA.valid } else
      { s1.sec with bOk := s1.sec.imageB.valid }))
  exact ⟨u, hu, (h1.trans (hsec s1 _)).trans hk⟩

/-- With both images bad, step 4 stops the start in recovery. -/
theorem start4_stops {o : StartOutcome} (hstuck : stepStuck o 4 = false)
    (hbad : ∀ b, ∃ i, StartOutcomeItem o 1 (b2n b) = some i ∧ i.ok = false) (s : State) (w : Word) :
    ∃ t, s.start4 o w = t ∧ t.start.step = 4 ∧ t.start.outcome = 2 ∧ t.sec.recovery = true ∧
      t.start.ticking = s.start.ticking ∧ t.sec.aOk = false ∧ t.sec.bOk = false ∧ t.start.run = none := by
  unfold State.start4
  rw [hstuck, if_neg (by decide)]
  extract_lets a run s1 src s2
  obtain ⟨i, hi, hibad⟩ := hbad a
  obtain ⟨j, hj, hjbad⟩ := hbad (!a)
  have h1 : s1.start.ticking = s.start.ticking ∧ imageOk s1.sec a = false := by
    obtain ⟨-, htick, -, hsec, -⟩ := tryImage_spec s o a w
    exact ⟨htick, hsec.trans (decide_eq_false (imageVerdict_bad hi hibad))⟩
  clear_value s1
  have h2 : s2.start.ticking = s1.start.ticking ∧ ∀ b, imageOk s2.sec b = false := by
    obtain ⟨-, htick, -, hsec, hoth⟩ := tryImage_spec s1 o (!a) w
    refine ⟨htick, fun b => ?_⟩
    by_cases hb : b = a
    · rw [Bool.not_not] at hoth
      exact hb ▸ hoth.trans h1.2
    · have hba : b = !a := Bool.eq_not.mpr hb
      exact hba ▸ hsec.trans (decide_eq_false (imageVerdict_bad hj hjbad))
  clear_value s2
  rw [if_neg (imageVerdict_bad hi hibad), if_neg (imageVerdict_bad hj hjbad)]
  refine ⟨_, rfl, ?_⟩
  have hrec : ∀ x, ∃ l, (s2.setSec x).stepRecord 4 false 0x0400 w = (s2.setSec x).withBook l :=
    fun x => stepRecord_eq (s2.setSec x) 4 false 0x0400 w
  obtain ⟨l, hl⟩ := hrec { s2.sec with recovery := true }
  rw [hl]
  have hstop := startStop_spec ((s2.setSec { s2.sec with recovery := true }).withBook l) 4
  have hx := setSec_withBook_sec s2 { s2.sec with recovery := true } l
  have ht := setSec_withBook_ticking s2 { s2.sec with recovery := true } l
  generalize (s2.setSec { s2.sec with recovery := true }).withBook l = u at hstop hx ht ⊢
  generalize u.startStop 4 = t at hstop ⊢
  obtain ⟨hstep, hout, hrun, htick, hsec⟩ := hstop
  rw [hx] at hsec
  exact ⟨hstep, hout, congrArg SecUnit.recovery hsec, htick.trans (ht.trans (h2.1.trans h1.1)),
    (congrArg SecUnit.aOk hsec).trans (h2.2 false), (congrArg SecUnit.bOk hsec).trans (h2.2 true), hrun⟩

/-! ### Steps 1 to 3 -/

/-- What the first steps leave for step 4. -/
structure Begun (o : StartOutcome) (s t : State) : Prop where
  count : t.start.count = s.start.count + 1
  fails : s.start.fails = [] → t.start.fails = []
  bayMiss : t.start.bayMiss = s.start.bayMiss
  ticking : t.start.ticking = s.start.ticking
  hbm : t.hbm = s.hbm
  tick : t.tick = s.tick
  nodeId : t.dict.nodeId = o.nodeId
  keepers : t.keepers.active = (!o.keeperW) ∧ t.keepers.standbyOk = (o.keeperW && o.keeperE)

theorem Begun.withBook {o : StartOutcome} {s t : State} (h : Begun o s t) (l : List DayRec) :
    Begun o s (t.withBook l) :=
  ⟨h.count, h.fails, h.bayMiss, h.ticking, h.hbm, h.tick, h.nodeId, h.keepers⟩

theorem Begun.day {o : StartOutcome} {s t : State} (h : Begun o s t) (step kind item outcome choice reason : Nat)
    (time : BitVec 32) (detail : Nat) : Begun o s (t.day step kind item outcome choice reason time detail) := by
  obtain ⟨l, hl⟩ := day_eq t step kind item outcome choice reason time detail
  rw [hl]
  exact h.withBook l

theorem Begun.stepRecord {o : StartOutcome} {s t : State} (h : Begun o s t) (step : Nat) (ok : Bool) (reason : Nat)
    (w : Word) : Begun o s (t.stepRecord step ok reason w) := by
  obtain ⟨l, hl⟩ := stepRecord_eq t step ok reason w
  rw [hl]
  exact h.withBook l

/-- What CLEAR_STANDING changes: its own request and the counts. -/
theorem clearFails_eq (s : State) : ∃ f c, s.clearFails = { s with start := { s.start with fails := f, clear := c } } ∧
    (s.start.fails = [] → f = []) := by
  unfold State.clearFails
  split
  · exact ⟨_, _, rfl, fun _ => rfl⟩
  · split
    · refine ⟨_, _, rfl, fun h => ?_⟩
      rw [h]
      rfl
    · exact ⟨_, _, rfl, id⟩

theorem start1_runs {o : StartOutcome} (h12 : o.bad12 = none) (hk : o.keeperW = true ∨ o.keeperE = true) (s : State) :
    ∃ w u, s.start1 o = u.start4 o w ∧ Begun o s u := by
  unfold State.start1
  split
  · next x hx => exact absurd (h12.symm.trans hx) nofun
  · split
    next w s0 hd =>
    extract_lets n s1 d s2 s3 keep s4 s5 src s6 s7 s8 self s9 s10
    have h0 : s0 = { s with fresh := s.fresh + 1 } := (Prod.mk.inj hd).2.symm
    clear_value n
    have h4 : s4.start = s.start ∧ s4.hbm = s.hbm ∧ s4.tick = s.tick ∧ s4.dict.nodeId = o.nodeId ∧
        s4.keepers.active = (!o.keeperW) ∧ s4.keepers.standbyOk = (o.keeperW && o.keeperE) := by
      subst h0
      exact ⟨rfl, rfl, rfl, rfl, rfl, rfl⟩
    clear_value s4
    obtain ⟨hstart, hhbm, htick, hnode, hkeep⟩ := h4
    have h6 : Begun o s s6 := by
      obtain ⟨f, c, hf, hnil⟩ := clearFails_eq s4
      have h5 : s5 = { s4 with start := { s4.start with fails := f, clear := c } } := hf
      clear_value s5
      subst h5
      exact {
        count := congrArg (·.count + 1) hstart
        fails := fun h => hnil ((congrArg StartUnit.fails hstart).trans h)
        bayMiss := (congrArg StartUnit.bayMiss hstart : s4.start.bayMiss = _)
        ticking := (congrArg StartUnit.ticking hstart : s4.start.ticking = _)
        hbm := hhbm
        tick := htick
        nodeId := hnode
        keepers := hkeep }
    clear_value s6
    have h8 : Begun o s s8 := ((h6.day ..).stepRecord ..).stepRecord ..
    clear_value s8
    have h9 : Begun o s s9 := by
      unfold s9
      split
      · exact h8
      · exact h8.day ..
    clear_value s9
    have h10 : Begun o s s10 := by
      unfold s10
      split
      · exact h9
      · exact h9.day ..
    clear_value s10
    rw [if_neg (by rcases hk with h | h <;> simp [h])]
    exact ⟨w, _, rfl, h10.stepRecord ..⟩

/-- Without a keeper a start stands at step 3. -/
theorem start1_noKeeper {o : StartOutcome} (h12 : o.bad12 = none) (hw : o.keeperW = false) (he : o.keeperE = false)
    (s : State) : ∃ t, s.start1 o = t ∧ t.keepers.none_ = true ∧ t.start.step = 3 ∧ t.dict.nodeId = o.nodeId ∧
      t.start.ticking = s.start.ticking ∧ t.start.count = s.start.count := by
  unfold State.start1
  split
  · next x hx => exact absurd (h12.symm.trans hx) nofun
  · split
    next w s0 hd =>
    extract_lets n s1 d s2 s3 keep s4 s5 src s6 s7 s8 self s9 s10
    have h0 : s0 = { s with fresh := s.fresh + 1 } := (Prod.mk.inj hd).2.symm
    have h3 : s3.start.step = 3 ∧ s3.dict.nodeId = o.nodeId ∧ s3.start.ticking = s.start.ticking ∧
        s3.start.count = s.start.count := by
      subst h0
      exact ⟨rfl, rfl, rfl, rfl⟩
    clear_value s10 s9 s8 s7 s6 s5 s4 s3
    rw [hw, he]
    exact ⟨_, if_pos rfl, rfl, h3⟩

/-! ### Starts -/

theorem startUp_eq {s : State} (hon : s.power.on = true) (h0 : s.start.step = 0) (o : StartOutcome) :
    Machine.exec (.startUp o) s = .next (s.start1 o) :=
  congrArg Host.Outcome.next (if_pos ⟨hon, h0⟩)

/-- A start with nothing failing reaches READY. -/
theorem start1_ready {o : StartOutcome} (h12 : o.bad12 = none) (hk : o.keeperW = true ∨ o.keeperE = true)
    (hfuse : o.fuseOk = true) (hok : ∀ b, ∃ i, StartOutcomeItem o 1 (b2n b) = some i ∧ i.ok = true) (ho : PassesAll o)
    {s : State} (hfails : s.start.fails = []) (hmiss : s.start.bayMiss = []) (hhbm : s.hbm = []) :
    ∃ u t, s.start1 o = t ∧ StartEnds u t ∧ u.start.count = s.start.count + 1 ∧ u.start.fails = [] ∧ u.tick = s.tick ∧
      (u.dict.nmt = 1 ∧ u.dict.nodeId = o.nodeId) ∧
      (u.keepers.active = (!o.keeperW) ∧ u.keepers.standbyOk = (o.keeperW && o.keeperE)) ∧
      (∀ b, (u.func (.bay b)).state = 2) ∧ ∀ i, (u.func (.stack i)).state = 2 := by
  obtain ⟨w, s4, h4, hb⟩ := start1_runs h12 hk s
  obtain ⟨s5, h5, hk5⟩ := start4_runs (clean_stuck ho 4) hok s4 w
  obtain ⟨s6, h6, ⟨hcount, hf6, hmiss6⟩, hhbm6, htick6, ⟨hact6, hstd6⟩, hnmt6, hnode6⟩ := start5_runs hfuse s5 w
  have hf : s6.start.fails = [] := hf6.trans (hk5.fails (hb.fails hfails))
  obtain ⟨u, hu, hk6, hbays, hstacks⟩ := start6_runs ho hf (hmiss6.trans (hk5.bayMiss.trans (hb.bayMiss.trans hmiss)))
    (hhbm6.trans (hk5.hbm.trans (hb.hbm.trans hhbm))) w
  have hdict : u.dict.nmt = s6.dict.nmt ∧ u.dict.nodeId = s6.dict.nodeId := by
    rw [hk6.dict]
    exact ⟨rfl, rfl⟩
  have hnode5 : s5.dict.nodeId = s4.dict.nodeId := by
    rw [hk5.dict]
  refine ⟨u, _, ((h4.trans h5).trans h6).trans hu, startReady_ends u o w, ?_, hk6.fails hf, ?_, ⟨hdict.1.trans hnmt6,
      ?_⟩,
    ⟨?_, ?_⟩, hbays, hstacks⟩
  · rw [hk6.count, hcount, hk5.count, hb.count]
  · rw [hk6.tick, htick6, hk5.tick, hb.tick]
  · rw [hdict.2, hnode6, hnode5, hb.nodeId]
  · rw [hk6.keepers, hact6, hk5.keepers, hb.keepers.1]
  · rw [hk6.keepers, hstd6, hk5.keepers, hb.keepers.2]

/-! ### The limits of the steps -/

/-- The outcomes of a start once the limit of step `n` has passed: what has not ended failed. -/
def limited (n : Nat) (code : BitVec 8) (i : ItemOutcome) : ItemOutcome :=
  if i.stuck && decide (itemStep i = n) then { i with stuck := false, ok := false, code := code } else i

theorem limited_kind (n : Nat) (code : BitVec 8) (i : ItemOutcome) :
    (limited n code i).kind = i.kind ∧ (limited n code i).item = i.item := by
  unfold limited
  split
  · exact ⟨rfl, rfl⟩
  · exact ⟨rfl, rfl⟩

theorem limited_stuck (n : Nat) (code : BitVec 8) (o : StartOutcome) :
    stepStuck { o with items := o.items.map (limited n code) } n = false := by
  unfold stepStuck
  rw [List.any_eq_false]
  intro x hx
  obtain ⟨i, -, rfl⟩ := List.mem_map.mp hx
  unfold limited
  split
  · simp
  · next h => exact h

/-- An item of the step that had not ended is found failed. -/
theorem limited_find {n : Nat} {code : BitVec 8} {o : StartOutcome} {kind item : Nat} {x : ItemOutcome}
    (h : StartOutcomeItem o kind item = some x) :
    StartOutcomeItem { o with items := o.items.map (limited n code) } kind item = some (limited n code x) := by
  unfold StartOutcomeItem at h ⊢
  rw [List.find?_map]
  have hp : (fun i : ItemOutcome => decide (i.kind.toNat = kind ∧ i.item.toNat = item)) ∘ limited n code =
      fun i => decide (i.kind.toNat = kind ∧ i.item.toNat = item) := by
    funext i
    obtain ⟨hk, hi⟩ := limited_kind n code i
    simp only [Function.comp, hk, hi]
  rw [hp, h]
  rfl

theorem limited_fails {n : Nat} {code : BitVec 8} {x : ItemOutcome} (hx : x.stuck = true) (hn : itemStep x = n) :
    (limited n code x).ok = false := by
  unfold limited
  rw [hx, hn, decide_eq_true rfl]
  rfl

/-- The limit of step 8 ends a start that waits in it. -/
theorem stepTimeout_eq {o : StartOutcome} {s : State} (hrun : s.start.run = some o) (h8 : s.start.step = 8) :
    ∃ (code : BitVec 8) (w : Word) (u : State), Machine.exec (.startupStepTimeout 8) s =
      .next (u.start8 { o with items := o.items.map (limited 8 code) } w) ∧ u.map = s.map := by
  have hn : s.start.step.toNat = 8 := by rw [h8]; rfl
  suffices h : ∃ (code : BitVec 8) (w : Word) (u : State), execStartupStepTimeout 8 s =
      .next (u.start8 { o with items := o.items.map (limited 8 code) } w) ∧ u.map = s.map from h
  unfold execStartupStepTimeout
  split
  · next h => exact absurd (hrun.symm.trans h) nofun
  · next o' ho' =>
    obtain rfl := Option.some.inj (hrun.symm.trans ho')
    rw [hn]
    extract_lets n
    rw [if_neg (by decide)]
    split
    next w s0 hd =>
    extract_lets code items o2 src s2
    have h0 : s0 = { s with fresh := s.fresh + 1 } := (Prod.mk.inj hd).2.symm
    rw [if_neg (by decide), if_neg (by decide), if_neg (by decide)]
    exact ⟨code, w, s2, rfl, by rw [show s2.map = s0.map from rfl, h0]⟩

/-- A bay whose attempt had not ended is found failed. -/
theorem mem_failedBays {s : State} {o : StartOutcome} {x : ItemOutcome} (hbad : x.ok = false) {die p : Nat}
    (hdie : die < 2) (hp : p < 132) (hfuse : s.map.fuseBad = [])
    (hx : StartOutcomeItem o 5 (die * 256 + p) = some x) : die * 132 + p ∈ s.failedBays o := by
  have htest : p ∈ s.testBays die := by
    unfold State.testBays
    rw [hfuse]
    refine List.mem_filter.mpr ⟨List.mem_flatMap.mpr ⟨p % 4, List.mem_range.mpr (by omega), ?_⟩, rfl⟩
    exact List.mem_map.mpr ⟨p / 4, List.mem_range.mpr (by omega), by omega⟩
  have hworks : s.itemWorks o 5 (die * 256 + p) = false := by
    unfold State.itemWorks itemPasses
    rw [hx]
    dsimp only
    rw [hbad, Bool.and_false]
  unfold State.failedBays
  refine List.mem_flatMap.mpr ⟨die, List.mem_range.mpr hdie, List.mem_map.mpr ⟨p, List.mem_filter.mpr ⟨htest, ?_⟩, rfl⟩⟩
  rw [hworks]
  rfl

end Sys2Proof.Machine

namespace Sys2Proof
open Machine

/-- Settles O55, step by step: a start with nothing failing keeps the counts and turns every function of its steps ON,
and an item that the limit of its step finds still running counts as failed. -/
theorem startsOfTheModule : Obligations.StartsOfTheModule := by
  unfold Obligations.StartsOfTheModule
  intro o s bothOk
  refine ⟨fun h => ?_, fun hon h0 => ⟨fun x hx => ?_, fun h12 hw he => ?_,
      fun h12 hk hfuse hok hpass hfails hmiss hhbm => ?_,
    fun h12 hw hstuck _ hbad => ?_, fun h12 hw hstuck => ?_⟩, fun step h => ?_, fun step hrun h8 hstep => ?_,
    fun hon hrun => ?_, fun hoff => ?_, fun h => ?_, fun h => ?_⟩
  · refine congrArg Host.Outcome.next (if_neg fun hc => ?_)
    rcases h with h | h
    · exact absurd (h.symm.trans hc.1) Bool.false_ne_true
    · exact h hc.2
  · rw [startUp_eq hon h0]
    unfold State.start1
    rw [hx]
    rfl
  · obtain ⟨t, ht, hrest⟩ := start1_noKeeper h12 hw he s
    exact ⟨t, (startUp_eq hon h0 o).trans (congrArg _ ht), hrest⟩
  · have hok' (b : Bool) : ∃ i, StartOutcomeItem o 1 (b2n b) = some i ∧ i.ok = true := by
      cases b with
      | false => exact hok 0 (by decide)
      | true => exact hok 1 (by decide)
    obtain ⟨u, t, ht, hend, hcount, hf, htick, ⟨hnmt, hnode⟩, ⟨hact, hstd⟩, hbays, hstacks⟩ :=
      start1_ready h12 hk hfuse hok' hpass hfails hmiss hhbm
    have hdict : t.dict.nmt = u.dict.nmt ∧ t.dict.nodeId = u.dict.nodeId := by
      rw [hend.dict]
      exact ⟨rfl, rfl⟩
    refine ⟨t, (startUp_eq hon h0 o).trans (congrArg _ ht), hend.step, hend.ticking, by rw [hend.tick], ?_, ?_,
      hdict.1.trans hnmt, hdict.2.trans hnode, by rw [hend.keepers, hact], by rw [hend.keepers, hstd],
      hend.fails.trans hf, hend.parts, fun b => hend.funcs _ (by simp) (hbays b),
      fun i => hend.funcs _ (by simp) (hstacks i), hend.ctx, hend.book⟩
    · rw [hend.tick, htick]
    · rw [hend.count, hcount]
  · have hno : stepStuck o 4 = false := by
      unfold stepStuck
      rw [List.any_eq_false]
      intro x hx
      rw [hstuck x hx, Bool.false_and]
      exact Bool.false_ne_true
    obtain ⟨w, u, h4, hb⟩ := start1_runs h12 (.inl hw) s
    obtain ⟨t, ht, hstep, hout, hrec, htick, ha, hbo, hrun⟩ := start4_stops hno hbad u w
    exact ⟨t, (startUp_eq hon h0 o).trans (congrArg _ (h4.trans ht)), hstep, hout, hrec, htick.trans hb.ticking, ha,
        hbo,
      hrun⟩
  · obtain ⟨w, u, h4, hb⟩ := start1_runs h12 (.inl hw) s
    have hyes : stepStuck o 4 = true := by
      obtain ⟨x, hx, hst, hkind⟩ := hstuck
      refine List.any_eq_true.mpr ⟨x, hx, ?_⟩
      rw [hst, Bool.true_and]
      exact decide_eq_true (if_pos hkind)
    have hwait : u.start4 o w = u.startWait o 4 := if_pos hyes
    exact ⟨_, (startUp_eq hon h0 o).trans (congrArg _ (h4.trans hwait)), rfl, rfl, hb.ticking⟩
  · refine congrArg Host.Outcome.next ?_
    split
    · rfl
    · next o' ho' =>
      rcases h with h | h
      · exact absurd (h.symm.trans ho') nofun
      · exact if_pos h
  · subst hstep
    obtain ⟨code, w, u, hu, hmap⟩ := stepTimeout_eq hrun h8
    obtain ⟨v, hv, hbadBays, -⟩ := start8_runs u w (limited_stuck 8 code o)
    have hend := startReady_ends v { o with items := o.items.map (limited 8 code) } w
    refine ⟨_, hu.trans (congrArg _ hv), hend.step, hend.run, hend.ticking, by rw [hend.tick], ?_⟩
    intro x _ hst hkind hdie hp hfuse hfind
    have hitem : x.item.toNat / 256 * 256 + x.item.toNat % 256 = x.item.toNat := by omega
    rw [hend.badBays, hbadBays]
    refine List.mem_append_right _ (mem_failedBays (x := limited 8 code x) ?_ hdie hp (by rw [hmap, hfuse]) ?_)
    · refine limited_fails hst ?_
      unfold itemStep
      rw [hkind]
      rfl
    · rw [hitem]
      exact limited_find hfind
  · refine ⟨(s.shutdown 7 0xFF).powerOn, congrArg Host.Outcome.next (if_pos ⟨hon, .inl (by rw [hrun]; rfl)⟩), rfl,
      rfl, rfl,
      rfl, rfl, rfl, rfl, ?_⟩
    show (false || (s.power.input && s.power.en &&
      !(s.power.latched || (decide ((7 : Nat) = 4 ∨ (7 : Nat) = 5) && !s.power.autoRestart)))) = _
    rw [decide_eq_false (by decide), Bool.false_and, Bool.or_false, Bool.false_or]
  · exact congrArg Host.Outcome.next (if_neg fun hc => absurd (hoff.symm.trans hc.1) Bool.false_ne_true)
  · exact congrArg Host.Outcome.next (if_pos h)
  · exact congrArg Host.Outcome.next (if_neg fun hc => hc h)

end Sys2Proof
end

section
/-!
# A failing carrel whose last store arms a change of the tick's length
-/
namespace Sys2Proof.Machine

/-- A store of 32 to TICK_LEN_AT. -/
def armingStore : VecAcc :=
  { elem := 0, va := 0, pa := 0xF0000000020, n := 8, part := 0, bytes := natToBytes 8 32 }

/-- The guard of a tick in which carrel 0 is to fail, with a repeated word, while it waits for the acknowledgement of
a VST to TICK_LEN_AT; no keeper is left and a gap is owed. -/
def armingState : State :=
  { State.reset with
    carrels := [(0, { Carrel.reset with
      wait := .vecAck 1 { ew := 3, m := false, iw := false, sc := 0, at_ := 0 } [armingStore] })]
    keepers := { State.reset.keepers with none_ := true }
    start := { State.reset.start with ticking := true }
    tick := { State.reset.tick with part := .guard, gapDue := true, failDue := [(0, 1)] } }

theorem tickBoundary_eq {s : State} (hon : s.start.ticking = true) (hguard : s.tick.part = .guard) (env : TickEnv) :
    Machine.exec (.tickBoundary env) s = .next (s.boundary env) :=
  congrArg Host.Outcome.next (if_pos ⟨hon, hguard⟩)

theorem armingState_armed : (armingState.boundary { coolStacks := [], coolZones := [] }).tick.armed =
    some (32, 8000) := by
  decide +kernel

end Sys2Proof.Machine

namespace Sys2Proof
open Machine

/-- Refutes O39: a carrel that fails at the boundary while a vector store of it waits for its acknowledgement has the
store performed first (R184, R449). One to TICK_LEN_AT arms a change of length (R42) that the ended tick did not have
armed. -/
theorem not_tickBoundary : ¬ Obligations.TickBoundary := by
  unfold Obligations.TickBoundary
  rintro ⟨h, -⟩
  obtain ⟨-, htick⟩ := h { coolStacks := [], coolZones := [] } armingState
  obtain ⟨t, hex, -, -, -, hkept, -⟩ := htick rfl rfl
  have ht : armingState.boundary { coolStacks := [], coolZones := [] } = t :=
    Host.Outcome.next.inj ((tickBoundary_eq (s := armingState) rfl rfl _).symm.trans hex)
  have hnone : armingState.tick.armed = none := rfl
  obtain ⟨-, harmed⟩ := hkept fun b n hb => absurd (hnone.symm.trans hb) nofun
  rw [← ht, armingState_armed, hnone] at harmed
  exact absurd harmed nofun

end Sys2Proof
end

section
/-!
# A late plan with a carrel that is listed twice
-/
namespace Sys2Proof.Machine

/-- A store to the request register of invalidation slot 32, which asks for all segments of all contexts. -/
def invalidatingStore : VecAcc :=
  { elem := 0, va := 0, pa := 0xF0000050100, n := 8, part := 0, bytes := natToBytes 8 (2 ^ 28) }

/-- A plan that runs on carrels 0 and 1. -/
def latePlan : Plan :=
    { Plan.blank with state := .running, fresh := false, img := { Plan.blank.img with set := [0, 1] } }

/-- The work window of a tick. Carrel 0 still runs, and stands twice in the table of carrels; carrel 1 waits for the
acknowledgement of a VST to an invalidation slot. -/
def lateState : State :=
  { State.reset with
    carrels := [(0, { Carrel.reset with wait := .none, vl := 1 }), (0, { Carrel.reset with wait := .none, vl := 2 }),
      (1, { Carrel.reset with
        wait := .vecAck 1 { ew := 3, m := false, iw := false, sc := 0, at_ := 0 } [invalidatingStore] })]
    plans := [(0, latePlan)]
    start := { State.reset.start with ticking := true }
    tick := { State.reset.tick with part := .work } }

/-- The guard's work where no carrel is to be treated first. -/
def State.guarded (s : State) : State :=
  let s := { s with tick := { s.tick with part := .guard } }.treatHalts
  s.ranPlans.foldl (fun s ((i, p) : Nat × Plan) => s.lateCheck i p) s

theorem guardStart_eq {s : State} (hon : s.start.ticking = true) (hwork : s.tick.part = .work) :
    Machine.exec (.guardStart []) s = .next s.guarded :=
  congrArg Host.Outcome.next (if_pos ⟨hon, hwork⟩)

/-- The invalidation lists carrel 0 anew as the second entry of the table has it. -/
theorem lateState_wait : (lateState.guarded.carrel 0).wait = .none := by
  decide +kernel

end Sys2Proof.Machine

namespace Sys2Proof
open Machine

/-- Refutes O40, in a state whose table of carrels lists carrel 0 twice: the late check stops carrel 0, and then, as it
stops carrel 1, performs that carrel's store to an invalidation slot (R184, R376). The invalidation goes through the
table and sets carrel 0 again from its second entry, which still runs. -/
theorem not_workWindowAndGuard : ¬ Obligations.WorkWindowAndGuard := by
  unfold Obligations.WorkWindowAndGuard
  rintro ⟨-, h⟩
  obtain ⟨-, hguard⟩ := h lateState
  obtain ⟨-, hlate⟩ := hguard rfl rfl rfl rfl
  have hbusy : (lateState.carrel (BitVec.ofNat 12 0)).wait ≠ .rest ∧
      (lateState.carrel (BitVec.ofNat 12 0)).halted = false := by decide
  obtain ⟨t, q, hex, -, -, -, -, -, hrest⟩ := hlate 0 latePlan rfl rfl (.inr ⟨0, List.mem_cons_self, .inl hbusy⟩)
    (by decide)
  have ht : lateState.guarded = t := Host.Outcome.next.inj ((guardStart_eq (s := lateState) rfl rfl).symm.trans hex)
  obtain ⟨hwait, -⟩ := hrest 0 List.mem_cons_self (.inl hbusy)
  rw [← ht] at hwait
  exact absurd (lateState_wait.symm.trans hwait) nofun

end Sys2Proof
end

section
/-!
How a dictionary request runs: which row an entry has, what a source may do with it, and what an accepted or
refused write and read become (R504 to R516).
-/

namespace Sys2Proof.Machine

/-! ### The rows of the entries that the statements name -/

theorem dictFind_storeAll : ∃ r, dictFind 0x1010 1 = .row r ∧ r.rights = 220 ∧ r.size = 4 := ⟨_, rfl, rfl, rfl⟩
theorem dictFind_restoreAll : ∃ r, dictFind 0x1011 1 = .row r ∧ r.rights = 220 ∧ r.size = 4 := ⟨_, rfl, rfl, rfl⟩
theorem dictFind_clearStanding : ∃ r, dictFind 0x2252 0 = .row r ∧ r.rights = 220 ∧ r.size = 1 := ⟨_, rfl, rfl, rfl⟩
theorem dictFind_descSelect : ∃ r, dictFind 0x2203 1 = .row r ∧ r.rights = 222 ∧ r.size = 4 := ⟨_, rfl, rfl, rfl⟩
theorem dictFind_peek : ∃ r, dictFind 0x2240 3 = .row r ∧ r.rights = 110 ∧ r.size = 0 := ⟨_, rfl, rfl, rfl⟩
theorem dictFind_tickNo : ∃ r, dictFind 0x3000 2 = .row r ∧ r.rights = 111 ∧ r.size = 8 := ⟨_, rfl, rfl, rfl⟩
theorem dictFind_censusPeriod : ∃ r, dictFind 0x4400 1 = .row r ∧ r.rights = 221 ∧ r.size = 4 := ⟨_, rfl, rfl, rfl⟩

theorem dictFind_trim {idx sub : Nat} (h0 : 0x2120 ≤ idx) (h1 : idx ≤ 0x2124) (h2 : 1 ≤ sub) (h3 : sub ≤ 3) :
    ∃ r, dictFind idx sub = .row r ∧ r.rights = 221 ∧ r.size = 2 := by
  interval_cases idx <;> interval_cases sub <;> exact ⟨_, rfl, rfl, rfl⟩

theorem dictFind_program {sub : Nat} (h : sub = 1 ∨ sub = 2) :
    ∃ r, dictFind 0x1F50 sub = .row r ∧ r.rights = 220 ∧ r.size = 0 := by
  obtain rfl | rfl := h <;> exact ⟨_, rfl, rfl, rfl⟩

theorem dictFind_programControl {sub : Nat} (h : sub = 1 ∨ sub = 2) :
    ∃ r, dictFind 0x1F51 sub = .row r ∧ r.rights = 220 ∧ r.size = 1 := by
  obtain rfl | rfl := h <;> exact ⟨_, rfl, rfl, rfl⟩

/-! ### Whether an entry is found and free -/

variable {s : State} {src : DictSrc} {idx sub off len : Nat} {v : List Byte} {r : DictRow}

/-- Outside recovery every entry of the dictionary is served. -/
theorem State.dictLook_eq (h : s.sec.recovery = false) (idx sub : Nat) : s.dictLook idx sub = dictFind idx sub := by
  simp [State.dictLook, h]

theorem State.heldBy_free (ht : s.dict.transfers = []) (hu : s.dict.usdo = none) :
    s.heldBy src idx sub = false := by
  simp [State.heldBy, ht, hu]

/-- The right of a source that is no VF is what its row says. -/
theorem State.rightOf_eq (h : ∀ f, src ≠ .vf f) : s.rightOf src r idx sub = r.right src := by
  cases src with
  | vf f => exact absurd rfl (h f)
  | can => rfl
  | pf => rfl

/-- The right of a VF to an entry away from the mailboxes that no owner has more right to. -/
theorem State.rightOf_vf {f : BitVec 6} (hi : idx < 0x4822) (hr : r.rights % 10 < 3) :
    s.rightOf (.vf f) r idx sub = r.rights % 10 := by
  have h1 : ¬ (0x4822 ≤ idx ∧ idx ≤ 0x4860) := by omega
  have h2 : ¬ 3 ≤ r.right (.vf f) := by change ¬ 3 ≤ r.rights % 10; omega
  simp only [State.rightOf, if_neg h1, if_neg h2]
  rfl

theorem State.accessCode_write (h : s.rightOf src r idx sub = 2) : s.accessCode src r idx sub true = 0 := by
  simp [State.accessCode, h]

theorem State.accessCode_read (h : s.rightOf src r idx sub ≠ 0) : s.accessCode src r idx sub false = 0 := by
  simp [State.accessCode, h]

theorem State.accessCode_none (h : s.rightOf src r idx sub = 0) (w : Bool) :
    s.accessCode src r idx sub w = 0x06010000 := by
  simp [State.accessCode, h]

theorem State.accessCode_readOnly (h : s.rightOf src r idx sub = 1) (hw : r.writable = false) :
    s.accessCode src r idx sub true = 0x06010002 := by
  simp [State.accessCode, h, hw]

theorem State.accessCode_reader (h : s.rightOf src r idx sub = 1) (hw : r.writable = true) :
    s.accessCode src r idx sub true = 0x06010000 := by
  simp [State.accessCode, h, hw]

/-! ### A write -/

theorem dictSet_put (hs : s.dictServed src = true) (hl : s.dictLook idx sub = .row r)
    (ha : s.accessCode src r idx sub true = 0) (hz : r.size ≠ 0) (hv : v.length = r.size)
    (hh : s.heldBy src idx sub = false) :
    s.dictSet src idx sub 0 v = State.endPut (s.dictPut src idx sub v) src v.length := by
  simp [State.dictSet, hs, hl, ha, hz, hv, hh]

theorem dictSet_program (hs : s.dictServed src = true) (hl : s.dictLook idx sub = .row r)
    (ha : s.accessCode src r idx sub true = 0) (hz : r.size = 0) :
    s.dictSet src idx sub off v = State.endPut (s.programPart src sub off v) src v.length := by
  simp [State.dictSet, hs, hl, ha, hz]

theorem dictSet_denied {c : Nat} (hs : s.dictServed src = true) (hl : s.dictLook idx sub = .row r)
    (ha : s.accessCode src r idx sub true = c) (hc : c ≠ 0) : s.dictSet src idx sub off v = s.dictAbort src c := by
  simp [State.dictSet, hs, hl, ha, hc]

theorem dictSet_length (hs : s.dictServed src = true) (hl : s.dictLook idx sub = .row r)
    (ha : s.accessCode src r idx sub true = 0) (hz : r.size ≠ 0) (hv : v.length ≠ r.size) :
    s.dictSet src idx sub off v = s.dictAbort src 0x06070010 := by
  simp [State.dictSet, hs, hl, ha, hz, hv]

/-! ### A read -/

theorem dictGet_noIndex (hs : s.dictServed src = true) (hl : s.dictLook idx sub = .noIndex) :
    s.dictGet src idx sub off len = s.dictAbort src 0x06020000 := by
  simp [State.dictGet, hs, hl]

theorem dictGet_noSub (hs : s.dictServed src = true) (hl : s.dictLook idx sub = .noSub) :
    s.dictGet src idx sub off len = s.dictAbort src 0x06090011 := by
  simp [State.dictGet, hs, hl]

/-- What a read asks of memory first: only the peek asks. -/
def State.readAsk (s : State) (src : DictSrc) (idx sub : Nat) : Bool × State :=
  if idx = 0x2240 ∧ sub = 3 then s.peekAsk src else (true, s)

theorem State.readAsk_other (h : idx ≠ 0x2240) : s.readAsk src idx sub = (true, s) :=
  if_neg fun hp => h hp.1

theorem dictGet_waits (hs : s.dictServed src = true) (hl : s.dictLook idx sub = .row r)
    (ha : s.accessCode src r idx sub false = 0) (hlen : len ≠ 0 ∧ (len ≤ 4096 ∨ src = .can))
    (hq : (s.readAsk src idx sub).1 = false) : s.dictGet src idx sub 0 len = (s.readAsk src idx sub).2 := by
  have hlen' : ¬ (len = 0 ∨ (4096 < len ∧ src ≠ .can)) := by grind
  simp only [State.dictGet, hs, hl, ha, if_neg hlen']
  exact if_neg (Bool.eq_false_iff.mp hq)

/-- A value that fits the read is the answer, from the state that its tokens and its free word leave. -/
theorem dictGet_value {u : State} (hs : s.dictServed src = true) (hl : s.dictLook idx sub = .row r)
    (ha : s.accessCode src r idx sub false = 0) (hlen : len ≠ 0 ∧ (len ≤ 4096 ∨ src = .can))
    (hq : s.readAsk src idx sub = (true, u))
    (hval : u.draw.2.dictValue src r idx sub u.draw.1 = some v) (hv : v.length ≤ len) (hv' : v.length ≤ 4096)
    (hh : r.size ≠ 0 ∨ u.draw.2.heldBy src idx sub = false) :
    s.dictGet src idx sub 0 len = u.draw.2.dictEnd src 0 v.length v.length v := by
  have hlen' : ¬ (len = 0 ∨ (4096 < len ∧ src ≠ .can)) := by grind
  have hh' : ¬ (r.size = 0 ∧ u.draw.2.heldBy src idx sub = true) := by grind
  have hd : slice v 0 len = v := by simp [slice, hv]
  have hbig : ¬ (4096 < v.length ∧ src ≠ .can) := by omega
  have hoff : ¬ ((v.length ≤ 4096 ∧ (0 : Nat) ≠ 0) ∨ (4096 < v.length ∧ v.length ≤ 0)) := by omega
  have hask : s.dictGet src idx sub 0 len = whenLet (s.readAsk src idx sub) fun s =>
      match s.draw.2.dictValue src r idx sub s.draw.1 with
      | none => s.draw.2.dictAbort src 0x06090030
      | some v =>
        if (v.length ≤ 4096 ∧ (0 : Nat) ≠ 0) ∨ (4096 < v.length ∧ v.length ≤ 0) then s.draw.2.dictAbort src 0x06090030
        else if r.size = 0 ∧ s.draw.2.heldBy src idx sub then s.draw.2.dictAbort src 0x08000022
        else (if 4096 < v.length ∧ src ≠ .can then
              (if 0 + (slice v 0 len).length = v.length then s.draw.2.endTransfer src idx sub
                else s.draw.2.setTransfer src idx sub false [])
            else s.draw.2).dictEnd src 0 (slice v 0 len).length v.length (slice v 0 len) := by
    simp only [State.dictGet, hs, hl, ha, if_neg hlen']
    rfl
  rw [hask, hq]
  simp only [whenLet, hval, if_neg hoff, if_neg hh', if_neg hbig, hd]
  rfl

end Sys2Proof.Machine
end

section
/-!
The keepers' services on CAN FD: NMT, heartbeat, EMCY spacing, TPDOs and USDO transfers (R497 to R504).
-/

namespace Sys2Proof.Machine

/-! ### NMT, boot-up and heartbeat -/

variable {s : State}

theorem State.nmtServed_iff : s.nmtServed = true ↔
    s.keepers.none_ = false ∧ s.dict.busOff = false ∧ s.dict.nodeId ≠ 0 ∧ s.dict.nmt ≠ 0 := by
  simp [State.nmtServed, and_assoc]

theorem State.canTalk_iff : s.canTalk = true ↔ s.keepers.none_ = false ∧ s.dict.busOff = false ∧ s.dict.nodeId ≠ 0 ∧
    (s.dict.nmt = 1 ∨ s.dict.nmt = 2) := by
  simp [State.canTalk, and_assoc]

theorem State.sendBeat_served (h : s.nmtServed = true) (b : Byte) :
    s.sendBeat b = { s with sent := .can (0x700 + s.dict.nodeId.toNat) [b] :: s.sent } := if_pos h

theorem State.nmtServed_preOperational (h : s.nmtServed = true) : (s.setNmt 1).nmtServed = true := by
  obtain ⟨h1, h2, h3, -⟩ := State.nmtServed_iff.mp h
  exact State.nmtServed_iff.mpr ⟨h1, h2, h3, fun h => absurd h (by decide : (1 : BitVec 2) ≠ 0)⟩

/-- Boot-up of a served node: its message, and Pre-operational. -/
theorem State.bootUp_served (h : s.nmtServed = true) : s.bootUp =
    { s with sent := .can (0x700 + s.dict.nodeId.toNat) [0] :: s.sent, dict := { s.dict with nmt := 1 } } :=
  State.sendBeat_served (State.nmtServed_preOperational h) 0

theorem resetCommunication_served (h : s.nmtServed = true) : execResetCommunication s =
    .next { s with sent := .can (0x700 + s.dict.nodeId.toNat) [0] :: s.sent
                   dict := { s.dict with vals := s.dict.storedComm, nmt := 1 } } := by
  have hl : s.loadComm.nmtServed = true := h
  have hb := State.bootUp_served hl
  exact congrArg Host.Outcome.next ((if_pos h).trans hb)

theorem resetApplication_served (h : s.nmtServed = true) : execResetApplication s =
    .next { s with sent := .can (0x700 + s.dict.nodeId.toNat) [0] :: s.sent
                   dict := { s.dict with vals := s.dict.storedComm, nmt := 1
                                         trimsNext := s.loadComm.loadTrims.dict.trimsNext } } := by
  have hl : s.loadComm.loadTrims.nmtServed = true := h
  exact congrArg Host.Outcome.next ((if_pos h).trans (State.bootUp_served hl))

theorem heartbeat_served (h : s.nmtServed = true) (hb : bytesToNat (s.entryVal 0x1017 0 (natToBytes 2 100)) ≠ 0) :
    execHeartbeat s = .next { s with
      sent := .can (0x700 + s.dict.nodeId.toNat)
        [if s.dict.nmt = 1 then 127 else if s.dict.nmt = 2 then 5 else 4] :: s.sent } :=
  congrArg Host.Outcome.next ((if_neg hb).trans (State.sendBeat_served h _))

/-- A fold that writes a value of its own for each key leaves every key of the list written. -/
theorem get_foldl_set {α : Type} [DecidableEq α] (d : α) (f : Nat → α) (k : Nat) : ∀ (l : List Nat) (t : Tab α),
    (k ∈ l ∨ Tab.get d t k = f k) → Tab.get d (l.foldl (fun t k => Tab.set d t k (f k)) t) k = f k
  | [], t, h => h.resolve_left List.not_mem_nil
  | x :: l, t, h => by
    refine get_foldl_set d f k l _ ?_
    by_cases hx : k = x
    · subst hx
      exact .inr (Tab.get_set_same ..)
    · refine (h.imp (fun hm => (List.mem_cons.mp hm).resolve_left hx) fun hk => ?_)
      rw [Tab.get_set_other _ _ _ _ _ hx, hk]

/-- A key with a value of its own is listed. -/
theorem mem_keys_of_get_ne {α : Type} {d : α} {t : Tab α} {k : Nat} (h : Tab.get d t k ≠ d) : k ∈ t.map (·.1) := by
  obtain ⟨y, hy, rfl⟩ := Tab.mem_of_get t k h
  exact List.mem_map_of_mem hy

/-- Reset of the application orders the stored trim of every key that has one in force or stored. -/
theorem loadTrims_trimsNext (s : State) {k : Nat}
    (h : Tab.get 0 s.dict.trims k ≠ 0 ∨ Tab.get 0 s.dict.storedTrims k ≠ 0) :
    Tab.get none s.loadTrims.dict.trimsNext k = some (Tab.get 0 s.dict.storedTrims k) := by
  refine get_foldl_set none (fun k => some (Tab.get 0 s.dict.storedTrims k)) k _ _ (.inl ?_)
  refine List.mem_eraseDups.mpr (List.mem_append.mpr ?_)
  exact h.imp mem_keys_of_get_ne mem_keys_of_get_ne

/-! ### TPDOs -/

/-- The value of the entry that holds the tick's number. -/
theorem State.tickNo_value (s : State) (src : DictSrc) (r : DictRow) (w : Word) :
    s.dictValue src r 0x3000 2 w = some (natToBytes 8 s.tick.no.toNat) := rfl

/-- The identifier of a TPDO that has been written. -/
theorem State.tpdoCob_value {k : Nat} {cob : List Byte} (hk : k < 4)
    (hc : Tab.get none s.dict.vals ((0x1800 + k) * 256 + 1) = some cob) :
    ((s.commValue (0x1800 + k) 1 []).map bytesToNat).getD 0 = bytesToNat cob := by
  have hv (dflt : List Byte) : s.entryVal (0x1800 + k) 1 dflt = cob := by rw [State.entryVal, hc, Option.getD_some]
  have h1 : (0x1800 ≤ 0x1800 + k ∧ 0x1800 + k ≤ 0x1803 ∧ (1 : Nat) = 1) := by omega
  have he : s.commValue (0x1800 + k) 1 [] = some cob := by
    unfold State.commValue
    rw [if_neg (by omega), if_neg (by omega), if_neg (by omega), if_neg (by omega), if_neg (by omega), if_pos h1, hv]
  rw [he]
  rfl

/-- The data of a TPDO: the values that it maps, in order. -/
def State.tpdoData (s v : State) (k : Nat) : List Byte :=
  (upto (bytesToNat (s.entryVal (0x1A00 + k) 0 [0]))).flatMap fun i =>
    let m := bytesToNat (s.entryVal (0x1A00 + k) (i + 1) (natToBytes 4 0))
    match dictFind (m / 65536) (m / 256 % 256) with
    | .row r => (v.dictValue .can r (m / 65536) (m / 256 % 256) 0).getD []
    | _ => []

theorem tpdoSend_eq {v : State} {k type : Nat} {cob : List Byte} (hk : k < 4)
    (hc : Tab.get none s.dict.vals ((0x1800 + k) * 256 + 1) = some cob) : s.tpdoSend v k type =
      if s.canTalk = true ∧ s.dict.nmt = 2 ∧ bytesToNat cob / 2 ^ 31 = 0 ∧
          bytesToNat (s.entryVal (0x1800 + k) 2 [0xFE]) = type then
        s.send (.can (bytesToNat cob % 2 ^ 11) (s.tpdoData v k)) else s := by
  rw [← State.tpdoCob_value hk hc]
  rfl

theorem State.tpdoData_tickNo {k : Nat} (v : State) (hcount : s.entryVal (0x1A00 + k) 0 [0] = [1])
    (hmap : s.entryVal (0x1A00 + k) 1 (natToBytes 4 0) = natToBytes 4 (0x3000 * 65536 + 2 * 256 + 64)) :
    s.tpdoData v k = natToBytes 8 v.tick.no.toNat := by
  obtain ⟨r, hf, -⟩ := dictFind_tickNo
  have hm : bytesToNat (natToBytes 4 (0x3000 * 65536 + 2 * 256 + 64)) = 0x3000 * 65536 + 2 * 256 + 64 := by
    exact (bytesToNat_natToBytes ..).trans (Nat.mod_eq_of_lt (by norm_num))
  have hd : (match dictFind 0x3000 2 with
      | .row r => (v.dictValue .can r 0x3000 2 0).getD []
      | _ => []) = natToBytes 8 v.tick.no.toNat := by
    rw [hf]
    rfl
  rw [State.tpdoData, hcount]
  refine (List.append_nil _).trans ?_
  simp only [Nat.zero_add, hmap, hm]
  exact hd

theorem tpdoEventTimer_eq {n : BitVec 3} (h0 : 1 ≤ n.toNat) (h1 : n.toNat ≤ 4) (s : State) :
    execTpdoEventTimer n s = .next (s.tpdoSend s (n.toNat - 1) 0xFF) :=
  congrArg Host.Outcome.next (if_pos ⟨h0, h1⟩)

theorem tpdoEventTimer_tickNo {n : BitVec 3} {cob : List Byte} (h0 : 1 ≤ n.toNat) (h1 : n.toNat ≤ 4)
    (hc : Tab.get none s.dict.vals ((0x17FF + n.toNat) * 256 + 1) = some cob) (ht : s.canTalk = true)
    (hn : s.dict.nmt = 2) (hcob : bytesToNat cob < 2 ^ 31) (htype : s.entryVal (0x17FF + n.toNat) 2 [0xFE] = [0xFF])
    (hcount : s.entryVal (0x19FF + n.toNat) 0 [0] = [1])
    (hmap : s.entryVal (0x19FF + n.toNat) 1 (natToBytes 4 0) = natToBytes 4 (0x3000 * 65536 + 2 * 256 + 64)) :
    execTpdoEventTimer n s =
      .next { s with sent := .can (bytesToNat cob % 2 ^ 11) (natToBytes 8 s.tick.no.toNat) :: s.sent } := by
  have hk : 0x17FF + n.toNat = 0x1800 + (n.toNat - 1) := by omega
  have hk' : 0x19FF + n.toNat = 0x1A00 + (n.toNat - 1) := by omega
  rw [hk] at hc htype
  rw [hk'] at hcount hmap
  have hcond : s.canTalk = true ∧ s.dict.nmt = 2 ∧ bytesToNat cob / 2 ^ 31 = 0 ∧
      bytesToNat (s.entryVal (0x1800 + (n.toNat - 1)) 2 [0xFE]) = 0xFF :=
    ⟨ht, hn, Nat.div_eq_of_lt hcob, by rw [htype]; rfl⟩
  rw [tpdoEventTimer_eq h0 h1, tpdoSend_eq (by omega) hc, if_pos hcond, State.tpdoData_tickNo s hcount hmap]
  rfl

theorem tpdoEventTimer_disabled {n : BitVec 3} {cob : List Byte} (h0 : 1 ≤ n.toNat) (h1 : n.toNat ≤ 4)
    (hc : Tab.get none s.dict.vals ((0x17FF + n.toNat) * 256 + 1) = some cob) (hcob : 2 ^ 31 ≤ bytesToNat cob) :
    execTpdoEventTimer n s = .next s := by
  rw [show 0x17FF + n.toNat = 0x1800 + (n.toNat - 1) by omega] at hc
  rw [tpdoEventTimer_eq h0 h1, tpdoSend_eq (by omega) hc, if_neg fun h => ?_]
  have := h.2.2.1
  omega

/-! ### EMCY spacing -/

theorem emcyInhibitExpiry_idle (h : s.dict.emcy = []) :
    execEmcyInhibitExpiry s = .next { s with dict := { s.dict with inhibit := false } } := by
  simp only [execEmcyInhibitExpiry, State.emcyNext, h]

theorem length_emcyDetail (s : State) (n : Option Nat) : (natToBytes 4 (s.emcyDetail n)).length = 4 :=
  length_natToBytes ..

theorem emcyInhibitExpiry_next {code : BitVec 16} {b : Nat} {num : Option Nat}
    {rest : List (BitVec 16 × Nat × Option Nat)} (h : s.dict.emcy = (code, b, num) :: rest) :
    execEmcyInhibitExpiry s = .next { s with
      sent := .can s.emcyId (natToBytes 2 code.toNat ++ [s.dict.errReg] ++ natToBytes 4 (s.emcyDetail num)) :: s.sent
      dict := { s.dict with emcy := rest, inhibit := true } } := by
  simp only [execEmcyInhibitExpiry, State.emcyNext, h]
  rfl

/-! ### USDO -/

/-- A keeper that answers USDO requests: in Pre-operational or Operational, outside recovery, with no transfer begun
at another window. -/
structure State.ServesUsdo (s : State) : Prop where
  served : s.dictServed .can = true
  recovery : s.sec.recovery = false
  transfers : s.dict.transfers = []

namespace State.ServesUsdo

variable (h : s.ServesUsdo)
include h

theorem look (idx sub : Nat) : s.dictLook idx sub = dictFind idx sub := State.dictLook_eq h.recovery idx sub

theorem free (idx sub : Nat) : s.heldBy .can idx sub = false := by
  cases hu : s.dict.usdo <;> simp [State.heldBy, h.transfers, hu]

theorem setUsdo (u : Option Usdo) : (s.setUsdo u).ServesUsdo := ⟨h.served, h.recovery, h.transfers⟩

theorem drawn : s.draw.2.ServesUsdo := ⟨h.served, h.recovery, h.transfers⟩

theorem setTransfer_talks (idx sub : Nat) (w : Bool) (l : List Byte) :
    (s.setTransfer .can idx sub w l).canTalk = true := h.served

theorem flashSet (b : Bool) (l : List Byte) (st : BitVec 16) : (s.flashSet b l st).ServesUsdo := by
  cases b <;> exact ⟨h.served, h.recovery, h.transfers⟩

theorem period (n : BitVec 20) : ({ s with census := { s.census with period := n } } : State).ServesUsdo :=
  ⟨h.served, h.recovery, h.transfers⟩

theorem answer (code done size : Nat) (data : List Byte) :
    Answered .can code done size data s (s.dictEnd .can code done size data) :=
  dictEnd_answered (fun _ => h.served) ..

theorem put {idx sub : Nat} {v : List Byte} (hf : ∃ r, dictFind idx sub = .row r ∧ r.rights / 100 = 2 ∧ r.size ≠ 0 ∧
    v.length = r.size) : s.dictSet .can idx sub 0 v = State.endPut (s.dictPut .can idx sub v) .can v.length := by
  obtain ⟨r, hf, hr, hz, hv⟩ := hf
  exact dictSet_put h.served ((h.look ..).trans hf) (State.accessCode_write hr) hz hv (h.free ..)

theorem download {idx : BitVec 16} {sub : BitVec 8} {size : Nat} {data : List Byte} (h1 : size ≤ 56)
    (h2 : data.length = size) :
    execUsdoDownload idx sub size data s = .next ((s.setUsdo none).dictSet .can idx.toNat sub.toNat 0 data) := by
  simp [execUsdoDownload, h.served, h1, h2]

theorem downloadStart {size : Nat} {data : List Byte} (h1 : 56 < size) (h2 : size ≤ 16777216)
    (h3 : data.length < size) : execUsdoDownload 0x1F50 1 size data s = .next ((s.setUsdo
      (some { index := 0x1F50, sub := 1, size := size, bytes := data })).dictEnd .can 0 data.length size []) := by
  obtain ⟨r, hf, hr, hz⟩ := dictFind_program (sub := 1) (.inl rfl)
  have hn := h.setUsdo none
  have hcode : (s.setUsdo none).usdoCode 0x1F50 1 size = 0 := by
    have ha : (s.setUsdo none).accessCode .can r 0x1F50 1 true = 0 :=
      State.accessCode_write (show r.rights / 100 = 2 by omega)
    simp [State.usdoCode, hn.look, hf, ha, hz, hn.free, h2]
  have hlong : ¬ (size ≤ 56 ∨ size ≤ data.length) := by omega
  have hcode' : (s.setUsdo none).usdoCode (0x1F50 : BitVec 16).toNat (1 : BitVec 8).toNat size = 0 := hcode
  simp only [execUsdoDownload, h.served, if_neg hlong, hcode']
  rfl

theorem segmentRest {u : Usdo} {data : List Byte} (hu : s.dict.usdo = some u)
    (h1 : u.bytes.length + data.length ≤ u.size) : execUsdoSegment false data s = .next
      ((s.setUsdo (some { u with bytes := u.bytes ++ data })).dictEnd .can 0 data.length u.size []) := by
  simp [execUsdoSegment, h.served, hu, h1]

theorem segmentWrong {u : Usdo} {data : List Byte} (hu : s.dict.usdo = some u)
    (h1 : u.bytes.length + data.length ≠ u.size) :
    execUsdoSegment true data s = .next ((s.setUsdo none).dictAbort .can 0x06070010) := by
  simp [execUsdoSegment, h.served, hu, h1]

theorem segmentLast {u : Usdo} {data : List Byte} (hu : s.dict.usdo = some u)
    (h1 : u.bytes.length + data.length = u.size) : execUsdoSegment true data s = .next
      ((s.setUsdo none).dictSet .can u.index.toNat u.sub.toNat 0 (u.bytes ++ data)) := by
  simp [execUsdoSegment, h.served, hu, h1]

theorem timeout {u : Usdo} (hu : s.dict.usdo = some u) :
    execUsdoTimeout s = .next ((s.setUsdo none).dictAbort .can 0x05040000) := by
  have hs : (s.setUsdo none).dictServed .can = true := h.served
  simp only [execUsdoTimeout, hu, hs, if_true]

/-- The first part of an image: an erased image takes it and is open from then on. -/
theorem programPart {sub : Nat} {v : List Byte} (hv : v.length ≤ 16777216)
    (hst : (s.image (decide (sub = 2))).status = 1) : s.programPart .can sub 0 v =
      (0, (s.flashSet (decide (sub = 2)) v 2).setTransfer .can 0x1F50 sub true v) := by
  have hv' : ¬ 16777216 < v.length := by omega
  simp [State.programPart, h.transfers, hv', h.free, hst]

/-- A last segment completes the write of an erased image. -/
theorem segmentProgram {u : Usdo} {data : List Byte} (hu : s.dict.usdo = some u) (hi : u.index = 0x1F50)
    (hsub : u.sub = 1 ∨ u.sub = 2) (h1 : u.bytes.length + data.length = u.size) (h2 : u.size ≤ 16777216)
    (hst : (s.image (decide (u.sub = 2))).status = 1) : execUsdoSegment true data s = .next
      ((((s.setUsdo none).flashSet (decide (u.sub = 2)) (u.bytes ++ data) 2).setTransfer .can 0x1F50 u.sub.toNat true
        (u.bytes ++ data)).dictEnd .can 0 u.size u.size []) := by
  have hn := h.setUsdo none
  have hlen : (u.bytes ++ data).length = u.size := by simp [h1]
  have hdec : decide (u.sub.toNat = 2) = decide (u.sub = 2) := by
    obtain hs | hs := hsub <;> rw [hs] <;> rfl
  obtain ⟨r, hf, hr, hz⟩ := dictFind_program (sub := u.sub.toNat) (by obtain hs | hs := hsub <;> rw [hs] <;> decide)
  have ha : (s.setUsdo none).accessCode .can r 0x1F50 u.sub.toNat true = 0 :=
    State.accessCode_write (show r.rights / 100 = 2 by omega)
  have hset : (s.setUsdo none).dictSet .can 0x1F50 u.sub.toNat 0 (u.bytes ++ data) =
      State.endPut ((s.setUsdo none).programPart .can u.sub.toNat 0 (u.bytes ++ data)) .can (u.bytes ++ data).length :=
    dictSet_program hn.served ((hn.look ..).trans hf) ha hz
  rw [h.segmentLast hu h1, hi]
  refine congrArg Host.Outcome.next (hset.trans ?_)
  have hpart := hn.programPart (sub := u.sub.toNat) (v := u.bytes ++ data) (by omega) (by rw [hdec]; exact hst)
  rw [hpart, hlen, hdec]
  rfl

theorem uploadTickNo : execUsdoUpload 0x3000 2 s =
    .next (s.draw.2.dictEnd .can 0 8 8 (natToBytes 8 s.tick.no.toNat)) := by
  obtain ⟨r, hf, hr, hz⟩ := dictFind_tickNo
  have ha : s.rightOf .can r 0x3000 2 ≠ 0 := by change r.rights / 100 ≠ 0; omega
  exact congrArg Host.Outcome.next (dictGet_value h.served ((h.look ..).trans hf) (State.accessCode_read ha)
    ⟨by decide, .inr rfl⟩ (State.readAsk_other (by decide)) (State.tickNo_value ..) (by simp) (by simp) (.inl (by
        omega)))

end State.ServesUsdo

/-- A value of 4 bytes written to the period of the census. -/
theorem dictPut_censusPeriod (s : State) (src : DictSrc) (v : List Byte) : s.dictPut src 0x4400 1 v =
    if bytesToNat v < 2 ^ 20 then (0, { s with census := { s.census with period := BitVec.ofNat 20 (bytesToNat v) } })
    else (0x06090030, s) := rfl

namespace State.ServesUsdo
variable (h : s.ServesUsdo)
include h

theorem downloadPeriod (n : BitVec 32) : execUsdoDownload 0x4400 1 4 (natToBytes 4 n.toNat) s =
    .next (State.endPut ((s.setUsdo none).dictPut .can 0x4400 1 (natToBytes 4 n.toNat)) .can 4) := by
  obtain ⟨r, hf, hr, hz⟩ := dictFind_censusPeriod
  rw [h.download (by decide) (length_natToBytes ..)]
  exact congrArg Host.Outcome.next ((h.setUsdo none).put ⟨r, hf, by omega, by omega, by simp [hz]⟩)

end State.ServesUsdo

theorem image_flashSet (s : State) (b : Bool) (l : List Byte) (st : BitVec 16) :
    (s.flashSet b l st).image b = { bytes := l, status := st } := by
  cases b <;> rfl

theorem image_setTransfer (s : State) (src : DictSrc) (idx sub : Nat) (w : Bool) (l : List Byte) (b : Bool) :
    (s.setTransfer src idx sub w l).image b = s.image b := rfl

theorem usdo_setTransfer (s : State) (src : DictSrc) (idx sub : Nat) (w : Bool) (l : List Byte) :
    (s.setTransfer src idx sub w l).dict.usdo = s.dict.usdo := rfl

theorem usdo_flashSet (s : State) (b : Bool) (l : List Byte) (st : BitVec 16) :
    (s.flashSet b l st).dict.usdo = s.dict.usdo := by
  cases b <;> rfl

/-- The first clauses: what a served keeper does on the commands of NMT, and when its heartbeat expires. -/
theorem nmt_spec (h : s.nmtServed = true) :
    execNmtStart s = .next { s with dict := { s.dict with nmt := 2 } } ∧
      execNmtStop s = .next { s with dict := { s.dict with nmt := 3 } } ∧
      execNmtPreOperational s = .next { s with dict := { s.dict with nmt := 1 } } :=
  ⟨congrArg Host.Outcome.next (if_pos h), congrArg Host.Outcome.next (if_pos h), congrArg Host.Outcome.next (if_pos h)⟩

theorem nmtStart_unserved (h : s.nmtServed ≠ true) : execNmtStart s = .next s :=
  congrArg Host.Outcome.next (if_neg h)

theorem resetApplication_spec (h : s.nmtServed = true) : ∃ t, execResetApplication s = .next t ∧
    t = { s with sent := .can (0x700 + s.dict.nodeId.toNat) [0] :: s.sent
                 dict := { s.dict with vals := s.dict.storedComm, nmt := 1, trimsNext := t.dict.trimsNext } } ∧
    ∀ k, (Tab.get 0 s.dict.trims k ≠ 0 ∨ Tab.get 0 s.dict.storedTrims k ≠ 0) →
      Tab.get none t.dict.trimsNext k = some (Tab.get 0 s.dict.storedTrims k) :=
  ⟨_, resetApplication_served h, rfl, fun _ hk => loadTrims_trimsNext s.loadComm hk⟩

namespace State.ServesUsdo
variable (h : s.ServesUsdo)
include h

theorem downloadPeriod_spec (n : BitVec 32) :
    (n.toNat < 2 ^ 20 → ∃ t, execUsdoDownload 0x4400 1 4 (natToBytes 4 n.toNat) s = .next t ∧
      Answered .can 0 4 4 []
        { s with dict := { s.dict with usdo := none }, census := { s.census with period := n.setWidth 20 } } t) ∧
    (2 ^ 20 ≤ n.toNat → ∃ t, execUsdoDownload 0x4400 1 4 (natToBytes 4 n.toNat) s = .next t ∧
      Answered .can 0x06090030 0 0 [] { s with dict := { s.dict with usdo := none } } t) := by
  have hn : bytesToNat (natToBytes 4 n.toNat) = n.toNat :=
    (bytesToNat_natToBytes ..).trans (Nat.mod_eq_of_lt n.isLt)
  have hput := dictPut_censusPeriod (s.setUsdo none) .can (natToBytes 4 n.toNat)
  rw [hn] at hput
  have hn' := h.setUsdo none
  refine ⟨fun hlt => ⟨_, h.downloadPeriod n, ?_⟩, fun hge => ⟨_, h.downloadPeriod n, ?_⟩⟩
  · rw [if_pos hlt] at hput
    rw [hput, BitVec.ofNat_toNat]
    exact (hn'.period _).answer 0 4 4 []
  · rw [if_neg (by omega)] at hput
    rw [hput]
    exact hn'.answer 0x06090030 0 0 []

theorem segment_spec {u : Usdo} (hu : s.dict.usdo = some u) (data : List Byte) :
    (u.bytes.length + data.length ≤ u.size → ∃ t, execUsdoSegment false data s = .next t ∧
      Answered .can 0 data.length u.size []
        { s with dict := { s.dict with usdo := some { u with bytes := u.bytes ++ data } } } t) ∧
    (u.bytes.length + data.length ≠ u.size → ∃ t, execUsdoSegment true data s = .next t ∧
      Answered .can 0x06070010 0 0 [] { s with dict := { s.dict with usdo := none } } t) ∧
    (u.index = 0x1F50 → (u.sub = 1 ∨ u.sub = 2) → u.bytes.length + data.length = u.size → u.size ≤ 16777216 →
      (s.image (decide (u.sub = 2))).status = 1 →
      ∃ v t, execUsdoSegment true data s = .next t ∧ Answered .can 0 u.size u.size [] v t ∧ v.dict.usdo = none ∧
        v.image (decide (u.sub = 2)) = { bytes := u.bytes ++ data, status := 2 }) ∧
    ∃ t, execUsdoTimeout s = .next t ∧
      Answered .can 0x05040000 0 0 [] { s with dict := { s.dict with usdo := none } } t :=
  ⟨fun h1 => ⟨_, h.segmentRest hu h1, (h.setUsdo _).answer ..⟩,
    fun h1 => ⟨_, h.segmentWrong hu h1, (h.setUsdo none).answer ..⟩,
    fun hi hsub h1 h2 hst => ⟨_, _, h.segmentProgram hu hi hsub h1 h2 hst,
      dictEnd_answered (fun _ => ((h.setUsdo none).flashSet ..).setTransfer_talks ..) ..,
      (usdo_setTransfer ..).trans (usdo_flashSet ..), (image_setTransfer ..).trans (image_flashSet ..)⟩,
    ⟨_, h.timeout hu, (h.setUsdo none).answer ..⟩⟩

end State.ServesUsdo

end Sys2Proof.Machine

namespace Sys2Proof
open Machine

/-- Settles O53: NMT, heartbeat, EMCY and TPDOs clause by clause, and each USDO message by the write or read of the
dictionary that it completes. -/
theorem canServices : Obligations.CanServices := by
  unfold Obligations.CanServices
  intro s served talks nmt beat
  refine ⟨fun hs => ?_, fun hs => nmtStart_unserved fun h => hs (State.nmtServed_iff.mp h), emcyInhibitExpiry_idle,
    fun code b num rest h => ⟨_, length_emcyDetail s num, emcyInhibitExpiry_next h⟩,
    fun n cob h0 h1 hc => ⟨fun ht => ?_, fun h _ => tpdoEventTimer_disabled h0 h1 hc h⟩, fun ht hr htr => ?_, rfl, rfl⟩
  · have h := State.nmtServed_iff.mpr hs
    obtain ⟨hstart, hstop, hpre⟩ := nmt_spec h
    exact ⟨hstart, hstop, hpre, resetCommunication_served h, resetApplication_spec h, heartbeat_served h,
      fun h0 => congrArg Host.Outcome.next (if_pos h0)⟩
  · exact tpdoEventTimer_tickNo h0 h1 hc (State.canTalk_iff.mpr ht)
  · have h : s.ServesUsdo := ⟨State.canTalk_iff.mpr ht, hr, htr⟩
    exact ⟨h.downloadPeriod_spec, fun size data h1 h2 h3 => ⟨_, h.downloadStart h1 h2 h3, (h.setUsdo _).answer ..⟩,
      fun _ => ⟨_, h.uploadTickNo, h.drawn.answer ..⟩, fun u data hu => h.segment_spec hu data⟩

end Sys2Proof
end

section
/-!
Dictionary requests: the command entries, the dictionary window of a function, and a transfer that stops
(R504 to R516).
-/

namespace Sys2Proof.Machine

/-! ### Tables that are filtered or written in one pass -/

/-- Filtering by the key keeps what a kept key holds. -/
theorem get_filter_key {α : Type} {d : α} {p : Nat → Bool} {k : Nat} (hp : p k = true) : ∀ t : Tab α,
    Tab.get d (t.filter fun x => p x.1) k = Tab.get d t k
  | [] => rfl
  | (k', v) :: t => by
    by_cases hk : p k' = true
    · rw [List.filter_cons_of_pos (p := fun x : Nat × α => p x.1) (a := (k', v)) hk, Tab.get_cons, Tab.get_cons,
        get_filter_key hp t]
    · have hne : k ≠ k' := by
        rintro rfl
        exact hk hp
      rw [List.filter_cons_of_neg (p := fun x : Nat × α => p x.1) (a := (k', v)) hk, Tab.get_cons, if_neg hne,
          get_filter_key hp t]

section
variable {α β : Type} [DecidableEq α] [DecidableEq β]

/-- Writing each entry of a table into another one leaves the keys below it. -/
theorem get_foldl_entries_low {d : α} {e : β} (g : β → α) : ∀ (l : Tab β) (lo k : Nat) (t : Tab α),
    Tab.wfFrom e lo l = true → k < lo →
    Tab.get d (l.foldl (fun t (x : Nat × β) => Tab.set d t x.1 (g x.2)) t) k = Tab.get d t k
  | [], _, _, _, _, _ => rfl
  | (k', v) :: l, lo, k, t, hwf, hk => by
    simp only [Tab.wfFrom, Bool.and_eq_true, decide_eq_true_eq] at hwf
    refine (get_foldl_entries_low g l _ k _ hwf.2 (by omega)).trans ?_
    exact Tab.get_set_other _ _ _ _ _ (by omega)

/-- Writing each entry of a canonical table into another one writes every value that the table holds. -/
theorem get_foldl_entries {d : α} {e : β} (g : β → α) : ∀ (l : Tab β) (lo k : Nat) (t : Tab α),
    Tab.wfFrom e lo l = true → Tab.get e l k ≠ e →
    Tab.get d (l.foldl (fun t (x : Nat × β) => Tab.set d t x.1 (g x.2)) t) k = g (Tab.get e l k)
  | [], _, _, _, _, hk => absurd rfl hk
  | (k', v) :: l, lo, k, t, hwf, hk => by
    simp only [Tab.wfFrom, Bool.and_eq_true, decide_eq_true_eq] at hwf
    rw [Tab.get_cons] at hk ⊢
    by_cases h : k = k'
    · subst h
      rw [if_pos rfl]
      exact (get_foldl_entries_low g l _ k _ hwf.2 (by omega)).trans (Tab.get_set_same ..)
    · rw [if_neg h] at hk ⊢
      exact get_foldl_entries g l _ k _ hwf.2 hk

end

/-! ### A source whose requests are served -/

variable {s : State} {src : DictSrc}

/-- A keeper that serves the requests of a source, outside recovery, with no transfer and no exchange begun. -/
structure State.ServesDict (s : State) (src : DictSrc) : Prop where
  served : s.dictServed src = true
  recovery : s.sec.recovery = false
  transfers : s.dict.transfers = []
  usdo : s.dict.usdo = none

theorem State.dictServed_congr {t : State} (hk : t.keepers = s.keepers) (hn : t.dict.nmt = s.dict.nmt)
    (hb : t.dict.busOff = s.dict.busOff) (hi : t.dict.nodeId = s.dict.nodeId) :
    t.dictServed src = s.dictServed src := by
  cases src <;> simp only [State.dictServed, State.canTalk, hk, hn, hb, hi]

namespace State.ServesDict

variable (h : s.ServesDict src)
include h

theorem look (idx sub : Nat) : s.dictLook idx sub = dictFind idx sub := State.dictLook_eq h.recovery idx sub

theorem free (idx sub : Nat) : s.heldBy src idx sub = false := State.heldBy_free h.transfers h.usdo

theorem answer (code done size : Nat) (data : List Byte) :
    Answered src code done size data s (s.dictEnd src code done size data) :=
  dictEnd_answered (State.canTalk_of_served h.served) ..

theorem modWin (f : Nat) (g : DictWin → DictWin) : (s.modWin f g).ServesDict src :=
  ⟨(State.dictServed_congr rfl rfl rfl rfl).trans h.served, h.recovery, h.transfers, h.usdo⟩

theorem drawn : s.draw.2.ServesDict src :=
  ⟨(State.dictServed_congr rfl rfl rfl rfl).trans h.served, h.recovery, h.transfers, h.usdo⟩

theorem period (n : BitVec 20) : ({ s with census := { s.census with period := n } } : State).ServesDict src :=
  ⟨(State.dictServed_congr rfl rfl rfl rfl).trans h.served, h.recovery, h.transfers, h.usdo⟩

theorem noteWrite (idx sub : Nat) (v : List Byte) : (s.noteWrite idx sub v).ServesDict src :=
  ⟨(State.dictServed_congr rfl rfl rfl rfl).trans h.served, h.recovery, h.transfers, h.usdo⟩

theorem stored (l : Tab (Option (List Byte))) :
    ({ s with dict := { s.dict with stored := l } } : State).ServesDict src :=
  ⟨(State.dictServed_congr rfl rfl rfl rfl).trans h.served, h.recovery, h.transfers, h.usdo⟩

theorem storeAll : s.storeAll.ServesDict src := h.stored _

theorem clear (v : BitVec 8) : ({ s with start := { s.start with clear := v } } : State).ServesDict src :=
  ⟨(State.dictServed_congr rfl rfl rfl rfl).trans h.served, h.recovery, h.transfers, h.usdo⟩

theorem trimsNext (l : Tab (Option Int)) :
    ({ s with dict := { s.dict with trimsNext := l } } : State).ServesDict src :=
  ⟨(State.dictServed_congr rfl rfl rfl rfl).trans h.served, h.recovery, h.transfers, h.usdo⟩

theorem setSel (idx sub : Nat) (v : List Byte) : (s.setSel src idx sub v).ServesDict src :=
  ⟨(State.dictServed_congr rfl rfl rfl rfl).trans h.served, h.recovery, h.transfers, h.usdo⟩

theorem flashSet (b : Bool) (l : List Byte) (st : BitVec 16) : (s.flashSet b l st).ServesDict src := by
  cases b <;> exact ⟨(State.dictServed_congr rfl rfl rfl rfl).trans h.served, h.recovery, h.transfers, h.usdo⟩

/-- A write that its entry refuses. -/
theorem putRefused {idx sub n c : Nat} {v : List Byte} (hput : s.dictPut src idx sub v = (c, s)) (hc : c ≠ 0) :
    Answered src c 0 0 [] s (State.endPut (s.dictPut src idx sub v) src n) :=
  endPut_refused (fun hc => by rw [hput]; exact State.canTalk_of_served h.served hc) hput hc

/-- A write of the right length by a source with the right to write. -/
theorem put {idx sub n : Nat} {v : List Byte} (hf : ∃ r, dictFind idx sub = .row r ∧
    s.rightOf src r idx sub = 2 ∧ r.size = n ∧ n ≠ 0) (hv : v.length = n) :
    s.dictSet src idx sub 0 v = State.endPut (s.dictPut src idx sub v) src n := by
  obtain ⟨r, hf, hr, hz, hn⟩ := hf
  have := dictSet_put (v := v) h.served ((h.look ..).trans hf) (State.accessCode_write hr) (by omega) (by omega)
    (h.free ..)
  rw [this, hv]

end State.ServesDict

/-- A write that its entry takes, in answer and effect. -/
theorem State.ServesDict.putOk {idx sub n : Nat} {v : List Byte} {u : State} (hu : u.ServesDict src)
    (hput : s.dictPut src idx sub v = (0, u)) :
    Answered src 0 n n [] u (State.endPut (s.dictPut src idx sub v) src n) :=
  endPut_answered (fun hc => by rw [hput]; exact State.canTalk_of_served hu.served hc) hput

/-- The right of the CAN master and of the PF where both may write. -/
theorem State.rightOf_master {r : DictRow} (hsrc : ∀ f, src ≠ .vf f) (hr : r.rights / 10 = 22) (idx sub : Nat) :
    s.rightOf src r idx sub = 2 := by
  rw [State.rightOf_eq hsrc]
  cases src with
  | vf f => exact absurd rfl (hsrc f)
  | can => change r.rights / 100 = 2; omega
  | pf => change r.rights / 10 % 10 = 2; omega

/-! ### The command entries -/

theorem dictPut_storeAll (s : State) (src : DictSrc) (v : List Byte) : s.dictPut src 0x1010 1 v =
    if bytesToNat v = 0x65766173 then (0, (s.noteWrite 0x1010 1 v).storeAll) else (0x06090030, s) := rfl

theorem dictPut_restoreAll (s : State) (src : DictSrc) (v : List Byte) : s.dictPut src 0x1011 1 v =
    if bytesToNat v = 0x64616F6C then (0, { s.noteWrite 0x1011 1 v with
      dict := { (s.noteWrite 0x1011 1 v).dict with stored := [] } }) else (0x06090030, s) := rfl

theorem dictPut_clearStanding (s : State) (src : DictSrc) (v : List Byte) : s.dictPut src 0x2252 0 v =
    if bytesToNat v = 1 ∨ bytesToNat v = 2 then (0, { s.noteWrite 0x2252 0 v with
      start := { (s.noteWrite 0x2252 0 v).start with clear := BitVec.ofNat 8 (bytesToNat v) } })
    else (0x06090030, s) := rfl

theorem dictPut_programControl (s : State) (src : DictSrc) (sub : Nat) (v : List Byte) :
    s.dictPut src 0x1F51 sub v = s.programControl sub (bytesToNat v) := rfl

theorem dictPut_descSelect (s : State) (src : DictSrc) (v : List Byte) : s.dictPut src 0x2203 1 v =
    match s.dictLook (bytesToNat v / 256) (bytesToNat v % 256) with
    | .noIndex => (0x06020000, s)
    | .noSub => (0x06090011, s)
    | .row _ => (0, s.setSel src 0x2203 1 v) := rfl

theorem dictPut_trim {idx : Nat} (h0 : 0x2120 ≤ idx) (h1 : idx ≤ 0x2124) (s : State) (src : DictSrc) (sub : Nat)
    (v : List Byte) : s.dictPut src idx sub v = (0, { s with dict := { s.dict with
      trimsNext := Tab.set none s.dict.trimsNext (idx * 256 + sub) (some (storedTrim (idx * 256 + sub) v)) } }) := by
  unfold State.dictPut
  rw [if_neg (by omega), if_neg (by omega), if_neg (by omega), if_neg (by omega), if_neg (by omega), if_neg (by omega),
    if_pos (by omega)]

namespace State.ServesDict

variable (h : s.ServesDict src)
include h

/-- A virtual function may not write what only the CAN master and the PF may. -/
theorem denied {f : BitVec 6} (hsrc : src = .vf f) {idx sub off : Nat} {v : List Byte} (hi : idx < 0x4822)
    (hf : ∃ r, dictFind idx sub = .row r ∧ r.rights % 10 = 0) :
    s.dictSet src idx sub off v = s.dictAbort src 0x06010000 := by
  obtain ⟨r, hf, hr⟩ := hf
  have ha : s.rightOf src r idx sub = 0 := by
    rw [hsrc, State.rightOf_vf hi (by omega), hr]
  exact dictSet_denied h.served ((h.look ..).trans hf) (State.accessCode_none ha true) (by decide)

variable (hsrc : ∀ f, src ≠ .vf f)

theorem storeAll_denied {f : BitVec 6} (hsrc : src = .vf f) (v : BitVec 32) :
    execStoreAll src v s = .next (s.dictAbort src 0x06010000) := by
  obtain ⟨r, hf, hr, -⟩ := dictFind_storeAll
  exact congrArg Host.Outcome.next (h.denied hsrc (by decide) ⟨r, hf, by omega⟩)

include hsrc

theorem putMaster {idx sub n : Nat} {v : List Byte} (hf : ∃ r, dictFind idx sub = .row r ∧ r.rights / 10 = 22 ∧
    r.size = n ∧ n ≠ 0) (hv : v.length = n) :
    s.dictSet src idx sub 0 v = State.endPut (s.dictPut src idx sub v) src n := by
  obtain ⟨r, hf, hr, hz⟩ := hf
  exact h.put ⟨r, hf, State.rightOf_master hsrc hr .., hz⟩ hv

theorem storeAll_put (v : BitVec 32) : execStoreAll src v s =
    .next (State.endPut (s.dictPut src 0x1010 1 (natToBytes 4 v.toNat)) src 4) := by
  obtain ⟨r, hf, hr, hz⟩ := dictFind_storeAll
  exact congrArg Host.Outcome.next (h.putMaster hsrc ⟨r, hf, by omega, hz, by decide⟩ (length_natToBytes ..))

theorem restoreAll_put (v : BitVec 32) : execRestoreAll src v s =
    .next (State.endPut (s.dictPut src 0x1011 1 (natToBytes 4 v.toNat)) src 4) := by
  obtain ⟨r, hf, hr, hz⟩ := dictFind_restoreAll
  exact congrArg Host.Outcome.next (h.putMaster hsrc ⟨r, hf, by omega, hz, by decide⟩ (length_natToBytes ..))

theorem clearStanding_put (v : BitVec 8) : execClearStanding src v s =
    .next (State.endPut (s.dictPut src 0x2252 0 [v]) src 1) := by
  obtain ⟨r, hf, hr, hz⟩ := dictFind_clearStanding
  exact congrArg Host.Outcome.next (h.putMaster hsrc ⟨r, hf, by omega, hz, by decide⟩ rfl)

theorem trim_put {idx : BitVec 16} {sub : BitVec 8} (h0 : 0x2120 ≤ idx.toNat) (h1 : idx.toNat ≤ 0x2124)
    (h2 : 1 ≤ sub.toNat) (h3 : sub.toNat ≤ 3) (v : Word) : execCalibrationTrimWrite src idx sub v s =
      .next (State.endPut (s.dictPut src idx.toNat sub.toNat (natToBytes 2 v.toNat)) src 2) := by
  obtain ⟨r, hf, hr, hz⟩ := dictFind_trim h0 h1 h2 h3
  have hin : 0x2100 ≤ idx.toNat ∧ idx.toNat < 0x2200 := by omega
  exact congrArg Host.Outcome.next ((if_pos hin).trans
    (h.putMaster hsrc ⟨r, hf, by omega, hz, by decide⟩ (length_natToBytes ..)))

/-- A command of the program control, as the byte that it writes. -/
theorem program_put {sub : Nat} (hsub : sub = 1 ∨ sub = 2) (v : Byte) :
    s.dictSet src 0x1F51 sub 0 [v] = State.endPut (s.programControl sub v.toNat) src 1 := by
  obtain ⟨r, hf, hr, hz⟩ := dictFind_programControl hsub
  refine (h.putMaster hsrc ⟨r, hf, by omega, hz, by decide⟩ rfl).trans ?_
  rw [dictPut_programControl]
  rfl

end State.ServesDict

theorem bytesToNat_word (v : BitVec 32) : bytesToNat (natToBytes 4 v.toNat) = v.toNat :=
  (bytesToNat_natToBytes ..).trans (Nat.mod_eq_of_lt v.isLt)

theorem bytesToNat_single (v : Byte) : bytesToNat [v] = v.toNat := rfl

/-- A stored trim of the entries 0x2120 to 0x2124 is its 16 bits, signed. -/
theorem storedTrim_signed {idx sub : Nat} (h1 : idx ≤ 0x2124) (h3 : sub ≤ 3) (v : Word) :
    storedTrim (idx * 256 + sub) (natToBytes 2 v.toNat) = (v.setWidth 16).toInt := by
  have hk : ¬ (idx * 256 + sub) / 256 = 0x2125 := by omega
  rw [storedTrim, if_neg hk, bytesToNat_natToBytes]
  congr 1
  apply BitVec.eq_of_toNat_eq
  simp

/-! ### What STORE_ALL keeps -/

/-- With no trim ordered, STORE_ALL keeps the stored entries in force and, over them, the trims in force. -/
theorem storeAll_stored (u : State) (hn : u.dict.trimsNext = []) : u.storeAll.dict.stored =
    u.dict.trims.foldl (fun t (y : Nat × Int) =>
      Tab.set none t y.1 (some (natToBytes 2 (BitVec.ofInt 16 y.2).toNat)))
      (u.dict.vals.filter fun y => storedKey y.1) := by
  unfold State.storeAll
  rw [hn]
  rfl

theorem storeAll_stored_comm {v : List Byte} (s : State) (ht : s.dict.trims = []) (hn : s.dict.trimsNext = [])
    (hv : Tab.get none s.dict.vals (0x1017 * 256) = some v) (x : List Byte) :
    Tab.get none (s.noteWrite 0x1010 1 x).storeAll.dict.stored (0x1017 * 256) = some v := by
  have htrims : (s.noteWrite 0x1010 1 x).dict.trims = [] := ht
  have hvals : (s.noteWrite 0x1010 1 x).dict.vals = Tab.set none s.dict.vals (0x1010 * 256 + 1) (some x) := rfl
  rw [storeAll_stored (s.noteWrite 0x1010 1 x) hn, htrims, List.foldl_nil, hvals, get_filter_key (by decide),
    Tab.get_set_other _ _ _ _ _ (by decide), hv]

theorem storeAll_stored_trim {k : Nat} (s : State) (hn : s.dict.trimsNext = []) (hwf : Tab.wf 0 s.dict.trims = true)
    (hx : Tab.get 0 s.dict.trims k ≠ 0) (x : List Byte) :
    Tab.get none (s.noteWrite 0x1010 1 x).storeAll.dict.stored k =
      some (natToBytes 2 (BitVec.ofInt 16 (Tab.get 0 s.dict.trims k)).toNat) := by
  rw [storeAll_stored (s.noteWrite 0x1010 1 x) hn]
  exact get_foldl_entries (fun v : Int => some (natToBytes 2 (BitVec.ofInt 16 v).toNat)) s.dict.trims 0 k _ hwf hx

/-! ### Clearing and ending a program -/

theorem State.noTransfers (h : s.dict.transfers = []) :
    ({ s with dict := { s.dict with transfers := [] } } : State) = s := by
  rw [← h]

theorem programControl_clear {sub : Nat} (s : State) : s.programControl sub 3 =
    if (decide (sub = 2) = s.sec.runImage ∧ !(s.image (!decide (sub = 2))).valid) ∨
        (s.image (decide (sub = 2))).open_ then (0x08000022, s)
    else (0, (s.noteWrite 0x1F51 sub [3]).flashSet (decide (sub = 2)) [] 1) := rfl

theorem programControl_end {sub : Nat} (ht : s.dict.transfers = []) : s.programControl sub 1 =
    (0, (s.noteWrite 0x1F51 sub [1]).flashSet (decide (sub = 2)) (s.image (decide (sub = 2))).bytes
      (if s.imageCheck (s.image (decide (sub = 2))) = 0 then 0
        else BitVec.ofNat 16 (3 + s.imageCheck (s.image (decide (sub = 2))) * 256))) := by
  have hn : ({ s.noteWrite 0x1F51 sub [1] with dict := { (s.noteWrite 0x1F51 sub [1]).dict with
      transfers := [] } } : State) = s.noteWrite 0x1F51 sub [1] := State.noTransfers ht
  have he : s.programControl sub 1 = (0, ({ s.noteWrite 0x1F51 sub [1] with
      dict := { (s.noteWrite 0x1F51 sub [1]).dict with transfers := s.dict.transfers.filter fun t =>
        !(decide (t.index = 0x1F50 ∧ t.sub.toNat = sub) && t.write) } } : State).flashSet (decide (sub = 2))
      (s.image (decide (sub = 2))).bytes (if s.imageCheck (s.image (decide (sub = 2))) = 0 then 0
        else BitVec.ofNat 16 (3 + s.imageCheck (s.image (decide (sub = 2))) * 256))) := rfl
  rw [he, ht, List.filter_nil, hn]

/-- An image put into flash, with the mark of what it holds. -/
def State.putImage (u : State) (b : Bool) (f : Flash) : State :=
  { u.setImage b f with sec := if b then { (u.setImage b f).sec with bOk := decide (f.status = 0) }
      else { (u.setImage b f).sec with aOk := decide (f.status = 0) } }

theorem flashSet_eq (u : State) (b : Bool) (l : List Byte) (st : BitVec 16) :
    u.flashSet b l st = u.putImage b { bytes := l, status := st } := by
  cases b <;> rfl

/-! ### A transfer that stops -/

/-- What the end of stopped transfers does: it erases the images that they were writing. -/
structure Stopped (l : List Transfer) (s t : State) : Prop where
  dict : t.dict = s.dict
  carrels : t.carrels = s.carrels
  mem : t.mem = s.mem
  image : ∀ b : Bool, t.image b = s.image b ∨
    (t.image b = { bytes := [], status := 1 } ∧ ∃ x ∈ l, x.write = true ∧ x.index = 0x1F50)

theorem flashSet_stopped {l : List Transfer} {x : Transfer} (hx : x ∈ l) (hw : x.write = true ∧ x.index = 0x1F50)
    (s : State) (b : Bool) : Stopped l s (s.flashSet b [] 1) := by
  cases b
  · exact ⟨rfl, rfl, rfl, Bool.rec (.inr ⟨rfl, x, hx, hw⟩) (.inl rfl)⟩
  · exact ⟨rfl, rfl, rfl, Bool.rec (.inl rfl) (.inr ⟨rfl, x, hx, hw⟩)⟩

theorem Stopped.trans {l : List Transfer} {s t u : State} (h : Stopped l s t) (g : Stopped l t u) : Stopped l s u where
  dict := g.dict.trans h.dict
  carrels := g.carrels.trans h.carrels
  mem := g.mem.trans h.mem
  image b := (g.image b).elim (fun he => he ▸ h.image b) .inr

theorem foldl_stopped {l : List Transfer} : ∀ (m : List Transfer) (s : State), (∀ x ∈ m, x ∈ l) →
    Stopped l s (m.foldl (fun s t =>
      if t.write ∧ t.index = 0x1F50 then s.flashSet (decide (t.sub = 2)) [] 1 else s) s)
  | [], s, _ => ⟨rfl, rfl, rfl, fun _ => .inl rfl⟩
  | x :: m, s, hm => by
    have hrest (s : State) := foldl_stopped m s fun y hy => hm y (List.mem_cons_of_mem _ hy)
    rw [List.foldl_cons]
    split
    · next hw => exact (flashSet_stopped (hm x List.mem_cons_self) hw s _).trans (hrest _)
    · exact hrest s

/-- The images that the stopped transfers of a source were writing, erased. -/
def State.eraseStopped (s : State) (src : DictSrc) : State :=
  (s.dict.transfers.filter fun t => decide (t.src = src)).foldl (fun s t =>
    if t.write ∧ t.index = 0x1F50 then s.flashSet (decide (t.sub = 2)) [] 1 else s) s

theorem dictTransferTimeout_eq (src : DictSrc) (s : State) : execDictTransferTimeout src s =
    .next { s.eraseStopped src with dict := { (s.eraseStopped src).dict with
      transfers := (s.eraseStopped src).dict.transfers.filter fun t => !decide (t.src = src) } } := rfl

theorem dictTransferTimeout_spec (src : DictSrc) (s : State) :
    ∃ t, execDictTransferTimeout src s = .next t ∧
      t.dict.transfers = s.dict.transfers.filter (fun x => !decide (x.src = src)) ∧
      (∀ b : Bool, t.image b = s.image b ∨ (t.image b = { bytes := [], status := 1 } ∧
        ∃ x ∈ s.dict.transfers, x.src = src ∧ x.write = true ∧ x.index = 0x1F50)) ∧
      t.carrels = s.carrels ∧ t.mem = s.mem := by
  have h : Stopped (s.dict.transfers.filter fun t => decide (t.src = src)) s (s.eraseStopped src) :=
    foldl_stopped _ s fun _ => id
  rw [dictTransferTimeout_eq]
  generalize s.eraseStopped src = u at h
  refine ⟨_, rfl, ?_, fun b => (h.image b).imp id fun ⟨he, x, hx, hw⟩ => ⟨he, x, ?_⟩, h.carrels, h.mem⟩
  · rw [h.dict]
  · obtain ⟨hm, hs⟩ := List.mem_filter.mp hx
    exact ⟨hm, of_decide_eq_true hs, hw⟩

/-! ### Clauses of the command entries -/

namespace State.ServesDict

variable (h : s.ServesDict src)
include h

theorem descSelect_put (v : BitVec 32) : execDescSelect src v s =
    .next (State.endPut (s.dictPut src 0x2203 1 (natToBytes 4 v.toNat)) src 4) := by
  obtain ⟨r, hf, hr, hz⟩ := dictFind_descSelect
  have ha : s.rightOf src r 0x2203 1 = 2 := by
    cases src with
    | can => change r.rights / 100 = 2; omega
    | pf => change r.rights / 10 % 10 = 2; omega
    | vf f => exact (State.rightOf_vf (by decide) (by omega)).trans (by omega)
  exact congrArg Host.Outcome.next (h.put ⟨r, hf, ha, hz, by decide⟩ (length_natToBytes ..))

theorem descSelect_spec (v : BitVec 32) :
    ((∃ r, dictFind (v.toNat / 256) (v.toNat % 256) = .row r) → ∃ t, execDescSelect src v s = .next t ∧
      Answered src 0 4 4 [] (s.setSel src 0x2203 1 (natToBytes 4 v.toNat)) t) ∧
    (dictFind (v.toNat / 256) (v.toNat % 256) = .noIndex → ∃ t, execDescSelect src v s = .next t ∧
      Answered src 0x06020000 0 0 [] s t) ∧
    (dictFind (v.toNat / 256) (v.toNat % 256) = .noSub → ∃ t, execDescSelect src v s = .next t ∧
      Answered src 0x06090011 0 0 [] s t) := by
  have hput := dictPut_descSelect s src (natToBytes 4 v.toNat)
  rw [bytesToNat_word, h.look] at hput
  refine ⟨fun ⟨r, hr⟩ => ⟨_, h.descSelect_put v, putOk (h.setSel ..) ?_⟩,
    fun hr => ⟨_, h.descSelect_put v, h.putRefused ?_ (by decide)⟩,
    fun hr => ⟨_, h.descSelect_put v, h.putRefused ?_ (by decide)⟩⟩ <;> rw [hput, hr]

variable (hsrc : ∀ f, src ≠ .vf f)
include hsrc

theorem storeAll_spec : ∃ t, execStoreAll src 0x65766173 s = .next t ∧
    Answered src 0 4 4 [] (s.noteWrite 0x1010 1 (natToBytes 4 0x65766173)).storeAll t :=
  ⟨_, h.storeAll_put hsrc _, putOk (h.noteWrite ..).storeAll ((dictPut_storeAll ..).trans (if_pos (bytesToNat_word _)))⟩

theorem storeAll_refused {v : BitVec 32} (hv : v ≠ 0x65766173) : ∃ t, execStoreAll src v s = .next t ∧
    Answered src 0x06090030 0 0 [] s t := by
  have hn : bytesToNat (natToBytes 4 v.toNat) ≠ 0x65766173 := by
    rw [bytesToNat_word]
    exact fun he => hv (BitVec.eq_of_toNat_eq he)
  exact ⟨_, h.storeAll_put hsrc v, h.putRefused ((dictPut_storeAll ..).trans (if_neg hn)) (by decide)⟩

theorem restoreAll_spec : ∃ t, execRestoreAll src 0x64616F6C s = .next t ∧
    Answered src 0 4 4 [] { s.noteWrite 0x1011 1 (natToBytes 4 0x64616F6C) with
      dict := { (s.noteWrite 0x1011 1 (natToBytes 4 0x64616F6C)).dict with stored := [] } } t :=
  ⟨_, h.restoreAll_put hsrc _,
    putOk ((h.noteWrite ..).stored []) ((dictPut_restoreAll ..).trans (if_pos (bytesToNat_word _)))⟩

theorem restoreAll_refused {v : BitVec 32} (hv : v ≠ 0x64616F6C) : ∃ t, execRestoreAll src v s = .next t ∧
    Answered src 0x06090030 0 0 [] s t := by
  have hn : bytesToNat (natToBytes 4 v.toNat) ≠ 0x64616F6C := by
    rw [bytesToNat_word]
    exact fun he => hv (BitVec.eq_of_toNat_eq he)
  exact ⟨_, h.restoreAll_put hsrc v, h.putRefused ((dictPut_restoreAll ..).trans (if_neg hn)) (by decide)⟩

theorem clearStanding_spec (v : BitVec 8) :
    ((v = 1 ∨ v = 2) → ∃ t, execClearStanding src v s = .next t ∧ Answered src 0 1 1 []
      { s.noteWrite 0x2252 0 [v] with start := { (s.noteWrite 0x2252 0 [v]).start with clear := v } } t) ∧
    (v ≠ 1 → v ≠ 2 → ∃ t, execClearStanding src v s = .next t ∧ Answered src 0x06090030 0 0 [] s t) := by
  have hput := dictPut_clearStanding s src [v]
  rw [bytesToNat_single, BitVec.ofNat_toNat, BitVec.setWidth_eq] at hput
  refine ⟨fun hv => ⟨_, h.clearStanding_put hsrc v, putOk ((h.noteWrite ..).clear v) (hput.trans (if_pos ?_))⟩,
    fun h1 h2 => ⟨_, h.clearStanding_put hsrc v, h.putRefused (hput.trans (if_neg ?_)) (by decide)⟩⟩
  · exact hv.imp (congrArg BitVec.toNat) (congrArg BitVec.toNat)
  · exact fun hor => hor.elim (fun he => h1 (BitVec.eq_of_toNat_eq he)) (fun he => h2 (BitVec.eq_of_toNat_eq he))

theorem trim_spec {idx : BitVec 16} {sub : BitVec 8} (h0 : 0x2120 ≤ idx.toNat) (h1 : idx.toNat ≤ 0x2124)
    (h2 : 1 ≤ sub.toNat) (h3 : sub.toNat ≤ 3) (v : Word) :
    ∃ t, execCalibrationTrimWrite src idx sub v s = .next t ∧ Answered src 0 2 2 []
      { s with dict := { s.dict with
        trimsNext := Tab.set none s.dict.trimsNext (idx.toNat * 256 + sub.toNat) (some (v.setWidth 16).toInt) } } t
            := by
  refine ⟨_, h.trim_put hsrc h0 h1 h2 h3 v, putOk (h.trimsNext _) ?_⟩
  rw [dictPut_trim h0 h1, storedTrim_signed h1 h3]

omit hsrc in
theorem trim_noIndex {idx : BitVec 16} {sub : BitVec 8} {v : Word} (hi : idx.toNat < 0x2100 ∨ 0x2200 ≤ idx.toNat) :
    ∃ t, execCalibrationTrimWrite src idx sub v s = .next t ∧ Answered src 0x06020000 0 0 [] s t :=
  ⟨_, congrArg Host.Outcome.next ((if_neg (by omega)).trans (if_pos h.served)), h.answer ..⟩

theorem program_spec (b : Bool) {sub : Nat} (hsub : sub = if b then 2 else 1) :
    ((s.image b).status ≠ 2 → (b ≠ s.sec.runImage ∨ (s.image (!b)).status = 0) →
      Answered src 0 1 1 [] ((s.noteWrite 0x1F51 sub [3]).putImage b { bytes := [], status := 1 })
        (s.dictSet src 0x1F51 sub 0 [3])) ∧
    (((s.image b).status = 2 ∨ (b = s.sec.runImage ∧ (s.image (!b)).status ≠ 0)) →
      Answered src 0x08000022 0 0 [] s (s.dictSet src 0x1F51 sub 0 [3])) ∧
    Answered src 0 1 1 [] ((s.noteWrite 0x1F51 sub [1]).putImage b { s.image b with
      status := if s.imageCheck (s.image b) = 0 then 0 else BitVec.ofNat 16 (3 + s.imageCheck (s.image b) * 256) })
      (s.dictSet src 0x1F51 sub 0 [1]) := by
  have hd : decide (sub = 2) = b := by
    cases b <;> rw [hsub] <;> rfl
  have hor : sub = 1 ∨ sub = 2 := by
    cases b
    · exact .inl hsub
    · exact .inr hsub
  have hclear := programControl_clear (sub := sub) s
  have hend := programControl_end (s := s) (sub := sub) h.transfers
  rw [hd] at hclear hend
  have h3 : (3 : Byte).toNat = 3 := rfl
  have h1 : (1 : Byte).toNat = 1 := rfl
  rw [h.program_put hsrc hor, h.program_put hsrc hor, h3, h1, hclear, hend]
  rw [← flashSet_eq, ← flashSet_eq]
  refine ⟨fun hopen hrun => ?_, fun hbad => ?_, ((h.noteWrite ..).flashSet ..).answer 0 1 1 []⟩
  · rw [if_neg]
    · exact ((h.noteWrite ..).flashSet ..).answer 0 1 1 []
    · simp only [Flash.open_, Flash.valid, decide_eq_true_eq, Bool.not_eq_true', decide_eq_false_iff_not]
      grind
  · rw [if_pos]
    · exact h.answer 0x08000022 0 0 []
    · simp only [Flash.open_, Flash.valid, decide_eq_true_eq, Bool.not_eq_true', decide_eq_false_iff_not]
      grind

end State.ServesDict

/-! ### The peek -/

section
variable {a n : Nat}

theorem bytesToNat_peekAddress (ha : a < 0x0C000000000) : bytesToNat (natToBytes 8 a) = a :=
  (bytesToNat_natToBytes ..).trans (Nat.mod_eq_of_lt (by omega))

theorem bytesToNat_peekLength (hn : n ≤ 256) : bytesToNat (natToBytes 2 n) = n :=
  (bytesToNat_natToBytes ..).trans (Nat.mod_eq_of_lt (by omega))

/-- An address of HBM selects memory, not a readback. -/
theorem word_peekAddress (ha : a < 0x0C000000000) : (word a).getLsbD 63 = false ∧ fieldN (word a) 0 44 = a := by
  have hw : (word a).toNat = a := by
    rw [word, BitVec.toNat_ofNat]
    omega
  refine ⟨?_, ?_⟩
  · rw [BitVec.getLsbD, hw]
    exact Nat.testBit_lt_two_pow (by omega)
  · rw [fieldN, BitVec.extractLsb'_toNat, hw, Nat.shiftRight_zero]
    omega

/-- No byte of a present range that begins in HBM is a register. -/
theorem regionOf_hbm_next (ha : a < 0x0C000000000) {j : Nat} (hj : j < 256) : ∀ k o, regionOf (a + j) ≠ .regs k o := by
  intro k o hr
  unfold regionOf at hr
  rw [if_neg (show ¬ (0x80000000000 ≤ a + j ∧ a + j < 0x80040000000) by omega),
    if_neg (show ¬ (0x84000000000 ≤ a + j ∧ a + j < 0x84010000000) by omega),
    if_neg (show ¬ (0x88000000000 ≤ a + j ∧ a + j < 0x88002000000) by omega),
    if_neg (show ¬ (0xF0000000000 ≤ a + j ∧ a + j < 0xF0000400000) by omega)] at hr
  split at hr <;> cases hr

theorem State.peekBytes_hbm {u : State} (hsel : u.selVal src 0x2240 1 (natToBytes 8 0) = natToBytes 8 a)
    (hlen : u.selVal src 0x2240 2 (natToBytes 2 1) = natToBytes 2 n) (ha : a < 0x0C000000000) (hn : n ≤ 256)
    (hp : u.present a n = true) (hl : u.lost = []) (w : Word) : u.peekBytes src w = some (u.bytes a n) := by
  obtain ⟨h63, hf⟩ := word_peekAddress ha
  unfold State.peekBytes
  rw [hsel, hlen, bytesToNat_peekAddress ha, bytesToNat_peekLength hn]
  dsimp only
  rw [h63, hf, if_neg (by decide), if_pos hp]
  refine congrArg some (List.map_congr_left fun j hj => ?_)
  rw [lostIn_nil hl, if_neg (by decide)]
  unfold State.anyByte
  split
  · next hr => exact absurd hr (regionOf_hbm_next ha (Nat.lt_of_lt_of_le (List.mem_range.mp hj) hn) _ _)
  · rfl

theorem peekAsk_tokensOnly (s : State) (src : DictSrc) : TokensOnly s (s.peekAsk src).2 := by
  unfold State.peekAsk
  dsimp only
  split
  · exact TokensOnly.refl s
  · exact askHbm_tokensOnly ..

theorem State.dictValue_peek (s : State) (src : DictSrc) (r : DictRow) (w : Word) :
    s.dictValue src r 0x2240 3 w = s.peekBytes src w := rfl

theorem State.ServesDict.of_tokens {t : State} (h : s.ServesDict src) (ht : TokensOnly s t) : t.ServesDict src := by
  have hd : t.dict = s.dict := by rw [ht.rest]
  have hk : t.keepers = s.keepers := by rw [ht.rest]
  have hs : t.sec = s.sec := by rw [ht.rest]
  refine ⟨(State.dictServed_congr hk ?_ ?_ ?_).trans h.served, ?_, ?_, ?_⟩
  · rw [hd]
  · rw [hd]
  · rw [hd]
  · rw [hs, h.recovery]
  · rw [hd, h.transfers]
  · rw [hd, h.usdo]

theorem State.draw_snd (s : State) : s.draw.2 = { s with fresh := s.fresh + 1 } := rfl

theorem State.ServesDict.peek_spec (h : s.ServesDict src) (hsrc : ∀ f, src ≠ .vf f) (h1 : 1 ≤ n) (hn : n ≤ 256)
    (hsel : s.selVal src 0x2240 1 (natToBytes 8 0) = natToBytes 8 a)
    (hlen : s.selVal src 0x2240 2 (natToBytes 2 1) = natToBytes 2 n) (ha : a < 0x0C000000000)
    (hp : s.present a n = true) (hl : s.lost = []) :
    ((s.peekAsk src).1 = false → execPeekData src 0 n s = .next (s.peekAsk src).2) ∧
    ((s.peekAsk src).1 = true → ∃ t, execPeekData src 0 n s = .next t ∧
      Answered src 0 n n (s.bytes a n) { (s.peekAsk src).2 with fresh := s.fresh + 1 } t) := by
  obtain ⟨r, hf, hr, hz⟩ := dictFind_peek
  have hrow := (h.look 0x2240 3).trans hf
  have hright : s.rightOf src r 0x2240 3 ≠ 0 := by
    rw [State.rightOf_eq hsrc]
    cases src with
    | vf f => exact absurd rfl (hsrc f)
    | can => change r.rights / 100 ≠ 0; omega
    | pf => change r.rights / 10 % 10 ≠ 0; omega
  have hacc := State.accessCode_read hright
  have hl0 : n ≠ 0 ∧ (n ≤ 4096 ∨ src = .can) := ⟨by omega, .inl (by omega)⟩
  have htok := peekAsk_tokensOnly s src
  have hask : s.readAsk src 0x2240 3 = s.peekAsk src := if_pos ⟨rfl, rfl⟩
  generalize s.peekAsk src = q at htok hask
  obtain ⟨ok, u⟩ := q
  replace htok : TokensOnly s u := htok
  have hu := h.of_tokens htok
  have hfresh : u.fresh = s.fresh := by rw [htok.rest]
  have hbytes : u.draw.2.bytes a n = s.bytes a n := htok.bytes_eq a n
  have hdict : u.dict = s.dict := by rw [htok.rest]
  have hselU (i : Nat) (d : List Byte) : u.draw.2.selVal src 0x2240 i d = s.selVal src 0x2240 i d :=
    congrArg (fun x : DictUnit => (Tab.get none x.sel (selKey src 0x2240 i)).getD d) hdict
  have hval : u.draw.2.dictValue src r 0x2240 3 u.draw.1 = some (s.bytes a n) := by
    rw [State.dictValue_peek, State.peekBytes_hbm ((hselU ..).trans hsel) ((hselU ..).trans hlen) ha hn
      ((htok.present a n).trans hp) (htok.lost.trans hl), hbytes]
  have hlenb : (s.bytes a n).length = n := by rw [State.bytes, List.length_map]; exact List.length_range
  refine ⟨fun hq => ?_, fun hq => ?_⟩
  · refine congrArg Host.Outcome.next ((dictGet_waits h.served hrow hacc hl0 ?_).trans ?_)
    · rw [hask]
      exact hq
    · rw [hask]
  · have hq' : ok = true := hq
    subst hq'
    have := dictGet_value h.served hrow hacc hl0 hask hval (by omega) (by omega) (.inr (hu.drawn.free ..))
    refine ⟨_, congrArg Host.Outcome.next this, ?_⟩
    rw [hlenb]
    have hans := hu.drawn.answer 0 n n (s.bytes a n)
    rwa [State.draw_snd, hfresh] at hans ⊢

end

/-! ### The dictionary window -/

/-- The request that a function's window posts. -/
def State.posted (s : State) (f : BitVec 6) : State := s.modWin f.toNat fun w => { w with go := true }

section
variable {f : BitVec 6} (h : s.ServesDict (windowSrc f))

theorem dictRead_eq (hw : (s.win f.toNat).write = false) : execDictRead f s = .next ((s.posted f).dictGet (windowSrc f)
    (s.win f.toNat).index.toNat (s.win f.toNat).sub.toNat (s.win f.toNat).offset.toNat
    (s.win f.toNat).length.toNat) :=
  congrArg Host.Outcome.next (if_neg (by rw [hw]; decide))

theorem dictRead_writing (hw : (s.win f.toNat).write = true) : execDictRead f s = .next s :=
  congrArg Host.Outcome.next (if_pos hw)

theorem dictWrite_reading (hw : (s.win f.toNat).write = false) : execDictWrite f s = .next s :=
  congrArg Host.Outcome.next (if_neg (by rw [hw]; decide))

theorem dictWrite_eq (hw : (s.win f.toNat).write = true) {n : Nat} (hn : (s.win f.toNat).length.toNat = n)
    (h0 : 1 ≤ n) (h1 : n ≤ 4096) : execDictWrite f s =
      .next ((s.posted f).dictSet (windowSrc f) (s.win f.toNat).index.toNat (s.win f.toNat).sub.toNat
        (s.win f.toNat).offset.toNat ((upto n).map fun i => Tab.get 0 (s.win f.toNat).buf i)) := by
  have hlen : ¬ ((s.win f.toNat).length.toNat = 0 ∨ 4096 < (s.win f.toNat).length.toNat) := by omega
  refine congrArg Host.Outcome.next ((if_pos hw).trans ((if_neg hlen).trans ?_))
  rw [hn]
  rfl

theorem rightOf_window {s : State} {idx sub : Nat} {r : DictRow} (hi : idx < 0x4822) (hr : r.rights % 10 < 3) :
    s.rightOf (windowSrc f) r idx sub = if f = 0 then r.rights / 10 % 10 else r.rights % 10 := by
  unfold windowSrc
  split
  · rfl
  · exact State.rightOf_vf hi hr

include h

theorem State.ServesDict.posted : (s.posted f).ServesDict (windowSrc f) := h.modWin ..

theorem dictRead_tickNo (hw : (s.win f.toNat).write = false) (hi : (s.win f.toNat).index = 0x3000)
    (hs : (s.win f.toNat).sub = 2) (ho : (s.win f.toNat).offset = 0) (h0 : 8 ≤ (s.win f.toNat).length.toNat)
    (h1 : (s.win f.toNat).length.toNat ≤ 4096) : ∃ t, execDictRead f s = .next t ∧
      Answered (windowSrc f) 0 8 8 (natToBytes 8 s.tick.no.toNat) (s.posted f).draw.2 t := by
  obtain ⟨r, hf, hr, hz⟩ := dictFind_tickNo
  have hp := h.posted
  have ha : (s.posted f).rightOf (windowSrc f) r 0x3000 2 ≠ 0 := by
    rw [rightOf_window (by decide) (by omega)]
    split <;> omega
  refine ⟨_, (dictRead_eq hw).trans ?_, hp.drawn.answer ..⟩
  rw [hi, hs, ho]
  exact congrArg Host.Outcome.next (dictGet_value hp.served ((hp.look ..).trans hf) (State.accessCode_read ha)
    ⟨by omega, .inl h1⟩ (State.readAsk_other (by decide)) (State.tickNo_value ..) (by simpa using h0) (by simp)
    (.inl (by omega)))

theorem dictRead_noIndex (hw : (s.win f.toNat).write = false)
    (hd : dictFind (s.win f.toNat).index.toNat (s.win f.toNat).sub.toNat = .noIndex) :
    ∃ t, execDictRead f s = .next t ∧ Answered (windowSrc f) 0x06020000 0 0 [] (s.posted f) t :=
  ⟨_, (dictRead_eq hw).trans (congrArg Host.Outcome.next (dictGet_noIndex h.posted.served
    ((h.posted.look ..).trans hd))), h.posted.answer ..⟩

theorem dictRead_noSub (hw : (s.win f.toNat).write = false)
    (hd : dictFind (s.win f.toNat).index.toNat (s.win f.toNat).sub.toNat = .noSub) :
    ∃ t, execDictRead f s = .next t ∧ Answered (windowSrc f) 0x06090011 0 0 [] (s.posted f) t :=
  ⟨_, (dictRead_eq hw).trans (congrArg Host.Outcome.next (dictGet_noSub h.posted.served
    ((h.posted.look ..).trans hd))), h.posted.answer ..⟩

omit h in
/-- Four bytes of the buffer that hold a number, as a list. -/
theorem bufferWord {b : Tab Byte} {n : BitVec 32}
    (hb : ∀ j, j < 4 → Tab.get 0 b j = BitVec.ofNat 8 (n.toNat / 256 ^ j)) :
    (upto 4).map (fun i => Tab.get 0 b i) = natToBytes 4 n.toNat := by
  have hl : (upto 4).map (fun i => Tab.get 0 b i) = [Tab.get 0 b 0, Tab.get 0 b 1, Tab.get 0 b 2, Tab.get 0 b 3] := rfl
  rw [hl, hb 0 (by decide), hb 1 (by decide), hb 2 (by decide), hb 3 (by decide)]
  simp [natToBytes, Nat.div_div_eq_div_mul]

theorem dictWrite_period (hf0 : f = 0) (hw : (s.win f.toNat).write = true) {n : BitVec 32}
    (hb : ∀ j, j < 4 → Tab.get 0 (s.win f.toNat).buf j = BitVec.ofNat 8 (n.toNat / 256 ^ j))
    (ho : (s.win f.toNat).offset = 0) (hi : (s.win f.toNat).index = 0x4400) (hs : (s.win f.toNat).sub = 1)
    (hlen : (s.win f.toNat).length = 4) :
    (n.toNat < 2 ^ 20 → ∃ t, execDictWrite f s = .next t ∧ Answered (windowSrc f) 0 4 4 []
      { s.posted f with census := { (s.posted f).census with period := n.setWidth 20 } } t) ∧
    (2 ^ 20 ≤ n.toNat → ∃ t, execDictWrite f s = .next t ∧
      Answered (windowSrc f) 0x06090030 0 0 [] (s.posted f) t) := by
  obtain ⟨r, hfind, hr, hz⟩ := dictFind_censusPeriod
  have hp := h.posted
  have ha : (s.posted f).rightOf (windowSrc f) r 0x4400 1 = 2 := by
    rw [rightOf_window (by decide) (by omega), if_pos hf0]
    omega
  have hset : execDictWrite f s = .next (State.endPut
      ((s.posted f).dictPut (windowSrc f) 0x4400 1 (natToBytes 4 n.toNat)) (windowSrc f) 4) := by
    rw [dictWrite_eq hw (n := 4) (by rw [hlen]; rfl) (by decide) (by decide), bufferWord hb, hi, hs, ho]
    exact congrArg Host.Outcome.next (hp.put ⟨r, hfind, ha, hz, by decide⟩ (length_natToBytes ..))
  have hput := dictPut_censusPeriod (s.posted f) (windowSrc f) (natToBytes 4 n.toNat)
  rw [bytesToNat_word, BitVec.ofNat_toNat] at hput
  exact ⟨fun hlt => ⟨_, hset, State.ServesDict.putOk (hp.period _) (hput.trans (if_pos hlt))⟩,
    fun hge => ⟨_, hset, hp.putRefused (hput.trans (if_neg (by omega))) (by decide)⟩⟩

/-- A write of a window that ends with a code, whatever its bytes are. -/
theorem dictWrite_aborts {n c : Nat} (hw : (s.win f.toNat).write = true) (hn : (s.win f.toNat).length.toNat = n)
    (h0 : 1 ≤ n) (h1 : n ≤ 4096) (hset : ∀ v : List Byte, v.length = n → (s.posted f).dictSet (windowSrc f)
      (s.win f.toNat).index.toNat (s.win f.toNat).sub.toNat (s.win f.toNat).offset.toNat v =
        (s.posted f).dictAbort (windowSrc f) c) :
    ∃ t, execDictWrite f s = .next t ∧ Answered (windowSrc f) c 0 0 [] (s.posted f) t := by
  have hv : ((upto n).map fun i => Tab.get 0 (s.win f.toNat).buf i).length = n := by
    rw [List.length_map]
    exact List.length_range
  exact ⟨_, (dictWrite_eq hw hn h0 h1).trans (congrArg Host.Outcome.next (hset _ hv)), h.posted.answer ..⟩

theorem dictWrite_length (hf0 : f = 0) (hw : (s.win f.toNat).write = true) (hi : (s.win f.toNat).index = 0x4400)
    (hs : (s.win f.toNat).sub = 1) (hlen : (s.win f.toNat).length = 2) :
    ∃ t, execDictWrite f s = .next t ∧ Answered (windowSrc f) 0x06070010 0 0 [] (s.posted f) t := by
  obtain ⟨r, hfind, hr, hz⟩ := dictFind_censusPeriod
  have ha : (s.posted f).rightOf (windowSrc f) r 0x4400 1 = 2 := by
    rw [rightOf_window (by decide) (by omega), if_pos hf0]
    omega
  refine dictWrite_aborts h hw (n := 2) (by rw [hlen]; rfl) (by decide) (by decide) fun v hv => ?_
  rw [hi, hs]
  exact dictSet_length h.posted.served ((h.posted.look ..).trans hfind) (State.accessCode_write ha) (by omega) (by
      omega)

theorem dictWrite_denied (hf0 : f ≠ 0) (hw : (s.win f.toNat).write = true) (hi : (s.win f.toNat).index = 0x4400)
    (hs : (s.win f.toNat).sub = 1) (hlen : (s.win f.toNat).length = 4) :
    ∃ t, execDictWrite f s = .next t ∧ Answered (windowSrc f) 0x06010000 0 0 [] (s.posted f) t := by
  obtain ⟨r, hfind, hr, hz⟩ := dictFind_censusPeriod
  have ha : (s.posted f).rightOf (windowSrc f) r 0x4400 1 = 1 := by
    rw [rightOf_window (by decide) (by omega), if_neg hf0]
    omega
  have hwr : r.writable = true := decide_eq_true (.inl (by omega))
  refine dictWrite_aborts h hw (n := 4) (by rw [hlen]; rfl) (by decide) (by decide) fun v _ => ?_
  rw [hi, hs]
  exact dictSet_denied h.posted.served ((h.posted.look ..).trans hfind) (State.accessCode_reader ha hwr) (by decide)

theorem dictWrite_readOnly (hw : (s.win f.toNat).write = true) (hi : (s.win f.toNat).index = 0x3000)
    (hs : (s.win f.toNat).sub = 2) (hlen : (s.win f.toNat).length = 4) :
    ∃ t, execDictWrite f s = .next t ∧ Answered (windowSrc f) 0x06010002 0 0 [] (s.posted f) t := by
  obtain ⟨r, hfind, hr, hz⟩ := dictFind_tickNo
  have ha : (s.posted f).rightOf (windowSrc f) r 0x3000 2 = 1 := by
    rw [rightOf_window (by decide) (by omega)]
    split <;> omega
  have hwr : r.writable = false := decide_eq_false (by omega)
  refine dictWrite_aborts h hw (n := 4) (by rw [hlen]; rfl) (by decide) (by decide) fun v _ => ?_
  rw [hi, hs]
  exact dictSet_denied h.posted.served ((h.posted.look ..).trans hfind) (State.accessCode_readOnly ha hwr) (by decide)

end

end Sys2Proof.Machine

namespace Sys2Proof
open Machine

/-- Settles O52: each command entry by the write of the dictionary that it is, the window by the read or write that it
posts. -/
theorem dictionary : Obligations.Dictionary := by
  unfold Obligations.Dictionary
  refine ⟨fun src s hs hr ht hu => ?_, fun f s => ⟨fun hs hr ht hu => ?_, fun src => dictTransferTimeout_spec src s⟩⟩
  · have h : s.ServesDict src := ⟨hs, hr, ht, hu⟩
    refine ⟨fun f hf v => ⟨_, h.storeAll_denied hf v, h.answer ..⟩, fun hsrc => ⟨⟨_, h.storeAll_spec hsrc, rfl,
      fun v hv htr hn _ => storeAll_stored_comm s htr hn hv _, fun k x _ _ hk hx hwf hn => ?_⟩,
      fun v => h.storeAll_refused hsrc, h.restoreAll_spec hsrc, fun v => h.restoreAll_refused hsrc,
      h.clearStanding_spec hsrc, fun idx sub v h0 h1 h2 h3 => h.trim_spec hsrc h0 h1 h2 h3 v,
      fun idx sub v hi => h.trim_noIndex hi, fun b => ?_,
      fun n a h1 hn hsel hlen ha hp hl => h.peek_spec hsrc h1 hn hsel hlen ha hp hl⟩, h.descSelect_spec⟩
    · subst hk
      exact storeAll_stored_trim s hn hwf hx _
    · have hsub : (if b then 2 else 1 : BitVec 8).toNat = if b then 2 else 1 := by cases b <;> rfl
      obtain ⟨hclear, hheld, hend⟩ := h.program_spec hsrc b hsub
      exact ⟨fun ho hrun => ⟨_, rfl, hclear ho hrun⟩, fun hbad => ⟨_, rfl, hheld hbad⟩, ⟨_, rfl, hend⟩⟩
  · have h : s.ServesDict (windowSrc f) := ⟨hs, hr, ht, hu⟩
    exact ⟨dictRead_writing, fun hw => ⟨dictRead_tickNo h hw, dictRead_noIndex h hw, dictRead_noSub h hw⟩,
      dictWrite_reading, fun hw n hb ho => ⟨fun hf hi hsub => dictWrite_period h hf hw hb ho hi hsub,
        fun hf => dictWrite_length h hf hw, fun hf => dictWrite_denied h hf hw, dictWrite_readOnly h hw⟩⟩

end Sys2Proof
end
